-- ==== Sys2Proof/Word.lean ====
section
/-! DEFINITION. Sys2Proof/Word.lean: the widths of the Amrok's values (01 "Tokens and firing", 00 R4). -/

namespace Sys2Proof

/-- A byte of memory (00 R4). -/
abbrev Byte := BitVec 8

/-- A scalar token or a global register: 64 bits (01 R14, R28). -/
abbrev Word := BitVec 64

/-- A wide token or a wide global: 512 bits (01 R14, R28). -/
abbrev Wide := BitVec 512

end Sys2Proof
end

