-- ==== Sys2Proof/Config.lean ====
section
/-! DEFINITION. Sys2Proof/Config.lean: what the part fixes and the values the spec leaves open. An `opaque` constant has no body: nothing in Lean can say what it is. -/

namespace Sys2Proof.Config

/-- Towers of a package (00 R8). -/
def towers : Nat := 6

/-- Cells of a tower (00 R8). -/
def cellsPerTower : Nat := 128

/-- M-nodes of a tower (00 R8). -/
def nodesPerTower : Nat := 256

/-- Entries of the ready pool of a tower (00 R8, 07 R157). -/
def readyPool : Nat := 4096

/-- Live ASIDs at most (00 R8, 08 R192). -/
def liveAsids : Nat := 1024

/-- Hypotheses of a package, hypothesis 0 among them (00 R8, 10 R231). -/
def hypotheses : Nat := 4096

/-- FREE VALUE (log 5). Whether an inexact VEXP2 (op 0) or VLOG2 (op 1) of the type with code `ty` takes the upper of its two neighbours for the input bits `x`: the part takes the same one every time (05 R125). -/
opaque faithfulUp : (op ty x : Nat) → Bool

/-- FREE VALUE (log 6). Whether the L2 still has room for one more version when it holds `n` of them (10 R238). -/
opaque l2VersionRoom : (n : Nat) → Bool

/-- FREE VALUE (log 7). The value an outcome takes that the spec leaves open, at the count of moves `moves` and the site `site`. -/
opaque freeBits : (site moves : Nat) → Word

/-- FREE VALUE (log 18). The hash that chooses the home slice of a line of an address space, `none` for a global page: it is not architectural, and shows only while towers cannot reach each other (08 R180; 20 R389). -/
opaque homeHash : (tag : Option (BitVec 16)) → (line : Nat) → Nat

/-- FREE VALUE (log 18). The two hashes, 0 and 1, that index a bank of a slice's second-touch filter (08 R182). -/
opaque filterHash : (k : Nat) → (tag : Option (BitVec 16)) → (line : Nat) → Nat

/-- FREE VALUE (log 23). Whether an RSA-3072 signature verifies over an image under the Krybel root key in the fuses (23 R422). -/
opaque signatureOk : (image signature : List Byte) → Bool

/-- FREE VALUE (log 23). The RSASSA-PSS signature of the attestation key over a report (23 R424). -/
opaque attestSignature : (report : List Byte) → List Byte

/-- FREE VALUE (log 23). The package serial number (23 R424). -/
opaque serial : BitVec 128

/-- FREE VALUE (log 23). The sealing key that the system controller derives and never discloses (21 R415). -/
opaque sealKey : List Byte

/-- FREE VALUE (log 24). How many bytes of a mailbox buffer are the image of a SEAL or a CHECK (23 R425). -/
opaque imageBytes : (buffer : List Byte) → Nat

/-- FREE VALUE (log 24). How CHECK writes its verdict (23 R425). -/
opaque verdictWord : (good : Bool) → Word

/-- FREE VALUE (log 24). The length of a firmware image, from its first 64 bytes; where its signature begins; and its security version (23 R422, R428). -/
opaque firmwareBytes : (head : List Byte) → Nat

/-- FREE VALUE (log 24). Where the signature of a firmware image begins. -/
opaque firmwareSplit : (image : List Byte) → Nat

/-- FREE VALUE (log 24). The security version of a firmware image. -/
opaque firmwareVersion : (image : List Byte) → Nat

end Sys2Proof.Config
end

