-- ==== Sys2Proof/Syntax/Operand.lean ====
section
/-! DEFINITION. Sys2Proof/Syntax/Operand.lean: the operand forms an instruction word carries (02 R35 to R45) and the data an event carries. -/

namespace Sys2Proof

/-- An operand slot of an instruction: a, b, c or the predicate p (02 R36). -/
inductive Slot where
  | a | b | c | p
  deriving DecidableEq, Repr

/-- The predicate field pr: 00, 10 and 11; 01 is illegal (02 R35). -/
inductive Pred where
  | always
  | onFalse
  | onTrue
  deriving DecidableEq, Repr

/-- A 9-bit target: the discard code 0x1FF, or a slot of an instruction (02 R36). -/
inductive Tgt where
  | discard
  | to (slot : Slot) (iid : BitVec 7)
  deriving DecidableEq, Repr

/-- The 19-bit field T: dual form, or fan form of a slot, a row of eight and a mask (02 R37). -/
inductive Dst where
  | dual (t1 t2 : Tgt)
  | fan (slot : Slot) (row : BitVec 4) (mask : BitVec 8)
  deriving DecidableEq, Repr

/-- Scalar floating-point type (02 R42). -/
inductive FTy where
  | f64 | f32 | f16 | bf16
  deriving DecidableEq, Repr

/-- Wide floating-point lane type; 11 is illegal (02 R43). -/
inductive VTy where
  | f32 | f16 | bf16
  deriving DecidableEq, Repr

/-- Lane type of VAMOADD (09 R224). -/
inductive VAmoTy where
  | e32 | e64 | f32 | bf16
  deriving DecidableEq, Repr

/-- Wide integer lane shape (02 R43). -/
inductive Shape where
  | e8 | e16 | e32 | e64
  deriving DecidableEq, Repr

/-- Synchronisation scope (02 R44). -/
inductive Scope where
  | lens | die | pkg | sys
  deriving DecidableEq, Repr

/-- Size of a scalar atomic: 32 or 64 bits (02 R44). -/
inductive AmoSize where
  | w | d
  deriving DecidableEq, Repr

/-- Size of an HLDC: 1, 2, 4 or 8 bytes (10 R250). -/
inductive MemSize where
  | b | h | w | d
  deriving DecidableEq, Repr

/-- Condition of VCMP (02 R41). -/
inductive VCond where
  | eq | ne | lt | ltu
  deriving DecidableEq, Repr

/-- Condition of VFCMP (02 R41). -/
inductive VFCond where
  | eq | lt | le | un
  deriving DecidableEq, Repr

/-- Level of PREF (05 R147). -/
inductive PrefLevel where
  | l1 | l2
  deriving DecidableEq, Repr

/-- Operation of CLINE (17 R356). -/
inductive ClineOp where
  | ic | wb | wbi
  deriving DecidableEq, Repr

/-- What a stop request asks for: HALT of another cell, or a lost link (17 R332, R355; 20 R389). -/
inductive StopReq where
  | halt | linkLost
  deriving DecidableEq, Repr

/-- A far access as its source sends it: a load of n bytes, a store of bytes, or an atomic of n bytes with its operation and operands (20 R390): 0 to 7 as AMO1 numbers them, 8 AMOSWP, 9 AMOCAS, 10 AMOFADD, 11 to 14 VAMOADD by lane type. -/
inductive FarOp where
  | load (n : Nat)
  | store (bytes : List Byte)
  | atomic (op : Nat) (n : Nat) (b : Wide) (c : Word)
  /-- A page that migrates here: its ASID, its virtual page and its 64 KiB (20 R400). -/
  | takePage (asid : BitVec 16) (page : Nat) (bytes : List (BitVec 8))
  deriving DecidableEq, Repr

/-- A boot stage as the ROM finds it: its bytes, its signature and its security version (23 R422). -/
structure BootStage where
  /-- The bytes that are measured and run. -/
  image : List Byte
  /-- The RSA-3072 signature beside them. -/
  signature : List Byte
  /-- The security version compared with the fuse counter. -/
  version : Nat
  deriving DecidableEq, Repr

/-- An engine that holds a handed-over command: an M-node, or a streamer command (18 R380). -/
inductive EngineRef where
  | node (tw : Nat) (n : Nat)
  | streamer (id : Nat)
  deriving DecidableEq, Repr

end Sys2Proof
end

