-- ==== Sys2Proof/Syntax.lean ====
section
/-! DEFINITION. Sys2Proof/Syntax.lean: the one inductive `Instr` of the Flestra Amrok, one constructor per row of spec/opcode_table.json: the 238 encoded instructions of the opcode map (02 R41) and the 107 events, the steps of the part and of its environment that have no encoding (95). -/

namespace Sys2Proof

/-- One step of the part. The encoded instructions carry the operands of their word (02 R34); an event carries what selects it: the context `c` (a task on a lens or a cell node of a fabric load), the tower `tw`, the window `win`, and what the outside world hands over. -/
inductive Instr where
  /-- `GREAD` (R87). Delivers the value of global register gN selected under R25, waiting for older clauses' writes. -/
  | gread (reg : BitVec 6) (d : Dst)
  /-- `WREAD` (R87). Delivers the 512-bit value of wide global wN selected under R25. -/
  | wread (reg : BitVec 4) (d : Dst)
  /-- `GWRITE` (R88). Records a write of its scalar slot-a token to gN, counted under R19 and applied at commit. -/
  | gwrite (pr : Pred) (reg : BitVec 6)
  /-- `WWRITE` (R88). Records a write of its wide slot-a token to wN, counted under R19 and applied at commit. -/
  | wwrite (pr : Pred) (reg : BitVec 4)
  /-- `GENS` (R89). Delivers the sign-extended 16-bit immediate. -/
  | gens (imm : BitVec 16) (t : Tgt)
  /-- `GENU` (R89). Delivers the zero-extended 16-bit immediate. -/
  | genu (imm : BitVec 16) (t : Tgt)
  /-- `APPC` (R89). Delivers slot a shifted left 16 bits with the 16-bit immediate appended. -/
  | appc (imm : BitVec 16) (t : Tgt)
  /-- `MOV` (R90). Delivers its slot-a token, scalar or wide, unchanged to its targets. -/
  | mov (pr : Pred) (d : Dst)
  /-- `MOVI` (R90). Delivers the sign-extended 10-bit immediate. -/
  | movi (pr : Pred) (imm : BitVec 10) (t : Tgt)
  /-- `NOP` (R91). Does nothing and delivers no token. -/
  | nop (pr : Pred)
  /-- `NULL` (R92). Delivers a null token to every target when it fires. -/
  | null (pr : Pred) (d : Dst)
  /-- `ADD` (R93). Delivers a + b modulo 2^64. -/
  | add (pr : Pred) (d : Dst)
  /-- `SUB` (R93). Delivers a - b modulo 2^64. -/
  | sub (pr : Pred) (d : Dst)
  /-- `AND` (R93). Delivers a AND b. -/
  | and (pr : Pred) (d : Dst)
  /-- `OR` (R93). Delivers a OR b. -/
  | or (pr : Pred) (d : Dst)
  /-- `XOR` (R93). Delivers a XOR b. -/
  | xor (pr : Pred) (d : Dst)
  /-- `SHL` (R93). Delivers a shifted left by b[5:0]. -/
  | shl (pr : Pred) (d : Dst)
  /-- `SHR` (R93). Delivers a shifted right logically by b[5:0]. -/
  | shr (pr : Pred) (d : Dst)
  /-- `SRA` (R93). Delivers a shifted right arithmetically by b[5:0]. -/
  | sra (pr : Pred) (d : Dst)
  /-- `MIN` (R93). Delivers the signed smaller of a and b. -/
  | min (pr : Pred) (d : Dst)
  /-- `MAX` (R93). Delivers the signed larger of a and b. -/
  | max (pr : Pred) (d : Dst)
  /-- `MINU` (R93). Delivers the unsigned smaller of a and b. -/
  | minu (pr : Pred) (d : Dst)
  /-- `MAXU` (R93). Delivers the unsigned larger of a and b. -/
  | maxu (pr : Pred) (d : Dst)
  /-- `ADDI` (R94). Delivers a plus the sign-extended immediate. -/
  | addi (pr : Pred) (imm : BitVec 10) (t : Tgt)
  /-- `SUBI` (R94). Delivers a minus the sign-extended immediate. -/
  | subi (pr : Pred) (imm : BitVec 10) (t : Tgt)
  /-- `ANDI` (R94). Delivers a AND the sign-extended immediate. -/
  | andi (pr : Pred) (imm : BitVec 10) (t : Tgt)
  /-- `ORI` (R94). Delivers a OR the sign-extended immediate. -/
  | ori (pr : Pred) (imm : BitVec 10) (t : Tgt)
  /-- `XORI` (R94). Delivers a XOR the sign-extended immediate. -/
  | xori (pr : Pred) (imm : BitVec 10) (t : Tgt)
  /-- `SHLI` (R94). Delivers a shifted left by imm10[5:0]. -/
  | shli (pr : Pred) (imm : BitVec 10) (t : Tgt)
  /-- `SHRI` (R94). Delivers a shifted right logically by imm10[5:0]. -/
  | shri (pr : Pred) (imm : BitVec 10) (t : Tgt)
  /-- `SRAI` (R94). Delivers a shifted right arithmetically by imm10[5:0]. -/
  | srai (pr : Pred) (imm : BitVec 10) (t : Tgt)
  /-- `MUL` (R95). Delivers the low 64 bits of a times b. -/
  | mul (pr : Pred) (d : Dst)
  /-- `MULH` (R95). Delivers the high 64 bits of the signed product. -/
  | mulh (pr : Pred) (d : Dst)
  /-- `MULHU` (R95). Delivers the high 64 bits of the unsigned product. -/
  | mulhu (pr : Pred) (d : Dst)
  /-- `DIV` (R95). Delivers the signed quotient rounded toward zero, with the borderline cases of R31. -/
  | div (pr : Pred) (d : Dst)
  /-- `DIVU` (R95). Delivers the unsigned quotient. -/
  | divu (pr : Pred) (d : Dst)
  /-- `REM` (R95). Delivers the signed remainder with the sign of a. -/
  | rem (pr : Pred) (d : Dst)
  /-- `REMU` (R95). Delivers the unsigned remainder. -/
  | remu (pr : Pred) (d : Dst)
  /-- `MULI` (R95). Delivers the low 64 bits of a times the sign-extended immediate. -/
  | muli (pr : Pred) (imm : BitVec 10) (t : Tgt)
  /-- `CLZ` (R96). Delivers the count of leading zero bits of a. -/
  | clz (pr : Pred) (d : Dst)
  /-- `CTZ` (R96). Delivers the count of trailing zero bits of a. -/
  | ctz (pr : Pred) (d : Dst)
  /-- `POPC` (R96). Delivers the count of one bits of a. -/
  | popc (pr : Pred) (d : Dst)
  /-- `EXTS8` (R96). Delivers a[7:0] sign-extended. -/
  | exts8 (pr : Pred) (d : Dst)
  /-- `EXTS16` (R96). Delivers a[15:0] sign-extended. -/
  | exts16 (pr : Pred) (d : Dst)
  /-- `EXTS32` (R96). Delivers a[31:0] sign-extended. -/
  | exts32 (pr : Pred) (d : Dst)
  /-- `EXTZ8` (R96). Delivers a[7:0] zero-extended. -/
  | extz8 (pr : Pred) (d : Dst)
  /-- `EXTZ16` (R96). Delivers a[15:0] zero-extended. -/
  | extz16 (pr : Pred) (d : Dst)
  /-- `EXTZ32` (R96). Delivers a[31:0] zero-extended. -/
  | extz32 (pr : Pred) (d : Dst)
  /-- `BFX` (R97). Extracts a bit field of a described by control b, sign- or zero-extended. -/
  | bfx (pr : Pred) (d : Dst)
  /-- `BFI` (R98). Inserts the low bits of b into base a at the field described by control c. -/
  | bfi (pr : Pred) (d : Dst)
  /-- `LEA` (R99). Delivers a + (b << shift). -/
  | lea (pr : Pred) (shift : BitVec 2) (d : Dst)
  /-- `LEAI` (R99). Delivers a + (sign-extended immediate << shift). -/
  | leai (pr : Pred) (shift : BitVec 2) (imm : BitVec 10) (t : Tgt)
  /-- `TEQ` (R100). Delivers 1 when a = b, else 0. -/
  | teq (pr : Pred) (d : Dst)
  /-- `TNE` (R100). Delivers 1 when a differs from b. -/
  | tne (pr : Pred) (d : Dst)
  /-- `TLT` (R100). Delivers 1 when a < b signed. -/
  | tlt (pr : Pred) (d : Dst)
  /-- `TLE` (R100). Delivers 1 when a <= b signed. -/
  | tle (pr : Pred) (d : Dst)
  /-- `TLTU` (R100). Delivers 1 when a < b unsigned. -/
  | tltu (pr : Pred) (d : Dst)
  /-- `TLEU` (R100). Delivers 1 when a <= b unsigned. -/
  | tleu (pr : Pred) (d : Dst)
  /-- `TEQI` (R100). Delivers 1 when a equals the sign-extended immediate. -/
  | teqi (pr : Pred) (imm : BitVec 10) (t : Tgt)
  /-- `TNEI` (R100). Delivers 1 when a differs from the immediate. -/
  | tnei (pr : Pred) (imm : BitVec 10) (t : Tgt)
  /-- `TLTI` (R100). Delivers 1 when a is signed below the immediate. -/
  | tlti (pr : Pred) (imm : BitVec 10) (t : Tgt)
  /-- `TLEI` (R100). Delivers 1 when a is signed at most the immediate. -/
  | tlei (pr : Pred) (imm : BitVec 10) (t : Tgt)
  /-- `TLTUI` (R100). Delivers 1 when a is unsigned below the immediate. -/
  | tltui (pr : Pred) (imm : BitVec 10) (t : Tgt)
  /-- `TLEUI` (R100). Delivers 1 when a is unsigned at most the immediate. -/
  | tleui (pr : Pred) (imm : BitVec 10) (t : Tgt)
  /-- `FADD` (R102). Delivers a + b rounded in the selected FP type. -/
  | fadd (pr : Pred) (y : FTy) (d : Dst)
  /-- `FSUB` (R102). Delivers a - b rounded in the selected FP type. -/
  | fsub (pr : Pred) (y : FTy) (d : Dst)
  /-- `FMUL` (R102). Delivers a times b rounded in the selected FP type. -/
  | fmul (pr : Pred) (y : FTy) (d : Dst)
  /-- `FDIV` (R102). Delivers a divided by b rounded in the selected FP type. -/
  | fdiv (pr : Pred) (y : FTy) (d : Dst)
  /-- `FMIN` (R103). Delivers minimumNumber of a and b. -/
  | fmin (pr : Pred) (y : FTy) (d : Dst)
  /-- `FMAX` (R103). Delivers maximumNumber of a and b. -/
  | fmax (pr : Pred) (y : FTy) (d : Dst)
  /-- `FSQRT` (R103). Delivers the square root of a. -/
  | fsqrt (pr : Pred) (y : FTy) (d : Dst)
  /-- `FSGN` (R103). Delivers a with its sign bit replaced by that of b, as a bit operation. -/
  | fsgn (pr : Pred) (y : FTy) (d : Dst)
  /-- `FFMA` (R104). Delivers a times b plus c rounded once. -/
  | ffma (pr : Pred) (y : FTy) (d : Dst)
  /-- `FFMS` (R104). Delivers a times b minus c rounded once. -/
  | ffms (pr : Pred) (y : FTy) (d : Dst)
  /-- `FFNMA` (R104). Delivers -(a times b) plus c rounded once. -/
  | ffnma (pr : Pred) (y : FTy) (d : Dst)
  /-- `FFNMS` (R104). Delivers -(a times b) minus c rounded once. -/
  | ffnms (pr : Pred) (y : FTy) (d : Dst)
  /-- `FCVT` (R105). Converts a from the source FP type to the destination FP type. -/
  | fcvt (pr : Pred) (y : FTy) (z : FTy) (d : Dst)
  /-- `FTOI` (R106). Converts FP a to a signed or unsigned 64-bit integer, rounding or truncating, with saturation. -/
  | ftoi (pr : Pred) (y : FTy) (sgn : Bool) (trunc : Bool) (d : Dst)
  /-- `ITOF` (R107). Converts the 64-bit integer a to the selected FP type. -/
  | itof (pr : Pred) (y : FTy) (sgn : Bool) (d : Dst)
  /-- `FEQ` (R108). Delivers 1 when a equals b as FP values. -/
  | feq (pr : Pred) (y : FTy) (d : Dst)
  /-- `FLT` (R108). Delivers 1 when a < b as FP values. -/
  | flt (pr : Pred) (y : FTy) (d : Dst)
  /-- `FLE` (R108). Delivers 1 when a <= b as FP values. -/
  | fle (pr : Pred) (y : FTy) (d : Dst)
  /-- `FCLASS` (R109). Delivers a one-hot word giving the class of a. -/
  | fclass (pr : Pred) (y : FTy) (d : Dst)
  /-- `BRO` (R113). Branches to the clause at a 16-byte scaled offset from its own clause. -/
  | bro (pr : Pred) (exit : BitVec 3) (off : BitVec 20)
  /-- `BR` (R113). Branches to the clause address in slot a. -/
  | br (pr : Pred)
  /-- `CALLO` (R114). Branches as BRO and writes the link to g63 at commit. -/
  | callo (pr : Pred) (exit : BitVec 3) (off : BitVec 20)
  /-- `CALL` (R114). Branches to slot a and writes the link to g63 at commit. -/
  | call (pr : Pred)
  /-- `RET` (R115). Branches to slot a, predicted through the return-address stack. -/
  | ret (pr : Pred)
  /-- `EXITT` (R116). Ends the task at the commit of its clause. -/
  | exitt (pr : Pred)
  /-- `YIELD` (R117). At commit gives the lens back and returns the task to the ready pool, resuming at the target. -/
  | yield (pr : Pred) (exit : BitVec 3) (off : BitVec 20)
  /-- `SCALL` (R118). At commit stops the task after its clause and sends a service request to the supervisor cell. -/
  | scall (pr : Pred) (exit : BitVec 3) (svc : BitVec 20)
  /-- `VADD` (R123). Adds wide lanes modulo 2^e. -/
  | vadd (pr : Pred) (sh : Shape) (d : Dst)
  /-- `VSUB` (R123). Subtracts wide lanes modulo 2^e. -/
  | vsub (pr : Pred) (sh : Shape) (d : Dst)
  /-- `VMUL` (R123). Delivers the low e bits of lane products. -/
  | vmul (pr : Pred) (sh : Shape) (d : Dst)
  /-- `VMULH` (R123). Delivers the high e bits of signed lane products. -/
  | vmulh (pr : Pred) (sh : Shape) (d : Dst)
  /-- `VMIN` (R123). Delivers the signed lane minima. -/
  | vmin (pr : Pred) (sh : Shape) (d : Dst)
  /-- `VMAX` (R123). Delivers the signed lane maxima. -/
  | vmax (pr : Pred) (sh : Shape) (d : Dst)
  /-- `VAND` (R123). Delivers the lane-wise AND. -/
  | vand (pr : Pred) (sh : Shape) (d : Dst)
  /-- `VOR` (R123). Delivers the lane-wise OR. -/
  | vor (pr : Pred) (sh : Shape) (d : Dst)
  /-- `VXOR` (R123). Delivers the lane-wise XOR. -/
  | vxor (pr : Pred) (sh : Shape) (d : Dst)
  /-- `VSHL` (R123). Shifts each lane left by the matching lane of b. -/
  | vshl (pr : Pred) (sh : Shape) (d : Dst)
  /-- `VSHR` (R123). Shifts each lane right logically. -/
  | vshr (pr : Pred) (sh : Shape) (d : Dst)
  /-- `VSRA` (R123). Shifts each lane right arithmetically. -/
  | vsra (pr : Pred) (sh : Shape) (d : Dst)
  /-- `VFADD` (R124). Adds FP lanes. -/
  | vfadd (pr : Pred) (y : VTy) (d : Dst)
  /-- `VFSUB` (R124). Subtracts FP lanes. -/
  | vfsub (pr : Pred) (y : VTy) (d : Dst)
  /-- `VFMUL` (R124). Multiplies FP lanes. -/
  | vfmul (pr : Pred) (y : VTy) (d : Dst)
  /-- `VFDIV` (R124). Divides FP lanes. -/
  | vfdiv (pr : Pred) (y : VTy) (d : Dst)
  /-- `VFMIN` (R124). Delivers minimumNumber per FP lane. -/
  | vfmin (pr : Pred) (y : VTy) (d : Dst)
  /-- `VFMAX` (R124). Delivers maximumNumber per FP lane. -/
  | vfmax (pr : Pred) (y : VTy) (d : Dst)
  /-- `VFSQRT` (R124). Delivers the square root of each FP lane. -/
  | vfsqrt (pr : Pred) (y : VTy) (d : Dst)
  /-- `VRCP` (R125). Delivers 1/a per FP lane rounded once. -/
  | vrcp (pr : Pred) (y : VTy) (d : Dst)
  /-- `VRSQ` (R125). Delivers 1/sqrt(a) per FP lane rounded once. -/
  | vrsq (pr : Pred) (y : VTy) (d : Dst)
  /-- `VEXP2` (R125). Delivers 2^a per FP lane, faithfully rounded. -/
  | vexp2 (pr : Pred) (y : VTy) (d : Dst)
  /-- `VLOG2` (R125). Delivers log2 a per FP lane, faithfully rounded. -/
  | vlog2 (pr : Pred) (y : VTy) (d : Dst)
  /-- `VFFMA` (R124). Delivers a times b plus c per FP lane rounded once. -/
  | vffma (pr : Pred) (y : VTy) (d : Dst)
  /-- `VFFMS` (R124). Delivers a times b minus c per FP lane rounded once. -/
  | vffms (pr : Pred) (y : VTy) (d : Dst)
  /-- `VFFNMA` (R124). Delivers -(a times b) plus c per FP lane rounded once. -/
  | vffnma (pr : Pred) (y : VTy) (d : Dst)
  /-- `VFFNMS` (R124). Delivers -(a times b) minus c per FP lane rounded once. -/
  | vffnms (pr : Pred) (y : VTy) (d : Dst)
  /-- `VCVT` (R130). Converts a range of elements of a wide token between format codes under a scalar control word. -/
  | vcvt (pr : Pred) (d : Dst)
  /-- `VQNT` (R131). Quantises the lanes of a and c into blocks or groups of a scaled format. -/
  | vqnt (pr : Pred) (d : Dst)
  /-- `VDQNT` (R132). Decodes packed blocks of a scaled format into FP lanes. -/
  | vdqnt (pr : Pred) (d : Dst)
  /-- `VCMP` (R126). Writes each integer lane all ones or zeros by the EQ, NE, LT or LTU condition. -/
  | vcmp (pr : Pred) (sh : Shape) (cond : VCond) (d : Dst)
  /-- `VFCMP` (R126). Writes each FP lane all ones or zeros by the EQ, LT, LE or UN condition. -/
  | vfcmp (pr : Pred) (y : VTy) (cond : VFCond) (d : Dst)
  /-- `VSEL` (R127). Selects each lane from a or b by the mask c. -/
  | vsel (pr : Pred) (sh : Shape) (d : Dst)
  /-- `VBCAST` (R128). Broadcasts a scalar into every lane. -/
  | vbcast (pr : Pred) (sh : Shape) (d : Dst)
  /-- `VEXTR` (R128). Delivers one lane of a zero-extended as a scalar. -/
  | vextr (pr : Pred) (sh : Shape) (d : Dst)
  /-- `VINS` (R128). Replaces one lane of a with a scalar. -/
  | vins (pr : Pred) (sh : Shape) (d : Dst)
  /-- `VSHUF` (R129). Permutes the lanes of a by the index lanes of b. -/
  | vshuf (pr : Pred) (sh : Shape) (d : Dst)
  /-- `VRED` (R134). Reduces all lanes to a scalar in a fixed order under a control word. -/
  | vred (pr : Pred) (d : Dst)
  /-- `VSCAN` (R135). Computes an inclusive or exclusive lane scan under a control word. -/
  | vscan (pr : Pred) (d : Dst)
  /-- `VDOT` (R136). Delivers the dot product of the lanes of a and b as a scalar. -/
  | vdot (pr : Pred) (d : Dst)
  /-- `LD_ZB` (R141). Loads one byte zero-extended. -/
  | ldZb (pr : Pred) (eff : BitVec 5) (imm : BitVec 9) (t : Tgt)
  /-- `LD_ZH` (R141). Loads two bytes zero-extended. -/
  | ldZh (pr : Pred) (eff : BitVec 5) (imm : BitVec 9) (t : Tgt)
  /-- `LD_ZW` (R141). Loads four bytes zero-extended. -/
  | ldZw (pr : Pred) (eff : BitVec 5) (imm : BitVec 9) (t : Tgt)
  /-- `LD_D` (R141). Loads eight bytes. -/
  | ldD (pr : Pred) (eff : BitVec 5) (imm : BitVec 9) (t : Tgt)
  /-- `LD_SB` (R141). Loads one byte sign-extended. -/
  | ldSb (pr : Pred) (eff : BitVec 5) (imm : BitVec 9) (t : Tgt)
  /-- `LD_SH` (R141). Loads two bytes sign-extended. -/
  | ldSh (pr : Pred) (eff : BitVec 5) (imm : BitVec 9) (t : Tgt)
  /-- `LD_SW` (R141). Loads four bytes sign-extended. -/
  | ldSw (pr : Pred) (eff : BitVec 5) (imm : BitVec 9) (t : Tgt)
  /-- `ST_B` (R142). Stores one byte at commit. -/
  | stB (pr : Pred) (eff : BitVec 5) (imm : BitVec 18)
  /-- `ST_H` (R142). Stores two bytes at commit. -/
  | stH (pr : Pred) (eff : BitVec 5) (imm : BitVec 18)
  /-- `ST_W` (R142). Stores four bytes at commit. -/
  | stW (pr : Pred) (eff : BitVec 5) (imm : BitVec 18)
  /-- `ST_D` (R142). Stores eight bytes at commit. -/
  | stD (pr : Pred) (eff : BitVec 5) (imm : BitVec 18)
  /-- `LDACQ` (R143). Loads eight aligned bytes as an acquire. -/
  | ldacq (pr : Pred) (eff : BitVec 5) (imm : BitVec 9) (t : Tgt)
  /-- `STREL` (R143). Stores eight aligned bytes as a release. -/
  | strel (pr : Pred) (eff : BitVec 5) (imm : BitVec 18)
  /-- `VLD` (R144). Loads 64 bytes as a wide token. -/
  | vld (pr : Pred) (eff : BitVec 5) (imm : BitVec 9) (t : Tgt)
  /-- `VST` (R144). Stores a wide token as 64 bytes at commit. -/
  | vst (pr : Pred) (eff : BitVec 5) (imm : BitVec 18)
  /-- `VLDS` (R145). Loads lanes from a base at a signed byte stride. -/
  | vlds (pr : Pred) (eff : BitVec 5) (sh : Shape) (t : Tgt)
  /-- `VSTS` (R145). Stores lanes to a base at a signed byte stride at commit. -/
  | vsts (pr : Pred) (eff : BitVec 5) (sh : Shape)
  /-- `VGATH` (R146). Gathers lanes from base plus scaled indices. -/
  | vgath (pr : Pred) (eff : BitVec 5) (sh : Shape) (uns : Bool) (scale : BitVec 2) (t : Tgt)
  /-- `VSCAT` (R146). Scatters lanes to base plus scaled indices at commit. -/
  | vscat (pr : Pred) (eff : BitVec 5) (sh : Shape) (uns : Bool) (scale : BitVec 2)
  /-- `PREF` (R147). Prefetches a line into the L1 or L2 without faulting. -/
  | pref (pr : Pred) (eff : BitVec 5) (wr : Bool) (lvl : PrefLevel)
  /-- `AMOADD` (R222). Atomically adds b to memory and delivers the old value. -/
  | amoadd (pr : Pred) (eff : BitVec 5) (size : AmoSize) (sc : Scope) (rlx : Bool) (t : Tgt)
  /-- `AMOAND` (R222). Atomically ANDs b into memory and delivers the old value. -/
  | amoand (pr : Pred) (eff : BitVec 5) (size : AmoSize) (sc : Scope) (rlx : Bool) (t : Tgt)
  /-- `AMOOR` (R222). Atomically ORs b into memory and delivers the old value. -/
  | amoor (pr : Pred) (eff : BitVec 5) (size : AmoSize) (sc : Scope) (rlx : Bool) (t : Tgt)
  /-- `AMOXOR` (R222). Atomically XORs b into memory and delivers the old value. -/
  | amoxor (pr : Pred) (eff : BitVec 5) (size : AmoSize) (sc : Scope) (rlx : Bool) (t : Tgt)
  /-- `AMOMIN` (R222). Atomically stores the signed minimum and delivers the old value. -/
  | amomin (pr : Pred) (eff : BitVec 5) (size : AmoSize) (sc : Scope) (rlx : Bool) (t : Tgt)
  /-- `AMOMAX` (R222). Atomically stores the signed maximum and delivers the old value. -/
  | amomax (pr : Pred) (eff : BitVec 5) (size : AmoSize) (sc : Scope) (rlx : Bool) (t : Tgt)
  /-- `AMOMINU` (R222). Atomically stores the unsigned minimum and delivers the old value. -/
  | amominu (pr : Pred) (eff : BitVec 5) (size : AmoSize) (sc : Scope) (rlx : Bool) (t : Tgt)
  /-- `AMOMAXU` (R222). Atomically stores the unsigned maximum and delivers the old value. -/
  | amomaxu (pr : Pred) (eff : BitVec 5) (size : AmoSize) (sc : Scope) (rlx : Bool) (t : Tgt)
  /-- `AMOSWP` (R223). Atomically swaps b into memory and delivers the old value. -/
  | amoswp (pr : Pred) (eff : BitVec 5) (size : AmoSize) (sc : Scope) (rlx : Bool) (t : Tgt)
  /-- `AMOCAS` (R223). Atomically stores c when memory equals b and delivers the old value. -/
  | amocas (pr : Pred) (eff : BitVec 5) (size : AmoSize) (sc : Scope) (rlx : Bool) (t : Tgt)
  /-- `AMOFADD` (R223). Atomically adds b as FP32 or FP64 with RNE and delivers the old value. -/
  | amofadd (pr : Pred) (eff : BitVec 5) (size : AmoSize) (sc : Scope) (rlx : Bool) (t : Tgt)
  /-- `VAMOADD` (R224). Atomically adds a wide addend lane-wise to an aligned 64-byte line. -/
  | vamoadd (pr : Pred) (eff : BitVec 5) (y : VAmoTy) (sc : Scope) (rlx : Bool) (t : Tgt)
  /-- `FENCE_ACQ` (R214). Orders earlier loads before later loads and stores at its scope. -/
  | fenceAcq (pr : Pred) (eff : BitVec 5) (sc : Scope)
  /-- `FENCE_REL` (R214). Orders earlier loads and stores before later stores at its scope. -/
  | fenceRel (pr : Pred) (eff : BitVec 5) (sc : Scope)
  /-- `FENCE_ACQREL` (R214). Acts as both an acquire and a release fence at its scope. -/
  | fenceAcqrel (pr : Pred) (eff : BitVec 5) (sc : Scope)
  /-- `FENCE_SC` (R214). Orders all earlier accesses before all later accesses at its scope. -/
  | fenceSc (pr : Pred) (eff : BitVec 5) (sc : Scope)
  /-- `FENCE_ENGINE` (R214). Orders earlier loads and stores before engine commands of younger clauses. -/
  | fenceEngine (pr : Pred) (eff : BitVec 5) (sc : Scope)
  /-- `WAITV` (R226). Reads an aligned word and, if it equals b, waits for another observer's store to its line or 64 us. -/
  | waitv (pr : Pred) (eff : BitVec 5) (acq : Bool) (t : Tgt)
  /-- `BARA` (R228). Atomically arrives at a barrier word, advancing gen on the last arrival. -/
  | bara (pr : Pred) (eff : BitVec 5) (sc : Scope) (t : Tgt)
  /-- `BARW` (R229). Waits until a barrier's generation differs from b, then acquires. -/
  | barw (pr : Pred) (eff : BitVec 5) (sc : Scope) (t : Tgt)
  /-- `TSPAWN` (R157). Submits a continuation record without a stream at commit. -/
  | tspawn (pr : Pred) (eff : BitVec 5)
  /-- `TSUBMIT` (R157). Submits a continuation record to a submission stream with its ranges at commit. -/
  | tsubmit (pr : Pred) (eff : BitVec 5)
  /-- `TDEP` (R160). Adds a dependence edge from a predecessor record to a NEW successor record. -/
  | tdep (pr : Pred) (eff : BitVec 5)
  /-- `TWAIT` (R167). Polls a record's state, or waits for its terminal state and delivers cval. -/
  | twait (pr : Pred) (eff : BitVec 5) (poll : Bool) (t : Tgt)
  /-- `TRANGE` (R162). Releases declared-range entries of the running task at commit. -/
  | trange (pr : Pred) (eff : BitVec 5)
  /-- `TPRIO` (R166). Sets the priority class of the running task or of a record of the same ASID. -/
  | tprio (pr : Pred) (eff : BitVec 5)
  /-- `AMSEND` (R169). Sends an active message to a destination cell once an inbox entry is granted. -/
  | amsend (pr : Pred) (eff : BitVec 5)
  /-- `AMREPLY` (R173). Sends a reply to the sender of the current handler's message. -/
  | amreply (pr : Pred) (eff : BitVec 5)
  /-- `HTSET` (R170). Writes a handler-table entry of the task's ASID at commit. -/
  | htset (pr : Pred) (eff : BitVec 5)
  /-- `INBOX` (R173). Delivers the current handler's message, or takes a polled head message from a lens cell. -/
  | inbox (pr : Pred) (eff : BitVec 5) (take : Bool) (t : Tgt)
  /-- `HNEW` (R246). Allocates a new LIVE hypothesis as a child of HYPCUR. -/
  | hnew (pr : Pred) (eff : BitVec 5) (t : Tgt)
  /-- `HENTER` (R247). Sets HYPCUR to a named hypothesis for younger clauses. -/
  | henter (pr : Pred) (eff : BitVec 5)
  /-- `HLEAVE` (R247). Sets HYPCUR to the parent of its current value. -/
  | hleave (pr : Pred) (eff : BitVec 5)
  /-- `HRESOLVE` (R248). Refutes one hypothesis and confirms another as one step and delivers a status. -/
  | hresolve (pr : Pred) (eff : BitVec 5) (t : Tgt)
  /-- `HSTAT` (R249). Delivers a hypothesis table entry, or a package summary. -/
  | hstat (pr : Pred) (eff : BitVec 5) (sum : Bool) (t : Tgt)
  /-- `HLDC` (R250). Loads from hypothesis 0 ignoring HYPCUR, optionally as an acquire. -/
  | hldc (pr : Pred) (eff : BitVec 5) (acq : Bool) (sgn : Bool) (size : MemSize) (t : Tgt)
  /-- `TDEF` (R265). Installs a tile-table entry and optionally the bank format at the node. -/
  | tdef (pr : Pred) (eff : BitVec 5) (ta : BitVec 5)
  /-- `TLOAD` (R266). Fills a tile from memory rows at a stride without conversion. -/
  | tload (pr : Pred) (eff : BitVec 5) (ta : BitVec 5)
  /-- `TLOAD_EDGE` (R314). Fills a tile from q wide tokens popped from an M-node edge port in a pinned clause. -/
  | tloadEdge (pr : Pred) (eff : BitVec 5) (ta : BitVec 5) (port : BitVec 3)
  /-- `TSTORE` (R266). Writes a tile to memory rows at a stride. -/
  | tstore (pr : Pred) (eff : BitVec 5) (ta : BitVec 5)
  /-- `TSTORE_EDGE` (R314). Pushes a tile's bit-plane bytes as q wide tokens on an M-node edge port in a pinned clause. -/
  | tstoreEdge (pr : Pred) (eff : BitVec 5) (ta : BitVec 5) (port : BitVec 3)
  /-- `TFREE` (R267). Empties a tile once earlier readers have read it, keeping its definition. -/
  | tfree (pr : Pred) (eff : BitVec 5) (ta : BitVec 5)
  /-- `MMA` (R268). Multiplies tiles A and B and accumulates in FA48 under the sum order of R81. -/
  | mma (pr : Pred) (eff : BitVec 5) (ta : BitVec 5) (tb : BitVec 5)
  /-- `MMAI` (R268). Multiplies integer tiles and accumulates in INT48. -/
  | mmai (pr : Pred) (eff : BitVec 5) (ta : BitVec 5) (tb : BitVec 5)
  /-- `MACCRD` (R271). Converts accumulator words into a tile in the bank's format. -/
  | maccrd (pr : Pred) (eff : BitVec 5) (ta : BitVec 5)
  /-- `MACCLR` (R270). Sets all words of an accumulator to zero. -/
  | macclr (pr : Pred) (eff : BitVec 5)
  /-- `MACCLD` (R271). Loads accumulator words exactly from a tile. -/
  | maccld (pr : Pred) (eff : BitVec 5) (ta : BitVec 5)
  /-- `MEW` (R272). Applies RELU, SCALE, ADDS, ADDT or MULT to accumulator words. -/
  | mew (pr : Pred) (eff : BitVec 5) (ta : BitVec 5)
  /-- `MCOPY` (R273). Copies and converts tile tb into tile ta, optionally transposed. -/
  | mcopy (pr : Pred) (eff : BitVec 5) (ta : BitVec 5) (tb : BitVec 5)
  /-- `MSPLAT` (R274). Writes every element of a tile with one converted value. -/
  | msplat (pr : Pred) (eff : BitVec 5) (ta : BitVec 5)
  /-- `SCOPY` (R286). Queues a bit-for-bit copy between two descriptors and delivers a ticket. -/
  | scopy (pr : Pred) (eff : BitVec 5) (queue : BitVec 2) (t : Tgt)
  /-- `SGATH` (R287). Queues a gather of source runs selected by an index array. -/
  | sgath (pr : Pred) (eff : BitVec 5) (queue : BitVec 2) (t : Tgt)
  /-- `SSCAT` (R287). Queues a scatter to destination runs selected by an index array. -/
  | sscat (pr : Pred) (eff : BitVec 5) (queue : BitVec 2) (t : Tgt)
  /-- `SLAYOUT` (R286). Queues a converting copy between any formats and layouts. -/
  | slayout (pr : Pred) (eff : BitVec 5) (queue : BitVec 2) (t : Tgt)
  /-- `SFILL` (R286). Queues a fill of every destination element with one value. -/
  | sfill (pr : Pred) (eff : BitVec 5) (queue : BitVec 2) (t : Tgt)
  /-- `SFENCE` (R288). Waits for a streamer or node ticket and performs a release of its writes at a scope. -/
  | sfence (pr : Pred) (eff : BitVec 5) (sc : Scope) (t : Tgt)
  /-- `SWAIT` (R288). Waits for or polls completion of a streamer or node ticket. -/
  | swait (pr : Pred) (eff : BitVec 5) (poll : Bool) (t : Tgt)
  /-- `VWREG` (R299). Registers a view of a master and delivers a handle or error code. -/
  | vwreg (pr : Pred) (eff : BitVec 5) (t : Tgt)
  /-- `VWDROP` (R300). Drops a view at commit. -/
  | vwdrop (pr : Pred) (eff : BitVec 5)
  /-- `VWSYNC` (R301). Releases, advances dirty or forced master-tile epochs and waits until views catch up. -/
  | vwsync (pr : Pred) (eff : BitVec 5) (force : Bool) (t : Tgt)
  /-- `VWQRY` (R302). Delivers the epoch and state of a view tile or master tile. -/
  | vwqry (pr : Pred) (eff : BitVec 5) (master : Bool) (t : Tgt)
  /-- `VWPOL` (R303). Sets the read policy of view tiles at commit. -/
  | vwpol (pr : Pred) (eff : BitVec 5)
  /-- `PLOAD` (R323). Checks a configuration image, clears its rectangle and configures a fabric load. -/
  | pload (pr : Pred) (eff : BitVec 5) (t : Tgt)
  /-- `PUNLOAD` (R324). Frees a fabric load that is not RUNNING. -/
  | punload (pr : Pred) (eff : BitVec 5) (t : Tgt)
  /-- `PSTART` (R324). Starts a LOADED, STOPPED or FAULTED fabric load. -/
  | pstart (pr : Pred) (eff : BitVec 5) (t : Tgt)
  /-- `PSTOP` (R324). Stops a RUNNING fabric load at iteration boundaries, keeping edge tokens. -/
  | pstop (pr : Pred) (eff : BitVec 5) (t : Tgt)
  /-- `PSAVE` (R325). Saves a fabric load through the mirror path and frees its region. -/
  | psave (pr : Pred) (eff : BitVec 5) (t : Tgt)
  /-- `PREST` (R325). Restores a saved fabric load at an origin and delivers a new handle. -/
  | prest (pr : Pred) (eff : BitVec 5) (t : Tgt)
  /-- `SPUSH` (R312). Pushes a token on its edge port at commit once a slot is reserved. -/
  | spush (eff : BitVec 5) (port : BitVec 5)
  /-- `SPOP` (R312). Delivers the head token of its edge port and removes it at commit. -/
  | spop (eff : BitVec 5) (port : BitVec 5) (t : Tgt)
  /-- `TRAP` (R353). Stops the task after its clause with TRAP and a 16-bit code. -/
  | trap (pr : Pred) (eff : BitVec 5)
  /-- `RFT` (R348). Ends handler or upcall mode and continues at RESUME, standing in for the branch. -/
  | rft (pr : Pred) (eff : BitVec 5)
  /-- `CREAD` (R354). Delivers the committed value of the selected control register when oldest. -/
  | cread (pr : Pred) (eff : BitVec 5) (sel : BitVec 5) (t : Tgt)
  /-- `CWRITE` (R354). Writes the selected control register at commit; the general row for registers without behaviour of their own. -/
  | cwrite (pr : Pred) (eff : BitVec 5) (sel : BitVec 5)
  /-- `HALT` (R355). Stops, fails or kills the task of a record. -/
  | halt (pr : Pred) (eff : BitVec 5)
  /-- `IDLE` (R360). Waits for an inbox message, a fault-queue entry or a timeout. -/
  | idle (pr : Pred) (eff : BitVec 5) (t : Tgt)
  /-- `PLBFL` (R359). Performs a translation shoot-down of a range, an ASID or global mappings. -/
  | plbfl (pr : Pred) (eff : BitVec 5) (t : Tgt)
  /-- `CLINE` (R356). Drops fetched copies, writes back, or writes back and invalidates a line. -/
  | cline (pr : Pred) (eff : BitVec 5) (op : ClineOp)
  /-- `DBGBRK` (R353). Stops the task after its clause with BREAK when DEBUG.brk is set. -/
  | dbgbrk (pr : Pred) (eff : BitVec 5)
  /-- `AFWAIT` (R361). Waits until older stores are acknowledged or faulted and delivers the ring's record count. -/
  | afwait (pr : Pred) (eff : BitVec 5) (t : Tgt)
  /-- `WINRD` (R357). Reads a register window of a STOPPED task. -/
  | winrd (pr : Pred) (eff : BitVec 5) (t : Tgt)
  /-- `WINWR` (R357). Writes a register window of a STOPPED task at commit. -/
  | winwr (pr : Pred) (eff : BitVec 5)
  /-- `TRESUME` (R358). Returns a STOPPED task to READY, or ends it when endp is set. -/
  | tresume (pr : Pred) (eff : BitVec 5)
  /-- `WSOPEN` (R362). Opens a tower's weight store at commit. -/
  | wsopen (pr : Pred) (eff : BitVec 5)
  /-- `WSCLOSE` (R362). Closes a tower's weight store at commit. -/
  | wsclose (pr : Pred) (eff : BitVec 5)
  /-- `RDTIME` (R363). Delivers the package time in 1 ns ticks. -/
  | rdtime (pr : Pred) (eff : BitVec 5) (t : Tgt)
  /-- `RDPMC` (R364). Delivers a performance counter of the lens. -/
  | rdpmc (pr : Pred) (eff : BitVec 5) (t : Tgt)
  /-- Event `CLAUSE_FETCH` (R24). The lens fetches a clause into a free window share along the predicted path. -/
  | clauseFetch (c : Nat)
  /-- Event `CLAUSE_COMMIT` (R20). A complete, oldest clause commits its register writes, effects, flags and branch target. -/
  | clauseCommit (c : Nat)
  /-- Event `STOP_REQUEST` (R32). A stop or pre-emption request reaches a lens and is served at a clause boundary. -/
  | stopRequest (c : Nat) (r : StopReq)
  /-- Event `STALL` (R174). The oldest clause has not completed within the stall limit and the task stops with STALL. -/
  | stall (c : Nat)
  /-- Event `TASK_STOP` (R332). A task stops at a clause boundary with the chosen cause, is written back and reported. -/
  | taskStop (c : Nat)
  /-- Event `UPCALL` (R346). The task continues at UPCALL.addr in upcall mode instead of stopping. -/
  | upcall (c : Nat)
  /-- Event `SRSEED_WRITE` (R74). A write of SRSEED reseeds every lens position's stochastic generator. -/
  | srseedWrite (c : Nat) (v : BitVec 64)
  /-- Event `LSPLIT_WRITE` (R178). A write of LSPLIT resizes lens scratch against the L1 on every cell of the lens. -/
  | lsplitWrite (c : Nat) (v : BitVec 64)
  /-- Event `PRIO_WRITE` (R30). A write of PRIO.class stores 1 in place of 0 when the ASID lacks class-0 permission. -/
  | prioWrite (c : Nat) (v : BitVec 64)
  /-- Event `FPFLAGS_WRITE` (R351). A write of FPFLAGS is applied before the clause's own flags are ORed in. -/
  | fpflagsWrite (c : Nat) (v : BitVec 64)
  /-- Event `RESUME_WRITE` (R354). A write of RESUME takes effect only in handler or upcall mode. -/
  | resumeWrite (c : Nat) (v : BitVec 64)
  /-- Event `AFRING_WRITE` (R341). Moving AFRING.tail consumes afterimage records, replaying or discarding each. -/
  | afringWrite (c : Nat) (v : BitVec 64)
  /-- Event `FQBASE_WRITE` (R337). Setting FQBASE gives the fault queue room and writes held entries in order. -/
  | fqbaseWrite (tw : Nat) (v : BitVec 64)
  /-- Event `FQPTR_WRITE` (R337). Advancing FQPTR.tail consumes fault-queue entries and frees room. -/
  | fqptrWrite (tw : Nat) (v : BitVec 64)
  /-- Event `ASID_MAKE_LIVE` (R350). ASIDCMD with live 1 makes an ASID live, refused beyond 1,024. -/
  | asidMakeLive (asid : BitVec 16)
  /-- Event `ASID_MAKE_NOT_LIVE` (R350). ASIDCMD with live 0 makes an ASID not live with a whole-ASID shoot-down. -/
  | asidMakeNotLive (asid : BitVec 16)
  /-- Event `OVQ_WRITE` (R350). A write of OVQ sets the overflow queue unless it holds records or would shrink below reservations. -/
  | ovqWrite (tw : Nat) (v : BitVec 64)
  /-- Event `VLOG_WRITE` (R350). A write of VLOG sets the version log unless a hypothesis other than 0 is not FREE. -/
  | vlogWrite (v : BitVec 64)
  /-- Event `WSLDAT_WRITE` (R350). A write of WSLDAT changes 64 WSLIVE bits at commit. -/
  | wsldatWrite (tw : Nat) (v : BitVec 64)
  /-- Event `C0RES_WRITE` (R378). A write of C0RES reserves cell groups for class 0 and pre-empts other classes in them. -/
  | c0resWrite (tw : Nat) (v : BitVec 64)
  /-- Event `MIGCNT_WRITE` (R398). A write of MIGCNT clears its counters. -/
  | migcntWrite (tw : Nat)
  /-- Event `GANG_ARM` (R401). A write of GANGCMD arms a gang from its descriptor, or refuses it with status 6. -/
  | gangArm (c : Nat) (v : BitVec 64)
  /-- Event `CHECKPOINT_START` (R403). A write of CKPT with rest 0 starts a whole-package checkpoint to a CXL target. -/
  | checkpointStart (c : Nat) (desc : BitVec 56)
  /-- Event `RESTORE_START` (R403). A write of CKPT with rest 1 starts a whole-package restore from a CXL target. -/
  | restoreStart (c : Nat) (desc : BitVec 56)
  /-- Event `CHECKPOINT_DONE` (R403). A checkpoint or restore completes or is stopped by a link or target error and writes its status. -/
  | checkpointDone (failed : Bool) (image : List (Nat × BitVec 8))
  /-- Event `RESERVATION_GRANT` (R158). A waiting submission takes a freed reservation and proceeds. -/
  | reservationGrant (tw : Nat)
  /-- Event `OVERFLOW_ADMIT` (R157). A READY record moves from the overflow queue into the ready pool as entries free. -/
  | overflowAdmit (tw : Nat)
  /-- Event `TASK_DISPATCH` (R164). The dispatcher composes a lens and M-nodes for a ready task and loads its registers. -/
  | taskDispatch (tw : Nat)
  /-- Event `CLASS_AGING` (R163). Each full 4 ms in READY lowers a task's effective class by one. -/
  | classAging (tw : Nat)
  /-- Event `PASSOVER_LIMIT` (R163). After 1 ms passed over, the first task of the highest class blocks lower dispatches. -/
  | passoverLimit (tw : Nat)
  /-- Event `INBOX_GRANT` (R169). A destination inbox grants an entry to a waiting AMSEND. -/
  | inboxGrant (tw : Nat) (cell : Nat)
  /-- Event `MESSAGE_ARRIVAL` (R171). An active message arrives whole at a cell's inbox. -/
  | messageArrival (m : BitVec 512)
  /-- Event `HANDLER_DIVERSION` (R171). A running task is diverted at a boundary to the handler of a head message. -/
  | handlerDiversion (c : Nat)
  /-- Event `NOHANDLER` (R172). A head message unservable for 64 us goes to the supervisor cell and is freed. -/
  | nohandler (tw : Nat) (cell : Nat)
  /-- Event `TRANSLATION_WALK` (R188). A translation complex walks the page tables for a permission request or L2 miss. -/
  | translationWalk (tw : Nat)
  /-- Event `PERMISSION_ENTRY_ARRIVAL` (R194). A requested permission entry or fault reaches the cell and waiting accesses proceed. -/
  | permissionEntryArrival (tw : Nat)
  /-- Event `HOME_SLICE_STORE` (R181). A home slice applies a store to its line or memory and forwards it to sharers. -/
  | homeSliceStore (c : Nat)
  /-- Event `STORE_ACK` (R181). The home slice acknowledges a store once every recorded L1 has applied it. -/
  | storeAck (c : Nat)
  /-- Event `FILTER_BANK_CLEAR` (R182). Every 16 us the older second-touch filter bank is cleared and receives insertions. -/
  | filterBankClear (slice : Nat)
  /-- Event `REFRESH_WINDOW` (R185). A weight-store bank enters its 0.25 us refresh window every 64 us. -/
  | refreshWindow
  /-- Event `PHYSICAL_WRITE` (R198). A host or peer write by physical address writes back owners' lines and is applied. -/
  | physicalWrite (host : Bool) (pa : Nat) (bytes : List (BitVec 8))
  /-- Event `HOST_READ` (R394). A host read of HDM returns bytes performed at PKG scope. -/
  | hostRead (pa : Nat) (n : Nat)
  /-- Event `SHOOTDOWN_COMPLETE` (R199). A shoot-down finishes in every tower and PLBFL delivers. -/
  | shootdownComplete
  /-- Event `WAITV_WAKE` (R226). A waiting WAITV rereads after another observer's store to its line is performed. -/
  | waitvWake (c : Nat)
  /-- Event `WAITV_TIMEOUT` (R226). A waiting WAITV rereads after 64 us. -/
  | waitvTimeout (c : Nat)
  /-- Event `VERSION_DISCARD_DONE` (R241). The background discard of a refuted hypothesis's versions finishes. -/
  | versionDiscardDone (h : Nat)
  /-- Event `TILE_FILL_DONE` (R257). A filling tile becomes ready once every byte is written. -/
  | tileFillDone (tw : Nat) (node : Nat) (tile : Nat)
  /-- Event `TILE_DRAIN_DONE` (R257). A draining tile becomes ready or empty once its writes or readers finish. -/
  | tileDrainDone (tw : Nat) (node : Nat) (tile : Nat)
  /-- Event `STREAMER_COMMAND_START` (R276). A queued streamer command begins once the one before it completes or is discarded. -/
  | streamerCommandStart (id : Nat)
  /-- Event `STREAMER_COMMAND_COMPLETE` (R284). A streamer command completes when reads and writes are performed and its repair list is empty. -/
  | streamerCommandComplete (id : Nat)
  /-- Event `VIEW_BUILD` (R294). The prism engine snapshots a changed master tile and quantises a view tile. -/
  | viewBuild (tw : Nat)
  /-- Event `VIEW_PUBLISH` (R294). A finished build publishes its bytes and epoch at one instant. -/
  | viewPublish (tw : Nat)
  /-- Event `FABRIC_CONFIGURE` (R323). Once its region is clear, a load's edges are routed, clauses placed and tokens filled. -/
  | fabricConfigure (tw : Nat) (slot : Nat)
  /-- Event `BUBBLE_ITERATION` (R313). A node meeting a bubble pops every port and pushes bubbles in place of the instance. -/
  | bubbleIteration (c : Nat)
  /-- Event `EDGE_AGE_LIMIT` (R321). A head token unpopped past the age limit faults the load with STALL. -/
  | edgeAgeLimit (tw : Nat) (slot : Nat) (edge : Nat)
  /-- Event `LOAD_FINISH` (R306). Every node has retired and the load becomes FINISHED with a status-word release. -/
  | loadFinish (tw : Nat) (slot : Nat)
  /-- Event `FAULT_QUEUE_WRITE` (R337). The part writes a held fault-queue entry once room appears and advances head. -/
  | faultQueueWrite (tw : Nat)
  /-- Event `AFTERIMAGE_RECORD_WRITE` (R339). The part writes a late-fault record into the ring once room appears and advances head. -/
  | afterimageRecordWrite (c : Nat)
  /-- Event `PREEMPT` (R368). The dispatcher chooses kill, drain or checkpoint for each task it must move. -/
  | preempt (c : Nat) (cls : Nat)
  /-- Event `DRAIN_LIMIT` (R370). A drained task still running after 5 us is checkpointed. -/
  | drainLimit (c : Nat)
  /-- Event `NODE_SAVE` (R375). Once its commands are performed, a node's state is saved by streamers and the node freed. -/
  | nodeSave (c : Nat) (n : Nat)
  /-- Event `FLIT_RETRY` (R387). A flit that fails its CRC is sent again. -/
  | flitRetry (link : Nat)
  /-- Event `LANE_RETRAIN` (R387). A lane past its error threshold is retrained out and a spare retrained in. -/
  | laneRetrain (link : Nat)
  /-- Event `LINK_LOSS` (R388). A lost link's traffic is rerouted within 20 us, raising LINKLOST only if a tower is cut off. -/
  | linkLoss (link : Nat)
  /-- Event `COHERENCE_LOSS_TIMEOUT` (R389). After 50 us a slice marks unreachable sharers coherence-lost, acknowledges and raises LINKLOST. -/
  | coherenceLossTimeout (link : Nat)
  /-- Event `LINK_RECONNECT` (R389). A reconnected tower purges coherence-lost L1s and affected tasks take LINKLOST. -/
  | linkReconnect (link : Nat)
  /-- Event `FAR_REQUEST` (R390). A remote agent performs a far load, store or atomic by physical address. -/
  | farRequest (src : Nat) (pa : Nat) (op : FarOp)
  /-- Event `FAR_ACCESS_TIMEOUT` (R390). A far access without a response for 50 us faults or delivers poison with LINKLOST. -/
  | farAccessTimeout (c : Nat)
  /-- Event `ROUTING_TABLE_WRITE` (R392). An 8-byte write sets a package routing-table entry or is ignored and counted. -/
  | routingTableWrite (d : Nat) (v : BitVec 64)
  /-- Event `SUBMIT_WRITE` (R396). A whole 64-byte host write to SUBMIT stores the record in the ring and submits it. -/
  | submitWrite (tw : Nat) (win : Nat) (bytes : List (BitVec 8))
  /-- Event `CHEAD_WRITE` (R397). The host advances chead, freeing room for held completions. -/
  | cheadWrite (tw : Nat) (win : Nat) (v : BitVec 32)
  /-- Event `WERR_WRITE` (R395). Any write to werr clears the window's ignored-write count. -/
  | werrWrite (tw : Nat) (win : Nat)
  /-- Event `HOST_COMPLETION` (R397). A completion is written to the host queue once the terminal write is performed at SYS scope. -/
  | hostCompletion (tw : Nat) (win : Nat)
  /-- Event `HOT_PAGE_WINDOW` (R399). At the end of each 1 ms window the tracker proposes hot far pages for migration. -/
  | hotPageWindow (tw : Nat)
  /-- Event `FORWARD_EXPIRY` (R400). 10 ms after the last access to an old frame it is returned to MIGPOOL. -/
  | forwardExpiry (tw : Nat)
  /-- Event `GANG_PLACE` (R402). At the start time members are placed as class-0 newcomers and READY sent to the leader. -/
  | gangPlace (gid : Nat)
  /-- Event `GANG_READY` (R402). The leader receives READY and sends GO once all packages are ready. -/
  | gangReady (gid : Nat) (pkg : Nat)
  /-- Event `GANG_GO` (R402). A package starts its placed members on GO and writes status 4. -/
  | gangGo (gid : Nat)
  /-- Event `GANG_GRACE_EXPIRY` (R402). Start plus grace passes without every READY; GANGLATE is written and abort sent if asked. -/
  | gangGraceExpiry (gid : Nat)
  /-- Event `GANG_ABORT` (R402). A package frees its placed members, rejects their records and writes status 5. -/
  | gangAbort (gid : Nat)
  /-- Event `ATTEST` (R424). Returns a signed report of the measurement registers, fuse counter and nonce. -/
  | attest (m : Nat)
  /-- Event `SEAL` (R415). Computes the HMAC tag of a translated image under the sealing key. -/
  | sealImage (m : Nat)
  /-- Event `CHECK` (R415). Verifies the tag of a translated image and returns a verdict. -/
  | checkImage (m : Nat)
  /-- Event `SETCAP` (R420). Sets the power cap, met within 1 ms by clock and issue reduction. -/
  | setcap (m : Nat)
  /-- Event `FUSEADV` (R423). Advances the fuse counter by one irreversibly. -/
  | fuseadv (m : Nat)
  /-- Event `FWUPDATE` (R428). Holds dispatch and requests a firmware update at the next quiesce point. -/
  | fwupdate (m : Nat)
  /-- Event `FWUPDATE_INSTALL` (R428). At a quiesce point the image is checked, installed, measured into M7 and dispatch resumes. -/
  | fwupdateInstall
  /-- Event `EXTEND` (R425). Extends measurement register 8 to 15 with a digest. -/
  | extend (m : Nat)
  /-- Event `TELEMETRY` (R425). Returns power, temperatures and error counts. -/
  | telemetry (m : Nat)
  /-- Event `CAP_OVERRUN` (R420). Above the cap for 10 ms at the minimum share, a class-3 entry is written. -/
  | capOverrun
  /-- Event `THERMAL_THROTTLE` (R421). A junction reaching 105 C starts throttling with a class-3 entry. -/
  | thermalThrottle
  /-- Event `THROTTLE_STEP` (R421). Every 100 us at or above 105 C the clock, then issue share, is lowered one step. -/
  | throttleStep
  /-- Event `THROTTLE_RECOVERY` (R421). Every 1 ms once all junctions are below 100 C the share and clock rise one step. -/
  | throttleRecovery
  /-- Event `THERMAL_SHUTDOWN` (R421). A junction reaching 115 C stops every clock. -/
  | thermalShutdown
  /-- Event `PACKAGE_RESET` (R422). The ROM verifies, measures and runs the boot stages and starts the supervisors. -/
  | packageReset (stages : List BootStage)
  /-- Event `ECC_UNCORRECTABLE` (R426). An uncorrectable error poisons or faults the access and writes a class-3 entry. -/
  | eccUncorrectable (pa : Nat)
  /-- Event `PATROL_SCRUB` (R426). Scrub rewrites lines on schedule and marks uncorrectable lines poisoned. -/
  | patrolScrub (pa : Nat) (bad : Bool)
  /-- Event `CLUSTER_RETIRE` (R427). A failing cluster is withheld from dispatch and its running tasks stop with ECCUNC. -/
  | clusterRetire (tw : Nat) (cluster : Nat)
  /-- Event `L2_SLICE_RETIRE` (R427). At a quiesce point a failing L2 slice is written back and retired. -/
  | l2SliceRetire (slice : Nat)
  /-- Event `HBM_ROW_SPARE` (R427). A failing HBM row is copied to a spare row while accesses wait. -/
  | hbmRowSpare (row : Nat)
  /-- Event `CXL_PORT_DEGRADE` (R427). A failing CXL port is degraded to x8 or x4. -/
  | cxlPortDegrade (port : Nat) (lanes : Nat)
  /-- Event `MATRIX_COMMAND_PERFORMED` (R258). A node finishes performing a handed-over matrix command such as MMA, MMAI, MACCLD, MACCLR, MEW or TDEF, freeing the node for the next command and advancing node-ticket completion. -/
  | matrixCommandPerformed (tw : Nat) (node : Nat)
  /-- Event `COMMAND_STALL` (R380). A handed-over matrix or streamer command that has made no progress for its ASID's stall limit faults late with STALL. -/
  | commandStall (eng : EngineRef)
  /-- Event `IDLE_TIMEOUT` (R360). The timeout of a waiting IDLE passes, and IDLE delivers bit 2. -/
  | idleTimeout (c : Nat)
  /-- Event `UNREACHABLE_HOME_TIMEOUT` (R389). On the cut-off side, a load, store or atomic whose home slice is unreachable for 50 us delivers poison, or faults late, with LINKLOST. -/
  | unreachableHomeTimeout (c : Nat)
  /-- Event `NODE_RESTORE` (R376). Streamers finish restoring a saved M-node to the newly granted node, releasing the matrix commands that wait on it. -/
  | nodeRestore (c : Nat) (n : Nat)
  /-- Event `SUBMISSION_WINDOW_WRITE` (R395). A host write to a submission window's configuration fields (asid, en, strm, rn, ring, cn, cq, vec, irq) sets them, with rn clamped to 12. -/
  | submissionWindowWrite (tw : Nat) (win : Nat) (off : Nat) (v : BitVec 64)
  deriving DecidableEq, Repr

end Sys2Proof
end

