-- ==== Sys2Proof/WellFormed.lean ====
section
/-! DEFINITION. Sys2Proof/WellFormed.lean: the form checks of an instruction, each a Bool (02 R36, R42; 10 R250). -/

namespace Sys2Proof

/-- A target is never the slot i127.p, whose code is the discard code (02 R36). -/
def Tgt.wf : Tgt → Bool
  | .discard => true
  | .to slot iid => !(decide (slot = .p) && decide (iid = 127))

/-- Both targets of a dual form are well-formed; every fan form is (02 R37). -/
def Dst.wf : Dst → Bool
  | .dual t1 t2 => t1.wf && t2.wf
  | .fan _ _ _ => true

/-- A package has six towers (00 R8). -/
def towerOk (tw : Nat) : Bool := decide (tw < 6)

/-- A tower has 64 submission windows (20 R395). -/
def winOk (win : Nat) : Bool := decide (win < 64)

/-- A tower has 128 cells (00 R8). -/
def cellOk (cell : Nat) : Bool := decide (cell < 128)

/-- A tower has 256 M-nodes (00 R8). -/
def nodeOk (node : Nat) : Bool := decide (node < 256)

/-- A node has 32 tiles (12 R254). -/
def tileOk (tile : Nat) : Bool := decide (tile < 32)

/-- The form checks a decoded instruction meets: no target i127.p (02 R36), the two types of FCVT differ (02 R42), an acquiring HLDC loads 8 bytes (10 R250); of an event, that it names a tower, a mailbox, a window or a port the part has and hands over as many bytes as its form carries. -/
def Instr.wf (x : Instr) : Bool :=
  match x with
  | .gread _ d => d.wf
  | .wread _ d => d.wf
  | .gwrite _ _ => true
  | .wwrite _ _ => true
  | .gens _ t => t.wf
  | .genu _ t => t.wf
  | .appc _ t => t.wf
  | .mov _ d => d.wf
  | .movi _ _ t => t.wf
  | .nop _ => true
  | .null _ d => d.wf
  | .add _ d => d.wf
  | .sub _ d => d.wf
  | .and _ d => d.wf
  | .or _ d => d.wf
  | .xor _ d => d.wf
  | .shl _ d => d.wf
  | .shr _ d => d.wf
  | .sra _ d => d.wf
  | .min _ d => d.wf
  | .max _ d => d.wf
  | .minu _ d => d.wf
  | .maxu _ d => d.wf
  | .addi _ _ t => t.wf
  | .subi _ _ t => t.wf
  | .andi _ _ t => t.wf
  | .ori _ _ t => t.wf
  | .xori _ _ t => t.wf
  | .shli _ _ t => t.wf
  | .shri _ _ t => t.wf
  | .srai _ _ t => t.wf
  | .mul _ d => d.wf
  | .mulh _ d => d.wf
  | .mulhu _ d => d.wf
  | .div _ d => d.wf
  | .divu _ d => d.wf
  | .rem _ d => d.wf
  | .remu _ d => d.wf
  | .muli _ _ t => t.wf
  | .clz _ d => d.wf
  | .ctz _ d => d.wf
  | .popc _ d => d.wf
  | .exts8 _ d => d.wf
  | .exts16 _ d => d.wf
  | .exts32 _ d => d.wf
  | .extz8 _ d => d.wf
  | .extz16 _ d => d.wf
  | .extz32 _ d => d.wf
  | .bfx _ d => d.wf
  | .bfi _ d => d.wf
  | .lea _ _ d => d.wf
  | .leai _ _ _ t => t.wf
  | .teq _ d => d.wf
  | .tne _ d => d.wf
  | .tlt _ d => d.wf
  | .tle _ d => d.wf
  | .tltu _ d => d.wf
  | .tleu _ d => d.wf
  | .teqi _ _ t => t.wf
  | .tnei _ _ t => t.wf
  | .tlti _ _ t => t.wf
  | .tlei _ _ t => t.wf
  | .tltui _ _ t => t.wf
  | .tleui _ _ t => t.wf
  | .fadd _ _ d => d.wf
  | .fsub _ _ d => d.wf
  | .fmul _ _ d => d.wf
  | .fdiv _ _ d => d.wf
  | .fmin _ _ d => d.wf
  | .fmax _ _ d => d.wf
  | .fsqrt _ _ d => d.wf
  | .fsgn _ _ d => d.wf
  | .ffma _ _ d => d.wf
  | .ffms _ _ d => d.wf
  | .ffnma _ _ d => d.wf
  | .ffnms _ _ d => d.wf
  | .fcvt _ y z d => d.wf && decide (y ≠ z)
  | .ftoi _ _ _ _ d => d.wf
  | .itof _ _ _ d => d.wf
  | .feq _ _ d => d.wf
  | .flt _ _ d => d.wf
  | .fle _ _ d => d.wf
  | .fclass _ _ d => d.wf
  | .bro _ _ _ => true
  | .br _ => true
  | .callo _ _ _ => true
  | .call _ => true
  | .ret _ => true
  | .exitt _ => true
  | .yield _ _ _ => true
  | .scall _ _ _ => true
  | .vadd _ _ d => d.wf
  | .vsub _ _ d => d.wf
  | .vmul _ _ d => d.wf
  | .vmulh _ _ d => d.wf
  | .vmin _ _ d => d.wf
  | .vmax _ _ d => d.wf
  | .vand _ _ d => d.wf
  | .vor _ _ d => d.wf
  | .vxor _ _ d => d.wf
  | .vshl _ _ d => d.wf
  | .vshr _ _ d => d.wf
  | .vsra _ _ d => d.wf
  | .vfadd _ _ d => d.wf
  | .vfsub _ _ d => d.wf
  | .vfmul _ _ d => d.wf
  | .vfdiv _ _ d => d.wf
  | .vfmin _ _ d => d.wf
  | .vfmax _ _ d => d.wf
  | .vfsqrt _ _ d => d.wf
  | .vrcp _ _ d => d.wf
  | .vrsq _ _ d => d.wf
  | .vexp2 _ _ d => d.wf
  | .vlog2 _ _ d => d.wf
  | .vffma _ _ d => d.wf
  | .vffms _ _ d => d.wf
  | .vffnma _ _ d => d.wf
  | .vffnms _ _ d => d.wf
  | .vcvt _ d => d.wf
  | .vqnt _ d => d.wf
  | .vdqnt _ d => d.wf
  | .vcmp _ _ _ d => d.wf
  | .vfcmp _ _ _ d => d.wf
  | .vsel _ _ d => d.wf
  | .vbcast _ _ d => d.wf
  | .vextr _ _ d => d.wf
  | .vins _ _ d => d.wf
  | .vshuf _ _ d => d.wf
  | .vred _ d => d.wf
  | .vscan _ d => d.wf
  | .vdot _ d => d.wf
  | .ldZb _ _ _ t => t.wf
  | .ldZh _ _ _ t => t.wf
  | .ldZw _ _ _ t => t.wf
  | .ldD _ _ _ t => t.wf
  | .ldSb _ _ _ t => t.wf
  | .ldSh _ _ _ t => t.wf
  | .ldSw _ _ _ t => t.wf
  | .stB _ _ _ => true
  | .stH _ _ _ => true
  | .stW _ _ _ => true
  | .stD _ _ _ => true
  | .ldacq _ _ _ t => t.wf
  | .strel _ _ _ => true
  | .vld _ _ _ t => t.wf
  | .vst _ _ _ => true
  | .vlds _ _ _ t => t.wf
  | .vsts _ _ _ => true
  | .vgath _ _ _ _ _ t => t.wf
  | .vscat _ _ _ _ _ => true
  | .pref _ _ _ _ => true
  | .amoadd _ _ _ _ _ t => t.wf
  | .amoand _ _ _ _ _ t => t.wf
  | .amoor _ _ _ _ _ t => t.wf
  | .amoxor _ _ _ _ _ t => t.wf
  | .amomin _ _ _ _ _ t => t.wf
  | .amomax _ _ _ _ _ t => t.wf
  | .amominu _ _ _ _ _ t => t.wf
  | .amomaxu _ _ _ _ _ t => t.wf
  | .amoswp _ _ _ _ _ t => t.wf
  | .amocas _ _ _ _ _ t => t.wf
  | .amofadd _ _ _ _ _ t => t.wf
  | .vamoadd _ _ _ _ _ t => t.wf
  | .fenceAcq _ _ _ => true
  | .fenceRel _ _ _ => true
  | .fenceAcqrel _ _ _ => true
  | .fenceSc _ _ _ => true
  | .fenceEngine _ _ _ => true
  | .waitv _ _ _ t => t.wf
  | .bara _ _ _ t => t.wf
  | .barw _ _ _ t => t.wf
  | .tspawn _ _ => true
  | .tsubmit _ _ => true
  | .tdep _ _ => true
  | .twait _ _ _ t => t.wf
  | .trange _ _ => true
  | .tprio _ _ => true
  | .amsend _ _ => true
  | .amreply _ _ => true
  | .htset _ _ => true
  | .inbox _ _ _ t => t.wf
  | .hnew _ _ t => t.wf
  | .henter _ _ => true
  | .hleave _ _ => true
  | .hresolve _ _ t => t.wf
  | .hstat _ _ _ t => t.wf
  | .hldc _ _ acq _ size t => t.wf && (!acq || decide (size = .d))
  | .tdef _ _ _ => true
  | .tload _ _ _ => true
  | .tloadEdge _ _ _ _ => true
  | .tstore _ _ _ => true
  | .tstoreEdge _ _ _ _ => true
  | .tfree _ _ _ => true
  | .mma _ _ _ _ => true
  | .mmai _ _ _ _ => true
  | .maccrd _ _ _ => true
  | .macclr _ _ => true
  | .maccld _ _ _ => true
  | .mew _ _ _ => true
  | .mcopy _ _ _ _ => true
  | .msplat _ _ _ => true
  | .scopy _ _ _ t => t.wf
  | .sgath _ _ _ t => t.wf
  | .sscat _ _ _ t => t.wf
  | .slayout _ _ _ t => t.wf
  | .sfill _ _ _ t => t.wf
  | .sfence _ _ _ t => t.wf
  | .swait _ _ _ t => t.wf
  | .vwreg _ _ t => t.wf
  | .vwdrop _ _ => true
  | .vwsync _ _ _ t => t.wf
  | .vwqry _ _ _ t => t.wf
  | .vwpol _ _ => true
  | .pload _ _ t => t.wf
  | .punload _ _ t => t.wf
  | .pstart _ _ t => t.wf
  | .pstop _ _ t => t.wf
  | .psave _ _ t => t.wf
  | .prest _ _ t => t.wf
  | .spush _ _ => true
  | .spop _ _ t => t.wf
  | .trap _ _ => true
  | .rft _ _ => true
  | .cread _ _ _ t => t.wf
  | .cwrite _ _ _ => true
  | .halt _ _ => true
  | .idle _ _ t => t.wf
  | .plbfl _ _ t => t.wf
  | .cline _ _ _ => true
  | .dbgbrk _ _ => true
  | .afwait _ _ t => t.wf
  | .winrd _ _ t => t.wf
  | .winwr _ _ => true
  | .tresume _ _ => true
  | .wsopen _ _ => true
  | .wsclose _ _ => true
  | .rdtime _ _ t => t.wf
  | .rdpmc _ _ t => t.wf
  | .clauseFetch _ => true
  | .clauseCommit _ => true
  | .stopRequest _ _ => true
  | .stall _ => true
  | .taskStop _ => true
  | .upcall _ => true
  | .srseedWrite _ _ => true
  | .lsplitWrite _ _ => true
  | .prioWrite _ _ => true
  | .fpflagsWrite _ _ => true
  | .resumeWrite _ _ => true
  | .afringWrite _ _ => true
  | .fqbaseWrite tw _ => towerOk tw
  | .fqptrWrite tw _ => towerOk tw
  | .asidMakeLive _ => true
  | .asidMakeNotLive _ => true
  | .ovqWrite tw _ => towerOk tw
  | .vlogWrite _ => true
  | .wsldatWrite tw _ => towerOk tw
  | .c0resWrite tw _ => towerOk tw
  | .migcntWrite tw => towerOk tw
  | .gangArm _ _ => true
  | .checkpointStart _ _ => true
  | .restoreStart _ _ => true
  | .checkpointDone _ _ => true
  | .reservationGrant tw => towerOk tw
  | .overflowAdmit tw => towerOk tw
  | .taskDispatch tw => towerOk tw
  | .classAging tw => towerOk tw
  | .passoverLimit tw => towerOk tw
  | .inboxGrant tw cell => towerOk tw && cellOk cell
  | .messageArrival _ => true
  | .handlerDiversion _ => true
  | .nohandler tw cell => towerOk tw && cellOk cell
  | .translationWalk tw => towerOk tw
  | .permissionEntryArrival tw => towerOk tw
  | .homeSliceStore _ => true
  | .storeAck _ => true
  | .filterBankClear slice => decide (slice < 384)
  | .refreshWindow => true
  | .physicalWrite _ _ _ => true
  | .hostRead _ _ => true
  | .shootdownComplete => true
  | .waitvWake _ => true
  | .waitvTimeout _ => true
  | .versionDiscardDone _ => true
  | .tileFillDone tw node tile => towerOk tw && nodeOk node && tileOk tile
  | .tileDrainDone tw node tile => towerOk tw && nodeOk node && tileOk tile
  | .streamerCommandStart _ => true
  | .streamerCommandComplete _ => true
  | .viewBuild tw => towerOk tw
  | .viewPublish tw => towerOk tw
  | .fabricConfigure tw slot => towerOk tw && decide (slot < 16)
  | .bubbleIteration _ => true
  | .edgeAgeLimit tw slot _ => towerOk tw && decide (slot < 16)
  | .loadFinish tw slot => towerOk tw && decide (slot < 16)
  | .faultQueueWrite tw => towerOk tw
  | .afterimageRecordWrite _ => true
  | .preempt _ _ => true
  | .drainLimit _ => true
  | .nodeSave _ _ => true
  | .flitRetry link => decide (link < 7)
  | .laneRetrain link => decide (link < 7)
  | .linkLoss link => decide (link < 7)
  | .coherenceLossTimeout link => decide (link < 7)
  | .linkReconnect link => decide (link < 7)
  | .farRequest _ _ _ => true
  | .farAccessTimeout _ => true
  | .routingTableWrite d _ => decide (d < 64)
  | .submitWrite tw win bytes => towerOk tw && winOk win && decide (bytes.length = 64)
  | .cheadWrite tw win _ => towerOk tw && winOk win
  | .werrWrite tw win => towerOk tw && winOk win
  | .hostCompletion tw win => towerOk tw && winOk win
  | .hotPageWindow tw => towerOk tw
  | .forwardExpiry tw => towerOk tw
  | .gangPlace gid => decide (gid < 65536)
  | .gangReady _ pkg => decide (pkg < 64)
  | .gangGo gid => decide (gid < 65536)
  | .gangGraceExpiry gid => decide (gid < 65536)
  | .gangAbort gid => decide (gid < 65536)
  | .attest m => decide (m < 2)
  | .sealImage m => decide (m < 2)
  | .checkImage m => decide (m < 2)
  | .setcap m => decide (m < 2)
  | .fuseadv m => decide (m < 2)
  | .fwupdate m => decide (m < 2)
  | .fwupdateInstall => true
  | .extend m => decide (m < 2)
  | .telemetry m => decide (m < 2)
  | .capOverrun => true
  | .thermalThrottle => true
  | .throttleStep => true
  | .throttleRecovery => true
  | .thermalShutdown => true
  | .packageReset _ => true
  | .eccUncorrectable _ => true
  | .patrolScrub _ _ => true
  | .clusterRetire tw cluster => towerOk tw && decide (cluster < 64)
  | .l2SliceRetire slice => decide (slice < 384)
  | .hbmRowSpare _ => true
  | .cxlPortDegrade port lanes => decide (port < 12) && (decide (lanes = 8) || decide (lanes = 4))
  | .matrixCommandPerformed tw node => towerOk tw && nodeOk node
  | .commandStall _ => true
  | .idleTimeout _ => true
  | .unreachableHomeTimeout _ => true
  | .nodeRestore _ _ => true
  | .submissionWindowWrite tw win _ _ => towerOk tw && winOk win

end Sys2Proof
end

