-- ==== Sys2Proof/Decode.lean ====
section
/-! DEFINITION. Sys2Proof/Decode.lean: from a 32-bit word to an instruction or a refusal by name, and back (02 R33 to R46). -/

namespace Sys2Proof

/-- Why a word is no instruction: all of them mark the clause with ILLOP (02 R46). -/
inductive DecodeErr where
  /-- Primary opcode 0x00 or a reserved one. -/
  | illegalPrimary
  /-- An xop or a type, size, level or operation field holds an unassigned value. -/
  | unassigned
  /-- A must-be-zero field is not zero. -/
  | mustBeZero
  /-- pr is 01, or SPUSH or SPOP is predicated (02 R35, 14 R311). -/
  | illegalPredicate
  /-- WREAD or WWRITE names a register of 16 or more (02 R40). -/
  | registerRange
  /-- FCVT between equal types (02 R42). -/
  | equalTypes
  /-- An acquiring HLDC of a size other than 8 (10 R250). -/
  | acquireSize
  /-- The bytes are not the four bytes of a word. -/
  | notAWord
  deriving DecidableEq, Repr

/-- Bits [lo+n-1 : lo] of the word w (00 R3). -/
def fld (w lo n : Nat) : Nat := w / 2 ^ lo % 2 ^ n

/-- A one-bit field. -/
def boolOf (v : Nat) : Bool := decide (v = 1)

/-- The field pr (02 R35). -/
def predOf : Nat → Except DecodeErr Pred
  | 0 => .ok .always
  | 2 => .ok .onFalse
  | 3 => .ok .onTrue
  | _ => .error .illegalPredicate

/-- The slot field of a target (02 R36). -/
def slotOf : Nat → Slot
  | 0 => .a
  | 1 => .b
  | 2 => .c
  | _ => .p

/-- A 9-bit target: 0x1FF is the discard code (02 R36). -/
def tgtOf (v : Nat) : Tgt :=
  if v = 511 then .discard else .to (slotOf (fld v 7 2)) (BitVec.ofNat 7 (fld v 0 7))

/-- The 19-bit field T (02 R37). -/
def dstOf (v : Nat) : Except DecodeErr Dst :=
  if fld v 18 1 = 1 then
    if fld v 0 4 ≠ 0 then .error .mustBeZero
    else .ok (.fan (slotOf (fld v 16 2)) (BitVec.ofNat 4 (fld v 12 4)) (BitVec.ofNat 8 (fld v 4 8)))
  else .ok (.dual (tgtOf (fld v 9 9)) (tgtOf (fld v 0 9)))

/-- A scalar FP type field (02 R42). -/
def ftyOf : Nat → FTy
  | 0 => .f64
  | 1 => .f32
  | 2 => .f16
  | _ => .bf16

/-- A wide FP type field; 11 is illegal (02 R43). -/
def vtyOf : Nat → Except DecodeErr VTy
  | 0 => .ok .f32
  | 1 => .ok .f16
  | 2 => .ok .bf16
  | _ => .error .unassigned

/-- The lane type of VAMOADD (09 R224). -/
def vamoTyOf : Nat → VAmoTy
  | 0 => .e32
  | 1 => .e64
  | 2 => .f32
  | _ => .bf16

/-- A lane shape field (02 R43). -/
def shapeOf : Nat → Shape
  | 0 => .e8
  | 1 => .e16
  | 2 => .e32
  | _ => .e64

/-- A scope field (02 R44). -/
def scopeOf : Nat → Scope
  | 0 => .lens
  | 1 => .die
  | 2 => .pkg
  | _ => .sys

/-- The size field of a scalar atomic; 00 and 01 are illegal (02 R44). -/
def amoSizeOf : Nat → Except DecodeErr AmoSize
  | 2 => .ok .w
  | 3 => .ok .d
  | _ => .error .unassigned

/-- The size field of HLDC (10 R250). -/
def memSizeOf : Nat → MemSize
  | 0 => .b
  | 1 => .h
  | 2 => .w
  | _ => .d

/-- The condition of VCMP (02 R41). -/
def vcondOf : Nat → VCond
  | 0 => .eq
  | 1 => .ne
  | 2 => .lt
  | _ => .ltu

/-- The condition of VFCMP (02 R41). -/
def vfcondOf : Nat → VFCond
  | 0 => .eq
  | 1 => .lt
  | 2 => .le
  | _ => .un

/-- The level of PREF; 10 and 11 are illegal (05 R147). -/
def prefLevelOf : Nat → Except DecodeErr PrefLevel
  | 0 => .ok .l1
  | 1 => .ok .l2
  | _ => .error .unassigned

/-- The operation of CLINE (17 R352, R356). -/
def clineOpOf : Nat → Except DecodeErr ClineOp
  | 0 => .ok .ic
  | 1 => .ok .wb
  | 2 => .ok .wbi
  | _ => .error .unassigned

/-- The register field of WREAD and WWRITE (02 R40). -/
def wideRegOf (v : Nat) : Except DecodeErr (BitVec 4) :=
  if v < 16 then .ok (BitVec.ofNat 4 v) else .error .registerRange

/-- Words of primary opcode 0x01: GREAD (02 R41). -/
def decOp01 (w : Nat) : Except DecodeErr Instr :=
  (dstOf (fld w 0 19)).bind fun d =>
  .ok (.gread (BitVec.ofNat 6 (fld w 19 6)) d)

/-- Words of primary opcode 0x02: WREAD (02 R41). -/
def decOp02 (w : Nat) : Except DecodeErr Instr :=
  (wideRegOf (fld w 19 6)).bind fun reg =>
  (dstOf (fld w 0 19)).bind fun d =>
  .ok (.wread reg d)

/-- Words of primary opcode 0x03: GWRITE (02 R41). -/
def decOp03 (w : Nat) : Except DecodeErr Instr :=
  if fld w 0 17 ≠ 0 then .error .mustBeZero else
  (predOf (fld w 23 2)).bind fun pr =>
  .ok (.gwrite pr (BitVec.ofNat 6 (fld w 17 6)))

/-- Words of primary opcode 0x04: WWRITE (02 R41). -/
def decOp04 (w : Nat) : Except DecodeErr Instr :=
  if fld w 0 17 ≠ 0 then .error .mustBeZero else
  (predOf (fld w 23 2)).bind fun pr =>
  (wideRegOf (fld w 17 6)).bind fun reg =>
  .ok (.wwrite pr reg)

/-- Words of primary opcode 0x05: GENS (02 R41). -/
def decOp05 (w : Nat) : Except DecodeErr Instr :=
  .ok (.gens (BitVec.ofNat 16 (fld w 9 16)) (tgtOf (fld w 0 9)))

/-- Words of primary opcode 0x06: GENU (02 R41). -/
def decOp06 (w : Nat) : Except DecodeErr Instr :=
  .ok (.genu (BitVec.ofNat 16 (fld w 9 16)) (tgtOf (fld w 0 9)))

/-- Words of primary opcode 0x07: APPC (02 R41). -/
def decOp07 (w : Nat) : Except DecodeErr Instr :=
  .ok (.appc (BitVec.ofNat 16 (fld w 9 16)) (tgtOf (fld w 0 9)))

/-- Words of primary opcode 0x08: MOV (02 R41). -/
def decOp08 (w : Nat) : Except DecodeErr Instr :=
  if fld w 19 4 = 0 then
    (predOf (fld w 23 2)).bind fun pr =>
    (dstOf (fld w 0 19)).bind fun d =>
    .ok (.mov pr d)
  else
  .error .unassigned

/-- Words of primary opcode 0x09: MOVI (02 R41). -/
def decOp09 (w : Nat) : Except DecodeErr Instr :=
  if fld w 19 4 = 0 then
    (predOf (fld w 23 2)).bind fun pr =>
    .ok (.movi pr (BitVec.ofNat 10 (fld w 9 10)) (tgtOf (fld w 0 9)))
  else
  .error .unassigned

/-- Words of primary opcode 0x0A: NOP (02 R41). -/
def decOp0a (w : Nat) : Except DecodeErr Instr :=
  if fld w 19 4 = 0 then
    if fld w 0 19 ≠ 0 then .error .mustBeZero else
    (predOf (fld w 23 2)).bind fun pr =>
    .ok (.nop pr)
  else
  .error .unassigned

/-- Words of primary opcode 0x0B: NULL (02 R41). -/
def decOp0b (w : Nat) : Except DecodeErr Instr :=
  if fld w 19 4 = 0 then
    (predOf (fld w 23 2)).bind fun pr =>
    (dstOf (fld w 0 19)).bind fun d =>
    .ok (.null pr d)
  else
  .error .unassigned

/-- Words of primary opcode 0x10: ADD, SUB, AND, OR, XOR, SHL, SHR, SRA, MIN, MAX, MINU, MAXU (02 R41). -/
def decOp10 (w : Nat) : Except DecodeErr Instr :=
  if fld w 19 4 = 0 then
    (predOf (fld w 23 2)).bind fun pr =>
    (dstOf (fld w 0 19)).bind fun d =>
    .ok (.add pr d)
  else
  if fld w 19 4 = 1 then
    (predOf (fld w 23 2)).bind fun pr =>
    (dstOf (fld w 0 19)).bind fun d =>
    .ok (.sub pr d)
  else
  if fld w 19 4 = 2 then
    (predOf (fld w 23 2)).bind fun pr =>
    (dstOf (fld w 0 19)).bind fun d =>
    .ok (.and pr d)
  else
  if fld w 19 4 = 3 then
    (predOf (fld w 23 2)).bind fun pr =>
    (dstOf (fld w 0 19)).bind fun d =>
    .ok (.or pr d)
  else
  if fld w 19 4 = 4 then
    (predOf (fld w 23 2)).bind fun pr =>
    (dstOf (fld w 0 19)).bind fun d =>
    .ok (.xor pr d)
  else
  if fld w 19 4 = 5 then
    (predOf (fld w 23 2)).bind fun pr =>
    (dstOf (fld w 0 19)).bind fun d =>
    .ok (.shl pr d)
  else
  if fld w 19 4 = 6 then
    (predOf (fld w 23 2)).bind fun pr =>
    (dstOf (fld w 0 19)).bind fun d =>
    .ok (.shr pr d)
  else
  if fld w 19 4 = 7 then
    (predOf (fld w 23 2)).bind fun pr =>
    (dstOf (fld w 0 19)).bind fun d =>
    .ok (.sra pr d)
  else
  if fld w 19 4 = 8 then
    (predOf (fld w 23 2)).bind fun pr =>
    (dstOf (fld w 0 19)).bind fun d =>
    .ok (.min pr d)
  else
  if fld w 19 4 = 9 then
    (predOf (fld w 23 2)).bind fun pr =>
    (dstOf (fld w 0 19)).bind fun d =>
    .ok (.max pr d)
  else
  if fld w 19 4 = 10 then
    (predOf (fld w 23 2)).bind fun pr =>
    (dstOf (fld w 0 19)).bind fun d =>
    .ok (.minu pr d)
  else
  if fld w 19 4 = 11 then
    (predOf (fld w 23 2)).bind fun pr =>
    (dstOf (fld w 0 19)).bind fun d =>
    .ok (.maxu pr d)
  else
  .error .unassigned

/-- Words of primary opcode 0x11: ADDI, SUBI, ANDI, ORI, XORI, SHLI, SHRI, SRAI (02 R41). -/
def decOp11 (w : Nat) : Except DecodeErr Instr :=
  if fld w 19 4 = 0 then
    (predOf (fld w 23 2)).bind fun pr =>
    .ok (.addi pr (BitVec.ofNat 10 (fld w 9 10)) (tgtOf (fld w 0 9)))
  else
  if fld w 19 4 = 1 then
    (predOf (fld w 23 2)).bind fun pr =>
    .ok (.subi pr (BitVec.ofNat 10 (fld w 9 10)) (tgtOf (fld w 0 9)))
  else
  if fld w 19 4 = 2 then
    (predOf (fld w 23 2)).bind fun pr =>
    .ok (.andi pr (BitVec.ofNat 10 (fld w 9 10)) (tgtOf (fld w 0 9)))
  else
  if fld w 19 4 = 3 then
    (predOf (fld w 23 2)).bind fun pr =>
    .ok (.ori pr (BitVec.ofNat 10 (fld w 9 10)) (tgtOf (fld w 0 9)))
  else
  if fld w 19 4 = 4 then
    (predOf (fld w 23 2)).bind fun pr =>
    .ok (.xori pr (BitVec.ofNat 10 (fld w 9 10)) (tgtOf (fld w 0 9)))
  else
  if fld w 19 4 = 5 then
    (predOf (fld w 23 2)).bind fun pr =>
    .ok (.shli pr (BitVec.ofNat 10 (fld w 9 10)) (tgtOf (fld w 0 9)))
  else
  if fld w 19 4 = 6 then
    (predOf (fld w 23 2)).bind fun pr =>
    .ok (.shri pr (BitVec.ofNat 10 (fld w 9 10)) (tgtOf (fld w 0 9)))
  else
  if fld w 19 4 = 7 then
    (predOf (fld w 23 2)).bind fun pr =>
    .ok (.srai pr (BitVec.ofNat 10 (fld w 9 10)) (tgtOf (fld w 0 9)))
  else
  .error .unassigned

/-- Words of primary opcode 0x12: MUL, MULH, MULHU, DIV, DIVU, REM, REMU (02 R41). -/
def decOp12 (w : Nat) : Except DecodeErr Instr :=
  if fld w 19 4 = 0 then
    (predOf (fld w 23 2)).bind fun pr =>
    (dstOf (fld w 0 19)).bind fun d =>
    .ok (.mul pr d)
  else
  if fld w 19 4 = 1 then
    (predOf (fld w 23 2)).bind fun pr =>
    (dstOf (fld w 0 19)).bind fun d =>
    .ok (.mulh pr d)
  else
  if fld w 19 4 = 2 then
    (predOf (fld w 23 2)).bind fun pr =>
    (dstOf (fld w 0 19)).bind fun d =>
    .ok (.mulhu pr d)
  else
  if fld w 19 4 = 3 then
    (predOf (fld w 23 2)).bind fun pr =>
    (dstOf (fld w 0 19)).bind fun d =>
    .ok (.div pr d)
  else
  if fld w 19 4 = 4 then
    (predOf (fld w 23 2)).bind fun pr =>
    (dstOf (fld w 0 19)).bind fun d =>
    .ok (.divu pr d)
  else
  if fld w 19 4 = 5 then
    (predOf (fld w 23 2)).bind fun pr =>
    (dstOf (fld w 0 19)).bind fun d =>
    .ok (.rem pr d)
  else
  if fld w 19 4 = 6 then
    (predOf (fld w 23 2)).bind fun pr =>
    (dstOf (fld w 0 19)).bind fun d =>
    .ok (.remu pr d)
  else
  .error .unassigned

/-- Words of primary opcode 0x13: MULI (02 R41). -/
def decOp13 (w : Nat) : Except DecodeErr Instr :=
  if fld w 19 4 = 0 then
    (predOf (fld w 23 2)).bind fun pr =>
    .ok (.muli pr (BitVec.ofNat 10 (fld w 9 10)) (tgtOf (fld w 0 9)))
  else
  .error .unassigned

/-- Words of primary opcode 0x14: CLZ, CTZ, POPC, EXTS8, EXTS16, EXTS32, EXTZ8, EXTZ16, EXTZ32 (02 R41). -/
def decOp14 (w : Nat) : Except DecodeErr Instr :=
  if fld w 19 4 = 0 then
    (predOf (fld w 23 2)).bind fun pr =>
    (dstOf (fld w 0 19)).bind fun d =>
    .ok (.clz pr d)
  else
  if fld w 19 4 = 1 then
    (predOf (fld w 23 2)).bind fun pr =>
    (dstOf (fld w 0 19)).bind fun d =>
    .ok (.ctz pr d)
  else
  if fld w 19 4 = 2 then
    (predOf (fld w 23 2)).bind fun pr =>
    (dstOf (fld w 0 19)).bind fun d =>
    .ok (.popc pr d)
  else
  if fld w 19 4 = 8 then
    (predOf (fld w 23 2)).bind fun pr =>
    (dstOf (fld w 0 19)).bind fun d =>
    .ok (.exts8 pr d)
  else
  if fld w 19 4 = 9 then
    (predOf (fld w 23 2)).bind fun pr =>
    (dstOf (fld w 0 19)).bind fun d =>
    .ok (.exts16 pr d)
  else
  if fld w 19 4 = 10 then
    (predOf (fld w 23 2)).bind fun pr =>
    (dstOf (fld w 0 19)).bind fun d =>
    .ok (.exts32 pr d)
  else
  if fld w 19 4 = 11 then
    (predOf (fld w 23 2)).bind fun pr =>
    (dstOf (fld w 0 19)).bind fun d =>
    .ok (.extz8 pr d)
  else
  if fld w 19 4 = 12 then
    (predOf (fld w 23 2)).bind fun pr =>
    (dstOf (fld w 0 19)).bind fun d =>
    .ok (.extz16 pr d)
  else
  if fld w 19 4 = 13 then
    (predOf (fld w 23 2)).bind fun pr =>
    (dstOf (fld w 0 19)).bind fun d =>
    .ok (.extz32 pr d)
  else
  .error .unassigned

/-- Words of primary opcode 0x15: BFX (02 R41). -/
def decOp15 (w : Nat) : Except DecodeErr Instr :=
  if fld w 19 4 = 0 then
    (predOf (fld w 23 2)).bind fun pr =>
    (dstOf (fld w 0 19)).bind fun d =>
    .ok (.bfx pr d)
  else
  .error .unassigned

/-- Words of primary opcode 0x16: BFI (02 R41). -/
def decOp16 (w : Nat) : Except DecodeErr Instr :=
  if fld w 19 4 = 0 then
    (predOf (fld w 23 2)).bind fun pr =>
    (dstOf (fld w 0 19)).bind fun d =>
    .ok (.bfi pr d)
  else
  .error .unassigned

/-- Words of primary opcode 0x17: LEA (02 R41). -/
def decOp17 (w : Nat) : Except DecodeErr Instr :=
  if fld w 21 2 = 0 then
    (predOf (fld w 23 2)).bind fun pr =>
    (dstOf (fld w 0 19)).bind fun d =>
    .ok (.lea pr (BitVec.ofNat 2 (fld w 19 2)) d)
  else
  .error .unassigned

/-- Words of primary opcode 0x18: TEQ, TNE, TLT, TLE, TLTU, TLEU (02 R41). -/
def decOp18 (w : Nat) : Except DecodeErr Instr :=
  if fld w 19 4 = 0 then
    (predOf (fld w 23 2)).bind fun pr =>
    (dstOf (fld w 0 19)).bind fun d =>
    .ok (.teq pr d)
  else
  if fld w 19 4 = 1 then
    (predOf (fld w 23 2)).bind fun pr =>
    (dstOf (fld w 0 19)).bind fun d =>
    .ok (.tne pr d)
  else
  if fld w 19 4 = 2 then
    (predOf (fld w 23 2)).bind fun pr =>
    (dstOf (fld w 0 19)).bind fun d =>
    .ok (.tlt pr d)
  else
  if fld w 19 4 = 3 then
    (predOf (fld w 23 2)).bind fun pr =>
    (dstOf (fld w 0 19)).bind fun d =>
    .ok (.tle pr d)
  else
  if fld w 19 4 = 4 then
    (predOf (fld w 23 2)).bind fun pr =>
    (dstOf (fld w 0 19)).bind fun d =>
    .ok (.tltu pr d)
  else
  if fld w 19 4 = 5 then
    (predOf (fld w 23 2)).bind fun pr =>
    (dstOf (fld w 0 19)).bind fun d =>
    .ok (.tleu pr d)
  else
  .error .unassigned

/-- Words of primary opcode 0x19: TEQI, TNEI, TLTI, TLEI, TLTUI, TLEUI (02 R41). -/
def decOp19 (w : Nat) : Except DecodeErr Instr :=
  if fld w 19 4 = 0 then
    (predOf (fld w 23 2)).bind fun pr =>
    .ok (.teqi pr (BitVec.ofNat 10 (fld w 9 10)) (tgtOf (fld w 0 9)))
  else
  if fld w 19 4 = 1 then
    (predOf (fld w 23 2)).bind fun pr =>
    .ok (.tnei pr (BitVec.ofNat 10 (fld w 9 10)) (tgtOf (fld w 0 9)))
  else
  if fld w 19 4 = 2 then
    (predOf (fld w 23 2)).bind fun pr =>
    .ok (.tlti pr (BitVec.ofNat 10 (fld w 9 10)) (tgtOf (fld w 0 9)))
  else
  if fld w 19 4 = 3 then
    (predOf (fld w 23 2)).bind fun pr =>
    .ok (.tlei pr (BitVec.ofNat 10 (fld w 9 10)) (tgtOf (fld w 0 9)))
  else
  if fld w 19 4 = 4 then
    (predOf (fld w 23 2)).bind fun pr =>
    .ok (.tltui pr (BitVec.ofNat 10 (fld w 9 10)) (tgtOf (fld w 0 9)))
  else
  if fld w 19 4 = 5 then
    (predOf (fld w 23 2)).bind fun pr =>
    .ok (.tleui pr (BitVec.ofNat 10 (fld w 9 10)) (tgtOf (fld w 0 9)))
  else
  .error .unassigned

/-- Words of primary opcode 0x1A: LEAI (02 R41). -/
def decOp1a (w : Nat) : Except DecodeErr Instr :=
  if fld w 21 2 = 0 then
    (predOf (fld w 23 2)).bind fun pr =>
    .ok (.leai pr (BitVec.ofNat 2 (fld w 19 2)) (BitVec.ofNat 10 (fld w 9 10)) (tgtOf (fld w 0 9)))
  else
  .error .unassigned

/-- Words of primary opcode 0x20: FADD, FSUB, FMUL, FDIV (02 R41). -/
def decOp20 (w : Nat) : Except DecodeErr Instr :=
  if fld w 19 2 = 0 then
    (predOf (fld w 23 2)).bind fun pr =>
    (dstOf (fld w 0 19)).bind fun d =>
    .ok (.fadd pr (ftyOf (fld w 21 2)) d)
  else
  if fld w 19 2 = 1 then
    (predOf (fld w 23 2)).bind fun pr =>
    (dstOf (fld w 0 19)).bind fun d =>
    .ok (.fsub pr (ftyOf (fld w 21 2)) d)
  else
  if fld w 19 2 = 2 then
    (predOf (fld w 23 2)).bind fun pr =>
    (dstOf (fld w 0 19)).bind fun d =>
    .ok (.fmul pr (ftyOf (fld w 21 2)) d)
  else
  if fld w 19 2 = 3 then
    (predOf (fld w 23 2)).bind fun pr =>
    (dstOf (fld w 0 19)).bind fun d =>
    .ok (.fdiv pr (ftyOf (fld w 21 2)) d)
  else
  .error .unassigned

/-- Words of primary opcode 0x21: FMIN, FMAX, FSQRT, FSGN (02 R41). -/
def decOp21 (w : Nat) : Except DecodeErr Instr :=
  if fld w 19 2 = 0 then
    (predOf (fld w 23 2)).bind fun pr =>
    (dstOf (fld w 0 19)).bind fun d =>
    .ok (.fmin pr (ftyOf (fld w 21 2)) d)
  else
  if fld w 19 2 = 1 then
    (predOf (fld w 23 2)).bind fun pr =>
    (dstOf (fld w 0 19)).bind fun d =>
    .ok (.fmax pr (ftyOf (fld w 21 2)) d)
  else
  if fld w 19 2 = 2 then
    (predOf (fld w 23 2)).bind fun pr =>
    (dstOf (fld w 0 19)).bind fun d =>
    .ok (.fsqrt pr (ftyOf (fld w 21 2)) d)
  else
  if fld w 19 2 = 3 then
    (predOf (fld w 23 2)).bind fun pr =>
    (dstOf (fld w 0 19)).bind fun d =>
    .ok (.fsgn pr (ftyOf (fld w 21 2)) d)
  else
  .error .unassigned

/-- Words of primary opcode 0x22: FFMA, FFMS, FFNMA, FFNMS (02 R41). -/
def decOp22 (w : Nat) : Except DecodeErr Instr :=
  if fld w 19 2 = 0 then
    (predOf (fld w 23 2)).bind fun pr =>
    (dstOf (fld w 0 19)).bind fun d =>
    .ok (.ffma pr (ftyOf (fld w 21 2)) d)
  else
  if fld w 19 2 = 1 then
    (predOf (fld w 23 2)).bind fun pr =>
    (dstOf (fld w 0 19)).bind fun d =>
    .ok (.ffms pr (ftyOf (fld w 21 2)) d)
  else
  if fld w 19 2 = 2 then
    (predOf (fld w 23 2)).bind fun pr =>
    (dstOf (fld w 0 19)).bind fun d =>
    .ok (.ffnma pr (ftyOf (fld w 21 2)) d)
  else
  if fld w 19 2 = 3 then
    (predOf (fld w 23 2)).bind fun pr =>
    (dstOf (fld w 0 19)).bind fun d =>
    .ok (.ffnms pr (ftyOf (fld w 21 2)) d)
  else
  .error .unassigned

/-- Words of primary opcode 0x23: FCVT (02 R41). -/
def decOp23 (w : Nat) : Except DecodeErr Instr :=
  (predOf (fld w 23 2)).bind fun pr =>
  (dstOf (fld w 0 19)).bind fun d =>
  if ftyOf (fld w 21 2) = ftyOf (fld w 19 2) then .error .equalTypes else
  .ok (.fcvt pr (ftyOf (fld w 21 2)) (ftyOf (fld w 19 2)) d)

/-- Words of primary opcode 0x24: FTOI (02 R41). -/
def decOp24 (w : Nat) : Except DecodeErr Instr :=
  (predOf (fld w 23 2)).bind fun pr =>
  (dstOf (fld w 0 19)).bind fun d =>
  .ok (.ftoi pr (ftyOf (fld w 21 2)) (boolOf (fld w 20 1)) (boolOf (fld w 19 1)) d)

/-- Words of primary opcode 0x25: ITOF (02 R41). -/
def decOp25 (w : Nat) : Except DecodeErr Instr :=
  if fld w 19 1 = 0 then
    (predOf (fld w 23 2)).bind fun pr =>
    (dstOf (fld w 0 19)).bind fun d =>
    .ok (.itof pr (ftyOf (fld w 21 2)) (boolOf (fld w 20 1)) d)
  else
  .error .unassigned

/-- Words of primary opcode 0x26: FEQ, FLT, FLE, FCLASS (02 R41). -/
def decOp26 (w : Nat) : Except DecodeErr Instr :=
  if fld w 19 2 = 0 then
    (predOf (fld w 23 2)).bind fun pr =>
    (dstOf (fld w 0 19)).bind fun d =>
    .ok (.feq pr (ftyOf (fld w 21 2)) d)
  else
  if fld w 19 2 = 1 then
    (predOf (fld w 23 2)).bind fun pr =>
    (dstOf (fld w 0 19)).bind fun d =>
    .ok (.flt pr (ftyOf (fld w 21 2)) d)
  else
  if fld w 19 2 = 2 then
    (predOf (fld w 23 2)).bind fun pr =>
    (dstOf (fld w 0 19)).bind fun d =>
    .ok (.fle pr (ftyOf (fld w 21 2)) d)
  else
  if fld w 19 2 = 3 then
    (predOf (fld w 23 2)).bind fun pr =>
    (dstOf (fld w 0 19)).bind fun d =>
    .ok (.fclass pr (ftyOf (fld w 21 2)) d)
  else
  .error .unassigned

/-- Words of primary opcode 0x28: BRO (02 R41). -/
def decOp28 (w : Nat) : Except DecodeErr Instr :=
  (predOf (fld w 23 2)).bind fun pr =>
  .ok (.bro pr (BitVec.ofNat 3 (fld w 20 3)) (BitVec.ofNat 20 (fld w 0 20)))

/-- Words of primary opcode 0x29: BR (02 R41). -/
def decOp29 (w : Nat) : Except DecodeErr Instr :=
  if fld w 19 4 = 0 then
    if fld w 0 19 ≠ 0 then .error .mustBeZero else
    (predOf (fld w 23 2)).bind fun pr =>
    .ok (.br pr)
  else
  .error .unassigned

/-- Words of primary opcode 0x2A: CALLO (02 R41). -/
def decOp2a (w : Nat) : Except DecodeErr Instr :=
  (predOf (fld w 23 2)).bind fun pr =>
  .ok (.callo pr (BitVec.ofNat 3 (fld w 20 3)) (BitVec.ofNat 20 (fld w 0 20)))

/-- Words of primary opcode 0x2B: CALL (02 R41). -/
def decOp2b (w : Nat) : Except DecodeErr Instr :=
  if fld w 19 4 = 0 then
    if fld w 0 19 ≠ 0 then .error .mustBeZero else
    (predOf (fld w 23 2)).bind fun pr =>
    .ok (.call pr)
  else
  .error .unassigned

/-- Words of primary opcode 0x2C: RET (02 R41). -/
def decOp2c (w : Nat) : Except DecodeErr Instr :=
  if fld w 19 4 = 0 then
    if fld w 0 19 ≠ 0 then .error .mustBeZero else
    (predOf (fld w 23 2)).bind fun pr =>
    .ok (.ret pr)
  else
  .error .unassigned

/-- Words of primary opcode 0x2D: EXITT (02 R41). -/
def decOp2d (w : Nat) : Except DecodeErr Instr :=
  if fld w 19 4 = 0 then
    if fld w 0 19 ≠ 0 then .error .mustBeZero else
    (predOf (fld w 23 2)).bind fun pr =>
    .ok (.exitt pr)
  else
  .error .unassigned

/-- Words of primary opcode 0x2E: YIELD (02 R41). -/
def decOp2e (w : Nat) : Except DecodeErr Instr :=
  (predOf (fld w 23 2)).bind fun pr =>
  .ok (.yield pr (BitVec.ofNat 3 (fld w 20 3)) (BitVec.ofNat 20 (fld w 0 20)))

/-- Words of primary opcode 0x2F: SCALL (02 R41). -/
def decOp2f (w : Nat) : Except DecodeErr Instr :=
  (predOf (fld w 23 2)).bind fun pr =>
  .ok (.scall pr (BitVec.ofNat 3 (fld w 20 3)) (BitVec.ofNat 20 (fld w 0 20)))

/-- Words of primary opcode 0x30: VADD, VSUB, VMUL, VMULH (02 R41). -/
def decOp30 (w : Nat) : Except DecodeErr Instr :=
  if fld w 19 2 = 0 then
    (predOf (fld w 23 2)).bind fun pr =>
    (dstOf (fld w 0 19)).bind fun d =>
    .ok (.vadd pr (shapeOf (fld w 21 2)) d)
  else
  if fld w 19 2 = 1 then
    (predOf (fld w 23 2)).bind fun pr =>
    (dstOf (fld w 0 19)).bind fun d =>
    .ok (.vsub pr (shapeOf (fld w 21 2)) d)
  else
  if fld w 19 2 = 2 then
    (predOf (fld w 23 2)).bind fun pr =>
    (dstOf (fld w 0 19)).bind fun d =>
    .ok (.vmul pr (shapeOf (fld w 21 2)) d)
  else
  if fld w 19 2 = 3 then
    (predOf (fld w 23 2)).bind fun pr =>
    (dstOf (fld w 0 19)).bind fun d =>
    .ok (.vmulh pr (shapeOf (fld w 21 2)) d)
  else
  .error .unassigned

/-- Words of primary opcode 0x31: VMIN, VMAX, VAND, VOR (02 R41). -/
def decOp31 (w : Nat) : Except DecodeErr Instr :=
  if fld w 19 2 = 0 then
    (predOf (fld w 23 2)).bind fun pr =>
    (dstOf (fld w 0 19)).bind fun d =>
    .ok (.vmin pr (shapeOf (fld w 21 2)) d)
  else
  if fld w 19 2 = 1 then
    (predOf (fld w 23 2)).bind fun pr =>
    (dstOf (fld w 0 19)).bind fun d =>
    .ok (.vmax pr (shapeOf (fld w 21 2)) d)
  else
  if fld w 19 2 = 2 then
    (predOf (fld w 23 2)).bind fun pr =>
    (dstOf (fld w 0 19)).bind fun d =>
    .ok (.vand pr (shapeOf (fld w 21 2)) d)
  else
  if fld w 19 2 = 3 then
    (predOf (fld w 23 2)).bind fun pr =>
    (dstOf (fld w 0 19)).bind fun d =>
    .ok (.vor pr (shapeOf (fld w 21 2)) d)
  else
  .error .unassigned

/-- Words of primary opcode 0x32: VXOR, VSHL, VSHR, VSRA (02 R41). -/
def decOp32 (w : Nat) : Except DecodeErr Instr :=
  if fld w 19 2 = 0 then
    (predOf (fld w 23 2)).bind fun pr =>
    (dstOf (fld w 0 19)).bind fun d =>
    .ok (.vxor pr (shapeOf (fld w 21 2)) d)
  else
  if fld w 19 2 = 1 then
    (predOf (fld w 23 2)).bind fun pr =>
    (dstOf (fld w 0 19)).bind fun d =>
    .ok (.vshl pr (shapeOf (fld w 21 2)) d)
  else
  if fld w 19 2 = 2 then
    (predOf (fld w 23 2)).bind fun pr =>
    (dstOf (fld w 0 19)).bind fun d =>
    .ok (.vshr pr (shapeOf (fld w 21 2)) d)
  else
  if fld w 19 2 = 3 then
    (predOf (fld w 23 2)).bind fun pr =>
    (dstOf (fld w 0 19)).bind fun d =>
    .ok (.vsra pr (shapeOf (fld w 21 2)) d)
  else
  .error .unassigned

/-- Words of primary opcode 0x33: VFADD, VFSUB, VFMUL, VFDIV (02 R41). -/
def decOp33 (w : Nat) : Except DecodeErr Instr :=
  if fld w 19 2 = 0 then
    (predOf (fld w 23 2)).bind fun pr =>
    (vtyOf (fld w 21 2)).bind fun y =>
    (dstOf (fld w 0 19)).bind fun d =>
    .ok (.vfadd pr y d)
  else
  if fld w 19 2 = 1 then
    (predOf (fld w 23 2)).bind fun pr =>
    (vtyOf (fld w 21 2)).bind fun y =>
    (dstOf (fld w 0 19)).bind fun d =>
    .ok (.vfsub pr y d)
  else
  if fld w 19 2 = 2 then
    (predOf (fld w 23 2)).bind fun pr =>
    (vtyOf (fld w 21 2)).bind fun y =>
    (dstOf (fld w 0 19)).bind fun d =>
    .ok (.vfmul pr y d)
  else
  if fld w 19 2 = 3 then
    (predOf (fld w 23 2)).bind fun pr =>
    (vtyOf (fld w 21 2)).bind fun y =>
    (dstOf (fld w 0 19)).bind fun d =>
    .ok (.vfdiv pr y d)
  else
  .error .unassigned

/-- Words of primary opcode 0x34: VFMIN, VFMAX, VFSQRT, VRCP (02 R41). -/
def decOp34 (w : Nat) : Except DecodeErr Instr :=
  if fld w 19 2 = 0 then
    (predOf (fld w 23 2)).bind fun pr =>
    (vtyOf (fld w 21 2)).bind fun y =>
    (dstOf (fld w 0 19)).bind fun d =>
    .ok (.vfmin pr y d)
  else
  if fld w 19 2 = 1 then
    (predOf (fld w 23 2)).bind fun pr =>
    (vtyOf (fld w 21 2)).bind fun y =>
    (dstOf (fld w 0 19)).bind fun d =>
    .ok (.vfmax pr y d)
  else
  if fld w 19 2 = 2 then
    (predOf (fld w 23 2)).bind fun pr =>
    (vtyOf (fld w 21 2)).bind fun y =>
    (dstOf (fld w 0 19)).bind fun d =>
    .ok (.vfsqrt pr y d)
  else
  if fld w 19 2 = 3 then
    (predOf (fld w 23 2)).bind fun pr =>
    (vtyOf (fld w 21 2)).bind fun y =>
    (dstOf (fld w 0 19)).bind fun d =>
    .ok (.vrcp pr y d)
  else
  .error .unassigned

/-- Words of primary opcode 0x35: VRSQ, VEXP2, VLOG2 (02 R41). -/
def decOp35 (w : Nat) : Except DecodeErr Instr :=
  if fld w 19 2 = 0 then
    (predOf (fld w 23 2)).bind fun pr =>
    (vtyOf (fld w 21 2)).bind fun y =>
    (dstOf (fld w 0 19)).bind fun d =>
    .ok (.vrsq pr y d)
  else
  if fld w 19 2 = 1 then
    (predOf (fld w 23 2)).bind fun pr =>
    (vtyOf (fld w 21 2)).bind fun y =>
    (dstOf (fld w 0 19)).bind fun d =>
    .ok (.vexp2 pr y d)
  else
  if fld w 19 2 = 2 then
    (predOf (fld w 23 2)).bind fun pr =>
    (vtyOf (fld w 21 2)).bind fun y =>
    (dstOf (fld w 0 19)).bind fun d =>
    .ok (.vlog2 pr y d)
  else
  .error .unassigned

/-- Words of primary opcode 0x36: VFFMA, VFFMS, VFFNMA, VFFNMS (02 R41). -/
def decOp36 (w : Nat) : Except DecodeErr Instr :=
  if fld w 19 2 = 0 then
    (predOf (fld w 23 2)).bind fun pr =>
    (vtyOf (fld w 21 2)).bind fun y =>
    (dstOf (fld w 0 19)).bind fun d =>
    .ok (.vffma pr y d)
  else
  if fld w 19 2 = 1 then
    (predOf (fld w 23 2)).bind fun pr =>
    (vtyOf (fld w 21 2)).bind fun y =>
    (dstOf (fld w 0 19)).bind fun d =>
    .ok (.vffms pr y d)
  else
  if fld w 19 2 = 2 then
    (predOf (fld w 23 2)).bind fun pr =>
    (vtyOf (fld w 21 2)).bind fun y =>
    (dstOf (fld w 0 19)).bind fun d =>
    .ok (.vffnma pr y d)
  else
  if fld w 19 2 = 3 then
    (predOf (fld w 23 2)).bind fun pr =>
    (vtyOf (fld w 21 2)).bind fun y =>
    (dstOf (fld w 0 19)).bind fun d =>
    .ok (.vffnms pr y d)
  else
  .error .unassigned

/-- Words of primary opcode 0x37: VCVT (02 R41). -/
def decOp37 (w : Nat) : Except DecodeErr Instr :=
  if fld w 19 4 = 0 then
    (predOf (fld w 23 2)).bind fun pr =>
    (dstOf (fld w 0 19)).bind fun d =>
    .ok (.vcvt pr d)
  else
  .error .unassigned

/-- Words of primary opcode 0x38: VQNT (02 R41). -/
def decOp38 (w : Nat) : Except DecodeErr Instr :=
  if fld w 19 4 = 0 then
    (predOf (fld w 23 2)).bind fun pr =>
    (dstOf (fld w 0 19)).bind fun d =>
    .ok (.vqnt pr d)
  else
  .error .unassigned

/-- Words of primary opcode 0x39: VDQNT (02 R41). -/
def decOp39 (w : Nat) : Except DecodeErr Instr :=
  if fld w 19 4 = 0 then
    (predOf (fld w 23 2)).bind fun pr =>
    (dstOf (fld w 0 19)).bind fun d =>
    .ok (.vdqnt pr d)
  else
  .error .unassigned

/-- Words of primary opcode 0x3A: VCMP (02 R41). -/
def decOp3a (w : Nat) : Except DecodeErr Instr :=
  (predOf (fld w 23 2)).bind fun pr =>
  (dstOf (fld w 0 19)).bind fun d =>
  .ok (.vcmp pr (shapeOf (fld w 21 2)) (vcondOf (fld w 19 2)) d)

/-- Words of primary opcode 0x3B: VFCMP (02 R41). -/
def decOp3b (w : Nat) : Except DecodeErr Instr :=
  (predOf (fld w 23 2)).bind fun pr =>
  (vtyOf (fld w 21 2)).bind fun y =>
  (dstOf (fld w 0 19)).bind fun d =>
  .ok (.vfcmp pr y (vfcondOf (fld w 19 2)) d)

/-- Words of primary opcode 0x3C: VSEL (02 R41). -/
def decOp3c (w : Nat) : Except DecodeErr Instr :=
  if fld w 19 2 = 0 then
    (predOf (fld w 23 2)).bind fun pr =>
    (dstOf (fld w 0 19)).bind fun d =>
    .ok (.vsel pr (shapeOf (fld w 21 2)) d)
  else
  .error .unassigned

/-- Words of primary opcode 0x3D: VBCAST (02 R41). -/
def decOp3d (w : Nat) : Except DecodeErr Instr :=
  if fld w 19 2 = 0 then
    (predOf (fld w 23 2)).bind fun pr =>
    (dstOf (fld w 0 19)).bind fun d =>
    .ok (.vbcast pr (shapeOf (fld w 21 2)) d)
  else
  .error .unassigned

/-- Words of primary opcode 0x3E: VEXTR (02 R41). -/
def decOp3e (w : Nat) : Except DecodeErr Instr :=
  if fld w 19 2 = 0 then
    (predOf (fld w 23 2)).bind fun pr =>
    (dstOf (fld w 0 19)).bind fun d =>
    .ok (.vextr pr (shapeOf (fld w 21 2)) d)
  else
  .error .unassigned

/-- Words of primary opcode 0x3F: VINS (02 R41). -/
def decOp3f (w : Nat) : Except DecodeErr Instr :=
  if fld w 19 2 = 0 then
    (predOf (fld w 23 2)).bind fun pr =>
    (dstOf (fld w 0 19)).bind fun d =>
    .ok (.vins pr (shapeOf (fld w 21 2)) d)
  else
  .error .unassigned

/-- Words of primary opcode 0x40: VSHUF (02 R41). -/
def decOp40 (w : Nat) : Except DecodeErr Instr :=
  if fld w 19 2 = 0 then
    (predOf (fld w 23 2)).bind fun pr =>
    (dstOf (fld w 0 19)).bind fun d =>
    .ok (.vshuf pr (shapeOf (fld w 21 2)) d)
  else
  .error .unassigned

/-- Words of primary opcode 0x41: VRED (02 R41). -/
def decOp41 (w : Nat) : Except DecodeErr Instr :=
  if fld w 19 4 = 0 then
    (predOf (fld w 23 2)).bind fun pr =>
    (dstOf (fld w 0 19)).bind fun d =>
    .ok (.vred pr d)
  else
  .error .unassigned

/-- Words of primary opcode 0x42: VSCAN (02 R41). -/
def decOp42 (w : Nat) : Except DecodeErr Instr :=
  if fld w 19 4 = 0 then
    (predOf (fld w 23 2)).bind fun pr =>
    (dstOf (fld w 0 19)).bind fun d =>
    .ok (.vscan pr d)
  else
  .error .unassigned

/-- Words of primary opcode 0x43: VDOT (02 R41). -/
def decOp43 (w : Nat) : Except DecodeErr Instr :=
  if fld w 19 4 = 0 then
    (predOf (fld w 23 2)).bind fun pr =>
    (dstOf (fld w 0 19)).bind fun d =>
    .ok (.vdot pr d)
  else
  .error .unassigned

/-- Words of primary opcode 0x44: LD_ZB (02 R41). -/
def decOp44 (w : Nat) : Except DecodeErr Instr :=
  (predOf (fld w 23 2)).bind fun pr =>
  .ok (.ldZb pr (BitVec.ofNat 5 (fld w 18 5)) (BitVec.ofNat 9 (fld w 9 9)) (tgtOf (fld w 0 9)))

/-- Words of primary opcode 0x45: LD_ZH (02 R41). -/
def decOp45 (w : Nat) : Except DecodeErr Instr :=
  (predOf (fld w 23 2)).bind fun pr =>
  .ok (.ldZh pr (BitVec.ofNat 5 (fld w 18 5)) (BitVec.ofNat 9 (fld w 9 9)) (tgtOf (fld w 0 9)))

/-- Words of primary opcode 0x46: LD_ZW (02 R41). -/
def decOp46 (w : Nat) : Except DecodeErr Instr :=
  (predOf (fld w 23 2)).bind fun pr =>
  .ok (.ldZw pr (BitVec.ofNat 5 (fld w 18 5)) (BitVec.ofNat 9 (fld w 9 9)) (tgtOf (fld w 0 9)))

/-- Words of primary opcode 0x47: LD_D (02 R41). -/
def decOp47 (w : Nat) : Except DecodeErr Instr :=
  (predOf (fld w 23 2)).bind fun pr =>
  .ok (.ldD pr (BitVec.ofNat 5 (fld w 18 5)) (BitVec.ofNat 9 (fld w 9 9)) (tgtOf (fld w 0 9)))

/-- Words of primary opcode 0x48: LD_SB (02 R41). -/
def decOp48 (w : Nat) : Except DecodeErr Instr :=
  (predOf (fld w 23 2)).bind fun pr =>
  .ok (.ldSb pr (BitVec.ofNat 5 (fld w 18 5)) (BitVec.ofNat 9 (fld w 9 9)) (tgtOf (fld w 0 9)))

/-- Words of primary opcode 0x49: LD_SH (02 R41). -/
def decOp49 (w : Nat) : Except DecodeErr Instr :=
  (predOf (fld w 23 2)).bind fun pr =>
  .ok (.ldSh pr (BitVec.ofNat 5 (fld w 18 5)) (BitVec.ofNat 9 (fld w 9 9)) (tgtOf (fld w 0 9)))

/-- Words of primary opcode 0x4A: LD_SW (02 R41). -/
def decOp4a (w : Nat) : Except DecodeErr Instr :=
  (predOf (fld w 23 2)).bind fun pr =>
  .ok (.ldSw pr (BitVec.ofNat 5 (fld w 18 5)) (BitVec.ofNat 9 (fld w 9 9)) (tgtOf (fld w 0 9)))

/-- Words of primary opcode 0x4B: ST_B (02 R41). -/
def decOp4b (w : Nat) : Except DecodeErr Instr :=
  (predOf (fld w 23 2)).bind fun pr =>
  .ok (.stB pr (BitVec.ofNat 5 (fld w 18 5)) (BitVec.ofNat 18 (fld w 0 18)))

/-- Words of primary opcode 0x4C: ST_H (02 R41). -/
def decOp4c (w : Nat) : Except DecodeErr Instr :=
  (predOf (fld w 23 2)).bind fun pr =>
  .ok (.stH pr (BitVec.ofNat 5 (fld w 18 5)) (BitVec.ofNat 18 (fld w 0 18)))

/-- Words of primary opcode 0x4D: ST_W (02 R41). -/
def decOp4d (w : Nat) : Except DecodeErr Instr :=
  (predOf (fld w 23 2)).bind fun pr =>
  .ok (.stW pr (BitVec.ofNat 5 (fld w 18 5)) (BitVec.ofNat 18 (fld w 0 18)))

/-- Words of primary opcode 0x4E: ST_D (02 R41). -/
def decOp4e (w : Nat) : Except DecodeErr Instr :=
  (predOf (fld w 23 2)).bind fun pr =>
  .ok (.stD pr (BitVec.ofNat 5 (fld w 18 5)) (BitVec.ofNat 18 (fld w 0 18)))

/-- Words of primary opcode 0x4F: LDACQ (02 R41). -/
def decOp4f (w : Nat) : Except DecodeErr Instr :=
  (predOf (fld w 23 2)).bind fun pr =>
  .ok (.ldacq pr (BitVec.ofNat 5 (fld w 18 5)) (BitVec.ofNat 9 (fld w 9 9)) (tgtOf (fld w 0 9)))

/-- Words of primary opcode 0x50: STREL (02 R41). -/
def decOp50 (w : Nat) : Except DecodeErr Instr :=
  (predOf (fld w 23 2)).bind fun pr =>
  .ok (.strel pr (BitVec.ofNat 5 (fld w 18 5)) (BitVec.ofNat 18 (fld w 0 18)))

/-- Words of primary opcode 0x51: VLD (02 R41). -/
def decOp51 (w : Nat) : Except DecodeErr Instr :=
  (predOf (fld w 23 2)).bind fun pr =>
  .ok (.vld pr (BitVec.ofNat 5 (fld w 18 5)) (BitVec.ofNat 9 (fld w 9 9)) (tgtOf (fld w 0 9)))

/-- Words of primary opcode 0x52: VST (02 R41). -/
def decOp52 (w : Nat) : Except DecodeErr Instr :=
  (predOf (fld w 23 2)).bind fun pr =>
  .ok (.vst pr (BitVec.ofNat 5 (fld w 18 5)) (BitVec.ofNat 18 (fld w 0 18)))

/-- Words of primary opcode 0x53: VLDS (02 R41). -/
def decOp53 (w : Nat) : Except DecodeErr Instr :=
  if fld w 16 2 = 0 then
    if fld w 9 5 ≠ 0 then .error .mustBeZero else
    (predOf (fld w 23 2)).bind fun pr =>
    .ok (.vlds pr (BitVec.ofNat 5 (fld w 18 5)) (shapeOf (fld w 14 2)) (tgtOf (fld w 0 9)))
  else
  .error .unassigned

/-- Words of primary opcode 0x54: VSTS (02 R41). -/
def decOp54 (w : Nat) : Except DecodeErr Instr :=
  if fld w 16 2 = 0 then
    if fld w 0 14 ≠ 0 then .error .mustBeZero else
    (predOf (fld w 23 2)).bind fun pr =>
    .ok (.vsts pr (BitVec.ofNat 5 (fld w 18 5)) (shapeOf (fld w 14 2)))
  else
  .error .unassigned

/-- Words of primary opcode 0x55: VGATH (02 R41). -/
def decOp55 (w : Nat) : Except DecodeErr Instr :=
  if fld w 16 2 = 0 then
    if fld w 12 2 ≠ 0 then .error .mustBeZero else
    (predOf (fld w 23 2)).bind fun pr =>
    .ok (.vgath pr (BitVec.ofNat 5 (fld w 18 5)) (shapeOf (fld w 14 2)) (boolOf (fld w 11 1)) (BitVec.ofNat 2 (fld w 9 2)) (tgtOf (fld w 0 9)))
  else
  .error .unassigned

/-- Words of primary opcode 0x56: VSCAT (02 R41). -/
def decOp56 (w : Nat) : Except DecodeErr Instr :=
  if fld w 16 2 = 0 then
    if fld w 12 2 ≠ 0 then .error .mustBeZero else
    if fld w 0 9 ≠ 0 then .error .mustBeZero else
    (predOf (fld w 23 2)).bind fun pr =>
    .ok (.vscat pr (BitVec.ofNat 5 (fld w 18 5)) (shapeOf (fld w 14 2)) (boolOf (fld w 11 1)) (BitVec.ofNat 2 (fld w 9 2)))
  else
  .error .unassigned

/-- Words of primary opcode 0x57: PREF (02 R41). -/
def decOp57 (w : Nat) : Except DecodeErr Instr :=
  if fld w 14 4 = 0 then
    if fld w 12 2 ≠ 0 then .error .mustBeZero else
    if fld w 0 9 ≠ 0 then .error .mustBeZero else
    (predOf (fld w 23 2)).bind fun pr =>
    (prefLevelOf (fld w 9 2)).bind fun lvl =>
    .ok (.pref pr (BitVec.ofNat 5 (fld w 18 5)) (boolOf (fld w 11 1)) lvl)
  else
  .error .unassigned

/-- Words of primary opcode 0x58: AMOADD, AMOAND, AMOOR, AMOXOR, AMOMIN, AMOMAX, AMOMINU, AMOMAXU (02 R41). -/
def decOp58 (w : Nat) : Except DecodeErr Instr :=
  if fld w 14 4 = 0 then
    (predOf (fld w 23 2)).bind fun pr =>
    (amoSizeOf (fld w 12 2)).bind fun size =>
    .ok (.amoadd pr (BitVec.ofNat 5 (fld w 18 5)) size (scopeOf (fld w 10 2)) (boolOf (fld w 9 1)) (tgtOf (fld w 0 9)))
  else
  if fld w 14 4 = 1 then
    (predOf (fld w 23 2)).bind fun pr =>
    (amoSizeOf (fld w 12 2)).bind fun size =>
    .ok (.amoand pr (BitVec.ofNat 5 (fld w 18 5)) size (scopeOf (fld w 10 2)) (boolOf (fld w 9 1)) (tgtOf (fld w 0 9)))
  else
  if fld w 14 4 = 2 then
    (predOf (fld w 23 2)).bind fun pr =>
    (amoSizeOf (fld w 12 2)).bind fun size =>
    .ok (.amoor pr (BitVec.ofNat 5 (fld w 18 5)) size (scopeOf (fld w 10 2)) (boolOf (fld w 9 1)) (tgtOf (fld w 0 9)))
  else
  if fld w 14 4 = 3 then
    (predOf (fld w 23 2)).bind fun pr =>
    (amoSizeOf (fld w 12 2)).bind fun size =>
    .ok (.amoxor pr (BitVec.ofNat 5 (fld w 18 5)) size (scopeOf (fld w 10 2)) (boolOf (fld w 9 1)) (tgtOf (fld w 0 9)))
  else
  if fld w 14 4 = 4 then
    (predOf (fld w 23 2)).bind fun pr =>
    (amoSizeOf (fld w 12 2)).bind fun size =>
    .ok (.amomin pr (BitVec.ofNat 5 (fld w 18 5)) size (scopeOf (fld w 10 2)) (boolOf (fld w 9 1)) (tgtOf (fld w 0 9)))
  else
  if fld w 14 4 = 5 then
    (predOf (fld w 23 2)).bind fun pr =>
    (amoSizeOf (fld w 12 2)).bind fun size =>
    .ok (.amomax pr (BitVec.ofNat 5 (fld w 18 5)) size (scopeOf (fld w 10 2)) (boolOf (fld w 9 1)) (tgtOf (fld w 0 9)))
  else
  if fld w 14 4 = 6 then
    (predOf (fld w 23 2)).bind fun pr =>
    (amoSizeOf (fld w 12 2)).bind fun size =>
    .ok (.amominu pr (BitVec.ofNat 5 (fld w 18 5)) size (scopeOf (fld w 10 2)) (boolOf (fld w 9 1)) (tgtOf (fld w 0 9)))
  else
  if fld w 14 4 = 7 then
    (predOf (fld w 23 2)).bind fun pr =>
    (amoSizeOf (fld w 12 2)).bind fun size =>
    .ok (.amomaxu pr (BitVec.ofNat 5 (fld w 18 5)) size (scopeOf (fld w 10 2)) (boolOf (fld w 9 1)) (tgtOf (fld w 0 9)))
  else
  .error .unassigned

/-- Words of primary opcode 0x59: AMOSWP, AMOCAS, AMOFADD (02 R41). -/
def decOp59 (w : Nat) : Except DecodeErr Instr :=
  if fld w 14 4 = 0 then
    (predOf (fld w 23 2)).bind fun pr =>
    (amoSizeOf (fld w 12 2)).bind fun size =>
    .ok (.amoswp pr (BitVec.ofNat 5 (fld w 18 5)) size (scopeOf (fld w 10 2)) (boolOf (fld w 9 1)) (tgtOf (fld w 0 9)))
  else
  if fld w 14 4 = 1 then
    (predOf (fld w 23 2)).bind fun pr =>
    (amoSizeOf (fld w 12 2)).bind fun size =>
    .ok (.amocas pr (BitVec.ofNat 5 (fld w 18 5)) size (scopeOf (fld w 10 2)) (boolOf (fld w 9 1)) (tgtOf (fld w 0 9)))
  else
  if fld w 14 4 = 2 then
    (predOf (fld w 23 2)).bind fun pr =>
    (amoSizeOf (fld w 12 2)).bind fun size =>
    .ok (.amofadd pr (BitVec.ofNat 5 (fld w 18 5)) size (scopeOf (fld w 10 2)) (boolOf (fld w 9 1)) (tgtOf (fld w 0 9)))
  else
  .error .unassigned

/-- Words of primary opcode 0x5A: VAMOADD (02 R41). -/
def decOp5a (w : Nat) : Except DecodeErr Instr :=
  if fld w 16 2 = 0 then
    if fld w 12 2 ≠ 0 then .error .mustBeZero else
    (predOf (fld w 23 2)).bind fun pr =>
    .ok (.vamoadd pr (BitVec.ofNat 5 (fld w 18 5)) (vamoTyOf (fld w 14 2)) (scopeOf (fld w 10 2)) (boolOf (fld w 9 1)) (tgtOf (fld w 0 9)))
  else
  .error .unassigned

/-- Words of primary opcode 0x5B: FENCE_ACQ, FENCE_REL, FENCE_ACQREL, FENCE_SC, FENCE_ENGINE (02 R41). -/
def decOp5b (w : Nat) : Except DecodeErr Instr :=
  if fld w 14 4 = 0 then
    if fld w 11 3 ≠ 0 then .error .mustBeZero else
    if fld w 0 9 ≠ 0 then .error .mustBeZero else
    (predOf (fld w 23 2)).bind fun pr =>
    .ok (.fenceAcq pr (BitVec.ofNat 5 (fld w 18 5)) (scopeOf (fld w 9 2)))
  else
  if fld w 14 4 = 1 then
    if fld w 11 3 ≠ 0 then .error .mustBeZero else
    if fld w 0 9 ≠ 0 then .error .mustBeZero else
    (predOf (fld w 23 2)).bind fun pr =>
    .ok (.fenceRel pr (BitVec.ofNat 5 (fld w 18 5)) (scopeOf (fld w 9 2)))
  else
  if fld w 14 4 = 2 then
    if fld w 11 3 ≠ 0 then .error .mustBeZero else
    if fld w 0 9 ≠ 0 then .error .mustBeZero else
    (predOf (fld w 23 2)).bind fun pr =>
    .ok (.fenceAcqrel pr (BitVec.ofNat 5 (fld w 18 5)) (scopeOf (fld w 9 2)))
  else
  if fld w 14 4 = 3 then
    if fld w 11 3 ≠ 0 then .error .mustBeZero else
    if fld w 0 9 ≠ 0 then .error .mustBeZero else
    (predOf (fld w 23 2)).bind fun pr =>
    .ok (.fenceSc pr (BitVec.ofNat 5 (fld w 18 5)) (scopeOf (fld w 9 2)))
  else
  if fld w 14 4 = 4 then
    if fld w 11 3 ≠ 0 then .error .mustBeZero else
    if fld w 0 9 ≠ 0 then .error .mustBeZero else
    (predOf (fld w 23 2)).bind fun pr =>
    .ok (.fenceEngine pr (BitVec.ofNat 5 (fld w 18 5)) (scopeOf (fld w 9 2)))
  else
  .error .unassigned

/-- Words of primary opcode 0x5C: WAITV (02 R41). -/
def decOp5c (w : Nat) : Except DecodeErr Instr :=
  if fld w 14 4 = 0 then
    if fld w 10 4 ≠ 0 then .error .mustBeZero else
    (predOf (fld w 23 2)).bind fun pr =>
    .ok (.waitv pr (BitVec.ofNat 5 (fld w 18 5)) (boolOf (fld w 9 1)) (tgtOf (fld w 0 9)))
  else
  .error .unassigned

/-- Words of primary opcode 0x5D: BARA (02 R41). -/
def decOp5d (w : Nat) : Except DecodeErr Instr :=
  if fld w 14 4 = 0 then
    if fld w 11 3 ≠ 0 then .error .mustBeZero else
    (predOf (fld w 23 2)).bind fun pr =>
    .ok (.bara pr (BitVec.ofNat 5 (fld w 18 5)) (scopeOf (fld w 9 2)) (tgtOf (fld w 0 9)))
  else
  .error .unassigned

/-- Words of primary opcode 0x5E: BARW (02 R41). -/
def decOp5e (w : Nat) : Except DecodeErr Instr :=
  if fld w 14 4 = 0 then
    if fld w 11 3 ≠ 0 then .error .mustBeZero else
    (predOf (fld w 23 2)).bind fun pr =>
    .ok (.barw pr (BitVec.ofNat 5 (fld w 18 5)) (scopeOf (fld w 9 2)) (tgtOf (fld w 0 9)))
  else
  .error .unassigned

/-- Words of primary opcode 0x60: TSPAWN, TSUBMIT, TDEP, TWAIT, TRANGE, TPRIO, AMSEND, AMREPLY, HTSET, INBOX (02 R41). -/
def decOp60 (w : Nat) : Except DecodeErr Instr :=
  if fld w 14 4 = 0 then
    if fld w 0 14 ≠ 0 then .error .mustBeZero else
    (predOf (fld w 23 2)).bind fun pr =>
    .ok (.tspawn pr (BitVec.ofNat 5 (fld w 18 5)))
  else
  if fld w 14 4 = 1 then
    if fld w 0 14 ≠ 0 then .error .mustBeZero else
    (predOf (fld w 23 2)).bind fun pr =>
    .ok (.tsubmit pr (BitVec.ofNat 5 (fld w 18 5)))
  else
  if fld w 14 4 = 2 then
    if fld w 0 14 ≠ 0 then .error .mustBeZero else
    (predOf (fld w 23 2)).bind fun pr =>
    .ok (.tdep pr (BitVec.ofNat 5 (fld w 18 5)))
  else
  if fld w 14 4 = 3 then
    if fld w 10 4 ≠ 0 then .error .mustBeZero else
    (predOf (fld w 23 2)).bind fun pr =>
    .ok (.twait pr (BitVec.ofNat 5 (fld w 18 5)) (boolOf (fld w 9 1)) (tgtOf (fld w 0 9)))
  else
  if fld w 14 4 = 4 then
    if fld w 0 14 ≠ 0 then .error .mustBeZero else
    (predOf (fld w 23 2)).bind fun pr =>
    .ok (.trange pr (BitVec.ofNat 5 (fld w 18 5)))
  else
  if fld w 14 4 = 5 then
    if fld w 0 14 ≠ 0 then .error .mustBeZero else
    (predOf (fld w 23 2)).bind fun pr =>
    .ok (.tprio pr (BitVec.ofNat 5 (fld w 18 5)))
  else
  if fld w 14 4 = 6 then
    if fld w 0 14 ≠ 0 then .error .mustBeZero else
    (predOf (fld w 23 2)).bind fun pr =>
    .ok (.amsend pr (BitVec.ofNat 5 (fld w 18 5)))
  else
  if fld w 14 4 = 7 then
    if fld w 0 14 ≠ 0 then .error .mustBeZero else
    (predOf (fld w 23 2)).bind fun pr =>
    .ok (.amreply pr (BitVec.ofNat 5 (fld w 18 5)))
  else
  if fld w 14 4 = 8 then
    if fld w 0 14 ≠ 0 then .error .mustBeZero else
    (predOf (fld w 23 2)).bind fun pr =>
    .ok (.htset pr (BitVec.ofNat 5 (fld w 18 5)))
  else
  if fld w 14 4 = 9 then
    if fld w 10 4 ≠ 0 then .error .mustBeZero else
    (predOf (fld w 23 2)).bind fun pr =>
    .ok (.inbox pr (BitVec.ofNat 5 (fld w 18 5)) (boolOf (fld w 9 1)) (tgtOf (fld w 0 9)))
  else
  .error .unassigned

/-- Words of primary opcode 0x61: HNEW, HENTER, HLEAVE, HRESOLVE, HSTAT, HLDC (02 R41). -/
def decOp61 (w : Nat) : Except DecodeErr Instr :=
  if fld w 14 4 = 0 then
    if fld w 9 5 ≠ 0 then .error .mustBeZero else
    (predOf (fld w 23 2)).bind fun pr =>
    .ok (.hnew pr (BitVec.ofNat 5 (fld w 18 5)) (tgtOf (fld w 0 9)))
  else
  if fld w 14 4 = 1 then
    if fld w 0 14 ≠ 0 then .error .mustBeZero else
    (predOf (fld w 23 2)).bind fun pr =>
    .ok (.henter pr (BitVec.ofNat 5 (fld w 18 5)))
  else
  if fld w 14 4 = 2 then
    if fld w 0 14 ≠ 0 then .error .mustBeZero else
    (predOf (fld w 23 2)).bind fun pr =>
    .ok (.hleave pr (BitVec.ofNat 5 (fld w 18 5)))
  else
  if fld w 14 4 = 3 then
    if fld w 9 5 ≠ 0 then .error .mustBeZero else
    (predOf (fld w 23 2)).bind fun pr =>
    .ok (.hresolve pr (BitVec.ofNat 5 (fld w 18 5)) (tgtOf (fld w 0 9)))
  else
  if fld w 14 4 = 4 then
    if fld w 10 4 ≠ 0 then .error .mustBeZero else
    (predOf (fld w 23 2)).bind fun pr =>
    .ok (.hstat pr (BitVec.ofNat 5 (fld w 18 5)) (boolOf (fld w 9 1)) (tgtOf (fld w 0 9)))
  else
  if fld w 14 4 = 5 then
    if fld w 13 1 ≠ 0 then .error .mustBeZero else
    (predOf (fld w 23 2)).bind fun pr =>
    if fld w 12 1 = 1 ∧ fld w 9 2 ≠ 3 then .error .acquireSize else
    .ok (.hldc pr (BitVec.ofNat 5 (fld w 18 5)) (boolOf (fld w 12 1)) (boolOf (fld w 11 1)) (memSizeOf (fld w 9 2)) (tgtOf (fld w 0 9)))
  else
  .error .unassigned

/-- Words of primary opcode 0x62: TDEF, TLOAD, TLOAD_EDGE, TSTORE, TSTORE_EDGE, TFREE, MMA, MMAI, MACCRD, MACCLR, MACCLD, MEW, MCOPY, MSPLAT (02 R41). -/
def decOp62 (w : Nat) : Except DecodeErr Instr :=
  if fld w 14 4 = 0 then
    if fld w 0 9 ≠ 0 then .error .mustBeZero else
    (predOf (fld w 23 2)).bind fun pr =>
    .ok (.tdef pr (BitVec.ofNat 5 (fld w 18 5)) (BitVec.ofNat 5 (fld w 9 5)))
  else
  if fld w 14 4 = 1 ∧ fld w 8 1 = 0 then
    if fld w 0 8 ≠ 0 then .error .mustBeZero else
    (predOf (fld w 23 2)).bind fun pr =>
    .ok (.tload pr (BitVec.ofNat 5 (fld w 18 5)) (BitVec.ofNat 5 (fld w 9 5)))
  else
  if fld w 14 4 = 1 ∧ fld w 8 1 = 1 then
    if fld w 7 1 ≠ 0 then .error .mustBeZero else
    if fld w 0 4 ≠ 0 then .error .mustBeZero else
    (predOf (fld w 23 2)).bind fun pr =>
    .ok (.tloadEdge pr (BitVec.ofNat 5 (fld w 18 5)) (BitVec.ofNat 5 (fld w 9 5)) (BitVec.ofNat 3 (fld w 4 3)))
  else
  if fld w 14 4 = 2 ∧ fld w 8 1 = 0 then
    if fld w 0 8 ≠ 0 then .error .mustBeZero else
    (predOf (fld w 23 2)).bind fun pr =>
    .ok (.tstore pr (BitVec.ofNat 5 (fld w 18 5)) (BitVec.ofNat 5 (fld w 9 5)))
  else
  if fld w 14 4 = 2 ∧ fld w 8 1 = 1 then
    if fld w 7 1 ≠ 0 then .error .mustBeZero else
    if fld w 0 4 ≠ 0 then .error .mustBeZero else
    (predOf (fld w 23 2)).bind fun pr =>
    .ok (.tstoreEdge pr (BitVec.ofNat 5 (fld w 18 5)) (BitVec.ofNat 5 (fld w 9 5)) (BitVec.ofNat 3 (fld w 4 3)))
  else
  if fld w 14 4 = 3 then
    if fld w 0 9 ≠ 0 then .error .mustBeZero else
    (predOf (fld w 23 2)).bind fun pr =>
    .ok (.tfree pr (BitVec.ofNat 5 (fld w 18 5)) (BitVec.ofNat 5 (fld w 9 5)))
  else
  if fld w 14 4 = 4 then
    if fld w 0 4 ≠ 0 then .error .mustBeZero else
    (predOf (fld w 23 2)).bind fun pr =>
    .ok (.mma pr (BitVec.ofNat 5 (fld w 18 5)) (BitVec.ofNat 5 (fld w 9 5)) (BitVec.ofNat 5 (fld w 4 5)))
  else
  if fld w 14 4 = 5 then
    if fld w 0 4 ≠ 0 then .error .mustBeZero else
    (predOf (fld w 23 2)).bind fun pr =>
    .ok (.mmai pr (BitVec.ofNat 5 (fld w 18 5)) (BitVec.ofNat 5 (fld w 9 5)) (BitVec.ofNat 5 (fld w 4 5)))
  else
  if fld w 14 4 = 6 then
    if fld w 0 9 ≠ 0 then .error .mustBeZero else
    (predOf (fld w 23 2)).bind fun pr =>
    .ok (.maccrd pr (BitVec.ofNat 5 (fld w 18 5)) (BitVec.ofNat 5 (fld w 9 5)))
  else
  if fld w 14 4 = 7 then
    if fld w 0 14 ≠ 0 then .error .mustBeZero else
    (predOf (fld w 23 2)).bind fun pr =>
    .ok (.macclr pr (BitVec.ofNat 5 (fld w 18 5)))
  else
  if fld w 14 4 = 8 then
    if fld w 0 9 ≠ 0 then .error .mustBeZero else
    (predOf (fld w 23 2)).bind fun pr =>
    .ok (.maccld pr (BitVec.ofNat 5 (fld w 18 5)) (BitVec.ofNat 5 (fld w 9 5)))
  else
  if fld w 14 4 = 9 then
    if fld w 0 9 ≠ 0 then .error .mustBeZero else
    (predOf (fld w 23 2)).bind fun pr =>
    .ok (.mew pr (BitVec.ofNat 5 (fld w 18 5)) (BitVec.ofNat 5 (fld w 9 5)))
  else
  if fld w 14 4 = 10 then
    if fld w 0 4 ≠ 0 then .error .mustBeZero else
    (predOf (fld w 23 2)).bind fun pr =>
    .ok (.mcopy pr (BitVec.ofNat 5 (fld w 18 5)) (BitVec.ofNat 5 (fld w 9 5)) (BitVec.ofNat 5 (fld w 4 5)))
  else
  if fld w 14 4 = 11 then
    if fld w 0 9 ≠ 0 then .error .mustBeZero else
    (predOf (fld w 23 2)).bind fun pr =>
    .ok (.msplat pr (BitVec.ofNat 5 (fld w 18 5)) (BitVec.ofNat 5 (fld w 9 5)))
  else
  .error .unassigned

/-- Words of primary opcode 0x63: SCOPY, SGATH, SSCAT, SLAYOUT, SFILL, SFENCE, SWAIT (02 R41). -/
def decOp63 (w : Nat) : Except DecodeErr Instr :=
  if fld w 14 4 = 0 then
    if fld w 11 3 ≠ 0 then .error .mustBeZero else
    (predOf (fld w 23 2)).bind fun pr =>
    .ok (.scopy pr (BitVec.ofNat 5 (fld w 18 5)) (BitVec.ofNat 2 (fld w 9 2)) (tgtOf (fld w 0 9)))
  else
  if fld w 14 4 = 1 then
    if fld w 11 3 ≠ 0 then .error .mustBeZero else
    (predOf (fld w 23 2)).bind fun pr =>
    .ok (.sgath pr (BitVec.ofNat 5 (fld w 18 5)) (BitVec.ofNat 2 (fld w 9 2)) (tgtOf (fld w 0 9)))
  else
  if fld w 14 4 = 2 then
    if fld w 11 3 ≠ 0 then .error .mustBeZero else
    (predOf (fld w 23 2)).bind fun pr =>
    .ok (.sscat pr (BitVec.ofNat 5 (fld w 18 5)) (BitVec.ofNat 2 (fld w 9 2)) (tgtOf (fld w 0 9)))
  else
  if fld w 14 4 = 3 then
    if fld w 11 3 ≠ 0 then .error .mustBeZero else
    (predOf (fld w 23 2)).bind fun pr =>
    .ok (.slayout pr (BitVec.ofNat 5 (fld w 18 5)) (BitVec.ofNat 2 (fld w 9 2)) (tgtOf (fld w 0 9)))
  else
  if fld w 14 4 = 4 then
    if fld w 11 3 ≠ 0 then .error .mustBeZero else
    (predOf (fld w 23 2)).bind fun pr =>
    .ok (.sfill pr (BitVec.ofNat 5 (fld w 18 5)) (BitVec.ofNat 2 (fld w 9 2)) (tgtOf (fld w 0 9)))
  else
  if fld w 14 4 = 5 then
    if fld w 11 3 ≠ 0 then .error .mustBeZero else
    (predOf (fld w 23 2)).bind fun pr =>
    .ok (.sfence pr (BitVec.ofNat 5 (fld w 18 5)) (scopeOf (fld w 9 2)) (tgtOf (fld w 0 9)))
  else
  if fld w 14 4 = 6 then
    if fld w 10 4 ≠ 0 then .error .mustBeZero else
    (predOf (fld w 23 2)).bind fun pr =>
    .ok (.swait pr (BitVec.ofNat 5 (fld w 18 5)) (boolOf (fld w 9 1)) (tgtOf (fld w 0 9)))
  else
  .error .unassigned

/-- Words of primary opcode 0x64: VWREG, VWDROP, VWSYNC, VWQRY, VWPOL (02 R41). -/
def decOp64 (w : Nat) : Except DecodeErr Instr :=
  if fld w 14 4 = 0 then
    if fld w 9 5 ≠ 0 then .error .mustBeZero else
    (predOf (fld w 23 2)).bind fun pr =>
    .ok (.vwreg pr (BitVec.ofNat 5 (fld w 18 5)) (tgtOf (fld w 0 9)))
  else
  if fld w 14 4 = 1 then
    if fld w 0 14 ≠ 0 then .error .mustBeZero else
    (predOf (fld w 23 2)).bind fun pr =>
    .ok (.vwdrop pr (BitVec.ofNat 5 (fld w 18 5)))
  else
  if fld w 14 4 = 2 then
    if fld w 10 4 ≠ 0 then .error .mustBeZero else
    (predOf (fld w 23 2)).bind fun pr =>
    .ok (.vwsync pr (BitVec.ofNat 5 (fld w 18 5)) (boolOf (fld w 9 1)) (tgtOf (fld w 0 9)))
  else
  if fld w 14 4 = 3 then
    if fld w 10 4 ≠ 0 then .error .mustBeZero else
    (predOf (fld w 23 2)).bind fun pr =>
    .ok (.vwqry pr (BitVec.ofNat 5 (fld w 18 5)) (boolOf (fld w 9 1)) (tgtOf (fld w 0 9)))
  else
  if fld w 14 4 = 4 then
    if fld w 0 14 ≠ 0 then .error .mustBeZero else
    (predOf (fld w 23 2)).bind fun pr =>
    .ok (.vwpol pr (BitVec.ofNat 5 (fld w 18 5)))
  else
  .error .unassigned

/-- Words of primary opcode 0x65: PLOAD, PUNLOAD, PSTART, PSTOP, PSAVE, PREST, SPUSH, SPOP (02 R41). -/
def decOp65 (w : Nat) : Except DecodeErr Instr :=
  if fld w 14 4 = 0 then
    if fld w 9 5 ≠ 0 then .error .mustBeZero else
    (predOf (fld w 23 2)).bind fun pr =>
    .ok (.pload pr (BitVec.ofNat 5 (fld w 18 5)) (tgtOf (fld w 0 9)))
  else
  if fld w 14 4 = 1 then
    if fld w 9 5 ≠ 0 then .error .mustBeZero else
    (predOf (fld w 23 2)).bind fun pr =>
    .ok (.punload pr (BitVec.ofNat 5 (fld w 18 5)) (tgtOf (fld w 0 9)))
  else
  if fld w 14 4 = 2 then
    if fld w 9 5 ≠ 0 then .error .mustBeZero else
    (predOf (fld w 23 2)).bind fun pr =>
    .ok (.pstart pr (BitVec.ofNat 5 (fld w 18 5)) (tgtOf (fld w 0 9)))
  else
  if fld w 14 4 = 3 then
    if fld w 9 5 ≠ 0 then .error .mustBeZero else
    (predOf (fld w 23 2)).bind fun pr =>
    .ok (.pstop pr (BitVec.ofNat 5 (fld w 18 5)) (tgtOf (fld w 0 9)))
  else
  if fld w 14 4 = 4 then
    if fld w 9 5 ≠ 0 then .error .mustBeZero else
    (predOf (fld w 23 2)).bind fun pr =>
    .ok (.psave pr (BitVec.ofNat 5 (fld w 18 5)) (tgtOf (fld w 0 9)))
  else
  if fld w 14 4 = 5 then
    if fld w 9 5 ≠ 0 then .error .mustBeZero else
    (predOf (fld w 23 2)).bind fun pr =>
    .ok (.prest pr (BitVec.ofNat 5 (fld w 18 5)) (tgtOf (fld w 0 9)))
  else
  if fld w 14 4 = 6 then
    if fld w 23 2 ≠ 0 then .error .illegalPredicate else
    if fld w 0 9 ≠ 0 then .error .mustBeZero else
    .ok (.spush (BitVec.ofNat 5 (fld w 18 5)) (BitVec.ofNat 5 (fld w 9 5)))
  else
  if fld w 14 4 = 7 then
    if fld w 23 2 ≠ 0 then .error .illegalPredicate else
    .ok (.spop (BitVec.ofNat 5 (fld w 18 5)) (BitVec.ofNat 5 (fld w 9 5)) (tgtOf (fld w 0 9)))
  else
  .error .unassigned

/-- Words of primary opcode 0x66: TRAP, RFT, CREAD, CWRITE, HALT, IDLE, PLBFL, CLINE, DBGBRK, AFWAIT, WINRD, WINWR, TRESUME, WSOPEN, WSCLOSE, RDTIME (02 R41). -/
def decOp66 (w : Nat) : Except DecodeErr Instr :=
  if fld w 14 4 = 0 then
    if fld w 0 14 ≠ 0 then .error .mustBeZero else
    (predOf (fld w 23 2)).bind fun pr =>
    .ok (.trap pr (BitVec.ofNat 5 (fld w 18 5)))
  else
  if fld w 14 4 = 1 then
    if fld w 0 14 ≠ 0 then .error .mustBeZero else
    (predOf (fld w 23 2)).bind fun pr =>
    .ok (.rft pr (BitVec.ofNat 5 (fld w 18 5)))
  else
  if fld w 14 4 = 2 then
    (predOf (fld w 23 2)).bind fun pr =>
    .ok (.cread pr (BitVec.ofNat 5 (fld w 18 5)) (BitVec.ofNat 5 (fld w 9 5)) (tgtOf (fld w 0 9)))
  else
  if fld w 14 4 = 3 then
    if fld w 0 9 ≠ 0 then .error .mustBeZero else
    (predOf (fld w 23 2)).bind fun pr =>
    .ok (.cwrite pr (BitVec.ofNat 5 (fld w 18 5)) (BitVec.ofNat 5 (fld w 9 5)))
  else
  if fld w 14 4 = 4 then
    if fld w 0 14 ≠ 0 then .error .mustBeZero else
    (predOf (fld w 23 2)).bind fun pr =>
    .ok (.halt pr (BitVec.ofNat 5 (fld w 18 5)))
  else
  if fld w 14 4 = 5 then
    if fld w 9 5 ≠ 0 then .error .mustBeZero else
    (predOf (fld w 23 2)).bind fun pr =>
    .ok (.idle pr (BitVec.ofNat 5 (fld w 18 5)) (tgtOf (fld w 0 9)))
  else
  if fld w 14 4 = 6 then
    if fld w 9 5 ≠ 0 then .error .mustBeZero else
    (predOf (fld w 23 2)).bind fun pr =>
    .ok (.plbfl pr (BitVec.ofNat 5 (fld w 18 5)) (tgtOf (fld w 0 9)))
  else
  if fld w 14 4 = 7 then
    if fld w 11 3 ≠ 0 then .error .mustBeZero else
    if fld w 0 9 ≠ 0 then .error .mustBeZero else
    (predOf (fld w 23 2)).bind fun pr =>
    (clineOpOf (fld w 9 2)).bind fun op =>
    .ok (.cline pr (BitVec.ofNat 5 (fld w 18 5)) op)
  else
  if fld w 14 4 = 8 then
    if fld w 0 14 ≠ 0 then .error .mustBeZero else
    (predOf (fld w 23 2)).bind fun pr =>
    .ok (.dbgbrk pr (BitVec.ofNat 5 (fld w 18 5)))
  else
  if fld w 14 4 = 9 then
    if fld w 9 5 ≠ 0 then .error .mustBeZero else
    (predOf (fld w 23 2)).bind fun pr =>
    .ok (.afwait pr (BitVec.ofNat 5 (fld w 18 5)) (tgtOf (fld w 0 9)))
  else
  if fld w 14 4 = 10 then
    if fld w 9 5 ≠ 0 then .error .mustBeZero else
    (predOf (fld w 23 2)).bind fun pr =>
    .ok (.winrd pr (BitVec.ofNat 5 (fld w 18 5)) (tgtOf (fld w 0 9)))
  else
  if fld w 14 4 = 11 then
    if fld w 0 14 ≠ 0 then .error .mustBeZero else
    (predOf (fld w 23 2)).bind fun pr =>
    .ok (.winwr pr (BitVec.ofNat 5 (fld w 18 5)))
  else
  if fld w 14 4 = 12 then
    if fld w 0 14 ≠ 0 then .error .mustBeZero else
    (predOf (fld w 23 2)).bind fun pr =>
    .ok (.tresume pr (BitVec.ofNat 5 (fld w 18 5)))
  else
  if fld w 14 4 = 13 then
    if fld w 0 14 ≠ 0 then .error .mustBeZero else
    (predOf (fld w 23 2)).bind fun pr =>
    .ok (.wsopen pr (BitVec.ofNat 5 (fld w 18 5)))
  else
  if fld w 14 4 = 14 then
    if fld w 0 14 ≠ 0 then .error .mustBeZero else
    (predOf (fld w 23 2)).bind fun pr =>
    .ok (.wsclose pr (BitVec.ofNat 5 (fld w 18 5)))
  else
  if fld w 14 4 = 15 then
    if fld w 9 5 ≠ 0 then .error .mustBeZero else
    (predOf (fld w 23 2)).bind fun pr =>
    .ok (.rdtime pr (BitVec.ofNat 5 (fld w 18 5)) (tgtOf (fld w 0 9)))
  else
  .error .unassigned

/-- Words of primary opcode 0x67: RDPMC (02 R41). -/
def decOp67 (w : Nat) : Except DecodeErr Instr :=
  if fld w 14 4 = 0 then
    if fld w 9 5 ≠ 0 then .error .mustBeZero else
    (predOf (fld w 23 2)).bind fun pr =>
    .ok (.rdpmc pr (BitVec.ofNat 5 (fld w 18 5)) (tgtOf (fld w 0 9)))
  else
  .error .unassigned

/-- The instruction of a 32-bit word, selected by its primary opcode in bits [31:25] (02 R33, R41). Total: every other word is refused by name (02 R46). -/
def decodeWord (w : Nat) : Except DecodeErr Instr :=
  match fld w 25 7 with
  | 1 => decOp01 w
  | 2 => decOp02 w
  | 3 => decOp03 w
  | 4 => decOp04 w
  | 5 => decOp05 w
  | 6 => decOp06 w
  | 7 => decOp07 w
  | 8 => decOp08 w
  | 9 => decOp09 w
  | 10 => decOp0a w
  | 11 => decOp0b w
  | 16 => decOp10 w
  | 17 => decOp11 w
  | 18 => decOp12 w
  | 19 => decOp13 w
  | 20 => decOp14 w
  | 21 => decOp15 w
  | 22 => decOp16 w
  | 23 => decOp17 w
  | 24 => decOp18 w
  | 25 => decOp19 w
  | 26 => decOp1a w
  | 32 => decOp20 w
  | 33 => decOp21 w
  | 34 => decOp22 w
  | 35 => decOp23 w
  | 36 => decOp24 w
  | 37 => decOp25 w
  | 38 => decOp26 w
  | 40 => decOp28 w
  | 41 => decOp29 w
  | 42 => decOp2a w
  | 43 => decOp2b w
  | 44 => decOp2c w
  | 45 => decOp2d w
  | 46 => decOp2e w
  | 47 => decOp2f w
  | 48 => decOp30 w
  | 49 => decOp31 w
  | 50 => decOp32 w
  | 51 => decOp33 w
  | 52 => decOp34 w
  | 53 => decOp35 w
  | 54 => decOp36 w
  | 55 => decOp37 w
  | 56 => decOp38 w
  | 57 => decOp39 w
  | 58 => decOp3a w
  | 59 => decOp3b w
  | 60 => decOp3c w
  | 61 => decOp3d w
  | 62 => decOp3e w
  | 63 => decOp3f w
  | 64 => decOp40 w
  | 65 => decOp41 w
  | 66 => decOp42 w
  | 67 => decOp43 w
  | 68 => decOp44 w
  | 69 => decOp45 w
  | 70 => decOp46 w
  | 71 => decOp47 w
  | 72 => decOp48 w
  | 73 => decOp49 w
  | 74 => decOp4a w
  | 75 => decOp4b w
  | 76 => decOp4c w
  | 77 => decOp4d w
  | 78 => decOp4e w
  | 79 => decOp4f w
  | 80 => decOp50 w
  | 81 => decOp51 w
  | 82 => decOp52 w
  | 83 => decOp53 w
  | 84 => decOp54 w
  | 85 => decOp55 w
  | 86 => decOp56 w
  | 87 => decOp57 w
  | 88 => decOp58 w
  | 89 => decOp59 w
  | 90 => decOp5a w
  | 91 => decOp5b w
  | 92 => decOp5c w
  | 93 => decOp5d w
  | 94 => decOp5e w
  | 96 => decOp60 w
  | 97 => decOp61 w
  | 98 => decOp62 w
  | 99 => decOp63 w
  | 100 => decOp64 w
  | 101 => decOp65 w
  | 102 => decOp66 w
  | 103 => decOp67 w
  | _ => .error .illegalPrimary
/-- The four bytes of a word in memory, little-endian (00 R4, 02 R33). -/
def wordOfBytes : List Byte → Except DecodeErr Nat
  | [b0, b1, b2, b3] => .ok (b0.toNat + b1.toNat * 256 + b2.toNat * 65536 + b3.toNat * 16777216)
  | _ => .error .notAWord

/-- The instruction four bytes of memory hold. -/
def decodeBytes (bs : List Byte) : Except DecodeErr Instr := (wordOfBytes bs).bind decodeWord

/-- The bytes of a word as the hardware stores them (02 R33). -/
def bytesOfWord (w : Nat) : List Byte :=
  [BitVec.ofNat 8 w, BitVec.ofNat 8 (w / 256), BitVec.ofNat 8 (w / 65536), BitVec.ofNat 8 (w / 16777216)]

/-- The instruction the decoder reads from a word of `nbits` bits, the bits above them zero. -/
def decodeTableWord (nbits w : Nat) : Option Instr :=
  if nbits ≤ 32 ∧ w < 2 ^ nbits then
    match decodeBytes (bytesOfWord w) with
    | .ok x => some x
    | .error _ => none
  else none

/-- The code of pr (02 R35). -/
def Pred.code : Pred → Nat
  | .always => 0
  | .onFalse => 2
  | .onTrue => 3

/-- The code of a slot (02 R36). -/
def Slot.code : Slot → Nat
  | .a => 0
  | .b => 1
  | .c => 2
  | .p => 3

/-- The 9 bits of a target (02 R36). -/
def Tgt.code : Tgt → Nat
  | .discard => 511
  | .to slot iid => slot.code * 128 + iid.toNat

/-- The 19 bits of T (02 R37). -/
def Dst.code : Dst → Nat
  | .dual t1 t2 => t1.code * 512 + t2.code
  | .fan slot row mask => 262144 + slot.code * 65536 + row.toNat * 4096 + mask.toNat * 16

/-- The code of a scalar FP type (02 R42). -/
def FTy.code : FTy → Nat
  | .f64 => 0
  | .f32 => 1
  | .f16 => 2
  | .bf16 => 3

/-- The code of a wide FP type (02 R43). -/
def VTy.code : VTy → Nat
  | .f32 => 0
  | .f16 => 1
  | .bf16 => 2

/-- The code of a VAMOADD lane type (09 R224). -/
def VAmoTy.code : VAmoTy → Nat
  | .e32 => 0
  | .e64 => 1
  | .f32 => 2
  | .bf16 => 3

/-- The code of a lane shape (02 R43). -/
def Shape.code : Shape → Nat
  | .e8 => 0
  | .e16 => 1
  | .e32 => 2
  | .e64 => 3

/-- The code of a scope (02 R44). -/
def Scope.code : Scope → Nat
  | .lens => 0
  | .die => 1
  | .pkg => 2
  | .sys => 3

/-- The code of an atomic's size (02 R44). -/
def AmoSize.code : AmoSize → Nat
  | .w => 2
  | .d => 3

/-- The code of an HLDC size (10 R250). -/
def MemSize.code : MemSize → Nat
  | .b => 0
  | .h => 1
  | .w => 2
  | .d => 3

/-- The code of a VCMP condition (02 R41). -/
def VCond.code : VCond → Nat
  | .eq => 0
  | .ne => 1
  | .lt => 2
  | .ltu => 3

/-- The code of a VFCMP condition (02 R41). -/
def VFCond.code : VFCond → Nat
  | .eq => 0
  | .lt => 1
  | .le => 2
  | .un => 3

/-- The code of a PREF level (05 R147). -/
def PrefLevel.code : PrefLevel → Nat
  | .l1 => 0
  | .l2 => 1

/-- The code of a CLINE operation (17 R356). -/
def ClineOp.code : ClineOp → Nat
  | .ic => 0
  | .wb => 1
  | .wbi => 2

/-- The word of an encoded instruction, field by field as the opcode map lays it out (02 R33 to R45); an event has none. -/
def encodeWord (x : Instr) : Option Nat :=
  match x with
  | .gread reg d => some (33554432 + reg.toNat * 524288 + d.code)
  | .wread reg d => some (67108864 + reg.toNat * 524288 + d.code)
  | .gwrite pr reg => some (100663296 + pr.code * 8388608 + reg.toNat * 131072)
  | .wwrite pr reg => some (134217728 + pr.code * 8388608 + reg.toNat * 131072)
  | .gens imm t => some (167772160 + imm.toNat * 512 + t.code)
  | .genu imm t => some (201326592 + imm.toNat * 512 + t.code)
  | .appc imm t => some (234881024 + imm.toNat * 512 + t.code)
  | .mov pr d => some (268435456 + pr.code * 8388608 + d.code)
  | .movi pr imm t => some (301989888 + pr.code * 8388608 + imm.toNat * 512 + t.code)
  | .nop pr => some (335544320 + pr.code * 8388608)
  | .null pr d => some (369098752 + pr.code * 8388608 + d.code)
  | .add pr d => some (536870912 + pr.code * 8388608 + d.code)
  | .sub pr d => some (537395200 + pr.code * 8388608 + d.code)
  | .and pr d => some (537919488 + pr.code * 8388608 + d.code)
  | .or pr d => some (538443776 + pr.code * 8388608 + d.code)
  | .xor pr d => some (538968064 + pr.code * 8388608 + d.code)
  | .shl pr d => some (539492352 + pr.code * 8388608 + d.code)
  | .shr pr d => some (540016640 + pr.code * 8388608 + d.code)
  | .sra pr d => some (540540928 + pr.code * 8388608 + d.code)
  | .min pr d => some (541065216 + pr.code * 8388608 + d.code)
  | .max pr d => some (541589504 + pr.code * 8388608 + d.code)
  | .minu pr d => some (542113792 + pr.code * 8388608 + d.code)
  | .maxu pr d => some (542638080 + pr.code * 8388608 + d.code)
  | .addi pr imm t => some (570425344 + pr.code * 8388608 + imm.toNat * 512 + t.code)
  | .subi pr imm t => some (570949632 + pr.code * 8388608 + imm.toNat * 512 + t.code)
  | .andi pr imm t => some (571473920 + pr.code * 8388608 + imm.toNat * 512 + t.code)
  | .ori pr imm t => some (571998208 + pr.code * 8388608 + imm.toNat * 512 + t.code)
  | .xori pr imm t => some (572522496 + pr.code * 8388608 + imm.toNat * 512 + t.code)
  | .shli pr imm t => some (573046784 + pr.code * 8388608 + imm.toNat * 512 + t.code)
  | .shri pr imm t => some (573571072 + pr.code * 8388608 + imm.toNat * 512 + t.code)
  | .srai pr imm t => some (574095360 + pr.code * 8388608 + imm.toNat * 512 + t.code)
  | .mul pr d => some (603979776 + pr.code * 8388608 + d.code)
  | .mulh pr d => some (604504064 + pr.code * 8388608 + d.code)
  | .mulhu pr d => some (605028352 + pr.code * 8388608 + d.code)
  | .div pr d => some (605552640 + pr.code * 8388608 + d.code)
  | .divu pr d => some (606076928 + pr.code * 8388608 + d.code)
  | .rem pr d => some (606601216 + pr.code * 8388608 + d.code)
  | .remu pr d => some (607125504 + pr.code * 8388608 + d.code)
  | .muli pr imm t => some (637534208 + pr.code * 8388608 + imm.toNat * 512 + t.code)
  | .clz pr d => some (671088640 + pr.code * 8388608 + d.code)
  | .ctz pr d => some (671612928 + pr.code * 8388608 + d.code)
  | .popc pr d => some (672137216 + pr.code * 8388608 + d.code)
  | .exts8 pr d => some (675282944 + pr.code * 8388608 + d.code)
  | .exts16 pr d => some (675807232 + pr.code * 8388608 + d.code)
  | .exts32 pr d => some (676331520 + pr.code * 8388608 + d.code)
  | .extz8 pr d => some (676855808 + pr.code * 8388608 + d.code)
  | .extz16 pr d => some (677380096 + pr.code * 8388608 + d.code)
  | .extz32 pr d => some (677904384 + pr.code * 8388608 + d.code)
  | .bfx pr d => some (704643072 + pr.code * 8388608 + d.code)
  | .bfi pr d => some (738197504 + pr.code * 8388608 + d.code)
  | .lea pr shift d => some (771751936 + pr.code * 8388608 + shift.toNat * 524288 + d.code)
  | .leai pr shift imm t => some (872415232 + pr.code * 8388608 + shift.toNat * 524288 + imm.toNat * 512 + t.code)
  | .teq pr d => some (805306368 + pr.code * 8388608 + d.code)
  | .tne pr d => some (805830656 + pr.code * 8388608 + d.code)
  | .tlt pr d => some (806354944 + pr.code * 8388608 + d.code)
  | .tle pr d => some (806879232 + pr.code * 8388608 + d.code)
  | .tltu pr d => some (807403520 + pr.code * 8388608 + d.code)
  | .tleu pr d => some (807927808 + pr.code * 8388608 + d.code)
  | .teqi pr imm t => some (838860800 + pr.code * 8388608 + imm.toNat * 512 + t.code)
  | .tnei pr imm t => some (839385088 + pr.code * 8388608 + imm.toNat * 512 + t.code)
  | .tlti pr imm t => some (839909376 + pr.code * 8388608 + imm.toNat * 512 + t.code)
  | .tlei pr imm t => some (840433664 + pr.code * 8388608 + imm.toNat * 512 + t.code)
  | .tltui pr imm t => some (840957952 + pr.code * 8388608 + imm.toNat * 512 + t.code)
  | .tleui pr imm t => some (841482240 + pr.code * 8388608 + imm.toNat * 512 + t.code)
  | .fadd pr y d => some (1073741824 + pr.code * 8388608 + y.code * 2097152 + d.code)
  | .fsub pr y d => some (1074266112 + pr.code * 8388608 + y.code * 2097152 + d.code)
  | .fmul pr y d => some (1074790400 + pr.code * 8388608 + y.code * 2097152 + d.code)
  | .fdiv pr y d => some (1075314688 + pr.code * 8388608 + y.code * 2097152 + d.code)
  | .fmin pr y d => some (1107296256 + pr.code * 8388608 + y.code * 2097152 + d.code)
  | .fmax pr y d => some (1107820544 + pr.code * 8388608 + y.code * 2097152 + d.code)
  | .fsqrt pr y d => some (1108344832 + pr.code * 8388608 + y.code * 2097152 + d.code)
  | .fsgn pr y d => some (1108869120 + pr.code * 8388608 + y.code * 2097152 + d.code)
  | .ffma pr y d => some (1140850688 + pr.code * 8388608 + y.code * 2097152 + d.code)
  | .ffms pr y d => some (1141374976 + pr.code * 8388608 + y.code * 2097152 + d.code)
  | .ffnma pr y d => some (1141899264 + pr.code * 8388608 + y.code * 2097152 + d.code)
  | .ffnms pr y d => some (1142423552 + pr.code * 8388608 + y.code * 2097152 + d.code)
  | .fcvt pr y z d => some (1174405120 + pr.code * 8388608 + y.code * 2097152 + z.code * 524288 + d.code)
  | .ftoi pr y sgn trunc d => some (1207959552 + pr.code * 8388608 + y.code * 2097152 + sgn.toNat * 1048576 + trunc.toNat * 524288 + d.code)
  | .itof pr y sgn d => some (1241513984 + pr.code * 8388608 + y.code * 2097152 + sgn.toNat * 1048576 + d.code)
  | .feq pr y d => some (1275068416 + pr.code * 8388608 + y.code * 2097152 + d.code)
  | .flt pr y d => some (1275592704 + pr.code * 8388608 + y.code * 2097152 + d.code)
  | .fle pr y d => some (1276116992 + pr.code * 8388608 + y.code * 2097152 + d.code)
  | .fclass pr y d => some (1276641280 + pr.code * 8388608 + y.code * 2097152 + d.code)
  | .bro pr exit off => some (1342177280 + pr.code * 8388608 + exit.toNat * 1048576 + off.toNat)
  | .br pr => some (1375731712 + pr.code * 8388608)
  | .callo pr exit off => some (1409286144 + pr.code * 8388608 + exit.toNat * 1048576 + off.toNat)
  | .call pr => some (1442840576 + pr.code * 8388608)
  | .ret pr => some (1476395008 + pr.code * 8388608)
  | .exitt pr => some (1509949440 + pr.code * 8388608)
  | .yield pr exit off => some (1543503872 + pr.code * 8388608 + exit.toNat * 1048576 + off.toNat)
  | .scall pr exit svc => some (1577058304 + pr.code * 8388608 + exit.toNat * 1048576 + svc.toNat)
  | .vadd pr sh d => some (1610612736 + pr.code * 8388608 + sh.code * 2097152 + d.code)
  | .vsub pr sh d => some (1611137024 + pr.code * 8388608 + sh.code * 2097152 + d.code)
  | .vmul pr sh d => some (1611661312 + pr.code * 8388608 + sh.code * 2097152 + d.code)
  | .vmulh pr sh d => some (1612185600 + pr.code * 8388608 + sh.code * 2097152 + d.code)
  | .vmin pr sh d => some (1644167168 + pr.code * 8388608 + sh.code * 2097152 + d.code)
  | .vmax pr sh d => some (1644691456 + pr.code * 8388608 + sh.code * 2097152 + d.code)
  | .vand pr sh d => some (1645215744 + pr.code * 8388608 + sh.code * 2097152 + d.code)
  | .vor pr sh d => some (1645740032 + pr.code * 8388608 + sh.code * 2097152 + d.code)
  | .vxor pr sh d => some (1677721600 + pr.code * 8388608 + sh.code * 2097152 + d.code)
  | .vshl pr sh d => some (1678245888 + pr.code * 8388608 + sh.code * 2097152 + d.code)
  | .vshr pr sh d => some (1678770176 + pr.code * 8388608 + sh.code * 2097152 + d.code)
  | .vsra pr sh d => some (1679294464 + pr.code * 8388608 + sh.code * 2097152 + d.code)
  | .vfadd pr y d => some (1711276032 + pr.code * 8388608 + y.code * 2097152 + d.code)
  | .vfsub pr y d => some (1711800320 + pr.code * 8388608 + y.code * 2097152 + d.code)
  | .vfmul pr y d => some (1712324608 + pr.code * 8388608 + y.code * 2097152 + d.code)
  | .vfdiv pr y d => some (1712848896 + pr.code * 8388608 + y.code * 2097152 + d.code)
  | .vfmin pr y d => some (1744830464 + pr.code * 8388608 + y.code * 2097152 + d.code)
  | .vfmax pr y d => some (1745354752 + pr.code * 8388608 + y.code * 2097152 + d.code)
  | .vfsqrt pr y d => some (1745879040 + pr.code * 8388608 + y.code * 2097152 + d.code)
  | .vrcp pr y d => some (1746403328 + pr.code * 8388608 + y.code * 2097152 + d.code)
  | .vrsq pr y d => some (1778384896 + pr.code * 8388608 + y.code * 2097152 + d.code)
  | .vexp2 pr y d => some (1778909184 + pr.code * 8388608 + y.code * 2097152 + d.code)
  | .vlog2 pr y d => some (1779433472 + pr.code * 8388608 + y.code * 2097152 + d.code)
  | .vffma pr y d => some (1811939328 + pr.code * 8388608 + y.code * 2097152 + d.code)
  | .vffms pr y d => some (1812463616 + pr.code * 8388608 + y.code * 2097152 + d.code)
  | .vffnma pr y d => some (1812987904 + pr.code * 8388608 + y.code * 2097152 + d.code)
  | .vffnms pr y d => some (1813512192 + pr.code * 8388608 + y.code * 2097152 + d.code)
  | .vcvt pr d => some (1845493760 + pr.code * 8388608 + d.code)
  | .vqnt pr d => some (1879048192 + pr.code * 8388608 + d.code)
  | .vdqnt pr d => some (1912602624 + pr.code * 8388608 + d.code)
  | .vcmp pr sh cond d => some (1946157056 + pr.code * 8388608 + sh.code * 2097152 + cond.code * 524288 + d.code)
  | .vfcmp pr y cond d => some (1979711488 + pr.code * 8388608 + y.code * 2097152 + cond.code * 524288 + d.code)
  | .vsel pr sh d => some (2013265920 + pr.code * 8388608 + sh.code * 2097152 + d.code)
  | .vbcast pr sh d => some (2046820352 + pr.code * 8388608 + sh.code * 2097152 + d.code)
  | .vextr pr sh d => some (2080374784 + pr.code * 8388608 + sh.code * 2097152 + d.code)
  | .vins pr sh d => some (2113929216 + pr.code * 8388608 + sh.code * 2097152 + d.code)
  | .vshuf pr sh d => some (2147483648 + pr.code * 8388608 + sh.code * 2097152 + d.code)
  | .vred pr d => some (2181038080 + pr.code * 8388608 + d.code)
  | .vscan pr d => some (2214592512 + pr.code * 8388608 + d.code)
  | .vdot pr d => some (2248146944 + pr.code * 8388608 + d.code)
  | .ldZb pr eff imm t => some (2281701376 + pr.code * 8388608 + eff.toNat * 262144 + imm.toNat * 512 + t.code)
  | .ldZh pr eff imm t => some (2315255808 + pr.code * 8388608 + eff.toNat * 262144 + imm.toNat * 512 + t.code)
  | .ldZw pr eff imm t => some (2348810240 + pr.code * 8388608 + eff.toNat * 262144 + imm.toNat * 512 + t.code)
  | .ldD pr eff imm t => some (2382364672 + pr.code * 8388608 + eff.toNat * 262144 + imm.toNat * 512 + t.code)
  | .ldSb pr eff imm t => some (2415919104 + pr.code * 8388608 + eff.toNat * 262144 + imm.toNat * 512 + t.code)
  | .ldSh pr eff imm t => some (2449473536 + pr.code * 8388608 + eff.toNat * 262144 + imm.toNat * 512 + t.code)
  | .ldSw pr eff imm t => some (2483027968 + pr.code * 8388608 + eff.toNat * 262144 + imm.toNat * 512 + t.code)
  | .stB pr eff imm => some (2516582400 + pr.code * 8388608 + eff.toNat * 262144 + imm.toNat)
  | .stH pr eff imm => some (2550136832 + pr.code * 8388608 + eff.toNat * 262144 + imm.toNat)
  | .stW pr eff imm => some (2583691264 + pr.code * 8388608 + eff.toNat * 262144 + imm.toNat)
  | .stD pr eff imm => some (2617245696 + pr.code * 8388608 + eff.toNat * 262144 + imm.toNat)
  | .ldacq pr eff imm t => some (2650800128 + pr.code * 8388608 + eff.toNat * 262144 + imm.toNat * 512 + t.code)
  | .strel pr eff imm => some (2684354560 + pr.code * 8388608 + eff.toNat * 262144 + imm.toNat)
  | .vld pr eff imm t => some (2717908992 + pr.code * 8388608 + eff.toNat * 262144 + imm.toNat * 512 + t.code)
  | .vst pr eff imm => some (2751463424 + pr.code * 8388608 + eff.toNat * 262144 + imm.toNat)
  | .vlds pr eff sh t => some (2785017856 + pr.code * 8388608 + eff.toNat * 262144 + sh.code * 16384 + t.code)
  | .vsts pr eff sh => some (2818572288 + pr.code * 8388608 + eff.toNat * 262144 + sh.code * 16384)
  | .vgath pr eff sh uns scale t => some (2852126720 + pr.code * 8388608 + eff.toNat * 262144 + sh.code * 16384 + uns.toNat * 2048 + scale.toNat * 512 + t.code)
  | .vscat pr eff sh uns scale => some (2885681152 + pr.code * 8388608 + eff.toNat * 262144 + sh.code * 16384 + uns.toNat * 2048 + scale.toNat * 512)
  | .pref pr eff wr lvl => some (2919235584 + pr.code * 8388608 + eff.toNat * 262144 + wr.toNat * 2048 + lvl.code * 512)
  | .amoadd pr eff size sc rlx t => some (2952790016 + pr.code * 8388608 + eff.toNat * 262144 + size.code * 4096 + sc.code * 1024 + rlx.toNat * 512 + t.code)
  | .amoand pr eff size sc rlx t => some (2952806400 + pr.code * 8388608 + eff.toNat * 262144 + size.code * 4096 + sc.code * 1024 + rlx.toNat * 512 + t.code)
  | .amoor pr eff size sc rlx t => some (2952822784 + pr.code * 8388608 + eff.toNat * 262144 + size.code * 4096 + sc.code * 1024 + rlx.toNat * 512 + t.code)
  | .amoxor pr eff size sc rlx t => some (2952839168 + pr.code * 8388608 + eff.toNat * 262144 + size.code * 4096 + sc.code * 1024 + rlx.toNat * 512 + t.code)
  | .amomin pr eff size sc rlx t => some (2952855552 + pr.code * 8388608 + eff.toNat * 262144 + size.code * 4096 + sc.code * 1024 + rlx.toNat * 512 + t.code)
  | .amomax pr eff size sc rlx t => some (2952871936 + pr.code * 8388608 + eff.toNat * 262144 + size.code * 4096 + sc.code * 1024 + rlx.toNat * 512 + t.code)
  | .amominu pr eff size sc rlx t => some (2952888320 + pr.code * 8388608 + eff.toNat * 262144 + size.code * 4096 + sc.code * 1024 + rlx.toNat * 512 + t.code)
  | .amomaxu pr eff size sc rlx t => some (2952904704 + pr.code * 8388608 + eff.toNat * 262144 + size.code * 4096 + sc.code * 1024 + rlx.toNat * 512 + t.code)
  | .amoswp pr eff size sc rlx t => some (2986344448 + pr.code * 8388608 + eff.toNat * 262144 + size.code * 4096 + sc.code * 1024 + rlx.toNat * 512 + t.code)
  | .amocas pr eff size sc rlx t => some (2986360832 + pr.code * 8388608 + eff.toNat * 262144 + size.code * 4096 + sc.code * 1024 + rlx.toNat * 512 + t.code)
  | .amofadd pr eff size sc rlx t => some (2986377216 + pr.code * 8388608 + eff.toNat * 262144 + size.code * 4096 + sc.code * 1024 + rlx.toNat * 512 + t.code)
  | .vamoadd pr eff y sc rlx t => some (3019898880 + pr.code * 8388608 + eff.toNat * 262144 + y.code * 16384 + sc.code * 1024 + rlx.toNat * 512 + t.code)
  | .fenceAcq pr eff sc => some (3053453312 + pr.code * 8388608 + eff.toNat * 262144 + sc.code * 512)
  | .fenceRel pr eff sc => some (3053469696 + pr.code * 8388608 + eff.toNat * 262144 + sc.code * 512)
  | .fenceAcqrel pr eff sc => some (3053486080 + pr.code * 8388608 + eff.toNat * 262144 + sc.code * 512)
  | .fenceSc pr eff sc => some (3053502464 + pr.code * 8388608 + eff.toNat * 262144 + sc.code * 512)
  | .fenceEngine pr eff sc => some (3053518848 + pr.code * 8388608 + eff.toNat * 262144 + sc.code * 512)
  | .waitv pr eff acq t => some (3087007744 + pr.code * 8388608 + eff.toNat * 262144 + acq.toNat * 512 + t.code)
  | .bara pr eff sc t => some (3120562176 + pr.code * 8388608 + eff.toNat * 262144 + sc.code * 512 + t.code)
  | .barw pr eff sc t => some (3154116608 + pr.code * 8388608 + eff.toNat * 262144 + sc.code * 512 + t.code)
  | .tspawn pr eff => some (3221225472 + pr.code * 8388608 + eff.toNat * 262144)
  | .tsubmit pr eff => some (3221241856 + pr.code * 8388608 + eff.toNat * 262144)
  | .tdep pr eff => some (3221258240 + pr.code * 8388608 + eff.toNat * 262144)
  | .twait pr eff poll t => some (3221274624 + pr.code * 8388608 + eff.toNat * 262144 + poll.toNat * 512 + t.code)
  | .trange pr eff => some (3221291008 + pr.code * 8388608 + eff.toNat * 262144)
  | .tprio pr eff => some (3221307392 + pr.code * 8388608 + eff.toNat * 262144)
  | .amsend pr eff => some (3221323776 + pr.code * 8388608 + eff.toNat * 262144)
  | .amreply pr eff => some (3221340160 + pr.code * 8388608 + eff.toNat * 262144)
  | .htset pr eff => some (3221356544 + pr.code * 8388608 + eff.toNat * 262144)
  | .inbox pr eff take t => some (3221372928 + pr.code * 8388608 + eff.toNat * 262144 + take.toNat * 512 + t.code)
  | .hnew pr eff t => some (3254779904 + pr.code * 8388608 + eff.toNat * 262144 + t.code)
  | .henter pr eff => some (3254796288 + pr.code * 8388608 + eff.toNat * 262144)
  | .hleave pr eff => some (3254812672 + pr.code * 8388608 + eff.toNat * 262144)
  | .hresolve pr eff t => some (3254829056 + pr.code * 8388608 + eff.toNat * 262144 + t.code)
  | .hstat pr eff sum t => some (3254845440 + pr.code * 8388608 + eff.toNat * 262144 + sum.toNat * 512 + t.code)
  | .hldc pr eff acq sgn size t => some (3254861824 + pr.code * 8388608 + eff.toNat * 262144 + acq.toNat * 4096 + sgn.toNat * 2048 + size.code * 512 + t.code)
  | .tdef pr eff ta => some (3288334336 + pr.code * 8388608 + eff.toNat * 262144 + ta.toNat * 512)
  | .tload pr eff ta => some (3288350720 + pr.code * 8388608 + eff.toNat * 262144 + ta.toNat * 512)
  | .tloadEdge pr eff ta port => some (3288350976 + pr.code * 8388608 + eff.toNat * 262144 + ta.toNat * 512 + port.toNat * 16)
  | .tstore pr eff ta => some (3288367104 + pr.code * 8388608 + eff.toNat * 262144 + ta.toNat * 512)
  | .tstoreEdge pr eff ta port => some (3288367360 + pr.code * 8388608 + eff.toNat * 262144 + ta.toNat * 512 + port.toNat * 16)
  | .tfree pr eff ta => some (3288383488 + pr.code * 8388608 + eff.toNat * 262144 + ta.toNat * 512)
  | .mma pr eff ta tb => some (3288399872 + pr.code * 8388608 + eff.toNat * 262144 + ta.toNat * 512 + tb.toNat * 16)
  | .mmai pr eff ta tb => some (3288416256 + pr.code * 8388608 + eff.toNat * 262144 + ta.toNat * 512 + tb.toNat * 16)
  | .maccrd pr eff ta => some (3288432640 + pr.code * 8388608 + eff.toNat * 262144 + ta.toNat * 512)
  | .macclr pr eff => some (3288449024 + pr.code * 8388608 + eff.toNat * 262144)
  | .maccld pr eff ta => some (3288465408 + pr.code * 8388608 + eff.toNat * 262144 + ta.toNat * 512)
  | .mew pr eff ta => some (3288481792 + pr.code * 8388608 + eff.toNat * 262144 + ta.toNat * 512)
  | .mcopy pr eff ta tb => some (3288498176 + pr.code * 8388608 + eff.toNat * 262144 + ta.toNat * 512 + tb.toNat * 16)
  | .msplat pr eff ta => some (3288514560 + pr.code * 8388608 + eff.toNat * 262144 + ta.toNat * 512)
  | .scopy pr eff queue t => some (3321888768 + pr.code * 8388608 + eff.toNat * 262144 + queue.toNat * 512 + t.code)
  | .sgath pr eff queue t => some (3321905152 + pr.code * 8388608 + eff.toNat * 262144 + queue.toNat * 512 + t.code)
  | .sscat pr eff queue t => some (3321921536 + pr.code * 8388608 + eff.toNat * 262144 + queue.toNat * 512 + t.code)
  | .slayout pr eff queue t => some (3321937920 + pr.code * 8388608 + eff.toNat * 262144 + queue.toNat * 512 + t.code)
  | .sfill pr eff queue t => some (3321954304 + pr.code * 8388608 + eff.toNat * 262144 + queue.toNat * 512 + t.code)
  | .sfence pr eff sc t => some (3321970688 + pr.code * 8388608 + eff.toNat * 262144 + sc.code * 512 + t.code)
  | .swait pr eff poll t => some (3321987072 + pr.code * 8388608 + eff.toNat * 262144 + poll.toNat * 512 + t.code)
  | .vwreg pr eff t => some (3355443200 + pr.code * 8388608 + eff.toNat * 262144 + t.code)
  | .vwdrop pr eff => some (3355459584 + pr.code * 8388608 + eff.toNat * 262144)
  | .vwsync pr eff force t => some (3355475968 + pr.code * 8388608 + eff.toNat * 262144 + force.toNat * 512 + t.code)
  | .vwqry pr eff master t => some (3355492352 + pr.code * 8388608 + eff.toNat * 262144 + master.toNat * 512 + t.code)
  | .vwpol pr eff => some (3355508736 + pr.code * 8388608 + eff.toNat * 262144)
  | .pload pr eff t => some (3388997632 + pr.code * 8388608 + eff.toNat * 262144 + t.code)
  | .punload pr eff t => some (3389014016 + pr.code * 8388608 + eff.toNat * 262144 + t.code)
  | .pstart pr eff t => some (3389030400 + pr.code * 8388608 + eff.toNat * 262144 + t.code)
  | .pstop pr eff t => some (3389046784 + pr.code * 8388608 + eff.toNat * 262144 + t.code)
  | .psave pr eff t => some (3389063168 + pr.code * 8388608 + eff.toNat * 262144 + t.code)
  | .prest pr eff t => some (3389079552 + pr.code * 8388608 + eff.toNat * 262144 + t.code)
  | .spush eff port => some (3389095936 + eff.toNat * 262144 + port.toNat * 512)
  | .spop eff port t => some (3389112320 + eff.toNat * 262144 + port.toNat * 512 + t.code)
  | .trap pr eff => some (3422552064 + pr.code * 8388608 + eff.toNat * 262144)
  | .rft pr eff => some (3422568448 + pr.code * 8388608 + eff.toNat * 262144)
  | .cread pr eff sel t => some (3422584832 + pr.code * 8388608 + eff.toNat * 262144 + sel.toNat * 512 + t.code)
  | .cwrite pr eff sel => some (3422601216 + pr.code * 8388608 + eff.toNat * 262144 + sel.toNat * 512)
  | .halt pr eff => some (3422617600 + pr.code * 8388608 + eff.toNat * 262144)
  | .idle pr eff t => some (3422633984 + pr.code * 8388608 + eff.toNat * 262144 + t.code)
  | .plbfl pr eff t => some (3422650368 + pr.code * 8388608 + eff.toNat * 262144 + t.code)
  | .cline pr eff op => some (3422666752 + pr.code * 8388608 + eff.toNat * 262144 + op.code * 512)
  | .dbgbrk pr eff => some (3422683136 + pr.code * 8388608 + eff.toNat * 262144)
  | .afwait pr eff t => some (3422699520 + pr.code * 8388608 + eff.toNat * 262144 + t.code)
  | .winrd pr eff t => some (3422715904 + pr.code * 8388608 + eff.toNat * 262144 + t.code)
  | .winwr pr eff => some (3422732288 + pr.code * 8388608 + eff.toNat * 262144)
  | .tresume pr eff => some (3422748672 + pr.code * 8388608 + eff.toNat * 262144)
  | .wsopen pr eff => some (3422765056 + pr.code * 8388608 + eff.toNat * 262144)
  | .wsclose pr eff => some (3422781440 + pr.code * 8388608 + eff.toNat * 262144)
  | .rdtime pr eff t => some (3422797824 + pr.code * 8388608 + eff.toNat * 262144 + t.code)
  | .rdpmc pr eff t => some (3456106496 + pr.code * 8388608 + eff.toNat * 262144 + t.code)
  | .clauseFetch _ => none
  | .clauseCommit _ => none
  | .stopRequest _ _ => none
  | .stall _ => none
  | .taskStop _ => none
  | .upcall _ => none
  | .srseedWrite _ _ => none
  | .lsplitWrite _ _ => none
  | .prioWrite _ _ => none
  | .fpflagsWrite _ _ => none
  | .resumeWrite _ _ => none
  | .afringWrite _ _ => none
  | .fqbaseWrite _ _ => none
  | .fqptrWrite _ _ => none
  | .asidMakeLive _ => none
  | .asidMakeNotLive _ => none
  | .ovqWrite _ _ => none
  | .vlogWrite _ => none
  | .wsldatWrite _ _ => none
  | .c0resWrite _ _ => none
  | .migcntWrite _ => none
  | .gangArm _ _ => none
  | .checkpointStart _ _ => none
  | .restoreStart _ _ => none
  | .checkpointDone _ _ => none
  | .reservationGrant _ => none
  | .overflowAdmit _ => none
  | .taskDispatch _ => none
  | .classAging _ => none
  | .passoverLimit _ => none
  | .inboxGrant _ _ => none
  | .messageArrival _ => none
  | .handlerDiversion _ => none
  | .nohandler _ _ => none
  | .translationWalk _ => none
  | .permissionEntryArrival _ => none
  | .homeSliceStore _ => none
  | .storeAck _ => none
  | .filterBankClear _ => none
  | .refreshWindow => none
  | .physicalWrite _ _ _ => none
  | .hostRead _ _ => none
  | .shootdownComplete => none
  | .waitvWake _ => none
  | .waitvTimeout _ => none
  | .versionDiscardDone _ => none
  | .tileFillDone _ _ _ => none
  | .tileDrainDone _ _ _ => none
  | .streamerCommandStart _ => none
  | .streamerCommandComplete _ => none
  | .viewBuild _ => none
  | .viewPublish _ => none
  | .fabricConfigure _ _ => none
  | .bubbleIteration _ => none
  | .edgeAgeLimit _ _ _ => none
  | .loadFinish _ _ => none
  | .faultQueueWrite _ => none
  | .afterimageRecordWrite _ => none
  | .preempt _ _ => none
  | .drainLimit _ => none
  | .nodeSave _ _ => none
  | .flitRetry _ => none
  | .laneRetrain _ => none
  | .linkLoss _ => none
  | .coherenceLossTimeout _ => none
  | .linkReconnect _ => none
  | .farRequest _ _ _ => none
  | .farAccessTimeout _ => none
  | .routingTableWrite _ _ => none
  | .submitWrite _ _ _ => none
  | .cheadWrite _ _ _ => none
  | .werrWrite _ _ => none
  | .hostCompletion _ _ => none
  | .hotPageWindow _ => none
  | .forwardExpiry _ => none
  | .gangPlace _ => none
  | .gangReady _ _ => none
  | .gangGo _ => none
  | .gangGraceExpiry _ => none
  | .gangAbort _ => none
  | .attest _ => none
  | .sealImage _ => none
  | .checkImage _ => none
  | .setcap _ => none
  | .fuseadv _ => none
  | .fwupdate _ => none
  | .fwupdateInstall => none
  | .extend _ => none
  | .telemetry _ => none
  | .capOverrun => none
  | .thermalThrottle => none
  | .throttleStep => none
  | .throttleRecovery => none
  | .thermalShutdown => none
  | .packageReset _ => none
  | .eccUncorrectable _ => none
  | .patrolScrub _ _ => none
  | .clusterRetire _ _ => none
  | .l2SliceRetire _ => none
  | .hbmRowSpare _ => none
  | .cxlPortDegrade _ _ => none
  | .matrixCommandPerformed _ _ => none
  | .commandStall _ => none
  | .idleTimeout _ => none
  | .unreachableHomeTimeout _ => none
  | .nodeRestore _ _ => none
  | .submissionWindowWrite _ _ _ _ => none
end Sys2Proof
end

