-- ==== Sys2Proof/Machine/State.lean ====
section
/-! DEFINITION. Sys2Proof/Machine/State.lean: everything the spec gives the machine, as plain data, and the state after reset. -/

namespace Sys2Proof.Machine

/-- Why the machine stops with a fault. -/
inductive Fault where
  /-- A junction at 115 C stopped every clock; raised by `step` and by every move but PACKAGE_RESET (23 R421). Safe: nothing runs until a reset. -/
  | clocksStopped
  deriving DecidableEq, Repr

/-- Why the machine refuses a move. -/
inductive Refusal where
  /-- The instruction has no meaning yet. Safe. -/
  | notModelled (mnemonic : String)
  /-- The agenda names an identifier whose word is no instruction, which no part ever fires (02 R46); raised by `step`. Safe. -/
  | illegalWord
  deriving DecidableEq, Repr

/-- Fault kinds and stop causes (17 R333). -/
inductive Kind where
  | illop | clausefmt | perm | notpres | synonym | ordkind | misalign | notlive | viewstale
  | viewfault | hypfull | orphan | tilestate | stall | nohandler | eccunc | linklost
  | service | trap | break_ | step | halted
  deriving DecidableEq, Repr

/-- A token: a value, a null, or a poison with the kind and the origin of the failed result (01 R14). -/
inductive Token where
  | scalar (v : Word)
  | wide (v : Wide)
  | null
  | poison (kind : Kind) (origin : BitVec 7)
  deriving DecidableEq, Repr

/-- What a branch-class instruction that fired asks for at commit (04 R110). -/
inductive BranchOut where
  /-- BRO, BR and RET: the target. -/
  | jump (target : Word)
  /-- CALLO and CALL: the target; g63 takes the link at commit (04 R114). -/
  | call (target : Word)
  /-- EXITT (04 R116). -/
  | exitt
  /-- YIELD: where the task resumes (04 R117). -/
  | yield (target : Word)
  /-- SCALL with its service number (04 R118). -/
  | scall (svc : BitVec 20)
  /-- Poison at the branch (01 R19). -/
  | poisoned (k : Kind)
  deriving DecidableEq, Repr

/-- A clause header, field by field (01 R11). -/
structure Header where
  /-- Globals the clause writes. -/
  gwmask : BitVec 64
  /-- Wide globals the clause writes. -/
  wwmask : BitVec 16
  /-- Effect slots that must fire or be nulled. -/
  effmask : BitVec 32
  /-- Must be 1. -/
  version : BitVec 4
  /-- Chunk count minus one. -/
  nchunk : BitVec 2
  /-- 00 streamed, 01 pinned, 10 handler, 11 reserved. -/
  kind : BitVec 2
  /-- Must be zero. -/
  reserved : BitVec 7
  /-- No clause after this one is fetched until its branch has fired. -/
  nopred : Bool
  deriving DecidableEq, Repr

/-- What an access does to its page (08 R190). -/
inductive Access where
  | load | store | atomic | fetch
  deriving DecidableEq, Repr

/-- A leaf entry as a walk found it (08 R189). -/
structure Leaf where
  /-- The 8 bytes of the entry. -/
  raw : Word
  /-- Found at level 2: a 64 MiB page. -/
  large : Bool
  deriving DecidableEq, Repr

/-- What a walk answers: a leaf or a fault (08 R190). -/
inductive WalkRes where
  | leaf (l : Leaf)
  | fault (k : Kind) (va : Word)
  deriving DecidableEq, Repr

/-- An entry of a cell's permission cache (08 R194). -/
structure PermEntry where
  /-- The cell of the tower. -/
  cell : Nat
  /-- The tag: an ASID, or none for a global page (08 R193). -/
  tag : Option (BitVec 16)
  /-- The virtual page, VA / 2^16; of a large page its first. -/
  page : Nat
  /-- The leaf. -/
  leaf : Leaf
  deriving DecidableEq, Repr

/-- A request of a cell to the translation complex (08 R194, R196). -/
structure WalkReq where
  /-- The asking cell. -/
  cell : Nat
  /-- The ASID of the access. -/
  asid : BitVec 16
  /-- VA / 2^16. -/
  page : Nat
  /-- The access. -/
  acc : Access
  deriving DecidableEq, Repr

/-- A walk that has been made and not yet reached its cell, with the generation at its start (08 R199). -/
structure WalkAns where
  /-- What was asked. -/
  req : WalkReq
  /-- The generation of the complex at the walk's start. -/
  gen : Nat
  /-- The answer. -/
  res : WalkRes
  /-- A walker made it; else the translation cache held it (08 R196). -/
  walked : Bool
  deriving DecidableEq, Repr

/-- A mapping in a frame owner table (08 R197). -/
structure Owner where
  /-- First 64 KiB frame, PA / 2^16. -/
  frame : Nat
  /-- How many frames: 1, or 1,024 for a large leaf. -/
  count : Nat
  /-- The tag of the mapping. -/
  tag : Option (BitVec 16)
  /-- The first virtual page. -/
  page : Nat
  /-- Whether the leaf allows stores. -/
  w : Bool
  deriving DecidableEq, Repr

/-- One access of a store: a whole store, one lane of a VSTS or VSCAT, or the part on one page (05 R145, 09 R208). -/
structure Lane where
  /-- Lane number; zero for a plain store. -/
  lane : Nat
  /-- First byte. -/
  va : Word
  /-- The bytes. -/
  data : List Byte
  /-- The permission entry was absent when the store fired, or a shoot-down has dropped it since (08 R194, R199). -/
  asked : Bool
  /-- The leaf of the permission entry that was present, none in scratch or while the entry is asked for (08 R195). -/
  leaf : Option Leaf
  /-- The ordering kind of its page, as last known; R before that (18 R373). -/
  kind : Nat
  deriving DecidableEq, Repr

/-- A line in the L1 of a cell of a lens (08 R177, R181). -/
structure L1Line where
  /-- Lens position of the cell. -/
  pos : Nat
  /-- The tag: an ASID, or none for a global page (08 R193). -/
  tag : Option (BitVec 16)
  /-- VA / 64. -/
  line : Nat
  /-- Of a U page: no update is forwarded to it (09 R207). -/
  u : Bool
  /-- Bytes in which it may differ from memory, by offset: all those of a U line; of another, those whose update has not yet reached it. -/
  bytes : List (Nat × Byte)
  /-- Its copy holds an error that cannot be corrected (23 R426). -/
  bad : Bool
  deriving DecidableEq, Repr

/-- A line allocated in an L2 slice; what it holds is in memory or among the versions (08 R180, R182). -/
structure L2Line where
  /-- The slice of the tower. -/
  slice : Nat
  tag : Option (BitVec 16)
  line : Nat
  /-- The 64 KiB frame it was filled from. -/
  frame : Nat
  deriving DecidableEq, Repr

/-- An entry of a complex's translation cache (08 R196). -/
structure TransEntry where
  tag : Option (BitVec 16)
  /-- VA / 2^16; of a large page its first. -/
  page : Nat
  leaf : Leaf
  deriving DecidableEq, Repr

/-- What a commit hands to the memory system, the dispatcher and the engines, operand by operand (01 R20). -/
inductive Action where
  /-- Nothing is left to do at commit. -/
  | done
  /-- A store; `rel` marks STREL, `lanes` a VSTS or VSCAT. -/
  | store (parts : List Lane) (rel lanes : Bool)
  /-- A fence: its kind under 09 R214 and its scope. -/
  | fence (kind : Nat) (sc : Scope)
  /-- The acquire of a load, an atomic, BARW, WAITV or INBOX (09 R211). -/
  | acquire
  | tspawn (rec : Word)
  | tsubmit (rec : Word)
  | tdep (pred succ : Word)
  | trange (mask : BitVec 4)
  | tprio (rec : Word) (cls : BitVec 3)
  | amsend (msg : BitVec 512)
  | htset (slot : BitVec 8) (tower : BitVec 3) (v : Word)
  | inboxTake (cell : Nat)
  | hnew (h : BitVec 12)
  | henter (h : BitVec 12)
  | hleave
  /-- A matrix command for node index a: its xop, tiles and operands (12 R264). -/
  | matrix (node : Nat) (xop ta tb : Nat) (b c : Word)
  /-- A streamer command: its xop, queue and operands (13 R285). -/
  | streamer (xop queue : Nat) (a b c : Word)
  | vwdrop (h : Word)
  | vwpol (h b : Word)
  | spush (port : BitVec 5) (t : Token)
  | spop (port : BitVec 5)
  | trap (code : BitVec 16)
  | rft
  | cwrite (sel : BitVec 5) (v : Word)
  | halt (rec : Word) (act : BitVec 2)
  | dbgbrk
  | winwr (rec : Word) (win : BitVec 8) (v : Word)
  | tresume (rec : Word)
  | wsopen (tower : Nat)
  | wsclose (tower : Nat)
  deriving DecidableEq, Repr

/-- How an effect slot was served (01 R18, R19). -/
inductive EffOut where
  | nulled
  | poisoned (k : Kind)
  | fired (act : Action)
  deriving DecidableEq, Repr

/-- A load or engine access of a clause in flight, kept so that commit can read it again (05 R149) and a stop can report its address (17 R336). -/
structure LoadRec where
  /-- The instruction. -/
  iid : BitVec 7
  /-- Its effect slot. -/
  eff : BitVec 5
  /-- The accesses: address and size of each lane. -/
  parts : List (Word × Nat)
  /-- The bytes each delivered. -/
  bytes : List (List Byte)
  /-- The load reads hypothesis 0 whatever HYPCUR is (10 R250). -/
  hyp0 : Bool
  /-- The value is fixed and is not read again (09 R220). -/
  final : Bool
  deriving DecidableEq, Repr

/-- What a clause instance holds when one of its instructions has been performed as it fired, or its stores have been sent ahead: a repetition of the clause starts from there (05 R149; 09 R220, R221). -/
structure Snap where
  toks : List (BitVec 7 × Slot × Token)
  fired : List (BitVec 7)
  gw : List (BitVec 6 × Token)
  ww : List (BitVec 4 × Token)
  effs : List (BitVec 5 × EffOut)
  branch : Option BranchOut
  rft : Bool
  flags : BitVec 5
  loads : List LoadRec
  poisonVa : List (BitVec 7 × Word)
  newHyps : List (BitVec 12)
  grants : List (BitVec 7 × Nat × Nat)
  edgeRes : List (BitVec 5)
  taskRes : Nat
  deriving DecidableEq, Repr

/-- Draws an instruction took from the generator of its cell (03 R74). -/
structure Draw where
  iid : BitVec 7
  /-- Lens position of the cell. -/
  pos : Nat
  /-- The generator's state before them. -/
  start : BitVec 32
  /-- How many. -/
  count : Nat
  deriving DecidableEq, Repr

/-- A clause instance in the window (01 R11 to R21). -/
structure Inst where
  /-- The model's own number for it. -/
  uid : Nat
  /-- Its clause address. -/
  addr : Word
  /-- Its header. -/
  hdr : Header
  /-- The instruction words of its chunks. -/
  words : List (BitVec 32)
  /-- Why the clause is marked: a failed header check, an illegal word, a fetch that faulted, a failed firing. -/
  mark : Option Kind
  /-- Tokens accepted by slots. -/
  toks : List (BitVec 7 × Slot × Token)
  /-- Instructions that have fired or whose predicate did not match. -/
  fired : List (BitVec 7)
  /-- Instructions that wait inside their effect, with the time their wait began. -/
  waits : List (BitVec 7 × Nat)
  /-- Writes recorded for globals. -/
  gw : List (BitVec 6 × Token)
  /-- Writes recorded for wide globals. -/
  ww : List (BitVec 4 × Token)
  /-- Effect slots served. -/
  effs : List (BitVec 5 × EffOut)
  /-- The branch that fired, or RFT in its place. -/
  branch : Option BranchOut
  /-- A RFT fired (17 R348). -/
  rft : Bool
  /-- Flags raised. -/
  flags : BitVec 5
  /-- Loads delivered. -/
  loads : List LoadRec
  /-- Addresses of accesses that delivered or made poison (17 R336). -/
  poisonVa : List (BitVec 7 × Word)
  /-- Effect slots whose stores were sent ahead (09 R220). -/
  sent : List (BitVec 5)
  /-- Effect slots performed as they fired (09 R221). -/
  performed : List (BitVec 5)
  /-- Where a repetition of the clause starts; none while nothing has been performed or sent ahead. -/
  snap : Option Snap
  /-- Hypotheses allocated by HNEW of this clause (10 R246). -/
  newHyps : List (BitVec 12)
  /-- Inbox entries granted to AMSENDs of this clause: tower and cell (07 R169). -/
  grants : List (BitVec 7 × Nat × Nat)
  /-- Edge slots reserved by SPUSH: port (14 R312). -/
  edgeRes : List (BitVec 5)
  /-- Reservations taken for TSPAWN and TSUBMIT that fired (07 R158). -/
  taskRes : Nat
  /-- The stores of an earlier run of this instance, kept as a forecast for loads whose older stores are not yet known (05 R149). -/
  forecast : List (BitVec 5 × List Lane)
  /-- The clause holds a CWRITE, HENTER or HLEAVE, so the instructions of younger clauses are held until its commit (01 R27). -/
  ctlWr : Bool
  /-- When the clause became oldest (07 R174). -/
  oldestAt : Option Nat
  /-- Instructions whose far or unreachable access has been given up (20 R389, R390). -/
  linkDead : List (BitVec 7)
  /-- Streamer count when the clause was placed (13 R282). -/
  streamBase : BitVec 32
  /-- VWSYNCs that wait: the master's tower and slot, its tiles and their targets (13 R301). -/
  syncs : List (BitVec 7 × Nat × Nat × List (Nat × BitVec 32))
  /-- The next clause's address as predicted when this one was fetched, and the return-address stack right after (02 R39; 04 R115). -/
  predicted : Word
  ras : List Word
  /-- Its branch, as it fired, squashed so many younger instances (06 R150). -/
  misp : Option Nat
  /-- Draws taken since it was placed or last performed an effect (03 R74), and draws of an earlier run that its instructions find again (05 R149). -/
  draws : List Draw
  kept : List Draw
  /-- Loads that wait until every instruction of 09 R220 below them has been served (05 R149; 09 R203, R205). -/
  mustWait : List (BitVec 7)
  deriving DecidableEq, Repr

/-- What waits in program order behind a task's commits (09 R215, R216). -/
inductive PendWhat where
  /-- A store; `rel` marks the store part of a release, `src1` a lane of a VSTS or VSCAT. -/
  | store (p : Lane) (rel src1 : Bool)
  /-- A fence that orders stores (kind 1, 2) or everything (kind 3) behind it. -/
  | fence (kind : Nat) (sc : Scope)
  /-- An instruction that acts as a release (07 R155). -/
  | act (a : Action)
  deriving DecidableEq, Repr

/-- Where a pending entry stands (09 R215). -/
inductive PendSt where
  | waiting
  /-- Applied at its home slice, not yet acknowledged (08 R181). -/
  | applied
  /-- Found to fault; its record is not yet consumed (08 R195, 09 R216). -/
  | faulted (seq : BitVec 16) (k : Kind)
  deriving DecidableEq, Repr

/-- An entry of a task's program-order queue: the late-fault store buffer with the releases between its stores (08 R195, 09 R216). -/
structure Pend where
  /-- What it is. -/
  what : PendWhat
  /-- Where it stands. -/
  st : PendSt
  /-- Lens position whose buffer holds it. -/
  pos : Nat
  /-- Effect slot. -/
  eff : BitVec 5
  /-- Instruction. -/
  iid : BitVec 7
  /-- Clause address. -/
  clause : Word
  /-- Commit count of the clause (17 R340). -/
  cc : BitVec 32
  /-- HYPCUR of the clause. -/
  hyp : BitVec 12
  /-- Ticket number of a streamer command held behind a fence (13 R282). -/
  seq : BitVec 32
  /-- When it entered the queue (20 R389, R390). -/
  since : Nat
  /-- A faulted store whose record is not yet in its ring: it keeps its buffer entry (17 R339). -/
  due : Bool
  deriving DecidableEq, Repr

/-- An afterimage record (17 R340). -/
structure AfRec where
  kind : Kind
  src : BitVec 3
  eff : BitVec 5
  iid : BitVec 7
  cause : BitVec 16
  seq : BitVec 16
  va : Word
  clause : Word
  ticket : Word
  owner : Word
  idx : BitVec 32
  idx2 : BitVec 32
  asid : BitVec 16
  hyp : BitVec 12
  data : List Byte
  /-- Tower and slot of the fabric load it belongs to, none for a task's. -/
  load : Option (Nat × Nat)
  tower : Nat
  deriving DecidableEq, Repr

/-- A fault-queue entry (17 R338). -/
structure FqEntry where
  /-- The 5-bit cause. -/
  code : Nat
  cls : Nat
  asid : BitVec 16
  also : BitVec 32
  subject : Word
  clause : Word
  va : Word
  arg : BitVec 32
  doneMask : BitVec 32
  time : Nat
  eng : Word
  body : List Byte
  deriving DecidableEq, Repr

/-- What a context is: a task on a lens, or a cell node of a fabric load (tower, load slot, node number; 14 R307). -/
inductive CtxKind where
  | task
  | node (slot n : Nat)
  deriving DecidableEq, Repr

/-- How a task leaves its lens (04 R116, R117; 18 R368). -/
inductive Leave where
  | exitt | yield | checkpoint | kill
  deriving DecidableEq, Repr

/-- A late fault the part has learned of and not yet served by a stop (17 R334). -/
structure Late where
  seq : BitVec 16
  kind : Kind
  src : BitVec 3
  va : Word
  /-- The record could not be written: the stop goes to the supervisor (17 R339). -/
  noUpcall : Bool
  deriving DecidableEq, Repr

/-- A context: a task on its lens with everything it holds there, or a cell node. -/
structure Ctx where
  /-- The model's own number for it. -/
  id : Nat
  kind : CtxKind
  /-- LENS.tower, LENS.base and LENS.width (01 R30). -/
  tower : Nat
  base : Nat
  width : Nat
  /-- TASKID: the record address (01 R30). -/
  recA : Word
  asid : BitVec 16
  /-- g0 to g63 (01 R28). -/
  g : Vector Word 64
  /-- w0 to w15 (01 R28). -/
  w : Vector Wide 16
  /-- The clause address (01 R21). -/
  pc : Word
  /-- HYPCUR. -/
  hyp : BitVec 12
  /-- PRIO.class. -/
  prio : BitVec 3
  /-- RTEST.est and RTEST.hint. -/
  est : BitVec 32
  hint : BitVec 2
  /-- UPCALL, its addr field in place. -/
  upcall : Word
  /-- AFRING.base in place, head and tail. -/
  afBase : Word
  afHead : BitVec 6
  afTail : BitVec 6
  /-- FPMODE.rm and FPMODE.ftz. -/
  rm : BitVec 3
  ftz : Bool
  /-- FPFLAGS. -/
  fpflags : BitVec 5
  /-- SRSEED.seed. -/
  seed : BitVec 32
  /-- LSPLIT.scr. -/
  scr : BitVec 4
  /-- RESUME, its addr field in place (17 R336). -/
  resume : Word
  /-- CAUSE: code, src, mode, endp (17 R336). -/
  causeCode : BitVec 5
  causeSrc : BitVec 3
  causeMode : BitVec 2
  endp : Bool
  /-- FADDR. -/
  faddr : Word
  /-- DEBUG.step and DEBUG.brk. -/
  dbgStep : Bool
  dbgBrk : Bool
  /-- Stochastic generators by lens position (03 R74). -/
  gens : List (BitVec 32)
  /-- Clauses in flight, oldest first (01 R24). -/
  window : List Inst
  /-- The next clause fetched must be of kind 10 (01 R12). -/
  needHandler : Bool
  /-- Next-clause predictor: clause address, exit, target (02 R39). -/
  predictor : List (Word × BitVec 3 × Word)
  /-- Return-address stack, newest first (04 R115). -/
  ras : List Word
  /-- Lens scratch: offset in the scratch window and byte, sorted, no zero byte listed (08 R178). -/
  scratch : List Host.Cell
  /-- Words of lens scratch, by offset / 8, that hold an error that cannot be corrected (23 R426). -/
  badScratch : List Nat
  /-- Stores and releases behind commit, in program order (09 R215). -/
  pend : List Pend
  /-- Lines in the L1s of its cells, the oldest first (08 R177, R181; 09 R207). -/
  l1 : List L1Line
  /-- The line, PA / 64, whose stores by other observers a waiting WAITV waits for, and whether one has been performed (09 R226). -/
  watch : Option (Nat × Bool)
  /-- Counters of 06 R150 and 17 R364. -/
  clFetch : Nat
  clCommit : Nat
  clSquash : Nat
  brMisp : Nat
  recCount : Nat
  upCount : Nat
  /-- RDTIME at dispatch, for counter 4. -/
  dispatchedAt : Nat
  /-- Commit count and late-fault sequence number (17 R340), streamer count (13 R282). -/
  commitCount : BitVec 32
  lateSeq : BitVec 16
  streamCount : BitVec 32
  /-- The message of the current handler (07 R171). -/
  hmsg : Option (BitVec 512)
  /-- When the current handler started (07 R172). -/
  handlerAt : Nat
  /-- A HALT request pending: its action (17 R355). -/
  haltReq : Option (BitVec 2)
  /-- A lost link's stop is pending (20 R389). -/
  lost : Bool
  /-- A machine check's stop is pending (23 R427). -/
  eccStop : Bool
  /-- A place of a gang: the lens is composed and fetches no clause (20 R402). -/
  frozen : Bool
  /-- Stop causes of the clause that just committed: SERVICE, TRAP, BREAK, STEP with their argument (17 R332, R353). -/
  afterStop : List (Kind × BitVec 32)
  /-- How the task is leaving its lens, its window empty and its stores still to be settled (04 R116, R117; 18 R369, R371). -/
  leaving : Option Leave
  /-- Effect slots performed, and engine states, of the clause before the stop (17 R338). -/
  lastDone : BitVec 32
  /-- Effect slots of the last committed clause that launched an engine command, with the M-node of a matrix command (17 R353). -/
  lastEng : List (BitVec 5 × Option Nat)
  /-- M-nodes granted, in grant order (07 R164). -/
  nodes : List Nat
  /-- When a drain's 5 us end (18 R370). -/
  drainAt : Option Nat
  /-- Dispatched after a checkpoint or kill and no clause committed since (18 R381). -/
  shielded : Bool
  /-- STOPPED on its lens because its save area could not be written, with the also mask of its report (18 R372). -/
  parked : Bool
  also : BitVec 32
  /-- Held stores of the save area that have not yet re-entered the buffer (18 R376). -/
  heldIn : List Pend
  /-- A new class from TPRIO waits for the next boundary (07 R166). -/
  newPrio : Option (BitVec 3)
  /-- Iteration count, of a cell node (14 R307). -/
  iter : BitVec 64
  /-- The program of a cell node has retired (14 R306). -/
  retired : Bool
  deriving DecidableEq, Repr

/-- A task: its record address in its address space (07 R152). -/
structure TaskKey where
  recA : Word
  asid : BitVec 16
  deriving DecidableEq, Repr

/-- State of a continuation record (07 R153). -/
inductive TaskSt where
  | waiting | ready | running | stopped
  deriving DecidableEq, Repr

/-- A used entry of a declared-range list (07 R161). -/
structure Range where
  base : Nat
  len : Nat
  w : Bool
  deriving DecidableEq, Repr

/-- A record a dispatcher has accepted and that holds a reservation (07 R158). -/
structure TaskInfo where
  recA : Word
  asid : BitVec 16
  /-- The ASID under which the dispatcher reads and writes the record: its submitter's (07 R154). -/
  recAsid : BitVec 16
  st : TaskSt
  cls : BitVec 3
  /-- Stream of a TSUBMIT. -/
  strm : Option Nat
  /-- Range entries, none for an unused one. -/
  ranges : List (Option Range)
  /-- Entries released by TRANGE. -/
  released : BitVec 4
  /-- RDTIME when it last entered READY, and its place in the order in which its tower's tasks did (07 R163). -/
  readyAt : Nat
  readySeq : Nat
  /-- Steps of 4 ms by which CLASS_AGING lowered its class (07 R163). -/
  aged : Nat
  /-- In the overflow queue, not in the pool (07 R157). -/
  overflow : Bool
  /-- Submission window that brought it, with its ring index (20 R396). -/
  window : Option (Nat × Nat)
  /-- The record's fields at its last dispatch, kept for a kill: clause, hyp, est and hint (18 R369). -/
  hyp : BitVec 12
  /-- Dispatch does not pre-empt it until it has committed (18 R381). -/
  shielded : Bool
  /-- Gang that placed it (20 R402). -/
  gang : Option Nat
  /-- Hypotheses of the stores its save area holds (10 R233, 18 R376). -/
  heldHyps : List (Option (BitVec 16) × BitVec 12)
  /-- A TRESUME has asked for its end, which waits for its records (17 R344). -/
  endAsked : Bool
  /-- It was pre-empted and has not been dispatched again (18 R380). -/
  preempted : Bool
  /-- A HALT with action stop that another cause kept pending (17 R334). -/
  halted : Bool
  /-- The next clause it fetches must be of kind 10; kept beside its save area (01 R12). -/
  needHandler : Bool
  /-- The cause and FADDR of a stop before its first dispatch, kept beside a save area that is not valid (17 R383). -/
  cause : Option (Kind × Word)
  /-- The class a TPRIO has written since its save area was written: PRIO takes it at the next dispatch (07 R166; log 54). -/
  newPrio : Option (BitVec 3)
  deriving DecidableEq, Repr

/-- The ring of a task that has ended while engines still hold commands of it (17 R344). -/
structure Ended where
  key : TaskKey
  base : Word
  head : BitVec 6
  tail : BitVec 6
  seq : BitVec 16
  deriving DecidableEq, Repr

/-- A submission that waits for a reservation: of an instruction (context, instance, identifier), or of a submission window (07 R158; 20 R396). -/
structure WaitSub where
  by_ : Option (Nat × Nat × BitVec 7)
  window : Option Nat
  /-- It has taken its reservation (07 R158). -/
  granted : Bool
  deriving DecidableEq, Repr

/-- A submission that waits until one of the 256 tasks of its stream leaves: the stream, the record, the submitter's ASID, whether that is the supervisor, and the window it came through (07 R161). -/
structure StreamWait where
  strm : Nat
  recA : Word
  asid : BitVec 16
  sv : Bool
  window : Option Nat
  deriving DecidableEq, Repr

/-- A message in an inbox with the time since which it has been a head that cannot be served (07 R171, R172). -/
structure InMsg where
  msg : BitVec 512
  headAt : Option Nat
  deriving DecidableEq, Repr

/-- An inbox: its messages, entries granted to senders that have not sent yet, and requests that wait (07 R169). -/
structure Inbox where
  cell : Nat
  msgs : List InMsg
  granted : Nat
  /-- Waiting AMSENDs: context, instance and identifier. -/
  asking : List (Nat × Nat × BitVec 7)
  deriving DecidableEq, Repr

/-- State of a hypothesis that is not FREE (10 R231). -/
inductive HypSt where
  | live | merged | refuted
  deriving DecidableEq, Repr

/-- An entry of the hypothesis table that is not FREE (10 R231). -/
structure Hyp where
  n : BitVec 12
  st : HypSt
  owner : BitVec 16
  /-- Parent, or alias target when MERGED. -/
  parent : BitVec 12
  depth : Nat
  bound : BitVec 32
  /-- The discard of its versions has finished (10 R233). -/
  discarded : Bool
  deriving DecidableEq, Repr

/-- A version of a line (10 R238). -/
structure Version where
  /-- VA / 64. -/
  line : Nat
  tag : Option (BitVec 16)
  hyp : BitVec 12
  /-- Bytes held, by offset. -/
  bytes : List (Nat × Byte)
  /-- In the version log, not in the L2. -/
  logged : Bool
  /-- The ASID and the tower of the store that made it. -/
  asid : BitVec 16
  deriving DecidableEq, Repr

/-- What a shoot-down names (08 R199, 17 R359). -/
inductive ShootForm where
  | range (asid : BitVec 16) (page : Nat) (count : Nat)
  | whole (asid : BitVec 16)
  | globals
  deriving DecidableEq, Repr

/-- A shoot-down under way: who waits for it, a PLBFL of a context or nobody (17 R359, R350). -/
structure Shoot where
  form : ShootForm
  by_ : Option (Nat × BitVec 7)
  finished : Bool
  deriving DecidableEq, Repr

/-- Who issued an engine command and where its fault goes (12 R260, 13 R281, 14 R316). -/
structure Origin where
  /-- Record address of the task, or the handle of a fabric load with its node number in [63:56]. -/
  owner : Word
  /-- Tower and slot of the fabric load, none for a task. -/
  load : Option (Nat × Nat)
  tower : Nat
  asid : BitVec 16
  hyp : BitVec 12
  clause : Word
  iid : BitVec 7
  eff : BitVec 5
  /-- Commit count of the clause (17 R340). -/
  cc : BitVec 32
  deriving DecidableEq, Repr

/-- A matrix command at its node (12 R258). -/
structure MCmd where
  /-- The model's own number. -/
  id : Nat
  org : Origin
  xop : Nat
  ta : Nat
  tb : Nat
  b : Word
  c : Word
  /-- Port of an edge-form transfer (14 R314). -/
  port : Option Nat
  /-- Positions of an edge-form transfer already moved. -/
  moved : List Nat
  /-- It faulted late; the number of its record (12 R260). -/
  fault : Option (BitVec 16 × Kind)
  /-- Time of its last progress (18 R380). -/
  progress : Nat
  deriving DecidableEq, Repr

/-- Who holds an M-node: a task with the node's index, or a load with the node's number (07 R164, 14 R314). -/
inductive NodeOwner where
  | task (k : TaskKey) (idx : Nat)
  | load (slot n : Nat)
  deriving DecidableEq, Repr

/-- A granted M-node (12 R253). -/
structure MNode where
  tower : Nat
  n : Nat
  owner : NodeOwner
  /-- Eight banks of 32 KiB, end to end; zero bytes not listed. -/
  scratch : List Host.Cell
  /-- BFMT0 to BFMT7 (12 R254). -/
  bfmt : List (BitVec 8)
  /-- c0 and c1: 4,096 words of 6 bytes; zero bytes not listed. -/
  acc0 : List Host.Cell
  acc1 : List Host.Cell
  /-- t0 to t31 (12 R255). -/
  tiles : List Word
  /-- Draining tiles that become empty (12 R257). -/
  freeing : List Nat
  /-- Rounding generator (12 R263). -/
  gen : BitVec 32
  queue : List MCmd
  /-- Its state is still being restored (18 R376). -/
  restoring : Bool
  /-- The task has left its lens: the node waits to be saved in this save area, or, none, to be dropped (18 R369, R375). -/
  leaving : Option (Option Word)
  /-- Records of a stopped task have been disposed of: until the task is continued only the command of this number, being replayed, is performed (12 R260; 17 R342). -/
  held : Option Nat
  /-- Saved and freed: only the commands that have faulted and those behind them are kept, for the task's next node of that index (12 R260; 18 R375). -/
  away : Bool
  /-- Where the node's region of the save area is that it is restored from; none at a first dispatch (18 R375, R376). -/
  area : Option Word
  deriving DecidableEq, Repr

/-- State of a streamer command (13 R276, R284, R289). -/
inductive SSt where
  | queued
  | running
  | complete
  | discarded (k : Kind)
  deriving DecidableEq, Repr

/-- An entry of a repair list: a page, what its record says, and the iterations on it; none for the whole command (13 R289). -/
structure Repair where
  page : Nat
  kind : Kind
  seq : BitVec 16
  iters : Option (List Nat)
  deriving DecidableEq, Repr

/-- A streamer command handed over (13 R276). -/
structure SCmd where
  /-- The model's own number. -/
  id : Nat
  org : Origin
  queue : Nat
  /-- Its ticket number (13 R282). -/
  seq : BitVec 32
  xop : Nat
  a : Word
  b : Word
  c : Word
  /-- M-nodes of the task at hand-over. -/
  mn : Nat
  /-- Source and destination descriptors as read at hand-over, or the failure of that read (13 R280). -/
  src : List Byte
  dst : List Byte
  /-- One of them waits for a view under policy WAIT (13 R296). -/
  unread : Bool
  bad : Option (Kind × Word)
  st : SSt
  repairs : List Repair
  /-- The next iteration, and iterations to be performed again after a replay (13 R289). -/
  next : Nat
  redo : List Nat
  /-- A repair of it was discarded: it ends as discarded with this kind (13 R289). -/
  disc : Option Kind
  /-- Its task has ended, so that no ticket names it any more. -/
  gone : Bool
  progress : Nat
  deriving DecidableEq, Repr

/-- State of a view tile: the epoch it carries, whether it is FAULTED, and its policy (13 R294, R296, R297). -/
structure VTile where
  epoch : Option (BitVec 32)
  faulted : Bool
  pol : BitVec 2
  deriving DecidableEq, Repr

/-- A view of a master (13 R291). -/
structure View where
  idx : Nat
  gen : BitVec 16
  vbase : Nat
  vfmt : Nat
  vlay : Nat
  vstride : Nat
  sax : Nat
  sc : Nat
  rm : Nat
  seed : BitVec 32
  shstride : Nat
  tiles : List VTile
  deriving DecidableEq, Repr

/-- A master (13 R290). -/
structure Master where
  tower : Nat
  slot : Nat
  asid : BitVec 16
  mbase : Nat
  mfmt : Nat
  nr : Nat
  nc : Nat
  mstride : Nat
  epochs : List (BitVec 32)
  /-- Dirty tiles with the records and ASIDs of the tasks that wrote them since the last advance (13 R293). -/
  dirty : List (Nat × List (Word × BitVec 16))
  views : List View
  deriving DecidableEq, Repr

/-- A build the engine still owes or has made and not published (13 R294). -/
structure Build where
  tower : Nat
  slot : Nat
  tile : Nat
  view : Nat
  /-- Record of the task whose release, VWSYNC or VWREG caused it, with its ASID. -/
  cause : Option (Word × BitVec 16)
  /-- The built bytes by address and the epoch they were built from. -/
  made : Option (List (Nat × List Byte) × BitVec 32)
  /-- It has failed, from this epoch, with the bytes it has rewritten, which show with its failure; its record is on its way to a ring (13 R297; 16 R330, R331). -/
  failed : Option (BitVec 32 × List (Nat × List Byte))
  deriving DecidableEq, Repr

/-- Tag of a token in an edge (14 R309). -/
inductive FTag where
  | value
  | null
  | poison (k : Kind)
  | bubble
  deriving DecidableEq, Repr

/-- A token in an edge. -/
structure FTok where
  tag : FTag
  data : Wide
  seq : BitVec 32
  deriving DecidableEq, Repr

/-- A stream edge (14 R309). -/
structure FEdge where
  pnode : Nat
  pport : Nat
  cnode : Nat
  cport : Nat
  depth : Nat
  q : Nat
  wide : Bool
  toks : List FTok
  /-- Since when the head has stood there while the load runs (14 R321). -/
  headAt : Option Nat
  deriving DecidableEq, Repr

/-- A cell node of a load: clause address, position, header and words (14 R307, R318). -/
structure FCell where
  addr : Word
  pos : Nat
  hdr : Header
  words : List (BitVec 32)
  deriving DecidableEq, Repr

/-- An M-node node of a load: position, driver, driver index (14 R314, R318). -/
structure FNode where
  pos : Nat
  drv : Nat
  idx : Nat
  deriving DecidableEq, Repr

/-- A streamer node of a load (14 R316, R318). -/
structure FStream where
  /-- The model's own number. -/
  id : Nat
  prog : Word
  ncmd : Nat
  sink : Bool
  reps : Nat
  /-- Memory-side and edge-side descriptors of its commands, as they were read (14 R316, R319). -/
  descs : List (List Byte × List Byte)
  /-- The tower streamer it holds, 0 to 11 (13 R276; 14 R305, R310). -/
  num : Nat
  /-- A source: the number of its next token. A sink: commands performed. -/
  tok : Nat
  /-- A sink: the element of its current command that it comes to next. -/
  next : Nat
  /-- A sink's tokens that have come and may still be needed, by number modulo 2^32. -/
  held : List (Nat × Wide)
  /-- Repair list; its iterations are token numbers of a source, elements of a sink's command with the command's number above bit 64. -/
  repairs : List Repair
  /-- Those to be performed again after a replay. -/
  redo : List Nat
  /-- Its program has ended. -/
  ended : Bool
  /-- What a replay's read of the descriptors of its current command met (13 R280, R289). -/
  unread : Option (Kind × Word)
  progress : Nat
  deriving DecidableEq, Repr

/-- State of a fabric load (14 R306). -/
inductive LoadSt where
  | configuring | loaded | running | stopped | faulted | saved | finished
  deriving DecidableEq, Repr

/-- A fabric load that is not FREE (14 R305, R306). -/
structure Load where
  tower : Nat
  slot : Nat
  gen : BitVec 16
  asid : BitVec 16
  st : LoadSt
  image : Word
  origin : Nat
  w : Nat
  h : Nat
  /-- Cell nodes, with their pinned clauses as they were read (14 R307, R323). -/
  cells : List FCell
  mnodes : List FNode
  streams : List FStream
  edges : List FEdge
  /-- Age limit in us, 0 for the stall limit of its ASID (14 R317, R321); status word and ring. -/
  age : Nat
  status : Word
  ring : Word
  /-- Records written since the last PSTART (14 R306). -/
  nrec : Nat
  /-- The load is FAULTED and its status word does not say so yet: matrix commands are still to be performed (14 R328). -/
  statusDue : Bool
  /-- A PSTOP waits for the load to stand still (14 R324). -/
  stopAsked : Bool
  /-- The context, the instance and the instruction that wait for its configuration or its stop. -/
  waiter : Option (Nat × Nat × BitVec 7)
  /-- A PREST: the save area it restores; a saved load: its area (14 R325). -/
  area : Option Word
  /-- A saved load: its cell nodes and its M-nodes with the commands they hold (14 R325). -/
  keptCells : List Ctx
  keptNodes : List MNode
  deriving DecidableEq, Repr

/-- A submission window (20 R395). -/
structure Window where
  asid : BitVec 16
  en : Bool
  strm : Bool
  rn : Nat
  ring : Word
  cn : Nat
  cq : Word
  vec : BitVec 11
  irq : Bool
  wsub : BitVec 32
  ctail : BitVec 32
  chead : BitVec 32
  werr : BitVec 32
  /-- Host writes withheld while a submission waits: offset and bytes (20 R396). -/
  heldWr : List (Nat × List Byte)
  /-- Completions not yet written: record, state and completion value (20 R397). -/
  comps : List (Word × Nat × Word)
  deriving DecidableEq, Repr

/-- What the package has sent to the outside: to hosts and to other packages (20). -/
inductive Out where
  | message (m : BitVec 512)
  | hostWrite (pa : Nat) (bytes : List Byte)
  | msix (vec : BitVec 11)
  | backInvalidate (line : Nat)
  | hostData (bytes : List Byte) (poisoned : Bool)
  | hostPoisoned (pa : Nat)
  | farReply (src : Nat) (r : Except Kind (List Byte))
  | farForward (src : Nat) (pa : Nat) (op : FarOp)
  | gangReady (gid lead : Nat)
  | gangGo (gid pkg : Nat)
  | gangLate (gid pkg : Nat)
  | gangAbort (gid pkg : Nat)
  | checkpoint (port : BitVec 12) (addr : Nat) (bytes : List (Nat × Byte))
  deriving DecidableEq, Repr

/-- A die-to-die link (20 R386 to R389). -/
structure Link where
  /-- Spare lanes left in each direction (20 R386, R387). -/
  spares : Nat × Nat
  half : Bool
  lostAt : Option Nat
  pausedUntil : Nat
  /-- The 50 us of a loss that cuts a tower off have been served (20 R389). -/
  served : Bool
  deriving DecidableEq, Repr

/-- Where a gang stands (20 R402). -/
inductive GangSt where
  | armed | placed | running | aborted
  deriving DecidableEq, Repr

/-- A gang armed on this package (20 R401). -/
structure Gang where
  gid : Nat
  tower : Nat
  asid : BitVec 16
  lead : Nat
  members : List Word
  start : Nat
  grace : Nat
  abort : Bool
  stat : Word
  pkgs : BitVec 64
  st : GangSt
  /-- Packages whose READY the leader holds. -/
  ready : List Nat
  /-- The leader has sent GO (true) or ABORT (false). -/
  sent : Option Bool
  late : Bool
  deriving DecidableEq, Repr

/-- A checkpoint or restore that runs (20 R403). -/
structure Ckpt where
  restore : Bool
  port : BitVec 12
  target : Nat
  status : Word
  asid : BitVec 16
  tower : Nat
  /-- Updates asked for before it that are not over: it is served after them, and before those asked for later (23 R428). -/
  behind : Nat
  deriving DecidableEq, Repr

/-- A mailbox (23 R425). -/
structure Mbox where
  cmd : BitVec 16
  status : Word
  deriving DecidableEq, Repr

/-- A page's migrations within the last 10 ms, and old frames still forwarded (20 R399, R400). -/
structure Forward where
  frame : Nat
  target : Nat
  lastAt : Nat
  deriving DecidableEq, Repr

/-- What a tower holds beside its contexts. -/
structure Tower where
  /-- SVCTL.cell (17 R349). -/
  svCell : Nat
  /-- The supervisor has been started (23 R422). -/
  svOn : Bool
  /-- The supervisor task, which alone runs on SVCTL.cell; the ROM dispatched it, so it holds no reservation (07 R158; 17 R349; 23 R422). -/
  svKey : Option TaskKey
  /-- FQBASE and FQPTR (17 R350). -/
  fqN : Nat
  fqBase : Word
  fqHead : BitVec 16
  fqTail : BitVec 16
  /-- Fault-queue entries held for room, oldest first (17 R337). -/
  fqHeld : List FqEntry
  /-- HTDIR.pa in place (17 R350). -/
  htdir : Word
  /-- OVQ (17 R350). -/
  ovqN : Nat
  ovqEn : Bool
  ovqPa : Word
  /-- WSLSEL.word and the map WSLIVE (08 R186, 17 R350). -/
  wslSel : BitVec 8
  wslive : BitVec 16384
  /-- The weight store is open (08 R184). -/
  wsOpen : Bool
  /-- C0RES.gmask (18 R378). -/
  c0res : BitVec 32
  /-- Records accepted and not yet terminal, in submission order (07 R158). -/
  tasks : List TaskInfo
  /-- Submissions that wait for a reservation (07 R158). -/
  waitSubs : List WaitSub
  /-- Submissions that hold a reservation and wait for room in their stream, in submission order (07 R161). -/
  streamWaits : List StreamWait
  /-- Entries into READY so far (07 R163). -/
  readyCount : Nat
  /-- READY tasks passed over as the first of the highest class, and since when (07 R163). -/
  passed : List (TaskKey × Nat)
  /-- Those for which the pass-over limit has been reached (07 R163). -/
  passedLimit : List TaskKey
  /-- Inboxes in use (07 R169). -/
  inboxes : List Inbox
  /-- Permission caches of the cells (08 R194). -/
  perms : List PermEntry
  /-- Requests that wait at the complex, oldest first (08 R196). -/
  walkReqs : List WalkReq
  /-- Walks made whose answer has not reached its cell (08 R194). -/
  walkAns : List WalkAns
  /-- Faults that reached a cell and wait for the access that asked (08 R194). -/
  permNotes : List WalkAns
  /-- Generation number of the complex (08 R199). -/
  gen : Nat
  /-- Frame owner table (08 R197). -/
  owners : List Owner
  /-- Translation cache of the complex, the oldest entry first (08 R196). -/
  trans : List TransEntry
  /-- Lines allocated in the tower's slices, the oldest first (08 R177, R182). -/
  l2 : List L2Line
  /-- Second-touch filter banks, older first: the bits set, each with its slice of the tower (08 R182). -/
  filterOld : List (Nat × Nat)
  filterNew : List (Nat × Nat)
  /-- RDTIME of the last clearing of a filter bank, by slice. -/
  filterAt : List Nat
  /-- Clusters withheld from dispatch (23 R427). -/
  retiredClusters : List Nat
  /-- Submission windows 0 to 63 (20 R395). -/
  windows : List Window
  /-- MIGCTL, MIGPOOL, MIGCNT, GANGCMD and CKPT (20 R398). -/
  migEn : Bool
  migBound : Nat
  migThr : Nat
  migPool : Word
  migDone : BitVec 16
  migPskip : BitVec 16
  migBskip : BitVec 16
  migAband : BitVec 16
  gangcmd : Word
  ckpt : Word
  /-- Far accesses of the current window: page and source package with their count (20 R399). -/
  hot : List (Nat × Nat × Nat)
  /-- RDTIME when that window began. -/
  hotAt : Nat
  /-- Migrations made: page and time (20 R399). -/
  migHist : List (Nat × Nat)
  /-- Old frames whose accesses are forwarded (20 R400). -/
  forwards : List Forward
  /-- Generations of view indices: master slot, index, generation (13 R298). -/
  viewGens : List (Nat × Nat × BitVec 16)
  /-- Generations of load slots (14 R322). -/
  loadGens : List (BitVec 16)
  /-- Cells whose L1 is coherence-lost (20 R389). -/
  cohLost : List Nat
  /-- Records of tasks that held such a cell (20 R389). -/
  cohTasks : List TaskKey
  /-- Tasks that have left their lens while a link was lost, with their first cell and their width (20 R389). -/
  left : List (TaskKey × Nat × Nat)
  deriving DecidableEq, Repr

/-- Which instruction a move fires: a context, an instance of its window, an identifier; `spec` lets a load go before older stores whose addresses are not known (05 R149). -/
structure Focus where
  ctx : Nat
  win : Nat
  iid : BitVec 7
  spec : Bool
  deriving DecidableEq, Repr

/-- One move of the part or of its environment. -/
inductive Move where
  | fire (f : Focus)
  | event (x : Instr)
  deriving DecidableEq, Repr

/-- A move the environment or the part's timing has decided on: after so many ticks of 1 ns. -/
structure Due where
  after : Nat
  what : Move
  deriving DecidableEq, Repr

/-- Physical memory as data: addresses rising, no byte equal to what an unlisted address reads as (log 1). -/
abbrev Memory := List Host.Cell

/-- The machine. -/
structure State where
  /-- Physical memory: 52-bit addresses and bytes, rising, no zero byte listed (08 R183; log 1). -/
  mem : Memory
  /-- RDTIME: ticks of 1 ns since reset (17 R363). -/
  time : Nat
  /-- Contexts: tasks on lenses and cell nodes of fabric loads. -/
  ctxs : List Ctx
  /-- The next context number. -/
  nextCtx : Nat
  /-- The towers, 0 to 5 (00 R8). -/
  towers : List Tower
  /-- ASIDTAB.pa in place (17 R350). -/
  asidtab : Word
  /-- Live ASIDs (08 R192). -/
  liveAsids : List (BitVec 16)
  /-- ASIDCMD as last written and its ref bit (17 R350). -/
  asidCmd : BitVec 17
  asidRef : Bool
  /-- VLOG (17 R350). -/
  vlogSize : BitVec 16
  vlogEn : Bool
  vlogPa : Word
  /-- Hypotheses that are not FREE, hypothesis 0 left out (10 R231). -/
  hyps : List Hyp
  /-- Versions of subjunctive stores (10 R238). -/
  versions : List Version
  /-- Shoot-downs under way, oldest first (08 R199). -/
  shoots : List Shoot
  /-- Lines, PA / 64, whose data is poisoned by an uncorrectable error (23 R426). -/
  badLines : List Nat
  /-- SELF: the package number (20 R392). -/
  self : Nat
  /-- Late-fault and fabric records that are not yet in their ring, oldest first (17 R339). -/
  recq : List AfRec
  /-- Late faults learned of and not yet served by a stop, by task (17 R334). -/
  lates : List (TaskKey × Late)
  /-- What the save area of a task that has left its lens does not take of what 09 R216 holds: releases that are no stores, and stores that have faulted (09 R216; 18 R373; 19 R385). -/
  heldActs : List (TaskKey × Pend)
  /-- Tasks that have ended while engines still hold commands of them (17 R344). -/
  ended : List Ended
  /-- Messages sent and not yet arrived, oldest first, with their senders (07 R169). -/
  flight : List (TaskKey × BitVec 512)
  /-- Granted M-nodes (12 R253). -/
  mnodes : List MNode
  /-- Streamer commands handed over by tasks (13 R276). -/
  scmds : List SCmd
  /-- The next number of an engine command. -/
  nextCmd : Nat
  /-- Masters with their views (13 R290). -/
  masters : List Master
  /-- Builds the prism engines owe (13 R294). -/
  builds : List Build
  /-- Fabric loads (14 R305). -/
  loads : List Load
  /-- Routing table and its count of ignored writes (20 R392). -/
  routes : List Word
  routeIgnored : Nat
  /-- Snoop filter: lines held by hosts, oldest first (20 R394). -/
  snoop : List Nat
  /-- What has been sent to the outside, oldest first. -/
  outbox : List Out
  /-- Die-to-die links 0 to 6 (20 R386). -/
  links : List Link
  /-- Flits sent again and corrected errors, counted in TELEMETRY (20 R387, 23 R425). -/
  flitRetries : Nat
  corrected : Nat
  /-- Lanes of the twelve CXL ports (23 R427). -/
  cxlLanes : List Nat
  /-- Gangs (20 R401). -/
  gangs : List Gang
  /-- A checkpoint or restore that runs (20 R403). -/
  ckptRun : Option Ckpt
  /-- Mailboxes 0 and 1 (23 R425). -/
  mboxes : List Mbox
  /-- Commands the system controller has yet to serve, oldest first: mailbox numbers (23 R425). -/
  mboxQueue : List Nat
  /-- Measurement registers M0 to M15 (23 R422). -/
  measures : List (BitVec 256)
  /-- Fuse counter (23 R423). -/
  fuses : Nat
  /-- Power cap in W, and since when the package stands above it at the minimum share (23 R420). -/
  cap : Nat
  capOverAt : Option Nat
  /-- Arithmetic clock in MHz, issue share in eighths, throttling, when the last step was made (23 R421). -/
  clock : Nat
  share : Nat
  throttling : Bool
  stepAt : Nat
  /-- A boot stage has failed: the package stays in reset (23 R422). -/
  inReset : Bool
  /-- FWUPDATE waits for a quiesce point: the mailbox and the image address (23 R428). -/
  fwWait : Option (Nat × Nat)
  /-- Retired L2 slices and spared HBM rows (23 R427). -/
  retiredSlices : List Nat
  sparedRows : List Nat
  /-- HBM lanes retrained around, by tower (23 R427). -/
  hbmLanes : List Nat
  /-- L2 slices that wait for a quiesce point to be retired (23 R427). -/
  sliceWait : List Nat
  /-- Which instruction `exec` acts on. -/
  focus : Focus
  /-- Moves the environment and the part's timing have decided on, oldest first (log 3). -/
  agenda : List Due
  /-- Count of moves that had an effect: the argument of free values (log 4). -/
  moves : Nat
  /-- Every clock is stopped (23 R421). -/
  stopped : Bool
  deriving DecidableEq, Repr

/-- A submission window right after reset (20 R395). -/
def Window.reset : Window where
  asid := 0
  en := false
  strm := false
  rn := 0
  ring := 0
  cn := 0
  cq := 0
  vec := 0
  irq := false
  wsub := 0
  ctail := 0
  chead := 0
  werr := 0
  heldWr := []
  comps := []

/-- A tower right after reset (17 R350, 08 R184, R186; log 2). -/
def Tower.reset : Tower where
  svCell := 0
  svOn := false
  svKey := none
  fqN := 4
  fqBase := 0
  fqHead := 0
  fqTail := 0
  fqHeld := []
  htdir := 0
  ovqN := 10
  ovqEn := false
  ovqPa := 0
  wslSel := 0
  wslive := 0
  wsOpen := false
  c0res := 0
  tasks := []
  waitSubs := []
  streamWaits := []
  readyCount := 0
  passed := []
  passedLimit := []
  inboxes := []
  perms := []
  walkReqs := []
  walkAns := []
  permNotes := []
  gen := 0
  owners := []
  trans := []
  l2 := []
  filterOld := []
  filterNew := []
  filterAt := List.replicate 64 0
  retiredClusters := []
  windows := List.replicate 64 Window.reset
  migEn := false
  migBound := 2
  migThr := 0
  migPool := 0
  migDone := 0
  migPskip := 0
  migBskip := 0
  migAband := 0
  gangcmd := 0
  ckpt := 0
  hot := []
  hotAt := 0
  migHist := []
  forwards := []
  viewGens := []
  loadGens := List.replicate 16 0
  cohLost := []
  cohTasks := []
  left := []

/-- The machine right after reset (17 R350, R363; 23 R422). -/
def State.reset : State where
  mem := []
  time := 0
  ctxs := []
  nextCtx := 0
  towers := List.replicate 6 Tower.reset
  asidtab := 0
  liveAsids := []
  asidCmd := 0
  asidRef := false
  vlogSize := 0
  vlogEn := false
  vlogPa := 0
  hyps := []
  versions := []
  shoots := []
  badLines := []
  self := 0
  recq := []
  lates := []
  heldActs := []
  ended := []
  flight := []
  mnodes := []
  scmds := []
  nextCmd := 0
  masters := []
  builds := []
  loads := []
  routes := (List.replicate 64 (0 : Word)).set 0 1
  routeIgnored := 0
  snoop := []
  outbox := []
  links := List.replicate 7 ⟨(4, 4), false, none, 0, false⟩
  flitRetries := 0
  corrected := 0
  cxlLanes := List.replicate 12 16
  gangs := []
  ckptRun := none
  mboxes := [⟨0, 0⟩, ⟨0, 0⟩]
  mboxQueue := []
  measures := List.replicate 16 0
  fuses := 0
  cap := 4600
  capOverAt := none
  clock := 2100
  share := 8
  throttling := false
  stepAt := 0
  inReset := false
  fwWait := none
  retiredSlices := []
  sparedRows := []
  hbmLanes := List.replicate 6 0
  sliceWait := []
  focus := ⟨0, 0, 0, false⟩
  agenda := []
  moves := 0
  stopped := false

end Sys2Proof.Machine
end

