-- ==== Sys2Proof/Machine/Flags.lean ====
section
/-! DEFINITION. Sys2Proof/Machine/Flags.lean: the sticky flags and the modes that govern floating-point arithmetic (01 R30, 03 R73 to R75). -/

namespace Sys2Proof.Machine

/-- The flags nv, dz, of, uf and nx, bit 4 down to bit 0, as FPFLAGS holds them (01 R30). -/
abbrev Flags := BitVec 5

/-- Invalid. -/
def fNV : Flags := 16#5
/-- Divide by zero. -/
def fDZ : Flags := 8#5
/-- Overflow. -/
def fOF : Flags := 4#5
/-- Underflow. -/
def fUF : Flags := 2#5
/-- Inexact. -/
def fNX : Flags := 1#5

/-- A flag raised when a condition holds. -/
def flagIf (c : Bool) (f : Flags) : Flags := if c then f else 0#5

/-- The flags a clause raises are ORed into FPFLAGS at its commit (01 R20). -/
def orFlags (old raised : Flags) : Flags := old ||| raised

/-- The rounding-mode code a CWRITE stores: 101 to 111 store 000 (01 R30). -/
def rmStored (v : BitVec 3) : BitVec 3 := if v.toNat ≤ 4 then v else 0

/-- The generator state a position starts from: a zero is replaced (03 R74). -/
def genSeed (seed : BitVec 32) (j : Nat) : BitVec 32 :=
  let x := seed ^^^ (BitVec.ofNat 32 j * 0x9E3779B9#32)
  if x = 0 then 0x9E3779B9#32 else x

/-- One draw of a generator: its next state, which is also the draw (03 R74). -/
def genDraw (x0 : BitVec 32) : BitVec 32 :=
  let x1 := x0 ^^^ (x0 <<< 13)
  let x2 := x1 ^^^ (x1 >>> 17)
  x2 ^^^ (x2 <<< 5)

end Sys2Proof.Machine
end

