-- ==== Sys2Proof/Machine/Num.lean ====
section
/-! DEFINITION. Sys2Proof/Machine/Num.lean: exact values, the binary formats, rounding and flags (03). A value is a sign with a mantissa and a power of two, so every operation is exact before its one rounding. -/

namespace Sys2Proof.Machine

/-- A rounding mode; the stochastic one carries its draw (03 R73, R74). -/
inductive Mode where
  | rne | rtz | rdn | rup
  | sto (draw : BitVec 32)
  deriving DecidableEq, Repr

/-- Stochastic counts as RNE outside a narrowing conversion (03 R73). -/
def Mode.noSto : Mode → Mode
  | .sto _ => .rne
  | m => m

/-- An exact value: a signed zero, (-1)^neg × m × 2^e with m > 0, an infinity, or a NaN. -/
inductive Val where
  | zero (neg : Bool)
  | fin (neg : Bool) (m : Nat) (e : Int)
  | inf (neg : Bool)
  | nan (signalling : Bool)
  deriving DecidableEq, Repr

/-- The exact value of an integer times a power of two. -/
def Val.ofInt (n : Int) (e : Int) : Val :=
  if n = 0 then .zero false else .fin (decide (n < 0)) n.natAbs e

/-- The sign bit of a value that is no NaN. -/
def Val.neg? : Val → Bool
  | .zero n => n
  | .fin n _ _ => n
  | .inf n => n
  | .nan _ => false

/-- The value with its sign reversed. -/
def Val.negate : Val → Val
  | .zero n => .zero (!n)
  | .fin n m e => .fin (!n) m e
  | .inf n => .inf (!n)
  | .nan s => .nan s

/-- Whether the value is a NaN. -/
def Val.isNan : Val → Bool
  | .nan _ => true
  | _ => false

/-- Whether the value is a signalling NaN. -/
def Val.isSnan : Val → Bool
  | .nan s => s
  | _ => false

/-- Whether the value is an infinity. -/
def Val.isInf : Val → Bool
  | .inf _ => true
  | _ => false

/-- Whether the value is a zero. -/
def Val.isZero : Val → Bool
  | .zero _ => true
  | _ => false

/-- How a binary format uses its top exponent (03 R65, R66). -/
inductive TopExp where
  /-- Infinities and NaNs, as IEEE 754. -/
  | ieee
  /-- One NaN, every bit of exponent and fraction set. -/
  | topNan
  /-- Ordinary numbers only. -/
  | none
  deriving DecidableEq, Repr

/-- A binary floating-point format: exponent and fraction widths, bias, use of the top exponent. -/
structure FloatFmt where
  /-- Exponent bits. -/
  eb : Nat
  /-- Fraction bits. -/
  mb : Nat
  /-- Exponent bias. -/
  bias : Nat
  /-- Use of the top exponent. -/
  top : TopExp
  deriving DecidableEq, Repr

/-- FP64 (03 R66). -/
def FloatFmt.fp64 : FloatFmt := ⟨11, 52, 1023, .ieee⟩
/-- FP32 (03 R66). -/
def FloatFmt.fp32 : FloatFmt := ⟨8, 23, 127, .ieee⟩
/-- FP16 (03 R66). -/
def FloatFmt.fp16 : FloatFmt := ⟨5, 10, 15, .ieee⟩
/-- BF16 (03 R66). -/
def FloatFmt.bf16 : FloatFmt := ⟨8, 7, 127, .ieee⟩
/-- E8M10, without the 13 ignored bits of its container (03 R66). -/
def FloatFmt.e8m10 : FloatFmt := ⟨8, 10, 127, .ieee⟩
/-- E2M1 (03 R65). -/
def FloatFmt.e2m1 : FloatFmt := ⟨2, 1, 1, .none⟩
/-- E2M3 (03 R65). -/
def FloatFmt.e2m3 : FloatFmt := ⟨2, 3, 1, .none⟩
/-- E3M2 (03 R65). -/
def FloatFmt.e3m2 : FloatFmt := ⟨3, 2, 3, .none⟩
/-- E4M3 (03 R65). -/
def FloatFmt.e4m3 : FloatFmt := ⟨4, 3, 7, .topNan⟩
/-- E5M2 (03 R65). -/
def FloatFmt.e5m2 : FloatFmt := ⟨5, 2, 15, .ieee⟩
/-- E3M4 (03 R65). -/
def FloatFmt.e3m4 : FloatFmt := ⟨3, 4, 3, .topNan⟩
/-- The accumulator format FA48 (03 R72). -/
def FloatFmt.fa48 : FloatFmt := ⟨10, 37, 511, .ieee⟩

/-- Width of the format in bits. -/
def FloatFmt.bits (f : FloatFmt) : Nat := 1 + f.eb + f.mb

/-- Exponent of the smallest normal. -/
def FloatFmt.emin (f : FloatFmt) : Int := 1 - (f.bias : Int)

/-- Exponent of the last place of a subnormal. -/
def FloatFmt.qmin (f : FloatFmt) : Int := f.emin - (f.mb : Int)

/-- The largest finite magnitude's code, the sign left out. -/
def FloatFmt.maxCode (f : FloatFmt) : Nat :=
  match f.top with
  | .ieee => (2 ^ f.eb - 1) * 2 ^ f.mb - 1
  | .topNan => 2 ^ (f.eb + f.mb) - 2
  | .none => 2 ^ (f.eb + f.mb) - 1

/-- The code of infinity, the sign left out; meant for IEEE formats. -/
def FloatFmt.infCode (f : FloatFmt) : Nat := (2 ^ f.eb - 1) * 2 ^ f.mb

/-- The NaN the part writes: quiet with only the top fraction bit set in the arithmetic formats (03 R75, R72), every fraction bit set in the small formats (03 R65). -/
def FloatFmt.nanCode (f : FloatFmt) : Nat :=
  match f.top with
  | .ieee => if f.bits < 16 then 2 ^ (f.eb + f.mb) - 1 else f.infCode + 2 ^ (f.mb - 1)
  | .topNan => 2 ^ (f.eb + f.mb) - 1
  | .none => 0

/-- Whether the format has a NaN. -/
def FloatFmt.hasNan (f : FloatFmt) : Bool := decide (f.top ≠ .none)

/-- Whether the format has infinities. -/
def FloatFmt.hasInf (f : FloatFmt) : Bool := decide (f.top = .ieee)

/-- The sign bit of a code. -/
def FloatFmt.signOf (f : FloatFmt) (x : Nat) : Bool := (x / 2 ^ (f.eb + f.mb)) % 2 = 1

/-- Put a sign on a magnitude code. -/
def FloatFmt.withSign (f : FloatFmt) (neg : Bool) (mag : Nat) : Nat :=
  if neg then 2 ^ (f.eb + f.mb) + mag else mag

/-- The value of a code; bits above the format's width are ignored (03 R65, R66, 04 R86). A NaN whose top fraction bit is clear is signalling, in E5M2 too, of which the spec does not say (log 88). -/
def FloatFmt.decode (f : FloatFmt) (x : Nat) : Val :=
  let neg := f.signOf x
  let e := x / 2 ^ f.mb % 2 ^ f.eb
  let m := x % 2 ^ f.mb
  if f.top = .ieee ∧ e = 2 ^ f.eb - 1 then
    if m = 0 then .inf neg else .nan (decide (m < 2 ^ (f.mb - 1)))
  else if f.top = .topNan ∧ e = 2 ^ f.eb - 1 ∧ m = 2 ^ f.mb - 1 then .nan false
  else if e = 0 then
    if m = 0 then .zero neg else .fin neg m f.qmin
  else .fin neg (2 ^ f.mb + m) (f.qmin + (e : Int) - 1)

/-- A NaN without its signalling mark. -/
def Val.quiet : Val → Val
  | .nan _ => .nan false
  | v => v

/-- Whether a value is a subnormal of the format. -/
def FloatFmt.isSubnormal (f : FloatFmt) : Val → Bool
  | .fin _ m e => decide (e + (Nat.log2 m : Int) < f.emin)
  | _ => false

/-- An input read with flush to zero: a subnormal becomes the zero of its sign, with no flag (03 R75). -/
def FloatFmt.read (f : FloatFmt) (ftz : Bool) (x : Nat) : Val :=
  let v := f.decode x
  if ftz && f.isSubnormal v then .zero v.neg? else v

/-- m / 2^s rounded to an integer, with whether it was inexact (03 R73, R74). -/
def roundShift (mode : Mode) (neg : Bool) (m s : Nat) : Nat × Bool :=
  let q := m / 2 ^ s
  let r := m % 2 ^ s
  let up : Bool :=
    match mode with
    | .rne => decide (2 * r > 2 ^ s) || (decide (2 * r = 2 ^ s) && decide (q % 2 = 1))
    | .rtz => false
    | .rdn => neg && decide (r ≠ 0)
    | .rup => !neg && decide (r ≠ 0)
    | .sto d => decide (r * 4294967296 / 2 ^ s + d.toNat ≥ 4294967296)
  (if up then q + 1 else q, decide (r ≠ 0))

/-- m × 2^e as a multiple of 2^q, rounded. -/
def roundAt (mode : Mode) (neg : Bool) (m : Nat) (e q : Int) : Nat × Bool :=
  if q ≤ e then (m * 2 ^ (e - q).toNat, false) else roundShift mode neg m (q - e).toNat

/-- A finite nonzero value rounded to a format: its code with sign, and the flags of, uf and nx (03 R73 to R76). Tininess is detected after rounding (03 R75). -/
def FloatFmt.roundFin (f : FloatFmt) (mode : Mode) (neg : Bool) (m : Nat) (e : Int) : Nat × Flags :=
  let ex : Int := e + (Nat.log2 m : Int)
  let q : Int := (if ex < f.emin then f.emin else ex) - (f.mb : Int)
  let r := roundAt mode neg m e q
  let mag := (q - f.qmin).toNat * 2 ^ f.mb + r.1
  if mag > f.maxCode then
    let toInf : Bool :=
      decide (f.bits ≥ 16) && f.hasInf &&
        (match mode with
         | .rne => true
         | .rtz => false
         | .rdn => neg
         | .rup => !neg
         | .sto _ => true)
    (f.withSign neg (if toInf then f.infCode else f.maxCode), fOF ||| fNX)
  else
    let tiny : Bool :=
      decide (ex < f.emin - 1) ||
        (decide (ex = f.emin - 1) &&
          decide ((roundAt mode neg m e (ex - (f.mb : Int))).1 < 2 ^ (f.mb + 1)))
    (f.withSign neg mag, flagIf r.2 fNX ||| flagIf (r.2 && tiny) fUF)

/-- A value written to a binary format (03 R75, R76): infinities and NaNs as the format has them; saturation of an infinity, a lost NaN and a signalling NaN raise nv. -/
def FloatFmt.encode (f : FloatFmt) (mode : Mode) : Val → Nat × Flags
  | .zero neg => (f.withSign neg 0, 0#5)
  | .fin neg m e => f.roundFin mode neg m e
  | .inf neg => if f.hasInf then (f.withSign neg f.infCode, 0#5) else (f.withSign neg f.maxCode, fNV)
  | .nan sig => if f.hasNan then (f.nanCode, flagIf sig fNV) else (0, fNV)

/-- A result written with flush to zero: a subnormal result becomes the zero of its sign, raising uf and nx (03 R75). -/
def FloatFmt.write (f : FloatFmt) (ftz : Bool) (mode : Mode) (v : Val) : Nat × Flags :=
  let r := f.encode mode v
  if ftz && f.isSubnormal (f.decode r.1) then
    (f.withSign (f.signOf r.1) 0, r.2 ||| fUF ||| fNX)
  else r

/-- The sum of two finite nonzero values, exact. -/
def addFin (mode : Mode) (n1 : Bool) (m1 : Nat) (e1 : Int) (n2 : Bool) (m2 : Nat) (e2 : Int) : Val :=
  let e := if e1 ≤ e2 then e1 else e2
  let a : Int := (m1 : Int) * 2 ^ (e1 - e).toNat
  let b : Int := (m2 : Int) * 2 ^ (e2 - e).toNat
  let s := (if n1 then -a else a) + (if n2 then -b else b)
  if s = 0 then .zero (decide (mode = .rdn)) else .fin (decide (s < 0)) s.natAbs e

/-- The exact sum, with the flags of its special cases (04 R102). -/
def addVal (mode : Mode) (x y : Val) : Val × Flags :=
  match x, y with
  | .nan a, y => (.nan false, flagIf (a || y.isSnan) fNV)
  | _, .nan b => (.nan false, flagIf b fNV)
  | .inf a, .inf b => if a = b then (.inf a, 0#5) else (.nan false, fNV)
  | .inf a, _ => (.inf a, 0#5)
  | _, .inf b => (.inf b, 0#5)
  | .zero a, .zero b => (.zero (if a = b then a else decide (mode = .rdn)), 0#5)
  | .zero _, y => (y, 0#5)
  | x, .zero _ => (x, 0#5)
  | .fin n1 m1 e1, .fin n2 m2 e2 => (addFin mode n1 m1 e1 n2 m2 e2, 0#5)

/-- The exact product (04 R102). -/
def mulVal (x y : Val) : Val × Flags :=
  let n := xor x.neg? y.neg?
  match x, y with
  | .nan a, y => (.nan false, flagIf (a || y.isSnan) fNV)
  | _, .nan b => (.nan false, flagIf b fNV)
  | .inf _, .zero _ => (.nan false, fNV)
  | .zero _, .inf _ => (.nan false, fNV)
  | .inf _, _ => (.inf n, 0#5)
  | _, .inf _ => (.inf n, 0#5)
  | .zero _, _ => (.zero n, 0#5)
  | _, .zero _ => (.zero n, 0#5)
  | .fin _ m1 e1, .fin _ m2 e2 => (.fin n (m1 * m2) (e1 + e2), 0#5)

/-- A quotient of finite nonzero values to at least 128 bits, the lost part kept as a lowest bit, so that one rounding of it is the rounding of the exact quotient. -/
def divFin (n : Bool) (m1 : Nat) (e1 : Int) (m2 : Nat) (e2 : Int) : Val :=
  let k := 130 + Nat.log2 m2
  let a := m1 * 2 ^ k
  .fin n (2 * (a / m2) + (if a % m2 = 0 then 0 else 1)) (e1 - e2 - (k : Int) - 1)

/-- The quotient with its special cases (04 R102). -/
def divVal (x y : Val) : Val × Flags :=
  let n := xor x.neg? y.neg?
  match x, y with
  | .nan a, y => (.nan false, flagIf (a || y.isSnan) fNV)
  | _, .nan b => (.nan false, flagIf b fNV)
  | .inf _, .inf _ => (.nan false, fNV)
  | .zero _, .zero _ => (.nan false, fNV)
  | .inf _, _ => (.inf n, 0#5)
  | _, .inf _ => (.zero n, 0#5)
  | .zero _, _ => (.zero n, 0#5)
  | .fin _ _ _, .zero _ => (.inf n, fDZ)
  | .fin _ m1 e1, .fin _ m2 e2 => (divFin n m1 e1 m2 e2, 0#5)

/-- The integer square root, bit by bit from 2^k down. -/
def isqrtFrom (n : Nat) : Nat → Nat → Nat
  | 0, r => if (r + 1) * (r + 1) ≤ n then r + 1 else r
  | k + 1, r => isqrtFrom n k (if (r + 2 ^ (k + 1)) * (r + 2 ^ (k + 1)) ≤ n then r + 2 ^ (k + 1) else r)

/-- ⌊√n⌋. -/
def isqrt (n : Nat) : Nat := isqrtFrom n (Nat.log2 n / 2 + 1) 0

/-- The square root to at least 128 bits, the lost part kept as a lowest bit. -/
def sqrtFin (m : Nat) (e : Int) : Val :=
  let odd : Nat := (e % 2).toNat
  let a := m * 2 ^ (260 + odd)
  let r := isqrt a
  .fin false (2 * r + (if r * r = a then 0 else 1)) ((e - (odd : Int) - 260) / 2 - 1)

/-- The square root with its special cases (04 R103). -/
def sqrtVal : Val → Val × Flags
  | .nan s => (.nan false, flagIf s fNV)
  | .zero n => (.zero n, 0#5)
  | .inf false => (.inf false, 0#5)
  | .inf true => (.nan false, fNV)
  | .fin true _ _ => (.nan false, fNV)
  | .fin false m e => (sqrtFin m e, 0#5)

/-- The fused x × y + z; 0 × ∞ is invalid even beside a quiet NaN (04 R104). -/
def fmaVal (mode : Mode) (x y z : Val) : Val × Flags :=
  let p := mulVal x y
  let s := addVal mode p.1 z
  (s.1, p.2 ||| s.2)

/-- 1 / x (05 R125). -/
def rcpVal (x : Val) : Val × Flags := divVal (.fin false 1 0) x

/-- 1 / √x (05 R125): of a zero the infinity of its sign with dz, of a negative a NaN with nv. -/
def rsqVal : Val → Val × Flags
  | .nan s => (.nan false, flagIf s fNV)
  | .zero n => (.inf n, fDZ)
  | .inf false => (.zero false, 0#5)
  | .inf true => (.nan false, fNV)
  | .fin true _ _ => (.nan false, fNV)
  | .fin false m e =>
    let odd : Nat := (e % 2).toNat
    let d := m * 2 ^ odd
    let k := 260 + 2 * Nat.log2 d
    let q := 2 ^ (2 * k) / d
    let r := isqrt q
    let exact : Bool := decide (r * r * d = 2 ^ (2 * k))
    (.fin false (2 * r + (if exact then 0 else 1)) (-(k : Int) - (e - (odd : Int)) / 2 - 1), 0#5)

/-- Whether x < y, for values that are no NaN; the two zeros are equal. -/
def ltVal (x y : Val) : Bool :=
  match x, y with
  | .inf a, .inf b => a && !b
  | .inf a, _ => a
  | _, .inf b => !b
  | .zero _, .zero _ => false
  | .zero _, y => !y.neg?
  | x, .zero _ => x.neg?
  | .fin n1 m1 e1, .fin n2 m2 e2 =>
    let e := if e1 ≤ e2 then e1 else e2
    let a : Int := (m1 : Int) * 2 ^ (e1 - e).toNat
    let b : Int := (m2 : Int) * 2 ^ (e2 - e).toNat
    decide ((if n1 then -a else a) < (if n2 then -b else b))
  | _, _ => false

/-- Whether a format represents every value of another, so that a conversion to it is exact (03 R78). -/
def FloatFmt.holds (dst src : FloatFmt) : Bool :=
  decide (src.mb ≤ dst.mb) && decide (dst.qmin ≤ src.qmin) && (dst.hasNan || !src.hasNan) && (dst.hasInf || !src.hasInf)
    && !ltVal (dst.decode dst.maxCode) (src.decode src.maxCode)

/-- The value a conversion starts from: a widening one raises no flag, so its NaN is quiet (03 R78; 04 R105). -/
def FloatFmt.widen (dst src : FloatFmt) (v : Val) : Val := if dst.holds src then v.quiet else v

/-- Whether x = y, for values that are no NaN. -/
def eqVal (x y : Val) : Bool := !x.isNan && !y.isNan && !ltVal x y && !ltVal y x

/-- minimumNumber, with -0 below +0 (04 R103). -/
def minVal (x y : Val) : Val × Flags :=
  let fl := flagIf (x.isSnan || y.isSnan) fNV
  if x.isNan then (if y.isNan then (.nan false, fl) else (y, fl))
  else if y.isNan then (x, fl)
  else if x.isZero && y.isZero then (.zero (x.neg? || y.neg?), fl)
  else if ltVal y x then (y, fl) else (x, fl)

/-- maximumNumber, with -0 below +0 (04 R103). -/
def maxVal (x y : Val) : Val × Flags :=
  let fl := flagIf (x.isSnan || y.isSnan) fNV
  if x.isNan then (if y.isNan then (.nan false, fl) else (y, fl))
  else if y.isNan then (x, fl)
  else if x.isZero && y.isZero then (.zero (x.neg? && y.neg?), fl)
  else if ltVal x y then (y, fl) else (x, fl)

/-- A finite nonzero value rounded to an integer, with whether that was inexact (03 R77, 04 R106). -/
def roundInt (mode : Mode) (neg : Bool) (m : Nat) (e : Int) : Int × Bool :=
  let r := roundAt mode neg m e 0
  (if neg then -(r.1 : Int) else (r.1 : Int), r.2)

/-- A conversion to an integer range: rounded, then saturated with nv; a NaN gives 0 with nv (03 R77, 04 R106). -/
def toIntVal (mode : Mode) (lo hi : Int) : Val → Int × Flags
  | .nan _ => (0, fNV)
  | .zero _ => (0, 0#5)
  | .inf neg => (if neg then lo else hi, fNV)
  | .fin neg m e =>
    let r := roundInt mode neg m e
    if r.1 > hi then (hi, fNV)
    else if r.1 < lo then (lo, fNV)
    else (r.1, flagIf r.2 fNX)

/-- ⌊log2 |v|⌋ of a finite nonzero value. -/
def ilog2 (m : Nat) (e : Int) : Int := e + (Nat.log2 m : Int)

/-- Fraction bits of the fixed-point numbers that bracket VEXP2 and VLOG2. -/
def fxBits : Nat := 640

/-- ln 2 in fixed point, as the sum of 1 / (k 2^k). -/
def fxLn2From : Nat → Nat → Nat → Nat
  | 0, _, acc => acc
  | n + 1, k, acc => fxLn2From n (k + 1) (acc + 2 ^ (fxBits - k) / k)

/-- ln 2 in fixed point. -/
def fxLn2 : Nat := fxLn2From 639 1 0

/-- The exponential series of a fixed-point number below 1. -/
def fxExpFrom (y : Nat) : Nat → Nat → Nat → Nat → Nat
  | 0, _, _, acc => acc
  | n + 1, k, term, acc => fxExpFrom y n (k + 1) (term * y / 2 ^ fxBits / k) (acc + term)

/-- The series of atanh at a fixed-point number z, with z² at hand. -/
def fxAtanhFrom (z2 : Nat) : Nat → Nat → Nat → Nat → Nat
  | 0, _, _, acc => acc
  | n + 1, k, pw, acc => fxAtanhFrom z2 n (k + 2) (pw * z2 / 2 ^ fxBits) (acc + pw / k)

/-- A value just below 2^x for a finite x that is not an integer: mantissa and exponent of its truncation. -/
def exp2Below (neg : Bool) (m : Nat) (e : Int) : Nat × Int :=
  -- x as a whole part and a fraction in fixed point
  let mag := if -(fxBits : Int) ≤ e then m * 2 ^ (e + (fxBits : Int)).toNat else m / 2 ^ (-(fxBits : Int) - e).toNat
  let whole : Int := if neg then -((mag / 2 ^ fxBits : Nat) : Int) - 1 else ((mag / 2 ^ fxBits : Nat) : Int)
  let frac := if neg then 2 ^ fxBits - mag % 2 ^ fxBits else mag % 2 ^ fxBits
  let y := frac * fxLn2 / 2 ^ fxBits
  (fxExpFrom y 160 1 (2 ^ fxBits) 0, whole - (fxBits : Int))

/-- |log2 x| truncated, with its sign, for a finite positive x that is no power of two. -/
def log2Below (m : Nat) (e : Int) : Bool × Nat × Int :=
  let k := Nat.log2 m
  let ex : Int := e + (k : Int)
  -- x = 2^ex × (m / 2^k), z = (m - 2^k) / (m + 2^k)
  let z := (m - 2 ^ k) * 2 ^ fxBits / (m + 2 ^ k)
  let ln := 2 * fxAtanhFrom (z * z / 2 ^ fxBits) 220 1 z 0
  let lg : Int := (ln * 2 ^ fxBits / fxLn2 : Nat) + ex * 2 ^ fxBits
  (decide (lg < 0), lg.natAbs, -(fxBits : Int))

/-- One of the two neighbours of an inexact value whose truncated magnitude is m × 2^e: the lower magnitude, or the next one when `away` (05 R125). -/
def FloatFmt.faithful (f : FloatFmt) (neg away : Bool) (m : Nat) (e : Int) : Nat × Flags :=
  let ex : Int := e + (Nat.log2 m : Int)
  let q : Int := (if ex < f.emin then f.emin else ex) - (f.mb : Int)
  let lowMag := (q - f.qmin).toNat * 2 ^ f.mb + (roundAt .rtz neg m e q).1
  if lowMag ≥ f.maxCode then (f.withSign neg f.infCode, fOF ||| fNX)
  else
    let mag := if away then lowMag + 1 else lowMag
    (f.withSign neg mag, fNX ||| flagIf (decide (mag < 2 ^ f.mb)) fUF)

/-- Whether a finite value is an integer, and which. -/
def intOf? (neg : Bool) (m : Nat) (e : Int) : Option Int :=
  let r := roundInt .rtz neg m e
  if r.2 then none else some r.1

/-- VEXP2 of one value (05 R125). -/
def FloatFmt.exp2 (f : FloatFmt) (up : Bool) : Val → Nat × Flags
  | .nan s => (f.nanCode, flagIf s fNV)
  | .zero _ => f.encode .rne (.fin false 1 0)
  | .inf false => (f.infCode, 0#5)
  | .inf true => (0, 0#5)
  | .fin neg m e =>
    if ilog2 m e > 12 then
      (if neg then (if up then 1 else 0, fNX ||| fUF) else (f.infCode, fOF ||| fNX))
    else
      match intOf? neg m e with
      | some n =>
        if n > (f.bias : Int) then (f.infCode, fOF ||| fNX)
        else if n < f.qmin then (if up then 1 else 0, fNX ||| fUF)
        else f.encode .rne (.fin false 1 n)
      | none =>
        let r := exp2Below neg m e
        f.faithful false up r.1 r.2

/-- VLOG2 of one value (05 R125). -/
def FloatFmt.log2 (f : FloatFmt) (up : Bool) : Val → Nat × Flags
  | .nan s => (f.nanCode, flagIf s fNV)
  | .zero _ => (f.withSign true f.infCode, fDZ)
  | .inf false => (f.infCode, 0#5)
  | .inf true => (f.nanCode, fNV)
  | .fin true _ _ => (f.nanCode, fNV)
  | .fin false m e =>
    if m = 2 ^ Nat.log2 m then f.encode .rne (Val.ofInt (ilog2 m e) 0)
    else
      let r := log2Below m e
      f.faithful r.1 (xor up r.1) r.2.1 r.2.2

end Sys2Proof.Machine
end

