-- ==== Sys2Proof/Machine/Operands.lean ====
section
/-! DEFINITION. Sys2Proof/Machine/Operands.lean: what each instruction reads, delivers and accounts for: its slots and their widths, its predicate, its targets, its effect slot; and how each family reads its immediate (02 R34 to R45). -/

namespace Sys2Proof.Machine

/-- The width a slot is typed with (01 R16). -/
inductive Width where
  | scalar | wide | any
  deriving DecidableEq, Repr

end Sys2Proof.Machine

namespace Sys2Proof

open Sys2Proof.Machine (Width)

/-- The target a 9-bit field names; the discard code names none (02 R36). -/
def Tgt.targets : Tgt → List (Slot × BitVec 7)
  | .discard => []
  | .to slot iid => [(slot, iid)]

/-- The identifiers of a fan form: 8 row + j for each mask bit j (02 R37). Slot p with row 15 and mask bit 7 delivers to i127.p: DESIGN CHOICE, 02 R36 calls that slot never a target, because its dual code is the discard code, and 02 R37 makes no exception (log 93). -/
def fanTargets (slot : Slot) (row : BitVec 4) (mask : BitVec 8) : List (Slot × BitVec 7) :=
  (List.range 8).filterMap fun j =>
    if mask.getLsbD j then some (slot, BitVec.ofNat 7 (8 * row.toNat + j)) else none

/-- The targets of T; two identical targets receive one delivery (02 R37). -/
def Dst.targets : Dst → List (Slot × BitVec 7)
  | .dual t1 t2 => if t1 = t2 then t1.targets else t1.targets ++ t2.targets
  | .fan slot row mask => fanTargets slot row mask

/-- An immediate sign-extended to 64 bits and scaled by a size in bytes (02 R38). -/
def immScaled {n : Nat} (imm : BitVec n) (size : Nat) : Word := imm.signExtend 64 * BitVec.ofNat 64 size

/-- The slots a, b and c an instruction reads and the width of each (04, 05 R121, 09, 07 R176, 10 R245, 12 R264, 13 R285, R298, 14 R311, 17 R352). -/
def Instr.reads (x : Instr) : List (Slot × Width) :=
  match x with
  | .gread _ _ => []
  | .wread _ _ => []
  | .gwrite _ _ => [(.a, .scalar)]
  | .wwrite _ _ => [(.a, .wide)]
  | .gens _ _ => []
  | .genu _ _ => []
  | .appc _ _ => [(.a, .scalar)]
  | .mov _ _ => [(.a, .any)]
  | .movi _ _ _ => []
  | .nop _ => []
  | .null _ _ => []
  | .add _ _ => [(.a, .scalar), (.b, .scalar)]
  | .sub _ _ => [(.a, .scalar), (.b, .scalar)]
  | .and _ _ => [(.a, .scalar), (.b, .scalar)]
  | .or _ _ => [(.a, .scalar), (.b, .scalar)]
  | .xor _ _ => [(.a, .scalar), (.b, .scalar)]
  | .shl _ _ => [(.a, .scalar), (.b, .scalar)]
  | .shr _ _ => [(.a, .scalar), (.b, .scalar)]
  | .sra _ _ => [(.a, .scalar), (.b, .scalar)]
  | .min _ _ => [(.a, .scalar), (.b, .scalar)]
  | .max _ _ => [(.a, .scalar), (.b, .scalar)]
  | .minu _ _ => [(.a, .scalar), (.b, .scalar)]
  | .maxu _ _ => [(.a, .scalar), (.b, .scalar)]
  | .addi _ _ _ => [(.a, .scalar)]
  | .subi _ _ _ => [(.a, .scalar)]
  | .andi _ _ _ => [(.a, .scalar)]
  | .ori _ _ _ => [(.a, .scalar)]
  | .xori _ _ _ => [(.a, .scalar)]
  | .shli _ _ _ => [(.a, .scalar)]
  | .shri _ _ _ => [(.a, .scalar)]
  | .srai _ _ _ => [(.a, .scalar)]
  | .mul _ _ => [(.a, .scalar), (.b, .scalar)]
  | .mulh _ _ => [(.a, .scalar), (.b, .scalar)]
  | .mulhu _ _ => [(.a, .scalar), (.b, .scalar)]
  | .div _ _ => [(.a, .scalar), (.b, .scalar)]
  | .divu _ _ => [(.a, .scalar), (.b, .scalar)]
  | .rem _ _ => [(.a, .scalar), (.b, .scalar)]
  | .remu _ _ => [(.a, .scalar), (.b, .scalar)]
  | .muli _ _ _ => [(.a, .scalar)]
  | .clz _ _ => [(.a, .scalar)]
  | .ctz _ _ => [(.a, .scalar)]
  | .popc _ _ => [(.a, .scalar)]
  | .exts8 _ _ => [(.a, .scalar)]
  | .exts16 _ _ => [(.a, .scalar)]
  | .exts32 _ _ => [(.a, .scalar)]
  | .extz8 _ _ => [(.a, .scalar)]
  | .extz16 _ _ => [(.a, .scalar)]
  | .extz32 _ _ => [(.a, .scalar)]
  | .bfx _ _ => [(.a, .scalar), (.b, .scalar)]
  | .bfi _ _ => [(.a, .scalar), (.b, .scalar), (.c, .scalar)]
  | .lea _ _ _ => [(.a, .scalar), (.b, .scalar)]
  | .leai _ _ _ _ => [(.a, .scalar)]
  | .teq _ _ => [(.a, .scalar), (.b, .scalar)]
  | .tne _ _ => [(.a, .scalar), (.b, .scalar)]
  | .tlt _ _ => [(.a, .scalar), (.b, .scalar)]
  | .tle _ _ => [(.a, .scalar), (.b, .scalar)]
  | .tltu _ _ => [(.a, .scalar), (.b, .scalar)]
  | .tleu _ _ => [(.a, .scalar), (.b, .scalar)]
  | .teqi _ _ _ => [(.a, .scalar)]
  | .tnei _ _ _ => [(.a, .scalar)]
  | .tlti _ _ _ => [(.a, .scalar)]
  | .tlei _ _ _ => [(.a, .scalar)]
  | .tltui _ _ _ => [(.a, .scalar)]
  | .tleui _ _ _ => [(.a, .scalar)]
  | .fadd _ _ _ => [(.a, .scalar), (.b, .scalar)]
  | .fsub _ _ _ => [(.a, .scalar), (.b, .scalar)]
  | .fmul _ _ _ => [(.a, .scalar), (.b, .scalar)]
  | .fdiv _ _ _ => [(.a, .scalar), (.b, .scalar)]
  | .fmin _ _ _ => [(.a, .scalar), (.b, .scalar)]
  | .fmax _ _ _ => [(.a, .scalar), (.b, .scalar)]
  | .fsqrt _ _ _ => [(.a, .scalar)]
  | .fsgn _ _ _ => [(.a, .scalar), (.b, .scalar)]
  | .ffma _ _ _ => [(.a, .scalar), (.b, .scalar), (.c, .scalar)]
  | .ffms _ _ _ => [(.a, .scalar), (.b, .scalar), (.c, .scalar)]
  | .ffnma _ _ _ => [(.a, .scalar), (.b, .scalar), (.c, .scalar)]
  | .ffnms _ _ _ => [(.a, .scalar), (.b, .scalar), (.c, .scalar)]
  | .fcvt _ _ _ _ => [(.a, .scalar)]
  | .ftoi _ _ _ _ _ => [(.a, .scalar)]
  | .itof _ _ _ _ => [(.a, .scalar)]
  | .feq _ _ _ => [(.a, .scalar), (.b, .scalar)]
  | .flt _ _ _ => [(.a, .scalar), (.b, .scalar)]
  | .fle _ _ _ => [(.a, .scalar), (.b, .scalar)]
  | .fclass _ _ _ => [(.a, .scalar)]
  | .bro _ _ _ => []
  | .br _ => [(.a, .scalar)]
  | .callo _ _ _ => []
  | .call _ => [(.a, .scalar)]
  | .ret _ => [(.a, .scalar)]
  | .exitt _ => []
  | .yield _ _ _ => []
  | .scall _ _ _ => []
  | .vadd _ _ _ => [(.a, .wide), (.b, .wide)]
  | .vsub _ _ _ => [(.a, .wide), (.b, .wide)]
  | .vmul _ _ _ => [(.a, .wide), (.b, .wide)]
  | .vmulh _ _ _ => [(.a, .wide), (.b, .wide)]
  | .vmin _ _ _ => [(.a, .wide), (.b, .wide)]
  | .vmax _ _ _ => [(.a, .wide), (.b, .wide)]
  | .vand _ _ _ => [(.a, .wide), (.b, .wide)]
  | .vor _ _ _ => [(.a, .wide), (.b, .wide)]
  | .vxor _ _ _ => [(.a, .wide), (.b, .wide)]
  | .vshl _ _ _ => [(.a, .wide), (.b, .wide)]
  | .vshr _ _ _ => [(.a, .wide), (.b, .wide)]
  | .vsra _ _ _ => [(.a, .wide), (.b, .wide)]
  | .vfadd _ _ _ => [(.a, .wide), (.b, .wide)]
  | .vfsub _ _ _ => [(.a, .wide), (.b, .wide)]
  | .vfmul _ _ _ => [(.a, .wide), (.b, .wide)]
  | .vfdiv _ _ _ => [(.a, .wide), (.b, .wide)]
  | .vfmin _ _ _ => [(.a, .wide), (.b, .wide)]
  | .vfmax _ _ _ => [(.a, .wide), (.b, .wide)]
  | .vfsqrt _ _ _ => [(.a, .wide)]
  | .vrcp _ _ _ => [(.a, .wide)]
  | .vrsq _ _ _ => [(.a, .wide)]
  | .vexp2 _ _ _ => [(.a, .wide)]
  | .vlog2 _ _ _ => [(.a, .wide)]
  | .vffma _ _ _ => [(.a, .wide), (.b, .wide), (.c, .wide)]
  | .vffms _ _ _ => [(.a, .wide), (.b, .wide), (.c, .wide)]
  | .vffnma _ _ _ => [(.a, .wide), (.b, .wide), (.c, .wide)]
  | .vffnms _ _ _ => [(.a, .wide), (.b, .wide), (.c, .wide)]
  | .vcvt _ _ => [(.a, .wide), (.b, .scalar)]
  | .vqnt _ _ => [(.a, .wide), (.b, .scalar), (.c, .wide)]
  | .vdqnt _ _ => [(.a, .wide), (.b, .scalar)]
  | .vcmp _ _ _ _ => [(.a, .wide), (.b, .wide)]
  | .vfcmp _ _ _ _ => [(.a, .wide), (.b, .wide)]
  | .vsel _ _ _ => [(.a, .wide), (.b, .wide), (.c, .wide)]
  | .vbcast _ _ _ => [(.a, .scalar)]
  | .vextr _ _ _ => [(.a, .wide), (.b, .scalar)]
  | .vins _ _ _ => [(.a, .wide), (.b, .scalar), (.c, .scalar)]
  | .vshuf _ _ _ => [(.a, .wide), (.b, .wide)]
  | .vred _ _ => [(.a, .wide), (.b, .scalar)]
  | .vscan _ _ => [(.a, .wide), (.b, .scalar)]
  | .vdot _ _ => [(.a, .wide), (.b, .wide), (.c, .scalar)]
  | .ldZb _ _ _ _ => [(.a, .scalar)]
  | .ldZh _ _ _ _ => [(.a, .scalar)]
  | .ldZw _ _ _ _ => [(.a, .scalar)]
  | .ldD _ _ _ _ => [(.a, .scalar)]
  | .ldSb _ _ _ _ => [(.a, .scalar)]
  | .ldSh _ _ _ _ => [(.a, .scalar)]
  | .ldSw _ _ _ _ => [(.a, .scalar)]
  | .stB _ _ _ => [(.a, .scalar), (.b, .scalar)]
  | .stH _ _ _ => [(.a, .scalar), (.b, .scalar)]
  | .stW _ _ _ => [(.a, .scalar), (.b, .scalar)]
  | .stD _ _ _ => [(.a, .scalar), (.b, .scalar)]
  | .ldacq _ _ _ _ => [(.a, .scalar)]
  | .strel _ _ _ => [(.a, .scalar), (.b, .scalar)]
  | .vld _ _ _ _ => [(.a, .scalar)]
  | .vst _ _ _ => [(.a, .scalar), (.b, .wide)]
  | .vlds _ _ _ _ => [(.a, .scalar), (.b, .scalar)]
  | .vsts _ _ _ => [(.a, .scalar), (.b, .scalar), (.c, .wide)]
  | .vgath _ _ _ _ _ _ => [(.a, .scalar), (.b, .wide)]
  | .vscat _ _ _ _ _ => [(.a, .scalar), (.b, .wide), (.c, .wide)]
  | .pref _ _ _ _ => [(.a, .scalar)]
  | .amoadd _ _ _ _ _ _ => [(.a, .scalar), (.b, .scalar)]
  | .amoand _ _ _ _ _ _ => [(.a, .scalar), (.b, .scalar)]
  | .amoor _ _ _ _ _ _ => [(.a, .scalar), (.b, .scalar)]
  | .amoxor _ _ _ _ _ _ => [(.a, .scalar), (.b, .scalar)]
  | .amomin _ _ _ _ _ _ => [(.a, .scalar), (.b, .scalar)]
  | .amomax _ _ _ _ _ _ => [(.a, .scalar), (.b, .scalar)]
  | .amominu _ _ _ _ _ _ => [(.a, .scalar), (.b, .scalar)]
  | .amomaxu _ _ _ _ _ _ => [(.a, .scalar), (.b, .scalar)]
  | .amoswp _ _ _ _ _ _ => [(.a, .scalar), (.b, .scalar)]
  | .amocas _ _ _ _ _ _ => [(.a, .scalar), (.b, .scalar), (.c, .scalar)]
  | .amofadd _ _ _ _ _ _ => [(.a, .scalar), (.b, .scalar)]
  | .vamoadd _ _ _ _ _ _ => [(.a, .scalar), (.b, .wide)]
  | .fenceAcq _ _ _ => []
  | .fenceRel _ _ _ => []
  | .fenceAcqrel _ _ _ => []
  | .fenceSc _ _ _ => []
  | .fenceEngine _ _ _ => []
  | .waitv _ _ _ _ => [(.a, .scalar), (.b, .scalar)]
  | .bara _ _ _ _ => [(.a, .scalar)]
  | .barw _ _ _ _ => [(.a, .scalar), (.b, .scalar)]
  | .tspawn _ _ => [(.a, .scalar)]
  | .tsubmit _ _ => [(.a, .scalar)]
  | .tdep _ _ => [(.a, .scalar), (.b, .scalar)]
  | .twait _ _ _ _ => [(.a, .scalar)]
  | .trange _ _ => [(.a, .scalar)]
  | .tprio _ _ => [(.a, .scalar), (.b, .scalar)]
  | .amsend _ _ => [(.a, .scalar), (.b, .wide), (.c, .scalar)]
  | .amreply _ _ => [(.a, .wide)]
  | .htset _ _ => [(.a, .scalar), (.b, .scalar)]
  | .inbox _ _ take _ => if take then [(.a, .scalar)] else []
  | .hnew _ _ _ => []
  | .henter _ _ => [(.a, .scalar)]
  | .hleave _ _ => []
  | .hresolve _ _ _ => [(.a, .scalar), (.b, .scalar)]
  | .hstat _ _ sum _ => if sum then [] else [(.a, .scalar)]
  | .hldc _ _ _ _ _ _ => [(.a, .scalar)]
  | .tdef _ _ _ => [(.a, .scalar), (.b, .scalar)]
  | .tload _ _ _ => [(.a, .scalar), (.b, .scalar), (.c, .scalar)]
  | .tloadEdge _ _ _ _ => [(.a, .scalar), (.b, .scalar), (.c, .scalar)]
  | .tstore _ _ _ => [(.a, .scalar), (.b, .scalar), (.c, .scalar)]
  | .tstoreEdge _ _ _ _ => [(.a, .scalar), (.b, .scalar), (.c, .scalar)]
  | .tfree _ _ _ => [(.a, .scalar)]
  | .mma _ _ _ _ => [(.a, .scalar), (.b, .scalar)]
  | .mmai _ _ _ _ => [(.a, .scalar), (.b, .scalar)]
  | .maccrd _ _ _ => [(.a, .scalar), (.b, .scalar)]
  | .macclr _ _ => [(.a, .scalar), (.b, .scalar)]
  | .maccld _ _ _ => [(.a, .scalar), (.b, .scalar)]
  | .mew _ _ _ => [(.a, .scalar), (.b, .scalar), (.c, .scalar)]
  | .mcopy _ _ _ _ => [(.a, .scalar), (.b, .scalar)]
  | .msplat _ _ _ => [(.a, .scalar), (.b, .scalar)]
  | .scopy _ _ _ _ => [(.a, .scalar), (.b, .scalar)]
  | .sgath _ _ _ _ => [(.a, .scalar), (.b, .scalar), (.c, .scalar)]
  | .sscat _ _ _ _ => [(.a, .scalar), (.b, .scalar), (.c, .scalar)]
  | .slayout _ _ _ _ => [(.a, .scalar), (.b, .scalar)]
  | .sfill _ _ _ _ => [(.a, .scalar), (.b, .scalar)]
  | .sfence _ _ _ _ => [(.a, .scalar)]
  | .swait _ _ _ _ => [(.a, .scalar)]
  | .vwreg _ _ _ => [(.a, .scalar)]
  | .vwdrop _ _ => [(.a, .scalar)]
  | .vwsync _ _ _ _ => [(.a, .scalar), (.b, .scalar)]
  | .vwqry _ _ _ _ => [(.a, .scalar), (.b, .scalar)]
  | .vwpol _ _ => [(.a, .scalar), (.b, .scalar)]
  | .pload _ _ _ => [(.a, .scalar), (.b, .scalar)]
  | .punload _ _ _ => [(.a, .scalar)]
  | .pstart _ _ _ => [(.a, .scalar)]
  | .pstop _ _ _ => [(.a, .scalar)]
  | .psave _ _ _ => [(.a, .scalar), (.b, .scalar)]
  | .prest _ _ _ => [(.a, .scalar), (.b, .scalar)]
  | .spush _ _ => [(.a, .any)]
  | .spop _ _ _ => []
  | .trap _ _ => [(.a, .scalar)]
  | .rft _ _ => []
  | .cread _ _ _ _ => []
  | .cwrite _ _ _ => [(.a, .scalar)]
  | .halt _ _ => [(.a, .scalar), (.b, .scalar)]
  | .idle _ _ _ => [(.a, .scalar)]
  | .plbfl _ _ _ => [(.a, .scalar), (.b, .scalar), (.c, .scalar)]
  | .cline _ _ _ => [(.a, .scalar)]
  | .dbgbrk _ _ => []
  | .afwait _ _ _ => []
  | .winrd _ _ _ => [(.a, .scalar), (.b, .scalar)]
  | .winwr _ _ => [(.a, .scalar), (.b, .scalar), (.c, .scalar)]
  | .tresume _ _ => [(.a, .scalar)]
  | .wsopen _ _ => [(.a, .scalar)]
  | .wsclose _ _ => [(.a, .scalar)]
  | .rdtime _ _ _ => []
  | .rdpmc _ _ _ => [(.a, .scalar)]
  | .clauseFetch _ => []
  | .clauseCommit _ => []
  | .stopRequest _ _ => []
  | .stall _ => []
  | .taskStop _ => []
  | .upcall _ => []
  | .srseedWrite _ _ => []
  | .lsplitWrite _ _ => []
  | .prioWrite _ _ => []
  | .fpflagsWrite _ _ => []
  | .resumeWrite _ _ => []
  | .afringWrite _ _ => []
  | .fqbaseWrite _ _ => []
  | .fqptrWrite _ _ => []
  | .asidMakeLive _ => []
  | .asidMakeNotLive _ => []
  | .ovqWrite _ _ => []
  | .vlogWrite _ => []
  | .wsldatWrite _ _ => []
  | .c0resWrite _ _ => []
  | .migcntWrite _ => []
  | .gangArm _ _ => []
  | .checkpointStart _ _ => []
  | .restoreStart _ _ => []
  | .checkpointDone _ _ => []
  | .reservationGrant _ => []
  | .overflowAdmit _ => []
  | .taskDispatch _ => []
  | .classAging _ => []
  | .passoverLimit _ => []
  | .inboxGrant _ _ => []
  | .messageArrival _ => []
  | .handlerDiversion _ => []
  | .nohandler _ _ => []
  | .translationWalk _ => []
  | .permissionEntryArrival _ => []
  | .homeSliceStore _ => []
  | .storeAck _ => []
  | .filterBankClear _ => []
  | .refreshWindow => []
  | .physicalWrite _ _ _ => []
  | .hostRead _ _ => []
  | .shootdownComplete => []
  | .waitvWake _ => []
  | .waitvTimeout _ => []
  | .versionDiscardDone _ => []
  | .tileFillDone _ _ _ => []
  | .tileDrainDone _ _ _ => []
  | .streamerCommandStart _ => []
  | .streamerCommandComplete _ => []
  | .viewBuild _ => []
  | .viewPublish _ => []
  | .fabricConfigure _ _ => []
  | .bubbleIteration _ => []
  | .edgeAgeLimit _ _ _ => []
  | .loadFinish _ _ => []
  | .faultQueueWrite _ => []
  | .afterimageRecordWrite _ => []
  | .preempt _ _ => []
  | .drainLimit _ => []
  | .nodeSave _ _ => []
  | .flitRetry _ => []
  | .laneRetrain _ => []
  | .linkLoss _ => []
  | .coherenceLossTimeout _ => []
  | .linkReconnect _ => []
  | .farRequest _ _ _ => []
  | .farAccessTimeout _ => []
  | .routingTableWrite _ _ => []
  | .submitWrite _ _ _ => []
  | .cheadWrite _ _ _ => []
  | .werrWrite _ _ => []
  | .hostCompletion _ _ => []
  | .hotPageWindow _ => []
  | .forwardExpiry _ => []
  | .gangPlace _ => []
  | .gangReady _ _ => []
  | .gangGo _ => []
  | .gangGraceExpiry _ => []
  | .gangAbort _ => []
  | .attest _ => []
  | .sealImage _ => []
  | .checkImage _ => []
  | .setcap _ => []
  | .fuseadv _ => []
  | .fwupdate _ => []
  | .fwupdateInstall => []
  | .extend _ => []
  | .telemetry _ => []
  | .capOverrun => []
  | .thermalThrottle => []
  | .throttleStep => []
  | .throttleRecovery => []
  | .thermalShutdown => []
  | .packageReset _ => []
  | .eccUncorrectable _ => []
  | .patrolScrub _ _ => []
  | .clusterRetire _ _ => []
  | .l2SliceRetire _ => []
  | .hbmRowSpare _ => []
  | .cxlPortDegrade _ _ => []
  | .matrixCommandPerformed _ _ => []
  | .commandStall _ => []
  | .idleTimeout _ => []
  | .unreachableHomeTimeout _ => []
  | .nodeRestore _ _ => []
  | .submissionWindowWrite _ _ _ _ => []

/-- The predicate field (02 R35); formats C and R, SPUSH and SPOP have none. -/
def Instr.pred (x : Instr) : Pred :=
  match x with
  | .gread _ _ => .always
  | .wread _ _ => .always
  | .gwrite pr _ => pr
  | .wwrite pr _ => pr
  | .gens _ _ => .always
  | .genu _ _ => .always
  | .appc _ _ => .always
  | .mov pr _ => pr
  | .movi pr _ _ => pr
  | .nop pr => pr
  | .null pr _ => pr
  | .add pr _ => pr
  | .sub pr _ => pr
  | .and pr _ => pr
  | .or pr _ => pr
  | .xor pr _ => pr
  | .shl pr _ => pr
  | .shr pr _ => pr
  | .sra pr _ => pr
  | .min pr _ => pr
  | .max pr _ => pr
  | .minu pr _ => pr
  | .maxu pr _ => pr
  | .addi pr _ _ => pr
  | .subi pr _ _ => pr
  | .andi pr _ _ => pr
  | .ori pr _ _ => pr
  | .xori pr _ _ => pr
  | .shli pr _ _ => pr
  | .shri pr _ _ => pr
  | .srai pr _ _ => pr
  | .mul pr _ => pr
  | .mulh pr _ => pr
  | .mulhu pr _ => pr
  | .div pr _ => pr
  | .divu pr _ => pr
  | .rem pr _ => pr
  | .remu pr _ => pr
  | .muli pr _ _ => pr
  | .clz pr _ => pr
  | .ctz pr _ => pr
  | .popc pr _ => pr
  | .exts8 pr _ => pr
  | .exts16 pr _ => pr
  | .exts32 pr _ => pr
  | .extz8 pr _ => pr
  | .extz16 pr _ => pr
  | .extz32 pr _ => pr
  | .bfx pr _ => pr
  | .bfi pr _ => pr
  | .lea pr _ _ => pr
  | .leai pr _ _ _ => pr
  | .teq pr _ => pr
  | .tne pr _ => pr
  | .tlt pr _ => pr
  | .tle pr _ => pr
  | .tltu pr _ => pr
  | .tleu pr _ => pr
  | .teqi pr _ _ => pr
  | .tnei pr _ _ => pr
  | .tlti pr _ _ => pr
  | .tlei pr _ _ => pr
  | .tltui pr _ _ => pr
  | .tleui pr _ _ => pr
  | .fadd pr _ _ => pr
  | .fsub pr _ _ => pr
  | .fmul pr _ _ => pr
  | .fdiv pr _ _ => pr
  | .fmin pr _ _ => pr
  | .fmax pr _ _ => pr
  | .fsqrt pr _ _ => pr
  | .fsgn pr _ _ => pr
  | .ffma pr _ _ => pr
  | .ffms pr _ _ => pr
  | .ffnma pr _ _ => pr
  | .ffnms pr _ _ => pr
  | .fcvt pr _ _ _ => pr
  | .ftoi pr _ _ _ _ => pr
  | .itof pr _ _ _ => pr
  | .feq pr _ _ => pr
  | .flt pr _ _ => pr
  | .fle pr _ _ => pr
  | .fclass pr _ _ => pr
  | .bro pr _ _ => pr
  | .br pr => pr
  | .callo pr _ _ => pr
  | .call pr => pr
  | .ret pr => pr
  | .exitt pr => pr
  | .yield pr _ _ => pr
  | .scall pr _ _ => pr
  | .vadd pr _ _ => pr
  | .vsub pr _ _ => pr
  | .vmul pr _ _ => pr
  | .vmulh pr _ _ => pr
  | .vmin pr _ _ => pr
  | .vmax pr _ _ => pr
  | .vand pr _ _ => pr
  | .vor pr _ _ => pr
  | .vxor pr _ _ => pr
  | .vshl pr _ _ => pr
  | .vshr pr _ _ => pr
  | .vsra pr _ _ => pr
  | .vfadd pr _ _ => pr
  | .vfsub pr _ _ => pr
  | .vfmul pr _ _ => pr
  | .vfdiv pr _ _ => pr
  | .vfmin pr _ _ => pr
  | .vfmax pr _ _ => pr
  | .vfsqrt pr _ _ => pr
  | .vrcp pr _ _ => pr
  | .vrsq pr _ _ => pr
  | .vexp2 pr _ _ => pr
  | .vlog2 pr _ _ => pr
  | .vffma pr _ _ => pr
  | .vffms pr _ _ => pr
  | .vffnma pr _ _ => pr
  | .vffnms pr _ _ => pr
  | .vcvt pr _ => pr
  | .vqnt pr _ => pr
  | .vdqnt pr _ => pr
  | .vcmp pr _ _ _ => pr
  | .vfcmp pr _ _ _ => pr
  | .vsel pr _ _ => pr
  | .vbcast pr _ _ => pr
  | .vextr pr _ _ => pr
  | .vins pr _ _ => pr
  | .vshuf pr _ _ => pr
  | .vred pr _ => pr
  | .vscan pr _ => pr
  | .vdot pr _ => pr
  | .ldZb pr _ _ _ => pr
  | .ldZh pr _ _ _ => pr
  | .ldZw pr _ _ _ => pr
  | .ldD pr _ _ _ => pr
  | .ldSb pr _ _ _ => pr
  | .ldSh pr _ _ _ => pr
  | .ldSw pr _ _ _ => pr
  | .stB pr _ _ => pr
  | .stH pr _ _ => pr
  | .stW pr _ _ => pr
  | .stD pr _ _ => pr
  | .ldacq pr _ _ _ => pr
  | .strel pr _ _ => pr
  | .vld pr _ _ _ => pr
  | .vst pr _ _ => pr
  | .vlds pr _ _ _ => pr
  | .vsts pr _ _ => pr
  | .vgath pr _ _ _ _ _ => pr
  | .vscat pr _ _ _ _ => pr
  | .pref pr _ _ _ => pr
  | .amoadd pr _ _ _ _ _ => pr
  | .amoand pr _ _ _ _ _ => pr
  | .amoor pr _ _ _ _ _ => pr
  | .amoxor pr _ _ _ _ _ => pr
  | .amomin pr _ _ _ _ _ => pr
  | .amomax pr _ _ _ _ _ => pr
  | .amominu pr _ _ _ _ _ => pr
  | .amomaxu pr _ _ _ _ _ => pr
  | .amoswp pr _ _ _ _ _ => pr
  | .amocas pr _ _ _ _ _ => pr
  | .amofadd pr _ _ _ _ _ => pr
  | .vamoadd pr _ _ _ _ _ => pr
  | .fenceAcq pr _ _ => pr
  | .fenceRel pr _ _ => pr
  | .fenceAcqrel pr _ _ => pr
  | .fenceSc pr _ _ => pr
  | .fenceEngine pr _ _ => pr
  | .waitv pr _ _ _ => pr
  | .bara pr _ _ _ => pr
  | .barw pr _ _ _ => pr
  | .tspawn pr _ => pr
  | .tsubmit pr _ => pr
  | .tdep pr _ => pr
  | .twait pr _ _ _ => pr
  | .trange pr _ => pr
  | .tprio pr _ => pr
  | .amsend pr _ => pr
  | .amreply pr _ => pr
  | .htset pr _ => pr
  | .inbox pr _ _ _ => pr
  | .hnew pr _ _ => pr
  | .henter pr _ => pr
  | .hleave pr _ => pr
  | .hresolve pr _ _ => pr
  | .hstat pr _ _ _ => pr
  | .hldc pr _ _ _ _ _ => pr
  | .tdef pr _ _ => pr
  | .tload pr _ _ => pr
  | .tloadEdge pr _ _ _ => pr
  | .tstore pr _ _ => pr
  | .tstoreEdge pr _ _ _ => pr
  | .tfree pr _ _ => pr
  | .mma pr _ _ _ => pr
  | .mmai pr _ _ _ => pr
  | .maccrd pr _ _ => pr
  | .macclr pr _ => pr
  | .maccld pr _ _ => pr
  | .mew pr _ _ => pr
  | .mcopy pr _ _ _ => pr
  | .msplat pr _ _ => pr
  | .scopy pr _ _ _ => pr
  | .sgath pr _ _ _ => pr
  | .sscat pr _ _ _ => pr
  | .slayout pr _ _ _ => pr
  | .sfill pr _ _ _ => pr
  | .sfence pr _ _ _ => pr
  | .swait pr _ _ _ => pr
  | .vwreg pr _ _ => pr
  | .vwdrop pr _ => pr
  | .vwsync pr _ _ _ => pr
  | .vwqry pr _ _ _ => pr
  | .vwpol pr _ => pr
  | .pload pr _ _ => pr
  | .punload pr _ _ => pr
  | .pstart pr _ _ => pr
  | .pstop pr _ _ => pr
  | .psave pr _ _ => pr
  | .prest pr _ _ => pr
  | .spush _ _ => .always
  | .spop _ _ _ => .always
  | .trap pr _ => pr
  | .rft pr _ => pr
  | .cread pr _ _ _ => pr
  | .cwrite pr _ _ => pr
  | .halt pr _ => pr
  | .idle pr _ _ => pr
  | .plbfl pr _ _ => pr
  | .cline pr _ _ => pr
  | .dbgbrk pr _ => pr
  | .afwait pr _ _ => pr
  | .winrd pr _ _ => pr
  | .winwr pr _ => pr
  | .tresume pr _ => pr
  | .wsopen pr _ => pr
  | .wsclose pr _ => pr
  | .rdtime pr _ _ => pr
  | .rdpmc pr _ _ => pr
  | .clauseFetch _ => .always
  | .clauseCommit _ => .always
  | .stopRequest _ _ => .always
  | .stall _ => .always
  | .taskStop _ => .always
  | .upcall _ => .always
  | .srseedWrite _ _ => .always
  | .lsplitWrite _ _ => .always
  | .prioWrite _ _ => .always
  | .fpflagsWrite _ _ => .always
  | .resumeWrite _ _ => .always
  | .afringWrite _ _ => .always
  | .fqbaseWrite _ _ => .always
  | .fqptrWrite _ _ => .always
  | .asidMakeLive _ => .always
  | .asidMakeNotLive _ => .always
  | .ovqWrite _ _ => .always
  | .vlogWrite _ => .always
  | .wsldatWrite _ _ => .always
  | .c0resWrite _ _ => .always
  | .migcntWrite _ => .always
  | .gangArm _ _ => .always
  | .checkpointStart _ _ => .always
  | .restoreStart _ _ => .always
  | .checkpointDone _ _ => .always
  | .reservationGrant _ => .always
  | .overflowAdmit _ => .always
  | .taskDispatch _ => .always
  | .classAging _ => .always
  | .passoverLimit _ => .always
  | .inboxGrant _ _ => .always
  | .messageArrival _ => .always
  | .handlerDiversion _ => .always
  | .nohandler _ _ => .always
  | .translationWalk _ => .always
  | .permissionEntryArrival _ => .always
  | .homeSliceStore _ => .always
  | .storeAck _ => .always
  | .filterBankClear _ => .always
  | .refreshWindow => .always
  | .physicalWrite _ _ _ => .always
  | .hostRead _ _ => .always
  | .shootdownComplete => .always
  | .waitvWake _ => .always
  | .waitvTimeout _ => .always
  | .versionDiscardDone _ => .always
  | .tileFillDone _ _ _ => .always
  | .tileDrainDone _ _ _ => .always
  | .streamerCommandStart _ => .always
  | .streamerCommandComplete _ => .always
  | .viewBuild _ => .always
  | .viewPublish _ => .always
  | .fabricConfigure _ _ => .always
  | .bubbleIteration _ => .always
  | .edgeAgeLimit _ _ _ => .always
  | .loadFinish _ _ => .always
  | .faultQueueWrite _ => .always
  | .afterimageRecordWrite _ => .always
  | .preempt _ _ => .always
  | .drainLimit _ => .always
  | .nodeSave _ _ => .always
  | .flitRetry _ => .always
  | .laneRetrain _ => .always
  | .linkLoss _ => .always
  | .coherenceLossTimeout _ => .always
  | .linkReconnect _ => .always
  | .farRequest _ _ _ => .always
  | .farAccessTimeout _ => .always
  | .routingTableWrite _ _ => .always
  | .submitWrite _ _ _ => .always
  | .cheadWrite _ _ _ => .always
  | .werrWrite _ _ => .always
  | .hostCompletion _ _ => .always
  | .hotPageWindow _ => .always
  | .forwardExpiry _ => .always
  | .gangPlace _ => .always
  | .gangReady _ _ => .always
  | .gangGo _ => .always
  | .gangGraceExpiry _ => .always
  | .gangAbort _ => .always
  | .attest _ => .always
  | .sealImage _ => .always
  | .checkImage _ => .always
  | .setcap _ => .always
  | .fuseadv _ => .always
  | .fwupdate _ => .always
  | .fwupdateInstall => .always
  | .extend _ => .always
  | .telemetry _ => .always
  | .capOverrun => .always
  | .thermalThrottle => .always
  | .throttleStep => .always
  | .throttleRecovery => .always
  | .thermalShutdown => .always
  | .packageReset _ => .always
  | .eccUncorrectable _ => .always
  | .patrolScrub _ _ => .always
  | .clusterRetire _ _ => .always
  | .l2SliceRetire _ => .always
  | .hbmRowSpare _ => .always
  | .cxlPortDegrade _ _ => .always
  | .matrixCommandPerformed _ _ => .always
  | .commandStall _ => .always
  | .idleTimeout _ => .always
  | .unreachableHomeTimeout _ => .always
  | .nodeRestore _ _ => .always
  | .submissionWindowWrite _ _ _ _ => .always

/-- The targets of the result; none for an instruction that delivers no token (02 R36, R37). -/
def Instr.targets (x : Instr) : List (Slot × BitVec 7) :=
  match x with
  | .gread _ d => d.targets
  | .wread _ d => d.targets
  | .gwrite _ _ => []
  | .wwrite _ _ => []
  | .gens _ t => t.targets
  | .genu _ t => t.targets
  | .appc _ t => t.targets
  | .mov _ d => d.targets
  | .movi _ _ t => t.targets
  | .nop _ => []
  | .null _ d => d.targets
  | .add _ d => d.targets
  | .sub _ d => d.targets
  | .and _ d => d.targets
  | .or _ d => d.targets
  | .xor _ d => d.targets
  | .shl _ d => d.targets
  | .shr _ d => d.targets
  | .sra _ d => d.targets
  | .min _ d => d.targets
  | .max _ d => d.targets
  | .minu _ d => d.targets
  | .maxu _ d => d.targets
  | .addi _ _ t => t.targets
  | .subi _ _ t => t.targets
  | .andi _ _ t => t.targets
  | .ori _ _ t => t.targets
  | .xori _ _ t => t.targets
  | .shli _ _ t => t.targets
  | .shri _ _ t => t.targets
  | .srai _ _ t => t.targets
  | .mul _ d => d.targets
  | .mulh _ d => d.targets
  | .mulhu _ d => d.targets
  | .div _ d => d.targets
  | .divu _ d => d.targets
  | .rem _ d => d.targets
  | .remu _ d => d.targets
  | .muli _ _ t => t.targets
  | .clz _ d => d.targets
  | .ctz _ d => d.targets
  | .popc _ d => d.targets
  | .exts8 _ d => d.targets
  | .exts16 _ d => d.targets
  | .exts32 _ d => d.targets
  | .extz8 _ d => d.targets
  | .extz16 _ d => d.targets
  | .extz32 _ d => d.targets
  | .bfx _ d => d.targets
  | .bfi _ d => d.targets
  | .lea _ _ d => d.targets
  | .leai _ _ _ t => t.targets
  | .teq _ d => d.targets
  | .tne _ d => d.targets
  | .tlt _ d => d.targets
  | .tle _ d => d.targets
  | .tltu _ d => d.targets
  | .tleu _ d => d.targets
  | .teqi _ _ t => t.targets
  | .tnei _ _ t => t.targets
  | .tlti _ _ t => t.targets
  | .tlei _ _ t => t.targets
  | .tltui _ _ t => t.targets
  | .tleui _ _ t => t.targets
  | .fadd _ _ d => d.targets
  | .fsub _ _ d => d.targets
  | .fmul _ _ d => d.targets
  | .fdiv _ _ d => d.targets
  | .fmin _ _ d => d.targets
  | .fmax _ _ d => d.targets
  | .fsqrt _ _ d => d.targets
  | .fsgn _ _ d => d.targets
  | .ffma _ _ d => d.targets
  | .ffms _ _ d => d.targets
  | .ffnma _ _ d => d.targets
  | .ffnms _ _ d => d.targets
  | .fcvt _ _ _ d => d.targets
  | .ftoi _ _ _ _ d => d.targets
  | .itof _ _ _ d => d.targets
  | .feq _ _ d => d.targets
  | .flt _ _ d => d.targets
  | .fle _ _ d => d.targets
  | .fclass _ _ d => d.targets
  | .bro _ _ _ => []
  | .br _ => []
  | .callo _ _ _ => []
  | .call _ => []
  | .ret _ => []
  | .exitt _ => []
  | .yield _ _ _ => []
  | .scall _ _ _ => []
  | .vadd _ _ d => d.targets
  | .vsub _ _ d => d.targets
  | .vmul _ _ d => d.targets
  | .vmulh _ _ d => d.targets
  | .vmin _ _ d => d.targets
  | .vmax _ _ d => d.targets
  | .vand _ _ d => d.targets
  | .vor _ _ d => d.targets
  | .vxor _ _ d => d.targets
  | .vshl _ _ d => d.targets
  | .vshr _ _ d => d.targets
  | .vsra _ _ d => d.targets
  | .vfadd _ _ d => d.targets
  | .vfsub _ _ d => d.targets
  | .vfmul _ _ d => d.targets
  | .vfdiv _ _ d => d.targets
  | .vfmin _ _ d => d.targets
  | .vfmax _ _ d => d.targets
  | .vfsqrt _ _ d => d.targets
  | .vrcp _ _ d => d.targets
  | .vrsq _ _ d => d.targets
  | .vexp2 _ _ d => d.targets
  | .vlog2 _ _ d => d.targets
  | .vffma _ _ d => d.targets
  | .vffms _ _ d => d.targets
  | .vffnma _ _ d => d.targets
  | .vffnms _ _ d => d.targets
  | .vcvt _ d => d.targets
  | .vqnt _ d => d.targets
  | .vdqnt _ d => d.targets
  | .vcmp _ _ _ d => d.targets
  | .vfcmp _ _ _ d => d.targets
  | .vsel _ _ d => d.targets
  | .vbcast _ _ d => d.targets
  | .vextr _ _ d => d.targets
  | .vins _ _ d => d.targets
  | .vshuf _ _ d => d.targets
  | .vred _ d => d.targets
  | .vscan _ d => d.targets
  | .vdot _ d => d.targets
  | .ldZb _ _ _ t => t.targets
  | .ldZh _ _ _ t => t.targets
  | .ldZw _ _ _ t => t.targets
  | .ldD _ _ _ t => t.targets
  | .ldSb _ _ _ t => t.targets
  | .ldSh _ _ _ t => t.targets
  | .ldSw _ _ _ t => t.targets
  | .stB _ _ _ => []
  | .stH _ _ _ => []
  | .stW _ _ _ => []
  | .stD _ _ _ => []
  | .ldacq _ _ _ t => t.targets
  | .strel _ _ _ => []
  | .vld _ _ _ t => t.targets
  | .vst _ _ _ => []
  | .vlds _ _ _ t => t.targets
  | .vsts _ _ _ => []
  | .vgath _ _ _ _ _ t => t.targets
  | .vscat _ _ _ _ _ => []
  | .pref _ _ _ _ => []
  | .amoadd _ _ _ _ _ t => t.targets
  | .amoand _ _ _ _ _ t => t.targets
  | .amoor _ _ _ _ _ t => t.targets
  | .amoxor _ _ _ _ _ t => t.targets
  | .amomin _ _ _ _ _ t => t.targets
  | .amomax _ _ _ _ _ t => t.targets
  | .amominu _ _ _ _ _ t => t.targets
  | .amomaxu _ _ _ _ _ t => t.targets
  | .amoswp _ _ _ _ _ t => t.targets
  | .amocas _ _ _ _ _ t => t.targets
  | .amofadd _ _ _ _ _ t => t.targets
  | .vamoadd _ _ _ _ _ t => t.targets
  | .fenceAcq _ _ _ => []
  | .fenceRel _ _ _ => []
  | .fenceAcqrel _ _ _ => []
  | .fenceSc _ _ _ => []
  | .fenceEngine _ _ _ => []
  | .waitv _ _ _ t => t.targets
  | .bara _ _ _ t => t.targets
  | .barw _ _ _ t => t.targets
  | .tspawn _ _ => []
  | .tsubmit _ _ => []
  | .tdep _ _ => []
  | .twait _ _ _ t => t.targets
  | .trange _ _ => []
  | .tprio _ _ => []
  | .amsend _ _ => []
  | .amreply _ _ => []
  | .htset _ _ => []
  | .inbox _ _ _ t => t.targets
  | .hnew _ _ t => t.targets
  | .henter _ _ => []
  | .hleave _ _ => []
  | .hresolve _ _ t => t.targets
  | .hstat _ _ _ t => t.targets
  | .hldc _ _ _ _ _ t => t.targets
  | .tdef _ _ _ => []
  | .tload _ _ _ => []
  | .tloadEdge _ _ _ _ => []
  | .tstore _ _ _ => []
  | .tstoreEdge _ _ _ _ => []
  | .tfree _ _ _ => []
  | .mma _ _ _ _ => []
  | .mmai _ _ _ _ => []
  | .maccrd _ _ _ => []
  | .macclr _ _ => []
  | .maccld _ _ _ => []
  | .mew _ _ _ => []
  | .mcopy _ _ _ _ => []
  | .msplat _ _ _ => []
  | .scopy _ _ _ t => t.targets
  | .sgath _ _ _ t => t.targets
  | .sscat _ _ _ t => t.targets
  | .slayout _ _ _ t => t.targets
  | .sfill _ _ _ t => t.targets
  | .sfence _ _ _ t => t.targets
  | .swait _ _ _ t => t.targets
  | .vwreg _ _ t => t.targets
  | .vwdrop _ _ => []
  | .vwsync _ _ _ t => t.targets
  | .vwqry _ _ _ t => t.targets
  | .vwpol _ _ => []
  | .pload _ _ t => t.targets
  | .punload _ _ t => t.targets
  | .pstart _ _ t => t.targets
  | .pstop _ _ t => t.targets
  | .psave _ _ t => t.targets
  | .prest _ _ t => t.targets
  | .spush _ _ => []
  | .spop _ _ t => t.targets
  | .trap _ _ => []
  | .rft _ _ => []
  | .cread _ _ _ t => t.targets
  | .cwrite _ _ _ => []
  | .halt _ _ => []
  | .idle _ _ t => t.targets
  | .plbfl _ _ t => t.targets
  | .cline _ _ _ => []
  | .dbgbrk _ _ => []
  | .afwait _ _ t => t.targets
  | .winrd _ _ t => t.targets
  | .winwr _ _ => []
  | .tresume _ _ => []
  | .wsopen _ _ => []
  | .wsclose _ _ => []
  | .rdtime _ _ t => t.targets
  | .rdpmc _ _ t => t.targets
  | .clauseFetch _ => []
  | .clauseCommit _ => []
  | .stopRequest _ _ => []
  | .stall _ => []
  | .taskStop _ => []
  | .upcall _ => []
  | .srseedWrite _ _ => []
  | .lsplitWrite _ _ => []
  | .prioWrite _ _ => []
  | .fpflagsWrite _ _ => []
  | .resumeWrite _ _ => []
  | .afringWrite _ _ => []
  | .fqbaseWrite _ _ => []
  | .fqptrWrite _ _ => []
  | .asidMakeLive _ => []
  | .asidMakeNotLive _ => []
  | .ovqWrite _ _ => []
  | .vlogWrite _ => []
  | .wsldatWrite _ _ => []
  | .c0resWrite _ _ => []
  | .migcntWrite _ => []
  | .gangArm _ _ => []
  | .checkpointStart _ _ => []
  | .restoreStart _ _ => []
  | .checkpointDone _ _ => []
  | .reservationGrant _ => []
  | .overflowAdmit _ => []
  | .taskDispatch _ => []
  | .classAging _ => []
  | .passoverLimit _ => []
  | .inboxGrant _ _ => []
  | .messageArrival _ => []
  | .handlerDiversion _ => []
  | .nohandler _ _ => []
  | .translationWalk _ => []
  | .permissionEntryArrival _ => []
  | .homeSliceStore _ => []
  | .storeAck _ => []
  | .filterBankClear _ => []
  | .refreshWindow => []
  | .physicalWrite _ _ _ => []
  | .hostRead _ _ => []
  | .shootdownComplete => []
  | .waitvWake _ => []
  | .waitvTimeout _ => []
  | .versionDiscardDone _ => []
  | .tileFillDone _ _ _ => []
  | .tileDrainDone _ _ _ => []
  | .streamerCommandStart _ => []
  | .streamerCommandComplete _ => []
  | .viewBuild _ => []
  | .viewPublish _ => []
  | .fabricConfigure _ _ => []
  | .bubbleIteration _ => []
  | .edgeAgeLimit _ _ _ => []
  | .loadFinish _ _ => []
  | .faultQueueWrite _ => []
  | .afterimageRecordWrite _ => []
  | .preempt _ _ => []
  | .drainLimit _ => []
  | .nodeSave _ _ => []
  | .flitRetry _ => []
  | .laneRetrain _ => []
  | .linkLoss _ => []
  | .coherenceLossTimeout _ => []
  | .linkReconnect _ => []
  | .farRequest _ _ _ => []
  | .farAccessTimeout _ => []
  | .routingTableWrite _ _ => []
  | .submitWrite _ _ _ => []
  | .cheadWrite _ _ _ => []
  | .werrWrite _ _ => []
  | .hostCompletion _ _ => []
  | .hotPageWindow _ => []
  | .forwardExpiry _ => []
  | .gangPlace _ => []
  | .gangReady _ _ => []
  | .gangGo _ => []
  | .gangGraceExpiry _ => []
  | .gangAbort _ => []
  | .attest _ => []
  | .sealImage _ => []
  | .checkImage _ => []
  | .setcap _ => []
  | .fuseadv _ => []
  | .fwupdate _ => []
  | .fwupdateInstall => []
  | .extend _ => []
  | .telemetry _ => []
  | .capOverrun => []
  | .thermalThrottle => []
  | .throttleStep => []
  | .throttleRecovery => []
  | .thermalShutdown => []
  | .packageReset _ => []
  | .eccUncorrectable _ => []
  | .patrolScrub _ _ => []
  | .clusterRetire _ _ => []
  | .l2SliceRetire _ => []
  | .hbmRowSpare _ => []
  | .cxlPortDegrade _ _ => []
  | .matrixCommandPerformed _ _ => []
  | .commandStall _ => []
  | .idleTimeout _ => []
  | .unreachableHomeTimeout _ => []
  | .nodeRestore _ _ => []
  | .submissionWindowWrite _ _ _ _ => []

/-- The effect slot of an effect-bearing instruction: formats L, S, E and M (02 R45). -/
def Instr.effSlot (x : Instr) : Option (BitVec 5) :=
  match x with
  | .gread _ _ => none
  | .wread _ _ => none
  | .gwrite _ _ => none
  | .wwrite _ _ => none
  | .gens _ _ => none
  | .genu _ _ => none
  | .appc _ _ => none
  | .mov _ _ => none
  | .movi _ _ _ => none
  | .nop _ => none
  | .null _ _ => none
  | .add _ _ => none
  | .sub _ _ => none
  | .and _ _ => none
  | .or _ _ => none
  | .xor _ _ => none
  | .shl _ _ => none
  | .shr _ _ => none
  | .sra _ _ => none
  | .min _ _ => none
  | .max _ _ => none
  | .minu _ _ => none
  | .maxu _ _ => none
  | .addi _ _ _ => none
  | .subi _ _ _ => none
  | .andi _ _ _ => none
  | .ori _ _ _ => none
  | .xori _ _ _ => none
  | .shli _ _ _ => none
  | .shri _ _ _ => none
  | .srai _ _ _ => none
  | .mul _ _ => none
  | .mulh _ _ => none
  | .mulhu _ _ => none
  | .div _ _ => none
  | .divu _ _ => none
  | .rem _ _ => none
  | .remu _ _ => none
  | .muli _ _ _ => none
  | .clz _ _ => none
  | .ctz _ _ => none
  | .popc _ _ => none
  | .exts8 _ _ => none
  | .exts16 _ _ => none
  | .exts32 _ _ => none
  | .extz8 _ _ => none
  | .extz16 _ _ => none
  | .extz32 _ _ => none
  | .bfx _ _ => none
  | .bfi _ _ => none
  | .lea _ _ _ => none
  | .leai _ _ _ _ => none
  | .teq _ _ => none
  | .tne _ _ => none
  | .tlt _ _ => none
  | .tle _ _ => none
  | .tltu _ _ => none
  | .tleu _ _ => none
  | .teqi _ _ _ => none
  | .tnei _ _ _ => none
  | .tlti _ _ _ => none
  | .tlei _ _ _ => none
  | .tltui _ _ _ => none
  | .tleui _ _ _ => none
  | .fadd _ _ _ => none
  | .fsub _ _ _ => none
  | .fmul _ _ _ => none
  | .fdiv _ _ _ => none
  | .fmin _ _ _ => none
  | .fmax _ _ _ => none
  | .fsqrt _ _ _ => none
  | .fsgn _ _ _ => none
  | .ffma _ _ _ => none
  | .ffms _ _ _ => none
  | .ffnma _ _ _ => none
  | .ffnms _ _ _ => none
  | .fcvt _ _ _ _ => none
  | .ftoi _ _ _ _ _ => none
  | .itof _ _ _ _ => none
  | .feq _ _ _ => none
  | .flt _ _ _ => none
  | .fle _ _ _ => none
  | .fclass _ _ _ => none
  | .bro _ _ _ => none
  | .br _ => none
  | .callo _ _ _ => none
  | .call _ => none
  | .ret _ => none
  | .exitt _ => none
  | .yield _ _ _ => none
  | .scall _ _ _ => none
  | .vadd _ _ _ => none
  | .vsub _ _ _ => none
  | .vmul _ _ _ => none
  | .vmulh _ _ _ => none
  | .vmin _ _ _ => none
  | .vmax _ _ _ => none
  | .vand _ _ _ => none
  | .vor _ _ _ => none
  | .vxor _ _ _ => none
  | .vshl _ _ _ => none
  | .vshr _ _ _ => none
  | .vsra _ _ _ => none
  | .vfadd _ _ _ => none
  | .vfsub _ _ _ => none
  | .vfmul _ _ _ => none
  | .vfdiv _ _ _ => none
  | .vfmin _ _ _ => none
  | .vfmax _ _ _ => none
  | .vfsqrt _ _ _ => none
  | .vrcp _ _ _ => none
  | .vrsq _ _ _ => none
  | .vexp2 _ _ _ => none
  | .vlog2 _ _ _ => none
  | .vffma _ _ _ => none
  | .vffms _ _ _ => none
  | .vffnma _ _ _ => none
  | .vffnms _ _ _ => none
  | .vcvt _ _ => none
  | .vqnt _ _ => none
  | .vdqnt _ _ => none
  | .vcmp _ _ _ _ => none
  | .vfcmp _ _ _ _ => none
  | .vsel _ _ _ => none
  | .vbcast _ _ _ => none
  | .vextr _ _ _ => none
  | .vins _ _ _ => none
  | .vshuf _ _ _ => none
  | .vred _ _ => none
  | .vscan _ _ => none
  | .vdot _ _ => none
  | .ldZb _ eff _ _ => some eff
  | .ldZh _ eff _ _ => some eff
  | .ldZw _ eff _ _ => some eff
  | .ldD _ eff _ _ => some eff
  | .ldSb _ eff _ _ => some eff
  | .ldSh _ eff _ _ => some eff
  | .ldSw _ eff _ _ => some eff
  | .stB _ eff _ => some eff
  | .stH _ eff _ => some eff
  | .stW _ eff _ => some eff
  | .stD _ eff _ => some eff
  | .ldacq _ eff _ _ => some eff
  | .strel _ eff _ => some eff
  | .vld _ eff _ _ => some eff
  | .vst _ eff _ => some eff
  | .vlds _ eff _ _ => some eff
  | .vsts _ eff _ => some eff
  | .vgath _ eff _ _ _ _ => some eff
  | .vscat _ eff _ _ _ => some eff
  | .pref _ eff _ _ => some eff
  | .amoadd _ eff _ _ _ _ => some eff
  | .amoand _ eff _ _ _ _ => some eff
  | .amoor _ eff _ _ _ _ => some eff
  | .amoxor _ eff _ _ _ _ => some eff
  | .amomin _ eff _ _ _ _ => some eff
  | .amomax _ eff _ _ _ _ => some eff
  | .amominu _ eff _ _ _ _ => some eff
  | .amomaxu _ eff _ _ _ _ => some eff
  | .amoswp _ eff _ _ _ _ => some eff
  | .amocas _ eff _ _ _ _ => some eff
  | .amofadd _ eff _ _ _ _ => some eff
  | .vamoadd _ eff _ _ _ _ => some eff
  | .fenceAcq _ eff _ => some eff
  | .fenceRel _ eff _ => some eff
  | .fenceAcqrel _ eff _ => some eff
  | .fenceSc _ eff _ => some eff
  | .fenceEngine _ eff _ => some eff
  | .waitv _ eff _ _ => some eff
  | .bara _ eff _ _ => some eff
  | .barw _ eff _ _ => some eff
  | .tspawn _ eff => some eff
  | .tsubmit _ eff => some eff
  | .tdep _ eff => some eff
  | .twait _ eff _ _ => some eff
  | .trange _ eff => some eff
  | .tprio _ eff => some eff
  | .amsend _ eff => some eff
  | .amreply _ eff => some eff
  | .htset _ eff => some eff
  | .inbox _ eff _ _ => some eff
  | .hnew _ eff _ => some eff
  | .henter _ eff => some eff
  | .hleave _ eff => some eff
  | .hresolve _ eff _ => some eff
  | .hstat _ eff _ _ => some eff
  | .hldc _ eff _ _ _ _ => some eff
  | .tdef _ eff _ => some eff
  | .tload _ eff _ => some eff
  | .tloadEdge _ eff _ _ => some eff
  | .tstore _ eff _ => some eff
  | .tstoreEdge _ eff _ _ => some eff
  | .tfree _ eff _ => some eff
  | .mma _ eff _ _ => some eff
  | .mmai _ eff _ _ => some eff
  | .maccrd _ eff _ => some eff
  | .macclr _ eff => some eff
  | .maccld _ eff _ => some eff
  | .mew _ eff _ => some eff
  | .mcopy _ eff _ _ => some eff
  | .msplat _ eff _ => some eff
  | .scopy _ eff _ _ => some eff
  | .sgath _ eff _ _ => some eff
  | .sscat _ eff _ _ => some eff
  | .slayout _ eff _ _ => some eff
  | .sfill _ eff _ _ => some eff
  | .sfence _ eff _ _ => some eff
  | .swait _ eff _ _ => some eff
  | .vwreg _ eff _ => some eff
  | .vwdrop _ eff => some eff
  | .vwsync _ eff _ _ => some eff
  | .vwqry _ eff _ _ => some eff
  | .vwpol _ eff => some eff
  | .pload _ eff _ => some eff
  | .punload _ eff _ => some eff
  | .pstart _ eff _ => some eff
  | .pstop _ eff _ => some eff
  | .psave _ eff _ => some eff
  | .prest _ eff _ => some eff
  | .spush eff _ => some eff
  | .spop eff _ _ => some eff
  | .trap _ eff => some eff
  | .rft _ eff => some eff
  | .cread _ eff _ _ => some eff
  | .cwrite _ eff _ => some eff
  | .halt _ eff => some eff
  | .idle _ eff _ => some eff
  | .plbfl _ eff _ => some eff
  | .cline _ eff _ => some eff
  | .dbgbrk _ eff => some eff
  | .afwait _ eff _ => some eff
  | .winrd _ eff _ => some eff
  | .winwr _ eff => some eff
  | .tresume _ eff => some eff
  | .wsopen _ eff => some eff
  | .wsclose _ eff => some eff
  | .rdtime _ eff _ => some eff
  | .rdpmc _ eff _ => some eff
  | .clauseFetch _ => none
  | .clauseCommit _ => none
  | .stopRequest _ _ => none
  | .stall _ => none
  | .taskStop _ => none
  | .upcall _ => none
  | .srseedWrite _ _ => none
  | .lsplitWrite _ _ => none
  | .prioWrite _ _ => none
  | .fpflagsWrite _ _ => none
  | .resumeWrite _ _ => none
  | .afringWrite _ _ => none
  | .fqbaseWrite _ _ => none
  | .fqptrWrite _ _ => none
  | .asidMakeLive _ => none
  | .asidMakeNotLive _ => none
  | .ovqWrite _ _ => none
  | .vlogWrite _ => none
  | .wsldatWrite _ _ => none
  | .c0resWrite _ _ => none
  | .migcntWrite _ => none
  | .gangArm _ _ => none
  | .checkpointStart _ _ => none
  | .restoreStart _ _ => none
  | .checkpointDone _ _ => none
  | .reservationGrant _ => none
  | .overflowAdmit _ => none
  | .taskDispatch _ => none
  | .classAging _ => none
  | .passoverLimit _ => none
  | .inboxGrant _ _ => none
  | .messageArrival _ => none
  | .handlerDiversion _ => none
  | .nohandler _ _ => none
  | .translationWalk _ => none
  | .permissionEntryArrival _ => none
  | .homeSliceStore _ => none
  | .storeAck _ => none
  | .filterBankClear _ => none
  | .refreshWindow => none
  | .physicalWrite _ _ _ => none
  | .hostRead _ _ => none
  | .shootdownComplete => none
  | .waitvWake _ => none
  | .waitvTimeout _ => none
  | .versionDiscardDone _ => none
  | .tileFillDone _ _ _ => none
  | .tileDrainDone _ _ _ => none
  | .streamerCommandStart _ => none
  | .streamerCommandComplete _ => none
  | .viewBuild _ => none
  | .viewPublish _ => none
  | .fabricConfigure _ _ => none
  | .bubbleIteration _ => none
  | .edgeAgeLimit _ _ _ => none
  | .loadFinish _ _ => none
  | .faultQueueWrite _ => none
  | .afterimageRecordWrite _ => none
  | .preempt _ _ => none
  | .drainLimit _ => none
  | .nodeSave _ _ => none
  | .flitRetry _ => none
  | .laneRetrain _ => none
  | .linkLoss _ => none
  | .coherenceLossTimeout _ => none
  | .linkReconnect _ => none
  | .farRequest _ _ _ => none
  | .farAccessTimeout _ => none
  | .routingTableWrite _ _ => none
  | .submitWrite _ _ _ => none
  | .cheadWrite _ _ _ => none
  | .werrWrite _ _ => none
  | .hostCompletion _ _ => none
  | .hotPageWindow _ => none
  | .forwardExpiry _ => none
  | .gangPlace _ => none
  | .gangReady _ _ => none
  | .gangGo _ => none
  | .gangGraceExpiry _ => none
  | .gangAbort _ => none
  | .attest _ => none
  | .sealImage _ => none
  | .checkImage _ => none
  | .setcap _ => none
  | .fuseadv _ => none
  | .fwupdate _ => none
  | .fwupdateInstall => none
  | .extend _ => none
  | .telemetry _ => none
  | .capOverrun => none
  | .thermalThrottle => none
  | .throttleStep => none
  | .throttleRecovery => none
  | .thermalShutdown => none
  | .packageReset _ => none
  | .eccUncorrectable _ => none
  | .patrolScrub _ _ => none
  | .clusterRetire _ _ => none
  | .l2SliceRetire _ => none
  | .hbmRowSpare _ => none
  | .cxlPortDegrade _ _ => none
  | .matrixCommandPerformed _ _ => none
  | .commandStall _ => none
  | .idleTimeout _ => none
  | .unreachableHomeTimeout _ => none
  | .nodeRestore _ _ => none
  | .submissionWindowWrite _ _ _ _ => none

/-- Whether an instruction is of the branch class (01 R19). -/
def Instr.isBranch : Instr → Bool
  | .bro _ _ _ | .br _ | .callo _ _ _ | .call _ | .ret _ | .exitt _ | .yield _ _ _ | .scall _ _ _ => true
  | _ => false

/-- Whether an instruction stores to memory at commit, or may do so as it fires: the instructions a load in a higher slot waits for (01 R18). -/
def Instr.isStore : Instr → Bool
  | .stB _ _ _ | .stH _ _ _ | .stW _ _ _ | .stD _ _ _ | .strel _ _ _ | .vst _ _ _ | .vsts _ _ _ | .vscat _ _ _ _ _ => true
  | .amoadd _ _ _ _ _ _ | .amoand _ _ _ _ _ _ | .amoor _ _ _ _ _ _ | .amoxor _ _ _ _ _ _ | .amomin _ _ _ _ _ _
  | .amomax _ _ _ _ _ _ | .amominu _ _ _ _ _ _ | .amomaxu _ _ _ _ _ _ | .amoswp _ _ _ _ _ _ | .amocas _ _ _ _ _ _
  | .amofadd _ _ _ _ _ _ | .vamoadd _ _ _ _ _ _ | .bara _ _ _ _ => true
  | _ => false

/-- Whether an instruction fires under the conditions of an atomic (09 R220). -/
def Instr.isR220 : Instr → Bool
  | .amoadd _ _ _ _ _ _ | .amoand _ _ _ _ _ _ | .amoor _ _ _ _ _ _ | .amoxor _ _ _ _ _ _ | .amomin _ _ _ _ _ _
  | .amomax _ _ _ _ _ _ | .amominu _ _ _ _ _ _ | .amomaxu _ _ _ _ _ _ | .amoswp _ _ _ _ _ _ | .amocas _ _ _ _ _ _
  | .amofadd _ _ _ _ _ _ | .vamoadd _ _ _ _ _ _ | .bara _ _ _ _ => true
  | .hresolve _ _ _ | .vwreg _ _ _ | .vwsync _ _ _ _ | .pload _ _ _ | .punload _ _ _ | .pstart _ _ _ | .pstop _ _ _
  | .psave _ _ _ | .prest _ _ _ | .plbfl _ _ _ | .cline _ _ _ => true
  | _ => false

/-- Whether an instruction may act as an acquire at DIE scope or wider (07 R155; 09 R211). -/
def Instr.mayAcquire (i : Instr) : Bool :=
  match i with
  | .ldacq _ _ _ _ | .twait _ _ _ _ | .inbox _ _ _ _ | .swait _ _ _ _ | .sfence _ _ _ _ | .hresolve _ _ _ => true
  | .fenceAcq _ _ sc | .fenceAcqrel _ _ sc | .fenceSc _ _ sc | .bara _ _ sc _ | .barw _ _ sc _ => decide (sc ≠ .lens)
  | .waitv _ _ acq _ | .hldc _ _ acq _ _ _ => acq
  | .amoadd _ _ _ sc rlx _ | .amoand _ _ _ sc rlx _ | .amoor _ _ _ sc rlx _ | .amoxor _ _ _ sc rlx _ | .amomin _ _ _ sc rlx _
  | .amomax _ _ _ sc rlx _ | .amominu _ _ _ sc rlx _ | .amomaxu _ _ _ sc rlx _ | .amoswp _ _ _ sc rlx _ | .amocas _ _ _ sc rlx _
  | .amofadd _ _ _ sc rlx _ | .vamoadd _ _ _ sc rlx _ => decide (sc ≠ .lens) && !rlx
  | _ => false

/-- Whether no clause is fetched past the clause of this instruction until its branch has fired, or until the instruction has fired (01 R24; 09 R226; 10 R247; 17 R348, R360). -/
def Instr.holdsFetch : Instr → Bool
  | .cread _ _ _ _ | .cwrite _ _ _ => true
  | _ => false

/-- Whether nothing younger is fetched until this instruction has fired (09 R226; 10 R247; 17 R348, R356, R360). -/
def Instr.holdsFetchUntilFired : Instr → Bool
  | .henter _ _ | .hleave _ _ | .rft _ _ | .idle _ _ _ | .cline _ _ _ => true
  | _ => false

/-- Whether nothing younger is fetched while the clause is in flight (09 R226). -/
def Instr.holdsFetchWhole : Instr → Bool
  | .waitv _ _ _ _ => true
  | _ => false

end Sys2Proof
end

