-- ==== Sys2Proof/Machine/Ops.lean ====
section
/-! DEFINITION. Sys2Proof/Machine/Ops.lean: the named operations over memory, registers, contexts and clause instances, the one firing rule (01 R15), delivery (01 R16, R17), the accounting of outputs (01 R18, R19), squash (01 R26), and taking an upcall or a handler and returning from it (17 R346, R348; 07 R171). -/

namespace Sys2Proof.Machine

/-! ### Order -/

/-- Put an item before the first of a sorted list that must not stand before it. -/
def insertBy {α : Type} (le : α → α → Bool) (a : α) : List α → List α
  | [] => [a]
  | b :: bs => if le a b then a :: b :: bs else b :: insertBy le a bs

/-- A list in order; equal items keep theirs. -/
def sortBy {α : Type} (le : α → α → Bool) : List α → List α
  | [] => []
  | a :: l => insertBy le a (sortBy le l)

/-! ### Bytes and memory -/

/-- The n bytes of a number, lowest first (00 R4). -/
def natToBytes : (n : Nat) → Nat → List Byte
  | 0, _ => []
  | n + 1, v => BitVec.ofNat 8 v :: natToBytes n (v / 256)

/-- The number bytes hold, lowest first (00 R4). -/
def bytesToNat : List Byte → Nat
  | [] => 0
  | b :: bs => b.toNat + 256 * bytesToNat bs

/-- What an unlisted address of memory reads as (log 1). -/
def Memory.unlisted : Byte := 0#8

/-- The byte at an address. -/
def Memory.get (m : Memory) (a : Nat) : Byte :=
  match m with
  | [] => Memory.unlisted
  | (x, b) :: rest => if x = a then b else Memory.get rest a

/-- Write one byte, keeping the addresses rising and listing no byte that an unlisted address reads as. -/
def Memory.set (m : Memory) (a : Nat) (v : Byte) : Memory :=
  match m with
  | [] => if v = Memory.unlisted then [] else [(a, v)]
  | (x, b) :: rest =>
    if a < x then (if v = Memory.unlisted then (x, b) :: rest else (a, v) :: (x, b) :: rest)
    else if a = x then (if v = Memory.unlisted then rest else (a, v) :: rest)
    else (x, b) :: Memory.set rest a v

/-- The canonical form: addresses strictly rising, no entry equal to what an unlisted address reads as. -/
def Memory.wf : Memory → Bool
  | [] => true
  | [(_, b)] => decide (b ≠ Memory.unlisted)
  | (x, b) :: (y, c) :: rest => decide (b ≠ Memory.unlisted) && decide (x < y) && Memory.wf ((y, c) :: rest)

/-- n bytes from an address up. -/
def Memory.getN (m : Memory) (a : Nat) : Nat → List Byte
  | 0 => []
  | n + 1 => m.get a :: Memory.getN m (a + 1) n

/-- Write bytes from an address up. -/
def Memory.setN (m : Memory) (a : Nat) : List Byte → Memory
  | [] => m
  | b :: bs => Memory.setN (m.set a b) (a + 1) bs

/-- n bytes of physical memory. -/
def State.pread (s : State) (pa n : Nat) : List Byte := s.mem.getN pa n

/-- A little-endian number in physical memory (00 R4). -/
def State.preadNat (s : State) (pa n : Nat) : Nat := bytesToNat (s.pread pa n)

/-- Whether n bytes from an address up cover a 64-byte line. -/
def coversLine (line pa n : Nat) : Bool := decide (pa ≤ line * 64) && decide (line * 64 + 64 ≤ pa + n)

/-- Write bytes of physical memory; a poisoned line that is written whole is sound again (23 R426; log 100). -/
def State.pwrite (s : State) (pa : Nat) (bs : List Byte) : State :=
  { s with mem := s.mem.setN pa bs, badLines := s.badLines.filter fun l => !coversLine l pa bs.length }

/-- The snoop filter gives up the lines a write touches, invalidating the host copies (20 R394). -/
def State.backInvalidate (s : State) (pa n : Nat) : State :=
  let hit (l : Nat) : Bool := decide (l * 64 < pa + n) && decide (pa < l * 64 + 64)
  { s with
    outbox := s.outbox ++ (s.snoop.filter hit).map Out.backInvalidate
    snoop := s.snoop.filter fun l => !hit l }

/-- The part writes bytes of its own structures; a host that holds their lines gives them up (20 R394). -/
def State.partWrite (s : State) (pa : Nat) (bs : List Byte) : State := (s.pwrite pa bs).backInvalidate pa bs.length

/-! ### Words, fields and tokens -/

/-- Bits [lo+n-1 : lo] of a word, as a number (00 R3). -/
def bitsOf {w : Nat} (v : BitVec w) (lo n : Nat) : Nat := v.toNat / 2 ^ lo % 2 ^ n

/-- Whether bits [lo+n-1 : lo] of a word are zero. -/
def bitsZero {w : Nat} (v : BitVec w) (lo n : Nat) : Bool := decide (bitsOf v lo n = 0)

/-- A word from a number. -/
def w64 (n : Nat) : Word := BitVec.ofNat 64 n

/-- The 64 bits of a scalar token; instructions see only value tokens of the width their slot is typed with. -/
def Token.bits : Token → Word
  | .scalar v => v
  | .wide v => v.setWidth 64
  | _ => 0

/-- The 512 bits of a wide token. -/
def Token.wbits : Token → Wide
  | .wide v => v
  | .scalar v => v.setWidth 512
  | _ => 0

/-- Whether a token is a value. -/
def Token.isValue : Token → Bool
  | .scalar _ => true
  | .wide _ => true
  | _ => false

/-- The code of a kind (17 R333). -/
def Kind.code : Kind → Nat
  | .illop => 1 | .clausefmt => 2 | .perm => 3 | .notpres => 4 | .synonym => 5 | .ordkind => 6 | .misalign => 7
  | .notlive => 8 | .viewstale => 9 | .viewfault => 10 | .hypfull => 11 | .orphan => 12 | .tilestate => 13
  | .stall => 14 | .nohandler => 15 | .eccunc => 16 | .linklost => 17 | .service => 24 | .trap => 25
  | .break_ => 26 | .step => 27 | .halted => 28

/-- The kind of a code; ILLOP for a code that is never written (17 R333). -/
def Kind.ofCode (n : Nat) : Kind :=
  match n with
  | 2 => .clausefmt | 3 => .perm | 4 => .notpres | 5 => .synonym | 6 => .ordkind | 7 => .misalign
  | 8 => .notlive | 9 => .viewstale | 10 => .viewfault | 11 => .hypfull | 12 => .orphan | 13 => .tilestate
  | 14 => .stall | 15 => .nohandler | 16 => .eccunc | 17 => .linklost | 24 => .service | 25 => .trap
  | 26 => .break_ | 27 => .step | 28 => .halted
  | _ => .illop

/-- Whether an address is canonical for an access of n bytes (05 R138). -/
def canonical (va : Word) (n : Nat) : Bool := decide (va.toNat + n ≤ 2 ^ 56)

/-! ### Contexts, towers and instances -/

/-- The context with a number. -/
def State.ctx? (s : State) (c : Nat) : Option Ctx := s.ctxs.find? fun x => decide (x.id = c)

/-- A time bound of n us in ns, stretched as the clock is below 2.1 GHz and as issue cycles are left idle (23 R420, R421). -/
def State.us (s : State) (n : Nat) : Nat := (n * 1000 * (2100 * 8) + (s.clock * s.share - 1)) / (s.clock * s.share)

/-- Apply a change to one context. -/
def State.onCtx (s : State) (c : Nat) (f : Ctx → Ctx) : State :=
  { s with ctxs := s.ctxs.map fun x => if x.id = c then f x else x }

/-- Put a context back. -/
def State.setCtx (s : State) (x : Ctx) : State := s.onCtx x.id fun _ => x

/-- The task of a context. -/
def Ctx.key (c : Ctx) : TaskKey := ⟨c.recA, c.asid⟩

/-- The context of a task that holds a lens. -/
def State.ctxOf? (s : State) (k : TaskKey) : Option Ctx :=
  s.ctxs.find? fun x => decide (x.kind = .task) && decide (x.key = k)

/-- A tower; one that does not exist reads as a tower right after reset. -/
def State.tower (s : State) (tw : Nat) : Tower := (s.towers[tw]?).getD Tower.reset

/-- Apply a change to one tower. -/
def State.onTower (s : State) (tw : Nat) (f : Tower → Tower) : State :=
  { s with towers := s.towers.modify tw f }

/-- A task leaves its lens; while a link is lost the tower keeps which cells it held (20 R389). -/
def State.noteLeft (s : State) (c : Ctx) : State :=
  if decide (c.kind = .task) && s.links.any fun l => l.lostAt.isSome then s.onTower c.tower fun t => { t with left := t.left ++ [(c.key, c.base, c.width)] }
  else s

/-- Remove a context. -/
def State.dropCtx (s : State) (c : Nat) : State :=
  { (match s.ctx? c with
      | some x => s.noteLeft x
      | none => s) with ctxs := s.ctxs.filter fun x => !decide (x.id = c) }

/-- The context the focus names. -/
def State.fctx (s : State) : Option Ctx := s.ctx? s.focus.ctx

/-- The clause instance the focus names. -/
def State.finst (s : State) : Option Inst := s.fctx.bind fun c => c.window[s.focus.win]?

/-- Apply a change to the focused instance. -/
def State.onInst (s : State) (f : Inst → Inst) : State :=
  s.onCtx s.focus.ctx fun c => { c with window := c.window.modify s.focus.win f }

/-- Apply a change to the focused context. -/
def State.onF (s : State) (f : Ctx → Ctx) : State := s.onCtx s.focus.ctx f

/-- Count a move that had an effect (log 4). -/
def State.tick (s : State) : State := { s with moves := s.moves + 1 }

/-- A fresh free value (log 7). -/
def State.free (s : State) (site : Nat) : Word := Config.freeBits site s.moves

/-- The instruction an identifier of an instance holds. -/
def Inst.instrAt (x : Inst) (iid : BitVec 7) : Option Instr :=
  match x.words[iid.toNat]? with
  | none => none
  | some w =>
    match decodeWord w.toNat with
    | .ok i => some i
    | .error _ => none

/-- The token a slot holds. -/
def Inst.tok? (x : Inst) (iid : BitVec 7) (slot : Slot) : Option Token :=
  (x.toks.find? fun t => decide (t.1 = iid) && decide (t.2.1 = slot)).map fun t => t.2.2

/-- Mark the clause, the first mark standing (01 R16, R19). -/
def Inst.fail (x : Inst) (k : Kind) : Inst :=
  match x.mark with
  | none => { x with mark := some k }
  | some _ => x

/-- The address of the next clause in memory (01 R10). -/
def Inst.nextAddr (x : Inst) : Word := x.addr + w64 (16 + 128 * (x.hdr.nchunk.toNat + 1))

/-- Whether a token fits the width of a slot; a null and a poison fit either (01 R16). -/
def Width.fits : Width → Token → Bool
  | .scalar, .wide _ => false
  | .wide, .scalar _ => false
  | _, _ => true

/-- The width of a slot an instruction reads, none for a slot it does not read (01 R14, R16). -/
def slotWidth (x : Instr) (slot : Slot) : Option Width :=
  match slot with
  | .p => if x.pred = .always then none else some .scalar
  | sl => (x.reads.find? fun r => decide (r.1 = sl)).map fun r => r.2

/-- A token arrives at a slot: it is held, or the clause fails with CLAUSEFMT (01 R16). -/
def Inst.accept (x : Inst) (tok : Token) (tgt : Slot × BitVec 7) : Inst :=
  match x.instrAt tgt.2 with
  | none => x.fail .clausefmt
  | some i =>
    match slotWidth i tgt.1 with
    | none => x.fail .clausefmt
    | some w =>
      if (x.tok? tgt.2 tgt.1).isSome || !w.fits tok then x.fail .clausefmt
      else { x with toks := x.toks ++ [(tgt.2, tgt.1, tok)] }

/-- A result is sent to every target (01 R17). -/
def Inst.deliver (x : Inst) (tgts : List (Slot × BitVec 7)) (tok : Token) : Inst :=
  tgts.foldl (fun y t => y.accept tok t) x

/-- Deliver a token from the focused instruction. -/
def State.deliver (s : State) (i : Instr) (tok : Token) : State := s.onInst fun x => x.deliver i.targets tok

/-- Deliver a scalar value. -/
def State.deliverS (s : State) (i : Instr) (v : Word) : State := s.deliver i (.scalar v)

/-- Deliver a wide value. -/
def State.deliverW (s : State) (i : Instr) (v : Wide) : State := s.deliver i (.wide v)

/-- Deliver a poison whose origin is the focused instruction itself (05 R122). -/
def State.deliverPoison (s : State) (i : Instr) (k : Kind) : State := s.deliver i (.poison k s.focus.iid)

/-- Raise flags in the focused instance; they reach FPFLAGS at commit (01 R20). -/
def State.raise (s : State) (f : Flags) : State := s.onInst fun x => { x with flags := x.flags ||| f }

/-! ### Accounting of outputs -/

/-- What an effect slot has received. -/
def Inst.effOut? (x : Inst) (e : BitVec 5) : Option EffOut := (x.effs.find? fun p => decide (p.1 = e)).map fun p => p.2

/-- An effect slot is served; a second service, or a firing, one that poisons the effect among them, whose effmask bit is clear, fails the clause; a null whose effmask bit is clear does not: DESIGN CHOICE, log 112 (01 R15, R18, R19). -/
def Inst.recordEff (x : Inst) (e : BitVec 5) (o : EffOut) : Inst :=
  if (x.effOut? e).isSome || (decide (o ≠ .nulled) && !x.hdr.effmask.getLsbD e.toNat) then x.fail .clausefmt
  else { x with effs := x.effs ++ [(e, o)] }

/-- A write to a global is counted; a second one, or one outside gwmask, fails the clause (01 R19). -/
def Inst.recordG (x : Inst) (r : BitVec 6) (t : Token) : Inst :=
  if (x.gw.any fun p => decide (p.1 = r)) || !x.hdr.gwmask.getLsbD r.toNat then x.fail .clausefmt
  else { x with gw := x.gw ++ [(r, t)] }

/-- A write to a wide global is counted (01 R19). -/
def Inst.recordW (x : Inst) (r : BitVec 4) (t : Token) : Inst :=
  if (x.ww.any fun p => decide (p.1 = r)) || !x.hdr.wwmask.getLsbD r.toNat then x.fail .clausefmt
  else { x with ww := x.ww ++ [(r, t)] }

/-- Whether a branch outcome writes the link (04 R114). -/
def BranchOut.isCall : BranchOut → Bool
  | .call _ => true
  | _ => false

/-- A branch is counted; a second one, one beside an RFT, or a call in a clause whose gwmask names g63, fails the clause (01 R19, 04 R114, 17 R348). -/
def Inst.recordBranch (x : Inst) (b : BranchOut) : Inst :=
  if x.branch.isSome || x.rft then x.fail .clausefmt
  else if b.isCall && x.hdr.gwmask.getLsbD 63 then { x with branch := some b }.fail .clausefmt
  else { x with branch := some b }

/-- An RFT stands in for the branch (17 R348). -/
def Inst.recordRft (x : Inst) : Inst :=
  if x.branch.isSome || x.rft then x.fail .clausefmt else { x with rft := true }

/-- Mark an instruction as fired. -/
def Inst.markFired (x : Inst) (iid : BitVec 7) : Inst := { x with fired := iid :: x.fired }

/-- Keep what the instance holds now: a repetition of the clause starts from here, and the draws taken up to here stay taken (05 R149; 09 R221). -/
def Inst.keep (x : Inst) : Inst :=
  { x with snap := some ⟨x.toks, x.fired, x.gw, x.ww, x.effs, x.branch, x.rft, x.flags, x.loads, x.poisonVa, x.newHyps, x.grants, x.edgeRes, x.taskRes⟩, draws := [] }

/-- Keep what the instance holds if one more of its effects has been performed than `before` had (09 R221). -/
def Inst.keepIf (x before : Inst) : Inst := if before.performed.length < x.performed.length then x.keep else x

/-- The outputs of an instruction that meets a null: null to its targets, its effect nulled, its register write counted; a branch counts for nothing (01 R15, R19). -/
def Inst.takeNull (x : Inst) (i : Instr) : Inst :=
  let x := x.deliver i.targets .null
  let x := match i.effSlot with
    | some e => x.recordEff e .nulled
    | none => x
  match i with
  | .gwrite _ r => x.recordG r .null
  | .wwrite _ r => x.recordW r .null
  | _ => x

/-- The outputs of an instruction that meets a poison: the poison to its targets and to its outputs (01 R15, R19, R21). -/
def Inst.takePoison (x : Inst) (i : Instr) (k : Kind) (origin : BitVec 7) : Inst :=
  let x := x.deliver i.targets (.poison k origin)
  let x := match i.effSlot with
    | some e => x.recordEff e (.poisoned k)
    | none => x
  match i with
  | .gwrite _ r => x.recordG r (.poison k origin)
  | .wwrite _ r => x.recordW r (.poison k origin)
  | .rft _ _ => x.recordRft
  | _ => if i.isBranch then x.recordBranch (.poisoned k) else x

/-! ### Firing -/

/-- The operands of an instruction that acts; a slot it does not read is null. -/
structure Vals where
  a : Token
  b : Token
  c : Token
  deriving DecidableEq, Repr

/-- What the tokens of an instruction's slots ask for, in the order of 01 R15. -/
inductive Ready where
  | waits
  | meetsNull
  | meetsPoison (k : Kind) (origin : BitVec 7)
  | noMatch
  | acts (v : Vals)
  deriving DecidableEq, Repr

/-- The slots an instruction reads, in the order a, b, c, p (01 R14, R15). -/
def allSlots (i : Instr) : List Slot :=
  i.reads.map (fun r => r.1) ++ (if i.pred = Pred.always then [] else [Slot.p])

/-- The tokens of slots, none while one is missing. -/
def Inst.toksOf (x : Inst) (iid : BitVec 7) : List Slot → Option (List Token)
  | [] => some []
  | sl :: rest =>
    match x.tok? iid sl, x.toksOf iid rest with
    | some t, some ts => some (t :: ts)
    | _, _ => none

/-- The first poison among tokens. -/
def firstPoison : List Token → Option (Kind × BitVec 7)
  | [] => none
  | .poison k o :: _ => some (k, o)
  | _ :: ts => firstPoison ts

/-- Whether the predicate admits the action (02 R35, 01 R15). -/
def Inst.predHolds (x : Inst) (iid : BitVec 7) (i : Instr) : Bool :=
  match i.pred with
  | .always => true
  | .onTrue => decide (((x.tok? iid .p).getD .null).bits ≠ 0)
  | .onFalse => decide (((x.tok? iid .p).getD .null).bits = 0)

/-- The firing rule: missing operand, null, poison, predicate, action (01 R15). -/
def Inst.ready (x : Inst) (iid : BitVec 7) (i : Instr) : Ready :=
  match x.toksOf iid (allSlots i) with
  | none => .waits
  | some ts =>
    if ts.any (fun t => decide (t = .null)) then .meetsNull
    else
      match firstPoison ts with
      | some (k, o) => .meetsPoison k o
      | none =>
        if x.predHolds iid i then
          .acts ⟨(x.tok? iid .a).getD .null, (x.tok? iid .b).getD .null, (x.tok? iid .c).getD .null⟩
        else .noMatch

/-- Whether an older clause of the focus may yet write a control register: the part holds the younger clause's instructions until that clause commits (01 R27). -/
def State.ctlHeld (s : State) : Bool :=
  match s.fctx with
  | none => false
  | some c => (c.window.take s.focus.win).any fun x => x.ctlWr

/-- What an action did: it waits (perhaps having asked for something), or it has fired. -/
inductive Act where
  | waits (s : State)
  | fires (s : State)
  deriving DecidableEq, Repr

/-- An instruction fires as the focus names it, and no other way: a marked clause, an identifier that has fired, a control-register write still to commit in an older clause (01 R27), or a missing operand changes nothing; a null or a poison passes through; else the action (01 R15). -/
def fire (s : State) (i : Instr) (act : Vals → State → Act) : Host.Outcome State Fault Refusal :=
  match s.finst with
  | none => .next s
  | some x =>
    if x.mark.isSome || x.fired.contains s.focus.iid || s.ctlHeld then .next s
    else
      match x.ready s.focus.iid i with
      | .waits => .next s
      | .meetsNull => .next (s.onInst fun y => (y.takeNull i).markFired s.focus.iid).tick
      | .meetsPoison k o => .next (s.onInst fun y => (y.takePoison i k o).markFired s.focus.iid).tick
      | .noMatch => .next (s.onInst fun y => y.markFired s.focus.iid).tick
      | .acts v =>
        match act v s with
        | .waits t => .next t
        | .fires t => .next (t.onInst fun y => (y.markFired s.focus.iid).keepIf x).tick

/-- An instruction that computes one scalar from its operands. -/
def fireS (s : State) (i : Instr) (f : Vals → Word) : Host.Outcome State Fault Refusal :=
  fire s i fun v t => .fires (t.deliverS i (f v))

/-- An instruction that computes one wide value from its operands. -/
def fireW (s : State) (i : Instr) (f : Vals → Wide) : Host.Outcome State Fault Refusal :=
  fire s i fun v t => .fires (t.deliverW i (f v))

/-- An instruction that computes one scalar and raises flags. -/
def fireSF (s : State) (i : Instr) (f : Vals → Word × Flags) : Host.Outcome State Fault Refusal :=
  fire s i fun v t => .fires ((t.raise (f v).2).deliverS i (f v).1)

/-- An instruction that computes one wide value and raises flags. -/
def fireWF (s : State) (i : Instr) (f : Vals → Wide × Flags) : Host.Outcome State Fault Refusal :=
  fire s i fun v t => .fires ((t.raise (f v).2).deliverW i (f v).1)

/-- The effect of the focused instruction fires with an action left for commit (01 R20). -/
def State.effect (s : State) (i : Instr) (a : Action) : State :=
  match i.effSlot with
  | some e => s.onInst fun x => x.recordEff e (.fired a)
  | none => s

/-- The effect of the focused instruction is poisoned (01 R21). -/
def State.effectPoison (s : State) (i : Instr) (k : Kind) : State :=
  match i.effSlot with
  | some e => s.onInst fun x => x.recordEff e (.poisoned k)
  | none => s

/-- Whether the focused clause is the oldest of its task in flight. -/
def State.oldest (s : State) : Bool := decide (s.focus.win = 0)

/-- An effect poisoned by its own instruction, whose targets get the same poison (01 R21). -/
def State.effectBad (s : State) (i : Instr) (k : Kind) : State := (s.effectPoison i k).deliverPoison i k

/-- Keep the address of an access that made poison (17 R336). -/
def State.notePoison (s : State) (va : Word) : State :=
  s.onInst fun x => { x with poisonVa := (s.focus.iid, va) :: x.poisonVa }

/-- The time a waiting instruction began to wait. -/
def Inst.waitSince (x : Inst) (iid : BitVec 7) : Option Nat :=
  (x.waits.find? fun p => decide (p.1 = iid)).map fun p => p.2

/-- The wait of an instruction has ended; it does not count toward the stall limit (09 R226; 17 R360). -/
def Inst.waitedOut (x : Inst) (iid : BitVec 7) (now : Nat) : Inst :=
  { x with oldestAt := x.oldestAt.map fun a => Nat.min now (a + (now - (x.waitSince iid).getD now)) }

/-- The focused instruction begins to wait inside its effect, unless it already does. -/
def State.beginWait (s : State) : State :=
  match s.finst with
  | none => s
  | some x =>
    if (x.waitSince s.focus.iid).isSome then s
    else (s.onInst fun y => { y with waits := (s.focus.iid, s.time) :: y.waits }).tick

/-! ### Squash and registers -/

/-- What a clause instance gives back when it is dropped uncommitted: the hypotheses of its HNEWs (10 R246), the inbox entries of its AMSENDs (07 R169), and what it still asks for: a load it configures (14 R322), a reservation, an inbox entry. -/
def State.release (s : State) (x : Inst) : State :=
  let mine (l : Load) : Bool := decide (l.waiter.map (fun w => w.2.1) = some x.uid)
  let gone := s.loads.filter fun l => mine l && decide (l.st = .configuring)
  let s := { s with
    hyps := s.hyps.filter fun h => !x.newHyps.contains h.n
    loads := (s.loads.filter fun l => !(mine l && decide (l.st = .configuring))).map fun l : Load =>
      if mine l then { l with stopAsked := false, waiter := none } else l
    ctxs := s.ctxs.filter fun c => !gone.any fun l => decide (c.tower = l.tower) && (match c.kind with
      | .node slot _ => decide (slot = l.slot)
      | .task => false)
    towers := s.towers.map fun t =>
      { t with
        waitSubs := t.waitSubs.filter fun w => !decide (w.by_.map (fun b => b.2.1) = some x.uid)
        inboxes := t.inboxes.map fun b => { b with asking := b.asking.filter fun a => !decide (a.2.1 = x.uid) } } }
  x.grants.foldl
    (fun t g => t.onTower g.2.1 fun w =>
      { w with inboxes := w.inboxes.map fun b =>
          if b.cell = g.2.2 then { b with granted := b.granted - 1 } else b })
    s

/-- Whether an address may hold a clause (01 R10; 04 R112). -/
def clauseAddrOk (a : Word) : Bool := bitsZero a 0 4 && bitsZero a 56 8

/-- How many instances of a list were fetched: one at an address that may hold no clause was not (04 R112; 06 R150). -/
def fetchedCount (xs : List Inst) : Nat := (xs.filter fun x => clauseAddrOk x.addr).length

/-- The requests, answers and faults of loads, atomics and fetches of a lens are forgotten, as instances go or run again: what is still to be accessed asks afresh (01 R26; 05 R149; 08 R196, R200). -/
def State.forgetReads (s : State) (c : Ctx) : State :=
  let of_ (r : WalkReq) : Bool := decide (c.base ≤ r.cell) && decide (r.cell < c.base + c.width) && !decide (r.acc = .store)
  s.onTower c.tower fun t =>
    { t with
      walkReqs := t.walkReqs.filter fun r => !of_ r
      walkAns := t.walkAns.filter fun a => !of_ a.req
      permNotes := t.permNotes.filter fun a => !of_ a.req }

/-- Drop the instances of a context from index n on with what they hold; a shoot-down that a dropped PLBFL began goes on without it. -/
def State.dropFrom (s : State) (c n : Nat) : State :=
  match s.ctx? c with
  | none => s
  | some x =>
    let s := (x.window.drop n).foldl (fun t y => t.release y) s
    let s := if n = 0 then { s with shoots := s.shoots.map fun d : Shoot => if d.by_.map (fun b => b.1) = some c then Shoot.mk d.form none d.finished else d } else s
    let s := if n < x.window.length then s.forgetReads x else s
    s.onCtx c fun y => { y with window := y.window.take n }

/-- Squash the instances of a context from index n on (01 R26; 06 R150). -/
def State.squashFrom (s : State) (c n : Nat) : State :=
  match s.ctx? c with
  | none => s
  | some x => (s.dropFrom c n).onCtx c fun y => { y with clSquash := y.clSquash + fetchedCount (x.window.drop n) }

/-- The value a GREAD of gN finds, none while an older clause may still write it (01 R25, 04 R114). -/
def greadFrom (r : BitVec 6) : List Inst → Word → Option Word
  | [], v => some v
  | x :: xs, v =>
    if x.hdr.gwmask.getLsbD r.toNat then
      match x.gw.find? (fun p => decide (p.1 = r)) with
      | none => none
      | some (_, .scalar u) => greadFrom r xs u
      | some _ => greadFrom r xs v
    else if r = 63 then
      match x.branch with
      | some (.call _) => greadFrom r xs x.nextAddr
      | some _ => greadFrom r xs v
      | none => if x.rft then greadFrom r xs v else none
    else greadFrom r xs v

/-- The value a WREAD of wN finds (01 R25). -/
def wreadFrom (r : BitVec 4) : List Inst → Wide → Option Wide
  | [], v => some v
  | x :: xs, v =>
    if x.hdr.wwmask.getLsbD r.toNat then
      match x.ww.find? (fun p => decide (p.1 = r)) with
      | none => none
      | some (_, .wide u) => wreadFrom r xs u
      | some _ => wreadFrom r xs v
    else wreadFrom r xs v

/-- A global of a context. -/
def Ctx.gr (c : Ctx) (r : BitVec 6) : Word := c.g[r.toNat]'(by have := r.isLt; omega)

/-- Bytes at an address, with no page looked up. -/
def Lane.plain (va : Word) (data : List Byte) : Lane where
  lane := 0
  va := va
  data := data
  asked := false
  leaf := none
  kind := 1

/-- Set a global. -/
def Ctx.setG (c : Ctx) (r : BitVec 6) (v : Word) : Ctx := { c with g := c.g.set r.toNat v (by have := r.isLt; omega) }

/-- A wide global of a context. -/
def Ctx.wr (c : Ctx) (r : BitVec 4) : Wide := c.w[r.toNat]'(by have := r.isLt; omega)

/-- Set a wide global. -/
def Ctx.setW (c : Ctx) (r : BitVec 4) (v : Wide) : Ctx := { c with w := c.w.set r.toNat v (by have := r.isLt; omega) }

/-- The position of a lens that holds an identifier (01 R23). -/
def Ctx.posOf (c : Ctx) (iid : BitVec 7) : Nat := iid.toNat % (if c.width = 0 then 1 else c.width)

/-- The cell of the tower that holds an identifier (01 R22, R23). -/
def Ctx.cellOf (c : Ctx) (iid : BitVec 7) : Nat := c.base + c.posOf iid

/-- The rounding mode of FPMODE.rm with stochastic counted as RNE (03 R73). -/
def Ctx.mode (c : Ctx) : Mode :=
  match c.rm.toNat with
  | 1 => .rtz
  | 2 => .rdn
  | 3 => .rup
  | _ => .rne

/-- Whether FPMODE.rm asks for stochastic rounding. -/
def Ctx.isSto (c : Ctx) : Bool := decide (c.rm = 4)

/-- The rounding mode of the focused context. -/
def State.mode (s : State) : Mode := match s.fctx with
  | some c => c.mode
  | none => .rne

/-- FPMODE.ftz of the focused context. -/
def State.ftz (s : State) : Bool := match s.fctx with
  | some c => c.ftz
  | none => false

/-- Whether the focused context rounds narrowing conversions stochastically. -/
def State.isSto (s : State) : Bool := match s.fctx with
  | some c => c.isSto
  | none => false

/-- The draws the focused instruction took before its clause was repeated, if it takes as many again (05 R149). -/
def State.keptDraw (s : State) (n : Nat) : Option Draw :=
  s.finst.bind fun x => x.kept.find? fun d => decide (d.iid = s.focus.iid) && decide (d.count = n)

/-- The state from which the focused instruction takes n draws: the generator's of its cell, or that of its own earlier draws (03 R74; 05 R149). -/
def State.genState (s : State) (n : Nat) : BitVec 32 :=
  match s.keptDraw n, s.fctx with
  | some d, _ => d.start
  | none, some c => (c.gens[c.posOf s.focus.iid]?).getD 0
  | none, none => 0

/-- The n draws that follow a generator state, oldest first (03 R74). -/
def draws : (n : Nat) → BitVec 32 → List (BitVec 32)
  | 0, _ => []
  | n + 1, x => genDraw x :: draws n (genDraw x)

/-- A generator n draws further (03 R74). -/
def genAfter (n : Nat) (x : BitVec 32) : BitVec 32 := ((draws n x).getLast?).getD x

/-- The focused instruction takes n draws: the generator of its cell moves on, unless the draws are its own of an earlier run (03 R74; 05 R149). -/
def State.advanceGen (s : State) (n : Nat) : State :=
  match s.keptDraw n, s.fctx with
  | some d, _ => s.onInst fun x => { x with kept := x.kept.erase d, draws := d :: x.draws }
  | none, none => s
  | none, some c =>
    (s.onF fun c => { c with gens := c.gens.modify (c.posOf s.focus.iid) (genAfter n) }).onInst fun x =>
      { x with draws := ⟨s.focus.iid, c.posOf s.focus.iid, s.genState n, n⟩ :: x.draws }

/-- Generators given back the draws of a list that came last, with the draws that must stay taken because others followed them (05 R149). -/
def undraw : (fuel : Nat) → List (BitVec 32) → List Draw → List (BitVec 32) × List Draw
  | 0, gs, ds => (gs, ds)
  | n + 1, gs, ds =>
    match ds.find? fun d => decide (gs[d.pos]? = some (genAfter d.count d.start)) with
    | none => (gs, ds)
    | some d => undraw n (gs.set d.pos d.start) (ds.erase d)

/-- Every position's generator as SRSEED seeds it (03 R74). -/
def Ctx.reseed (c : Ctx) : Ctx := { c with gens := (List.range c.width).map (genSeed c.seed) }

/-! ### Upcall, handler and return -/

/-- CAUSE.mode 00: neither handler nor upcall mode (17 R336). -/
def Ctx.normalMode (c : Ctx) : Bool := decide (c.causeMode = 0)

/-- Taking an upcall at a boundary: RESUME takes the clause address, CAUSE and FADDR the cause, the mode becomes 10, and the task goes on at UPCALL.addr (17 R346). -/
def Ctx.takeUpcall (c : Ctx) (k : Kind) (src : BitVec 3) (va : Word) : Ctx :=
  { c with
    resume := c.pc
    causeCode := BitVec.ofNat 5 k.code
    causeSrc := src
    faddr := va
    causeMode := 2
    pc := c.upcall
    needHandler := true
    upCount := c.upCount + 1 }

/-- Diversion to a handler at a boundary: the message and the resume address become handler state, the mode becomes 01, and the task goes on at the entry's clause (07 R171). -/
def Ctx.takeHandler (c : Ctx) (msg : BitVec 512) (clause : Word) : Ctx :=
  { c with resume := c.pc, hmsg := some msg, causeMode := 1, pc := clause, needHandler := true }

/-- A class written by TPRIO takes effect at a boundary (07 R166). -/
def Ctx.settlePrio (c : Ctx) : Ctx :=
  match c.newPrio with
  | none => c
  | some p => { c with prio := p, newPrio := none }

/-- RFT at commit: the mode becomes 00 and the clause address RESUME, as it stood before the clause (01 R27; 17 R348). -/
def Ctx.returnFromTrap (c : Ctx) (resume : Word) : Ctx := { c with causeMode := 0, pc := resume, hmsg := none }

end Sys2Proof.Machine
end

