-- ==== Sys2Proof/Machine/Branch.lean ====
section
/-! DEFINITION. Sys2Proof/Machine/Branch.lean: the branch class (04 R110 to R119). A branch that fires is recorded; commit carries it out. -/

namespace Sys2Proof.Machine

/-- The target of a format-B branch: the clause address plus the sign-extended offset times 16 (02 R38, 04 R110). -/
def branchTarget (addr : Word) (off : BitVec 20) : Word := addr + off.signExtend 64 * 16#64

/-- A misprediction that a repetition of its clause shows to have been none: its branch now takes the predicted path, and the counts of the squash are taken back (05 R149; 06 R150). -/
def State.unmispredict (s : State) (k : Nat) : State :=
  (s.onF fun c => { c with clFetch := c.clFetch - k, clSquash := c.clSquash - k, brMisp := c.brMisp - 1 }).onInst fun x => { x with misp := none }

/-- Younger instances that an earlier run of the branch led to leave no trace (05 R149). -/
def State.unfetch (s : State) (c : Ctx) : State :=
  (s.dropFrom c.id (s.focus.win + 1)).onF fun x => { x with clFetch := x.clFetch - fetchedCount (c.window.drop (s.focus.win + 1)) }

/-- A branch fires with another target than where the next younger instance stands: the younger ones are squashed and the mispredict counted; those that an earlier run of the branch led to only go (01 R26; 05 R149; 06 R150). -/
def State.resolve (s : State) (target : Word) : State :=
  match s.fctx with
  | none => s
  | some c =>
    match c.window[s.focus.win]? with
    | none => s
    | some x =>
      let next := (c.window[s.focus.win + 1]?).map fun y => y.addr
      let off := decide (next ≠ none ∧ next ≠ some target)
      if off && decide (next = some x.predicted) then
        ((s.squashFrom s.focus.ctx (s.focus.win + 1)).onF fun x => { x with brMisp := x.brMisp + 1 }).onInst fun x =>
          { x with misp := some (fetchedCount (c.window.drop (s.focus.win + 1))) }
      else
        let t := if off then s.unfetch c else s
        match x.misp with
        | some k => if target = x.predicted then t.unmispredict k else t
        | none => t

/-- The predictor learns the target a branch took, for its clause address and its exit; results never depend on it (02 R39). It holds 64 predictions for each task on a lens, the latest first, loses the oldest, and is empty at a dispatch: DESIGN CHOICE, the spec gives it no size and no start (log 94). -/
def Ctx.learn (c : Ctx) (addr : Word) (exit : BitVec 3) (target : Word) : Ctx :=
  { c with predictor :=
      (addr, exit, target) :: (c.predictor.filter fun p => !(decide (p.1 = addr) && decide (p.2.1 = exit))).take 63 }

/-- The focused branch reports its exit and where it leads to the predictor (02 R39). -/
def State.tellPredictor (s : State) (exit : BitVec 3) (target : Word) : State :=
  match s.finst with
  | none => s
  | some x => s.onF fun c => c.learn x.addr exit target

/-- A jump or a call fires: it is recorded, the younger clauses of another path are squashed, the predictor learns (01 R26, 04 R110). -/
def State.takeBranch (s : State) (exit : BitVec 3) (target : Word) (b : BranchOut) : State :=
  ((s.onInst fun y => y.recordBranch b).tellPredictor exit target).resolve target

/-- The focused clause address. -/
def State.faddr (s : State) : Word := match s.finst with
  | some x => x.addr
  | none => 0

/-- BRO (04 R113). -/
def execBro (pr : Pred) (exit : BitVec 3) (off : BitVec 20) (s : State) : Host.Outcome State Fault Refusal :=
  fire s (.bro pr exit off) fun _ t =>
    .fires (t.takeBranch exit (branchTarget t.faddr off) (.jump (branchTarget t.faddr off)))

/-- BR (04 R113). -/
def execBr (pr : Pred) (s : State) : Host.Outcome State Fault Refusal :=
  fire s (.br pr) fun v t => .fires (t.takeBranch 7 v.a.bits (.jump v.a.bits))

/-- CALLO: a branch whose commit writes the link to g63 (04 R114). -/
def execCallo (pr : Pred) (exit : BitVec 3) (off : BitVec 20) (s : State) : Host.Outcome State Fault Refusal :=
  fire s (.callo pr exit off) fun _ t =>
    .fires (t.takeBranch exit (branchTarget t.faddr off) (.call (branchTarget t.faddr off)))

/-- CALL (04 R114). -/
def execCall (pr : Pred) (s : State) : Host.Outcome State Fault Refusal :=
  fire s (.call pr) fun v t => .fires (t.takeBranch 7 v.a.bits (.call v.a.bits))

/-- RET: a branch; it differs from BR only in prediction (04 R115). -/
def execRet (pr : Pred) (s : State) : Host.Outcome State Fault Refusal :=
  fire s (.ret pr) fun v t => .fires (t.takeBranch 7 v.a.bits (.jump v.a.bits))

/-- The address of the clause behind the focused one (01 R10). -/
def State.fnext (s : State) : Word := match s.finst with
  | some x => x.nextAddr
  | none => 0

/-- EXITT: the task ends at the commit of its clause (04 R116). -/
def execExitt (pr : Pred) (s : State) : Host.Outcome State Fault Refusal :=
  fire s (.exitt pr) fun _ t => .fires ((t.onInst fun y => y.recordBranch .exitt).tellPredictor 7 t.fnext)

/-- YIELD: at commit the task gives its lens back and resumes at the target (04 R117). -/
def execYield (pr : Pred) (exit : BitVec 3) (off : BitVec 20) (s : State) : Host.Outcome State Fault Refusal :=
  fire s (.yield pr exit off) fun _ t =>
    .fires ((t.onInst fun y => y.recordBranch (.yield (branchTarget t.faddr off))).tellPredictor exit (branchTarget t.faddr off))

/-- SCALL: at commit the task stops for a service request (04 R118). -/
def execScall (pr : Pred) (exit : BitVec 3) (svc : BitVec 20) (s : State) : Host.Outcome State Fault Refusal :=
  fire s (.scall pr exit svc) fun _ t => .fires ((t.onInst fun y => y.recordBranch (.scall svc)).tellPredictor exit t.fnext)

end Sys2Proof.Machine
end

