-- ==== Sys2Proof/Machine/ScalarFp.lean ====
section
/-! DEFINITION. Sys2Proof/Machine/ScalarFp.lean: scalar floating point (04 R101 to R109). -/

namespace Sys2Proof.Machine

/-- The format of a scalar type (02 R42). -/
def ftyFmt : FTy → FloatFmt
  | .f64 => .fp64
  | .f32 => .fp32
  | .f16 => .fp16
  | .bf16 => .bf16

/-- The value a scalar token holds for a type, read under ftz; bits above the type are ignored (04 R86, R101). -/
def rd (s : State) (y : FTy) (t : Token) : Val := (ftyFmt y).read s.ftz t.bits.toNat

/-- A result rounded once to the type under FPMODE, with its flags (04 R101). -/
def wr (s : State) (y : FTy) (r : Val × Flags) : Word × Flags :=
  let o := (ftyFmt y).write s.ftz s.mode r.1
  (w64 o.1, r.2 ||| o.2)

/-- The classes of FCLASS as one bit (04 R109). -/
def classWord (f : FloatFmt) (x : Nat) : Word :=
  let v := f.decode x
  match v with
  | .inf true => 1#64
  | .fin true _ _ => if f.isSubnormal v then 4#64 else 2#64
  | .zero true => 8#64
  | .zero false => 16#64
  | .fin false _ _ => if f.isSubnormal v then 32#64 else 64#64
  | .inf false => 128#64
  | .nan true => 256#64
  | .nan false => 512#64

/-- A comparison with the flag rule of FEQ, FLT and FLE: `quietOk` raises nv only for a signalling NaN (04 R108). -/
def cmpVal (quietOk : Bool) (c : Val → Val → Bool) (x y : Val) : Word × Flags :=
  if x.isNan || y.isNan then (0#64, flagIf (!quietOk || x.isSnan || y.isSnan) fNV)
  else (if c x y then 1#64 else 0#64, 0#5)

/-- FTOI: the integer range of its form, and the delivered word (04 R106). -/
def ftoiWord (sgn : Bool) (mode : Mode) (v : Val) : Word × Flags :=
  let lo : Int := if sgn then -(2 ^ 63) else 0
  let hi : Int := if sgn then 2 ^ 63 - 1 else 2 ^ 64 - 1
  let r := toIntVal mode lo hi v
  (BitVec.ofInt 64 r.1, r.2)

/-- Significand bits of a scalar type, the count that decides what narrows (03 R73). -/
def ftySig (y : FTy) : Nat := (ftyFmt y).mb + 1

/-- FCVT of one value: widening is exact and raises no flag; elsewhere a signalling NaN raises nv (04 R105, 03 R75, R76, R78; log 47). -/
def fcvtWord (s : State) (mode : Mode) (y z : FTy) (t : Token) : Word × Flags :=
  let o := (ftyFmt y).write s.ftz mode ((ftyFmt y).widen (ftyFmt z) (rd s z t))
  (w64 o.1, o.2)

/-- FADD: a + b (04 R102). -/
def execFadd (pr : Pred) (y : FTy) (d : Dst) (s : State) : Host.Outcome State Fault Refusal :=
  fireSF s (.fadd pr y d) fun v => wr s y (addVal s.mode (rd s y v.a) (rd s y v.b))

/-- FSUB: a - b (04 R102). -/
def execFsub (pr : Pred) (y : FTy) (d : Dst) (s : State) : Host.Outcome State Fault Refusal :=
  fireSF s (.fsub pr y d) fun v => wr s y (addVal s.mode (rd s y v.a) (rd s y v.b).negate)

/-- FMUL: a times b (04 R102). -/
def execFmul (pr : Pred) (y : FTy) (d : Dst) (s : State) : Host.Outcome State Fault Refusal :=
  fireSF s (.fmul pr y d) fun v => wr s y (mulVal (rd s y v.a) (rd s y v.b))

/-- FDIV: a divided by b (04 R102). -/
def execFdiv (pr : Pred) (y : FTy) (d : Dst) (s : State) : Host.Outcome State Fault Refusal :=
  fireSF s (.fdiv pr y d) fun v => wr s y (divVal (rd s y v.a) (rd s y v.b))

/-- FMIN: minimumNumber (04 R103). -/
def execFmin (pr : Pred) (y : FTy) (d : Dst) (s : State) : Host.Outcome State Fault Refusal :=
  fireSF s (.fmin pr y d) fun v => wr s y (minVal (rd s y v.a) (rd s y v.b))

/-- FMAX: maximumNumber (04 R103). -/
def execFmax (pr : Pred) (y : FTy) (d : Dst) (s : State) : Host.Outcome State Fault Refusal :=
  fireSF s (.fmax pr y d) fun v => wr s y (maxVal (rd s y v.a) (rd s y v.b))

/-- FSQRT (04 R103). -/
def execFsqrt (pr : Pred) (y : FTy) (d : Dst) (s : State) : Host.Outcome State Fault Refusal :=
  fireSF s (.fsqrt pr y d) fun v => wr s y (sqrtVal (rd s y v.a))

/-- FSGN: a with the sign bit of b, a bit operation (04 R103). -/
def execFsgn (pr : Pred) (y : FTy) (d : Dst) (s : State) : Host.Outcome State Fault Refusal :=
  fireS s (.fsgn pr y d) fun v =>
    let f := ftyFmt y
    w64 (f.withSign (f.signOf v.b.bits.toNat) (v.a.bits.toNat % 2 ^ (f.eb + f.mb)))

/-- FFMA: a × b + c (04 R104). -/
def execFfma (pr : Pred) (y : FTy) (d : Dst) (s : State) : Host.Outcome State Fault Refusal :=
  fireSF s (.ffma pr y d) fun v => wr s y (fmaVal s.mode (rd s y v.a) (rd s y v.b) (rd s y v.c))

/-- FFMS: a × b - c (04 R104). -/
def execFfms (pr : Pred) (y : FTy) (d : Dst) (s : State) : Host.Outcome State Fault Refusal :=
  fireSF s (.ffms pr y d) fun v => wr s y (fmaVal s.mode (rd s y v.a) (rd s y v.b) (rd s y v.c).negate)

/-- FFNMA: -(a × b) + c (04 R104). -/
def execFfnma (pr : Pred) (y : FTy) (d : Dst) (s : State) : Host.Outcome State Fault Refusal :=
  fireSF s (.ffnma pr y d) fun v => wr s y (fmaVal s.mode (rd s y v.a).negate (rd s y v.b) (rd s y v.c))

/-- FFNMS: -(a × b) - c (04 R104). -/
def execFfnms (pr : Pred) (y : FTy) (d : Dst) (s : State) : Host.Outcome State Fault Refusal :=
  fireSF s (.ffnms pr y d) fun v => wr s y (fmaVal s.mode (rd s y v.a).negate (rd s y v.b) (rd s y v.c).negate)

/-- FCVT from type z to type y; a narrowing under FPMODE.rm 100 is stochastic and takes one draw (04 R105). -/
def execFcvt (pr : Pred) (y z : FTy) (d : Dst) (s : State) : Host.Outcome State Fault Refusal :=
  fire s (.fcvt pr y z d) fun v t =>
    if t.isSto && decide (ftySig y < ftySig z) then
      let o := fcvtWord t (.sto (genDraw (t.genState 1))) y z v.a
      .fires (((t.advanceGen 1).raise o.2).deliverS (.fcvt pr y z d) o.1)
    else
      let o := fcvtWord t t.mode y z v.a
      .fires ((t.raise o.2).deliverS (.fcvt pr y z d) o.1)

/-- FTOI (04 R106). -/
def execFtoi (pr : Pred) (y : FTy) (sgn trunc : Bool) (d : Dst) (s : State) : Host.Outcome State Fault Refusal :=
  fireSF s (.ftoi pr y sgn trunc d) fun v => ftoiWord sgn (if trunc then .rtz else s.mode) (rd s y v.a)

/-- ITOF (04 R107). -/
def execItof (pr : Pred) (y : FTy) (sgn : Bool) (d : Dst) (s : State) : Host.Outcome State Fault Refusal :=
  fireSF s (.itof pr y sgn d) fun v =>
    wr s y (Val.ofInt (if sgn then v.a.bits.toInt else (v.a.bits.toNat : Int)) 0, 0#5)

/-- FEQ (04 R108). -/
def execFeq (pr : Pred) (y : FTy) (d : Dst) (s : State) : Host.Outcome State Fault Refusal :=
  fireSF s (.feq pr y d) fun v => cmpVal true eqVal (rd s y v.a) (rd s y v.b)

/-- FLT (04 R108). -/
def execFlt (pr : Pred) (y : FTy) (d : Dst) (s : State) : Host.Outcome State Fault Refusal :=
  fireSF s (.flt pr y d) fun v => cmpVal false ltVal (rd s y v.a) (rd s y v.b)

/-- FLE (04 R108). -/
def execFle (pr : Pred) (y : FTy) (d : Dst) (s : State) : Host.Outcome State Fault Refusal :=
  fireSF s (.fle pr y d) fun v => cmpVal false (fun x y => !ltVal y x) (rd s y v.a) (rd s y v.b)

/-- FCLASS: the class of the bits as they are (04 R109). -/
def execFclass (pr : Pred) (y : FTy) (d : Dst) (s : State) : Host.Outcome State Fault Refusal :=
  fireS s (.fclass pr y d) fun v => classWord (ftyFmt y) v.a.bits.toNat

end Sys2Proof.Machine
end

