-- ==== Sys2Proof/Machine/Wide.lean ====
section
/-! DEFINITION. Sys2Proof/Machine/Wide.lean: lanes, wide integer and floating-point arithmetic, compares, selection and lane movement (05 R121 to R129). -/

namespace Sys2Proof.Machine

/-- Bits of a lane of a shape (02 R43). -/
def Shape.bits : Shape → Nat
  | .e8 => 8
  | .e16 => 16
  | .e32 => 32
  | .e64 => 64

/-- The number packed from lanes of e bits, lane 0 lowest (01 R14). -/
def packNat (e : Nat) : List Nat → Nat
  | [] => 0
  | x :: xs => x % 2 ^ e + 2 ^ e * packNat e xs

/-- n lanes of e bits of a number, lane 0 first (01 R14). -/
def lanesNat (e : Nat) : (n : Nat) → Nat → List Nat
  | 0, _ => []
  | n + 1, v => v % 2 ^ e :: lanesNat e n (v / 2 ^ e)

/-- The lanes of a wide value. -/
def lanesOf (e : Nat) (v : Wide) : List Nat := lanesNat e (512 / e) v.toNat

/-- A wide value from its lanes. -/
def packWide (e : Nat) (xs : List Nat) : Wide := BitVec.ofNat 512 (packNat e xs)

/-- A lane read as a signed number. -/
def sgnOf (e x : Nat) : Int := if x < 2 ^ (e - 1) then (x : Int) else (x : Int) - 2 ^ e

/-- A number as a lane of e bits. -/
def laneOf (e : Nat) (x : Int) : Nat := (x % 2 ^ e).toNat

/-- Lane by lane (05 R121). -/
def mapLanes2 (e : Nat) (f : Nat → Nat → Nat) (a b : Wide) : Wide :=
  packWide e (List.zipWith f (lanesOf e a) (lanesOf e b))

/-- A lane shifted right with copies of its top bit (05 R123). -/
def sraLane (e x n : Nat) : Nat := laneOf e (sgnOf e x / 2 ^ n)

/-- A wide integer instruction (05 R123). -/
def fireLanes (s : State) (i : Instr) (e : Nat) (f : Nat → Nat → Nat) : Host.Outcome State Fault Refusal :=
  fireW s i fun v => mapLanes2 e f v.a.wbits v.b.wbits

/-- The format of a wide type (02 R43). -/
def vtyFmt : VTy → FloatFmt
  | .f32 => .fp32
  | .f16 => .fp16
  | .bf16 => .bf16

/-- Bits of a lane of a wide type. -/
def vtyBits : VTy → Nat
  | .f32 => 32
  | .f16 => 16
  | .bf16 => 16

/-- The lanes of a wide value as exact values, read under ftz (05 R124). -/
def rdLanes (s : State) (y : VTy) (t : Token) : List Val :=
  (lanesOf (vtyBits y) t.wbits).map fun x => (vtyFmt y).read s.ftz x

/-- Pack lanes and OR their flags (05 R121). -/
def packFl (e : Nat) (xs : List (Nat × Flags)) : Wide × Flags :=
  (packWide e (xs.map fun x => x.1), xs.foldl (fun fl x => fl ||| x.2) 0#5)

/-- One lane result rounded to the type under FPMODE, stochastic as RNE (05 R124). -/
def wrLane (s : State) (y : VTy) (r : Val × Flags) : Nat × Flags :=
  let o := (vtyFmt y).write s.ftz s.mode r.1
  (o.1, r.2 ||| o.2)

/-- A wide FP instruction of one operand. -/
def vf1 (s : State) (y : VTy) (f : Val → Val × Flags) (v : Vals) : Wide × Flags :=
  packFl (vtyBits y) ((rdLanes s y v.a).map fun a => wrLane s y (f a))

/-- A wide FP instruction of two operands. -/
def vf2 (s : State) (y : VTy) (f : Val → Val → Val × Flags) (v : Vals) : Wide × Flags :=
  packFl (vtyBits y) (List.zipWith (fun a b => wrLane s y (f a b)) (rdLanes s y v.a) (rdLanes s y v.b))

/-- A wide fused instruction: the signs of the product and of the addend (05 R124). -/
def vf3 (s : State) (y : VTy) (np nc : Bool) (v : Vals) : Wide × Flags :=
  packFl (vtyBits y)
    (List.zipWith
      (fun ab c => wrLane s y (fmaVal s.mode (if np then ab.1.negate else ab.1) ab.2 (if nc then c.negate else c)))
      (List.zip (rdLanes s y v.a) (rdLanes s y v.b)) (rdLanes s y v.c))

/-- A lane of VEXP2 or VLOG2, with flush to zero of its result; which neighbour an inexact result takes is free (05 R125, log 5). -/
def expLogLane (s : State) (y : VTy) (op : Nat) (x : Nat) : Nat × Flags :=
  let f := vtyFmt y
  let v := f.read s.ftz x
  let up := Config.faithfulUp op y.code x
  let r := if op = 0 then f.exp2 up v else f.log2 up v
  if s.ftz && f.isSubnormal (f.decode r.1) then (f.withSign (f.signOf r.1) 0, r.2 ||| fUF ||| fNX) else r

/-- A lane of all ones when a condition holds (05 R126). -/
def maskLane (e : Nat) (c : Bool) : Nat := if c then 2 ^ e - 1 else 0

/-- The condition of VCMP on two lanes (05 R126). -/
def vcondHolds (c : VCond) (e x y : Nat) : Bool :=
  match c with
  | .eq => decide (x = y)
  | .ne => decide (x ≠ y)
  | .lt => decide (sgnOf e x < sgnOf e y)
  | .ltu => decide (x < y)

/-- The condition of VFCMP on two lanes, with its flag (05 R126). -/
def vfcondHolds (c : VFCond) (x y : Val) : Bool × Flags :=
  let nan := x.isNan || y.isNan
  let sig := x.isSnan || y.isSnan
  match c with
  | .eq => (!nan && eqVal x y, flagIf sig fNV)
  | .lt => (!nan && ltVal x y, flagIf nan fNV)
  | .le => (!nan && !ltVal y x, flagIf nan fNV)
  | .un => (nan, flagIf sig fNV)

/-- VSHUF: lane j is lane (b_j mod n) of a, or zero when the top bit of b_j is set (05 R129). -/
def shuffle (e : Nat) (a b : Wide) : Wide :=
  let xs := lanesOf e a
  packWide e ((lanesOf e b).map fun j => if j ≥ 2 ^ (e - 1) then 0 else (xs[j % (512 / e)]?).getD 0)

/-- VADD (05 R123). -/
def execVadd (pr : Pred) (sh : Shape) (d : Dst) (s : State) : Host.Outcome State Fault Refusal :=
  fireLanes s (.vadd pr sh d) (Shape.bits sh) fun x y => x + y

/-- VSUB (05 R123). -/
def execVsub (pr : Pred) (sh : Shape) (d : Dst) (s : State) : Host.Outcome State Fault Refusal :=
  fireLanes s (.vsub pr sh d) (Shape.bits sh) fun x y => laneOf (Shape.bits sh) ((x : Int) - (y : Int))

/-- VMUL: the low half (05 R123). -/
def execVmul (pr : Pred) (sh : Shape) (d : Dst) (s : State) : Host.Outcome State Fault Refusal :=
  fireLanes s (.vmul pr sh d) (Shape.bits sh) fun x y => x * y

/-- VMULH: the high half of the signed product (05 R123). -/
def execVmulh (pr : Pred) (sh : Shape) (d : Dst) (s : State) : Host.Outcome State Fault Refusal :=
  fireLanes s (.vmulh pr sh d) (Shape.bits sh) fun x y => laneOf (Shape.bits sh) (sgnOf (Shape.bits sh) x * sgnOf (Shape.bits sh) y / 2 ^ (Shape.bits sh))

/-- VMIN, signed (05 R123). -/
def execVmin (pr : Pred) (sh : Shape) (d : Dst) (s : State) : Host.Outcome State Fault Refusal :=
  fireLanes s (.vmin pr sh d) (Shape.bits sh) fun x y => if sgnOf (Shape.bits sh) y < sgnOf (Shape.bits sh) x then y else x

/-- VMAX, signed (05 R123). -/
def execVmax (pr : Pred) (sh : Shape) (d : Dst) (s : State) : Host.Outcome State Fault Refusal :=
  fireLanes s (.vmax pr sh d) (Shape.bits sh) fun x y => if sgnOf (Shape.bits sh) x < sgnOf (Shape.bits sh) y then y else x

/-- VAND (05 R123). -/
def execVand (pr : Pred) (sh : Shape) (d : Dst) (s : State) : Host.Outcome State Fault Refusal :=
  fireLanes s (.vand pr sh d) (Shape.bits sh) fun x y => x &&& y

/-- VOR (05 R123). -/
def execVor (pr : Pred) (sh : Shape) (d : Dst) (s : State) : Host.Outcome State Fault Refusal :=
  fireLanes s (.vor pr sh d) (Shape.bits sh) fun x y => x ||| y

/-- VXOR (05 R123). -/
def execVxor (pr : Pred) (sh : Shape) (d : Dst) (s : State) : Host.Outcome State Fault Refusal :=
  fireLanes s (.vxor pr sh d) (Shape.bits sh) fun x y => x ^^^ y

/-- VSHL by the low bits of the lane of b (05 R123). -/
def execVshl (pr : Pred) (sh : Shape) (d : Dst) (s : State) : Host.Outcome State Fault Refusal :=
  fireLanes s (.vshl pr sh d) (Shape.bits sh) fun x y => x * 2 ^ (y % (Shape.bits sh))

/-- VSHR, logical (05 R123). -/
def execVshr (pr : Pred) (sh : Shape) (d : Dst) (s : State) : Host.Outcome State Fault Refusal :=
  fireLanes s (.vshr pr sh d) (Shape.bits sh) fun x y => x / 2 ^ (y % (Shape.bits sh))

/-- VSRA, arithmetic (05 R123). -/
def execVsra (pr : Pred) (sh : Shape) (d : Dst) (s : State) : Host.Outcome State Fault Refusal :=
  fireLanes s (.vsra pr sh d) (Shape.bits sh) fun x y => sraLane (Shape.bits sh) x (y % (Shape.bits sh))

/-- VFADD (05 R124). -/
def execVfadd (pr : Pred) (y : VTy) (d : Dst) (s : State) : Host.Outcome State Fault Refusal :=
  fireWF s (.vfadd pr y d) (vf2 s y (fun a b => addVal s.mode a b))

/-- VFSUB (05 R124). -/
def execVfsub (pr : Pred) (y : VTy) (d : Dst) (s : State) : Host.Outcome State Fault Refusal :=
  fireWF s (.vfsub pr y d) (vf2 s y (fun a b => addVal s.mode a b.negate))

/-- VFMUL (05 R124). -/
def execVfmul (pr : Pred) (y : VTy) (d : Dst) (s : State) : Host.Outcome State Fault Refusal :=
  fireWF s (.vfmul pr y d) (vf2 s y (mulVal))

/-- VFDIV (05 R124). -/
def execVfdiv (pr : Pred) (y : VTy) (d : Dst) (s : State) : Host.Outcome State Fault Refusal :=
  fireWF s (.vfdiv pr y d) (vf2 s y (divVal))

/-- VFMIN (05 R124). -/
def execVfmin (pr : Pred) (y : VTy) (d : Dst) (s : State) : Host.Outcome State Fault Refusal :=
  fireWF s (.vfmin pr y d) (vf2 s y (minVal))

/-- VFMAX (05 R124). -/
def execVfmax (pr : Pred) (y : VTy) (d : Dst) (s : State) : Host.Outcome State Fault Refusal :=
  fireWF s (.vfmax pr y d) (vf2 s y (maxVal))

/-- VFSQRT (05 R124). -/
def execVfsqrt (pr : Pred) (y : VTy) (d : Dst) (s : State) : Host.Outcome State Fault Refusal :=
  fireWF s (.vfsqrt pr y d) (vf1 s y sqrtVal)

/-- VRCP: 1 / a, rounded once (05 R125). -/
def execVrcp (pr : Pred) (y : VTy) (d : Dst) (s : State) : Host.Outcome State Fault Refusal :=
  fireWF s (.vrcp pr y d) (vf1 s y rcpVal)

/-- VRSQ: 1 / √a, rounded once (05 R125). -/
def execVrsq (pr : Pred) (y : VTy) (d : Dst) (s : State) : Host.Outcome State Fault Refusal :=
  fireWF s (.vrsq pr y d) (vf1 s y rsqVal)

/-- VEXP2, rounded faithfully (05 R125). -/
def execVexp2 (pr : Pred) (y : VTy) (d : Dst) (s : State) : Host.Outcome State Fault Refusal :=
  fireWF s (.vexp2 pr y d) fun v => packFl (vtyBits y) ((lanesOf (vtyBits y) v.a.wbits).map (expLogLane s y 0))

/-- VLOG2, rounded faithfully (05 R125). -/
def execVlog2 (pr : Pred) (y : VTy) (d : Dst) (s : State) : Host.Outcome State Fault Refusal :=
  fireWF s (.vlog2 pr y d) fun v => packFl (vtyBits y) ((lanesOf (vtyBits y) v.a.wbits).map (expLogLane s y 1))

/-- VFFMA: a × b + c (05 R124). -/
def execVffma (pr : Pred) (y : VTy) (d : Dst) (s : State) : Host.Outcome State Fault Refusal :=
  fireWF s (.vffma pr y d) (vf3 s y false false)

/-- VFFMS: a × b - c (05 R124). -/
def execVffms (pr : Pred) (y : VTy) (d : Dst) (s : State) : Host.Outcome State Fault Refusal :=
  fireWF s (.vffms pr y d) (vf3 s y false true)

/-- VFFNMA: -(a × b) + c (05 R124). -/
def execVffnma (pr : Pred) (y : VTy) (d : Dst) (s : State) : Host.Outcome State Fault Refusal :=
  fireWF s (.vffnma pr y d) (vf3 s y true false)

/-- VFFNMS: -(a × b) - c (05 R124). -/
def execVffnms (pr : Pred) (y : VTy) (d : Dst) (s : State) : Host.Outcome State Fault Refusal :=
  fireWF s (.vffnms pr y d) (vf3 s y true true)

/-- VCMP (05 R126). -/
def execVcmp (pr : Pred) (sh : Shape) (cond : VCond) (d : Dst) (s : State) : Host.Outcome State Fault Refusal :=
  fireLanes s (.vcmp pr sh cond d) (Shape.bits sh) fun x y => maskLane (Shape.bits sh) (vcondHolds cond (Shape.bits sh) x y)

/-- VFCMP (05 R126). -/
def execVfcmp (pr : Pred) (y : VTy) (cond : VFCond) (d : Dst) (s : State) : Host.Outcome State Fault Refusal :=
  fireWF s (.vfcmp pr y cond d) fun v =>
    packFl (vtyBits y)
      (List.zipWith (fun a b => (maskLane (vtyBits y) (vfcondHolds cond a b).1, (vfcondHolds cond a b).2))
        (rdLanes s y v.a) (rdLanes s y v.b))

/-- VSEL: lane of a where the lane of c is not zero, else of b (05 R127). -/
def execVsel (pr : Pred) (sh : Shape) (d : Dst) (s : State) : Host.Outcome State Fault Refusal :=
  fireW s (.vsel pr sh d) fun v =>
    packWide (Shape.bits sh)
      (List.zipWith (fun ab m => if m ≠ 0 then ab.1 else ab.2)
        (List.zip (lanesOf (Shape.bits sh) v.a.wbits) (lanesOf (Shape.bits sh) v.b.wbits))
        (lanesOf (Shape.bits sh) v.c.wbits))

/-- VBCAST (05 R128). -/
def execVbcast (pr : Pred) (sh : Shape) (d : Dst) (s : State) : Host.Outcome State Fault Refusal :=
  fireW s (.vbcast pr sh d) fun v =>
    packWide (Shape.bits sh) (List.replicate (512 / Shape.bits sh) (v.a.bits.toNat % 2 ^ Shape.bits sh))

/-- VEXTR (05 R128). -/
def execVextr (pr : Pred) (sh : Shape) (d : Dst) (s : State) : Host.Outcome State Fault Refusal :=
  fireS s (.vextr pr sh d) fun v =>
    w64 (((lanesOf (Shape.bits sh) v.a.wbits)[v.b.bits.toNat % (512 / Shape.bits sh)]?).getD 0)

/-- VINS (05 R128). -/
def execVins (pr : Pred) (sh : Shape) (d : Dst) (s : State) : Host.Outcome State Fault Refusal :=
  fireW s (.vins pr sh d) fun v =>
    packWide (Shape.bits sh)
      ((lanesOf (Shape.bits sh) v.a.wbits).set (v.b.bits.toNat % (512 / Shape.bits sh)) (v.c.bits.toNat % 2 ^ Shape.bits sh))

/-- VSHUF (05 R129). -/
def execVshuf (pr : Pred) (sh : Shape) (d : Dst) (s : State) : Host.Outcome State Fault Refusal :=
  fireW s (.vshuf pr sh d) fun v => shuffle (Shape.bits sh) v.a.wbits v.b.wbits

end Sys2Proof.Machine
end

