-- ==== Sys2Proof/Machine/Formats.lean ====
section
/-! DEFINITION. Sys2Proof/Machine/Formats.lean: the 32 format codes, conversion and quantisation (03 R62 to R79). -/

namespace Sys2Proof.Machine

/-- What an element of a format is (03 R62 to R71). -/
inductive Elem where
  | int (n : Nat)
  | uint (n : Nat)
  | tern
  | bin
  /-- A float in a container of c bits, its code in the top bits. -/
  | flt (f : FloatFmt) (c : Nat)
  /-- MXINT8: an integer times 2^-6. -/
  | mxint
  /-- SX: sign and m magnitude bits. -/
  | sx (m : Nat)
  deriving DecidableEq, Repr

/-- The scale of a block or group (03 R67, R69, R71). -/
inductive Scale where
  | none
  | e8m0
  | sx
  /-- BF16 with the largest element magnitude L. -/
  | group (l : Nat)
  deriving DecidableEq, Repr

/-- The element of a format code (03 R62). -/
def fmtElem (code : Nat) : Elem :=
  match code with
  | 0 => .int 2 | 1 => .uint 2 | 2 => .int 4 | 3 => .uint 4 | 4 => .int 8 | 5 => .uint 8 | 6 => .int 16
  | 7 => .tern | 8 => .bin
  | 9 => .flt .e2m1 4 | 10 => .flt .e2m3 6 | 11 => .flt .e3m2 6 | 12 => .flt .e4m3 8 | 13 => .flt .e5m2 8
  | 14 => .flt .e3m4 8 | 15 => .flt .fp16 16 | 16 => .flt .bf16 16 | 17 => .flt .e8m10 32 | 18 => .flt .fp32 32
  | 19 => .flt .e2m1 4 | 20 => .flt .e2m3 6 | 21 => .flt .e3m2 6 | 22 => .flt .e4m3 8 | 23 => .flt .e5m2 8
  | 24 => .mxint | 25 => .sx 2 | 26 => .sx 4 | 27 => .sx 7
  | 28 => .int 4 | 29 => .int 8 | 30 => .tern
  | _ => .int 3

/-- Element width in bits (03 R62). -/
def Elem.width : Elem → Nat
  | .int n => n
  | .uint n => n
  | .tern => 2
  | .bin => 1
  | .flt _ c => c
  | .mxint => 8
  | .sx m => m + 1

/-- The scale of a format code (03 R62). -/
def fmtScale (code : Nat) : Scale :=
  if 19 ≤ code ∧ code ≤ 24 then .e8m0
  else if 25 ≤ code ∧ code ≤ 27 then .sx
  else if code = 28 then .group 7
  else if code = 29 then .group 127
  else if code = 30 then .group 1
  else .none

/-- Elements of a block or group; 1 for an unscaled format (03 R62). -/
def fmtBlock (code : Nat) : Nat := if code = 30 then 64 else if 19 ≤ code ∧ code ≤ 29 then 32 else 1

/-- Bits of the scale fields of a block (03 R63). -/
def fmtScaleBits (code : Nat) : Nat :=
  match fmtScale code with
  | .none => 0
  | .e8m0 => 8
  | _ => 16

/-- Element width of a code. -/
def fmtWidth (code : Nat) : Nat := (fmtElem code).width

/-- Planes per element: the element width, E8M10 taken as 19 (12 R256). -/
def planeW (code : Nat) : Nat := if code = 17 then 19 else fmtWidth code

/-- Words of scales per row (12 R256). -/
def planeS (code : Nat) : Nat := if 19 ≤ code ∧ code ≤ 30 then 1 else 0

/-- Stored bits of a block (03 R63). -/
def fmtBlockBits (code : Nat) : Nat := fmtScaleBits code + fmtBlock code * fmtWidth code

/-- Whether a code is an unscaled integer format: 0 to 8 and 31 (03 R62). -/
def fmtIsInt (code : Nat) : Bool := decide (code ≤ 8) || decide (code = 31)

/-- A bit planes of a format (03 R62). -/
def fmtPA (code : Nat) : Nat :=
  match code with
  | 0 => 2 | 1 => 2 | 2 => 4 | 3 => 4 | 4 => 8 | 5 => 8 | 6 => 16 | 7 => 2 | 8 => 1
  | 9 => 2 | 10 => 4 | 11 => 3 | 12 => 4 | 13 => 3 | 14 => 5 | 15 => 11 | 16 => 8 | 17 => 11 | 18 => 24
  | 19 => 2 | 20 => 4 | 21 => 3 | 22 => 4 | 23 => 3 | 24 => 8 | 25 => 2 | 26 => 4 | 27 => 7 | 28 => 4 | 29 => 8
  | 30 => 2
  | _ => 3

/-- Whether a format is one of the types FPMODE.ftz applies to: FP32, FP16, BF16, E8M10 (03 R75). -/
def fmtFtz (code : Nat) : Bool := decide (15 ≤ code) && decide (code ≤ 18)

/-- The exact value of an element's bits (03 R64, R65, R66, R69). An SX code with sign 1 and magnitude 0 reads as -0: (-1)^s times zero (log 89). -/
def Elem.decode (e : Elem) (x : Nat) : Val :=
  match e with
  | .int n => Val.ofInt (sgnOf n (x % 2 ^ n)) 0
  | .uint n => Val.ofInt (x % 2 ^ n : Nat) 0
  | .tern => if x % 4 = 1 then .fin false 1 0 else if x % 4 = 3 then .fin true 1 0 else .zero false
  | .bin => .fin (decide (x % 2 = 1)) 1 0
  | .flt f c => f.decode (x % 2 ^ c / 2 ^ (c - f.bits))
  | .mxint => Val.ofInt (sgnOf 8 (x % 256)) (-6)
  | .sx m =>
    let mag := x % 2 ^ m
    if mag = 0 then .zero (decide (x / 2 ^ m % 2 = 1)) else .fin (decide (x / 2 ^ m % 2 = 1)) mag (1 - (m : Int))

/-- A value times a power of two. -/
def Val.scale (v : Val) (k : Int) : Val :=
  match v with
  | .fin n m e => .fin n m (e + k)
  | v => v

/-- Element i of a stream of blocks of a format stored as a dense bit stream, decoded exactly with its scale, which raises no flag, so a NaN element reads as a quiet one (03 R63, R67, R69, R71, R78). An integer zero times a negative or infinite group scale is the IEEE product, -0 or a NaN (log 90). -/
def fmtGet (code : Nat) (bits i : Nat) : Val :=
  let blk := bits / 2 ^ (fmtBlockBits code * (i / fmtBlock code))
  let j := i % fmtBlock code
  let raw := blk / 2 ^ (fmtScaleBits code + fmtWidth code * j) % 2 ^ fmtWidth code
  let v := (fmtElem code).decode raw
  match fmtScale code with
  | .none => v
  | .e8m0 => if blk % 256 = 255 then .nan false else v.quiet.scale ((blk % 256 : Nat) - 127)
  | .sx =>
    if blk % 256 = 255 then .nan false
    else v.scale ((blk % 256 : Nat) - 127 - ((blk / 256 % 256) / 2 ^ (2 * (j / 8)) % 4 : Nat))
  | .group _ =>
    match FloatFmt.bf16.decode (blk % 65536) with
    | .nan _ => .nan false
    | sc => (mulVal v sc).1

/-- n elements of a stream of a format, from element i on. -/
def fmtGetN (code bits i : Nat) : (n : Nat) → List Val
  | 0 => []
  | n + 1 => fmtGet code bits i :: fmtGetN code bits (i + 1) n

/-- An integer put into n bits of two's complement. -/
def intBits (n : Nat) (x : Int) : Nat := laneOf n x

/-- Write one value into an element (03 R64 to R66, R70, R76, R77). An SX magnitude asked for in a directed mode is rounded as the signed value would be (log 89). -/
def Elem.encode (e : Elem) (ftz : Bool) (mode : Mode) (v : Val) : Nat × Flags :=
  match e with
  | .int n => let r := toIntVal mode (-(2 ^ (n - 1))) (2 ^ (n - 1) - 1) v; (intBits n r.1, r.2)
  | .uint n => let r := toIntVal mode 0 (2 ^ n - 1) v; (intBits n r.1, r.2)
  | .tern => let r := toIntVal mode (-1) 1 v; (intBits 2 r.1, r.2)
  | .bin =>
    match v with
    | .nan _ => (0, fNV)
    | .fin true _ _ => (1, 0#5)
    | .inf true => (1, 0#5)
    | _ => (0, 0#5)
  | .flt f c => let r := f.write ftz mode v; (r.1 * 2 ^ (c - f.bits), r.2)
  | .mxint =>
    match v.scale 6 with
    | .nan _ => (0, fNV)
    | .zero _ => (0, 0#5)
    | .inf neg => (intBits 8 (if neg then -127 else 127), fNV)
    | .fin neg m ex =>
      let r := roundInt mode neg m ex
      if r.1 > 127 then (127, fOF ||| fNX)
      else if r.1 < -127 then (intBits 8 (-127), fOF ||| fNX)
      else
        (intBits 8 r.1, flagIf r.2 fNX)
  | .sx m =>
    match v with
    | .fin neg mm ex =>
      let r := roundAt mode neg mm (ex + (m : Int) - 1) 0
      let mag := if r.1 ≥ 2 ^ m then 2 ^ m - 1 else r.1
      (if mag = 0 then 0 else mag + (if neg then 2 ^ m else 0),
        flagIf r.2 fNX ||| flagIf (decide (r.1 ≥ 2 ^ m)) (fOF ||| fNX))
    | _ => (0, 0#5)

/-- The value a conversion between unscaled formats starts from: a widening one raises no flag (03 R78). -/
def fmtWiden (dst src : Nat) (v : Val) : Val :=
  match fmtElem dst, fmtElem src with
  | .flt f _, .flt g _ => f.widen g v
  | _, _ => v

/-- Whether a conversion from a count of significand bits to a format narrows (03 R73). -/
def narrows (dst : Nat) (srcSig : Nat) : Bool := decide (fmtPA dst < srcSig)

/-- The larger of two values by magnitude, both finite or zero. -/
def maxMag (x y : Val) : Val :=
  match x, y with
  | .fin _ m1 e1, .fin _ m2 e2 => if ltVal (.fin false m1 e1) (.fin false m2 e2) then .fin false m2 e2 else .fin false m1 e1
  | .fin _ m e, _ => .fin false m e
  | _, .fin _ m e => .fin false m e
  | _, _ => .zero false

/-- The largest magnitude of a block; NaNs do not count (03 R68, R71). -/
def amaxOf (xs : List Val) : Val := xs.foldl maxMag (.zero false)

/-- Infinities replaced by the largest finite value of the source type, with nv (03 R79); which type that is when the source is itself scaled is log 91. -/
def noInf (src : FloatFmt) (v : Val) : Val × Flags :=
  match v with
  | .inf neg => ((src.decode (src.withSign neg src.maxCode)), fNV)
  | v => (v, 0#5)

/-- Exponent of the largest normal of an MX element (03 R68). -/
def mxEmax (e : Elem) : Int :=
  match e with
  | .flt f _ => if f = .e2m1 ∨ f = .e2m3 then 2 else if f = .e3m2 then 4 else if f = .e4m3 then 8 else 15
  | _ => 0

/-- Clamp to 0 … 254. -/
def clamp254 (x : Int) : Nat := if x < 0 then 0 else if x > 254 then 254 else x.toNat

/-- OR of the flags of elements. -/
def orAll (xs : List (Nat × Flags)) : Flags := xs.foldl (fun fl x => fl ||| x.2) 0#5

/-- Elements of a block, each with its own rounding mode. -/
def encodeEach (f : Mode → Val → Nat × Flags) (modes : List Mode) (xs : List Val) : List (Nat × Flags) :=
  List.zipWith f modes xs

/-- Quantise a block to MX: its bits and flags (03 R68). -/
def quantMx (code : Nat) (modes : List Mode) (xs : List Val) : Nat × Flags :=
  let el := fmtElem code
  match amaxOf xs with
  | .fin _ m e =>
    let x := clamp254 (ilog2 m e - mxEmax el + 127)
    let es := encodeEach (fun md v => el.encode false md (v.scale (127 - (x : Int)))) modes xs
    (x + 256 * packNat el.width (es.map fun p => p.1), orAll es)
  | _ =>
    let es := encodeEach
      (fun md v => match v with
        | .nan s => el.encode false md (.nan s)
        | _ => (0, 0#5)) modes xs
    (256 * packNat el.width (es.map fun p => p.1), orAll es)

/-- Micro-exponent of a sub-block: the largest d up to 3 under which every magnitude fits (03 R70). -/
def sxMu (e : Int) (xs : List Val) : Nat :=
  let fits (d : Nat) : Bool := xs.all fun v =>
    match v with
    | .fin _ m ex => decide (ilog2 m ex < e - (d : Int) + 1)
    | _ => true
  if fits 3 then 3 else if fits 2 then 2 else if fits 1 then 1 else 0

/-- The flag of NaNs in a block or group that becomes NaN whole: a signalling one raises nv (03 R75; log 47). -/
def snanFlag (xs : List Val) : Flags := flagIf (xs.any Val.isSnan) fNV

/-- Quantise a block of 32 to SX: its bits and flags (03 R70). -/
def quantSx (code : Nat) (modes : List Mode) (xs : List Val) : Nat × Flags :=
  let el := fmtElem code
  if xs.any Val.isNan then (255, snanFlag xs)
  else
    let big : Nat := match amaxOf xs with
      | .fin _ m e => clamp254 (ilog2 m e + 127)
      | _ => 0
    let ex : Int := (big : Int) - 127
    let mus := (List.range 4).map fun q => sxMu ex ((xs.drop (8 * q)).take 8)
    let scaled := xs.mapIdx fun i v => v.scale (((mus[i / 8]?).getD 0 : Nat) - ex)
    let es := encodeEach (fun md v => el.encode false md v) modes scaled
    (big + 256 * packNat 2 mus + 65536 * packNat el.width (es.map fun p => p.1), orAll es)

/-- Quantise a group to G4, G8 or T2S: its bits and flags (03 R71, R77). -/
def quantGroup (code l : Nat) (modes : List Mode) (xs : List Val) : Nat × Flags :=
  let el := fmtElem code
  if xs.any Val.isNan then (0x7FC0, snanFlag xs)
  else
    let am := amaxOf xs
    let q := FloatFmt.bf16.encode .rne (divVal am (.fin false l 0)).1
    let ovf := decide (q.1 ≥ 0x7F80)
    let sBits := if ovf then 0x7F7F else q.1
    let sc := FloatFmt.bf16.decode sBits
    if sBits = 0 then (0, flagIf (!am.isZero) (fUF ||| fNX))
    else
      let es := encodeEach
        (fun md v =>
          let r := toIntVal md (-(l : Int)) l (divVal v sc).1
          (intBits el.width r.1, r.2)) modes xs
      (sBits + 65536 * packNat el.width (es.map fun p => p.1), orAll es ||| flagIf ovf (fOF ||| fNX))

/-- Quantise one block or group of a scaled format, infinities replaced first (03 R68, R70, R71, R79). -/
def quantBlock (code : Nat) (src : FloatFmt) (modes : List Mode) (xs : List Val) : Nat × Flags :=
  let ys := xs.map (noInf src)
  let fl := ys.foldl (fun f y => f ||| y.2) 0#5
  let vs := ys.map fun y => y.1
  let r := match fmtScale code with
    | .e8m0 => quantMx code modes vs
    | .sx => quantSx code modes vs
    | .group l => quantGroup code l modes vs
    | .none => (0, 0#5)
  (r.1, r.2 ||| fl)

/-- Cut a list into pieces of n. -/
def chunksOf {α : Type} (n : Nat) : (k : Nat) → List α → List (List α)
  | 0, _ => []
  | k + 1, xs => xs.take n :: chunksOf n k (xs.drop n)

/-- The rounding modes of n elements: stochastic with a draw each, or one fixed mode (03 R74). -/
def modesOf (sto : Bool) (fixed : Mode) (gen : BitVec 32) (n : Nat) : List Mode :=
  if sto then (draws n gen).map Mode.sto else List.replicate n fixed

/-- Write a run of values as a dense bit stream of a format, a last partial block filled with zeros: bits, how many, flags (03 R63; 13 R286; 12 R273). -/
def fmtPut (code : Nat) (src : FloatFmt) (ftz : Bool) (modes : List Mode) (xs : List Val) : Nat × Flags :=
  match fmtScale code with
  | .none =>
    let es := encodeEach (fun md v => (fmtElem code).encode (ftz && fmtFtz code) md v) modes xs
    (packNat (fmtWidth code) (es.map fun p => p.1), orAll es)
  | _ =>
    let b := fmtBlock code
    let nb := (xs.length + b - 1) / b
    let xs' := xs ++ List.replicate (nb * b - xs.length) (Val.zero false)
    let ms' := modes ++ List.replicate (nb * b - modes.length) Mode.rne
    let bs := List.zipWith (fun m x => quantBlock code src m x) (chunksOf b nb ms') (chunksOf b nb xs')
    (packNat (fmtBlockBits code) (bs.map fun p => p.1), orAll bs)

end Sys2Proof.Machine
end

