-- ==== Sys2Proof/Machine/Convert.lean ====
section
/-! DEFINITION. Sys2Proof/Machine/Convert.lean: conversion, quantisation, reductions, scans and dot products (05 R130 to R136). -/

namespace Sys2Proof.Machine

/-- A value of a format read under ftz, which applies to FP32, FP16, BF16 and E8M10 only (03 R75). -/
def fmtFlush (ftz : Bool) (code : Nat) (v : Val) : Val :=
  match fmtElem code with
  | .flt f _ => if ftz && fmtFtz code && f.isSubnormal v then .zero v.neg? else v
  | _ => v

/-- Whether a VCVT control is accepted (05 R130). -/
def vcvtOk (c : Word) : Bool :=
  let src := bitsOf c 0 5
  let dst := bitsOf c 8 5
  let rm := bitsOf c 5 3
  let n := bitsOf c 48 9 + 1
  (decide (src ≤ 18) || decide (src = 31)) && (decide (dst ≤ 18) || decide (dst = 31))
    && (decide (rm ≤ 4) || decide (rm = 7))
    && bitsZero c 13 3 && bitsZero c 25 7 && bitsZero c 41 7 && bitsZero c 57 7
    && decide ((bitsOf c 16 9 + n) * fmtWidth src ≤ 512)
    && decide ((bitsOf c 32 9 + n) * fmtWidth dst ≤ 512)

/-- The fixed mode a VCVT control and FPMODE name, stochastic as RNE (05 R130). -/
def ctlMode (s : State) (rm : Nat) : Mode :=
  match rm with
  | 1 => .rtz
  | 2 => .rdn
  | 3 => .rup
  | 7 => s.mode
  | _ => .rne

/-- The result of an accepted VCVT: token and flags (05 R130). -/
def vcvtWide (s : State) (sto : Bool) (a : Wide) (c : Word) : Wide × Flags :=
  let src := bitsOf c 0 5
  let dst := bitsOf c 8 5
  let n := bitsOf c 48 9 + 1
  let xs := (fmtGetN src a.toNat (bitsOf c 16 9) n).map fun x => fmtWiden dst src (fmtFlush s.ftz src x)
  let modes := modesOf sto (ctlMode s (bitsOf c 5 3)) (s.genState n) n
  let es := encodeEach (fun md v => (fmtElem dst).encode (s.ftz && fmtFtz dst) md v) modes xs
  (BitVec.ofNat 512 (packNat (fmtWidth dst) (es.map fun p => p.1) * 2 ^ (fmtWidth dst * bitsOf c 32 9)), orAll es)

/-- VCVT converts packed elements between formats; a control not accepted delivers poison ILLOP (05 R122, R130). -/
def execVcvt (pr : Pred) (d : Dst) (s : State) : Host.Outcome State Fault Refusal :=
  fire s (.vcvt pr d) fun v t =>
    let c := v.b.bits
    if vcvtOk c then
      let asks : Bool := decide (bitsOf c 5 3 = 4) || (decide (bitsOf c 5 3 = 7) && t.isSto)
      let sto := asks && narrows (bitsOf c 8 5) (fmtPA (bitsOf c 0 5))
      let r := vcvtWide t sto v.a.wbits c
      .fires (((if sto then t.advanceGen (bitsOf c 48 9 + 1) else t).raise r.2).deliverW (.vcvt pr d) r.1)
    else .fires (t.deliverPoison (.vcvt pr d) .illop)

/-- The wide type a two-bit field names (05 R131 to R133). -/
def styOf (n : Nat) : VTy := if n = 0 then .f32 else if n = 1 then .f16 else .bf16

/-- Whether a VQNT control is accepted (05 R131). -/
def vqntOk (c : Word) : Bool :=
  let fmt := bitsOf c 0 5
  let n := bitsOf c 8 3 + 1
  decide (19 ≤ fmt) && decide (fmt ≤ 30) && decide (bitsOf c 6 2 ≠ 3) && bitsZero c 11 53
    && decide (n * fmtBlock fmt ≤ 2 * (512 / vtyBits (styOf (bitsOf c 6 2))))
    && decide (n * fmtBlockBits fmt ≤ 512)

/-- VQNT quantises the lanes of a followed by the lanes of c into blocks (05 R131). -/
def execVqnt (pr : Pred) (d : Dst) (s : State) : Host.Outcome State Fault Refusal :=
  fire s (.vqnt pr d) fun v t =>
    let c := v.b.bits
    if vqntOk c then
      let fmt := bitsOf c 0 5
      let y := styOf (bitsOf c 6 2)
      let n := (bitsOf c 8 3 + 1) * fmtBlock fmt
      let sto := decide (bitsOf c 5 1 = 1) && narrows fmt ((vtyFmt y).mb + 1)
      let xs := (rdLanes t y v.a ++ rdLanes t y v.c).take n
      let r := fmtPut fmt (vtyFmt y) false (modesOf sto .rne (t.genState n) n) xs
      .fires (((if sto then t.advanceGen n else t).raise r.2).deliverW (.vqnt pr d) (BitVec.ofNat 512 r.1))
    else .fires (t.deliverPoison (.vqnt pr d) .illop)

/-- Whether a VDQNT control is accepted (05 R132). -/
def vdqntOk (c : Word) : Bool :=
  let fmt := bitsOf c 0 5
  let nl := 512 / vtyBits (styOf (bitsOf c 5 2))
  decide (19 ≤ fmt) && decide (fmt ≤ 30) && decide (bitsOf c 5 2 ≠ 3)
    && bitsZero c 7 1 && bitsZero c 14 2 && bitsZero c 23 41
    && decide (bitsOf c 8 6 + ((bitsOf c 16 7 + nl - 1) / fmtBlock fmt + 1) * (fmtBlockBits fmt / 8) ≤ 64)

/-- VDQNT decodes elements of packed blocks and rounds them to a type (05 R132). -/
def execVdqnt (pr : Pred) (d : Dst) (s : State) : Host.Outcome State Fault Refusal :=
  fire s (.vdqnt pr d) fun v t =>
    let c := v.b.bits
    if vdqntOk c then
      let y := styOf (bitsOf c 5 2)
      let xs := fmtGetN (bitsOf c 0 5) (v.a.wbits.toNat / 2 ^ (8 * bitsOf c 8 6)) (bitsOf c 16 7) (512 / vtyBits y)
      let r := packFl (vtyBits y) (xs.map fun x => (vtyFmt y).write t.ftz t.mode x)
      .fires ((t.raise r.2).deliverW (.vdqnt pr d) r.1)
    else .fires (t.deliverPoison (.vdqnt pr d) .illop)

/-! ### Reductions and scans -/

/-- Lane bits of the integer shape a field names (05 R133). -/
def redBits (n : Nat) : Nat := 8 * 2 ^ n

/-- Whether a VRED (scan false) or VSCAN (scan true) control is accepted (05 R133). -/
def redOk (scan : Bool) (c : Word) : Bool :=
  let op := bitsOf c 0 4
  let sh := bitsOf c 4 2
  let widen := decide (bitsOf c 6 1 = 1)
  let zx := decide (bitsOf c 7 1 = 1)
  let excl := decide (bitsOf c 8 1 = 1)
  let narrowFadd := decide (op = 8) && (decide (sh = 1) || decide (sh = 2))
  decide (op ≤ 10) && !(decide (op ≥ 8) && decide (sh = 3)) && bitsZero c 9 55
    && (!widen || narrowFadd || (!scan && decide (op = 0)))
    && (!zx || (!scan && widen && decide (op = 0)))
    && (!excl || scan)

/-- An integer reduction step on lanes of e bits (05 R133). -/
def redInt (op e x y : Nat) : Nat :=
  match op with
  | 0 => (x + y) % 2 ^ e
  | 1 => if sgnOf e y < sgnOf e x then y else x
  | 2 => if sgnOf e x < sgnOf e y then y else x
  | 3 => if y < x then y else x
  | 4 => if x < y then y else x
  | 5 => x &&& y
  | 6 => x ||| y
  | _ => x ^^^ y

/-- The identity of an integer scan (05 R135). -/
def redIdent (op e : Nat) : Nat :=
  match op with
  | 1 => 2 ^ (e - 1) - 1
  | 2 => 2 ^ (e - 1)
  | 3 => 2 ^ e - 1
  | 5 => 2 ^ e - 1
  | _ => 0

/-- An FP reduction step: combined exactly, then rounded to the accumulating format (05 R134, R135). -/
def redFp (s : State) (op : Nat) (f : FloatFmt) (x y : Val) : Val × Flags :=
  let r := if op = 8 then addVal s.mode x y else if op = 9 then minVal x y else maxVal x y
  let o := f.write s.ftz s.mode r.1
  (f.decode o.1, r.2 ||| o.2)

/-- The fixed tree of VRED: halves folded together until one is left, `k` times (05 R134). -/
def redTree (f : Val → Val → Val × Flags) : (k : Nat) → List Val → Flags → Val × Flags
  | 0, xs, fl => ((xs.head?).getD (.zero false), fl)
  | k + 1, xs, fl =>
    let h := xs.length / 2
    let ys := List.zipWith f (xs.take h) (xs.drop h)
    redTree f k (ys.map fun y => y.1) (ys.foldl (fun g y => g ||| y.2) fl)

/-- The result of an accepted VRED (05 R134). -/
def vredWord (s : State) (a : Token) (c : Word) : Word × Flags :=
  let op := bitsOf c 0 4
  let sh := bitsOf c 4 2
  let widen := decide (bitsOf c 6 1 = 1)
  if op ≥ 8 then
    let y := styOf sh
    let f : FloatFmt := if widen then .fp32 else vtyFmt y
    let r := redTree (redFp s op f) (Nat.log2 (512 / vtyBits y)) (rdLanes s y a) 0#5
    (w64 (f.encode .rne r.1).1, r.2)
  else
    let e := redBits sh
    let xs := lanesOf e a.wbits
    if widen then
      (BitVec.ofInt 64 ((xs.map fun x : Nat => if bitsOf c 7 1 = 1 then (x : Int) else sgnOf e x).foldl (fun u v => u + v) 0), 0#5)
    else
      let r := match xs with
        | [] => 0
        | x :: rest => rest.foldl (redInt op e) x
      (if op ≤ 2 then BitVec.ofInt 64 (sgnOf e r) else w64 r, 0#5)

/-- VRED (05 R133, R134). -/
def execVred (pr : Pred) (d : Dst) (s : State) : Host.Outcome State Fault Refusal :=
  fire s (.vred pr d) fun v t =>
    if redOk false v.b.bits then
      let r := vredWord t v.a v.b.bits
      .fires ((t.raise r.2).deliverS (.vred pr d) r.1)
    else .fires (t.deliverPoison (.vred pr d) .illop)

/-- Integer scan states lane by lane. -/
def scanInt (op e : Nat) : Nat → List Nat → List Nat
  | _, [] => []
  | acc, x :: xs => redInt op e acc x :: scanInt op e (redInt op e acc x) xs

/-- FP scan states lane by lane, with the flags of each. -/
def scanFp (f : Val → Val → Val × Flags) : Val → List Val → List (Val × Flags)
  | _, [] => []
  | acc, x :: xs =>
    let r := f acc x
    r :: scanFp f r.1 xs

/-- The first combined lane is a result: flushed, a NaN made canonical with nv if signalling (05 R135). -/
def scanFirst (v : Val) : Val × Flags := (if v.isNan then .nan false else v, flagIf v.isSnan fNV)

/-- The result of an accepted VSCAN (05 R135). -/
def vscanWide (s : State) (a : Token) (c : Word) : Wide × Flags :=
  let op := bitsOf c 0 4
  let sh := bitsOf c 4 2
  let widen := decide (bitsOf c 6 1 = 1)
  let excl := decide (bitsOf c 8 1 = 1)
  if op ≥ 8 then
    let y := styOf sh
    let acc : FloatFmt := if widen then .fp32 else vtyFmt y
    let n := 512 / vtyBits y
    let xs := rdLanes s y a
    let xs := if excl then xs.take (n - 1) else xs
    let states : List (Val × Flags) := match xs with
      | [] => []
      | x :: rest => scanFirst x :: scanFp (redFp s op acc) (scanFirst x).1 rest
    let ident : Val := if op = 8 then .zero true else if op = 9 then .inf false else .inf true
    let outs := states.map fun st =>
      let o := (vtyFmt y).write s.ftz s.mode st.1
      (o.1, st.2 ||| o.2)
    packFl (vtyBits y) (if excl then ((vtyFmt y).encode .rne ident).1 |> fun z => (z, 0#5) :: outs else outs)
  else
    let e := redBits sh
    let xs := lanesOf e a.wbits
    let incl := match xs with
      | [] => []
      | x :: rest => x :: scanInt op e x rest
    (packWide e (if excl then redIdent op e :: incl.take (512 / e - 1) else incl), 0#5)

/-- VSCAN (05 R133, R135). -/
def execVscan (pr : Pred) (d : Dst) (s : State) : Host.Outcome State Fault Refusal :=
  fire s (.vscan pr d) fun v t =>
    if redOk true v.b.bits then
      let r := vscanWide t v.a v.b.bits
      .fires ((t.raise r.2).deliverW (.vscan pr d) r.1)
    else .fires (t.deliverPoison (.vscan pr d) .illop)

/-! ### Dot products -/

/-- Whether a VDOT control is accepted (05 R136). -/
def vdotOk (c : Word) : Bool :=
  decide (bitsOf c 0 3 ≤ 6) && bitsZero c 4 60 && !(decide (bitsOf c 3 1 = 1) && decide (bitsOf c 0 3 ≥ 4))

/-- The exact sum of exact products: a NaN or an infinity absorbs, infinities of both signs raising nv also beside a NaN; a zero sum of products that are all -0 is -0, of all +0 is +0, else -0 only in RDN (05 R136). -/
def exactSum (mode : Mode) (ps : List Val) : Val × Flags :=
  let both := ps.any (fun p => decide (p = .inf false)) && ps.any (fun p => decide (p = .inf true))
  if both || ps.any Val.isNan then (.nan false, flagIf both fNV)
  else if ps.any (fun p => decide (p = .inf false)) then (.inf false, 0#5)
  else if ps.any (fun p => decide (p = .inf true)) then (.inf true, 0#5)
  else if ps.all (fun p => decide (p = .zero true)) then (.zero true, 0#5)
  else if ps.all (fun p => decide (p = .zero false)) then (.zero false, 0#5)
  else
    match ps.foldl (fun acc p => (addVal .rne acc p).1) (.zero false) with
    | .zero _ => (.zero (decide (mode = .rdn)), 0#5)
    | v => (v, 0#5)

/-- The result of an accepted VDOT (05 R136). -/
def vdotWord (s : State) (a b : Token) (c : Word) : Word × Flags :=
  let ty := bitsOf c 0 3
  let flip := decide (bitsOf c 3 1 = 1)
  if ty ≥ 4 then
    let y : VTy := if ty = 4 then .f16 else if ty = 5 then .bf16 else .f32
    let ps := List.zipWith mulVal (rdLanes s y a) (rdLanes s y b)
    let r := exactSum s.mode (ps.map fun p => p.1)
    let o := FloatFmt.fp32.write s.ftz s.mode r.1
    (w64 o.1, ps.foldl (fun f p => f ||| p.2) (r.2 ||| o.2))
  else
    let e := if ty ≤ 1 then 8 else 16
    let sa := decide (ty % 2 = 0)
    let sb := xor sa flip
    let val (sg : Bool) (x : Nat) : Int := if sg then sgnOf e x else (x : Int)
    let ps := List.zipWith (fun x y => val sa x * val sb y) (lanesOf e a.wbits) (lanesOf e b.wbits)
    (BitVec.ofInt 64 (ps.foldl (fun acc p => acc + p) 0), 0#5)

/-- VDOT (05 R136). -/
def execVdot (pr : Pred) (d : Dst) (s : State) : Host.Outcome State Fault Refusal :=
  fire s (.vdot pr d) fun v t =>
    if vdotOk v.c.bits then
      let r := vdotWord t v.a v.b v.c.bits
      .fires ((t.raise r.2).deliverS (.vdot pr d) r.1)
    else .fires (t.deliverPoison (.vdot pr d) .illop)

end Sys2Proof.Machine
end

