-- ==== Sys2Proof/Machine/Translate.lean ====
section
/-! DEFINITION. Sys2Proof/Machine/Translate.lean: physical ranges, home slices and the lines their L2 holds, page tables, the walk with its A and D updates and its owner check, the translation caches, the permission caches, and shoot-downs (08 R180 to R199; 10 R235; 13 R292; 20 R392). -/

namespace Sys2Proof.Machine

/-! ### Physical addresses -/

/-- What lies at a physical address (08 R183). -/
inductive PaKind where
  | hbm (tower : Nat)
  | weight (tower offset : Nat)
  | device (offset : Nat)
  | hole
  deriving DecidableEq, Repr

/-- The range a physical address lies in, within its package (08 R183). -/
def paKind (pa : Nat) : PaKind :=
  let x := pa % 2 ^ 46
  let t := x / 2 ^ 38
  if t < 6 && decide (x % 2 ^ 38 < 192 * 2 ^ 30) then .hbm t
  else if 0x20000000000 ≤ x && decide (x < 0x20000000000 + 6 * 2 ^ 30) then
    .weight ((x - 0x20000000000) / 2 ^ 30) ((x - 0x20000000000) % 2 ^ 30)
  else if 0x3F000000000 ≤ x && decide (x < 0x40000000000) then .device (x - 0x3F000000000)
  else .hole

/-- The package a physical address names (08 R183). -/
def paPackage (pa : Nat) : Nat := pa / 2 ^ 46 % 64

/-- Whether a physical address lies on another package (08 R187). -/
def State.isFar (s : State) (pa : Nat) : Bool := decide (paPackage pa ≠ s.self)

/-- The tower that holds a frame of this package. -/
def paTower (pa : Nat) : Option Nat :=
  match paKind pa with
  | .hbm t => some t
  | .weight t _ => some t
  | _ => none

/-- Whether a weight-store region is live; other memory always is. That of another package is open (08 R186; 20 R390; log 18). -/
def State.live (s : State) (pa : Nat) : Bool :=
  match paKind pa with
  | .weight t off => if s.isFar pa then (s.free 22).getLsbD 0 else (s.tower t).wslive.getLsbD (off / 65536)
  | _ => true

/-- Whether a store to a physical address meets an open store; other memory is always open. That of another package is open to choice (08 R184; 20 R390). -/
def State.openAt (s : State) (pa : Nat) : Bool :=
  match paKind pa with
  | .weight t _ => if s.isFar pa then (s.free 22).getLsbD 1 else (s.tower t).wsOpen
  | _ => true

/-- Whether a line of physical memory is poisoned by an uncorrectable error; what another package answers is open (20 R390; 23 R426). -/
def State.badAt (s : State) (pa n : Nat) : Bool :=
  if s.isFar pa then (s.free 22).getLsbD 2
  else s.badLines.any fun l => decide (l * 64 < pa + n) && decide (pa < l * 64 + 64)

/-- Whether a write of n bytes merges into a poisoned line: it covers only a part of it (08 R195; 23 R426). -/
def State.mergeBad (s : State) (pa n : Nat) : Bool :=
  if s.isFar pa then (s.free 22).getLsbD 2 && decide (pa % 64 ≠ 0 ∨ n % 64 ≠ 0)
  else s.badLines.any fun l => decide (l * 64 < pa + n) && decide (pa < l * 64 + 64) && !coversLine l pa n

/-! ### Links -/

/-- The towers a link joins (20 R386). -/
def linkEnds (n : Nat) : Nat × Nat :=
  match n with
  | 0 => (0, 1)
  | 1 => (1, 2)
  | 2 => (3, 4)
  | 3 => (4, 5)
  | 4 => (0, 3)
  | 5 => (1, 4)
  | _ => (2, 5)

/-- Towers reached from a set in one hop over links that are not lost. -/
def State.spread (s : State) (ts : List Nat) : List Nat :=
  (List.range 6).filter fun t => ts.contains t || (List.range 7).any fun n =>
    (match s.links[n]? with
     | some l => l.lostAt.isNone
     | none => false) &&
      ((decide ((linkEnds n).1 = t) && ts.contains (linkEnds n).2) || (decide ((linkEnds n).2 = t) && ts.contains (linkEnds n).1))

/-- Whether a tower reaches another (20 R388). -/
def State.reach (s : State) (a b : Nat) : Bool :=
  (s.links.all fun l => l.lostAt.isNone) || decide (a = b)
    || (s.spread (s.spread (s.spread (s.spread (s.spread [a]))))).contains b

/-- The home slice of a line, 64 slices a tower: the hash chooses among the slices that are not retired (08 R180; 23 R427; log 18). -/
def State.homeSlice (s : State) (tag : Option (BitVec 16)) (line : Nat) : Nat :=
  let live := (List.range 384).filter fun n => !s.retiredSlices.contains n
  (live[Config.homeHash tag line % live.length]?).getD 0

/-- Whether a tower cannot reach the home slice of a line (20 R389). -/
def State.lineCut (s : State) (tw : Nat) (tag : Option (BitVec 16)) (line : Nat) : Bool :=
  !(s.links.all fun l => l.lostAt.isNone) && !s.reach tw (s.homeSlice tag line / 64)

/-- The lines that n bytes from an address up touch. -/
def linesOf (va n : Nat) : List Nat := (List.range ((va % 64 + n + 63) / 64)).map fun k => va / 64 + k

/-- Whether a tower cannot reach the home slice of a line that an access touches (20 R389). -/
def State.homeCut (s : State) (tw : Nat) (tag : Option (BitVec 16)) (va : Word) (n : Nat) : Bool := (linesOf va.toNat n).any fun k => s.lineCut tw tag k

/-! ### The ASID table -/

/-- Qword 0 and 1 of an ASID's entry; fields that are to be zero are not looked at: DESIGN CHOICE, 08 names no fault for them (08 R192; log 87). -/
def State.asidQ (s : State) (asid : BitVec 16) (q : Nat) : Nat :=
  s.preadNat (bitsOf s.asidtab 20 32 * 2 ^ 20 + 16 * asid.toNat + 8 * q) 8

/-- Whether an ASID may be used: live, and v set in its entry; zero fields of the entry that are not zero change nothing: DESIGN CHOICE (08 R192; log 87). -/
def State.asidUsable (s : State) (asid : BitVec 16) : Bool :=
  s.liveAsids.contains asid && decide (s.asidQ asid 0 % 2 = 1)

/-- The physical address of the level-0 table (08 R192). -/
def State.asidRoot (s : State) (asid : BitVec 16) : Nat := s.asidQ asid 0 / 2 ^ 13 % 2 ^ 39 * 2 ^ 13

/-- Whether lines of an ASID are allocated on a second touch only (08 R182, R192). -/
def State.asidSt (s : State) (asid : BitVec 16) : Bool := decide (s.asidQ asid 0 / 2 % 2 = 1)

/-- The stall limit of an ASID in ns (08 R192, 07 R174; 23 R420). -/
def State.stallLimit (s : State) (asid : BitVec 16) : Nat :=
  let x := s.asidQ asid 1 % 2 ^ 20
  s.us (if x = 0 then 1000 else Nat.max 16 (Nat.min x 1000000))

/-- Whether class 0 is permitted to an ASID (08 R192). -/
def State.asidC0 (s : State) (asid : BitVec 16) : Bool := decide (s.asidQ asid 1 / 2 ^ 20 % 2 = 1)

/-! ### Leaves -/

/-- A bit of a leaf (08 R189). -/
def Leaf.bit (l : Leaf) (n : Nat) : Bool := l.raw.getLsbD n

/-- R, W and X of a leaf (08 R189). -/
def Leaf.r (l : Leaf) : Bool := l.bit 1
/-- W of a leaf; a view page counts as having W = 0 (08 R189, 13 R292). -/
def Leaf.w (l : Leaf) : Bool := l.bit 2 && !l.bit 8
/-- X of a leaf. -/
def Leaf.x (l : Leaf) : Bool := l.bit 3
/-- The ordering kind: 0 S, 1 R, 2 U, 3 illegal. -/
def Leaf.kind (l : Leaf) : Nat := bitsOf l.raw 4 2
/-- H: hypothesis-eligible. -/
def Leaf.h (l : Leaf) : Bool := l.bit 6
/-- M: view master. -/
def Leaf.m (l : Leaf) : Bool := l.bit 7
/-- VW: view page. -/
def Leaf.vw (l : Leaf) : Bool := l.bit 8
/-- WS: frame in the weight store. -/
def Leaf.ws (l : Leaf) : Bool := l.bit 10
/-- G: global. -/
def Leaf.glob (l : Leaf) : Bool := l.bit 11
/-- D: written. -/
def Leaf.d (l : Leaf) : Bool := l.bit 13
/-- F: far frame. -/
def Leaf.far (l : Leaf) : Bool := l.bit 53

/-- The tag of a translation: the ASID, or none for a global page (08 R193). -/
def Leaf.tag (l : Leaf) (asid : BitVec 16) : Option (BitVec 16) := if l.glob then none else some asid

/-- The physical address of a virtual one (08 R188). -/
def Leaf.pa (l : Leaf) (va : Word) : Nat :=
  if l.large then bitsOf l.raw 26 26 * 2 ^ 26 + va.toNat % 2 ^ 26
  else bitsOf l.raw 16 36 * 2 ^ 16 + va.toNat % 2 ^ 16

/-- A table entry with a field that must be zero set (08 R189, R190). -/
def tableMalformed (raw : Word) : Bool := !bitsZero raw 1 12 || !bitsZero raw 52 4

/-- A leaf malformed under 08 R190 with the cases 10 R235, 13 R292 and 20 R392 add. -/
def State.leafMalformed (s : State) (l : Leaf) : Bool :=
  let pa := l.pa 0
  !bitsZero l.raw 14 2 || !bitsZero l.raw 54 2 || decide (l.bit 52 ≠ l.large)
    || (l.large && !bitsZero l.raw 16 10)
    || decide (l.ws ≠ (match paKind pa with
        | .weight _ _ => true
        | _ => false))
    || decide (l.far ≠ s.isFar pa) || decide (paKind pa = .hole)
    || (l.h && (l.far || l.ws || l.m || l.vw)) || (l.m && l.vw)
    || (l.far && decide (((s.routes[paPackage pa]?).getD 0).getLsbD 0 = false))

/-- The ordering-kind row of 08 R190 with 10 R235. -/
def Leaf.badKind (l : Leaf) : Bool := decide (l.kind = 3) || (l.h && decide (l.kind = 2))

/-- Whether a leaf allows an access (08 R190). -/
def Leaf.allows (l : Leaf) (acc : Access) : Bool :=
  match acc with
  | .load => l.r
  | .store => l.w
  | .atomic => l.w && l.r
  | .fetch => l.x

/-- Whether an access writes, so that it needs D (08 R191, R194). -/
def Access.writes : Access → Bool
  | .store => true
  | .atomic => true
  | _ => false

/-! ### The walk -/

/-- The two owner entries agree on every frame they share: one mapping, of one tag and VA page, both global ones among them. -/
def Owner.same (o p : Owner) : Bool := decide (o.tag = p.tag) && decide (o.page + p.frame = p.page + o.frame)

/-- Whether an owner entry records a frame. -/
def Owner.has (o : Owner) (frame : Nat) : Bool := decide (o.frame ≤ frame) && decide (frame < o.frame + o.count)

/-- The owner check of one frame (08 R197): it is owned by the mapping, or by none, or the mapping joins fewer than 16 read-only ones. -/
def frameOk (owners : List Owner) (o : Owner) (frame : Nat) : Bool :=
  let own := owners.filter fun p => p.has frame
  own.any (fun p => p.same o) || own.isEmpty
    || (!o.w && own.all (fun p => !p.w)
      && decide ((own.map fun p => (p.tag, p.page + frame - p.frame)).eraseDups.length < 16))

/-- The owner check of 08 R197, frame by frame: the new table, or none for SYNONYM. The owners of the frames of a large leaf change only where an entry begins or ends. -/
def ownerCheck (owners : List Owner) (o : Owner) : Option (List Owner) :=
  let starts := o.frame :: (owners.flatMap fun p => [p.frame, p.frame + p.count]).filter o.has
  if starts.all fun f => frameOk owners o f then
    some (if owners.any fun p => p.same o && p.has o.frame && p.has (o.frame + o.count - 1) then owners else owners ++ [o])
  else none

/-- The walk's last checks on a leaf at `ea`, its owner check, and its A and D updates (08 R190, R191, R197). -/
def State.finishWalk (s : State) (asid : BitVec 16) (va : Word) (acc : Access) (ea : Nat) (l : Leaf) : State × WalkRes :=
  if s.leafMalformed l then (s, .fault .perm va)
  else if l.badKind then (s, .fault .ordkind va)
  else if !l.allows acc then (s, .fault .perm va)
  else
    let frame := l.pa 0 / 65536
    let page := va.toNat / 65536
    let o : Owner := ⟨frame, if l.large then 1024 else 1, l.tag asid, if l.large then page / 1024 * 1024 else page, l.w⟩
    let raw := (l.raw ||| (1#64 <<< 12)) ||| (if acc.writes then 1#64 <<< 13 else 0)
    let s' := if raw = l.raw then s else s.partWrite ea (natToBytes 8 raw.toNat)
    match (if l.far then none else paTower (l.pa 0)) with
    | none => (s', .leaf { l with raw := raw })
    | some t =>
      match ownerCheck (s.tower t).owners o with
      | none => (s, .fault .synonym va)
      | some os => (s'.onTower t fun w => { w with owners := os }, .leaf { l with raw := raw })

/-- One level of the walk and those below it: `n` levels remain, `tab` is the table (08 R188). -/
def State.walkFrom (s : State) (asid : BitVec 16) (va : Word) (acc : Access) : (n : Nat) → (tab : Nat) → State × WalkRes
  | 0, _ => (s, .fault .perm va)
  | n + 1, tab =>
    let ea := tab + 8 * (va.toNat / 2 ^ (16 + 10 * n) % 1024)
    let raw := w64 (s.preadNat ea 8)
    if !raw.getLsbD 0 then (s, .fault .notpres va)
    else if n = 0 then s.finishWalk asid va acc ea ⟨raw, false⟩
    else if n = 1 && raw.getLsbD 52 then s.finishWalk asid va acc ea ⟨raw, true⟩
    else if tableMalformed raw then (s, .fault .perm va)
    else State.walkFrom s asid va acc n (bitsOf raw 13 39 * 2 ^ 13)

/-- The first byte of the scratch window (08 R179). -/
def scratchBase : Nat := 0xFFFFFFFFE00000

/-- A walk of the page tables (08 R188, R190); the scratch window is never translated (08 R179). The engines and the dispatcher use it directly. -/
def State.walk (s : State) (asid : BitVec 16) (va : Word) (acc : Access) : State × WalkRes :=
  if !canonical va 1 || decide (scratchBase ≤ va.toNat) then (s, .fault .perm va)
  else if !s.asidUsable asid then (s, .fault .perm va)
  else s.walkFrom asid va acc 4 (s.asidRoot asid)

/-! ### Translation caches -/

/-- Whether an entry of a translation cache serves a page of an address space (08 R193, R196). -/
def TransEntry.serves (e : TransEntry) (asid : BitVec 16) (page : Nat) : Bool :=
  (decide (e.tag = none) || decide (e.tag = some asid)) && decide (e.page = if e.leaf.large then page / 1024 * 1024 else page)

/-- What a complex answers a request with: its cached entry, one with D = 0 not for an access that writes, else a walk, whose leaf it keeps; a failed walk is not kept; 16,384 entries, the oldest leaving first (DESIGN CHOICE, log 18). The last part tells whether it walked (08 R191, R196). -/
def State.translate (s : State) (tw : Nat) (asid : BitVec 16) (page : Nat) (acc : Access) : State × WalkRes × Bool :=
  let va := w64 (page * 65536)
  match if s.asidUsable asid then (s.tower tw).trans.find? fun e => e.serves asid page && (!acc.writes || e.leaf.d) else none with
  | some e => (s, if e.leaf.allows acc then .leaf e.leaf else .fault .perm va, false)
  | none =>
    match s.walk asid va acc with
    | (t, .fault k a) => (t, .fault k a, true)
    | (t, .leaf l) =>
      let e : TransEntry := ⟨l.tag asid, if l.large then page / 1024 * 1024 else page, l⟩
      (t.onTower tw fun w =>
        let kept := w.trans.filter fun x => !(decide (x.tag = e.tag) && decide (x.page = e.page))
        { w with trans := kept.drop (kept.length - 16383) ++ [e] }, .leaf l, true)

/-! ### L2 lines -/

/-- Whether a request for an access is on its way. -/
def Tower.asked (t : Tower) (r : WalkReq) : Bool := t.walkReqs.contains r || t.walkAns.any fun a => decide (a.req = r)

/-- Whether a slice's second-touch filter holds the bits of a line in either bank (08 R182). -/
def Tower.filterHit (t : Tower) (slice : Nat) (bits : List Nat) : Bool :=
  bits.all (fun b => t.filterOld.contains (slice, b)) || bits.all (fun b => t.filterNew.contains (slice, b))

/-- The home slice serves a load of a line: a miss allocates it, with st = 1 only when the filter has seen it, else the filter takes its bits; a slice holds 16,384 lines, the oldest leaving first (DESIGN CHOICE, log 18). A miss asks the complex of the slice's tower, while that has room; slice k asks as cell 256 + k (08 R177, R182, R196; log 110). Which lines are allocated changes no result. -/
def State.l2Serve (s : State) (asid : BitVec 16) (l : Leaf) (line : Nat) : State :=
  let tag := l.tag asid
  let home := s.homeSlice tag line
  let slice := home % 64
  let bits := [Config.filterHash 0 tag line % 2048, Config.filterHash 1 tag line % 2048]
  let st := s.asidSt asid
  let r : WalkReq := ⟨256 + slice, asid, line / 1024, .load⟩
  s.onTower (home / 64) fun t =>
    if t.l2.any fun x => decide (x.slice = slice) && decide (x.tag = tag) && decide (x.line = line) then t
    else
    let t := if t.asked r || decide (4096 ≤ t.walkReqs.length) then t else { t with walkReqs := t.walkReqs ++ [r] }
    if st && !t.filterHit slice bits then { t with filterNew := t.filterNew ++ (bits.map fun b => (slice, b)).filter fun b => !t.filterNew.contains b }
    else
      let mine := t.l2.filter fun x => decide (x.slice = slice)
      let kept := match mine with
        | [] => t.l2
        | old :: _ => if mine.length < 16384 then t.l2 else t.l2.erase old
      { t with l2 := kept ++ [⟨slice, tag, line, l.pa (w64 (line * 64)) / 65536⟩] }

/-- Lines leave the L2, written back (08 R180, R186, R198, R199). -/
def State.l2Drop (s : State) (f : L2Line → Bool) : State :=
  { s with towers := s.towers.map fun t => { t with l2 := t.l2.filter fun x => !f x } }

/-! ### Permission caches -/

/-- What a lookup in a cell's permission cache answers (08 R194). -/
inductive Perm where
  | ok (l : Leaf)
  | bad (k : Kind)
  | missing
  deriving DecidableEq, Repr

/-- Whether an entry serves a cell's access of a page (08 R193, R194). -/
def PermEntry.serves (e : PermEntry) (cell : Nat) (asid : BitVec 16) (page : Nat) : Bool :=
  decide (e.cell = cell) && (decide (e.tag = none) || decide (e.tag = some asid))
    && (if e.leaf.large then decide (e.page = page / 1024 * 1024) else decide (e.page = page))

/-- The lookup of 08 R194: the entry present is checked at once; D = 0 counts as a miss for an access that writes. -/
def State.permLook (s : State) (tw cell : Nat) (asid : BitVec 16) (va : Word) (acc : Access) : Perm :=
  if !s.asidUsable asid then .bad .perm
  else
    match (s.tower tw).perms.find? fun e => e.serves cell asid (va.toNat / 65536) with
    | none => .missing
    | some e =>
      if !e.leaf.allows acc then .bad .perm
      else if acc.writes && !e.leaf.d then .missing
      else .ok e.leaf

/-- Install an entry; a cell keeps 64, the oldest leaving first: DESIGN CHOICE, the spec names no replacement (08 R194; log 18). -/
def permInstall (ps : List PermEntry) (e : PermEntry) : List PermEntry :=
  let ps := ps.filter fun p => !(decide (p.cell = e.cell) && decide (p.tag = e.tag) && decide (p.page = e.page))
  let mine := ps.filter fun p => decide (p.cell = e.cell)
  let ps := if mine.length < 64 then ps else
    match mine with
    | [] => ps
    | old :: _ => ps.erase old
  ps ++ [e]

/-- Ask the complex for an entry, once; while 4,096 requests wait there, the cell holds its own (08 R194, R196). -/
def State.permAsk (s : State) (tw cell : Nat) (asid : BitVec 16) (va : Word) (acc : Access) : State :=
  let r : WalkReq := ⟨cell, asid, va.toNat / 65536, acc⟩
  if (s.tower tw).asked r || decide (4096 ≤ (s.tower tw).walkReqs.length) then s
  else (s.onTower tw fun t => { t with walkReqs := t.walkReqs ++ [r] }).tick

/-- A fault that reached the cell for an access. -/
def State.permNote (s : State) (tw cell : Nat) (asid : BitVec 16) (va : Word) (acc : Access) : Option Kind :=
  let r : WalkReq := ⟨cell, asid, va.toNat / 65536, acc⟩
  match (s.tower tw).permNotes.find? fun a => decide (a.req = r) with
  | none => none
  | some a =>
    match a.res with
    | .leaf _ => none
    | .fault k _ => some k

/-- An access has taken the fault that reached its cell, or the fetch of a lens has: a later one asks afresh (08 R194, R200). -/
def State.dropNotes (s : State) (tw : Nat) (of_ : WalkReq → Bool) : State :=
  if (s.tower tw).permNotes.any fun a => of_ a.req then s.onTower tw fun t => { t with permNotes := t.permNotes.filter fun a => !of_ a.req } else s

/-- What an access that must wait for its entry gets: the leaf, a fault, or a state that has asked. -/
inductive PermGet where
  | ok (l : Leaf)
  | bad (k : Kind) (s : State)
  | ask (s : State)
  deriving DecidableEq, Repr

/-- The entry for a load, an atomic or a fetch: looked up, else a noted fault, else asked for (08 R194). -/
def State.permGet (s : State) (tw cell : Nat) (asid : BitVec 16) (va : Word) (acc : Access) : PermGet :=
  match s.permLook tw cell asid va acc with
  | .ok l => .ok l
  | .bad k => .bad k s
  | .missing =>
    match s.permNote tw cell asid va acc with
    | some k => .bad k s
    | none => .ask (s.permAsk tw cell asid va acc)

/-- Forget the requests, answers and notes of the cells of a lens, as its instances are squashed: a later access asks afresh (01 R26, 08 R196). -/
def State.forgetAsks (s : State) (c : Ctx) : State :=
  s.onTower c.tower fun t =>
    { t with
      walkReqs := t.walkReqs.filter fun r => !(decide (c.base ≤ r.cell) && decide (r.cell < c.base + c.width))
      walkAns := t.walkAns.filter fun a => !(decide (c.base ≤ a.req.cell) && decide (a.req.cell < c.base + c.width))
      permNotes := t.permNotes.filter fun a => !(decide (c.base ≤ a.req.cell) && decide (a.req.cell < c.base + c.width)) }

/-! ### Shoot-downs -/

/-- Whether a shoot-down names a mapping (08 R199). -/
def ShootForm.hits (f : ShootForm) (tag : Option (BitVec 16)) (page count : Nat) : Bool :=
  match f with
  | .range a p n => decide (tag = some a) && decide (page < p + n) && decide (p < page + count)
  | .whole a => decide (tag = some a)
  | .globals => decide (tag = none)

/-- The steps of a shoot-down in one tower (08 R199). -/
def Tower.shoot (t : Tower) (f : ShootForm) : Tower :=
  { t with
    gen := t.gen + 1
    trans := t.trans.filter fun e => !f.hits e.tag e.page (if e.leaf.large then 1024 else 1)
    l2 := t.l2.filter fun x => !f.hits x.tag (x.line / 1024) 1
    perms := t.perms.filter fun e => !f.hits e.tag e.page (if e.leaf.large then 1024 else 1)
    permNotes := []
    owners := t.owners.filter fun o => !f.hits o.tag o.page o.count }

/-- The shoot-down in every tower of the package (08 R199). -/
def State.shootAll (s : State) (f : ShootForm) : State := { s with towers := s.towers.map fun t => t.shoot f }

/-- Where the leaf of a page lies and what it holds, found without touching A and D (08 R188, R189). -/
def State.leafAt (s : State) (asid : BitVec 16) (va : Nat) : Option (Nat × Leaf) :=
  if !s.asidUsable asid || decide (scratchBase ≤ va) then none
  else
    let e0 := s.asidRoot asid + va / 2 ^ 46 % 1024 * 8
    let t1 := s.preadNat e0 8
    let e1 := t1 / 2 ^ 13 % 2 ^ 39 * 2 ^ 13 + va / 2 ^ 36 % 1024 * 8
    let t2 := s.preadNat e1 8
    let e2 := t2 / 2 ^ 13 % 2 ^ 39 * 2 ^ 13 + va / 2 ^ 26 % 1024 * 8
    let t3 := s.preadNat e2 8
    let e3 := t3 / 2 ^ 13 % 2 ^ 39 * 2 ^ 13 + va / 2 ^ 16 % 1024 * 8
    let t4 := s.preadNat e3 8
    if t1 % 2 = 0 ∨ t2 % 2 = 0 ∨ t3 % 2 = 0 then none
    else if t3 / 2 ^ 52 % 2 = 1 then some (e2, ⟨w64 t3, true⟩)
    else if t4 % 2 = 0 then none
    else some (e3, ⟨w64 t4, false⟩)

end Sys2Proof.Machine
end

