-- ==== Sys2Proof/Machine/Mem.lean ====
section
/-! DEFINITION. Sys2Proof/Machine/Mem.lean: reading and writing bytes of memory through a leaf: hypotheses and versions (10 R231 to R242), device registers (20 R392, R395; 23 R425), dirty masters and view checks (13 R290 to R296), the home slice's part of a store (08 R181 to R186), accesses the part makes on a task's behalf, and the entries it queues for the supervisor (17 R337, R338). -/

namespace Sys2Proof.Machine

/-! ### Hypotheses -/

/-- The table entry of a hypothesis that is not FREE (10 R231). -/
def State.hyp? (s : State) (h : BitVec 12) : Option Hyp := s.hyps.find? fun x => decide (x.n = h)

/-- Follow aliases to the first hypothesis that is not MERGED (10 R242). -/
def finalFrom (hs : List Hyp) : (n : Nat) → BitVec 12 → BitVec 12
  | 0, h => h
  | n + 1, h =>
    match hs.find? fun x => decide (x.n = h) with
    | some x => if x.st = .merged then finalFrom hs n x.parent else h
    | none => h

/-- The final target of a hypothesis (10 R242). -/
def State.hypFinal (s : State) (h : BitVec 12) : BitVec 12 := finalFrom s.hyps 4096 h

/-- The LIVE hypotheses on the path from one up to 0, nearest first (10 R236, R241). -/
def pathFrom (hs : List Hyp) : (n : Nat) → BitVec 12 → List (BitVec 12)
  | 0, _ => []
  | n + 1, h =>
    if h = 0 then []
    else
      match hs.find? fun x => decide (x.n = h) with
      | none => []
      | some x => (if x.st = .live then [h] else []) ++ pathFrom hs n x.parent

/-- The path a load under a hypothesis reads along (10 R236). -/
def State.hypPath (s : State) (h : BitVec 12) : List (BitVec 12) := pathFrom s.hyps 17 (s.hypFinal h)

/-- The version of a line under a hypothesis (10 R238). -/
def State.version? (s : State) (line : Nat) (tag : Option (BitVec 16)) (h : BitVec 12) : Option Version :=
  s.versions.find? fun v => decide (v.line = line) && decide (v.tag = tag) && decide (v.hyp = h)

/-- A byte of a version. -/
def Version.byte? (v : Version) (off : Nat) : Option Byte := (v.bytes.find? fun b => decide (b.1 = off)).map fun b => b.2

/-- The byte the nearest version on a path holds (10 R236). -/
def State.versionByte (s : State) (tag : Option (BitVec 16)) (va : Nat) (path : List (BitVec 12)) : Option Byte :=
  path.findSome? fun h => (s.version? (va / 64) tag h).bind fun v => v.byte? (va % 64)

/-- Set a byte in a list of bytes by offset, offsets rising. -/
def setByte : List (Nat × Byte) → Nat → Byte → List (Nat × Byte)
  | [], o, b => [(o, b)]
  | (x, c) :: rest, o, b =>
    if o < x then (o, b) :: (x, c) :: rest
    else if o = x then (o, b) :: rest
    else (x, c) :: setByte rest o b

/-- Set consecutive bytes. -/
def setBytes (l : List (Nat × Byte)) (o : Nat) : List Byte → List (Nat × Byte)
  | [] => l
  | b :: bs => setBytes (setByte l o b) (o + 1) bs

/-! ### Entries for the supervisor -/

/-- A fault-queue entry with every field zero but its code, class and time (17 R338). -/
def FqEntry.blank (code cls time : Nat) : FqEntry where
  code := code
  cls := cls
  asid := 0
  also := 0
  subject := 0
  clause := 0
  va := 0
  arg := 0
  doneMask := 0
  time := time
  eng := 0
  body := []

/-- Queue an entry for a tower's supervisor; it is written once the queue has room (17 R337). -/
def State.fqPush (s : State) (tw : Nat) (e : FqEntry) : State := s.onTower tw fun t => { t with fqHeld := t.fqHeld ++ [e] }

/-- A class-4 entry: a structure access of the part that failed the walk (17 R338). -/
def State.fqStruct (s : State) (tw : Nat) (asid : BitVec 16) (k : Kind) (subject va : Word) : State :=
  s.fqPush tw { FqEntry.blank k.code 4 s.time with asid := asid, subject := subject, va := va }

/-- A machine-check entry (17 R338, 23 R426). -/
def State.fqMachine (s : State) (tw code : Nat) (va : Word) (arg : BitVec 32) : State :=
  s.fqPush tw { FqEntry.blank code 3 s.time with va := va, arg := arg }

/-- The machine check of an access that met an uncorrectable error (23 R426). -/
def State.eccEntry (s : State) (pa : Nat) : State := if s.isFar pa then s else s.fqMachine ((paTower pa).getD 0) Kind.eccunc.code (w64 pa) 0

/-- Whether a word of scratch shares a byte with n bytes at an offset. -/
def meetsWord (w off n : Nat) : Bool := decide (w * 8 < off + n) && decide (off < w * 8 + 8)

/-- Whether bytes of lens scratch hold an error that cannot be corrected (23 R426). -/
def Ctx.badWord (c : Ctx) (off n : Nat) : Bool := c.badScratch.any fun w => meetsWord w off n

/-- The machine check of an access to a bad word of lens scratch; va holds its address in the window, as it has no physical one (23 R426; log 100). -/
def State.eccScratch (s : State) (c : Ctx) (va : Word) : State := s.fqMachine c.tower Kind.eccunc.code va 0

/-! ### Device registers -/

/-- A qword of a submission window's registers (20 R395). -/
def Window.qword (w : Window) (off : Nat) : Word :=
  match off / 8 with
  | 8 => w.asid.setWidth 64 ||| w64 ((if w.en then 65536 else 0) + (if w.strm then 131072 else 0) + w.rn * 2 ^ 18)
  | 9 => w.ring
  | 10 => w64 w.cn ||| w.cq
  | 11 => w.vec.setWidth 64 ||| w64 (if w.irq then 32768 else 0)
  | 12 => w.wsub.setWidth 64
  | 13 => w.ctail.setWidth 64
  | 14 => w.chead.setWidth 64
  | 15 => w.werr.setWidth 64
  | _ => 0

/-- A window of a tower. -/
def State.window (s : State) (tw w : Nat) : Window := ((s.tower tw).windows[w]?).getD Window.reset

/-- Apply a change to a window. -/
def State.onWindow (s : State) (tw w : Nat) (f : Window → Window) : State :=
  s.onTower tw fun t => { t with windows := t.windows.modify w f }

/-- A mailbox. -/
def State.mbox (s : State) (m : Nat) : Mbox := (s.mboxes[m]?).getD ⟨0, 0⟩

/-- A qword of the device registers, at an offset from their start (20 R392, R395; 23 R425; log 8). -/
def State.devQword (s : State) (off : Nat) : Word :=
  if off < 0x180000 then (s.window (off / 0x40000) (off / 0x1000 % 64)).qword (off % 0x1000)
  else if off < 0x184000 then
    let m := (off - 0x180000) / 0x2000
    let o := (off - 0x180000) % 0x2000
    if o < 8 then (s.mbox m).cmd.setWidth 64 else if o < 16 then (s.mbox m).status else 0
  else if 0x190000 ≤ off ∧ off < 0x190200 then (s.routes[(off - 0x190000) / 8]?).getD 0
  else if 0x190200 ≤ off ∧ off < 0x190208 then w64 s.self
  else 0

/-- Whether an offset lies in a mailbox's buffer (23 R425). -/
def inMboxBuffer (off : Nat) : Bool := decide (0x180000 ≤ off) && decide (off < 0x184000) && decide (0x1000 ≤ (off - 0x180000) % 0x2000)

/-- A byte at a physical address: memory, a mailbox buffer, or a device register. -/
def State.paByte (s : State) (pa : Nat) : Byte :=
  if s.isFar pa then s.mem.get pa
  else
    match paKind pa with
    | .device off =>
      if inMboxBuffer off then s.mem.get pa
      else BitVec.ofNat 8 ((s.devQword (off / 8 * 8)).toNat / 256 ^ (off % 8))
    | _ => s.mem.get pa

/-- n bytes from a physical address up. -/
def State.paBytes (s : State) (pa : Nat) : (n : Nat) → List Byte
  | 0 => []
  | n + 1 => s.paByte pa :: s.paBytes (pa + 1) n

/-- A write of a routing-table entry, or its being ignored and counted (20 R392). -/
def State.routeWrite (s : State) (d : Nat) (v : Word) : State :=
  if !bitsZero v 13 3 || !bitsZero v 20 44 || decide (bitsOf v 16 4 ≥ 12) || decide (d = s.self) || decide (64 ≤ d) then
    { s with routeIgnored := s.routeIgnored + 1 }
  else { s with routes := s.routes.set d v }

/-- A write of a mailbox's command: started unless the status is 0 or shows a boot failure; a code of no command is an error (23 R425; log 22). -/
def State.mboxCommand (s : State) (m : Nat) (cmd : BitVec 16) : State :=
  let b := s.mbox m
  if b.status = 0 || decide (b.status.toNat ≥ 0x100) then s
  else if cmd = 0 || decide (8 < cmd.toNat) then { s with mboxes := s.mboxes.set m ⟨cmd, w64 (2 + (s.free 12).toNat % 0xFE)⟩ }
  else { s with mboxes := s.mboxes.set m ⟨cmd, 0⟩, mboxQueue := s.mboxQueue ++ [m] }

/-- How many updates have been asked for and are not over: one may wait for its quiesce point, and their commands are queued at the mailboxes (23 R425, R428). -/
def State.fwCount (s : State) : Nat := s.mboxQueue.countP fun m => decide ((s.mbox m).cmd = 6)

/-- Whether an update has been asked for and is not over (23 R425, R428). -/
def State.fwAsked (s : State) : Bool := s.fwWait.isSome || decide (0 < s.fwCount)

/-- A write by the part or a host to the device registers outside the submission windows (20 R392, 23 R425; log 8). -/
def State.devWrite (s : State) (pa off : Nat) (bytes : List Byte) : State :=
  if inMboxBuffer off then s.pwrite pa bytes
  else if 0x180000 ≤ off ∧ off < 0x184000 ∧ (off - 0x180000) % 0x2000 = 0 ∧ 2 ≤ bytes.length then
    s.mboxCommand ((off - 0x180000) / 0x2000) (BitVec.ofNat 16 (bytesToNat (bytes.take 2)))
  else if 0x190000 ≤ off ∧ off < 0x190200 ∧ off % 8 = 0 ∧ bytes.length = 8 then
    s.routeWrite ((off - 0x190000) / 8) (w64 (bytesToNat bytes))
  else s

/-! ### Masters and views -/

/-- Bytes of a master element (13 R290). -/
def Master.es (m : Master) : Nat := if m.mfmt = 16 then 2 else 4

/-- The master tile that holds the byte at a virtual address, none for padding (13 R290, R293). -/
def Master.tileOf (m : Master) (va : Nat) : Option Nat :=
  if va < m.mbase ∨ m.mstride = 0 then none
  else
    let i := (va - m.mbase) / m.mstride
    let j := (va - m.mbase) % m.mstride / m.es
    if i < m.nr ∧ j < m.nc then some (i / 64 * (m.nc / 64) + j / 64) else none

/-- Mark a tile dirty for a writer (13 R293). -/
def Master.mark (m : Master) (tile : Nat) (writer : Option (Word × BitVec 16)) : Master :=
  let ws := ((m.dirty.find? fun d => decide (d.1 = tile)).map fun d => d.2).getD []
  let ws := match writer with
    | some w => if ws.contains w then ws else ws ++ [w]
    | none => ws
  { m with dirty := (m.dirty.filter fun d => !decide (d.1 = tile)) ++ [(tile, ws)] }

/-- Mark the tiles that hold n bytes from an address up. -/
def Master.markN (m : Master) (va : Nat) (writer : Option (Word × BitVec 16)) : (n : Nat) → Master
  | 0 => m
  | n + 1 =>
    let m := match m.tileOf va with
      | some t => m.mark t writer
      | none => m
    m.markN (va + 1) writer n

/-- Whether an address means the same byte in two address spaces: they are one, or both map it by a global leaf to one frame (08 R193, R197). -/
def State.sameByte (s : State) (a b : BitVec 16) (va : Nat) : Bool :=
  decide (a = b) || (match s.leafAt a va, s.leafAt b va with
    | some x, some y => x.2.glob && y.2.glob && decide (x.2.pa (w64 va) = y.2.pa (w64 va))
    | _, _ => false)

/-- A write through a leaf with M = 1 marks master tiles dirty (13 R293). -/
def State.markDirty (s : State) (asid : BitVec 16) (va n : Nat) (writer : Option Word) : State :=
  { s with masters := s.masters.map fun m => if s.sameByte m.asid asid va then m.markN va (writer.map fun w => (w, asid)) n else m }

/-- Bytes of 64 elements of a view's row (13 R278, R291). -/
def View.rowBytes (v : View) : Nat :=
  if v.vlay = 3 then 8 * (fmtWidth v.vfmt + planeS v.vfmt)
  else (64 / fmtBlock v.vfmt * fmtBlockBits v.vfmt + 7) / 8

/-- Where row r (0 to 63) of view tile t starts (13 R278, R291). -/
def View.rowAt (v : View) (m : Master) (t r : Nat) : Nat :=
  let tc := m.nc / 64
  let a := t / tc
  let b := t % tc
  let nrs := (if v.sax = 1 then m.nr / 2 ^ v.sc else m.nr) / 64
  let ncs := (if v.sax = 2 then m.nc / 2 ^ v.sc else m.nc) / 64
  let k := if v.sax = 1 then a / nrs else if v.sax = 2 then b / ncs else 0
  let base := v.vbase + k * v.shstride
  let a := a % nrs
  let b := b % ncs
  if v.vlay = 2 then base + (a * ncs + b) * 64 * v.rowBytes + r * v.rowBytes
  else base + (64 * a + r) * v.vstride + b * v.rowBytes

/-- Bytes of such a row that hold elements or scales: those of the scale word of a bit-plane row beyond its scales are padding (12 R256; 13 R278, R291). -/
def View.rowUsed (v : View) : Nat :=
  if v.vlay = 3 then 8 * fmtWidth v.vfmt + 64 / fmtBlock v.vfmt * fmtScaleBits v.vfmt / 8 else v.rowBytes

/-- Whether a view tile's bytes meet an interval. -/
def View.meets (v : View) (m : Master) (t va n : Nat) : Bool :=
  (List.range 64).any fun r => decide (v.rowAt m t r < va + n) && decide (va < v.rowAt m t r + v.rowUsed)

/-- Tiles of a master. -/
def Master.tileCount (m : Master) : Nat := m.nr / 64 * (m.nc / 64)

/-- What a read of view bytes meets (13 R296). -/
inductive ViewRes where
  | ok
  | waits
  | bad (k : Kind)
  deriving DecidableEq, Repr

/-- Whether a view tile is fresh (13 R295). -/
def VTile.fresh (t : VTile) (epoch : BitVec 32) : Bool := decide (t.epoch = some epoch) && !t.faulted

/-- The check of one view tile (13 R296). -/
def VTile.check (t : VTile) (epoch : BitVec 32) : ViewRes :=
  if t.faulted then .bad .viewfault
  else if t.fresh epoch then .ok
  else if t.pol = 0 then .ok
  else if t.pol = 1 then .waits
  else .bad .viewstale

/-- The check a read of n bytes makes of the view tiles it meets, the first that is not in order deciding (13 R296). -/
def State.viewCheck (s : State) (asid : BitVec 16) (va n : Nat) : ViewRes :=
  let met := s.masters.flatMap fun m =>
    if s.sameByte m.asid asid va then
      m.views.flatMap fun v =>
        ((List.range m.tileCount).filter fun t => v.meets m t va n).map fun t =>
          (((v.tiles[t]?).getD ⟨none, false, 0⟩).check ((m.epochs[t]?).getD 0))
    else []
  (met.find? fun r => !decide (r = .ok)).getD .ok

/-! ### One page -/

/-- A byte as a load under a path of hypotheses finds it below the L1 (10 R236). -/
def State.leafByte (s : State) (asid : BitVec 16) (l : Leaf) (va : Word) (path : List (BitVec 12)) : Byte :=
  if l.h && !l.far then (s.versionByte (l.tag asid) va.toNat path).getD (s.paByte (l.pa va))
  else s.paByte (l.pa va)

/-- n bytes within one page. -/
def State.leafBytes (s : State) (asid : BitVec 16) (l : Leaf) (va : Word) (path : List (BitVec 12)) : (n : Nat) → List Byte
  | 0 => []
  | n + 1 => s.leafByte asid l va path :: s.leafBytes asid l (va + 1) path n

/-! ### L1 lines -/

/-- Whether a line of an L1 is one of those an access of n bytes touches. -/
def L1Line.touches (x : L1Line) (tag : Option (BitVec 16)) (va n : Nat) : Bool :=
  decide (x.tag = tag) && decide (va < x.line * 64 + 64) && decide (x.line * 64 < va + n)

/-- The byte of a line that an L1 keeps for itself. -/
def L1Line.byte? (x : L1Line) (off : Nat) : Option Byte := (x.bytes.find? fun b => decide (b.1 = off)).map fun b => b.2

/-- The byte a lens finds in its L1s where it may differ from memory: a U line counts in the L1 that holds it, an update that is still to come is still to come for the whole lens (08 R181; 09 R203, R207). -/
def Ctx.l1Byte (c : Ctx) (pos : Nat) (tag : Option (BitVec 16)) (va : Nat) : Option Byte :=
  c.l1.findSome? fun x => if x.touches tag va 1 && (!x.u || decide (x.pos = pos)) then x.byte? (va % 64) else none

/-- An L1 line has every update of its line. -/
def L1Line.settle (x : L1Line) : L1Line := if x.u then x else { x with bytes := [] }

/-- The slices have forwarded their earlier updates of the lines an access touches to every L1 they reach (08 R181). -/
def State.l1Settle (s : State) (tag : Option (BitVec 16)) (va n : Nat) : State :=
  { s with ctxs := s.ctxs.map fun c : Ctx =>
      { c with l1 := c.l1.map fun x => if x.touches tag va n && !s.lineCut c.tower tag x.line then x.settle else x } }

/-- The bytes an L1 line still has from before a store. -/
def L1Line.lag (x : L1Line) (va : Nat) (old : List Byte) : L1Line :=
  { x with bytes := x.bytes ++ ((List.range 64).filterMap fun k =>
      let a := x.line * 64 + k
      if va ≤ a ∧ (x.byte? k).isNone then (old[a - va]?).map fun b => (k, b) else none) }

/-- A store of a context has been applied at its home slice: the copies of an R line elsewhere, and those the slice does not reach, still have the old bytes; an S line's have the new ones before anything else is served (08 R181; 09 R205; 20 R389). -/
def State.l1Lag (s : State) (by_ : Nat) (l : Leaf) (tag : Option (BitVec 16)) (va : Nat) (old : List Byte) : State :=
  { s with ctxs := s.ctxs.map fun c : Ctx =>
      if c.id = by_ then c
      else { c with l1 := c.l1.map fun x =>
        if x.touches tag va old.length && !x.u && (decide (l.kind = 1) || s.lineCut c.tower tag x.line) then x.lag va old else x } }

/-- Contexts whose L1s a slice still owes the update of a line that an access touches; a coherence-lost L1 is owed nothing (08 R181; 20 R389). -/
def State.owed (s : State) (tag : Option (BitVec 16)) (va n : Nat) : List Ctx :=
  s.ctxs.filter fun c => c.l1.any fun x =>
    x.touches tag va n && !x.u && !x.bytes.isEmpty && !(s.tower c.tower).cohLost.contains (c.base + x.pos)

/-- Lines leave the L1s of every cell. -/
def State.l1Drop (s : State) (f : Ctx → L1Line → Bool) : State :=
  { s with ctxs := s.ctxs.map fun c : Ctx => { c with l1 := c.l1.filter fun x => !f c x } }

/-- A store is performed at a line that a waiting WAITV watches: its wait ends, if the store is not its own task's (09 R226). -/
def State.wakeWatch (s : State) (pa n : Nat) (sees : Ctx → Bool) : State :=
  { s with ctxs := s.ctxs.map fun c : Ctx =>
      match c.watch with
      | none => c
      | some (line, _) => if line * 64 < pa + n ∧ pa < line * 64 + 64 ∧ sees c = true then { c with watch := some (line, true) } else c }

/-- What a write at the home slice or the home package comes to: performed, or a fault found there (08 R195). -/
inductive Wr where
  | ok (s : State)
  | bad (k : Kind) (s : State)
  deriving DecidableEq, Repr

/-- A change made to the state of a write that is performed. -/
def Wr.map (f : State → State) : Wr → Wr
  | .ok s => .ok (f s)
  | .bad k s => .bad k s

/-- Record a subjunctive store in its version, if there is room (10 R238). -/
def State.putVersion (s : State) (asid : BitVec 16) (tag : Option (BitVec 16)) (h : BitVec 12) (va : Nat) (data : List Byte) : Wr :=
  match s.version? (va / 64) tag h with
  | some v =>
    .ok { s with versions := s.versions.map fun u =>
            if u.line = v.line ∧ u.tag = v.tag ∧ u.hyp = v.hyp then { u with bytes := setBytes u.bytes (va % 64) data } else u }
  | none =>
    let fresh (logged : Bool) : State :=
      { s with versions := s.versions ++ [⟨va / 64, tag, h, setBytes [] (va % 64) data, logged, asid⟩] }
    if Config.l2VersionRoom (s.versions.filter fun v => !v.logged).length then .ok (fresh false)
    else if s.vlogEn && decide (((s.versions.filter fun v => v.logged).length + 1) * 128 ≤ (s.vlogSize.toNat + 1) * 2 ^ 20) then
      .ok (fresh true)
    else .bad .hypfull s

/-- Record bytes of a subjunctive store, one version for each line (10 R238). -/
def State.putLines (s : State) (asid : BitVec 16) (tag : Option (BitVec 16)) (h : BitVec 12) : (fuel : Nat) → (va : Nat) → (data : List Byte) → Wr
  | 0, _, _ => .ok s
  | n + 1, va, data =>
    let k := 64 - va % 64
    match s.putVersion asid tag h va (data.take k) with
    | .bad f t => .bad f t
    | .ok t => if data.length ≤ k then .ok t else t.putLines asid tag h n (va + k) (data.drop k)

/-- Record a subjunctive store line by line: all of it, or nothing when a line finds no room (10 R238). -/
def State.putVersions (s : State) (asid : BitVec 16) (tag : Option (BitVec 16)) (h : BitVec 12) (va : Nat) (data : List Byte) : Wr :=
  match s.putLines asid tag h (data.length / 64 + 2) va data with
  | .bad f _ => .bad f s
  | .ok t => .ok t

/-- Whether a store of a page tagged with a hypothesis is subjunctive: it changes a version, not memory (10 R234). -/
def State.subjunctive (s : State) (l : Leaf) (hyp : BitVec 12) : Bool := l.h && !l.far && decide (s.hypFinal hyp ≠ 0)

/-- Whether a hypothesis is REFUTED, or gone: a store tagged with it is discarded (10 R242). -/
def State.discards (s : State) (h : BitVec 12) : Bool :=
  match s.hyp? h with
  | some x => decide (x.st = .refuted)
  | none => true

/-- A write of bytes within one page through its leaf: the home slice's checks and its performing; a store tagged with a REFUTED hypothesis raises nothing, and only a merge meets an error of memory (08 R181 to R186, R195; 10 R234, R242; 13 R293; 20 R390, R394; 23 R426). -/
def State.leafWrite (s : State) (asid : BitVec 16) (l : Leaf) (va : Word) (data : List Byte) (hyp : BitVec 12) (writer : Option Word) : Wr :=
  let pa := l.pa va
  let h := s.hypFinal hyp
  if s.subjunctive l hyp && s.discards h then .ok s
  else if !s.live pa then .bad .notlive s
  else if !s.openAt pa then .bad .perm s
  else if s.subjunctive l hyp then
    s.putVersions asid (l.tag asid) h va.toNat data |>.map fun t => t.wakeWatch pa data.length fun c => (t.hypPath c.hyp).contains h
  else if s.mergeBad pa data.length then .bad .eccunc (s.eccEntry pa)
  else
    match (if l.far then PaKind.hole else paKind pa) with
    | .device off => .ok (s.devWrite pa off data)
    | _ =>
      let s := (((s.l1Settle (l.tag asid) va.toNat data.length).pwrite pa data).backInvalidate pa data.length).wakeWatch pa data.length fun _ => true
      .ok (if l.m then s.markDirty asid va.toNat data.length writer else s)

/-! ### Accesses the part makes itself -/

/-- The parts of an access on each page (05 R140, 09 R208). -/
def pageParts (va : Word) (n : Nat) : List (Word × Nat) :=
  let k := 65536 - va.toNat % 65536
  if n ≤ k then [(va, n)] else [(va, k), (va + w64 k, n - k)]

/-- What an access through a walk of its own answers. -/
inductive VRes where
  | ok (bytes : List Byte)
  | bad (k : Kind) (va : Word)
  deriving DecidableEq, Repr

/-- Read one part through a walk: checks as an engine's load makes them (08 R190; 13 R296). -/
def State.vreadPart (s : State) (asid : BitVec 16) (va : Word) (n : Nat) (path : List (BitVec 12)) : State × VRes :=
  match s.walk asid va .load with
  | (t, .fault k a) => (t, .bad k a)
  | (t, .leaf l) =>
    if !t.live (l.pa va) then (t, .bad .notlive va)
    else if t.badAt (l.pa va) n then (t.eccEntry (l.pa va), .bad .eccunc va)
    else
      match (if l.vw then t.viewCheck asid va.toNat n else .ok) with
      | .bad k => (t, .bad k va)
      | _ => (t, .ok (t.leafBytes asid l va path n))

/-- Read parts one after another. -/
def State.vreadParts (s : State) (asid : BitVec 16) (path : List (BitVec 12)) : List (Word × Nat) → State × VRes
  | [] => (s, .ok [])
  | (va, n) :: rest =>
    match s.vreadPart asid va n path with
    | (t, .bad k a) => (t, .bad k a)
    | (t, .ok bs) =>
      match t.vreadParts asid path rest with
      | (u, .ok cs) => (u, .ok (bs ++ cs))
      | r => r

/-- Pieces of a long access, each within a page. -/
def pieces : (fuel : Nat) → Word → Nat → List (Word × Nat)
  | 0, _, _ => []
  | f + 1, va, n =>
    let k := 65536 - va.toNat % 65536
    if n ≤ k then (if n = 0 then [] else [(va, n)]) else (va, k) :: pieces f (va + w64 k) (n - k)

/-- Whether an access touches the scratch window, which a task's own accesses alone may use, or lies beyond it (08 R179). -/
def inWindow (va : Word) (n : Nat) : Bool := decide (scratchBase < va.toNat + n)

/-- Read n bytes of an address space under a hypothesis, as the part does on a task's behalf. -/
def State.vread (s : State) (asid : BitVec 16) (va : Word) (n : Nat) (hyp : BitVec 12) : State × VRes :=
  if inWindow va n then (s, .bad .perm va)
  else s.vreadParts asid (s.hypPath hyp) (pieces (n / 65536 + 2) va n)

/-- The leaves of the parts of a write, or the first failure. -/
def State.vleaves (s : State) (asid : BitVec 16) : List (Word × Nat) → State × Except (Kind × Word) (List Leaf)
  | [] => (s, .ok [])
  | (va, _) :: rest =>
    match s.walk asid va .store with
    | (t, .fault k a) => (t, .error (k, a))
    | (t, .leaf l) =>
      match t.vleaves asid rest with
      | (u, .ok ls) => (u, .ok (l :: ls))
      | r => r

/-- Write the parts through their leaves. -/
def State.vputs (s : State) (asid : BitVec 16) (hyp : BitVec 12) (writer : Option Word) : List ((Word × Nat) × Leaf) → List Byte → State × Option (Kind × Word)
  | [], _ => (s, none)
  | ((va, n), l) :: rest, data =>
    match s.leafWrite asid l va (data.take n) hyp writer with
    | .bad k t => (t, some (k, va))
    | .ok t => t.vputs asid hyp writer rest (data.drop n)

/-- Write bytes of an address space through walks of its own; a failed walk writes nothing. -/
def State.vwriteH (s : State) (asid : BitVec 16) (va : Word) (data : List Byte) (hyp : BitVec 12) (writer : Option Word) : State × Option (Kind × Word) :=
  let ps := pieces (data.length / 65536 + 2) va data.length
  if inWindow va data.length then (s, some (.perm, va))
  else
    match s.vleaves asid ps with
    | (t, .error e) => (t, some e)
    | (t, .ok ls) => t.vputs asid hyp writer (ps.zip ls) data

/-- Write bytes of an address space in hypothesis 0. -/
def State.vwrite (s : State) (asid : BitVec 16) (va : Word) (data : List Byte) : State × Option (Kind × Word) :=
  s.vwriteH asid va data 0 none

/-- Read one qword of an address space. -/
def State.vread64 (s : State) (asid : BitVec 16) (va : Word) : State × Except (Kind × Word) Word :=
  match s.vread asid va 8 0 with
  | (t, .ok bs) => (t, .ok (w64 (bytesToNat bs)))
  | (t, .bad k a) => (t, .error (k, a))

/-- Write one qword of an address space. -/
def State.vwrite64 (s : State) (asid : BitVec 16) (va v : Word) : State × Option (Kind × Word) :=
  s.vwrite asid va (natToBytes 8 v.toNat)

end Sys2Proof.Machine
end

