-- ==== Sys2Proof/Machine/Access.lean ====
section
/-! DEFINITION. Sys2Proof/Machine/Access.lean: how a task's loads find their bytes (01 R18; 05 R138 to R149; 08 R179, R194; 09 R207, R217; 10 R236) and how its stores wait for commit (05 R139, R140; 08 R194). -/

namespace Sys2Proof.Machine

/-! ### Lens scratch -/

/-- Whether an offset of the window lies in the scratch of a position of the lens (08 R179). -/
def Ctx.scratchOk (c : Ctx) (off : Nat) : Bool :=
  decide (off / 0x20000 < c.width) && decide (off % 0x20000 < c.scr.toNat * 16384)

/-- An access and the scratch window: outside it, refused, or the offset in it (08 R179). -/
def Ctx.scratchAcc (c : Ctx) (va : Word) (n : Nat) : Option (Option Nat) :=
  if va.toNat + n ≤ scratchBase then none
  else if decide (scratchBase ≤ va.toNat) && c.scratchOk (va.toNat - scratchBase) && c.scratchOk (va.toNat - scratchBase + n - 1) then
    some (some (va.toNat - scratchBase))
  else some none

/-! ### Stores a load may meet -/

/-- Whether a store part holds a byte. -/
def Lane.has (l : Lane) (va : Word) : Bool := decide (l.va.toNat ≤ va.toNat) && decide (va.toNat < l.va.toNat + l.data.length)

/-- The byte a store part holds at an address. -/
def Lane.at (l : Lane) (va : Word) : Byte := (l.data[va.toNat - l.va.toNat]?).getD 0

/-- Whether a store part meets an interval. -/
def Lane.meets (l : Lane) (va : Word) (n : Nat) : Bool :=
  decide (l.va.toNat < va.toNat + n) && decide (va.toNat < l.va.toNat + l.data.length)

/-- The store parts of an effect. -/
def EffOut.lanes : EffOut → List Lane
  | .fired (.store ps _ _) => ps
  | _ => []

/-- The stores of an instance in slots from lo up to below hi, newest first; a slot not yet served gives its forecast (05 R149). -/
def Inst.lanesBelow (x : Inst) : (hi : Nat) → List Lane
  | 0 => []
  | n + 1 =>
    let e := BitVec.ofNat 5 n
    let here := match x.effOut? e with
      | some o => o.lanes
      | none => ((x.forecast.find? fun f : BitVec 5 × List Lane => decide (f.1 = e)).map fun f : BitVec 5 × List Lane => f.2).getD []
    (if x.sent.contains e then [] else here.reverse) ++ x.lanesBelow n

/-- The stores of older instances, newest first. -/
def olderLanes : List Inst → List Lane
  | [] => []
  | x :: xs => olderLanes xs ++ x.lanesBelow 32

/-- Whether a slot of an instance still to be served may hold a store, below a slot (05 R149). -/
def Inst.storeUnknown (x : Inst) (below : Nat) : Bool :=
  (List.range x.words.length).any fun k =>
    match x.instrAt (BitVec.ofNat 7 k) with
    | none => false
    | some i =>
      match i.effSlot with
      | none => false
      | some e => i.isStore && decide (e.toNat < below) && x.hdr.effmask.getLsbD e.toNat && (x.effOut? e).isNone

/-- Whether stores that precede a load are still unknown (05 R149). -/
def Ctx.storesUnknown (c : Ctx) (win : Nat) (eff : Nat) : Bool :=
  (c.window.take win).any (fun x => x.storeUnknown 32) ||
    (match c.window[win]? with
     | some x => x.storeUnknown eff
     | none => false)

/-- The instructions whose tokens an instruction of a clause rests on, itself among them (01 R17). -/
def Inst.sources (x : Inst) : (fuel : Nat) → List (BitVec 7) → List (BitVec 7)
  | 0, is => is
  | n + 1, is =>
    let more := ((List.range x.words.length).map fun k => BitVec.ofNat 7 k).filter fun k =>
      !is.contains k && (match x.instrAt k with
        | some i => i.targets.any fun t => is.contains t.2
        | none => false)
    if more.isEmpty then is else x.sources n (is ++ more)

/-- Whether an instruction of 09 R220 in a slot below a load of its clause has still to be served, and does not rest on the load, or acted on what the load reads: the part holds the load until then (05 R149; 09 R203, R205, R220; log 29). -/
def Inst.loadHeld (x : Inst) (iid : BitVec 7) (eff : Nat) : Bool :=
  (List.range x.words.length).any fun k =>
    match x.instrAt (BitVec.ofNat 7 k) with
    | none => false
    | some i =>
      match i.effSlot with
      | none => false
      | some e => i.isR220 && decide (e.toNat < eff) && x.hdr.effmask.getLsbD e.toNat && (x.effOut? e).isNone
          && (x.mustWait.contains iid || !(x.sources x.words.length [BitVec.ofNat 7 k]).contains iid)

/-- Whether an older fence of kind sc still waits, behind which no load is performed (09 R214). -/
def Ctx.scFence (c : Ctx) : Bool :=
  c.pend.any fun p => match p.what with
    | .fence k _ => decide (k = 3)
    | _ => false

/-- Whether a load still waits for what goes before it: a fence of kind sc that is not performed, an instruction of 09 R220 below it, and, for a load that does not go early, stores whose addresses are not known (05 R149; 09 R214, R220). -/
def Ctx.loadWaits (c : Ctx) (x : Inst) (f : Focus) (eff : BitVec 5) : Bool :=
  c.scFence || x.loadHeld f.iid eff.toNat || (!f.spec && c.storesUnknown f.win eff.toNat)

/-- The entries of a task in program order: those in its buffers, then those not yet back in them (18 R376). -/
def Ctx.entries (c : Ctx) : List Pend := c.pend ++ c.heldIn

/-- The cell whose buffer and permission cache a queued store uses. -/
def Ctx.pendCell (c : Ctx) (p : Pend) : Nat := c.base + p.pos % (if c.width = 0 then 1 else c.width)

/-- The entry a queued store is performed through: the one present when it fired, else what the permission cache says now; a queued store to scratch is one that meets a bad word (08 R194, R195; 23 R426). -/
def State.pendPerm (s : State) (c : Ctx) (p : Pend) (l : Lane) : Perm :=
  match l.leaf with
  | some x => .ok x
  | none => if scratchBase ≤ l.va.toNat then .bad .eccunc else s.permLook c.tower (c.pendCell p) c.asid l.va .store

/-- The ordering kind of a queued store, as last known while its entry is absent. -/
def State.pendKind (s : State) (c : Ctx) (p : Pend) (l : Lane) : Nat :=
  match s.pendPerm c p l with
  | .ok x => x.kind
  | _ => l.kind

/-- Whether two store parts share a byte. -/
def Lane.clashes (a b : Lane) : Bool := a.meets b.va b.data.length

/-- Whether an older entry lets a store go: coherence, fences, S order and what a late fault holds; a store to an S page waits until no older store can fault late any more (09 R203, R205, R214, R216). -/
def State.lets (s : State) (c : Ctx) (q : Pend) (l : Lane) (rel : Bool) (sKind : Bool) : Bool :=
  match q.what with
  | .fence k _ => decide (k = 0) || decide (k = 4)
  | .act (.streamer _ _ a b _) => !rel && !l.meets a 64 && !l.meets b 64
  | .act _ => !rel
  | .store m _ _ =>
    match q.st with
    | .faulted _ _ => !rel && !sKind && !m.clashes l
    | .applied => !rel && !(sKind && decide (s.pendKind c q m = 0))
    | .waiting => !rel && !sKind && !m.clashes l

/-- Whether a queued entry is a store of a cell to a far page that is still to be handed over. -/
def State.farWaits (s : State) (c : Ctx) (cell : Nat) (q : Pend) : Bool :=
  match q.what, q.st with
  | .store m _ _, .waiting => decide (c.pendCell q = cell) && (match s.pendPerm c q m with
    | .ok y => y.far
    | _ => false)
  | _, _ => false

/-- Whether a far store of a cell has been handed over and is not yet performed: a younger far access of the cell arrives behind it (20 R390). -/
def State.farQueued (s : State) (c : Ctx) (cell : Nat) : Bool :=
  (List.range c.pend.length).any fun i => match c.pend[i]? with
    | some p => s.farWaits c cell p && (match p.what with
      | .store l rel _ => (c.pend.take i).all fun q => s.lets c q l rel (decide (s.pendKind c p l = 0))
      | _ => false)
    | none => false

/-- How a committed store stands to a load of an interval on a page: it delivers, it holds the load, it poisons it, or it is not seen (09 R217; 10 R236, R250). -/
inductive Meet where
  | sees | unseen | holds
  | poisons (k : Kind)
  deriving DecidableEq, Repr

/-- The hypothesis part of that question: the store's hypothesis against the load's (10 R234, R236). -/
def hypMeet (h : Bool) (st ld : BitVec 12) : Meet :=
  if !h || decide (st = ld) then .sees else if ld = 0 then .unseen else .holds

/-- A committed store against a load (09 R217). -/
def State.pendMeet (s : State) (p : Pend) (l : Lane) (pageH : Bool) (ld : BitVec 12) : Meet :=
  match p.st with
  | .applied => if l.asked then .holds else .unseen
  | .faulted _ k => if l.asked then .poisons k else hypMeet pageH (s.hypFinal p.hyp) ld
  | .waiting => if l.asked then .holds else hypMeet pageH (s.hypFinal p.hyp) ld

/-- The committed stores of a task that a load of an interval meets, newest first. -/
def State.pendMeets (s : State) (c : Ctx) (va : Word) (n : Nat) (pageH : Bool) (ld : BitVec 12) : List (Lane × Meet) :=
  c.entries.reverse.filterMap fun p =>
    match p.what with
    | .store l _ _ => if l.meets va n then some (l, s.pendMeet p l pageH ld) else none
    | _ => none

/-! ### Loads -/

/-- What loading answers: the state, whether something must be waited for, the first failure, the bytes of each access. -/
structure Ld where
  st : State
  wait : Bool
  bad : Option (Kind × Word)
  bytes : List (List Byte)
  deriving DecidableEq, Repr

/-- Whether a load of a page goes past the L1: a far page, and one with H = 1 while HYPCUR is not 0 (08 R187; 10 R236). -/
def State.pastL1 (s : State) (c : Ctx) (l : Leaf) : Bool := l.far || (l.h && decide (s.hypFinal c.hyp ≠ 0))

/-- A byte as a load of a cell finds it before the stores of its own task: what the L1 keeps for itself, else memory (08 R181; 09 R207). -/
def State.pageByte (s : State) (c : Ctx) (cell : Nat) (l : Leaf) (va : Word) (path : List (BitVec 12)) : Byte :=
  let mem := s.leafByte c.asid l va path
  if s.pastL1 c l then mem else (c.l1Byte (cell - c.base) (l.tag c.asid) va.toNat).getD mem

/-- The bytes of a part under the newest stores before it. -/
def State.mixBytes (s : State) (c : Ctx) (cell : Nat) (l : Leaf) (va : Word) (path : List (BitVec 12)) (fwd : List Lane) : (n : Nat) → List Byte
  | 0 => []
  | n + 1 =>
    (match fwd.find? fun f => f.has va with
     | some f => f.at va
     | none => s.pageByte c cell l va path) :: s.mixBytes c cell l (va + 1) path fwd n

/-- Whether an L1 of a lens holds a line (08 R193). -/
def Ctx.l1Holds (c : Ctx) (pos : Nat) (tag : Option (BitVec 16)) (line : Nat) : Bool :=
  c.l1.any fun x => decide (x.pos = pos) && x.touches tag (line * 64) 1

/-- Whether a line that an access finds in an L1 holds an error that cannot be corrected (23 R426). -/
def Ctx.l1Bad (c : Ctx) (pos : Nat) (tag : Option (BitVec 16)) (va n : Nat) : Bool :=
  c.l1.any fun x => x.bad && decide (x.pos = pos) && x.touches tag va n

/-- Lines an L1 of the lens has room for (08 R177, R178). -/
def Ctx.l1Room (c : Ctx) : Nat := (8 - c.scr.toNat) * 256

/-- The L1s hold no more than they have room for; the oldest lines leave first: DESIGN CHOICE, the spec names no replacement (08 R177, R178; log 18). -/
def Ctx.l1Trim (c : Ctx) : Ctx :=
  (List.range c.width).foldl (fun x pos =>
    let extra := (x.l1.filter fun y => decide (y.pos = pos)).length - x.l1Room
    { x with l1 := ((x.l1.filter fun y => decide (y.pos = pos)).take extra).foldl List.erase x.l1 }) c

/-- A load has read a line of a page: the L1 of its cell takes the line, served by the home slice; a U line keeps the bytes it was filled with (08 R177, R182; 09 R207). -/
def State.fillLine (s : State) (c : Ctx) (cell : Nat) (l : Leaf) (line : Nat) : State :=
  let tag := l.tag c.asid
  let pos := cell - c.base
  let t := if l.far then s else s.l2Serve c.asid l line
  if s.pastL1 c l then t
  else if c.l1Holds pos tag line then s
  else
    let bytes := if l.kind = 2 then (s.leafBytes c.asid l (w64 (line * 64)) [] 64).zipIdx.map fun b => (b.2, b.1) else []
    t.onCtx c.id fun x => ({ x with l1 := x.l1 ++ [⟨pos, tag, line, decide (l.kind = 2), bytes, false⟩] } : Ctx).l1Trim

/-- The lines a load of n bytes has read (08 R177). -/
def State.fillL1 (s : State) (c : Ctx) (cell : Nat) (l : Leaf) (va : Word) (n : Nat) : State :=
  (List.range ((va.toNat + n + 63) / 64 - va.toNat / 64)).foldl (fun t k => t.fillLine ((t.ctx? c.id).getD c) cell l (va.toNat / 64 + k)) s

/-- One part of a load, within a page, its leaf known. -/
def State.loadPart (s : State) (c : Ctx) (cell : Nat) (own : List Lane) (old : List Lane) (l : Leaf) (va : Word) (n : Nat) (hyp0 : Bool) : Ld :=
  let ld : BitVec 12 := if hyp0 then 0 else s.hypFinal c.hyp
  let path := if hyp0 then [] else s.hypPath c.hyp
  let mine := hypMeet l.h (s.hypFinal c.hyp) ld
  let young := if mine = .sees then (own ++ old).filter (fun f => f.meets va n) else []
  let heldOld := decide (mine = .sees) && old.any fun f => f.meets va n && f.asked
  let pend := s.pendMeets c va n l.h ld
  if heldOld then ⟨s, true, none, []⟩
  else
    match pend.findSome? (fun p => match p.2 with
      | .poisons k => some k
      | _ => none) with
    | some k => ⟨s, false, some (k, va), []⟩
    | none =>
      if pend.any fun p => decide (p.2 = .holds) then ⟨s, true, none, []⟩
      else if l.far && s.farQueued c cell then ⟨s, true, none, []⟩
      else if !s.live (l.pa va) then ⟨s, false, some (.notlive, va), []⟩
      else
        match (if l.vw then s.viewCheck c.asid va.toNat n else .ok) with
        | .waits => ⟨s, true, none, []⟩
        | .bad k => ⟨s, false, some (k, va), []⟩
        | .ok =>
          let fwd := young ++ (pend.filter fun p => decide (p.2 = .sees)).map fun p => p.1
          if s.badAt (l.pa va) n || (!s.pastL1 c l && c.l1Bad (cell - c.base) (l.tag c.asid) va.toNat n) then
            ⟨s.eccEntry (l.pa va), false, some (.eccunc, va), []⟩
          else ⟨s.fillL1 c cell l va n, false, none, [s.mixBytes c cell l va path fwd n]⟩

/-- The bytes of lens scratch under the newest stores before a load (08 R179). -/
def scratchBytes (c : Ctx) (fwd : List Lane) (va : Word) : (n : Nat) → List Byte
  | 0 => []
  | n + 1 =>
    (match fwd.find? fun f => f.has va with
     | some f => f.at va
     | none => Memory.get c.scratch (va.toNat - scratchBase)) :: scratchBytes c fwd (va + 1) n

/-- Whether an access of a cell goes to a far page (08 R187, 20 R390). -/
def State.farAcc (s : State) (c : Ctx) (cell : Nat) (va : Word) (n : Nat) (acc : Access) : Bool :=
  (pageParts va n).any fun p => match s.permLook c.tower cell c.asid p.1 acc with
    | .ok l => l.far
    | _ => false

/-- Whether an access of a cell meets a line whose home slice the tower cannot reach, lines in its L1 apart (20 R389). -/
def State.cutAcc (s : State) (c : Ctx) (cell : Nat) (va : Word) (n : Nat) (acc : Access) : Bool :=
  (pageParts va n).any fun p => match s.permLook c.tower cell c.asid p.1 acc with
    | .ok l => !l.far && (linesOf p.1.toNat p.2).any fun k => s.lineCut c.tower (l.tag c.asid) k && !(c.l1Holds (cell - c.base) (l.tag c.asid) k && !s.pastL1 c l)
    | _ => false

/-- The page parts of one access. -/
def State.loadParts (s : State) (c : Ctx) (cell : Nat) (own old : List Lane) (hyp0 : Bool) : List (Word × Nat) → Ld
  | [] => ⟨s, false, none, []⟩
  | (va, n) :: rest =>
    match s.permGet c.tower cell c.asid va .load with
    | .ask t => let r := t.loadParts c cell own old hyp0 rest; { r with wait := true }
    | .bad k t => let r := t.loadParts c cell own old hyp0 rest; { r with bad := some (k, va) }
    | .ok l =>
      let r := s.loadPart c cell own old l va n hyp0
      let q := r.st.loadParts c cell own old hyp0 rest
      ⟨q.st, r.wait || q.wait, r.bad.or q.bad, r.bytes ++ q.bytes⟩

/-- One access of a load: scratch, or memory page by page. -/
def State.loadLane (s : State) (c : Ctx) (cell : Nat) (own old : List Lane) (hyp0 : Bool) (va : Word) (n : Nat) : Ld :=
  match c.scratchAcc va n with
  | some none => ⟨s, false, some (.perm, va), []⟩
  | some (some off) =>
    if c.badWord off n then ⟨s.eccScratch c va, false, some (.eccunc, va), []⟩ else ⟨s, false, none, [scratchBytes c (own ++ old) va n]⟩
  | none =>
    let r := s.loadParts c cell own old hyp0 (pageParts va n)
    { r with bytes := [r.bytes.foldr (fun a b => a ++ b) []] }

/-- Every access of a load, in lane order; the lowest failing lane gives the fault. -/
def State.loadLanes (s : State) (c : Ctx) (cell : Nat) (own old : List Lane) (hyp0 : Bool) : List (Word × Nat) → Ld
  | [] => ⟨s, false, none, []⟩
  | (va, n) :: rest =>
    let r := s.loadLane c cell own old hyp0 va n
    let q := r.st.loadLanes c cell own old hyp0 rest
    ⟨q.st, r.wait || q.wait, r.bad.or q.bad, r.bytes ++ q.bytes⟩

/-- The bytes that loads in slots above one have fixed, where no store of the clause stands between: a load of them returns nothing newer (09 R203, R220). -/
def Inst.fixedAbove (x : Inst) (eff : Nat) : List Lane :=
  (x.loads.filter fun r => r.final && decide (eff < r.eff.toNat)).flatMap fun r =>
    ((r.parts.zip r.bytes).map fun p => Lane.plain p.1.1 p.2).filter fun l =>
      !(List.range r.eff.toNat).any fun e => decide (eff < e) && (match x.effOut? (BitVec.ofNat 5 e) with
        | some o => o.lanes.any fun m => m.meets l.va l.data.length
        | none => false)

/-- A load of a clause: its bytes under every store that precedes its slot (01 R18). -/
def State.loadAll (s : State) (c : Ctx) (win : Nat) (iid : BitVec 7) (eff : Nat) (hyp0 : Bool) (lanes : List (Word × Nat)) : Ld :=
  match c.window[win]? with
  | none => ⟨s, true, none, []⟩
  | some x => s.loadLanes c (c.cellOf iid) (x.lanesBelow eff) (olderLanes (c.window.take win) ++ x.fixedAbove eff) hyp0 lanes

/-- The stores of a task that wait, newest first, each with its hypothesis, aliases followed (10 R242). -/
def State.waitingStores (s : State) (c : Ctx) : List (Lane × BitVec 12) :=
  c.entries.reverse.filterMap fun p => match p.what, p.st with
    | .store l _ _, .waiting => some (l, s.hypFinal p.hyp)
    | _, _ => none

/-- A byte under the waiting stores of its task: on a page with H = 1 the nearest hypothesis on the path that holds a version or a store of it gives it (09 R217; 10 R234, R236). -/
def State.forwarded (s : State) (c : Ctx) (fwd : List (Lane × BitVec 12)) (va : Word) (b : Byte) : Byte :=
  match s.leafAt c.asid va.toNat with
  | none => b
  | some (_, l) =>
    if !l.h then ((fwd.find? fun f => f.1.has va).map fun f => f.1.at va).getD b
    else
      ((s.hypPath c.hyp ++ [0]).findSome? fun h =>
        match fwd.find? fun f : Lane × BitVec 12 => decide (f.2 = h) && f.1.has va with
        | some f => some (f.1.at va)
        | none => s.versionByte (l.tag c.asid) va.toNat [h]).getD b

/-- A load as the part makes it for a task that runs: after every access of older clauses and of lower slots (13 R280, 17 R341). -/
def State.taskRead (s : State) (c : Ctx) (va : Word) (n : Nat) : State × VRes :=
  match c.scratchAcc va n with
  | some none => (s, .bad .perm va)
  | some (some off) => if c.badWord off n then (s.eccScratch c va, .bad .eccunc va) else (s, .ok (scratchBytes c [] va n))
  | none =>
    match s.vread c.asid va n c.hyp with
    | (t, .bad k a) => (t, .bad k a)
    | (t, .ok bs) =>
      match t.waitingStores c with
      | [] => (t, .ok bs)
      | fwd => (t, .ok (bs.mapIdx fun k b => t.forwarded c fwd (va + w64 k) b))

/-- An instruction of the focus has met the failure of its access: what reached its cell for it is taken (08 R194). -/
def State.takeNotes (s : State) : State :=
  match s.fctx with
  | none => s
  | some c => s.dropNotes c.tower fun r => decide (r.cell = c.cellOf s.focus.iid)

/-- A load that delivers poison: its effect has fired, and the address is kept (05 R139; 17 R336). -/
def State.loadPoison (s : State) (i : Instr) (k : Kind) (va : Word) : State :=
  (((s.takeNotes.notePoison va).effect i .done).deliverPoison i k)

/-! ### Stores -/

/-- The parts of a store's accesses on each page, asked for where the permission entry is absent, or the failure that poisons the effect (05 R139; 08 R179, R194). -/
def State.storeParts (s : State) (c : Ctx) (cell : Nat) (lane : Nat) : List (Word × Nat) → List Byte → State × Except (Kind × Word) (List Lane)
  | [], _ => (s, .ok [])
  | (va, n) :: rest, data =>
    match s.permLook c.tower cell c.asid va .store with
    | .bad k => (s, .error (k, va))
    | p =>
      let leaf : Option Leaf := match p with
        | .ok l => some l
        | _ => none
      let t := if leaf.isNone then s.permAsk c.tower cell c.asid va .store else s
      match t.storeParts c cell lane rest (data.drop n) with
      | (u, .ok ls) => (u, .ok (⟨lane, va, data.take n, leaf.isNone, leaf, (leaf.map Leaf.kind).getD 1⟩ :: ls))
      | r => r

/-- One access of a store. -/
def State.storeLane (s : State) (c : Ctx) (cell lane : Nat) (va : Word) (data : List Byte) : State × Except (Kind × Word) (List Lane) :=
  if !canonical va data.length then (s, .error (.perm, va))
  else
    match c.scratchAcc va data.length with
    | some none => (s, .error (.perm, va))
    | some (some _) => (s, .ok [{ Lane.plain va data with lane := lane }])
    | none => s.storeParts c cell lane (pageParts va data.length) data

/-- Every access of a store, in lane order. -/
def State.storeLanes (s : State) (c : Ctx) (cell : Nat) : (lane : Nat) → List (Word × List Byte) → State × Except (Kind × Word) (List Lane)
  | _, [] => (s, .ok [])
  | n, (va, data) :: rest =>
    match s.storeLane c cell n va data with
    | (t, .error e) => (t, .error e)
    | (t, .ok ls) =>
      match t.storeLanes c cell (n + 1) rest with
      | (u, .ok ms) => (u, .ok (ls ++ ms))
      | r => r

/-- A store fires: it keeps its bytes for commit, or its effect is poisoned (05 R139, R140; 08 R194). -/
def State.fireStore (s : State) (i : Instr) (lanes : List (Word × List Byte)) (rel many : Bool) : Act :=
  match s.fctx with
  | none => .waits s
  | some c =>
    match s.storeLanes c (c.cellOf s.focus.iid) 0 lanes with
    | (t, .error (k, va)) => .fires ((t.notePoison va).effectPoison i k)
    | (t, .ok ls) => .fires (t.effect i (.store ls rel many))

end Sys2Proof.Machine
end

