-- ==== Sys2Proof/Machine/Home.lean ====
section
/-! DEFINITION. Sys2Proof/Machine/Home.lean: what becomes of committed stores: the program-order queue of a task, the home slice, acknowledgements, late faults and their records, and the epoch advance of a release (08 R181, R195; 09 R210, R215, R216; 13 R293; 14 R306; 17 R340). -/

namespace Sys2Proof.Machine

/-- One of a list of outcomes the spec leaves open (00 R6; log 7): the only one, or the one a free value picks. -/
def State.choose {α : Type} (s : State) (site : Nat) : List α → Option α
  | [] => none
  | [x] => some x
  | xs => xs[(s.free site).toNat % xs.length]?

/-! ### Releases -/

/-- The builds an advance of a tile asks for, views in index order; one that still waits is not asked for twice (13 R294). -/
def State.askBuilds (s : State) (m : Master) (tile : Nat) (cause : Option (Word × BitVec 16)) : State :=
  (sortBy (fun a b : View => decide (a.idx ≤ b.idx)) m.views).foldl
    (fun t v =>
      let same (b : Build) : Bool :=
        decide (b.tower = m.tower) && decide (b.slot = m.slot) && decide (b.tile = tile) && decide (b.view = v.idx) && b.made.isNone && b.failed.isNone
      if t.builds.any same then { t with builds := t.builds.map fun b => if same b then { b with cause := cause } else b }
      else { t with builds := t.builds ++ [⟨m.tower, m.slot, tile, v.idx, cause, none, none⟩] })
    s

/-- A tile's epoch advances by one and its dirty mark is cleared (13 R293). -/
def State.advance (s : State) (tw slot tile : Nat) (cause : Option (Word × BitVec 16)) : State :=
  match s.masters.find? fun m => decide (m.tower = tw) && decide (m.slot = slot) with
  | none => s
  | some m =>
    let m' := { m with epochs := m.epochs.modify tile (fun e => e + 1), dirty := m.dirty.filter fun d => !decide (d.1 = tile) }
    { s with masters := s.masters.map fun x : Master => if x.tower = tw ∧ x.slot = slot then m' else x }.askBuilds m' tile cause

/-- A release at PKG or SYS scope by a task: the epochs of the tiles it wrote advance, in ascending order (13 R293). -/
def State.released (s : State) (owner : Word) (asid : BitVec 16) : State :=
  s.masters.foldl
    (fun t m =>
      ((List.range m.tileCount).filter fun n => m.dirty.any fun d => decide (d.1 = n) && d.2.contains (owner, asid)).foldl
        (fun u n => u.advance m.tower m.slot n (some (owner, asid))) t)
    s

/-- A write that is a release as well: the epochs advance before it, and only if it is performed (09 R210; 13 R293). -/
def State.releasing (s : State) (rel : Bool) (owner : Word) (asid : BitVec 16) (w : State → Wr) : Wr :=
  match w s with
  | .bad k t => .bad k t
  | .ok t => if rel then w (s.released owner asid) else .ok t

/-! ### Fabric loads: state and status word -/

/-- A load by tower and slot. -/
def State.load? (s : State) (tw slot : Nat) : Option Load := s.loads.find? fun l => decide (l.tower = tw) && decide (l.slot = slot)

/-- Apply a change to a load. -/
def State.onLoad (s : State) (tw slot : Nat) (f : Load → Load) : State :=
  { s with loads := s.loads.map fun l => if l.tower = tw ∧ l.slot = slot then f l else l }

/-- The code of a load's state (14 R306). -/
def LoadSt.code : LoadSt → Nat
  | .configuring => 0
  | .loaded => 1
  | .running => 2
  | .stopped => 3
  | .faulted => 4
  | .saved => 5
  | .finished => 6

/-- The handle of a load (14 R322). -/
def Load.handle (l : Load) : Word := w64 (l.slot + l.tower * 16 + 128 + l.gen.toNat * 65536)

/-- The part writes a load's status word, a release of what its nodes have stored (14 R306). -/
def State.statusWrite (s : State) (tw slot : Nat) : State :=
  match s.load? tw slot with
  | none => s
  | some l =>
    if l.status = 0 then s
    else
      let s := (List.range (l.cells.length + l.mnodes.length + l.streams.length)).foldl
        (fun u n => u.released (l.handle ||| w64 (n * 2 ^ 56)) l.asid) s
      (s.vwrite64 l.asid l.status (w64 (l.st.code + (if l.st = .faulted then l.nrec * 256 else 0)))).1

/-- A load takes a state and its status word shows it (14 R306). -/
def State.loadTo (s : State) (tw slot : Nat) (st : LoadSt) : State :=
  (s.onLoad tw slot fun l => { l with st := st, statusDue := false }).statusWrite tw slot

/-- A fault in a node: the load becomes FAULTED; its status word follows once the matrix commands it has handed are performed (14 R306, R326, R328). -/
def State.loadFault (s : State) (tw slot : Nat) : State :=
  match s.load? tw slot with
  | none => s
  | some l =>
    if l.st = .running ∨ l.st = .stopped ∨ l.st = .loaded then
      s.onLoad tw slot fun x => { x with st := .faulted, statusDue := true, edges := x.edges.map fun e => { e with headAt := none } }
    else s

/-- The load a context belongs to. -/
def Ctx.loadRef (c : Ctx) : Option (Nat × Nat) :=
  match c.kind with
  | .task => none
  | .node slot _ => some (c.tower, slot)

/-! ### Late faults -/

/-- A committed store faults late: it is not performed, its record is due, and what 09 R216 holds is held (08 R195). -/
def State.lateFault (s : State) (c : Ctx) (p : Pend) (l : Lane) (k : Kind) : State :=
  let many := match p.what with
    | .store _ _ m => m
    | _ => false
  let r : AfRec :=
    { kind := k, src := if many then 1 else 0, eff := p.eff, iid := p.iid, cause := 0, seq := c.lateSeq, va := l.va
      clause := p.clause, ticket := p.cc.setWidth 64, owner := c.recA, idx := 0, idx2 := 0, asid := c.asid, hyp := p.hyp
      data := l.data, load := c.loadRef, tower := c.tower }
  let s := s.onCtx c.id fun x =>
    { x with
      lateSeq := x.lateSeq + 1
      pend := x.pend.map fun q => if q = p then { q with st := .faulted c.lateSeq k, due := true } else q }
  let s := { s with recq := s.recq ++ [r] }
  match c.loadRef with
  | some (tw, slot) => s.loadFault tw slot
  | none => s

/-- The record of a faulted store is in its ring: its buffer entry is free (17 R339). -/
def Ctx.recorded (c : Ctx) (seq : BitVec 16) : Ctx :=
  { c with pend := c.pend.map fun p => match p.st with
      | .faulted n _ => if n = seq then { p with due := false } else p
      | _ => p }

/-! ### The home slice -/

/-- Whether the store at index i of the queue may be performed now: a slice serves the stores to a line one at a time, an agent those of a cell in their order (08 R181; 20 R390). -/
def State.storeReady (s : State) (c : Ctx) (i : Nat) : Bool :=
  match c.pend[i]? with
  | none => false
  | some p =>
    match p.what, p.st with
    | .store l rel _, .waiting =>
      match s.pendPerm c p l with
      | .missing => false
      | .bad _ => (c.pend.take i).all fun q => s.lets c q l rel false
      | .ok x =>
        (if x.far then (c.pend.take i).all fun q => !s.farWaits c (c.pendCell p) q
          else !s.homeCut c.tower (x.tag c.asid) l.va l.data.length && (s.owed (x.tag c.asid) l.va.toNat l.data.length).isEmpty)
          && (c.pend.take i).all fun q => s.lets c q l rel (decide (x.kind = 0))
    | _, _ => false

/-- A task's own L1s apply its store to the lines they hold (08 R181, 09 R207). -/
def Ctx.applyU (c : Ctx) (l : Lane) (tag : Option (BitVec 16)) : Ctx :=
  { c with l1 := c.l1.map fun x =>
      if x.touches tag l.va.toNat l.data.length then
        { x with
          bytes := x.bytes.map fun b => let a := w64 (x.line * 64 + b.1); if l.has a then (b.1, l.at a) else b
          bad := x.bad && !coversLine x.line l.va.toNat l.data.length }
      else x }

/-- A store keeps the entry it was performed through. -/
def PendWhat.through (w : PendWhat) (x : Leaf) : PendWhat :=
  match w with
  | .store l rel m => .store { l with leaf := some x, kind := x.kind } rel m
  | w => w

/-- A queued store to a far page that crosses a 64-byte line goes as one request per line (20 R390). -/
def Pend.perLine (p : Pend) (l : Lane) (rel many : Bool) : List Pend :=
  let k := 64 - l.va.toNat % 64
  [{ p with what := .store { l with data := l.data.take k } rel many },
   { p with what := .store { l with va := l.va + w64 k, data := l.data.drop k } rel many }]

/-- The home slice serves the store at index i: performed, or found to fault (08 R181, R195). A STREL is a release (09 R210, R213). A far store goes to the agent of its home package line by line (20 R390). -/
def State.applyStore (s : State) (c : Ctx) (i : Nat) : State :=
  match c.pend[i]? with
  | none => s
  | some p =>
    match p.what with
    | .store l rel many =>
      match s.pendPerm c p l with
      | .missing => s
      | .bad k => (if scratchBase ≤ l.va.toNat then s.eccScratch c l.va else s).lateFault c p l k
      | .ok x =>
        if x.far && decide (64 < l.va.toNat % 64 + l.data.length) then
          s.onCtx c.id fun y => { y with pend := y.pend.take i ++ p.perLine l rel many ++ y.pend.drop (i + 1) }
        else
        let tag := x.tag c.asid
        match (s.releasing rel c.recA c.asid fun u => u.leafWrite c.asid x l.va l.data p.hyp (some c.recA)) with
        | .bad k t => t.lateFault c p l k
        | .ok t =>
          let sub := s.subjunctive x p.hyp
          let t := if x.far || sub then t else t.l1Lag c.id x tag l.va.toNat (s.paBytes (x.pa l.va) l.data.length)
          t.onCtx c.id fun y =>
            { (if sub then y else y.applyU l tag) with
              watch := c.watch
              pend := y.pend.modify i fun q => { q with what := q.what.through x, st := .applied } }
    | _ => s

/-- Queued stores whose entry is absent ask for it (08 R194, R199). -/
def State.askStores (s : State) (c : Ctx) : State :=
  c.pend.foldl
    (fun t p =>
      match p.what, p.st with
      | .store l _ _, .waiting =>
        match t.pendPerm c p l with
        | .missing => t.permAsk c.tower (c.pendCell p) c.asid l.va .store
        | _ => t
      | _, _ => t)
    s

/-- HOME_SLICE_STORE: an absent entry is asked for; else a home slice serves one of the stores that may be performed now (08 R181, 09 R206). -/
def State.homeStep (s : State) (c : Ctx) : State :=
  let t := s.askStores c
  if t.moves ≠ s.moves then t
  else
    match s.choose 1 ((List.range c.pend.length).filter fun i => s.storeReady c i) with
    | none => s
    | some i => (s.applyStore c i).tick

/-- The lines of a store that has been applied: their tag, its first byte and its length; none for one that is not, or that is on a far page. -/
def Pend.lines (p : Pend) (asid : BitVec 16) : Option (Option (BitVec 16) × Nat × Nat) :=
  match p.what, p.st with
  | .store l _ _, .applied => l.leaf.bind fun x => if x.far then none else some (x.tag asid, l.va.toNat, l.data.length)
  | _, _ => none

/-- The L1s a store that has been applied still waits for before it is acknowledged (08 R181). -/
def State.ackWaits (s : State) (c : Ctx) (p : Pend) : List Ctx :=
  match p.lines c.asid with
  | some (tag, va, n) => s.owed tag va n
  | none => []

/-- Every store of a context that has been applied is forwarded to the L1s its slice reaches, and is acknowledged if no L1 is left (08 R181). -/
def State.ackAll (s : State) (c : Ctx) : State :=
  let t := c.pend.foldl (fun u p => match p.lines c.asid with
    | some (tag, va, n) => u.l1Settle tag va n
    | none => u) s
  t.onCtx c.id fun y => { y with pend := y.pend.filter fun p => !(decide (p.st = .applied) && (t.ackWaits c p).isEmpty) }

/-- The stores of a queue that may be performed at once are, oldest first, and are acknowledged (09 R205, R214, R220). -/
def State.pushStores (s : State) (c : Nat) : (fuel : Nat) → State
  | 0 => s
  | n + 1 =>
    match s.ctx? c with
    | none => s
    | some x =>
      match (List.range x.pend.length).find? fun i => s.storeReady x i with
      | none => s.ackAll x
      | some i =>
        let t := s.applyStore x i
        (match t.ctx? c with
          | some y => t.ackAll y
          | none => t).pushStores c n

/-- Whether a late fault of a task is about to be recorded: its ring has room for the record (17 R339). -/
def State.recordDue (s : State) (c : Ctx) : Bool :=
  decide (c.afHead - c.afTail ≠ 63) && s.recq.any fun r => decide (r.owner = c.recA) && decide (r.asid = c.asid) && r.load.isNone

/-- Whether a queued entry is a store not yet acknowledged. -/
def Pend.isStore (p : Pend) : Bool :=
  match p.what with
  | .store _ _ _ => true
  | _ => false

/-- Whether a context has unserved stores, faulted ones and those not yet back in its buffers among them. -/
def Ctx.hasStores (c : Ctx) : Bool := c.entries.any Pend.isStore

/-- Whether a late fault of a store is not yet replayed or discarded (09 R216). -/
def Ctx.hasFault (c : Ctx) : Bool :=
  c.pend.any fun p => match p.st with
    | .faulted _ _ => true
    | _ => false

/-- Whether a store still waits for its permission entry (18 R371). -/
def State.awaitsEntry (s : State) (c : Ctx) : Bool :=
  c.pend.any fun p =>
    match p.what, p.st with
    | .store l _ _, .waiting => decide (s.pendPerm c p l = .missing)
    | _, _ => false

/-- Whether nothing of a context's committed stores moves any more: each is performed, or held behind a late fault (09 R216; 18 R371). -/
def State.quiet (s : State) (c : Ctx) : Bool :=
  (c.pend.all fun p => decide (p.st ≠ .applied)) && !((List.range c.pend.length).any fun i => s.storeReady c i) && !s.awaitsEntry c
    && (c.hasFault || (c.pend.isEmpty && c.heldIn.isEmpty))

/-- An acquire of a lens at DIE scope or wider: its L1s drop their U lines and take every update the slices have sent them (08 R181; 09 R207, R211, R212). -/
def State.acquired (s : State) (c : Nat) : State :=
  s.onCtx c fun x => { x with l1 := (x.l1.filter fun y => !y.u).map fun y => if s.lineCut x.tower y.tag y.line then y else y.settle }

/-! ### Records -/

/-- The 128 bytes of an afterimage record, disp 00 (17 R340). -/
def AfRec.bytes (r : AfRec) : List Byte :=
  let size := if r.src.toNat ≤ 1 then r.data.length - 1 else 0
  let q0 := r.kind.code + r.src.toNat * 2 ^ 5 + r.eff.toNat * 2 ^ 10 + r.iid.toNat * 2 ^ 16 + size * 2 ^ 24
    + r.cause.toNat * 2 ^ 32 + r.seq.toNat * 2 ^ 48
  let qs : List Nat := [q0, r.va.toNat, r.clause.toNat, r.ticket.toNat, r.owner.toNat,
    r.idx.toNat + r.idx2.toNat * 2 ^ 32, r.asid.toNat + r.hyp.toNat * 2 ^ 16, 0]
  (qs.flatMap fun q => natToBytes 8 q) ++ (r.data ++ List.replicate (64 - r.data.length) 0)

/-- A class-2 entry: a record with no ring to take it (17 R338). -/
def State.fqRecord (s : State) (r : AfRec) : State :=
  s.fqPush r.tower { FqEntry.blank r.kind.code 2 s.time with
    asid := r.asid
    subject := if r.load.isSome then r.owner &&& 0x00FFFFFFFFFFFFFF#64 else r.owner
    clause := r.clause
    va := r.va
    body := r.bytes }

end Sys2Proof.Machine
end

