-- ==== Sys2Proof/Machine/LoadStore.lean ====
section
/-! DEFINITION. Sys2Proof/Machine/LoadStore.lean: scalar, block, strided, gathered and prefetching loads and stores (05 R138 to R149), and HLDC (10 R250). -/

namespace Sys2Proof.Machine

/-! ### When a load is performed -/

/-- Whether an effect that has fired is an acquire at DIE scope or wider (09 R207, R211, R214). -/
def EffOut.acquires : EffOut → Bool
  | .fired .acquire => true
  | .fired (.inboxTake _) => true
  | .fired (.fence k sc) => (decide (k = 0) || decide (k = 2) || decide (k = 3)) && decide (sc ≠ .lens)
  | _ => false

/-- Every effect of the clause in a lower slot has fired or been nulled, every load among them delivered (09 R220). -/
def Inst.lowerServed (x : Inst) (eff : BitVec 5) : Bool :=
  (List.range eff.toNat).all fun e => !x.hdr.effmask.getLsbD e || (x.effOut? (BitVec.ofNat 5 e)).isSome

/-- Whether an access of a clause goes to an S page. -/
def State.sPage (s : State) (c : Ctx) (iid : BitVec 7) (p : Word × Nat) : Bool :=
  (pageParts p.1 p.2).any fun q => match s.permLook c.tower (c.cellOf iid) c.asid q.1 .load with
    | .ok l => decide (l.kind = 0)
    | _ => false

/-- Whether a store of an S page is on its way and not held behind a late fault (09 R205, R216). -/
def State.sPending (s : State) (c : Ctx) : Bool :=
  (c.entries.takeWhile fun p => match p.st with
    | .faulted _ _ => false
    | _ => true).any fun p => match p.what with
      | .store l _ _ => decide (s.pendKind c p l = 0) || decide (s.pendPerm c p l = .missing)
      | _ => false

/-- Whether an effect of a clause below a slot orders the loads above it: an acquire, a fence or an instruction of 09 R220 not yet served, an acquiring fence, or an acquire whose load may still be read again (09 R211, R214, R220). -/
def Inst.ordersBelow (x : Inst) (eff : Nat) : Bool :=
  (List.range x.words.length).any fun k =>
    match x.instrAt (BitVec.ofNat 7 k) with
    | none => false
    | some i =>
      match i.effSlot with
      | none => false
      | some e => decide (e.toNat < eff) && x.hdr.effmask.getLsbD e.toNat && (match x.effOut? e with
        | none => i.mayAcquire || i.isR220
        | some o => o.acquires && !x.loads.any fun r => decide (r.eff = e) && r.final)

/-- Whether nothing of a clause below a slot that goes to memory is still to be performed: what a load of an S page follows (09 R205). -/
def Inst.belowPerformed (x : Inst) (eff : BitVec 5) : Bool :=
  x.lowerServed eff && (x.loads.all fun r => r.final || decide (eff.toNat ≤ r.eff.toNat)) && (x.lanesBelow eff.toNat).isEmpty

/-- Whether a load is performed as it fires: its clause is the oldest, every store before it is known, and nothing before it still orders it; another is read again where it is performed (05 R140, R149; 09 R203, R205, R211; log 29). -/
def State.performsNow (s : State) (c : Ctx) (x : Inst) (eff : BitVec 5) (lanes : List (Word × Nat)) : Bool :=
  s.oldest && !c.storesUnknown 0 eff.toNat && !x.ordersBelow eff.toNat
    && (!(lanes.any fun p => s.sPage c s.focus.iid p) || (x.belowPerformed eff && !s.sPending c))

/-- A load is kept with its clause; an acquire that is performed drops the U lines at once (09 R207, R211). -/
def State.keepLoad (s : State) (r : LoadRec) (act : Action) : State :=
  let t := s.onInst fun y => { y with loads := (y.loads.filter fun q => !decide (q.iid = r.iid)) ++ [r] }
  if r.final && decide (act = .acquire) then t.acquired s.focus.ctx else t

/-- A load fires (05 R139 to R149; 08 R194): its checks, its waits, its bytes. -/
def State.fireLoad (s : State) (i : Instr) (eff : BitVec 5) (lanes : List (Word × Nat)) (hyp0 : Bool) (act : Action) (mk : List (List Byte) → Token) : Act :=
  match s.fctx, s.finst, lanes.find? fun p => !canonical p.1 p.2 with
  | none, _, _ => .waits s
  | _, none, _ => .waits s
  | _, _, some p => .fires (s.loadPoison i .perm p.1)
  | some c, some x, none =>
    if x.linkDead.contains s.focus.iid then .fires (s.loadPoison i .linklost ((lanes.head?.map fun p => p.1).getD 0))
    else if c.loadWaits x s.focus eff then .waits s
    else
      let r := s.loadAll c s.focus.win s.focus.iid eff.toNat hyp0 lanes
      if r.wait then .waits r.st.beginWait
      else
        match r.bad with
        | some (k, va) => .fires (r.st.loadPoison i k va)
        | none =>
          if ((lanes.any fun p => s.farAcc c (c.cellOf s.focus.iid) p.1 p.2 .load) && (x.waitSince s.focus.iid).isNone)
              || lanes.any fun p => s.cutAcc c (c.cellOf s.focus.iid) p.1 p.2 .load then
            .waits s.beginWait
          else .fires (((r.st.keepLoad ⟨s.focus.iid, eff, lanes, r.bytes, hyp0, s.performsNow c x eff lanes⟩ act).effect i act).deliver i (mk r.bytes))


/-- The scalar token of n loaded bytes, sign- or zero-extended (05 R141). -/
def scalarOf (n : Nat) (sgn : Bool) (bs : List (List Byte)) : Token :=
  let x := bytesToNat ((bs.head?).getD [])
  .scalar (if sgn then BitVec.ofInt 64 (sgnOf (8 * n) x) else w64 x)

/-- The wide token of 64 loaded bytes (05 R144). -/
def wideOf (bs : List (List Byte)) : Token := .wide (BitVec.ofNat 512 (bytesToNat (bs.foldr (fun a b => a ++ b) [])))

/-- LD in every size (05 R141). -/
def ldAct (i : Instr) (eff : BitVec 5) (imm : BitVec 9) (n : Nat) (sgn : Bool) (v : Vals) (s : State) : Act :=
  s.fireLoad i eff [(v.a.bits + immScaled imm n, n)] false .done (scalarOf n sgn)

/-- ST in every size (05 R142). -/
def stAct (i : Instr) (imm : BitVec 18) (n : Nat) (v : Vals) (s : State) : Act :=
  s.fireStore i [(v.a.bits + immScaled imm n, natToBytes n v.b.bits.toNat)] false false

/-- Lane addresses of a strided access (05 R145). -/
def stridedVas (sh : Shape) (a b : Word) : List Word := (List.range (512 / (Shape.bits sh))).map fun j => a + b * w64 j

/-- Lane addresses of a gathered access (05 R146). -/
def gatheredVas (sh : Shape) (uns : Bool) (scale : BitVec 2) (a : Word) (b : Wide) : List Word :=
  (lanesOf (Shape.bits sh) b).map fun x =>
    a + (if uns then w64 x else BitVec.ofInt 64 (sgnOf (Shape.bits sh) x)) * w64 (2 ^ scale.toNat)

/-- The data of a lane-wise store: each lane's address with its bytes. -/
def laneData (sh : Shape) (vas : List Word) (c : Wide) : List (Word × List Byte) :=
  List.zipWith (fun va x => (va, natToBytes ((Shape.bits sh) / 8) x)) vas (lanesOf (Shape.bits sh) c)

/-- LD.zb (05 R141). -/
def execLdZb (pr : Pred) (eff : BitVec 5) (imm : BitVec 9) (t : Tgt) (s : State) : Host.Outcome State Fault Refusal :=
  fire s (.ldZb pr eff imm t) (ldAct (.ldZb pr eff imm t) eff imm 1 false)

/-- LD.zh (05 R141). -/
def execLdZh (pr : Pred) (eff : BitVec 5) (imm : BitVec 9) (t : Tgt) (s : State) : Host.Outcome State Fault Refusal :=
  fire s (.ldZh pr eff imm t) (ldAct (.ldZh pr eff imm t) eff imm 2 false)

/-- LD.zw (05 R141). -/
def execLdZw (pr : Pred) (eff : BitVec 5) (imm : BitVec 9) (t : Tgt) (s : State) : Host.Outcome State Fault Refusal :=
  fire s (.ldZw pr eff imm t) (ldAct (.ldZw pr eff imm t) eff imm 4 false)

/-- LD.d (05 R141). -/
def execLdD (pr : Pred) (eff : BitVec 5) (imm : BitVec 9) (t : Tgt) (s : State) : Host.Outcome State Fault Refusal :=
  fire s (.ldD pr eff imm t) (ldAct (.ldD pr eff imm t) eff imm 8 false)

/-- LD.sb (05 R141). -/
def execLdSb (pr : Pred) (eff : BitVec 5) (imm : BitVec 9) (t : Tgt) (s : State) : Host.Outcome State Fault Refusal :=
  fire s (.ldSb pr eff imm t) (ldAct (.ldSb pr eff imm t) eff imm 1 true)

/-- LD.sh (05 R141). -/
def execLdSh (pr : Pred) (eff : BitVec 5) (imm : BitVec 9) (t : Tgt) (s : State) : Host.Outcome State Fault Refusal :=
  fire s (.ldSh pr eff imm t) (ldAct (.ldSh pr eff imm t) eff imm 2 true)

/-- LD.sw (05 R141). -/
def execLdSw (pr : Pred) (eff : BitVec 5) (imm : BitVec 9) (t : Tgt) (s : State) : Host.Outcome State Fault Refusal :=
  fire s (.ldSw pr eff imm t) (ldAct (.ldSw pr eff imm t) eff imm 4 true)

/-- ST.b (05 R142). -/
def execStB (pr : Pred) (eff : BitVec 5) (imm : BitVec 18) (s : State) : Host.Outcome State Fault Refusal :=
  fire s (.stB pr eff imm) (stAct (.stB pr eff imm) imm 1)

/-- ST.h (05 R142). -/
def execStH (pr : Pred) (eff : BitVec 5) (imm : BitVec 18) (s : State) : Host.Outcome State Fault Refusal :=
  fire s (.stH pr eff imm) (stAct (.stH pr eff imm) imm 2)

/-- ST.w (05 R142). -/
def execStW (pr : Pred) (eff : BitVec 5) (imm : BitVec 18) (s : State) : Host.Outcome State Fault Refusal :=
  fire s (.stW pr eff imm) (stAct (.stW pr eff imm) imm 4)

/-- ST.d (05 R142). -/
def execStD (pr : Pred) (eff : BitVec 5) (imm : BitVec 18) (s : State) : Host.Outcome State Fault Refusal :=
  fire s (.stD pr eff imm) (stAct (.stD pr eff imm) imm 8)

/-- LDACQ: LD.d of an aligned address, and an acquire (05 R143, 09 R211). -/
def execLdacq (pr : Pred) (eff : BitVec 5) (imm : BitVec 9) (t : Tgt) (s : State) : Host.Outcome State Fault Refusal :=
  fire s (.ldacq pr eff imm t) fun v u =>
    let va := v.a.bits + immScaled imm 8
    if canonical va 8 && !bitsZero va 0 3 then .fires (u.loadPoison (.ldacq pr eff imm t) .misalign va)
    else u.fireLoad (.ldacq pr eff imm t) eff [(va, 8)] false .acquire (scalarOf 8 false)

/-- STREL: ST.d of an aligned address, and a release (05 R143, 09 R210). -/
def execStrel (pr : Pred) (eff : BitVec 5) (imm : BitVec 18) (s : State) : Host.Outcome State Fault Refusal :=
  fire s (.strel pr eff imm) fun v u =>
    let va := v.a.bits + immScaled imm 8
    if canonical va 8 && !bitsZero va 0 3 then .fires ((u.notePoison va).effectPoison (.strel pr eff imm) .misalign)
    else u.fireStore (.strel pr eff imm) [(va, natToBytes 8 v.b.bits.toNat)] true false

/-- VLD (05 R144). -/
def execVld (pr : Pred) (eff : BitVec 5) (imm : BitVec 9) (t : Tgt) (s : State) : Host.Outcome State Fault Refusal :=
  fire s (.vld pr eff imm t) fun v u =>
    u.fireLoad (.vld pr eff imm t) eff [(v.a.bits + immScaled imm 64, 64)] false .done wideOf

/-- VST (05 R144). -/
def execVst (pr : Pred) (eff : BitVec 5) (imm : BitVec 18) (s : State) : Host.Outcome State Fault Refusal :=
  fire s (.vst pr eff imm) fun v u =>
    u.fireStore (.vst pr eff imm) [(v.a.bits + immScaled imm 64, natToBytes 64 v.b.wbits.toNat)] false false

/-- VLDS (05 R145). -/
def execVlds (pr : Pred) (eff : BitVec 5) (sh : Shape) (t : Tgt) (s : State) : Host.Outcome State Fault Refusal :=
  fire s (.vlds pr eff sh t) fun v u =>
    u.fireLoad (.vlds pr eff sh t) eff ((stridedVas sh v.a.bits v.b.bits).map fun va => (va, Shape.bits sh / 8)) false .done wideOf

/-- VSTS: its lanes are written in increasing order (05 R145). -/
def execVsts (pr : Pred) (eff : BitVec 5) (sh : Shape) (s : State) : Host.Outcome State Fault Refusal :=
  fire s (.vsts pr eff sh) fun v u =>
    u.fireStore (.vsts pr eff sh) (laneData sh (stridedVas sh v.a.bits v.b.bits) v.c.wbits) false true

/-- VGATH (05 R146). -/
def execVgath (pr : Pred) (eff : BitVec 5) (sh : Shape) (uns : Bool) (scale : BitVec 2) (t : Tgt) (s : State) : Host.Outcome State Fault Refusal :=
  fire s (.vgath pr eff sh uns scale t) fun v u =>
    u.fireLoad (.vgath pr eff sh uns scale t) eff
      ((gatheredVas sh uns scale v.a.bits v.b.wbits).map fun va => (va, Shape.bits sh / 8)) false .done wideOf

/-- VSCAT: its lanes are written in increasing order (05 R146). -/
def execVscat (pr : Pred) (eff : BitVec 5) (sh : Shape) (uns : Bool) (scale : BitVec 2) (s : State) : Host.Outcome State Fault Refusal :=
  fire s (.vscat pr eff sh uns scale) fun v u =>
    u.fireStore (.vscat pr eff sh uns scale) (laneData sh (gatheredVas sh uns scale v.a.bits v.b.wbits) v.c.wbits) false true

/-- PREF uses its effect slot and changes nothing else (05 R147). -/
def execPref (pr : Pred) (eff : BitVec 5) (wr : Bool) (lvl : PrefLevel) (s : State) : Host.Outcome State Fault Refusal :=
  fire s (.pref pr eff wr lvl) fun _ u => .fires (u.effect (.pref pr eff wr lvl) .done)

/-- Bytes of an HLDC (10 R250). -/
def MemSize.bytes : MemSize → Nat
  | .b => 1
  | .h => 2
  | .w => 4
  | .d => 8

/-- HLDC loads from hypothesis 0, whatever HYPCUR is; its acquire form needs alignment as LDACQ does (10 R250). -/
def execHldc (pr : Pred) (eff : BitVec 5) (acq : Bool) (sgn : Bool) (size : MemSize) (t : Tgt) (s : State) : Host.Outcome State Fault Refusal :=
  fire s (.hldc pr eff acq sgn size t) fun v u =>
    let n := MemSize.bytes size
    if acq && canonical v.a.bits n && !bitsZero v.a.bits 0 3 then .fires (u.loadPoison (.hldc pr eff acq sgn size t) .misalign v.a.bits)
    else
      u.fireLoad (.hldc pr eff acq sgn size t) eff [(v.a.bits, n)] true (if acq then .acquire else .done) (scalarOf n sgn)

end Sys2Proof.Machine
end

