-- ==== Sys2Proof/Machine/Order.lean ====
section
/-! DEFINITION. Sys2Proof/Machine/Order.lean: the conditions of 09 R220 with the stores sent ahead, atomics, fences, waits and barriers (09 R210 to R229). -/

namespace Sys2Proof.Machine

/-! ### Loads fixed and clauses run again -/

/-- What reading a clause's loads again shows. -/
inductive Recheck where
  | same (s : State)
  | waits (s : State)
  | differs (s : State)
  deriving DecidableEq, Repr

/-- Read the loads of the oldest clause again, slot by slot with its acquires between them: this is where they are performed (05 R149; 09 R211, R214). -/
def State.recheck (s : State) (cid : Nat) : List Nat → Recheck
  | [] => .same s
  | e :: rest =>
    match s.ctx? cid with
    | none => .waits s
    | some c =>
      match c.window with
      | [] => .waits s
      | x :: _ =>
        let acq := match x.effOut? (BitVec.ofNat 5 e) with
          | some o => o.acquires
          | none => false
        match x.loads.find? fun r => decide (r.eff.toNat = e) && !r.final with
        | none => (if acq then s.acquired cid else s).recheck cid rest
        | some r =>
          let q := s.loadAll c 0 r.iid e r.hyp0 r.parts
          if q.wait then .waits q.st
          else if q.bad.isSome || decide (q.bytes ≠ r.bytes) then .differs q.st
          else (if acq then q.st.acquired cid else q.st).recheck cid rest

/-- A state with the L1s of another: what acquires have dropped stays dropped when a clause is repeated (09 R207). -/
def State.withL1 (s u : State) : State :=
  { s with ctxs := s.ctxs.map fun c : Ctx => { c with l1 := ((u.ctx? c.id).map Ctx.l1).getD c.l1 } }

/-- What an instance held right after it was placed. -/
def Snap.placed : Snap :=
  { toks := [], fired := [], gw := [], ww := [], effs := [], branch := none, rft := false, flags := 0, loads := [], poisonVa := []
    newHyps := [], grants := [], edgeRes := [], taskRes := 0 }

/-- An instance as it was placed, or as it stood when it last performed an effect or sent stores ahead; its other stores are kept as a forecast (05 R149; 09 R221). -/
def Inst.again (x : Inst) : Inst :=
  let p := x.snap.getD Snap.placed
  { x with
    mark := if x.fired.isEmpty then x.mark else none
    toks := p.toks
    fired := p.fired
    waits := []
    gw := p.gw
    ww := p.ww
    effs := p.effs
    branch := p.branch
    rft := p.rft
    flags := p.flags
    loads := p.loads
    poisonVa := p.poisonVa
    newHyps := p.newHyps
    grants := p.grants
    edgeRes := p.edgeRes
    taskRes := p.taskRes
    syncs := []
    draws := []
    kept := x.kept ++ x.draws
    forecast := x.effs.filterMap fun q => match q.2 with
      | .fired (.store ps _ _) => some (q.1, ps)
      | _ => none }

/-- What an instance gives back when its clause is repeated: what it took since it was placed, or since it last performed an effect. -/
def Inst.givesBack (x : Inst) : Inst :=
  let p := x.snap.getD Snap.placed
  { x with newHyps := x.newHyps.filter fun h => !p.newHyps.contains h, grants := x.grants.filter fun g => !p.grants.contains g }

/-- The generators of a task take back the draws of clauses that run again, as far as no other draw followed them; the others wait for their instructions (03 R74; 05 R149). -/
def Ctx.undrawAll (c : Ctx) : Ctx :=
  let ds := c.window.flatMap fun x => x.draws ++ x.kept
  let r := undraw ds.length c.gens ds
  { c with
    gens := r.1
    window := c.window.map fun x => { x with draws := x.draws.filter r.2.contains, kept := x.kept.filter r.2.contains } }

/-- A load found otherwise than it was delivered: the part repeats its clause, and with it the younger ones, which stay where they were fetched; of the earlier run no count, no draw and no register shows (05 R149). -/
def State.rerun (s : State) (cid : Nat) : State :=
  match s.ctx? cid with
  | none => s
  | some c => ((c.window.foldl (fun u x => u.release x.givesBack) s).onCtx cid fun y =>
      let y := y.undrawAll
      { y with window := y.window.map Inst.again }).forgetReads c |>.tick

/-! ### The conditions of R220 -/

/-- Whether a store part to scratch would merge into a word with an error that cannot be corrected (23 R426). -/
def Ctx.merges (c : Ctx) (l : Lane) : Bool :=
  let off := l.va.toNat - scratchBase
  decide (scratchBase ≤ l.va.toNat) && c.badScratch.any fun w =>
    meetsWord w off l.data.length && !(decide (off ≤ w * 8) && decide (w * 8 + 8 ≤ off + l.data.length))

/-- The queue entries of a store that a clause hands over: its parts outside scratch, and those that merge into a bad word of it, which fault late. -/
def storePends (c : Ctx) (x : Inst) (eff : BitVec 5) (iid : BitVec 7) (ps : List Lane) (rel many : Bool) (now : Nat) : List Pend :=
  (ps.filter fun l => decide (l.va.toNat < scratchBase) || c.merges l).map fun l =>
    ⟨.store l rel many, .waiting, c.posOf iid, eff, iid, x.addr, c.commitCount + 1, c.hyp, 0, now, false⟩

/-- The instruction that served an effect slot. -/
def Inst.iidOf (x : Inst) (eff : BitVec 5) : BitVec 7 :=
  match (List.range x.words.length).find? fun k =>
    x.fired.contains (BitVec.ofNat 7 k) &&
      (match x.instrAt (BitVec.ofNat 7 k) with
       | some i => decide (i.effSlot = some eff) && x.predHolds (BitVec.ofNat 7 k) i
       | none => false) with
  | some k => BitVec.ofNat 7 k
  | none => 0

/-- Lens scratch takes the bytes of a store (08 R179). -/
def Ctx.putScratch (c : Ctx) (l : Lane) : Ctx :=
  let off := l.va.toNat - scratchBase
  if l.va.toNat < scratchBase then c
  else
    { c with
      scratch := Memory.setN c.scratch off l.data
      badScratch := c.badScratch.filter fun w => !(decide (off ≤ w * 8) && decide (w * 8 + 8 ≤ off + l.data.length)) }

/-- Free entries of the late-fault store buffer of a position: a faulted store gives up its own once its record is in its ring (08 R195; 17 R339). -/
def Ctx.freeEntries (c : Ctx) (pos : Nat) : Nat :=
  64 - (c.pend.filter fun p => p.isStore && decide (p.pos = pos) && (match p.st with
    | .faulted _ _ => p.due
    | _ => true)).length

/-- Whether new entries find room in the buffers of their cells (08 R195). -/
def Ctx.roomFor (c : Ctx) (ps : List Pend) : Bool :=
  ps.all fun p => decide ((ps.filter fun q => q.isStore && decide (q.pos = p.pos)).length ≤ c.freeEntries p.pos)

/-- The stores of an instance in slots of a list, as queue entries in slot order, with the slots they came from. -/
def storesOf (c : Ctx) (x : Inst) (slots : List Nat) (now : Nat) : List (BitVec 5 × List Lane × List Pend) :=
  slots.filterMap fun e =>
    let ef := BitVec.ofNat 5 e
    if x.sent.contains ef then none
    else
      match x.effOut? ef with
      | some (.fired (.store ps rel many)) => some (ef, ps, storePends c x ef (x.iidOf ef) ps rel many now)
      | _ => none

/-- Whether a store part to scratch meets a descriptor that a held streamer command, an older one, has still to read (09 R214; 13 R280). -/
def Ctx.descHeld (c : Ctx) (l : Lane) : Bool :=
  decide (scratchBase ≤ l.va.toNat) && c.pend.any fun p => match p.what with
    | .act (.streamer _ _ a b _) => l.meets a 64 || l.meets b 64
    | _ => false

/-- Whether stores find room in the late-fault store buffers behind what has still to come back into them, and leave what older commands have still to read (08 R195; 13 R280; 18 R376). -/
def Ctx.canTake (c : Ctx) (st : List (BitVec 5 × List Lane × List Pend)) : Bool :=
  st.isEmpty || (c.heldIn.isEmpty && c.roomFor (st.flatMap fun p => p.2.2) && !st.any fun p => p.2.1.any c.descHeld)

/-- Whether a queue entry holds a store part. -/
def Pend.holds (p : Pend) (l : Lane) : Bool :=
  match p.what with
  | .store m _ _ => decide (m = l)
  | _ => false

/-- The part hands stores to the memory system: scratch takes its bytes at once, the rest enters the queue (01 R20; 08 R179, R195). -/
def Ctx.takeStores (c : Ctx) (st : List (BitVec 5 × List Lane × List Pend)) : Ctx :=
  st.foldl (fun c p => (p.2.1.filter fun l => !p.2.2.any fun q => q.holds l).foldl Ctx.putScratch { c with pend := c.pend ++ p.2.2 }) c

/-! ### Loads behind stores -/

/-- Whether a store part goes to memory, to an S page as far as is known. -/
def State.sLane (s : State) (c : Ctx) (cell : Nat) (l : Lane) : Bool :=
  decide (l.va.toNat < scratchBase) &&
    (match l.leaf with
     | some y => decide (y.kind = 0)
     | none => match s.permLook c.tower cell c.asid l.va .store with
       | .ok y => decide (y.kind = 0)
       | .missing => true
       | .bad _ => false)

/-- The slot below which the stores of a clause must be performed before its loads in slots below `hi`: a load of an S page behind a store of one, or a load behind a fence of kind sc (09 R205, R214). -/
def State.storesFirst (s : State) (c : Ctx) (x : Inst) (hi : Nat) : Nat :=
  let loads := x.loads.filter fun r => !r.final && decide (r.eff.toNat < hi)
  let sStore (e : Nat) : Bool := match x.effOut? (BitVec.ofNat 5 e) with
    | some (.fired (.store ps _ _)) => !x.sent.contains (BitVec.ofNat 5 e) && ps.any (s.sLane c (c.cellOf (x.iidOf (BitVec.ofNat 5 e))))
    | _ => false
  let byS := loads.filterMap fun r =>
    if (r.parts.any fun p => s.sPage c r.iid p) && (List.range r.eff.toNat).any sStore then some r.eff.toNat else none
  let byF := (List.range 32).filter fun e => (match x.effOut? (BitVec.ofNat 5 e) with
    | some (.fired (.fence k _)) => decide (k = 3)
    | _ => false) && loads.any fun r => decide (e < r.eff.toNat)
  (byS ++ byF).foldl Nat.max 0

/-- What performing loads of a clause comes to. -/
inductive Loads where
  | ready (s : State)
  | wait (s : State)
  | again (s : State)
  deriving DecidableEq, Repr

/-- The loads of the oldest clause in slots below `hi` that are not fixed are performed; those that must follow stores of their clause are read again after these, in one step with the loads below (05 R149; 09 R203, R205, R214). -/
def State.performLoads (s : State) (c : Ctx) (x : Inst) (hi : Nat) : Loads :=
  match s.recheck c.id (List.range hi) with
  | .waits t => .wait t
  | .differs t => .again t
  | .same t =>
    let loads := x.loads.filter fun r => !r.final && decide (r.eff.toNat < hi)
    if loads.isEmpty then .ready t
    else if c.scFence || ((loads.any fun r => r.parts.any fun p => t.sPage c r.iid p) && t.sPending c) then .wait s
    else
      let b := t.storesFirst c x hi
      if b = 0 then .ready t
      else
        let st := storesOf c x (List.range b) t.time
        if !c.canTake st then .wait s
        else
          let u := (t.onCtx c.id fun y => { y.takeStores st with
            window := y.window.modify 0 fun z => { z with sent := z.sent ++ st.map fun p => p.1 } }).pushStores c.id 64
          let left := match u.ctx? c.id with
            | some y => u.sPending y || y.pend.any fun p => p.isStore && (match p.st with
                | .faulted _ _ => false
                | _ => true)
            | none => true
          if left then .wait ((st.flatMap fun p => p.2.2).foldl (fun w p => match p.what with
            | .store l _ _ => match w.pendPerm c p l with
              | .missing => w.permAsk c.tower (c.pendCell p) c.asid l.va .store
              | _ => w
            | _ => w) s)
          else
            match u.recheck c.id ((List.range hi).filter fun e => decide (b ≤ e)) with
            | .same w => .ready w
            | .waits _ => .wait s
            | .differs w => .again (t.withL1 w)

/-- Whether an acquire of a clause between two slots has still to be served (09 R211). -/
def Inst.acquireBetween (x : Inst) (lo hi : Nat) : Bool :=
  (List.range x.words.length).any fun k =>
    match x.instrAt (BitVec.ofNat 7 k) with
    | none => false
    | some i =>
      match i.effSlot with
      | none => false
      | some e => i.mayAcquire && decide (lo < e.toNat) && decide (e.toNat < hi) && x.hdr.effmask.getLsbD e.toNat && (x.effOut? e).isNone

/-- What the gate of R220 answers. -/
inductive Gate where
  | waits (s : State)
  | goes (s : State)
  deriving DecidableEq, Repr

/-- What an instruction of R220 asks of the stores before it: `rel` that every one be performed, with no late fault open; a relaxed atomic that those which meet its bytes be performed, and for an S page those to S pages (09 R203, R205, R210, R216). -/
structure GateAsks where
  rel : Bool
  /-- Later loads must not have gone first (09 R211). -/
  acq : Bool
  /-- The bytes a relaxed atomic touches. -/
  bytes : Option Lane
  /-- They lie on an S page. -/
  sKind : Bool
  /-- It is an engine command, ordered by fences of kind engine (09 R214). -/
  engine : Bool

/-- Whether a queued entry is a fence that holds what follows it: kinds rel, acqrel and sc for an atomic, kind engine for an engine command (09 R214). -/
def Pend.fences (p : Pend) (engine : Bool) : Bool :=
  match p.what with
  | .fence k _ => decide (1 ≤ k) && (engine || decide (k ≤ 3))
  | _ => false

/-- Whether a clause has a fence below a slot behind which stores wait (09 R214). -/
def Inst.fenceBelow (x : Inst) (eff : BitVec 5) : Bool :=
  (List.range eff.toNat).any fun e => match x.effOut? (BitVec.ofNat 5 e) with
    | some (.fired (.fence k _)) => decide (1 ≤ k) && decide (k ≤ 3)
    | _ => false

/-- Whether a store before an instruction of R220 keeps it from acting. -/
def State.storesBusy (s : State) (c : Ctx) (a : GateAsks) (fenced : Bool) : Bool :=
  ((a.rel || fenced) && c.hasStores) || (c.entries.any fun p => p.fences a.engine) || (a.sKind && s.sPending c)
    || (match a.bytes with
      | some l => c.entries.any fun p => match p.what with
        | .store m _ _ => m.clashes l
        | _ => false
      | none => false)

/-- Whether a load of a slot above an atomic reads bytes of it: it follows the atomic, and must not have gone before it (01 R18; 09 R203, R205). -/
def GateAsks.meets (a : GateAsks) (eff : BitVec 5) (r : LoadRec) : Bool :=
  decide (eff.toNat < r.eff.toNat) && (match a.bytes with
    | some l => r.parts.any fun p => l.meets p.1 p.2
    | none => false)

/-- The loads an instruction finds gone before it wait for it when the clause runs again (05 R149; log 29). -/
def Inst.hold (x : Inst) (rs : List LoadRec) : Inst := { x with mustWait := x.mustWait ++ (rs.map fun r => r.iid).filter fun k => !x.mustWait.contains k }

/-- The gate before an instruction of R220 acts: the clause is oldest and its lower slots are served; a release whose older stores are still open sends nothing ahead, so that its clause can be squashed (09 R216, R230); else the loads below it are performed, those it rests on are fixed, its lower stores are sent ahead, and what it asks of the stores before it holds (09 R210, R211, R214, R220). -/
def State.gate (s : State) (eff : BitVec 5) (a : GateAsks) : Gate :=
  match s.fctx, s.finst with
  | some c, some x =>
    let early := x.loads.filter fun r => decide (eff.toNat < r.eff.toNat) && !r.final
    let hi := early.foldl (fun n r => Nat.max n (r.eff.toNat + 1)) eff.toNat
    if !s.oldest || !x.lowerServed eff || x.loads.any (fun r => r.final && a.meets eff r && x.mustWait.contains r.iid) then .waits s
    else if (x.loads.any (a.meets eff)) then .waits ((s.onInst fun y => y.hold (x.loads.filter (a.meets eff))).rerun c.id)
    else if a.rel && (c.pend.any (fun p => p.isStore && decide (p.cc ≠ c.commitCount + 1)) || c.heldIn.any Pend.isStore) then .waits s
    else if (a.acq && !early.isEmpty) || (early.any fun r => x.acquireBetween eff.toNat r.eff.toNat) || decide (eff.toNat < s.storesFirst c x hi) then .waits s
    else if !c.canTake (storesOf c x (List.range eff.toNat) s.time) then .waits s
    else
      match s.performLoads c x hi with
      | .wait t => .waits t
      | .again t => .waits (t.rerun c.id)
      | .ready t =>
        match t.fctx.bind fun d => d.window.head?.map fun y => (d, y) with
        | none => .waits t
        | some (d, y) =>
          let st := storesOf d y (List.range eff.toNat) t.time
          let fix (z : Inst) : Inst := { z with loads := z.loads.map fun r => { r with final := true } }
          let t := if st.isEmpty && y.sent.length = x.sent.length then t else
            ((t.onCtx d.id fun z => z.takeStores st).onInst fun z => Inst.keep (fix { z with sent := z.sent ++ st.map fun p => p.1 })).tick
          match t.fctx with
          | none => .waits t
          | some d => if t.storesBusy d a (x.fenceBelow eff) then .waits t else .goes (t.onInst fix)
  | _, _ => .waits s

/-- An instruction performed as it fired: a stop waits for its clause's commit (09 R221). -/
def State.performed (s : State) (eff : BitVec 5) : State := s.onInst fun x => { x with performed := x.performed ++ [eff] }

/-- A bit for each effect slot of a list. -/
def slotMask (es : List (BitVec 5)) : BitVec 32 := es.foldl (fun m e => m ||| (1#32 <<< e.toNat)) 0

/-- The effect slots a clause performed as they fired, and those whose stores it sent ahead (09 R220, R221). -/
def Inst.doneMask (x : Inst) : BitVec 32 := slotMask (x.performed ++ x.sent)

/-- An instruction that is not performed: it delivers poison and its effect is poisoned (09 R220). -/
def State.notPerformed (s : State) (i : Instr) (k : Kind) (va : Word) : State :=
  ((s.takeNotes.notePoison va).effectPoison i k).deliverPoison i k

/-- An instruction of R220 that is not performed fires under the same conditions as one that is, and has sent the stores of lower slots ahead all the same (09 R220). -/
def State.gated (s : State) (eff : BitVec 5) (f : State → State) : Act :=
  match s.gate eff ⟨false, false, none, false, false⟩ with
  | .waits u => .waits u
  | .goes u => .fires (f u)

/-- Whether a scope reaches PKG (13 R293). -/
def Scope.wide : Scope → Bool
  | .pkg => true
  | .sys => true
  | _ => false

/-- The release side of an instruction that acts as it fires (09 R210; 13 R293). -/
def State.releaseHere (s : State) (sc : Scope) : State :=
  match s.fctx with
  | some c => if Scope.wide sc then s.released c.recA c.asid else s
  | none => s

/-- The acquire side: the lens drops its U lines at DIE scope or wider (09 R207, R211). -/
def State.acquireHere (s : State) (sc : Scope) : State := if sc = .lens then s else s.acquired s.focus.ctx

/-! ### Atomics -/

/-- The read and write of an atomic on bytes it may touch, or the fault found there (09 R220). -/
inductive Rmw where
  | done (old : Nat) (s : State)
  | bad (k : Kind) (s : State)
  deriving DecidableEq, Repr

/-- An atomic on lens scratch; one that meets a bad word is not performed (09 R220; 23 R426). -/
def State.rmwScratch (s : State) (c : Ctx) (va : Word) (n : Nat) (f : Nat → Option Nat) : Rmw :=
  if c.badWord (va.toNat - scratchBase) n then .bad .eccunc (s.eccScratch c va)
  else
  let old := bytesToNat (Memory.getN c.scratch (va.toNat - scratchBase) n)
  .done old (match f old with
    | none => s
    | some v => s.onCtx c.id fun x => x.putScratch (.plain va (natToBytes n v)))

/-- An atomic on memory: at the home slice, once its earlier updates have reached the L1s, or at the remote agent of the home package (09 R220; 20 R390). -/
def State.rmwLeaf (s : State) (c : Ctx) (l : Leaf) (va : Word) (n : Nat) (f : Nat → Option Nat) : Rmw :=
  let pa := l.pa va
  if !s.live pa then .bad .notlive s
  else if !s.openAt pa then .bad .perm s
  else if s.badAt pa n then .bad .eccunc (s.eccEntry pa)
  else
    let tag := l.tag c.asid
    let s := if l.far then s else s.l1Settle tag va.toNat n
    let old := bytesToNat (s.paBytes pa n)
    match f old with
    | none => .done old s
    | some v =>
      match s.leafWrite c.asid l va (natToBytes n v) 0 (some c.recA) with
      | .ok t => .done old (t.onCtx c.id fun x => { x.applyU (.plain va (natToBytes n v)) tag with watch := c.watch })
      | .bad k t => .bad k t

/-- Why an atomic at an address is not performed, or where it is, once its permission is known (08 R179; 09 R220, R228; 10 R234; 20 R389, R390). -/
inductive AtomAt where
  | ask (s : State)
  | bad (k : Kind) (s : State)
  /-- In lens scratch, or through a leaf. -/
  | ok (l : Option Leaf)

/-- The checks of an atomic in the order of 09 R220. -/
def State.atomAt (s : State) (c : Ctx) (x : Inst) (va : Word) (n : Nat) (barrier : Bool) : AtomAt :=
  if !canonical va n then .bad .perm s
  else if decide (va.toNat % n ≠ 0) then .bad .misalign s
  else if x.linkDead.contains s.focus.iid then .bad .linklost s
  else
    match c.scratchAcc va n with
    | some none => .bad .perm s
    | some (some _) => .ok none
    | none =>
      match s.permGet c.tower (c.cellOf s.focus.iid) c.asid va .atomic with
      | .ask t => .ask t
      | .bad k t => .bad k t
      | .ok l =>
        if barrier && (decide (l.kind = 2) || l.far) then .bad .ordkind s
        else if l.h && decide (s.hypFinal c.hyp ≠ 0) then .bad .perm s
        else .ok (some l)

/-- An atomic fires (09 R220, R221): the conditions of R220, its checks, the gate, its one read and write, its release and acquire when it is not relaxed; one that is not performed has sent the stores of lower slots ahead all the same. A scope below SYS on a far page acts as SYS. -/
def State.atomic (s : State) (i : Instr) (eff : BitVec 5) (va : Word) (n : Nat) (sc : Scope) (rlx barrier : Bool)
    (f : Nat → Option Nat) (mk : Nat → Token) : Act :=
  match s.fctx, s.finst with
  | some c, some x =>
    if !s.oldest || !x.lowerServed eff then .waits s
    else
      match s.atomAt c x va n barrier with
      | .ask t => .waits t.beginWait
      | .bad k t => t.gated eff fun u => u.notPerformed i k va
      | .ok l =>
        let far := (l.map Leaf.far).getD false
        let sc := if far then .sys else sc
        match s.gate eff ⟨!rlx, !rlx, some (.plain va (List.replicate n 0)), (l.map fun y => decide (y.kind = 0)).getD false, false⟩ with
        | .waits t => .waits t
        | .goes t =>
          let cut := (l.map fun y => !y.far && s.homeCut c.tower (y.tag c.asid) va n).getD false
          if far && ((t.fctx.map fun d => t.farQueued d (c.cellOf s.focus.iid)).getD false) then .waits t
          else if cut || (far && (x.waitSince s.focus.iid).isNone) then .waits t.beginWait
          else
            let act (t : State) : Rmw := match l, t.fctx with
              | none, some d => t.rmwScratch d va n f
              | some y, some d => t.rmwLeaf d y va n f
              | _, none => .bad .perm t
            let r : Rmw := match act t with
              | .bad k u => .bad k u
              | .done _ _ => act (if rlx then t else t.releaseHere sc)
            match r with
            | .bad k u => .fires (u.notPerformed i k va)
            | .done old u =>
              let u := if rlx then u else u.acquireHere sc
              .fires (((u.performed eff).effect i .done).deliver i (mk old))
  | _, _ => .waits s

/-- Bytes of a scalar atomic. -/
def AmoSize.bytes : AmoSize → Nat
  | .w => 4
  | .d => 8

/-- A scalar atomic of AMO1: the new value from the old and b, both of n bits (09 R222). -/
def amoAct (i : Instr) (eff : BitVec 5) (size : AmoSize) (sc : Scope) (rlx : Bool) (op : Nat → Nat → Nat → Nat) (v : Vals) (s : State) : Act :=
  let n := AmoSize.bytes size
  s.atomic i eff v.a.bits n sc rlx false (fun old => some (op (8 * n) old (v.b.bits.toNat % 2 ^ (8 * n)))) fun old => .scalar (w64 old)

/-- AMOADD stores old + b, wrapping (09 R222). -/
def execAmoadd (pr : Pred) (eff : BitVec 5) (size : AmoSize) (sc : Scope) (rlx : Bool) (t : Tgt) (s : State) : Host.Outcome State Fault Refusal :=
  fire s (.amoadd pr eff size sc rlx t) (amoAct (.amoadd pr eff size sc rlx t) eff size sc rlx (fun e x y => (x + y) % 2 ^ e))

/-- AMOAND stores old AND b (09 R222). -/
def execAmoand (pr : Pred) (eff : BitVec 5) (size : AmoSize) (sc : Scope) (rlx : Bool) (t : Tgt) (s : State) : Host.Outcome State Fault Refusal :=
  fire s (.amoand pr eff size sc rlx t) (amoAct (.amoand pr eff size sc rlx t) eff size sc rlx (fun _ x y => x &&& y))

/-- AMOOR stores old OR b (09 R222). -/
def execAmoor (pr : Pred) (eff : BitVec 5) (size : AmoSize) (sc : Scope) (rlx : Bool) (t : Tgt) (s : State) : Host.Outcome State Fault Refusal :=
  fire s (.amoor pr eff size sc rlx t) (amoAct (.amoor pr eff size sc rlx t) eff size sc rlx (fun _ x y => x ||| y))

/-- AMOXOR stores old XOR b (09 R222). -/
def execAmoxor (pr : Pred) (eff : BitVec 5) (size : AmoSize) (sc : Scope) (rlx : Bool) (t : Tgt) (s : State) : Host.Outcome State Fault Refusal :=
  fire s (.amoxor pr eff size sc rlx t) (amoAct (.amoxor pr eff size sc rlx t) eff size sc rlx (fun _ x y => x ^^^ y))

/-- AMOMIN stores the signed smaller (09 R222). -/
def execAmomin (pr : Pred) (eff : BitVec 5) (size : AmoSize) (sc : Scope) (rlx : Bool) (t : Tgt) (s : State) : Host.Outcome State Fault Refusal :=
  fire s (.amomin pr eff size sc rlx t) (amoAct (.amomin pr eff size sc rlx t) eff size sc rlx (fun e x y => if sgnOf e x ≤ sgnOf e y then x else y))

/-- AMOMAX stores the signed larger (09 R222). -/
def execAmomax (pr : Pred) (eff : BitVec 5) (size : AmoSize) (sc : Scope) (rlx : Bool) (t : Tgt) (s : State) : Host.Outcome State Fault Refusal :=
  fire s (.amomax pr eff size sc rlx t) (amoAct (.amomax pr eff size sc rlx t) eff size sc rlx (fun e x y => if sgnOf e x ≤ sgnOf e y then y else x))

/-- AMOMINU stores the unsigned smaller (09 R222). -/
def execAmominu (pr : Pred) (eff : BitVec 5) (size : AmoSize) (sc : Scope) (rlx : Bool) (t : Tgt) (s : State) : Host.Outcome State Fault Refusal :=
  fire s (.amominu pr eff size sc rlx t) (amoAct (.amominu pr eff size sc rlx t) eff size sc rlx (fun _ x y => if x ≤ y then x else y))

/-- AMOMAXU stores the unsigned larger (09 R222). -/
def execAmomaxu (pr : Pred) (eff : BitVec 5) (size : AmoSize) (sc : Scope) (rlx : Bool) (t : Tgt) (s : State) : Host.Outcome State Fault Refusal :=
  fire s (.amomaxu pr eff size sc rlx t) (amoAct (.amomaxu pr eff size sc rlx t) eff size sc rlx (fun _ x y => if x ≤ y then y else x))

/-- AMOSWP stores b (09 R223). -/
def execAmoswp (pr : Pred) (eff : BitVec 5) (size : AmoSize) (sc : Scope) (rlx : Bool) (t : Tgt) (s : State) : Host.Outcome State Fault Refusal :=
  fire s (.amoswp pr eff size sc rlx t) (amoAct (.amoswp pr eff size sc rlx t) eff size sc rlx (fun _ _ y => y))

/-- AMOCAS stores c when the old value is b (09 R223). -/
def execAmocas (pr : Pred) (eff : BitVec 5) (size : AmoSize) (sc : Scope) (rlx : Bool) (t : Tgt) (s : State) : Host.Outcome State Fault Refusal :=
  fire s (.amocas pr eff size sc rlx t) fun v u =>
    let n := AmoSize.bytes size
    u.atomic (.amocas pr eff size sc rlx t) eff v.a.bits n sc rlx false
      (fun old => if old = v.b.bits.toNat % 2 ^ (8 * n) then some (v.c.bits.toNat % 2 ^ (8 * n)) else none)
      fun old => .scalar (w64 old)

/-- The float sum of an atomic: RNE, subnormals kept, no flags (09 R223). -/
def amoFadd (f : FloatFmt) (x y : Nat) : Nat := (f.encode .rne (addVal .rne (f.decode x) (f.decode y)).1).1

/-- AMOFADD stores the float sum in FP32 or FP64 (09 R223). -/
def execAmofadd (pr : Pred) (eff : BitVec 5) (size : AmoSize) (sc : Scope) (rlx : Bool) (t : Tgt) (s : State) : Host.Outcome State Fault Refusal :=
  fire s (.amofadd pr eff size sc rlx t) (amoAct (.amofadd pr eff size sc rlx t) eff size sc rlx
    (fun _ x y => amoFadd (if size = .w then .fp32 else .fp64) x y))

/-- Lanes of VAMOADD: their width and their sum (09 R224). -/
def vamoLane (y : VAmoTy) : Nat × (Nat → Nat → Nat) :=
  match y with
  | .e32 => (32, fun a b => (a + b) % 2 ^ 32)
  | .e64 => (64, fun a b => (a + b) % 2 ^ 64)
  | .f32 => (32, amoFadd .fp32)
  | .bf16 => (16, amoFadd .bf16)

/-- VAMOADD adds every lane of a line as one atomic (09 R224). -/
def execVamoadd (pr : Pred) (eff : BitVec 5) (y : VAmoTy) (sc : Scope) (rlx : Bool) (t : Tgt) (s : State) : Host.Outcome State Fault Refusal :=
  fire s (.vamoadd pr eff y sc rlx t) fun v u =>
    let e := (vamoLane y).1
    u.atomic (.vamoadd pr eff y sc rlx t) eff v.a.bits 64 sc rlx false
      (fun old => some (packNat e (List.zipWith (vamoLane y).2 (lanesNat e (512 / e) old) (lanesOf e v.b.wbits))))
      fun old => .wide (BitVec.ofNat 512 old)

/-! ### Fences -/

/-- A FENCE keeps its kind and its scope for commit (09 R214). -/
def fenceAct (i : Instr) (kind : Nat) (sc : Scope) (_ : Vals) (s : State) : Act := .fires (s.effect i (.fence kind sc))

/-- FENCE of kind acq (09 R214). -/
def execFenceAcq (pr : Pred) (eff : BitVec 5) (sc : Scope) (s : State) : Host.Outcome State Fault Refusal :=
  fire s (.fenceAcq pr eff sc) (fenceAct (.fenceAcq pr eff sc) 0 sc)

/-- FENCE of kind rel (09 R214). -/
def execFenceRel (pr : Pred) (eff : BitVec 5) (sc : Scope) (s : State) : Host.Outcome State Fault Refusal :=
  fire s (.fenceRel pr eff sc) (fenceAct (.fenceRel pr eff sc) 1 sc)

/-- FENCE of kind acqrel (09 R214). -/
def execFenceAcqrel (pr : Pred) (eff : BitVec 5) (sc : Scope) (s : State) : Host.Outcome State Fault Refusal :=
  fire s (.fenceAcqrel pr eff sc) (fenceAct (.fenceAcqrel pr eff sc) 2 sc)

/-- FENCE of kind sc (09 R214). -/
def execFenceSc (pr : Pred) (eff : BitVec 5) (sc : Scope) (s : State) : Host.Outcome State Fault Refusal :=
  fire s (.fenceSc pr eff sc) (fenceAct (.fenceSc pr eff sc) 3 sc)

/-- FENCE of kind engine (09 R214). -/
def execFenceEngine (pr : Pred) (eff : BitVec 5) (sc : Scope) (s : State) : Host.Outcome State Fault Refusal :=
  fire s (.fenceEngine pr eff sc) (fenceAct (.fenceEngine pr eff sc) 4 sc)

/-! ### Waiting and barriers -/

/-- Deliver what a load of one 8-byte word found, keeping it for the check at commit. -/
def State.loadWord (s : State) (i : Instr) (eff : BitVec 5) (va : Word) (bytes : List (List Byte)) (act : Action) (v : Word) : State :=
  let final := match s.fctx, s.finst with
    | some c, some x => s.performsNow c { x with loads := x.loads.filter fun r => !decide (r.iid = s.focus.iid) } eff [(va, 8)]
    | _, _ => false
  ((s.keepLoad ⟨s.focus.iid, eff, [(va, 8)], bytes, false, final⟩ act).effect i act).deliverS i v

/-- The second half of WAITV: it reads and delivers (09 R226). -/
def State.waitvRead (s : State) (i : Instr) (eff : BitVec 5) (va : Word) (acq : Bool) : Act :=
  match s.fctx with
  | none => .waits s
  | some c =>
    let r := s.loadAll c s.focus.win s.focus.iid eff.toNat false [(va, 8)]
    if r.wait then .waits r.st
    else
      match r.bad with
      | some (k, a) => .fires (r.st.loadPoison i k a)
      | none => .fires (r.st.loadWord i eff va r.bytes (if acq then .acquire else .done) (w64 (bytesToNat ((r.bytes.head?).getD []))))

/-- A lens watches the line of an address for stores by other observers (09 R226). -/
def State.watchLine (s : State) (c : Ctx) (cell : Nat) (va : Word) : State :=
  match s.permLook c.tower cell c.asid va .load with
  | .ok l => s.onCtx c.id fun x => { x with watch := some (l.pa va / 64, false) }
  | _ => s

/-- WAITV (09 R226): it fires in the oldest clause, and while the word equals b it waits for a store by another observer to the line or 64 us, except on a far page or in scratch. -/
def execWaitv (pr : Pred) (eff : BitVec 5) (acq : Bool) (t : Tgt) (s : State) : Host.Outcome State Fault Refusal :=
  fire s (.waitv pr eff acq t) fun v u =>
    let i : Instr := .waitv pr eff acq t
    let va := v.a.bits
    match u.fctx, u.finst with
    | some c, some x =>
      if !u.oldest then .waits u
      else if !canonical va 8 then .fires (u.loadPoison i .perm va)
      else if !bitsZero va 0 3 then .fires (u.loadPoison i .misalign va)
      else if x.linkDead.contains u.focus.iid then .fires (u.loadPoison i .linklost va)
      else if c.loadWaits x u.focus eff then .waits u
      else if x.loads.any fun r => decide (r.iid = u.focus.iid) then .waits u
      else
        let r := u.loadAll c u.focus.win u.focus.iid eff.toNat false [(va, 8)]
        if r.wait || u.cutAcc c (c.cellOf u.focus.iid) va 8 .load then .waits r.st.beginWait
        else if r.bad.isNone && decide (w64 (bytesToNat ((r.bytes.head?).getD [])) = v.b.bits)
            && (c.scratchAcc va 8).isNone && !u.farAcc c (c.cellOf u.focus.iid) va 8 .load then
          .waits ((((r.st.watchLine c (c.cellOf u.focus.iid) va).onInst fun y => { y with
              loads := y.loads ++ [⟨u.focus.iid, eff, [(va, 8)], r.bytes, false, true⟩]
              waits := (u.focus.iid, u.time) :: y.waits.filter fun w => !decide (w.1 = u.focus.iid) })).tick)
        else u.waitvRead i eff va acq
    | _, _ => .waits u

/-- BARA arrives at a barrier (09 R228). -/
def execBara (pr : Pred) (eff : BitVec 5) (sc : Scope) (t : Tgt) (s : State) : Host.Outcome State Fault Refusal :=
  fire s (.bara pr eff sc t) fun v u =>
    u.atomic (.bara pr eff sc t) eff v.a.bits 8 sc false true
      (fun w =>
        let rem := w % 2 ^ 24
        let tot := w / 2 ^ 24 % 2 ^ 24
        let gen := w / 2 ^ 48
        some (if rem ≤ 1 then (gen + 1) % 65536 * 2 ^ 48 + tot * 2 ^ 24 + tot else w - 1))
      fun old => .scalar (w64 (old / 2 ^ 48))

/-- BARW reads the barrier until its phase is no longer b, then acts as an acquire (09 R229). -/
def execBarw (pr : Pred) (eff : BitVec 5) (sc : Scope) (t : Tgt) (s : State) : Host.Outcome State Fault Refusal :=
  fire s (.barw pr eff sc t) fun v u =>
    let i : Instr := .barw pr eff sc t
    let va := v.a.bits
    match u.fctx, u.finst with
    | some c, some x =>
      if !canonical va 8 then .fires (u.notPerformed i .perm va)
      else if !bitsZero va 0 3 then .fires (u.notPerformed i .misalign va)
      else if x.linkDead.contains u.focus.iid then .fires (u.loadPoison i .linklost va)
      else if c.loadWaits x u.focus eff then .waits u
      else
        let page := match c.scratchAcc va 8 with
          | some _ => Perm.missing
          | none => u.permLook c.tower (c.cellOf u.focus.iid) c.asid va .load
        let bad : Option Kind := match page with
          | .ok l => if decide (l.kind = 2) || l.far then some .ordkind
              else if l.h && decide (u.hypFinal c.hyp ≠ 0) then some .perm else none
          | _ => none
        match bad with
        | some k => .fires (u.notPerformed i k va)
        | none =>
          let r := u.loadAll c u.focus.win u.focus.iid eff.toNat false [(va, 8)]
          if r.wait || u.cutAcc c (c.cellOf u.focus.iid) va 8 .load then .waits r.st.beginWait
          else
            match r.bad with
            | some (k, a) => .fires (r.st.loadPoison i k a)
            | none =>
              let gen := bytesToNat ((r.bytes.head?).getD []) / 2 ^ 48
              if gen = v.b.bits.toNat % 65536 then .waits r.st
              else .fires (r.st.loadWord i eff va r.bytes (if sc = .lens then .done else .acquire) (w64 gen))
    | _, _ => .waits u

/-- The WAITV of a context that waits: its instruction, with the time its wait began. -/
def Ctx.waitv? (c : Ctx) : Option (BitVec 7 × Instr × Nat × LoadRec) :=
  c.window.head?.bind fun x =>
    x.waits.findSome? fun w =>
      match x.instrAt w.1, x.loads.find? fun r => decide (r.iid = w.1) with
      | some (.waitv pr eff acq t), some r => some (w.1, .waitv pr eff acq t, w.2, r)
      | _, _ => none

/-- End the wait of a WAITV: it reads again and delivers (09 R226). -/
def State.waitvEnd (s : State) (c : Ctx) (iid : BitVec 7) (i : Instr) : Host.Outcome State Fault Refusal :=
  let s := { s with focus := ⟨c.id, 0, iid, s.focus.spec⟩ }
  match i with
  | .waitv _ eff acq _ => fire s i fun v u =>
    match u.waitvRead i eff v.a.bits acq with
    | .fires t => .fires (t.onInst fun y => y.waitedOut iid t.time)
    | .waits t => .waits t
  | _ => .next s

/-- Whether a store by another observer to the line a WAITV watches has been performed at the lens: its L1s have the update (08 R181; 09 R226). -/
def Ctx.woken (c : Ctx) (r : LoadRec) : Bool :=
  decide ((c.watch.map fun w => w.2) = some true)
    && !c.l1.any fun x => !x.u && !x.bytes.isEmpty && r.parts.any fun p => decide (x.line = p.1.toNat / 64)

/-- WAITV_WAKE: a store by another observer to the line of a waiting WAITV has been performed at its lens (09 R226). -/
def execWaitvWake (c : Nat) (s : State) : Host.Outcome State Fault Refusal :=
  match s.ctx? c with
  | none => .next s
  | some x =>
    match x.waitv? with
    | none => .next s
    | some (iid, i, _, r) => if x.woken r then s.waitvEnd x iid i else .next s

/-- WAITV_TIMEOUT: 64 us have passed (09 R226). -/
def execWaitvTimeout (c : Nat) (s : State) : Host.Outcome State Fault Refusal :=
  match s.ctx? c with
  | none => .next s
  | some x =>
    match x.waitv? with
    | none => .next s
    | some (iid, i, at_, _) => if at_ + s.us 64 ≤ s.time then s.waitvEnd x iid i else .next s

end Sys2Proof.Machine
end

