-- ==== Sys2Proof/Machine/Hyp.lean ====
section
/-! DEFINITION. Sys2Proof/Machine/Hyp.lean: the hypothesis table: binding, confirming, refuting and freeing, and the hypothesis instructions (10 R231 to R249). -/

namespace Sys2Proof.Machine

/-! ### Binding and freeing -/

/-- Change one entry of the table. -/
def State.onHyp (s : State) (h : BitVec 12) (f : Hyp → Hyp) : State :=
  { s with hyps := s.hyps.map fun x => if x.n = h then f x else x }

/-- Whether an action is a command to an engine (09 R214; 12 R258; 13 R276, R303). -/
def Action.isEngine (a : Action) : Bool :=
  match a with
  | .matrix _ _ _ _ _ _ | .streamer _ _ _ _ _ | .vwdrop _ | .vwpol _ _ => true
  | _ => false

/-- Whether an engine command queues behind a fence of kind engine, or behind commands that do (09 R214). -/
def Ctx.engineHeld (c : Ctx) : Bool :=
  c.pend.any fun p => match p.what with
    | .fence k _ => decide (k = 4)
    | .act a => a.isEngine
    | _ => false

/-- Whether a queue entry is a store or an engine command tagged with a hypothesis (10 R233, R234). -/
def Pend.tagged (p : Pend) (h : BitVec 12) : Bool :=
  decide (p.hyp = h) && (match p.what with
    | .store _ _ _ => true
    | .fence _ _ => false
    | .act a => a.isEngine)

/-- Whether a store or an engine command tagged with a hypothesis is still pending anywhere: in a buffer or held, faulted and not yet replayed or discarded, saved with its task, or at an engine (10 R233). -/
def State.hypPending (s : State) (h : BitVec 12) : Bool :=
  s.ctxs.any (fun c => (c.pend ++ c.heldIn).any fun p => p.tagged h)
    || (s.heldActs.any fun x => x.2.tagged h)
    || s.towers.any (fun t => t.tasks.any fun i => i.heldHyps.any fun x => decide (x.2 = h))
    || s.mnodes.any (fun m => m.queue.any fun q => decide (q.org.hyp = h))
    || s.scmds.any (fun q => decide (q.org.hyp = h) && (match q.st with
        | .queued => true
        | .running => true
        | _ => false))

/-- Whether a clause that has not committed has allocated a hypothesis or is about to enter it (10 R246, R251). -/
def State.hypAwaited (s : State) (h : BitVec 12) : Bool :=
  s.ctxs.any fun c => c.window.any fun x => x.newHyps.contains h || x.effs.any fun e => decide (e.2 = .fired (.henter h))

/-- Whether a hypothesis becomes FREE (10 R233); one that a clause in flight has allocated or enters is kept until that clause commits or is squashed (R246, R251; log 96). -/
def State.hypFreeable (s : State) (x : Hyp) : Bool :=
  decide (x.st ≠ .live) && decide (x.bound = 0) && (decide (x.st = .merged) || x.discarded) && !s.hypPending x.n && !s.hypAwaited x.n

/-- An alias of a REFUTED hypothesis that becomes FREE is REFUTED itself: it goes on to act as its target did (10 R242, R244; log 96). -/
def Hyp.loseTarget (x : Hyp) (gone : List Hyp) : Hyp :=
  if x.st = .merged ∧ (gone.any fun y => decide (y.n = x.parent)) then { x with st := .refuted, discarded := true } else x

/-- Free what may be freed; an alias whose target has become FREE may follow it (10 R233). -/
def State.hypSweep (s : State) : State :=
  let once (t : State) : State := { t with hyps := (t.hyps.filter fun x => !t.hypFreeable x).map fun x => x.loseTarget (t.hyps.filter t.hypFreeable) }
  once (once s)

/-- Raise or lower a bound count; hypothesis 0 is not counted (10 R232). -/
def State.hypCount (s : State) (h : BitVec 12) (up : Bool) : State :=
  s.onHyp h fun x => { x with bound := if up then x.bound + 1 else x.bound - 1 }

/-- A binding moves from one hypothesis to another (10 R232). -/
def State.bindMove (s : State) (old new : BitVec 12) : State :=
  if old = new then s else ((s.hypCount old false).hypCount new true).hypSweep

/-- A binding ends (10 R232). -/
def State.unbind (s : State) (h : BitVec 12) : State := (s.hypCount h false).hypSweep

/-- Whether a hypothesis, its aliases followed, is REFUTED (10 R242, R244). -/
def State.hypRefuted (s : State) (h : BitVec 12) : Bool :=
  match s.hyp? (s.hypFinal h) with
  | some x => decide (x.st = .refuted)
  | none => false

/-- Whether a record may name a hypothesis: 0, or a LIVE or MERGED one of its ASID (10 R232; 17 R357). -/
def State.hypNameable (s : State) (asid : BitVec 16) (h : BitVec 12) : Bool :=
  decide (h = 0) ||
    (match s.hyp? h with
     | some x => decide (x.owner = asid) && decide (x.st ≠ .refuted)
     | none => false)

/-- HYPCUR and the binding of a context move to a hypothesis (10 R232). -/
def State.setHyp (s : State) (c : Ctx) (h : BitVec 12) : State :=
  (s.onCtx c.id fun x => { x with hyp := h }).bindMove c.hyp h

/-- At a boundary the part rewrites HYPCUR with its final target (10 R242). -/
def State.hypBoundary (s : State) (c : Ctx) : State :=
  if s.hypFinal c.hyp = c.hyp then s else s.setHyp c (s.hypFinal c.hyp)

/-! ### Confirming and refuting -/

/-- Whether the chain of parents of a hypothesis meets another. -/
def descendsFrom (hs : List Hyp) (r : BitVec 12) : (n : Nat) → BitVec 12 → Bool
  | 0, _ => false
  | n + 1, h =>
    match hs.find? fun x => decide (x.n = h) with
    | none => false
    | some x => decide (x.parent = r) || descendsFrom hs r n x.parent

/-- Whether one hypothesis descends from another. -/
def State.descends (s : State) (h r : BitVec 12) : Bool := descendsFrom s.hyps r 17 h

/-- Refute a LIVE hypothesis with its descendants; the count takes in those that were REFUTED before (10 R241, R248). -/
def State.refute (s : State) (r : BitVec 12) : State × Nat :=
  let hit (x : Hyp) : Bool := decide (x.st ≠ .merged) && (decide (x.n = r) || s.descends x.n r)
  ({ s with hyps := s.hyps.map fun x =>
      if hit x then
        { x with st := .refuted, discarded := x.discarded || !s.versions.any fun v => decide (v.hyp = x.n) }
      else x },
   (s.hyps.filter hit).length)

/-- Write the bytes of a version in hypothesis 0 one by one (10 R240). -/
def State.publishBytes (s : State) (v : Version) (l : Leaf) (writer : Option Word) : List (Nat × Byte) → State × Option Kind
  | [] => (s, none)
  | (off, b) :: rest =>
    match s.leafWrite v.asid l (w64 (v.line * 64 + off)) [b] 0 writer with
    | .bad k t => (t, some k)
    | .ok t => t.publishBytes v l writer rest

/-- The merge of one line into hypothesis 0 under the leaf its address maps now; a failure is recorded for the resolving task (10 R240, R243). -/
def State.publish (s : State) (c : Ctx) (iid : BitVec 7) (eff : BitVec 5) (v : Version) : State :=
  let va := w64 (v.line * 64)
  let r : State × Option Kind :=
    match s.walk v.asid va .store with
    | (t, .fault k _) => (t, some k)
    | (t, .leaf l) => t.publishBytes v l (some c.recA) v.bytes
  match r.2 with
  | none => r.1
  | some k =>
    let seq := ((r.1.ctx? c.id).getD c).lateSeq
    let a : AfRec :=
      { kind := k, src := 5, eff := eff, iid := iid, cause := 0, seq := seq, va := va, clause := c.pc, ticket := 0
        owner := c.recA, idx := BitVec.ofNat 32 v.line, idx2 := 0, asid := v.asid, hyp := v.hyp, data := []
        load := c.loadRef, tower := c.tower }
    let t := r.1.onCtx c.id fun x => { x with lateSeq := x.lateSeq + 1 }
    { t with recq := t.recq ++ [a] }

/-- Merge a version into the parent's (10 R239). -/
def State.mergeVersion (s : State) (v : Version) (p : BitVec 12) : State :=
  match s.version? v.line v.tag p with
  | some u =>
    let bytes := v.bytes.foldl (fun bs b => setByte bs b.1 b.2) u.bytes
    { s with versions := s.versions.map fun w => if w.line = u.line ∧ w.tag = u.tag ∧ w.hyp = u.hyp then { w with bytes := bytes } else w }
  | none => { s with versions := s.versions ++ [{ v with hyp := p }] }

/-- Confirm a LIVE hypothesis into its parent (10 R239, R240). -/
def State.confirm (s : State) (c : Ctx) (iid : BitVec 7) (eff : BitVec 5) (h : Hyp) : State :=
  let mine := s.versions.filter fun v => decide (v.hyp = h.n)
  let t := { s with
    versions := s.versions.filter fun v => !decide (v.hyp = h.n)
    hyps := s.hyps.map fun x =>
      let x' := if s.descends x.n h.n && decide (x.st ≠ .merged) then { x with depth := x.depth - 1 } else x
      if x.n = h.n then { x' with st := .merged } else if x.parent = h.n then { x' with parent := h.parent } else x' }
  if h.parent = 0 then mine.foldl (fun u v => u.publish c iid eff v) t
  else mine.foldl (fun u v => u.mergeVersion v h.parent) t

/-- The single step of HRESOLVE: confirm c, refute r (10 R248). -/
def State.resolveHyps (s : State) (x : Ctx) (iid : BitVec 7) (eff : BitVec 5) (c r : BitVec 12) : State × Nat :=
  let under := decide (c = r) || s.descends c r
  let a : State × Nat × Bool :=
    if r = 0 then (s, 0, false)
    else
      match s.hyp? r with
      | none => (s, 16, false)
      | some y =>
        if y.owner ≠ x.asid then (s, 32, false)
        else if y.st ≠ .live then (s, 16, false)
        else let q := s.refute r; (q.1, 2 + q.2 % 4096 * 65536, true)
  let b : State × Nat :=
    if c = 0 then (a.1, 0)
    else
      match a.1.hyp? c with
      | none => (a.1, 4)
      | some y =>
        if y.owner ≠ x.asid then (a.1, 8)
        else if decide (y.st = .refuted) && a.2.2 && under then (a.1, 12)
        else if y.st ≠ .live then (a.1, 4)
        else (a.1.confirm x iid eff y, 1)
  (b.1.hypSweep, a.2.1 + b.2)

/-! ### The instructions -/

/-- The hypothesis an operand names, none when bits [63:12] are not zero (10 R245). -/
def hypOperand (v : Word) : Option (BitVec 12) := if bitsZero v 12 52 then some (v.setWidth 12) else none

/-- The lowest FREE hypothesis; the rule asks for any FREE one: DESIGN CHOICE, log 119 (10 R246). -/
def State.freeHyp (s : State) : Option (BitVec 12) :=
  if 4095 ≤ s.hyps.length then none
  else ((List.range Config.hypotheses).drop 1).findSome? fun n =>
    if (s.hyp? (BitVec.ofNat 12 n)).isNone then some (BitVec.ofNat 12 n) else none

/-- HNEW allocates a child of HYPCUR (10 R246). -/
def execHnew (pr : Pred) (eff : BitVec 5) (t : Tgt) (s : State) : Host.Outcome State Fault Refusal :=
  fire s (.hnew pr eff t) fun _ u =>
    let i : Instr := .hnew pr eff t
    match u.fctx with
    | none => .waits u
    | some c =>
      let p := u.hypFinal c.hyp
      let depth := ((u.hyp? p).map fun x => x.depth).getD 0
      match (if 16 ≤ depth then none else u.freeHyp) with
      | none => .fires (u.effectBad i .hypfull)
      | some h =>
        let new : Hyp := ⟨h, .live, c.asid, p, depth + 1, 0, false⟩
        let u := { u with hyps := u.hyps ++ [new] }
        .fires (((u.onInst fun x => { x with newHyps := h :: x.newHyps }).effect i (.hnew h)).deliverS i (h.setWidth 64))

/-- HENTER fires in the oldest clause and keeps its hypothesis for commit (10 R247). -/
def execHenter (pr : Pred) (eff : BitVec 5) (s : State) : Host.Outcome State Fault Refusal :=
  fire s (.henter pr eff) fun v u =>
    let i : Instr := .henter pr eff
    match u.fctx, hypOperand v.a.bits with
    | none, _ => .waits u
    | some c, op =>
      if !u.oldest then .waits u
      else
        match op with
        | none => .fires (u.effectPoison i .illop)
        | some h =>
          let known := decide (h = 0) || (match u.hyp? h with
            | some x => decide (x.owner = c.asid)
            | none => false)
          .fires (if known then u.effect i (.henter h) else u.effectPoison i .perm)

/-- HLEAVE fires in the oldest clause (10 R247). -/
def execHleave (pr : Pred) (eff : BitVec 5) (s : State) : Host.Outcome State Fault Refusal :=
  fire s (.hleave pr eff) fun _ u => if u.oldest then .fires (u.effect (.hleave pr eff) .hleave) else .waits u

/-- HRESOLVE: under the conditions of 09 R220, a release, its single step, an acquire (10 R248). -/
def execHresolve (pr : Pred) (eff : BitVec 5) (t : Tgt) (s : State) : Host.Outcome State Fault Refusal :=
  fire s (.hresolve pr eff t) fun v u =>
    let i : Instr := .hresolve pr eff t
    match hypOperand v.a.bits, hypOperand v.b.bits with
    | some hc, some hr =>
      match u.gate eff ⟨true, true, none, false, false⟩ with
      | .waits w => .waits w
      | .goes w =>
        let w := w.releaseHere .pkg
        match w.fctx with
        | none => .waits w
        | some x =>
          let q := w.resolveHyps x w.focus.iid eff hc hr
          .fires ((((q.1.acquireHere .pkg).performed eff).effect i .done).deliverS i (w64 q.2))
    | _, _ => u.gated eff fun w => w.effectBad i .illop

/-- The word HSTAT delivers (10 R249). -/
def State.hstatWord (s : State) (asid : BitVec 16) (h : BitVec 12) : Word :=
  if h = 0 then 1
  else
    match s.hyp? h with
    | none => 0
    | some x =>
      if x.owner ≠ asid then 7
      else
        let st := match x.st with
          | .live => 1
          | .merged => 2
          | .refuted => 3
        let depth := if x.st = .merged then ((s.hyp? (s.hypFinal h)).map fun y => y.depth).getD 0 else x.depth
        w64 (st + x.parent.toNat * 16 + depth * 65536 + x.bound.toNat * 2 ^ 32)

/-- HSTAT reads the table, or gives the package's summary (10 R249). -/
def execHstat (pr : Pred) (eff : BitVec 5) (sum : Bool) (t : Tgt) (s : State) : Host.Outcome State Fault Refusal :=
  fire s (.hstat pr eff sum t) fun v u =>
    let i : Instr := .hstat pr eff sum t
    if sum then
      .fires ((u.effect i .done).deliverS i
        (w64 ((u.hyps.length + 1) * 16 + (u.versions.filter fun x => x.logged).length * 2 ^ 32)))
    else
      match u.fctx, hypOperand v.a.bits with
      | some c, some h => .fires ((u.effect i .done).deliverS i (u.hstatWord c.asid h))
      | _, _ => .fires (u.effectBad i .illop)

/-- What HNEW, HENTER and HLEAVE do at commit; HENTER and HLEAVE move the binding. HLEAVE below a parent that has become FREE sets HYPCUR to that number: DESIGN CHOICE, log 120 (10 R232, R246, R247). -/
def State.commitHyp (s : State) (c : Ctx) (a : Action) : State :=
  match a with
  | .hnew h =>
    match (s.hyp? h).bind fun x => s.hyp? x.parent with
    | some p => if p.st = .refuted then s.onHyp h fun x => { x with st := .refuted, discarded := true } else s
    | none => s
  | .henter h => s.setHyp c (s.hypFinal h)
  | .hleave => s.setHyp c (((s.hyp? (s.hypFinal c.hyp)).map fun x => x.parent).getD 0)
  | _ => s

/-- VERSION_DISCARD_DONE: the background discard of a REFUTED hypothesis's versions ends (10 R233, R241). -/
def execVersionDiscardDone (h : Nat) (s : State) : Host.Outcome State Fault Refusal :=
  match s.hyp? (BitVec.ofNat 12 h) with
  | none => .next s
  | some x =>
    if x.st = .refuted ∧ x.discarded = false then
      .next (({ s with versions := s.versions.filter fun v => !decide (v.hyp = x.n) }.onHyp x.n fun y => { y with discarded := true }).hypSweep).tick
    else .next s

end Sys2Proof.Machine
end

