-- ==== Sys2Proof/Machine/Task.lean ====
section
/-! DEFINITION. Sys2Proof/Machine/Task.lean: continuation records, submission and its checks, dependences, streams, reservations and the end of a task (07 R152 to R162; 10 R232, R244; 18 R372, R378). -/

namespace Sys2Proof.Machine

/-! ### Records -/

/-- Qword q of the bytes of a structure. -/
def qwordOf (bs : List Byte) (q : Nat) : Word := w64 (bytesToNat ((bs.drop (8 * q)).take 8))

/-- Replace bits [lo+n-1 : lo] of a word. -/
def putBits (v : Word) (lo n x : Nat) : Word := w64 (v.toNat - bitsOf v lo n * 2 ^ lo + x % 2 ^ n * 2 ^ lo)

/-- The part writes a qword of a record or of another structure of a task; a write that fails the walk leaves a class-4 entry (07 R154). -/
def State.structPut (s : State) (tw : Nat) (asid : BitVec 16) (subject va v : Word) : State :=
  match s.vwrite64 asid va v with
  | (t, none) => t
  | (t, some (k, a)) => t.fqStruct tw asid k subject a

/-- The part reads bytes of a structure of a task; a read that fails the walk leaves a class-4 entry (17 R338). -/
def State.structGet (s : State) (tw : Nat) (asid : BitVec 16) (subject va : Word) (n : Nat) : State × Option (List Byte) :=
  match s.vread asid va n 0 with
  | (t, .ok bs) => (t, some bs)
  | (t, .bad k a) => (t.fqStruct tw asid k subject a, none)

/-- Change qword 0 of a record as one 8-byte write (07 R154). -/
def State.putQ0 (s : State) (tw : Nat) (asid : BitVec 16) (rec : Word) (f : Word → Word) : State :=
  match s.structGet tw asid rec rec 8 with
  | (t, some bs) => t.structPut tw asid rec rec (f (qwordOf bs 0))
  | (t, none) => t

/-- A state code with its reason in qword 0 (07 R152, R153). -/
def q0State (code reason : Nat) (v : Word) : Word := putBits (putBits v 0 4 code) 56 8 (reason % 16)

/-- Only the state code in qword 0. -/
def q0Code (code : Nat) (v : Word) : Word := putBits v 0 4 code

/-- The code of a state (07 R153). -/
def TaskSt.code : TaskSt → Nat
  | .waiting => 1
  | .ready => 2
  | .running => 3
  | .stopped => 4

/-- The task an entry stands for. -/
def TaskInfo.key (t : TaskInfo) : TaskKey := ⟨t.recA, t.asid⟩

/-- The entry of a task on a tower. -/
def State.task? (s : State) (tw : Nat) (k : TaskKey) : Option TaskInfo := (s.tower tw).tasks.find? fun t => decide (t.key = k)

/-- Change the entry of a task on a tower. -/
def State.onTask (s : State) (tw : Nat) (k : TaskKey) (f : TaskInfo → TaskInfo) : State :=
  s.onTower tw fun t => { t with tasks := t.tasks.map fun x => if x.key = k then f x else x }

/-- The tower and the entry of the task whose record is at an address, under an address space when one is given. -/
def State.taskAt (s : State) (rec : Word) (asid : Option (BitVec 16)) : Option (Nat × TaskInfo) :=
  (List.range Config.towers).findSome? fun tw =>
    ((s.tower tw).tasks.find? fun t => decide (t.recA = rec) && (match asid with
      | some a => decide (t.recAsid = a)
      | none => true)).map fun t => (tw, t)

/-- A tower no longer counts a task as passed over: it has left READY, or entered it afresh (07 R163). -/
def Tower.notPassed (t : Tower) (k : TaskKey) : Tower :=
  { t with passed := t.passed.filter fun p => !decide (p.1 = k), passedLimit := t.passedLimit.filter fun x => !decide (x = k) }

/-- A task's record takes a state (07 R154). -/
def State.taskTo (s : State) (tw : Nat) (t : TaskInfo) (st : TaskSt) : State :=
  ((s.onTask tw t.key fun x => { x with st := st }).onTower tw fun x => x.notPassed t.key).putQ0 tw t.recAsid t.recA (q0Code st.code)

/-! ### Reservations -/

/-- Reservations an action holds until it is performed (07 R158). -/
def Action.reserves : Action → Nat
  | .tspawn _ => 1
  | .tsubmit _ => 1
  | _ => 0

/-- Reservations of queue entries. -/
def pendReserves (ps : List Pend) : Nat :=
  (ps.map fun p => match p.what with
    | .act a => a.reserves
    | _ => 0).sum

/-- Reservations of a context's clauses and releases in flight. -/
def Ctx.reserves (c : Ctx) : Nat := (c.window.map fun x : Inst => x.taskRes).sum + pendReserves c.pend + pendReserves c.heldIn

/-- The reservation count of a tower, with those taken by submissions not yet performed; its supervisor was not submitted (07 R158; 23 R422). -/
def State.reserved (s : State) (tw : Nat) : Nat :=
  let t := s.tower tw
  (t.tasks.filter fun i => !decide (t.svKey = some i.key)).length + (t.waitSubs.filter fun w => w.granted).length + t.streamWaits.length
    + ((s.ctxs.filter fun c => decide (c.tower = tw)).map Ctx.reserves).sum
    + pendReserves ((s.heldActs.filter fun h => t.tasks.any fun i => decide (i.key = h.1)).map fun h => h.2)

/-- Entries of the overflow queue of a tower (07 R158). -/
def Tower.ovqCap (t : Tower) : Nat := if t.ovqEn then 2 ^ t.ovqN else 0

/-- Whether a reservation is free (07 R158). -/
def State.roomToSubmit (s : State) (tw : Nat) : Bool := decide (s.reserved tw < Config.readyPool + (s.tower tw).ovqCap)

/-! ### Streams -/

/-- The four entries of a range list, none for a malformed one (07 R161). -/
def rangeList (bs : List Byte) : Option (List (Option Range)) :=
  let es := (List.range 4).map fun j => (qwordOf bs (2 * j), qwordOf bs (2 * j + 1))
  if es.any fun e => !bitsZero e.1 56 8 || !bitsZero e.2 48 15 || decide (e.1.toNat + bitsOf e.2 0 48 > 2 ^ 56) then none
  else some (es.map fun e => if bitsZero e.2 0 48 then none else some ⟨e.1.toNat, bitsOf e.2 0 48, e.2.getLsbD 63⟩)

/-- Whether two used entries conflict, on their covered intervals (07 R161). -/
def Range.conflicts (a b : Range) : Bool :=
  let lo (r : Range) : Nat := r.base / 256 * 256
  let hi (r : Range) : Nat := (r.base + r.len + 255) / 256 * 256
  decide (lo a < hi b) && decide (lo b < hi a) && (a.w || b.w)

/-- Whether an earlier task of a stream still holds a later one back; one that has released all its used entries holds none, not even a task without entries: DESIGN CHOICE, log 117 (07 R161). -/
def TaskInfo.holds (e t : TaskInfo) : Bool :=
  let used (x : TaskInfo) : Bool := x.ranges.any fun r => r.isSome
  if !used e then true
  else (e.ranges.zipIdx).any fun r =>
    match r.1 with
    | none => false
    | some a => !e.released.getLsbD r.2 && (!used t || t.ranges.any fun b => match b with
        | some b => a.conflicts b
        | none => false)

/-- The tasks of a stream submitted before a task. -/
def Tower.earlier (t : Tower) (i : TaskInfo) : List TaskInfo :=
  match i.strm with
  | none => []
  | some n => (t.tasks.takeWhile fun x => !decide (x.key = i.key)).filter fun x => decide (x.strm = some n)

/-- Whether its stream holds a task back (07 R161). -/
def Tower.streamHolds (t : Tower) (i : TaskInfo) : Bool := (t.earlier i).any fun e => e.holds i

/-- Whether a stream tracks its 256 tasks (07 R161). -/
def Tower.streamFull (t : Tower) (n : Nat) : Bool := decide (256 ≤ (t.tasks.filter fun x => decide (x.strm = some n)).length)

/-- Whether a later submission to a stream must wait: the stream is full, or an earlier submission to it waits (07 R161). -/
def Tower.streamBusy (t : Tower) (n : Nat) : Bool := t.streamFull n || t.streamWaits.any fun w => decide (w.strm = n)

/-! ### Ready -/

/-- READY tasks that lie in the pool. -/
def Tower.poolCount (t : Tower) : Nat := (t.tasks.filter fun x => decide (x.st = .ready) && !x.overflow).length

/-- The overflow queue in memory holds its records, oldest first, from entry 0 (07 R157; log 9). -/
def State.ovqStore (s : State) (tw : Nat) : State :=
  let t := s.tower tw
  if !t.ovqEn then s
  else s.partWrite t.ovqPa.toNat ((sortBy (fun a b => decide (a.readySeq ≤ b.readySeq))
    (t.tasks.filter fun x => decide (x.st = .ready) && x.overflow)).flatMap fun x => natToBytes 8 x.recA.toNat)

/-- The save area of a task, from its record (07 R152). -/
def State.saveOf (s : State) (t : TaskInfo) : Word :=
  match s.vread64 t.recAsid (t.recA + 32) with
  | (_, .ok v) => w64 (bitsOf v 13 43 * 8192)
  | _ => 0

/-- The cause of a stop off the lens goes into the CAUSE and FADDR the save area holds; one that holds none yet leaves it to the first dispatch (17 R336, R383; 18 R372). -/
def State.saveCause (s : State) (tw : Nat) (t : TaskInfo) (k : Kind) (va : Word) : State :=
  let a := s.saveOf t
  match s.structGet tw t.asid t.recA a 8 with
  | (u, none) => u
  | (u, some bs) =>
    if !(qwordOf bs 0).getLsbD 0 then u.onTask tw t.key fun x => { x with cause := some (k, va) }
    else
      match u.structGet tw t.asid t.recA (a + 0xA8) 8 with
      | (v, none) => v
      | (v, some cs) =>
        (v.structPut tw t.asid t.recA (a + 0xA8) (putBits (qwordOf cs 0) 0 5 k.code)).structPut tw t.asid t.recA (a + 0xB0) va

/-- The hypothesis field of a record takes a value (07 R152; 10 R242). -/
def State.putHyp (s : State) (tw : Nat) (t : TaskInfo) (h : BitVec 12) : State :=
  match s.structGet tw t.recAsid t.recA (t.recA + 8) 8 with
  | (u, none) => u
  | (u, some bs) =>
    let q := qwordOf bs 0
    let v := putBits q 32 12 h.toNat
    if v = q then u else u.structPut tw t.recAsid t.recA (t.recA + 8) v

/-- est and hint of a record take the RTEST that a valid save area holds (10 R252; 18 R372). -/
def State.putEst (s : State) (tw : Nat) (t : TaskInfo) : State :=
  let a := s.saveOf t
  match s.vread64 t.asid a, s.vread64 t.asid (a + 0x68), s.structGet tw t.recAsid t.recA (t.recA + 16) 8 with
  | (_, .ok cb), (_, .ok e), (u, some bs) =>
    if cb.getLsbD 0 then
      u.structPut tw t.recAsid t.recA (t.recA + 16) (putBits (putBits (qwordOf bs 0) 0 32 (bitsOf e 0 32)) 32 2 (bitsOf e 32 2))
    else u
  | _, _, _ => s

/-- A task enters STOPPED off its lens: its record is written as for any such entry, and an entry goes to the supervisor (07 R165; 10 R244, R252; 17 R335, R355). -/
def State.stopOff (s : State) (tw : Nat) (t : TaskInfo) (k : Kind) (va : Word) : State :=
  let h := s.hypFinal t.hyp
  let s := ((s.putHyp tw t h).putEst tw t).onTask tw t.key fun x => { x with hyp := h }
  let s := ((s.bindMove t.hyp h).taskTo tw t .stopped).saveCause tw t k va
  let q := match s.vread64 t.recAsid t.recA with
    | (_, .ok v) => v
    | _ => 0
  s.fqPush tw { FqEntry.blank k.code 0 s.time with
    asid := t.asid, subject := t.recA, clause := w64 (bitsOf q 4 52 * 16), va := va }

/-- Whether a record is silent (07 R152). -/
def State.recSilent (s : State) (t : TaskInfo) : Bool :=
  match s.vread64 t.recAsid (t.recA + 8) with
  | (_, .ok v) => v.getLsbD 29
  | _ => false

/-! ### The end of a task -/

/-- Whether a command was issued by a task. -/
def SCmd.ofTask (q : SCmd) (k : TaskKey) : Bool :=
  decide (q.org.owner = k.recA) && decide (q.org.asid = k.asid) && q.org.load.isNone

/-- Whether a streamer command has not ended (13 R284, R289). -/
def SCmd.unfinished (q : SCmd) : Bool :=
  match q.st with
  | .queued => true
  | .running => true
  | _ => false

/-- Whether a node is granted to a task, or keeps commands for it. -/
def MNode.ofTask (m : MNode) (k : TaskKey) : Bool :=
  match m.owner with
  | .task x _ => decide (x = k)
  | .load _ _ => false

/-- What a tower keeps of a task goes, and its binding ends; its M-nodes are freed, those that were saved too, once the commands handed to them have been performed (07 R158; 10 R232; 12 R258, R275). -/
def State.forgetTask (s : State) (tw : Nat) (t : TaskInfo) : State :=
  ({ (s.onTower tw fun x => { x with tasks := x.tasks.filter fun y => !decide (y.key = t.key), svKey := if x.svKey = some t.key then none else x.svKey }) with
      lates := s.lates.filter fun l => !decide (l.1 = t.key)
      scmds := (s.scmds.filter fun q : SCmd => !q.ofTask t.key || q.unfinished).map fun q : SCmd =>
        if q.ofTask t.key then { q with gone := true } else q
      mnodes := (s.mnodes.filter fun m : MNode => !(m.away && m.ofTask t.key && m.queue.isEmpty)).map fun m : MNode => if m.ofTask t.key then { m with leaving := some none, held := none } else m
      heldActs := s.heldActs.filter fun h => !decide (h.1 = t.key) }).unbind t.hyp

/-- A READY task enters the pool, or the overflow queue when the pool is full; an orphaned one ends or stops instead of becoming READY (07 R157, R159; 10 R244). The second component tells that it ended. -/
def State.enterReady (s : State) (tw : Nat) (t : TaskInfo) : State × Bool :=
  if s.hypRefuted t.hyp then
    if s.recSilent t then
      let s := s.released t.recA t.asid
      let s := (s.structPut tw t.recAsid t.recA (t.recA + 56) 0).putQ0 tw t.recAsid t.recA (q0State 8 0)
      let s := match t.window with
        | some (w, _) => s.onWindow tw w fun x => { x with comps := x.comps ++ [(t.recA, 8, 0)] }
        | none => s
      (s.forgetTask tw t, true)
    else (s.stopOff tw t .orphan 0, false)
  else
    let full := decide (Config.readyPool ≤ (s.tower tw).poolCount)
    let seq := (s.tower tw).readyCount
    (((((s.taskTo tw t .ready).onTask tw t.key fun x =>
      { x with readyAt := s.time, readySeq := seq, aged := 0, overflow := full })).onTower tw fun x => { x with readyCount := seq + 1 }).ovqStore tw, false)

/-- A WAITING task becomes READY if neither its predecessors nor its stream hold it (07 R159, R161). -/
def State.tryReady (s : State) (tw : Nat) (t : TaskInfo) : State × Bool :=
  if t.st ≠ .waiting ∨ (s.tower tw).streamHolds t then (s, false)
  else
    match s.structGet tw t.recAsid t.recA (t.recA + 16) 8 with
    | (u, some bs) => if bitsOf (qwordOf bs 0) 48 16 = 0 then u.enterReady tw t else (u, false)
    | (u, none) => (u, false)

/-- Every WAITING task of a tower is looked at again, in submission order; an ending one makes another round (07 R161). -/
def State.wake (s : State) (tw : Nat) : (fuel : Nat) → State
  | 0 => s
  | n + 1 =>
    let r := (s.tower tw).tasks.foldl
      (fun (u : State × Bool) t =>
        match u.1.task? tw t.key with
        | some t' => if t'.st = .waiting ∧ t'.strm.isSome then let q := u.1.tryReady tw t'; (q.1, u.2 || q.2) else u
        | none => u)
      (s, false)
    if r.2 then r.1.wake tw n else r.1

/-- Look at every WAITING task of the tower's streams again (07 R161). -/
def State.wakeAll (s : State) (tw : Nat) : State := s.wake tw ((s.tower tw).tasks.length + 1)

/-- A task enters READY; if it ends instead, the tasks its stream held are looked at again (07 R157, R161; 10 R244). -/
def State.makeReady (s : State) (tw : Nat) (t : TaskInfo) : State :=
  let r := s.enterReady tw t
  if r.2 then (r.1.wakeAll tw).ovqStore tw else r.1

/-- One entry of a successor list; a record in a terminal state is not changed (07 R153, R159, R160). -/
def State.decrement (s : State) (tw : Nat) (t : TaskInfo) (succ : Word) : State :=
  match s.structGet tw t.recAsid t.recA succ 24 with
  | (u, none) => u
  | (u, some bs) =>
    let q := qwordOf bs 2
    let n := bitsOf q 48 16
    let st := bitsOf (qwordOf bs 0) 0 4
    if n = 0 ∨ (5 ≤ st ∧ st ≤ 9) then u
    else
      let u := u.structPut tw t.recAsid succ (succ + 16) (putBits q 48 16 (n - 1))
      if n ≠ 1 then u
      else
        match u.taskAt succ (some t.recAsid) with
        | none => u
        | some (tv, x) => ((u.tryReady tv x).1).wakeAll tv

/-- A class-3 entry of code ILLOP: a malformed successor list (07 R160). -/
def State.listBad (s : State) (tw : Nat) (t : TaskInfo) : State :=
  s.fqPush tw { FqEntry.blank Kind.illop.code 3 s.time with asid := t.asid, subject := t.recA }

/-- Entries from i on of a successor list. -/
def State.notifyFrom (s : State) (tw : Nat) (t : TaskInfo) (list : Word) : (n : Nat) → (i : Nat) → State × Bool
  | 0, _ => (s, false)
  | n + 1, i =>
    match s.structGet tw t.recAsid t.recA (list + w64 (8 + 8 * i)) 8 with
    | (u, none) => u.notifyFrom tw t list n (i + 1)
    | (u, some bs) =>
      let e := qwordOf bs 0
      if !bitsZero e 0 6 || !canonical e 64 then
        let r := u.notifyFrom tw t list n (i + 1)
        (r.1, true)
      else (u.decrement tw t e).notifyFrom tw t list n (i + 1)

/-- Whether the header of a successor list is malformed (07 R160). -/
def listMalformed (h : Word) : Bool := !bitsZero h 32 32 || decide (bitsOf h 16 16 < bitsOf h 0 16)

/-- The successors of a task that ended in DONE (07 R159, R160). -/
def State.notify (s : State) (tw : Nat) (t : TaskInfo) : State :=
  match s.structGet tw t.recAsid t.recA (t.recA + 40) 8 with
  | (u, none) => u
  | (u, some bs) =>
    let list := w64 (bitsOf (qwordOf bs 0) 3 53 * 8)
    if list = 0 then u
    else
      match u.structGet tw t.recAsid t.recA list 8 with
      | (w, none) => w
      | (w, some hs) =>
        let h := qwordOf hs 0
        if listMalformed h then w.listBad tw t
        else
          let r := w.notifyFrom tw t list (bitsOf h 0 16) 0
          if r.2 then r.1.listBad tw t else r.1

/-- A task reaches a terminal state: cval, then qword 0, whose reason for a FAILED state is open (log 108), its completion, its reservation and binding, its successors and its stream (07 R154, R158, R159, R161). -/
def State.endTask (s : State) (tw : Nat) (t : TaskInfo) (code : Nat) (cval : Word) : State :=
  let s := s.released t.recA t.asid
  let s := (s.structPut tw t.recAsid t.recA (t.recA + 56) cval).putQ0 tw t.recAsid t.recA
    (q0State code (if code = 6 then (s.free 26).toNat else 0))
  let s := match t.window with
    | some (w, _) => s.onWindow tw w fun x => { x with comps := x.comps ++ [(t.recA, code, cval)] }
    | none => s
  let s := s.forgetTask tw t
  let s := if code = 5 then s.notify tw t else s
  (s.wakeAll tw).ovqStore tw

/-! ### Submission -/

/-- Whether a record fails the check of its format. Bits [63:56] of qwords 4 to 6, which the table leaves out, are not looked at: DESIGN CHOICE, log 115 (07 R152, R156). -/
def formatBad (q : Nat → Word) : Bool :=
  !bitsZero (q 0) 60 4 || decide (4 < bitsOf (q 1) 19 3) || decide (16 < bitsOf (q 1) 24 5) || !bitsZero (q 1) 30 2
    || !bitsZero (q 1) 50 14 || !bitsZero (q 2) 34 14 || !bitsZero (q 3) 56 8 || bitsZero (q 4) 13 43
    || !bitsZero (q 4) 0 13 || !bitsZero (q 5) 0 3 || !bitsZero (q 6) 0 6

/-- A record is rejected: cval 0, state REJECTED and the reason (07 R154, R156). -/
def State.rejectRec (s : State) (tw : Nat) (asid : BitVec 16) (rec : Word) (reason : Nat) : State :=
  (s.structPut tw asid rec (rec + 56) 0).putQ0 tw asid rec (q0State 9 reason)

/-- The class a record gets: 1 in place of 0 without class-0 permission (18 R378). -/
def State.classOf (s : State) (asid : BitVec 16) (c : BitVec 3) : BitVec 3 := if c = 0 ∧ ¬ s.asidC0 asid then 1 else c

/-- The save area's control block and the range list of a record, read at submission: the lowest reason for which it fails, 0 for none, with its ranges (07 R156, R161; 10 R232; 18 R372). -/
def State.checkRec (s : State) (q : Nat → Word) (asid : BitVec 16) (sv : Bool) : State × Nat × List (Option Range) :=
  let own : BitVec 16 := (q 1).setWidth 16
  let save := w64 (bitsOf (q 4) 13 43 * 8192)
  let rng := w64 (bitsOf (q 6) 6 50 * 64)
  let a := s.vread own save 8 0
  let r := if rng = 0 then (a.1, VRes.ok (List.replicate 64 0)) else a.1.vread own rng 64 0
  let ranges := match r.2 with
    | .ok bs => rangeList bs
    | .bad _ _ => none
  let reason :=
    if formatBad q || (match a.2 with
      | .ok bs => decide (bytesToNat bs ≠ 0)
      | .bad _ _ => false) then 1
    else if decide (own ≠ asid) && !sv then 2
    else if !s.hypNameable own ((q 1).extractLsb' 32 12) then 3
    else if ranges.isNone then 4
    else match a.2 with
      | .bad _ _ => 8
      | .ok _ => 0
  (r.1, reason, ranges.getD [])

/-- A submission is performed: ignored, rejected, or accepted as WAITING or READY (07 R156, R157; 10 R232). -/
def State.submitNow (s : State) (tw : Nat) (rec : Word) (asid : BitVec 16) (sv stream : Bool) (window : Option (Nat × Nat)) : State :=
  match s.structGet tw asid rec rec 64 with
  | (u, none) => u
  | (u, some bs) =>
    let q (n : Nat) : Word := qwordOf bs n
    if bitsOf (q 0) 0 4 ≠ 0 then u
    else
      let r := u.checkRec q asid sv
      if r.2.1 ≠ 0 then
        let u := r.1.rejectRec tw asid rec r.2.1
        match window with
        | some (w, _) => u.onWindow tw w fun x => { x with comps := x.comps ++ [(rec, 9, 0)] }
        | none => u
      else
        let u := r.1
        let own : BitVec 16 := (q 1).setWidth 16
        let h := u.hypFinal ((q 1).extractLsb' 32 12)
        let cls := u.classOf own ((q 1).extractLsb' 16 3)
        let q1 := putBits (putBits (q 1) 32 12 h.toNat) 16 3 cls.toNat
        let t : TaskInfo :=
          { recA := rec, asid := own, recAsid := asid, st := .waiting, cls := cls
            strm := if stream then some (bitsOf (q 1) 44 6) else none
            ranges := r.2.2, released := 0, readyAt := u.time, readySeq := 0, aged := 0, overflow := false, window := window
            hyp := h, shielded := false, gang := none, heldHyps := [], endAsked := false, halted := false, preempted := false
            needHandler := false, cause := none, newPrio := none }
        let u := if q1 = q 1 then u else u.structPut tw asid rec (rec + 8) q1
        let u := (u.onTower tw fun x => { x with tasks := x.tasks ++ [t] }).hypCount h true
        if bitsOf (q 2) 48 16 ≠ 0 ∨ (u.tower tw).streamHolds t then u.putQ0 tw asid rec (q0Code 1)
        else u.makeReady tw t

/-- The stream a record names, none when it cannot be read (07 R152). -/
def State.streamOf (s : State) (asid : BitVec 16) (rec : Word) : Option Nat :=
  match (s.vread asid rec 64 0).2 with
  | .ok bs => some (bitsOf (qwordOf bs 1) 44 6)
  | .bad _ _ => none

/-- A submission by an instruction: performed, or held while its stream is full (07 R157, R161). -/
def State.submit (s : State) (tw : Nat) (rec : Word) (asid : BitVec 16) (sv stream : Bool) : State :=
  match (if stream then s.streamOf asid rec else none) with
  | some n =>
    if (s.tower tw).streamBusy n then s.onTower tw fun t => { t with streamWaits := t.streamWaits ++ [⟨n, rec, asid, sv, none⟩] }
    else s.submitNow tw rec asid sv stream none
  | none => s.submitNow tw rec asid sv stream none

/-- TDEP is performed, one step against the predecessor's end; an access to the list that fails makes no class-4 entry: DESIGN CHOICE, log 116 (07 R160). -/
def State.addDep (s : State) (tw : Nat) (asid : BitVec 16) (pred succ : Word) : State :=
  match s.structGet tw asid pred pred 64 with
  | (u, none) => u
  | (u, some ps) =>
    let pst := bitsOf (qwordOf ps 0) 0 4
    if pst = 5 then u
    else
      match u.structGet tw asid succ succ 64 with
      | (v, none) => v
      | (v, some ss) =>
        if bitsOf (qwordOf ss 0) 0 4 ≠ 0 then v
        else if 6 ≤ pst ∧ pst ≤ 9 then v.rejectRec tw asid succ 6
        else
          let list := w64 (bitsOf (qwordOf ps 5) 3 53 * 8)
          if list = 0 then v.rejectRec tw asid succ 5
          else
            match v.vread64 asid list with
            | (w, .error _) => w.rejectRec tw asid succ 5
            | (w, .ok h) =>
              let n := bitsOf h 0 16
              if listMalformed h || decide (n = bitsOf h 16 16) then w.rejectRec tw asid succ 5
              else
                match w.vwrite64 asid (list + w64 (8 + 8 * n)) succ with
                | (x, some _) => x.rejectRec tw asid succ 5
                | (x, none) =>
                  let x := x.structPut tw asid pred list (putBits h 0 16 (n + 1))
                  let q2 := qwordOf ss 2
                  x.structPut tw asid succ (succ + 16) (putBits q2 48 16 (bitsOf q2 48 16 + 1))

/-- TRANGE is performed (07 R162). -/
def State.releaseRanges (s : State) (tw : Nat) (k : TaskKey) (mask : BitVec 4) : State :=
  (s.onTask tw k fun t => { t with released := t.released ||| mask }).wakeAll tw

/-- TPRIO of a record is performed (07 R166). -/
def State.setClass (s : State) (tw : Nat) (asid : BitVec 16) (rec : Word) (cls : BitVec 3) : State :=
  match s.structGet tw asid rec rec 16 with
  | (u, none) => u
  | (u, some bs) =>
    let q1 := qwordOf bs 1
    if (q1.setWidth 16 : BitVec 16) ≠ asid ∨ 5 ≤ bitsOf (qwordOf bs 0) 0 4 then u
    else
      let u := u.structPut tw asid rec (rec + 8) (putBits q1 16 3 cls.toNat)
      match u.taskAt rec (some asid) with
      | none => u
      | some (tv, t) =>
        let u := u.onTask tv t.key fun x => { x with cls := cls, newPrio := some cls }
        match u.ctxOf? t.key with
        | some c => u.onCtx c.id fun x => { x with newPrio := some cls }
        | none => u

end Sys2Proof.Machine
end

