-- ==== Sys2Proof/Machine/Tasks.lean ====
section
/-! DEFINITION. Sys2Proof/Machine/Tasks.lean: the task instructions and the dispatcher's timers (07 R157 to R167). -/

namespace Sys2Proof.Machine

/-- The check of a record operand when its instruction fires (07 R157). -/
def recOperand (a : Word) : Option Kind :=
  if !bitsZero a 0 6 then some .misalign else if !canonical a 64 then some .perm else none

/-- TSPAWN and TSUBMIT fire once a reservation is free (07 R157, R158). -/
def spawnAct (i : Instr) (mk : Word → Action) (v : Vals) (s : State) : Act :=
  match recOperand v.a.bits, s.fctx, s.finst with
  | some k, _, _ => .fires (s.effectPoison i k)
  | none, some c, some x =>
    let me : Nat × Nat × BitVec 7 := (c.id, x.uid, s.focus.iid)
    let mine (w : WaitSub) : Bool := decide (w.by_ = some me)
    let subs := (s.tower c.tower).waitSubs
    let go (t : State) : Act := .fires ((t.onInst fun y => { y with taskRes := y.taskRes + 1 }).effect i (mk v.a.bits))
    match subs.find? mine with
    | some w => if w.granted then go (s.onTower c.tower fun t => { t with waitSubs := t.waitSubs.filter fun w => !mine w }) else .waits s
    | none =>
      if s.roomToSubmit c.tower && subs.all (fun w => w.granted) then go s
      else .waits ((s.onTower c.tower fun t => { t with waitSubs := t.waitSubs ++ [⟨some me, none, false⟩] }).beginWait)
  | none, _, _ => .waits s

/-- TSPAWN submits a record without a stream at commit (07 R157). -/
def execTspawn (pr : Pred) (eff : BitVec 5) (s : State) : Host.Outcome State Fault Refusal :=
  fire s (.tspawn pr eff) (spawnAct (.tspawn pr eff) .tspawn)

/-- TSUBMIT submits a record to its stream at commit (07 R157). -/
def execTsubmit (pr : Pred) (eff : BitVec 5) (s : State) : Host.Outcome State Fault Refusal :=
  fire s (.tsubmit pr eff) (spawnAct (.tsubmit pr eff) .tsubmit)

/-- TDEP adds an edge at commit (07 R160). -/
def execTdep (pr : Pred) (eff : BitVec 5) (s : State) : Host.Outcome State Fault Refusal :=
  fire s (.tdep pr eff) fun v u =>
    match (recOperand v.a.bits).or (recOperand v.b.bits) with
    | some k => .fires (u.effectPoison (.tdep pr eff) k)
    | none => .fires (u.effect (.tdep pr eff) (.tdep v.a.bits v.b.bits))

/-- TWAIT delivers a record's state at once, or its completion value once it is terminal; either delivery is an acquire (07 R155, R167). -/
def execTwait (pr : Pred) (eff : BitVec 5) (poll : Bool) (t : Tgt) (s : State) : Host.Outcome State Fault Refusal :=
  fire s (.twait pr eff poll t) fun v u =>
    let i : Instr := .twait pr eff poll t
    match recOperand v.a.bits, u.fctx with
    | some k, _ => .fires (u.loadPoison i k v.a.bits)
    | none, none => .waits u
    | none, some c =>
      match u.vread c.asid v.a.bits 64 0 with
      | (w, .bad k a) => .fires (w.loadPoison i k a)
      | (w, .ok bs) =>
        let q0 := qwordOf bs 0
        if poll then .fires ((w.effect i .acquire).deliverS i (w64 (bitsOf q0 0 4 + bitsOf q0 56 4 * 256)))
        else if 5 ≤ bitsOf q0 0 4 ∧ bitsOf q0 0 4 ≤ 9 then .fires ((w.effect i .acquire).deliverS i (qwordOf bs 7))
        else .waits u.beginWait

/-- TRANGE releases range entries at commit (07 R162). -/
def execTrange (pr : Pred) (eff : BitVec 5) (s : State) : Host.Outcome State Fault Refusal :=
  fire s (.trange pr eff) fun v u =>
    .fires (if bitsZero v.a.bits 4 60 then u.effect (.trange pr eff) (.trange (v.a.bits.setWidth 4))
      else u.effectPoison (.trange pr eff) .illop)

/-- TPRIO sets a class at commit; of a class and a record that both fail their checks the class decides (07 R166; log 107). -/
def execTprio (pr : Pred) (eff : BitVec 5) (s : State) : Host.Outcome State Fault Refusal :=
  fire s (.tprio pr eff) fun v u =>
    let i : Instr := .tprio pr eff
    match u.fctx with
    | none => .waits u
    | some c =>
      if !bitsZero v.b.bits 3 61 then .fires (u.effectPoison i .illop)
      else
        match (if v.a.bits = 0 then none else recOperand v.a.bits) with
        | some k => .fires (u.effectPoison i k)
        | none => .fires (u.effect i (.tprio v.a.bits (u.classOf c.asid (v.b.bits.setWidth 3))))

/-- OVERFLOW_ADMIT: the oldest READY record of the overflow queue moves into the pool (07 R157). -/
def execOverflowAdmit (tw : Nat) (s : State) : Host.Outcome State Fault Refusal :=
  let t := s.tower tw
  let over_ := sortBy (fun a b => decide (a.readySeq ≤ b.readySeq)) (t.tasks.filter fun x => decide (x.st = .ready) && x.overflow)
  match over_ with
  | [] => .next s
  | x :: _ =>
    if t.poolCount < Config.readyPool then
      .next ((s.onTask tw x.key fun y => { y with overflow := false }).ovqStore tw).tick
    else .next s

/-- Full steps of 4 ms that a task has spent READY (07 R163). -/
def TaskInfo.steps (t : TaskInfo) (now : Nat) : Nat := (now - t.readyAt) / 4000000

/-- The effective class (07 R163). -/
def TaskInfo.eff (t : TaskInfo) : Nat := if t.cls = 0 then 0 else Nat.max 1 (t.cls.toNat - t.aged)

/-- CLASS_AGING: each full 4 ms in READY lowers a task's effective class by one (07 R163). -/
def execClassAging (tw : Nat) (s : State) : Host.Outcome State Fault Refusal :=
  let old (x : TaskInfo) : Bool := decide (x.st = .ready) && decide (x.aged < x.steps s.time)
  if (s.tower tw).tasks.any old then
    .next (s.onTower tw fun t => { t with tasks := t.tasks.map fun x => if old x then { x with aged := x.steps s.time } else x }).tick
  else .next s

/-- PASSOVER_LIMIT: a first task of the highest class has been passed over for 1 ms (07 R163). -/
def execPassoverLimit (tw : Nat) (s : State) : Host.Outcome State Fault Refusal :=
  let t := s.tower tw
  match t.passed.find? fun p => decide (p.2 + s.us 1000 ≤ s.time) && !t.passedLimit.contains p.1 with
  | none => .next s
  | some p => .next (s.onTower tw fun t => { t with passedLimit := t.passedLimit ++ [p.1] }).tick

end Sys2Proof.Machine
end

