-- ==== Sys2Proof/Machine/Messages.lean ====
section
/-! DEFINITION. Sys2Proof/Machine/Messages.lean: active messages, inboxes, handlers (07 R168 to R173; 20 R391). -/

namespace Sys2Proof.Machine

/-! ### Inboxes -/

/-- The inbox of a cell (07 R169). -/
def Tower.inbox (t : Tower) (cell : Nat) : Inbox := (t.inboxes.find? fun b => decide (b.cell = cell)).getD ⟨cell, [], 0, []⟩

/-- Change the inbox of a cell. -/
def State.onInbox (s : State) (tw cell : Nat) (f : Inbox → Inbox) : State :=
  s.onTower tw fun t => { t with inboxes := (t.inboxes.filter fun b => !decide (b.cell = cell)) ++ [f (t.inbox cell)] }

/-- Whether one of the 16 entries of an inbox is free (07 R169). -/
def Inbox.hasRoom (b : Inbox) : Bool := decide (b.msgs.length + b.granted < 16)

/-- The head message of an inbox. -/
def Inbox.head? (b : Inbox) : Option (BitVec 512) := b.msgs.head?.map fun m => m.msg

/-- Take the head message out; the next one becomes head (07 R171). -/
def Inbox.pop (b : Inbox) : Inbox := { b with msgs := b.msgs.drop 1 }

/-- A message arrives in the entry granted to its sender (07 R169, R171). -/
def Inbox.push (b : Inbox) (m : BitVec 512) : Inbox := { b with msgs := b.msgs ++ [⟨m, none⟩], granted := b.granted - 1 }

/-- The slot, the ASID, the destination and the source of a message (07 R168). -/
def msgSlot (m : BitVec 512) : Nat := bitsOf m 24 8
/-- The sender's ASID. -/
def msgAsid (m : BitVec 512) : BitVec 16 := BitVec.ofNat 16 (bitsOf m 32 16)
/-- Destination cell. -/
def msgDcell (m : BitVec 512) : Nat := bitsOf m 0 7
/-- Destination tower. -/
def msgDtower (m : BitVec 512) : Nat := bitsOf m 8 3
/-- Destination package. -/
def msgDpkg (m : BitVec 512) : Nat := bitsOf m 16 6
/-- Source package. -/
def msgSpkg (m : BitVec 512) : Nat := bitsOf m 64 6

/-- A message as the part fills it from the sender's instruction and context (07 R168). -/
def mkMsg (s : State) (c : Ctx) (cell tower pkg slot rslot : Nat) (rep rq : Bool) (tag : Nat) (payload : Nat) : BitVec 512 :=
  BitVec.ofNat 512 (cell + tower * 2 ^ 8 + pkg * 2 ^ 16 + slot * 2 ^ 24 + c.asid.toNat * 2 ^ 32 + c.base * 2 ^ 48
    + c.tower * 2 ^ 56 + s.self * 2 ^ 64 + rslot * 2 ^ 72 + (if rep then 2 ^ 80 else 0) + (if rq then 2 ^ 81 else 0)
    + 2 ^ 82 + tag * 2 ^ 96 + payload % 2 ^ 384 * 2 ^ 128)

/-! ### Handler tables -/

/-- The address of an ASID's handler table on a tower, none when its HTDIR entry is not valid (07 R170; 17 R350). -/
def State.handlerTable (s : State) (tw : Nat) (asid : BitVec 16) : Option Nat :=
  let e := w64 (s.preadNat ((s.tower tw).htdir.toNat + 8 * asid.toNat) 8)
  if e.getLsbD 0 then some (bitsOf e 11 41 * 2048) else none

/-- The clause of a valid handler-table entry (07 R170). Its zero fields, [3:1] and [63:56], are not looked at: DESIGN CHOICE, 07 names no fault for them (log 87). -/
def State.handlerClause (s : State) (tw : Nat) (asid : BitVec 16) (slot : Nat) : Option Word :=
  match s.handlerTable tw asid with
  | none => none
  | some pa =>
    let e := w64 (s.preadNat (pa + 8 * slot) 8)
    if e.getLsbD 0 then some (w64 (bitsOf e 4 52 * 16)) else none

/-- HTSET is performed: one 8-byte write of the entry, if the ASID has a table there (07 R170; log 10). -/
def State.setHandler (s : State) (tw : Nat) (asid : BitVec 16) (slot : Nat) (v : Word) : State :=
  match s.handlerTable tw asid with
  | none => s
  | some pa => s.partWrite (pa + 8 * slot) (natToBytes 8 v.toNat)

/-! ### Sending -/

/-- AMSEND and AMREPLY fire once the destination inbox has granted an entry; one of another package is granted on its second firing (07 R169; 20 R391; log 11). -/
def State.sendMsg (s : State) (i : Instr) (tw cell pkg : Nat) (m : BitVec 512) : Act :=
  match s.fctx, s.finst with
  | some c, some x =>
    let me : Nat × Nat × BitVec 7 := (c.id, x.uid, s.focus.iid)
    if pkg ≠ s.self then
      if x.linkDead.contains s.focus.iid then .fires (s.effectPoison i .linklost)
      else if !((s.routes[pkg]?).getD 0).getLsbD 0 then .fires (s.effectPoison i .perm)
      else if (x.waitSince s.focus.iid).isNone then .waits s.beginWait
      else .fires (s.effect i (.amsend m))
    else if x.grants.any fun g => decide (g.1 = s.focus.iid) then .fires (s.effect i (.amsend m))
    else
      let b := (s.tower tw).inbox cell
      if b.asking.contains me then .waits s
      else if b.hasRoom && b.asking.isEmpty then
        .fires (((s.onInbox tw cell fun y => { y with granted := y.granted + 1 }).onInst fun y =>
          { y with grants := (s.focus.iid, tw, cell) :: y.grants }).effect i (.amsend m))
      else .waits ((s.onInbox tw cell fun y => { y with asking := y.asking ++ [me] }).beginWait)
  | _, _ => .waits s

/-- AMSEND sends a message (07 R169). -/
def execAmsend (pr : Pred) (eff : BitVec 5) (s : State) : Host.Outcome State Fault Refusal :=
  fire s (.amsend pr eff) fun v u =>
    let i : Instr := .amsend pr eff
    let a := v.a.bits
    match u.fctx with
    | none => .waits u
    | some c =>
      if !bitsZero a 7 1 || !bitsZero a 11 5 || !bitsZero a 22 2 || !bitsZero a 41 23 || decide (6 ≤ bitsOf a 8 3) then
        .fires (u.effectPoison i .illop)
      else
        u.sendMsg i (bitsOf a 8 3) (bitsOf a 0 7) (bitsOf a 16 6)
          (mkMsg u c (bitsOf a 0 7) (bitsOf a 8 3) (bitsOf a 16 6) (bitsOf a 24 8) (bitsOf a 32 8) false (a.getLsbD 40)
            (bitsOf v.c.bits 0 32) v.b.wbits.toNat)

/-- AMREPLY answers the sender of the current handler's message (07 R173). -/
def execAmreply (pr : Pred) (eff : BitVec 5) (s : State) : Host.Outcome State Fault Refusal :=
  fire s (.amreply pr eff) fun v u =>
    let i : Instr := .amreply pr eff
    match u.fctx with
    | none => .waits u
    | some c =>
      match (if c.causeMode = 1 then c.hmsg else none) with
      | none => .fires (u.effectPoison i .illop)
      | some m =>
        u.sendMsg i (bitsOf m 56 3) (bitsOf m 48 7) (bitsOf m 64 6)
          (mkMsg u c (bitsOf m 48 7) (bitsOf m 56 3) (bitsOf m 64 6) (bitsOf m 72 8) (bitsOf m 72 8) true false
            (bitsOf m 96 32) v.a.wbits.toNat)

/-- HTSET writes a handler-table entry at commit (07 R170). -/
def execHtset (pr : Pred) (eff : BitVec 5) (s : State) : Host.Outcome State Fault Refusal :=
  fire s (.htset pr eff) fun v u =>
    let a := v.a.bits
    let b := v.b.bits
    if !bitsZero a 11 53 || bitsZero a 0 8 || decide (6 ≤ bitsOf a 8 3) || !bitsZero b 1 3 || !bitsZero b 56 8 then
      .fires (u.effectPoison (.htset pr eff) .illop)
    else .fires (u.effect (.htset pr eff) (.htset (a.setWidth 8) ((a >>> 8).setWidth 3) b))

/-- INBOX delivers the current handler's message, or takes a polled head message (07 R173). -/
def execInbox (pr : Pred) (eff : BitVec 5) (take : Bool) (t : Tgt) (s : State) : Host.Outcome State Fault Refusal :=
  fire s (.inbox pr eff take t) fun v u =>
    let i : Instr := .inbox pr eff take t
    match u.fctx with
    | none => .waits u
    | some c =>
      if !take then .fires ((u.effect i .done).deliverW i (if c.causeMode = 1 then c.hmsg.getD 0 else 0))
      else if !u.oldest then .waits u
      else
        let cell := c.base + v.a.bits.toNat % c.width
        match ((u.tower c.tower).inbox cell).head? with
        | some m =>
          if msgSlot m = 0 ∧ msgAsid m = c.asid then .fires ((u.effect i (.inboxTake cell)).deliverW i m)
          else .fires ((u.effect i .done).deliverW i 0)
        | none => .fires ((u.effect i .done).deliverW i 0)

/-- The release of AMSEND is performed: the message leaves for its inbox, or for its package (07 R169; 20 R391). -/
def State.sent (s : State) (k : TaskKey) (m : BitVec 512) : State :=
  if msgDpkg m = s.self then { s with flight := s.flight ++ [(k, m)] } else { s with outbox := s.outbox ++ [.message m] }

/-! ### Events -/

/-- The focus on an instruction of an instance. -/
def State.focusOn (s : State) (c uid : Nat) (iid : BitVec 7) : Option (State × Instr) :=
  match s.ctx? c with
  | none => none
  | some x =>
    match x.window.findIdx? fun y => decide (y.uid = uid) with
    | none => none
    | some n => ((x.window[n]?).bind fun y => y.instrAt iid).map fun i => ({ s with focus := ⟨c, n, iid, s.focus.spec⟩ }, i)

/-- INBOX_GRANT: the destination inbox grants an entry to the first AMSEND that asks (07 R169). -/
def execInboxGrant (tw cell : Nat) (s : State) : Host.Outcome State Fault Refusal :=
  let b := (s.tower tw).inbox cell
  match b.asking with
  | [] => .next s
  | (c, uid, iid) :: rest =>
    if !b.hasRoom then .next s
    else
      let s' := s.onInbox tw cell fun y => { y with asking := rest, granted := y.granted + 1 }
      match s'.focusOn c uid iid with
      | none => .next (s.onInbox tw cell fun y => { y with asking := rest }).tick
      | some (u, i) =>
        let u := u.onInst fun y => { y with grants := (iid, tw, cell) :: y.grants }
        match i with
        | .amsend pr eff => execAmsend pr eff u
        | .amreply pr eff => execAmreply pr eff u
        | _ => .next s

/-- MESSAGE_ARRIVAL: a message in flight reaches its inbox, after the earlier ones of its sender to that cell; one of another package needs a free entry (07 R169, R171; 20 R391). -/
def execMessageArrival (m : BitVec 512) (s : State) : Host.Outcome State Fault Refusal :=
  let tw := msgDtower m
  let cell := msgDcell m
  match s.flight.find? fun f => decide (f.2 = m) with
  | some f =>
    let before := s.flight.takeWhile fun g => !decide (g = f)
    if before.any fun g => decide (g.1 = f.1) && decide (msgDtower g.2 = tw) && decide (msgDcell g.2 = cell) then .next s
    else .next ({ s with flight := s.flight.erase f }.onInbox tw cell fun b => b.push m).tick
  | none =>
    if msgSpkg m ≠ s.self ∧ msgDpkg m = s.self ∧ tw < 6 ∧ m.getLsbD 82 ∧ ((s.tower tw).inbox cell).hasRoom then
      .next (s.onInbox tw cell fun b => { b with granted := b.granted + 1 }.push m).tick
    else .next s

/-- Whether the oldest clause of a context lets a stop in before it: nothing of it has been performed or sent ahead (09 R221; 01 R32). -/
def Ctx.boundary (c : Ctx) : Bool :=
  match c.window with
  | [] => true
  | x :: _ => x.performed.isEmpty && x.sent.isEmpty

/-- Every clause in flight is squashed, as at a boundary (01 R32). -/
def State.clear (s : State) (c : Ctx) : State := (s.squashFrom c.id 0).forgetAsks c

/-- The handler a context would be diverted to: the cell, the message and the clause (07 R171). -/
def State.diversion? (s : State) (c : Ctx) : Option (Nat × BitVec 512 × Word) :=
  (List.range c.width).findSome? fun j =>
    match ((s.tower c.tower).inbox (c.base + j)).head? with
    | none => none
    | some m =>
      if msgSlot m = 0 ∨ msgAsid m ≠ c.asid then none
      else (s.handlerClause c.tower c.asid (msgSlot m)).map fun pc => (c.base + j, m, pc)

/-- Whether a stop is due at the next boundary of a context (17 R334). -/
def State.stopDue (s : State) (c : Ctx) : Bool :=
  c.lost || c.eccStop || c.haltReq.isSome || (s.lates.any fun l => decide (l.1 = c.key)) || s.hypRefuted c.hyp
    || !c.afterStop.isEmpty

/-- HANDLER_DIVERSION: a running task is diverted at a boundary to the handler of a head message (07 R171; 17 R346, R366). -/
def execHandlerDiversion (c : Nat) (s : State) : Host.Outcome State Fault Refusal :=
  match s.ctx? c with
  | none => .next s
  | some x =>
    if x.kind ≠ .task || !x.normalMode || !x.boundary || x.parked || x.frozen || x.leaving.isSome || s.stopDue x then .next s
    else
      match s.diversion? x with
      | none => .next s
      | some (cell, m, pc) =>
        .next ((((s.clear x).onInbox x.tower cell fun b => b.pop).onCtx c fun y =>
          { y.settlePrio.takeHandler m pc with handlerAt := s.time }).acquired c).tick

/-- A handler that ends or leaves its lens: its time does not count for the heads of its inboxes (07 R172). -/
def State.handlerEnds (s : State) (c : Ctx) : State :=
  if c.causeMode ≠ 1 ∨ c.parked = true then s
  else
    s.onTower c.tower fun t =>
      { t with inboxes := t.inboxes.map fun b =>
          if c.base ≤ b.cell ∧ b.cell < c.base + c.width then
            { b with msgs := b.msgs.map fun m => { m with headAt := m.headAt.map fun a => a + (s.time - Nat.max a c.handlerAt) } }
          else b }

/-- Room in a fault queue (17 R337). -/
def Tower.fqRoom (t : Tower) : Bool := decide (t.fqBase ≠ 0) && decide ((t.fqHead - t.fqTail).toNat < 2 ^ t.fqN)

/-- The running task of a message's ASID on a lens that holds a cell (07 R172). -/
def State.holderOf? (s : State) (tw cell : Nat) (m : BitVec 512) : Option Ctx :=
  s.ctxs.find? fun c : Ctx =>
    decide (c.kind = .task) && !c.parked && !c.frozen && decide (c.tower = tw) && decide (c.base ≤ cell) && decide (cell < c.base + c.width)
      && decide (c.asid = msgAsid m)

/-- Whether a task runs a handler on a cell (07 R172). -/
def State.inHandler (s : State) (tw cell : Nat) : Bool :=
  s.ctxs.any fun c : Ctx => decide (c.kind = .task) && !c.parked && decide (c.tower = tw) && decide (c.base ≤ cell) && decide (cell < c.base + c.width)
    && decide (c.causeMode = 1)

/-- Whether a task of a message's ASID holds a cell, running or not (07 R172). -/
def State.held? (s : State) (tw cell : Nat) (m : BitVec 512) : Bool :=
  s.ctxs.any fun c : Ctx => decide (c.kind = .task) && decide (c.tower = tw) && decide (c.base ≤ cell) && decide (cell < c.base + c.width)
    && decide (c.asid = msgAsid m)

/-- Whether the table entry a message needs is not valid (07 R172). -/
def State.entryBad (s : State) (tw : Nat) (m : BitVec 512) : Bool := decide (msgSlot m ≠ 0) && (s.handlerClause tw (msgAsid m) (msgSlot m)).isNone

/-- Whether a head message cannot be served: its entry is not valid, or no task of its ASID runs on its cell; a polled one, of slot 0, only while no task of its ASID holds the cell (07 R172). -/
def State.unserved (s : State) (tw cell : Nat) (m : BitVec 512) : Bool :=
  if msgSlot m = 0 then !s.held? tw cell m else (s.holderOf? tw cell m).isNone || s.entryBad tw m

/-- The time since which a head message cannot be served begins, or ends (07 R172). -/
def State.markHeads (s : State) : State :=
  if s.towers.all fun t => t.inboxes.all fun b => b.msgs.isEmpty then s
  else
    { s with towers := s.towers.mapIdx fun tw t =>
        { t with inboxes := t.inboxes.map fun b =>
            { b with msgs := match b.msgs with
                | [] => []
                | m :: ms => { m with headAt := if s.unserved tw b.cell m.msg then some (m.headAt.getD s.time) else none } :: ms } } }

/-- NOHANDLER: a head message that could not be served for 64 us goes to the supervisor; while the fault queue has no room it stays in its inbox. An entry that is not valid gives cause 0 also where no task of the ASID is there: DESIGN CHOICE (log 109) (07 R172; 17 R337). -/
def execNohandler (tw cell : Nat) (s : State) : Host.Outcome State Fault Refusal :=
  let t := s.tower tw
  match (t.inbox cell).msgs with
  | [] => .next s
  | m :: _ =>
    if s.unserved tw cell m.msg && !s.inHandler tw cell && decide ((m.headAt.getD s.time) + s.us 64 ≤ s.time) && t.fqRoom && t.fqHeld.isEmpty then
      .next ((s.onInbox tw cell fun y => y.pop).fqPush tw { FqEntry.blank Kind.nohandler.code 1 s.time with
        asid := msgAsid m.msg, arg := if s.entryBad tw m.msg then 0 else 1, body := natToBytes 64 m.msg.toNat ++ List.replicate 64 0 }).tick
    else .next s

end Sys2Proof.Machine
end

