-- ==== Sys2Proof/Machine/Engine.lean ====
section
/-! DEFINITION. Sys2Proof/Machine/Engine.lean: what the engines share: where a command's fault goes (12 R260; 17 R339, R340, R343, R344), and the memory accesses of an engine (12 R262; 13 R284). -/

namespace Sys2Proof.Machine

/-- The next late-fault sequence number of a task that is not on a lens, in its save area (18 R372). -/
def State.savedSeq (s : State) (tw : Nat) (t : TaskInfo) : State × BitVec 16 :=
  let va := s.saveOf t + 0x10
  match s.structGet tw t.asid t.recA va 8 with
  | (u, none) => (u, 0)
  | (u, some bs) =>
    let q := qwordOf bs 0
    (u.structPut tw t.asid t.recA va (putBits q 0 16 (bitsOf q 0 16 + 1)), q.setWidth 16)

/-- Bytes of the record at a ring's head are written and the head advances; a ring holds at most 63 (17 R339). -/
def ringFull (head tail : BitVec 6) : Bool := decide (head + 1 = tail)

/-- A command that an ended task left behind faults: its record goes to the task's ring if that has room, and in any case to the supervisor, and the command is discarded (17 R344). -/
def State.endedFault (s : State) (r : AfRec) : State :=
  let s := match s.ended.find? fun e => decide (e.key = ⟨r.owner, r.asid⟩) with
    | none => s
    | some e =>
      let r := { r with seq := e.seq }
      let up (f : Ended → Ended) (t : State) : State := { t with ended := t.ended.map fun x : Ended => if x.key = e.key then f x else x }
      if ringFull e.head e.tail then up (fun x => { x with seq := x.seq + 1 }) s
      else
        match s.vwrite e.key.asid (e.base + w64 (128 * e.head.toNat)) r.bytes with
        | (t, none) => up (fun x => { x with seq := x.seq + 1, head := x.head + 1 }) t
        | (t, some _) => up (fun x => { x with seq := x.seq + 1 }) t
  s.fqRecord r

/-- Where a fault of an engine's command goes: a record of its task or of its load, with the number it takes; none when its task has ended, so that the command is discarded (12 R260; 17 R340, R344). -/
def State.engineFault (s : State) (r : AfRec) : State × Option (BitVec 16) :=
  match r.load with
  | some (tw, slot) =>
    let n := (s.recq.filter fun q => decide (q.load = r.load)).length + ((s.load? tw slot).map fun l => l.nrec).getD 0
    let r := { r with seq := BitVec.ofNat 16 n }
    (({ s with recq := s.recq ++ [r] }).loadFault tw slot, some r.seq)
  | none =>
    match s.ctxOf? ⟨r.owner, r.asid⟩ with
    | some c =>
      let r := { r with seq := c.lateSeq }
      ({ (s.onCtx c.id fun x => { x with lateSeq := x.lateSeq + 1 }) with recq := s.recq ++ [r] }, some r.seq)
    | none =>
      match s.task? r.tower ⟨r.owner, r.asid⟩ with
      | some t =>
        let q := s.savedSeq r.tower t
        let r := { r with seq := q.2 }
        ({ q.1 with recq := q.1.recq ++ [r] }, some r.seq)
      | none => (s.endedFault r, none)

/-- The record of a fault of a command (17 R340). -/
def Origin.record (o : Origin) (src : BitVec 3) (k : Kind) (cause : Nat) (va ticket : Word) (idx : Nat) : AfRec where
  kind := k
  src := src
  eff := o.eff
  iid := o.iid
  cause := BitVec.ofNat 16 cause
  seq := 0
  va := va
  clause := o.clause
  ticket := ticket
  owner := o.owner
  idx := BitVec.ofNat 32 idx
  idx2 := 0
  asid := o.asid
  hyp := o.hyp
  data := []
  load := o.load
  tower := o.tower

/-- The task a command belongs to. -/
def Origin.key (o : Origin) : TaskKey := ⟨o.owner, o.asid⟩

/-- Whether a read of an engine waits for a view under its policy (13 R296). -/
def State.viewWaits (s : State) (asid : BitVec 16) (va : Word) (n : Nat) : Bool := decide (s.viewCheck asid va.toNat n = .waits)

/-- How many records the ring of a task holds, on its lens or as its save area has it (17 R339; 18 R372). -/
def State.ringCount (s : State) (tw : Nat) (k : TaskKey) : Nat :=
  match s.ctxOf? k, s.task? tw k with
  | some c, _ => (c.afHead - c.afTail).toNat
  | none, some t =>
    match (s.vread t.asid (s.saveOf t) 8 0).2, (s.vread t.asid (s.saveOf t + 0x78) 8 0).2 with
    | .ok v, .ok rg =>
      let q := qwordOf rg 0
      if (qwordOf v 0).getLsbD 0 then ((q.extractLsb' 6 6 : BitVec 6) - q.setWidth 6).toNat else 0
    | _, _ => 0
  | none, none => 0

/-- Whether an engine that must record a fault of a task pauses: the records in the ring and those due fill it (17 R339). A load's ring pauses nothing (17 R343). -/
def State.ringBusy (s : State) (tw : Nat) (k : TaskKey) : Bool :=
  (s.task? tw k).isSome &&
    decide (63 ≤ s.ringCount tw k + (s.recq.filter fun r => decide (r.owner = k.recA) && decide (r.asid = k.asid) && r.load.isNone).length)

/-- The same for the origin of a command. -/
def State.pauses (s : State) (o : Origin) : Bool := o.load.isNone && s.ringBusy o.tower o.key

/-- The streamers of a tower that no load holds (13 R276; 14 R305). -/
def State.freeStreamers (s : State) (tw : Nat) : List Nat :=
  let held := s.loads.flatMap fun l => if l.tower = tw ∧ l.st ≠ .saved then l.streams.map fun f => f.num else []
  (List.range 12).filter fun n => !held.contains n

/-- What performing a command comes to. -/
inductive Perf (α : Type) where
  | waits
  | ok (a : α)
  | bad (s : State) (k : Kind) (cause : Nat) (va : Word)

/-- Read consecutive spans of memory for an engine; the first failure ends it. -/
def State.spansRead (s : State) (asid : BitVec 16) (hyp : BitVec 12) : List (Word × Nat) → Perf (State × List (List Byte))
  | [] => .ok (s, [])
  | (va, n) :: rest =>
    if !canonical va n then .bad s .perm 0 va
    else if s.viewWaits asid va n then .waits
    else
      match s.vread asid va n hyp with
      | (t, .bad k a) => .bad t k 0 a
      | (t, .ok bs) =>
        match t.spansRead asid hyp rest with
        | .ok (u, bss) => .ok (u, bs :: bss)
        | r => r

/-- Write spans of memory for an engine, in order; what precedes a failure stays written. -/
def State.spansWrite (s : State) (asid : BitVec 16) (hyp : BitVec 12) (writer : Word) : List (Word × List Byte) → Perf State
  | [] => .ok s
  | (va, bs) :: rest =>
    if !canonical va bs.length then .bad s .perm 0 va
    else
      match s.vwriteH asid va bs hyp (some writer) with
      | (t, some (k, a)) => .bad t k 0 a
      | (t, none) => t.spansWrite asid hyp writer rest

end Sys2Proof.Machine
end

