-- ==== Sys2Proof/Machine/Tile.lean ====
section
/-! DEFINITION. Sys2Proof/Machine/Tile.lean: the state of an M-node as data: tiles, the bit-plane layout of scratch, accumulator words, bank formats and the sums of MMA and MMAI (12 R253 to R257; 03 R81 to R83). -/

namespace Sys2Proof.Machine

/-! ### Formats in planes -/

/-- Bytes of a row of a tile (12 R256). -/
def tileRowBytes (code : Nat) : Nat := 8 * (planeW code + planeS code)

/-- Blocks of c elements, and the bits they take as a dense stream (03 R63). -/
def denseBits (code c : Nat) : Nat := (c + fmtBlock code - 1) / fmtBlock code * fmtBlockBits code

/-- Bytes of c elements as a dense stream (12 R266). -/
def denseBytes (code c : Nat) : Nat := (denseBits code c + 7) / 8

/-- Where the stored bits of element j lie in a dense stream. -/
def densePos (code j : Nat) : Nat :=
  j / fmtBlock code * fmtBlockBits code + fmtScaleBits code + fmtWidth code * (j % fmtBlock code)

/-- The stored encoding of an element in planes from its container, and back (12 R256). -/
def planeEnc (code x : Nat) : Nat := if code = 17 then x / 2 ^ 13 else x
/-- The container of a stored encoding. -/
def planeDec (code x : Nat) : Nat := if code = 17 then x * 2 ^ 13 else x

/-- The bits of one column gathered from the planes of a row. -/
def planeGet (w : Nat) (planes : List Nat) (j : Nat) : Nat :=
  ((planes.take w).mapIdx fun p x => x / 2 ^ j % 2 * 2 ^ p).sum

/-- The dense stream of the first c elements of a row of planes, zero beyond (12 R256, R266). -/
def planesToDense (code c : Nat) (bs : List Byte) : Nat :=
  let w := planeW code
  let planes := (List.range (w + planeS code)).map fun p => (qwordOf bs p).toNat
  let scales := (planes[w]?).getD 0
  let els := ((List.range c).map fun j => planeDec code (planeGet w planes j) * 2 ^ densePos code j).sum
  let ls := fmtScaleBits code
  let scs := if planeS code = 0 then 0 else
    ((List.range ((c + fmtBlock code - 1) / fmtBlock code)).map fun q =>
      scales / 2 ^ (ls * q) % 2 ^ ls * 2 ^ (q * fmtBlockBits code)).sum
  els + scs

/-- A row of w planes from a dense stream of c elements, each stored as enc gives it; plane bits beyond c are zero (12 R256). -/
def planesOf (w : Nat) (enc : Nat → Nat) (code c : Nat) (dense : Nat) : List Byte :=
  let els := (List.range c).map fun j => enc (dense / 2 ^ densePos code j % 2 ^ fmtWidth code)
  let planes := (List.range w).map fun p => (els.mapIdx fun j x => x / 2 ^ p % 2 * 2 ^ j).sum
  let ls := fmtScaleBits code
  let scales := ((List.range ((c + fmtBlock code - 1) / fmtBlock code)).map fun q =>
    dense / 2 ^ (q * fmtBlockBits code) % 2 ^ ls * 2 ^ (ls * q)).sum
  (planes ++ (if planeS code = 0 then [] else [scales])).flatMap fun x => natToBytes 8 x

/-- A row of a node's planes from a dense stream (12 R256). -/
def denseToPlanes (code c : Nat) (dense : Nat) : List Byte := planesOf (planeW code) (planeEnc code) code c dense

/-! ### Tiles of a node -/

/-- The entry of tile t (12 R255). -/
def MNode.tile (m : MNode) (t : Nat) : Word := (m.tiles[t]?).getD 0

/-- Fields of an entry (12 R255). -/
def tState (e : Word) : Nat := bitsOf e 0 2
/-- The def bit. -/
def tDef (e : Word) : Bool := e.getLsbD 2
/-- The bank. -/
def tBank (e : Word) : Nat := bitsOf e 4 3
/-- Rows. -/
def tRows (e : Word) : Nat := bitsOf e 24 6 + 1
/-- Columns. -/
def tCols (e : Word) : Nat := bitsOf e 32 6 + 1
/-- Memory layout. -/
def tLayout (e : Word) : Nat := bitsOf e 40 2

/-- A tile takes a state: 0 empty, 1 filling, 2 ready, 3 draining (12 R257). -/
def MNode.setState (m : MNode) (t st : Nat) : MNode := { m with tiles := m.tiles.modify t fun e => putBits e 0 2 st }

/-- BFMT of a bank: the format and the rounding (12 R254). -/
def MNode.fmt (m : MNode) (bank : Nat) : Nat := bitsOf ((m.bfmt[bank]?).getD 16) 0 5
/-- BFMT.rm of a bank. -/
def MNode.rm (m : MNode) (bank : Nat) : Nat := bitsOf ((m.bfmt[bank]?).getD 16) 5 3

/-- The format of a tile: that of its bank (12 R254). -/
def MNode.tileFmt (m : MNode) (t : Nat) : Nat := m.fmt (tBank (m.tile t))

/-- Whether an entry fits its bank with a format (12 R256). -/
def tileFits (e : Word) (code : Nat) : Bool := decide (bitsOf e 8 9 * 64 + tRows e * tileRowBytes code ≤ 32768)

/-- First byte of row i of a tile in the node's scratch. -/
def MNode.rowAddr (m : MNode) (t i : Nat) : Nat :=
  let e := m.tile t
  tBank e * 32768 + bitsOf e 8 9 * 64 + i * tileRowBytes (m.tileFmt t)

/-- Row i of a tile as a dense stream. -/
def MNode.getRow (m : MNode) (t i : Nat) : Nat :=
  planesToDense (m.tileFmt t) (tCols (m.tile t)) (Memory.getN m.scratch (m.rowAddr t i) (tileRowBytes (m.tileFmt t)))

/-- Set row i of a tile from a dense stream. -/
def MNode.putRow (m : MNode) (t i dense : Nat) : MNode :=
  { m with scratch := Memory.setN m.scratch (m.rowAddr t i) (denseToPlanes (m.tileFmt t) (tCols (m.tile t)) dense) }

/-- Element (i, j) of a tile, decoded exactly with its scale (12 R268). -/
def MNode.elem (m : MNode) (t i j : Nat) : Val := fmtGet (m.tileFmt t) (m.getRow t i) j

/-- Keep elements from n on of an old dense stream of an unscaled format under the first n of a new one. -/
def denseMerge (code n new old : Nat) : Nat :=
  let k := fmtWidth code * n
  new % 2 ^ k + old / 2 ^ k * 2 ^ k

/-! ### Accumulators -/

/-- The words of an accumulator: 0 c0, 1 c1. -/
def MNode.accCells (m : MNode) (a : Nat) : List Host.Cell := if a = 0 then m.acc0 else m.acc1

/-- A word of an accumulator (12 R253). -/
def MNode.acc (m : MNode) (a i j : Nat) : Nat := bytesToNat (Memory.getN (m.accCells a) (6 * (64 * i + j)) 6)

/-- Set a word of an accumulator. -/
def MNode.setAcc (m : MNode) (a i j v : Nat) : MNode :=
  let f (cs : List Host.Cell) : List Host.Cell := Memory.setN cs (6 * (64 * i + j)) (natToBytes 6 v)
  if a = 0 then { m with acc0 := f m.acc0 } else { m with acc1 := f m.acc1 }

/-- The positions (i, j) below two extents, row by row. -/
def grid (mm nn : Nat) : List (Nat × Nat) := (List.range mm).flatMap fun i => (List.range nn).map fun j => (i, j)

/-- Change the words (i, j) below two extents. -/
def MNode.mapAcc (m : MNode) (a mm nn : Nat) (f : Nat → Nat → Nat → Nat) : MNode :=
  (grid mm nn).foldl (fun x p => x.setAcc a p.1 p.2 (f p.1 p.2 (m.acc a p.1 p.2))) m

/-- An FA48 word and its value (03 R72). -/
def faVal (w : Nat) : Val := FloatFmt.fa48.decode w
/-- The FA48 word of a value, rounded with RNE. -/
def faWord (v : Val) : Nat := match v with
  | .nan _ => FloatFmt.fa48.nanCode
  | v => (FloatFmt.fa48.encode .rne v).1

/-- Sat48 of an integer, as a word (03 R83). -/
def sat48 (x : Int) : Int := if x > 2 ^ 47 - 1 then 2 ^ 47 - 1 else if x < -(2 ^ 47 - 1) then -(2 ^ 47 - 1) else x

/-- The signed value of an INT48 word. -/
def intVal48 (w : Nat) : Int := sgnOf 48 w
/-- The INT48 word of a value. -/
def intWord48 (x : Int) : Nat := laneOf 48 x

/-! ### The sums -/

/-- An element without its block's scale; the micro-exponent of SX belongs to the element (03 R81). -/
def elemRaw (code bits i : Nat) : Val :=
  let raw := bits / 2 ^ densePos code i % 2 ^ fmtWidth code
  let blk := bits / 2 ^ (fmtBlockBits code * (i / fmtBlock code))
  let v := (fmtElem code).decode raw
  match fmtScale code with
  | .sx => v.scale (-((blk / 256 % 256) / 2 ^ (2 * (i % fmtBlock code / 8)) % 4 : Nat))
  | _ => v

/-- The scale of the block that holds an element, 1 for unscaled formats (03 R67, R69, R71, R81). -/
def scaleRaw (code bits i : Nat) : Val :=
  let blk := bits / 2 ^ (fmtBlockBits code * (i / fmtBlock code))
  match fmtScale code with
  | .none => .fin false 1 0
  | .group _ => FloatFmt.bf16.decode (blk % 65536)
  | _ => if blk % 256 = 255 then .nan false else .fin false 1 ((blk % 256 : Nat) - 127)

/-- The truncated sum of a group of exact products, before its scales (03 R81, R82). -/
def groupSum (ps : List Val) : Val :=
  if ps.any Val.isNan then .nan false
  else
    match (ps.any fun p => decide (p = .inf false)), (ps.any fun p => decide (p = .inf true)) with
    | true, true => .nan false
    | true, false => .inf false
    | false, true => .inf true
    | false, false =>
      match amaxOf ps with
      | .fin _ m e =>
        let q := ilog2 m e - 44
        let t (p : Val) : Int := match p with
          | .fin neg pm pe =>
            let k := pe - q
            let mag : Nat := if 0 ≤ k then pm * 2 ^ k.toNat else pm / 2 ^ (-k).toNat
            if neg then -(mag : Int) else mag
          | _ => 0
        Val.ofInt ((ps.map t).sum) q
      | _ => .zero false

/-- A group sum with its scales; an exact zero is +0 (03 R81). -/
def scaledSum (s sa sb : Val) : Val :=
  match (mulVal (mulVal s sa).1 sb).1 with
  | .zero _ => .zero false
  | v => v

/-- One output element of MMA: C and the products, group by group (03 R81, R82). -/
def mmaElem (c : Nat) (gs : List (List Val × Val × Val)) : Nat :=
  gs.foldl (fun a g => faWord (addVal .rne (faVal a) (scaledSum (groupSum g.1) g.2.1 g.2.2)).1) c

/-- One output element of MMAI (03 R83). -/
def mmaiElem (c : Int) (gs : List (List Int)) : Int := gs.foldl (fun a g => sat48 (a + g.sum)) c

/-- The exact integer of an element of an integer format (12 R268). -/
def elemInt (code bits i : Nat) : Int :=
  let raw := bits / 2 ^ densePos code i % 2 ^ fmtWidth code
  match fmtElem code with
  | .int n => sgnOf n raw
  | .uint _ => raw
  | .tern => if raw = 1 then 1 else if raw = 3 then -1 else 0
  | .bin => if raw % 2 = 1 then -1 else 1
  | _ => 0

/-- A node right after a task's first dispatch (12 R253, R263). -/
def MNode.fresh (tw n : Nat) (owner : NodeOwner) (seed : BitVec 32) : MNode where
  tower := tw
  n := n
  owner := owner
  scratch := []
  bfmt := List.replicate 8 16
  acc0 := []
  acc1 := []
  tiles := List.replicate 32 0
  freeing := []
  gen := genSeed seed (16 + (match owner with
    | .task _ k => k
    | .load _ k => k))
  queue := []
  restoring := false
  leaving := none
  held := none
  away := false
  area := none

end Sys2Proof.Machine
end

