-- ==== Sys2Proof/Machine/Matrix.lean ====
section
/-! DEFINITION. Sys2Proof/Machine/Matrix.lean: the matrix instructions, their checks at firing, their hand-over and their performing at a node (12 R257 to R274; 14 R314). -/

namespace Sys2Proof.Machine

/-! ### Nodes of a context -/

/-- M-node nodes that a cell node drives, in increasing driver index, with their numbers (14 R314). -/
def Load.driven (l : Load) (n : Nat) : List (Nat × FNode) :=
  ((l.mnodes.zipIdx.map fun p => (p.2, p.1)).filter fun p => decide (p.2.drv = n)).foldr
    (fun p acc => acc.takeWhile (fun q => decide (q.2.idx < p.2.idx)) ++ p :: acc.dropWhile fun q => decide (q.2.idx < p.2.idx)) []

/-- How many M-nodes a context may name (12 R259, 14 R314). -/
def State.mnOf (s : State) (c : Ctx) : Nat :=
  match c.kind with
  | .task => c.nodes.length
  | .node slot n =>
    match s.load? c.tower slot with
    | some l => (l.driven n).length
    | none => 0

/-- The owner that the node index of a context names. -/
def State.ownerOf (s : State) (c : Ctx) (a : Nat) : NodeOwner :=
  match c.kind with
  | .task => .task c.key a
  | .node slot n =>
    match s.load? c.tower slot with
    | some l => .load slot ((((l.driven n)[a]?).map fun p => p.1).getD 0)
    | none => .load slot 0

/-- The node of an owner on a tower. -/
def State.mnode? (s : State) (tw : Nat) (o : NodeOwner) : Option MNode :=
  s.mnodes.find? fun m => decide (m.tower = tw) && decide (m.owner = o)

/-- Put a node back. -/
def State.setNode (s : State) (m : MNode) : State :=
  { s with mnodes := s.mnodes.map fun x => if x.tower = m.tower ∧ x.n = m.n then m else x }

/-- Where a command of a context comes from. -/
def State.originOf (s : State) (c : Ctx) (clause : Word) (iid : BitVec 7) (eff : BitVec 5) (cc : BitVec 32) : Origin :=
  match c.kind with
  | .task => ⟨c.recA, none, c.tower, c.asid, c.hyp, clause, iid, eff, cc⟩
  | .node slot n =>
    let h := match s.load? c.tower slot with
      | some l => l.handle
      | none => 0
    ⟨h ||| w64 (n * 2 ^ 56), some (c.tower, slot), c.tower, c.asid, 0, clause, iid, eff, cc⟩

/-- A matrix command is handed to its node at commit (12 R258). -/
def State.handMatrix (s : State) (c : Ctx) (o : Origin) (node xop ta tb : Nat) (b cc : Word) : State :=
  match s.mnode? c.tower (s.ownerOf c node) with
  | none => s
  | some m =>
    let q : MCmd := ⟨s.nextCmd, o, xop, ta, tb, if xop < 16 then b else 0, cc, if xop < 16 then none else some tb, [], none, s.time⟩
    { (s.setNode { m with queue := m.queue ++ [q] }) with nextCmd := s.nextCmd + 1 }

/-! ### Gates -/

/-- The tiles a command names, each with the states it accepts: 0 empty, 1 empty and defined, 2 ready, 3 either of the last two (12 R257). -/
def MCmd.needs (q : MCmd) : List (Nat × Nat) :=
  match q.xop with
  | 0 => [(q.ta, 0)]
  | 1 => [(q.ta, 1)]
  | 17 => [(q.ta, 1)]
  | 2 => [(q.ta, 2)]
  | 18 => [(q.ta, 2)]
  | 3 => [(q.ta, 2)]
  | 4 => [(q.ta, 2), (q.tb, 2)]
  | 5 => [(q.ta, 2), (q.tb, 2)]
  | 6 => [(q.ta, 3)]
  | 8 => [(q.ta, 2)]
  | 9 => if bitsOf q.b 24 3 = 3 ∨ bitsOf q.b 24 3 = 4 then [(q.ta, 2)] else []
  | 10 => [(q.ta, 3), (q.tb, 2)]
  | 11 => [(q.ta, 3)]
  | _ => []

/-- Whether a command fills its tile ta (12 R257). -/
def MCmd.fills (q : MCmd) : Bool := [1, 6, 10, 11, 17].contains q.xop

/-- The gate of a command: waits, a TILESTATE cause, or open (12 R257, R260; log 12). -/
inductive Gated where
  | waits
  | cause (n : Nat)
  | opens
  deriving DecidableEq, Repr

/-- One named tile. -/
def MNode.gateOne (m : MNode) (t acc : Nat) : Gated :=
  let e := m.tile t
  if decide (acc ≠ 0) && !tDef e then .cause 2
  else if tState e = 1 ∨ tState e = 3 then .waits
  else if (acc ≤ 1 ∧ tState e ≠ 0) ∨ (acc = 2 ∧ tState e ≠ 2) then .cause 1
  else .opens

/-- Every named tile in order, then the fit of a fill. -/
def MNode.gate (m : MNode) (q : MCmd) : Gated :=
  match (q.needs.map fun p => m.gateOne p.1 p.2).find? fun g => !decide (g = .opens) with
  | some g => g
  | none => if q.fills && !tileFits (m.tile q.ta) (m.tileFmt q.ta) then .cause 3 else .opens

/-! ### Performing -/

/-- The rounding modes of n conversions into a bank, and the node with its generator moved on (12 R263). -/
def MNode.modes (m : MNode) (bank srcSig n : Nat) : List Mode × MNode :=
  let rm := m.rm bank
  let sto := decide (rm = 4) && narrows (m.fmt bank) srcSig
  let fixed : Mode := match rm with
    | 1 => .rtz
    | 2 => .rdn
    | 3 => .rup
    | _ => .rne
  (modesOf sto fixed m.gen n, if sto then { m with gen := ((draws n m.gen).getLast?).getD m.gen } else m)

/-- The first values of row i of a tile are converted into it; the rest of an unscaled row stays (12 R271, R273). -/
def MNode.convRow (m : MNode) (t i : Nat) (src : FloatFmt) (srcSig : Nat) (xs : List Val) : MNode :=
  let code := m.tileFmt t
  let r := m.modes (tBank (m.tile t)) srcSig xs.length
  let new := (fmtPut code src false r.1 xs).1
  r.2.putRow t i (if planeS code = 0 then denseMerge code xs.length new (r.2.getRow t i) else new)

/-- Rows of a tile converted one after another. -/
def MNode.convRows (m : MNode) (t : Nat) (src : FloatFmt) (srcSig : Nat) (rows : List (List Val)) : MNode :=
  (rows.zipIdx).foldl (fun x r => x.convRow t r.2 src srcSig r.1) m

/-- The source type of a conversion out of a format, for infinities (03 R79): the element's type whatever scales it, FP32 where the element is no float: DESIGN CHOICE, the spec does not say which type a scaled source has (log 91). -/
def fmtFloat (code : Nat) : FloatFmt :=
  match fmtElem code with
  | .flt f _ => f
  | _ => .fp32

/-- MMA at its node (12 R268). -/
def MNode.mma (m : MNode) (ta tb : Nat) (b : Word) (int : Bool) : Except Nat MNode :=
  let ctA := b.getLsbD 2
  let ctB := b.getLsbD 3
  let mm := bitsOf b 8 6 + 1
  let nn := bitsOf b 16 6 + 1
  let kk := bitsOf b 24 6 + 1
  let ea := m.tile ta
  let eb := m.tile tb
  let fa := m.tileFmt ta
  let fb := m.tileFmt tb
  let out (e : Word) (tr : Bool) (x : Nat) : Bool :=
    if tr then decide (tRows e < kk) || decide (tCols e < x) else decide (tRows e < x) || decide (tCols e < kk)
  if out ea ctA mm || out eb ctB nn then .error 6
  else if (ctA && decide (planeS fa = 1)) || (ctB && decide (planeS fb = 1)) then .error 7
  else if int && !(fmtIsInt fa && fmtIsInt fb) then .error 5
  else
    let a := bitsOf b 0 1
    let rowsA := (List.range (if ctA then kk else mm)).map fun i => m.getRow ta i
    let rowsB := (List.range (if ctB then kk else nn)).map fun i => m.getRow tb i
    let at_ (rows : List Nat) (tr : Bool) (i q : Nat) : Nat × Nat :=
      if tr then ((rows[q]?).getD 0, i) else ((rows[i]?).getD 0, q)
    let groups := (List.range 4).map fun g => ((List.range kk).filter fun q => decide (q / 16 = g))
    let groups := groups.filter fun g => !g.isEmpty
    .ok (m.mapAcc a mm nn fun i j old =>
      let c := if b.getLsbD 1 then 0 else old
      if int then
        intWord48 (mmaiElem (intVal48 c) (groups.map fun g => g.map fun q =>
          elemInt fa (at_ rowsA ctA i q).1 (at_ rowsA ctA i q).2 * elemInt fb (at_ rowsB ctB j q).1 (at_ rowsB ctB j q).2))
      else
        mmaElem c (groups.map fun g =>
          (g.map (fun q => (mulVal (elemRaw fa (at_ rowsA ctA i q).1 (at_ rowsA ctA i q).2)
              (elemRaw fb (at_ rowsB ctB j q).1 (at_ rowsB ctB j q).2)).1),
            (match g with
              | [] => Val.fin false 1 0
              | q :: _ => scaleRaw fa (at_ rowsA ctA i q).1 (at_ rowsA ctA i q).2),
            (match g with
              | [] => Val.fin false 1 0
              | q :: _ => scaleRaw fb (at_ rowsB ctB j q).1 (at_ rowsB ctB j q).2))))

/-- Extents of MACCLD, MACCRD and MEW. -/
def extM (b : Word) : Nat := bitsOf b 8 6 + 1
/-- Columns of those extents. -/
def extN (b : Word) : Nat := bitsOf b 16 6 + 1

/-- MACCLD at its node (12 R271). -/
def MNode.maccld (m : MNode) (t : Nat) (b : Word) : Except Nat MNode :=
  if tRows (m.tile t) < extM b ∨ tCols (m.tile t) < extN b then .error 6
  else
    let code := m.tileFmt t
    .ok (m.mapAcc (bitsOf b 0 1) (extM b) (extN b) fun i j _ =>
      if fmtIsInt code then intWord48 (elemInt code (m.getRow t i) j) else faWord (m.elem t i j))

/-- MACCRD at its node (12 R271). -/
def MNode.maccrd (m : MNode) (t : Nat) (b : Word) : Except Nat MNode :=
  if tRows (m.tile t) < extM b ∨ tCols (m.tile t) < extN b then .error 6
  else if decide (planeS (m.tileFmt t) = 1) && decide (extN b ≠ tCols (m.tile t)) then .error 8
  else
    let int := b.getLsbD 24
    let rows := (List.range (extM b)).map fun i => (List.range (extN b)).map fun j =>
      let w := m.acc (bitsOf b 0 1) i j
      if int then Val.ofInt (intVal48 w) 0 else faVal w
    .ok (m.convRows t .fa48 (if int then 47 else 38) rows)

/-- The value of a MEW element, exact before its rounding (12 R272). -/
def mewFa (op : Nat) (x sv tv : Val) : Val :=
  match op with
  | 0 => match x with
    | .nan s => .nan s
    | x => if ltVal (.zero false) x then x else .zero false
  | 1 => (mulVal x sv).1
  | 2 => (addVal .rne x sv).1
  | 3 => (addVal .rne x tv).1
  | _ => (mulVal x tv).1

/-- MEW on an integer word (12 R272). -/
def mewInt (op : Nat) (x sv tv : Int) : Int :=
  match op with
  | 0 => max x 0
  | 1 => sat48 (x * sv)
  | 2 => sat48 (x + sv)
  | 3 => sat48 (x + tv)
  | _ => sat48 (x * tv)

/-- MEW at its node (12 R272). -/
def MNode.mew (m : MNode) (t : Nat) (b c : Word) : Except Nat MNode :=
  let op := bitsOf b 24 3
  let int := b.getLsbD 1
  let tiled := decide (3 ≤ op)
  if tiled && (decide (tRows (m.tile t) < extM b) || decide (tCols (m.tile t) < extN b)) then .error 6
  else if tiled && int && !fmtIsInt (m.tileFmt t) then .error 5
  else
    let sv := FloatFmt.fp32.decode (bitsOf c 0 32)
    .ok (m.mapAcc (bitsOf b 0 1) (extM b) (extN b) fun i j w =>
      if int then intWord48 (mewInt op (intVal48 w) c.toInt (if tiled then elemInt (m.tileFmt t) (m.getRow t i) j else 0))
      else faWord (mewFa op (faVal w) sv (if tiled then m.elem t i j else .zero false)))

/-- MCOPY at its node (12 R273). -/
def MNode.mcopy (m : MNode) (ta tb : Nat) (b : Word) : Except Nat MNode :=
  let tr := b.getLsbD 0
  let ea := m.tile ta
  let eb := m.tile tb
  if (if tr then decide (tRows ea ≠ tCols eb) || decide (tCols ea ≠ tRows eb)
      else decide (tRows ea ≠ tRows eb) || decide (tCols ea ≠ tCols eb)) then .error 8
  else
    let fa := m.tileFmt ta
    let fb := m.tileFmt tb
    if fa = fb ∧ tr = false then
      let rows := (List.range (tRows eb)).map fun i => m.getRow tb i
      .ok ((rows.zipIdx).foldl (fun x r => x.putRow ta r.2 r.1) m)
    else
      let rows := (List.range (tRows ea)).map fun i => (List.range (tCols ea)).map fun j =>
        if tr then m.elem tb j i else m.elem tb i j
      .ok (m.convRows ta (fmtFloat fb) (fmtPA fb) rows)

/-- MSPLAT at its node (12 R274). -/
def MNode.msplat (m : MNode) (t : Nat) (b : Word) : MNode :=
  let e := m.tile t
  let v := if fmtIsInt (m.tileFmt t) then Val.ofInt b.toInt 0 else FloatFmt.fp32.decode (bitsOf b 0 32)
  m.convRows t .fp32 (if fmtIsInt (m.tileFmt t) then 64 else 24) (List.replicate (tRows e) (List.replicate (tCols e) v))

/-- TDEF at its node (12 R265). -/
def MNode.tdef (m : MNode) (t : Nat) (b : Word) : Except Nat MNode :=
  let setf := b.getLsbD 56
  let bank := bitsOf b 4 3
  let f := if setf then bitsOf b 48 5 else m.fmt bank
  if 2 ≤ tLayout b ∨ (setf ∧ 4 < bitsOf b 53 3) then .error 3
  else if !tileFits b f then .error 3
  else if setf && decide (f ≠ m.fmt bank) && (m.tiles.zipIdx.any fun x =>
      decide (x.2 ≠ t) && tDef x.1 && decide (tBank x.1 = bank) && decide (tState x.1 ≠ 0)) then .error 4
  else
    let m := if setf then { m with bfmt := m.bfmt.set bank (BitVec.ofNat 8 (bitsOf b 48 5 + bitsOf b 53 3 * 32)) } else m
    .ok { m with tiles := m.tiles.set t (b ||| 4) }

/-- The spans of memory a TLOAD or TSTORE touches, row by row, or the address that fails (12 R266). -/
def MNode.rowSpans (m : MNode) (t : Nat) (b c : Word) : Except Word (List (Word × Nat)) :=
  let e := m.tile t
  let code := m.tileFmt t
  let n := if tLayout e = 1 then tileRowBytes code else denseBytes code (tCols e)
  let vas := (List.range (tRows e)).map fun i => (b + w64 i * c, n)
  match vas.find? fun p => !canonical p.1 n || (decide (tLayout e = 1) && !bitsZero p.1 0 3) with
  | some p => .error p.1
  | none => .ok vas

/-- A row as TLOAD reads it becomes a row of the tile (12 R266). -/
def MNode.takeRow (m : MNode) (t i : Nat) (bs : List Byte) : MNode :=
  let code := m.tileFmt t
  if tLayout (m.tile t) = 1 then m.putRow t i (planesToDense code (tCols (m.tile t)) bs) else m.putRow t i (bytesToNat bs)

/-- A row as TSTORE writes it (12 R266). -/
def MNode.giveRow (m : MNode) (t i : Nat) : List Byte :=
  let code := m.tileFmt t
  let c := tCols (m.tile t)
  if tLayout (m.tile t) = 1 then denseToPlanes code c (m.getRow t i) else natToBytes (denseBytes code c) (m.getRow t i)

/-- A command is performed at its node; a faulting TLOAD leaves its tile filling and a faulting TSTORE draining (12 R257, R260). -/
def State.perform (s : State) (m : MNode) (q : MCmd) : Perf (State × MNode) :=
  let lift (r : Except Nat MNode) (f : MNode → MNode) : Perf (State × MNode) :=
    match r with
    | .error n => .bad s .tilestate n 0
    | .ok x => .ok (s, f x)
  match q.xop with
  | 0 => lift (m.tdef q.ta q.b) id
  | 1 =>
    match m.rowSpans q.ta q.b q.c with
    | .error va => .bad s .perm 0 va
    | .ok sp =>
      match s.spansRead q.org.asid q.org.hyp sp with
      | .waits => .waits
      | .bad t k n va => .bad t k n va
      | .ok (t, rows) => .ok (t, ((rows.zipIdx).foldl (fun x r => x.takeRow q.ta r.2 r.1) m).setState q.ta 1)
  | 2 =>
    match m.rowSpans q.ta q.b q.c with
    | .error va => .bad s .perm 0 va
    | .ok sp =>
      match s.spansWrite q.org.asid q.org.hyp q.org.owner ((sp.zipIdx).map fun p => (p.1.1, m.giveRow q.ta p.2)) with
      | .waits => .waits
      | .bad t k n va => .bad t k n va
      | .ok t => .ok (t, m.setState q.ta 3)
  | 3 => .ok (s, { (m.setState q.ta 3) with freeing := q.ta :: m.freeing })
  | 4 => lift (m.mma q.ta q.tb q.b false) id
  | 5 => lift (m.mma q.ta q.tb q.b true) id
  | 6 => lift (m.maccrd q.ta q.b) fun x => x.setState q.ta 1
  | 7 => .ok (s, if q.b.getLsbD 0 then { m with acc1 := [] } else { m with acc0 := [] })
  | 8 => lift (m.maccld q.ta q.b) id
  | 9 => lift (m.mew q.ta q.b q.c) id
  | 10 => lift (m.mcopy q.ta q.tb q.b) fun x => x.setState q.ta 1
  | 11 => .ok (s, (m.msplat q.ta q.b).setState q.ta 1)
  | _ => .waits

/-- The node ticket of a command (12 R261). -/
def MNode.ticket (m : MNode) : Word :=
  0x8000000000000000#64 ||| (match m.owner with
    | .task _ k => w64 k
    | .load _ k => w64 k)

/-- Whether a command faulted at a gate, so that no tile of it is on its way (12 R257, R260). -/
def MCmd.gated (q : MCmd) : Bool :=
  match q.fault with
  | some (_, k) => decide (k = .tilestate)
  | none => false

/-- A faulted command is dropped: its tile leaves filling for empty, draining for ready (17 R341). -/
def MNode.dropCmd (m : MNode) (q : MCmd) : MNode :=
  let m := { m with queue := m.queue.filter fun x => !decide (x.id = q.id) }
  if q.gated then m
  else if q.xop = 1 ∨ q.xop = 17 then (if tState (m.tile q.ta) = 1 then m.setState q.ta 0 else m)
  else if q.xop = 2 ∨ q.xop = 18 then (if tState (m.tile q.ta) = 3 then m.setState q.ta 2 else m)
  else m

/-- A command faults late: its record is due and it stays at its node, or it is dropped when its task has ended (12 R260; 17 R344). -/
def State.matrixFault (s : State) (m : MNode) (q : MCmd) (k : Kind) (cause : Nat) (va : Word) : State :=
  let m := if k = .tilestate then m
    else if q.xop = 1 ∨ q.xop = 17 then m.setState q.ta 1
    else if q.xop = 2 ∨ q.xop = 18 then m.setState q.ta 3 else m
  match s.engineFault (q.org.record 2 k cause va m.ticket 0) with
  | (t, some seq) => t.setNode { m with queue := m.queue.map fun x => if x.id = q.id then { x with fault := some (seq, k) } else x }
  | (t, none) => t.setNode (m.dropCmd q)

/-- Whether a command is an edge-form transfer that stood still too long: the tokens it has moved stay moved (14 R314; 18 R380; log 97). -/
def MCmd.stalledEdge (q : MCmd) : Bool :=
  decide (16 ≤ q.xop) && (match q.fault with
    | some (_, k) => decide (k = .stall)
    | none => false)

/-- A replayed command is to be performed again: a tile that its fault left on its way is as it was before it, and one it faulted on at a gate is as it stands (12 R257, R260; 17 R341). -/
def MNode.replay (m : MNode) (q : MCmd) (now : Nat) : MNode :=
  let m := { m with queue := m.queue.map fun x =>
    if x.id ≠ q.id then x
    else if q.stalledEdge then { x with fault := none, progress := now }
    else { x with fault := none, progress := now, moved := [], b := if x.xop < 16 then x.b else 0 } }
  if q.gated || q.stalledEdge then m
  else if q.xop = 1 ∨ q.xop = 17 then m.setState q.ta 0
  else if q.xop = 2 ∨ q.xop = 18 then m.setState q.ta 2
  else m

/-! ### Edge-form transfers -/

/-- Bytes of a tile in planes. -/
def MNode.tileBytes (m : MNode) (t : Nat) : Nat := tRows (m.tile t) * tileRowBytes (m.tileFmt t)

/-- The edge at a port of the M-node node a command runs on, and its index. -/
def Load.edgeAt (l : Load) (m : MNode) (port : Nat) (producer : Bool) : Option (Nat × FEdge) :=
  match m.owner with
  | .task _ _ => none
  | .load _ k =>
    let n := l.cells.length + k
    (l.edges.zipIdx.find? fun e =>
      if producer then decide (e.1.pnode = n) && decide (e.1.pport = port)
      else decide (e.1.cnode = n) && decide (e.1.cport = port)).map fun e => (e.2, e.1)

/-- A token leaves the head of an edge (14 R321). -/
def FEdge.pop (e : FEdge) (now : Nat) : FEdge :=
  { e with toks := e.toks.drop 1, headAt := if e.toks.length ≤ 1 then none else some now }

/-- A token enters an edge. -/
def FEdge.push (e : FEdge) (t : FTok) (now : Nat) : FEdge :=
  { e with toks := e.toks ++ [t], headAt := if e.toks.isEmpty then some now else e.headAt }

/-- Change an edge of a load. -/
def Load.onEdge (l : Load) (i : Nat) (f : FEdge → FEdge) : Load := { l with edges := l.edges.modify i f }

/-- One token of an edge-form transfer moves, or it ends, or it waits; b = 1 marks one that has begun (14 R314). -/
def State.edgeStep (s : State) (m : MNode) (q : MCmd) : Perf (State × MNode × Bool) :=
  match q.port, q.org.load with
  | some port, some (tw, slot) =>
    match (s.load? tw slot).bind fun l => (l.edgeAt m port (decide (q.xop = 18))).map fun e => (l, e) with
    | none => .waits
    | some (l, i, e) =>
      let base := m.rowAddr q.ta 0
      let size := m.tileBytes q.ta
      let upd (x : MCmd → MCmd) (m : MNode) : MNode :=
        { m with queue := m.queue.map fun y => if y.id = q.id then x { y with b := 1, progress := s.time } else y }
      if l.st ≠ .running then .waits
      else if q.b = 0 then
        if (size + 63) / 64 ≠ e.q then .bad s .tilestate 8 0
        else .ok (s, upd id (m.setState q.ta (if q.xop = 17 then 1 else 3)), false)
      else if q.moved.length = e.q then
        .ok (s, { m with queue := m.queue.filter fun y => !decide (y.id = q.id) }, true)
      else if q.xop = 18 then
        let k := q.moved.length
        if e.depth ≤ e.toks.length then .waits
        else
          let bs := Memory.getN m.scratch (base + 64 * k) (Nat.min 64 (size - 64 * k))
          .ok (s.onLoad tw slot fun x => x.onEdge i fun y => y.push ⟨.value, BitVec.ofNat 512 (bytesToNat bs), BitVec.ofNat 32 k⟩ s.time,
            upd (fun y => { y with moved := y.moved ++ [k] }) m, false)
      else
        match e.toks with
        | [] => .waits
        | t :: _ =>
          let pos := t.seq.toNat % e.q
          let s' := s.onLoad tw slot fun x => x.onEdge i fun y => y.pop s.time
          let put (v : Wide) : MNode :=
            upd (fun y => { y with moved := if y.moved.contains pos then y.moved else pos :: y.moved })
              { m with scratch := Memory.setN m.scratch (base + 64 * pos) (natToBytes (Nat.min 64 (size - 64 * pos)) v.toNat) }
          match t.tag with
          | .value => .ok (s', put t.data, false)
          | .null => .ok (s', put 0, false)
          | .bubble => .ok (s', upd id m, false)
          | .poison k => .bad s' k 0 0
  | _, _ => .waits

/-- The first command of a queue that may go on: edge-form transfers that wait are passed by commands that name neither their port nor their tile (14 R314). -/
def passable : List MCmd → List MCmd → List MCmd
  | _, [] => []
  | parked, q :: rest =>
    let clash (p : MCmd) : Bool :=
      (q.needs.any fun a => decide (a.1 = p.ta)) || (q.port.isSome && decide (q.port = p.port) && decide (q.xop = p.xop))
    if q.fault.isSome then []
    else if parked.any clash then []
    else q :: (if q.xop < 16 then [] else passable (parked ++ [q]) rest)

/-- The commands a node may perform next: once a record of its stopped task has been disposed of, the replayed one alone, until the task is continued (12 R260, R275; 17 R342). -/
def MNode.next (m : MNode) : List MCmd :=
  (passable [] m.queue).filter fun q => match m.held with
    | some id => decide (q.id = id)
    | none => true

/-- One command is tried: its new state, or none when it can do nothing, or when the record of its fault finds no room (17 R339). -/
def State.tryCmd (s : State) (m : MNode) (q : MCmd) : Option State :=
  let go : Option State :=
    if q.xop < 16 then
      match s.perform m q with
      | .waits => none
      | .ok (t, x) => some (t.setNode { x with queue := x.queue.filter fun y => !decide (y.id = q.id) })
      | .bad t k n va => if s.pauses q.org then none else some (t.matrixFault m q k n va)
    else
      match s.edgeStep m q with
      | .waits => none
      | .ok (t, x, _) => some (t.setNode x)
      | .bad t k n va => some (t.matrixFault m q k n va)
  if 16 ≤ q.xop ∧ q.b ≠ 0 then go
  else
    match m.gate q with
    | .waits => none
    | .cause n => if s.pauses q.org then none else some (s.matrixFault m q .tilestate n 0)
    | .opens => go

/-- MATRIX_COMMAND_PERFORMED: the node performs its next command, if a gate or a port does not hold it (12 R257, R258, R260; 14 R314; 18 R376). -/
def execMatrixCommandPerformed (tw node : Nat) (s : State) : Host.Outcome State Fault Refusal :=
  match s.mnodes.find? fun m => decide (m.tower = tw) && decide (m.n = node) with
  | none => .next s
  | some m =>
    if m.restoring then .next s
    else
      match m.next.findSome? fun q => s.tryCmd m q with
      | none => .next s
      | some t => .next t.hypSweep.tick

/-- Whether a tile of a node is still being moved by a faulted command, a transfer or a streamer. -/
def State.tileBusy (s : State) (m : MNode) (tile : Nat) : Bool :=
  (m.queue.any fun q => decide (q.ta = tile) && (q.fault.isSome || (decide (16 ≤ q.xop) && decide (q.b ≠ 0))))
    || s.scmds.any fun q =>
      (match m.owner with
        | .task k n => decide (q.org.key = k) && q.org.load.isNone && (match q.st with
            | .running => true
            | _ => false) && [q.src, q.dst].any fun d =>
              decide (bitsOf (qwordOf d 0) 62 2 = 1) && decide (bitsOf (qwordOf d 0) 8 4 = n) && decide (bitsOf (qwordOf d 0) 0 5 = tile)
        | .load _ _ => false)

/-- TILE_FILL_DONE: every byte of a filling tile has been written (12 R257). -/
def execTileFillDone (tw node tile : Nat) (s : State) : Host.Outcome State Fault Refusal :=
  match s.mnodes.find? fun m => decide (m.tower = tw) && decide (m.n = node) with
  | none => .next s
  | some m =>
    if tState (m.tile tile) = 1 ∧ ¬ s.tileBusy m tile then .next (s.setNode (m.setState tile 2)).tick else .next s

/-- A tile leaves draining: for empty after a TFREE, else for ready (12 R257). -/
def MNode.drained (m : MNode) (tile : Nat) : MNode :=
  if m.freeing.contains tile then { (m.setState tile 0) with freeing := m.freeing.filter fun t => !decide (t = tile) } else m.setState tile 2

/-- TILE_DRAIN_DONE: the writes of a TSTORE are performed at PKG scope, or the readers before a TFREE have read (12 R257). -/
def execTileDrainDone (tw node tile : Nat) (s : State) : Host.Outcome State Fault Refusal :=
  match s.mnodes.find? fun m => decide (m.tower = tw) && decide (m.n = node) with
  | none => .next s
  | some m =>
    if tState (m.tile tile) = 3 ∧ ¬ s.tileBusy m tile then .next (s.setNode (m.drained tile)).tick else .next s

/-! ### Firing -/

/-- Whether the zero fields of a control word are zero and its values accepted (12 R259, R265 to R274). -/
def matrixOk (xop : Nat) (b : Word) : Bool :=
  match xop with
  | 0 => bitsZero b 0 2 && bitsZero b 3 1 && bitsZero b 7 1 && bitsZero b 17 7 && bitsZero b 30 2 && bitsZero b 38 2 && bitsZero b 42 6 && bitsZero b 57 7
  | 4 => bitsZero b 4 4 && bitsZero b 14 2 && bitsZero b 22 2 && bitsZero b 30 34
  | 5 => bitsZero b 4 4 && bitsZero b 14 2 && bitsZero b 22 2 && bitsZero b 30 34
  | 6 => bitsZero b 1 7 && bitsZero b 14 2 && bitsZero b 22 2 && bitsZero b 25 39
  | 7 => bitsZero b 1 63
  | 8 => bitsZero b 1 7 && bitsZero b 14 2 && bitsZero b 22 2 && bitsZero b 24 40
  | 9 => bitsZero b 2 6 && bitsZero b 14 2 && bitsZero b 22 2 && bitsZero b 27 37 && decide (bitsOf b 24 3 ≤ 4)
  | 10 => bitsZero b 1 63
  | _ => true

/-- A matrix instruction fires: the checks of its cell, then its command waits for commit (12 R258, R259). -/
def matrixAct (i : Instr) (xop ta tb : Nat) (v : Vals) (s : State) : Act :=
  match s.fctx with
  | none => .waits s
  | some c =>
    let a := v.a.bits
    if decide (s.mnOf c ≤ a.toNat) || !matrixOk xop v.b.bits then .fires (s.effectPoison i .illop)
    else if (decide (xop = 1) || decide (xop = 2)) && !canonical v.b.bits 1 then .fires ((s.notePoison v.b.bits).effectPoison i .perm)
    else .fires (s.effect i (.matrix a.toNat xop ta tb v.b.bits v.c.bits))

/-- TDEF (12 R265). -/
def execTdef (pr : Pred) (eff ta : BitVec 5) (s : State) : Host.Outcome State Fault Refusal :=
  fire s (.tdef pr eff ta) (matrixAct (.tdef pr eff ta) 0 ta.toNat 0)

/-- TLOAD (12 R266). -/
def execTload (pr : Pred) (eff ta : BitVec 5) (s : State) : Host.Outcome State Fault Refusal :=
  fire s (.tload pr eff ta) (matrixAct (.tload pr eff ta) 1 ta.toNat 0)

/-- The edge form of TLOAD (14 R314). -/
def execTloadEdge (pr : Pred) (eff ta : BitVec 5) (port : BitVec 3) (s : State) : Host.Outcome State Fault Refusal :=
  fire s (.tloadEdge pr eff ta port) (matrixAct (.tloadEdge pr eff ta port) 17 ta.toNat port.toNat)

/-- TSTORE (12 R266). -/
def execTstore (pr : Pred) (eff ta : BitVec 5) (s : State) : Host.Outcome State Fault Refusal :=
  fire s (.tstore pr eff ta) (matrixAct (.tstore pr eff ta) 2 ta.toNat 0)

/-- The edge form of TSTORE (14 R314). -/
def execTstoreEdge (pr : Pred) (eff ta : BitVec 5) (port : BitVec 3) (s : State) : Host.Outcome State Fault Refusal :=
  fire s (.tstoreEdge pr eff ta port) (matrixAct (.tstoreEdge pr eff ta port) 18 ta.toNat port.toNat)

/-- TFREE (12 R267). -/
def execTfree (pr : Pred) (eff ta : BitVec 5) (s : State) : Host.Outcome State Fault Refusal :=
  fire s (.tfree pr eff ta) (matrixAct (.tfree pr eff ta) 3 ta.toNat 0)

/-- MMA (12 R268). -/
def execMma (pr : Pred) (eff ta tb : BitVec 5) (s : State) : Host.Outcome State Fault Refusal :=
  fire s (.mma pr eff ta tb) (matrixAct (.mma pr eff ta tb) 4 ta.toNat tb.toNat)

/-- MMAI (12 R268). -/
def execMmai (pr : Pred) (eff ta tb : BitVec 5) (s : State) : Host.Outcome State Fault Refusal :=
  fire s (.mmai pr eff ta tb) (matrixAct (.mmai pr eff ta tb) 5 ta.toNat tb.toNat)

/-- MACCRD (12 R271). -/
def execMaccrd (pr : Pred) (eff ta : BitVec 5) (s : State) : Host.Outcome State Fault Refusal :=
  fire s (.maccrd pr eff ta) (matrixAct (.maccrd pr eff ta) 6 ta.toNat 0)

/-- MACCLR (12 R270). -/
def execMacclr (pr : Pred) (eff : BitVec 5) (s : State) : Host.Outcome State Fault Refusal :=
  fire s (.macclr pr eff) (matrixAct (.macclr pr eff) 7 0 0)

/-- MACCLD (12 R271). -/
def execMaccld (pr : Pred) (eff ta : BitVec 5) (s : State) : Host.Outcome State Fault Refusal :=
  fire s (.maccld pr eff ta) (matrixAct (.maccld pr eff ta) 8 ta.toNat 0)

/-- MEW (12 R272). -/
def execMew (pr : Pred) (eff ta : BitVec 5) (s : State) : Host.Outcome State Fault Refusal :=
  fire s (.mew pr eff ta) (matrixAct (.mew pr eff ta) 9 ta.toNat 0)

/-- MCOPY (12 R273). -/
def execMcopy (pr : Pred) (eff ta tb : BitVec 5) (s : State) : Host.Outcome State Fault Refusal :=
  fire s (.mcopy pr eff ta tb) (matrixAct (.mcopy pr eff ta tb) 10 ta.toNat tb.toNat)

/-- MSPLAT (12 R274). -/
def execMsplat (pr : Pred) (eff ta : BitVec 5) (s : State) : Host.Outcome State Fault Refusal :=
  fire s (.msplat pr eff ta) (matrixAct (.msplat pr eff ta) 11 ta.toNat 0)

end Sys2Proof.Machine
end

