-- ==== Sys2Proof/Machine/Desc.lean ====
section
/-! DEFINITION. Sys2Proof/Machine/Desc.lean: streamer descriptors, where their elements lie, and the copying and converting of elements (13 R277 to R281, R286, R287, R289). -/

namespace Sys2Proof.Machine

/-- A descriptor, field by field (13 R277). -/
structure Desc where
  base : Nat
  fmt : Nat
  kind : Nat
  n0 : Nat
  n1 : Nat
  n2 : Nat
  n3 : Nat
  s1 : Word
  s2 : Word
  s3 : Word
  lay : Nat
  rm : Nat
  seed : BitVec 32
  sbase : Nat
  /-- The zero fields are zero. -/
  clean : Bool
  deriving DecidableEq, Repr

/-- The descriptor in 64 bytes; the extents are counts (13 R277). -/
def Desc.ofBytes (bs : List Byte) : Desc :=
  let q (n : Nat) : Word := qwordOf bs n
  { base := bitsOf (q 0) 0 56, fmt := bitsOf (q 0) 56 5, kind := bitsOf (q 0) 62 2
    n0 := bitsOf (q 1) 0 16 + 1, n1 := bitsOf (q 1) 16 16 + 1, n2 := bitsOf (q 1) 32 16 + 1, n3 := bitsOf (q 1) 48 16 + 1
    s1 := q 2, s2 := q 3, s3 := q 4
    lay := bitsOf (q 5) 0 2, rm := bitsOf (q 5) 4 3, seed := (q 5).extractLsb' 32 32, sbase := bitsOf (q 6) 0 56
    clean := bitsZero (q 0) 61 1 && bitsZero (q 5) 2 2 && bitsZero (q 5) 7 25 && bitsZero (q 6) 56 8 && decide (q 7 = 0) }

/-- Tile and node of a tile descriptor. -/
def Desc.tile (d : Desc) : Nat := d.base % 32
/-- Node index of a tile descriptor. -/
def Desc.node (d : Desc) : Nat := d.base / 256 % 16

/-- Whether a descriptor stands on its own: zero fields, accepted values, the rules of its layout (13 R277 to R280). -/
def Desc.ok (d : Desc) (mn : Nat) : Bool :=
  d.clean && decide (d.rm ≤ 4) &&
    (match d.kind with
     | 0 =>
       (decide (d.lay = 1) || decide (d.sbase = 0)) &&
         (match d.lay with
          | 0 => decide (d.n0 % fmtBlock d.fmt = 0)
          | 1 => decide (fmtBlock d.fmt ≠ 1) && decide (d.n0 % fmtBlock d.fmt = 0)
          | 2 => decide (d.n0 % 64 = 0) && decide (d.n1 % 64 = 0) && decide (d.s1 = 0)
          | _ => true)
     | 1 =>
       decide (d.base = d.tile + d.node * 256) && decide (d.node < mn) && decide (d.s1 = 0) && decide (d.s2 = 0)
         && decide (d.s3 = 0) && decide (d.lay = 0) && decide (d.rm = 0) && decide (d.seed = 0) && decide (d.sbase = 0)
     | _ => false)

/-! ### Where an element lies -/

/-- The base of a slice and of a run; `k1` is the index that the run stride multiplies (13 R278, R287). -/
def Desc.slice (d : Desc) (k2 k3 : Nat) : Word := w64 d.base + w64 k2 * d.s2 + w64 k3 * d.s3
/-- The base of a run. -/
def Desc.run (d : Desc) (k1 k2 k3 : Nat) : Word := d.slice k2 k3 + w64 k1 * d.s1

/-- Consecutive bit addresses. -/
def bitRun (a n : Nat) : List Nat := (List.range n).map fun k => a + k

/-- Whether elements lie in planes: layout 11 of memory, or a node's scratch, which the model counts as layout 4. -/
def Desc.inPlanes (d : Desc) : Bool := decide (3 ≤ d.lay)

/-- Planes of a group of 64: the element width in memory, where E8M10 takes 32 (13 R278; log 98), and the planes of 12 R256 in a node's scratch. -/
def Desc.planes (d : Desc) : Nat := if d.lay = 4 then planeW d.fmt else fmtWidth d.fmt

/-- Bytes of a group of 64 elements in planes, its scales among them (12 R256; 13 R278). -/
def Desc.groupBytes (d : Desc) : Nat := 8 * (d.planes + planeS d.fmt)

/-- The stream in which element k0 of run k1 lies, as a byte address, with its place there: rows of a tile-major matrix, groups of planes, or the run (13 R278). -/
def Desc.home (d : Desc) (k0 k1 k2 k3 : Nat) : Nat × Nat :=
  if d.lay = 2 then
    let p := denseBytes d.fmt 64
    ((d.slice k2 k3 + w64 ((k1 / 64 * (d.n0 / 64) + k0 / 64) * 64 * p + k1 % 64 * p)).toNat, k0 % 64)
  else if d.inPlanes then ((d.run k1 k2 k3 + w64 (k0 / 64 * d.groupBytes)).toNat, k0 % 64)
  else ((d.run k1 k2 k3).toNat, k0)

/-- The bit addresses of the element (13 R278). -/
def Desc.elemBits (d : Desc) (k0 k1 k2 k3 : Nat) : List Nat :=
  let h := d.home k0 k1 k2 k3
  if d.inPlanes then (List.range d.planes).map fun p => (h.1 + 8 * p) * 8 + h.2
  else if d.lay = 1 then bitRun (h.1 * 8 + fmtWidth d.fmt * h.2) (fmtWidth d.fmt)
  else bitRun (h.1 * 8 + densePos d.fmt h.2) (fmtWidth d.fmt)

/-- The bit addresses of the scale of the element's block; `r` is the linear run number (13 R278). -/
def Desc.scaleBits (d : Desc) (k0 k1 k2 k3 r : Nat) : List Nat :=
  let ls := fmtScaleBits d.fmt
  let h := d.home k0 k1 k2 k3
  if ls = 0 then []
  else if d.inPlanes then bitRun ((h.1 + 8 * d.planes) * 8 + ls * (h.2 / fmtBlock d.fmt)) ls
  else if d.lay = 1 then bitRun (d.sbase * 8 + (r * (d.n0 / fmtBlock d.fmt) + k0 / fmtBlock d.fmt) * ls) ls
  else bitRun (h.1 * 8 + h.2 / fmtBlock d.fmt * fmtBlockBits d.fmt) ls

/-- Plane bits beyond the end of a run, zero when its last element is written (13 R278; 12 R256). -/
def Desc.padBits (d : Desc) (k0 k1 k2 k3 : Nat) : List Nat :=
  if !d.inPlanes ∨ k0 + 1 ≠ d.n0 then []
  else
    let h := d.home k0 k1 k2 k3
    (List.range d.planes).flatMap fun p => bitRun ((h.1 + 8 * p) * 8 + h.2 + 1) (63 - h.2)

/-- A tile descriptor as one of kind 00 over the scratch of its node: rows in planes from the tile's first byte. -/
def Desc.onTile (d : Desc) (m : MNode) : Desc :=
  { d with base := m.rowAddr d.tile 0, s1 := w64 (tileRowBytes d.fmt), lay := 4, rm := m.rm (tBank (m.tile d.tile)) }

/-- The raw element of stored bits: a node's planes hold the encoding of 12 R256, memory the container. -/
def Desc.toRaw (d : Desc) (x : Nat) : Nat := if d.lay = 4 then planeDec d.fmt x else x
/-- The bits stored for a raw element. -/
def Desc.ofRaw (d : Desc) (x : Nat) : Nat := if d.lay = 4 then planeEnc d.fmt x else x

/-! ### Bytes -/

/-- The distinct bytes a list of bit addresses lies in, in order. -/
def bytesOf (bits : List Nat) : List Nat := (bits.map fun b => b / 8).eraseDups

/-- Consecutive byte addresses gathered into spans. -/
def spansOf : List Nat → List (Nat × Nat)
  | [] => []
  | a :: as =>
    match spansOf as with
    | (b, n) :: rest => if a + 1 = b then (a, n + 1) :: rest else (a, 1) :: (b, n) :: rest
    | [] => [(a, 1)]

/-- The number bit addresses hold in bytes already read. -/
def bitsIn (mem : List (Nat × Byte)) (bits : List Nat) : Nat :=
  (bits.mapIdx fun k b =>
    if (((mem.find? fun p : Nat × Byte => decide (p.1 = b / 8)).map fun p : Nat × Byte => p.2).getD 0).getLsbD (b % 8) then 2 ^ k else 0).sum

/-- Set bits of bytes already read. -/
def setBits (mem : List (Nat × Byte)) (bits : List Nat) (v : Nat) : List (Nat × Byte) :=
  (bits.zipIdx).foldl
    (fun m b => m.map fun p =>
      if p.1 = b.1 / 8 then
        (p.1, if (v / 2 ^ b.2) % 2 = 1 then p.2 ||| (1#8 <<< (b.1 % 8)) else p.2 &&& ~~~(1#8 <<< (b.1 % 8)))
      else p)
    mem

/-- What an access of a streamer answers; `fails` is a descriptor that names an address it may not (13 R281). -/
inductive SRes (α : Type) where
  | ok (a : α)
  | waits
  | bad (s : State) (k : Kind) (va : Word)
  | fails

/-- Where a side of a command lies: memory of the command's address space, a node's scratch, or the stream of an edge. -/
inductive Side where
  | mem
  | node (m : MNode)
  | edge

/-- Read a span on a side: the task's lens scratch while it is on a lens, memory, or a node (13 R276, R281). -/
def State.sideRead (s : State) (o : Origin) (sd : Side) (a n : Nat) : SRes (State × List Byte) :=
  match sd with
  | .node m => .ok (s, Memory.getN m.scratch a n)
  | .edge => .fails
  | .mem =>
    if 2 ^ 56 < a + n then .bad s .perm (w64 a)
    else if a + n ≤ scratchBase then
      if s.viewWaits o.asid (w64 a) n then .waits
      else
        match s.vread o.asid (w64 a) n o.hyp with
        | (t, .ok bs) => .ok (t, bs)
        | (t, .bad k va) => .bad t k va
    else
      match (if o.load.isSome then none else s.ctxOf? o.key) with
      | none => if o.load.isSome then .fails else .waits
      | some c =>
        match c.scratchAcc (w64 a) n with
        | some (some off) => if c.badWord off n then .bad (s.eccScratch c (w64 a)) .eccunc (w64 a) else .ok (s, Memory.getN c.scratch off n)
        | _ => .fails

/-- Read the bytes of spans on a side. -/
def State.sideReads (s : State) (o : Origin) (sd : Side) : List (Nat × Nat) → SRes (State × List (Nat × Byte))
  | [] => .ok (s, [])
  | (a, n) :: rest =>
    match s.sideRead o sd a n with
    | .ok (t, bs) =>
      match t.sideReads o sd rest with
      | .ok (u, m) => .ok (u, (bs.mapIdx fun k b => (a + k, b)) ++ m)
      | r => r
    | .waits => .waits
    | .bad t k va => .bad t k va
    | .fails => .fails

/-- Write a span on a side. -/
def State.sideWrite (s : State) (o : Origin) (sd : Side) (a : Nat) (bs : List Byte) : SRes State :=
  match sd with
  | .node m => .ok { s with mnodes := s.mnodes.map fun x =>
      if x.tower = m.tower ∧ x.n = m.n then { x with scratch := Memory.setN x.scratch a bs } else x }
  | .edge => .fails
  | .mem =>
    if 2 ^ 56 < a + bs.length then .bad s .perm (w64 a)
    else if a + bs.length ≤ scratchBase then
      match s.vwriteH o.asid (w64 a) bs o.hyp (some o.owner) with
      | (t, none) => .ok t
      | (t, some (k, va)) => .bad t k va
    else
      match (if o.load.isSome then none else s.ctxOf? o.key) with
      | none => if o.load.isSome then .fails else .waits
      | some c =>
        match c.scratchAcc (w64 a) bs.length with
        | some (some _) =>
          let l := Lane.plain (w64 a) bs
          if c.merges l then .bad (s.eccScratch c (w64 a)) .eccunc (w64 a) else .ok (s.onCtx c.id fun x => x.putScratch l)
        | _ => .fails

/-- The parts of a span on each page. -/
def pageCut (p : Nat × Nat) : List (Nat × Nat) :=
  let k := 65536 - p.1 % 65536
  if p.2 ≤ k then [p] else [(p.1, k), (p.1 + k, p.2 - k)]

/-- Write the bytes of spans of one page each on a side; where one fails, nothing has been written over the state before the first (13 R289). -/
def State.sideWriteAll (before s : State) (o : Origin) (sd : Side) (mem : List (Nat × Byte)) : List (Nat × Nat) → SRes State
  | [] => .ok s
  | (a, n) :: rest =>
    let bs := (List.range n).map fun k => ((mem.find? fun p => decide (p.1 = a + k)).map fun p => p.2).getD 0
    match s.sideWrite o sd a bs with
    | .ok t => before.sideWriteAll t o sd mem rest
    | .waits => .waits
    | .bad _ k va =>
      match before.sideWrite o sd a bs with
      | .bad t _ _ => .bad t k va
      | _ => .bad before k va
    | .fails => .fails

/-- Write the bytes of spans on a side: all of them, or none where one faults (13 R289). -/
def State.sideWrites (s : State) (o : Origin) (sd : Side) (mem : List (Nat × Byte)) (spans : List (Nat × Nat)) : SRes State :=
  s.sideWriteAll s o sd mem (spans.flatMap pageCut)

/-! ### Units of iteration -/

/-- The place of iteration e: k0, k1, k2, k3 and the linear run number (13 R277). -/
def place (n0 n1 n2 e : Nat) : Nat × Nat × Nat × Nat × Nat :=
  (e % n0, e / n0 % n1, e / n0 / n1 % n2, e / n0 / n1 / n2, e / n0)

/-- A raw element with its block's scale bits as an exact value; j is its place in the block (03 R63 to R71). -/
def fmtVal (code raw scale j : Nat) : Val :=
  let v := (fmtElem code).decode raw
  match fmtScale code with
  | .none => v
  | .e8m0 => if scale = 255 then .nan false else v.scale ((scale : Nat) - 127)
  | .sx => if scale % 256 = 255 then .nan false else v.scale ((scale % 256 : Nat) - 127 - (scale / 256 / 2 ^ (2 * (j / 8)) % 4 : Nat))
  | .group _ =>
    match FloatFmt.bf16.decode scale with
    | .nan _ => .nan false
    | sc => (mulVal v sc).1

/-- The number of iterations a unit takes at e: a block of a scaled format, cut at the end of the run. -/
def unitLen (code n0 e : Nat) : Nat := Nat.min (fmtBlock code - e % n0 % fmtBlock code) (n0 - e % n0)

/-- A generator moved on n draws. -/
def genMove : (n : Nat) → BitVec 32 → BitVec 32
  | 0, x => x
  | n + 1, x => genMove n (genDraw x)

/-- What a command does to each element: the source descriptor with its side when it has one, the destination, whether elements keep their bits, and a constant (13 R286, R287). -/
structure Job where
  org : Origin
  src : Option (Desc × Side)
  dst : Desc
  dside : Side
  bitwise : Bool
  fill : Word
  n0 : Nat
  n1 : Nat
  n2 : Nat
  n3 : Nat
  /-- Address of the index array, and whether it selects source runs. -/
  idx : Option (Word × Bool)

/-- Iterations of a job. -/
def Job.total (j : Job) : Nat := j.n0 * j.n1 * j.n2 * j.n3

/-- The format whose blocks make the units: the destination's. -/
def Job.unit (j : Job) (e : Nat) : Nat := unitLen j.dst.fmt j.n0 e

/-- Where the unit of an element begins. -/
def Job.unitStart (j : Job) (e : Nat) : Nat := e - e % j.n0 % fmtBlock j.dst.fmt

/-- The elements of a unit that must be read for some of them to be written: those alone where each keeps its bits, else the whole unit. -/
def Job.reads (j : Job) (e : Nat) (only : List Nat) : List Nat := if j.bitwise then only else List.range (j.unit e)

/-- Raw elements and scales of the named elements of a unit on the source side. -/
def Job.fetch (s : State) (j : Job) (d : Desc) (sd : Side) (e : Nat) (is : List Nat) (k1 : Nat) : SRes (State × List (Nat × Nat × Nat)) :=
  let at_ (i : Nat) := place j.n0 j.n1 j.n2 (e + i)
  let bitsE (i : Nat) : List Nat := d.elemBits (at_ i).1 k1 (at_ i).2.2.1 (at_ i).2.2.2.1
  let bitsS (i : Nat) : List Nat := d.scaleBits (at_ i).1 k1 (at_ i).2.2.1 (at_ i).2.2.2.1 (at_ i).2.2.2.2
  match s.sideReads j.org sd (spansOf (bytesOf (is.flatMap fun i => bitsE i ++ bitsS i))) with
  | .ok (t, m) => .ok (t, is.map fun i =>
      (d.toRaw (bitsIn m (bitsE i)), bitsIn m (bitsS i), (at_ i).1 % fmtBlock d.fmt))
  | .waits => .waits
  | .bad t k va => .bad t k va
  | .fails => .fails

/-- The raw elements of a unit on the destination side with its scale, from the source's (13 R281, R286). -/
def Job.convert (j : Job) (gen : BitVec 32) (n : Nat) (xs : List (Nat × Nat × Nat)) : List Nat × Nat :=
  if j.bitwise then (xs.map fun x => x.1, ((xs.head?).map fun x => x.2.1).getD 0)
  else
    let int := fmtIsInt j.dst.fmt
    let vals := match j.src with
      | some (d, _) => xs.map fun x => fmtVal d.fmt x.1 x.2.1 x.2.2
      | none => List.replicate n (if int then Val.ofInt j.fill.toInt 0 else FloatFmt.fp32.decode (bitsOf j.fill 0 32))
    let sig := match j.src with
      | some (d, _) => fmtPA d.fmt
      | none => if int then 64 else 24
    let float := match j.src with
      | some (d, _) => fmtFloat d.fmt
      | none => .fp32
    let fixed : Mode := match j.dst.rm with
      | 1 => .rtz
      | 2 => .rdn
      | 3 => .rup
      | _ => .rne
    let modes := modesOf (decide (j.dst.rm = 4) && narrows j.dst.fmt sig) fixed gen n
    let dense := (fmtPut j.dst.fmt float false modes vals).1
    ((List.range n).map fun i => dense / 2 ^ densePos j.dst.fmt i % 2 ^ fmtWidth j.dst.fmt, dense % 2 ^ fmtScaleBits j.dst.fmt)

/-- Put the named elements of a unit and its scale on the destination side; bytes partly covered are read and written again whole (13 R278). -/
def Job.store (s : State) (j : Job) (e : Nat) (only : List Nat) (k1 : Nat) (els : List Nat) (scale : Nat) : SRes State :=
  let n := j.unit e
  let d := j.dst
  let at_ (i : Nat) := place j.n0 j.n1 j.n2 (e + i)
  let bitsE (i : Nat) : List Nat := d.elemBits (at_ i).1 k1 (at_ i).2.2.1 (at_ i).2.2.2.1
  let bitsS : List Nat := d.scaleBits (at_ 0).1 k1 (at_ 0).2.2.1 (at_ 0).2.2.2.1 (at_ 0).2.2.2.2
  let pad : List Nat := if only.contains (n - 1) then d.padBits (at_ (n - 1)).1 k1 (at_ (n - 1)).2.2.1 (at_ (n - 1)).2.2.2.1 else []
  let all := (only.flatMap bitsE) ++ bitsS ++ pad
  let bytes := bytesOf all
  let whole (b : Nat) : Bool := decide (8 ≤ (all.filter fun x => decide (x / 8 = b)).length)
  match s.sideReads j.org j.dside (spansOf (bytes.filter fun b => !whole b)) with
  | .ok (t, m) =>
    let mem := m ++ (bytes.filter whole).map fun b => (b, (0 : Byte))
    let mem := ((els.zip only).foldl (fun x p => setBits x (bitsE p.2) (d.ofRaw p.1)) mem)
    let mem := setBits (setBits mem bitsS scale) pad 0
    t.sideWrites j.org j.dside mem (spansOf bytes)
  | .waits => .waits
  | .bad t k va => .bad t k va
  | .fails => .fails

/-- The run index of iteration e on a side: the plain one, or the one the index array holds (13 R287). -/
def Job.runOf (s : State) (j : Job) (source : Bool) (e : Nat) : SRes (State × Nat) :=
  let k1 := (place j.n0 j.n1 j.n2 e).2.1
  match j.idx with
  | some (va, side) =>
    if side = source then
      match s.sideRead j.org .mem (va + w64 (4 * k1)).toNat 4 with
      | .ok (t, bs) => .ok (t, bytesToNat bs)
      | .waits => .waits
      | .bad t k a => .bad t k a
      | .fails => .fails
    else .ok (s, k1)
  | none => .ok (s, k1)

/-- The named elements of one unit of a job: read, converted, written (13 R281, R286, R287, R289). -/
def Job.step (s : State) (j : Job) (gen : BitVec 32) (e : Nat) (only : List Nat) : SRes State :=
  let n := j.unit e
  match j.runOf s true e with
  | .waits => .waits
  | .bad t k va => .bad t k va
  | .fails => .fails
  | .ok (t, ks) =>
    match j.runOf t false e with
    | .waits => .waits
    | .bad t k va => .bad t k va
    | .fails => .fails
    | .ok (t, kd) =>
      let src : SRes (State × List (Nat × Nat × Nat)) := match j.src with
        | some (d, sd) => j.fetch t d sd e (j.reads e only) ks
        | none => .ok (t, [])
      match src with
      | .waits => .waits
      | .bad t k va => .bad t k va
      | .fails => .fails
      | .ok (t, xs) =>
        let r := j.convert gen n xs
        j.store t e only kd (if j.bitwise then r.1 else only.map fun i => (r.1[i]?).getD 0) r.2

/-- The pages on which the source or destination bytes of element i of a unit lie: its own and its block's scale, and the source of the whole block where the block is quantised together (13 R289). -/
def Job.elemPages (s : State) (j : Job) (e i : Nat) : List Nat :=
  let k1 (source : Bool) : Nat := match j.runOf s source e with
    | .ok (_, k) => k
    | _ => 0
  let bits (d : Desc) (k : Nat) (is : List Nat) : List Nat := is.flatMap fun i =>
    let a := place j.n0 j.n1 j.n2 (e + i)
    d.elemBits a.1 k a.2.2.1 a.2.2.2.1 ++ d.scaleBits a.1 k a.2.2.1 a.2.2.2.1 a.2.2.2.2
  let side (d : Desc) (sd : Side) (k : Nat) (is : List Nat) : List Nat := match sd with
    | .mem => (bits d k is).map fun b => b / 8 / 65536
    | .node _ => []
    | .edge => []
  let kk := (place j.n0 j.n1 j.n2 e).2.1
  ((match j.src with
    | some (d, sd) => side d sd (k1 true) (j.reads e [i])
    | none => []) ++ side j.dst j.dside (k1 false) [i]
    ++ (match j.idx with
      | some (va, _) => [(va + w64 (4 * kk)).toNat / 65536]
      | none => [])).eraseDups

/-- The pages a unit touches. -/
def Job.pages (s : State) (j : Job) (e : Nat) : List Nat := (List.range (j.unit e)).flatMap fun i => j.elemPages s e i

/-! ### Units and repair lists -/

/-- What the owner of a repair list lends to a unit: the pages of its elements, the list, how elements join an entry, how a new entry is made, the failure of the whole, whether nothing more can be listed, and the unit's work. -/
structure UnitOps where
  pages : State → Nat → List Nat
  repairs : State → List Repair
  list : State → Nat → List Nat → State
  fault : State → Kind → Word → Nat → List Nat → State
  whole : State → State
  full : State → Bool
  run : State → List Nat → SRes State

/-- The named elements of a unit are performed; those with bytes on a faulting page are listed and the others go on; what cannot go on now is left over (13 R289). -/
def unitParts (o : UnitOps) : (fuel : Nat) → State → List Nat → State × List Nat
  | 0, s, todo => (s, todo)
  | _, s, [] => (s, [])
  | n + 1, s, todo =>
    let on (page : Nat) : List Nat := todo.filter fun i => (o.pages s i).contains page
    let known := (o.repairs s).filter fun r => !(on r.page).isEmpty
    if !known.isEmpty then
      unitParts o n (known.foldl (fun t r => o.list t r.page (on r.page)) s) (todo.filter fun i => !known.any fun r => (on r.page).contains i)
    else
      match o.run s todo with
      | .ok t => (t, [])
      | .waits => (s, todo)
      | .fails => if o.full s then (s, todo) else (o.whole s, [])
      | .bad t k va =>
        if o.full s then (s, todo)
        else
          let hit := match on (va.toNat / 65536) with
            | [] => todo
            | l => l
          unitParts o n (o.fault t k va (va.toNat / 65536) hit) (todo.filter fun i => !hit.contains i)

/-- Elements join the entry of a page. -/
def addIters (rs : List Repair) (page : Nat) (es : List Nat) : List Repair :=
  rs.map fun r => if r.page = page then { r with iters := some ((r.iters.getD []) ++ es) } else r

end Sys2Proof.Machine
end

