-- ==== Sys2Proof/Machine/Streamer.lean ====
section
/-! DEFINITION. Sys2Proof/Machine/Streamer.lean: the streamer instructions, tickets, hand-over, and the performing, repair and end of streamer commands (13 R276 to R289). -/

namespace Sys2Proof.Machine

/-! ### Numbers -/

/-- The effect slot of a streamer command, none for another instruction (13 R285). -/
def Instr.streamerSlot (i : Instr) : Option (BitVec 5) :=
  match i with
  | .scopy _ e _ _ | .sgath _ e _ _ | .sscat _ e _ _ | .slayout _ e _ _ | .sfill _ e _ _ => some e
  | _ => none

/-- The streamer instructions of an instance by effect slot, those of one slot in clause order (13 R282). -/
def Inst.streamerInsts (x : Inst) : List (BitVec 7) :=
  (List.range 32).flatMap fun e => ((List.range x.words.length).filter fun k =>
    decide (((x.instrAt (BitVec.ofNat 7 k)).bind Instr.streamerSlot) = some (BitVec.ofNat 5 e))).map fun k => BitVec.ofNat 7 k

/-- The number of the command of a streamer instruction of an instance (13 R282). -/
def Inst.streamerSeq (x : Inst) (iid : BitVec 7) : BitVec 32 :=
  x.streamBase + 1 + BitVec.ofNat 32 ((x.streamerInsts.takeWhile fun k => !decide (k = iid)).length)

/-! ### Firing -/

/-- The check of a descriptor address (13 R285). -/
def descOperand (a : Word) : Option (Kind × Word) :=
  if !canonical a 64 then some (.perm, a) else if !bitsZero a 0 6 then some (.misalign, a) else none

/-- The check of an index address (13 R285). -/
def indexOperand (a : Word) : Option (Kind × Word) :=
  if !canonical a 1 then some (.perm, a) else if !bitsZero a 0 2 then some (.misalign, a) else none

/-- A streamer command fires: its addresses are checked and its ticket is delivered (13 R276, R282, R285). -/
def streamAct (i : Instr) (xop : Nat) (queue : BitVec 2) (v : Vals) (s : State) : Act :=
  match s.finst with
  | none => .waits s
  | some x =>
    let a := v.a.bits
    let b := v.b.bits
    let c := v.c.bits
    let bad := ((descOperand a).or (if xop = 4 then none else descOperand b)).or
      (if xop = 1 ∨ xop = 2 then indexOperand c else none)
    match bad with
    | some (k, va) => .fires ((s.notePoison va).effectBad i k)
    | none =>
      .fires ((s.effect i (.streamer xop queue.toNat a b c)).deliverS i
        (w64 ((x.streamerSeq s.focus.iid).toNat + queue.toNat * 2 ^ 32)))

/-- SCOPY (13 R286). -/
def execScopy (pr : Pred) (eff : BitVec 5) (q : BitVec 2) (t : Tgt) (s : State) : Host.Outcome State Fault Refusal :=
  fire s (.scopy pr eff q t) (streamAct (.scopy pr eff q t) 0 q)

/-- SGATH (13 R287). -/
def execSgath (pr : Pred) (eff : BitVec 5) (q : BitVec 2) (t : Tgt) (s : State) : Host.Outcome State Fault Refusal :=
  fire s (.sgath pr eff q t) (streamAct (.sgath pr eff q t) 1 q)

/-- SSCAT (13 R287). -/
def execSscat (pr : Pred) (eff : BitVec 5) (q : BitVec 2) (t : Tgt) (s : State) : Host.Outcome State Fault Refusal :=
  fire s (.sscat pr eff q t) (streamAct (.sscat pr eff q t) 2 q)

/-- SLAYOUT (13 R286). -/
def execSlayout (pr : Pred) (eff : BitVec 5) (q : BitVec 2) (t : Tgt) (s : State) : Host.Outcome State Fault Refusal :=
  fire s (.slayout pr eff q t) (streamAct (.slayout pr eff q t) 3 q)

/-- SFILL (13 R286). -/
def execSfill (pr : Pred) (eff : BitVec 5) (q : BitVec 2) (t : Tgt) (s : State) : Host.Outcome State Fault Refusal :=
  fire s (.sfill pr eff q t) (streamAct (.sfill pr eff q t) 4 q)

/-! ### Hand-over -/

/-- A descriptor as it is read: not yet, while a view under policy WAIT holds the read up (13 R280, R296). -/
def State.descRead (s : State) (asid : BitVec 16) (read : State → Word → State × VRes) (va : Word) (old : List Byte) : State × List Byte × Option (Kind × Word) × Bool :=
  if !old.isEmpty then (s, old, none, false)
  else if s.viewWaits asid va 64 then (s, [], none, true)
  else
    match read s va with
    | (t, .ok bs) => (t, bs, none, false)
    | (t, .bad k a) => (t, [], some (k, a), false)

/-- The descriptors of a command are read, those it has not read yet (13 R280). -/
def State.descsRead (s : State) (read : State → Word → State × VRes) (q : SCmd) : State × SCmd :=
  let r1 := if q.xop = 4 then (s, ([] : List Byte), (none : Option (Kind × Word)), false) else s.descRead q.org.asid read q.a q.src
  let r2 := r1.1.descRead q.org.asid read (if q.xop = 4 then q.a else q.b) q.dst
  (r2.1, { q with src := r1.2.1, dst := r2.2.1, bad := r1.2.2.1.or r2.2.2.1, unread := r1.2.2.2 || r2.2.2.2 })

/-- A command is handed to its queue; it reads its descriptors as a load of the task (13 R276, R280). -/
def State.handStreamer (s : State) (c : Ctx) (o : Origin) (seq : BitVec 32) (xop queue : Nat) (a b cc : Word) : State :=
  let r := s.descsRead (fun t va => t.taskRead c va 64)
    { id := s.nextCmd, org := o, queue := queue, seq := seq, xop := xop, a := a, b := b, c := cc, mn := s.mnOf c
      src := [], dst := [], unread := false, bad := none, st := .queued, repairs := [], next := 0, redo := []
      disc := none, gone := false, progress := s.time }
  { r.1 with scmds := r.1.scmds ++ [r.2], nextCmd := s.nextCmd + 1 }

/-! ### What a command asks for -/

/-- Where a descriptor's elements are: memory, or a node granted to the task; none while the node is not there. -/
def State.sideOf (s : State) (q : SCmd) (d : Desc) : Option Side :=
  if d.kind = 0 then some .mem
  else ((s.mnode? q.org.tower (.task q.org.key d.node)).filter fun m => !m.restoring).map Side.node

/-- The spans a memory descriptor's runs and scales take; SGATH and SSCAT leave the gathered side's runs to their index array (13 R278, R280). -/
def Desc.spans (d : Desc) (gathered : Bool) : List (Nat × Nat) :=
  let runs := (List.range d.n3).flatMap fun k3 => (List.range d.n2).flatMap fun k2 =>
    (List.range (if gathered then 0 else d.n1)).flatMap fun k1 =>
      if d.lay = 2 then (List.range (d.n0 / 64)).map fun b => ((d.home (64 * b) k1 k2 k3).1, denseBytes d.fmt 64)
      else if d.lay = 3 then [((d.run k1 k2 k3).toNat, (d.n0 + 63) / 64 * d.groupBytes)]
      else if d.lay = 1 then [((d.run k1 k2 k3).toNat, (d.n0 * fmtWidth d.fmt + 7) / 8)]
      else [((d.run k1 k2 k3).toNat, denseBytes d.fmt d.n0)]
  if d.lay = 1 then
    (d.sbase, (d.n0 / fmtBlock d.fmt * d.n1 * d.n2 * d.n3 * fmtScaleBits d.fmt + 7) / 8) :: runs
  else runs

/-- Whether a span meets the scratch window (08 R179). -/
def meetsScratch (p : Nat × Nat) : Bool := decide (scratchBase < p.1 + p.2) && decide (p.1 < 2 ^ 56)

/-- Bytes of a run of a gathered side (13 R278, R287). -/
def Desc.runBytes (d : Desc) : Nat :=
  if d.lay = 3 then (d.n0 + 63) / 64 * d.groupBytes
  else if d.lay = 1 then (d.n0 * fmtWidth d.fmt + 7) / 8
  else denseBytes d.fmt d.n0

/-- The runs an index array selects on the gathered side, with the array itself; an index that cannot be read now selects none (13 R287). -/
def State.gatheredSpans (s : State) (o : Origin) (d : Desc) (idx : Word) (n1 : Nat) : List (Nat × Nat) :=
  (idx.toNat, 4 * n1) :: (List.range n1).flatMap fun k =>
    match s.sideRead o .mem (idx + w64 (4 * k)).toNat 4 with
    | .ok (_, bs) => (List.range d.n3).flatMap fun k3 => (List.range d.n2).map fun k2 => ((d.run (bytesToNat bs) k2 k3).toNat, d.runBytes)
    | _ => []

/-- Whether spans of a task's command lie in the scratch of its lens where they meet the window; true while it has no lens (08 R179; 13 R281). -/
def State.scratchFits (s : State) (o : Origin) (ps : List (Nat × Nat)) : Bool :=
  match s.ctxOf? o.key with
  | none => true
  | some c => ps.all fun p => !meetsScratch p || !decide (c.scratchAcc (w64 p.1) p.2 = some none)

/-- Whether a memory descriptor's runs are canonical, lie in the scratch of the task's lens where they meet the window, and are aligned as their layout asks (08 R179; 13 R278, R280, R281). -/
def State.spansOk (s : State) (o : Origin) (d : Desc) (gathered : Bool) : Bool :=
  (d.spans gathered).all fun p =>
    decide (p.1 + p.2 ≤ 2 ^ 56) && (decide (d.lay ≠ 3) || decide (p.1 % 8 = 0)) && s.scratchFits o [p]

/-- Whether the runs an index array selects are aligned and lie in the scratch of the task's lens as their layout asks; each is else checked by its page alone (13 R278, R280, R281, R287). -/
def State.gatherOk (s : State) (q : SCmd) (e d : Desc) : Bool :=
  let check (g : Desc) (n1 : Nat) : Bool :=
    let ps := s.gatheredSpans q.org g q.c n1
    s.scratchFits q.org ps && (decide (g.lay ≠ 3) || (ps.drop 1).all fun p => decide (p.1 % 8 = 0))
  if q.xop = 1 then check e d.n1 else if q.xop = 2 then check d e.n1 else true

/-- Source and destination descriptors of a command; SFILL has its destination alone. -/
def SCmd.descs (q : SCmd) : Desc × Desc :=
  let d := Desc.ofBytes q.dst
  (if q.xop = 4 then d else Desc.ofBytes q.src, d)

/-- The index array of a command and the runs it selects; none where it has no index array (13 R287). -/
def State.indexSpans (s : State) (q : SCmd) : List (Nat × Nat) :=
  let (e, d) := q.descs
  if q.src.isEmpty || q.dst.isEmpty then []
  else if q.xop = 1 then s.gatheredSpans q.org e q.c d.n1
  else if q.xop = 2 then s.gatheredSpans q.org d q.c e.n1
  else []

/-- Whether a command meets the scratch window of a task that has no lens, itself or by a run its index array selects, so that it pauses (13 R276, R280, R287). -/
def State.scratchAway (s : State) (q : SCmd) : Bool :=
  (s.ctxOf? q.org.key).isNone && (([(q.src, decide (q.xop = 1)), (q.dst, decide (q.xop = 2))].any fun x =>
    let d := Desc.ofBytes x.1
    decide (d.kind = 0) && !x.1.isEmpty && (d.spans x.2).any meetsScratch) || (s.indexSpans q).any meetsScratch)

/-- Whether the descriptors of a command are accepted and agree, and the runs an index array selects may be reached (13 R277 to R281, R286, R287). -/
def State.descsOk (s : State) (q : SCmd) : Bool :=
  let (e, d) := q.descs
  let same := decide (d.n0 = e.n0) && decide (d.n2 = e.n2) && decide (d.n3 = e.n3)
  let agrees : Bool := match q.xop with
    | 0 => same && decide (d.n1 = e.n1) && decide (d.fmt = e.fmt)
    | 3 => same && decide (d.n1 = e.n1)
    | 4 => true
    | _ => same && decide (d.kind = 0) && decide (e.kind = 0) && decide (d.lay ≠ 2) && decide (e.lay ≠ 2)
  d.ok q.mn && e.ok q.mn && agrees
    && (decide (d.kind ≠ 0) || s.spansOk q.org d (decide (q.xop = 2))) && (decide (e.kind ≠ 0) || s.spansOk q.org e (decide (q.xop = 1)))
    && s.gatherOk q e d

/-- The job of a command on its sides (13 R286, R287). -/
def SCmd.job (q : SCmd) (es ds : Side) : Job :=
  let (e, d) := q.descs
  { org := q.org
    src := if q.xop = 4 then none else some (match es with
      | .node m => e.onTile m
      | _ => e, es)
    dst := (match ds with
      | .node m => d.onTile m
      | _ => d)
    dside := ds, bitwise := decide (q.xop = 0), fill := q.b
    n0 := d.n0, n1 := if q.xop = 2 then e.n1 else d.n1, n2 := d.n2, n3 := d.n3
    idx := if q.xop = 1 then some (q.c, true) else if q.xop = 2 then some (q.c, false) else none }

/-- The check of a tile descriptor at its node; `write` for a destination (13 R279; 12 R257, R260; log 12). -/
def MNode.tileGate (m : MNode) (d : Desc) (write : Bool) : Gated :=
  let e := m.tile d.tile
  if !tDef e then .cause 2
  else if tState e = 1 ∨ tState e = 3 then .waits
  else if !write && decide (tState e ≠ 2) then .cause 1
  else if decide (d.n0 ≠ tCols e) || decide (d.n1 ≠ tRows e) || decide (d.n2 ≠ 1) || decide (d.n3 ≠ 1) then .cause 8
  else if d.fmt ≠ m.tileFmt d.tile then .cause 5
  else if write && !tileFits e (m.tileFmt d.tile) then .cause 3
  else .opens

/-- The check of a side before a command runs. -/
def sideGate (d : Desc) (sd : Side) (write : Bool) : Gated :=
  match sd with
  | .node m => m.tileGate d write
  | _ => .opens

/-! ### Performing -/

/-- Change a command. -/
def State.onScmd (s : State) (id : Nat) (f : SCmd → SCmd) : State :=
  { s with scmds := s.scmds.map fun q => if q.id = id then f q else q }

/-- The ticket of a command (13 R282). -/
def SCmd.ticket (q : SCmd) : Word := w64 (q.seq.toNat + q.queue * 2 ^ 32)

/-- A destination tile of a command leaves filling for a state (13 R289; 17 R341). -/
def State.leaveTile (s : State) (q : SCmd) (st : Nat) : State :=
  let d := Desc.ofBytes q.dst
  if d.kind ≠ 1 then s
  else
    match s.mnode? q.org.tower (.task q.org.key d.node) with
    | none => s
    | some m => if tState (m.tile d.tile) = 1 then s.setNode (m.setState d.tile st) else s

/-- A command ends as discarded (13 R289). -/
def State.discardScmd (s : State) (q : SCmd) (k : Kind) : State :=
  ((s.leaveTile q 0).onScmd q.id fun x => { x with st := .discarded k, repairs := [], redo := [] }).hypSweep

/-- A fault of a command: a record of its task and an entry of its repair list, or its end when its task has ended (13 R289; 17 R344). -/
def State.scmdFault (s : State) (q : SCmd) (k : Kind) (cause : Nat) (va : Word) (page : Nat) (iters : Option (List Nat)) (idx : Nat) : State :=
  match s.engineFault (q.org.record 3 k cause va q.ticket idx) with
  | (t, none) => t.discardScmd q k
  | (t, some seq) => t.onScmd q.id fun x =>
      { x with st := .running, repairs := x.repairs ++ [⟨page, k, seq, iters⟩], progress := s.time }

/-- Give up the copy of a node a side holds for the one the state holds now. -/
def State.freshSide (s : State) (sd : Side) : Side :=
  match sd with
  | .mem => .mem
  | .edge => .edge
  | .node m => .node ((s.mnodes.find? fun x => decide (x.tower = m.tower) && decide (x.n = m.n)).getD m)

/-- What a running command lends to a unit of it that begins at element u (13 R281, R289): a record waits for room in the ring (17 R339), and a repair list holds 16 pages. -/
def SCmd.unitOps (id : Nat) (j : Job) (u : Nat) : UnitOps :=
  let cmd (s : State) (f : SCmd → State) : State := ((s.scmds.find? fun x => decide (x.id = id)).map f).getD s
  { pages := fun s i => j.elemPages s u i
    repairs := fun s => ((s.scmds.find? fun x => decide (x.id = id)).map fun q => q.repairs).getD []
    list := fun s page is => s.onScmd id fun x => { x with repairs := addIters x.repairs page (is.map fun i => u + i) }
    fault := fun s k va page is => cmd s fun q => s.scmdFault q k 0 va page (some (is.map fun i => u + i)) (u + (is.head?).getD 0)
    whole := fun s => cmd s fun q => s.scmdFault q .illop 0 0 (2 ^ 48) none 0
    full := fun s => match s.scmds.find? fun x => decide (x.id = id) with
      | some q => decide (16 ≤ q.repairs.length) || s.pauses q.org
      | none => true
    run := fun s is =>
      match { j with dside := s.freshSide j.dside }.step s (genMove u (if j.dst.seed = 0 then 0x9E3779B9#32 else j.dst.seed)) u is with
      | .ok t => .ok (t.onScmd id fun x => { x with progress := s.time })
      | r => r }

/-- Named elements of a unit of a running command: the new state, none when it can do nothing now. -/
def State.unitStep (s : State) (id : Nat) (j : Job) (u : Nat) (todo : List Nat) : Option State :=
  let r := unitParts (SCmd.unitOps id j u) 20 s todo
  if r.2.length = todo.length then none
  else some (r.1.onScmd id fun x => { x with redo := (r.2.map fun i => u + i) ++ x.redo })

/-- Units from the command's next one on, until one waits or the command ends. -/
def State.runUnits (s : State) (id : Nat) (j : Job) : (fuel : Nat) → State
  | 0 => s
  | n + 1 =>
    match s.scmds.find? fun x => decide (x.id = id) with
    | none => s
    | some q =>
      if q.st ≠ .running ∨ q.repairs.any (fun r => r.iters.isNone) then s
      else
        match q.redo with
        | e :: _ =>
          let u := j.unitStart e
          let rest := q.redo.filter fun x => !decide (j.unitStart x = u)
          match (s.onScmd id fun x => { x with redo := rest }).unitStep id j u ((List.range (j.unit u)).filter fun i => q.redo.contains (u + i)) with
          | none => s
          | some t => t.runUnits id j n
        | [] =>
          if j.total ≤ q.next then s
          else
            match (s.onScmd id fun x => { x with next := q.next + j.unit q.next }).unitStep id j q.next (List.range (j.unit q.next)) with
            | none => s
            | some t => t.runUnits id j n

/-- Whether an earlier command of the same queue of the same task has not ended (13 R276). -/
def State.queueBehind (s : State) (q : SCmd) : Bool :=
  s.scmds.any fun x => decide (x.org.key = q.org.key) && decide (x.queue = q.queue) && decide (x.id < q.id) && x.unfinished

/-- A command of a task begins, or goes on after a wait or a replay, on a streamer that no load holds (13 R276, R279 to R281, R289; 14 R305). -/
def State.startScmd (s : State) (cmd : Nat) : State :=
  match s.scmds.find? fun x => decide (x.id = cmd) with
  | none => s
  | some q =>
    let fails (k : Kind) (cause : Nat) (va : Word) : State := if s.pauses q.org then s else (s.scmdFault q k cause va (2 ^ 48) none 0).tick
    if !q.unfinished || q.repairs.any (fun r => r.iters.isNone) || s.queueBehind q || (s.freeStreamers q.org.tower).isEmpty then s
    else if q.unread then
      let r := s.descsRead (fun t va => t.vread q.org.asid va 64 q.org.hyp) q
      if r.2.unread then s else (r.1.onScmd cmd fun _ => r.2).tick
    else if q.st = .queued && s.scratchAway q then s
    else
      match q.bad with
      | some (k, va) => fails k 0 va
      | none =>
        if q.st = .queued && !s.descsOk q then fails .illop 0 0
        else
          let (e, d) := q.descs
          match (if q.xop = 4 then some .mem else s.sideOf q e), s.sideOf q d with
          | some es, some ds =>
            let j := q.job es ds
            let fuel := j.total + q.redo.length + 1
            if q.st = .running then
              let t := s.runUnits cmd j fuel
              if t = s then s else t.tick
            else
              match [if q.xop = 4 then Gated.opens else sideGate e es false, sideGate d ds true].find? fun g => !decide (g = .opens) with
              | some .waits => s
              | some (.cause n) => fails .tilestate n 0
              | _ =>
                let s1 := match ds with
                  | .node m => s.setNode (m.setState d.tile 1)
                  | _ => s
                let s2 := s1.onScmd cmd fun x => { x with st := .running, progress := s.time }
                (s2.runUnits cmd (q.job es (s2.freshSide ds)) fuel).tick
          | _, _ => s

/-- STREAMER_COMMAND_COMPLETE: every read and write of a command has been performed and its repair list is empty; it is complete, or ends as discarded (13 R284, R289). -/
def execStreamerCommandComplete (cmd : Nat) (s : State) : Host.Outcome State Fault Refusal :=
  match s.scmds.find? fun x => decide (x.id = cmd) with
  | none => .next s
  | some q =>
    if q.st = .running ∧ q.repairs = [] ∧ q.redo = [] ∧ (q.job .mem .mem).total ≤ q.next then
      match q.disc with
      | some k => .next (s.discardScmd q k).tick
      | none =>
        let t := s.onScmd cmd fun x => { x with st := .complete }
        .next (if q.descs.2.kind = 1 then t else t.hypSweep).tick
    else .next s

/-! ### Disposing of records -/

/-- The command and the repair entry a record with a ticket and a number stands for. -/
def State.repairOf (s : State) (k : TaskKey) (ticket : Word) (seq : BitVec 16) : Option (SCmd × Repair) :=
  s.scmds.reverse.findSome? fun q =>
    if q.org.key = k ∧ q.org.load = none ∧ q.ticket = ticket then (q.repairs.find? fun r => decide (r.seq = seq)).map fun r => (q, r) else none

/-- A record of a command is replayed: the descriptors are read again and the whole command waits to be performed, or the listed iterations are due again (13 R289; 17 R341). -/
def State.replayScmd (s : State) (c : Ctx) (q : SCmd) (r : Repair) : State :=
  match r.iters with
  | none =>
    let r := s.descsRead (fun t va => t.taskRead c va 64) { q with src := [], dst := [] }
    (r.1.leaveTile q 0).onScmd q.id fun _ => { r.2 with st := .queued, repairs := [], redo := [], next := 0, progress := s.time }
  | some es =>
    s.onScmd q.id fun x =>
      let rest := x.repairs.filter fun y => !decide (y.seq = r.seq)
      let listed (e : Nat) : Bool := rest.any fun y => (y.iters.getD []).contains e
      { x with repairs := rest, redo := x.redo ++ es.filter (fun e => !listed e), progress := s.time }

/-- A record of a command is discarded (13 R289; 17 R341). -/
def State.dropScmd (s : State) (q : SCmd) (r : Repair) : State :=
  match r.iters with
  | none => s.discardScmd q r.kind
  | some es =>
    s.onScmd q.id fun x =>
      { x with
        disc := x.disc.or (some r.kind)
        repairs := ((x.repairs.filter fun y => !decide (y.seq = r.seq)).map fun y =>
          { y with iters := y.iters.map fun l => l.filter fun e => !es.contains e }).filter fun y => !decide (y.iters = some [])
        progress := s.time }

/-! ### SWAIT and SFENCE -/

/-- What a ticket says: it fails its check, its command is pending, complete, or discarded; a number that was never handed over is complete once the earlier commands of its queue are, and at once for a poll (12 R261; 13 R283, R288). -/
inductive Ticket where
  | bad
  | pending
  | behind
  | complete
  | discarded (k : Kind)
  deriving DecidableEq, Repr

/-- Whether every command handed to a node has been performed, its writes included (12 R261). -/
def MNode.idle (m : MNode) : Bool := m.queue.isEmpty && !m.tiles.any fun e => decide (tState e = 3)

/-- The streamer commands of a queue a fence still holds before their hand-over, by number (09 R214; 13 R276, R282). -/
def Ctx.heldStream (c : Ctx) (queue : BitVec 2) : List (BitVec 32) :=
  (c.pend ++ c.heldIn).filterMap fun p =>
    match p.what with
    | .act (.streamer _ q _ _ _) => if q = queue.toNat then some p.seq else none
    | _ => none

/-- Whether a fence still holds a matrix command of a node before its hand-over (09 R214; 12 R258). -/
def Ctx.heldMatrix (c : Ctx) (node : Nat) : Bool :=
  (c.pend ++ c.heldIn).any fun p =>
    match p.what with
    | .act (.matrix n _ _ _ _ _) => decide (n = node)
    | _ => false

/-- The check and the state of a ticket for the oldest clause, whose older clauses have all committed. -/
def State.ticket (s : State) (c : Ctx) (x : Inst) (t : Word) : Ticket :=
  if t.getLsbD 63 then
    if !bitsZero t 4 59 || decide (s.mnOf c ≤ bitsOf t 0 4) then .bad
    else
      match s.mnode? c.tower (s.ownerOf c (bitsOf t 0 4)) with
      | none => .pending
      | some m => if m.idle && !c.heldMatrix (bitsOf t 0 4) then .complete else .pending
  else
    let seq : BitVec 32 := t.setWidth 32
    let queue := bitsOf t 32 2
    let mine (q : SCmd) : Bool := decide (q.org.key = c.key) && q.org.load.isNone && !q.gone && decide (c.kind = .task)
    let named := s.scmds.reverse.find? fun q => mine q && decide (q.seq = seq)
    let held (n : Nat) : List (BitVec 32) := c.heldStream (BitVec.ofNat 2 n)
    if !bitsZero t 34 29 || (decide (2 ^ 31 ≤ (x.streamBase - seq).toNat) && named.isNone) then .bad
    else if (List.range 4).any (fun n => decide (n ≠ queue) && (held n).contains seq) then .bad
    else if (named.map fun q => decide (q.queue ≠ queue)).getD false then .bad
    else if decide (2 ^ 31 ≤ (x.streamBase - seq).toNat) then .complete
    else if (held queue).contains seq || (named.map SCmd.unfinished).getD false then .pending
    else if (held queue).any (fun n => decide ((seq - n).toNat < 2 ^ 31))
        || s.scmds.any (fun q => mine q && decide (q.queue = queue) && q.unfinished && decide ((seq - q.seq).toNat < 2 ^ 31)) then
      if named.isNone then .behind else .pending
    else
      match named.map SCmd.st with
      | some (.discarded k) => .discarded k
      | _ => .complete

/-- SWAIT waits for a ticket, or polls it; it acts as an acquire as it fires, whatever the slots of the loads that consume its value (01 R18; 13 R283, R288). -/
def execSwait (pr : Pred) (eff : BitVec 5) (poll : Bool) (t : Tgt) (s : State) : Host.Outcome State Fault Refusal :=
  fire s (.swait pr eff poll t) fun v u =>
    let i : Instr := .swait pr eff poll t
    match u.fctx, u.finst with
    | some c, some x =>
      if !u.oldest then .waits u
      else
        match u.ticket c x v.a.bits with
        | .bad => .fires ((u.effect i .done).deliverPoison i .illop)
        | .pending => if poll then .fires (((u.acquireHere .pkg).effect i .acquire).deliverS i 0) else .waits u
        | .behind => if poll then .fires (((u.acquireHere .pkg).effect i .acquire).deliverS i 1) else .waits u
        | .complete => .fires (((u.acquireHere .pkg).effect i .acquire).deliverS i (if poll then 1 else v.a.bits))
        | .discarded k => .fires (if poll then ((u.acquireHere .pkg).effect i .acquire).deliverS i 2 else ((u.acquireHere .pkg).effect i .acquire).deliverPoison i k)
    | _, _ => .waits u

/-- SFENCE waits for a ticket and performs a release at its scope (13 R283, R288). -/
def execSfence (pr : Pred) (eff : BitVec 5) (sc : Scope) (t : Tgt) (s : State) : Host.Outcome State Fault Refusal :=
  fire s (.sfence pr eff sc t) fun v u =>
    let i : Instr := .sfence pr eff sc t
    match u.fctx, u.finst with
    | some c, some x =>
      if !u.oldest then .waits u
      else
        match u.ticket c x v.a.bits with
        | .bad => .fires ((u.effect i .done).deliverPoison i .illop)
        | .pending => .waits u
        | .behind => .waits u
        | .complete =>
          if c.hasStores then .waits u
          else .fires ((((u.releaseHere sc).acquireHere .pkg).effect i .acquire).deliverS i v.a.bits)
        | .discarded k => .fires ((u.effect i .done).deliverPoison i k)
    | _, _ => .waits u

end Sys2Proof.Machine
end

