-- ==== Sys2Proof/Machine/Prism.lean ====
section
/-! DEFINITION. Sys2Proof/Machine/Prism.lean: registering, synchronising, asking about and dropping views, and the builds of the prism engines (13 R290 to R303; 16 R330, R331). -/

namespace Sys2Proof.Machine

/-! ### Handles -/

/-- The handle of a view (13 R298). -/
def View.handle (v : View) (m : Master) : Word := w64 (v.idx + m.slot * 16 + m.tower * 1024 + 8192 + v.gen.toNat * 65536)

/-- The master and the view a handle names for an ASID, none for an invalid one (13 R298). -/
def State.viewOf (s : State) (asid : BitVec 16) (h : Word) : Option (Master × View) :=
  s.masters.findSome? fun m => if m.asid = asid then (m.views.find? fun v => decide (v.handle m = h)).map fun v => (m, v) else none

/-- Change a master. -/
def State.onMaster (s : State) (tw slot : Nat) (f : Master → Master) : State :=
  { s with masters := s.masters.map fun m => if m.tower = tw ∧ m.slot = slot then f m else m }

/-- Change a view of a master. -/
def Master.onView (m : Master) (idx : Nat) (f : View → View) : Master :=
  { m with views := m.views.map fun v => if v.idx = idx then f v else v }

/-! ### Registering -/

/-- A view descriptor: its master and its view, neither registered (13 R291). -/
def viewDesc (bs : List Byte) : Master × View :=
  let q (n : Nat) : Word := qwordOf bs n
  ({ tower := 0, slot := 0, asid := 0, mbase := bitsOf (q 0) 0 56, mfmt := bitsOf (q 0) 56 5, nr := bitsOf (q 1) 0 16 + 1
     nc := bitsOf (q 1) 16 16 + 1, mstride := bitsOf (q 2) 0 56, epochs := [], dirty := [], views := [] },
   { idx := 0, gen := 0, vbase := bitsOf (q 3) 0 56, vfmt := bitsOf (q 3) 56 5, vlay := bitsOf (q 3) 61 2
     vstride := bitsOf (q 4) 0 56, sax := bitsOf (q 5) 0 2, sc := bitsOf (q 5) 2 2, rm := bitsOf (q 5) 4 3
     seed := (q 5).extractLsb' 32 32, shstride := bitsOf (q 6) 0 56, tiles := [] })

/-- The rows of a view: first byte and bytes (13 R291). -/
def View.rows (v : View) (m : Master) : List (Nat × Nat) :=
  (List.range m.tileCount).flatMap fun t => (List.range 64).map fun r => (v.rowAt m t r, v.rowBytes)

/-- The rows of a master (13 R290). -/
def Master.rows (m : Master) : List (Nat × Nat) := (List.range m.nr).map fun i => (m.mbase + i * m.mstride, m.nc * m.es)

/-- Code 1: a field not accepted, a zero field not zero, or a row of planes that is not aligned (13 R291, R299). -/
def viewBadFields (bs : List Byte) : Bool :=
  let q (n : Nat) : Word := qwordOf bs n
  let d := viewDesc bs
  let m := d.1
  let v := d.2
  let shard := if v.sax = 1 then m.nr else m.nc
  !bitsZero (q 0) 61 3 || !bitsZero (q 1) 32 32 || !bitsZero (q 2) 56 8 || !bitsZero (q 3) 63 1 || !bitsZero (q 4) 56 8
    || !bitsZero (q 5) 7 1 || !bitsZero (q 5) 10 22 || !bitsZero (q 6) 56 8 || decide (q 7 ≠ 0)
    || decide (m.mfmt ≠ 16 ∧ m.mfmt ≠ 18) || decide (m.nr % 64 ≠ 0) || decide (m.nc % 64 ≠ 0) || decide (m.mstride < m.nc * m.es)
    || decide (v.vlay = 1) || decide (v.sax = 3) || decide (v.rm ≠ 0 ∧ v.rm ≠ 4) || decide (bitsOf (q 5) 8 2 = 3)
    || decide (v.vlay = 2 ∧ v.vstride ≠ 0) || (decide (v.sax ≠ 0) && decide (shard % (64 * 2 ^ v.sc) ≠ 0))
    || (decide (v.vlay = 3) && (v.rows m).any fun r => decide (r.1 % 8 ≠ 0))

/-- Whether every page of some rows walks and has a bit of its leaf set (13 R299). -/
def State.pagesHave (s : State) (asid : BitVec 16) (bit : Nat) : List Nat → State × Bool
  | [] => (s, true)
  | p :: rest =>
    match s.walk asid (w64 (p * 65536)) .load with
    | (t, .fault _ _) => (t, false)
    | (t, .leaf l) => if l.bit bit then t.pagesHave asid bit rest else (t, false)

/-- The pages of rows, each once. -/
def rowPages (rows : List (Nat × Nat)) : List Nat :=
  (rows.flatMap fun r => (List.range ((r.1 + r.2 - 1) / 65536 + 1 - r.1 / 65536)).map fun k => r.1 / 65536 + k).eraseDups

/-- Whether two sets of rows share a byte. -/
def rowsMeet (a b : List (Nat × Nat)) : Bool :=
  a.any fun x => b.any fun y => decide (x.1 < y.1 + y.2) && decide (y.1 < x.1 + x.2)

/-- The lowest number below n that a list lacks. -/
def lowestFree (n : Nat) (used : List Nat) : Option Nat := (List.range n).find? fun k => !used.contains k

/-- The generation the next view of an index gets (13 R298). -/
def Tower.viewGen (t : Tower) (slot idx : Nat) : BitVec 16 :=
  match t.viewGens.find? fun g => decide (g.1 = slot) && decide (g.2.1 = idx) with
  | some g => g.2.2 + 1
  | none => 0

/-- A new master takes a slot: a VWSYNC that waits for an earlier master of the slot has no view tile left to wait for (13 R301). -/
def State.forgetSyncs (s : State) (tw slot : Nat) : State :=
  { s with ctxs := s.ctxs.map fun c : Ctx =>
      { c with window := c.window.map fun x =>
          { x with syncs := x.syncs.map fun p => if p.2.1 = tw ∧ p.2.2.1 = slot then (p.1, tw, slot, []) else p } } }

/-- VWREG's outcome for a descriptor: the handle of the new view, or its error code (13 R299). -/
def State.register (s : State) (c : Ctx) (bs : List Byte) : State × Word :=
  let err (n : Nat) : Word := 0x8000000000000000#64 ||| w64 n
  if viewBadFields bs then (s, err 1)
  else
    let m0 := (viewDesc bs).1
    let v0 := (viewDesc bs).2
    let pm := s.pagesHave c.asid 7 (rowPages m0.rows)
    let pv := if pm.2 then pm.1.pagesHave c.asid 8 (rowPages (v0.rows m0)) else pm
    if !pv.2 then (pv.1, err 2)
    else
      match pv.1.walk c.asid (w64 m0.mbase) .load with
      | (t, .fault _ _) => (t, err 2)
      | (t, .leaf l) =>
        let old := t.masters.find? fun m => decide (m.asid = c.asid) && decide (m.mbase = m0.mbase)
        let home : Option Nat := match old with
          | some m => some m.tower
          | none => if l.far then none else paTower (l.pa (w64 m0.mbase))
        match home with
        | none => (t, err 2)
        | some tw =>
          let slot : Option Nat := match old with
            | some m => some m.slot
            | none => lowestFree 64 ((t.masters.filter fun m => decide (m.tower = tw)).map fun m => m.slot)
          let views := (old.map fun m => m.views).getD []
          match slot, lowestFree 16 (views.map fun v => v.idx) with
          | some sl, some ix =>
            let geo (m : Master) : Bool :=
              decide (m.mfmt = m0.mfmt) && decide (m.nr = m0.nr) && decide (m.nc = m0.nc) && decide (m.mstride = m0.mstride)
            if old.any (fun m => !geo m) then (t, err 4)
            else if rowsMeet (v0.rows m0) m0.rows || views.any (fun v => rowsMeet (v0.rows m0) (v.rows m0)) then (t, err 5)
            else
              let gen := (t.tower tw).viewGen sl ix
              let pol : BitVec 2 := (qwordOf bs 5).extractLsb' 8 2
              let v := { v0 with idx := ix, gen := gen, tiles := List.replicate m0.tileCount ⟨none, false, pol⟩ }
              let m : Master := match old with
                | some m => { m with views := m.views ++ [v] }
                | none => { m0 with tower := tw, slot := sl, asid := c.asid, epochs := List.replicate m0.tileCount 0, views := [v] }
              let ms := (t.masters.filter fun x => !(decide (x.tower = tw) && decide (x.slot = sl))) ++ [m]
              let cause : Option (Word × BitVec 16) := some (c.recA, c.asid)
              let t := if old.isNone then t.forgetSyncs tw sl else t
              ({ (t.onTower tw fun x =>
                    { x with viewGens := (x.viewGens.filter fun g => !(decide (g.1 = sl) && decide (g.2.1 = ix))) ++ [(sl, ix, gen)] }) with
                  masters := ms
                  builds := t.builds ++ (List.range m0.tileCount).map fun n => ⟨tw, sl, n, ix, cause, none, none⟩ },
               v.handle m)
          | _, _ => (t, err 3)

/-- VWREG (13 R299). -/
def execVwreg (pr : Pred) (eff : BitVec 5) (t : Tgt) (s : State) : Host.Outcome State Fault Refusal :=
  fire s (.vwreg pr eff t) fun v u =>
    let i : Instr := .vwreg pr eff t
    let va := v.a.bits
    match descOperand va with
    | some (k, a) => u.gated eff fun w => w.notPerformed i k a
    | none =>
      match u.gate eff ⟨false, false, none, false, true⟩ with
      | .waits w => .waits w
      | .goes w =>
        match w.fctx with
        | none => .waits w
        | some c =>
          if w.viewWaits c.asid va 64 then .waits w
          else
            match w.taskRead c va 64 with
            | (x, .bad k a) => .fires (x.notPerformed i k a)
            | (x, .ok bs) =>
              let r := x.register c bs
              .fires (((r.1.performed eff).effect i .done).deliverS i r.2)

/-! ### Builds -/

/-- The formats for which a NaN fails a build (13 R297). -/
def nanFails (code : Nat) : Bool := decide (code ≤ 11) || [19, 20, 21, 24, 31].contains code

/-- Values of row r of a tile of a master, from the bytes of its snapshot. -/
def Master.values (m : Master) (bs : List Byte) : List Val :=
  (List.range 64).map fun j =>
    let x := bytesToNat ((bs.drop (j * m.es)).take m.es)
    if m.mfmt = 16 then FloatFmt.bf16.decode x else FloatFmt.fp32.decode x

/-- The first NaN among rows: row and column. -/
def firstNan (rows : List (List Val)) : Option (Nat × Nat) :=
  (rows.zipIdx).findSome? fun r => ((r.1.zipIdx).findSome? fun x : Val × Nat => match x.1 with
    | .nan _ => some x.2
    | _ => none).map fun j => (r.2, j)

/-- The bytes of the rows of a view tile, quantised from values (13 R294). -/
def View.encode (v : View) (m : Master) (tile : Nat) (rows : List (List Val)) : List (Nat × List Byte) :=
  let seed := v.seed ^^^ (BitVec.ofNat 32 tile * 0x9E3779B9#32)
  let seed := if seed = 0 then 0x9E3779B9#32 else seed
  let sig := if m.mfmt = 16 then 8 else 24
  let sto := decide (v.rm = 4) && narrows v.vfmt sig
  (rows.zipIdx).map fun r =>
    let gen := if sto then genMove (64 * r.2) seed else seed
    let dense := (fmtPut v.vfmt (if m.mfmt = 16 then .bf16 else .fp32) false (modesOf sto .rne gen 64) r.1).1
    (v.rowAt m tile r.2, if v.vlay = 3 then planesOf (fmtWidth v.vfmt) id v.vfmt 64 dense else natToBytes v.rowBytes dense)

/-- The tower on which a task's record stands. -/
def State.towerOf (s : State) (k : TaskKey) : Option Nat := (List.range Config.towers).find? fun tw => (s.task? tw k).isSome

/-- The task to whose ring the record of a failed build goes, with its tower; none when it is gone (13 R297). -/
def State.buildTask (s : State) (b : Build) : Option (Nat × TaskKey) :=
  match b.cause.map fun c => (⟨c.1, c.2⟩ : TaskKey) with
  | none => none
  | some k => (s.towerOf k).map fun tw => (tw, k)

/-- A build fails: its record goes to the ring of the task that caused it, or to the supervisor of the home tower; the bytes it has rewritten show with the failure. While the ring is full the engine pauses (13 R297; 16 R330, R331; 17 R339). -/
def State.buildFail (s : State) (m : Master) (v : View) (b : Build) (cause : Nat) (inner : Option Kind) (va : Word) (rc : Nat × Nat) (ep : BitVec 32)
    (rows : List (Nat × List Byte)) : State :=
  if (s.buildTask b).any fun x => s.ringBusy x.1 x.2 then s
  else
  let a : AfRec :=
    { kind := .viewfault, src := 4, eff := 0, iid := 0
      cause := BitVec.ofNat 16 (cause + ((inner.map Kind.code).getD 0) * 256), seq := 0, va := va, clause := 0
      ticket := v.handle m, owner := (b.cause.map fun c => c.1).getD 0, idx := BitVec.ofNat 32 b.tile
      idx2 := BitVec.ofNat 32 (rc.1 + rc.2 * 65536), asid := (b.cause.map fun c => c.2).getD m.asid, hyp := 0, data := [], load := none, tower := m.tower }
  let s := { s with builds := s.builds.map fun x => if x = b then { x with made := none, failed := some (ep, rows) } else x }
  (match s.buildTask b with
   | none => s.fqRecord a
   | some x => (s.engineFault { a with tower := x.1 }).1).tick

/-- Read the rows of a master tile: the snapshot (13 R294). -/
def State.snapshot (s : State) (m : Master) (tile : Nat) : List Nat → State × Except (Kind × Word) (List (List Byte))
  | [] => (s, .ok [])
  | r :: rest =>
    let tc := m.nc / 64
    let va := w64 (m.mbase + (64 * (tile / tc) + r) * m.mstride + 64 * (tile % tc) * m.es)
    match s.vread m.asid va (64 * m.es) 0 with
    | (t, .bad k a) => (t, .error (k, a))
    | (t, .ok bs) =>
      match t.snapshot m tile rest with
      | (u, .ok bss) => (u, .ok (bs :: bss))
      | r => r

/-- The engine writes bytes of a view, the weight store open or closed (16 R330). -/
def State.viewPutParts (s : State) (asid : BitVec 16) : List (Word × Nat) → List Byte → State × Option (Kind × Word)
  | [], _ => (s, none)
  | (va, n) :: rest, bs =>
    match s.walk asid va .load with
    | (t, .fault k a) => (t, some (k, a))
    | (t, .leaf l) =>
      if !t.live (l.pa va) then (t, some (.notlive, va))
      else if t.mergeBad (l.pa va) n then (t.eccEntry (l.pa va), some (.eccunc, va))
      else ((t.pwrite (l.pa va) (bs.take n)).backInvalidate (l.pa va) n).viewPutParts asid rest (bs.drop n)

/-- One row of a view tile. -/
def State.viewPut (s : State) (asid : BitVec 16) (va : Word) (bs : List Byte) : State × Option (Kind × Word) :=
  s.viewPutParts asid (pieces (bs.length / 65536 + 2) va bs.length) bs

/-- The rows of a view tile, up to the first that faults (13 R297). -/
def State.viewPuts (s : State) (asid : BitVec 16) : List (Nat × List Byte) → State × Option (Kind × Word)
  | [] => (s, none)
  | (a, bs) :: rest =>
    match s.viewPut asid (w64 a) bs with
    | (t, some e) => (t, some e)
    | (t, none) => t.viewPuts asid rest

/-- VIEW_BUILD: the engine takes the snapshot of the first tile it owes a build and quantises it (13 R294, R297). -/
def execViewBuild (tw : Nat) (s : State) : Host.Outcome State Fault Refusal :=
  match s.builds.find? fun b => decide (b.tower = tw) && b.made.isNone && b.failed.isNone with
  | none => .next s
  | some b =>
    let drop (t : State) : State := { t with builds := t.builds.filter fun x => !decide (x = b) }
    match (s.masters.find? fun m => decide (m.tower = tw) && decide (m.slot = b.slot)).bind fun m =>
        (m.views.find? fun v => decide (v.idx = b.view)).map fun v => (m, v) with
    | none => .next (drop s).tick
    | some (m, v) =>
      let ep := (m.epochs[b.tile]?).getD 0
      match s.snapshot m b.tile (List.range 64) with
      | (t, .error (k, va)) => .next (t.buildFail m v b 3 (some k) va (0, 0) ep [])
      | (t, .ok bss) =>
        let rows := bss.map m.values
        match (if nanFails v.vfmt then firstNan rows else none) with
        | some (r, j) =>
          let tc := m.nc / 64
          let part := if (t.free 3).getLsbD 0 then r else 0
          .next (t.buildFail m v b 1 none 0 (64 * (b.tile / tc) + r, 64 * (b.tile % tc) + j) ep ((v.encode m b.tile rows).take part))
        | none =>
          .next { t with builds := t.builds.map fun x => if x = b then { x with made := some (v.encode m b.tile rows, ep) } else x }.tick

/-- VIEW_PUBLISH: the built bytes and their epoch appear at one instant; a build overtaken by an advance may be abandoned; a failed one shows, with the bytes it has rewritten, once its record is out; builds of one tile of a view show in order (13 R294, R297; 16 R330, R331). -/
def execViewPublish (tw : Nat) (s : State) : Host.Outcome State Fault Refusal :=
  let out (b : Build) : Bool := !s.recq.any fun r => decide (r.src = 4) &&
    decide (r.idx = BitVec.ofNat 32 b.tile) && decide (bitsOf r.ticket 0 13 = b.view + b.slot * 16 + b.tower * 1024)
  let first (b : Build) : Bool := (s.builds.takeWhile fun x => !decide (x = b)).all fun x =>
    !(decide (x.tower = b.tower) && decide (x.slot = b.slot) && decide (x.tile = b.tile) && decide (x.view = b.view))
  match s.builds.find? fun b => decide (b.tower = tw) && (b.made.isSome || (b.failed.isSome && out b)) && first b with
  | none => .next s
  | some b =>
    let drop (t : State) : State := { t with builds := t.builds.filter fun x => !decide (x = b) }
    let set (t : State) (ep : BitVec 32) (bad : Bool) : State :=
      t.onMaster tw b.slot fun m => m.onView b.view fun v =>
        { v with tiles := v.tiles.modify b.tile fun x => { x with epoch := some ep, faulted := bad } }
    match b.failed, b.made, (s.masters.find? fun m => decide (m.tower = tw) && decide (m.slot = b.slot)).bind fun m =>
        (m.views.find? fun v => decide (v.idx = b.view)).map fun v => (m, v) with
    | some (ep, rows), _, some (m, _) => .next (drop (set (s.viewPuts m.asid rows).1 ep true)).tick
    | none, some (rows, ep), some (m, v) =>
      if decide ((m.epochs[b.tile]?).getD 0 ≠ ep) && (s.free 4).getLsbD 0 then .next (drop s).tick
      else
        match s.viewPuts m.asid rows with
        | (t, some (k, va)) =>
          let some_ := rows.takeWhile fun r => (s.viewPuts m.asid [r]).2.isNone
          .next ({ t with mem := s.mem, snoop := s.snoop, outbox := s.outbox }.buildFail m v b 2 (some k) va (0, 0) ep some_)
        | (t, none) => .next (drop (set t ep false)).tick
    | _, _, _ => .next (drop s).tick

/-! ### Dropping, policies, questions -/

/-- VWDROP is performed: a build that was made is published or abandoned, the index is freed, and with the last view the slot and its epochs (13 R300). -/
def State.dropView (s : State) (asid : BitVec 16) (h : Word) : State :=
  match s.viewOf asid h with
  | none => s
  | some (m, v) =>
    let mine (b : Build) : Bool := decide (b.tower = m.tower) && decide (b.slot = m.slot) && decide (b.view = v.idx)
    let s := if (s.free 5).getLsbD 0 then
        (s.builds.filter mine).foldl (fun t b => match b.made with
          | some (rows, _) => (t.viewPuts m.asid rows).1
          | none => t) s
      else s
    let s := { s with builds := s.builds.filter fun b => !mine b }
    let s := s.onMaster m.tower m.slot fun x => { x with views := x.views.filter fun y => !decide (y.idx = v.idx) }
    { s with masters := s.masters.filter fun x => !x.views.isEmpty }

/-- VWDROP (13 R300). -/
def execVwdrop (pr : Pred) (eff : BitVec 5) (s : State) : Host.Outcome State Fault Refusal :=
  fire s (.vwdrop pr eff) fun v u => .fires (u.effect (.vwdrop pr eff) (.vwdrop v.a.bits))

/-- VWPOL is performed (13 R303). -/
def State.setPolicy (s : State) (asid : BitVec 16) (h b : Word) : State :=
  match s.viewOf asid h with
  | none => s
  | some (m, v) =>
    let pol : BitVec 2 := b.setWidth 2
    s.onMaster m.tower m.slot fun x => x.onView v.idx fun y =>
      { y with tiles := (y.tiles.zipIdx).map fun p : VTile × Nat =>
          if b.getLsbD 48 || decide (p.2 = bitsOf b 16 32) then { p.1 with pol := pol } else p.1 }

/-- VWPOL (13 R303). -/
def execVwpol (pr : Pred) (eff : BitVec 5) (s : State) : Host.Outcome State Fault Refusal :=
  fire s (.vwpol pr eff) fun v u =>
    let b := v.b.bits
    .fires (if bitsOf b 0 2 = 3 ∨ !bitsZero b 2 14 ∨ !bitsZero b 49 15 then u.effectPoison (.vwpol pr eff) .illop
      else u.effect (.vwpol pr eff) (.vwpol v.a.bits b))

/-- VWQRY (13 R302). The epoch of a view tile that has never been built is a free value (log 13). -/
def execVwqry (pr : Pred) (eff : BitVec 5) (master : Bool) (t : Tgt) (s : State) : Host.Outcome State Fault Refusal :=
  fire s (.vwqry pr eff master t) fun v u =>
    let i : Instr := .vwqry pr eff master t
    match u.fctx with
    | none => .waits u
    | some c =>
      let answer (w : Word) : Act := .fires ((u.effect i .done).deliverS i w)
      match u.viewOf c.asid v.a.bits with
      | none => answer (BitVec.allOnes 64)
      | some (m, x) =>
        let n := v.b.bits.toNat
        match x.tiles[n]?, m.epochs[n]? with
        | some y, some ep =>
          let st := if y.faulted then 2 else if y.fresh ep then 0 else 1
          let e := if master then ep else y.epoch.getD ((u.free 6).setWidth 32)
          answer (w64 (e.toNat + st * 2 ^ 32))
        | _, _ => answer (BitVec.allOnes 64)

/-- The view tiles a VWSYNC waits for: none while one of them is neither FAULTED nor at its target, else how many are FAULTED (13 R301). -/
def State.settled (s : State) (tw slot : Nat) (targets : List (Nat × BitVec 32)) : Option Nat :=
  match s.masters.find? fun m => decide (m.tower = tw) && decide (m.slot = slot) with
  | none => some 0
  | some m =>
    let tiles : List (VTile × BitVec 32) := targets.flatMap fun g => m.views.map fun v => ((v.tiles[g.1]?).getD ⟨none, false, 0⟩, g.2)
    if tiles.all (fun p => p.1.faulted || (match p.1.epoch with
      | some e => decide ((e - p.2).toNat < 2 ^ 31)
      | none => false)) then some (tiles.filter fun p => p.1.faulted).length
    else none

/-- The master of a slot as it is now, if it still stands. -/
def State.masterNow (s : State) (m : Master) : Option Master := s.masters.find? fun y => decide (y.tower = m.tower) && decide (y.slot = m.slot)

/-- VWSYNC advances the tiles it names, those that are dirty or all of them when it forces, and aims at the epochs they have then (13 R301). -/
def State.syncAdvance (s : State) (c : Ctx) (m : Master) (named : List Nat) (force : Bool) : State × List (Nat × BitVec 32) :=
  let dirty (n : Nat) : Bool := ((s.masterNow m).map fun y => y.dirty.any fun d => decide (d.1 = n)).getD false
  let t := (named.filter fun n => force || dirty n).foldl (fun y n => y.advance m.tower m.slot n (some (c.recA, c.asid))) s
  (t, named.map fun n => (n, (((t.masterNow m).getD m).epochs[n]?).getD 0))

/-- VWSYNC: a release, the advances, and the wait for their builds; an invalid handle or tile is answered at once, without a wait for builds, and the release is performed all the same (13 R301). -/
def execVwsync (pr : Pred) (eff : BitVec 5) (force : Bool) (t : Tgt) (s : State) : Host.Outcome State Fault Refusal :=
  fire s (.vwsync pr eff force t) fun v u =>
    let i : Instr := .vwsync pr eff force t
    let b := v.b.bits
    match u.fctx, u.finst with
    | some c, some x =>
      match x.syncs.find? fun p => decide (p.1 = u.focus.iid) with
      | some (_, tw, slot, targets) =>
        match u.settled tw slot targets with
        | none => .waits u
        | some n => .fires (((u.performed eff).effect i .done).deliverS i (w64 n))
      | none =>
        if !bitsZero b 32 32 then u.gated eff fun w => w.effectBad i .illop
        else
          match u.gate eff ⟨true, false, none, false, true⟩ with
          | .waits w => .waits w
          | .goes w =>
            let w := w.released c.recA c.asid
            let bad : Act := .fires (((w.performed eff).effect i .done).deliverS i (BitVec.allOnes 64))
            match w.viewOf c.asid v.a.bits with
            | none => bad
            | some (m, _) =>
              if b.toNat ≠ 0xFFFFFFFF ∧ m.tileCount ≤ b.toNat then bad
              else
                let r := w.syncAdvance c m (if b.toNat = 0xFFFFFFFF then List.range m.tileCount else [b.toNat]) force
                match r.1.settled m.tower m.slot r.2 with
                | some n => .fires (((r.1.performed eff).effect i .done).deliverS i (w64 n))
                | none =>
                  .waits ((r.1.onInst fun y => { y with syncs := y.syncs ++ [(r.1.focus.iid, m.tower, m.slot, r.2)] }).beginWait)
    | _, _ => .waits u

/-- The record of a failed build is replayed: the tile is built again; the view may be another address space's, its master on a global page (13 R297; 17 R341). -/
def State.rebuild (s : State) (c : Ctx) (handle : Word) (tile : Nat) : State :=
  match s.masters.findSome? fun m : Master => if s.sameByte m.asid c.asid m.mbase then (m.views.find? fun v => decide (v.handle m = handle)).map fun v => (m, v) else none with
  | none => s
  | some (m, v) => { s with builds := s.builds ++ [⟨m.tower, m.slot, tile, v.idx, some (c.recA, c.asid), none, none⟩] }

end Sys2Proof.Machine
end

