-- ==== Sys2Proof/Machine/Clause.lean ====
section
/-! DEFINITION. Sys2Proof/Machine/Clause.lean: clause headers and words as a fetch finds them, their checks, a new instance, and a new context (01 R10 to R13, R28, R30; 02 R46; 14 R308). -/

namespace Sys2Proof.Machine

/-- A clause header from its 16 bytes (01 R11). -/
def headerOf (bs : List Byte) : Header :=
  let q0 := qwordOf bs 0
  { gwmask := qwordOf bs 1
    wwmask := q0.extractLsb' 48 16
    effmask := q0.extractLsb' 16 32
    version := q0.extractLsb' 12 4
    nchunk := q0.extractLsb' 10 2
    kind := q0.extractLsb' 8 2
    reserved := q0.extractLsb' 1 7
    nopred := q0.getLsbD 0 }

/-- The 32-bit words of the chunks of a clause (01 R10; 02 R33). -/
def wordsOf (bs : List Byte) : List (BitVec 32) :=
  (List.range (bs.length / 4)).map fun k => BitVec.ofNat 32 (bytesToNat ((bs.drop (4 * k)).take 4))

/-- Bytes of the chunks that follow a header (01 R10). -/
def Header.size (h : Header) : Nat := 128 * (h.nchunk.toNat + 1)

/-- The header check (01 R12): `pinned` for a fabric node, `handler` for the first clause of a handler or an upcall. -/
def Header.bad (h : Header) (pinned handler : Bool) : Bool :=
  decide (h.version ≠ 1) || decide (h.kind = 3) || decide (h.reserved ≠ 0)
    || (if pinned then decide (h.kind ≠ 1) else decide (h.kind = 1)) || (handler && decide (h.kind ≠ 2))

/-- The mark a word gives its clause: ILLOP for an illegal word, CLAUSEFMT for a target beyond the clause (01 R13; 02 R46; 14 R314). -/
def wordMark (pinned : Bool) (n : Nat) (w : BitVec 32) : Option Kind :=
  match decodeWord w.toNat with
  | .error _ => some .illop
  | .ok i =>
    let edge : Bool := match i with
      | .tloadEdge _ _ _ _ => true
      | .tstoreEdge _ _ _ _ => true
      | _ => false
    if edge && !pinned then some .illop
    else if i.targets.any fun t => decide (n ≤ t.2.toNat) then some .clausefmt
    else none

/-- The mark a clause carries from its fetch (01 R12, R13). -/
def clauseMark (h : Header) (words : List (BitVec 32)) (pinned handler : Bool) : Option Kind :=
  if h.bad pinned handler then some .clausefmt else words.findSome? fun w => wordMark pinned words.length w

/-- A header of zeros, for a clause whose header could not be read. -/
def Header.zero : Header := ⟨0, 0, 0, 0, 0, 0, 0, false⟩

/-- Whether a clause holds an instruction that writes control registers at its commit (01 R27). -/
def wordsCtl (words : List (BitVec 32)) : Bool :=
  words.any fun w => match decodeWord w.toNat with
    | .ok (.cwrite _ _ _) => true
    | .ok (.henter _ _) => true
    | .ok (.hleave _ _) => true
    | .ok (.rft _ _) => true
    | .ok (.tprio _ _) => true
    | _ => false

/-- A clause instance as it is placed in the window (01 R24). -/
def Inst.place (uid : Nat) (addr : Word) (h : Header) (words : List (BitVec 32)) (mark : Option Kind) (base : BitVec 32)
    (oldestAt : Option Nat) (predicted : Word) (ras : List Word) : Inst where
  uid := uid
  addr := addr
  hdr := h
  words := words
  mark := mark
  toks := []
  fired := []
  waits := []
  gw := []
  ww := []
  effs := []
  branch := none
  rft := false
  flags := 0
  loads := []
  poisonVa := []
  sent := []
  performed := []
  snap := none
  newHyps := []
  grants := []
  edgeRes := []
  taskRes := 0
  forecast := []
  ctlWr := wordsCtl words
  oldestAt := oldestAt
  linkDead := []
  streamBase := base
  syncs := []
  predicted := predicted
  ras := ras
  misp := none
  draws := []
  kept := []
  mustWait := []

/-- A context with every register at its initial value (01 R28, R30). -/
def Ctx.blank (id : Nat) (kind : CtxKind) (tower base width : Nat) (recA : Word) (asid : BitVec 16) (now : Nat) : Ctx where
  id := id
  kind := kind
  tower := tower
  base := base
  width := width
  recA := recA
  asid := asid
  g := Vector.replicate 64 0
  w := Vector.replicate 16 0
  pc := 0
  hyp := 0
  prio := 0
  est := 0
  hint := 0
  upcall := 0
  afBase := 0
  afHead := 0
  afTail := 0
  rm := 0
  ftz := false
  fpflags := 0
  seed := 0
  scr := 0
  resume := 0
  causeCode := 0
  causeSrc := 0
  causeMode := 0
  endp := false
  faddr := 0
  dbgStep := false
  dbgBrk := false
  gens := (List.range width).map (genSeed 0)
  window := []
  needHandler := false
  predictor := []
  ras := []
  scratch := []
  badScratch := []
  pend := []
  l1 := []
  watch := none
  clFetch := 0
  clCommit := 0
  clSquash := 0
  brMisp := 0
  recCount := 0
  upCount := 0
  dispatchedAt := now
  commitCount := 0
  lateSeq := 0
  streamCount := 0
  hmsg := none
  handlerAt := 0
  haltReq := none
  lost := false
  eccStop := false
  frozen := false
  afterStop := []
  leaving := none
  lastDone := 0
  lastEng := []
  nodes := []
  drainAt := none
  shielded := false
  parked := false
  also := 0
  heldIn := []
  newPrio := none
  iter := 0
  retired := false

end Sys2Proof.Machine
end

