-- ==== Sys2Proof/Machine/Fabric.lean ====
section
/-! DEFINITION. Sys2Proof/Machine/Fabric.lean: configuration images, their reading, their check, and the placing of a fabric load (14 R305 to R323). -/

namespace Sys2Proof.Machine

/-! ### The image -/

/-- A streamer node of an image: its two words, its program and the descriptors of its commands as far as they were read (14 R316, R318). -/
structure IStream where
  s0 : Word
  s1 : Word
  prog : List (Word × Word)
  descs : List (List Byte × List Byte)

/-- An image as far as it was read (14 R317, R318, R319). -/
structure Image where
  h0 : Word
  h1 : Word
  h2 : Word
  h3 : Word
  cells : List ((Word × Word) × Option FCell × List Byte)
  nodes : List Word
  streams : List IStream
  edges : List (Word × Word)
  /-- The clause whose chunks could not all be read, with the words that could. -/
  part : Option FCell
  /-- A read failed (code 7). -/
  pageFault : Bool

/-- Columns and rows of the rectangle. -/
def Image.w (m : Image) : Nat := bitsOf m.h0 8 3 + 1
/-- Rows. -/
def Image.h (m : Image) : Nat := bitsOf m.h0 12 3 + 1
/-- Counts of a header. -/
def hdrCell (h0 : Word) : Nat := bitsOf h0 16 6
/-- M-node nodes. -/
def hdrMn (h0 : Word) : Nat := bitsOf h0 24 7
/-- Streamer nodes. -/
def hdrStr (h0 : Word) : Nat := bitsOf h0 32 3
/-- Edges. -/
def hdrEdge (h0 : Word) : Nat := bitsOf h0 40 7

/-- Read qwords as a load of a task. -/
def State.readQs (s : State) (c : Ctx) (va : Word) (n : Nat) : State × Option (List Word) :=
  if n = 0 then (s, some [])
  else
    match s.taskRead c va (8 * n) with
    | (t, .ok bs) => (t, some ((List.range n).map fun k => qwordOf bs k))
    | (t, .bad _ _) => (t, none)

/-- Read qwords one after another up to the first that fails. -/
def State.readEach (s : State) (c : Ctx) (va : Word) : (n : Nat) → State × List Word × Bool
  | 0 => (s, [], false)
  | n + 1 =>
    match s.taskRead c va 8 with
    | (t, .bad _ _) => (t, [], true)
    | (t, .ok bs) =>
      let r := t.readEach c (va + 8) n
      (r.1, qwordOf bs 0 :: r.2.1, r.2.2)

/-- The qwords that can be read, and whether one cannot (14 R319). -/
def State.readUpTo (s : State) (c : Ctx) (va : Word) (n : Nat) : State × List Word × Bool :=
  match s.readQs c va n with
  | (t, some ws) => (t, ws, false)
  | (t, none) => t.readEach c va n

/-- Read bytes as a load of a task. -/
def State.readBs (s : State) (c : Ctx) (va : Word) (n : Nat) : State × Option (List Byte) :=
  match s.taskRead c va n with
  | (t, .ok bs) => (t, some bs)
  | (t, .bad _ _) => (t, none)

/-- The pairs of a list of words; a last word alone, read before a failure, pairs with zero. -/
def pairs : List Word → List (Word × Word)
  | a :: b :: rest => (a, b) :: pairs rest
  | [a] => [(a, 0)]
  | [] => []

/-- Read a pinned clause; where its chunks fail, what of it was read (14 R307, R319). -/
def State.readClause (s : State) (c : Ctx) (va : Word) (pos : Nat) : State × Option FCell × Option FCell :=
  match s.readBs c va 16 with
  | (t, none) => (t, none, none)
  | (t, some hb) =>
    let h := headerOf hb
    match t.readBs c (va + 16) h.size with
    | (u, some bs) => (u, some ⟨va, pos, h, wordsOf bs⟩, none)
    | (u, none) =>
      let r := u.readEach c (va + 16) (h.size / 8)
      (r.1, none, some ⟨va, pos, h, wordsOf (r.2.1.flatMap fun q => natToBytes 8 q.toNat)⟩)

/-- What reading the cell nodes gives: each with its clause and its register block, the clause read in part, whether a read failed. -/
structure CellsRead where
  st : State
  cells : List ((Word × Word) × Option FCell × List Byte)
  part : Option FCell
  bad : Bool

/-- Read the clauses and the register blocks of the cell nodes, until one fails. -/
def State.readCells (s : State) (c : Ctx) : List (Word × Word) → CellsRead
  | [] => ⟨s, [], none, false⟩
  | p :: rest =>
    let r := s.readClause c (w64 (bitsOf p.1 4 52 * 16)) (bitsOf p.1 56 5)
    let regs := w64 (bitsOf p.2 6 50 * 64)
    let q := match r.2.1 with
      | none => (r.1, none)
      | some _ => if regs = 0 then (r.1, some []) else r.1.readBs c regs 1536
    match q.2 with
    | none => ⟨q.1, (p, r.2.1, []) :: rest.map (fun x => (x, none, [])), r.2.2, true⟩
    | some bs =>
      let z := q.1.readCells c rest
      { z with cells := (p, r.2.1, bs) :: z.cells }

/-- Read the descriptors of a streamer program, until one fails. -/
def State.readDescs (s : State) (c : Ctx) : List (Word × Word) → State × List (List Byte × List Byte) × Bool
  | [] => (s, [], false)
  | (a, b) :: rest =>
    match s.readBs c a 64 with
    | (t, none) => (t, [], true)
    | (t, some x) =>
      match t.readBs c b 64 with
      | (u, none) => (u, [], true)
      | (u, some y) =>
        let z := u.readDescs c rest
        (z.1, (x, y) :: z.2.1, z.2.2)

/-- Read the programs of the streamer nodes, until a read fails. -/
def State.readStreams (s : State) (c : Ctx) (dead : Bool) : List (Word × Word) → State × List IStream × Bool
  | [] => (s, [], dead)
  | (s0, s1) :: rest =>
    if dead then
      let z := s.readStreams c true rest
      (z.1, ⟨s0, s1, [], []⟩ :: z.2.1, true)
    else
      let r := s.readUpTo c (w64 (bitsOf s0 6 50 * 64)) (2 * (bitsOf s0 56 4 + 1))
      let d := if r.2.2 then (r.1, [], true) else r.1.readDescs c (pairs r.2.1)
      let z := d.1.readStreams c d.2.2 rest
      (z.1, ⟨s0, s1, pairs r.2.1, d.2.1⟩ :: z.2.1, z.2.2)

/-! ### The check -/

/-- The header breaks code 1 (14 R317, R319). -/
def headerFormat (h0 h1 h2 h3 origin : Word) : Bool :=
  let w := bitsOf h0 8 3 + 1
  let h := bitsOf h0 12 3 + 1
  let age := bitsOf h1 0 20
  decide (bitsOf h0 0 4 ≠ 1) || !bitsZero h0 4 4 || !bitsZero h0 11 1 || !bitsZero h0 15 1 || !bitsZero h0 22 2 || !bitsZero h0 31 1
    || !bitsZero h0 35 5 || !bitsZero h0 47 17 || !bitsZero h1 20 12 || !bitsZero h2 0 3 || !bitsZero h2 56 8
    || !bitsZero h3 0 13 || !bitsZero h3 56 8 || decide (16 < w * h) || decide (2 * w * h < hdrCell h0) || decide (4 * w * h < hdrMn h0)
    || decide (4 < hdrStr h0) || decide (64 < hdrEdge h0) || (decide (age ≠ 0) && (decide (age < 16) || decide (1000000 < age)))
    || !bitsZero origin 6 58 || decide (8 < bitsOf origin 0 3 + w) || decide (8 < bitsOf origin 3 3 + h)

/-- The node and edge words break code 1 (14 R316, R318, R319). -/
def Image.wordFormat (m : Image) : Bool :=
  (m.cells.any fun c => !bitsZero c.1.1 0 4 || !bitsZero c.1.1 61 3 || decide (4 < bitsOf c.1.2 0 3) || !bitsZero c.1.2 4 2 || !bitsZero c.1.2 56 8)
    || (m.nodes.any fun n => !bitsZero n 6 2 || !bitsZero n 13 3 || !bitsZero n 20 44)
    || (m.streams.any fun q => !bitsZero q.s0 0 6 || !bitsZero q.s0 61 3 || !bitsZero q.s1 32 32
        || q.prog.any fun p => !bitsZero p.1 0 6 || !bitsZero p.2 0 6)
    || (m.edges.any fun e => !bitsZero e.1 7 1 || !bitsZero e.1 13 3 || !bitsZero e.1 23 1 || !bitsZero e.1 29 3 || !bitsZero e.1 38 2
        || !bitsZero e.1 47 1 || !bitsZero e.1 49 7 || decide (64 < bitsOf e.1 40 7))

/-- An edge of the image (14 R318). -/
def edgeOf (e : Word × Word) : FEdge :=
  let wide := e.1.getLsbD 48
  { pnode := bitsOf e.1 0 7, pport := bitsOf e.1 8 5, cnode := bitsOf e.1 16 7, cport := bitsOf e.1 24 5
    depth := bitsOf e.1 32 6 + 1, q := bitsOf e.1 56 8 + 1, wide := wide
    toks := List.replicate (bitsOf e.1 40 7) ⟨.value, e.2.setWidth 512, 0⟩, headAt := none }

/-- Whether an instruction may stand in a pinned clause (14 R308). -/
def pinnedOk (w : BitVec 32) (i : Instr) : Bool :=
  let op := w.toNat / 2 ^ 25
  let xop := w.toNat / 2 ^ 14 % 16
  let branch : Bool := match i with
    | .bro _ _ off => decide (off = 0)
    | .exitt _ => true
    | _ => !i.isBranch
  branch && !([0x5C, 0x5D, 0x5E, 0x60, 0x61, 0x63, 0x64].contains op) && !(decide (op = 0x65) && decide (xop ≤ 5))
    && !(decide (op = 0x66) && decide (xop ≠ 15))

/-- The instructions of a clause, none for an illegal word. -/
def FCell.instrs (c : FCell) : List (Option Instr) :=
  c.words.map fun w => match decodeWord w.toNat with
    | .ok i => some i
    | .error _ => none

/-- The instructions that deliver to a slot (02 R57). -/
def producers (is : List (Option Instr)) (slot : Slot) (iid : Nat) : List Nat :=
  (List.range is.length).filter fun k =>
    match (is[k]?).bind id with
    | some i => i.targets.any fun t => decide (t.1 = slot) && decide (t.2.toNat = iid)
    | none => false

/-- The firing condition of an instruction under an assignment of the predicate variables, by producers to a depth (02 R57). -/
def firesUnder (is : List (Option Instr)) (env : Nat → Bool) : (depth : Nat) → (iid : Nat) → Bool
  | 0, _ => false
  | d + 1, iid =>
    match (is[iid]?).bind id with
    | none => false
    | some i =>
      ((i.reads.map fun r => r.1).all fun sl => (producers is sl iid).any fun p => firesUnder is env d p) &&
        (match i.pred with
         | .always => true
         | .onTrue => (producers is .p iid).any fun p => firesUnder is env d p && env p
         | .onFalse => (producers is .p iid).any fun p => firesUnder is env d p && !env p)

/-- The instructions an instruction depends on, with itself. -/
def coneOf (is : List (Option Instr)) : (depth : Nat) → List Nat → List Nat
  | 0, xs => xs
  | d + 1, xs =>
    let ys := xs.flatMap fun k => match (is[k]?).bind id with
      | some i => (allSlots i).flatMap fun sl => producers is sl k
      | none => []
    let zs := (xs ++ ys).eraseDups
    if zs.length = xs.length then xs else coneOf is d zs

/-- Whether an instruction fires for every assignment; a condition on more than 16 variables is not decided (14 R319). -/
def alwaysFires (is : List (Option Instr)) (iid : Nat) : Bool :=
  let cone := coneOf is 128 [iid]
  let vars := (cone.flatMap fun k => producers is .p k).eraseDups
  if 16 < vars.length then false
  else (List.range (2 ^ vars.length)).all fun v =>
    firesUnder is (fun p => match vars.findIdx? fun x => decide (x = p) with
      | some j => v.testBit j
      | none => false) 128 iid

/-- Ports of the SPOPs and of the SPUSHes of a clause, in order of their instructions. -/
def FCell.pops (c : FCell) : List Nat :=
  c.instrs.filterMap fun i => match i with
    | some (.spop _ p _) => some p.toNat
    | _ => none
/-- Ports of the SPUSHes. -/
def FCell.pushes (c : FCell) : List Nat :=
  c.instrs.filterMap fun i => match i with
    | some (.spush _ p) => some p.toNat
    | _ => none

/-- The header and the words of a pinned clause that have been read break code 2 (14 R308, R319). -/
def FCell.badPart (c : FCell) (k : Nat) (es : List FEdge) : Bool :=
  c.hdr.bad true false
    || (c.words.any fun w => (wordMark true (c.hdr.size / 4) w).isSome || (match decodeWord w.toNat with
        | .ok i => !pinnedOk w i
        | .error _ => true))
    || (c.pops.any fun p => !es.any fun e => decide (e.cnode = k) && decide (e.cport = p))
    || (c.pushes.any fun p => !es.any fun e => decide (e.pnode = k) && decide (e.pport = p))
    || decide (c.pops.eraseDups.length ≠ c.pops.length) || decide (c.pushes.eraseDups.length ≠ c.pushes.length)

/-- A pinned clause breaks code 2 (14 R308, R319). -/
def FCell.badClause (c : FCell) (k : Nat) (es : List FEdge) : Bool :=
  c.badPart k es
    || ((c.instrs.zipIdx).any fun p => match p.1 with
        | some (.spush _ _) => !alwaysFires c.instrs p.2
        | _ => false)

/-- The numbers of cell nodes, and of cell and M-node nodes together. -/
def Image.nm (m : Image) : Nat := m.cells.length + m.nodes.length

/-- Whether an instruction or a program uses a port (14 R319); a clause that was not read counts as using it. -/
def Image.uses (m : Image) (node port : Nat) (out : Bool) : Bool :=
  if node < m.cells.length then
    match (m.cells[node]?).bind fun c => c.2.1 with
    | none => true
    | some c => if out then c.pushes.contains port else c.pops.contains port
  else if node < m.nm then
    match (m.nodes[node - m.cells.length]?).bind fun n => (m.cells[bitsOf n 8 5]?).bind fun c => c.2.1 with
    | none => true
    | some c => c.instrs.any fun i => match i with
      | some (.tstoreEdge _ _ _ p) => out && decide (p.toNat = port)
      | some (.tloadEdge _ _ _ p) => !out && decide (p.toNat = port)
      | _ => false
  else
    match m.streams[node - m.nm]? with
    | none => false
    | some q => q.s0.getLsbD 60 != out

/-- Nodes, ports, positions and edges break code 3 (14 R309, R319). -/
def Image.badBinding (m : Image) (es : List FEdge) : Bool :=
  let rw := m.w * m.h
  let cpos := m.cells.map fun c => bitsOf c.1.1 56 5
  let mpos := m.nodes.map fun n => bitsOf n 0 6
  let drv := m.nodes.map fun n => (bitsOf n 8 5, bitsOf n 16 4)
  let total := m.nm + m.streams.length
  let ends := es.flatMap fun e => [(e.pnode, e.pport, true), (e.cnode, e.cport, false)]
  let isM (n : Nat) : Bool := decide (m.cells.length ≤ n) && decide (n < m.nm)
  decide (cpos.eraseDups.length ≠ cpos.length) || decide (mpos.eraseDups.length ≠ mpos.length)
    || (cpos.any fun p => decide (2 * rw ≤ p)) || (mpos.any fun p => decide (4 * rw ≤ p))
    || (drv.any fun d => decide (m.cells.length ≤ d.1)) || decide (drv.eraseDups.length ≠ drv.length)
    || (ends.any fun e => decide (total ≤ e.1) || (decide (m.cells.length ≤ e.1) && decide (7 < e.2.1))
        || (decide (m.nm ≤ e.1) && decide (e.2.1 ≠ 0)) || !m.uses e.1 e.2.1 e.2.2)
    || decide ((ends.map fun e => (e.1, e.2.1)).eraseDups.length ≠ ends.length)
    || (es.any fun e =>
        let mend := isM e.pnode || isM e.cnode
        let send := decide (m.nm ≤ e.pnode) || decide (m.nm ≤ e.cnode)
        (decide (e.q ≠ 1) && !mend) || ((mend || send) && !e.wide) || decide (e.depth < e.toks.length)
          || (mend && decide (e.toks.length % e.q ≠ 0)))

/-- Remove the arcs into vertices nothing leads into, over and over: what is left holds a cycle. -/
def cyclicArcs : (fuel : Nat) → List (Nat × Nat) → Bool
  | 0, arcs => !arcs.isEmpty
  | n + 1, arcs => cyclicArcs n (arcs.filter fun a => arcs.any fun b => decide (b.2 = a.1))

/-- The unmarked arcs of the token graph (14 R320). -/
def Image.arcs (m : Image) (es : List FEdge) : List (Nat × Nat) :=
  ((m.nodes.zipIdx).map fun n => (bitsOf n.1 8 5, m.cells.length + n.2)) ++ es.flatMap fun e =>
    (if e.toks.length < e.q then [(e.pnode, e.cnode)] else []) ++ (if e.depth - e.toks.length < 1 then [(e.cnode, e.pnode)] else [])

/-- One step along a row or a column. -/
def toward (a b : Nat) : Nat := if a < b then a + 1 else if b < a then a - 1 else a

/-- The clusters of a route: along the row first, then along the column (14 R310). -/
def routePath (w : Nat) : (fuel : Nat) → Nat → Nat → List Nat
  | 0, a, _ => [a]
  | n + 1, a, b =>
    if a = b then [a]
    else if a % w ≠ b % w then a :: routePath w n (a / w * w + toward (a % w) (b % w)) b
    else a :: routePath w n (toward (a / w) (b / w) * w + a % w) b

/-- The cluster of a node, none for a streamer. -/
def Image.cluster (m : Image) (n : Nat) : Option Nat :=
  if n < m.cells.length then (m.cells[n]?).map fun c => bitsOf c.1.1 56 5 / 2
  else (m.nodes[n - m.cells.length]?).map fun x => bitsOf x 0 6 / 4

/-- The cluster where the edge of a streamer enters a rectangle: of those nearest the streamer's die edge, the one in line with the other end; streamers 0 to 2 stand on the upper edge, 3 to 5 on the right, 6 to 8 on the lower, 9 to 11 on the left (13 R276; 14 R310; log 14). -/
def enterAt (w h num other : Nat) : Nat :=
  match num / 3 with
  | 0 => other % w
  | 1 => other / w * w + (w - 1)
  | 2 => (h - 1) * w + other % w
  | _ => other / w * w

/-- The routes of the edges, given the streamers its streamer nodes take (14 R310). -/
def Image.routes (m : Image) (nums : List Nat) (es : List FEdge) : List (List Nat) :=
  es.map fun e =>
    let at_ (n other : Nat) : Nat :=
      if n < m.nm then (m.cluster n).getD 0 else enterAt m.w m.h ((nums[n - m.nm]?).getD 0) ((m.cluster other).getD 0)
    routePath m.w 32 (at_ e.pnode e.cnode) (at_ e.cnode e.pnode)

/-- The consecutive pairs of a route. -/
def hops : List Nat → List (Nat × Nat)
  | a :: b :: rest => (a, b) :: hops (b :: rest)
  | _ => []

/-- Whether links or local lanes run out (14 R310). -/
def badRoutes (rs : List (List Nat)) : Bool :=
  let links := rs.flatMap hops
  let locals := rs.flatMap fun r => ([r.head?, r.getLast?].filterMap fun x => x).eraseDups
  (links.any fun l => decide (8 < links.count l)) || locals.any fun l => decide (16 < locals.count l)

/-- The logical clusters of a rectangle (14 R305). -/
def rectClusters (origin w h : Nat) : List Nat :=
  (List.range (w * h)).map fun k => (origin / 8 + k / w) * 8 + origin % 8 + k % w

/-- Clusters a load of a tower covers. -/
def Load.clusters (l : Load) : List Nat := if l.st = .saved then [] else rectClusters l.origin l.w l.h

/-- Whether a rectangle cannot be given (14 R319; 18 R378). -/
def State.rectBusy (s : State) (c : Ctx) (cls : List Nat) : Bool :=
  let t := s.tower c.tower
  let mine := s.loads.filter fun l => decide (l.tower = c.tower)
  (mine.any fun l => l.clusters.any fun k => cls.contains k) || cls.contains (t.svCell / 2)
    || ((List.range c.width).any fun j => cls.contains ((c.base + j) / 2))
    || decide (16 ≤ mine.length)
    || (!s.asidC0 c.asid && cls.any fun k => t.c0res.getLsbD (k / 2) && decide (k / 2 ≠ t.svCell / 4))

/-- The code of an image as far as it was read, 0 for one without a fault (14 R319). -/
def State.imageCode (s : State) (c : Ctx) (m : Image) (origin : Word) : Nat :=
  let es := m.edges.map edgeOf
  let free := s.freeStreamers c.tower
  if headerFormat m.h0 m.h1 m.h2 m.h3 origin || m.wordFormat then 1
  else if ((m.cells.zipIdx).any fun k => match k.1.2.1 with
      | some f => f.badClause k.2 es
      | none => false)
      || (m.part.any fun f => f.badPart ((m.cells.findIdx? fun x => x.2.1.isNone).getD 0) es) then 2
  else if m.badBinding es then 3
  else if cyclicArcs (m.nm + m.streams.length + 1) (m.arcs es) then 4
  else if badRoutes (m.routes free es) || decide (free.length < hdrStr m.h0) then 5
  else if s.rectBusy c (rectClusters origin.toNat m.w m.h) then 6
  else if m.pageFault then 7
  else 0

/-- The image is read in order, header first, up to a read that fails, and checked over what was read: its code, or the image (14 R319, R323). -/
def State.checkImage (s : State) (c : Ctx) (img origin : Word) : State × Except Nat Image :=
  if !bitsZero img 0 6 then (s, .error 1)
  else
    match s.readQs c img 4 with
    | (t, none) => (t, .error 7)
    | (t, some hs) =>
      let q (n : Nat) : Word := (hs[n]?).getD 0
      let nc := 2 * hdrCell (q 0)
      let nn := hdrMn (q 0)
      let ns := 2 * hdrStr (q 0)
      let r := t.readUpTo c (img + 32) (nc + nn + ns + 2 * hdrEdge (q 0))
      let ws := r.2.1
      let cw := pairs (ws.take nc)
      let sw := pairs ((ws.drop (nc + nn)).take ns)
      let rc : CellsRead := if r.2.2 then ⟨r.1, cw.map fun x => (x, none, []), none, true⟩ else r.1.readCells c cw
      let rs := rc.st.readStreams c rc.bad sw
      let m : Image :=
        { h0 := q 0, h1 := q 1, h2 := q 2, h3 := q 3, cells := rc.cells, nodes := (ws.drop nc).take nn
          streams := rs.2.1, edges := pairs (ws.drop (nc + nn + ns)), part := rc.part, pageFault := rs.2.2 }
      let code := rs.1.imageCode c m origin
      (rs.1, if code = 0 then .ok m else .error code)

/-! ### Placing -/

/-- The cell of the tower at a cell position of a load. -/
def Load.cellAt (l : Load) (pos : Nat) : Nat := 2 * ((rectClusters l.origin l.w l.h)[pos / 2]?).getD 0 + pos % 2

/-- The M-node of the tower at an M-node position. -/
def Load.nodeAt (l : Load) (pos : Nat) : Nat := 4 * ((rectClusters l.origin l.w l.h)[pos / 4]?).getD 0 + pos % 4

/-- The seed of cell node k (14 R317). -/
def cellSeed (seed : BitVec 32) (k : Nat) : BitVec 32 := genSeed seed k

/-- The register block of a cell node (14 R318). -/
def Ctx.withRegs (c : Ctx) (bs : List Byte) : Ctx :=
  if bs.isEmpty then c
  else
    { c with
      g := Vector.ofFn fun k : Fin 64 => qwordOf bs k.val
      w := Vector.ofFn fun k : Fin 16 => BitVec.ofNat 512 (bytesToNat ((bs.drop (512 + 64 * k.val)).take 64)) }

/-- A load takes a free slot of the tower and its nodes their contexts; its region is asked for (14 R305, R307, R323). -/
def State.placeLoad (s : State) (c : Ctx) (img origin : Word) (m : Image) (waiter : Nat × Nat × BitVec 7) (area : Option Word) : State :=
  let used := (s.loads.filter fun l => decide (l.tower = c.tower)).map fun l => l.slot
  match lowestFree 16 used with
  | none => s
  | some slot =>
    let cells := (m.cells.filterMap fun x => x.2.1)
    let streams : List FStream := (m.streams.zipIdx).map fun x =>
      { id := s.nextCmd + x.2, prog := w64 (bitsOf x.1.s0 6 50 * 64), ncmd := bitsOf x.1.s0 56 4 + 1, sink := x.1.s0.getLsbD 60
        reps := bitsOf x.1.s1 0 32, descs := x.1.descs, num := ((s.freeStreamers c.tower)[x.2]?).getD 0, tok := 0, next := 0, held := [], repairs := [], redo := [], ended := false, unread := none, progress := s.time }
    let age := bitsOf m.h1 0 20
    let l : Load :=
      { tower := c.tower, slot := slot, gen := ((s.tower c.tower).loadGens[slot]?).getD 0, asid := c.asid, st := .configuring
        image := img, origin := origin.toNat, w := m.w, h := m.h, cells := cells
        mnodes := m.nodes.map fun n => ⟨bitsOf n 0 6, bitsOf n 8 5, bitsOf n 16 4⟩
        streams := streams, edges := m.edges.map edgeOf
        age := age
        status := w64 (bitsOf m.h2 3 53 * 8), ring := w64 (bitsOf m.h3 13 43 * 8192)
        nrec := 0, statusDue := false, stopAsked := false, waiter := some waiter, area := area, keptCells := [], keptNodes := [] }
    let ctxs : List Ctx := (m.cells.zipIdx).map fun x =>
      let seed := cellSeed (m.h1.extractLsb' 32 32) x.2
      { ((Ctx.blank (s.nextCtx + x.2) (.node slot x.2) c.tower (l.cellAt (bitsOf x.1.1.1 56 5)) 1
            (l.handle ||| w64 (x.2 * 2 ^ 56)) c.asid s.time).withRegs x.1.2.2) with
        pc := w64 (bitsOf x.1.1.1 4 52 * 16)
        rm := rmStored (x.1.1.2.setWidth 3)
        ftz := x.1.1.2.getLsbD 3
        seed := seed
        gens := [genSeed seed 0] }
    { s with loads := s.loads ++ [l], ctxs := s.ctxs ++ ctxs, nextCtx := s.nextCtx + ctxs.length, nextCmd := s.nextCmd + streams.length }

/-- Whether nobody else holds a cell or an M-node of the rectangle (14 R323). -/
def State.regionClear (s : State) (l : Load) : Bool :=
  let cls := l.clusters
  !(s.ctxs.any fun c => decide (c.kind = .task) && decide (c.tower = l.tower) &&
      (List.range c.width).any fun j => cls.contains ((c.base + j) / 2))
    && !(s.mnodes.any fun m => decide (m.tower = l.tower) && cls.contains (m.n / 4))

/-- The M-nodes of a load, in their initial state (12 R253, R263; 14 R314, R323). -/
def State.freshNodes (s : State) (l : Load) : List MNode :=
  (l.mnodes.zipIdx).map fun x =>
    let seed := ((s.ctxs.find? fun c => decide (c.tower = l.tower) && decide (c.kind = .node l.slot x.1.drv)).map fun c => c.seed).getD 0
    let rank := ((l.driven x.1.drv).findIdx? fun y => decide (y.1 = x.2)).getD 0
    { MNode.fresh l.tower (l.nodeAt x.1.pos) (.load l.slot x.2) seed with gen := genSeed seed (16 + rank) }

/-- The load a handle names for an ASID, none for code 8 (14 R319, R322). -/
def State.loadOf (s : State) (asid : BitVec 16) (h : Word) : Option Load :=
  s.loads.find? fun l => decide (l.handle = h) && decide (l.asid = asid) && decide (l.st ≠ .configuring)

/-- A load's slot becomes FREE: its contexts, nodes and commands go (14 R322, R324). -/
def State.freeLoad (s : State) (l : Load) : State :=
  { (s.onTower l.tower fun t => { t with loadGens := t.loadGens.modify l.slot fun g => g + 1 }) with
    loads := s.loads.filter fun x => !(decide (x.tower = l.tower) && decide (x.slot = l.slot))
    ctxs := s.ctxs.filter fun c => !decide (c.loadRef = some (l.tower, l.slot))
    mnodes := s.mnodes.filter fun m => !(decide (m.tower = l.tower) && (match m.owner with
      | .load sl _ => decide (sl = l.slot)
      | _ => false))
    recq := s.recq.filter fun r => !decide (r.load = some (l.tower, l.slot)) }

/-! ### Programs of streamer nodes -/

/-- The descriptors of command j. -/
def FStream.desc (f : FStream) (j : Nat) : Desc × Desc :=
  let p := (f.descs[j]?).getD ([], [])
  (Desc.ofBytes p.1, Desc.ofBytes p.2)

/-- Whether the descriptors of a command are accepted; a load has no lens whose scratch a run could reach (13 R278, R280, R281; 14 R316). -/
def nodeDescOk (d e : Desc) : Bool :=
  decide (d.kind = 0) && d.ok 0 && decide (e.kind = 2) && decide (e.base = 0) && decide (e.lay = 0) && e.clean && decide (e.rm ≤ 4)
    && decide (e.sbase = 0) && decide (e.n0 % fmtBlock e.fmt = 0)
    && decide (d.n0 = e.n0) && decide (d.n1 = e.n1) && decide (d.n2 = e.n2) && decide (d.n3 = e.n3)
    && (d.spans false).all fun p => decide (p.1 + p.2 ≤ scratchBase) && (decide (d.lay ≠ 3) || decide (p.1 % 8 = 0))

/-- Elements of a command. -/
def Desc.count (d : Desc) : Nat := d.n0 * d.n1 * d.n2 * d.n3

/-- Tokens of a command, at least one (14 R316). -/
def Desc.tokens (e : Desc) : Nat := Nat.max 1 ((denseBytes e.fmt e.count + 63) / 64)

/-- Tokens of each command. -/
def FStream.counts (f : FStream) : List Nat := (List.range f.ncmd).map fun j => (f.desc j).2.tokens

/-- The command and its token that a token number of the run stands for. -/
def locate : List Nat → (j n : Nat) → Nat × Nat
  | [], j, n => (j, n)
  | t :: ts, j, n => if n < t then (j, n) else locate ts (j + 1) (n - t)

/-- The command and its token of a token number. -/
def FStream.at (f : FStream) (n : Nat) : Nat × Nat := locate f.counts 0 (n % (f.counts.sum))

/-- First token number of the c-th command of all runs. -/
def FStream.firstTok (f : FStream) (c : Nat) : Nat := c / f.ncmd * f.counts.sum + (f.counts.take (c % f.ncmd)).sum

/-- Tokens of the c-th command of all runs. -/
def FStream.tokens (f : FStream) (c : Nat) : Nat := (f.counts[c % f.ncmd]?).getD 0

/-- The command a streamer node has come to. -/
def FStream.cur (f : FStream) : Nat := if f.sink then f.tok % f.ncmd else (f.at f.tok).1

/-- The command of all runs a streamer node has come to. -/
def FStream.run (f : FStream) : Nat := if f.sink then f.tok else f.tok / f.counts.sum * f.ncmd + (f.at f.tok).1

/-- A command of a streamer node has other descriptors now; one that has not begun begins where the tokens before it end. -/
def FStream.redescribe (f : FStream) (d e : List Byte) (bad : Option (Kind × Word)) : FStream :=
  let g := { f with descs := f.descs.set f.cur (d, e), unread := bad }
  if f.sink then g else { g with tok := g.firstTok f.run }

/-- The descriptors of a streamer node's current command are read again, as a replay asks (13 R289). -/
def State.reread (s : State) (asid : BitVec 16) (f : FStream) : State × FStream :=
  let get (s : State) (a : Word) : State × Except (Kind × Word) (List Byte) :=
    match s.vread64 asid a with
    | (t, .error e) => (t, .error e)
    | (t, .ok p) => match t.vread asid p 64 0 with
      | (u, .ok bs) => (u, .ok bs)
      | (u, .bad k va) => (u, .error (k, va))
  let at_ := f.prog + w64 (16 * f.cur)
  match get s at_ with
  | (t, .error e) => (t, f.redescribe [] [] (some e))
  | (t, .ok d) => match get t (at_ + 8) with
    | (u, .error e) => (u, f.redescribe [] [] (some e))
    | (u, .ok e) => (u, f.redescribe d e none)

/-- The program goes on behind its current command. -/
def FStream.skip (f : FStream) : FStream :=
  if f.sink then { f with tok := f.tok + 1, next := 0 } else { f with tok := f.tok - (f.at f.tok).2 + f.tokens (f.tok / f.counts.sum * f.ncmd + (f.at f.tok).1) }

end Sys2Proof.Machine
end

