-- ==== Sys2Proof/Machine/Records.lean ====
section
/-! DEFINITION. Sys2Proof/Machine/Records.lean: disposing of afterimage records: replay and discard by source (17 R339 to R344, R429). -/

namespace Sys2Proof.Machine

/-- The record 128 bytes hold (17 R340). -/
def AfRec.ofBytes (bs : List Byte) : AfRec :=
  let q (n : Nat) : Word := qwordOf bs n
  { kind := Kind.ofCode (bitsOf (q 0) 0 5), src := (q 0).extractLsb' 5 3, eff := (q 0).extractLsb' 10 5, iid := (q 0).extractLsb' 16 7
    cause := (q 0).extractLsb' 32 16, seq := (q 0).extractLsb' 48 16, va := w64 (bitsOf (q 1) 0 56), clause := w64 (bitsOf (q 2) 0 56)
    ticket := q 3, owner := q 4, idx := (q 5).setWidth 32, idx2 := (q 5).extractLsb' 32 32, asid := (q 6).setWidth 16
    hyp := (q 6).extractLsb' 16 12, data := (bs.drop 64).take (bitsOf (q 0) 24 6 + 1), load := none, tower := 0 }

/-- disp: 0 pending, 1 replay, else discard (17 R340). -/
def recDisp (bs : List Byte) : Nat := bitsOf (qwordOf bs 0) 8 2

/-- A faulted store of a context is performed again, its permission read afresh, or is dropped (17 R341). -/
def State.disposeStore (s : State) (c : Ctx) (r : AfRec) (replay : Bool) : State :=
  let mine (p : Pend) : Bool := match p.st with
    | .faulted q _ => decide (q = r.seq)
    | _ => false
  let cells := (c.pend.filter mine).map c.pendCell
  let fresh (t : State) : State := t.onTower c.tower fun w =>
    { w with perms := w.perms.filter fun e => !(cells.any fun k => e.serves k c.asid (r.va.toNat / 65536)) }
  if replay then
    (fresh s).onCtx c.id fun x =>
      { x with
        pend := x.pend.map fun p =>
          if mine p then
            match p.what with
            | .store l rel many => { p with what := .store { l with va := r.va, data := r.data, asked := true, leaf := none } rel many, st := .waiting, hyp := r.hyp }
            | _ => p
          else p }
  else s.onCtx c.id fun x => { x with pend := x.pend.filter fun p => !mine p }

/-- A faulted store as its record keeps it, in a ring or still due (17 R339, R340). -/
def AfRec.pend (now : Nat) (due : Bool) (r : AfRec) : Option Pend :=
  if 1 < r.src.toNat then none
  else some
    { what := .store { Lane.plain r.va r.data with asked := true } false (decide (r.src = 1)), st := .faulted r.seq r.kind, pos := 0, eff := r.eff, iid := r.iid
      clause := r.clause, cc := r.ticket.setWidth 32, hyp := r.hyp, seq := 0, since := now, due := due }

/-- A faulted store of a task that holds no lens is performed again; one that faults again makes a new record, and still holds what is younger (09 R216; 17 R341, R342). -/
def State.disposeAway (s : State) (r : AfRec) (asid : BitVec 16) (tower : Nat) (replay : Bool) : State :=
  if !replay then s
  else
    match s.vwriteH asid r.va r.data r.hyp (some r.owner) with
    | (t, none) => t
    | (t, some (k, va)) =>
      let a : AfRec := { r with kind := k, va := va, asid := asid, load := none, tower := tower }
      match t.engineFault a with
      | (u, some n) =>
        { u with heldActs := u.heldActs ++ ((({ a with seq := n } : AfRec).pend u.time true).map fun p => ((⟨r.owner, asid⟩ : TaskKey), p)).toList }
      | (u, none) => u

/-- The command of a node that faulted with a number. -/
def MNode.faulted? (m : MNode) (owner : Word) (load : Option (Nat × Nat)) (seq : BitVec 16) : Option MCmd :=
  m.queue.find? fun q => decide (q.org.owner = owner) && decide (q.org.load = load) && (match q.fault with
    | some f => decide (f.1 = seq)
    | none => false)

/-- Whether a task is STOPPED. -/
def State.isStopped (s : State) (tw : Nat) (k : TaskKey) : Bool :=
  match s.task? tw k with
  | some t => decide (t.st = .stopped)
  | none => false

/-- A faulted matrix command is performed again or dropped; what waits behind it at a stopped task's node waits until the task is continued (12 R260, R275; 17 R341, R342). -/
def State.disposeMatrix (s : State) (owner : Word) (load : Option (Nat × Nat)) (seq : BitVec 16) (replay : Bool) : State :=
  match s.mnodes.findSome? fun m => (m.faulted? owner load seq).map fun q => (m, q) with
  | none => s
  | some (m, q) =>
    let x := if replay then m.replay q s.time else m.dropCmd q
    (s.setNode { x with held := if load.isNone && s.isStopped m.tower q.org.key then some q.id else x.held }).hypSweep

/-- The commands behind a faulted one wait until its task is continued, whoever disposes of its record (12 R260, R275). -/
def State.holdNode (s : State) (r : AfRec) : State :=
  match s.mnodes.findSome? fun m => (m.faulted? r.owner none r.seq).map fun q => (m, q) with
  | some (m, q) => if r.src = 2 then s.setNode { m with held := some q.id } else s
  | none => s

/-- Whether a queue entry is the store that faulted with a number. -/
def Pend.faultedAs (p : Pend) (seq : BitVec 16) : Bool :=
  match p.st with
  | .faulted n _ => decide (n = seq)
  | _ => false

/-- A faulted store of a task off its lens no longer counts as pending, and holds nothing any more, once its record is disposed of (09 R216; 10 R233). -/
def State.dropHeldHyp (s : State) (k : TaskKey) (tower : Nat) (seq : BitVec 16) : State :=
  { (s.onTask tower k fun t => { t with heldHyps := t.heldHyps.filter fun h => !decide (h.1 = some seq) }) with
    heldActs := s.heldActs.filter fun h => !(decide (h.1 = k) && h.2.faultedAs seq) }

/-- A record of a task is disposed of (17 R341); `on` is its context when it holds a lens. -/
def State.dispose (s : State) (k : TaskKey) (tower : Nat) (on : Option Ctx) (reader : Ctx) (r : AfRec) (replay : Bool) : State :=
  let s := { s with lates := s.lates.filter fun l => !(decide (l.1 = k) && decide (l.2.seq = r.seq)) }
  let s := s.dropHeldHyp k tower r.seq
  match r.src.toNat with
  | 0 => match on with
    | some c => s.disposeStore c r replay
    | none => s.disposeAway { r with owner := k.recA } k.asid tower replay
  | 1 => match on with
    | some c => s.disposeStore c r replay
    | none => s.disposeAway { r with owner := k.recA } k.asid tower replay
  | 2 => s.disposeMatrix k.recA none r.seq replay
  | 3 =>
    match s.repairOf k r.ticket r.seq with
    | none => s
    | some (q, e) => if replay then s.replayScmd reader q e else s.dropScmd q e
  | 4 => if replay then s.rebuild reader r.ticket r.idx.toNat else s
  | _ => s

/-- Numbers of the late faults of a task that are not disposed of and whose records have been written. -/
def State.openSeqs (s : State) (k : TaskKey) (on : Option Ctx) : List (BitVec 16) :=
  let stores := ((on.map fun c => c.pend).getD ((s.heldActs.filter fun h => decide (h.1 = k)).map fun h => h.2)).filterMap fun p => match p.st with
    | .faulted q _ => some q
    | _ => none
  let cmds := s.mnodes.flatMap fun m => m.queue.filterMap fun q =>
    if q.org.key = k ∧ q.org.load = none then q.fault.map fun f => f.1 else none
  let strs := s.scmds.flatMap fun q => if q.ofTask k then q.repairs.map fun r => r.seq else []
  (stores ++ cmds ++ strs).filter fun n => !s.recq.any fun r => decide (r.seq = n) && decide (r.owner = k.recA) && decide (r.asid = k.asid)

/-- A record that cannot be read is consumed as a discard: rings hold records in the order of their numbers, so it is that of the earliest fault that is not disposed of (17 R341). -/
def State.discardUnread (s : State) (k : TaskKey) (tower : Nat) (on : Option Ctx) : State :=
  match sortBy (fun a b => decide (a.toNat ≤ b.toNat)) (s.openSeqs k on) with
  | [] => s
  | n :: _ =>
    let s := { s with lates := s.lates.filter fun l => !(decide (l.1 = k) && decide (l.2.seq = n)) }
    let s := match on with
      | some c => s.onCtx c.id fun x => { x with pend := x.pend.filter fun p => match p.st with
          | .faulted q _ => decide (q ≠ n)
          | _ => true }
      | none => s.dropHeldHyp k tower n
    let s := s.disposeMatrix k.recA none n false
    match s.scmds.findSome? fun q => if q.ofTask k then (q.repairs.find? fun r => decide (r.seq = n)).map fun r => (q, r) else none with
    | some (q, r) => s.dropScmd q r
    | none => s

/-- Records t0 to t1 - 1 of a ring are consumed in order, each read as a load of the task; one that cannot be read counts as a discard (17 R341, R342). `on` is the number of the task's context when it holds a lens; `off` are its registers and held stores when it holds none. -/
def State.consume (s : State) (k : TaskKey) (tower : Nat) (base : Word) (on : Option Nat) (off : Ctx) : (n : Nat) → (t0 : BitVec 6) → State
  | 0, _ => s
  | n + 1, t0 =>
    let mine (t : State) : Option Ctx := on.bind t.ctx?
    let next (t : State) : State := t.consume k tower base on off n (t0 + 1)
    match s.taskRead ((mine s).getD off) (base + w64 (128 * t0.toNat)) 128 with
    | (t, .bad kd a) => next ((t.fqStruct tower k.asid kd k.recA a).discardUnread k tower (mine t))
    | (t, .ok bs) => next (t.dispose k tower (mine t) ((mine t).getD off) (AfRec.ofBytes bs) (decide (recDisp bs = 1)))

/-! ### Records of fabric loads -/

/-- A record of a streamer node is disposed of: what it lists is due again, or is given up; a command without progress, or one whose descriptors failed, is taken up again or passed by (13 R289; 14 R316; 17 R341; 18 R380). -/
def FStream.dispose (f : FStream) (seq : BitVec 16) (replay : Bool) (now : Nat) : FStream :=
  match f.repairs.find? fun r => decide (r.seq = seq) with
  | none => f
  | some r =>
    let rest := f.repairs.filter fun y => !decide (y.seq = seq)
    let es := r.iters.getD []
    if replay then
      { f with repairs := rest, redo := f.redo ++ es.filter (fun e => !rest.any fun y => (y.iters.getD []).contains e), progress := now }
    else
      let f := if r.iters.isNone then f.skip else f
      { f with
        repairs := (rest.map fun y => { y with iters := y.iters.map fun l => l.filter fun e => !es.contains e }).filter fun y => !decide (y.iters = some [])
        unread := none
        progress := now }

/-- A record of a load is disposed of (14 R343; 17 R341, R429). -/
def State.disposeLoad (s : State) (l : Load) (r : AfRec) (replay : Bool) : State :=
  let n := bitsOf r.owner 56 8
  match r.src.toNat with
  | 2 => s.disposeMatrix r.owner (some (l.tower, l.slot)) r.seq replay
  | 3 =>
    let k := n - (l.cells.length + l.mnodes.length)
    let whole := replay && (((s.load? l.tower l.slot).bind fun x => x.streams[k]?).map fun f =>
      f.repairs.any fun y => decide (y.seq = r.seq) && y.iters.isNone && decide (y.kind ≠ .stall)).getD false
    let t := s.onLoad l.tower l.slot fun x => { x with streams := x.streams.modify k fun f => f.dispose r.seq replay s.time }
    if whole then
      match (t.load? l.tower l.slot).bind fun x => x.streams[k]? with
      | some f => let u := t.reread l.asid f; u.1.onLoad l.tower l.slot fun x => { x with streams := x.streams.set k u.2 }
      | none => t
    else t
  | 0 => match s.ctxs.find? fun c => decide (c.tower = l.tower) && decide (c.kind = .node l.slot n) with
    | some c => s.disposeStore c r replay
    | none => s
  | 1 => match s.ctxs.find? fun c => decide (c.tower = l.tower) && decide (c.kind = .node l.slot n) with
    | some c => s.disposeStore c r replay
    | none => s
  | _ => s

/-- A record of a load that cannot be read is consumed as a discard (17 R341). -/
def State.discardUnreadLoad (s : State) (l : Load) (n : BitVec 16) : State :=
  let s := s.onLoad l.tower l.slot fun x => { x with streams := x.streams.map fun f => f.dispose n false s.time }
  let s := { s with ctxs := s.ctxs.map fun c : Ctx =>
    if c.loadRef = some (l.tower, l.slot) then
      { c with pend := c.pend.filter fun p => match p.st with
          | .faulted q _ => decide (q ≠ n)
          | _ => true }
    else c }
  match s.mnodes.findSome? fun m => (m.queue.find? fun q => decide (q.org.load = some (l.tower, l.slot)) && (match q.fault with
      | some f => decide (f.1 = n)
      | none => false)).map fun q => (m, q) with
  | some (m, q) => s.setNode (m.dropCmd q)
  | none => s

/-- The records written since the last PSTART are read as loads of the task that starts the load; none when one is still pending (14 R343). -/
def State.loadRecs (s : State) (rd : Ctx) (l : Load) : List Nat → State × Option (List (Option (List Byte)))
  | [] => (s, some [])
  | n :: rest =>
    match s.taskRead rd (l.ring + w64 (128 * n)) 128 with
    | (t, .bad k a) =>
      match (t.fqStruct l.tower l.asid k l.handle a).loadRecs rd l rest with
      | (u, some xs) => (u, some (none :: xs))
      | r => r
    | (t, .ok bs) =>
      if recDisp bs = 0 then (t, none)
      else
        match t.loadRecs rd l rest with
        | (u, some xs) => (u, some (some bs :: xs))
        | r => r

/-- Every record of a load is disposed of, in ring order (14 R343). -/
def State.disposeAll (s : State) (l : Load) : List (Nat × Option (List Byte)) → State
  | [] => s
  | (_, some bs) :: rest => (s.disposeLoad l (AfRec.ofBytes bs) (decide (recDisp bs = 1))).disposeAll l rest
  | (n, none) :: rest => (s.discardUnreadLoad l (BitVec.ofNat 16 n)).disposeAll l rest

end Sys2Proof.Machine
end

