-- ==== Sys2Proof/Machine/FabricRun.lean ====
section
/-! DEFINITION. Sys2Proof/Machine/FabricRun.lean: the fabric instructions, edges at work, streamer nodes, bubbles, the age limit, saving and restoring (14 R306, R311 to R316, R321 to R326; 17 R343, R429; 18 R375, R377). -/

namespace Sys2Proof.Machine

/-! ### Edges of a node -/

/-- The load and the edge at a port of a node, with its index. -/
def State.edgeFor (s : State) (tw slot node port : Nat) (producer : Bool) : Option (Load × Nat × FEdge) :=
  (s.load? tw slot).bind fun l =>
    (l.edges.zipIdx.find? fun e : FEdge × Nat =>
      if producer then decide (e.1.pnode = node) && decide (e.1.pport = port)
      else decide (e.1.cnode = node) && decide (e.1.cport = port)).map fun e => (l, e.2, e.1)

/-- The edge at a port of a cell node's context. -/
def State.edgeOfCtx (s : State) (c : Ctx) (port : Nat) (producer : Bool) : Option (Load × Nat × FEdge) :=
  match c.kind with
  | .task => none
  | .node slot n => s.edgeFor c.tower slot n port producer

/-- The token a consumer finds (14 R312). -/
def FTok.token (t : FTok) (wide : Bool) (iid : BitVec 7) : Token :=
  match t.tag with
  | .value => if wide then .wide t.data else .scalar (t.data.setWidth 64)
  | .poison k => .poison k iid
  | _ => .null

/-- The token in the edge that a producer's operand makes (14 R312). -/
def Token.edge (t : Token) (seq : BitVec 32) : FTok :=
  match t with
  | .scalar v => ⟨.value, v.setWidth 512, seq⟩
  | .wide v => ⟨.value, v, seq⟩
  | .null => ⟨.null, 0, seq⟩
  | .poison k _ => ⟨.poison k, 0, seq⟩

/-- SPOP delivers the head token of its port; it leaves the edge at commit (14 R312). -/
def execSpop (eff port : BitVec 5) (t : Tgt) (s : State) : Host.Outcome State Fault Refusal :=
  fire s (.spop eff port t) fun _ u =>
    let i : Instr := .spop eff port t
    match u.fctx, u.finst with
    | some c, some x =>
      if x.hdr.kind ≠ 1 then .fires (u.effectBad i .illop)
      else
        match u.edgeOfCtx c port.toNat false with
        | none => .fires (u.effectBad i .illop)
        | some (_, _, e) =>
          match e.toks with
          | [] => .waits u
          | h :: _ =>
            if h.tag = .bubble then .waits u
            else .fires ((u.effect i (.spop port)).deliver i (h.token e.wide u.focus.iid))
    | _, _ => .waits u

/-- SPUSH of a token: one slot of its edge is reserved; the token is pushed at commit (14 R312). -/
def spushAct (i : Instr) (port : BitVec 5) (t : Token) (s : State) : Act :=
  match s.fctx, s.finst with
  | some c, some x =>
    if x.hdr.kind ≠ 1 then .fires (s.effectPoison i .illop)
    else
      match s.edgeOfCtx c port.toNat true with
      | none => .fires (s.effectPoison i .illop)
      | some (_, _, e) =>
        let fits : Bool := match t with
          | .scalar _ => !e.wide
          | .wide _ => e.wide
          | _ => true
        if !fits then .fires (s.onInst fun y => y.fail .clausefmt)
        else if e.toks.length + x.edgeRes.count port < e.depth then
          .fires ((s.onInst fun y => { y with edgeRes := port :: y.edgeRes }).effect i (.spush port t))
        else .waits s
  | _, _ => .waits s

/-- SPUSH; a null operand is pushed as a null token (14 R312). -/
def execSpush (eff port : BitVec 5) (s : State) : Host.Outcome State Fault Refusal :=
  let i : Instr := .spush eff port
  let nulled : Bool := match s.finst with
    | none => false
    | some x => x.mark.isNone && !x.fired.contains s.focus.iid && !s.ctlHeld && decide (x.hdr.kind = 1)
        && decide (x.ready s.focus.iid i = .meetsNull)
  if nulled then
    match spushAct i port .null s with
    | .waits t => .next t
    | .fires t => .next (t.onInst fun y => y.markFired s.focus.iid).tick
  else fire s i fun v u => spushAct i port v.a u

/-- What the SPUSHes and SPOPs of a committed iteration do to the edges: pops in port order, then pushes with the sequence number of the lowest SPOP port or the iteration count (14 R312). -/
def State.moveTokens (s : State) (c : Ctx) (pops : List (BitVec 5)) (pushes : List (BitVec 5 × Token)) : State :=
  match c.kind with
  | .task => s
  | .node slot _ =>
    let sorted := sortBy (fun a b => decide (a.toNat ≤ b.toNat)) pops
    let seq : BitVec 32 := match sorted.head?.bind fun p => s.edgeOfCtx c p.toNat false with
      | some (_, _, e) => (e.toks.head?.map fun t => t.seq).getD 0
      | none => c.iter.setWidth 32
    let s := sorted.foldl (fun u p => match u.edgeOfCtx c p.toNat false with
      | some (_, i, _) => u.onLoad c.tower slot fun l => l.onEdge i fun e => e.pop s.time
      | none => u) s
    pushes.foldl (fun u p => match u.edgeOfCtx c p.1.toNat true with
      | some (_, i, _) => u.onLoad c.tower slot fun l => l.onEdge i fun e => e.push (p.2.edge seq) s.time
      | none => u) s

/-- BUBBLE_ITERATION: a node that meets a bubble discards its instance, pops every SPOP port and pushes a bubble to every SPUSH port (14 R313). -/
def execBubbleIteration (c : Nat) (s : State) : Host.Outcome State Fault Refusal :=
  match s.ctx? c with
  | none => .next s
  | some x =>
    match x.kind, x.window with
    | .node slot n, inst :: _ =>
      match s.load? x.tower slot with
      | none => .next s
      | some l =>
        match l.cells[n]? with
        | none => .next s
        | some f =>
          let pops := sortBy (fun a b => decide (a ≤ b)) f.pops
          let head (p : Nat) : Option FTok := (s.edgeFor x.tower slot n p false).bind fun e => e.2.2.toks.head?
          let room (p : Nat) : Bool := ((s.edgeFor x.tower slot n p true).map fun e => decide (e.2.2.toks.length < e.2.2.depth)).getD false
          match pops.findSome? fun p => (head p).bind fun t => if t.tag = .bubble then some t.seq else none with
          | none => .next s
          | some seq =>
            if (l.st ≠ .running ∨ l.stopAsked) || !(pops.all fun p => (head p).isSome) || !(f.pushes.all room) then .next s
            else
              let s := s.release inst
              let s := pops.foldl (fun u p => match u.edgeFor x.tower slot n p false with
                | some (_, i, _) => u.onLoad x.tower slot fun l => l.onEdge i fun e => e.pop s.time
                | none => u) s
              let s := f.pushes.foldl (fun u p => match u.edgeFor x.tower slot n p true with
                | some (_, i, _) => u.onLoad x.tower slot fun l => l.onEdge i fun e => e.push ⟨.bubble, 0, seq⟩ s.time
                | none => u) s
              .next (s.onCtx c fun y => { y with window := [], iter := y.iter + 1 }).tick
    | _, _ => .next s

/-! ### Faults of a load that are no late faults -/

/-- A record of src 6 (17 R429). -/
def State.record6 (s : State) (l : Load) (node : Nat) (k : Kind) (clause : Word) (eff : BitVec 5) (iid : BitVec 7) (idx idx2 : Nat) : State :=
  let o : Origin := ⟨l.handle ||| w64 (node * 2 ^ 56), some (l.tower, l.slot), l.tower, l.asid, 0, clause, iid, eff, 0⟩
  (s.engineFault { o.record 6 k 0 0 0 idx with idx2 := BitVec.ofNat 32 idx2 }).1

/-- The age limit of a load in ns; it counts cycles, which are longer at a lower clock (14 R317, R321; 23 R420). -/
def State.ageLimit (s : State) (l : Load) : Nat := if l.age = 0 then s.stallLimit l.asid else s.us l.age

/-- EDGE_AGE_LIMIT: a head token has stood past the age limit: the load is FAULTED with STALL (14 R321). -/
def execEdgeAgeLimit (tw slot edge : Nat) (s : State) : Host.Outcome State Fault Refusal :=
  match s.load? tw slot with
  | none => .next s
  | some l =>
    match (l.edges[edge]?).bind fun e => e.headAt.map fun at_ => (e, at_) with
    | none => .next s
    | some (e, at_) =>
      if l.st = .running ∧ at_ + s.ageLimit l ≤ s.time then
        .next (s.record6 l e.cnode .stall (((l.cells[e.cnode]?).map fun c => c.addr).getD 0) 0 0 edge e.cnode).tick
      else .next s

/-! ### Streamer nodes -/

/-- The node number of a streamer node of a load. -/
def Load.streamNode (l : Load) (k : Nat) : Nat := l.cells.length + l.mnodes.length + k

/-- Where the records of a streamer node come from. -/
def Load.streamOrigin (l : Load) (k : Nat) : Origin :=
  ⟨l.handle ||| w64 (l.streamNode k * 2 ^ 56), some (l.tower, l.slot), l.tower, l.asid, 0, 0, 0, 0, 0⟩

/-- The job of a command of a streamer node; the edge side is packed from bit 0 on. -/
def nodeJob (o : Origin) (sink : Bool) (d e : Desc) : Job :=
  { org := o
    src := some (if sink then (e, .edge) else (d, .mem))
    dst := if sink then d else e
    dside := if sink then .mem else .edge
    bitwise := false, fill := 0, n0 := d.n0, n1 := d.n1, n2 := d.n2, n3 := d.n3, idx := none }

/-- Change a streamer node. -/
def State.onStream (s : State) (l : Load) (k : Nat) (g : FStream → FStream) : State :=
  s.onLoad l.tower l.slot fun x => { x with streams := x.streams.modify k g }

/-- What a unit of a source comes to: its bits at their place, a poison, or a page that faults. -/
inductive Piece where
  | bits (v : Nat)
  | notlive
  | waits
  | page (k : Kind) (va : Word) (e : Nat)

/-- A unit of a source's command: read, converted and packed; where it fails, its first element on the failing page (13 R289; 14 R316). -/
def State.sourceUnit (s : State) (j : Job) (d : Desc) (e : Nat) : State × Piece :=
  let code := j.dst.fmt
  let n := j.unit e
  match j.fetch s d .mem e (List.range n) (place j.n0 j.n1 j.n2 e).2.1 with
  | .waits => (s, .waits)
  | .fails => (s, .page .illop 0 e)
  | .bad t k va =>
    let hit := (List.range n).find? fun i => (j.elemPages s e i).contains (va.toNat / 65536)
    (t, if k = .notlive then .notlive else .page k va (e + hit.getD 0))
  | .ok (t, xs) =>
    let r := j.convert (genMove e (if j.dst.seed = 0 then 0x9E3779B9#32 else j.dst.seed)) n xs
    let base := e / fmtBlock code * fmtBlockBits code
    (t, .bits (((r.1.zipIdx).map fun p => p.1 * 2 ^ (densePos code (e + p.2))).sum + r.2 * 2 ^ base))

/-- The units of a source's token, one after another: the bits so far, whether one is not live, the first failing page. -/
def State.sourceUnits (s : State) (j : Job) (d : Desc) : List Nat → State × Nat × Bool × Option Piece
  | [] => (s, 0, false, none)
  | e :: rest =>
    let r := s.sourceUnit j d e
    match r.2 with
    | .waits => (s, 0, false, some .waits)
    | .page k va n => (r.1, 0, false, some (.page k va n))
    | .notlive => let q := r.1.sourceUnits j d rest; (q.1, q.2.1, true, q.2.2.2)
    | .bits v => let q := r.1.sourceUnits j d rest; (q.1, q.2.1 + v, q.2.2.1, q.2.2.2)

/-- The units that have bits in token t of a command. -/
def tokenUnits (j : Job) (t : Nat) : List Nat :=
  let b := fmtBlockBits j.dst.fmt
  let k := fmtBlock j.dst.fmt
  ((List.range (512 / b + 2)).map fun x => (512 * t / b + x) * k).filter fun e =>
    decide (e < j.total) && decide (e / k * b < 512 * (t + 1))

/-- A source sends a token, new or repaired (14 R316; 13 R289). -/
def State.sourceToken (s : State) (l : Load) (k : Nat) (f : FStream) (n : Nat) (again : Bool) : State :=
  match s.edgeFor l.tower l.slot (l.streamNode k) 0 true with
  | none => s
  | some (_, i, e) =>
    if e.depth ≤ e.toks.length then s
    else
      let at_ := f.at n
      let d := (f.desc at_.1).1
      let j := nodeJob (l.streamOrigin k) false d (f.desc at_.1).2
      let us := tokenUnits j at_.2
      let hit := f.repairs.filter fun r => us.any fun u => (j.pages s u).contains r.page
      let push (t : State) (x : FTok) : State := t.onLoad l.tower l.slot fun y => y.onEdge i fun z => z.push x s.time
      let step (t : State) (g : FStream → FStream) : State :=
        (t.onStream l k fun x => { (if again then { x with redo := x.redo.drop 1 } else { g x with tok := x.tok + 1 }) with progress := s.time }).tick
      let list (t : State) (page : Nat) : State := t.onStream l k fun x =>
        { x with repairs := x.repairs.map fun r => if r.page = page then { r with iters := some ((r.iters.getD []) ++ [n]) } else r }
      let seq := BitVec.ofNat 32 n
      match hit with
      | r :: _ => step (if again then list s r.page else push (list s r.page) ⟨.bubble, 0, seq⟩) id
      | [] =>
        match s.sourceUnits j d us with
        | (_, _, _, some .waits) => s
        | (t, _, _, some (.page kd va el)) =>
          if 16 ≤ f.repairs.length then s
          else
            match t.engineFault ((l.streamOrigin k).record 3 kd 0 va 0 el) with
            | (u, none) => u
            | (u, some q) =>
              let u := u.onStream l k fun x => { x with repairs := x.repairs ++ [⟨va.toNat / 65536, kd, q, some [n]⟩] }
              step (if again then u else push u ⟨.bubble, 0, seq⟩) id
        | (t, _, true, _) => step (push t ⟨.poison .notlive, 0, seq⟩) id
        | (t, v, false, _) => step (push t ⟨.value, BitVec.ofNat 512 (v / 2 ^ (512 * at_.2)), seq⟩) id

/-- A late fault of a streamer node: a record of the load and an entry of its repair list (13 R289; 14 R316). -/
def State.streamFault (s : State) (l : Load) (k : Nat) (kd : Kind) (va : Word) (page : Nat) (iters : Option (List Nat)) (idx : Nat) : State :=
  match s.engineFault ((l.streamOrigin k).record 3 kd 0 va 0 idx) with
  | (u, none) => u
  | (u, some q) => u.onStream l k fun x => { x with repairs := x.repairs ++ [⟨page, kd, q, iters⟩] }

/-- The streamer node as it stands now. -/
def State.stream? (s : State) (l : Load) (k : Nat) : Option FStream := (s.load? l.tower l.slot).bind fun y => y.streams[k]?

/-- The name of an element of a sink's command in a repair list. -/
def sinkName (run e : Nat) : Nat := run * 2 ^ 64 + e

/-- The raw element i of a dense stream with its scale and its place in the block. -/
def denseAt (code bits i : Nat) : Nat × Nat × Nat :=
  (bits / 2 ^ densePos code i % 2 ^ fmtWidth code, bits / 2 ^ (i / fmtBlock code * fmtBlockBits code) % 2 ^ fmtScaleBits code, i % fmtBlock code)

/-- What a sink lends to a unit of its command: its repair list, and the unit's work on the bits that have come. A load's ring pauses nothing (13 R289; 14 R316; 17 R343). -/
def sinkOps (l : Load) (k run : Nat) (j : Job) (code bits u : Nat) : UnitOps :=
  let names (is : List Nat) : List Nat := is.map fun i => sinkName run (u + i)
  { pages := fun s i => j.elemPages s u i
    repairs := fun s => ((s.stream? l k).map fun f => f.repairs).getD []
    list := fun s page is => s.onStream l k fun x => { x with repairs := addIters x.repairs page (names is) }
    fault := fun s kd va page is => s.streamFault l k kd va page (some (names is)) (u + (is.head?).getD 0)
    whole := fun s => s.streamFault l k .illop 0 (2 ^ 48) none 0
    full := fun s => ((s.stream? l k).map fun f => decide (16 ≤ f.repairs.length)).getD true
    run := fun s is =>
      let n := j.unit u
      let r := j.convert (genMove u (if j.dst.seed = 0 then 0x9E3779B9#32 else j.dst.seed)) n ((List.range n).map fun i => denseAt code bits (u + i))
      match j.store s u is (place j.n0 j.n1 j.n2 u).2.1 (is.map fun i => (r.1[i]?).getD 0) r.2 with
      | .ok t => .ok (t.onStream l k fun x => { x with progress := s.time })
      | r => r }

/-- Named elements of a unit of a sink's command; what cannot go on now is due again. None when nothing can be done. -/
def State.sinkUnit (s : State) (l : Load) (k run : Nat) (j : Job) (code bits u : Nat) (todo : List Nat) : Option State :=
  let r := unitParts (sinkOps l k run j code bits u) 20 s todo
  if r.2.length = todo.length then none
  else some (r.1.onStream l k fun x => { x with redo := (r.2.map fun i => sinkName run (u + i)) ++ x.redo })

/-- The units of a sink's command from its next element on, until one waits or its repair list is full (13 R289; 14 R316). -/
def State.sinkUnits (s : State) (l : Load) (k run : Nat) (j : Job) (code bits : Nat) : (fuel : Nat) → State
  | 0 => s
  | n + 1 =>
    match s.stream? l k with
    | none => s
    | some f =>
      if j.total ≤ f.next ∨ !f.redo.isEmpty ∨ f.repairs.any (fun r => r.iters.isNone) then s
      else
        match (s.onStream l k fun x => { x with next := f.next + j.unit f.next }).sinkUnit l k run j code bits f.next (List.range (j.unit f.next)) with
        | none => s
        | some t => t.sinkUnits l k run j code bits n

/-- The bits a sink has received for the command that starts at token number a and has t tokens, numbered modulo 2^32; none while one is missing (14 R316). -/
def FStream.gathered (f : FStream) (a t : Nat) : Option Nat :=
  let xs := (List.range t).map fun i => (f.held.find? fun h => decide (h.1 = (a + i) % 2 ^ 32)).map fun h => h.2.toNat * 2 ^ (512 * i)
  if xs.all fun x => x.isSome then some ((xs.map fun x => x.getD 0).sum) else none

/-- A sink keeps the tokens of the commands to come and of those with elements still to be repaired (14 R316). -/
def FStream.prune (f : FStream) : FStream :=
  let cmds := ((f.repairs.flatMap fun r => r.iters.getD []) ++ f.redo).map fun n => n / 2 ^ 64
  let past (a : Nat) (t : Nat) : Nat := (t + 2 ^ 32 - a % 2 ^ 32) % 2 ^ 32
  { f with held := f.held.filter fun h =>
      decide (past (f.firstTok f.tok) h.1 < 2 ^ 31) || cmds.any fun c => decide (past (f.firstTok c) h.1 < f.tokens c) }

/-- A sink that has come to the end of its command goes on to the next. -/
def FStream.advance (f : FStream) (total : Nat) : FStream :=
  if total ≤ f.next then { f with tok := f.tok + 1, next := 0 }.prune else f

/-- A sink takes the head token of its edge (14 R312, R316). -/
def State.sinkTake (s : State) (l : Load) (k : Nat) (f : FStream) : State :=
  match s.edgeFor l.tower l.slot (l.streamNode k) 0 false with
  | none => s
  | some (_, i, e) =>
    match e.toks with
    | [] => s
    | h :: _ =>
      let t := s.onLoad l.tower l.slot fun y => y.onEdge i fun z => z.pop s.time
      let take (u : State) (v : Wide) : State := u.onStream l k fun y =>
        { y with held := (h.seq.toNat, v) :: y.held.filter fun p => !decide (p.1 = h.seq.toNat), progress := s.time }
      match h.tag with
      | .value => (take t h.data).tick
      | .null => (take t 0).tick
      | .bubble => t.tick
      | .poison kd => if 16 ≤ f.repairs.length then s else ((take t 0).streamFault l k kd 0 (2 ^ 48) (some []) 0).tick

/-- A sink performs elements again that are due, or goes on with its command once all its tokens have come, or takes a token (14 R316). -/
def State.sinkStep (s : State) (l : Load) (k : Nat) (f : FStream) : State :=
  let jobAt (c : Nat) : Job := nodeJob (l.streamOrigin k) true (f.desc (c % f.ncmd)).1 (f.desc (c % f.ncmd)).2
  let codeAt (c : Nat) : Nat := (f.desc (c % f.ncmd)).2.fmt
  let bitsAt (c : Nat) : Option Nat := f.gathered (f.firstTok c) (f.tokens c)
  match f.redo with
  | x :: _ =>
    let c := x / 2 ^ 64
    let j := jobAt c
    let u := j.unitStart (x % 2 ^ 64)
    let mine (y : Nat) : Bool := decide (y / 2 ^ 64 = c) && decide (j.unitStart (y % 2 ^ 64) = u)
    let t := s.onStream l k fun y => { y with redo := y.redo.filter fun z => !mine z }
    (match bitsAt c with
     | none => t.tick
     | some b =>
       match t.sinkUnit l k c j (codeAt c) b u ((List.range (j.unit u)).filter fun i => f.redo.contains (sinkName c (u + i))) with
       | some t => (t.onStream l k FStream.prune).tick
       | none => s)
  | [] =>
    match (if decide (f.reps = 0) || decide (f.tok < f.reps * f.ncmd) then bitsAt f.tok else none) with
    | some b =>
      let j := jobAt f.tok
      let t := (s.sinkUnits l k f.tok j (codeAt f.tok) b (j.total + 1)).onStream l k fun y => y.advance j.total
      if t = s then s else t.tick
    | none => s.sinkTake l k f

/-- Whether a program has ended: every run made and nothing left to repair (14 R306, R316). -/
def FStream.over_ (f : FStream) : Bool :=
  decide (f.reps ≠ 0) && f.repairs.isEmpty && f.redo.isEmpty
    && (if f.sink then decide (f.reps * f.ncmd ≤ f.tok) else decide (f.reps * f.counts.sum ≤ f.tok))

/-- A streamer node of a running load makes one step; a command it comes to whose descriptors fail performs nothing and faults whole (13 R280, R289; 14 R316). -/
def State.streamStep (s : State) (l : Load) (k : Nat) (f : FStream) : State :=
  if l.st ≠ .running ∨ l.stopAsked ∨ f.ended ∨ f.repairs.any (fun r => r.iters.isNone) then s
  else
    match f.unread with
    | some (kd, va) => ((s.onStream l k fun x => { x with unread := none }).streamFault l k kd va (2 ^ 48) none 0).tick
    | none =>
      if f.over_ then (s.onStream l k fun x => { x with ended := true }).tick
      else
        match f.sink, f.redo with
        | false, n :: _ => s.sourceToken l k f n true
        | true, _ :: _ => s.sinkStep l k f
        | _, [] =>
          if decide (f.reps ≠ 0) && decide ((if f.sink then f.reps * f.ncmd else f.reps * f.counts.sum) ≤ f.tok) then s
          else if !nodeDescOk (f.desc f.cur).1 (f.desc f.cur).2 then (s.streamFault l k .illop 0 (2 ^ 48) none 0).tick
          else if f.sink then s.sinkStep l k f
          else s.sourceToken l k f f.tok false

/-- STREAMER_COMMAND_START: a command of a task begins or goes on, or a streamer node makes a step (13 R276, R289; 14 R316). -/
def execStreamerCommandStart (cmd : Nat) (s : State) : Host.Outcome State Fault Refusal :=
  match s.loads.findSome? fun l => (l.streams.zipIdx.find? fun f => decide (f.1.id = cmd)).map fun f => (l, f.2, f.1) with
  | some (l, k, f) => .next (s.streamStep l k f)
  | none => .next (s.startScmd cmd)

/-- Whether nothing of a node is draining but by an edge-form transfer, which writes no memory (14 R328). -/
def State.drained (s : State) (m : MNode) : Bool := (m.tiles.zipIdx).all fun e => decide (tState e.1 ≠ 3) || s.tileBusy m e.2

/-- Whether a node of a load has performed every command that no fault and no edge-form transfer holds; the transfers are not waited for (14 R324, R328). -/
def State.performedAll (s : State) (m : MNode) : Bool := ((passable [] m.queue).all fun q => decide (16 ≤ q.xop)) && s.drained m

/-- LOAD_FINISH: every cell node has retired, every program ended and every matrix command been performed; or the matrix commands a FAULTED load had handed have been, and its status word says FAULTED; from then on no node commits (14 R306, R326, R328). -/
def execLoadFinish (tw slot : Nat) (s : State) : Host.Outcome State Fault Refusal :=
  match s.load? tw slot with
  | none => .next s
  | some l =>
    let cells := s.ctxs.filter fun c => decide (c.loadRef = some (tw, slot))
    let nodes := s.mnodes.filter fun m => decide (m.tower = tw) && (match m.owner with
      | .load sl _ => decide (sl = slot)
      | _ => false)
    if l.st = .running && !l.stopAsked && cells.all (fun c => c.retired && !c.hasStores) && l.streams.all (fun f => f.ended)
        && nodes.all (fun m => m.queue.all (fun q => decide (16 ≤ q.xop)) && s.drained m) then
      .next (s.loadTo tw slot .finished).tick
    else if l.statusDue && nodes.all s.performedAll && cells.all (fun c => !c.engineHeld || s.quiet c) then
      .next ((s.onLoad tw slot fun x => { x with statusDue := false }).statusWrite tw slot).tick
    else .next s

/-! ### Node save areas -/

/-- What is saved of an M-node: offsets and bytes (18 R375). -/
def MNode.image (m : MNode) : List (Nat × List Byte) :=
  [(0, Memory.getN m.scratch 0 0x40000), (0x40000, Memory.getN m.acc0 0 0x6000), (0x46000, Memory.getN m.acc1 0 0x6000),
   (0x4C000, m.bfmt.flatMap fun b => natToBytes 8 b.toNat), (0x4C040, m.tiles.flatMap fun t => natToBytes 8 t.toNat)]

/-- Write pieces of a save area, up to the first that fails. -/
def State.vwriteAll (s : State) (asid : BitVec 16) (base : Word) : List (Nat × List Byte) → State × Option (Kind × Word)
  | [] => (s, none)
  | (off, bs) :: rest =>
    match s.vwrite asid (base + w64 off) bs with
    | (t, some e) => (t, some e)
    | (t, none) => t.vwriteAll asid base rest

/-- The state of an M-node as a save area holds it (18 R375, R376). -/
def State.readNode (s : State) (asid : BitVec 16) (base : Word) (m : MNode) : State × Except (Kind × Word) MNode :=
  match s.vread asid base 0x4C140 0 with
  | (t, .bad k a) => (t, .error (k, a))
  | (t, .ok bs) =>
    let part (o n : Nat) : List Byte := (bs.drop o).take n
    (t, .ok { m with
      scratch := Memory.setN [] 0 (part 0 0x40000)
      acc0 := Memory.setN [] 0 (part 0x40000 0x6000)
      acc1 := Memory.setN [] 0 (part 0x46000 0x6000)
      bfmt := (List.range 8).map fun k => (qwordOf (part 0x4C000 64) k).setWidth 8
      tiles := (List.range 32).map fun k => qwordOf (part 0x4C040 256) k })

/-! ### Saving and restoring a load -/

/-- Tag and kind of a token in a save area (18 R377). -/
def FTag.code : FTag → Nat
  | .value => 0
  | .null => 1
  | .poison k => 2 + k.code * 4
  | .bubble => 3

/-- The tag a save area holds. -/
def FTag.ofCode (n : Nat) : FTag :=
  match n % 4 with
  | 0 => .value
  | 1 => .null
  | 2 => .poison (Kind.ofCode (n / 4 % 32))
  | _ => .bubble

/-- The registers of a cell node as PSAVE writes them (18 R377). -/
def Ctx.nodeImage (c : Ctx) : List (Nat × List Byte) :=
  [(0, c.g.toList.flatMap fun v => natToBytes 8 v.toNat), (0x200, c.w.toList.flatMap fun v => natToBytes 64 v.toNat),
   (0x600, natToBytes 8 (c.rm.toNat + if c.ftz then 8 else 0) ++ natToBytes 8 c.fpflags.toNat ++ natToBytes 8 c.seed.toNat ++ natToBytes 8 c.iter.toNat)]

/-- An edge as PSAVE writes it (18 R377). -/
def FEdge.image (e : FEdge) : List (Nat × List Byte) :=
  [(0, natToBytes 8 e.toks.length), (0x200, e.toks.flatMap fun t => natToBytes 8 (t.tag.code + t.seq.toNat * 2 ^ 32)),
   (0x400, e.toks.flatMap fun t => natToBytes 64 t.data.toNat)]

/-- A streamer node as PSAVE writes it (18 R377): command index, run count, token number, pages of the repair list. -/
def FStream.image (f : FStream) : List (Nat × List Byte) :=
  let cmd := if f.sink then f.tok % f.ncmd else (f.at f.tok).1
  let run := if f.sink then f.tok / f.ncmd else f.tok / f.counts.sum
  let seq := if f.sink then f.firstTok f.tok else f.tok
  let pages := ((f.repairs.map fun r : Repair => r.page * 65536) ++ List.replicate 16 0).take 16
  [(0, ([cmd, run, seq % 2 ^ 32] ++ pages).flatMap fun x => natToBytes 8 x)]

/-- A streamer node read back; its list keeps the entries whose pages the area names, and those without a page (18 R377). What the area does not hold, tokens and listed elements, the part has kept with the saved load (log 99). -/
def FStream.fromImage (f : FStream) (old : Option FStream) (bs : List Byte) : FStream :=
  let q (n : Nat) : Nat := (qwordOf bs n).toNat
  let base := q 1 * f.counts.sum
  let pages := (List.range 16).map fun k => q (3 + k)
  let kept := old.getD f
  { f with
    tok := if f.sink then q 1 * f.ncmd + q 0 else base + (q 2 + 2 ^ 32 - base % 2 ^ 32) % 2 ^ 32
    next := kept.next
    held := kept.held
    repairs := kept.repairs.filter fun r => decide (r.page * 65536 % 2 ^ 64 = 0) || pages.contains (r.page * 65536)
    redo := kept.redo
    ended := kept.ended }

/-- Shift pieces by an offset. -/
def shiftPieces (o : Nat) (ps : List (Nat × List Byte)) : List (Nat × List Byte) := ps.map fun p => (o + p.1, p.2)

/-- The save area of a load (18 R377). -/
def State.loadImage (s : State) (l : Load) : List (Nat × List Byte) :=
  let cells := s.ctxs.filterMap fun c => match c.kind with
    | .node slot n => if c.tower = l.tower ∧ slot = l.slot then some (n, c) else none
    | .task => none
  let nodes := s.mnodes.filterMap fun m => match m.owner with
    | .load slot k => if m.tower = l.tower ∧ slot = l.slot then some (k, m) else none
    | _ => none
  [(0, natToBytes 8 l.image.toNat ++ natToBytes 8 l.origin ++ natToBytes 8 l.st.code)]
    ++ (cells.flatMap fun c => shiftPieces (0x1000 + 0x800 * c.1) c.2.nodeImage)
    ++ ((l.edges.zipIdx).flatMap fun e => shiftPieces (0x11000 + 0x1400 * e.2) e.1.image)
    ++ ((l.streams.zipIdx).flatMap fun f => shiftPieces (0x61000 + 0x400 * f.2) f.1.image)
    ++ (nodes.flatMap fun m => shiftPieces (0x80000 + 0x50000 * m.1) m.2.image)

/-- A cell node's registers read back (18 R377). -/
def Ctx.fromImage (c : Ctx) (bs : List Byte) : Ctx :=
  { c.withRegs (bs.take 1536) with
    rm := rmStored ((qwordOf bs 192).setWidth 3)
    ftz := (qwordOf bs 192).getLsbD 3
    fpflags := (qwordOf bs 193).setWidth 5
    seed := (qwordOf bs 194).setWidth 32
    gens := [genSeed ((qwordOf bs 194).setWidth 32) 0]
    iter := qwordOf bs 195 }

/-- The tokens of an edge read back (18 R377). -/
def tokensOf (bs : List Byte) : List FTok :=
  (List.range (Nat.min 64 (qwordOf bs 0).toNat)).map fun j =>
    let q := qwordOf bs (64 + j)
    ⟨FTag.ofCode (bitsOf q 0 7), BitVec.ofNat 512 (bytesToNat ((bs.drop (0x400 + 64 * j)).take 64)), q.extractLsb' 32 32⟩

/-- Read pieces of an area: offset and length. -/
def State.vreadAll (s : State) (asid : BitVec 16) (base : Word) : List (Nat × Nat) → State × Option (List (List Byte))
  | [] => (s, some [])
  | (o, n) :: rest =>
    match s.vread asid (base + w64 o) n 0 with
    | (t, .bad _ _) => (t, none)
    | (t, .ok bs) =>
      match t.vreadAll asid base rest with
      | (u, some xs) => (u, some (bs :: xs))
      | r => r

/-- The state a save area records, none where it is not one a load is saved in (14 R325; 18 R377). -/
def savedSt (v : Word) : Option LoadSt :=
  match v.toNat with
  | 1 => some .loaded
  | 3 => some .stopped
  | 4 => some .faulted
  | _ => none

/-- A node of a configured load takes what the area holds of it, and the commands the part kept with the saved load. -/
def State.restoreNode (s : State) (l : Load) (old : Option Load) (area : Word) (k : Nat) (m : MNode) : State × Option MNode :=
  let move (o : Origin) : Origin := { o with owner := l.handle ||| (o.owner &&& 0xFF00000000000000#64), load := some (l.tower, l.slot), tower := l.tower }
  match s.readNode l.asid (area + w64 (0x80000 + 0x50000 * k)) m with
  | (t, .error _) => (t, none)
  | (t, .ok x) =>
    let q := (old.bind fun o => (o.keptNodes.find? fun y : MNode => decide (y.owner = .load o.slot k)).map fun y : MNode => y.queue).getD []
    (t, some { x with queue := q.map fun z : MCmd => { z with org := move z.org } })

/-- The nodes of a configured load, one after another. -/
def State.restoreNodes (s : State) (l : Load) (old : Option Load) (area : Word) : List (Nat × MNode) → Option State
  | [] => some s
  | (k, m) :: rest =>
    match s.restoreNode l old area k m with
    | (_, none) => none
    | (t, some x) => (t.setNode x).restoreNodes l old area rest

/-- A cell node of a configured load takes its registers from the area. -/
def Ctx.restored (c : Ctx) (old : Option Load) (n : Nat) (bs : List Byte) : Ctx :=
  let kept := (old.bind fun o => o.keptCells.find? fun x : Ctx => decide (x.kind = .node o.slot n)).getD c
  { kept.fromImage bs with
    id := c.id
    kind := c.kind
    tower := c.tower
    base := c.base
    recA := c.recA
    window := [] }

/-- A configured load takes the state a save area holds, with what the part kept with the saved load where there is one; none when the area cannot be read or records no state (14 R325; 18 R377). -/
def State.restoreLoad (s : State) (l : Load) (old : Option Load) (area : Word) : Option State :=
  let nc := l.cells.length
  let ne := l.edges.length
  let parts := ((List.range nc).map fun k => (0x1000 + 0x800 * k, 0x620)) ++ ((List.range ne).map fun e => (0x11000 + 0x1400 * e, 0x1400))
    ++ (List.range l.streams.length).map fun k => (0x61000 + 0x400 * k, 152)
  match s.vreadAll l.asid area ((0, 24) :: parts) with
  | (_, none) => none
  | (s, some bss) =>
    let piece (n : Nat) : List Byte := (bss[n]?).getD []
    (savedSt (qwordOf (piece 0) 2)).bind fun st =>
      let s : State := { s with ctxs := s.ctxs.map fun c : Ctx => match c.kind with
        | .node slot n => if c.tower = l.tower ∧ slot = l.slot then c.restored old n (piece (1 + n)) else c
        | .task => c }
      let nodes := s.mnodes.filterMap fun m => match m.owner with
        | .load slot k => if m.tower = l.tower ∧ slot = l.slot then some (k, m) else none
        | _ => none
      (s.restoreNodes l old area nodes).map fun t => t.onLoad l.tower l.slot fun x =>
        { x with
          st := st
          nrec := (old.map fun o => o.nrec).getD 0
          edges := (x.edges.zipIdx).map fun e : FEdge × Nat => { e.1 with toks := tokensOf (piece (1 + nc + e.2)) }
          streams := (x.streams.zipIdx).map fun f : FStream × Nat =>
            f.1.fromImage (old.bind fun o => o.streams[f.2]?) (piece (1 + nc + ne + f.2)) }

/-! ### The configuring instructions -/

/-- The word of an error code (14 R319). -/
def errWord (n : Nat) : Word := 0x8000000000000000#64 ||| w64 n

/-- A configuring instruction has acted: it delivers its result (14 R322; 09 R221). -/
def State.fabricDone (s : State) (i : Instr) (eff : BitVec 5) (v : Word) : Act := .fires (((s.performed eff).effect i .done).deliverS i v)

/-- The load that waits for the focused instruction. -/
def State.waitingLoad (s : State) : Option Load :=
  match s.finst with
  | none => none
  | some x => s.loads.find? fun l => decide (l.waiter = some (s.focus.ctx, x.uid, s.focus.iid))

/-- The common part of the configuring instructions: the gate, the release, then what the instruction does (14 R322). -/
def fabricAct (_i : Instr) (eff : BitVec 5) (v : Vals) (s : State) (act : Ctx → Inst → Word → Word → State → Act) : Act :=
  match s.gate eff ⟨true, false, none, false, true⟩ with
  | .waits w => .waits w
  | .goes w =>
    let w := w.releaseHere .pkg
    match w.fctx, w.finst with
    | some c, some x => act c x v.a.bits v.b.bits w
    | _, _ => .waits w

/-- PLOAD (14 R323). -/
def execPload (pr : Pred) (eff : BitVec 5) (t : Tgt) (s : State) : Host.Outcome State Fault Refusal :=
  fire s (.pload pr eff t) fun v u =>
    let i : Instr := .pload pr eff t
    match u.waitingLoad with
    | some l =>
      if l.st = .configuring then .waits u
      else (u.onLoad l.tower l.slot fun x => { x with waiter := none }).fabricDone i eff l.handle
    | none => fabricAct i eff v u fun c x a b w =>
        match w.checkImage c a b with
        | (y, .error n) => y.fabricDone i eff (errWord n)
        | (y, .ok m) => .waits (y.placeLoad c a b m (c.id, x.uid, w.focus.iid) none).beginWait

/-- The load saved in an area, if the part still holds one (14 R325). -/
def State.savedAt (s : State) (asid : BitVec 16) (area : Option Word) : Option Load :=
  s.loads.find? fun o => decide (o.st = .saved) && decide (o.area = area) && decide (o.asid = asid)

/-- Whether the counts of an image are those of a load (18 R377). -/
def Image.matchesLoad (m : Image) (o : Load) : Bool :=
  decide (m.cells.length = o.cells.length) && decide (m.nodes.length = o.mnodes.length) && decide (m.streams.length = o.streams.length)
    && decide (m.edges.length = o.edges.length)

/-- PREST: it works from the area; the load saved there, where the part still holds it, must have the area's image and becomes FREE (14 R325; 18 R377; log 99). -/
def execPrest (pr : Pred) (eff : BitVec 5) (t : Tgt) (s : State) : Host.Outcome State Fault Refusal :=
  fire s (.prest pr eff t) fun v u =>
    let i : Instr := .prest pr eff t
    match u.waitingLoad with
    | some l =>
      if l.st = .configuring then .waits u
      else
        let u := u.onLoad l.tower l.slot fun x => { x with waiter := none, area := none }
        let u := match u.savedAt l.asid l.area with
          | some o => u.freeLoad o
          | none => u
        u.fabricDone i eff l.handle
    | none => fabricAct i eff v u fun c x a b w =>
        let old := w.savedAt c.asid (some a)
        match (if bitsZero a 0 12 then w.vreadAll c.asid a [(0, 24)] else (w, none)) with
        | (y, none) => y.fabricDone i eff (errWord 10)
        | (y, some bss) =>
          let hd := (bss[0]?).getD []
          let img := qwordOf hd 0
          if (savedSt (qwordOf hd 2)).isNone || (old.map fun o => decide (o.image ≠ img)).getD false then y.fabricDone i eff (errWord 10)
          else
            match y.checkImage c img b with
            | (z, .error n) => z.fabricDone i eff (errWord n)
            | (z, .ok m) =>
              if (old.map fun o => !m.matchesLoad o).getD false then z.fabricDone i eff (errWord 10)
              else .waits (z.placeLoad c img b m (c.id, x.uid, w.focus.iid) (some a)).beginWait

/-- FABRIC_CONFIGURE: the region of a load is clear; its nodes are placed and it is LOADED, or as its save area says (14 R323, R325). -/
def execFabricConfigure (tw slot : Nat) (s : State) : Host.Outcome State Fault Refusal :=
  match s.load? tw slot with
  | none => .next s
  | some l =>
    if l.st ≠ .configuring ∨ !s.regionClear l then .next s
    else
      match l.waiter.bind fun w => s.focusOn w.1 w.2.1 w.2.2 with
      | none => .next s
      | some (u, i) =>
        let u := { u with mnodes := u.mnodes ++ u.freshNodes l }
        match i with
        | .pload pr eff t => execPload pr eff t ((u.loadTo tw slot .loaded).tick)
        | .prest pr eff t =>
          match l.area.bind fun a => u.restoreLoad l (u.savedAt l.asid l.area) a with
          | some w => execPrest pr eff t ((w.statusWrite tw slot).tick)
          | none => fire (u.freeLoad l) i fun _ w => w.fabricDone i eff (errWord 10)
        | _ => .next s

/-- Whether a load still has work of its own that is not lost with it: a record or a status word that is due, or a committed store that no late fault holds (08 R195; 14 R324; 17 R343, R429). -/
def State.loadBusy (s : State) (l : Load) : Bool :=
  (s.ctxs.any fun c => decide (c.loadRef = some (l.tower, l.slot)) && !c.pend.isEmpty && !s.quiet c)
    || l.statusDue || s.recq.any fun r => decide (r.load = some (l.tower, l.slot))

/-- PUNLOAD: it waits until the load's records are written and its stores performed (14 R324). -/
def execPunload (pr : Pred) (eff : BitVec 5) (t : Tgt) (s : State) : Host.Outcome State Fault Refusal :=
  fire s (.punload pr eff t) fun v u =>
    let i : Instr := .punload pr eff t
    fabricAct i eff v u fun c _ a _ w =>
      match w.loadOf c.asid a with
      | none => w.fabricDone i eff (errWord 8)
      | some l =>
        if l.st = .running then w.fabricDone i eff (errWord 9)
        else if w.loadBusy l then .waits w
        else (w.freeLoad l).hypSweep.fabricDone i eff 0

/-- A load runs: its held instances go, but for those performed in part, its ages are cleared, and the release of the PSTART happens before every access of its nodes, which keep no line copied before it (09 R207, R212; 14 R321, R324, R328). -/
def State.runLoad (s : State) (l : Load) : State :=
  let mine := (s.ctxs.filter fun c => decide (c.loadRef = some (l.tower, l.slot)))
  let s := mine.foldl (fun u c => (if c.boundary then u.squashFrom c.id 0 else u).acquired c.id) s
  (s.onLoad l.tower l.slot fun x =>
    { x with
      nrec := 0
      stopAsked := false
      edges := x.edges.map fun e => { e with headAt := if e.toks.isEmpty then none else some s.time }
      streams := x.streams.map fun f => { f with progress := s.time } }).loadTo l.tower l.slot .running

/-- PSTART (14 R324; 17 R343). -/
def execPstart (pr : Pred) (eff : BitVec 5) (t : Tgt) (s : State) : Host.Outcome State Fault Refusal :=
  fire s (.pstart pr eff t) fun v u =>
    let i : Instr := .pstart pr eff t
    fabricAct i eff v u fun c _ a _ w =>
      match w.loadOf c.asid a with
      | none => w.fabricDone i eff (errWord 8)
      | some l =>
        match l.st with
        | .loaded => (w.runLoad l).fabricDone i eff 0
        | .stopped => (w.runLoad l).fabricDone i eff 0
        | .faulted =>
          if l.statusDue || w.recq.any fun r => decide (r.load = some (l.tower, l.slot)) then .waits w
          else
            match w.loadRecs c l (List.range l.nrec) with
            | (y, none) => y.fabricDone i eff (errWord 9)
            | (y, some bss) => ((y.disposeAll l ((List.range l.nrec).zip bss)).runLoad l).fabricDone i eff 0
        | _ => w.fabricDone i eff (errWord 9)

/-- Whether a stopping load stands still: no instance is held, and its M-nodes have performed every command but edge-form transfers that wait at their ports, with what waits behind those (14 R324). -/
def State.loadStill (s : State) (l : Load) : Bool :=
  (s.ctxs.all fun c => decide (c.loadRef ≠ some (l.tower, l.slot)) || c.window.isEmpty)
    && s.mnodes.all fun m => match m.owner with
      | .load slot _ => decide (m.tower ≠ l.tower) || decide (slot ≠ l.slot)
          || ((passable [] m.queue).all (fun q => decide (16 ≤ q.xop) && (s.tryCmd m q).isNone)
              && (m.tiles.zipIdx).all fun e => decide (tState e.1 ≠ 1 ∧ tState e.1 ≠ 3) || s.tileBusy m e.2)
      | _ => true

/-- The nodes of a stopping load discard what they hold, unless it has been performed in part (14 R324). -/
def State.discardHeld (s : State) (l : Load) : State :=
  (s.ctxs.filter fun c => decide (c.loadRef = some (l.tower, l.slot)) && c.boundary).foldl (fun u c => u.squashFrom c.id 0) s

/-- PSTOP (14 R324). -/
def execPstop (pr : Pred) (eff : BitVec 5) (t : Tgt) (s : State) : Host.Outcome State Fault Refusal :=
  fire s (.pstop pr eff t) fun v u =>
    let i : Instr := .pstop pr eff t
    fabricAct i eff v u fun c x a _ w =>
      match w.loadOf c.asid a with
      | none => w.fabricDone i eff (errWord 8)
      | some l =>
        let me : Nat × Nat × BitVec 7 := (c.id, x.uid, w.focus.iid)
        let over_ (y : State) : State := y.onLoad l.tower l.slot fun z => { z with waiter := if z.waiter = some me then none else z.waiter }
        match l.st with
        | .stopped => (over_ w).fabricDone i eff 0
        | .finished => (over_ w).fabricDone i eff 0
        | .faulted => (over_ w).fabricDone i eff (w64 l.nrec)
        | .running =>
          if l.waiter.isSome && decide (l.waiter ≠ some me) then .waits w
          else
            let y := (w.onLoad l.tower l.slot fun z => { z with stopAsked := true, waiter := some me }).discardHeld l
            if y.loadStill l then
              ((y.onLoad l.tower l.slot fun z =>
                { z with stopAsked := false, waiter := none, edges := z.edges.map fun e => { e with headAt := none } }).loadTo
                  l.tower l.slot .stopped).fabricDone i eff 0
            else .waits y.beginWait
        | _ => w.fabricDone i eff (errWord 9)

/-- PSAVE; a load saved in the area before is no longer there (14 R325; 18 R377). -/
def execPsave (pr : Pred) (eff : BitVec 5) (t : Tgt) (s : State) : Host.Outcome State Fault Refusal :=
  fire s (.psave pr eff t) fun v u =>
    let i : Instr := .psave pr eff t
    fabricAct i eff v u fun c _ a b w =>
      match w.loadOf c.asid a with
      | none => w.fabricDone i eff (errWord 8)
      | some l =>
        let mine := w.ctxs.filter fun x => decide (x.loadRef = some (l.tower, l.slot))
        if !(decide (l.st = .loaded) || decide (l.st = .stopped) || decide (l.st = .faulted)) then w.fabricDone i eff (errWord 9)
        else if !bitsZero b 0 12 || !canonical b 1 then w.fabricDone i eff (errWord 10)
        else if w.loadBusy l then .waits w
        else
          let w := w.discardHeld l
          match w.vwriteAll c.asid b (w.loadImage l) with
          | (y, some _) => y.fabricDone i eff (errWord 10)
          | (y, none) =>
            let own (m : MNode) : Bool := decide (m.tower = l.tower) && (match m.owner with
              | .load slot _ => decide (slot = l.slot)
              | _ => false)
            let y : State := { y with loads := y.loads.map fun o : Load =>
              if o.st = LoadSt.saved ∧ o.asid = l.asid ∧ o.area = some b then { o with area := none } else o }
            let y := (y.onLoad l.tower l.slot fun x =>
              { x with area := some b, keptCells := mine.map fun z => { z with window := [] }, keptNodes := y.mnodes.filter own }).loadTo l.tower l.slot .saved
            ({ y with
                ctxs := y.ctxs.filter fun x => !decide (x.loadRef = some (l.tower, l.slot))
                mnodes := y.mnodes.filter fun m => !own m } : State).fabricDone i eff 0

end Sys2Proof.Machine
end

