-- ==== Sys2Proof/Machine/Save.lean ====
section
/-! DEFINITION. Sys2Proof/Machine/Save.lean: the task control registers as words (01 R30; 17 R336, R351), the save area (18 R372, R373), loading a task's registers (01 R28; 18 R376), and the register windows (17 R357). -/

namespace Sys2Proof.Machine

/-! ### Task control registers as words -/

/-- The word a task selector names (17 R351). -/
def Ctx.reg (c : Ctx) (sel : Nat) : Word :=
  match sel with
  | 0 => c.recA
  | 1 => c.asid.setWidth 64
  | 2 => w64 (c.width + c.base * 2 ^ 8 + c.tower * 2 ^ 16)
  | 3 => c.hyp.setWidth 64
  | 4 => c.prio.setWidth 64
  | 5 => w64 (c.est.toNat + c.hint.toNat * 2 ^ 32)
  | 6 => c.upcall
  | 7 => c.afBase ||| w64 (c.afHead.toNat * 2 ^ 6 + c.afTail.toNat)
  | 8 => w64 (c.rm.toNat + (if c.ftz then 8 else 0))
  | 9 => c.fpflags.setWidth 64
  | 10 => c.seed.setWidth 64
  | 11 => c.scr.setWidth 64
  | 12 => c.resume
  | 13 => w64 (c.causeCode.toNat + c.causeSrc.toNat * 2 ^ 5 + c.causeMode.toNat * 2 ^ 8 + (if c.endp then 1024 else 0))
  | 14 => c.faddr
  | 15 => w64 ((if c.dbgStep then 1 else 0) + (if c.dbgBrk then 2 else 0))
  | _ => 0

/-- Take the fields a word has for a task selector; a reserved rounding mode is stored as 000 and a scratch size above 8 as 8 (01 R30; 17 R336). -/
def Ctx.putReg (c : Ctx) (sel : Nat) (v : Word) : Ctx :=
  match sel with
  | 3 => { c with hyp := v.setWidth 12 }
  | 4 => { c with prio := v.setWidth 3 }
  | 5 => { c with est := v.setWidth 32, hint := v.extractLsb' 32 2 }
  | 6 => { c with upcall := w64 (bitsOf v 4 52 * 16) }
  | 7 => { c with afBase := w64 (bitsOf v 13 43 * 8192), afHead := v.extractLsb' 6 6, afTail := v.setWidth 6 }
  | 8 => { c with rm := if bitsOf v 0 3 < 5 then v.setWidth 3 else 0, ftz := v.getLsbD 3 }
  | 9 => { c with fpflags := v.setWidth 5 }
  | 10 => { c with seed := v.setWidth 32 }
  | 11 => { c with scr := if bitsOf v 0 4 < 9 then v.setWidth 4 else 8 }
  | 12 => { c with resume := w64 (bitsOf v 4 52 * 16) }
  | 13 => { c with causeCode := v.setWidth 5, causeSrc := v.extractLsb' 5 3, causeMode := v.extractLsb' 8 2, endp := v.getLsbD 10 }
  | 14 => { c with faddr := w64 (bitsOf v 0 56) }
  | 15 => { c with dbgStep := v.getLsbD 0, dbgBrk := v.getLsbD 1 }
  | _ => c

/-- SRSEED is written: every position is seeded afresh (03 R74). -/
def Ctx.writeSeed (c : Ctx) (v : Word) : Ctx := (c.putReg 10 v).reseed

/-- LSPLIT is written: scratch bytes given up are lost, new ones read as zero (08 R178). -/
def Ctx.writeSplit (c : Ctx) (v : Word) : Ctx :=
  let d := c.putReg 11 v
  ({ d with
      scratch := d.scratch.filter fun b => decide (b.1 % 0x20000 < d.scr.toNat * 16384)
      badScratch := d.badScratch.filter fun w => decide (w * 8 % 0x20000 < d.scr.toNat * 16384) } : Ctx).l1Trim

/-! ### The save area -/

/-- The code of a lens width (07 R152). -/
def widthCode (k : Nat) : Nat := k.log2

/-- A held store as the save area keeps it (18 R373). -/
def heldBytes (kind : Nat) (p : Pend) (l : Lane) (rel : Bool) : List Byte :=
  natToBytes 8 (l.va.toNat % 2 ^ 56 + kind * 2 ^ 56)
    ++ natToBytes 8 ((l.data.length - 1) % 64 + p.eff.toNat * 2 ^ 6 + l.lane % 64 * 2 ^ 11 + p.hyp.toNat * 2 ^ 17
      + (if rel then 2 ^ 29 else 0) + p.cc.toNat * 2 ^ 32)
    ++ List.replicate 48 0 ++ (l.data ++ List.replicate (64 - l.data.length) 0)

/-- The page kind a held store is saved with: its entry's, else its page's, else the one it came back with (18 R373). -/
def State.savedKind (s : State) (c : Ctx) (p : Pend) (l : Lane) : Nat :=
  match s.pendPerm c p l, s.leafAt c.asid l.va.toNat with
  | .ok x, _ => x.kind
  | _, some x => if x.2.kind = 3 then l.kind else x.2.kind
  | _, none => l.kind

/-- The held stores of a context, in program order: those waiting in its buffers, then those not yet back in them. -/
def State.heldStores (s : State) (c : Ctx) : List (List Byte × BitVec 12) :=
  c.entries.filterMap fun p =>
    match p.what, p.st with
    | .store l rel _, .waiting => some (heldBytes (s.savedKind c p l) p l rel, p.hyp)
    | _, _ => none

/-- The hypotheses of the stores a task takes along off its lens: held ones, and faulted ones with the numbers of their records (10 R233; 18 R373). -/
def Ctx.heldHyps (c : Ctx) : List (Option (BitVec 16) × BitVec 12) :=
  c.entries.filterMap fun p =>
    match p.what, p.st with
    | .store _ _ _, .waiting => some (none, p.hyp)
    | .store _ _ _, .faulted n _ => some (some n, p.hyp)
    | _, _ => none

/-- The first 256 bytes of a save area (18 R372). -/
def Ctx.saveHead (c : Ctx) (held : Nat) : List Byte :=
  let q0 := 1 + (if c.causeMode = 1 then 2 else 0) + widthCode c.width * 4 + c.nodes.length * 32 + held * 65536
  let qs : List Nat := [q0, c.commitCount.toNat + c.streamCount.toNat * 2 ^ 32, c.lateSeq.toNat, c.pc.toNat, 0, 0, 0, 0]
  qs.flatMap (fun q => natToBytes 8 q) ++ (List.range 16).flatMap (fun k => natToBytes 8 (c.reg k).toNat)
    ++ natToBytes 64 (if c.causeMode = 1 then (c.hmsg.getD 0).toNat else 0)

/-- What a write-back puts into the save area, offset by offset; scratch comes last (18 R372, R373). -/
def State.saveImage (s : State) (c : Ctx) : List (Nat × List Byte) :=
  let held := s.heldStores c
  [(0, c.saveHead held.length), (0x200, c.g.toList.flatMap fun v => natToBytes 8 v.toNat),
   (0x400, c.w.toList.flatMap fun v => natToBytes 64 v.toNat), (0x800, List.replicate 2048 0)]
    ++ (held.zipIdx.map fun h => (0x4000 + 128 * h.2, h.1.1))
    ++ (if c.scr = 0 then [] else
      (List.range c.width).map fun j => (0x100000 + 0x20000 * j, Memory.getN c.scratch (0x20000 * j) (c.scr.toNat * 16384)))

/-- Where node n of a task lies in its save area (18 R372, R375). -/
def nodeArea (save : Word) (n : Nat) : Word := save + w64 (0x300000 + 0x50000 * n)

/-- The record fields of a write-back, qword 0 last (07 R154, R165). -/
def State.putRecord (s : State) (tw : Nat) (t : TaskInfo) (c : Ctx) (st : TaskSt) : State :=
  match s.structGet tw t.recAsid t.recA t.recA 24 with
  | (u, none) => u
  | (u, some bs) =>
    let u := u.structPut tw t.recAsid t.recA (t.recA + 8) (putBits (qwordOf bs 1) 32 12 (s.hypFinal c.hyp).toNat)
    let u := u.structPut tw t.recAsid t.recA (t.recA + 16) (putBits (putBits (qwordOf bs 2) 0 32 c.est.toNat) 32 2 c.hint.toNat)
    u.structPut tw t.recAsid t.recA t.recA (q0State st.code 0 (putBits (qwordOf bs 0) 4 52 (c.pc.toNat / 16)))

/-- The save area of a context is written, its node areas being writable; or the failure that keeps it where it is (18 R372). -/
def State.writeBack (s : State) (t : TaskInfo) (c : Ctx) : State × Option (Kind × Word) :=
  let save := s.saveOf t
  match s.vleaves t.asid ((List.range c.nodes.length).flatMap fun n => pieces 8 (nodeArea save n) 0x4C140) with
  | (u, .error e) => (u, some e)
  | (u, .ok _) => u.vwriteAll t.asid save (s.saveImage c)

/-- Whether a queue entry is a store that the save area takes: one that has not faulted (18 R373). -/
def Pend.savedStore (p : Pend) : Bool :=
  match p.what, p.st with
  | .store _ _ _, .faulted _ _ => false
  | .store _ _ _, _ => true
  | _, _ => false

/-- A task off its lens: its context goes, its M-nodes wait to be saved or dropped, and what the save area does not take of the entries R216 holds, the releases and the stores that have faulted, goes with it (07 R165; 09 R216; 18 R369, R375). -/
def State.offLens (s : State) (t : TaskInfo) (c : Ctx) (save : Option Word) : State :=
  let s := s.handlerEnds c
  let acts := c.entries.filterMap fun p => if p.savedStore then none else some (t.key, p)
  let s := { s with
    mnodes := s.mnodes.map fun m : MNode => if m.ofTask t.key ∧ ¬ m.away then { m with leaving := some save } else m
    heldActs := s.heldActs ++ acts }
  let s := match save with
    | some _ => s.onTask c.tower t.key fun x =>
        { x with heldHyps := c.heldHyps, hyp := c.hyp, needHandler := c.needHandler, shielded := c.shielded, newPrio := none, preempted := false }
    | none => s.bindMove c.hyp t.hyp
  (s.dropCtx c.id).hypSweep

/-! ### Loading a task -/

/-- A held store as it comes back; what the save area does not hold, its instruction and its clause, is open (18 R373, R376; log 15). -/
def State.heldOf (s : State) (bs : List Byte) : Pend :=
  let q0 := qwordOf bs 0
  let q1 := qwordOf bs 1
  let lane := bitsOf q1 11 6
  { what := .store ⟨lane, w64 (bitsOf q0 0 56), (bs.drop 64).take (bitsOf q1 0 6 + 1), true, none, bitsOf q0 56 2⟩ (q1.getLsbD 29) (decide (lane ≠ 0))
    st := .waiting
    pos := 0
    eff := q1.extractLsb' 6 5
    iid := (s.free 8).setWidth 7
    clause := s.free 9
    cc := q1.extractLsb' 32 32
    hyp := q1.extractLsb' 17 12
    seq := 0
    since := s.time
    due := false }

/-- The records of a ring from tail to head - 1 that can be read (17 R339). -/
def State.ringRecs (s : State) (asid : BitVec 16) (base : Word) (head tail : BitVec 6) : List AfRec :=
  (List.range (head - tail).toNat).filterMap fun n =>
    match (s.vread asid (base + w64 (128 * ((tail.toNat + n) % 64))) 128 0).2 with
    | .ok bs => some (AfRec.ofBytes bs)
    | .bad _ _ => none

/-- Program order of queue entries: older clauses first, stores and fences by slot, then the releases of 07 R155. -/
def pendOlder (now : BitVec 32) (a b : Pend) : Bool :=
  let age (p : Pend) : Nat := (now - p.cc).toNat
  let slot (p : Pend) : Nat := match p.what with
    | .act _ => 32
    | _ => p.eff.toNat
  decide (age b < age a) || (decide (age a = age b) && decide (slot a ≤ slot b))

/-- An entry takes its place in program order: before those of clauses that came after it (18 R376). -/
def Ctx.enter (c : Ctx) (p : Pend) : Ctx := { c with pend := insertBy (fun a b => !pendOlder (c.commitCount + 1) b a) p c.pend }

/-- Held entries enter the buffers in program order while these have room (18 R376). -/
def Ctx.letIn (c : Ctx) : List Pend → Ctx
  | [] => { c with heldIn := [] }
  | p :: ps =>
    let waits : Bool := match p.what, p.st with
      | .store _ _ _, .waiting => true
      | _, _ => false
    if !waits then (c.enter p).letIn ps
    else
      match (List.range c.width).find? fun j => decide (0 < c.freeEntries j) with
      | some j => (c.enter { p with pos := j }).letIn ps
      | none => { c with heldIn := p :: ps }

/-- Read n bytes of a task's save area. -/
def State.saveGet (s : State) (asid : BitVec 16) (va : Word) (n : Nat) : State × Except (Kind × Word) (List Byte) :=
  match s.vread asid va n 0 with
  | (t, .ok bs) => (t, .ok bs)
  | (t, .bad k a) => (t, .error (k, a))

/-- The registers of a task at its first dispatch (01 R28, R30; 18 R372). -/
def State.firstCtx (s : State) (tw : Nat) (t : TaskInfo) (q : Nat → Word) (base width : Nat) : Ctx :=
  ({ Ctx.blank s.nextCtx .task tw base width t.recA t.asid s.time with
      pc := w64 (bitsOf (q 0) 4 52 * 16)
      hyp := s.hypFinal t.hyp
      prio := t.cls
      est := (q 2).setWidth 32
      hint := (q 2).extractLsb' 32 2
      afBase := w64 (bitsOf (q 4) 13 43 * 8192 + 0x2000)
      causeCode := BitVec.ofNat 5 ((t.cause.map fun x => x.1.code).getD 0)
      faddr := (t.cause.map fun x => x.2).getD 0 } : Ctx).setG 61 (w64 (bitsOf (q 3) 0 56))

/-- The registers a save area holds (18 R372, R376). -/
def State.savedCtx (s : State) (tw : Nat) (t : TaskInfo) (bs : List Byte) (base width : Nat) : Ctx :=
  let q (n : Nat) : Word := qwordOf bs n
  let c : Ctx := ([3, 5, 6, 7, 8, 9, 10, 11, 12, 13, 14, 15] : List Nat).foldl (fun c k => c.putReg k (q (8 + k)))
    (Ctx.blank s.nextCtx .task tw base width t.recA t.asid s.time)
  { c.reseed with
    pc := q 3
    hyp := s.hypFinal t.hyp
    prio := t.newPrio.getD ((q 12).setWidth 3)
    g := Vector.ofFn fun k : Fin 64 => qwordOf (bs.drop 0x200) k.val
    w := Vector.ofFn fun k : Fin 16 => BitVec.ofNat 512 (bytesToNat ((bs.drop (0x400 + 64 * k.val)).take 64))
    commitCount := (q 1).setWidth 32
    streamCount := (q 1).extractLsb' 32 32
    lateSeq := (q 2).setWidth 16
    handlerAt := s.time
    hmsg := if (q 0).getLsbD 1 then some (BitVec.ofNat 512 (bytesToNat ((bs.drop 0xC0).take 64))) else none }

/-- A faulted store that comes back holds a buffer entry while its record is still due (17 R339). -/
def Pend.dueAs (p : Pend) (due : List AfRec) : Pend :=
  match p.st with
  | .faulted n _ => { p with due := due.any fun r => decide (r.seq = n) }
  | _ => p

/-- Scratch and held stores come back from the save area, with the faulted stores and the releases that left the lens with them; a ring of another run of the package names its own (09 R216; 18 R372, R376; 20 R403). -/
def State.restoreRest (s : State) (t : TaskInfo) (c : Ctx) (save : Word) (held : Nat) : State × Except (Kind × Word) Ctx :=
  let scr : State × Except (Kind × Word) (List (List Byte)) := (List.range (if c.scr = 0 then 0 else c.width)).foldl
    (fun r j => match r.2 with
      | .error _ => r
      | .ok xs =>
        match r.1.saveGet t.asid (save + w64 (0x100000 + 0x20000 * j)) (c.scr.toNat * 16384) with
        | (u, .ok bs) => (u, .ok (xs ++ [bs]))
        | (u, .error e) => (u, .error e)) (s, .ok [])
  match scr.2 with
  | .error e => (scr.1, .error e)
  | .ok xs =>
    match scr.1.saveGet t.asid (save + 0x4000) (128 * held) with
    | (u, .error e) => (u, .error e)
    | (u, .ok hs) =>
      let stores := (List.range held).map fun n => s.heldOf ((hs.drop (128 * n)).take 128)
      let away := (s.recq.filter fun r => decide (r.owner = t.recA) && decide (r.asid = t.asid) && r.load.isNone)
      let kept := (s.heldActs.filter fun h => decide (h.1 = t.key)).map fun h => h.2.dueAs away
      let ring := ((s.ringRecs t.asid c.afBase c.afHead c.afTail).filterMap (AfRec.pend s.time false)).filter fun p => !kept.any fun q => decide (q.st = p.st)
      let c := { c with scratch := xs.zipIdx.foldl (fun m (x : List Byte × Nat) => Memory.setN m (0x20000 * x.2) x.1) [] }
      (u, .ok (c.letIn (sortBy (pendOlder (c.commitCount + 1)) (stores ++ ring ++ kept))))

/-- The context of a task as a dispatch loads it: from its record the first time, from its save area afterwards (01 R28; 18 R376). -/
def State.buildCtx (s : State) (tw : Nat) (t : TaskInfo) (base width : Nat) : State × Except (Kind × Word) Ctx :=
  match s.vread t.recAsid t.recA 64 0 with
  | (u, .bad k a) => (u, .error (k, a))
  | (u, .ok rs) =>
    let q (n : Nat) : Word := qwordOf rs n
    let save := w64 (bitsOf (q 4) 13 43 * 8192)
    match u.saveGet t.asid save 8 with
    | (v, .error e) => (v, .error e)
    | (v, .ok cb) =>
      if !(qwordOf cb 0).getLsbD 0 then (v, .ok (v.firstCtx tw t q base width))
      else
        match v.saveGet t.asid save 0x800 with
        | (w, .error e) => (w, .error e)
        | (w, .ok bs) => w.restoreRest t (w.savedCtx tw t bs base width) save (bitsOf (qwordOf cb 0) 16 11)

/-! ### Register windows -/

/-- What a window of a context reads (17 R357). -/
def Ctx.windowWord (c : Ctx) (b : Nat) : Word :=
  if b < 64 then c.gr (BitVec.ofNat 6 b)
  else if b < 192 then w64 (bitsOf (c.wr (BitVec.ofNat 4 ((b - 64) / 8))) ((b - 64) % 8 * 64) 64)
  else if b < 208 then c.reg (b - 192)
  else if b = 208 then c.pc
  else 0

/-- A context with a window changed, for those windows that have no effect but their value (17 R357). -/
def Ctx.windowPut (c : Ctx) (b : Nat) (v : Word) : Ctx :=
  if b < 64 then c.setG (BitVec.ofNat 6 b) v
  else if b < 192 then
    let n := BitVec.ofNat 4 ((b - 64) / 8)
    let lo := (b - 64) % 8 * 64
    c.setW n (BitVec.ofNat 512 ((c.wr n).toNat - bitsOf (c.wr n) lo 64 * 2 ^ lo + v.toNat * 2 ^ lo))
  else
    match b with
    | 197 => c.putReg 5 v
    | 198 => c.putReg 6 v
    | 200 => c.putReg 8 v
    | 201 => c.putReg 9 v
    | 202 => c.writeSeed v
    | 203 => c.writeSplit v
    | 204 => c.putReg 12 v
    | 205 => { c with causeMode := v.extractLsb' 8 2 }
    | 207 => c.putReg 15 v
    | 208 => { c with pc := w64 (bitsOf v 4 52 * 16) }
    | _ => c

/-- The registers of a STOPPED task: on the lens it kept, or as a dispatch would load them, with the LENS it was saved with (17 R357). -/
def State.stoppedCtx (s : State) (tw : Nat) (t : TaskInfo) : State × Except (Kind × Word) Ctx :=
  match s.ctxOf? t.key with
  | some c => (s, .ok c)
  | none =>
    match s.saveGet t.asid (s.saveOf t) 0x58 with
    | (u, .error e) => (u, .error e)
    | (u, .ok cb) => u.buildCtx tw t (if (qwordOf cb 0).getLsbD 0 then bitsOf (qwordOf cb 10) 8 7 else 0) (2 ^ bitsOf (qwordOf cb 0) 2 3)

/-- The registers of a STOPPED task are put back where they are kept: the lens it kept, or its save area, with the resume address in its record too (17 R357; 18 R372). -/
def State.putStopped (s : State) (tw : Nat) (t : TaskInfo) (c : Ctx) : State :=
  match s.ctxOf? t.key with
  | some x => s.onCtx x.id fun _ => c
  | none =>
    let save := s.saveOf t
    let cb := match (s.saveGet t.asid save 8).2 with
      | .ok bs => qwordOf bs 0
      | .error _ => 0
    let head := c.saveHead 0
    let q0 : Word := if cb.getLsbD 0 then cb else 1
    let lens : List Byte := match (s.saveGet t.asid (save + 0x50) 8).2 with
      | .ok bs => if cb.getLsbD 0 then bs else List.replicate 8 0
      | .error _ => List.replicate 8 0
    let image : List (Nat × List Byte) :=
      [(0, natToBytes 8 q0.toNat ++ (head.drop 8).take 0x48 ++ lens ++ head.drop 0x58), (0x200, c.g.toList.flatMap fun v => natToBytes 8 v.toNat),
       (0x400, c.w.toList.flatMap fun v => natToBytes 64 v.toNat)]
        ++ (if c.scr = 0 ∨ ¬ cb.getLsbD 0 then [] else
          (List.range c.width).map fun j => (0x100000 + 0x20000 * j, Memory.getN c.scratch (0x20000 * j) (c.scr.toNat * 16384)))
    let s := match s.vwriteAll t.asid save image with
      | (u, none) => u
      | (u, some (k, a)) => u.fqStruct tw t.asid k t.recA a
    s.putQ0 tw t.recAsid t.recA fun v => putBits v 4 52 (c.pc.toNat / 16)

/-- Whether a WINWR may name a hypothesis for a task (17 R357). -/
def State.hypWindowOk (s : State) (t : TaskInfo) (v : Word) : Bool :=
  bitsZero v 12 52 && s.hypNameable t.asid (v.setWidth 12)

end Sys2Proof.Machine
end

