-- ==== Sys2Proof/Machine/System.lean ====
section
/-! DEFINITION. Sys2Proof/Machine/System.lean: the system instructions as they fire (17 R348 to R364), and the events that end the waits of PLBFL and IDLE (08 R199; 17 R359, R360). -/

namespace Sys2Proof.Machine

/-! ### Supervisor registers as words -/

/-- The word a supervisor selector names on a tower (17 R350, R351; 18 R378; 20 R398). -/
def State.svReg (s : State) (tw sel : Nat) : Word :=
  let t := s.tower tw
  match sel with
  | 16 => w64 t.svCell
  | 17 => w64 t.fqN ||| t.fqBase
  | 18 => w64 (t.fqHead.toNat + t.fqTail.toNat * 2 ^ 16)
  | 19 => s.asidtab
  | 20 => w64 (s.asidCmd.toNat + (if s.asidRef then 2 ^ 17 else 0) + s.liveAsids.length * 2 ^ 32)
  | 21 => t.htdir
  | 22 => w64 (t.ovqN + (if t.ovqEn then 2048 else 0)) ||| t.ovqPa
  | 23 => w64 (s.vlogSize.toNat + (if s.vlogEn then 65536 else 0)) ||| s.vlogPa
  | 24 => t.wslSel.setWidth 64
  | 25 => w64 (bitsOf t.wslive (64 * t.wslSel.toNat) 64)
  | 26 => t.c0res.setWidth 64
  | 27 => w64 ((if t.migEn then 1 else 0) + t.migBound * 2 + t.migThr * 2 ^ 16)
  | 28 => t.migPool
  | 29 => w64 (t.migDone.toNat + t.migPskip.toNat * 2 ^ 16 + t.migBskip.toNat * 2 ^ 32 + t.migAband.toNat * 2 ^ 48)
  | 30 => t.gangcmd
  | 31 => t.ckpt
  | _ => 0

/-- Whether the focused instruction is on the supervisor cell of its tower (17 R349). -/
def State.privileged (s : State) : Bool :=
  match s.fctx with
  | some c => decide (c.kind = .task) && decide (c.cellOf s.focus.iid = (s.tower c.tower).svCell)
  | none => false

/-! ### Stops and returns -/

/-- TRAP keeps its code for commit (17 R353). -/
def execTrap (pr : Pred) (eff : BitVec 5) (s : State) : Host.Outcome State Fault Refusal :=
  fire s (.trap pr eff) fun v u =>
    .fires (if bitsZero v.a.bits 16 48 then u.effect (.trap pr eff) (.trap (v.a.bits.setWidth 16)) else u.effectPoison (.trap pr eff) .illop)

/-- DBGBRK: DEBUG.brk is looked at when its clause commits (17 R353). -/
def execDbgbrk (pr : Pred) (eff : BitVec 5) (s : State) : Host.Outcome State Fault Refusal :=
  fire s (.dbgbrk pr eff) fun _ u => .fires (u.effect (.dbgbrk pr eff) .dbgbrk)

/-- RFT stands in for the branch; in mode 00 its effect is poisoned (17 R348). -/
def execRft (pr : Pred) (eff : BitVec 5) (s : State) : Host.Outcome State Fault Refusal :=
  fire s (.rft pr eff) fun _ u =>
    let i : Instr := .rft pr eff
    let normal := match u.fctx with
      | some c => c.normalMode
      | none => true
    .fires ((if normal then u.effectPoison i .illop else u.effect i .rft).onInst Inst.recordRft)

/-! ### Control registers -/

/-- CREAD delivers the committed value (17 R349, R354). -/
def execCread (pr : Pred) (eff : BitVec 5) (sel : BitVec 5) (t : Tgt) (s : State) : Host.Outcome State Fault Refusal :=
  fire s (.cread pr eff sel t) fun _ u =>
    let i : Instr := .cread pr eff sel t
    match u.fctx with
    | none => .waits u
    | some c =>
      if !u.oldest then .waits u
      else if sel.toNat < 16 then .fires ((u.effect i .done).deliverS i (c.reg sel.toNat))
      else if u.privileged then .fires ((u.effect i .done).deliverS i (u.svReg c.tower sel.toNat))
      else .fires (u.effectBad i .perm)

/-- CWRITE fires in the oldest clause and writes at commit (17 R349, R354). -/
def execCwrite (pr : Pred) (eff : BitVec 5) (sel : BitVec 5) (s : State) : Host.Outcome State Fault Refusal :=
  fire s (.cwrite pr eff sel) fun v u =>
    let i : Instr := .cwrite pr eff sel
    if !u.oldest then .waits u
    else .fires (if decide (sel.toNat < 16) || u.privileged then u.effect i (.cwrite sel v.a.bits) else u.effectPoison i .perm)

/-! ### The supervisor's instructions -/

/-- HALT keeps its action for commit (17 R355). -/
def execHalt (pr : Pred) (eff : BitVec 5) (s : State) : Host.Outcome State Fault Refusal :=
  fire s (.halt pr eff) fun v u =>
    let i : Instr := .halt pr eff
    .fires (if !u.privileged then u.effectPoison i .perm
      else
        match recOperand v.a.bits with
        | some k => u.effectPoison i k
        | none =>
          if !bitsZero v.b.bits 2 62 || decide (bitsOf v.b.bits 0 2 = 3) then u.effectPoison i .illop
          else u.effect i (.halt v.a.bits (v.b.bits.setWidth 2)))

/-- The STOPPED task whose record is at an address (17 R357). -/
def State.stopped? (s : State) (rec : Word) : Option (Nat × TaskInfo) :=
  (s.taskAt rec none).filter fun p => decide (p.2.st = .stopped)

/-- WINRD delivers a window of a STOPPED task (17 R357). -/
def execWinrd (pr : Pred) (eff : BitVec 5) (t : Tgt) (s : State) : Host.Outcome State Fault Refusal :=
  fire s (.winrd pr eff t) fun v u =>
    let i : Instr := .winrd pr eff t
    if !u.privileged then .fires (u.effectBad i .perm)
    else if !u.oldest then .waits u
    else if !bitsZero v.b.bits 8 56 then .fires ((u.effect i .done).deliverPoison i .illop)
    else
      match u.stopped? v.a.bits with
      | none => .fires ((u.effect i .done).deliverPoison i .perm)
      | some (tw, x) =>
        match u.stoppedCtx tw x with
        | (w, .ok c) => .fires ((w.effect i .done).deliverS i (c.windowWord v.b.bits.toNat))
        | (w, .error (k, a)) => .fires (((w.fqStruct tw x.asid k x.recA a).effect i .done).deliverPoison i k)

/-- WINWR keeps its window for commit (17 R357). -/
def execWinwr (pr : Pred) (eff : BitVec 5) (s : State) : Host.Outcome State Fault Refusal :=
  fire s (.winwr pr eff) fun v u =>
    let i : Instr := .winwr pr eff
    .fires (if !u.privileged then u.effectPoison i .perm
      else if !bitsZero v.b.bits 8 56 then u.effectPoison i .illop
      else
        match u.stopped? v.a.bits with
        | none => u.effectPoison i .perm
        | some (_, x) =>
          if v.b.bits = 195 ∧ ¬ u.hypWindowOk x v.c.bits then u.effectPoison i .perm
          else u.effect i (.winwr v.a.bits (v.b.bits.setWidth 8) v.c.bits))

/-- TRESUME acts at commit, as a release (17 R358). -/
def execTresume (pr : Pred) (eff : BitVec 5) (s : State) : Host.Outcome State Fault Refusal :=
  fire s (.tresume pr eff) fun v u =>
    .fires (if u.privileged then u.effect (.tresume pr eff) (.tresume v.a.bits) else u.effectPoison (.tresume pr eff) .perm)

/-- WSOPEN and WSCLOSE name a tower and act at commit (17 R362). -/
def weightAct (i : Instr) (mk : Nat → Action) (v : Vals) (s : State) : Act :=
  .fires (if !s.privileged then s.effectPoison i .perm
    else if !bitsZero v.a.bits 3 61 || decide (6 ≤ v.a.bits.toNat) then s.effectPoison i .illop
    else s.effect i (mk v.a.bits.toNat))

/-- WSOPEN (17 R362). -/
def execWsopen (pr : Pred) (eff : BitVec 5) (s : State) : Host.Outcome State Fault Refusal :=
  fire s (.wsopen pr eff) (weightAct (.wsopen pr eff) .wsopen)

/-- WSCLOSE (17 R362). -/
def execWsclose (pr : Pred) (eff : BitVec 5) (s : State) : Host.Outcome State Fault Refusal :=
  fire s (.wsclose pr eff) (weightAct (.wsclose pr eff) .wsclose)

/-! ### Shoot-downs -/

/-- What PLBFL asks for, or the kind its operands give (17 R359). -/
def shootOperand (v : Vals) : Except Kind ShootForm :=
  let a := v.a.bits
  let asid : BitVec 16 := a.setWidth 16
  if !bitsZero a 18 46 then .error .illop
  else
    match bitsOf a 16 2 with
    | 0 =>
      if !bitsZero v.b.bits 0 16 then .error .misalign
      else if !bitsZero v.c.bits 32 32 then .error .illop
      else .ok (.range asid (v.b.bits.toNat / 65536) (bitsOf v.c.bits 0 32))
    | 1 => .ok (.whole asid)
    | 2 => .ok .globals
    | _ => .error .illop

/-- PLBFL begins a shoot-down under the conditions of 09 R220, waits for it, and delivers 0 (17 R359). -/
def execPlbfl (pr : Pred) (eff : BitVec 5) (t : Tgt) (s : State) : Host.Outcome State Fault Refusal :=
  fire s (.plbfl pr eff t) fun v u =>
    let i : Instr := .plbfl pr eff t
    let me : Nat × BitVec 7 := (u.focus.ctx, u.focus.iid)
    if !u.privileged then u.gated eff fun w => w.effectBad i .perm
    else
      match shootOperand v, u.shoots.find? fun x => decide (x.by_ = some me) with
      | .error k, _ => u.gated eff fun w => w.effectBad i k
      | .ok _, some x =>
        if x.finished then
          .fires (((({ u with shoots := u.shoots.filter fun y => !decide (y.by_ = some me) }).performed eff).effect i .done).deliverS i 0)
        else .waits u
      | .ok f, none =>
        match u.gate eff ⟨true, false, none, false, false⟩ with
        | .waits w => .waits w
        | .goes w =>
          let w := w.releaseHere .pkg
          .waits ({ w with shoots := w.shoots ++ [Shoot.mk f (some me) false] } : State).beginWait

/-- A store whose entry a shoot-down drops asks for it again (08 R199). -/
def Lane.shoot (l : Lane) (asid : BitVec 16) (f : ShootForm) : Lane :=
  match l.leaf with
  | some x =>
    let page := l.va.toNat / 65536
    if f.hits (x.tag asid) (if x.large then page / 1024 * 1024 else page) (if x.large then 1024 else 1) then { l with asked := true, leaf := none } else l
  | none => l

/-- A store of an effect whose entry a shoot-down drops (08 R199). -/
def EffOut.shoot (o : EffOut) (asid : BitVec 16) (f : ShootForm) : EffOut :=
  match o with
  | .fired (.store ps rel many) => .fired (.store (ps.map fun l => l.shoot asid f) rel many)
  | o => o

/-- A waiting store of a queue whose entry a shoot-down drops (08 R199). -/
def Pend.shoot (p : Pend) (asid : BitVec 16) (f : ShootForm) : Pend :=
  match p.what, p.st with
  | .store l rel many, .waiting => { p with what := .store (l.shoot asid f) rel many }
  | _, _ => p

/-- What a shoot-down does in the cells of a lens: L1 copies of the lines it names go, and stores that are not yet performed ask for their entries again (08 R199). -/
def Ctx.shoot (c : Ctx) (f : ShootForm) : Ctx :=
  { c with
    l1 := c.l1.filter fun x => !f.hits x.tag (x.line / 1024) 1
    pend := c.pend.map fun p => p.shoot c.asid f
    heldIn := c.heldIn.map fun p => p.shoot c.asid f
    window := c.window.map fun x => { x with effs := x.effs.map fun e => (e.1, e.2.shoot c.asid f) } }

/-- The shoot-down in every cell (08 R199). -/
def State.shootCells (s : State) (f : ShootForm) : State := { s with ctxs := s.ctxs.map fun c : Ctx => c.shoot f }

/-- SHOOTDOWN_COMPLETE: the oldest shoot-down under way finishes in every tower, and the PLBFL that waits for it delivers (08 R199; 17 R359). -/
def execShootdownComplete (s : State) : Host.Outcome State Fault Refusal :=
  match s.shoots.find? fun x => !x.finished with
  | none => .next s
  | some x =>
    let u := (s.shootAll x.form).shootCells x.form
    match x.by_ with
    | none => .next ({ u with shoots := u.shoots.erase x }).tick
    | some (c, iid) =>
      let u := { u with shoots := u.shoots.map fun y : Shoot => if y = x then { y with finished := true } else y }
      match (u.ctx? c).bind fun y => y.window.head?.bind fun z => (z.instrAt iid).map fun i => i with
      | some (.plbfl pr eff t) => execPlbfl pr eff t { u with focus := ⟨c, 0, iid, false⟩ }
      | _ => .next ({ u with shoots := u.shoots.filter fun y => !decide (y.by_ = x.by_) }).tick

/-! ### Waits -/

/-- The reasons an IDLE has to end, given when its wait began (17 R360). -/
def State.idleBits (s : State) (c : Ctx) (timeout since : Nat) : Nat :=
  let t := s.tower c.tower
  let head := (List.range c.width).any fun j => ((t.inbox (c.base + j)).head?).isSome
  let queue := s.privileged && decide (t.fqHead ≠ t.fqTail)
  let passed := decide (timeout ≠ 0) && decide (since + timeout * 1000 ≤ s.time)
  (if head then 1 else 0) + (if queue then 2 else 0) + (if passed then 4 else 0)

/-- IDLE waits in the oldest clause; the wait does not count toward the stall limit (17 R360). -/
def execIdle (pr : Pred) (eff : BitVec 5) (t : Tgt) (s : State) : Host.Outcome State Fault Refusal :=
  fire s (.idle pr eff t) fun v u =>
    let i : Instr := .idle pr eff t
    match u.fctx, u.finst with
    | some c, some x =>
      if !bitsZero v.a.bits 32 32 then .fires (u.effectBad i .illop)
      else if !u.oldest then .waits u
      else
        let since := (x.waitSince u.focus.iid).getD u.time
        let b := u.idleBits c v.a.bits.toNat since
        if b = 0 then .waits u.beginWait
        else
          .fires (((u.onInst fun y => y.waitedOut u.focus.iid u.time).effect i .done).deliverS i (w64 b))
    | _, _ => .waits u

/-- IDLE_TIMEOUT: the timeout of a waiting IDLE has passed (17 R360). -/
def execIdleTimeout (c : Nat) (s : State) : Host.Outcome State Fault Refusal :=
  match (s.ctx? c).bind fun x => x.window.head? with
  | none => .next s
  | some y =>
    match y.waits.findSome? fun w => match y.instrAt w.1 with
      | some (.idle pr eff t) =>
        let n := ((y.tok? w.1 .a).getD .null).bits.toNat
        if n ≠ 0 ∧ w.2 + n * 1000 ≤ s.time ∧ ¬ y.fired.contains w.1 then some (w.1, pr, eff, t) else none
      | _ => none with
    | none => .next s
    | some (iid, pr, eff, t) => execIdle pr eff t { s with focus := ⟨c, 0, iid, false⟩ }

/-- AFWAIT waits for the stores of older clauses and for the record of a fault of theirs the ring has room for, and delivers the ring's count (17 R361). -/
def execAfwait (pr : Pred) (eff : BitVec 5) (t : Tgt) (s : State) : Host.Outcome State Fault Refusal :=
  fire s (.afwait pr eff t) fun _ u =>
    let i : Instr := .afwait pr eff t
    match u.fctx with
    | none => .waits u
    | some c =>
      let pending := c.heldIn.any Pend.isStore || c.pend.any fun p =>
        p.isStore && decide (p.cc ≠ c.commitCount + 1) && (match p.st with
          | .faulted _ _ => false
          | _ => true)
      if !u.oldest || pending || u.recordDue c then .waits u
      else .fires ((u.effect i .done).deliverS i (w64 (c.afHead - c.afTail).toNat))

/-! ### Caches and counters -/

/-- CLINE is performed as it fires (17 R356): `ic` drops predictor entries that may overlap the line, `wbi` the line in the L2 and in every L1, by its tag; memory holds every line in this model, so nothing is left to write back. -/
def State.clineDo (s : State) (tag : Option (BitVec 16)) (op : ClineOp) (va : Word) : State :=
  let line := va.toNat / 64
  match op with
  | .ic => { s with ctxs := s.ctxs.map fun x : Ctx =>
      { x with predictor := x.predictor.filter fun p => !(decide (p.1.toNat < line * 64 + 64) && decide (line * 64 < p.1.toNat + 528)) } }
  | .wb => s
  | .wbi => (s.l1Drop fun _ x => decide (x.tag = tag) && decide (x.line = line)).l2Drop fun x => decide (x.tag = tag) && decide (x.line = line)

/-- CLINE (17 R356). -/
def execCline (pr : Pred) (eff : BitVec 5) (op : ClineOp) (s : State) : Host.Outcome State Fault Refusal :=
  fire s (.cline pr eff op) fun v u =>
    let i : Instr := .cline pr eff op
    let va := v.a.bits
    match u.fctx with
    | none => .waits u
    | some c =>
      let acc : Access := match op with
        | .ic => .fetch
        | _ => .load
      let go (t : State) (l : Option Leaf) : Act :=
        match t.gate eff ⟨decide (op = .ic), false, none, false, false⟩ with
        | .waits w => .waits w
        | .goes w => .fires (((match l with
            | some x => w.clineDo (x.tag c.asid) op va
            | none => w).performed eff).effect i .done)
      if !canonical va 1 then u.gated eff fun w => (w.notePoison va).effectPoison i .perm
      else if !u.oldest then .waits u
      else if scratchBase ≤ va.toNat then go u none
      else
        match u.permGet c.tower (c.cellOf u.focus.iid) c.asid va acc with
        | .ask t => .waits t.beginWait
        | .bad k t => t.gated eff fun w => (w.takeNotes.notePoison va).effectPoison i k
        | .ok l => go u (if l.far then none else some l)

/-- Whether an older clause of the focus has an RDTIME that has not fired: readings do not fall from clause to clause (17 R363). -/
def State.timeHeld (s : State) : Bool :=
  match s.fctx with
  | none => false
  | some c => (c.window.take s.focus.win).any fun x => (List.range x.words.length).any fun k =>
      match x.instrAt (BitVec.ofNat 7 k) with
      | some (.rdtime _ _ _) => !x.fired.contains (BitVec.ofNat 7 k)
      | _ => false

/-- RDTIME delivers the package time (17 R363). -/
def execRdtime (pr : Pred) (eff : BitVec 5) (t : Tgt) (s : State) : Host.Outcome State Fault Refusal :=
  fire s (.rdtime pr eff t) fun _ u =>
    let i : Instr := .rdtime pr eff t
    if u.timeHeld then .waits u else .fires ((u.effect i .done).deliverS i (w64 u.time))

/-- A counter of the lens (06 R150; 17 R364). Cycles are counted at the arithmetic clock (log 16). -/
def Ctx.counter (c : Ctx) (now mhz : Nat) (n : Nat) : Word :=
  match n with
  | 0 => w64 c.clFetch
  | 1 => w64 c.clCommit
  | 2 => w64 c.clSquash
  | 3 => w64 c.brMisp
  | 4 => w64 ((now - c.dispatchedAt) * mhz / 1000)
  | 5 => w64 c.recCount
  | 6 => w64 c.upCount
  | _ => 0

/-- RDPMC delivers a counter of the task's lens (17 R364). -/
def execRdpmc (pr : Pred) (eff : BitVec 5) (t : Tgt) (s : State) : Host.Outcome State Fault Refusal :=
  fire s (.rdpmc pr eff t) fun v u =>
    let i : Instr := .rdpmc pr eff t
    match u.fctx with
    | none => .waits u
    | some c =>
      if !bitsZero v.a.bits 8 56 then .fires ((u.effect i .done).deliverPoison i .illop)
      else .fires ((u.effect i .done).deliverS i (c.counter u.time u.clock v.a.bits.toNat))

end Sys2Proof.Machine
end

