-- ==== Sys2Proof/Machine/Control.lean ====
section
/-! DEFINITION. Sys2Proof/Machine/Control.lean: writes of control registers and what they set off (01 R30; 17 R337, R341, R350, R354; 18 R378; 20 R398, R401, R403), the fault queue in memory (17 R337, R338), and the event rows of these writes. -/

namespace Sys2Proof.Machine

/-! ### The fault queue -/

/-- The supervisor task of a tower (17 R349). -/
def State.supervisor? (s : State) (tw : Nat) : Option Ctx :=
  s.ctxs.find? fun c => decide (c.kind = .task) && decide (c.tower = tw) && decide (c.base = (s.tower tw).svCell)

/-- The 256 bytes of a fault-queue entry (17 R338). -/
def FqEntry.bytes (e : FqEntry) (tw : Nat) : List Byte :=
  let q0 := e.code % 32 + e.cls % 8 * 2 ^ 5 + tw % 8 * 2 ^ 8 + e.asid.toNat * 2 ^ 16 + e.also.toNat * 2 ^ 32
  let qs : List Nat := [q0, e.subject.toNat, e.clause.toNat, e.va.toNat, e.arg.toNat, e.doneMask.toNat, e.time, e.eng.toNat]
  qs.flatMap (fun q => natToBytes 8 q) ++ (e.body ++ List.replicate (128 - e.body.length) 0) ++ List.replicate 64 0

/-- The part writes the oldest held entry, if the queue has room, and advances head (17 R337). -/
def State.fqWrite (s : State) (tw : Nat) : Option State :=
  let t := s.tower tw
  match t.fqHeld, s.supervisor? tw with
  | e :: rest, some c =>
    if !t.fqRoom then none
    else
      match s.vwrite c.asid (t.fqBase + w64 (256 * (t.fqHead.toNat % 2 ^ t.fqN))) (e.bytes tw) with
      | (_, some _) => none
      | (u, none) => some (u.onTower tw fun w => { w with fqHeld := rest, fqHead := w.fqHead + 1 })
  | _, _ => none

/-- Held entries are written while there is room (17 R337). -/
def State.fqFlush (s : State) (tw : Nat) : (fuel : Nat) → State
  | 0 => s
  | n + 1 => match s.fqWrite tw with
    | none => s
    | some t => t.fqFlush tw n

/-- FAULT_QUEUE_WRITE: room has appeared for a held entry (17 R337). -/
def execFaultQueueWrite (tw : Nat) (s : State) : Host.Outcome State Fault Refusal :=
  match s.fqWrite tw with
  | none => .next s
  | some t => .next t.tick

/-! ### The afterimage ring -/

/-- AFRING is written: the records the tail passes are consumed, and the base taken; a tail that would pass head is written as head (17 R341). -/
def State.writeRing (s : State) (c : Ctx) (v : Word) : State :=
  let n := Nat.min (v.setWidth 6 - c.afTail : BitVec 6).toNat (c.afHead - c.afTail).toNat
  (s.consume c.key c.tower c.afBase (some c.id) c n c.afTail).onCtx c.id fun x =>
    { x with afBase := w64 (bitsOf v 13 43 * 8192), afTail := c.afTail + BitVec.ofNat 6 n }

/-- A write of a task register by CWRITE (01 R30; 17 R336, R351, R354). -/
def State.writeTaskReg (s : State) (c : Ctx) (sel : Nat) (v : Word) : State :=
  match sel with
  | 4 => s.onCtx c.id fun x => { x with prio := s.classOf c.asid (v.setWidth 3) }
  | 5 => s.onCtx c.id fun x => x.putReg 5 v
  | 6 => s.onCtx c.id fun x => x.putReg 6 v
  | 7 => s.writeRing c v
  | 8 => s.onCtx c.id fun x => x.putReg 8 v
  | 9 => s.onCtx c.id fun x => x.putReg 9 v
  | 10 => s.onCtx c.id fun x => x.writeSeed v
  | 11 => s.onCtx c.id fun x => x.writeSplit v
  | 12 => if c.causeMode = 0 then s else s.onCtx c.id fun x => x.putReg 12 v
  | _ => s

/-! ### Gangs and checkpoints -/

/-- A status word of a gang or a checkpoint is written (20 R402, R403). -/
def State.putStatus (s : State) (tw : Nat) (asid : BitVec 16) (stat : Word) (n : Nat) : State :=
  s.structPut tw asid 0 (w64 (bitsOf stat 0 56)) (w64 n)

/-- The records a gang descriptor lists, none when one cannot be read or is not NEW (20 R401). -/
def State.members (s : State) (tw : Nat) (asid : BitVec 16) (list : Word) : List Nat → State × Option (List Word)
  | [] => (s, some [])
  | k :: ks =>
    match s.structGet tw asid 0 (list + w64 (8 * k)) 8 with
    | (t, none) => (t, none)
    | (t, some bs) =>
      let rec_ := qwordOf bs 0
      match t.structGet tw asid rec_ rec_ 8 with
      | (u, none) => (u, none)
      | (u, some q) =>
        if bitsOf (qwordOf q 0) 0 4 ≠ 0 ∨ !bitsZero rec_ 0 6 then (u, none)
        else
          match u.members tw asid list ks with
          | (w, some rs) => (w, some (rec_ :: rs))
          | r => r

/-- A gang is armed from its descriptor, or refused with status 6 (20 R401). -/
def State.armGang (s : State) (c : Ctx) (desc : Word) : State :=
  match s.structGet c.tower c.asid 0 desc 64 with
  | (t, none) => t
  | (t, some bs) =>
    let q (n : Nat) : Word := qwordOf bs n
    let n := bitsOf (q 0) 24 8
    let bad := !bitsZero (q 0) 22 2 || !bitsZero (q 0) 32 32 || !bitsZero (q 1) 56 8 || !bitsZero (q 3) 21 43 || !bitsZero (q 4) 56 8
      || decide (q 6 ≠ 0) || decide (q 7 ≠ 0) || decide (n = 0) || decide (128 < n)
    let r := if bad then (t, none) else t.members c.tower c.asid (q 1) (List.range n)
    match r.2 with
    | none => r.1.putStatus c.tower c.asid (q 4) 6
    | some ms =>
      let gid := bitsOf (q 0) 0 16
      let g : Gang :=
        { gid := gid, tower := c.tower, asid := c.asid, lead := bitsOf (q 0) 16 6, members := ms, start := (q 2).toNat
          grace := if bitsZero (q 3) 0 20 then 50 else bitsOf (q 3) 0 20, abort := (q 3).getLsbD 20, stat := q 4, pkgs := q 5
          st := .armed, ready := [], sent := none, late := false }
      ({ r.1 with gangs := (r.1.gangs.filter fun x => !decide (x.gid = gid)) ++ [g] } : State).putStatus c.tower c.asid (q 4) 1

/-- A quiesce point: no task is RUNNING, every load is FREE or SAVED, no engine command is pending. A supervisor's own task is not counted, nor one that has stopped and only waits for its save page (18 R372; 23 R428). -/
def State.quiesced (s : State) : Bool :=
  (s.ctxs.all fun c => decide (c.kind ≠ .task) || decide (c.base = (s.tower c.tower).svCell) || c.parked)
    && (s.loads.all fun l => decide (l.st = .saved)) && (s.mnodes.all fun m => (m.away && m.leaving.isNone) || m.queue.isEmpty)
    && s.scmds.all fun q => !q.unfinished

/-- Whether a checkpoint or restore may start (20 R403). A supervisor's own task is not counted among those that run. -/
def State.ckptFree (s : State) : Bool := s.ckptRun.isNone && s.quiesced && s.towers.all fun t => !t.wsOpen

/-- A checkpoint or a restore is asked for (20 R403). -/
def State.startCkpt (s : State) (c : Ctx) (desc : Word) (restore : Bool) : State :=
  match s.structGet c.tower c.asid 0 desc 64 with
  | (t, none) => t
  | (t, some bs) =>
    let q (n : Nat) : Word := qwordOf bs n
    let bad := !bitsZero desc 0 6 || !bitsZero (q 0) 12 52 || !bitsZero (q 1) 0 16 || !bitsZero (q 2) 56 8
      || decide (q 3 ≠ 0) || decide (q 4 ≠ 0) || decide (q 5 ≠ 0) || decide (q 6 ≠ 0) || decide (q 7 ≠ 0)
    let stat := w64 (bitsOf (q 2) 0 56)
    if bad then
      match t.vwrite64 c.asid stat 5 with
      | (u, none) => u
      | (u, some _) => u.fqPush c.tower { FqEntry.blank Kind.illop.code 3 s.time with asid := c.asid, va := desc }
    else if !t.ckptFree then t.putStatus c.tower c.asid stat 3
    else
      ({ t with ckptRun := some ⟨restore, (q 0).setWidth 12, (q 1).toNat, stat, c.asid, c.tower, s.fwCount⟩ } : State).putStatus c.tower c.asid stat 1

/-! ### Supervisor registers -/

/-- FQBASE is written; held entries go out in order (17 R337, R350). -/
def State.writeFqBase (s : State) (tw : Nat) (v : Word) : State :=
  (s.onTower tw fun t => { t with fqN := Nat.max 4 (Nat.min 12 (bitsOf v 0 4)), fqBase := w64 (bitsOf v 12 44 * 4096) }).fqFlush tw
    (s.tower tw).fqHeld.length

/-- FQPTR is written: tail moves and held entries find room (17 R337, R350). -/
def State.writeFqPtr (s : State) (tw : Nat) (v : Word) : State :=
  (s.onTower tw fun t => { t with fqTail := v.extractLsb' 16 16 }).fqFlush tw (s.tower tw).fqHeld.length

/-- An ASID becomes live, refused beyond 1,024 (08 R192; 17 R350). -/
def State.makeLive (s : State) (asid : BitVec 16) : State :=
  if s.liveAsids.contains asid then { s with asidRef := false }
  else if Config.liveAsids ≤ s.liveAsids.length then { s with asidRef := true }
  else { s with liveAsids := s.liveAsids ++ [asid], asidRef := false }

/-- An ASID becomes not live, with a shoot-down of the whole ASID (17 R350). -/
def State.makeNotLive (s : State) (asid : BitVec 16) : State :=
  { s with liveAsids := s.liveAsids.filter fun a => !decide (a = asid), asidRef := false
           shoots := s.shoots ++ [⟨.whole asid, none, false⟩] }

/-- OVQ is written, unless its queue holds a record or its reservations would not fit (17 R350). -/
def State.writeOvq (s : State) (tw : Nat) (v : Word) : State :=
  let t := s.tower tw
  let n := Nat.max 10 (Nat.min 24 (bitsOf v 0 5))
  let cap := if v.getLsbD 11 then 2 ^ n else 0
  if (t.tasks.any fun x => decide (x.st = .ready) && x.overflow) || decide (Config.readyPool + cap < s.reserved tw) then s
  else s.onTower tw fun t => { t with ovqN := n, ovqEn := v.getLsbD 11, ovqPa := w64 (bitsOf v 12 40 * 4096) }

/-- VLOG is written, unless a hypothesis other than 0 is not FREE (17 R350). -/
def State.writeVlog (s : State) (v : Word) : State :=
  if s.hyps.isEmpty then { s with vlogSize := v.setWidth 16, vlogEn := v.getLsbD 16, vlogPa := w64 (bitsOf v 20 32 * 2 ^ 20) } else s

/-- Where region n of a tower's weight store starts (08 R183, R186). -/
def State.regionBase (s : State) (tw n : Nat) : Nat := s.self * 2 ^ 46 + 0x20000000000 + tw * 2 ^ 30 + n * 65536

/-- WSLDAT is written: regions that become live are filled with zeros; the contents of those that cease to be are lost, which the model shows as zeros: DESIGN CHOICE, log 121 (08 R186; 17 R350). -/
def State.writeWsl (s : State) (tw : Nat) (v : Word) : State :=
  let t := s.tower tw
  let word := t.wslSel.toNat
  let old := bitsOf t.wslive (64 * word) 64
  let changed (n : Nat) : Bool := decide (n < 64) && decide ((old / 2 ^ n) % 2 ≠ (v.toNat / 2 ^ n) % 2)
  let base := s.regionBase tw (64 * word)
  let within (pa : Nat) : Bool := decide (base ≤ pa) && changed ((pa - base) / 65536)
  ({ (s.onTower tw fun t => { t with wslive := BitVec.ofNat 16384 (t.wslive.toNat - old * 2 ^ (64 * word) + v.toNat * 2 ^ (64 * word)) }) with
    mem := s.mem.filter fun b => !within b.1
    badLines := s.badLines.filter fun l => !within (l * 64)
    snoop := s.snoop.filter fun l => !within (l * 64)
    outbox := s.outbox ++ (s.snoop.filter fun l => within (l * 64)).map Out.backInvalidate } : State).l2Drop fun x => within (x.frame * 65536)

/-- C0RES is written; tasks of other classes in a reserved group are pre-empted from now on (18 R378). -/
def State.writeC0res (s : State) (tw : Nat) (v : Word) : State := s.onTower tw fun t => { t with c0res := v.setWidth 32 }

/-- MIGCNT is written: its counters are cleared (20 R398). -/
def State.clearMigCnt (s : State) (tw : Nat) : State :=
  s.onTower tw fun t => { t with migDone := 0, migPskip := 0, migBskip := 0, migAband := 0 }

/-- A write of a supervisor register (17 R350; 18 R378; 20 R398). -/
def State.writeSvReg (s : State) (c : Ctx) (sel : Nat) (v : Word) : State :=
  let tw := c.tower
  match sel with
  | 17 => s.writeFqBase tw v
  | 18 => s.writeFqPtr tw v
  | 19 => { s with asidtab := w64 (bitsOf v 20 32 * 2 ^ 20) }
  | 20 =>
    let s := { s with asidCmd := v.setWidth 17 }
    if v.getLsbD 16 then s.makeLive (v.setWidth 16) else s.makeNotLive (v.setWidth 16)
  | 21 => s.onTower tw fun t => { t with htdir := w64 (bitsOf v 19 33 * 2 ^ 19) }
  | 22 => s.writeOvq tw v
  | 23 => s.writeVlog v
  | 24 => s.onTower tw fun t => { t with wslSel := v.setWidth 8 }
  | 25 => s.writeWsl tw v
  | 26 => s.writeC0res tw v
  | 27 => s.onTower tw fun t => { t with migEn := v.getLsbD 0, migBound := Nat.max 2 (Nat.min 8 (bitsOf v 1 4)), migThr := bitsOf v 16 16 }
  | 28 => s.onTower tw fun t =>
      { t with migPool := w64 (bitsOf v 0 1 + bitsOf t.migPool 1 1 * 2 + bitsOf v 16 36 * 65536) }
  | 29 => s.clearMigCnt tw
  | 30 =>
    let d := w64 (bitsOf v 6 50 * 64)
    (s.onTower tw fun t => { t with gangcmd := d }).armGang c d
  | 31 =>
    let d := w64 (bitsOf v 6 50 * 64)
    (s.onTower tw fun t => { t with ckpt := d ||| w64 (bitsOf v 0 1) }).startCkpt c d (v.getLsbD 0)
  | _ => s

/-- A CWRITE is performed at its clause's commit (01 R27; 17 R354). -/
def State.writeReg (s : State) (c : Ctx) (sel : Nat) (v : Word) : State :=
  if sel < 16 then s.writeTaskReg c sel v else s.writeSvReg c sel v

/-! ### Event rows of these writes (log 17) -/

/-- The effect of a write by a context. -/
def regEvent (s : State) (c : Nat) (f : Ctx → State) : Host.Outcome State Fault Refusal :=
  match s.ctx? c with
  | none => .next s
  | some x => .next (f x).tick

/-- SRSEED_WRITE (03 R74). -/
def execSrseedWrite (c : Nat) (v : BitVec 64) (s : State) : Host.Outcome State Fault Refusal := regEvent s c fun x => s.writeTaskReg x 10 v

/-- LSPLIT_WRITE (08 R178). -/
def execLsplitWrite (c : Nat) (v : BitVec 64) (s : State) : Host.Outcome State Fault Refusal := regEvent s c fun x => s.writeTaskReg x 11 v

/-- PRIO_WRITE (01 R30). -/
def execPrioWrite (c : Nat) (v : BitVec 64) (s : State) : Host.Outcome State Fault Refusal := regEvent s c fun x => s.writeTaskReg x 4 v

/-- FPFLAGS_WRITE (17 R351). -/
def execFpflagsWrite (c : Nat) (v : BitVec 64) (s : State) : Host.Outcome State Fault Refusal := regEvent s c fun x => s.writeTaskReg x 9 v

/-- RESUME_WRITE (17 R354). -/
def execResumeWrite (c : Nat) (v : BitVec 64) (s : State) : Host.Outcome State Fault Refusal := regEvent s c fun x => s.writeTaskReg x 12 v

/-- AFRING_WRITE (17 R341). -/
def execAfringWrite (c : Nat) (v : BitVec 64) (s : State) : Host.Outcome State Fault Refusal := regEvent s c fun x => s.writeTaskReg x 7 v

/-- FQBASE_WRITE (17 R337). -/
def execFqbaseWrite (tw : Nat) (v : BitVec 64) (s : State) : Host.Outcome State Fault Refusal := .next (s.writeFqBase tw v).tick

/-- FQPTR_WRITE (17 R337). -/
def execFqptrWrite (tw : Nat) (v : BitVec 64) (s : State) : Host.Outcome State Fault Refusal := .next (s.writeFqPtr tw v).tick

/-- ASID_MAKE_LIVE (17 R350). -/
def execAsidMakeLive (asid : BitVec 16) (s : State) : Host.Outcome State Fault Refusal :=
  .next ({ s with asidCmd := asid.setWidth 17 ||| 0x10000#17 }.makeLive asid).tick

/-- ASID_MAKE_NOT_LIVE (17 R350). -/
def execAsidMakeNotLive (asid : BitVec 16) (s : State) : Host.Outcome State Fault Refusal :=
  .next ({ s with asidCmd := asid.setWidth 17 }.makeNotLive asid).tick

/-- OVQ_WRITE (17 R350). -/
def execOvqWrite (tw : Nat) (v : BitVec 64) (s : State) : Host.Outcome State Fault Refusal := .next (s.writeOvq tw v).tick

/-- VLOG_WRITE (17 R350). -/
def execVlogWrite (v : BitVec 64) (s : State) : Host.Outcome State Fault Refusal := .next (s.writeVlog v).tick

/-- WSLDAT_WRITE (17 R350). -/
def execWsldatWrite (tw : Nat) (v : BitVec 64) (s : State) : Host.Outcome State Fault Refusal := .next (s.writeWsl tw v).tick

/-- C0RES_WRITE (18 R378). -/
def execC0resWrite (tw : Nat) (v : BitVec 64) (s : State) : Host.Outcome State Fault Refusal := .next (s.writeC0res tw v).tick

/-- MIGCNT_WRITE (20 R398). -/
def execMigcntWrite (tw : Nat) (s : State) : Host.Outcome State Fault Refusal := .next (s.clearMigCnt tw).tick

/-- GANG_ARM (20 R401). -/
def execGangArm (c : Nat) (v : BitVec 64) (s : State) : Host.Outcome State Fault Refusal := regEvent s c fun x => s.writeSvReg x 30 v

/-- CHECKPOINT_START (20 R403). -/
def execCheckpointStart (c : Nat) (desc : BitVec 56) (s : State) : Host.Outcome State Fault Refusal :=
  regEvent s c fun x => s.startCkpt x (desc.setWidth 64) false

/-- RESTORE_START (20 R403). -/
def execRestoreStart (c : Nat) (desc : BitVec 56) (s : State) : Host.Outcome State Fault Refusal :=
  regEvent s c fun x => s.startCkpt x (desc.setWidth 64) true

/-- The nonzero bytes of the package's HBM and weight stores, at their places in a checkpoint image (20 R403). -/
def State.image (s : State) : List (Nat × Byte) :=
  s.mem.filterMap fun b =>
    if s.isFar b.1 then none
    else
      match paKind b.1 with
      | .hbm t => some (t * 192 * 2 ^ 30 + b.1 % 2 ^ 38, b.2)
      | .weight t off => some (1152 * 2 ^ 30 + t * 2 ^ 30 + off, b.2)
      | _ => none

/-- The physical address of a place in a checkpoint image (20 R403). -/
def State.imagePa (s : State) (off : Nat) : Nat :=
  s.self * 2 ^ 46 +
    (if off < 1152 * 2 ^ 30 then off / (192 * 2 ^ 30) * 2 ^ 38 + off % (192 * 2 ^ 30)
     else 0x20000000000 + (off - 1152 * 2 ^ 30))

/-- CHECKPOINT_DONE: the whole image has been written or read back, or an error has stopped it; the updates asked for before it come first (20 R403; 23 R428). -/
def execCheckpointDone (failed : Bool) (image : List (Nat × BitVec 8)) (s : State) : Host.Outcome State Fault Refusal :=
  match s.ckptRun with
  | none => .next s
  | some k =>
    let wait := decide (0 < k.behind) && s.fwAsked
    let s := { s with ckptRun := if wait then some k else none }
    if wait then .next s
    else if failed then .next (s.putStatus k.tower k.asid k.status 4).tick
    else if k.restore then
      let kept := s.mem.filter fun b => s.isFar b.1 || (match paKind b.1 with
        | .hbm _ => false
        | .weight _ _ => false
        | _ => true)
      let mem := (image.filter fun b => decide (b.1 < 1158 * 2 ^ 30)).foldl (fun m b => Memory.set m (s.imagePa b.1) b.2) kept
      let s : State := { s with
        mem := mem
        snoop := []
        outbox := s.outbox ++ s.snoop.map Out.backInvalidate }
      .next (s.putStatus k.tower k.asid k.status 2).tick
    else .next (({ s with outbox := s.outbox ++ [.checkpoint k.port k.target s.image] } : State).putStatus k.tower k.asid k.status 2).tick

end Sys2Proof.Machine
end

