-- ==== Sys2Proof/Machine/Perform.lean ====
section
/-! DEFINITION. Sys2Proof/Machine/Perform.lean: performing what a commit handed over: the releases of 07 R155, fences, engine commands behind a fence; ending, halting and resuming tasks (17 R342, R344, R355, R357, R358; 18 R372). -/

namespace Sys2Proof.Machine

/-- How an action that is performed behind its clause's commit acts (07 R155). -/
abbrev Performer := State → Ctx → Pend → Action → State

/-! ### Faults still open -/

/-- Whether a late fault of a task is still to be consumed: learned of, in a ring, or on its way to one; build records stop no task (17 R333, R344). -/
def State.openFaults (s : State) (k : TaskKey) (on : Option Ctx) (ring : List AfRec) : Bool :=
  (s.lates.any fun l => decide (l.1 = k)) || !(s.openSeqs k on).isEmpty
    || (s.recq.any fun r => decide (r.owner = k.recA) && decide (r.asid = k.asid) && r.load.isNone && decide (r.src ≠ 4))
    || ring.any fun r => decide (r.src ≠ 4)

/-- Every late fault of a task is consumed as a discard (17 R341, R355). -/
def State.discardFaults (s : State) (k : TaskKey) : State :=
  let s := { s with
    lates := s.lates.filter fun l => !decide (l.1 = k)
    recq := s.recq.filter fun r => !(decide (r.owner = k.recA) && decide (r.asid = k.asid) && r.load.isNone)
    heldActs := s.heldActs.filter fun h => !(decide (h.1 = k) && (match h.2.st with
      | .faulted _ _ => true
      | _ => false))
    ctxs := s.ctxs.map fun c : Ctx => if c.kind = CtxKind.task ∧ c.key = k then
      { c with pend := c.pend.filter fun p => match p.st with
          | .faulted _ _ => false
          | _ => true } else c
    mnodes := s.mnodes.map fun m : MNode => if m.ofTask k then (m.queue.filter fun q : MCmd => q.fault.isSome).foldl MNode.dropCmd m else m }
  (s.scmds.filter fun q : SCmd => q.ofTask k).foldl (fun (u : State) (q : SCmd) => q.repairs.foldl (fun (w : State) (r : Repair) =>
    match w.scmds.find? fun x => decide (x.id = q.id) with
    | some q => w.dropScmd q r
    | none => w) u) s

/-! ### Ends -/

/-- What its engines still hold when a task ends keeps the place of its ring (17 R344). -/
def State.leaveRing (s : State) (c : Ctx) : State :=
  let busy := (s.mnodes.any fun m => m.ofTask c.key && !m.queue.isEmpty) || s.scmds.any fun q => q.ofTask c.key && q.unfinished
  if busy then { s with ended := (s.ended.filter fun e => !decide (e.key = c.key)) ++ [⟨c.key, c.afBase, c.afHead, c.afTail, c.lateSeq⟩] } else s

/-- A fence is performed: kinds rel, acqrel and sc are releases, kind engine is none (09 R210, R214; 13 R293). -/
def State.fenceDone (s : State) (c : Ctx) (kind : Nat) (sc : Scope) : State :=
  if decide (kind ≤ 3) && Scope.wide sc then s.released c.recA c.asid else s

/-- What a context still holds of a task that ends without a lens is performed in program order: its held stores and its releases; a store that faults now is reported and discarded (17 R344, R355). -/
def State.flush (perf : Performer) (s : State) (c : Ctx) : State :=
  c.entries.foldl
    (fun u p =>
      match p.what, p.st with
      | .store l rel many, .waiting =>
        match u.vwriteH c.asid l.va l.data p.hyp (some c.recA) with
        | (w, none) => if rel then ((u.released c.recA c.asid).vwriteH c.asid l.va l.data p.hyp (some c.recA)).1 else w
        | (w, some (k, va)) => w.fqRecord
            { kind := k, src := if many then 1 else 0, eff := p.eff, iid := p.iid, cause := 0, seq := c.lateSeq, va := va, clause := p.clause
              ticket := p.cc.setWidth 64, owner := c.recA, idx := 0, idx2 := 0, asid := c.asid, hyp := p.hyp, data := l.data
              load := none, tower := c.tower }
      | .store _ _ _, _ => u
      | .fence k sc, _ => u.fenceDone c k sc
      | .act a, _ => perf u { c with pend := [], heldIn := [], hyp := p.hyp } p a)
    s

/-- A task that holds no running lens ends: its held stores and releases proceed, then the terminal write follows (17 R344, R355). -/
def State.endAway (perf : Performer) (s : State) (tw : Nat) (t : TaskInfo) (code : Nat) (value : Ctx → Word) : State :=
  let r := s.stoppedCtx tw t
  let c : Ctx := match r.2 with
    | .ok c => c
    | .error _ => Ctx.blank s.nextCtx .task tw 0 0 t.recA t.asid s.time
  let u := (State.flush perf r.1 c).leaveRing c
  let u := match u.ctxOf? t.key with
    | some x => u.dropCtx x.id
    | none => u
  u.endTask tw t code (value c)

/-- A task is continued: its nodes go on with the commands behind those that faulted (12 R260). -/
def State.continueNodes (s : State) (k : TaskKey) : State :=
  { s with mnodes := s.mnodes.map fun m : MNode => if m.ofTask k then { m with held := none } else m }

/-- A task that held a lens becomes READY again; an orphaned silent one ends instead, what it still holds proceeding (10 R244; 17 R355). -/
def State.becomeReady (perf : Performer) (s : State) (tw : Nat) (t : TaskInfo) : State :=
  if s.hypRefuted t.hyp && s.recSilent t then (s.discardFaults t.key).endAway perf tw t 8 fun _ => 0 else (s.makeReady tw t).continueNodes t.key

/-- A STOPPED task whose end waits for its records ends once they are consumed (17 R344). -/
def State.finishEnd (perf : Performer) (s : State) (tw : Nat) (k : TaskKey) : State :=
  match s.task? tw k with
  | none => s
  | some t =>
    match s.stoppedCtx tw t with
    | (_, .error _) => s
    | (u, .ok c) =>
      if t.endAsked && !u.openFaults k (s.ctxOf? k) (u.ringRecs t.asid c.afBase c.afHead c.afTail) then
        u.endAway perf tw t 5 fun c => c.gr 1
      else s

/-! ### Engine commands at a stop -/

/-- Two bits for each slot of the last committed clause that launched an engine command: 01 finished, with a ticket that shows it complete, 10 running, 11 faulted (17 R353). -/
def State.engOf (s : State) (c : Ctx) (ef : BitVec 5) (node : Option Nat) : Nat :=
  let mine (o : Origin) : Bool := decide (o.key = c.key) && o.load.isNone && decide (o.cc = c.commitCount) && decide (o.eff = ef)
  let written (q : BitVec 16) : Bool := !s.recq.any fun r => decide (r.seq = q) && decide (r.owner = c.recA) && decide (r.asid = c.asid) && r.load.isNone
  let here := (s.mnodes.filter fun m : MNode => m.ofTask c.key).flatMap fun m : MNode => m.queue.filter fun q : MCmd => mine q.org
  if c.pend.any fun p => decide (p.cc = c.commitCount) && decide (p.eff = ef) && (match p.what with
    | .act _ => true
    | _ => false) then 2
  else
    match here with
    | q :: _ => match q.fault with
      | some f => if written f.1 then 3 else 2
      | none => 2
    | [] =>
      match s.scmds.find? fun q => mine q.org && q.unfinished with
      | some q => if q.repairs.any fun r => written r.seq then 3 else 2
      | none =>
        if s.mnodes.any fun m => decide (m.tower = c.tower) && decide (some m.n = node) && !m.idle then 2 else 1

/-- The eng field (17 R338, R353). -/
def State.engField (s : State) (c : Ctx) : Word :=
  w64 (c.lastEng.map fun e => s.engOf c e.1 e.2 * 4 ^ e.1.toNat).sum

/-! ### Stops reported -/

/-- The stop of a task that could not be written back is reported; its context keeps the slots its clause had performed (17 R338; 18 R372). -/
def State.reportParked (s : State) (tw : Nat) (t : TaskInfo) (c : Ctx) (k : Kind) (va : Word) (also : BitVec 32) : State :=
  let s := (s.handlerEnds c).onCtx c.id fun x => { x with causeCode := BitVec.ofNat 5 k.code, faddr := va, parked := true, also := also }
  if c.base = (s.tower tw).svCell then s
  else
    s.fqPush tw { FqEntry.blank k.code 0 s.time with
      asid := t.asid, also := also, subject := t.recA, clause := c.pc, va := va, doneMask := c.lastDone, eng := s.engField c }

/-- A STOPPED task that kept its lens is written back again; it leaves its lens, or its stop is reported again (18 R372). -/
def State.unpark (s : State) (tw : Nat) (t : TaskInfo) (c : Ctx) : State × Bool :=
  match s.writeBack t c with
  | (u, some (k, va)) => (u.reportParked tw t c k va c.also, false)
  | (u, none) => ((u.putRecord tw t c .stopped).offLens t c (some (s.saveOf t)), true)

/-! ### HALT, TRESUME and WINWR -/

/-- The state a HALT action ends a task in: FAILED or KILLED (07 R153; 17 R355). -/
def haltCode (act : BitVec 2) : Nat := if act = 1 then 6 else 7

/-- A HALT of a task that holds no running lens (17 R355). -/
def State.haltAway (perf : Performer) (s : State) (tw : Nat) (t : TaskInfo) (act : BitVec 2) : State :=
  if act = 0 then
    match t.st with
    | .ready => (s.stopOff tw t .halted 0).ovqStore tw
    | .stopped => match s.ctxOf? t.key with
      | some c => (s.unpark tw t c).1
      | none => s
    | _ => s
  else (s.discardFaults t.key).endAway perf tw t (haltCode act) fun _ => 0

/-- A HALT reaches a running task; one that is to end it stands against later ones (17 R355). -/
def Ctx.askHalt (c : Ctx) (act : BitVec 2) : Ctx :=
  { c with haltReq := match c.haltReq with
      | some a => if a = 0 then some act else some a
      | none => some act }

/-- HALT is performed (17 R355). -/
def State.haltTask (perf : Performer) (s : State) (rec : Word) (act : BitVec 2) : State :=
  match s.taskAt rec none with
  | none => s
  | some (tw, t) =>
    match s.ctxOf? t.key with
    | some c => if c.parked then s.haltAway perf tw t act else s.onCtx c.id fun x => x.askHalt act
    | none => s.haltAway perf tw t act

/-- TRESUME is performed (17 R344, R358; 18 R372). -/
def State.resumeTask (perf : Performer) (s : State) (rec : Word) : State :=
  match s.stopped? rec with
  | none => s
  | some (tw, t) =>
    let r := match s.ctxOf? t.key with
      | some c => s.unpark tw t c
      | none => (s, true)
    if !r.2 then r.1
    else
      match r.1.task? tw t.key with
      | none => r.1
      | some t =>
        let endp := match (r.1.stoppedCtx tw t).2 with
          | .ok c => c.endp
          | .error _ => false
        if endp then (r.1.onTask tw t.key fun x => { x with endAsked := true }).finishEnd perf tw t.key
        else r.1.becomeReady perf tw t

/-- WINWR is performed; records of a task off its lens are read and replayed with its own registers and held stores (17 R342, R357). -/
def State.windowWrite (perf : Performer) (s : State) (rec : Word) (win : BitVec 8) (v : Word) : State :=
  match s.stopped? rec with
  | none => s
  | some (tw, t) =>
    match win.toNat with
    | 195 =>
      let h := s.hypFinal (v.setWidth 12)
      let s := match s.ctxOf? t.key with
        | some x => s.onCtx x.id fun y => { y with hyp := h }
        | none => s
      (s.onTask tw t.key fun x => { x with hyp := h }).bindMove t.hyp h
    | 196 =>
      match s.stoppedCtx tw t with
      | (u, .error (k, a)) => u.fqStruct tw t.asid k t.recA a
      | (u, .ok x) => (u.putStopped tw t { x with prio := s.classOf t.asid (v.setWidth 3) }).onTask tw t.key fun y => { y with newPrio := none }
    | 199 =>
      match s.stoppedCtx tw t with
      | (u, .error (k, a)) => u.fqStruct tw t.asid k t.recA a
      | (u, .ok x) =>
        let n := Nat.min (v.setWidth 6 - x.afTail : BitVec 6).toNat (x.afHead - x.afTail).toNat
        let w := u.consume t.key tw x.afBase ((s.ctxOf? t.key).map fun y => y.id) x n x.afTail
        let w := match w.stoppedCtx tw t with
          | (y, .ok z) => y.putStopped tw t { z with afBase := w64 (bitsOf v 13 43 * 8192), afTail := x.afTail + BitVec.ofNat 6 n }
          | (y, .error _) => y
        w.finishEnd perf tw t.key
    | b =>
      match s.stoppedCtx tw t with
      | (u, .error (k, a)) => u.fqStruct tw t.asid k t.recA a
      | (u, .ok x) => u.putStopped tw t (x.windowPut b v)

/-! ### Releases -/

/-- An engine command is handed over with the hypothesis of its clause, or, of a view, performed (10 R234; 12 R258; 13 R276, R303). -/
def State.handOver (s : State) (c : Ctx) (p : Pend) (a : Action) : State :=
  let c := { c with hyp := p.hyp }
  let o := s.originOf c p.clause p.iid p.eff p.cc
  match a with
  | .vwdrop v => s.dropView c.asid v
  | .vwpol v b => s.setPolicy c.asid v b
  | .matrix node xop ta tb b cc => s.handMatrix c o node xop ta tb b cc
  | .streamer xop queue x y cc => s.handStreamer c o p.seq xop queue x y cc
  | _ => s

/-- An action is performed behind its commit (07 R155, R157 to R170; 17 R358, R362). -/
def State.performAct : (fuel : Nat) → Performer
  | 0, s, _, _, _ => s
  | n + 1, s, c, p, a =>
    if a.isEngine then s.handOver c p a
    else
      let s := s.released c.recA c.asid
      let sv := decide (c.base = (s.tower c.tower).svCell)
      match a with
      | .tspawn rec => s.submit c.tower rec c.asid sv false
      | .tsubmit rec => s.submit c.tower rec c.asid sv true
      | .tdep pred succ => s.addDep c.tower c.asid pred succ
      | .trange mask => s.releaseRanges c.tower c.key mask
      | .tprio rec cls => s.setClass c.tower c.asid rec cls
      | .amsend m => s.sent c.key m
      | .htset slot tower v => s.setHandler tower.toNat c.asid slot.toNat v
      | .tresume rec => s.resumeTask (State.performAct n) rec
      | .wsopen tw => s.onTower tw fun t => { t with wsOpen := true }
      | .wsclose tw => s.onTower tw fun t => { t with wsOpen := false }
      | _ => s

/-- The performer of this model: releases that end other tasks may perform the releases these held, to a depth of 8. -/
def performer : Performer := State.performAct 8

/-- Entries at the head of a queue that no store precedes are performed: fences, and releases and engine commands, which see no younger store and the hypothesis of their own clause (09 R210, R214, R216; 10 R234; 13 R280). -/
def State.drain (s : State) (c : Nat) : (fuel : Nat) → State
  | 0 => s
  | n + 1 =>
    match s.ctx? c with
    | none => s
    | some x =>
      match x.pend with
      | [] => s
      | p :: rest =>
        let s' := s.onCtx c fun y => { y with pend := rest }
        match p.what with
        | .store _ _ _ => s
        | .fence k sc => (s'.fenceDone x k sc).drain c n
        | .act a => (performer s' { x with pend := [], heldIn := [], hyp := p.hyp } p a).drain c n

/-- Perform what no store precedes, and let held entries in (09 R216; 18 R376). -/
def State.settle (s : State) (c : Nat) : State :=
  match s.ctx? c with
  | none => s
  | some x =>
    let s := if x.heldIn.isEmpty then s else s.onCtx c fun y => y.letIn y.heldIn
    (s.drain c (x.pend.length + x.heldIn.length + 1)).hypSweep

end Sys2Proof.Machine
end

