-- ==== Sys2Proof/Machine/Fetch.lean ====
section
/-! DEFINITION. Sys2Proof/Machine/Fetch.lean: fetching clauses: the window, prediction, the return-address stack, and the bytes of a clause (01 R10 to R13, R24; 02 R39; 04 R112, R115; 08 R194; 14 R307). -/

namespace Sys2Proof.Machine

/-! ### Prediction -/

/-- The branch of a clause that an exit names; branches of format G report exit 7 (02 R39). -/
def branchExit (i : Instr) : Option (BitVec 3) :=
  match i with
  | .bro _ e _ | .callo _ e _ | .yield _ e _ | .scall _ e _ => some e
  | .br _ | .call _ | .ret _ | .exitt _ => some 7
  | _ => none

/-- The branch a clause is predicted to end in, with the target the predictor keeps for it: of the exits it has seen of that clause, the latest; of two branches with that exit the one with the lowest identifier: DESIGN CHOICE, log 114 (02 R39; 04 R115). -/
def Ctx.predictedEnd (c : Ctx) (x : Inst) : Option (Instr × Word) :=
  match c.predictor.find? fun p => decide (p.1 = x.addr) with
  | none => none
  | some (_, e, target) =>
    ((List.range x.words.length).findSome? fun k =>
      (x.instrAt (BitVec.ofNat 7 k)).filter fun i => decide (branchExit i = some e)).map fun i => (i, target)

/-- The prediction made as a clause is fetched, with the return-address stack after it: a call pushes its link, a return pops what it is predicted by; 16 entries, the oldest lost (02 R39; 04 R115). -/
def Inst.predict (x : Inst) (c : Ctx) (ras : List Word) : Inst :=
  match c.predictedEnd x with
  | some (.callo _ _ _, target) => { x with predicted := target, ras := (x.nextAddr :: ras).take 16 }
  | some (.call _, target) => { x with predicted := target, ras := (x.nextAddr :: ras).take 16 }
  | some (.ret _, target) => { x with predicted := ras.head?.getD target, ras := ras.drop 1 }
  | some (_, target) => { x with predicted := target, ras := ras }
  | none => { x with predicted := x.nextAddr, ras := ras }

/-- The return-address stack after the last clause fetched (04 R115). -/
def Ctx.rasNow (c : Ctx) : List Word := match c.window.getLast? with
  | some y => y.ras
  | none => c.ras

/-! ### What holds a fetch back -/

/-- Whether an instance holds an instruction of some sort. -/
def Inst.holds (x : Inst) (f : Instr → Bool) (unfired : Bool) : Bool :=
  (List.range x.words.length).any fun k =>
    (match x.instrAt (BitVec.ofNat 7 k) with
     | some i => f i
     | none => false) && !(unfired && x.fired.contains (BitVec.ofNat 7 k))

/-- Whether the clauses in flight let a younger one be fetched after the youngest, `y` (01 R24; 09 R226; 10 R247; 17 R348, R354, R356, R360). -/
def Ctx.fetchPast (c : Ctx) (y : Inst) : Bool :=
  let waits := (y.hdr.nopred || y.holds Instr.holdsFetch false || decide (c.width = 1)) && y.branch.isNone && !y.rft
  let ends : Bool := y.rft || (match y.branch with
    | some .exitt => true
    | some (.yield _) => true
    | some (.scall _) => true
    | some (.poisoned _) => true
    | _ => false)
  !waits && !ends && !c.window.any fun x => x.holds Instr.holdsFetchUntilFired true || x.holds Instr.holdsFetchWhole false

/-- The address of the next clause to fetch, none while the part fetches none (01 R24; 04 R112). -/
def Ctx.fetchAddr (c : Ctx) : Option Word :=
  if decide (0 < c.window.length) && decide (c.width ≤ c.window.length) then none
  else
    match c.window.getLast? with
    | none => some c.pc
    | some y =>
      if !c.fetchPast y then none
      else
        let a := match y.branch with
          | some (.jump t) => t
          | some (.call t) => t
          | _ => y.predicted
        if clauseAddrOk a then some a else none

/-! ### The bytes of a clause -/

/-- What reading bytes of a clause answers. -/
inductive Fetched where
  | ask (s : State)
  | bad (k : Kind) (va : Word) (s : State)
  | ok (bytes : List Byte) (s : State)
  deriving DecidableEq, Repr

/-- The bytes a store on its way changes at a leaf's page: committed, its permission known, not yet performed (02 R48; 09 R215). -/
def State.changes (s : State) (pa n : Nat) : List (Nat × List Byte) :=
  s.ctxs.flatMap fun c => c.pend.filterMap fun p => match p.what, p.st with
    | .store l _ _, .waiting => match s.pendPerm c p l with
      | .ok y =>
        if decide (y.pa l.va < pa + n) && decide (pa < y.pa l.va + l.data.length) && !(y.h && decide (s.hypFinal p.hyp ≠ 0))
          && s.live (y.pa l.va) && s.openAt (y.pa l.va) then some (y.pa l.va, l.data) else none
      | _ => none
    | _, _ => none

/-- A byte under the stores that change it, the newest last. -/
def changed (ch : List (Nat × List Byte)) (pa : Nat) (old : Byte) : Byte :=
  ch.foldl (fun b w => if w.1 ≤ pa then (w.2[pa - w.1]?).getD b else b) old

/-- Fetched bytes while stores change them: a free value takes old or new bytes for each aligned 16-byte quadword that a store touches (02 R48; log 7). -/
def State.fetchMix (s : State) (pa : Nat) (bs : List Byte) : List Byte :=
  match s.changes pa bs.length with
  | [] => bs
  | ch => bs.mapIdx fun k b => if (s.free 20).getLsbD ((pa + k) / 16 % 64) then changed ch (pa + k) b else b

/-- The parts of a fetch, page by page: the permission is checked at once, and the bytes are those of hypothesis 0 in memory, or of stores that change them (02 R48; 08 R186, R194; 23 R426). -/
def State.fetchParts (s : State) (c : Ctx) (cell : Nat) : List (Word × Nat) → Fetched
  | [] => .ok [] s
  | (va, n) :: rest =>
    match s.permGet c.tower cell c.asid va .fetch with
    | .ask t => .ask t
    | .bad k t => .bad k va t
    | .ok l =>
      if !s.live (l.pa va) then .bad .notlive va s
      else if s.badAt (l.pa va) n then .bad .eccunc va (s.eccEntry (l.pa va))
      else
        match s.fetchParts c cell rest with
        | .ok bs t => .ok (s.fetchMix (l.pa va) (s.leafBytes c.asid l va [] n) ++ bs) t
        | r => r

/-- Bytes of a clause; the scratch window holds none (08 R179). -/
def State.fetchBytes (s : State) (c : Ctx) (cell : Nat) (va : Word) (n : Nat) : Fetched :=
  if scratchBase < va.toNat + n then .bad .perm va s else s.fetchParts c cell (pageParts va n)

/-- A clause is placed in the window; one at an address that may hold none was not fetched (01 R24; 04 R112; 06 R150). -/
def State.placeInst (s : State) (c : Ctx) (addr : Word) (h : Header) (words : List (BitVec 32)) (mark : Option Kind) (va : Option Word) : State :=
  let s := s.dropNotes c.tower fun r => decide (r.acc = .fetch) && decide (c.base ≤ r.cell) && decide (r.cell < c.base + c.width)
  let base := match c.window.getLast? with
    | none => c.streamCount
    | some y => y.streamBase + BitVec.ofNat 32 y.streamerInsts.length
  let x := (Inst.place s.nextCmd addr h words mark base (if c.window.isEmpty then some s.time else none) 0 []).predict c c.rasNow
  let x := match va with
    | none => x
    | some a => { x with poisonVa := [(0, a)] }
  { (s.onCtx c.id fun y => { y with window := y.window ++ [x], clFetch := y.clFetch + fetchedCount [x] }) with nextCmd := s.nextCmd + 1 }.tick

/-- A clause is fetched from an address: its header, then its chunks; a fault of the fetch marks it (01 R12; 08 R190, R194). A clause whose header is malformed and whose chunks fault carries the fault's kind: DESIGN CHOICE, the spec ranks only the checks of 02 R47 (log 92). -/
def State.fetchFrom (s : State) (c : Ctx) (addr : Word) : State :=
  let cell := c.base + addr.toNat / 16 % (if c.width = 0 then 1 else c.width)
  if !clauseAddrOk addr then s.placeInst c addr .zero [] (some .clausefmt) none
  else
    match s.fetchBytes c cell addr 16 with
    | .ask t => t
    | .bad k va t => t.placeInst c addr .zero [] (some k) (some va)
    | .ok hb t =>
      let h := headerOf hb
      match t.fetchBytes c cell (addr + 16) h.size with
      | .ask u => u
      | .bad k va u => u.placeInst c addr .zero [] (some k) (some va)
      | .ok bs u => u.placeInst c addr h (wordsOf bs) (clauseMark h (wordsOf bs) false (c.needHandler && c.window.isEmpty)) none

/-! ### The event -/

/-- Whether a context runs clauses: composed, not stopped, not leaving (17 R332; 18 R372; 20 R402). -/
def Ctx.runs (c : Ctx) : Bool := !c.frozen && !c.parked && c.leaving.isNone && c.afterStop.isEmpty

/-- The pinned clause of a cell node, while its load runs and the node has not retired (14 R306, R307). -/
def State.pinned? (s : State) (c : Ctx) : Option FCell :=
  match c.kind with
  | .task => none
  | .node slot n =>
    match s.load? c.tower slot with
    | none => none
    | some l => if l.st = .running ∧ ¬ l.stopAsked ∧ ¬ c.retired then l.cells[n]? else none

/-- CLAUSE_FETCH: a lens fetches a clause into a free window share along the predicted path; a cell node places its next instance (01 R24; 14 R307). -/
def execClauseFetch (c : Nat) (s : State) : Host.Outcome State Fault Refusal :=
  match s.ctx? c with
  | none => .next s
  | some x =>
    match x.kind with
    | .task =>
      if !x.runs || (s.stopDue x && x.boundary) then .next s
      else
        match x.fetchAddr with
        | none => .next s
        | some a => .next (s.fetchFrom x a)
    | .node _ _ =>
      match s.pinned? x with
      | none => .next s
      | some f => if x.window.isEmpty then .next (s.placeInst x f.addr f.hdr f.words none none) else .next s

end Sys2Proof.Machine
end

