-- ==== Sys2Proof/Machine/Commit.lean ====
section
/-! DEFINITION. Sys2Proof/Machine/Commit.lean: the commit of a clause: completeness, poison at an output, the loads and stores performed at it, the hand-over of its effects, and the clause address it leaves (01 R18 to R21; 04 R110 to R118; 09 R204, R205, R214; 12 R258; 14 R307, R312, R315; 17 R348, R353). -/

namespace Sys2Proof.Machine

/-! ### Complete, and clean -/

/-- Whether an instance is complete (01 R19; 17 R348). -/
def Inst.complete (x : Inst) : Bool :=
  ((List.range 64).all fun r => !x.hdr.gwmask.getLsbD r || x.gw.any fun p => decide (p.1.toNat = r))
    && ((List.range 16).all fun r => !x.hdr.wwmask.getLsbD r || x.ww.any fun p => decide (p.1.toNat = r))
    && ((List.range 32).all fun e => !x.hdr.effmask.getLsbD e || (x.effOut? (BitVec.ofNat 5 e)).isSome)
    && (x.branch.isSome || x.rft)

/-- Where the poison of an instruction that fired came from: the instruction itself, or the origin of the first poison it received (01 R15). -/
def Inst.originAt (x : Inst) (f : Instr → Bool) : BitVec 7 :=
  ((List.range x.words.length).findSome? fun k =>
    let iid := BitVec.ofNat 7 k
    match x.instrAt iid with
    | none => none
    | some i =>
      if !x.fired.contains iid || !f i then none
      else
        match x.ready iid i with
        | .acts _ => some iid
        | .meetsPoison _ o => some o
        | _ => none).getD 0

/-- A poison at an output: its kind and its origin. -/
structure Bad where
  kind : Kind
  origin : BitVec 7
  deriving DecidableEq, Repr

/-- The effect slot of an instruction, zero for one that has none. -/
def Inst.slotAt (x : Inst) (iid : BitVec 7) : BitVec 5 := ((x.instrAt iid).bind fun i => i.effSlot).getD 0

/-- The first poisoned output: globals, wide globals, effect slots, the branch (01 R21). -/
def Inst.poison? (x : Inst) : Option Bad :=
  let g := (List.range 64).findSome? fun r => x.gw.findSome? fun p => match p.2 with
    | .poison k o => if p.1.toNat = r then some (⟨k, o⟩ : Bad) else none
    | _ => none
  let w := (List.range 16).findSome? fun r => x.ww.findSome? fun p => match p.2 with
    | .poison k o => if p.1.toNat = r then some (⟨k, o⟩ : Bad) else none
    | _ => none
  let e := (List.range 32).findSome? fun n => match x.effOut? (BitVec.ofNat 5 n) with
    | some (.poisoned k) => some (⟨k, x.originAt fun i => decide (i.effSlot = some (BitVec.ofNat 5 n))⟩ : Bad)
    | _ => none
  let b := match x.branch with
    | some (.poisoned k) => some (⟨k, x.originAt Instr.isBranch⟩ : Bad)
    | _ => none
  ((g.or w).or e).or b

/-- The address an access kept for a stop (17 R336). -/
def Inst.vaOf (x : Inst) (origin : BitVec 7) : Word := ((x.poisonVa.find? fun p => decide (p.1 = origin)).map fun p => p.2).getD 0

/-- The fault of a clause that cannot commit: its mark, or the first poisoned output once it is complete, with FADDR (01 R12, R21; 17 R336). -/
def Inst.ownFault (x : Inst) : Option (Kind × Word) :=
  match x.mark with
  | some k => some (k, if x.words.isEmpty then x.vaOf 0 else 0)
  | none => if x.complete then x.poison?.map fun b => (b.kind, x.vaOf b.origin) else none

/-! ### Handing over the effects -/

/-- What the hand-over of a clause's effects has come to, slot by slot. -/
structure Handed where
  st : State
  /-- Releases, to follow every store of the clause (07 R155). -/
  acts : List Pend
  pops : List (BitVec 5)
  pushes : List (BitVec 5 × Token)
  /-- Stops after the clause. -/
  stops : List (Kind × BitVec 32)
  /-- Slots that launched engine commands. -/
  eng : List (BitVec 5 × Option Nat)
  /-- Inbox cells whose head has been taken. -/
  taken : List Nat
  /-- Control registers to write once every other effect has been handed over (01 R27). -/
  regs : List (BitVec 5 × Word)
  /-- What HNEW, HENTER and HLEAVE do then (10 R232, R247). -/
  hyps : List Action

/-- Whether an instruction is a view or fabric command performed as it fired (17 R353). -/
def launches (i : Instr) : Bool :=
  match i with
  | .vwreg _ _ _ | .vwsync _ _ _ _ | .pload _ _ _ | .punload _ _ _ | .pstart _ _ _ | .pstop _ _ _ | .psave _ _ _ | .prest _ _ _ => true
  | _ => false

/-- The effect of one slot is handed over (01 R20). `held` tells that engine commands queue behind a fence of kind engine (09 R214). -/
def handOne (c : Ctx) (x : Inst) (held : Bool) (h : Handed) (e : Nat) : Handed :=
  let ef := BitVec.ofNat 5 e
  let iid := x.iidOf ef
  let entry (w : PendWhat) (seq : BitVec 32) : Pend := ⟨w, .waiting, c.posOf iid, ef, iid, x.addr, c.commitCount + 1, c.hyp, seq, h.st.time, false⟩
  let now := (h.st.ctx? c.id).getD c
  let queue (p : Pend) : State := h.st.onCtx c.id fun y => { y with pend := y.pend ++ [p] }
  let release (a : Action) : Handed := { h with acts := h.acts ++ [entry (.act a) 0] }
  let engine (a : Action) (node : Option Nat) : Handed :=
    let p := entry (.act a) (x.streamerSeq iid)
    { h with
      st := if held then queue p else h.st.handOver { now with hyp := c.hyp } p a
      eng := h.eng ++ [(ef, node)] }
  match x.effOut? ef with
  | some (.fired a) =>
    match a with
    | .done => if ((x.instrAt iid).map launches).getD false then { h with eng := h.eng ++ [(ef, none)] } else h
    | .store ps rel many =>
      if x.sent.contains ef then h
      else { h with st := h.st.onCtx c.id fun y => y.takeStores [(ef, ps, storePends c x ef iid ps rel many h.st.time)] }
    | .fence k sc => if k = 0 then h else { h with st := queue (entry (.fence k sc) 0) }
    | .acquire => h
    | .tspawn _ => release a
    | .tsubmit _ => release a
    | .tdep _ _ => release a
    | .trange _ => release a
    | .tprio rec_ cls => if rec_ = 0 then { h with st := h.st.onCtx c.id fun y => { y with prio := cls } } else release a
    | .amsend _ => release a
    | .htset _ _ _ => release a
    | .tresume _ => release a
    | .wsopen _ => release a
    | .wsclose _ => release a
    | .inboxTake cell =>
      if h.taken.contains cell then h
      else { h with st := h.st.onInbox c.tower cell fun b => b.pop, taken := cell :: h.taken }
    | .hnew _ => { h with hyps := h.hyps ++ [a] }
    | .henter _ => { h with hyps := h.hyps ++ [a] }
    | .hleave => { h with hyps := h.hyps ++ [a] }
    | .matrix node _ _ _ _ _ => engine a ((h.st.mnode? c.tower (h.st.ownerOf c node)).map fun m => m.n)
    | .streamer _ _ _ _ _ => engine a none
    | .vwdrop _ => engine a none
    | .vwpol _ _ => engine a none
    | .spush port t => { h with pushes := h.pushes ++ [(port, t)] }
    | .spop port => { h with pops := h.pops ++ [port] }
    | .trap code => { h with stops := h.stops ++ [(.trap, code.setWidth 32)] }
    | .rft => h
    | .cwrite sel v => if sel = 7 then { h with st := h.st.writeReg now 7 v } else { h with regs := h.regs ++ [(sel, v)] }
    | .halt rec_ act => { h with st := h.st.haltTask performer rec_ act }
    | .dbgbrk => if c.dbgBrk then { h with stops := h.stops ++ [(.break_, 0)] } else h
    | .winwr rec_ win v => { h with st := h.st.windowWrite performer rec_ win v }
  | _ => h

/-- Control registers are written in slot order. -/
def State.writeRegs (s : State) (cid : Nat) (rs : List (BitVec 5 × Word)) : State :=
  rs.foldl (fun u r => match u.ctx? cid with
    | some c => u.writeReg c r.1.toNat r.2
    | none => u) s

/-- HYPCUR and the binding move in slot order, every store of the clause being queued with its tag (10 R232, R233). -/
def State.moveHyps (s : State) (cid : Nat) (as : List Action) : State :=
  as.foldl (fun u a => match u.ctx? cid with
    | some c => u.commitHyp c a
    | none => u) s

/-- Every effect of a clause is handed over in slot order, its releases behind its stores, its control-register writes last: each of its effects uses the values before them, and only the records AFRING passes are read at their slot. A CWRITE of PRIO so comes behind a TPRIO of the same clause whatever their slots: DESIGN CHOICE, log 113 (01 R20, R27; 07 R155, R166; 17 R341). -/
def State.handAll (s : State) (c : Ctx) (x : Inst) : Handed :=
  let h := (List.range 32).foldl (handOne c x c.engineHeld) ⟨s, [], [], [], [], [], [], [], []⟩
  let u := (h.st.writeRegs c.id h.regs).onCtx c.id fun y => { y with pend := y.pend ++ h.acts }
  { h with st := u.moveHyps c.id h.hyps }

/-- The registers take the values of a clause: globals, wide globals, the link, the flags (01 R20; 04 R114). -/
def Ctx.takeRegs (c : Ctx) (x : Inst) : Ctx :=
  let c := x.gw.foldl (fun y p => match p.2 with
    | .scalar v => y.setG p.1 v
    | _ => y) c
  let c := x.ww.foldl (fun y p => match p.2 with
    | .wide v => y.setW p.1 v
    | _ => y) c
  let c := match x.branch with
    | some (.call _) => c.setG 63 x.nextAddr
    | _ => c
  { c with fpflags := orFlags c.fpflags x.flags }

/-- The counts of a commit, and what a stop after it reports (09 R221; 17 R338, R340, R353). -/
def Ctx.countCommit (c : Ctx) (x : Inst) (eng : List (BitVec 5 × Option Nat)) : Ctx :=
  { c with
    commitCount := c.commitCount + 1
    streamCount := c.streamCount + BitVec.ofNat 32 x.streamerInsts.length
    clCommit := c.clCommit + 1
    needHandler := false
    shielded := false
    lastDone := x.doneMask
    lastEng := eng }

/-- The next clause becomes oldest (01 R19; 07 R174). -/
def Ctx.shift (c : Ctx) (now : Nat) : Ctx :=
  { c with window := match c.window.drop 1 with
      | [] => []
      | y :: ys => { y with oldestAt := some now } :: ys }

/-- The clause address a committed clause leaves, and how the task goes on; RESUME is the register's value before the clause (01 R27; 04 R112 to R119; 17 R348, R353). -/
def Ctx.branchTo (c : Ctx) (x : Inst) (resume : Word) (stops : List (Kind × BitVec 32)) : Ctx :=
  if x.rft then { c.returnFromTrap resume with afterStop := stops }
  else
    match x.branch with
    | some (.jump t) => { c with pc := t, afterStop := stops }
    | some (.call t) => { c with pc := t, afterStop := stops }
    | some (.scall n) => { c with pc := x.nextAddr, afterStop := stops ++ [(.service, n.setWidth 32)] }
    | some (.yield t) => { c with pc := t, afterStop := stops, leaving := if stops.isEmpty then some .yield else none }
    | some .exitt => { c with leaving := some .exitt }
    | _ => c

/-- Whether a clause ends the run of its task on its lens, or moves it where no younger clause was fetched: the younger ones are squashed (04 R116 to R119; 17 R348). -/
def Inst.endsRun (x : Inst) : Bool :=
  x.rft || (match x.branch with
    | some (.jump _) => false
    | some (.call _) => false
    | _ => true)

/-- A clause of a task commits (01 R20). -/
def State.commitTask (s : State) (c : Ctx) (x : Inst) : State :=
  let h := s.handAll c x
  let stops := h.stops ++ (if c.dbgStep then [(.step, 0)] else [])
  let u := if x.endsRun || !stops.isEmpty then h.st.squashFrom c.id 1 else h.st
  let u := if x.rft then u.handlerEnds c else u
  let u := u.onCtx c.id fun y =>
    (((({ y.takeRegs x with ras := x.ras } : Ctx).countCommit x h.eng).shift u.time).branchTo x c.resume stops).settlePrio
  let u := match u.ctx? c.id with
    | some y => u.hypBoundary y
    | none => u
  (u.settle c.id).tick

/-! ### Cell nodes -/

/-- The edge-form transfers an instance hands over: slot, M-node number, whether it loads, port (14 R314). -/
def Inst.edgeForms (x : Inst) (driven : List (Nat × FNode)) : List (BitVec 5 × Nat × Bool × Nat) :=
  x.effs.filterMap fun p => match p.2 with
    | .fired (.matrix a xop _ port _ _) =>
      if xop < 17 then none else (driven[a]?).map fun d => (p.1, d.1, decide (xop = 17), port)
    | _ => none

/-- What an instance breaks of 14 R315: none, or the slot and the instruction, zero for a transfer that is missing. -/
def Load.edgeFault (l : Load) (n : Nat) (x : Inst) : Option (BitVec 5 × BitVec 7) :=
  let driven := l.driven n
  let forms := x.edgeForms driven
  let node (k : Nat) : Nat := l.cells.length + k
  let extra := (List.range 32).findSome? fun k => forms.find? fun f => decide (f.1.toNat = k) &&
    (!(l.edges.any fun e => if f.2.2.1 then decide (e.cnode = node f.2.1) && decide (e.cport = f.2.2.2)
        else decide (e.pnode = node f.2.1) && decide (e.pport = f.2.2.2))
      || forms.any fun g => decide (g.2 = f.2) && decide (g.1.toNat < k))
  match extra with
  | some f => some (f.1, x.iidOf f.1)
  | none =>
    if driven.any fun d => l.edges.any fun e =>
        (decide (e.cnode = node d.1) && !forms.any fun f => decide (f.2 = (d.1, true, e.cport)))
          || (decide (e.pnode = node d.1) && !forms.any fun f => decide (f.2 = (d.1, false, e.pport))) then some (0, 0)
    else none

/-- An instance of a cell node commits (14 R307, R312). -/
def State.commitNode (s : State) (c : Ctx) (x : Inst) : State :=
  let h := s.handAll c x
  let u := h.st.moveTokens c h.pops h.pushes
  let u := u.onCtx c.id fun y =>
    { (y.takeRegs x).countCommit x h.eng with window := [], iter := y.iter + 1, retired := y.retired || decide (x.branch = some .exitt) }
  (u.settle c.id).tick

/-- An instance of a cell node that cannot commit faults its load, once while the load runs (14 R307, R315; 17 R429). -/
def State.nodeBad (s : State) (l : Load) (n : Nat) (x : Inst) (k : Kind) (eff : BitVec 5) (iid : BitVec 7) : State :=
  if l.st = .running then (s.record6 l n k x.addr eff iid 0 0).tick else s

/-! ### The event -/

/-- Whether a clause writes LSPLIT (08 R178). -/
def Inst.writesSplit (x : Inst) : Bool :=
  x.effs.any fun p => match p.2 with
    | .fired (.cwrite sel _) => decide (sel = 11)
    | _ => false

/-- Whether the stores of a clause that are not sent ahead can be taken; a write of LSPLIT waits until held commands have read their descriptors under the value before it (01 R27; 08 R195; 13 R280). -/
def Ctx.storesFit (c : Ctx) (x : Inst) : Bool := c.canTake (storesOf c x (List.range 32) 0) && !(x.writesSplit && c.engineHeld)

/-- The oldest clause, its loads performed, commits or waits. -/
def State.tryCommit (s : State) (c : Ctx) (x : Inst) (go : State → Ctx → Inst → State) : State :=
  match s.performLoads c x 32 with
  | .wait t => t
  | .again t => t.rerun c.id
  | .ready t =>
    match (t.ctx? c.id).bind fun y => y.window.head?.map fun z => (y, z) with
    | none => s
    | some (y, z) => if y.storesFit z then go t y z else s

/-- CLAUSE_COMMIT: the oldest clause commits once it is complete and clean; in a fabric load one that cannot commit faults the load, and none commits once its status word says FAULTED (01 R20, R21; 09 R221; 14 R307, R315, R326, R328). -/
def execClauseCommit (c : Nat) (s : State) : Host.Outcome State Fault Refusal :=
  match s.ctx? c with
  | none => .next s
  | some y =>
    match y.window with
    | [] => .next s
    | x :: _ =>
      match y.kind with
      | .task =>
        if !y.runs || (s.stopDue y && y.boundary) || x.ownFault.isSome || !x.complete then .next s
        else .next (s.tryCommit y x State.commitTask)
      | .node slot n =>
        match s.load? y.tower slot with
        | none => .next s
        | some l =>
          match x.mark with
          | some k => .next (s.nodeBad l n x k 0 0)
          | none =>
            if !x.complete || !(decide (l.st = .running) || l.statusDue) then .next s
            else
              match s.recheck y.id (List.range 32) with
              | .waits t => .next t
              | .differs t => .next (t.rerun y.id)
              | .same _ =>
                match x.poison?, l.edgeFault n x with
                | some b, _ => .next (s.nodeBad l n x b.kind (x.slotAt b.origin) b.origin)
                | none, some (e, i) => .next (s.nodeBad l n x .clausefmt e i)
                | none, none => .next (s.tryCommit y x State.commitNode)

end Sys2Proof.Machine
end

