-- ==== Sys2Proof/Machine/Stop.lean ====
section
/-! DEFINITION. Sys2Proof/Machine/Stop.lean: what ends a task's run on its lens: stops and upcalls with their causes (17 R332 to R338, R346, R353, R355; 10 R244; 07 R174), and leaving by EXITT, YIELD, checkpoint and kill (04 R116, R117; 17 R344; 18 R369, R371, R372, R381). -/

namespace Sys2Proof.Machine

/-! ### Causes -/

/-- A cause of a stop. -/
structure Cause where
  kind : Kind
  /-- Source of a late fault (17 R340). -/
  src : Option (BitVec 3)
  va : Word
  arg : BitVec 32
  /-- The stop goes to the supervisor whatever UPCALL holds (17 R339). -/
  noUpcall : Bool
  /-- It is a fault of the oldest clause or its stall, so that the effects already performed are its clause's (09 R221). -/
  own : Bool
  deriving DecidableEq, Repr

/-- Whether an IDLE or a WAITV waits in the oldest clause; that wait does not count (09 R226; 17 R360). -/
def Inst.idles (x : Inst) : Bool :=
  x.waits.any fun w => !x.fired.contains w.1 && (match x.instrAt w.1 with
    | some (.idle _ _ _) => true
    | some (.waitv _ _ _ _) => x.loads.any fun r => decide (r.iid = w.1)
    | _ => false)

/-- Whether the oldest clause has stood for the stall limit without committing (07 R174; 08 R195; 17 R347). -/
def State.stalled (s : State) (c : Ctx) : Bool :=
  match c.window.head? with
  | none => false
  | some x => (match x.oldestAt with
      | some a => decide (a + s.stallLimit c.asid ≤ s.time)
      | none => false) && !x.idles

/-- The causes that stand before a context's oldest clause, in the order in which one is chosen (17 R334). -/
def State.causes (s : State) (c : Ctx) : List Cause :=
  let at_ (b : Bool) (k : Kind) (own : Bool) : List Cause := if b then [⟨k, none, 0, 0, false, own⟩] else []
  let mine := s.lates.filter fun l => decide (l.1 = c.key)
  let own := match c.window.head?.bind Inst.ownFault with
    | some (k, va) => [(⟨k, none, va, 0, false, true⟩ : Cause)]
    | none => []
  at_ c.lost .linklost false ++ mine.map (fun l => ⟨l.2.kind, some l.2.src, l.2.va, 0, l.2.noUpcall, false⟩)
    ++ own ++ at_ c.eccStop .eccunc false ++ at_ (s.hypRefuted c.hyp) .orphan false ++ at_ (s.stalled c) .stall true
    ++ at_ c.haltReq.isSome .halted false
    ++ (sortBy (fun a b => decide (a.1.code ≤ b.1.code)) c.afterStop).map fun a => ⟨a.1, none, 0, a.2, false, false⟩

/-- A bit for each cause of a list: the also mask of those not chosen (17 R334, R338). -/
def causeMask (cs : List Cause) : BitVec 32 := cs.foldl (fun m c => m ||| (1#32 <<< c.kind.code)) 0

/-- Whether a cause is taken as an upcall (17 R335). -/
def Ctx.upcalls (c : Ctx) (x : Cause) : Bool :=
  [Kind.notpres, Kind.viewstale, Kind.hypfull].contains x.kind && decide (c.upcall ≠ 0) && c.normalMode && !x.noUpcall

/-- The chosen cause of a stop that may be served now, with the others: at a boundary, or a fault or stall of the oldest clause (17 R332; 09 R221). -/
def State.chosen (s : State) (c : Ctx) : Option (Cause × List Cause) :=
  match s.causes c with
  | [] => none
  | x :: xs => if c.boundary || (x :: xs).any fun y => y.own then some (x, xs) else none

/-! ### Stopping -/

/-- The effect slots of the clause with a commit count whose stores are not performed: they have faulted late or are held (09 R216). -/
def Ctx.slotsHeld (c : Ctx) (cc : BitVec 32) : BitVec 32 := slotMask ((c.pend.filter fun p => decide (p.cc = cc)).map fun p => p.eff)

/-- The done field of a stop: the slots performed of the clause it stands before, or of the one it stands behind (09 R221; 17 R338). -/
def Ctx.doneAt (c : Ctx) : BitVec 32 :=
  match c.afterStop, c.window.head? with
  | _ :: _, _ => c.lastDone &&& ~~~(c.slotsHeld c.commitCount)
  | [], some y => y.doneMask &&& ~~~(c.slotsHeld (c.commitCount + 1))
  | [], none => 0

/-- A HALT that ends a task has been pending while another cause stopped it (17 R334, R355). -/
def State.haltAfter (s : State) (tw : Nat) (k : TaskKey) (halt : Option (BitVec 2)) : State :=
  match halt, s.task? tw k with
  | some act, some t => if act = 0 then s else s.haltAway performer tw t act
  | _, _ => s

/-- A task stops: it is written back and reported, or, when its save area cannot be written, keeps its lens (17 R332, R335; 18 R372). -/
def State.stopTask (s : State) (c : Ctx) (t : TaskInfo) (x : Cause) (others : List Cause) (endp : Bool) : State :=
  let done_ := c.doneAt
  let eng := s.engField c
  let h := s.hypFinal c.hyp
  let s := (s.clear c).hypBoundary c
  let s := { s with lates := s.lates.filter fun l => !decide (l.1 = c.key) }
  let again := decide (c.haltReq = some 0) && decide (x.kind ≠ .halted)
  let halt := c.haltReq
  let c : Ctx := { c.settlePrio with
    hyp := h, lastDone := done_, window := [], causeCode := BitVec.ofNat 5 x.kind.code, causeSrc := x.src.getD c.causeSrc, faddr := x.va, endp := endp
    afterStop := [], lost := false, eccStop := false, haltReq := none, leaving := none, drainAt := none }
  let s := s.onTask c.tower t.key fun y => { y with st := .stopped, halted := again }
  let s := match s.writeBack t c with
    | (u, some (k, va)) =>
      (((u.onCtx c.id fun _ => c).taskTo c.tower t .stopped).onTask c.tower t.key fun y => { y with hyp := c.hyp }).reportParked c.tower t c k va
        (causeMask (x :: others))
    | (u, none) =>
      let u := (u.putRecord c.tower t c .stopped).offLens t c (some (s.saveOf t))
      if c.base = (s.tower c.tower).svCell then u
      else
        u.fqPush c.tower { FqEntry.blank x.kind.code 0 s.time with
          asid := t.asid, also := causeMask others, subject := t.recA, clause := c.pc, va := x.va, arg := x.arg, doneMask := done_, eng := eng }
  s.haltAfter c.tower t.key halt

/-- A running task ends on its lens: its record is written back, its handler's time, its ring and its context go, the terminal write follows (07 R154, R165; 17 R344). -/
def State.endRunning (s : State) (c : Ctx) (t : TaskInfo) (code : Nat) (cval : Word) : State :=
  let s := (((s.clear c).putRecord c.tower t c .running).leaveRing c).handlerEnds c
  let s := (s.onTask c.tower t.key fun x => { x with hyp := c.hyp }).dropCtx c.id
  (s.endTask c.tower { t with hyp := c.hyp } code cval).hypSweep

/-- A HALT with action 01 or 10 reaches a running task: it stops at a boundary, its faults are discarded, its stores proceed, and it ends (17 R355). -/
def State.haltRunning (s : State) (c : Ctx) (t : TaskInfo) (act : BitVec 2) : Host.Outcome State Fault Refusal :=
  if !c.boundary then .next s
  else if !c.window.isEmpty || c.hasFault || s.openFaults c.key (some c) (s.ringRecs c.asid c.afBase c.afHead c.afTail) then
    .next ((((s.clear c).discardFaults c.key).onCtx c.id fun x => { x with afTail := x.afHead }).settle c.id).tick
  else if c.pend.isEmpty && c.heldIn.isEmpty then .next (s.endRunning c t (haltCode act) 0).tick
  else .next s

/-- The kind with which a task stops whose end must wait for its records (17 R344). -/
def State.openCause (s : State) (c : Ctx) (ring : List AfRec) : Cause :=
  let ls := (s.lates.filter fun l => decide (l.1 = c.key)).map fun l => (l.2.kind, l.2.src, l.2.va)
  let rs := (ring ++ s.recq.filter fun r => decide (r.owner = c.recA) && decide (r.asid = c.asid) && r.load.isNone).filterMap fun r =>
    if r.src = 4 then none else some (r.kind, r.src, r.va)
  let ps := c.pend.filterMap fun p => match p.st with
    | .faulted _ k => some (k, (0 : BitVec 3), (0 : Word))
    | .waiting => none
    | .applied => none
  let ms := (s.mnodes.filter fun m : MNode => m.ofTask c.key).flatMap fun m : MNode => m.queue.filterMap fun q : MCmd => q.fault.map fun f => (f.2, (2 : BitVec 3), (0 : Word))
  let ss := (s.scmds.filter fun q : SCmd => q.ofTask c.key).flatMap fun q : SCmd => q.repairs.map fun r : Repair => (r.kind, (3 : BitVec 3), (0 : Word))
  match ls ++ rs ++ ps ++ ms ++ ss with
  | x :: _ => ⟨x.1, some x.2.1, x.2.2, 0, true, false⟩
  | [] => ⟨.notpres, none, 0, 0, true, false⟩

/-! ### Leaving -/

/-- A task gives its lens back to become READY: its save area and its record are written; a HALT still pending acts then. One that cannot be written back is STOPPED on its lens, and a HALT that is to end it does (04 R117; 17 R355; 18 R371, R372, R381). -/
def State.leaveSaved (s : State) (c : Ctx) (t : TaskInfo) (shield : Bool) : State :=
  let h := s.hypFinal c.hyp
  let done_ := c.doneAt
  let s := (s.clear c).hypBoundary c
  let halt := c.haltReq
  let c : Ctx := { c.settlePrio with
    hyp := h, lastDone := done_, window := [], afterStop := [], leaving := none, drainAt := none, haltReq := none, shielded := c.shielded || shield }
  match s.writeBack t c with
  | (u, some (k, va)) =>
    let u := (u.onCtx c.id fun _ => c).taskTo c.tower t .stopped
    ((u.onTask c.tower t.key fun y => { y with hyp := c.hyp, halted := decide (halt = some 0) }).reportParked c.tower t c k va
      (if halt.isSome then 1#32 <<< Kind.halted.code else 0)).haltAfter c.tower t.key halt
  | (u, none) =>
    let u := ((u.putRecord c.tower t c .ready).offLens t c (some (s.saveOf t))).onTask c.tower t.key fun x => { x with preempted := shield }
    match u.task? c.tower t.key with
    | none => u
    | some t =>
      let u := u.becomeReady performer c.tower t
      match halt, u.task? c.tower t.key with
      | some act, some t => u.haltAway performer c.tower t act
      | _, _ => u

/-- A killed task: nothing is saved, its record becomes READY as it stood at its last dispatch (18 R369, R381). -/
def State.leaveKilled (s : State) (c : Ctx) (t : TaskInfo) : State :=
  let u := (s.clear c).offLens t c none
  let u := u.onTask c.tower t.key fun x => { x with shielded := true, preempted := true }
  match u.task? c.tower t.key with
  | none => u
  | some t =>
    let u := u.becomeReady performer c.tower t
    match c.haltReq, u.task? c.tower t.key with
    | some act, some t => u.haltAway performer c.tower t act
    | _, _ => u

/-- The causes at the boundary behind an EXITT that must wait for the records of its task: those that stand there, with the fault that is still open (17 R334, R344). -/
def State.exitCauses (s : State) (c : Ctx) (ring : List AfRec) : List Cause :=
  let cs := s.causes c
  if s.lates.any fun l => decide (l.1 = c.key) then cs
  else (cs.filter fun x => decide (x.kind = .linklost)) ++ s.openCause c ring :: cs.filter fun x => decide (x.kind ≠ .linklost)

/-- A task that leaves its lens does so once its stores have settled; at EXITT a stop waits for the record of its fault while the ring has room (04 R116, R117; 17 R339, R344; 18 R369, R371, R382). -/
def State.finishLeave (s : State) (c : Ctx) (t : TaskInfo) (how : Leave) : Host.Outcome State Fault Refusal :=
  if !s.quiet c then .next s
  else
    match how with
    | .exitt =>
      let ring := s.ringRecs c.asid c.afBase c.afHead c.afTail
      if s.openFaults c.key (some c) ring then
        if s.recordDue c then .next s
        else
          match s.exitCauses c ring with
          | [] => .next s
          | x :: xs => .next (s.stopTask c t x xs true).tick
      else .next (s.endRunning c t 5 (c.gr 1)).tick
    | .yield => .next (s.leaveSaved c t false).tick
    | .checkpoint => .next (s.leaveSaved c t true).tick
    | .kill =>
      if c.hasFault || s.openFaults c.key (some c) [] then .next (s.leaveSaved c t true).tick
      else .next (s.leaveKilled c t).tick

/-- An orphaned task whose record is silent ends ORPHANED, its records consumed as discards (10 R244; 17 R355). -/
def State.orphanEnd (s : State) (c : Ctx) (t : TaskInfo) : Host.Outcome State Fault Refusal :=
  if !c.window.isEmpty || c.hasFault then .next ((((s.clear c).discardFaults c.key).onCtx c.id fun x => { x with afTail := x.afHead }).settle c.id).tick
  else if c.pend.isEmpty && c.heldIn.isEmpty then .next (s.endRunning c t 8 0).tick
  else .next s

/-! ### The events -/

/-- A cause is served: an own fault is one only while the clause's loads stand as they were delivered (05 R149); a stop waits for the stores of committed clauses. An upcall leaves standing the late faults that must reach the supervisor (17 R339), and drops what would only have shown in an also mask: SERVICE, TRAP and BREAK (17 R334), and with them STEP (log 95). -/
def State.serve (s : State) (c : Ctx) (t : TaskInfo) (up : Bool) : Host.Outcome State Fault Refusal :=
  match s.chosen c with
  | none => .next s
  | some (x, others) =>
    let own := (x :: others).any fun y => y.own && decide (y.kind ≠ .stall)
    match (if own then s.recheck c.id (List.range 32) else .same s) with
    | .waits u => .next u
    | .differs u => .next (u.rerun c.id)
    | .same _ =>
      if c.upcalls x then
        if !up then .next s
        else
          .next (({ s.clear c with lates := s.lates.filter fun l => !decide (l.1 = c.key) || l.2.noUpcall } : State).onCtx c.id fun y =>
            { y.settlePrio.takeUpcall x.kind (x.src.getD y.causeSrc) x.va with afterStop := [] }).tick
      else if up then .next s
      else if x.kind = .orphan && s.recSilent t then s.orphanEnd c t
      else if !s.quiet c then .next s
      else .next (s.stopTask c t x others false).tick

/-- A context of a task with its entry. -/
def State.running? (s : State) (c : Nat) : Option (Ctx × TaskInfo) :=
  match s.ctx? c with
  | none => none
  | some x => if x.kind = .task ∧ ¬ x.parked ∧ ¬ x.frozen then (s.task? x.tower x.key).map fun t => (x, t) else none

/-- TASK_STOP: a task stops at a clause boundary with the chosen cause, is written back and reported; so do its halts and its ways to leave its lens (17 R332 to R335, R355). -/
def execTaskStop (c : Nat) (s : State) : Host.Outcome State Fault Refusal :=
  match s.running? c with
  | none => .next s
  | some (x, t) =>
    match x.leaving, x.haltReq with
    | some how, _ => s.finishLeave x t how
    | none, some act => if act = 0 then s.serve x t false else s.haltRunning x t act
    | none, none => s.serve x t false

/-- UPCALL: the task continues at UPCALL.addr in upcall mode instead of stopping (17 R335, R346). -/
def execUpcall (c : Nat) (s : State) : Host.Outcome State Fault Refusal :=
  match s.running? c with
  | none => .next s
  | some (x, t) => if x.leaving.isSome then .next s else s.serve x t true

/-- STALL: the oldest clause has not completed within the stall limit (07 R174; 17 R334). -/
def execStall (c : Nat) (s : State) : Host.Outcome State Fault Refusal :=
  match s.running? c with
  | none => .next s
  | some (x, t) => if x.leaving.isSome || !s.stalled x then .next s else s.serve x t false

/-- STOP_REQUEST: a stop reaches a lens from outside its clauses and is served at a boundary (01 R32; 17 R334, R355; 20 R389; 23 R427). -/
def execStopRequest (c : Nat) (r : StopReq) (s : State) : Host.Outcome State Fault Refusal :=
  match s.running? c with
  | none => .next s
  | some (x, _) =>
    match r with
    | .halt => .next (s.onCtx x.id fun y => y.askHalt 0).tick
    | .linkLost => .next (s.onCtx x.id fun y => { y with lost := true }).tick

end Sys2Proof.Machine
end

