-- ==== Sys2Proof/Machine/Windows.lean ====
section
/-! DEFINITION. Sys2Proof/Machine/Windows.lean: host writes to the submission windows (20 R395, R396). -/

namespace Sys2Proof.Machine

/-! ### Submission windows -/

/-- A write to a window is ignored and counted (20 R396). -/
def State.windowErr (s : State) (tw win : Nat) : State := s.onWindow tw win fun w => { w with werr := w.werr + 1 }

/-- Whether a record passes its checks, so that its submission takes a reservation (07 R156, R158). -/
def State.recPasses (s : State) (asid : BitVec 16) (rec : Word) : Bool :=
  match s.vread asid rec 64 0 with
  | (_, .bad _ _) => false
  | (u, .ok bs) => decide (bitsOf (qwordOf bs 0) 0 4 = 0) && decide ((u.checkRec (fun n => qwordOf bs n) asid false).2.1 = 0)

/-- The ring entry a SUBMIT takes (20 R396). -/
def Window.entry (w : Window) : Word := w.ring + w64 (64 * (w.wsub.toNat % 2 ^ w.rn))

/-- A submission of a window is performed and counted (20 R396). -/
def State.windowSubmit (s : State) (tw win : Nat) : State :=
  let w := s.window tw win
  (s.submitNow tw w.entry w.asid false w.strm (some (win, w.wsub.toNat % 2 ^ w.rn))).onWindow tw win fun x => { x with wsub := x.wsub + 1 }

/-- The stream of a window's next submission, if that is full or has one waiting (07 R161). -/
def State.windowStream (s : State) (tw win : Nat) : Option Nat :=
  let w := s.window tw win
  if w.strm then (s.streamOf w.asid w.entry).filter fun n => (s.tower tw).streamBusy n else none

/-- A submission of a window waits for room in its stream (07 R161). -/
def State.windowStreamWait (s : State) (tw win n : Nat) : State :=
  let w := s.window tw win
  s.onTower tw fun t => { t with streamWaits := t.streamWaits ++ [⟨n, w.entry, w.asid, false, some win⟩] }

/-- A write to SUBMIT at an offset (20 R396): ignored and counted, performed, or held with its record in the ring until a reservation is free and its stream has room (07 R158, R161). -/
def State.submitPut (s : State) (tw win off : Nat) (bytes : List Byte) : State :=
  let w := s.window tw win
  if off ≠ 0 ∨ bytes.length ≠ 64 ∨ ¬ w.en then s.windowErr tw win
  else
    match s.vread w.asid w.entry 8 0 with
    | (t, .bad _ _) => t.windowErr tw win
    | (t, .ok q) =>
      let st := bitsOf (qwordOf q 0) 0 4
      if 1 ≤ st ∧ st ≤ 4 then t.windowErr tw win
      else
        match t.vwrite w.asid w.entry bytes with
        | (u, some _) => u.windowErr tw win
        | (u, none) =>
          if u.recPasses w.asid w.entry && !(u.roomToSubmit tw && (u.tower tw).waitSubs.all fun x => x.granted) then
            (u.onTower tw fun t => { t with waitSubs := t.waitSubs ++ [⟨none, some win, false⟩] }).onWindow tw win fun x => { x with heldWr := [(0, bytes)] }
          else
            match (if u.recPasses w.asid w.entry then u.windowStream tw win else none) with
            | some n => (u.windowStreamWait tw win n).onWindow tw win fun x => { x with heldWr := [(0, bytes)] }
            | none => u.windowSubmit tw win

/-- A write of a register of a window; registers of the part and the rest of the page ignore it (20 R395). -/
def Window.put (w : Window) (off : Nat) (v : Word) : Window :=
  match off with
  | 0x40 => { w with asid := v.setWidth 16, en := v.getLsbD 16, strm := v.getLsbD 17, rn := Nat.min 12 (bitsOf v 18 5) }
  | 0x48 => { w with ring := w64 (bitsOf v 6 50 * 64) }
  | 0x50 => { w with cn := bitsOf v 0 4, cq := w64 (bitsOf v 4 60 * 16) }
  | 0x58 => { w with vec := v.setWidth 11, irq := v.getLsbD 15 }
  | 0x70 => { w with chead := v.setWidth 32 }
  | 0x78 => { w with werr := 0 }
  | _ => w

/-- The registers a write meets take their new qwords; a part of a qword leaves its other bytes as they are (20 R395). -/
def Window.putBytes (w : Window) (off : Nat) (bytes : List Byte) : Window :=
  (List.range 8).foldl (fun (x : Window) k =>
    let q := 0x40 + 8 * k
    if off < q + 8 ∧ q < off + bytes.length then
      x.put q (w64 (bytesToNat ((natToBytes 8 (x.qword q).toNat).zipIdx.map fun b => if off ≤ q + b.2 then (bytes[q + b.2 - off]?).getD b.1 else b.1)))
    else x) w

/-- A host write to a window is served in arrival order: behind a held SUBMIT it is held too (20 R396). -/
def State.windowPut (s : State) (tw win off : Nat) (bytes : List Byte) : State :=
  if !(s.window tw win).heldWr.isEmpty then s.onWindow tw win fun x => { x with heldWr := x.heldWr ++ [(off, bytes)] }
  else if off < 0x40 then s.submitPut tw win off bytes
  else s.onWindow tw win fun x => x.putBytes off bytes

/-- The writes behind a held SUBMIT are served, up to the next SUBMIT that is held (20 R396). -/
def State.windowResume (s : State) (tw win : Nat) : List (Nat × List Byte) → State
  | [] => s
  | (off, bs) :: rest => (s.windowPut tw win off bs).windowResume tw win rest

/-- Whether a tower and a window exist. -/
def windowExists (tw win : Nat) : Bool := decide (tw < Config.towers) && decide (win < 64)

/-- A host write to the device registers: a window's page takes it as the window does (20 R392, R395). -/
def State.hostDevWrite (s : State) (pa off : Nat) (bytes : List Byte) : State :=
  if off < 0x40000 * Config.towers then s.windowPut (off / 0x40000) (off / 0x1000 % 64) (off % 0x1000) bytes else s.devWrite pa off bytes

end Sys2Proof.Machine
end

