-- ==== Sys2Proof/Machine/Events.lean ====
section
/-! DEFINITION. Sys2Proof/Machine/Events.lean: what the memory system and the links do by themselves: walks and permission entries (08 R194 to R199), home slices (08 R181, R182), physical writes and host reads (08 R198; 20 R394), far requests (20 R390, R399, R400), links (20 R386 to R389), and accesses given up after 50 us (20 R389, R390). -/

namespace Sys2Proof.Machine

/-! ### Translation -/

/-- The accesses of a list of requests, each once, those that write first: one walk for all of them leaves D as the first of them needs it. -/
def accesses (qs : List WalkReq) : List Access :=
  [Access.store, .atomic, .load, .fetch].filter fun a => qs.any fun q => decide (q.acc = a)

/-- A complex answers requests for one page, access by access, each answer with the requests it is for (08 R190, R196). -/
def State.serveWalk (s : State) (tw : Nat) (qs : List WalkReq) : State :=
  (accesses qs).foldl
    (fun u a =>
      match qs.find? fun q => decide (q.acc = a) with
      | none => u
      | some r =>
        let w := u.translate tw r.asid r.page a
        w.1.onTower tw fun x => { x with walkAns := x.walkAns ++ (qs.filter fun q => decide (q.acc = a)).map fun q => ⟨q, x.gen, w.2.1, w.2.2⟩ })
    s

/-- Pages that walkers of a complex are at work on (08 R196). -/
def Tower.walks (t : Tower) : Nat := ((t.walkAns.filter fun a => a.walked).map fun a => (a.req.asid, a.req.page)).eraseDups.length

/-- TRANSLATION_WALK: a complex serves its oldest request, from its translation cache or by one of its 16 walkers, and with it every request for the same tag and page (08 R188, R196, R199). -/
def execTranslationWalk (tw : Nat) (s : State) : Host.Outcome State Fault Refusal :=
  let t := s.tower tw
  match t.walkReqs with
  | [] => .next s
  | r :: _ =>
    let same (q : WalkReq) : Bool := decide (q.asid = r.asid) && decide (q.page = r.page)
    if 16 ≤ t.walks then .next s
    else .next ((s.serveWalk tw (t.walkReqs.filter same)).onTower tw fun x => { x with walkReqs := x.walkReqs.filter fun q => !same q }).tick

/-- The stores of a cell that wait for a permission entry fault late, oldest first (08 R194, R195). -/
def State.faultWaiting (s : State) (c : Nat) (cell page : Nat) (k : Kind) : (fuel : Nat) → State
  | 0 => s
  | n + 1 =>
    match s.ctx? c with
    | none => s
    | some x =>
      match x.pend.findSome? fun p =>
        match p.what, p.st with
        | .store l _ _, .waiting =>
          if x.pendCell p = cell ∧ l.va.toNat / 65536 = page ∧ s.pendPerm x p l = .missing then some (p, l) else none
        | _, _ => none with
      | none => s
      | some (p, l) => (s.lateFault x p l k).faultWaiting c cell page k n

/-- A fault for a store of a cell reaches the contexts on that cell (08 R194, R195). -/
def State.storeFault (s : State) (tw : Nat) (r : WalkReq) (k : Kind) : State :=
  (s.ctxs.filter fun c : Ctx => decide (c.tower = tw) && decide (c.asid = r.asid) && decide (c.base ≤ r.cell) && decide (r.cell < c.base + c.width)).foldl
    (fun u c => u.faultWaiting c.id r.cell r.page k c.pend.length) s

/-- PERMISSION_ENTRY_ARRIVAL: the oldest answer reaches its cell: an entry is installed, a fault is handed to what waits, and an answer older than a shoot-down is asked for again; a slice has its line already (08 R194, R195, R196, R199; log 110). -/
def execPermissionEntryArrival (tw : Nat) (s : State) : Host.Outcome State Fault Refusal :=
  let t := s.tower tw
  match t.walkAns with
  | [] => .next s
  | a :: rest =>
    let s := s.onTower tw fun x => { x with walkAns := rest }
    if a.gen ≠ t.gen then
      .next (s.onTower tw fun x => { x with walkReqs := if x.walkReqs.contains a.req then x.walkReqs else x.walkReqs ++ [a.req] }).tick
    else
      if 256 ≤ a.req.cell then .next s.tick
      else
      match a.res with
      | .leaf l =>
        let page := if l.large then a.req.page / 1024 * 1024 else a.req.page
        .next (s.onTower tw fun x =>
          { x with
            perms := permInstall x.perms ⟨a.req.cell, l.tag a.req.asid, page, l⟩
            permNotes := x.permNotes.filter fun b => !(decide (b.req.cell = a.req.cell) && decide (b.req.asid = a.req.asid)
              && decide (page ≤ b.req.page) && decide (b.req.page < page + if l.large then 1024 else 1)) }).tick
      | .fault k _ =>
        if a.req.acc = .store then .next (s.storeFault tw a.req k).tick
        else .next (s.onTower tw fun x => { x with permNotes := x.permNotes ++ [a] }).tick

/-! ### Home slices -/

/-- HOME_SLICE_STORE: a home slice serves one of the stores of a context that may be performed now (08 R181, R195). -/
def execHomeSliceStore (c : Nat) (s : State) : Host.Outcome State Fault Refusal :=
  match s.ctx? c with
  | none => .next s
  | some x => .next (s.homeStep x)

/-- The updates of a store's lines reach one L1 (08 R181). -/
def State.forward (s : State) (c : Nat) (l : Option (BitVec 16) × Nat × Nat) : State :=
  s.onCtx c fun y => { y with l1 := y.l1.map fun x => if x.touches l.1 l.2.1 l.2.2 && !s.lineCut y.tower l.1 x.line then x.settle else x }

/-- Towers a tower cannot reach, as a mask (20 R389). -/
def State.cutMask (s : State) (tw : Nat) : Nat := ((List.range 6).map fun t => if s.reach tw t then 0 else 2 ^ t).sum

/-- The recorded sharers that withhold the acknowledgement of a store because its slice does not reach them: tower and cell (20 R389). -/
def State.cutSharers (s : State) (c : Ctx) (p : Pend) : List (Nat × Nat) :=
  match p.lines c.asid with
  | none => []
  | some (tag, va, n) => (s.owed tag va n).flatMap fun z =>
      (z.l1.filter fun x => x.touches tag va n && !x.u && !x.bytes.isEmpty && s.lineCut z.tower tag x.line).map fun x => (z.tower, z.base + x.pos)

/-- Whether a stay on cells includes a cell. -/
def spans (base width cell : Nat) : Bool := decide (base ≤ cell) && decide (cell < base + width)

/-- L1s of a tower are marked coherence-lost, and the tasks that hold or since the loss have held such a cell are to take LINKLOST (20 R389; log 19). -/
def State.markLost (s : State) (tw : Nat) (cells : List Nat) : State :=
  let on := (s.ctxs.filter fun c => decide (c.kind = .task) && decide (c.tower = tw) && cells.any (spans c.base c.width)).map Ctx.key
  s.onTower tw fun t =>
    let held := on ++ (t.left.filter fun x => cells.any (spans x.2.1 x.2.2)).map fun x => x.1
    { t with
      cohLost := t.cohLost ++ (cells.eraseDups).filter fun k => !t.cohLost.contains k
      cohTasks := t.cohTasks ++ (held.eraseDups).filter fun k => !t.cohTasks.contains k }

/-- Sharers of several towers are marked (20 R389). -/
def State.markSharers (s : State) (xs : List (Nat × Nat)) : State :=
  (List.range 6).foldl (fun u t => u.markLost t ((xs.filter fun x => decide (x.1 = t)).map fun x => x.2)) s

/-- Whether an L1 waits for the update of one of a store's lines that its slice can send it (08 R181; 20 R389). -/
def State.forwardable (s : State) (c : Ctx) (l : Option (BitVec 16) × Nat × Nat) : Bool :=
  c.l1.any fun x => x.touches l.1 l.2.1 l.2.2 && !x.u && !x.bytes.isEmpty && !(s.tower c.tower).cohLost.contains (c.base + x.pos) && !s.lineCut c.tower l.1 x.line

/-- The link that was lost last, the lowest of them. -/
def State.lastLost (s : State) : Nat :=
  ((List.range s.links.length).foldl (fun (b : Nat × Nat) n => match (s.links[n]?).bind fun l => l.lostAt with
    | some a => if b.2 < a + 1 then (n, a + 1) else b
    | none => b) (0, 0)).1

/-- A slice raises LINKLOST: every tower it reaches gets an entry with the link that was lost last and the towers the slice does not reach (20 R389). -/
def State.raiseLost (s : State) (tw : Nat) : State :=
  ((List.range 6).filter (s.reach tw)).foldl (fun u t => u.fqMachine t Kind.linklost.code 0 (BitVec.ofNat 32 (s.lastLost + s.cutMask tw * 256))) s

/-- When the last link was lost. -/
def State.lostSince (s : State) : Nat := (s.links.map fun l => l.lostAt.getD 0).foldl Nat.max 0

/-- STORE_ACK: of the oldest store served, an L1 that holds the line applies the bytes, which of them first being open (log 7); once every recorded L1 has, the store is acknowledged and gives its entry up, and what waited for it goes on. An L1 that the slice cannot reach withholds it, for 50 us at most; then it is coherence-lost, and the slice raises LINKLOST (08 R181, R195; 20 R389). -/
def execStoreAck (c : Nat) (s : State) : Host.Outcome State Fault Refusal :=
  match s.ctx? c with
  | none => .next s
  | some x =>
    match x.pend.find? fun p => decide (p.st = .applied) with
    | none => .next s
    | some p =>
      match p.lines x.asid, s.ackWaits x p with
      | some l, y :: ys =>
        match s.choose 21 ((y :: ys).filter fun z => s.forwardable z l) with
        | some z => .next (s.forward z.id l).tick
        | none =>
          if s.lostSince + s.us 50 ≤ s.time ∧ p.since + s.us 50 ≤ s.time then
            .next ((linesOf l.2.1 l.2.2).foldl (fun (u : State) k => u.raiseLost (s.homeSlice l.1 k / 64)) (s.markSharers (s.cutSharers x p))).tick
          else .next s
      | _, _ => .next ((s.onCtx c fun y => { y with pend := y.pend.erase p }).settle c).tick

/-- FILTER_BANK_CLEAR: every 16 us the older bank of a slice's second-touch filter is cleared and becomes the one that receives insertions (08 R182). -/
def execFilterBankClear (slice : Nat) (s : State) : Host.Outcome State Fault Refusal :=
  let tw := slice / 64
  let n := slice % 64
  if tw < 6 ∧ ((s.tower tw).filterAt[n]?).getD 0 + 16000 ≤ s.time then
    .next (s.onTower tw fun t =>
      { t with
        filterOld := (t.filterOld.filter fun b => !decide (b.1 = n)) ++ t.filterNew.filter fun b => decide (b.1 = n)
        filterNew := t.filterNew.filter fun b => !decide (b.1 = n)
        filterAt := t.filterAt.set n s.time }).tick
  else .next s

/-- REFRESH_WINDOW: at each multiple of 0.25 us the next bank enters its window; only the time of its reads depends on it (08 R185). -/
def execRefreshWindow (s : State) : Host.Outcome State Fault Refusal :=
  if s.time % 250 = 0 then .next s.tick else .next s

/-! ### Physical addresses -/

/-- Whether a line of a mapping lies in bytes of physical memory. -/
def Owner.lineIn (o : Owner) (tag : Option (BitVec 16)) (line pa n : Nat) : Bool :=
  let at_ := line * 64 - o.page * 65536 + o.frame * 65536
  decide (o.tag = tag) && decide (o.page * 1024 ≤ line) && decide (line < (o.page + o.count) * 1024) && decide (at_ < pa + n) && decide (pa < at_ + 64)

/-- The copies of the lines a physical write touches go from the L1s and the slices, owner by owner (08 R198). -/
def State.dropOwned (s : State) (pa n : Nat) : State :=
  match paTower pa with
  | none => s
  | some t =>
    let os := (s.tower t).owners.filter fun o => decide (o.frame * 65536 < pa + n) && decide (pa < (o.frame + o.count) * 65536)
    (s.l1Drop fun _ x => os.any fun o => o.lineIn x.tag x.line pa n).l2Drop fun x => os.any fun o => o.lineIn x.tag x.line pa n

/-- A write by physical address marks the master tiles it touches on pages with M = 1, by the owner table of its tower; it has no writer among the tasks (13 R293). -/
def State.dirtyOwned (s : State) (pa n : Nat) : State :=
  match paTower pa with
  | none => s
  | some t =>
    let os := (s.tower t).owners.filter fun o => decide (o.frame * 65536 < pa + n) && decide (pa < (o.frame + o.count) * 65536)
    { s with masters := s.masters.map fun m : Master =>
        os.foldl (fun x o =>
          let lo := Nat.max pa (o.frame * 65536)
          let va := o.page * 65536 + (lo - o.frame * 65536)
          let onM := match s.leafAt m.asid va with
            | some l => l.2.bit 7
            | none => false
          if (decide (o.tag = none) || decide (o.tag = some m.asid)) && onM then
            x.markN va none (Nat.min (pa + n) ((o.frame + o.count) * 65536) - lo)
          else x) m }

/-- A write by physical address is performed (08 R198; 20 R394). -/
def State.physPut (s : State) (pa : Nat) (bytes : List Byte) : State :=
  ((((s.dropOwned pa bytes.length).dirtyOwned pa bytes.length).pwrite pa bytes).backInvalidate pa bytes.length).wakeWatch pa bytes.length fun _ => true

/-- The new value a far atomic stores over n bytes, none when it stores nothing (09 R222 to R224; 20 R390). -/
def farOp (op n : Nat) (b : Wide) (c : Word) (old : Nat) : Option Nat :=
  let e := 8 * n
  let y := b.toNat % 2 ^ e
  match op with
  | 0 => some ((old + y) % 2 ^ e)
  | 1 => some (old &&& y)
  | 2 => some (old ||| y)
  | 3 => some (old ^^^ y)
  | 4 => some (if sgnOf e old ≤ sgnOf e y then old else y)
  | 5 => some (if sgnOf e old ≤ sgnOf e y then y else old)
  | 6 => some (if old ≤ y then old else y)
  | 7 => some (if old ≤ y then y else old)
  | 8 => some y
  | 9 => if old = y then some (c.toNat % 2 ^ e) else none
  | 10 => some (amoFadd (if n = 4 then .fp32 else .fp64) old y)
  | k =>
    let ln := vamoLane (match k with
      | 11 => .e32
      | 12 => .e64
      | 13 => .f32
      | _ => .bf16)
    some (packNat ln.1 (List.zipWith ln.2 (lanesNat ln.1 (512 / ln.1) old) (lanesOf ln.1 b)))

/-- The old frame a physical address lies in, if its page has migrated: its tower and where accesses go (20 R400). -/
def State.forwardAt (s : State) (pa : Nat) : Option (Nat × Forward) :=
  (paTower pa).bind fun t => ((s.tower t).forwards.find? fun f => decide (f.frame = pa / 65536)).map fun f => (t, f)

/-- What an access does to the bytes of another package (20 R390, R400; log 18). -/
def State.farApply (s : State) (pa : Nat) (op : FarOp) : State :=
  match op with
  | .store bytes => s.pwrite pa bytes
  | .atomic o n b c => match farOp o n b c (bytesToNat (s.pread pa n)) with
    | some v => s.pwrite pa (natToBytes n v)
    | none => s
  | _ => s

/-- An access that arrives through an old frame goes on to the new one as a far access (20 R400). -/
def State.forwardTo (s : State) (tw : Nat) (f : Forward) (src pa : Nat) (op : FarOp) : State :=
  let at_ := f.target * 65536 + pa % 65536
  let s := s.onTower tw fun w => { w with forwards := w.forwards.map fun g : Forward => if g = f then { g with lastAt := s.time } else g }
  { s.farApply at_ op with outbox := s.outbox ++ [.farForward src at_ op] }

/-- What stands against a write by physical address: NOTLIVE, PERM for a closed weight store, ECCUNC where it merges into a line in error (08 R195; 20 R390; 23 R426). -/
def State.physBad (s : State) (pa n : Nat) : Option Kind :=
  if !s.live pa then some .notlive else if !s.openAt pa then some .perm else if s.mergeBad pa n then some .eccunc else none

/-- PHYSICAL_WRITE: a host or a peer writes by physical address; a host write to a closed weight store is discarded and reported, one to a region that is not live is lost, one to a frame that has migrated goes on to the new frame (08 R186, R198; 20 R392, R394, R400, R404; 23 R425). -/
def execPhysicalWrite (host : Bool) (pa : Nat) (bytes : List (BitVec 8)) (s : State) : Host.Outcome State Fault Refusal :=
  if s.isFar pa then .next s
  else
    match paKind pa with
    | .hole => .next s
    | .device off => if host then .next (s.hostDevWrite pa off bytes).tick else .next s
    | _ =>
      match s.forwardAt pa with
      | some (t, f) => .next (s.forwardTo t f s.self pa (.store bytes)).tick
      | none =>
        if host && !s.openAt pa then
          .next (({ s with outbox := s.outbox ++ [.hostPoisoned pa] } : State).fqMachine ((paTower pa).getD 0) Kind.perm.code 0 0).tick
        else
          match s.physBad pa bytes.length with
          | none => .next (s.physPut pa bytes).tick
          | some .eccunc => .next ((s.physPut pa bytes).eccEntry pa).tick
          | some _ => .next s

/-- The snoop filter takes the lines a host reads; when it is full its oldest line is invalidated first (20 R394). -/
def State.snoopAdd (s : State) (line : Nat) : State :=
  if s.snoop.contains line then s
  else if s.snoop.length < 1048576 then { s with snoop := s.snoop ++ [line] }
  else { s with snoop := s.snoop.drop 1 ++ [line], outbox := s.outbox ++ (s.snoop.take 1).map Out.backInvalidate }

/-- HOST_READ: a host read of HDM returns bytes performed at PKG scope, of a frame that has migrated those of the new frame; a read of a window gives its fields, zeros for SUBMIT (20 R394, R395, R400). -/
def execHostRead (pa n : Nat) (s : State) : Host.Outcome State Fault Refusal :=
  let lines := (List.range ((pa + n + 63) / 64 - pa / 64)).map fun k => pa / 64 + k
  if s.isFar pa ∨ n = 0 ∨ 4096 < n then .next s
  else
    match paKind pa with
    | .hole => .next s
    | .device _ => .next ({ s with outbox := s.outbox ++ [.hostData (s.paBytes pa n) false] } : State).tick
    | _ =>
      match s.forwardAt pa with
      | some (t, f) =>
        let u := s.forwardTo t f s.self pa (.load n)
        .next ({ u with outbox := u.outbox ++ [.hostData (u.pread (f.target * 65536 + pa % 65536) n) false] } : State).tick
      | none =>
      let bad := !s.live pa || s.badAt pa n
      let u := if s.badAt pa n then s.eccEntry pa else s
      .next (lines.foldl State.snoopAdd { u with outbox := u.outbox ++ [.hostData (if bad then [] else u.paBytes pa n) bad] }).tick

/-! ### Far requests -/

/-- The agent answers a source. -/
def State.farAnswer (s : State) (src : Nat) (r : Except Kind (List Byte)) : State := { s with outbox := s.outbox ++ [.farReply src r] }

/-- The tracker counts a far access by page and source (20 R399). -/
def State.farCount (s : State) (src pa : Nat) : State :=
  match paTower pa with
  | none => s
  | some t =>
    let page := pa / 65536
    s.onTower t fun w =>
      let n := ((w.hot.find? fun h => decide (h.1 = page) && decide (h.2.1 = src)).map fun h => h.2.2).getD 0
      { w with hot := (w.hot.filter fun h => !(decide (h.1 = page) && decide (h.2.1 = src))) ++ [(page, src, n + 1)] }

/-- The remote agent performs one request by physical address; its accesses name no mapping, so it records nothing in the frame owner table: DESIGN CHOICE, log 118 (08 R197; 20 R390; 09 R220). -/
def State.farServe (s : State) (src pa : Nat) (op : FarOp) : State :=
  let ecc (u : State) : State := u.eccEntry pa
  match op with
  | .load n =>
    if !s.live pa then s.farAnswer src (.error .notlive)
    else if s.badAt pa n then (ecc s).farAnswer src (.error .eccunc)
    else s.farAnswer src (.ok (s.paBytes pa n))
  | .store bytes =>
    match paKind pa, s.physBad pa bytes.length with
    | .device off, _ => (s.devWrite pa off bytes).farAnswer src (.ok [])
    | _, none => (s.physPut pa bytes).farAnswer src (.ok [])
    | _, some k => (if k = .eccunc then ecc s else s).farAnswer src (.error k)
  | .atomic o n b c =>
    match (if s.live pa && s.openAt pa && s.badAt pa n then some Kind.eccunc else s.physBad pa n) with
    | some k => (if k = .eccunc then ecc s else s).farAnswer src (.error k)
    | none =>
      let old := bytesToNat (s.paBytes pa n)
      let u := match farOp o n b c old with
        | some v => s.physPut pa (natToBytes n v)
        | none => s
      u.farAnswer src (.ok (natToBytes n old))
  | .takePage _ _ _ => s

/-- The page of a mapping as the migration history names it. -/
def migKey (asid : BitVec 16) (page : Nat) : Nat := page * 65536 + asid.toNat

/-- A tower keeps the moves of pages of the last 10 ms (20 R399). -/
def Tower.noteMigration (t : Tower) (asid : BitVec 16) (page now : Nat) : Tower :=
  { t with migHist := (t.migHist.filter fun h => decide (now < h.2 + 10000000)) ++ [(migKey asid page, now)] }

/-- Times a page has moved within the last 10 ms, to or from any tower of the package (20 R399). -/
def State.migrations (s : State) (asid : BitVec 16) (page : Nat) : Nat :=
  (s.towers.flatMap fun t => t.migHist.filter fun h => decide (h.1 = migKey asid page) && decide (s.time < h.2 + 10000000)).length

/-- A page of another package is to come to this one: where its leaf here is a far leaf that names the frame and a tower has a free frame, that frame is taken and filled and the leaf rewritten; else the source learns that it is not (20 R399, R400; log 25). -/
def State.takePage (s : State) (src pa : Nat) (asid : BitVec 16) (page : Nat) (bytes : List Byte) : State :=
  let here := (s.leafAt asid (page * 65536)).filter fun x => x.2.far && !x.2.large && decide (x.2.pa (w64 (page * 65536)) / 65536 = pa / 65536)
  match here, (List.range Config.towers).find? fun t => (s.tower t).migPool.getLsbD 0 with
  | some (ea, l), some t =>
    let frame := bitsOf (s.tower t).migPool 16 36
    let s := s.onTower t fun w => { w with migPool := putBits w.migPool 0 1 0 }
    let s := s.partWrite (frame * 65536) (bytes.take 65536)
    let s := s.partWrite ea (natToBytes 8 (putBits (putBits l.raw 16 36 frame) 53 1 0).toNat)
    let f : ShootForm := .range asid page 1
    (((s.shootAll f).shootCells f).onTower t fun w => w.noteMigration asid page s.time).farAnswer src (.ok [])
  | _, _ => s.farAnswer src (.error .perm)

/-- FAR_REQUEST: the remote agent serves a load, store or atomic of another package; one to a frame that has migrated is forwarded; a home package may send a page (20 R390, R400). -/
def execFarRequest (src pa : Nat) (op : FarOp) (s : State) : Host.Outcome State Fault Refusal :=
  match op with
  | .takePage asid page bytes => if s.isFar pa then .next (s.takePage src pa asid page bytes).tick else .next s
  | _ =>
    if s.isFar pa ∨ paKind pa = .hole then .next s
    else
      match s.forwardAt pa with
      | some (t, f) => .next (s.forwardTo t f src pa op).tick
      | none => .next ((s.farCount src pa).farServe src pa op).tick

/-! ### Links -/

/-- Apply a change to a link. -/
def State.onLink (s : State) (n : Nat) (f : Link → Link) : State := { s with links := s.links.modify n f }

/-- FLIT_RETRY: a flit that fails its CRC is sent again; only a count shows it (20 R387; 23 R425). -/
def execFlitRetry (link : Nat) (s : State) : Host.Outcome State Fault Refusal :=
  match s.links[link]? with
  | none => .next s
  | some l => if l.lostAt.isSome then .next s else .next ({ s with flitRetries := s.flitRetries + 1 } : State).tick

/-- Spare lanes left of a link in a direction. -/
def Link.left (l : Link) (back : Bool) : Nat := if back then l.spares.2 else l.spares.1

/-- A spare lane of a direction comes in, or the link that has none left goes on with 32 lanes (20 R387). -/
def Link.retrain (l : Link) (back : Bool) (now : Nat) : Link :=
  { l with
    spares := if back then (l.spares.1, l.spares.2 - 1) else (l.spares.1 - 1, l.spares.2)
    half := l.half || decide (l.left back = 0)
    pausedUntil := now + 500 }

/-- LANE_RETRAIN: a failing lane of a link is retrained out and a spare of its direction in, or the link goes on with 32 lanes; a pause of at most 0.5 us. Numbers 0 to 6 are the links from their first tower to their second, 7 to 13 the same links back, 14 to 19 the HBM lanes of towers 0 to 5 (20 R387; 23 R427; log 19). -/
def execLaneRetrain (lane : Nat) (s : State) : Host.Outcome State Fault Refusal :=
  let link := if lane < 14 then lane % 7 else lane
  let back := decide (7 ≤ lane)
  match s.links[link]? with
  | none => if link < 20 then .next ({ s with hbmLanes := s.hbmLanes.modify (link - 14) fun n => n + 1 } : State).tick else .next s
  | some l =>
    if l.lostAt.isSome ∨ (l.left back = 0 ∧ l.half = true) then .next s
    else .next (s.onLink link fun x => x.retrain back s.time).tick

/-- LINK_LOSS: a link cannot train at 32 lanes; its traffic is rerouted (20 R388). -/
def execLinkLoss (link : Nat) (s : State) : Host.Outcome State Fault Refusal :=
  match s.links[link]? with
  | none => .next s
  | some l => if l.lostAt.isSome then .next s else .next (s.onLink link fun x => { x with lostAt := some s.time, served := false }).tick

/-- COHERENCE_LOSS_TIMEOUT: 50 us after a loss that cuts towers off, the slices acknowledge without the unreachable sharers, mark these coherence-lost, and every tower learns of what it cannot reach (20 R389). -/
def execCoherenceLossTimeout (link : Nat) (s : State) : Host.Outcome State Fault Refusal :=
  match s.links[link]? with
  | none => .next s
  | some l =>
    match l.lostAt with
    | none => .next s
    | some a =>
      if l.served ∨ s.time < a + s.us 50 ∨ ((List.range 6).all fun t => decide (s.cutMask t = 0)) = true then .next s
      else
        .next (((List.range 6).foldl (fun u t => u.fqMachine t Kind.linklost.code 0 (BitVec.ofNat 32 (link + s.cutMask t * 256)))
            (s.markSharers (s.ctxs.flatMap fun c => c.pend.flatMap (s.cutSharers c)))).onLink link
          fun x => { x with served := true }).tick

/-- The coherence-lost L1s of a tower are purged, and each task that held such a cell takes LINKLOST at its next boundary, those off their lens once they are dispatched (20 R389). -/
def State.purge (s : State) (tw : Nat) : State :=
  let t := s.tower tw
  let hit (c : Ctx) : Bool := decide (c.kind = .task) && decide (c.tower = tw) && t.cohTasks.contains c.key
  let on := (s.ctxs.filter hit).map Ctx.key
  { (s.onTower tw fun t => { t with cohLost := [], cohTasks := t.cohTasks.filter fun k => !on.contains k, left := [] }) with
    ctxs := s.ctxs.map fun c : Ctx =>
      let c := if c.tower = tw then { c with l1 := c.l1.filter fun x => !t.cohLost.contains (c.base + x.pos) } else c
      if hit c then { c with lost := true } else c }

/-- LINK_RECONNECT: a link trains again; each tower that reaches more towers than before purges its coherence-lost L1s (20 R389). -/
def execLinkReconnect (link : Nat) (s : State) : Host.Outcome State Fault Refusal :=
  match s.links[link]? with
  | none => .next s
  | some l =>
    if l.lostAt.isNone then .next s
    else
      let u := s.onLink link fun x => { x with lostAt := none, served := false }
      .next ((List.range 6).foldl (fun w t => if u.cutMask t = s.cutMask t then w else w.purge t) u).tick

/-! ### Accesses given up -/

/-- The accesses a memory instruction makes as it fires, reading or reading and writing: address and bytes (05 R141 to R146; 09 R220, R222 to R224, R226, R228, R229; 10 R250). -/
def accessVas (i : Instr) (v : Vals) : List (Word × Nat) :=
  let a := v.a.bits
  match i with
  | .ldZb _ _ imm _ => [(a + immScaled imm 1, 1)]
  | .ldSb _ _ imm _ => [(a + immScaled imm 1, 1)]
  | .ldZh _ _ imm _ => [(a + immScaled imm 2, 2)]
  | .ldSh _ _ imm _ => [(a + immScaled imm 2, 2)]
  | .ldZw _ _ imm _ => [(a + immScaled imm 4, 4)]
  | .ldSw _ _ imm _ => [(a + immScaled imm 4, 4)]
  | .ldD _ _ imm _ => [(a + immScaled imm 8, 8)]
  | .ldacq _ _ imm _ => [(a + immScaled imm 8, 8)]
  | .vld _ _ imm _ => [(a + immScaled imm 64, 64)]
  | .vlds _ _ sh _ => (stridedVas sh a v.b.bits).map fun va => (va, Shape.bits sh / 8)
  | .vgath _ _ sh uns scale _ => (gatheredVas sh uns scale a v.b.wbits).map fun va => (va, Shape.bits sh / 8)
  | .hldc _ _ _ _ size _ => [(a, MemSize.bytes size)]
  | .waitv _ _ _ _ => [(a, 8)]
  | .barw _ _ _ _ => [(a, 8)]
  | .vamoadd _ _ _ _ _ _ => [(a, 64)]
  | i => if i.isR220 && !i.isBranch && decide (i.reads.head?.map (fun r => r.2) = some Width.scalar) && i.isStore then [(a, 1)] else []

/-- Instructions of a context that have waited for 50 us on an access of some sort, the oldest clause first: instance and identifier. -/
def State.waitedOn (s : State) (c : Ctx) (f : Nat → Word × Nat → Bool) (msg : Bool) : List (Nat × BitVec 7) :=
  (c.window.zipIdx).flatMap fun x : Inst × Nat =>
    (x.1.waits.filter fun w => !x.1.fired.contains w.1 && !x.1.linkDead.contains w.1 && decide (w.2 + s.us 50 ≤ s.time)).filterMap fun w =>
      match x.1.instrAt w.1 with
      | none => none
      | some i =>
        match x.1.ready w.1 i with
        | .acts v =>
          let sends : Bool := match i with
            | .amsend _ _ => decide (bitsOf v.a.bits 16 6 ≠ s.self)
            | .amreply _ _ => decide (bitsOf (c.hmsg.getD 0) 64 6 ≠ s.self)
            | _ => false
          if (accessVas i v).any (f (c.cellOf w.1)) || (msg && sends) then some (x.2, w.1) else none
        | _ => none

/-- The access is given up: its instruction delivers poison of kind LINKLOST when it fires. -/
def State.giveUp (s : State) (c win : Nat) (iid : BitVec 7) : State :=
  s.onCtx c fun y => { y with window := y.window.modify win fun x => { x with linkDead := iid :: x.linkDead } }

/-- The oldest waiting store of a context that has stood 50 us on an access of some sort. -/
def State.storeWaited (s : State) (c : Ctx) (f : Lane → Leaf → Pend → Bool) : Option (Pend × Lane) :=
  c.pend.findSome? fun p =>
    match p.what, p.st with
    | .store l _ _, .waiting => match s.pendPerm c p l with
      | .ok x => if f l x p then some (p, l) else none
      | _ => none
    | _, _ => none

/-- FAR_ACCESS_TIMEOUT: a far load, atomic or message has had no response, or a far store no acknowledgement, for 50 us (20 R390, R391). -/
def execFarAccessTimeout (c : Nat) (s : State) : Host.Outcome State Fault Refusal :=
  match s.ctx? c with
  | none => .next s
  | some x =>
    match s.waitedOn x (fun cell p => s.farAcc x cell p.1 p.2 .load) true with
    | (n, iid) :: _ => .next (s.giveUp c n iid).tick
    | [] =>
      match s.storeWaited x fun _ l p => l.far && decide (p.since + s.us 50 ≤ s.time) with
      | some (p, l) => .next (s.lateFault x p l .linklost).tick
      | none => .next s

/-- UNREACHABLE_HOME_TIMEOUT: a load, an atomic or a store has waited 50 us for a home slice its tower cannot reach (20 R389). -/
def execUnreachableHomeTimeout (c : Nat) (s : State) : Host.Outcome State Fault Refusal :=
  match s.ctx? c with
  | none => .next s
  | some x =>
    if s.time < s.lostSince + s.us 50 then .next s
    else
      match s.waitedOn x (fun cell p => s.cutAcc x cell p.1 p.2 .load) false with
      | (n, iid) :: _ => .next (s.giveUp c n iid).tick
      | [] =>
        match s.storeWaited x fun l y p => !y.far && s.homeCut x.tower (y.tag x.asid) l.va l.data.length && decide (p.since + s.us 50 ≤ s.time) with
        | some (p, l) => .next (s.lateFault x p l .linklost).tick
        | none => .next s

end Sys2Proof.Machine
end

