-- ==== Sys2Proof/Machine/Late.lean ====
section
/-! DEFINITION. Sys2Proof/Machine/Late.lean: late faults on their way to a ring (17 R337, R339, R343, R344, R429), and engine commands that make no progress (18 R380). -/

namespace Sys2Proof.Machine

/-! ### Records -/

/-- A record leaves the queue of those that are due. -/
def State.recOut (s : State) (r : AfRec) : State := { s with recq := s.recq.erase r }

/-- The part learns of a late fault, so that its task stops at its next boundary; a build record stops no task (17 R333, R339). -/
def State.learn (s : State) (k : TaskKey) (r : AfRec) (noUpcall : Bool) : State :=
  if r.src = 4 then s else { s with lates := s.lates ++ [(k, ⟨r.seq, r.kind, r.src, r.va, noUpcall⟩)] }

/-- A record of a task on its lens is written into its ring, if that has room; a write that fails sends it to the supervisor and counts as a discard (17 R339). -/
def State.recordOn (s : State) (c : Ctx) (r : AfRec) : State :=
  if ringFull c.afHead c.afTail then s
  else
    match s.vwrite c.asid (c.afBase + w64 (128 * c.afHead.toNat)) r.bytes with
    | (t, none) =>
      ((t.recOut r).onCtx c.id fun x => { x.recorded r.seq with afHead := x.afHead + 1, recCount := x.recCount + 1 }).learn c.key r false |>.tick
    | (t, some _) =>
      let u := ((t.recOut r).fqRecord r).holdNode { r with owner := c.recA }
      ((u.dispose c.key c.tower (u.ctx? c.id) c r false).learn c.key r true).settle c.id |>.tick

/-- A record of a task off its lens is written into the ring its save area names (17 R339; 18 R372). -/
def State.recordOff (s : State) (tw : Nat) (t : TaskInfo) (r : AfRec) : State :=
  let save := s.saveOf t
  match (s.vread t.asid save 8 0).2, (s.vread t.asid (save + 0x78) 8 0).2 with
  | .ok v, .ok rg =>
    let q := qwordOf rg 0
    let head : BitVec 6 := q.extractLsb' 6 6
    if !(qwordOf v 0).getLsbD 0 || ringFull head (q.setWidth 6) then s
    else
      match s.vwrite t.asid (w64 (bitsOf q 13 43 * 8192) + w64 (128 * head.toNat)) r.bytes with
      | (u, none) =>
        ((u.recOut r).structPut tw t.asid t.recA (save + 0x78) (putBits q 6 6 (head + 1).toNat)).learn t.key r false |>.tick
      | (u, some _) =>
        let w := ((u.recOut r).fqRecord r).holdNode { r with owner := t.recA }
        let rd := Ctx.blank w.nextCtx .task tw 0 1 t.recA t.asid w.time
        ((w.dispose t.key tw none rd r false).learn t.key r true).tick
  | _, _ => s

/-- The record of a faulted store of a cell node is in its load's ring (17 R339). -/
def State.recordedIn (s : State) (tw slot : Nat) (seq : BitVec 16) : State :=
  { s with ctxs := s.ctxs.map fun c : Ctx => if c.loadRef = some (tw, slot) then c.recorded seq else c }

/-- A record of a fabric load is written into its ring and the status word, unless that is still to say FAULTED, or goes to the supervisor as a discard (14 R306, R328; 17 R343, R429). -/
def State.recordLoad (s : State) (tw slot : Nat) (r : AfRec) : State :=
  match s.load? tw slot with
  | none => ((s.recOut r).fqRecord r).tick
  | some l =>
    let away (t : State) : State := (((t.recOut r).fqRecord r).disposeLoad l r false).tick
    if l.ring = 0 ∨ 63 ≤ l.nrec then away s
    else
      match s.vwrite l.asid (l.ring + w64 (128 * l.nrec)) r.bytes with
      | (t, none) =>
        let u := ((t.recOut r).onLoad tw slot fun x => { x with nrec := x.nrec + 1 }).recordedIn tw slot r.seq
        (if l.statusDue then u else u.statusWrite tw slot).tick
      | (t, some _) => away t

/-- A record that is due is written where it belongs. -/
def State.recordOut (s : State) (r : AfRec) : State :=
  match r.load with
  | some (tw, slot) => s.recordLoad tw slot r
  | none =>
    match s.ctxOf? ⟨r.owner, r.asid⟩ with
    | some c => s.recordOn c r
    | none =>
      match s.task? r.tower ⟨r.owner, r.asid⟩ with
      | some t => s.recordOff r.tower t r
      | none => (s.recOut r).endedFault r |>.tick

/-- Whether a record that is due belongs to a context: a task's, or its load's. -/
def Ctx.ownsRec (c : Ctx) (r : AfRec) : Bool :=
  match c.loadRef with
  | some l => decide (r.load = some l)
  | none => r.load.isNone && decide (r.owner = c.recA) && decide (r.asid = c.asid)

/-- AFTERIMAGE_RECORD_WRITE: the oldest record due for a context is written; where the number names no context, the oldest record of a task or a load without one that can be written (17 R339, R343). -/
def execAfterimageRecordWrite (c : Nat) (s : State) : Host.Outcome State Fault Refusal :=
  match s.ctx? c with
  | some x =>
    match s.recq.find? x.ownsRec with
    | none => .next s
    | some r => .next (s.recordOut r)
  | none =>
    let due := s.recq.filter fun r => !s.ctxs.any fun x : Ctx => x.ownsRec r
    let try_ (r : AfRec) : Option State := let t := s.recordOut r; if s.moves < t.moves then some t else none
    .next ((due.findSome? try_).getD s)

/-! ### Commands without progress -/

/-- Whether the task of a command is absent from its lens because it was pre-empted; one that gave it up by YIELD, stopped or ended is not (18 R380). -/
def State.absent (s : State) (o : Origin) : Bool :=
  (s.ctxOf? o.key).isNone && ((s.task? o.tower o.key).map fun t => t.preempted).getD false

/-- Whether a matrix command that may go on only waits in a way that does not count: at a tile gate, at a full edge, for a repair, or while its load does not run (18 R380; log 97). -/
def State.cmdWaits (s : State) (m : MNode) (q : MCmd) : Bool :=
  decide ((m.held.getD q.id) ≠ q.id) || (!(decide (16 ≤ q.xop) && decide (q.b ≠ 0)) && decide (m.gate q = .waits))
    || match q.org.load with
      | none => s.absent q.org
      | some (tw, slot) =>
        match s.load? tw slot with
        | none => true
        | some l => decide (l.st ≠ .running) || (decide (q.xop = 18) &&
            (((q.port.bind fun p => l.edgeAt m p true).map fun e => decide (e.2.depth ≤ e.2.toks.length)).getD false))

/-- Whether the clock of a node's commands stands still: what stands at its head only waits (18 R380). -/
def State.nodeWaits (s : State) (m : MNode) : Bool := (passable [] m.queue).all (s.cmdWaits m)

/-- Whether a streamer command only waits: for a repair, at a tile gate, or for its pre-empted task (18 R380). -/
def State.scmdWaits (s : State) (q : SCmd) : Bool :=
  let (e, d) := q.descs
  let gate (x : Desc) (write : Bool) : Bool := match s.sideOf q x with
    | some sd => decide (sideGate x sd write = .waits)
    | none => false
  !q.repairs.isEmpty || s.absent q.org || (decide (q.st = .queued) && !q.unread && ((decide (q.xop ≠ 4) && gate e false) || gate d true))

/-- Whether a streamer node only waits: its load does not run, its program has ended, a repair is due, or its edge is full (18 R380; log 97). -/
def State.streamWaits (s : State) (l : Load) (k : Nat) (f : FStream) : Bool :=
  decide (l.st ≠ .running) || l.stopAsked || f.ended || !f.repairs.isEmpty
    || (!f.sink && ((s.edgeFor l.tower l.slot (l.streamNode k) 0 true).map fun e => decide (e.2.2.depth ≤ e.2.2.toks.length)).getD true)

/-- The clocks of commands that only wait stand still for 1 ns; a command behind one that only waits waits with it (18 R380). -/
def State.holdClocks (s : State) : State :=
  let behind (q : SCmd) : Bool := s.scmds.any fun x => decide (x.org.key = q.org.key) && decide (x.queue = q.queue) && decide (x.id ≤ q.id) && x.unfinished && s.scmdWaits x
  { s with
    mnodes := s.mnodes.map fun m => if m.queue.isEmpty then m else
      let heads := passable [] m.queue
      let all := s.nodeWaits m
      { m with queue := m.queue.map fun q =>
          if all || (heads.contains q && s.cmdWaits m q) then { q with progress := q.progress + 1 } else q }
    scmds := s.scmds.map fun q => if q.unfinished && behind q then { q with progress := q.progress + 1 } else q
    loads := s.loads.map fun l => if l.streams.isEmpty then l else
      { l with streams := l.streams.mapIdx fun k f => if s.streamWaits l k f then { f with progress := f.progress + 1 } else f } }

/-- The command of a node that has made no progress for the stall limit (18 R380). -/
def State.stalledCmd (s : State) (m : MNode) : Option MCmd :=
  if s.nodeWaits m then none
  else (passable [] m.queue).find? fun q => !s.cmdWaits m q && decide (q.progress + s.stallLimit q.org.asid ≤ s.time)

/-- COMMAND_STALL: a command that has been handed over, or that a streamer node has come to, and that has made no progress for the stall limit of its ASID faults late with STALL; its record waits for room in the ring (17 R339; 18 R380; log 97). -/
def execCommandStall (eng : EngineRef) (s : State) : Host.Outcome State Fault Refusal :=
  match eng with
  | .node tw n =>
    match s.mnodes.find? fun m => decide (m.tower = tw) && decide (m.n = n) with
    | none => .next s
    | some m =>
      match s.stalledCmd m with
      | none => .next s
      | some q => if s.pauses q.org then .next s else .next (s.matrixFault m q .stall 0 0).tick
  | .streamer id =>
    match s.scmds.find? fun q => decide (q.id = id), s.loads.findSome? fun l => (l.streams.zipIdx.find? fun f => decide (f.1.id = id)).map fun f => (l, f.2, f.1) with
    | some q, _ =>
      if q.unfinished && !s.queueBehind q && !s.scmdWaits q && !s.pauses q.org && decide (q.progress + s.stallLimit q.org.asid ≤ s.time) then
        .next (s.scmdFault q .stall 0 0 (2 ^ 48) none 0).tick
      else .next s
    | none, some (l, k, f) =>
      if !s.streamWaits l k f && decide (f.progress + s.stallLimit l.asid ≤ s.time) then
        .next (s.streamFault l k .stall 0 (2 ^ 48) none 0).tick
      else .next s
    | none, none => .next s

end Sys2Proof.Machine
end

