-- ==== Sys2Proof/Machine/Compose.lean ====
section
/-! DEFINITION. Sys2Proof/Machine/Compose.lean: the dispatcher: free cells and M-nodes, composing a lens, dispatch (07 R163, R164; 01 R22, R28; 18 R374, R376, R378), pre-emption (18 R367 to R371, R381, R382), and saving and restoring M-nodes (18 R369, R375, R376). -/

namespace Sys2Proof.Machine

/-! ### What is free -/

/-- Whether group b of a tower is kept for class 0 (18 R378). -/
def Tower.reservedGroup (t : Tower) (b : Nat) : Bool := t.c0res.getLsbD b && decide (b ≠ t.svCell / 4)

/-- Whether a cluster is held by a fabric load or withheld from dispatch (07 R164; 14 R305; 23 R427). -/
def State.clusterShut (s : State) (tw k : Nat) : Bool :=
  (s.tower tw).retiredClusters.contains k || s.loads.any fun l => decide (l.tower = tw) && l.clusters.contains k

/-- Whether a cell may be used at all by a task of a class: no load, no supervisor, no retired cluster, no group kept for class 0 (18 R367, R378). -/
def State.cellUsable (s : State) (tw cls cell : Nat) : Bool :=
  !s.clusterShut tw (cell / 2) && decide (cell ≠ (s.tower tw).svCell) && !(decide (0 < cls) && (s.tower tw).reservedGroup (cell / 4))

/-- The task on a cell of a tower. -/
def State.onCell? (s : State) (tw cell : Nat) : Option Ctx :=
  s.ctxs.find? fun c => decide (c.kind = .task) && decide (c.tower = tw) && decide (c.base ≤ cell) && decide (cell < c.base + c.width)

/-- The granted M-node with a number. -/
def State.granted? (s : State) (tw n : Nat) : Option MNode := s.mnodes.find? fun m => decide (m.tower = tw) && decide (m.n = n)

/-- Whether an M-node may be granted to a task of a class, if nobody holds it (07 R164; 18 R378). -/
def State.nodeUsable (s : State) (tw cls n : Nat) : Bool :=
  !s.clusterShut tw (n / 4) && !(decide (0 < cls) && (s.tower tw).reservedGroup (n / 8))

/-- The first cells of the aligned blocks of a width (01 R22). -/
def blocks (k : Nat) : List Nat := (List.range (Config.cellsPerTower / k)).map fun j => j * k

/-- Grid distance of two clusters (07 R164). -/
def gridDistance (a b : Nat) : Nat :=
  let d (x y : Nat) : Nat := (x - y) + (y - x)
  d (a / 8) (b / 8) + d (a % 8) (b % 8)

/-- The M-nodes of a tower in the order in which a lens takes them (07 R164). -/
def nodeOrder (base width : Nat) : List Nat :=
  let inside (k : Nat) : Bool := decide (base / 2 ≤ k) && decide (k ≤ (base + width - 1) / 2)
  let le (a b : Nat) : Bool :=
    decide (gridDistance a (base / 2) < gridDistance b (base / 2)) || (decide (gridDistance a (base / 2) = gridDistance b (base / 2)) && decide (a ≤ b))
  let rest := sortBy le ((List.range 64).filter fun k => !inside k)
  ((List.range 64).filter inside ++ rest).flatMap fun k => (List.range 4).map fun j => 4 * k + j

/-! ### Composing -/

/-- What a task asks for: width, whether less will do, M-nodes (07 R152; 18 R374). -/
structure Wants where
  width : Nat
  flex : Bool
  mn : Nat
  deriving DecidableEq, Repr

/-- What a record and its save area ask for, none when the record cannot be read; a task saved with scratch takes its saved width (18 R374). -/
def State.wantsOf (s : State) (t : TaskInfo) : Option Wants :=
  match s.vread64 t.recAsid (t.recA + 8) with
  | (_, .error _) => none
  | (_, .ok q1) =>
    let w : Wants := ⟨2 ^ bitsOf q1 19 3, q1.getLsbD 22, bitsOf q1 24 5⟩
    let save := s.saveOf t
    match s.vread64 t.asid save, s.vread64 t.asid (save + 0x98) with
    | (_, .ok cb), (_, .ok sp) => some (if cb.getLsbD 0 ∧ bitsOf sp 0 4 ≠ 0 then { w with width := 2 ^ bitsOf cb 2 3, flex := false } else w)
    | _, _ => some w

/-- The blocks of free cells of a width that a task of a class may take. -/
def State.freeBlocks (s : State) (tw cls k : Nat) : List Nat :=
  (blocks k).filter fun b => (List.range k).all fun j => s.cellUsable tw cls (b + j) && (s.onCell? tw (b + j)).isNone

/-- The widths a task may get, largest first (07 R164). -/
def Wants.widths (w : Wants) : List Nat := if w.flex then ([16, 8, 4, 2, 1] : List Nat).filter fun k => decide (k ≤ w.width) else [w.width]

/-- A lens of k cells from a cell up with the M-nodes it lacks, none when too few are free (07 R164). -/
def State.withNodes (s : State) (tw cls mn base k : Nat) : Option (Nat × Nat × List Nat) :=
  let ns := (nodeOrder base k).filter fun n => s.nodeUsable tw cls n && (s.granted? tw n).isNone
  if ns.length < mn then none else some (base, k, ns.take mn)

/-- A lens and M-nodes for a task of a class, none when they cannot be composed: first cell, width, nodes (07 R164). Which of several free blocks is taken is open (log 20). -/
def State.compose (s : State) (tw cls : Nat) (w : Wants) : Option (Nat × Nat × List Nat) :=
  match w.widths.find? fun k => !(s.freeBlocks tw cls k).isEmpty with
  | none => none
  | some k =>
    match s.choose 11 (s.freeBlocks tw cls k) with
    | none => none
    | some base => s.withNodes tw cls w.mn base k

/-- A lens and M-nodes for a task of the pool: the supervisor takes the supervisor cell, at width 1 (17 R349). -/
def State.composeFor (s : State) (tw : Nat) (t : TaskInfo) (w : Wants) : Option (Nat × Nat × List Nat) :=
  if (s.tower tw).svKey = some t.key then
    if (s.onCell? tw (s.tower tw).svCell).isSome then none else s.withNodes tw 0 w.mn (s.tower tw).svCell 1
  else s.compose tw t.eff w

/-! ### Dispatch -/

/-- READY tasks that may be dispatched, in the order of 07 R163: a task in the pool, of no gang, whose M-nodes have all been saved. -/
def State.candidates (s : State) (tw : Nat) : List TaskInfo :=
  sortBy (fun a b => decide (a.eff < b.eff) || (decide (a.eff = b.eff) && decide (a.readySeq ≤ b.readySeq)))
    ((s.tower tw).tasks.filter fun t => decide (t.st = .ready) && !t.overflow && t.gang.isNone
      && !s.mnodes.any fun m => m.ofTask t.key && m.leaving.isSome)

/-- The nodes a dispatch grants: fresh at first, else to be restored from the save area, with the commands that faulted before and those behind them (12 R253, R260; 18 R376). -/
def State.grantNodes (s : State) (tw : Nat) (c : Ctx) (ns : List Nat) (save : Option Word) : List MNode :=
  ns.zipIdx.map fun x =>
    let o := NodeOwner.task c.key x.2
    let m := { MNode.fresh tw x.1 o c.seed with restoring := save.isSome, area := save.map fun a => nodeArea a x.2 }
    match s.mnodes.find? fun m => m.away && decide (m.owner = o) with
    | some k => { m with queue := k.queue, freeing := k.freeing, held := k.held }
    | none => m

/-- Whether the save area of a task is valid (18 R372). -/
def State.saveValid (s : State) (t : TaskInfo) : Bool :=
  match s.vread64 t.asid (s.saveOf t) with
  | (_, .ok cb) => cb.getLsbD 0
  | _ => false

/-- A task takes a lens and M-nodes: RUNNING is written and its registers are loaded, or it stops with the failure that prevents it; its record's hyp follows an alias (07 R164; 01 R28; 10 R242; 18 R376; 20 R389). -/
def State.place (s : State) (tw : Nat) (t : TaskInfo) (base width : Nat) (ns : List Nat) (frozen : Bool) : State :=
  match s.buildCtx tw t base width with
  | (u, .error (k, va)) => (u.stopOff tw t k va).ovqStore tw
  | (u, .ok c) =>
    let tower := u.tower tw
    let cut := (List.range width).any fun j => tower.cohLost.contains (base + j)
    let again := tower.cohTasks.contains t.key && decide (u.cutMask tw = 0)
    let marked := tower.cohTasks.filter fun k => !decide (k = t.key)
    let c : Ctx :=
      { c with
        nodes := ns
        shielded := t.shielded
        haltReq := if t.halted then some 0 else none
        frozen := frozen
        lost := again
        needHandler := t.needHandler && decide (c.causeMode ≠ 0) }
    let nodes := u.grantNodes tw c ns (if u.saveValid t then some (u.saveOf t) else none)
    let u : State := { u with
      mnodes := (u.mnodes.filter fun m => !(m.away && m.ofTask t.key)) ++ nodes
      heldActs := u.heldActs.filter fun h => !decide (h.1 = t.key)
      ctxs := u.ctxs ++ [c]
      nextCtx := u.nextCtx + 1 }
    let u := (u.bindMove t.hyp c.hyp).onTask tw t.key fun x => { x with hyp := c.hyp, halted := false, heldHyps := [], overflow := false, cause := none, preempted := false }
    let u := u.putHyp tw t c.hyp
    let u := u.onTower tw fun x => { x with cohTasks := if cut || (tower.cohTasks.contains t.key && !again) then marked ++ [t.key] else marked }
    ((u.taskTo tw t .running).settle c.id).ovqStore tw

/-- The first task of the highest class is passed over from now on, unless it already was (07 R163). -/
def State.passOver (s : State) (tw : Nat) (k : TaskKey) : State :=
  if (s.tower tw).passed.any fun p => decide (p.1 = k) then s
  else (s.onTower tw fun t => { t with passed := t.passed ++ [(k, s.time)] }).tick

/-- Whether a task passed over for 1 ms holds another back: one of its effective class or a lower class is not dispatched before it (07 R163). -/
def Tower.heldBy (t : Tower) (h x : TaskInfo) : Bool :=
  t.passedLimit.contains h.key && decide (h.key ≠ x.key) && decide (h.eff ≤ x.eff)
    && (!t.passedLimit.contains x.key || decide (h.eff < x.eff) || decide (h.readySeq < x.readySeq))

/-- The candidates that no task passed over for 1 ms holds back (07 R163). -/
def State.admissible (s : State) (tw : Nat) : List TaskInfo :=
  let cs := s.candidates tw
  cs.filter fun x => !cs.any fun h => (s.tower tw).heldBy h x

/-- Whether nothing is dispatched: a checkpoint runs, or an update has been asked for (20 R403; 23 R428). -/
def State.dispatchHeld (s : State) : Bool := s.ckptRun.isSome || s.fwAsked

/-- TASK_DISPATCH: the first task for which a lens and M-nodes can be composed is dispatched, in the order of 07 R163 (R164); an orphaned one ends or stops instead (10 R244). -/
def execTaskDispatch (tw : Nat) (s : State) : Host.Outcome State Fault Refusal :=
  if s.dispatchHeld || decide (Config.towers ≤ tw) then .next s
  else
    match s.admissible tw with
    | [] => .next s
    | t :: ts =>
      let fits (t : TaskInfo) : Option (Nat × Nat × List Nat) := (s.wantsOf t).bind fun w => s.composeFor tw t w
      if s.hypRefuted t.hyp then .next ((s.becomeReady performer tw t).ovqStore tw).tick
      else
        match fits t with
        | some (b, k, ns) => .next (s.place tw t b k ns false).tick
        | none =>
          let s' := s.passOver tw t.key
          match ts.findSome? fun x => (fits x).map fun f => (x, f) with
          | some (x, b, k, ns) =>
            if s.hypRefuted x.hyp then .next ((s'.becomeReady performer tw x).ovqStore tw).tick
            else .next (s'.place tw x b k ns false).tick
          | none => .next s'

/-! ### Pre-emption -/

/-- Whether a task is already on its way off its lens (18 R370, R371). -/
def Ctx.going (c : Ctx) : Bool := c.leaving.isSome || c.drainAt.isSome

/-- Whether a newcomer of a class may make a task leave (18 R367, R381). -/
def State.movable (s : State) (c : Ctx) (cls : Nat) : Bool :=
  decide (c.base ≠ (s.tower c.tower).svCell) && !c.parked && !c.frozen && decide (cls < c.prio.toNat) && !(c.shielded && decide (0 < cls))

/-- The lowest class on a block, 8 for one whose tasks all leave, none for one that may not be taken (18 R367). -/
def State.blockScore (s : State) (tw cls base k : Nat) : Option Nat :=
  (List.range k).foldl (fun r j =>
    match r with
    | none => none
    | some m =>
      if !s.cellUsable tw cls (base + j) then none
      else
        match s.onCell? tw (base + j) with
        | none => some m
        | some c => if c.going then some m else if s.movable c cls then some (Nat.min m c.prio.toNat) else none) (some 8)

/-- The block a newcomer takes: the highest lowest class, ties to the lowest cell (18 R367). -/
def State.victimBlock (s : State) (tw cls k : Nat) : Option Nat :=
  ((blocks k).foldl (fun (r : Option (Nat × Nat)) b =>
    match s.blockScore tw cls b k, r with
    | none, _ => r
    | some m, none => some (b, m)
    | some m, some (_, n) => if n < m then some (b, m) else r) none).map fun x => x.1

/-- The task on its lens that holds an M-node. -/
def State.nodeHolder (s : State) (tw n : Nat) : Option Ctx :=
  (s.granted? tw n).bind fun m => match m.owner with
    | .task k _ => s.ctxOf? k
    | .load _ _ => none

/-- Whether a newcomer of a class can count on an M-node: it is free, or on its way to be, or its holder is among those chosen to leave (18 R367). -/
def State.nodeComes (s : State) (tw cls : Nat) (chosen : List Nat) (n : Nat) : Bool :=
  s.nodeUsable tw cls n && match s.granted? tw n with
    | none => true
    | some m => m.leaving.isSome || ((s.nodeHolder tw n).map fun c => chosen.contains c.id || c.going).getD false

/-- The next task to leave for an M-node: among the holders that may be moved, one of the highest class number, the first in distance order (18 R367). -/
def State.nodeVictim (s : State) (tw cls : Nat) (chosen order : List Nat) : Option Ctx :=
  let held := (order.filter fun n => s.nodeUsable tw cls n && !s.nodeComes tw cls chosen n).filterMap fun n =>
    (s.nodeHolder tw n).bind fun c => if s.movable c cls then some c else none
  held.foldl (fun (r : Option Ctx) c => match r with
    | none => some c
    | some d => if d.prio.toNat < c.prio.toNat then some c else some d) none

/-- Those chosen with the holders of the M-nodes that are missing beyond the ones that come free, none when too few can be had (18 R367). -/
def State.victimNodes (s : State) (tw cls need : Nat) (order : List Nat) : (fuel : Nat) → (chosen : List Nat) → Option (List Nat)
  | 0, _ => none
  | f + 1, chosen =>
    if need ≤ (order.filter fun n => s.nodeComes tw cls chosen n).length then some chosen
    else (s.nodeVictim tw cls chosen order).bind fun c => s.victimNodes tw cls need order f (chosen ++ [c.id])

/-- The tasks that must leave for a newcomer of a class (18 R367). -/
def State.victimsFor (s : State) (tw cls : Nat) (w : Wants) : List Nat :=
  if (s.compose tw cls w).isSome then []
  else
    match s.victimBlock tw cls w.width with
    | none => []
    | some b =>
      let held := ((List.range w.width).filterMap fun j => (s.onCell? tw (b + j)).map fun c => c.id).eraseDups
      (s.victimNodes tw cls w.mn (nodeOrder b w.width) (s.ctxs.length + 1) held).getD []

/-- The next member of an armed gang of a tower whose start has come and that has no lens yet (20 R402). -/
def State.gangNext (s : State) (g : Gang) : Option Word :=
  if g.st = .armed ∧ g.start ≤ s.time then g.members.find? fun r => !s.ctxs.any fun c => decide (c.kind = .task) && decide (c.recA = r) && c.frozen
  else none

/-- What a member of a gang asks for (20 R402). -/
def State.memberWants (s : State) (g : Gang) (rec : Word) : Option Wants :=
  match s.vread64 g.asid (rec + 8) with
  | (_, .ok q1) => some ⟨2 ^ bitsOf q1 19 3, q1.getLsbD 22, bitsOf q1 24 5⟩
  | _ => none

/-- The newcomers of a class on a tower and what they ask for (18 R367; 20 R402). -/
def State.newcomers (s : State) (tw cls : Nat) : List Wants :=
  if s.dispatchHeld then []
  else
    let cs := (s.candidates tw).filter fun t => !decide ((s.tower tw).svKey = some t.key)
    let ready := if cls = 0 then (cs.filter fun t => decide (t.eff = 0)).filterMap s.wantsOf
      else ((cs.filter fun t => decide (t.eff = cls) && (s.tower tw).passedLimit.contains t.key).take 1).filterMap s.wantsOf
    let gangs := if cls = 0 then (s.gangs.filter fun g => decide (g.tower = tw)).filterMap fun g => (s.gangNext g).bind fun r => s.memberWants g r else []
    ready ++ gangs

/-- Whether a task must leave for a newcomer of a class: a task that cannot be composed, a fabric load that waits for its rectangle, or a group newly kept for class 0 (18 R367, R378). -/
def State.mustLeave (s : State) (c : Ctx) (cls : Nat) : Bool :=
  let cell (p : Nat → Bool) : Bool := (List.range c.width).any fun j => p (c.base + j)
  let forLoad := decide (cls = 0) && decide (c.base ≠ (s.tower c.tower).svCell) && !c.parked && !c.frozen &&
    s.loads.any fun l => decide (l.tower = c.tower) && decide (l.st = .configuring) &&
      (cell (fun x => l.clusters.contains (x / 2)) || c.nodes.any fun n => l.clusters.contains (n / 4))
  let forGroup := decide (cls = 0) && s.movable c 0 &&
    (cell (fun x => (s.tower c.tower).reservedGroup (x / 4)) || c.nodes.any fun n => (s.tower c.tower).reservedGroup (n / 8))
  forLoad || forGroup || (match (s.newcomers c.tower cls).find? fun w => !(s.victimsFor c.tower cls w).isEmpty with
    | none => false
    | some w => (s.victimsFor c.tower cls w).contains c.id)

/-- What the part does with a task it must move (18 R368). -/
inductive Move368 where
  | kill | drain | checkpoint
  deriving DecidableEq, Repr

/-- The choice of 18 R368. -/
def chooseMove (cls : Nat) (killok drainok : Bool) (hint : BitVec 2) : Move368 :=
  if cls = 0 then
    if killok && !(decide (hint = 2) && drainok) then .kill
    else if drainok then .drain
    else .checkpoint
  else if drainok then .drain
  else if killok && decide (hint = 3) then .kill
  else .checkpoint

/-- Whether a record may be killed and rerun (07 R152). -/
def State.recIdem (s : State) (t : TaskInfo) : Bool :=
  match s.vread64 t.recAsid (t.recA + 8) with
  | (_, .ok v) => v.getLsbD 23
  | _ => false

/-- PREEMPT: kill, drain or checkpoint is chosen for a task that must leave for a newcomer of a class (18 R367 to R371); a stop that is due goes before it (04 R119). -/
def execPreempt (c cls : Nat) (s : State) : Host.Outcome State Fault Refusal :=
  match s.running? c with
  | none => .next s
  | some (x, t) =>
    if x.going || s.stopDue x || !s.mustLeave x cls then .next s
    else
      let killok := s.recIdem t && decide (x.hint ≠ 1) && x.normalMode && decide (x.afHead = x.afTail) && !x.hasFault
      let drainok := decide (x.est.toNat ≤ 5) && decide (x.hint ≠ 1)
      match chooseMove cls killok drainok x.hint with
      | .drain => .next (s.onCtx c fun y => { y with drainAt := some (s.time + s.us 5) }).tick
      | .kill => if x.boundary then .next ((s.clear x).onCtx c fun y => { y with leaving := some .kill }).tick else .next s
      | .checkpoint => if x.boundary then .next ((s.clear x).onCtx c fun y => { y with leaving := some .checkpoint }).tick else .next s

/-- DRAIN_LIMIT: a drained task still running after 5 us is checkpointed at its first boundary (18 R370). -/
def execDrainLimit (c : Nat) (s : State) : Host.Outcome State Fault Refusal :=
  match s.running? c with
  | none => .next s
  | some (x, _) =>
    match x.drainAt, x.leaving with
    | some at_, none =>
      if at_ ≤ s.time ∧ x.boundary ∧ ¬ s.stopDue x then .next ((s.clear x).onCtx c fun y => { y with leaving := some .checkpoint }).tick
      else .next s
    | _, _ => .next s

/-! ### Saving and restoring M-nodes -/

/-- Whether a node performs no command: every one has been performed or has faulted, or waits behind one that faulted until its task is continued (12 R260; 18 R375). -/
def MNode.quiet (m : MNode) : Bool :=
  match m.queue, m.held with
  | [], _ => true
  | q :: _, none => q.fault.isSome
  | q :: _, some id => q.fault.isSome || decide (q.id ≠ id)

/-- Whether a streamer command that waits for a repair moves a tile of a node (13 R289). -/
def SCmd.catches (q : SCmd) (m : MNode) (tile : Nat) : Bool :=
  match m.owner with
  | .task k n => decide (q.org.key = k) && q.org.load.isNone && !q.repairs.isEmpty && [q.src, q.dst].any fun d =>
      decide (bitsOf (qwordOf d 0) 62 2 = 1) && decide (bitsOf (qwordOf d 0) 8 4 = n) && decide (bitsOf (qwordOf d 0) 0 5 = tile)
  | .load _ _ => false

/-- Whether a node performs no command and no tile is filling or draining but one caught so by a fault (12 R257; 18 R375). -/
def State.nodeStill (s : State) (m : MNode) : Bool :=
  m.quiet &&
    (List.range 32).all fun t => decide (tState (m.tile t) % 2 = 0) ||
      (m.queue.any fun q => q.fault.isSome && decide (q.ta = t)) || s.scmds.any fun q => q.catches m t

/-- A node is freed; the commands that faulted and those behind them are kept for the task's next node of that index, with the tiles that a TFREE still empties when the state is saved (12 R257, R260; 18 R375). -/
def State.freeNode (s : State) (m : MNode) : State :=
  let rest := s.mnodes.filter fun x => !(decide (x.tower = m.tower) && decide (x.n = m.n))
  let freeing := match m.leaving with
    | some (some _) => m.freeing
    | _ => []
  if m.queue.isEmpty && freeing.isEmpty then { s with mnodes := rest }
  else
    { s with mnodes := rest ++ [{ m with
        away := true
        restoring := true
        leaving := none
        freeing := freeing
        n := 1 + s.mnodes.foldl (fun n x => Nat.max n x.n) Config.nodesPerTower
        area := (match m.leaving, m.owner with
          | some (some save), .task _ idx => some (nodeArea save idx)
          | _, _ => m.area)
        scratch := []
        acc0 := []
        acc1 := [] }] }

/-- Whether a streamer command that an ended task handed over still reads or writes a tile of a node; one that waits for the task's scratch never goes on (13 R276). -/
def State.streams (s : State) (m : MNode) : Bool :=
  match m.owner with
  | .task k n => (s.task? m.tower k).isNone && s.scmds.any fun q =>
      decide (q.org.key = k) && q.org.load.isNone && q.unfinished
        && ([q.src, q.dst].any fun d => decide (bitsOf (qwordOf d 0) 62 2 = 1) && decide (bitsOf (qwordOf d 0) 8 4 = n))
        && !s.scmds.any fun x => decide (x.org.key = k) && decide (x.queue = q.queue) && decide (x.id ≤ q.id) && x.unfinished && s.scratchAway x
  | .load _ _ => false

/-- NODE_SAVE: a node of a task that has left its lens is saved once its commands have been performed or have faulted, and is freed; a killed task's is dropped, and an ended task's (12 R258, R275; 18 R369, R375). -/
def execNodeSave (tw n : Nat) (s : State) : Host.Outcome State Fault Refusal :=
  match s.granted? tw n with
  | none => .next s
  | some m =>
    match m.leaving, m.owner with
    | some none, _ => if m.quiet && !m.away && !s.streams m then .next (s.freeNode m).tick else .next s
    | some (some save), .task k idx =>
      if m.restoring then if m.quiet then .next (s.freeNode m).tick else .next s
      else if !s.nodeStill m then .next s
      else
        match s.vwriteAll k.asid (nodeArea save idx) m.image with
        | (u, none) => .next (u.freeNode m).tick
        | (_, some (kind, va)) =>
          match s.task? tw k with
          | some t => if t.st = .ready then .next ((s.stopOff tw t kind va).ovqStore tw).tick else .next s
          | none => .next (s.freeNode m).tick
    | _, _ => .next s

/-- Tiles a fault had caught on their way whose command was disposed of while the node was away: a discarded or replayed fill leaves the tile empty, a drain ready or, after a TFREE, empty (12 R257; 13 R289; 17 R341). -/
def State.settleTiles (s : State) (m : MNode) : MNode :=
  (List.range 32).foldl (fun x t =>
    if s.tileBusy m t then x
    else if tState (m.tile t) = 1 then x.setState t 0
    else if tState (m.tile t) = 3 then x.drained t
    else x) m

/-- A saved node of a task that has ended with commands left takes a free M-node of its tower and is brought back, so that they are performed; its generator goes on, since this is no dispatch (12 R258, R263, R275; 17 R344; DESIGN CHOICE, log 111). -/
def State.regrant (s : State) (m : MNode) : Host.Outcome State Fault Refusal :=
  match (nodeOrder 0 1).find? fun n => s.nodeUsable m.tower 1 n && (s.granted? m.tower n).isNone with
  | none => .next s
  | some n =>
    let x : MNode := { MNode.fresh m.tower n m.owner 0 with
      gen := m.gen, queue := m.queue, freeing := m.freeing, leaving := some none, restoring := m.area.isSome, area := m.area }
    .next ({ s with mnodes := (s.mnodes.filter fun y => !(decide (y.tower = m.tower) && decide (y.n = m.n))) ++ [x] } : State).tick

/-- A restore fails: the task on its lens stops with the kind of the read, one off its lens that must be saved again too, and where the task has ended or was killed the node's oldest command faults with it (17 R344; 18 R376; log 21). -/
def State.restoreFails (s : State) (m : MNode) (k : TaskKey) (kind : Kind) (va : Word) : Host.Outcome State Fault Refusal :=
  match m.leaving with
  | some none =>
    match m.queue with
    | q :: _ => if s.pauses q.org then .next s else .next (s.matrixFault m q kind 0 va).tick
    | [] => .next s
  | some (some _) =>
    match s.task? m.tower k with
    | some t => if t.st = .ready then .next ((s.stopOff m.tower t kind va).ovqStore m.tower).tick else .next s
    | none => .next s
  | none =>
    match s.ctxOf? k with
    | some c =>
      if s.lates.any fun l => decide (l.1 = k) then .next s
      else .next ({ s with lates := s.lates ++ [(k, (⟨c.lateSeq, kind, 2, va, true⟩ : Late))] } : State).tick
    | none => .next s

/-- NODE_RESTORE: streamers have brought a node back from the save area, also one whose task has left or ended meanwhile with commands still to be performed (12 R258, R275; 18 R375, R376). -/
def execNodeRestore (tw n : Nat) (s : State) : Host.Outcome State Fault Refusal :=
  match s.granted? tw n with
  | none => .next s
  | some m =>
    match m.owner, m.area with
    | .load _ _, _ => .next s
    | .task _ _, none => if m.away && m.leaving.isSome then s.regrant m else .next s
    | .task k _, some area =>
      if m.away then if m.leaving.isSome then s.regrant m else .next s
      else if !m.restoring || (m.leaving.isSome && m.quiet && !s.streams m) then .next s
      else
        match s.readNode k.asid area m with
        | (u, .ok x) => .next (u.setNode { (u.settleTiles x) with restoring := false }).tick
        | (u, .error (kind, va)) => u.restoreFails m k kind va

end Sys2Proof.Machine
end

