-- ==== Sys2Proof/Machine/Gangs.lean ====
section
/-! DEFINITION. Sys2Proof/Machine/Gangs.lean: gangs: placing the members, READY, GO, the end of the grace window, and ABORT (20 R401, R402, R404). -/

namespace Sys2Proof.Machine

/-- The gang with a number. -/
def State.gang? (s : State) (gid : Nat) : Option Gang := s.gangs.find? fun g => decide (g.gid = gid)

/-- Change a gang. -/
def State.onGang (s : State) (gid : Nat) (f : Gang → Gang) : State :=
  { s with gangs := s.gangs.map fun g : Gang => if g.gid = gid then f g else g }

/-- The packages of a gang (20 R401). -/
def Gang.packages (g : Gang) : List Nat := (List.range 64).filter fun p => g.pkgs.getLsbD p

/-- The other packages of a gang. -/
def State.otherPackages (s : State) (g : Gang) : List Nat := g.packages.filter fun p => !decide (p = s.self)

/-- The status word of a gang takes a value (20 R402). -/
def State.gangStatus (s : State) (g : Gang) (n : Nat) : State := s.putStatus g.tower g.asid g.stat n

/-- The contexts of the placed members of a gang. -/
def Gang.placed (g : Gang) (c : Ctx) : Bool :=
  decide (c.kind = .task) && decide (c.tower = g.tower) && c.frozen && g.members.contains c.recA

/-- The leader holds READY from a package; with every READY it sends GO, if it has sent neither GO nor ABORT (20 R402, R404). -/
def State.takeReady (s : State) (gid pkg : Nat) : State :=
  match s.gang? gid with
  | none => s
  | some g =>
    let ready := if g.ready.contains pkg then g.ready else g.ready ++ [pkg]
    if g.sent.isNone && g.packages.all fun p => ready.contains p then
      { (s.onGang gid fun x => { x with ready := ready, sent := some true }) with
        outbox := s.outbox ++ (s.otherPackages g).map fun p => .gangGo gid p }
    else s.onGang gid fun x => { x with ready := ready }

/-- A member is accepted as a submission is, its record taking the target of an alias and the class it gets, and its lens and grants are composed; it fetches no clause; an orphaned one ends or stops instead (07 R156; 10 R232, R244; 18 R378; 20 R402). -/
def State.placeMember (s : State) (g : Gang) (rec : Word) : Option State :=
  match s.structGet g.tower g.asid rec rec 64 with
  | (u, none) => some u
  | (u, some bs) =>
    let q (n : Nat) : Word := qwordOf bs n
    if bitsOf (q 0) 0 4 ≠ 0 then none
    else
      let r := u.checkRec q g.asid true
      if r.2.1 ≠ 0 then some (r.1.rejectRec g.tower g.asid rec r.2.1)
      else
        let own : BitVec 16 := (q 1).setWidth 16
        let h := r.1.hypFinal ((q 1).extractLsb' 32 12)
        let t : TaskInfo :=
          { recA := rec, asid := own, recAsid := g.asid, st := .ready, cls := r.1.classOf own ((q 1).extractLsb' 16 3), strm := none, ranges := r.2.2
            released := 0, readyAt := s.time, readySeq := 0, aged := 0, overflow := false, window := none, hyp := h, shielded := false, gang := some g.gid
            heldHyps := [], endAsked := false, halted := false, preempted := false, needHandler := false, cause := none, newPrio := none }
        let w : Wants := ⟨2 ^ bitsOf (q 1) 19 3, (q 1).getLsbD 22, bitsOf (q 1) 24 5⟩
        match r.1.compose g.tower 0 w with
        | none => none
        | some (b, k, ns) =>
          if !r.1.roomToSubmit g.tower || r.1.mnodes.any (fun m => m.ofTask t.key && m.leaving.isSome) then none
          else
            let q1 := putBits (putBits (q 1) 32 12 h.toNat) 16 3 t.cls.toNat
            let u := if q1 = q 1 then r.1 else r.1.structPut g.tower g.asid rec (rec + 8) q1
            let u := (u.onTower g.tower fun x => { x with tasks := x.tasks ++ [t] }).hypCount h true
            if u.hypRefuted h then
              let t := { t with gang := none }
              some ((u.onTask g.tower t.key fun _ => t).makeReady g.tower t)
            else some (u.place g.tower t b k ns true)

/-- GANG_PLACE: from the start time on, members are placed one after another as newcomers of class 0; after the last one 2 is written and READY sent (20 R402). -/
def execGangPlace (gid : Nat) (s : State) : Host.Outcome State Fault Refusal :=
  match s.gang? gid with
  | none => .next s
  | some g =>
    if g.st ≠ .armed ∨ s.time < g.start ∨ s.dispatchHeld then .next s
    else
      match s.gangNext g with
      | some rec =>
        match s.placeMember g rec with
        | none => .next s
        | some t => .next t.tick
      | none =>
        let u := (s.onGang gid fun x => { x with st := .placed }).gangStatus g 2
        if g.lead = s.self then .next (u.takeReady gid s.self).tick
        else .next ({ u with outbox := u.outbox ++ [.gangReady gid g.lead] } : State).tick

/-- GANG_READY: the leader receives READY of a package, and sends GO once it holds every one (20 R402, R404). -/
def execGangReady (gid pkg : Nat) (s : State) : Host.Outcome State Fault Refusal :=
  match s.gang? gid with
  | none => .next s
  | some g =>
    if g.lead = s.self ∧ g.pkgs.getLsbD pkg ∧ pkg ≠ s.self ∧ g.sent = none ∧ ¬ g.ready.contains pkg then .next (s.takeReady gid pkg).tick
    else .next s

/-- GANG_GO: on GO a package starts its placed members and writes 4; the leader has sent GO (20 R402). -/
def execGangGo (gid : Nat) (s : State) : Host.Outcome State Fault Refusal :=
  match s.gang? gid with
  | none => .next s
  | some g =>
    if g.st ≠ .placed ∨ (g.lead = s.self ∧ g.sent ≠ some true) then .next s
    else
      let u : State := { s with ctxs := s.ctxs.map fun c : Ctx => if g.placed c then { c with frozen := false } else c }
      let u := u.onTower g.tower fun t => { t with tasks := t.tasks.map fun x : TaskInfo => if x.gang = some gid then { x with gang := none } else x }
      .next ((u.onGang gid fun x => { x with st := .running }).gangStatus g 4).tick

/-- GANG_GRACE_EXPIRY: at the leader start plus grace has passed without every READY: it writes 3 on every package and sends ABORT if the gang asks for it. At another package the leader's 3 arrives; only the leader's clock says when (20 R402, R404). -/
def execGangGraceExpiry (gid : Nat) (s : State) : Host.Outcome State Fault Refusal :=
  match s.gang? gid with
  | none => .next s
  | some g =>
    if g.late ∨ g.sent.isSome ∨ g.st = .running ∨ g.st = .aborted ∨ (g.lead = s.self ∧ s.time < g.start + g.grace * 1000) then .next s
    else
      let u := (s.onGang gid fun x => { x with late := true }).gangStatus g 3
      if g.lead ≠ s.self then .next u.tick
      else
        let others := s.otherPackages g
        let u : State := { u with outbox := u.outbox ++ others.map fun p => .gangLate gid p }
        if g.abort then
          .next ({ (u.onGang gid fun x => { x with sent := some false }) with outbox := u.outbox ++ others.map fun p => .gangAbort gid p } : State).tick
        else .next u.tick

/-- A member of an aborted gang: its lens and grants go and its record is rejected with reason 7 (20 R402). -/
def State.dropMember (s : State) (g : Gang) (rec : Word) : State :=
  let gone := s.ctxs.filter fun c => g.placed c && decide (c.recA = rec)
  let s := gone.foldl (fun (u : State) c => u.dropCtx c.id) s
  let s := match (s.tower g.tower).tasks.find? fun t => decide (t.recA = rec) && decide (t.gang = some g.gid) with
    | some t => s.forgetTask g.tower t
    | none => s
  s.rejectRec g.tower g.asid rec 7

/-- GANG_ABORT: on ABORT a package frees its placed members, rejects the records and writes 5; the leader has sent ABORT (20 R402). -/
def execGangAbort (gid : Nat) (s : State) : Host.Outcome State Fault Refusal :=
  match s.gang? gid with
  | none => .next s
  | some g =>
    if g.st = .running ∨ g.st = .aborted ∨ (g.lead = s.self ∧ g.sent ≠ some false) then .next s
    else
      let u := g.members.foldl (fun (u : State) r => u.dropMember g r) s
      .next ((u.onGang gid fun x => { x with st := .aborted }).gangStatus g 5).tick

end Sys2Proof.Machine
end

