-- ==== Sys2Proof/Machine/Host.lean ====
section
/-! DEFINITION. Sys2Proof/Machine/Host.lean: the routing table, submission windows and completions (20 R392, R395 to R397), waiting submissions (07 R158), and page migration (20 R399, R400). -/

namespace Sys2Proof.Machine

/-! ### Routing table -/

/-- ROUTING_TABLE_WRITE: an aligned 8-byte write sets an entry, or is ignored and counted (20 R392). -/
def execRoutingTableWrite (d : Nat) (v : BitVec 64) (s : State) : Host.Outcome State Fault Refusal := .next (s.routeWrite d v).tick

/-! ### Submission windows -/

/-- SUBMIT_WRITE: a host write to SUBMIT (20 R396). -/
def execSubmitWrite (tw win : Nat) (bytes : List (BitVec 8)) (s : State) : Host.Outcome State Fault Refusal :=
  if windowExists tw win then .next (s.windowPut tw win 0 bytes).tick else .next s

/-- CHEAD_WRITE: the host has consumed completions (20 R397). -/
def execCheadWrite (tw win : Nat) (v : BitVec 32) (s : State) : Host.Outcome State Fault Refusal :=
  if windowExists tw win then .next (s.windowPut tw win 0x70 (natToBytes 8 v.toNat)).tick else .next s

/-- WERR_WRITE: any write clears werr (20 R395). -/
def execWerrWrite (tw win : Nat) (s : State) : Host.Outcome State Fault Refusal :=
  if windowExists tw win then .next (s.windowPut tw win 0x78 (natToBytes 8 0)).tick else .next s

/-- SUBMISSION_WINDOW_WRITE: the host writes a configuration field (20 R395). -/
def execSubmissionWindowWrite (tw win off : Nat) (v : BitVec 64) (s : State) : Host.Outcome State Fault Refusal :=
  if windowExists tw win && [0x40, 0x48, 0x50, 0x58].contains off then .next (s.windowPut tw win off (natToBytes 8 v.toNat)).tick else .next s

/-- The 16 bytes of a completion (20 R397). -/
def Window.completion (w : Window) (rec : Word) (code : Nat) (cval : Word) : List Byte :=
  natToBytes 8 (bitsOf rec 0 56 + code % 16 * 2 ^ 56 + (w.ctail.toNat / 2 ^ w.cn + 1) % 2 * 2 ^ 63) ++ natToBytes 8 cval.toNat

/-- HOST_COMPLETION: the oldest completion of a window is written to the host's queue, if that has room, and signalled (20 R397). -/
def execHostCompletion (tw win : Nat) (s : State) : Host.Outcome State Fault Refusal :=
  let w := s.window tw win
  match w.comps with
  | [] => .next s
  | (rec, code, cval) :: rest =>
    if 2 ^ w.cn ≤ (w.ctail - w.chead).toNat then .next s
    else
      let u := s.onWindow tw win fun x => { x with comps := rest, ctail := x.ctail + 1 }
      .next ({ u with outbox := u.outbox ++ [.hostWrite (w.cq.toNat + 16 * (w.ctail.toNat % 2 ^ w.cn)) (w.completion rec code cval)]
        ++ (if w.irq then [.msix w.vec] else []) } : State).tick

/-! ### Waiting submissions -/

/-- The window of a held SUBMIT goes on: the submission is performed, then the writes behind it are served (20 R396). -/
def State.windowGo (s : State) (tw win : Nat) : State :=
  let held := (s.window tw win).heldWr.drop 1
  ((s.windowSubmit tw win).onWindow tw win fun x => { x with heldWr := [] }).windowResume tw win held

/-- The first submission that waits for a stream with room again is performed (07 R161). -/
def State.streamGo (s : State) (tw : Nat) : Option State :=
  let t := s.tower tw
  (t.streamWaits.find? fun w => !t.streamFull w.strm).map fun w =>
    let u := s.onTower tw fun t => { t with streamWaits := t.streamWaits.erase w }
    match w.window with
    | none => u.submitNow tw w.recA w.asid w.sv true none
    | some win => u.windowGo tw win

/-- RESERVATION_GRANT: the first waiting submission takes a freed reservation: its instruction fires, or its window goes on; and one that waits for its stream proceeds once that has room (07 R158, R161; 20 R396). -/
def execReservationGrant (tw : Nat) (s : State) : Host.Outcome State Fault Refusal :=
  match (s.tower tw).waitSubs.find? fun w => !w.granted with
  | none => .next (((s.streamGo tw).map State.tick).getD s)
  | some w =>
    if !s.roomToSubmit tw then .next (((s.streamGo tw).map State.tick).getD s)
    else
      match w.by_, w.window with
      | some (c, uid, iid), _ =>
        let u := s.onTower tw fun t => { t with waitSubs := t.waitSubs.map fun x : WaitSub => if x = w then { x with granted := true } else x }
        match u.focusOn c uid iid with
        | none => .next (s.onTower tw fun t => { t with waitSubs := t.waitSubs.erase w }).tick
        | some (v, i) =>
          match i with
          | .tspawn pr eff => execTspawn pr eff v
          | .tsubmit pr eff => execTsubmit pr eff v
          | _ => .next s
      | none, some win =>
        let u := s.onTower tw fun t => { t with waitSubs := t.waitSubs.erase w }
        match u.windowStream tw win with
        | some n => .next (u.windowStreamWait tw win n).tick
        | none => .next (u.windowGo tw win).tick
      | none, none => .next s

/-! ### Migration -/

/-- The home leaf that maps a frame: its ASID, its virtual page, where it stands and what it is. The owner table names it; for a global page the ASID whose tables are read is open, and so is the whole name of a page that no tower of the package has walked (08 R197; 20 R399; log 25). -/
def State.homeLeaf (s : State) (tw pa : Nat) : Option (BitVec 16 × Nat × Nat × Leaf) :=
  let fr := pa / 65536
  let known := ((s.tower tw).owners.filter fun o => decide (o.frame ≤ fr) && decide (fr < o.frame + o.count)).map fun o =>
    (o.tag.getD ((s.free 23).setWidth 16), o.page + (fr - o.frame))
  (known ++ [((s.free 24).setWidth 16, (s.free 24).toNat / 65536 % 2 ^ 40)]).findSome? fun a : BitVec 16 × Nat =>
    (s.leafAt a.1 (a.2 * 65536)).bind fun x => if x.2.pa (w64 (a.2 * 65536)) / 65536 = fr then some (a.1, a.2, x.1, x.2) else none

/-- A proposal that cannot be carried out is counted (20 R399). -/
def State.migAbandon (s : State) (tw : Nat) : State := s.onTower tw fun w => { w with migAband := w.migAband + 1 }

/-- One proposal of the tracker is carried out, skipped or abandoned: the page goes to a frame of the package that proposes it. What that package holds, its leaf and its MIGPOOL, is open (20 R399, R400; log 25). -/
def State.migrate (s : State) (tw frame src : Nat) : State :=
  let t := s.tower tw
  let pa := s.self * 2 ^ 46 + frame * 65536 % 2 ^ 46
  match s.homeLeaf tw pa with
  | none => s.migAbandon tw
  | some (asid, page, ea, l) =>
    if l.bit 9 then s.onTower tw fun w => { w with migPskip := w.migPskip + 1 }
    else if t.migBound ≤ s.migrations asid page then s.onTower tw fun w => { w with migBskip := w.migBskip + 1 }
    else if l.large || l.ws || l.m || l.vw || l.h || l.glob || decide (l.kind = 2) then s
    else if (s.free 13).getLsbD 0 then s.migAbandon tw
    else
      let target := src % 64 * 2 ^ 30 + (s.free 14).toNat % 2 ^ 30
      let s := s.pwrite (target * 65536) (s.pread pa 65536)
      let s := s.partWrite ea (natToBytes 8 (putBits (putBits l.raw 16 36 target) 53 1 1).toNat)
      let f : ShootForm := .range asid page 1
      ((s.shootAll f).shootCells f).onTower tw fun w => { w.noteMigration asid page s.time with
        migDone := w.migDone + 1
        forwards := w.forwards ++ [⟨pa / 65536, target, s.time⟩] }

/-- HOT_PAGE_WINDOW: a window of 1 ms ends: pages that one package alone has reached thr times are proposed (20 R399). -/
def execHotPageWindow (tw : Nat) (s : State) : Host.Outcome State Fault Refusal :=
  let t := s.tower tw
  if s.time < t.hotAt + 1000000 ∨ Config.towers ≤ tw then .next s
  else
    let lone (h : Nat × Nat × Nat) : Bool := t.hot.all fun g => !decide (g.1 = h.1) || decide (g.2.1 = h.2.1)
    let pages := (t.hot.filter fun h => decide (t.migThr ≤ h.2.2) && lone h).map fun h => (h.1, h.2.1)
    let u := s.onTower tw fun w => { w with hot := [], hotAt := s.time }
    .next (if t.migEn && decide (t.migThr ≠ 0) then pages.foldl (fun (x : State) p => x.migrate tw p.1 p.2) u else u).tick

/-- FORWARD_EXPIRY: 10 ms after the last access through an old frame it goes to MIGPOOL, once that is empty (20 R400). -/
def execForwardExpiry (tw : Nat) (s : State) : Host.Outcome State Fault Refusal :=
  let t := s.tower tw
  match t.forwards.find? fun f => decide (f.lastAt + 10000000 ≤ s.time) with
  | none => .next s
  | some f =>
    if t.migPool.getLsbD 0 then .next s
    else .next (s.onTower tw fun w => { w with migPool := w64 (3 + f.frame % 2 ^ 36 * 65536), forwards := w.forwards.erase f }).tick

end Sys2Proof.Machine
end

