-- ==== Sys2Proof/Machine/Platform.lean ====
section
/-! DEFINITION. Sys2Proof/Machine/Platform.lean: power, heat, reset and boot, the fuse counter, attestation, the mailbox commands, errors and repair, updates (21 R415; 23 R420 to R428). -/

namespace Sys2Proof.Machine

/-! ### Mailboxes -/

/-- First byte of the buffer of a mailbox (23 R425). -/
def State.bufferPa (s : State) (m : Nat) : Nat := s.self * 2 ^ 46 + 0x3F000181000 + 0x2000 * m

/-- n bytes of a mailbox's buffer. -/
def State.buffer (s : State) (m n : Nat) : List Byte := s.pread (s.bufferPa m) n

/-- A status of an error: 2 or more; which is open (23 R425; log 22). -/
def State.errorStatus (s : State) : Word := w64 (2 + (s.free 15).toNat % 0xFE)

/-- A command ends: its status is written, a release of its buffer, and the next command may be served (23 R425). -/
def State.mboxEnd (s : State) (m : Nat) (status : Word) : State :=
  { s with mboxes := s.mboxes.modify m fun b => { b with status := status }, mboxQueue := s.mboxQueue.filter fun x => !decide (x = m) }

/-- A mailbox command is served: the oldest command of the two mailboxes, unless an update waits (23 R425, R428). -/
def mboxServe (s : State) (m code : Nat) (f : State → State) : Host.Outcome State Fault Refusal :=
  if s.mboxQueue.head? = some m ∧ (s.mbox m).cmd.toNat = code ∧ s.fwWait = none then .next (f s).tick else .next s

/-- A command ends well with bytes in its buffer. -/
def State.mboxReply (s : State) (m : Nat) (bs : List Byte) : State := (s.pwrite (s.bufferPa m) bs).mboxEnd m 1

/-- A measurement register takes in a digest: M[i] becomes SHA-256 of M[i] and the digest (23 R422, R425). -/
def State.extend (s : State) (i : Nat) (digest : List Byte) : State :=
  { s with measures := s.measures.modify i fun x => BitVec.ofNat 256 (bytesToNat (sha256 (natToBytes 32 x.toNat ++ digest))) }

/-- The report of ATTEST (23 R424). -/
def State.report (s : State) (nonce : List Byte) : List Byte :=
  s.measures.flatMap (fun x => natToBytes 32 x.toNat) ++ natToBytes 8 s.fuses ++ nonce ++ natToBytes 16 Config.serial.toNat ++ natToBytes 8 s.cap
    ++ List.replicate 64 0

/-- ATTEST: a nonce in, the report and its signature out (23 R424). -/
def execAttest (m : Nat) (s : State) : Host.Outcome State Fault Refusal :=
  mboxServe s m 1 fun t =>
    let r := t.report (t.buffer m 32)
    t.mboxReply m (r ++ (Config.attestSignature r ++ List.replicate 384 0).take 384)

/-- SEAL: the tag of an image (21 R415; log 24). -/
def execSealImage (m : Nat) (s : State) : Host.Outcome State Fault Refusal :=
  mboxServe s m 2 fun t =>
    let b := t.buffer m 4096
    t.mboxReply m (hmac Config.sealKey (b.take (Config.imageBytes b)))

/-- CHECK: whether the last 32 bytes of an image are the tag of those before them (21 R415; log 24). -/
def execCheckImage (m : Nat) (s : State) : Host.Outcome State Fault Refusal :=
  mboxServe s m 3 fun t =>
    let b := t.buffer m 4096
    let x := b.take (Config.imageBytes b)
    let good := decide (32 ≤ x.length) && decide (hmac Config.sealKey (x.take (x.length - 32)) = x.drop (x.length - 32))
    t.mboxReply m (natToBytes 8 (Config.verdictWord good).toNat)

/-- FUSEADV: the fuse counter advances by one, up to 64 (23 R423). -/
def execFuseadv (m : Nat) (s : State) : Host.Outcome State Fault Refusal :=
  mboxServe s m 5 fun t =>
    if t.fuses < 64 then ({ t with fuses := t.fuses + 1 } : State).mboxReply m (natToBytes 8 (t.fuses + 1)) else t.mboxEnd m t.errorStatus

/-- EXTEND: a register of M8 to M15 takes in a digest (23 R422, R425). -/
def execExtend (m : Nat) (s : State) : Host.Outcome State Fault Refusal :=
  mboxServe s m 7 fun t =>
    let r := bytesToNat (t.buffer m 8)
    if 8 ≤ r ∧ r ≤ 15 then (t.extend r ((t.buffer m 40).drop 8)).mboxEnd m 1 else t.mboxEnd m t.errorStatus

/-- TELEMETRY: power and temperature, which are open, and the counts of errors; how many errors accesses and the part's SRAMs have corrected since it was last asked is open (20 R387, R392; 23 R425, R426; log 24). -/
def execTelemetry (m : Nat) (s : State) : Host.Outcome State Fault Refusal :=
  mboxServe s m 8 fun t =>
    let t : State := { t with corrected := t.corrected + (t.free 25).toNat % 2 ^ 32 }
    t.mboxReply m (([(t.free 16).toNat, (t.free 17).toNat, t.corrected, t.flitRetries, t.routeIgnored] : List Nat).flatMap fun x => natToBytes 8 x)

/-! ### Power and heat -/

/-- How many steps of clock and then of share a cap takes off: 21 of 50 MHz, then 7 of an eighth; none at 4.6 kW (23 R420; log 26). -/
def capSteps (cap : Nat) : Nat := if 4600 ≤ cap then 0 else (Config.freeBits 18 cap).toNat % 29

/-- The clock in MHz that a cap allows. -/
def capClock (cap : Nat) : Nat := 2100 - 50 * Nat.min 21 (capSteps cap)

/-- The issue share in eighths that a cap allows. -/
def capShare (cap : Nat) : Nat := 8 - (capSteps cap - 21)

/-- SETCAP: a cap of 1.5 to 4.6 kW in steps of 50 W, met by the clock and then by the issue share; a throttle stays below it (23 R420, R421). -/
def execSetcap (m : Nat) (s : State) : Host.Outcome State Fault Refusal :=
  mboxServe s m 4 fun t =>
    let v := bytesToNat (t.buffer m 8)
    if v < 1500 ∨ 4600 < v ∨ v % 50 ≠ 0 then t.mboxEnd m t.errorStatus
    else
      let clock := if t.throttling then Nat.min t.clock (capClock v) else capClock v
      let share := if t.throttling then Nat.min t.share (capShare v) else capShare v
      ({ t with cap := v, clock := clock, share := share, capOverAt := if capShare v = 1 then some t.time else none } : State).mboxEnd m 1

/-- CAP_OVERRUN: one issue cycle in eight has left the package above its cap for 10 ms; the next 10 ms are counted anew (23 R420). -/
def execCapOverrun (s : State) : Host.Outcome State Fault Refusal :=
  match s.capOverAt with
  | none => .next s
  | some a => if a + 10000000 ≤ s.time ∧ s.share = 1 then .next (({ s with capOverAt := some s.time } : State).fqMachine 0 0 0 2).tick else .next s

/-- THERMAL_THROTTLE: a junction has reached 105 C (23 R421). -/
def execThermalThrottle (s : State) : Host.Outcome State Fault Refusal :=
  if s.throttling then .next s else .next (({ s with throttling := true, stepAt := s.time } : State).fqMachine 0 0 0 1).tick

/-- THROTTLE_STEP: 100 us at 105 C or above: the clock, then the issue share, goes down one step (23 R421). -/
def execThrottleStep (s : State) : Host.Outcome State Fault Refusal :=
  if !s.throttling || decide (s.time < s.stepAt + 100000) then .next s
  else if 1050 < s.clock then .next ({ s with clock := s.clock - 50, stepAt := s.time } : State).tick
  else if 1 < s.share then .next ({ s with share := s.share - 1, stepAt := s.time } : State).tick
  else .next s

/-- THROTTLE_RECOVERY: every junction has been below 100 C for 1 ms: the share, then the clock, goes up one step, up to what the cap allows (23 R421). -/
def execThrottleRecovery (s : State) : Host.Outcome State Fault Refusal :=
  if !s.throttling || decide (s.time < s.stepAt + 1000000) then .next s
  else if s.share < capShare s.cap then .next ({ s with share := s.share + 1, stepAt := s.time } : State).tick
  else if s.clock < capClock s.cap then .next ({ s with clock := s.clock + 50, stepAt := s.time } : State).tick
  else .next ({ s with throttling := false, stepAt := s.time } : State).tick

/-- THERMAL_SHUTDOWN: a junction has reached 115 C: every clock stops and nothing further is written (23 R421). -/
def execThermalShutdown (s : State) : Host.Outcome State Fault Refusal := .next ({ s with stopped := true } : State).tick

/-! ### Reset and boot -/

/-- Whether a boot stage may run (23 R422). -/
def stageOk (fuses : Nat) (x : BootStage) : Bool := Config.signatureOk x.image x.signature && decide (fuses ≤ x.version)

/-- The stages are checked, measured and run in order; the index of the first that fails, if one does (23 R422). -/
def State.boot (s : State) : (n : Nat) → (k : Nat) → List BootStage → State × Option Nat
  | 0, _, _ => (s, none)
  | _ + 1, k, [] => (s, some k)
  | n + 1, k, x :: xs => if stageOk s.fuses x then (s.extend k (sha256 x.image)).boot n (k + 1) xs else (s, some k)

/-- The registers a supervisor starts with: those of a first dispatch, from a record the spec does not give (23 R422; log 27). -/
def State.supervisorCtx (s : State) (tw : Nat) : Ctx :=
  let f (k : Nat) : Word := s.free (32 + 8 * tw + k)
  let c := Ctx.blank s.nextCtx .task tw (s.tower tw).svCell 1 (w64 (bitsOf (f 0) 6 50 * 64)) ((f 1).setWidth 16) s.time
  ({ c with pc := w64 (bitsOf (f 2) 4 52 * 16), est := (f 3).setWidth 32, hint := (f 3).extractLsb' 32 2
            afBase := w64 (bitsOf (f 4) 13 43 * 8192 + 0x2000) } : Ctx).setG 61 (w64 (bitsOf (f 5) 0 56))

/-- The supervisor of a tower is dispatched as a class-0 task on the lowest cell whose cluster passed its test; which did is open (23 R422; log 27). -/
def State.startSupervisor (s : State) (tw : Nat) : State :=
  let k := (s.free (33 + 8 * tw)).toNat / 65536 % 64
  let s := s.onTower tw fun t => { t with svCell := 2 * k, svOn := true, retiredClusters := List.range k }
  let c := s.supervisorCtx tw
  let t : TaskInfo :=
    { recA := c.recA, asid := c.asid, recAsid := c.asid, st := .running, cls := 0, strm := none, ranges := [], released := 0, readyAt := 0, readySeq := 0, aged := 0
      overflow := false, window := none, hyp := 0, shielded := false, gang := none, heldHyps := [], endAsked := false, halted := false, preempted := false
      needHandler := false, cause := none, newPrio := none }
  let s := s.onTower tw fun w => { w with tasks := w.tasks ++ [t], svKey := some t.key }
  { s with
    ctxs := s.ctxs ++ [c], nextCtx := s.nextCtx + 1
    liveAsids := if s.liveAsids.contains c.asid then s.liveAsids else s.liveAsids ++ [c.asid] }

/-- What a package that stays in reset still answers: a reset, and a read of its mailboxes (23 R422, R425). -/
def answersInReset (i : Instr) : Bool :=
  match i with
  | .packageReset _ => true
  | .hostRead pa n => match paKind pa with
    | .device off => decide (0x180000 ≤ off) && decide (off + n ≤ 0x184000)
    | _ => false
  | _ => false

/-- PACKAGE_RESET: everything but the fuses and the package number starts anew, and the ROM runs the stages; one that fails its check leaves the package in reset; after stage 6 the mailboxes are done and the supervisors start (23 R422, R425). -/
def execPackageReset (stages : List BootStage) (s : State) : Host.Outcome State Fault Refusal :=
  let r : State := { State.reset with fuses := s.fuses, self := s.self, routes := (List.replicate 64 (0 : Word)).set s.self 1, agenda := s.agenda, moves := s.moves }
  match r.boot 7 0 stages with
  | (t, some k) => .next ({ t with inReset := true, mboxes := t.mboxes.map fun b => { b with status := w64 (0x100 + k) } } : State).tick
  | (t, none) =>
    let t : State := { t with mboxes := t.mboxes.map fun b => { b with status := 1 } }
    .next ((List.range Config.towers).foldl State.startSupervisor t).tick

/-! ### Updates -/

/-- FWUPDATE: dispatch is held, and the update waits for a quiesce point (23 R428). -/
def execFwupdate (m : Nat) (s : State) : Host.Outcome State Fault Refusal :=
  mboxServe s m 6 fun t => { t with fwWait := some (m, bytesToNat (t.buffer m 8)) }

/-- FWUPDATE_INSTALL: at a quiesce point the image is checked; a good one is installed and measured into M7; dispatch resumes (23 R422, R428; log 24). -/
def execFwupdateInstall (s : State) : Host.Outcome State Fault Refusal :=
  match s.fwWait with
  | none => .next s
  | some (m, pa) =>
    let first := match s.ckptRun with
      | none => true
      | some k => decide (0 < k.behind)
    if !first || !s.quiesced then .next s
    else
      let bytes := s.paBytes pa (Config.firmwareBytes (s.paBytes pa 64))
      let cut := Config.firmwareSplit bytes
      let x : BootStage := ⟨bytes.take cut, bytes.drop cut, Config.firmwareVersion bytes⟩
      let u : State := { s with fwWait := none, ckptRun := s.ckptRun.map fun k => { k with behind := k.behind - 1 } }
      if stageOk u.fuses x then .next ((u.extend 7 (sha256 x.image)).mboxEnd m 1).tick else .next (u.mboxEnd m u.errorStatus).tick

/-! ### Errors and repair -/

/-- A word of the lens scratch of a context takes an error that cannot be corrected. -/
def State.spoilScratch (s : State) (c word : Nat) : State :=
  match s.ctx? c with
  | none => s
  | some x =>
    if x.kind = .task ∧ word * 8 / 0x20000 < x.width ∧ word * 8 % 0x20000 < x.scr.toNat * 16384 ∧ x.badScratch.contains word = false then
      (s.onCtx c fun y => { y with badScratch := y.badScratch ++ [word] }).tick
    else s

/-- A line of the L1 of a context, by its place among its lines, takes an error that cannot be corrected. -/
def State.spoilL1 (s : State) (c line : Nat) : State :=
  match (s.ctx? c).bind fun x => x.l1[line]? with
  | none => s
  | some l => if l.bad then s else (s.onCtx c fun y => { y with l1 := y.l1.set line { l with bad := true } }).tick

/-- ECC_UNCORRECTABLE: a line of HBM or of a weight store, a word of lens scratch, or a line of an L1 holds an error that cannot be corrected; the accesses that meet it fault and write the entry. From 2^52 up the number names scratch, the context above bit 20 and the word below; from 2^53 up an L1 line, the context above bit 20 and the line below (23 R426; log 100). -/
def execEccUncorrectable (pa : Nat) (s : State) : Host.Outcome State Fault Refusal :=
  if 2 ^ 53 ≤ pa then .next (s.spoilL1 ((pa - 2 ^ 53) / 2 ^ 20) ((pa - 2 ^ 53) % 2 ^ 20))
  else if 2 ^ 52 ≤ pa then .next (s.spoilScratch ((pa - 2 ^ 52) / 2 ^ 20) ((pa - 2 ^ 52) % 2 ^ 20))
  else if s.isFar pa || (paTower pa).isNone || s.badLines.contains (pa / 64) then .next s
  else .next ({ s with badLines := s.badLines ++ [pa / 64] } : State).tick

/-- PATROL_SCRUB: a line of HBM or of the live weight store is rewritten; one that cannot be corrected is marked poisoned, with an entry (23 R426). -/
def execPatrolScrub (pa : Nat) (bad : Bool) (s : State) : Host.Outcome State Fault Refusal :=
  if s.isFar pa || (paTower pa).isNone || !s.live pa then .next s
  else if bad || s.badLines.contains (pa / 64) then
    .next ((if s.badLines.contains (pa / 64) then s else { s with badLines := s.badLines ++ [pa / 64] }).eccEntry pa).tick
  else .next ({ s with corrected := s.corrected + (s.free 19).toNat % 2 } : State).tick

/-- Whether a context holds a cell or an M-node of a cluster. -/
def Ctx.inCluster (c : Ctx) (tw k : Nat) : Bool :=
  decide (c.kind = .task) && decide (c.tower = tw) && (((List.range c.width).any fun j => decide ((c.base + j) / 2 = k)) || c.nodes.any fun n => decide (n / 4 = k))

/-- CLUSTER_RETIRE: a failing cluster is granted to no task any more, and the tasks on it stop with ECCUNC (23 R427). -/
def execClusterRetire (tw cluster : Nat) (s : State) : Host.Outcome State Fault Refusal :=
  if Config.towers ≤ tw ∨ 64 ≤ cluster ∨ (s.tower tw).retiredClusters.contains cluster then .next s
  else
    let u := s.onTower tw fun t => { t with retiredClusters := t.retiredClusters ++ [cluster] }
    .next ({ u with ctxs := u.ctxs.map fun c : Ctx => if c.inCluster tw cluster then { c with eccStop := true } else c } : State).tick

/-- A slice is retired: the hash is rebuilt over the others, and the lines that change their home are written back (08 R180; 23 R427). -/
def State.retireSlice (s : State) (slice : Nat) : State :=
  let u : State := { s with retiredSlices := s.retiredSlices ++ [slice], sliceWait := s.sliceWait.erase slice }
  u.l2Drop fun x => decide (u.homeSlice x.tag x.line ≠ s.homeSlice x.tag x.line)

/-- L2_SLICE_RETIRE: a failing slice waits for a quiesce point, where its lines are written back and it is retired; the last one stays (23 R427). -/
def execL2SliceRetire (slice : Nat) (s : State) : Host.Outcome State Fault Refusal :=
  if 384 ≤ slice ∨ s.retiredSlices.contains slice ∨ 383 ≤ s.retiredSlices.length then .next s
  else if s.quiesced then .next (s.retireSlice slice).tick
  else if s.sliceWait.contains slice then .next s
  else .next ({ s with sliceWait := s.sliceWait ++ [slice] } : State).tick

/-- HBM_ROW_SPARE: a failing row is copied to a spare row; accesses to it wait for the copy (23 R427). -/
def execHbmRowSpare (row : Nat) (s : State) : Host.Outcome State Fault Refusal :=
  if s.sparedRows.contains row then .next s else .next ({ s with sparedRows := s.sparedRows ++ [row] } : State).tick

/-- CXL_PORT_DEGRADE: a failing port goes on with 8 or 4 lanes (20 R393; 23 R427). -/
def execCxlPortDegrade (port lanes : Nat) (s : State) : Host.Outcome State Fault Refusal :=
  match s.cxlLanes[port]? with
  | none => .next s
  | some n => if (lanes = 8 ∨ lanes = 4) ∧ lanes < n then .next ({ s with cxlLanes := s.cxlLanes.set port lanes } : State).tick else .next s

end Sys2Proof.Machine
end

