-- ==== Sys2Proof/Machine/Scalar.lean ====
section
/-! DEFINITION. Sys2Proof/Machine/Scalar.lean: register reads and writes, constants, moves, and scalar integer arithmetic (04 R87 to R100). -/

namespace Sys2Proof.Machine

/-- GREAD delivers the value of gN that 01 R25 and 04 R114 select, and waits while an older clause may still write it (04 R87). -/
def execGread (reg : BitVec 6) (d : Dst) (s : State) : Host.Outcome State Fault Refusal :=
  fire s (.gread reg d) fun _ t =>
    match t.fctx with
    | none => .waits t
    | some c =>
      match greadFrom reg (c.window.take t.focus.win) (c.gr reg) with
      | none => .waits t
      | some v => .fires (t.deliverS (.gread reg d) v)

/-- WREAD delivers the value of wN that 01 R25 selects (04 R87). -/
def execWread (reg : BitVec 4) (d : Dst) (s : State) : Host.Outcome State Fault Refusal :=
  fire s (.wread reg d) fun _ t =>
    match t.fctx with
    | none => .waits t
    | some c =>
      match wreadFrom reg (c.window.take t.focus.win) (c.wr reg) with
      | none => .waits t
      | some v => .fires (t.deliverW (.wread reg d) v)

/-- GWRITE records its value for gN, applied at commit (04 R88). -/
def execGwrite (pr : Pred) (reg : BitVec 6) (s : State) : Host.Outcome State Fault Refusal :=
  fire s (.gwrite pr reg) fun v t => .fires (t.onInst fun x => x.recordG reg (.scalar v.a.bits))

/-- WWRITE records its value for wN, applied at commit (04 R88). -/
def execWwrite (pr : Pred) (reg : BitVec 4) (s : State) : Host.Outcome State Fault Refusal :=
  fire s (.wwrite pr reg) fun v t => .fires (t.onInst fun x => x.recordW reg (.wide v.a.wbits))

/-- GENS delivers the sign-extended immediate (04 R89). -/
def execGens (imm : BitVec 16) (t : Tgt) (s : State) : Host.Outcome State Fault Refusal :=
  fireS s (.gens imm t) fun _ => imm.signExtend 64

/-- GENU delivers the zero-extended immediate (04 R89). -/
def execGenu (imm : BitVec 16) (t : Tgt) (s : State) : Host.Outcome State Fault Refusal :=
  fireS s (.genu imm t) fun _ => imm.setWidth 64

/-- APPC appends the immediate below slot a (04 R89). -/
def execAppc (imm : BitVec 16) (t : Tgt) (s : State) : Host.Outcome State Fault Refusal :=
  fireS s (.appc imm t) fun v => (v.a.bits <<< 16) ||| imm.setWidth 64

/-- MOV delivers its token unchanged, scalar or wide (04 R90). -/
def execMov (pr : Pred) (d : Dst) (s : State) : Host.Outcome State Fault Refusal :=
  fire s (.mov pr d) fun v t => .fires (t.deliver (.mov pr d) v.a)

/-- MOVI delivers the sign-extended immediate (04 R90). -/
def execMovi (pr : Pred) (imm : BitVec 10) (t : Tgt) (s : State) : Host.Outcome State Fault Refusal :=
  fireS s (.movi pr imm t) fun _ => imm.signExtend 64

/-- NOP has no effect (04 R91). -/
def execNop (pr : Pred) (s : State) : Host.Outcome State Fault Refusal :=
  fire s (.nop pr) fun _ t => .fires t

/-- NULL delivers a null token to every target (04 R92). -/
def execNull (pr : Pred) (d : Dst) (s : State) : Host.Outcome State Fault Refusal :=
  fire s (.null pr d) fun _ t => .fires (t.deliver (.null pr d) .null)

/-! ### Integer operations -/

/-- 1 for true, 0 for false (01 R31). -/
def boolWord (c : Bool) : Word := if c then 1#64 else 0#64

/-- A shift amount: the low six bits (04 R93). -/
def shamt (b : Word) : Nat := b.toNat % 64

/-- Signed quotient rounded toward zero; by zero all ones; the overflow wraps (01 R31). -/
def divS (a b : Word) : Word := if b = 0 then BitVec.allOnes 64 else BitVec.ofInt 64 (a.toInt.tdiv b.toInt)

/-- Unsigned quotient; by zero all ones (01 R31). -/
def divU (a b : Word) : Word := if b = 0 then BitVec.allOnes 64 else w64 (a.toNat / b.toNat)

/-- Signed remainder with the sign of a; by zero the dividend (01 R31). -/
def remS (a b : Word) : Word := if b = 0 then a else BitVec.ofInt 64 (a.toInt.tmod b.toInt)

/-- Unsigned remainder; by zero the dividend (01 R31). -/
def remU (a b : Word) : Word := if b = 0 then a else w64 (a.toNat % b.toNat)

/-- Count of leading zero bits; 64 for zero (04 R96). -/
def clz64 (a : Word) : Word := if a = 0 then 64#64 else w64 (63 - Nat.log2 a.toNat)

/-- Trailing zero bits among the low n of a number, n when they are all zero. -/
def ctzNat : (n : Nat) → Nat → Nat
  | 0, _ => 0
  | n + 1, v => if v % 2 = 1 then 0 else 1 + ctzNat n (v / 2)

/-- One bits among the low n of a number. -/
def popNat : (n : Nat) → Nat → Nat
  | 0, _ => 0
  | n + 1, v => v % 2 + popNat n (v / 2)

/-- The length of the field a BFX or BFI control names (04 R97). -/
def fieldLen (ctl : Word) : Nat := Nat.min (bitsOf ctl 8 6) (64 - bitsOf ctl 0 6)

/-- BFX: the field of a that the control describes, zero- or sign-extended (04 R97). -/
def bfxWord (a ctl : Word) : Word :=
  let l := fieldLen ctl
  let f := bitsOf a (bitsOf ctl 0 6) l
  if l = 0 then 0
  else if bitsOf ctl 15 1 = 1 ∧ f / 2 ^ (l - 1) = 1 then w64 (f + (2 ^ 64 - 2 ^ l))
  else w64 f

/-- BFI: the low bits of b put into a at the field the control describes (04 R98). -/
def bfiWord (a b ctl : Word) : Word :=
  let pos := bitsOf ctl 0 6
  let l := fieldLen ctl
  let mask : Word := w64 ((2 ^ l - 1) * 2 ^ pos)
  (a &&& ~~~mask) ||| ((b <<< pos) &&& mask)

/-- ADD: a + b modulo 2^64 (04 R93). -/
def execAdd (pr : Pred) (d : Dst) (s : State) : Host.Outcome State Fault Refusal :=
  fireS s (.add pr d) fun v => v.a.bits + v.b.bits

/-- SUB: a - b modulo 2^64 (04 R93). -/
def execSub (pr : Pred) (d : Dst) (s : State) : Host.Outcome State Fault Refusal :=
  fireS s (.sub pr d) fun v => v.a.bits - v.b.bits

/-- AND (04 R93). -/
def execAnd (pr : Pred) (d : Dst) (s : State) : Host.Outcome State Fault Refusal :=
  fireS s (.and pr d) fun v => v.a.bits &&& v.b.bits

/-- OR (04 R93). -/
def execOr (pr : Pred) (d : Dst) (s : State) : Host.Outcome State Fault Refusal :=
  fireS s (.or pr d) fun v => v.a.bits ||| v.b.bits

/-- XOR (04 R93). -/
def execXor (pr : Pred) (d : Dst) (s : State) : Host.Outcome State Fault Refusal :=
  fireS s (.xor pr d) fun v => v.a.bits ^^^ v.b.bits

/-- SHL by b[5:0] (04 R93). -/
def execShl (pr : Pred) (d : Dst) (s : State) : Host.Outcome State Fault Refusal :=
  fireS s (.shl pr d) fun v => v.a.bits <<< shamt v.b.bits

/-- SHR, logical, by b[5:0] (04 R93). -/
def execShr (pr : Pred) (d : Dst) (s : State) : Host.Outcome State Fault Refusal :=
  fireS s (.shr pr d) fun v => v.a.bits >>> shamt v.b.bits

/-- SRA, arithmetic, by b[5:0] (04 R93). -/
def execSra (pr : Pred) (d : Dst) (s : State) : Host.Outcome State Fault Refusal :=
  fireS s (.sra pr d) fun v => v.a.bits.sshiftRight (shamt v.b.bits)

/-- MIN: the signed smaller (04 R93). -/
def execMin (pr : Pred) (d : Dst) (s : State) : Host.Outcome State Fault Refusal :=
  fireS s (.min pr d) fun v => if v.b.bits.slt v.a.bits then v.b.bits else v.a.bits

/-- MAX: the signed larger (04 R93). -/
def execMax (pr : Pred) (d : Dst) (s : State) : Host.Outcome State Fault Refusal :=
  fireS s (.max pr d) fun v => if v.a.bits.slt v.b.bits then v.b.bits else v.a.bits

/-- MINU: the unsigned smaller (04 R93). -/
def execMinu (pr : Pred) (d : Dst) (s : State) : Host.Outcome State Fault Refusal :=
  fireS s (.minu pr d) fun v => if v.b.bits.ult v.a.bits then v.b.bits else v.a.bits

/-- MAXU: the unsigned larger (04 R93). -/
def execMaxu (pr : Pred) (d : Dst) (s : State) : Host.Outcome State Fault Refusal :=
  fireS s (.maxu pr d) fun v => if v.a.bits.ult v.b.bits then v.b.bits else v.a.bits

/-- ADDI: a plus the sign-extended immediate (04 R94). -/
def execAddi (pr : Pred) (imm : BitVec 10) (t : Tgt) (s : State) : Host.Outcome State Fault Refusal :=
  fireS s (.addi pr imm t) fun v => v.a.bits + imm.signExtend 64

/-- SUBI: a minus the sign-extended immediate (04 R94). -/
def execSubi (pr : Pred) (imm : BitVec 10) (t : Tgt) (s : State) : Host.Outcome State Fault Refusal :=
  fireS s (.subi pr imm t) fun v => v.a.bits - imm.signExtend 64

/-- ANDI: a AND the sign-extended immediate (04 R94). -/
def execAndi (pr : Pred) (imm : BitVec 10) (t : Tgt) (s : State) : Host.Outcome State Fault Refusal :=
  fireS s (.andi pr imm t) fun v => v.a.bits &&& imm.signExtend 64

/-- ORI: a OR the sign-extended immediate (04 R94). -/
def execOri (pr : Pred) (imm : BitVec 10) (t : Tgt) (s : State) : Host.Outcome State Fault Refusal :=
  fireS s (.ori pr imm t) fun v => v.a.bits ||| imm.signExtend 64

/-- XORI: a XOR the sign-extended immediate (04 R94). -/
def execXori (pr : Pred) (imm : BitVec 10) (t : Tgt) (s : State) : Host.Outcome State Fault Refusal :=
  fireS s (.xori pr imm t) fun v => v.a.bits ^^^ imm.signExtend 64

/-- SHLI by imm10[5:0] (04 R94). -/
def execShli (pr : Pred) (imm : BitVec 10) (t : Tgt) (s : State) : Host.Outcome State Fault Refusal :=
  fireS s (.shli pr imm t) fun v => v.a.bits <<< (imm.toNat % 64)

/-- SHRI, logical, by imm10[5:0] (04 R94). -/
def execShri (pr : Pred) (imm : BitVec 10) (t : Tgt) (s : State) : Host.Outcome State Fault Refusal :=
  fireS s (.shri pr imm t) fun v => v.a.bits >>> (imm.toNat % 64)

/-- SRAI, arithmetic, by imm10[5:0] (04 R94). -/
def execSrai (pr : Pred) (imm : BitVec 10) (t : Tgt) (s : State) : Host.Outcome State Fault Refusal :=
  fireS s (.srai pr imm t) fun v => v.a.bits.sshiftRight (imm.toNat % 64)

/-- MUL: the low half of a times b (04 R95). -/
def execMul (pr : Pred) (d : Dst) (s : State) : Host.Outcome State Fault Refusal :=
  fireS s (.mul pr d) fun v => v.a.bits * v.b.bits

/-- MULH: the high half of the signed product (04 R95). -/
def execMulh (pr : Pred) (d : Dst) (s : State) : Host.Outcome State Fault Refusal :=
  fireS s (.mulh pr d) fun v => BitVec.ofInt 64 (v.a.bits.toInt * v.b.bits.toInt / 2 ^ 64)

/-- MULHU: the high half of the unsigned product (04 R95). -/
def execMulhu (pr : Pred) (d : Dst) (s : State) : Host.Outcome State Fault Refusal :=
  fireS s (.mulhu pr d) fun v => w64 (v.a.bits.toNat * v.b.bits.toNat / 2 ^ 64)

/-- DIV: the signed quotient (04 R95). -/
def execDiv (pr : Pred) (d : Dst) (s : State) : Host.Outcome State Fault Refusal :=
  fireS s (.div pr d) fun v => divS v.a.bits v.b.bits

/-- DIVU: the unsigned quotient (04 R95). -/
def execDivu (pr : Pred) (d : Dst) (s : State) : Host.Outcome State Fault Refusal :=
  fireS s (.divu pr d) fun v => divU v.a.bits v.b.bits

/-- REM: the signed remainder (04 R95). -/
def execRem (pr : Pred) (d : Dst) (s : State) : Host.Outcome State Fault Refusal :=
  fireS s (.rem pr d) fun v => remS v.a.bits v.b.bits

/-- REMU: the unsigned remainder (04 R95). -/
def execRemu (pr : Pred) (d : Dst) (s : State) : Host.Outcome State Fault Refusal :=
  fireS s (.remu pr d) fun v => remU v.a.bits v.b.bits

/-- MULI: the low half of a times the sign-extended immediate (04 R95). -/
def execMuli (pr : Pred) (imm : BitVec 10) (t : Tgt) (s : State) : Host.Outcome State Fault Refusal :=
  fireS s (.muli pr imm t) fun v => v.a.bits * imm.signExtend 64

/-- CLZ (04 R96). -/
def execClz (pr : Pred) (d : Dst) (s : State) : Host.Outcome State Fault Refusal :=
  fireS s (.clz pr d) fun v => clz64 v.a.bits

/-- CTZ (04 R96). -/
def execCtz (pr : Pred) (d : Dst) (s : State) : Host.Outcome State Fault Refusal :=
  fireS s (.ctz pr d) fun v => w64 (ctzNat 64 v.a.bits.toNat)

/-- POPC (04 R96). -/
def execPopc (pr : Pred) (d : Dst) (s : State) : Host.Outcome State Fault Refusal :=
  fireS s (.popc pr d) fun v => w64 (popNat 64 v.a.bits.toNat)

/-- EXTS8 (04 R96). -/
def execExts8 (pr : Pred) (d : Dst) (s : State) : Host.Outcome State Fault Refusal :=
  fireS s (.exts8 pr d) fun v => (v.a.bits.setWidth 8).signExtend 64

/-- EXTS16 (04 R96). -/
def execExts16 (pr : Pred) (d : Dst) (s : State) : Host.Outcome State Fault Refusal :=
  fireS s (.exts16 pr d) fun v => (v.a.bits.setWidth 16).signExtend 64

/-- EXTS32 (04 R96). -/
def execExts32 (pr : Pred) (d : Dst) (s : State) : Host.Outcome State Fault Refusal :=
  fireS s (.exts32 pr d) fun v => (v.a.bits.setWidth 32).signExtend 64

/-- EXTZ8 (04 R96). -/
def execExtz8 (pr : Pred) (d : Dst) (s : State) : Host.Outcome State Fault Refusal :=
  fireS s (.extz8 pr d) fun v => (v.a.bits.setWidth 8).setWidth 64

/-- EXTZ16 (04 R96). -/
def execExtz16 (pr : Pred) (d : Dst) (s : State) : Host.Outcome State Fault Refusal :=
  fireS s (.extz16 pr d) fun v => (v.a.bits.setWidth 16).setWidth 64

/-- EXTZ32 (04 R96). -/
def execExtz32 (pr : Pred) (d : Dst) (s : State) : Host.Outcome State Fault Refusal :=
  fireS s (.extz32 pr d) fun v => (v.a.bits.setWidth 32).setWidth 64

/-- BFX (04 R97). -/
def execBfx (pr : Pred) (d : Dst) (s : State) : Host.Outcome State Fault Refusal :=
  fireS s (.bfx pr d) fun v => bfxWord v.a.bits v.b.bits

/-- BFI (04 R98). -/
def execBfi (pr : Pred) (d : Dst) (s : State) : Host.Outcome State Fault Refusal :=
  fireS s (.bfi pr d) fun v => bfiWord v.a.bits v.b.bits v.c.bits

/-- LEA: a + (b << shift) (04 R99). -/
def execLea (pr : Pred) (shift : BitVec 2) (d : Dst) (s : State) : Host.Outcome State Fault Refusal :=
  fireS s (.lea pr shift d) fun v => v.a.bits + (v.b.bits <<< shift.toNat)

/-- LEAI: a + (the sign-extended immediate << shift) (04 R99). -/
def execLeai (pr : Pred) (shift : BitVec 2) (imm : BitVec 10) (t : Tgt) (s : State) : Host.Outcome State Fault Refusal :=
  fireS s (.leai pr shift imm t) fun v => v.a.bits + (imm.signExtend 64 <<< shift.toNat)

/-- TEQ: 1 when a = b (04 R100). -/
def execTeq (pr : Pred) (d : Dst) (s : State) : Host.Outcome State Fault Refusal :=
  fireS s (.teq pr d) fun v => boolWord (decide (v.a.bits = v.b.bits))

/-- TNE: 1 when a differs from b (04 R100). -/
def execTne (pr : Pred) (d : Dst) (s : State) : Host.Outcome State Fault Refusal :=
  fireS s (.tne pr d) fun v => boolWord (decide (v.a.bits ≠ v.b.bits))

/-- TLT: 1 when a < b, signed (04 R100). -/
def execTlt (pr : Pred) (d : Dst) (s : State) : Host.Outcome State Fault Refusal :=
  fireS s (.tlt pr d) fun v => boolWord (v.a.bits.slt (v.b.bits))

/-- TLE: 1 when a <= b, signed (04 R100). -/
def execTle (pr : Pred) (d : Dst) (s : State) : Host.Outcome State Fault Refusal :=
  fireS s (.tle pr d) fun v => boolWord (v.a.bits.sle (v.b.bits))

/-- TLTU: 1 when a < b, unsigned (04 R100). -/
def execTltu (pr : Pred) (d : Dst) (s : State) : Host.Outcome State Fault Refusal :=
  fireS s (.tltu pr d) fun v => boolWord (v.a.bits.ult (v.b.bits))

/-- TLEU: 1 when a <= b, unsigned (04 R100). -/
def execTleu (pr : Pred) (d : Dst) (s : State) : Host.Outcome State Fault Refusal :=
  fireS s (.tleu pr d) fun v => boolWord (v.a.bits.ule (v.b.bits))

/-- TEQI: the test with the sign-extended immediate as b (04 R100). -/
def execTeqi (pr : Pred) (imm : BitVec 10) (t : Tgt) (s : State) : Host.Outcome State Fault Refusal :=
  fireS s (.teqi pr imm t) fun v => boolWord (decide (v.a.bits = imm.signExtend 64))

/-- TNEI: the test with the sign-extended immediate as b (04 R100). -/
def execTnei (pr : Pred) (imm : BitVec 10) (t : Tgt) (s : State) : Host.Outcome State Fault Refusal :=
  fireS s (.tnei pr imm t) fun v => boolWord (decide (v.a.bits ≠ imm.signExtend 64))

/-- TLTI: the test with the sign-extended immediate as b (04 R100). -/
def execTlti (pr : Pred) (imm : BitVec 10) (t : Tgt) (s : State) : Host.Outcome State Fault Refusal :=
  fireS s (.tlti pr imm t) fun v => boolWord (v.a.bits.slt (imm.signExtend 64))

/-- TLEI: the test with the sign-extended immediate as b (04 R100). -/
def execTlei (pr : Pred) (imm : BitVec 10) (t : Tgt) (s : State) : Host.Outcome State Fault Refusal :=
  fireS s (.tlei pr imm t) fun v => boolWord (v.a.bits.sle (imm.signExtend 64))

/-- TLTUI: the test with the sign-extended immediate as b (04 R100). -/
def execTltui (pr : Pred) (imm : BitVec 10) (t : Tgt) (s : State) : Host.Outcome State Fault Refusal :=
  fireS s (.tltui pr imm t) fun v => boolWord (v.a.bits.ult (imm.signExtend 64))

/-- TLEUI: the test with the sign-extended immediate as b (04 R100). -/
def execTleui (pr : Pred) (imm : BitVec 10) (t : Tgt) (s : State) : Host.Outcome State Fault Refusal :=
  fireS s (.tleui pr imm t) fun v => boolWord (v.a.bits.ule (imm.signExtend 64))

end Sys2Proof.Machine
end

