-- ==== Sys2Proof/Machine/Dispatch.lean ====
section
/-! DEFINITION. Sys2Proof/Machine/Dispatch.lean: which meaning each row of the opcode table has. -/

namespace Sys2Proof.Machine

/-- One row of the opcode table acts on the machine: an instruction on the focus, an event on what it names. -/
def exec (i : Instr) (s : State) : Host.Outcome State Fault Refusal :=
  match i with
  | .gread reg d => Sys2Proof.Machine.execGread reg d s
  | .wread reg d => Sys2Proof.Machine.execWread reg d s
  | .gwrite pr reg => Sys2Proof.Machine.execGwrite pr reg s
  | .wwrite pr reg => Sys2Proof.Machine.execWwrite pr reg s
  | .gens imm t => Sys2Proof.Machine.execGens imm t s
  | .genu imm t => Sys2Proof.Machine.execGenu imm t s
  | .appc imm t => Sys2Proof.Machine.execAppc imm t s
  | .mov pr d => Sys2Proof.Machine.execMov pr d s
  | .movi pr imm t => Sys2Proof.Machine.execMovi pr imm t s
  | .nop pr => Sys2Proof.Machine.execNop pr s
  | .null pr d => Sys2Proof.Machine.execNull pr d s
  | .add pr d => Sys2Proof.Machine.execAdd pr d s
  | .sub pr d => Sys2Proof.Machine.execSub pr d s
  | .and pr d => Sys2Proof.Machine.execAnd pr d s
  | .or pr d => Sys2Proof.Machine.execOr pr d s
  | .xor pr d => Sys2Proof.Machine.execXor pr d s
  | .shl pr d => Sys2Proof.Machine.execShl pr d s
  | .shr pr d => Sys2Proof.Machine.execShr pr d s
  | .sra pr d => Sys2Proof.Machine.execSra pr d s
  | .min pr d => Sys2Proof.Machine.execMin pr d s
  | .max pr d => Sys2Proof.Machine.execMax pr d s
  | .minu pr d => Sys2Proof.Machine.execMinu pr d s
  | .maxu pr d => Sys2Proof.Machine.execMaxu pr d s
  | .addi pr imm t => Sys2Proof.Machine.execAddi pr imm t s
  | .subi pr imm t => Sys2Proof.Machine.execSubi pr imm t s
  | .andi pr imm t => Sys2Proof.Machine.execAndi pr imm t s
  | .ori pr imm t => Sys2Proof.Machine.execOri pr imm t s
  | .xori pr imm t => Sys2Proof.Machine.execXori pr imm t s
  | .shli pr imm t => Sys2Proof.Machine.execShli pr imm t s
  | .shri pr imm t => Sys2Proof.Machine.execShri pr imm t s
  | .srai pr imm t => Sys2Proof.Machine.execSrai pr imm t s
  | .mul pr d => Sys2Proof.Machine.execMul pr d s
  | .mulh pr d => Sys2Proof.Machine.execMulh pr d s
  | .mulhu pr d => Sys2Proof.Machine.execMulhu pr d s
  | .div pr d => Sys2Proof.Machine.execDiv pr d s
  | .divu pr d => Sys2Proof.Machine.execDivu pr d s
  | .rem pr d => Sys2Proof.Machine.execRem pr d s
  | .remu pr d => Sys2Proof.Machine.execRemu pr d s
  | .muli pr imm t => Sys2Proof.Machine.execMuli pr imm t s
  | .clz pr d => Sys2Proof.Machine.execClz pr d s
  | .ctz pr d => Sys2Proof.Machine.execCtz pr d s
  | .popc pr d => Sys2Proof.Machine.execPopc pr d s
  | .exts8 pr d => Sys2Proof.Machine.execExts8 pr d s
  | .exts16 pr d => Sys2Proof.Machine.execExts16 pr d s
  | .exts32 pr d => Sys2Proof.Machine.execExts32 pr d s
  | .extz8 pr d => Sys2Proof.Machine.execExtz8 pr d s
  | .extz16 pr d => Sys2Proof.Machine.execExtz16 pr d s
  | .extz32 pr d => Sys2Proof.Machine.execExtz32 pr d s
  | .bfx pr d => Sys2Proof.Machine.execBfx pr d s
  | .bfi pr d => Sys2Proof.Machine.execBfi pr d s
  | .lea pr shift d => Sys2Proof.Machine.execLea pr shift d s
  | .leai pr shift imm t => Sys2Proof.Machine.execLeai pr shift imm t s
  | .teq pr d => Sys2Proof.Machine.execTeq pr d s
  | .tne pr d => Sys2Proof.Machine.execTne pr d s
  | .tlt pr d => Sys2Proof.Machine.execTlt pr d s
  | .tle pr d => Sys2Proof.Machine.execTle pr d s
  | .tltu pr d => Sys2Proof.Machine.execTltu pr d s
  | .tleu pr d => Sys2Proof.Machine.execTleu pr d s
  | .teqi pr imm t => Sys2Proof.Machine.execTeqi pr imm t s
  | .tnei pr imm t => Sys2Proof.Machine.execTnei pr imm t s
  | .tlti pr imm t => Sys2Proof.Machine.execTlti pr imm t s
  | .tlei pr imm t => Sys2Proof.Machine.execTlei pr imm t s
  | .tltui pr imm t => Sys2Proof.Machine.execTltui pr imm t s
  | .tleui pr imm t => Sys2Proof.Machine.execTleui pr imm t s
  | .fadd pr y d => Sys2Proof.Machine.execFadd pr y d s
  | .fsub pr y d => Sys2Proof.Machine.execFsub pr y d s
  | .fmul pr y d => Sys2Proof.Machine.execFmul pr y d s
  | .fdiv pr y d => Sys2Proof.Machine.execFdiv pr y d s
  | .fmin pr y d => Sys2Proof.Machine.execFmin pr y d s
  | .fmax pr y d => Sys2Proof.Machine.execFmax pr y d s
  | .fsqrt pr y d => Sys2Proof.Machine.execFsqrt pr y d s
  | .fsgn pr y d => Sys2Proof.Machine.execFsgn pr y d s
  | .ffma pr y d => Sys2Proof.Machine.execFfma pr y d s
  | .ffms pr y d => Sys2Proof.Machine.execFfms pr y d s
  | .ffnma pr y d => Sys2Proof.Machine.execFfnma pr y d s
  | .ffnms pr y d => Sys2Proof.Machine.execFfnms pr y d s
  | .fcvt pr y z d => Sys2Proof.Machine.execFcvt pr y z d s
  | .ftoi pr y sgn trunc d => Sys2Proof.Machine.execFtoi pr y sgn trunc d s
  | .itof pr y sgn d => Sys2Proof.Machine.execItof pr y sgn d s
  | .feq pr y d => Sys2Proof.Machine.execFeq pr y d s
  | .flt pr y d => Sys2Proof.Machine.execFlt pr y d s
  | .fle pr y d => Sys2Proof.Machine.execFle pr y d s
  | .fclass pr y d => Sys2Proof.Machine.execFclass pr y d s
  | .bro pr exit off => Sys2Proof.Machine.execBro pr exit off s
  | .br pr => Sys2Proof.Machine.execBr pr s
  | .callo pr exit off => Sys2Proof.Machine.execCallo pr exit off s
  | .call pr => Sys2Proof.Machine.execCall pr s
  | .ret pr => Sys2Proof.Machine.execRet pr s
  | .exitt pr => Sys2Proof.Machine.execExitt pr s
  | .yield pr exit off => Sys2Proof.Machine.execYield pr exit off s
  | .scall pr exit svc => Sys2Proof.Machine.execScall pr exit svc s
  | .vadd pr sh d => Sys2Proof.Machine.execVadd pr sh d s
  | .vsub pr sh d => Sys2Proof.Machine.execVsub pr sh d s
  | .vmul pr sh d => Sys2Proof.Machine.execVmul pr sh d s
  | .vmulh pr sh d => Sys2Proof.Machine.execVmulh pr sh d s
  | .vmin pr sh d => Sys2Proof.Machine.execVmin pr sh d s
  | .vmax pr sh d => Sys2Proof.Machine.execVmax pr sh d s
  | .vand pr sh d => Sys2Proof.Machine.execVand pr sh d s
  | .vor pr sh d => Sys2Proof.Machine.execVor pr sh d s
  | .vxor pr sh d => Sys2Proof.Machine.execVxor pr sh d s
  | .vshl pr sh d => Sys2Proof.Machine.execVshl pr sh d s
  | .vshr pr sh d => Sys2Proof.Machine.execVshr pr sh d s
  | .vsra pr sh d => Sys2Proof.Machine.execVsra pr sh d s
  | .vfadd pr y d => Sys2Proof.Machine.execVfadd pr y d s
  | .vfsub pr y d => Sys2Proof.Machine.execVfsub pr y d s
  | .vfmul pr y d => Sys2Proof.Machine.execVfmul pr y d s
  | .vfdiv pr y d => Sys2Proof.Machine.execVfdiv pr y d s
  | .vfmin pr y d => Sys2Proof.Machine.execVfmin pr y d s
  | .vfmax pr y d => Sys2Proof.Machine.execVfmax pr y d s
  | .vfsqrt pr y d => Sys2Proof.Machine.execVfsqrt pr y d s
  | .vrcp pr y d => Sys2Proof.Machine.execVrcp pr y d s
  | .vrsq pr y d => Sys2Proof.Machine.execVrsq pr y d s
  | .vexp2 pr y d => Sys2Proof.Machine.execVexp2 pr y d s
  | .vlog2 pr y d => Sys2Proof.Machine.execVlog2 pr y d s
  | .vffma pr y d => Sys2Proof.Machine.execVffma pr y d s
  | .vffms pr y d => Sys2Proof.Machine.execVffms pr y d s
  | .vffnma pr y d => Sys2Proof.Machine.execVffnma pr y d s
  | .vffnms pr y d => Sys2Proof.Machine.execVffnms pr y d s
  | .vcvt pr d => Sys2Proof.Machine.execVcvt pr d s
  | .vqnt pr d => Sys2Proof.Machine.execVqnt pr d s
  | .vdqnt pr d => Sys2Proof.Machine.execVdqnt pr d s
  | .vcmp pr sh cond d => Sys2Proof.Machine.execVcmp pr sh cond d s
  | .vfcmp pr y cond d => Sys2Proof.Machine.execVfcmp pr y cond d s
  | .vsel pr sh d => Sys2Proof.Machine.execVsel pr sh d s
  | .vbcast pr sh d => Sys2Proof.Machine.execVbcast pr sh d s
  | .vextr pr sh d => Sys2Proof.Machine.execVextr pr sh d s
  | .vins pr sh d => Sys2Proof.Machine.execVins pr sh d s
  | .vshuf pr sh d => Sys2Proof.Machine.execVshuf pr sh d s
  | .vred pr d => Sys2Proof.Machine.execVred pr d s
  | .vscan pr d => Sys2Proof.Machine.execVscan pr d s
  | .vdot pr d => Sys2Proof.Machine.execVdot pr d s
  | .ldZb pr eff imm t => Sys2Proof.Machine.execLdZb pr eff imm t s
  | .ldZh pr eff imm t => Sys2Proof.Machine.execLdZh pr eff imm t s
  | .ldZw pr eff imm t => Sys2Proof.Machine.execLdZw pr eff imm t s
  | .ldD pr eff imm t => Sys2Proof.Machine.execLdD pr eff imm t s
  | .ldSb pr eff imm t => Sys2Proof.Machine.execLdSb pr eff imm t s
  | .ldSh pr eff imm t => Sys2Proof.Machine.execLdSh pr eff imm t s
  | .ldSw pr eff imm t => Sys2Proof.Machine.execLdSw pr eff imm t s
  | .stB pr eff imm => Sys2Proof.Machine.execStB pr eff imm s
  | .stH pr eff imm => Sys2Proof.Machine.execStH pr eff imm s
  | .stW pr eff imm => Sys2Proof.Machine.execStW pr eff imm s
  | .stD pr eff imm => Sys2Proof.Machine.execStD pr eff imm s
  | .ldacq pr eff imm t => Sys2Proof.Machine.execLdacq pr eff imm t s
  | .strel pr eff imm => Sys2Proof.Machine.execStrel pr eff imm s
  | .vld pr eff imm t => Sys2Proof.Machine.execVld pr eff imm t s
  | .vst pr eff imm => Sys2Proof.Machine.execVst pr eff imm s
  | .vlds pr eff sh t => Sys2Proof.Machine.execVlds pr eff sh t s
  | .vsts pr eff sh => Sys2Proof.Machine.execVsts pr eff sh s
  | .vgath pr eff sh uns scale t => Sys2Proof.Machine.execVgath pr eff sh uns scale t s
  | .vscat pr eff sh uns scale => Sys2Proof.Machine.execVscat pr eff sh uns scale s
  | .pref pr eff wr lvl => Sys2Proof.Machine.execPref pr eff wr lvl s
  | .amoadd pr eff size sc rlx t => Sys2Proof.Machine.execAmoadd pr eff size sc rlx t s
  | .amoand pr eff size sc rlx t => Sys2Proof.Machine.execAmoand pr eff size sc rlx t s
  | .amoor pr eff size sc rlx t => Sys2Proof.Machine.execAmoor pr eff size sc rlx t s
  | .amoxor pr eff size sc rlx t => Sys2Proof.Machine.execAmoxor pr eff size sc rlx t s
  | .amomin pr eff size sc rlx t => Sys2Proof.Machine.execAmomin pr eff size sc rlx t s
  | .amomax pr eff size sc rlx t => Sys2Proof.Machine.execAmomax pr eff size sc rlx t s
  | .amominu pr eff size sc rlx t => Sys2Proof.Machine.execAmominu pr eff size sc rlx t s
  | .amomaxu pr eff size sc rlx t => Sys2Proof.Machine.execAmomaxu pr eff size sc rlx t s
  | .amoswp pr eff size sc rlx t => Sys2Proof.Machine.execAmoswp pr eff size sc rlx t s
  | .amocas pr eff size sc rlx t => Sys2Proof.Machine.execAmocas pr eff size sc rlx t s
  | .amofadd pr eff size sc rlx t => Sys2Proof.Machine.execAmofadd pr eff size sc rlx t s
  | .vamoadd pr eff y sc rlx t => Sys2Proof.Machine.execVamoadd pr eff y sc rlx t s
  | .fenceAcq pr eff sc => Sys2Proof.Machine.execFenceAcq pr eff sc s
  | .fenceRel pr eff sc => Sys2Proof.Machine.execFenceRel pr eff sc s
  | .fenceAcqrel pr eff sc => Sys2Proof.Machine.execFenceAcqrel pr eff sc s
  | .fenceSc pr eff sc => Sys2Proof.Machine.execFenceSc pr eff sc s
  | .fenceEngine pr eff sc => Sys2Proof.Machine.execFenceEngine pr eff sc s
  | .waitv pr eff acq t => Sys2Proof.Machine.execWaitv pr eff acq t s
  | .bara pr eff sc t => Sys2Proof.Machine.execBara pr eff sc t s
  | .barw pr eff sc t => Sys2Proof.Machine.execBarw pr eff sc t s
  | .tspawn pr eff => Sys2Proof.Machine.execTspawn pr eff s
  | .tsubmit pr eff => Sys2Proof.Machine.execTsubmit pr eff s
  | .tdep pr eff => Sys2Proof.Machine.execTdep pr eff s
  | .twait pr eff poll t => Sys2Proof.Machine.execTwait pr eff poll t s
  | .trange pr eff => Sys2Proof.Machine.execTrange pr eff s
  | .tprio pr eff => Sys2Proof.Machine.execTprio pr eff s
  | .amsend pr eff => Sys2Proof.Machine.execAmsend pr eff s
  | .amreply pr eff => Sys2Proof.Machine.execAmreply pr eff s
  | .htset pr eff => Sys2Proof.Machine.execHtset pr eff s
  | .inbox pr eff take t => Sys2Proof.Machine.execInbox pr eff take t s
  | .hnew pr eff t => Sys2Proof.Machine.execHnew pr eff t s
  | .henter pr eff => Sys2Proof.Machine.execHenter pr eff s
  | .hleave pr eff => Sys2Proof.Machine.execHleave pr eff s
  | .hresolve pr eff t => Sys2Proof.Machine.execHresolve pr eff t s
  | .hstat pr eff sum t => Sys2Proof.Machine.execHstat pr eff sum t s
  | .hldc pr eff acq sgn size t => Sys2Proof.Machine.execHldc pr eff acq sgn size t s
  | .tdef pr eff ta => Sys2Proof.Machine.execTdef pr eff ta s
  | .tload pr eff ta => Sys2Proof.Machine.execTload pr eff ta s
  | .tloadEdge pr eff ta port => Sys2Proof.Machine.execTloadEdge pr eff ta port s
  | .tstore pr eff ta => Sys2Proof.Machine.execTstore pr eff ta s
  | .tstoreEdge pr eff ta port => Sys2Proof.Machine.execTstoreEdge pr eff ta port s
  | .tfree pr eff ta => Sys2Proof.Machine.execTfree pr eff ta s
  | .mma pr eff ta tb => Sys2Proof.Machine.execMma pr eff ta tb s
  | .mmai pr eff ta tb => Sys2Proof.Machine.execMmai pr eff ta tb s
  | .maccrd pr eff ta => Sys2Proof.Machine.execMaccrd pr eff ta s
  | .macclr pr eff => Sys2Proof.Machine.execMacclr pr eff s
  | .maccld pr eff ta => Sys2Proof.Machine.execMaccld pr eff ta s
  | .mew pr eff ta => Sys2Proof.Machine.execMew pr eff ta s
  | .mcopy pr eff ta tb => Sys2Proof.Machine.execMcopy pr eff ta tb s
  | .msplat pr eff ta => Sys2Proof.Machine.execMsplat pr eff ta s
  | .scopy pr eff queue t => Sys2Proof.Machine.execScopy pr eff queue t s
  | .sgath pr eff queue t => Sys2Proof.Machine.execSgath pr eff queue t s
  | .sscat pr eff queue t => Sys2Proof.Machine.execSscat pr eff queue t s
  | .slayout pr eff queue t => Sys2Proof.Machine.execSlayout pr eff queue t s
  | .sfill pr eff queue t => Sys2Proof.Machine.execSfill pr eff queue t s
  | .sfence pr eff sc t => Sys2Proof.Machine.execSfence pr eff sc t s
  | .swait pr eff poll t => Sys2Proof.Machine.execSwait pr eff poll t s
  | .vwreg pr eff t => Sys2Proof.Machine.execVwreg pr eff t s
  | .vwdrop pr eff => Sys2Proof.Machine.execVwdrop pr eff s
  | .vwsync pr eff force t => Sys2Proof.Machine.execVwsync pr eff force t s
  | .vwqry pr eff master t => Sys2Proof.Machine.execVwqry pr eff master t s
  | .vwpol pr eff => Sys2Proof.Machine.execVwpol pr eff s
  | .pload pr eff t => Sys2Proof.Machine.execPload pr eff t s
  | .punload pr eff t => Sys2Proof.Machine.execPunload pr eff t s
  | .pstart pr eff t => Sys2Proof.Machine.execPstart pr eff t s
  | .pstop pr eff t => Sys2Proof.Machine.execPstop pr eff t s
  | .psave pr eff t => Sys2Proof.Machine.execPsave pr eff t s
  | .prest pr eff t => Sys2Proof.Machine.execPrest pr eff t s
  | .spush eff port => Sys2Proof.Machine.execSpush eff port s
  | .spop eff port t => Sys2Proof.Machine.execSpop eff port t s
  | .trap pr eff => Sys2Proof.Machine.execTrap pr eff s
  | .rft pr eff => Sys2Proof.Machine.execRft pr eff s
  | .cread pr eff sel t => Sys2Proof.Machine.execCread pr eff sel t s
  | .cwrite pr eff sel => Sys2Proof.Machine.execCwrite pr eff sel s
  | .halt pr eff => Sys2Proof.Machine.execHalt pr eff s
  | .idle pr eff t => Sys2Proof.Machine.execIdle pr eff t s
  | .plbfl pr eff t => Sys2Proof.Machine.execPlbfl pr eff t s
  | .cline pr eff op => Sys2Proof.Machine.execCline pr eff op s
  | .dbgbrk pr eff => Sys2Proof.Machine.execDbgbrk pr eff s
  | .afwait pr eff t => Sys2Proof.Machine.execAfwait pr eff t s
  | .winrd pr eff t => Sys2Proof.Machine.execWinrd pr eff t s
  | .winwr pr eff => Sys2Proof.Machine.execWinwr pr eff s
  | .tresume pr eff => Sys2Proof.Machine.execTresume pr eff s
  | .wsopen pr eff => Sys2Proof.Machine.execWsopen pr eff s
  | .wsclose pr eff => Sys2Proof.Machine.execWsclose pr eff s
  | .rdtime pr eff t => Sys2Proof.Machine.execRdtime pr eff t s
  | .rdpmc pr eff t => Sys2Proof.Machine.execRdpmc pr eff t s
  | .clauseFetch c => Sys2Proof.Machine.execClauseFetch c s
  | .clauseCommit c => Sys2Proof.Machine.execClauseCommit c s
  | .stopRequest c r => Sys2Proof.Machine.execStopRequest c r s
  | .stall c => Sys2Proof.Machine.execStall c s
  | .taskStop c => Sys2Proof.Machine.execTaskStop c s
  | .upcall c => Sys2Proof.Machine.execUpcall c s
  | .srseedWrite c v => Sys2Proof.Machine.execSrseedWrite c v s
  | .lsplitWrite c v => Sys2Proof.Machine.execLsplitWrite c v s
  | .prioWrite c v => Sys2Proof.Machine.execPrioWrite c v s
  | .fpflagsWrite c v => Sys2Proof.Machine.execFpflagsWrite c v s
  | .resumeWrite c v => Sys2Proof.Machine.execResumeWrite c v s
  | .afringWrite c v => Sys2Proof.Machine.execAfringWrite c v s
  | .fqbaseWrite tw v => Sys2Proof.Machine.execFqbaseWrite tw v s
  | .fqptrWrite tw v => Sys2Proof.Machine.execFqptrWrite tw v s
  | .asidMakeLive asid => Sys2Proof.Machine.execAsidMakeLive asid s
  | .asidMakeNotLive asid => Sys2Proof.Machine.execAsidMakeNotLive asid s
  | .ovqWrite tw v => Sys2Proof.Machine.execOvqWrite tw v s
  | .vlogWrite v => Sys2Proof.Machine.execVlogWrite v s
  | .wsldatWrite tw v => Sys2Proof.Machine.execWsldatWrite tw v s
  | .c0resWrite tw v => Sys2Proof.Machine.execC0resWrite tw v s
  | .migcntWrite tw => Sys2Proof.Machine.execMigcntWrite tw s
  | .gangArm c v => Sys2Proof.Machine.execGangArm c v s
  | .checkpointStart c desc => Sys2Proof.Machine.execCheckpointStart c desc s
  | .restoreStart c desc => Sys2Proof.Machine.execRestoreStart c desc s
  | .checkpointDone failed image => Sys2Proof.Machine.execCheckpointDone failed image s
  | .reservationGrant tw => Sys2Proof.Machine.execReservationGrant tw s
  | .overflowAdmit tw => Sys2Proof.Machine.execOverflowAdmit tw s
  | .taskDispatch tw => Sys2Proof.Machine.execTaskDispatch tw s
  | .classAging tw => Sys2Proof.Machine.execClassAging tw s
  | .passoverLimit tw => Sys2Proof.Machine.execPassoverLimit tw s
  | .inboxGrant tw cell => Sys2Proof.Machine.execInboxGrant tw cell s
  | .messageArrival m => Sys2Proof.Machine.execMessageArrival m s
  | .handlerDiversion c => Sys2Proof.Machine.execHandlerDiversion c s
  | .nohandler tw cell => Sys2Proof.Machine.execNohandler tw cell s
  | .translationWalk tw => Sys2Proof.Machine.execTranslationWalk tw s
  | .permissionEntryArrival tw => Sys2Proof.Machine.execPermissionEntryArrival tw s
  | .homeSliceStore c => Sys2Proof.Machine.execHomeSliceStore c s
  | .storeAck c => Sys2Proof.Machine.execStoreAck c s
  | .filterBankClear slice => Sys2Proof.Machine.execFilterBankClear slice s
  | .refreshWindow => Sys2Proof.Machine.execRefreshWindow s
  | .physicalWrite host pa bytes => Sys2Proof.Machine.execPhysicalWrite host pa bytes s
  | .hostRead pa n => Sys2Proof.Machine.execHostRead pa n s
  | .shootdownComplete => Sys2Proof.Machine.execShootdownComplete s
  | .waitvWake c => Sys2Proof.Machine.execWaitvWake c s
  | .waitvTimeout c => Sys2Proof.Machine.execWaitvTimeout c s
  | .versionDiscardDone h => Sys2Proof.Machine.execVersionDiscardDone h s
  | .tileFillDone tw node tile => Sys2Proof.Machine.execTileFillDone tw node tile s
  | .tileDrainDone tw node tile => Sys2Proof.Machine.execTileDrainDone tw node tile s
  | .streamerCommandStart id => Sys2Proof.Machine.execStreamerCommandStart id s
  | .streamerCommandComplete id => Sys2Proof.Machine.execStreamerCommandComplete id s
  | .viewBuild tw => Sys2Proof.Machine.execViewBuild tw s
  | .viewPublish tw => Sys2Proof.Machine.execViewPublish tw s
  | .fabricConfigure tw slot => Sys2Proof.Machine.execFabricConfigure tw slot s
  | .bubbleIteration c => Sys2Proof.Machine.execBubbleIteration c s
  | .edgeAgeLimit tw slot edge => Sys2Proof.Machine.execEdgeAgeLimit tw slot edge s
  | .loadFinish tw slot => Sys2Proof.Machine.execLoadFinish tw slot s
  | .faultQueueWrite tw => Sys2Proof.Machine.execFaultQueueWrite tw s
  | .afterimageRecordWrite c => Sys2Proof.Machine.execAfterimageRecordWrite c s
  | .preempt c cls => Sys2Proof.Machine.execPreempt c cls s
  | .drainLimit c => Sys2Proof.Machine.execDrainLimit c s
  | .nodeSave c n => Sys2Proof.Machine.execNodeSave c n s
  | .flitRetry link => Sys2Proof.Machine.execFlitRetry link s
  | .laneRetrain link => Sys2Proof.Machine.execLaneRetrain link s
  | .linkLoss link => Sys2Proof.Machine.execLinkLoss link s
  | .coherenceLossTimeout link => Sys2Proof.Machine.execCoherenceLossTimeout link s
  | .linkReconnect link => Sys2Proof.Machine.execLinkReconnect link s
  | .farRequest src pa op => Sys2Proof.Machine.execFarRequest src pa op s
  | .farAccessTimeout c => Sys2Proof.Machine.execFarAccessTimeout c s
  | .routingTableWrite d v => Sys2Proof.Machine.execRoutingTableWrite d v s
  | .submitWrite tw win bytes => Sys2Proof.Machine.execSubmitWrite tw win bytes s
  | .cheadWrite tw win v => Sys2Proof.Machine.execCheadWrite tw win v s
  | .werrWrite tw win => Sys2Proof.Machine.execWerrWrite tw win s
  | .hostCompletion tw win => Sys2Proof.Machine.execHostCompletion tw win s
  | .hotPageWindow tw => Sys2Proof.Machine.execHotPageWindow tw s
  | .forwardExpiry tw => Sys2Proof.Machine.execForwardExpiry tw s
  | .gangPlace gid => Sys2Proof.Machine.execGangPlace gid s
  | .gangReady gid pkg => Sys2Proof.Machine.execGangReady gid pkg s
  | .gangGo gid => Sys2Proof.Machine.execGangGo gid s
  | .gangGraceExpiry gid => Sys2Proof.Machine.execGangGraceExpiry gid s
  | .gangAbort gid => Sys2Proof.Machine.execGangAbort gid s
  | .attest m => Sys2Proof.Machine.execAttest m s
  | .sealImage m => Sys2Proof.Machine.execSealImage m s
  | .checkImage m => Sys2Proof.Machine.execCheckImage m s
  | .setcap m => Sys2Proof.Machine.execSetcap m s
  | .fuseadv m => Sys2Proof.Machine.execFuseadv m s
  | .fwupdate m => Sys2Proof.Machine.execFwupdate m s
  | .fwupdateInstall => Sys2Proof.Machine.execFwupdateInstall s
  | .extend m => Sys2Proof.Machine.execExtend m s
  | .telemetry m => Sys2Proof.Machine.execTelemetry m s
  | .capOverrun => Sys2Proof.Machine.execCapOverrun s
  | .thermalThrottle => Sys2Proof.Machine.execThermalThrottle s
  | .throttleStep => Sys2Proof.Machine.execThrottleStep s
  | .throttleRecovery => Sys2Proof.Machine.execThrottleRecovery s
  | .thermalShutdown => Sys2Proof.Machine.execThermalShutdown s
  | .packageReset stages => Sys2Proof.Machine.execPackageReset stages s
  | .eccUncorrectable pa => Sys2Proof.Machine.execEccUncorrectable pa s
  | .patrolScrub pa bad => Sys2Proof.Machine.execPatrolScrub pa bad s
  | .clusterRetire tw cluster => Sys2Proof.Machine.execClusterRetire tw cluster s
  | .l2SliceRetire slice => Sys2Proof.Machine.execL2SliceRetire slice s
  | .hbmRowSpare row => Sys2Proof.Machine.execHbmRowSpare row s
  | .cxlPortDegrade port lanes => Sys2Proof.Machine.execCxlPortDegrade port lanes s
  | .matrixCommandPerformed tw node => Sys2Proof.Machine.execMatrixCommandPerformed tw node s
  | .commandStall eng => Sys2Proof.Machine.execCommandStall eng s
  | .idleTimeout c => Sys2Proof.Machine.execIdleTimeout c s
  | .unreachableHomeTimeout c => Sys2Proof.Machine.execUnreachableHomeTimeout c s
  | .nodeRestore c n => Sys2Proof.Machine.execNodeRestore c n s
  | .submissionWindowWrite tw win off v => Sys2Proof.Machine.execSubmissionWindowWrite tw win off v s

end Sys2Proof.Machine
end

