-- ==== Sys2Proof/Machine/Step.lean ====
section
/-! DEFINITION. Sys2Proof/Machine/Step.lean: one step of the machine: the next move of its agenda, or the first move of the part's own that has an effect (log 3); and a state whose very next step runs a given instruction (log 28). -/

namespace Sys2Proof.Machine

/-- The instruction a focus names. -/
def State.instrOf (s : State) (f : Focus) : Option Instr :=
  ((s.ctx? f.ctx).bind fun c => c.window[f.win]?).bind fun x => x.instrAt f.iid

/-- One move: an instruction fires, or an event happens. -/
def State.move (s : State) (m : Move) : Host.Outcome State Fault Refusal :=
  match m with
  | .fire f =>
    match s.instrOf f with
    | some i => exec i { s with focus := f }
    | none => .refused .illegalWord
  | .event x => exec x s

/-- Whether a move may happen while every clock is stopped (23 R421). -/
def Move.isReset : Move → Bool
  | .event (.packageReset _) => true
  | _ => false

/-- Whether a package held in reset answers a move (23 R422). -/
def Move.heard (m : Move) : Bool :=
  match m with
  | .fire _ => false
  | .event x => answersInReset x

/-! ### The part's own moves -/

/-- A row of the opcode table tried by the part of its own accord: the meaning of that row. -/
abbrev Try := State → Host.Outcome State Fault Refusal

/-- The instructions of a context in flight. -/
def Ctx.fires (c : Ctx) (spec : Bool) : List Try :=
  c.window.zipIdx.flatMap fun x => (List.range x.1.words.length).filterMap fun k =>
    let iid := BitVec.ofNat 7 k
    if x.1.mark.isSome || x.1.fired.contains iid || (x.1.instrAt iid).isNone then none
    else some fun s => s.move (.fire ⟨c.id, x.2, iid, spec⟩)

/-- The events of a context beside its commits. -/
def Ctx.events (c : Ctx) : List Try :=
  [execTaskStop, execUpcall, execStall, execHandlerDiversion, execClauseFetch, execBubbleIteration, execHomeSliceStore,
    execStoreAck, execAfterimageRecordWrite, execWaitvWake, execWaitvTimeout, execIdleTimeout, execDrainLimit, execFarAccessTimeout,
    execUnreachableHomeTimeout].map (fun f => f c.id) ++ (List.range 8).map fun k => execPreempt c.id k

/-- The events of a tower. -/
def State.towerEvents (s : State) (tw : Nat) : List Try :=
  let t := s.tower tw
  [execTaskDispatch, execReservationGrant, execOverflowAdmit, execClassAging, execPassoverLimit, execPermissionEntryArrival, execTranslationWalk,
    execViewBuild, execViewPublish, execFaultQueueWrite, execHotPageWindow, execForwardExpiry].map (fun f => f tw)
    ++ (t.filterAt.zipIdx.filter fun x => decide (x.1 + 16000 ≤ s.time)).map (fun x => execFilterBankClear (64 * tw + x.2))
    ++ t.inboxes.map (fun b => execInboxGrant tw b.cell) ++ t.inboxes.map (fun b => execNohandler tw b.cell)
    ++ (List.range t.windows.length).map fun w => execHostCompletion tw w

/-- The events of an M-node. -/
def MNode.events (m : MNode) : List Try :=
  [execMatrixCommandPerformed, execNodeSave, execNodeRestore].map (fun f => f m.tower m.n) ++ [execCommandStall (.node m.tower m.n)]
    ++ ((List.range 32).filter fun t => decide (tState (m.tile t) = 1)).map (fun t => execTileFillDone m.tower m.n t)
    ++ ((List.range 32).filter fun t => decide (tState (m.tile t) = 3)).map fun t => execTileDrainDone m.tower m.n t

/-- The events of a fabric load. -/
def Load.events (l : Load) : List Try :=
  [execFabricConfigure l.tower l.slot, execLoadFinish l.tower l.slot] ++ l.streams.flatMap (fun f => [execStreamerCommandStart f.id, execCommandStall (.streamer f.id)])
    ++ (List.range l.edges.length).map fun e => execEdgeAgeLimit l.tower l.slot e

/-- The events of the engines and of the fabric loads. -/
def State.engineEvents (s : State) : List Try :=
  s.mnodes.flatMap MNode.events
    ++ (s.scmds.flatMap fun q : SCmd => [execStreamerCommandStart q.id, execStreamerCommandComplete q.id, execCommandStall (.streamer q.id)])
    ++ s.loads.flatMap Load.events

/-- The events of the package. -/
def State.packageEvents (s : State) : List Try :=
  s.flight.map (fun f => execMessageArrival f.2) ++ [execShootdownComplete] ++ s.hyps.map (fun h => execVersionDiscardDone h.n.toNat)
    ++ s.gangs.map (fun g => execGangPlace g.gid)
    ++ (s.gangs.filter fun g => decide (g.lead = s.self)).map (fun g => execGangGraceExpiry g.gid)
    ++ (s.gangs.filter fun g => decide (g.sent = some true)).map (fun g => execGangGo g.gid)
    ++ (s.gangs.filter fun g => decide (g.sent = some false)).map (fun g => execGangAbort g.gid)
    ++ ((List.range 2).flatMap fun m =>
      [execAttest, execSealImage, execCheckImage, execSetcap, execFuseadv, execFwupdate, execExtend, execTelemetry].map fun f => f m)
    ++ [execFwupdateInstall] ++ s.sliceWait.map execL2SliceRetire ++ match s.ckptRun with
      | some k => if k.restore then [] else [execCheckpointDone false []]
      | none => []

/-- The rows the part tries of its own accord, in groups: what is ready in a context fires before its oldest clause commits (01 R19). -/
def State.moveGroups (s : State) : List (List Try) :=
  s.ctxs.map (fun c => c.fires false ++ [execClauseCommit c.id])
    ++ ((s.ctxs.flatMap Ctx.events ++ [execAfterimageRecordWrite s.nextCtx] ++ (List.range Config.towers).flatMap s.towerEvents
      ++ s.engineEvents ++ s.packageEvents).map fun f => [f])

/-- The rows the part tries of its own accord, in order: the group tried first moves on with every move made, so that none waits for ever behind another; what stands behind a prediction fires last (log 3). -/
def State.ownMoves (s : State) : List Try :=
  let gs := s.moveGroups
  let k := s.moves % gs.length
  (gs.drop k ++ gs.take k).flatten ++ s.ctxs.flatMap fun c => c.fires true

/-- The state a row leads to, if it has an effect. -/
def State.effectOf (s : State) (f : Try) : Option State :=
  match f s with
  | .next t => if s.moves < t.moves then some t else none
  | .fault _ => none
  | .refused _ => none

/-- The agenda after 1 ns more. -/
def nearer : List Due → List Due
  | [] => []
  | d :: ds => { d with after := d.after - 1 } :: ds

/-- 1 ns passes, and the agenda's first move comes nearer; what a head message waits for is looked at, and the clocks of engine commands that only wait stand still (07 R172; 18 R380). -/
def State.pass (s : State) : State :=
  { s.markHeads.holdClocks with
    time := s.time + 1
    agenda := nearer s.agenda }

/-- One step: the agenda's first move when it is due, else 1 ns passes and the first of the part's own moves that has an effect is made (log 3). A package that stays in reset does nothing of its own, its RDTIME stands, and of the agenda it hears only what it answers (23 R422). -/
def step (s : State) : Host.Outcome State Fault Refusal :=
  match s.agenda with
  | ⟨0, m⟩ :: ds =>
    if s.stopped && !m.isReset then .fault .clocksStopped
    else if s.inReset && !m.heard then .next { s with agenda := ds }
    else State.move { s with agenda := ds } m
  | _ =>
    if s.stopped then .fault .clocksStopped
    else if s.inReset then .next { s with agenda := nearer s.agenda }
    else
      let t := s.pass
      match t.ownMoves.findSome? t.effectOf with
      | some u => .next u
      | none => .next t

/-! ### Placing an instruction -/

/-- Tokens for every slot an instruction reads, its predicate met (log 28). -/
def placedToks (i : Instr) : List (BitVec 7 × Slot × Token) :=
  i.reads.map (fun r => (0, r.1, match r.2 with
    | .wide => Token.wide 0
    | _ => Token.scalar 0))
    ++ (match i.pred with
      | .always => []
      | .onTrue => [(0, .p, Token.scalar 1)]
      | .onFalse => [(0, .p, Token.scalar 0)])

/-- A clause of 32 instructions whose first is the given word, the rest no-operations, with that word's tokens (log 28). -/
def placedInst (uid : Nat) (w : BitVec 32) : Inst :=
  let toks := match decodeWord w.toNat with
    | .ok i => placedToks i
    | .error _ => []
  let call := match decodeWord w.toNat with
    | .ok (.call _) => true
    | .ok (.callo _ _ _) => true
    | _ => false
  let h : Header := ⟨if call then 0x7FFFFFFFFFFFFFFF else 0xFFFFFFFFFFFFFFFF, 0xFFFF, 0xFFFFFFFF, 1, 0, 0, 0, false⟩
  { Inst.place uid 0 h (w :: List.replicate 31 0x14000000#32) none 0 (some 0) 0 [] with toks := toks }

/-- A state whose very next step fires the given instruction word: a task on the supervisor cell of tower 0 holds it in its oldest clause, its operands have come, and the agenda's first move fires it (log 28). -/
def State.withFetchWord (s : State) (_nbits w : Nat) : State :=
  let word := BitVec.ofNat 32 w
  let c := Ctx.blank s.nextCtx .task 0 (s.tower 0).svCell 1 0 0 s.time
  { s with
    ctxs := { c with window := [placedInst s.nextCmd word] } :: s.ctxs
    nextCtx := s.nextCtx + 1
    nextCmd := s.nextCmd + 1
    agenda := ⟨0, .fire ⟨s.nextCtx, 0, 0, false⟩⟩ :: s.agenda }

end Sys2Proof.Machine
end

