-- ==== Sys2Proof/Laws/Encoding.lean ====
section
/-! SUPPORT. Sys2Proof/Laws/Encoding.lean: the code of every operand form fits its field and reads back as that form (02 R35 to R45). -/

namespace Sys2Proof

-- One proof at a time: proofs checked side by side take each a stack of memory.
set_option Elab.async false

theorem Pred.code_lt (q : Pred) : q.code < 4 := by cases q <;> decide
theorem predOf_code (q : Pred) : predOf q.code = .ok q := by cases q <;> rfl
theorem Slot.code_lt (q : Slot) : q.code < 4 := by cases q <;> decide
theorem slotOf_code (q : Slot) : slotOf q.code = q := by cases q <;> rfl
theorem FTy.code_lt (y : FTy) : y.code < 4 := by cases y <;> decide
theorem ftyOf_code (y : FTy) : ftyOf y.code = y := by cases y <;> rfl
theorem FTy.code_inj (y z : FTy) : y.code = z.code ↔ y = z := by cases y <;> cases z <;> decide
theorem VTy.code_lt (y : VTy) : y.code < 4 := by cases y <;> decide
theorem vtyOf_code (y : VTy) : vtyOf y.code = .ok y := by cases y <;> rfl
theorem VAmoTy.code_lt (y : VAmoTy) : y.code < 4 := by cases y <;> decide
theorem vamoTyOf_code (y : VAmoTy) : vamoTyOf y.code = y := by cases y <;> rfl
theorem Shape.code_lt (y : Shape) : y.code < 4 := by cases y <;> decide
theorem shapeOf_code (y : Shape) : shapeOf y.code = y := by cases y <;> rfl
theorem Scope.code_lt (y : Scope) : y.code < 4 := by cases y <;> decide
theorem scopeOf_code (y : Scope) : scopeOf y.code = y := by cases y <;> rfl
theorem AmoSize.code_lt (y : AmoSize) : y.code < 4 := by cases y <;> decide
theorem amoSizeOf_code (y : AmoSize) : amoSizeOf y.code = .ok y := by cases y <;> rfl
theorem MemSize.code_lt (y : MemSize) : y.code < 4 := by cases y <;> decide
theorem memSizeOf_code (y : MemSize) : memSizeOf y.code = y := by cases y <;> rfl
theorem MemSize.code_eq_three (y : MemSize) : y.code = 3 ↔ y = .d := by cases y <;> decide
theorem VCond.code_lt (y : VCond) : y.code < 4 := by cases y <;> decide
theorem vcondOf_code (y : VCond) : vcondOf y.code = y := by cases y <;> rfl
theorem VFCond.code_lt (y : VFCond) : y.code < 4 := by cases y <;> decide
theorem vfcondOf_code (y : VFCond) : vfcondOf y.code = y := by cases y <;> rfl
theorem PrefLevel.code_lt (y : PrefLevel) : y.code < 4 := by cases y <;> decide
theorem prefLevelOf_code (y : PrefLevel) : prefLevelOf y.code = .ok y := by cases y <;> rfl
theorem ClineOp.code_lt (y : ClineOp) : y.code < 4 := by cases y <;> decide
theorem clineOpOf_code (y : ClineOp) : clineOpOf y.code = .ok y := by cases y <;> rfl
theorem bool_toNat_lt (b : Bool) : b.toNat < 2 := by cases b <;> decide
theorem boolOf_toNat (b : Bool) : boolOf b.toNat = b := by cases b <;> rfl
theorem wideRegOf_toNat (r : BitVec 4) : wideRegOf r.toNat = .ok r := by
  have := r.isLt
  simp [wideRegOf, this]

theorem Tgt.code_lt (t : Tgt) : t.code < 512 := by
  rcases t with _ | ⟨q, i⟩
  · decide
  · have := q.code_lt; have := i.isLt; simp only [Tgt.code]; omega

/-- A well-formed target reads back. -/
theorem tgtOf_code (t : Tgt) (h : t.wf = true) : tgtOf t.code = t := by
  rcases t with _ | ⟨q, i⟩
  · rfl
  · have h1 := q.code_lt
    have h2 := i.isLt
    have hne : q.code * 128 + i.toNat ≠ 511 := by
      intro he
      have h3 : i.toNat = 127 := by omega
      have h4 : q.code = 3 := by omega
      have h5 : q = .p := by cases q <;> first | rfl | (simp [Slot.code] at h4)
      have h6 : i = 127 := BitVec.eq_of_toNat_eq (by simpa using h3)
      simp [Tgt.wf, h5, h6] at h
    have f1 : fld (q.code * 128 + i.toNat) 7 2 = q.code := by simp only [fld]; omega
    have f2 : fld (q.code * 128 + i.toNat) 0 7 = i.toNat := by simp only [fld]; omega
    simp [Tgt.code, tgtOf, hne, f1, f2, slotOf_code]

theorem Dst.code_lt (d : Dst) : d.code < 524288 := by
  rcases d with ⟨a, b⟩ | ⟨q, r, m⟩
  · have := a.code_lt; have := b.code_lt; simp only [Dst.code]; omega
  · have := q.code_lt; have := r.isLt; have := m.isLt; simp only [Dst.code]; omega

/-- A well-formed destination field reads back. -/
theorem dstOf_code (d : Dst) (h : d.wf = true) : dstOf d.code = .ok d := by
  rcases d with ⟨a, b⟩ | ⟨q, r, m⟩
  · have h1 := a.code_lt
    have h2 := b.code_lt
    have hw : a.wf = true ∧ b.wf = true := by simpa [Dst.wf] using h
    have f0 : fld (a.code * 512 + b.code) 18 1 = 0 := by simp only [fld]; omega
    have f1 : fld (a.code * 512 + b.code) 9 9 = a.code := by simp only [fld]; omega
    have f2 : fld (a.code * 512 + b.code) 0 9 = b.code := by simp only [fld]; omega
    simp [Dst.code, dstOf, f0, f1, f2, tgtOf_code, hw]
  · have h1 := q.code_lt
    have h2 := r.isLt
    have h3 := m.isLt
    have hw : ∃ w, w = 262144 + q.code * 65536 + r.toNat * 4096 + m.toNat * 16 := ⟨_, rfl⟩
    obtain ⟨w, hw⟩ := hw
    have f0 : fld w 18 1 = 1 := by simp only [fld]; omega
    have f1 : fld w 0 4 = 0 := by simp only [fld]; omega
    have f2 : fld w 16 2 = q.code := by simp only [fld]; omega
    have f3 : fld w 12 4 = r.toNat := by simp only [fld]; omega
    have f4 : fld w 4 8 = m.toNat := by simp only [fld]; omega
    simp only [Dst.code, ← hw]
    simp [dstOf, f0, f1, f2, f3, f4, slotOf_code]

end Sys2Proof
end

