-- ==== Sys2Proof/Laws/PerInstr.lean ====
section
/-! SUPPORT. Sys2Proof/Laws/PerInstr.lean: for every instruction, its word reads back as that instruction (02 R33 to R46). -/

namespace Sys2Proof.Laws

-- One proof at a time: proofs checked side by side take each a stack of memory.
set_option Elab.async false

/-- A well-formed instruction's word has 32 bits and decodes to it. -/
def RoundTrip.Statement (i : Instr) : Prop :=
  i.wf = true → ∀ w, encodeWord i = some w → w < 4294967296 ∧ decodeWord w = .ok i

theorem RoundTrip.gread (x0 : BitVec 6) (x1 : Dst) : RoundTrip.Statement (.gread x0 x1) := by
  intro h w hw
  have hW := Option.some.inj hw
  have b0 := x0.isLt
  have b1 := x1.code_lt
  have g1 : x1.wf = true := h
  have f25_7 : fld w 25 7 = 1 := by simp only [fld]; omega
  have f0_19 : fld w 0 19 = x1.code := by simp only [fld]; omega
  have f19_6 : fld w 19 6 = x0.toNat := by simp only [fld]; omega
  refine ⟨by omega, ?_⟩
  unfold decodeWord
  rw [f25_7]
  simp [decOp01, Except.bind, f0_19, f19_6, dstOf_code x1 g1]

theorem RoundTrip.wread (x0 : BitVec 4) (x1 : Dst) : RoundTrip.Statement (.wread x0 x1) := by
  intro h w hw
  have hW := Option.some.inj hw
  have b0 := x0.isLt
  have b1 := x1.code_lt
  have g1 : x1.wf = true := h
  have f25_7 : fld w 25 7 = 2 := by simp only [fld]; omega
  have f0_19 : fld w 0 19 = x1.code := by simp only [fld]; omega
  have f19_6 : fld w 19 6 = x0.toNat := by simp only [fld]; omega
  refine ⟨by omega, ?_⟩
  unfold decodeWord
  rw [f25_7]
  simp [decOp02, Except.bind, f0_19, f19_6, wideRegOf_toNat, dstOf_code x1 g1]

theorem RoundTrip.gwrite (x0 : Pred) (x1 : BitVec 6) : RoundTrip.Statement (.gwrite x0 x1) := by
  intro _ w hw
  have hW := Option.some.inj hw
  have b0 := x0.code_lt
  have b1 := x1.isLt
  have f25_7 : fld w 25 7 = 3 := by simp only [fld]; omega
  have f0_17 : fld w 0 17 = 0 := by simp only [fld]; omega
  have f17_6 : fld w 17 6 = x1.toNat := by simp only [fld]; omega
  have f23_2 : fld w 23 2 = x0.code := by simp only [fld]; omega
  refine ⟨by omega, ?_⟩
  unfold decodeWord
  rw [f25_7]
  simp [decOp03, Except.bind, f0_17, f17_6, f23_2, predOf_code]

theorem RoundTrip.wwrite (x0 : Pred) (x1 : BitVec 4) : RoundTrip.Statement (.wwrite x0 x1) := by
  intro _ w hw
  have hW := Option.some.inj hw
  have b0 := x0.code_lt
  have b1 := x1.isLt
  have f25_7 : fld w 25 7 = 4 := by simp only [fld]; omega
  have f0_17 : fld w 0 17 = 0 := by simp only [fld]; omega
  have f17_6 : fld w 17 6 = x1.toNat := by simp only [fld]; omega
  have f23_2 : fld w 23 2 = x0.code := by simp only [fld]; omega
  refine ⟨by omega, ?_⟩
  unfold decodeWord
  rw [f25_7]
  simp [decOp04, Except.bind, f0_17, f17_6, f23_2, predOf_code, wideRegOf_toNat]

theorem RoundTrip.gens (x0 : BitVec 16) (x1 : Tgt) : RoundTrip.Statement (.gens x0 x1) := by
  intro h w hw
  have hW := Option.some.inj hw
  have b0 := x0.isLt
  have b1 := x1.code_lt
  have g1 : x1.wf = true := h
  have f25_7 : fld w 25 7 = 5 := by simp only [fld]; omega
  have f0_9 : fld w 0 9 = x1.code := by simp only [fld]; omega
  have f9_16 : fld w 9 16 = x0.toNat := by simp only [fld]; omega
  refine ⟨by omega, ?_⟩
  unfold decodeWord
  rw [f25_7]
  simp [decOp05, f0_9, f9_16, tgtOf_code x1 g1]

theorem RoundTrip.genu (x0 : BitVec 16) (x1 : Tgt) : RoundTrip.Statement (.genu x0 x1) := by
  intro h w hw
  have hW := Option.some.inj hw
  have b0 := x0.isLt
  have b1 := x1.code_lt
  have g1 : x1.wf = true := h
  have f25_7 : fld w 25 7 = 6 := by simp only [fld]; omega
  have f0_9 : fld w 0 9 = x1.code := by simp only [fld]; omega
  have f9_16 : fld w 9 16 = x0.toNat := by simp only [fld]; omega
  refine ⟨by omega, ?_⟩
  unfold decodeWord
  rw [f25_7]
  simp [decOp06, f0_9, f9_16, tgtOf_code x1 g1]

theorem RoundTrip.appc (x0 : BitVec 16) (x1 : Tgt) : RoundTrip.Statement (.appc x0 x1) := by
  intro h w hw
  have hW := Option.some.inj hw
  have b0 := x0.isLt
  have b1 := x1.code_lt
  have g1 : x1.wf = true := h
  have f25_7 : fld w 25 7 = 7 := by simp only [fld]; omega
  have f0_9 : fld w 0 9 = x1.code := by simp only [fld]; omega
  have f9_16 : fld w 9 16 = x0.toNat := by simp only [fld]; omega
  refine ⟨by omega, ?_⟩
  unfold decodeWord
  rw [f25_7]
  simp [decOp07, f0_9, f9_16, tgtOf_code x1 g1]

theorem RoundTrip.mov (x0 : Pred) (x1 : Dst) : RoundTrip.Statement (.mov x0 x1) := by
  intro h w hw
  have hW := Option.some.inj hw
  have b0 := x0.code_lt
  have b1 := x1.code_lt
  have g1 : x1.wf = true := h
  have f25_7 : fld w 25 7 = 8 := by simp only [fld]; omega
  have f0_19 : fld w 0 19 = x1.code := by simp only [fld]; omega
  have f19_4 : fld w 19 4 = 0 := by simp only [fld]; omega
  have f23_2 : fld w 23 2 = x0.code := by simp only [fld]; omega
  refine ⟨by omega, ?_⟩
  unfold decodeWord
  rw [f25_7]
  simp [decOp08, Except.bind, f0_19, f19_4, f23_2, predOf_code, dstOf_code x1 g1]

theorem RoundTrip.movi (x0 : Pred) (x1 : BitVec 10) (x2 : Tgt) : RoundTrip.Statement (.movi x0 x1 x2) := by
  intro h w hw
  have hW := Option.some.inj hw
  have b0 := x0.code_lt
  have b1 := x1.isLt
  have b2 := x2.code_lt
  have g2 : x2.wf = true := h
  have f25_7 : fld w 25 7 = 9 := by simp only [fld]; omega
  have f0_9 : fld w 0 9 = x2.code := by simp only [fld]; omega
  have f9_10 : fld w 9 10 = x1.toNat := by simp only [fld]; omega
  have f19_4 : fld w 19 4 = 0 := by simp only [fld]; omega
  have f23_2 : fld w 23 2 = x0.code := by simp only [fld]; omega
  refine ⟨by omega, ?_⟩
  unfold decodeWord
  rw [f25_7]
  simp [decOp09, Except.bind, f0_9, f9_10, f19_4, f23_2, predOf_code, tgtOf_code x2 g2]

theorem RoundTrip.nop (x0 : Pred) : RoundTrip.Statement (.nop x0) := by
  intro _ w hw
  have hW := Option.some.inj hw
  have b0 := x0.code_lt
  have f25_7 : fld w 25 7 = 10 := by simp only [fld]; omega
  have f0_19 : fld w 0 19 = 0 := by simp only [fld]; omega
  have f19_4 : fld w 19 4 = 0 := by simp only [fld]; omega
  have f23_2 : fld w 23 2 = x0.code := by simp only [fld]; omega
  refine ⟨by omega, ?_⟩
  unfold decodeWord
  rw [f25_7]
  simp [decOp0a, Except.bind, f0_19, f19_4, f23_2, predOf_code]

theorem RoundTrip.null (x0 : Pred) (x1 : Dst) : RoundTrip.Statement (.null x0 x1) := by
  intro h w hw
  have hW := Option.some.inj hw
  have b0 := x0.code_lt
  have b1 := x1.code_lt
  have g1 : x1.wf = true := h
  have f25_7 : fld w 25 7 = 11 := by simp only [fld]; omega
  have f0_19 : fld w 0 19 = x1.code := by simp only [fld]; omega
  have f19_4 : fld w 19 4 = 0 := by simp only [fld]; omega
  have f23_2 : fld w 23 2 = x0.code := by simp only [fld]; omega
  refine ⟨by omega, ?_⟩
  unfold decodeWord
  rw [f25_7]
  simp [decOp0b, Except.bind, f0_19, f19_4, f23_2, predOf_code, dstOf_code x1 g1]

theorem RoundTrip.add (x0 : Pred) (x1 : Dst) : RoundTrip.Statement (.add x0 x1) := by
  intro h w hw
  have hW := Option.some.inj hw
  have b0 := x0.code_lt
  have b1 := x1.code_lt
  have g1 : x1.wf = true := h
  have f25_7 : fld w 25 7 = 16 := by simp only [fld]; omega
  have f0_19 : fld w 0 19 = x1.code := by simp only [fld]; omega
  have f19_4 : fld w 19 4 = 0 := by simp only [fld]; omega
  have f23_2 : fld w 23 2 = x0.code := by simp only [fld]; omega
  refine ⟨by omega, ?_⟩
  unfold decodeWord
  rw [f25_7]
  simp [decOp10, Except.bind, f0_19, f19_4, f23_2, predOf_code, dstOf_code x1 g1]

theorem RoundTrip.sub (x0 : Pred) (x1 : Dst) : RoundTrip.Statement (.sub x0 x1) := by
  intro h w hw
  have hW := Option.some.inj hw
  have b0 := x0.code_lt
  have b1 := x1.code_lt
  have g1 : x1.wf = true := h
  have f25_7 : fld w 25 7 = 16 := by simp only [fld]; omega
  have f0_19 : fld w 0 19 = x1.code := by simp only [fld]; omega
  have f19_4 : fld w 19 4 = 1 := by simp only [fld]; omega
  have f23_2 : fld w 23 2 = x0.code := by simp only [fld]; omega
  refine ⟨by omega, ?_⟩
  unfold decodeWord
  rw [f25_7]
  simp [decOp10, Except.bind, f0_19, f19_4, f23_2, predOf_code, dstOf_code x1 g1]

theorem RoundTrip.and (x0 : Pred) (x1 : Dst) : RoundTrip.Statement (.and x0 x1) := by
  intro h w hw
  have hW := Option.some.inj hw
  have b0 := x0.code_lt
  have b1 := x1.code_lt
  have g1 : x1.wf = true := h
  have f25_7 : fld w 25 7 = 16 := by simp only [fld]; omega
  have f0_19 : fld w 0 19 = x1.code := by simp only [fld]; omega
  have f19_4 : fld w 19 4 = 2 := by simp only [fld]; omega
  have f23_2 : fld w 23 2 = x0.code := by simp only [fld]; omega
  refine ⟨by omega, ?_⟩
  unfold decodeWord
  rw [f25_7]
  simp [decOp10, Except.bind, f0_19, f19_4, f23_2, predOf_code, dstOf_code x1 g1]

theorem RoundTrip.or (x0 : Pred) (x1 : Dst) : RoundTrip.Statement (.or x0 x1) := by
  intro h w hw
  have hW := Option.some.inj hw
  have b0 := x0.code_lt
  have b1 := x1.code_lt
  have g1 : x1.wf = true := h
  have f25_7 : fld w 25 7 = 16 := by simp only [fld]; omega
  have f0_19 : fld w 0 19 = x1.code := by simp only [fld]; omega
  have f19_4 : fld w 19 4 = 3 := by simp only [fld]; omega
  have f23_2 : fld w 23 2 = x0.code := by simp only [fld]; omega
  refine ⟨by omega, ?_⟩
  unfold decodeWord
  rw [f25_7]
  simp [decOp10, Except.bind, f0_19, f19_4, f23_2, predOf_code, dstOf_code x1 g1]

theorem RoundTrip.xor (x0 : Pred) (x1 : Dst) : RoundTrip.Statement (.xor x0 x1) := by
  intro h w hw
  have hW := Option.some.inj hw
  have b0 := x0.code_lt
  have b1 := x1.code_lt
  have g1 : x1.wf = true := h
  have f25_7 : fld w 25 7 = 16 := by simp only [fld]; omega
  have f0_19 : fld w 0 19 = x1.code := by simp only [fld]; omega
  have f19_4 : fld w 19 4 = 4 := by simp only [fld]; omega
  have f23_2 : fld w 23 2 = x0.code := by simp only [fld]; omega
  refine ⟨by omega, ?_⟩
  unfold decodeWord
  rw [f25_7]
  simp [decOp10, Except.bind, f0_19, f19_4, f23_2, predOf_code, dstOf_code x1 g1]

theorem RoundTrip.shl (x0 : Pred) (x1 : Dst) : RoundTrip.Statement (.shl x0 x1) := by
  intro h w hw
  have hW := Option.some.inj hw
  have b0 := x0.code_lt
  have b1 := x1.code_lt
  have g1 : x1.wf = true := h
  have f25_7 : fld w 25 7 = 16 := by simp only [fld]; omega
  have f0_19 : fld w 0 19 = x1.code := by simp only [fld]; omega
  have f19_4 : fld w 19 4 = 5 := by simp only [fld]; omega
  have f23_2 : fld w 23 2 = x0.code := by simp only [fld]; omega
  refine ⟨by omega, ?_⟩
  unfold decodeWord
  rw [f25_7]
  simp [decOp10, Except.bind, f0_19, f19_4, f23_2, predOf_code, dstOf_code x1 g1]

theorem RoundTrip.shr (x0 : Pred) (x1 : Dst) : RoundTrip.Statement (.shr x0 x1) := by
  intro h w hw
  have hW := Option.some.inj hw
  have b0 := x0.code_lt
  have b1 := x1.code_lt
  have g1 : x1.wf = true := h
  have f25_7 : fld w 25 7 = 16 := by simp only [fld]; omega
  have f0_19 : fld w 0 19 = x1.code := by simp only [fld]; omega
  have f19_4 : fld w 19 4 = 6 := by simp only [fld]; omega
  have f23_2 : fld w 23 2 = x0.code := by simp only [fld]; omega
  refine ⟨by omega, ?_⟩
  unfold decodeWord
  rw [f25_7]
  simp [decOp10, Except.bind, f0_19, f19_4, f23_2, predOf_code, dstOf_code x1 g1]

theorem RoundTrip.sra (x0 : Pred) (x1 : Dst) : RoundTrip.Statement (.sra x0 x1) := by
  intro h w hw
  have hW := Option.some.inj hw
  have b0 := x0.code_lt
  have b1 := x1.code_lt
  have g1 : x1.wf = true := h
  have f25_7 : fld w 25 7 = 16 := by simp only [fld]; omega
  have f0_19 : fld w 0 19 = x1.code := by simp only [fld]; omega
  have f19_4 : fld w 19 4 = 7 := by simp only [fld]; omega
  have f23_2 : fld w 23 2 = x0.code := by simp only [fld]; omega
  refine ⟨by omega, ?_⟩
  unfold decodeWord
  rw [f25_7]
  simp [decOp10, Except.bind, f0_19, f19_4, f23_2, predOf_code, dstOf_code x1 g1]

theorem RoundTrip.min (x0 : Pred) (x1 : Dst) : RoundTrip.Statement (.min x0 x1) := by
  intro h w hw
  have hW := Option.some.inj hw
  have b0 := x0.code_lt
  have b1 := x1.code_lt
  have g1 : x1.wf = true := h
  have f25_7 : fld w 25 7 = 16 := by simp only [fld]; omega
  have f0_19 : fld w 0 19 = x1.code := by simp only [fld]; omega
  have f19_4 : fld w 19 4 = 8 := by simp only [fld]; omega
  have f23_2 : fld w 23 2 = x0.code := by simp only [fld]; omega
  refine ⟨by omega, ?_⟩
  unfold decodeWord
  rw [f25_7]
  simp [decOp10, Except.bind, f0_19, f19_4, f23_2, predOf_code, dstOf_code x1 g1]

theorem RoundTrip.max (x0 : Pred) (x1 : Dst) : RoundTrip.Statement (.max x0 x1) := by
  intro h w hw
  have hW := Option.some.inj hw
  have b0 := x0.code_lt
  have b1 := x1.code_lt
  have g1 : x1.wf = true := h
  have f25_7 : fld w 25 7 = 16 := by simp only [fld]; omega
  have f0_19 : fld w 0 19 = x1.code := by simp only [fld]; omega
  have f19_4 : fld w 19 4 = 9 := by simp only [fld]; omega
  have f23_2 : fld w 23 2 = x0.code := by simp only [fld]; omega
  refine ⟨by omega, ?_⟩
  unfold decodeWord
  rw [f25_7]
  simp [decOp10, Except.bind, f0_19, f19_4, f23_2, predOf_code, dstOf_code x1 g1]

theorem RoundTrip.minu (x0 : Pred) (x1 : Dst) : RoundTrip.Statement (.minu x0 x1) := by
  intro h w hw
  have hW := Option.some.inj hw
  have b0 := x0.code_lt
  have b1 := x1.code_lt
  have g1 : x1.wf = true := h
  have f25_7 : fld w 25 7 = 16 := by simp only [fld]; omega
  have f0_19 : fld w 0 19 = x1.code := by simp only [fld]; omega
  have f19_4 : fld w 19 4 = 10 := by simp only [fld]; omega
  have f23_2 : fld w 23 2 = x0.code := by simp only [fld]; omega
  refine ⟨by omega, ?_⟩
  unfold decodeWord
  rw [f25_7]
  simp [decOp10, Except.bind, f0_19, f19_4, f23_2, predOf_code, dstOf_code x1 g1]

theorem RoundTrip.maxu (x0 : Pred) (x1 : Dst) : RoundTrip.Statement (.maxu x0 x1) := by
  intro h w hw
  have hW := Option.some.inj hw
  have b0 := x0.code_lt
  have b1 := x1.code_lt
  have g1 : x1.wf = true := h
  have f25_7 : fld w 25 7 = 16 := by simp only [fld]; omega
  have f0_19 : fld w 0 19 = x1.code := by simp only [fld]; omega
  have f19_4 : fld w 19 4 = 11 := by simp only [fld]; omega
  have f23_2 : fld w 23 2 = x0.code := by simp only [fld]; omega
  refine ⟨by omega, ?_⟩
  unfold decodeWord
  rw [f25_7]
  simp [decOp10, Except.bind, f0_19, f19_4, f23_2, predOf_code, dstOf_code x1 g1]

theorem RoundTrip.addi (x0 : Pred) (x1 : BitVec 10) (x2 : Tgt) : RoundTrip.Statement (.addi x0 x1 x2) := by
  intro h w hw
  have hW := Option.some.inj hw
  have b0 := x0.code_lt
  have b1 := x1.isLt
  have b2 := x2.code_lt
  have g2 : x2.wf = true := h
  have f25_7 : fld w 25 7 = 17 := by simp only [fld]; omega
  have f0_9 : fld w 0 9 = x2.code := by simp only [fld]; omega
  have f9_10 : fld w 9 10 = x1.toNat := by simp only [fld]; omega
  have f19_4 : fld w 19 4 = 0 := by simp only [fld]; omega
  have f23_2 : fld w 23 2 = x0.code := by simp only [fld]; omega
  refine ⟨by omega, ?_⟩
  unfold decodeWord
  rw [f25_7]
  simp [decOp11, Except.bind, f0_9, f9_10, f19_4, f23_2, predOf_code, tgtOf_code x2 g2]

theorem RoundTrip.subi (x0 : Pred) (x1 : BitVec 10) (x2 : Tgt) : RoundTrip.Statement (.subi x0 x1 x2) := by
  intro h w hw
  have hW := Option.some.inj hw
  have b0 := x0.code_lt
  have b1 := x1.isLt
  have b2 := x2.code_lt
  have g2 : x2.wf = true := h
  have f25_7 : fld w 25 7 = 17 := by simp only [fld]; omega
  have f0_9 : fld w 0 9 = x2.code := by simp only [fld]; omega
  have f9_10 : fld w 9 10 = x1.toNat := by simp only [fld]; omega
  have f19_4 : fld w 19 4 = 1 := by simp only [fld]; omega
  have f23_2 : fld w 23 2 = x0.code := by simp only [fld]; omega
  refine ⟨by omega, ?_⟩
  unfold decodeWord
  rw [f25_7]
  simp [decOp11, Except.bind, f0_9, f9_10, f19_4, f23_2, predOf_code, tgtOf_code x2 g2]

theorem RoundTrip.andi (x0 : Pred) (x1 : BitVec 10) (x2 : Tgt) : RoundTrip.Statement (.andi x0 x1 x2) := by
  intro h w hw
  have hW := Option.some.inj hw
  have b0 := x0.code_lt
  have b1 := x1.isLt
  have b2 := x2.code_lt
  have g2 : x2.wf = true := h
  have f25_7 : fld w 25 7 = 17 := by simp only [fld]; omega
  have f0_9 : fld w 0 9 = x2.code := by simp only [fld]; omega
  have f9_10 : fld w 9 10 = x1.toNat := by simp only [fld]; omega
  have f19_4 : fld w 19 4 = 2 := by simp only [fld]; omega
  have f23_2 : fld w 23 2 = x0.code := by simp only [fld]; omega
  refine ⟨by omega, ?_⟩
  unfold decodeWord
  rw [f25_7]
  simp [decOp11, Except.bind, f0_9, f9_10, f19_4, f23_2, predOf_code, tgtOf_code x2 g2]

theorem RoundTrip.ori (x0 : Pred) (x1 : BitVec 10) (x2 : Tgt) : RoundTrip.Statement (.ori x0 x1 x2) := by
  intro h w hw
  have hW := Option.some.inj hw
  have b0 := x0.code_lt
  have b1 := x1.isLt
  have b2 := x2.code_lt
  have g2 : x2.wf = true := h
  have f25_7 : fld w 25 7 = 17 := by simp only [fld]; omega
  have f0_9 : fld w 0 9 = x2.code := by simp only [fld]; omega
  have f9_10 : fld w 9 10 = x1.toNat := by simp only [fld]; omega
  have f19_4 : fld w 19 4 = 3 := by simp only [fld]; omega
  have f23_2 : fld w 23 2 = x0.code := by simp only [fld]; omega
  refine ⟨by omega, ?_⟩
  unfold decodeWord
  rw [f25_7]
  simp [decOp11, Except.bind, f0_9, f9_10, f19_4, f23_2, predOf_code, tgtOf_code x2 g2]

theorem RoundTrip.xori (x0 : Pred) (x1 : BitVec 10) (x2 : Tgt) : RoundTrip.Statement (.xori x0 x1 x2) := by
  intro h w hw
  have hW := Option.some.inj hw
  have b0 := x0.code_lt
  have b1 := x1.isLt
  have b2 := x2.code_lt
  have g2 : x2.wf = true := h
  have f25_7 : fld w 25 7 = 17 := by simp only [fld]; omega
  have f0_9 : fld w 0 9 = x2.code := by simp only [fld]; omega
  have f9_10 : fld w 9 10 = x1.toNat := by simp only [fld]; omega
  have f19_4 : fld w 19 4 = 4 := by simp only [fld]; omega
  have f23_2 : fld w 23 2 = x0.code := by simp only [fld]; omega
  refine ⟨by omega, ?_⟩
  unfold decodeWord
  rw [f25_7]
  simp [decOp11, Except.bind, f0_9, f9_10, f19_4, f23_2, predOf_code, tgtOf_code x2 g2]

theorem RoundTrip.shli (x0 : Pred) (x1 : BitVec 10) (x2 : Tgt) : RoundTrip.Statement (.shli x0 x1 x2) := by
  intro h w hw
  have hW := Option.some.inj hw
  have b0 := x0.code_lt
  have b1 := x1.isLt
  have b2 := x2.code_lt
  have g2 : x2.wf = true := h
  have f25_7 : fld w 25 7 = 17 := by simp only [fld]; omega
  have f0_9 : fld w 0 9 = x2.code := by simp only [fld]; omega
  have f9_10 : fld w 9 10 = x1.toNat := by simp only [fld]; omega
  have f19_4 : fld w 19 4 = 5 := by simp only [fld]; omega
  have f23_2 : fld w 23 2 = x0.code := by simp only [fld]; omega
  refine ⟨by omega, ?_⟩
  unfold decodeWord
  rw [f25_7]
  simp [decOp11, Except.bind, f0_9, f9_10, f19_4, f23_2, predOf_code, tgtOf_code x2 g2]

theorem RoundTrip.shri (x0 : Pred) (x1 : BitVec 10) (x2 : Tgt) : RoundTrip.Statement (.shri x0 x1 x2) := by
  intro h w hw
  have hW := Option.some.inj hw
  have b0 := x0.code_lt
  have b1 := x1.isLt
  have b2 := x2.code_lt
  have g2 : x2.wf = true := h
  have f25_7 : fld w 25 7 = 17 := by simp only [fld]; omega
  have f0_9 : fld w 0 9 = x2.code := by simp only [fld]; omega
  have f9_10 : fld w 9 10 = x1.toNat := by simp only [fld]; omega
  have f19_4 : fld w 19 4 = 6 := by simp only [fld]; omega
  have f23_2 : fld w 23 2 = x0.code := by simp only [fld]; omega
  refine ⟨by omega, ?_⟩
  unfold decodeWord
  rw [f25_7]
  simp [decOp11, Except.bind, f0_9, f9_10, f19_4, f23_2, predOf_code, tgtOf_code x2 g2]

theorem RoundTrip.srai (x0 : Pred) (x1 : BitVec 10) (x2 : Tgt) : RoundTrip.Statement (.srai x0 x1 x2) := by
  intro h w hw
  have hW := Option.some.inj hw
  have b0 := x0.code_lt
  have b1 := x1.isLt
  have b2 := x2.code_lt
  have g2 : x2.wf = true := h
  have f25_7 : fld w 25 7 = 17 := by simp only [fld]; omega
  have f0_9 : fld w 0 9 = x2.code := by simp only [fld]; omega
  have f9_10 : fld w 9 10 = x1.toNat := by simp only [fld]; omega
  have f19_4 : fld w 19 4 = 7 := by simp only [fld]; omega
  have f23_2 : fld w 23 2 = x0.code := by simp only [fld]; omega
  refine ⟨by omega, ?_⟩
  unfold decodeWord
  rw [f25_7]
  simp [decOp11, Except.bind, f0_9, f9_10, f19_4, f23_2, predOf_code, tgtOf_code x2 g2]

theorem RoundTrip.mul (x0 : Pred) (x1 : Dst) : RoundTrip.Statement (.mul x0 x1) := by
  intro h w hw
  have hW := Option.some.inj hw
  have b0 := x0.code_lt
  have b1 := x1.code_lt
  have g1 : x1.wf = true := h
  have f25_7 : fld w 25 7 = 18 := by simp only [fld]; omega
  have f0_19 : fld w 0 19 = x1.code := by simp only [fld]; omega
  have f19_4 : fld w 19 4 = 0 := by simp only [fld]; omega
  have f23_2 : fld w 23 2 = x0.code := by simp only [fld]; omega
  refine ⟨by omega, ?_⟩
  unfold decodeWord
  rw [f25_7]
  simp [decOp12, Except.bind, f0_19, f19_4, f23_2, predOf_code, dstOf_code x1 g1]

theorem RoundTrip.mulh (x0 : Pred) (x1 : Dst) : RoundTrip.Statement (.mulh x0 x1) := by
  intro h w hw
  have hW := Option.some.inj hw
  have b0 := x0.code_lt
  have b1 := x1.code_lt
  have g1 : x1.wf = true := h
  have f25_7 : fld w 25 7 = 18 := by simp only [fld]; omega
  have f0_19 : fld w 0 19 = x1.code := by simp only [fld]; omega
  have f19_4 : fld w 19 4 = 1 := by simp only [fld]; omega
  have f23_2 : fld w 23 2 = x0.code := by simp only [fld]; omega
  refine ⟨by omega, ?_⟩
  unfold decodeWord
  rw [f25_7]
  simp [decOp12, Except.bind, f0_19, f19_4, f23_2, predOf_code, dstOf_code x1 g1]

theorem RoundTrip.mulhu (x0 : Pred) (x1 : Dst) : RoundTrip.Statement (.mulhu x0 x1) := by
  intro h w hw
  have hW := Option.some.inj hw
  have b0 := x0.code_lt
  have b1 := x1.code_lt
  have g1 : x1.wf = true := h
  have f25_7 : fld w 25 7 = 18 := by simp only [fld]; omega
  have f0_19 : fld w 0 19 = x1.code := by simp only [fld]; omega
  have f19_4 : fld w 19 4 = 2 := by simp only [fld]; omega
  have f23_2 : fld w 23 2 = x0.code := by simp only [fld]; omega
  refine ⟨by omega, ?_⟩
  unfold decodeWord
  rw [f25_7]
  simp [decOp12, Except.bind, f0_19, f19_4, f23_2, predOf_code, dstOf_code x1 g1]

theorem RoundTrip.div (x0 : Pred) (x1 : Dst) : RoundTrip.Statement (.div x0 x1) := by
  intro h w hw
  have hW := Option.some.inj hw
  have b0 := x0.code_lt
  have b1 := x1.code_lt
  have g1 : x1.wf = true := h
  have f25_7 : fld w 25 7 = 18 := by simp only [fld]; omega
  have f0_19 : fld w 0 19 = x1.code := by simp only [fld]; omega
  have f19_4 : fld w 19 4 = 3 := by simp only [fld]; omega
  have f23_2 : fld w 23 2 = x0.code := by simp only [fld]; omega
  refine ⟨by omega, ?_⟩
  unfold decodeWord
  rw [f25_7]
  simp [decOp12, Except.bind, f0_19, f19_4, f23_2, predOf_code, dstOf_code x1 g1]

theorem RoundTrip.divu (x0 : Pred) (x1 : Dst) : RoundTrip.Statement (.divu x0 x1) := by
  intro h w hw
  have hW := Option.some.inj hw
  have b0 := x0.code_lt
  have b1 := x1.code_lt
  have g1 : x1.wf = true := h
  have f25_7 : fld w 25 7 = 18 := by simp only [fld]; omega
  have f0_19 : fld w 0 19 = x1.code := by simp only [fld]; omega
  have f19_4 : fld w 19 4 = 4 := by simp only [fld]; omega
  have f23_2 : fld w 23 2 = x0.code := by simp only [fld]; omega
  refine ⟨by omega, ?_⟩
  unfold decodeWord
  rw [f25_7]
  simp [decOp12, Except.bind, f0_19, f19_4, f23_2, predOf_code, dstOf_code x1 g1]

theorem RoundTrip.rem (x0 : Pred) (x1 : Dst) : RoundTrip.Statement (.rem x0 x1) := by
  intro h w hw
  have hW := Option.some.inj hw
  have b0 := x0.code_lt
  have b1 := x1.code_lt
  have g1 : x1.wf = true := h
  have f25_7 : fld w 25 7 = 18 := by simp only [fld]; omega
  have f0_19 : fld w 0 19 = x1.code := by simp only [fld]; omega
  have f19_4 : fld w 19 4 = 5 := by simp only [fld]; omega
  have f23_2 : fld w 23 2 = x0.code := by simp only [fld]; omega
  refine ⟨by omega, ?_⟩
  unfold decodeWord
  rw [f25_7]
  simp [decOp12, Except.bind, f0_19, f19_4, f23_2, predOf_code, dstOf_code x1 g1]

theorem RoundTrip.remu (x0 : Pred) (x1 : Dst) : RoundTrip.Statement (.remu x0 x1) := by
  intro h w hw
  have hW := Option.some.inj hw
  have b0 := x0.code_lt
  have b1 := x1.code_lt
  have g1 : x1.wf = true := h
  have f25_7 : fld w 25 7 = 18 := by simp only [fld]; omega
  have f0_19 : fld w 0 19 = x1.code := by simp only [fld]; omega
  have f19_4 : fld w 19 4 = 6 := by simp only [fld]; omega
  have f23_2 : fld w 23 2 = x0.code := by simp only [fld]; omega
  refine ⟨by omega, ?_⟩
  unfold decodeWord
  rw [f25_7]
  simp [decOp12, Except.bind, f0_19, f19_4, f23_2, predOf_code, dstOf_code x1 g1]

theorem RoundTrip.muli (x0 : Pred) (x1 : BitVec 10) (x2 : Tgt) : RoundTrip.Statement (.muli x0 x1 x2) := by
  intro h w hw
  have hW := Option.some.inj hw
  have b0 := x0.code_lt
  have b1 := x1.isLt
  have b2 := x2.code_lt
  have g2 : x2.wf = true := h
  have f25_7 : fld w 25 7 = 19 := by simp only [fld]; omega
  have f0_9 : fld w 0 9 = x2.code := by simp only [fld]; omega
  have f9_10 : fld w 9 10 = x1.toNat := by simp only [fld]; omega
  have f19_4 : fld w 19 4 = 0 := by simp only [fld]; omega
  have f23_2 : fld w 23 2 = x0.code := by simp only [fld]; omega
  refine ⟨by omega, ?_⟩
  unfold decodeWord
  rw [f25_7]
  simp [decOp13, Except.bind, f0_9, f9_10, f19_4, f23_2, predOf_code, tgtOf_code x2 g2]

theorem RoundTrip.clz (x0 : Pred) (x1 : Dst) : RoundTrip.Statement (.clz x0 x1) := by
  intro h w hw
  have hW := Option.some.inj hw
  have b0 := x0.code_lt
  have b1 := x1.code_lt
  have g1 : x1.wf = true := h
  have f25_7 : fld w 25 7 = 20 := by simp only [fld]; omega
  have f0_19 : fld w 0 19 = x1.code := by simp only [fld]; omega
  have f19_4 : fld w 19 4 = 0 := by simp only [fld]; omega
  have f23_2 : fld w 23 2 = x0.code := by simp only [fld]; omega
  refine ⟨by omega, ?_⟩
  unfold decodeWord
  rw [f25_7]
  simp [decOp14, Except.bind, f0_19, f19_4, f23_2, predOf_code, dstOf_code x1 g1]

theorem RoundTrip.ctz (x0 : Pred) (x1 : Dst) : RoundTrip.Statement (.ctz x0 x1) := by
  intro h w hw
  have hW := Option.some.inj hw
  have b0 := x0.code_lt
  have b1 := x1.code_lt
  have g1 : x1.wf = true := h
  have f25_7 : fld w 25 7 = 20 := by simp only [fld]; omega
  have f0_19 : fld w 0 19 = x1.code := by simp only [fld]; omega
  have f19_4 : fld w 19 4 = 1 := by simp only [fld]; omega
  have f23_2 : fld w 23 2 = x0.code := by simp only [fld]; omega
  refine ⟨by omega, ?_⟩
  unfold decodeWord
  rw [f25_7]
  simp [decOp14, Except.bind, f0_19, f19_4, f23_2, predOf_code, dstOf_code x1 g1]

theorem RoundTrip.popc (x0 : Pred) (x1 : Dst) : RoundTrip.Statement (.popc x0 x1) := by
  intro h w hw
  have hW := Option.some.inj hw
  have b0 := x0.code_lt
  have b1 := x1.code_lt
  have g1 : x1.wf = true := h
  have f25_7 : fld w 25 7 = 20 := by simp only [fld]; omega
  have f0_19 : fld w 0 19 = x1.code := by simp only [fld]; omega
  have f19_4 : fld w 19 4 = 2 := by simp only [fld]; omega
  have f23_2 : fld w 23 2 = x0.code := by simp only [fld]; omega
  refine ⟨by omega, ?_⟩
  unfold decodeWord
  rw [f25_7]
  simp [decOp14, Except.bind, f0_19, f19_4, f23_2, predOf_code, dstOf_code x1 g1]

theorem RoundTrip.exts8 (x0 : Pred) (x1 : Dst) : RoundTrip.Statement (.exts8 x0 x1) := by
  intro h w hw
  have hW := Option.some.inj hw
  have b0 := x0.code_lt
  have b1 := x1.code_lt
  have g1 : x1.wf = true := h
  have f25_7 : fld w 25 7 = 20 := by simp only [fld]; omega
  have f0_19 : fld w 0 19 = x1.code := by simp only [fld]; omega
  have f19_4 : fld w 19 4 = 8 := by simp only [fld]; omega
  have f23_2 : fld w 23 2 = x0.code := by simp only [fld]; omega
  refine ⟨by omega, ?_⟩
  unfold decodeWord
  rw [f25_7]
  simp [decOp14, Except.bind, f0_19, f19_4, f23_2, predOf_code, dstOf_code x1 g1]

theorem RoundTrip.exts16 (x0 : Pred) (x1 : Dst) : RoundTrip.Statement (.exts16 x0 x1) := by
  intro h w hw
  have hW := Option.some.inj hw
  have b0 := x0.code_lt
  have b1 := x1.code_lt
  have g1 : x1.wf = true := h
  have f25_7 : fld w 25 7 = 20 := by simp only [fld]; omega
  have f0_19 : fld w 0 19 = x1.code := by simp only [fld]; omega
  have f19_4 : fld w 19 4 = 9 := by simp only [fld]; omega
  have f23_2 : fld w 23 2 = x0.code := by simp only [fld]; omega
  refine ⟨by omega, ?_⟩
  unfold decodeWord
  rw [f25_7]
  simp [decOp14, Except.bind, f0_19, f19_4, f23_2, predOf_code, dstOf_code x1 g1]

theorem RoundTrip.exts32 (x0 : Pred) (x1 : Dst) : RoundTrip.Statement (.exts32 x0 x1) := by
  intro h w hw
  have hW := Option.some.inj hw
  have b0 := x0.code_lt
  have b1 := x1.code_lt
  have g1 : x1.wf = true := h
  have f25_7 : fld w 25 7 = 20 := by simp only [fld]; omega
  have f0_19 : fld w 0 19 = x1.code := by simp only [fld]; omega
  have f19_4 : fld w 19 4 = 10 := by simp only [fld]; omega
  have f23_2 : fld w 23 2 = x0.code := by simp only [fld]; omega
  refine ⟨by omega, ?_⟩
  unfold decodeWord
  rw [f25_7]
  simp [decOp14, Except.bind, f0_19, f19_4, f23_2, predOf_code, dstOf_code x1 g1]

theorem RoundTrip.extz8 (x0 : Pred) (x1 : Dst) : RoundTrip.Statement (.extz8 x0 x1) := by
  intro h w hw
  have hW := Option.some.inj hw
  have b0 := x0.code_lt
  have b1 := x1.code_lt
  have g1 : x1.wf = true := h
  have f25_7 : fld w 25 7 = 20 := by simp only [fld]; omega
  have f0_19 : fld w 0 19 = x1.code := by simp only [fld]; omega
  have f19_4 : fld w 19 4 = 11 := by simp only [fld]; omega
  have f23_2 : fld w 23 2 = x0.code := by simp only [fld]; omega
  refine ⟨by omega, ?_⟩
  unfold decodeWord
  rw [f25_7]
  simp [decOp14, Except.bind, f0_19, f19_4, f23_2, predOf_code, dstOf_code x1 g1]

theorem RoundTrip.extz16 (x0 : Pred) (x1 : Dst) : RoundTrip.Statement (.extz16 x0 x1) := by
  intro h w hw
  have hW := Option.some.inj hw
  have b0 := x0.code_lt
  have b1 := x1.code_lt
  have g1 : x1.wf = true := h
  have f25_7 : fld w 25 7 = 20 := by simp only [fld]; omega
  have f0_19 : fld w 0 19 = x1.code := by simp only [fld]; omega
  have f19_4 : fld w 19 4 = 12 := by simp only [fld]; omega
  have f23_2 : fld w 23 2 = x0.code := by simp only [fld]; omega
  refine ⟨by omega, ?_⟩
  unfold decodeWord
  rw [f25_7]
  simp [decOp14, Except.bind, f0_19, f19_4, f23_2, predOf_code, dstOf_code x1 g1]

theorem RoundTrip.extz32 (x0 : Pred) (x1 : Dst) : RoundTrip.Statement (.extz32 x0 x1) := by
  intro h w hw
  have hW := Option.some.inj hw
  have b0 := x0.code_lt
  have b1 := x1.code_lt
  have g1 : x1.wf = true := h
  have f25_7 : fld w 25 7 = 20 := by simp only [fld]; omega
  have f0_19 : fld w 0 19 = x1.code := by simp only [fld]; omega
  have f19_4 : fld w 19 4 = 13 := by simp only [fld]; omega
  have f23_2 : fld w 23 2 = x0.code := by simp only [fld]; omega
  refine ⟨by omega, ?_⟩
  unfold decodeWord
  rw [f25_7]
  simp [decOp14, Except.bind, f0_19, f19_4, f23_2, predOf_code, dstOf_code x1 g1]

theorem RoundTrip.bfx (x0 : Pred) (x1 : Dst) : RoundTrip.Statement (.bfx x0 x1) := by
  intro h w hw
  have hW := Option.some.inj hw
  have b0 := x0.code_lt
  have b1 := x1.code_lt
  have g1 : x1.wf = true := h
  have f25_7 : fld w 25 7 = 21 := by simp only [fld]; omega
  have f0_19 : fld w 0 19 = x1.code := by simp only [fld]; omega
  have f19_4 : fld w 19 4 = 0 := by simp only [fld]; omega
  have f23_2 : fld w 23 2 = x0.code := by simp only [fld]; omega
  refine ⟨by omega, ?_⟩
  unfold decodeWord
  rw [f25_7]
  simp [decOp15, Except.bind, f0_19, f19_4, f23_2, predOf_code, dstOf_code x1 g1]

theorem RoundTrip.bfi (x0 : Pred) (x1 : Dst) : RoundTrip.Statement (.bfi x0 x1) := by
  intro h w hw
  have hW := Option.some.inj hw
  have b0 := x0.code_lt
  have b1 := x1.code_lt
  have g1 : x1.wf = true := h
  have f25_7 : fld w 25 7 = 22 := by simp only [fld]; omega
  have f0_19 : fld w 0 19 = x1.code := by simp only [fld]; omega
  have f19_4 : fld w 19 4 = 0 := by simp only [fld]; omega
  have f23_2 : fld w 23 2 = x0.code := by simp only [fld]; omega
  refine ⟨by omega, ?_⟩
  unfold decodeWord
  rw [f25_7]
  simp [decOp16, Except.bind, f0_19, f19_4, f23_2, predOf_code, dstOf_code x1 g1]

theorem RoundTrip.lea (x0 : Pred) (x1 : BitVec 2) (x2 : Dst) : RoundTrip.Statement (.lea x0 x1 x2) := by
  intro h w hw
  have hW := Option.some.inj hw
  have b0 := x0.code_lt
  have b1 := x1.isLt
  have b2 := x2.code_lt
  have g2 : x2.wf = true := h
  have f25_7 : fld w 25 7 = 23 := by simp only [fld]; omega
  have f0_19 : fld w 0 19 = x2.code := by simp only [fld]; omega
  have f19_2 : fld w 19 2 = x1.toNat := by simp only [fld]; omega
  have f21_2 : fld w 21 2 = 0 := by simp only [fld]; omega
  have f23_2 : fld w 23 2 = x0.code := by simp only [fld]; omega
  refine ⟨by omega, ?_⟩
  unfold decodeWord
  rw [f25_7]
  simp [decOp17, Except.bind, f0_19, f19_2, f21_2, f23_2, predOf_code, dstOf_code x2 g2]

theorem RoundTrip.leai (x0 : Pred) (x1 : BitVec 2) (x2 : BitVec 10) (x3 : Tgt) : RoundTrip.Statement (.leai x0 x1 x2 x3) := by
  intro h w hw
  have hW := Option.some.inj hw
  have b0 := x0.code_lt
  have b1 := x1.isLt
  have b2 := x2.isLt
  have b3 := x3.code_lt
  have g3 : x3.wf = true := h
  have f25_7 : fld w 25 7 = 26 := by simp only [fld]; omega
  have f0_9 : fld w 0 9 = x3.code := by simp only [fld]; omega
  have f9_10 : fld w 9 10 = x2.toNat := by simp only [fld]; omega
  have f19_2 : fld w 19 2 = x1.toNat := by simp only [fld]; omega
  have f21_2 : fld w 21 2 = 0 := by simp only [fld]; omega
  have f23_2 : fld w 23 2 = x0.code := by simp only [fld]; omega
  refine ⟨by omega, ?_⟩
  unfold decodeWord
  rw [f25_7]
  simp [decOp1a, Except.bind, f0_9, f9_10, f19_2, f21_2, f23_2, predOf_code, tgtOf_code x3 g3]

theorem RoundTrip.teq (x0 : Pred) (x1 : Dst) : RoundTrip.Statement (.teq x0 x1) := by
  intro h w hw
  have hW := Option.some.inj hw
  have b0 := x0.code_lt
  have b1 := x1.code_lt
  have g1 : x1.wf = true := h
  have f25_7 : fld w 25 7 = 24 := by simp only [fld]; omega
  have f0_19 : fld w 0 19 = x1.code := by simp only [fld]; omega
  have f19_4 : fld w 19 4 = 0 := by simp only [fld]; omega
  have f23_2 : fld w 23 2 = x0.code := by simp only [fld]; omega
  refine ⟨by omega, ?_⟩
  unfold decodeWord
  rw [f25_7]
  simp [decOp18, Except.bind, f0_19, f19_4, f23_2, predOf_code, dstOf_code x1 g1]

theorem RoundTrip.tne (x0 : Pred) (x1 : Dst) : RoundTrip.Statement (.tne x0 x1) := by
  intro h w hw
  have hW := Option.some.inj hw
  have b0 := x0.code_lt
  have b1 := x1.code_lt
  have g1 : x1.wf = true := h
  have f25_7 : fld w 25 7 = 24 := by simp only [fld]; omega
  have f0_19 : fld w 0 19 = x1.code := by simp only [fld]; omega
  have f19_4 : fld w 19 4 = 1 := by simp only [fld]; omega
  have f23_2 : fld w 23 2 = x0.code := by simp only [fld]; omega
  refine ⟨by omega, ?_⟩
  unfold decodeWord
  rw [f25_7]
  simp [decOp18, Except.bind, f0_19, f19_4, f23_2, predOf_code, dstOf_code x1 g1]

theorem RoundTrip.tlt (x0 : Pred) (x1 : Dst) : RoundTrip.Statement (.tlt x0 x1) := by
  intro h w hw
  have hW := Option.some.inj hw
  have b0 := x0.code_lt
  have b1 := x1.code_lt
  have g1 : x1.wf = true := h
  have f25_7 : fld w 25 7 = 24 := by simp only [fld]; omega
  have f0_19 : fld w 0 19 = x1.code := by simp only [fld]; omega
  have f19_4 : fld w 19 4 = 2 := by simp only [fld]; omega
  have f23_2 : fld w 23 2 = x0.code := by simp only [fld]; omega
  refine ⟨by omega, ?_⟩
  unfold decodeWord
  rw [f25_7]
  simp [decOp18, Except.bind, f0_19, f19_4, f23_2, predOf_code, dstOf_code x1 g1]

theorem RoundTrip.tle (x0 : Pred) (x1 : Dst) : RoundTrip.Statement (.tle x0 x1) := by
  intro h w hw
  have hW := Option.some.inj hw
  have b0 := x0.code_lt
  have b1 := x1.code_lt
  have g1 : x1.wf = true := h
  have f25_7 : fld w 25 7 = 24 := by simp only [fld]; omega
  have f0_19 : fld w 0 19 = x1.code := by simp only [fld]; omega
  have f19_4 : fld w 19 4 = 3 := by simp only [fld]; omega
  have f23_2 : fld w 23 2 = x0.code := by simp only [fld]; omega
  refine ⟨by omega, ?_⟩
  unfold decodeWord
  rw [f25_7]
  simp [decOp18, Except.bind, f0_19, f19_4, f23_2, predOf_code, dstOf_code x1 g1]

theorem RoundTrip.tltu (x0 : Pred) (x1 : Dst) : RoundTrip.Statement (.tltu x0 x1) := by
  intro h w hw
  have hW := Option.some.inj hw
  have b0 := x0.code_lt
  have b1 := x1.code_lt
  have g1 : x1.wf = true := h
  have f25_7 : fld w 25 7 = 24 := by simp only [fld]; omega
  have f0_19 : fld w 0 19 = x1.code := by simp only [fld]; omega
  have f19_4 : fld w 19 4 = 4 := by simp only [fld]; omega
  have f23_2 : fld w 23 2 = x0.code := by simp only [fld]; omega
  refine ⟨by omega, ?_⟩
  unfold decodeWord
  rw [f25_7]
  simp [decOp18, Except.bind, f0_19, f19_4, f23_2, predOf_code, dstOf_code x1 g1]

theorem RoundTrip.tleu (x0 : Pred) (x1 : Dst) : RoundTrip.Statement (.tleu x0 x1) := by
  intro h w hw
  have hW := Option.some.inj hw
  have b0 := x0.code_lt
  have b1 := x1.code_lt
  have g1 : x1.wf = true := h
  have f25_7 : fld w 25 7 = 24 := by simp only [fld]; omega
  have f0_19 : fld w 0 19 = x1.code := by simp only [fld]; omega
  have f19_4 : fld w 19 4 = 5 := by simp only [fld]; omega
  have f23_2 : fld w 23 2 = x0.code := by simp only [fld]; omega
  refine ⟨by omega, ?_⟩
  unfold decodeWord
  rw [f25_7]
  simp [decOp18, Except.bind, f0_19, f19_4, f23_2, predOf_code, dstOf_code x1 g1]

theorem RoundTrip.teqi (x0 : Pred) (x1 : BitVec 10) (x2 : Tgt) : RoundTrip.Statement (.teqi x0 x1 x2) := by
  intro h w hw
  have hW := Option.some.inj hw
  have b0 := x0.code_lt
  have b1 := x1.isLt
  have b2 := x2.code_lt
  have g2 : x2.wf = true := h
  have f25_7 : fld w 25 7 = 25 := by simp only [fld]; omega
  have f0_9 : fld w 0 9 = x2.code := by simp only [fld]; omega
  have f9_10 : fld w 9 10 = x1.toNat := by simp only [fld]; omega
  have f19_4 : fld w 19 4 = 0 := by simp only [fld]; omega
  have f23_2 : fld w 23 2 = x0.code := by simp only [fld]; omega
  refine ⟨by omega, ?_⟩
  unfold decodeWord
  rw [f25_7]
  simp [decOp19, Except.bind, f0_9, f9_10, f19_4, f23_2, predOf_code, tgtOf_code x2 g2]

theorem RoundTrip.tnei (x0 : Pred) (x1 : BitVec 10) (x2 : Tgt) : RoundTrip.Statement (.tnei x0 x1 x2) := by
  intro h w hw
  have hW := Option.some.inj hw
  have b0 := x0.code_lt
  have b1 := x1.isLt
  have b2 := x2.code_lt
  have g2 : x2.wf = true := h
  have f25_7 : fld w 25 7 = 25 := by simp only [fld]; omega
  have f0_9 : fld w 0 9 = x2.code := by simp only [fld]; omega
  have f9_10 : fld w 9 10 = x1.toNat := by simp only [fld]; omega
  have f19_4 : fld w 19 4 = 1 := by simp only [fld]; omega
  have f23_2 : fld w 23 2 = x0.code := by simp only [fld]; omega
  refine ⟨by omega, ?_⟩
  unfold decodeWord
  rw [f25_7]
  simp [decOp19, Except.bind, f0_9, f9_10, f19_4, f23_2, predOf_code, tgtOf_code x2 g2]

theorem RoundTrip.tlti (x0 : Pred) (x1 : BitVec 10) (x2 : Tgt) : RoundTrip.Statement (.tlti x0 x1 x2) := by
  intro h w hw
  have hW := Option.some.inj hw
  have b0 := x0.code_lt
  have b1 := x1.isLt
  have b2 := x2.code_lt
  have g2 : x2.wf = true := h
  have f25_7 : fld w 25 7 = 25 := by simp only [fld]; omega
  have f0_9 : fld w 0 9 = x2.code := by simp only [fld]; omega
  have f9_10 : fld w 9 10 = x1.toNat := by simp only [fld]; omega
  have f19_4 : fld w 19 4 = 2 := by simp only [fld]; omega
  have f23_2 : fld w 23 2 = x0.code := by simp only [fld]; omega
  refine ⟨by omega, ?_⟩
  unfold decodeWord
  rw [f25_7]
  simp [decOp19, Except.bind, f0_9, f9_10, f19_4, f23_2, predOf_code, tgtOf_code x2 g2]

theorem RoundTrip.tlei (x0 : Pred) (x1 : BitVec 10) (x2 : Tgt) : RoundTrip.Statement (.tlei x0 x1 x2) := by
  intro h w hw
  have hW := Option.some.inj hw
  have b0 := x0.code_lt
  have b1 := x1.isLt
  have b2 := x2.code_lt
  have g2 : x2.wf = true := h
  have f25_7 : fld w 25 7 = 25 := by simp only [fld]; omega
  have f0_9 : fld w 0 9 = x2.code := by simp only [fld]; omega
  have f9_10 : fld w 9 10 = x1.toNat := by simp only [fld]; omega
  have f19_4 : fld w 19 4 = 3 := by simp only [fld]; omega
  have f23_2 : fld w 23 2 = x0.code := by simp only [fld]; omega
  refine ⟨by omega, ?_⟩
  unfold decodeWord
  rw [f25_7]
  simp [decOp19, Except.bind, f0_9, f9_10, f19_4, f23_2, predOf_code, tgtOf_code x2 g2]

theorem RoundTrip.tltui (x0 : Pred) (x1 : BitVec 10) (x2 : Tgt) : RoundTrip.Statement (.tltui x0 x1 x2) := by
  intro h w hw
  have hW := Option.some.inj hw
  have b0 := x0.code_lt
  have b1 := x1.isLt
  have b2 := x2.code_lt
  have g2 : x2.wf = true := h
  have f25_7 : fld w 25 7 = 25 := by simp only [fld]; omega
  have f0_9 : fld w 0 9 = x2.code := by simp only [fld]; omega
  have f9_10 : fld w 9 10 = x1.toNat := by simp only [fld]; omega
  have f19_4 : fld w 19 4 = 4 := by simp only [fld]; omega
  have f23_2 : fld w 23 2 = x0.code := by simp only [fld]; omega
  refine ⟨by omega, ?_⟩
  unfold decodeWord
  rw [f25_7]
  simp [decOp19, Except.bind, f0_9, f9_10, f19_4, f23_2, predOf_code, tgtOf_code x2 g2]

theorem RoundTrip.tleui (x0 : Pred) (x1 : BitVec 10) (x2 : Tgt) : RoundTrip.Statement (.tleui x0 x1 x2) := by
  intro h w hw
  have hW := Option.some.inj hw
  have b0 := x0.code_lt
  have b1 := x1.isLt
  have b2 := x2.code_lt
  have g2 : x2.wf = true := h
  have f25_7 : fld w 25 7 = 25 := by simp only [fld]; omega
  have f0_9 : fld w 0 9 = x2.code := by simp only [fld]; omega
  have f9_10 : fld w 9 10 = x1.toNat := by simp only [fld]; omega
  have f19_4 : fld w 19 4 = 5 := by simp only [fld]; omega
  have f23_2 : fld w 23 2 = x0.code := by simp only [fld]; omega
  refine ⟨by omega, ?_⟩
  unfold decodeWord
  rw [f25_7]
  simp [decOp19, Except.bind, f0_9, f9_10, f19_4, f23_2, predOf_code, tgtOf_code x2 g2]

theorem RoundTrip.fadd (x0 : Pred) (x1 : FTy) (x2 : Dst) : RoundTrip.Statement (.fadd x0 x1 x2) := by
  intro h w hw
  have hW := Option.some.inj hw
  have b0 := x0.code_lt
  have b1 := x1.code_lt
  have b2 := x2.code_lt
  have g2 : x2.wf = true := h
  have f25_7 : fld w 25 7 = 32 := by simp only [fld]; omega
  have f0_19 : fld w 0 19 = x2.code := by simp only [fld]; omega
  have f19_2 : fld w 19 2 = 0 := by simp only [fld]; omega
  have f21_2 : fld w 21 2 = x1.code := by simp only [fld]; omega
  have f23_2 : fld w 23 2 = x0.code := by simp only [fld]; omega
  refine ⟨by omega, ?_⟩
  unfold decodeWord
  rw [f25_7]
  simp [decOp20, Except.bind, f0_19, f19_2, f21_2, f23_2, predOf_code, ftyOf_code, dstOf_code x2 g2]

theorem RoundTrip.fsub (x0 : Pred) (x1 : FTy) (x2 : Dst) : RoundTrip.Statement (.fsub x0 x1 x2) := by
  intro h w hw
  have hW := Option.some.inj hw
  have b0 := x0.code_lt
  have b1 := x1.code_lt
  have b2 := x2.code_lt
  have g2 : x2.wf = true := h
  have f25_7 : fld w 25 7 = 32 := by simp only [fld]; omega
  have f0_19 : fld w 0 19 = x2.code := by simp only [fld]; omega
  have f19_2 : fld w 19 2 = 1 := by simp only [fld]; omega
  have f21_2 : fld w 21 2 = x1.code := by simp only [fld]; omega
  have f23_2 : fld w 23 2 = x0.code := by simp only [fld]; omega
  refine ⟨by omega, ?_⟩
  unfold decodeWord
  rw [f25_7]
  simp [decOp20, Except.bind, f0_19, f19_2, f21_2, f23_2, predOf_code, ftyOf_code, dstOf_code x2 g2]

theorem RoundTrip.fmul (x0 : Pred) (x1 : FTy) (x2 : Dst) : RoundTrip.Statement (.fmul x0 x1 x2) := by
  intro h w hw
  have hW := Option.some.inj hw
  have b0 := x0.code_lt
  have b1 := x1.code_lt
  have b2 := x2.code_lt
  have g2 : x2.wf = true := h
  have f25_7 : fld w 25 7 = 32 := by simp only [fld]; omega
  have f0_19 : fld w 0 19 = x2.code := by simp only [fld]; omega
  have f19_2 : fld w 19 2 = 2 := by simp only [fld]; omega
  have f21_2 : fld w 21 2 = x1.code := by simp only [fld]; omega
  have f23_2 : fld w 23 2 = x0.code := by simp only [fld]; omega
  refine ⟨by omega, ?_⟩
  unfold decodeWord
  rw [f25_7]
  simp [decOp20, Except.bind, f0_19, f19_2, f21_2, f23_2, predOf_code, ftyOf_code, dstOf_code x2 g2]

theorem RoundTrip.fdiv (x0 : Pred) (x1 : FTy) (x2 : Dst) : RoundTrip.Statement (.fdiv x0 x1 x2) := by
  intro h w hw
  have hW := Option.some.inj hw
  have b0 := x0.code_lt
  have b1 := x1.code_lt
  have b2 := x2.code_lt
  have g2 : x2.wf = true := h
  have f25_7 : fld w 25 7 = 32 := by simp only [fld]; omega
  have f0_19 : fld w 0 19 = x2.code := by simp only [fld]; omega
  have f19_2 : fld w 19 2 = 3 := by simp only [fld]; omega
  have f21_2 : fld w 21 2 = x1.code := by simp only [fld]; omega
  have f23_2 : fld w 23 2 = x0.code := by simp only [fld]; omega
  refine ⟨by omega, ?_⟩
  unfold decodeWord
  rw [f25_7]
  simp [decOp20, Except.bind, f0_19, f19_2, f21_2, f23_2, predOf_code, ftyOf_code, dstOf_code x2 g2]

theorem RoundTrip.fmin (x0 : Pred) (x1 : FTy) (x2 : Dst) : RoundTrip.Statement (.fmin x0 x1 x2) := by
  intro h w hw
  have hW := Option.some.inj hw
  have b0 := x0.code_lt
  have b1 := x1.code_lt
  have b2 := x2.code_lt
  have g2 : x2.wf = true := h
  have f25_7 : fld w 25 7 = 33 := by simp only [fld]; omega
  have f0_19 : fld w 0 19 = x2.code := by simp only [fld]; omega
  have f19_2 : fld w 19 2 = 0 := by simp only [fld]; omega
  have f21_2 : fld w 21 2 = x1.code := by simp only [fld]; omega
  have f23_2 : fld w 23 2 = x0.code := by simp only [fld]; omega
  refine ⟨by omega, ?_⟩
  unfold decodeWord
  rw [f25_7]
  simp [decOp21, Except.bind, f0_19, f19_2, f21_2, f23_2, predOf_code, ftyOf_code, dstOf_code x2 g2]

theorem RoundTrip.fmax (x0 : Pred) (x1 : FTy) (x2 : Dst) : RoundTrip.Statement (.fmax x0 x1 x2) := by
  intro h w hw
  have hW := Option.some.inj hw
  have b0 := x0.code_lt
  have b1 := x1.code_lt
  have b2 := x2.code_lt
  have g2 : x2.wf = true := h
  have f25_7 : fld w 25 7 = 33 := by simp only [fld]; omega
  have f0_19 : fld w 0 19 = x2.code := by simp only [fld]; omega
  have f19_2 : fld w 19 2 = 1 := by simp only [fld]; omega
  have f21_2 : fld w 21 2 = x1.code := by simp only [fld]; omega
  have f23_2 : fld w 23 2 = x0.code := by simp only [fld]; omega
  refine ⟨by omega, ?_⟩
  unfold decodeWord
  rw [f25_7]
  simp [decOp21, Except.bind, f0_19, f19_2, f21_2, f23_2, predOf_code, ftyOf_code, dstOf_code x2 g2]

theorem RoundTrip.fsqrt (x0 : Pred) (x1 : FTy) (x2 : Dst) : RoundTrip.Statement (.fsqrt x0 x1 x2) := by
  intro h w hw
  have hW := Option.some.inj hw
  have b0 := x0.code_lt
  have b1 := x1.code_lt
  have b2 := x2.code_lt
  have g2 : x2.wf = true := h
  have f25_7 : fld w 25 7 = 33 := by simp only [fld]; omega
  have f0_19 : fld w 0 19 = x2.code := by simp only [fld]; omega
  have f19_2 : fld w 19 2 = 2 := by simp only [fld]; omega
  have f21_2 : fld w 21 2 = x1.code := by simp only [fld]; omega
  have f23_2 : fld w 23 2 = x0.code := by simp only [fld]; omega
  refine ⟨by omega, ?_⟩
  unfold decodeWord
  rw [f25_7]
  simp [decOp21, Except.bind, f0_19, f19_2, f21_2, f23_2, predOf_code, ftyOf_code, dstOf_code x2 g2]

theorem RoundTrip.fsgn (x0 : Pred) (x1 : FTy) (x2 : Dst) : RoundTrip.Statement (.fsgn x0 x1 x2) := by
  intro h w hw
  have hW := Option.some.inj hw
  have b0 := x0.code_lt
  have b1 := x1.code_lt
  have b2 := x2.code_lt
  have g2 : x2.wf = true := h
  have f25_7 : fld w 25 7 = 33 := by simp only [fld]; omega
  have f0_19 : fld w 0 19 = x2.code := by simp only [fld]; omega
  have f19_2 : fld w 19 2 = 3 := by simp only [fld]; omega
  have f21_2 : fld w 21 2 = x1.code := by simp only [fld]; omega
  have f23_2 : fld w 23 2 = x0.code := by simp only [fld]; omega
  refine ⟨by omega, ?_⟩
  unfold decodeWord
  rw [f25_7]
  simp [decOp21, Except.bind, f0_19, f19_2, f21_2, f23_2, predOf_code, ftyOf_code, dstOf_code x2 g2]

theorem RoundTrip.ffma (x0 : Pred) (x1 : FTy) (x2 : Dst) : RoundTrip.Statement (.ffma x0 x1 x2) := by
  intro h w hw
  have hW := Option.some.inj hw
  have b0 := x0.code_lt
  have b1 := x1.code_lt
  have b2 := x2.code_lt
  have g2 : x2.wf = true := h
  have f25_7 : fld w 25 7 = 34 := by simp only [fld]; omega
  have f0_19 : fld w 0 19 = x2.code := by simp only [fld]; omega
  have f19_2 : fld w 19 2 = 0 := by simp only [fld]; omega
  have f21_2 : fld w 21 2 = x1.code := by simp only [fld]; omega
  have f23_2 : fld w 23 2 = x0.code := by simp only [fld]; omega
  refine ⟨by omega, ?_⟩
  unfold decodeWord
  rw [f25_7]
  simp [decOp22, Except.bind, f0_19, f19_2, f21_2, f23_2, predOf_code, ftyOf_code, dstOf_code x2 g2]

theorem RoundTrip.ffms (x0 : Pred) (x1 : FTy) (x2 : Dst) : RoundTrip.Statement (.ffms x0 x1 x2) := by
  intro h w hw
  have hW := Option.some.inj hw
  have b0 := x0.code_lt
  have b1 := x1.code_lt
  have b2 := x2.code_lt
  have g2 : x2.wf = true := h
  have f25_7 : fld w 25 7 = 34 := by simp only [fld]; omega
  have f0_19 : fld w 0 19 = x2.code := by simp only [fld]; omega
  have f19_2 : fld w 19 2 = 1 := by simp only [fld]; omega
  have f21_2 : fld w 21 2 = x1.code := by simp only [fld]; omega
  have f23_2 : fld w 23 2 = x0.code := by simp only [fld]; omega
  refine ⟨by omega, ?_⟩
  unfold decodeWord
  rw [f25_7]
  simp [decOp22, Except.bind, f0_19, f19_2, f21_2, f23_2, predOf_code, ftyOf_code, dstOf_code x2 g2]

theorem RoundTrip.ffnma (x0 : Pred) (x1 : FTy) (x2 : Dst) : RoundTrip.Statement (.ffnma x0 x1 x2) := by
  intro h w hw
  have hW := Option.some.inj hw
  have b0 := x0.code_lt
  have b1 := x1.code_lt
  have b2 := x2.code_lt
  have g2 : x2.wf = true := h
  have f25_7 : fld w 25 7 = 34 := by simp only [fld]; omega
  have f0_19 : fld w 0 19 = x2.code := by simp only [fld]; omega
  have f19_2 : fld w 19 2 = 2 := by simp only [fld]; omega
  have f21_2 : fld w 21 2 = x1.code := by simp only [fld]; omega
  have f23_2 : fld w 23 2 = x0.code := by simp only [fld]; omega
  refine ⟨by omega, ?_⟩
  unfold decodeWord
  rw [f25_7]
  simp [decOp22, Except.bind, f0_19, f19_2, f21_2, f23_2, predOf_code, ftyOf_code, dstOf_code x2 g2]

theorem RoundTrip.ffnms (x0 : Pred) (x1 : FTy) (x2 : Dst) : RoundTrip.Statement (.ffnms x0 x1 x2) := by
  intro h w hw
  have hW := Option.some.inj hw
  have b0 := x0.code_lt
  have b1 := x1.code_lt
  have b2 := x2.code_lt
  have g2 : x2.wf = true := h
  have f25_7 : fld w 25 7 = 34 := by simp only [fld]; omega
  have f0_19 : fld w 0 19 = x2.code := by simp only [fld]; omega
  have f19_2 : fld w 19 2 = 3 := by simp only [fld]; omega
  have f21_2 : fld w 21 2 = x1.code := by simp only [fld]; omega
  have f23_2 : fld w 23 2 = x0.code := by simp only [fld]; omega
  refine ⟨by omega, ?_⟩
  unfold decodeWord
  rw [f25_7]
  simp [decOp22, Except.bind, f0_19, f19_2, f21_2, f23_2, predOf_code, ftyOf_code, dstOf_code x2 g2]

theorem RoundTrip.fcvt (x0 : Pred) (x1 : FTy) (x2 : FTy) (x3 : Dst) : RoundTrip.Statement (.fcvt x0 x1 x2 x3) := by
  intro h w hw
  have hW := Option.some.inj hw
  have b0 := x0.code_lt
  have b1 := x1.code_lt
  have b2 := x2.code_lt
  have b3 := x3.code_lt
  have g : (x3.wf && decide (x1 ≠ x2)) = true := h
  simp at g
  have f25_7 : fld w 25 7 = 35 := by simp only [fld]; omega
  have f0_19 : fld w 0 19 = x3.code := by simp only [fld]; omega
  have f19_2 : fld w 19 2 = x2.code := by simp only [fld]; omega
  have f21_2 : fld w 21 2 = x1.code := by simp only [fld]; omega
  have f23_2 : fld w 23 2 = x0.code := by simp only [fld]; omega
  refine ⟨by omega, ?_⟩
  unfold decodeWord
  rw [f25_7]
  simp [decOp23, Except.bind, f0_19, f19_2, f21_2, f23_2, predOf_code, ftyOf_code, dstOf_code x3 g.1, g.2]

theorem RoundTrip.ftoi (x0 : Pred) (x1 : FTy) (x2 : Bool) (x3 : Bool) (x4 : Dst) : RoundTrip.Statement (.ftoi x0 x1 x2 x3 x4) := by
  intro h w hw
  have hW := Option.some.inj hw
  have b0 := x0.code_lt
  have b1 := x1.code_lt
  have b2 := bool_toNat_lt x2
  have b3 := bool_toNat_lt x3
  have b4 := x4.code_lt
  have g4 : x4.wf = true := h
  have f25_7 : fld w 25 7 = 36 := by simp only [fld]; omega
  have f0_19 : fld w 0 19 = x4.code := by simp only [fld]; omega
  have f19_1 : fld w 19 1 = x3.toNat := by simp only [fld]; omega
  have f20_1 : fld w 20 1 = x2.toNat := by simp only [fld]; omega
  have f21_2 : fld w 21 2 = x1.code := by simp only [fld]; omega
  have f23_2 : fld w 23 2 = x0.code := by simp only [fld]; omega
  refine ⟨by omega, ?_⟩
  unfold decodeWord
  rw [f25_7]
  simp [decOp24, Except.bind, f0_19, f19_1, f20_1, f21_2, f23_2, predOf_code, ftyOf_code, boolOf_toNat, dstOf_code x4 g4]

theorem RoundTrip.itof (x0 : Pred) (x1 : FTy) (x2 : Bool) (x3 : Dst) : RoundTrip.Statement (.itof x0 x1 x2 x3) := by
  intro h w hw
  have hW := Option.some.inj hw
  have b0 := x0.code_lt
  have b1 := x1.code_lt
  have b2 := bool_toNat_lt x2
  have b3 := x3.code_lt
  have g3 : x3.wf = true := h
  have f25_7 : fld w 25 7 = 37 := by simp only [fld]; omega
  have f0_19 : fld w 0 19 = x3.code := by simp only [fld]; omega
  have f19_1 : fld w 19 1 = 0 := by simp only [fld]; omega
  have f20_1 : fld w 20 1 = x2.toNat := by simp only [fld]; omega
  have f21_2 : fld w 21 2 = x1.code := by simp only [fld]; omega
  have f23_2 : fld w 23 2 = x0.code := by simp only [fld]; omega
  refine ⟨by omega, ?_⟩
  unfold decodeWord
  rw [f25_7]
  simp [decOp25, Except.bind, f0_19, f19_1, f20_1, f21_2, f23_2, predOf_code, ftyOf_code, boolOf_toNat, dstOf_code x3 g3]

theorem RoundTrip.feq (x0 : Pred) (x1 : FTy) (x2 : Dst) : RoundTrip.Statement (.feq x0 x1 x2) := by
  intro h w hw
  have hW := Option.some.inj hw
  have b0 := x0.code_lt
  have b1 := x1.code_lt
  have b2 := x2.code_lt
  have g2 : x2.wf = true := h
  have f25_7 : fld w 25 7 = 38 := by simp only [fld]; omega
  have f0_19 : fld w 0 19 = x2.code := by simp only [fld]; omega
  have f19_2 : fld w 19 2 = 0 := by simp only [fld]; omega
  have f21_2 : fld w 21 2 = x1.code := by simp only [fld]; omega
  have f23_2 : fld w 23 2 = x0.code := by simp only [fld]; omega
  refine ⟨by omega, ?_⟩
  unfold decodeWord
  rw [f25_7]
  simp [decOp26, Except.bind, f0_19, f19_2, f21_2, f23_2, predOf_code, ftyOf_code, dstOf_code x2 g2]

theorem RoundTrip.flt (x0 : Pred) (x1 : FTy) (x2 : Dst) : RoundTrip.Statement (.flt x0 x1 x2) := by
  intro h w hw
  have hW := Option.some.inj hw
  have b0 := x0.code_lt
  have b1 := x1.code_lt
  have b2 := x2.code_lt
  have g2 : x2.wf = true := h
  have f25_7 : fld w 25 7 = 38 := by simp only [fld]; omega
  have f0_19 : fld w 0 19 = x2.code := by simp only [fld]; omega
  have f19_2 : fld w 19 2 = 1 := by simp only [fld]; omega
  have f21_2 : fld w 21 2 = x1.code := by simp only [fld]; omega
  have f23_2 : fld w 23 2 = x0.code := by simp only [fld]; omega
  refine ⟨by omega, ?_⟩
  unfold decodeWord
  rw [f25_7]
  simp [decOp26, Except.bind, f0_19, f19_2, f21_2, f23_2, predOf_code, ftyOf_code, dstOf_code x2 g2]

theorem RoundTrip.fle (x0 : Pred) (x1 : FTy) (x2 : Dst) : RoundTrip.Statement (.fle x0 x1 x2) := by
  intro h w hw
  have hW := Option.some.inj hw
  have b0 := x0.code_lt
  have b1 := x1.code_lt
  have b2 := x2.code_lt
  have g2 : x2.wf = true := h
  have f25_7 : fld w 25 7 = 38 := by simp only [fld]; omega
  have f0_19 : fld w 0 19 = x2.code := by simp only [fld]; omega
  have f19_2 : fld w 19 2 = 2 := by simp only [fld]; omega
  have f21_2 : fld w 21 2 = x1.code := by simp only [fld]; omega
  have f23_2 : fld w 23 2 = x0.code := by simp only [fld]; omega
  refine ⟨by omega, ?_⟩
  unfold decodeWord
  rw [f25_7]
  simp [decOp26, Except.bind, f0_19, f19_2, f21_2, f23_2, predOf_code, ftyOf_code, dstOf_code x2 g2]

theorem RoundTrip.fclass (x0 : Pred) (x1 : FTy) (x2 : Dst) : RoundTrip.Statement (.fclass x0 x1 x2) := by
  intro h w hw
  have hW := Option.some.inj hw
  have b0 := x0.code_lt
  have b1 := x1.code_lt
  have b2 := x2.code_lt
  have g2 : x2.wf = true := h
  have f25_7 : fld w 25 7 = 38 := by simp only [fld]; omega
  have f0_19 : fld w 0 19 = x2.code := by simp only [fld]; omega
  have f19_2 : fld w 19 2 = 3 := by simp only [fld]; omega
  have f21_2 : fld w 21 2 = x1.code := by simp only [fld]; omega
  have f23_2 : fld w 23 2 = x0.code := by simp only [fld]; omega
  refine ⟨by omega, ?_⟩
  unfold decodeWord
  rw [f25_7]
  simp [decOp26, Except.bind, f0_19, f19_2, f21_2, f23_2, predOf_code, ftyOf_code, dstOf_code x2 g2]

theorem RoundTrip.bro (x0 : Pred) (x1 : BitVec 3) (x2 : BitVec 20) : RoundTrip.Statement (.bro x0 x1 x2) := by
  intro _ w hw
  have hW := Option.some.inj hw
  have b0 := x0.code_lt
  have b1 := x1.isLt
  have b2 := x2.isLt
  have f25_7 : fld w 25 7 = 40 := by simp only [fld]; omega
  have f0_20 : fld w 0 20 = x2.toNat := by simp only [fld]; omega
  have f20_3 : fld w 20 3 = x1.toNat := by simp only [fld]; omega
  have f23_2 : fld w 23 2 = x0.code := by simp only [fld]; omega
  refine ⟨by omega, ?_⟩
  unfold decodeWord
  rw [f25_7]
  simp [decOp28, Except.bind, f0_20, f20_3, f23_2, predOf_code]

theorem RoundTrip.br (x0 : Pred) : RoundTrip.Statement (.br x0) := by
  intro _ w hw
  have hW := Option.some.inj hw
  have b0 := x0.code_lt
  have f25_7 : fld w 25 7 = 41 := by simp only [fld]; omega
  have f0_19 : fld w 0 19 = 0 := by simp only [fld]; omega
  have f19_4 : fld w 19 4 = 0 := by simp only [fld]; omega
  have f23_2 : fld w 23 2 = x0.code := by simp only [fld]; omega
  refine ⟨by omega, ?_⟩
  unfold decodeWord
  rw [f25_7]
  simp [decOp29, Except.bind, f0_19, f19_4, f23_2, predOf_code]

theorem RoundTrip.callo (x0 : Pred) (x1 : BitVec 3) (x2 : BitVec 20) : RoundTrip.Statement (.callo x0 x1 x2) := by
  intro _ w hw
  have hW := Option.some.inj hw
  have b0 := x0.code_lt
  have b1 := x1.isLt
  have b2 := x2.isLt
  have f25_7 : fld w 25 7 = 42 := by simp only [fld]; omega
  have f0_20 : fld w 0 20 = x2.toNat := by simp only [fld]; omega
  have f20_3 : fld w 20 3 = x1.toNat := by simp only [fld]; omega
  have f23_2 : fld w 23 2 = x0.code := by simp only [fld]; omega
  refine ⟨by omega, ?_⟩
  unfold decodeWord
  rw [f25_7]
  simp [decOp2a, Except.bind, f0_20, f20_3, f23_2, predOf_code]

theorem RoundTrip.call (x0 : Pred) : RoundTrip.Statement (.call x0) := by
  intro _ w hw
  have hW := Option.some.inj hw
  have b0 := x0.code_lt
  have f25_7 : fld w 25 7 = 43 := by simp only [fld]; omega
  have f0_19 : fld w 0 19 = 0 := by simp only [fld]; omega
  have f19_4 : fld w 19 4 = 0 := by simp only [fld]; omega
  have f23_2 : fld w 23 2 = x0.code := by simp only [fld]; omega
  refine ⟨by omega, ?_⟩
  unfold decodeWord
  rw [f25_7]
  simp [decOp2b, Except.bind, f0_19, f19_4, f23_2, predOf_code]

theorem RoundTrip.ret (x0 : Pred) : RoundTrip.Statement (.ret x0) := by
  intro _ w hw
  have hW := Option.some.inj hw
  have b0 := x0.code_lt
  have f25_7 : fld w 25 7 = 44 := by simp only [fld]; omega
  have f0_19 : fld w 0 19 = 0 := by simp only [fld]; omega
  have f19_4 : fld w 19 4 = 0 := by simp only [fld]; omega
  have f23_2 : fld w 23 2 = x0.code := by simp only [fld]; omega
  refine ⟨by omega, ?_⟩
  unfold decodeWord
  rw [f25_7]
  simp [decOp2c, Except.bind, f0_19, f19_4, f23_2, predOf_code]

theorem RoundTrip.exitt (x0 : Pred) : RoundTrip.Statement (.exitt x0) := by
  intro _ w hw
  have hW := Option.some.inj hw
  have b0 := x0.code_lt
  have f25_7 : fld w 25 7 = 45 := by simp only [fld]; omega
  have f0_19 : fld w 0 19 = 0 := by simp only [fld]; omega
  have f19_4 : fld w 19 4 = 0 := by simp only [fld]; omega
  have f23_2 : fld w 23 2 = x0.code := by simp only [fld]; omega
  refine ⟨by omega, ?_⟩
  unfold decodeWord
  rw [f25_7]
  simp [decOp2d, Except.bind, f0_19, f19_4, f23_2, predOf_code]

theorem RoundTrip.yield (x0 : Pred) (x1 : BitVec 3) (x2 : BitVec 20) : RoundTrip.Statement (.yield x0 x1 x2) := by
  intro _ w hw
  have hW := Option.some.inj hw
  have b0 := x0.code_lt
  have b1 := x1.isLt
  have b2 := x2.isLt
  have f25_7 : fld w 25 7 = 46 := by simp only [fld]; omega
  have f0_20 : fld w 0 20 = x2.toNat := by simp only [fld]; omega
  have f20_3 : fld w 20 3 = x1.toNat := by simp only [fld]; omega
  have f23_2 : fld w 23 2 = x0.code := by simp only [fld]; omega
  refine ⟨by omega, ?_⟩
  unfold decodeWord
  rw [f25_7]
  simp [decOp2e, Except.bind, f0_20, f20_3, f23_2, predOf_code]

theorem RoundTrip.scall (x0 : Pred) (x1 : BitVec 3) (x2 : BitVec 20) : RoundTrip.Statement (.scall x0 x1 x2) := by
  intro _ w hw
  have hW := Option.some.inj hw
  have b0 := x0.code_lt
  have b1 := x1.isLt
  have b2 := x2.isLt
  have f25_7 : fld w 25 7 = 47 := by simp only [fld]; omega
  have f0_20 : fld w 0 20 = x2.toNat := by simp only [fld]; omega
  have f20_3 : fld w 20 3 = x1.toNat := by simp only [fld]; omega
  have f23_2 : fld w 23 2 = x0.code := by simp only [fld]; omega
  refine ⟨by omega, ?_⟩
  unfold decodeWord
  rw [f25_7]
  simp [decOp2f, Except.bind, f0_20, f20_3, f23_2, predOf_code]

theorem RoundTrip.vadd (x0 : Pred) (x1 : Shape) (x2 : Dst) : RoundTrip.Statement (.vadd x0 x1 x2) := by
  intro h w hw
  have hW := Option.some.inj hw
  have b0 := x0.code_lt
  have b1 := x1.code_lt
  have b2 := x2.code_lt
  have g2 : x2.wf = true := h
  have f25_7 : fld w 25 7 = 48 := by simp only [fld]; omega
  have f0_19 : fld w 0 19 = x2.code := by simp only [fld]; omega
  have f19_2 : fld w 19 2 = 0 := by simp only [fld]; omega
  have f21_2 : fld w 21 2 = x1.code := by simp only [fld]; omega
  have f23_2 : fld w 23 2 = x0.code := by simp only [fld]; omega
  refine ⟨by omega, ?_⟩
  unfold decodeWord
  rw [f25_7]
  simp [decOp30, Except.bind, f0_19, f19_2, f21_2, f23_2, predOf_code, shapeOf_code, dstOf_code x2 g2]

theorem RoundTrip.vsub (x0 : Pred) (x1 : Shape) (x2 : Dst) : RoundTrip.Statement (.vsub x0 x1 x2) := by
  intro h w hw
  have hW := Option.some.inj hw
  have b0 := x0.code_lt
  have b1 := x1.code_lt
  have b2 := x2.code_lt
  have g2 : x2.wf = true := h
  have f25_7 : fld w 25 7 = 48 := by simp only [fld]; omega
  have f0_19 : fld w 0 19 = x2.code := by simp only [fld]; omega
  have f19_2 : fld w 19 2 = 1 := by simp only [fld]; omega
  have f21_2 : fld w 21 2 = x1.code := by simp only [fld]; omega
  have f23_2 : fld w 23 2 = x0.code := by simp only [fld]; omega
  refine ⟨by omega, ?_⟩
  unfold decodeWord
  rw [f25_7]
  simp [decOp30, Except.bind, f0_19, f19_2, f21_2, f23_2, predOf_code, shapeOf_code, dstOf_code x2 g2]

theorem RoundTrip.vmul (x0 : Pred) (x1 : Shape) (x2 : Dst) : RoundTrip.Statement (.vmul x0 x1 x2) := by
  intro h w hw
  have hW := Option.some.inj hw
  have b0 := x0.code_lt
  have b1 := x1.code_lt
  have b2 := x2.code_lt
  have g2 : x2.wf = true := h
  have f25_7 : fld w 25 7 = 48 := by simp only [fld]; omega
  have f0_19 : fld w 0 19 = x2.code := by simp only [fld]; omega
  have f19_2 : fld w 19 2 = 2 := by simp only [fld]; omega
  have f21_2 : fld w 21 2 = x1.code := by simp only [fld]; omega
  have f23_2 : fld w 23 2 = x0.code := by simp only [fld]; omega
  refine ⟨by omega, ?_⟩
  unfold decodeWord
  rw [f25_7]
  simp [decOp30, Except.bind, f0_19, f19_2, f21_2, f23_2, predOf_code, shapeOf_code, dstOf_code x2 g2]

theorem RoundTrip.vmulh (x0 : Pred) (x1 : Shape) (x2 : Dst) : RoundTrip.Statement (.vmulh x0 x1 x2) := by
  intro h w hw
  have hW := Option.some.inj hw
  have b0 := x0.code_lt
  have b1 := x1.code_lt
  have b2 := x2.code_lt
  have g2 : x2.wf = true := h
  have f25_7 : fld w 25 7 = 48 := by simp only [fld]; omega
  have f0_19 : fld w 0 19 = x2.code := by simp only [fld]; omega
  have f19_2 : fld w 19 2 = 3 := by simp only [fld]; omega
  have f21_2 : fld w 21 2 = x1.code := by simp only [fld]; omega
  have f23_2 : fld w 23 2 = x0.code := by simp only [fld]; omega
  refine ⟨by omega, ?_⟩
  unfold decodeWord
  rw [f25_7]
  simp [decOp30, Except.bind, f0_19, f19_2, f21_2, f23_2, predOf_code, shapeOf_code, dstOf_code x2 g2]

theorem RoundTrip.vmin (x0 : Pred) (x1 : Shape) (x2 : Dst) : RoundTrip.Statement (.vmin x0 x1 x2) := by
  intro h w hw
  have hW := Option.some.inj hw
  have b0 := x0.code_lt
  have b1 := x1.code_lt
  have b2 := x2.code_lt
  have g2 : x2.wf = true := h
  have f25_7 : fld w 25 7 = 49 := by simp only [fld]; omega
  have f0_19 : fld w 0 19 = x2.code := by simp only [fld]; omega
  have f19_2 : fld w 19 2 = 0 := by simp only [fld]; omega
  have f21_2 : fld w 21 2 = x1.code := by simp only [fld]; omega
  have f23_2 : fld w 23 2 = x0.code := by simp only [fld]; omega
  refine ⟨by omega, ?_⟩
  unfold decodeWord
  rw [f25_7]
  simp [decOp31, Except.bind, f0_19, f19_2, f21_2, f23_2, predOf_code, shapeOf_code, dstOf_code x2 g2]

theorem RoundTrip.vmax (x0 : Pred) (x1 : Shape) (x2 : Dst) : RoundTrip.Statement (.vmax x0 x1 x2) := by
  intro h w hw
  have hW := Option.some.inj hw
  have b0 := x0.code_lt
  have b1 := x1.code_lt
  have b2 := x2.code_lt
  have g2 : x2.wf = true := h
  have f25_7 : fld w 25 7 = 49 := by simp only [fld]; omega
  have f0_19 : fld w 0 19 = x2.code := by simp only [fld]; omega
  have f19_2 : fld w 19 2 = 1 := by simp only [fld]; omega
  have f21_2 : fld w 21 2 = x1.code := by simp only [fld]; omega
  have f23_2 : fld w 23 2 = x0.code := by simp only [fld]; omega
  refine ⟨by omega, ?_⟩
  unfold decodeWord
  rw [f25_7]
  simp [decOp31, Except.bind, f0_19, f19_2, f21_2, f23_2, predOf_code, shapeOf_code, dstOf_code x2 g2]

theorem RoundTrip.vand (x0 : Pred) (x1 : Shape) (x2 : Dst) : RoundTrip.Statement (.vand x0 x1 x2) := by
  intro h w hw
  have hW := Option.some.inj hw
  have b0 := x0.code_lt
  have b1 := x1.code_lt
  have b2 := x2.code_lt
  have g2 : x2.wf = true := h
  have f25_7 : fld w 25 7 = 49 := by simp only [fld]; omega
  have f0_19 : fld w 0 19 = x2.code := by simp only [fld]; omega
  have f19_2 : fld w 19 2 = 2 := by simp only [fld]; omega
  have f21_2 : fld w 21 2 = x1.code := by simp only [fld]; omega
  have f23_2 : fld w 23 2 = x0.code := by simp only [fld]; omega
  refine ⟨by omega, ?_⟩
  unfold decodeWord
  rw [f25_7]
  simp [decOp31, Except.bind, f0_19, f19_2, f21_2, f23_2, predOf_code, shapeOf_code, dstOf_code x2 g2]

theorem RoundTrip.vor (x0 : Pred) (x1 : Shape) (x2 : Dst) : RoundTrip.Statement (.vor x0 x1 x2) := by
  intro h w hw
  have hW := Option.some.inj hw
  have b0 := x0.code_lt
  have b1 := x1.code_lt
  have b2 := x2.code_lt
  have g2 : x2.wf = true := h
  have f25_7 : fld w 25 7 = 49 := by simp only [fld]; omega
  have f0_19 : fld w 0 19 = x2.code := by simp only [fld]; omega
  have f19_2 : fld w 19 2 = 3 := by simp only [fld]; omega
  have f21_2 : fld w 21 2 = x1.code := by simp only [fld]; omega
  have f23_2 : fld w 23 2 = x0.code := by simp only [fld]; omega
  refine ⟨by omega, ?_⟩
  unfold decodeWord
  rw [f25_7]
  simp [decOp31, Except.bind, f0_19, f19_2, f21_2, f23_2, predOf_code, shapeOf_code, dstOf_code x2 g2]

theorem RoundTrip.vxor (x0 : Pred) (x1 : Shape) (x2 : Dst) : RoundTrip.Statement (.vxor x0 x1 x2) := by
  intro h w hw
  have hW := Option.some.inj hw
  have b0 := x0.code_lt
  have b1 := x1.code_lt
  have b2 := x2.code_lt
  have g2 : x2.wf = true := h
  have f25_7 : fld w 25 7 = 50 := by simp only [fld]; omega
  have f0_19 : fld w 0 19 = x2.code := by simp only [fld]; omega
  have f19_2 : fld w 19 2 = 0 := by simp only [fld]; omega
  have f21_2 : fld w 21 2 = x1.code := by simp only [fld]; omega
  have f23_2 : fld w 23 2 = x0.code := by simp only [fld]; omega
  refine ⟨by omega, ?_⟩
  unfold decodeWord
  rw [f25_7]
  simp [decOp32, Except.bind, f0_19, f19_2, f21_2, f23_2, predOf_code, shapeOf_code, dstOf_code x2 g2]

theorem RoundTrip.vshl (x0 : Pred) (x1 : Shape) (x2 : Dst) : RoundTrip.Statement (.vshl x0 x1 x2) := by
  intro h w hw
  have hW := Option.some.inj hw
  have b0 := x0.code_lt
  have b1 := x1.code_lt
  have b2 := x2.code_lt
  have g2 : x2.wf = true := h
  have f25_7 : fld w 25 7 = 50 := by simp only [fld]; omega
  have f0_19 : fld w 0 19 = x2.code := by simp only [fld]; omega
  have f19_2 : fld w 19 2 = 1 := by simp only [fld]; omega
  have f21_2 : fld w 21 2 = x1.code := by simp only [fld]; omega
  have f23_2 : fld w 23 2 = x0.code := by simp only [fld]; omega
  refine ⟨by omega, ?_⟩
  unfold decodeWord
  rw [f25_7]
  simp [decOp32, Except.bind, f0_19, f19_2, f21_2, f23_2, predOf_code, shapeOf_code, dstOf_code x2 g2]

theorem RoundTrip.vshr (x0 : Pred) (x1 : Shape) (x2 : Dst) : RoundTrip.Statement (.vshr x0 x1 x2) := by
  intro h w hw
  have hW := Option.some.inj hw
  have b0 := x0.code_lt
  have b1 := x1.code_lt
  have b2 := x2.code_lt
  have g2 : x2.wf = true := h
  have f25_7 : fld w 25 7 = 50 := by simp only [fld]; omega
  have f0_19 : fld w 0 19 = x2.code := by simp only [fld]; omega
  have f19_2 : fld w 19 2 = 2 := by simp only [fld]; omega
  have f21_2 : fld w 21 2 = x1.code := by simp only [fld]; omega
  have f23_2 : fld w 23 2 = x0.code := by simp only [fld]; omega
  refine ⟨by omega, ?_⟩
  unfold decodeWord
  rw [f25_7]
  simp [decOp32, Except.bind, f0_19, f19_2, f21_2, f23_2, predOf_code, shapeOf_code, dstOf_code x2 g2]

theorem RoundTrip.vsra (x0 : Pred) (x1 : Shape) (x2 : Dst) : RoundTrip.Statement (.vsra x0 x1 x2) := by
  intro h w hw
  have hW := Option.some.inj hw
  have b0 := x0.code_lt
  have b1 := x1.code_lt
  have b2 := x2.code_lt
  have g2 : x2.wf = true := h
  have f25_7 : fld w 25 7 = 50 := by simp only [fld]; omega
  have f0_19 : fld w 0 19 = x2.code := by simp only [fld]; omega
  have f19_2 : fld w 19 2 = 3 := by simp only [fld]; omega
  have f21_2 : fld w 21 2 = x1.code := by simp only [fld]; omega
  have f23_2 : fld w 23 2 = x0.code := by simp only [fld]; omega
  refine ⟨by omega, ?_⟩
  unfold decodeWord
  rw [f25_7]
  simp [decOp32, Except.bind, f0_19, f19_2, f21_2, f23_2, predOf_code, shapeOf_code, dstOf_code x2 g2]

theorem RoundTrip.vfadd (x0 : Pred) (x1 : VTy) (x2 : Dst) : RoundTrip.Statement (.vfadd x0 x1 x2) := by
  intro h w hw
  have hW := Option.some.inj hw
  have b0 := x0.code_lt
  have b1 := x1.code_lt
  have b2 := x2.code_lt
  have g2 : x2.wf = true := h
  have f25_7 : fld w 25 7 = 51 := by simp only [fld]; omega
  have f0_19 : fld w 0 19 = x2.code := by simp only [fld]; omega
  have f19_2 : fld w 19 2 = 0 := by simp only [fld]; omega
  have f21_2 : fld w 21 2 = x1.code := by simp only [fld]; omega
  have f23_2 : fld w 23 2 = x0.code := by simp only [fld]; omega
  refine ⟨by omega, ?_⟩
  unfold decodeWord
  rw [f25_7]
  simp [decOp33, Except.bind, f0_19, f19_2, f21_2, f23_2, predOf_code, vtyOf_code, dstOf_code x2 g2]

theorem RoundTrip.vfsub (x0 : Pred) (x1 : VTy) (x2 : Dst) : RoundTrip.Statement (.vfsub x0 x1 x2) := by
  intro h w hw
  have hW := Option.some.inj hw
  have b0 := x0.code_lt
  have b1 := x1.code_lt
  have b2 := x2.code_lt
  have g2 : x2.wf = true := h
  have f25_7 : fld w 25 7 = 51 := by simp only [fld]; omega
  have f0_19 : fld w 0 19 = x2.code := by simp only [fld]; omega
  have f19_2 : fld w 19 2 = 1 := by simp only [fld]; omega
  have f21_2 : fld w 21 2 = x1.code := by simp only [fld]; omega
  have f23_2 : fld w 23 2 = x0.code := by simp only [fld]; omega
  refine ⟨by omega, ?_⟩
  unfold decodeWord
  rw [f25_7]
  simp [decOp33, Except.bind, f0_19, f19_2, f21_2, f23_2, predOf_code, vtyOf_code, dstOf_code x2 g2]

theorem RoundTrip.vfmul (x0 : Pred) (x1 : VTy) (x2 : Dst) : RoundTrip.Statement (.vfmul x0 x1 x2) := by
  intro h w hw
  have hW := Option.some.inj hw
  have b0 := x0.code_lt
  have b1 := x1.code_lt
  have b2 := x2.code_lt
  have g2 : x2.wf = true := h
  have f25_7 : fld w 25 7 = 51 := by simp only [fld]; omega
  have f0_19 : fld w 0 19 = x2.code := by simp only [fld]; omega
  have f19_2 : fld w 19 2 = 2 := by simp only [fld]; omega
  have f21_2 : fld w 21 2 = x1.code := by simp only [fld]; omega
  have f23_2 : fld w 23 2 = x0.code := by simp only [fld]; omega
  refine ⟨by omega, ?_⟩
  unfold decodeWord
  rw [f25_7]
  simp [decOp33, Except.bind, f0_19, f19_2, f21_2, f23_2, predOf_code, vtyOf_code, dstOf_code x2 g2]

theorem RoundTrip.vfdiv (x0 : Pred) (x1 : VTy) (x2 : Dst) : RoundTrip.Statement (.vfdiv x0 x1 x2) := by
  intro h w hw
  have hW := Option.some.inj hw
  have b0 := x0.code_lt
  have b1 := x1.code_lt
  have b2 := x2.code_lt
  have g2 : x2.wf = true := h
  have f25_7 : fld w 25 7 = 51 := by simp only [fld]; omega
  have f0_19 : fld w 0 19 = x2.code := by simp only [fld]; omega
  have f19_2 : fld w 19 2 = 3 := by simp only [fld]; omega
  have f21_2 : fld w 21 2 = x1.code := by simp only [fld]; omega
  have f23_2 : fld w 23 2 = x0.code := by simp only [fld]; omega
  refine ⟨by omega, ?_⟩
  unfold decodeWord
  rw [f25_7]
  simp [decOp33, Except.bind, f0_19, f19_2, f21_2, f23_2, predOf_code, vtyOf_code, dstOf_code x2 g2]

theorem RoundTrip.vfmin (x0 : Pred) (x1 : VTy) (x2 : Dst) : RoundTrip.Statement (.vfmin x0 x1 x2) := by
  intro h w hw
  have hW := Option.some.inj hw
  have b0 := x0.code_lt
  have b1 := x1.code_lt
  have b2 := x2.code_lt
  have g2 : x2.wf = true := h
  have f25_7 : fld w 25 7 = 52 := by simp only [fld]; omega
  have f0_19 : fld w 0 19 = x2.code := by simp only [fld]; omega
  have f19_2 : fld w 19 2 = 0 := by simp only [fld]; omega
  have f21_2 : fld w 21 2 = x1.code := by simp only [fld]; omega
  have f23_2 : fld w 23 2 = x0.code := by simp only [fld]; omega
  refine ⟨by omega, ?_⟩
  unfold decodeWord
  rw [f25_7]
  simp [decOp34, Except.bind, f0_19, f19_2, f21_2, f23_2, predOf_code, vtyOf_code, dstOf_code x2 g2]

theorem RoundTrip.vfmax (x0 : Pred) (x1 : VTy) (x2 : Dst) : RoundTrip.Statement (.vfmax x0 x1 x2) := by
  intro h w hw
  have hW := Option.some.inj hw
  have b0 := x0.code_lt
  have b1 := x1.code_lt
  have b2 := x2.code_lt
  have g2 : x2.wf = true := h
  have f25_7 : fld w 25 7 = 52 := by simp only [fld]; omega
  have f0_19 : fld w 0 19 = x2.code := by simp only [fld]; omega
  have f19_2 : fld w 19 2 = 1 := by simp only [fld]; omega
  have f21_2 : fld w 21 2 = x1.code := by simp only [fld]; omega
  have f23_2 : fld w 23 2 = x0.code := by simp only [fld]; omega
  refine ⟨by omega, ?_⟩
  unfold decodeWord
  rw [f25_7]
  simp [decOp34, Except.bind, f0_19, f19_2, f21_2, f23_2, predOf_code, vtyOf_code, dstOf_code x2 g2]

theorem RoundTrip.vfsqrt (x0 : Pred) (x1 : VTy) (x2 : Dst) : RoundTrip.Statement (.vfsqrt x0 x1 x2) := by
  intro h w hw
  have hW := Option.some.inj hw
  have b0 := x0.code_lt
  have b1 := x1.code_lt
  have b2 := x2.code_lt
  have g2 : x2.wf = true := h
  have f25_7 : fld w 25 7 = 52 := by simp only [fld]; omega
  have f0_19 : fld w 0 19 = x2.code := by simp only [fld]; omega
  have f19_2 : fld w 19 2 = 2 := by simp only [fld]; omega
  have f21_2 : fld w 21 2 = x1.code := by simp only [fld]; omega
  have f23_2 : fld w 23 2 = x0.code := by simp only [fld]; omega
  refine ⟨by omega, ?_⟩
  unfold decodeWord
  rw [f25_7]
  simp [decOp34, Except.bind, f0_19, f19_2, f21_2, f23_2, predOf_code, vtyOf_code, dstOf_code x2 g2]

theorem RoundTrip.vrcp (x0 : Pred) (x1 : VTy) (x2 : Dst) : RoundTrip.Statement (.vrcp x0 x1 x2) := by
  intro h w hw
  have hW := Option.some.inj hw
  have b0 := x0.code_lt
  have b1 := x1.code_lt
  have b2 := x2.code_lt
  have g2 : x2.wf = true := h
  have f25_7 : fld w 25 7 = 52 := by simp only [fld]; omega
  have f0_19 : fld w 0 19 = x2.code := by simp only [fld]; omega
  have f19_2 : fld w 19 2 = 3 := by simp only [fld]; omega
  have f21_2 : fld w 21 2 = x1.code := by simp only [fld]; omega
  have f23_2 : fld w 23 2 = x0.code := by simp only [fld]; omega
  refine ⟨by omega, ?_⟩
  unfold decodeWord
  rw [f25_7]
  simp [decOp34, Except.bind, f0_19, f19_2, f21_2, f23_2, predOf_code, vtyOf_code, dstOf_code x2 g2]

theorem RoundTrip.vrsq (x0 : Pred) (x1 : VTy) (x2 : Dst) : RoundTrip.Statement (.vrsq x0 x1 x2) := by
  intro h w hw
  have hW := Option.some.inj hw
  have b0 := x0.code_lt
  have b1 := x1.code_lt
  have b2 := x2.code_lt
  have g2 : x2.wf = true := h
  have f25_7 : fld w 25 7 = 53 := by simp only [fld]; omega
  have f0_19 : fld w 0 19 = x2.code := by simp only [fld]; omega
  have f19_2 : fld w 19 2 = 0 := by simp only [fld]; omega
  have f21_2 : fld w 21 2 = x1.code := by simp only [fld]; omega
  have f23_2 : fld w 23 2 = x0.code := by simp only [fld]; omega
  refine ⟨by omega, ?_⟩
  unfold decodeWord
  rw [f25_7]
  simp [decOp35, Except.bind, f0_19, f19_2, f21_2, f23_2, predOf_code, vtyOf_code, dstOf_code x2 g2]

theorem RoundTrip.vexp2 (x0 : Pred) (x1 : VTy) (x2 : Dst) : RoundTrip.Statement (.vexp2 x0 x1 x2) := by
  intro h w hw
  have hW := Option.some.inj hw
  have b0 := x0.code_lt
  have b1 := x1.code_lt
  have b2 := x2.code_lt
  have g2 : x2.wf = true := h
  have f25_7 : fld w 25 7 = 53 := by simp only [fld]; omega
  have f0_19 : fld w 0 19 = x2.code := by simp only [fld]; omega
  have f19_2 : fld w 19 2 = 1 := by simp only [fld]; omega
  have f21_2 : fld w 21 2 = x1.code := by simp only [fld]; omega
  have f23_2 : fld w 23 2 = x0.code := by simp only [fld]; omega
  refine ⟨by omega, ?_⟩
  unfold decodeWord
  rw [f25_7]
  simp [decOp35, Except.bind, f0_19, f19_2, f21_2, f23_2, predOf_code, vtyOf_code, dstOf_code x2 g2]

theorem RoundTrip.vlog2 (x0 : Pred) (x1 : VTy) (x2 : Dst) : RoundTrip.Statement (.vlog2 x0 x1 x2) := by
  intro h w hw
  have hW := Option.some.inj hw
  have b0 := x0.code_lt
  have b1 := x1.code_lt
  have b2 := x2.code_lt
  have g2 : x2.wf = true := h
  have f25_7 : fld w 25 7 = 53 := by simp only [fld]; omega
  have f0_19 : fld w 0 19 = x2.code := by simp only [fld]; omega
  have f19_2 : fld w 19 2 = 2 := by simp only [fld]; omega
  have f21_2 : fld w 21 2 = x1.code := by simp only [fld]; omega
  have f23_2 : fld w 23 2 = x0.code := by simp only [fld]; omega
  refine ⟨by omega, ?_⟩
  unfold decodeWord
  rw [f25_7]
  simp [decOp35, Except.bind, f0_19, f19_2, f21_2, f23_2, predOf_code, vtyOf_code, dstOf_code x2 g2]

theorem RoundTrip.vffma (x0 : Pred) (x1 : VTy) (x2 : Dst) : RoundTrip.Statement (.vffma x0 x1 x2) := by
  intro h w hw
  have hW := Option.some.inj hw
  have b0 := x0.code_lt
  have b1 := x1.code_lt
  have b2 := x2.code_lt
  have g2 : x2.wf = true := h
  have f25_7 : fld w 25 7 = 54 := by simp only [fld]; omega
  have f0_19 : fld w 0 19 = x2.code := by simp only [fld]; omega
  have f19_2 : fld w 19 2 = 0 := by simp only [fld]; omega
  have f21_2 : fld w 21 2 = x1.code := by simp only [fld]; omega
  have f23_2 : fld w 23 2 = x0.code := by simp only [fld]; omega
  refine ⟨by omega, ?_⟩
  unfold decodeWord
  rw [f25_7]
  simp [decOp36, Except.bind, f0_19, f19_2, f21_2, f23_2, predOf_code, vtyOf_code, dstOf_code x2 g2]

theorem RoundTrip.vffms (x0 : Pred) (x1 : VTy) (x2 : Dst) : RoundTrip.Statement (.vffms x0 x1 x2) := by
  intro h w hw
  have hW := Option.some.inj hw
  have b0 := x0.code_lt
  have b1 := x1.code_lt
  have b2 := x2.code_lt
  have g2 : x2.wf = true := h
  have f25_7 : fld w 25 7 = 54 := by simp only [fld]; omega
  have f0_19 : fld w 0 19 = x2.code := by simp only [fld]; omega
  have f19_2 : fld w 19 2 = 1 := by simp only [fld]; omega
  have f21_2 : fld w 21 2 = x1.code := by simp only [fld]; omega
  have f23_2 : fld w 23 2 = x0.code := by simp only [fld]; omega
  refine ⟨by omega, ?_⟩
  unfold decodeWord
  rw [f25_7]
  simp [decOp36, Except.bind, f0_19, f19_2, f21_2, f23_2, predOf_code, vtyOf_code, dstOf_code x2 g2]

theorem RoundTrip.vffnma (x0 : Pred) (x1 : VTy) (x2 : Dst) : RoundTrip.Statement (.vffnma x0 x1 x2) := by
  intro h w hw
  have hW := Option.some.inj hw
  have b0 := x0.code_lt
  have b1 := x1.code_lt
  have b2 := x2.code_lt
  have g2 : x2.wf = true := h
  have f25_7 : fld w 25 7 = 54 := by simp only [fld]; omega
  have f0_19 : fld w 0 19 = x2.code := by simp only [fld]; omega
  have f19_2 : fld w 19 2 = 2 := by simp only [fld]; omega
  have f21_2 : fld w 21 2 = x1.code := by simp only [fld]; omega
  have f23_2 : fld w 23 2 = x0.code := by simp only [fld]; omega
  refine ⟨by omega, ?_⟩
  unfold decodeWord
  rw [f25_7]
  simp [decOp36, Except.bind, f0_19, f19_2, f21_2, f23_2, predOf_code, vtyOf_code, dstOf_code x2 g2]

theorem RoundTrip.vffnms (x0 : Pred) (x1 : VTy) (x2 : Dst) : RoundTrip.Statement (.vffnms x0 x1 x2) := by
  intro h w hw
  have hW := Option.some.inj hw
  have b0 := x0.code_lt
  have b1 := x1.code_lt
  have b2 := x2.code_lt
  have g2 : x2.wf = true := h
  have f25_7 : fld w 25 7 = 54 := by simp only [fld]; omega
  have f0_19 : fld w 0 19 = x2.code := by simp only [fld]; omega
  have f19_2 : fld w 19 2 = 3 := by simp only [fld]; omega
  have f21_2 : fld w 21 2 = x1.code := by simp only [fld]; omega
  have f23_2 : fld w 23 2 = x0.code := by simp only [fld]; omega
  refine ⟨by omega, ?_⟩
  unfold decodeWord
  rw [f25_7]
  simp [decOp36, Except.bind, f0_19, f19_2, f21_2, f23_2, predOf_code, vtyOf_code, dstOf_code x2 g2]

theorem RoundTrip.vcvt (x0 : Pred) (x1 : Dst) : RoundTrip.Statement (.vcvt x0 x1) := by
  intro h w hw
  have hW := Option.some.inj hw
  have b0 := x0.code_lt
  have b1 := x1.code_lt
  have g1 : x1.wf = true := h
  have f25_7 : fld w 25 7 = 55 := by simp only [fld]; omega
  have f0_19 : fld w 0 19 = x1.code := by simp only [fld]; omega
  have f19_4 : fld w 19 4 = 0 := by simp only [fld]; omega
  have f23_2 : fld w 23 2 = x0.code := by simp only [fld]; omega
  refine ⟨by omega, ?_⟩
  unfold decodeWord
  rw [f25_7]
  simp [decOp37, Except.bind, f0_19, f19_4, f23_2, predOf_code, dstOf_code x1 g1]

theorem RoundTrip.vqnt (x0 : Pred) (x1 : Dst) : RoundTrip.Statement (.vqnt x0 x1) := by
  intro h w hw
  have hW := Option.some.inj hw
  have b0 := x0.code_lt
  have b1 := x1.code_lt
  have g1 : x1.wf = true := h
  have f25_7 : fld w 25 7 = 56 := by simp only [fld]; omega
  have f0_19 : fld w 0 19 = x1.code := by simp only [fld]; omega
  have f19_4 : fld w 19 4 = 0 := by simp only [fld]; omega
  have f23_2 : fld w 23 2 = x0.code := by simp only [fld]; omega
  refine ⟨by omega, ?_⟩
  unfold decodeWord
  rw [f25_7]
  simp [decOp38, Except.bind, f0_19, f19_4, f23_2, predOf_code, dstOf_code x1 g1]

theorem RoundTrip.vdqnt (x0 : Pred) (x1 : Dst) : RoundTrip.Statement (.vdqnt x0 x1) := by
  intro h w hw
  have hW := Option.some.inj hw
  have b0 := x0.code_lt
  have b1 := x1.code_lt
  have g1 : x1.wf = true := h
  have f25_7 : fld w 25 7 = 57 := by simp only [fld]; omega
  have f0_19 : fld w 0 19 = x1.code := by simp only [fld]; omega
  have f19_4 : fld w 19 4 = 0 := by simp only [fld]; omega
  have f23_2 : fld w 23 2 = x0.code := by simp only [fld]; omega
  refine ⟨by omega, ?_⟩
  unfold decodeWord
  rw [f25_7]
  simp [decOp39, Except.bind, f0_19, f19_4, f23_2, predOf_code, dstOf_code x1 g1]

theorem RoundTrip.vcmp (x0 : Pred) (x1 : Shape) (x2 : VCond) (x3 : Dst) : RoundTrip.Statement (.vcmp x0 x1 x2 x3) := by
  intro h w hw
  have hW := Option.some.inj hw
  have b0 := x0.code_lt
  have b1 := x1.code_lt
  have b2 := x2.code_lt
  have b3 := x3.code_lt
  have g3 : x3.wf = true := h
  have f25_7 : fld w 25 7 = 58 := by simp only [fld]; omega
  have f0_19 : fld w 0 19 = x3.code := by simp only [fld]; omega
  have f19_2 : fld w 19 2 = x2.code := by simp only [fld]; omega
  have f21_2 : fld w 21 2 = x1.code := by simp only [fld]; omega
  have f23_2 : fld w 23 2 = x0.code := by simp only [fld]; omega
  refine ⟨by omega, ?_⟩
  unfold decodeWord
  rw [f25_7]
  simp [decOp3a, Except.bind, f0_19, f19_2, f21_2, f23_2, predOf_code, shapeOf_code, vcondOf_code, dstOf_code x3 g3]

theorem RoundTrip.vfcmp (x0 : Pred) (x1 : VTy) (x2 : VFCond) (x3 : Dst) : RoundTrip.Statement (.vfcmp x0 x1 x2 x3) := by
  intro h w hw
  have hW := Option.some.inj hw
  have b0 := x0.code_lt
  have b1 := x1.code_lt
  have b2 := x2.code_lt
  have b3 := x3.code_lt
  have g3 : x3.wf = true := h
  have f25_7 : fld w 25 7 = 59 := by simp only [fld]; omega
  have f0_19 : fld w 0 19 = x3.code := by simp only [fld]; omega
  have f19_2 : fld w 19 2 = x2.code := by simp only [fld]; omega
  have f21_2 : fld w 21 2 = x1.code := by simp only [fld]; omega
  have f23_2 : fld w 23 2 = x0.code := by simp only [fld]; omega
  refine ⟨by omega, ?_⟩
  unfold decodeWord
  rw [f25_7]
  simp [decOp3b, Except.bind, f0_19, f19_2, f21_2, f23_2, predOf_code, vtyOf_code, vfcondOf_code, dstOf_code x3 g3]

theorem RoundTrip.vsel (x0 : Pred) (x1 : Shape) (x2 : Dst) : RoundTrip.Statement (.vsel x0 x1 x2) := by
  intro h w hw
  have hW := Option.some.inj hw
  have b0 := x0.code_lt
  have b1 := x1.code_lt
  have b2 := x2.code_lt
  have g2 : x2.wf = true := h
  have f25_7 : fld w 25 7 = 60 := by simp only [fld]; omega
  have f0_19 : fld w 0 19 = x2.code := by simp only [fld]; omega
  have f19_2 : fld w 19 2 = 0 := by simp only [fld]; omega
  have f21_2 : fld w 21 2 = x1.code := by simp only [fld]; omega
  have f23_2 : fld w 23 2 = x0.code := by simp only [fld]; omega
  refine ⟨by omega, ?_⟩
  unfold decodeWord
  rw [f25_7]
  simp [decOp3c, Except.bind, f0_19, f19_2, f21_2, f23_2, predOf_code, shapeOf_code, dstOf_code x2 g2]

theorem RoundTrip.vbcast (x0 : Pred) (x1 : Shape) (x2 : Dst) : RoundTrip.Statement (.vbcast x0 x1 x2) := by
  intro h w hw
  have hW := Option.some.inj hw
  have b0 := x0.code_lt
  have b1 := x1.code_lt
  have b2 := x2.code_lt
  have g2 : x2.wf = true := h
  have f25_7 : fld w 25 7 = 61 := by simp only [fld]; omega
  have f0_19 : fld w 0 19 = x2.code := by simp only [fld]; omega
  have f19_2 : fld w 19 2 = 0 := by simp only [fld]; omega
  have f21_2 : fld w 21 2 = x1.code := by simp only [fld]; omega
  have f23_2 : fld w 23 2 = x0.code := by simp only [fld]; omega
  refine ⟨by omega, ?_⟩
  unfold decodeWord
  rw [f25_7]
  simp [decOp3d, Except.bind, f0_19, f19_2, f21_2, f23_2, predOf_code, shapeOf_code, dstOf_code x2 g2]

theorem RoundTrip.vextr (x0 : Pred) (x1 : Shape) (x2 : Dst) : RoundTrip.Statement (.vextr x0 x1 x2) := by
  intro h w hw
  have hW := Option.some.inj hw
  have b0 := x0.code_lt
  have b1 := x1.code_lt
  have b2 := x2.code_lt
  have g2 : x2.wf = true := h
  have f25_7 : fld w 25 7 = 62 := by simp only [fld]; omega
  have f0_19 : fld w 0 19 = x2.code := by simp only [fld]; omega
  have f19_2 : fld w 19 2 = 0 := by simp only [fld]; omega
  have f21_2 : fld w 21 2 = x1.code := by simp only [fld]; omega
  have f23_2 : fld w 23 2 = x0.code := by simp only [fld]; omega
  refine ⟨by omega, ?_⟩
  unfold decodeWord
  rw [f25_7]
  simp [decOp3e, Except.bind, f0_19, f19_2, f21_2, f23_2, predOf_code, shapeOf_code, dstOf_code x2 g2]

theorem RoundTrip.vins (x0 : Pred) (x1 : Shape) (x2 : Dst) : RoundTrip.Statement (.vins x0 x1 x2) := by
  intro h w hw
  have hW := Option.some.inj hw
  have b0 := x0.code_lt
  have b1 := x1.code_lt
  have b2 := x2.code_lt
  have g2 : x2.wf = true := h
  have f25_7 : fld w 25 7 = 63 := by simp only [fld]; omega
  have f0_19 : fld w 0 19 = x2.code := by simp only [fld]; omega
  have f19_2 : fld w 19 2 = 0 := by simp only [fld]; omega
  have f21_2 : fld w 21 2 = x1.code := by simp only [fld]; omega
  have f23_2 : fld w 23 2 = x0.code := by simp only [fld]; omega
  refine ⟨by omega, ?_⟩
  unfold decodeWord
  rw [f25_7]
  simp [decOp3f, Except.bind, f0_19, f19_2, f21_2, f23_2, predOf_code, shapeOf_code, dstOf_code x2 g2]

theorem RoundTrip.vshuf (x0 : Pred) (x1 : Shape) (x2 : Dst) : RoundTrip.Statement (.vshuf x0 x1 x2) := by
  intro h w hw
  have hW := Option.some.inj hw
  have b0 := x0.code_lt
  have b1 := x1.code_lt
  have b2 := x2.code_lt
  have g2 : x2.wf = true := h
  have f25_7 : fld w 25 7 = 64 := by simp only [fld]; omega
  have f0_19 : fld w 0 19 = x2.code := by simp only [fld]; omega
  have f19_2 : fld w 19 2 = 0 := by simp only [fld]; omega
  have f21_2 : fld w 21 2 = x1.code := by simp only [fld]; omega
  have f23_2 : fld w 23 2 = x0.code := by simp only [fld]; omega
  refine ⟨by omega, ?_⟩
  unfold decodeWord
  rw [f25_7]
  simp [decOp40, Except.bind, f0_19, f19_2, f21_2, f23_2, predOf_code, shapeOf_code, dstOf_code x2 g2]

theorem RoundTrip.vred (x0 : Pred) (x1 : Dst) : RoundTrip.Statement (.vred x0 x1) := by
  intro h w hw
  have hW := Option.some.inj hw
  have b0 := x0.code_lt
  have b1 := x1.code_lt
  have g1 : x1.wf = true := h
  have f25_7 : fld w 25 7 = 65 := by simp only [fld]; omega
  have f0_19 : fld w 0 19 = x1.code := by simp only [fld]; omega
  have f19_4 : fld w 19 4 = 0 := by simp only [fld]; omega
  have f23_2 : fld w 23 2 = x0.code := by simp only [fld]; omega
  refine ⟨by omega, ?_⟩
  unfold decodeWord
  rw [f25_7]
  simp [decOp41, Except.bind, f0_19, f19_4, f23_2, predOf_code, dstOf_code x1 g1]

theorem RoundTrip.vscan (x0 : Pred) (x1 : Dst) : RoundTrip.Statement (.vscan x0 x1) := by
  intro h w hw
  have hW := Option.some.inj hw
  have b0 := x0.code_lt
  have b1 := x1.code_lt
  have g1 : x1.wf = true := h
  have f25_7 : fld w 25 7 = 66 := by simp only [fld]; omega
  have f0_19 : fld w 0 19 = x1.code := by simp only [fld]; omega
  have f19_4 : fld w 19 4 = 0 := by simp only [fld]; omega
  have f23_2 : fld w 23 2 = x0.code := by simp only [fld]; omega
  refine ⟨by omega, ?_⟩
  unfold decodeWord
  rw [f25_7]
  simp [decOp42, Except.bind, f0_19, f19_4, f23_2, predOf_code, dstOf_code x1 g1]

theorem RoundTrip.vdot (x0 : Pred) (x1 : Dst) : RoundTrip.Statement (.vdot x0 x1) := by
  intro h w hw
  have hW := Option.some.inj hw
  have b0 := x0.code_lt
  have b1 := x1.code_lt
  have g1 : x1.wf = true := h
  have f25_7 : fld w 25 7 = 67 := by simp only [fld]; omega
  have f0_19 : fld w 0 19 = x1.code := by simp only [fld]; omega
  have f19_4 : fld w 19 4 = 0 := by simp only [fld]; omega
  have f23_2 : fld w 23 2 = x0.code := by simp only [fld]; omega
  refine ⟨by omega, ?_⟩
  unfold decodeWord
  rw [f25_7]
  simp [decOp43, Except.bind, f0_19, f19_4, f23_2, predOf_code, dstOf_code x1 g1]

theorem RoundTrip.ldZb (x0 : Pred) (x1 : BitVec 5) (x2 : BitVec 9) (x3 : Tgt) : RoundTrip.Statement (.ldZb x0 x1 x2 x3) := by
  intro h w hw
  have hW := Option.some.inj hw
  have b0 := x0.code_lt
  have b1 := x1.isLt
  have b2 := x2.isLt
  have b3 := x3.code_lt
  have g3 : x3.wf = true := h
  have f25_7 : fld w 25 7 = 68 := by simp only [fld]; omega
  have f0_9 : fld w 0 9 = x3.code := by simp only [fld]; omega
  have f9_9 : fld w 9 9 = x2.toNat := by simp only [fld]; omega
  have f18_5 : fld w 18 5 = x1.toNat := by simp only [fld]; omega
  have f23_2 : fld w 23 2 = x0.code := by simp only [fld]; omega
  refine ⟨by omega, ?_⟩
  unfold decodeWord
  rw [f25_7]
  simp [decOp44, Except.bind, f0_9, f9_9, f18_5, f23_2, predOf_code, tgtOf_code x3 g3]

theorem RoundTrip.ldZh (x0 : Pred) (x1 : BitVec 5) (x2 : BitVec 9) (x3 : Tgt) : RoundTrip.Statement (.ldZh x0 x1 x2 x3) := by
  intro h w hw
  have hW := Option.some.inj hw
  have b0 := x0.code_lt
  have b1 := x1.isLt
  have b2 := x2.isLt
  have b3 := x3.code_lt
  have g3 : x3.wf = true := h
  have f25_7 : fld w 25 7 = 69 := by simp only [fld]; omega
  have f0_9 : fld w 0 9 = x3.code := by simp only [fld]; omega
  have f9_9 : fld w 9 9 = x2.toNat := by simp only [fld]; omega
  have f18_5 : fld w 18 5 = x1.toNat := by simp only [fld]; omega
  have f23_2 : fld w 23 2 = x0.code := by simp only [fld]; omega
  refine ⟨by omega, ?_⟩
  unfold decodeWord
  rw [f25_7]
  simp [decOp45, Except.bind, f0_9, f9_9, f18_5, f23_2, predOf_code, tgtOf_code x3 g3]

theorem RoundTrip.ldZw (x0 : Pred) (x1 : BitVec 5) (x2 : BitVec 9) (x3 : Tgt) : RoundTrip.Statement (.ldZw x0 x1 x2 x3) := by
  intro h w hw
  have hW := Option.some.inj hw
  have b0 := x0.code_lt
  have b1 := x1.isLt
  have b2 := x2.isLt
  have b3 := x3.code_lt
  have g3 : x3.wf = true := h
  have f25_7 : fld w 25 7 = 70 := by simp only [fld]; omega
  have f0_9 : fld w 0 9 = x3.code := by simp only [fld]; omega
  have f9_9 : fld w 9 9 = x2.toNat := by simp only [fld]; omega
  have f18_5 : fld w 18 5 = x1.toNat := by simp only [fld]; omega
  have f23_2 : fld w 23 2 = x0.code := by simp only [fld]; omega
  refine ⟨by omega, ?_⟩
  unfold decodeWord
  rw [f25_7]
  simp [decOp46, Except.bind, f0_9, f9_9, f18_5, f23_2, predOf_code, tgtOf_code x3 g3]

theorem RoundTrip.ldD (x0 : Pred) (x1 : BitVec 5) (x2 : BitVec 9) (x3 : Tgt) : RoundTrip.Statement (.ldD x0 x1 x2 x3) := by
  intro h w hw
  have hW := Option.some.inj hw
  have b0 := x0.code_lt
  have b1 := x1.isLt
  have b2 := x2.isLt
  have b3 := x3.code_lt
  have g3 : x3.wf = true := h
  have f25_7 : fld w 25 7 = 71 := by simp only [fld]; omega
  have f0_9 : fld w 0 9 = x3.code := by simp only [fld]; omega
  have f9_9 : fld w 9 9 = x2.toNat := by simp only [fld]; omega
  have f18_5 : fld w 18 5 = x1.toNat := by simp only [fld]; omega
  have f23_2 : fld w 23 2 = x0.code := by simp only [fld]; omega
  refine ⟨by omega, ?_⟩
  unfold decodeWord
  rw [f25_7]
  simp [decOp47, Except.bind, f0_9, f9_9, f18_5, f23_2, predOf_code, tgtOf_code x3 g3]

theorem RoundTrip.ldSb (x0 : Pred) (x1 : BitVec 5) (x2 : BitVec 9) (x3 : Tgt) : RoundTrip.Statement (.ldSb x0 x1 x2 x3) := by
  intro h w hw
  have hW := Option.some.inj hw
  have b0 := x0.code_lt
  have b1 := x1.isLt
  have b2 := x2.isLt
  have b3 := x3.code_lt
  have g3 : x3.wf = true := h
  have f25_7 : fld w 25 7 = 72 := by simp only [fld]; omega
  have f0_9 : fld w 0 9 = x3.code := by simp only [fld]; omega
  have f9_9 : fld w 9 9 = x2.toNat := by simp only [fld]; omega
  have f18_5 : fld w 18 5 = x1.toNat := by simp only [fld]; omega
  have f23_2 : fld w 23 2 = x0.code := by simp only [fld]; omega
  refine ⟨by omega, ?_⟩
  unfold decodeWord
  rw [f25_7]
  simp [decOp48, Except.bind, f0_9, f9_9, f18_5, f23_2, predOf_code, tgtOf_code x3 g3]

theorem RoundTrip.ldSh (x0 : Pred) (x1 : BitVec 5) (x2 : BitVec 9) (x3 : Tgt) : RoundTrip.Statement (.ldSh x0 x1 x2 x3) := by
  intro h w hw
  have hW := Option.some.inj hw
  have b0 := x0.code_lt
  have b1 := x1.isLt
  have b2 := x2.isLt
  have b3 := x3.code_lt
  have g3 : x3.wf = true := h
  have f25_7 : fld w 25 7 = 73 := by simp only [fld]; omega
  have f0_9 : fld w 0 9 = x3.code := by simp only [fld]; omega
  have f9_9 : fld w 9 9 = x2.toNat := by simp only [fld]; omega
  have f18_5 : fld w 18 5 = x1.toNat := by simp only [fld]; omega
  have f23_2 : fld w 23 2 = x0.code := by simp only [fld]; omega
  refine ⟨by omega, ?_⟩
  unfold decodeWord
  rw [f25_7]
  simp [decOp49, Except.bind, f0_9, f9_9, f18_5, f23_2, predOf_code, tgtOf_code x3 g3]

theorem RoundTrip.ldSw (x0 : Pred) (x1 : BitVec 5) (x2 : BitVec 9) (x3 : Tgt) : RoundTrip.Statement (.ldSw x0 x1 x2 x3) := by
  intro h w hw
  have hW := Option.some.inj hw
  have b0 := x0.code_lt
  have b1 := x1.isLt
  have b2 := x2.isLt
  have b3 := x3.code_lt
  have g3 : x3.wf = true := h
  have f25_7 : fld w 25 7 = 74 := by simp only [fld]; omega
  have f0_9 : fld w 0 9 = x3.code := by simp only [fld]; omega
  have f9_9 : fld w 9 9 = x2.toNat := by simp only [fld]; omega
  have f18_5 : fld w 18 5 = x1.toNat := by simp only [fld]; omega
  have f23_2 : fld w 23 2 = x0.code := by simp only [fld]; omega
  refine ⟨by omega, ?_⟩
  unfold decodeWord
  rw [f25_7]
  simp [decOp4a, Except.bind, f0_9, f9_9, f18_5, f23_2, predOf_code, tgtOf_code x3 g3]

theorem RoundTrip.stB (x0 : Pred) (x1 : BitVec 5) (x2 : BitVec 18) : RoundTrip.Statement (.stB x0 x1 x2) := by
  intro _ w hw
  have hW := Option.some.inj hw
  have b0 := x0.code_lt
  have b1 := x1.isLt
  have b2 := x2.isLt
  have f25_7 : fld w 25 7 = 75 := by simp only [fld]; omega
  have f0_18 : fld w 0 18 = x2.toNat := by simp only [fld]; omega
  have f18_5 : fld w 18 5 = x1.toNat := by simp only [fld]; omega
  have f23_2 : fld w 23 2 = x0.code := by simp only [fld]; omega
  refine ⟨by omega, ?_⟩
  unfold decodeWord
  rw [f25_7]
  simp [decOp4b, Except.bind, f0_18, f18_5, f23_2, predOf_code]

theorem RoundTrip.stH (x0 : Pred) (x1 : BitVec 5) (x2 : BitVec 18) : RoundTrip.Statement (.stH x0 x1 x2) := by
  intro _ w hw
  have hW := Option.some.inj hw
  have b0 := x0.code_lt
  have b1 := x1.isLt
  have b2 := x2.isLt
  have f25_7 : fld w 25 7 = 76 := by simp only [fld]; omega
  have f0_18 : fld w 0 18 = x2.toNat := by simp only [fld]; omega
  have f18_5 : fld w 18 5 = x1.toNat := by simp only [fld]; omega
  have f23_2 : fld w 23 2 = x0.code := by simp only [fld]; omega
  refine ⟨by omega, ?_⟩
  unfold decodeWord
  rw [f25_7]
  simp [decOp4c, Except.bind, f0_18, f18_5, f23_2, predOf_code]

theorem RoundTrip.stW (x0 : Pred) (x1 : BitVec 5) (x2 : BitVec 18) : RoundTrip.Statement (.stW x0 x1 x2) := by
  intro _ w hw
  have hW := Option.some.inj hw
  have b0 := x0.code_lt
  have b1 := x1.isLt
  have b2 := x2.isLt
  have f25_7 : fld w 25 7 = 77 := by simp only [fld]; omega
  have f0_18 : fld w 0 18 = x2.toNat := by simp only [fld]; omega
  have f18_5 : fld w 18 5 = x1.toNat := by simp only [fld]; omega
  have f23_2 : fld w 23 2 = x0.code := by simp only [fld]; omega
  refine ⟨by omega, ?_⟩
  unfold decodeWord
  rw [f25_7]
  simp [decOp4d, Except.bind, f0_18, f18_5, f23_2, predOf_code]

theorem RoundTrip.stD (x0 : Pred) (x1 : BitVec 5) (x2 : BitVec 18) : RoundTrip.Statement (.stD x0 x1 x2) := by
  intro _ w hw
  have hW := Option.some.inj hw
  have b0 := x0.code_lt
  have b1 := x1.isLt
  have b2 := x2.isLt
  have f25_7 : fld w 25 7 = 78 := by simp only [fld]; omega
  have f0_18 : fld w 0 18 = x2.toNat := by simp only [fld]; omega
  have f18_5 : fld w 18 5 = x1.toNat := by simp only [fld]; omega
  have f23_2 : fld w 23 2 = x0.code := by simp only [fld]; omega
  refine ⟨by omega, ?_⟩
  unfold decodeWord
  rw [f25_7]
  simp [decOp4e, Except.bind, f0_18, f18_5, f23_2, predOf_code]

theorem RoundTrip.ldacq (x0 : Pred) (x1 : BitVec 5) (x2 : BitVec 9) (x3 : Tgt) : RoundTrip.Statement (.ldacq x0 x1 x2 x3) := by
  intro h w hw
  have hW := Option.some.inj hw
  have b0 := x0.code_lt
  have b1 := x1.isLt
  have b2 := x2.isLt
  have b3 := x3.code_lt
  have g3 : x3.wf = true := h
  have f25_7 : fld w 25 7 = 79 := by simp only [fld]; omega
  have f0_9 : fld w 0 9 = x3.code := by simp only [fld]; omega
  have f9_9 : fld w 9 9 = x2.toNat := by simp only [fld]; omega
  have f18_5 : fld w 18 5 = x1.toNat := by simp only [fld]; omega
  have f23_2 : fld w 23 2 = x0.code := by simp only [fld]; omega
  refine ⟨by omega, ?_⟩
  unfold decodeWord
  rw [f25_7]
  simp [decOp4f, Except.bind, f0_9, f9_9, f18_5, f23_2, predOf_code, tgtOf_code x3 g3]

theorem RoundTrip.strel (x0 : Pred) (x1 : BitVec 5) (x2 : BitVec 18) : RoundTrip.Statement (.strel x0 x1 x2) := by
  intro _ w hw
  have hW := Option.some.inj hw
  have b0 := x0.code_lt
  have b1 := x1.isLt
  have b2 := x2.isLt
  have f25_7 : fld w 25 7 = 80 := by simp only [fld]; omega
  have f0_18 : fld w 0 18 = x2.toNat := by simp only [fld]; omega
  have f18_5 : fld w 18 5 = x1.toNat := by simp only [fld]; omega
  have f23_2 : fld w 23 2 = x0.code := by simp only [fld]; omega
  refine ⟨by omega, ?_⟩
  unfold decodeWord
  rw [f25_7]
  simp [decOp50, Except.bind, f0_18, f18_5, f23_2, predOf_code]

theorem RoundTrip.vld (x0 : Pred) (x1 : BitVec 5) (x2 : BitVec 9) (x3 : Tgt) : RoundTrip.Statement (.vld x0 x1 x2 x3) := by
  intro h w hw
  have hW := Option.some.inj hw
  have b0 := x0.code_lt
  have b1 := x1.isLt
  have b2 := x2.isLt
  have b3 := x3.code_lt
  have g3 : x3.wf = true := h
  have f25_7 : fld w 25 7 = 81 := by simp only [fld]; omega
  have f0_9 : fld w 0 9 = x3.code := by simp only [fld]; omega
  have f9_9 : fld w 9 9 = x2.toNat := by simp only [fld]; omega
  have f18_5 : fld w 18 5 = x1.toNat := by simp only [fld]; omega
  have f23_2 : fld w 23 2 = x0.code := by simp only [fld]; omega
  refine ⟨by omega, ?_⟩
  unfold decodeWord
  rw [f25_7]
  simp [decOp51, Except.bind, f0_9, f9_9, f18_5, f23_2, predOf_code, tgtOf_code x3 g3]

theorem RoundTrip.vst (x0 : Pred) (x1 : BitVec 5) (x2 : BitVec 18) : RoundTrip.Statement (.vst x0 x1 x2) := by
  intro _ w hw
  have hW := Option.some.inj hw
  have b0 := x0.code_lt
  have b1 := x1.isLt
  have b2 := x2.isLt
  have f25_7 : fld w 25 7 = 82 := by simp only [fld]; omega
  have f0_18 : fld w 0 18 = x2.toNat := by simp only [fld]; omega
  have f18_5 : fld w 18 5 = x1.toNat := by simp only [fld]; omega
  have f23_2 : fld w 23 2 = x0.code := by simp only [fld]; omega
  refine ⟨by omega, ?_⟩
  unfold decodeWord
  rw [f25_7]
  simp [decOp52, Except.bind, f0_18, f18_5, f23_2, predOf_code]

theorem RoundTrip.vlds (x0 : Pred) (x1 : BitVec 5) (x2 : Shape) (x3 : Tgt) : RoundTrip.Statement (.vlds x0 x1 x2 x3) := by
  intro h w hw
  have hW := Option.some.inj hw
  have b0 := x0.code_lt
  have b1 := x1.isLt
  have b2 := x2.code_lt
  have b3 := x3.code_lt
  have g3 : x3.wf = true := h
  have f25_7 : fld w 25 7 = 83 := by simp only [fld]; omega
  have f0_9 : fld w 0 9 = x3.code := by simp only [fld]; omega
  have f9_5 : fld w 9 5 = 0 := by simp only [fld]; omega
  have f14_2 : fld w 14 2 = x2.code := by simp only [fld]; omega
  have f16_2 : fld w 16 2 = 0 := by simp only [fld]; omega
  have f18_5 : fld w 18 5 = x1.toNat := by simp only [fld]; omega
  have f23_2 : fld w 23 2 = x0.code := by simp only [fld]; omega
  refine ⟨by omega, ?_⟩
  unfold decodeWord
  rw [f25_7]
  simp [decOp53, Except.bind, f0_9, f9_5, f14_2, f16_2, f18_5, f23_2, predOf_code, shapeOf_code, tgtOf_code x3 g3]

theorem RoundTrip.vsts (x0 : Pred) (x1 : BitVec 5) (x2 : Shape) : RoundTrip.Statement (.vsts x0 x1 x2) := by
  intro _ w hw
  have hW := Option.some.inj hw
  have b0 := x0.code_lt
  have b1 := x1.isLt
  have b2 := x2.code_lt
  have f25_7 : fld w 25 7 = 84 := by simp only [fld]; omega
  have f0_14 : fld w 0 14 = 0 := by simp only [fld]; omega
  have f14_2 : fld w 14 2 = x2.code := by simp only [fld]; omega
  have f16_2 : fld w 16 2 = 0 := by simp only [fld]; omega
  have f18_5 : fld w 18 5 = x1.toNat := by simp only [fld]; omega
  have f23_2 : fld w 23 2 = x0.code := by simp only [fld]; omega
  refine ⟨by omega, ?_⟩
  unfold decodeWord
  rw [f25_7]
  simp [decOp54, Except.bind, f0_14, f14_2, f16_2, f18_5, f23_2, predOf_code, shapeOf_code]

theorem RoundTrip.vgath (x0 : Pred) (x1 : BitVec 5) (x2 : Shape) (x3 : Bool) (x4 : BitVec 2) (x5 : Tgt) : RoundTrip.Statement (.vgath x0 x1 x2 x3 x4 x5) := by
  intro h w hw
  have hW := Option.some.inj hw
  have b0 := x0.code_lt
  have b1 := x1.isLt
  have b2 := x2.code_lt
  have b3 := bool_toNat_lt x3
  have b4 := x4.isLt
  have b5 := x5.code_lt
  have g5 : x5.wf = true := h
  have f25_7 : fld w 25 7 = 85 := by simp only [fld]; omega
  have f0_9 : fld w 0 9 = x5.code := by simp only [fld]; omega
  have f9_2 : fld w 9 2 = x4.toNat := by simp only [fld]; omega
  have f11_1 : fld w 11 1 = x3.toNat := by simp only [fld]; omega
  have f12_2 : fld w 12 2 = 0 := by simp only [fld]; omega
  have f14_2 : fld w 14 2 = x2.code := by simp only [fld]; omega
  have f16_2 : fld w 16 2 = 0 := by simp only [fld]; omega
  have f18_5 : fld w 18 5 = x1.toNat := by simp only [fld]; omega
  have f23_2 : fld w 23 2 = x0.code := by simp only [fld]; omega
  refine ⟨by omega, ?_⟩
  unfold decodeWord
  rw [f25_7]
  simp [decOp55, Except.bind, f0_9, f9_2, f11_1, f12_2, f14_2, f16_2, f18_5, f23_2, predOf_code, shapeOf_code, boolOf_toNat, tgtOf_code x5 g5]

theorem RoundTrip.vscat (x0 : Pred) (x1 : BitVec 5) (x2 : Shape) (x3 : Bool) (x4 : BitVec 2) : RoundTrip.Statement (.vscat x0 x1 x2 x3 x4) := by
  intro _ w hw
  have hW := Option.some.inj hw
  have b0 := x0.code_lt
  have b1 := x1.isLt
  have b2 := x2.code_lt
  have b3 := bool_toNat_lt x3
  have b4 := x4.isLt
  have f25_7 : fld w 25 7 = 86 := by simp only [fld]; omega
  have f0_9 : fld w 0 9 = 0 := by simp only [fld]; omega
  have f9_2 : fld w 9 2 = x4.toNat := by simp only [fld]; omega
  have f11_1 : fld w 11 1 = x3.toNat := by simp only [fld]; omega
  have f12_2 : fld w 12 2 = 0 := by simp only [fld]; omega
  have f14_2 : fld w 14 2 = x2.code := by simp only [fld]; omega
  have f16_2 : fld w 16 2 = 0 := by simp only [fld]; omega
  have f18_5 : fld w 18 5 = x1.toNat := by simp only [fld]; omega
  have f23_2 : fld w 23 2 = x0.code := by simp only [fld]; omega
  refine ⟨by omega, ?_⟩
  unfold decodeWord
  rw [f25_7]
  simp [decOp56, Except.bind, f0_9, f9_2, f11_1, f12_2, f14_2, f16_2, f18_5, f23_2, predOf_code, shapeOf_code, boolOf_toNat]

theorem RoundTrip.pref (x0 : Pred) (x1 : BitVec 5) (x2 : Bool) (x3 : PrefLevel) : RoundTrip.Statement (.pref x0 x1 x2 x3) := by
  intro _ w hw
  have hW := Option.some.inj hw
  have b0 := x0.code_lt
  have b1 := x1.isLt
  have b2 := bool_toNat_lt x2
  have b3 := x3.code_lt
  have f25_7 : fld w 25 7 = 87 := by simp only [fld]; omega
  have f0_9 : fld w 0 9 = 0 := by simp only [fld]; omega
  have f9_2 : fld w 9 2 = x3.code := by simp only [fld]; omega
  have f11_1 : fld w 11 1 = x2.toNat := by simp only [fld]; omega
  have f12_2 : fld w 12 2 = 0 := by simp only [fld]; omega
  have f14_4 : fld w 14 4 = 0 := by simp only [fld]; omega
  have f18_5 : fld w 18 5 = x1.toNat := by simp only [fld]; omega
  have f23_2 : fld w 23 2 = x0.code := by simp only [fld]; omega
  refine ⟨by omega, ?_⟩
  unfold decodeWord
  rw [f25_7]
  simp [decOp57, Except.bind, f0_9, f9_2, f11_1, f12_2, f14_4, f18_5, f23_2, predOf_code, boolOf_toNat, prefLevelOf_code]

theorem RoundTrip.amoadd (x0 : Pred) (x1 : BitVec 5) (x2 : AmoSize) (x3 : Scope) (x4 : Bool) (x5 : Tgt) : RoundTrip.Statement (.amoadd x0 x1 x2 x3 x4 x5) := by
  intro h w hw
  have hW := Option.some.inj hw
  have b0 := x0.code_lt
  have b1 := x1.isLt
  have b2 := x2.code_lt
  have b3 := x3.code_lt
  have b4 := bool_toNat_lt x4
  have b5 := x5.code_lt
  have g5 : x5.wf = true := h
  have f25_7 : fld w 25 7 = 88 := by simp only [fld]; omega
  have f0_9 : fld w 0 9 = x5.code := by simp only [fld]; omega
  have f9_1 : fld w 9 1 = x4.toNat := by simp only [fld]; omega
  have f10_2 : fld w 10 2 = x3.code := by simp only [fld]; omega
  have f12_2 : fld w 12 2 = x2.code := by simp only [fld]; omega
  have f14_4 : fld w 14 4 = 0 := by simp only [fld]; omega
  have f18_5 : fld w 18 5 = x1.toNat := by simp only [fld]; omega
  have f23_2 : fld w 23 2 = x0.code := by simp only [fld]; omega
  refine ⟨by omega, ?_⟩
  unfold decodeWord
  rw [f25_7]
  simp [decOp58, Except.bind, f0_9, f9_1, f10_2, f12_2, f14_4, f18_5, f23_2, predOf_code, amoSizeOf_code, scopeOf_code, boolOf_toNat, tgtOf_code x5 g5]

theorem RoundTrip.amoand (x0 : Pred) (x1 : BitVec 5) (x2 : AmoSize) (x3 : Scope) (x4 : Bool) (x5 : Tgt) : RoundTrip.Statement (.amoand x0 x1 x2 x3 x4 x5) := by
  intro h w hw
  have hW := Option.some.inj hw
  have b0 := x0.code_lt
  have b1 := x1.isLt
  have b2 := x2.code_lt
  have b3 := x3.code_lt
  have b4 := bool_toNat_lt x4
  have b5 := x5.code_lt
  have g5 : x5.wf = true := h
  have f25_7 : fld w 25 7 = 88 := by simp only [fld]; omega
  have f0_9 : fld w 0 9 = x5.code := by simp only [fld]; omega
  have f9_1 : fld w 9 1 = x4.toNat := by simp only [fld]; omega
  have f10_2 : fld w 10 2 = x3.code := by simp only [fld]; omega
  have f12_2 : fld w 12 2 = x2.code := by simp only [fld]; omega
  have f14_4 : fld w 14 4 = 1 := by simp only [fld]; omega
  have f18_5 : fld w 18 5 = x1.toNat := by simp only [fld]; omega
  have f23_2 : fld w 23 2 = x0.code := by simp only [fld]; omega
  refine ⟨by omega, ?_⟩
  unfold decodeWord
  rw [f25_7]
  simp [decOp58, Except.bind, f0_9, f9_1, f10_2, f12_2, f14_4, f18_5, f23_2, predOf_code, amoSizeOf_code, scopeOf_code, boolOf_toNat, tgtOf_code x5 g5]

theorem RoundTrip.amoor (x0 : Pred) (x1 : BitVec 5) (x2 : AmoSize) (x3 : Scope) (x4 : Bool) (x5 : Tgt) : RoundTrip.Statement (.amoor x0 x1 x2 x3 x4 x5) := by
  intro h w hw
  have hW := Option.some.inj hw
  have b0 := x0.code_lt
  have b1 := x1.isLt
  have b2 := x2.code_lt
  have b3 := x3.code_lt
  have b4 := bool_toNat_lt x4
  have b5 := x5.code_lt
  have g5 : x5.wf = true := h
  have f25_7 : fld w 25 7 = 88 := by simp only [fld]; omega
  have f0_9 : fld w 0 9 = x5.code := by simp only [fld]; omega
  have f9_1 : fld w 9 1 = x4.toNat := by simp only [fld]; omega
  have f10_2 : fld w 10 2 = x3.code := by simp only [fld]; omega
  have f12_2 : fld w 12 2 = x2.code := by simp only [fld]; omega
  have f14_4 : fld w 14 4 = 2 := by simp only [fld]; omega
  have f18_5 : fld w 18 5 = x1.toNat := by simp only [fld]; omega
  have f23_2 : fld w 23 2 = x0.code := by simp only [fld]; omega
  refine ⟨by omega, ?_⟩
  unfold decodeWord
  rw [f25_7]
  simp [decOp58, Except.bind, f0_9, f9_1, f10_2, f12_2, f14_4, f18_5, f23_2, predOf_code, amoSizeOf_code, scopeOf_code, boolOf_toNat, tgtOf_code x5 g5]

theorem RoundTrip.amoxor (x0 : Pred) (x1 : BitVec 5) (x2 : AmoSize) (x3 : Scope) (x4 : Bool) (x5 : Tgt) : RoundTrip.Statement (.amoxor x0 x1 x2 x3 x4 x5) := by
  intro h w hw
  have hW := Option.some.inj hw
  have b0 := x0.code_lt
  have b1 := x1.isLt
  have b2 := x2.code_lt
  have b3 := x3.code_lt
  have b4 := bool_toNat_lt x4
  have b5 := x5.code_lt
  have g5 : x5.wf = true := h
  have f25_7 : fld w 25 7 = 88 := by simp only [fld]; omega
  have f0_9 : fld w 0 9 = x5.code := by simp only [fld]; omega
  have f9_1 : fld w 9 1 = x4.toNat := by simp only [fld]; omega
  have f10_2 : fld w 10 2 = x3.code := by simp only [fld]; omega
  have f12_2 : fld w 12 2 = x2.code := by simp only [fld]; omega
  have f14_4 : fld w 14 4 = 3 := by simp only [fld]; omega
  have f18_5 : fld w 18 5 = x1.toNat := by simp only [fld]; omega
  have f23_2 : fld w 23 2 = x0.code := by simp only [fld]; omega
  refine ⟨by omega, ?_⟩
  unfold decodeWord
  rw [f25_7]
  simp [decOp58, Except.bind, f0_9, f9_1, f10_2, f12_2, f14_4, f18_5, f23_2, predOf_code, amoSizeOf_code, scopeOf_code, boolOf_toNat, tgtOf_code x5 g5]

theorem RoundTrip.amomin (x0 : Pred) (x1 : BitVec 5) (x2 : AmoSize) (x3 : Scope) (x4 : Bool) (x5 : Tgt) : RoundTrip.Statement (.amomin x0 x1 x2 x3 x4 x5) := by
  intro h w hw
  have hW := Option.some.inj hw
  have b0 := x0.code_lt
  have b1 := x1.isLt
  have b2 := x2.code_lt
  have b3 := x3.code_lt
  have b4 := bool_toNat_lt x4
  have b5 := x5.code_lt
  have g5 : x5.wf = true := h
  have f25_7 : fld w 25 7 = 88 := by simp only [fld]; omega
  have f0_9 : fld w 0 9 = x5.code := by simp only [fld]; omega
  have f9_1 : fld w 9 1 = x4.toNat := by simp only [fld]; omega
  have f10_2 : fld w 10 2 = x3.code := by simp only [fld]; omega
  have f12_2 : fld w 12 2 = x2.code := by simp only [fld]; omega
  have f14_4 : fld w 14 4 = 4 := by simp only [fld]; omega
  have f18_5 : fld w 18 5 = x1.toNat := by simp only [fld]; omega
  have f23_2 : fld w 23 2 = x0.code := by simp only [fld]; omega
  refine ⟨by omega, ?_⟩
  unfold decodeWord
  rw [f25_7]
  simp [decOp58, Except.bind, f0_9, f9_1, f10_2, f12_2, f14_4, f18_5, f23_2, predOf_code, amoSizeOf_code, scopeOf_code, boolOf_toNat, tgtOf_code x5 g5]

theorem RoundTrip.amomax (x0 : Pred) (x1 : BitVec 5) (x2 : AmoSize) (x3 : Scope) (x4 : Bool) (x5 : Tgt) : RoundTrip.Statement (.amomax x0 x1 x2 x3 x4 x5) := by
  intro h w hw
  have hW := Option.some.inj hw
  have b0 := x0.code_lt
  have b1 := x1.isLt
  have b2 := x2.code_lt
  have b3 := x3.code_lt
  have b4 := bool_toNat_lt x4
  have b5 := x5.code_lt
  have g5 : x5.wf = true := h
  have f25_7 : fld w 25 7 = 88 := by simp only [fld]; omega
  have f0_9 : fld w 0 9 = x5.code := by simp only [fld]; omega
  have f9_1 : fld w 9 1 = x4.toNat := by simp only [fld]; omega
  have f10_2 : fld w 10 2 = x3.code := by simp only [fld]; omega
  have f12_2 : fld w 12 2 = x2.code := by simp only [fld]; omega
  have f14_4 : fld w 14 4 = 5 := by simp only [fld]; omega
  have f18_5 : fld w 18 5 = x1.toNat := by simp only [fld]; omega
  have f23_2 : fld w 23 2 = x0.code := by simp only [fld]; omega
  refine ⟨by omega, ?_⟩
  unfold decodeWord
  rw [f25_7]
  simp [decOp58, Except.bind, f0_9, f9_1, f10_2, f12_2, f14_4, f18_5, f23_2, predOf_code, amoSizeOf_code, scopeOf_code, boolOf_toNat, tgtOf_code x5 g5]

theorem RoundTrip.amominu (x0 : Pred) (x1 : BitVec 5) (x2 : AmoSize) (x3 : Scope) (x4 : Bool) (x5 : Tgt) : RoundTrip.Statement (.amominu x0 x1 x2 x3 x4 x5) := by
  intro h w hw
  have hW := Option.some.inj hw
  have b0 := x0.code_lt
  have b1 := x1.isLt
  have b2 := x2.code_lt
  have b3 := x3.code_lt
  have b4 := bool_toNat_lt x4
  have b5 := x5.code_lt
  have g5 : x5.wf = true := h
  have f25_7 : fld w 25 7 = 88 := by simp only [fld]; omega
  have f0_9 : fld w 0 9 = x5.code := by simp only [fld]; omega
  have f9_1 : fld w 9 1 = x4.toNat := by simp only [fld]; omega
  have f10_2 : fld w 10 2 = x3.code := by simp only [fld]; omega
  have f12_2 : fld w 12 2 = x2.code := by simp only [fld]; omega
  have f14_4 : fld w 14 4 = 6 := by simp only [fld]; omega
  have f18_5 : fld w 18 5 = x1.toNat := by simp only [fld]; omega
  have f23_2 : fld w 23 2 = x0.code := by simp only [fld]; omega
  refine ⟨by omega, ?_⟩
  unfold decodeWord
  rw [f25_7]
  simp [decOp58, Except.bind, f0_9, f9_1, f10_2, f12_2, f14_4, f18_5, f23_2, predOf_code, amoSizeOf_code, scopeOf_code, boolOf_toNat, tgtOf_code x5 g5]

theorem RoundTrip.amomaxu (x0 : Pred) (x1 : BitVec 5) (x2 : AmoSize) (x3 : Scope) (x4 : Bool) (x5 : Tgt) : RoundTrip.Statement (.amomaxu x0 x1 x2 x3 x4 x5) := by
  intro h w hw
  have hW := Option.some.inj hw
  have b0 := x0.code_lt
  have b1 := x1.isLt
  have b2 := x2.code_lt
  have b3 := x3.code_lt
  have b4 := bool_toNat_lt x4
  have b5 := x5.code_lt
  have g5 : x5.wf = true := h
  have f25_7 : fld w 25 7 = 88 := by simp only [fld]; omega
  have f0_9 : fld w 0 9 = x5.code := by simp only [fld]; omega
  have f9_1 : fld w 9 1 = x4.toNat := by simp only [fld]; omega
  have f10_2 : fld w 10 2 = x3.code := by simp only [fld]; omega
  have f12_2 : fld w 12 2 = x2.code := by simp only [fld]; omega
  have f14_4 : fld w 14 4 = 7 := by simp only [fld]; omega
  have f18_5 : fld w 18 5 = x1.toNat := by simp only [fld]; omega
  have f23_2 : fld w 23 2 = x0.code := by simp only [fld]; omega
  refine ⟨by omega, ?_⟩
  unfold decodeWord
  rw [f25_7]
  simp [decOp58, Except.bind, f0_9, f9_1, f10_2, f12_2, f14_4, f18_5, f23_2, predOf_code, amoSizeOf_code, scopeOf_code, boolOf_toNat, tgtOf_code x5 g5]

theorem RoundTrip.amoswp (x0 : Pred) (x1 : BitVec 5) (x2 : AmoSize) (x3 : Scope) (x4 : Bool) (x5 : Tgt) : RoundTrip.Statement (.amoswp x0 x1 x2 x3 x4 x5) := by
  intro h w hw
  have hW := Option.some.inj hw
  have b0 := x0.code_lt
  have b1 := x1.isLt
  have b2 := x2.code_lt
  have b3 := x3.code_lt
  have b4 := bool_toNat_lt x4
  have b5 := x5.code_lt
  have g5 : x5.wf = true := h
  have f25_7 : fld w 25 7 = 89 := by simp only [fld]; omega
  have f0_9 : fld w 0 9 = x5.code := by simp only [fld]; omega
  have f9_1 : fld w 9 1 = x4.toNat := by simp only [fld]; omega
  have f10_2 : fld w 10 2 = x3.code := by simp only [fld]; omega
  have f12_2 : fld w 12 2 = x2.code := by simp only [fld]; omega
  have f14_4 : fld w 14 4 = 0 := by simp only [fld]; omega
  have f18_5 : fld w 18 5 = x1.toNat := by simp only [fld]; omega
  have f23_2 : fld w 23 2 = x0.code := by simp only [fld]; omega
  refine ⟨by omega, ?_⟩
  unfold decodeWord
  rw [f25_7]
  simp [decOp59, Except.bind, f0_9, f9_1, f10_2, f12_2, f14_4, f18_5, f23_2, predOf_code, amoSizeOf_code, scopeOf_code, boolOf_toNat, tgtOf_code x5 g5]

theorem RoundTrip.amocas (x0 : Pred) (x1 : BitVec 5) (x2 : AmoSize) (x3 : Scope) (x4 : Bool) (x5 : Tgt) : RoundTrip.Statement (.amocas x0 x1 x2 x3 x4 x5) := by
  intro h w hw
  have hW := Option.some.inj hw
  have b0 := x0.code_lt
  have b1 := x1.isLt
  have b2 := x2.code_lt
  have b3 := x3.code_lt
  have b4 := bool_toNat_lt x4
  have b5 := x5.code_lt
  have g5 : x5.wf = true := h
  have f25_7 : fld w 25 7 = 89 := by simp only [fld]; omega
  have f0_9 : fld w 0 9 = x5.code := by simp only [fld]; omega
  have f9_1 : fld w 9 1 = x4.toNat := by simp only [fld]; omega
  have f10_2 : fld w 10 2 = x3.code := by simp only [fld]; omega
  have f12_2 : fld w 12 2 = x2.code := by simp only [fld]; omega
  have f14_4 : fld w 14 4 = 1 := by simp only [fld]; omega
  have f18_5 : fld w 18 5 = x1.toNat := by simp only [fld]; omega
  have f23_2 : fld w 23 2 = x0.code := by simp only [fld]; omega
  refine ⟨by omega, ?_⟩
  unfold decodeWord
  rw [f25_7]
  simp [decOp59, Except.bind, f0_9, f9_1, f10_2, f12_2, f14_4, f18_5, f23_2, predOf_code, amoSizeOf_code, scopeOf_code, boolOf_toNat, tgtOf_code x5 g5]

theorem RoundTrip.amofadd (x0 : Pred) (x1 : BitVec 5) (x2 : AmoSize) (x3 : Scope) (x4 : Bool) (x5 : Tgt) : RoundTrip.Statement (.amofadd x0 x1 x2 x3 x4 x5) := by
  intro h w hw
  have hW := Option.some.inj hw
  have b0 := x0.code_lt
  have b1 := x1.isLt
  have b2 := x2.code_lt
  have b3 := x3.code_lt
  have b4 := bool_toNat_lt x4
  have b5 := x5.code_lt
  have g5 : x5.wf = true := h
  have f25_7 : fld w 25 7 = 89 := by simp only [fld]; omega
  have f0_9 : fld w 0 9 = x5.code := by simp only [fld]; omega
  have f9_1 : fld w 9 1 = x4.toNat := by simp only [fld]; omega
  have f10_2 : fld w 10 2 = x3.code := by simp only [fld]; omega
  have f12_2 : fld w 12 2 = x2.code := by simp only [fld]; omega
  have f14_4 : fld w 14 4 = 2 := by simp only [fld]; omega
  have f18_5 : fld w 18 5 = x1.toNat := by simp only [fld]; omega
  have f23_2 : fld w 23 2 = x0.code := by simp only [fld]; omega
  refine ⟨by omega, ?_⟩
  unfold decodeWord
  rw [f25_7]
  simp [decOp59, Except.bind, f0_9, f9_1, f10_2, f12_2, f14_4, f18_5, f23_2, predOf_code, amoSizeOf_code, scopeOf_code, boolOf_toNat, tgtOf_code x5 g5]

theorem RoundTrip.vamoadd (x0 : Pred) (x1 : BitVec 5) (x2 : VAmoTy) (x3 : Scope) (x4 : Bool) (x5 : Tgt) : RoundTrip.Statement (.vamoadd x0 x1 x2 x3 x4 x5) := by
  intro h w hw
  have hW := Option.some.inj hw
  have b0 := x0.code_lt
  have b1 := x1.isLt
  have b2 := x2.code_lt
  have b3 := x3.code_lt
  have b4 := bool_toNat_lt x4
  have b5 := x5.code_lt
  have g5 : x5.wf = true := h
  have f25_7 : fld w 25 7 = 90 := by simp only [fld]; omega
  have f0_9 : fld w 0 9 = x5.code := by simp only [fld]; omega
  have f9_1 : fld w 9 1 = x4.toNat := by simp only [fld]; omega
  have f10_2 : fld w 10 2 = x3.code := by simp only [fld]; omega
  have f12_2 : fld w 12 2 = 0 := by simp only [fld]; omega
  have f14_2 : fld w 14 2 = x2.code := by simp only [fld]; omega
  have f16_2 : fld w 16 2 = 0 := by simp only [fld]; omega
  have f18_5 : fld w 18 5 = x1.toNat := by simp only [fld]; omega
  have f23_2 : fld w 23 2 = x0.code := by simp only [fld]; omega
  refine ⟨by omega, ?_⟩
  unfold decodeWord
  rw [f25_7]
  simp [decOp5a, Except.bind, f0_9, f9_1, f10_2, f12_2, f14_2, f16_2, f18_5, f23_2, predOf_code, vamoTyOf_code, scopeOf_code, boolOf_toNat, tgtOf_code x5 g5]

theorem RoundTrip.fenceAcq (x0 : Pred) (x1 : BitVec 5) (x2 : Scope) : RoundTrip.Statement (.fenceAcq x0 x1 x2) := by
  intro _ w hw
  have hW := Option.some.inj hw
  have b0 := x0.code_lt
  have b1 := x1.isLt
  have b2 := x2.code_lt
  have f25_7 : fld w 25 7 = 91 := by simp only [fld]; omega
  have f0_9 : fld w 0 9 = 0 := by simp only [fld]; omega
  have f9_2 : fld w 9 2 = x2.code := by simp only [fld]; omega
  have f11_3 : fld w 11 3 = 0 := by simp only [fld]; omega
  have f14_4 : fld w 14 4 = 0 := by simp only [fld]; omega
  have f18_5 : fld w 18 5 = x1.toNat := by simp only [fld]; omega
  have f23_2 : fld w 23 2 = x0.code := by simp only [fld]; omega
  refine ⟨by omega, ?_⟩
  unfold decodeWord
  rw [f25_7]
  simp [decOp5b, Except.bind, f0_9, f9_2, f11_3, f14_4, f18_5, f23_2, predOf_code, scopeOf_code]

theorem RoundTrip.fenceRel (x0 : Pred) (x1 : BitVec 5) (x2 : Scope) : RoundTrip.Statement (.fenceRel x0 x1 x2) := by
  intro _ w hw
  have hW := Option.some.inj hw
  have b0 := x0.code_lt
  have b1 := x1.isLt
  have b2 := x2.code_lt
  have f25_7 : fld w 25 7 = 91 := by simp only [fld]; omega
  have f0_9 : fld w 0 9 = 0 := by simp only [fld]; omega
  have f9_2 : fld w 9 2 = x2.code := by simp only [fld]; omega
  have f11_3 : fld w 11 3 = 0 := by simp only [fld]; omega
  have f14_4 : fld w 14 4 = 1 := by simp only [fld]; omega
  have f18_5 : fld w 18 5 = x1.toNat := by simp only [fld]; omega
  have f23_2 : fld w 23 2 = x0.code := by simp only [fld]; omega
  refine ⟨by omega, ?_⟩
  unfold decodeWord
  rw [f25_7]
  simp [decOp5b, Except.bind, f0_9, f9_2, f11_3, f14_4, f18_5, f23_2, predOf_code, scopeOf_code]

theorem RoundTrip.fenceAcqrel (x0 : Pred) (x1 : BitVec 5) (x2 : Scope) : RoundTrip.Statement (.fenceAcqrel x0 x1 x2) := by
  intro _ w hw
  have hW := Option.some.inj hw
  have b0 := x0.code_lt
  have b1 := x1.isLt
  have b2 := x2.code_lt
  have f25_7 : fld w 25 7 = 91 := by simp only [fld]; omega
  have f0_9 : fld w 0 9 = 0 := by simp only [fld]; omega
  have f9_2 : fld w 9 2 = x2.code := by simp only [fld]; omega
  have f11_3 : fld w 11 3 = 0 := by simp only [fld]; omega
  have f14_4 : fld w 14 4 = 2 := by simp only [fld]; omega
  have f18_5 : fld w 18 5 = x1.toNat := by simp only [fld]; omega
  have f23_2 : fld w 23 2 = x0.code := by simp only [fld]; omega
  refine ⟨by omega, ?_⟩
  unfold decodeWord
  rw [f25_7]
  simp [decOp5b, Except.bind, f0_9, f9_2, f11_3, f14_4, f18_5, f23_2, predOf_code, scopeOf_code]

theorem RoundTrip.fenceSc (x0 : Pred) (x1 : BitVec 5) (x2 : Scope) : RoundTrip.Statement (.fenceSc x0 x1 x2) := by
  intro _ w hw
  have hW := Option.some.inj hw
  have b0 := x0.code_lt
  have b1 := x1.isLt
  have b2 := x2.code_lt
  have f25_7 : fld w 25 7 = 91 := by simp only [fld]; omega
  have f0_9 : fld w 0 9 = 0 := by simp only [fld]; omega
  have f9_2 : fld w 9 2 = x2.code := by simp only [fld]; omega
  have f11_3 : fld w 11 3 = 0 := by simp only [fld]; omega
  have f14_4 : fld w 14 4 = 3 := by simp only [fld]; omega
  have f18_5 : fld w 18 5 = x1.toNat := by simp only [fld]; omega
  have f23_2 : fld w 23 2 = x0.code := by simp only [fld]; omega
  refine ⟨by omega, ?_⟩
  unfold decodeWord
  rw [f25_7]
  simp [decOp5b, Except.bind, f0_9, f9_2, f11_3, f14_4, f18_5, f23_2, predOf_code, scopeOf_code]

theorem RoundTrip.fenceEngine (x0 : Pred) (x1 : BitVec 5) (x2 : Scope) : RoundTrip.Statement (.fenceEngine x0 x1 x2) := by
  intro _ w hw
  have hW := Option.some.inj hw
  have b0 := x0.code_lt
  have b1 := x1.isLt
  have b2 := x2.code_lt
  have f25_7 : fld w 25 7 = 91 := by simp only [fld]; omega
  have f0_9 : fld w 0 9 = 0 := by simp only [fld]; omega
  have f9_2 : fld w 9 2 = x2.code := by simp only [fld]; omega
  have f11_3 : fld w 11 3 = 0 := by simp only [fld]; omega
  have f14_4 : fld w 14 4 = 4 := by simp only [fld]; omega
  have f18_5 : fld w 18 5 = x1.toNat := by simp only [fld]; omega
  have f23_2 : fld w 23 2 = x0.code := by simp only [fld]; omega
  refine ⟨by omega, ?_⟩
  unfold decodeWord
  rw [f25_7]
  simp [decOp5b, Except.bind, f0_9, f9_2, f11_3, f14_4, f18_5, f23_2, predOf_code, scopeOf_code]

theorem RoundTrip.waitv (x0 : Pred) (x1 : BitVec 5) (x2 : Bool) (x3 : Tgt) : RoundTrip.Statement (.waitv x0 x1 x2 x3) := by
  intro h w hw
  have hW := Option.some.inj hw
  have b0 := x0.code_lt
  have b1 := x1.isLt
  have b2 := bool_toNat_lt x2
  have b3 := x3.code_lt
  have g3 : x3.wf = true := h
  have f25_7 : fld w 25 7 = 92 := by simp only [fld]; omega
  have f0_9 : fld w 0 9 = x3.code := by simp only [fld]; omega
  have f9_1 : fld w 9 1 = x2.toNat := by simp only [fld]; omega
  have f10_4 : fld w 10 4 = 0 := by simp only [fld]; omega
  have f14_4 : fld w 14 4 = 0 := by simp only [fld]; omega
  have f18_5 : fld w 18 5 = x1.toNat := by simp only [fld]; omega
  have f23_2 : fld w 23 2 = x0.code := by simp only [fld]; omega
  refine ⟨by omega, ?_⟩
  unfold decodeWord
  rw [f25_7]
  simp [decOp5c, Except.bind, f0_9, f9_1, f10_4, f14_4, f18_5, f23_2, predOf_code, boolOf_toNat, tgtOf_code x3 g3]

theorem RoundTrip.bara (x0 : Pred) (x1 : BitVec 5) (x2 : Scope) (x3 : Tgt) : RoundTrip.Statement (.bara x0 x1 x2 x3) := by
  intro h w hw
  have hW := Option.some.inj hw
  have b0 := x0.code_lt
  have b1 := x1.isLt
  have b2 := x2.code_lt
  have b3 := x3.code_lt
  have g3 : x3.wf = true := h
  have f25_7 : fld w 25 7 = 93 := by simp only [fld]; omega
  have f0_9 : fld w 0 9 = x3.code := by simp only [fld]; omega
  have f9_2 : fld w 9 2 = x2.code := by simp only [fld]; omega
  have f11_3 : fld w 11 3 = 0 := by simp only [fld]; omega
  have f14_4 : fld w 14 4 = 0 := by simp only [fld]; omega
  have f18_5 : fld w 18 5 = x1.toNat := by simp only [fld]; omega
  have f23_2 : fld w 23 2 = x0.code := by simp only [fld]; omega
  refine ⟨by omega, ?_⟩
  unfold decodeWord
  rw [f25_7]
  simp [decOp5d, Except.bind, f0_9, f9_2, f11_3, f14_4, f18_5, f23_2, predOf_code, scopeOf_code, tgtOf_code x3 g3]

theorem RoundTrip.barw (x0 : Pred) (x1 : BitVec 5) (x2 : Scope) (x3 : Tgt) : RoundTrip.Statement (.barw x0 x1 x2 x3) := by
  intro h w hw
  have hW := Option.some.inj hw
  have b0 := x0.code_lt
  have b1 := x1.isLt
  have b2 := x2.code_lt
  have b3 := x3.code_lt
  have g3 : x3.wf = true := h
  have f25_7 : fld w 25 7 = 94 := by simp only [fld]; omega
  have f0_9 : fld w 0 9 = x3.code := by simp only [fld]; omega
  have f9_2 : fld w 9 2 = x2.code := by simp only [fld]; omega
  have f11_3 : fld w 11 3 = 0 := by simp only [fld]; omega
  have f14_4 : fld w 14 4 = 0 := by simp only [fld]; omega
  have f18_5 : fld w 18 5 = x1.toNat := by simp only [fld]; omega
  have f23_2 : fld w 23 2 = x0.code := by simp only [fld]; omega
  refine ⟨by omega, ?_⟩
  unfold decodeWord
  rw [f25_7]
  simp [decOp5e, Except.bind, f0_9, f9_2, f11_3, f14_4, f18_5, f23_2, predOf_code, scopeOf_code, tgtOf_code x3 g3]

theorem RoundTrip.tspawn (x0 : Pred) (x1 : BitVec 5) : RoundTrip.Statement (.tspawn x0 x1) := by
  intro _ w hw
  have hW := Option.some.inj hw
  have b0 := x0.code_lt
  have b1 := x1.isLt
  have f25_7 : fld w 25 7 = 96 := by simp only [fld]; omega
  have f0_14 : fld w 0 14 = 0 := by simp only [fld]; omega
  have f14_4 : fld w 14 4 = 0 := by simp only [fld]; omega
  have f18_5 : fld w 18 5 = x1.toNat := by simp only [fld]; omega
  have f23_2 : fld w 23 2 = x0.code := by simp only [fld]; omega
  refine ⟨by omega, ?_⟩
  unfold decodeWord
  rw [f25_7]
  simp [decOp60, Except.bind, f0_14, f14_4, f18_5, f23_2, predOf_code]

theorem RoundTrip.tsubmit (x0 : Pred) (x1 : BitVec 5) : RoundTrip.Statement (.tsubmit x0 x1) := by
  intro _ w hw
  have hW := Option.some.inj hw
  have b0 := x0.code_lt
  have b1 := x1.isLt
  have f25_7 : fld w 25 7 = 96 := by simp only [fld]; omega
  have f0_14 : fld w 0 14 = 0 := by simp only [fld]; omega
  have f14_4 : fld w 14 4 = 1 := by simp only [fld]; omega
  have f18_5 : fld w 18 5 = x1.toNat := by simp only [fld]; omega
  have f23_2 : fld w 23 2 = x0.code := by simp only [fld]; omega
  refine ⟨by omega, ?_⟩
  unfold decodeWord
  rw [f25_7]
  simp [decOp60, Except.bind, f0_14, f14_4, f18_5, f23_2, predOf_code]

theorem RoundTrip.tdep (x0 : Pred) (x1 : BitVec 5) : RoundTrip.Statement (.tdep x0 x1) := by
  intro _ w hw
  have hW := Option.some.inj hw
  have b0 := x0.code_lt
  have b1 := x1.isLt
  have f25_7 : fld w 25 7 = 96 := by simp only [fld]; omega
  have f0_14 : fld w 0 14 = 0 := by simp only [fld]; omega
  have f14_4 : fld w 14 4 = 2 := by simp only [fld]; omega
  have f18_5 : fld w 18 5 = x1.toNat := by simp only [fld]; omega
  have f23_2 : fld w 23 2 = x0.code := by simp only [fld]; omega
  refine ⟨by omega, ?_⟩
  unfold decodeWord
  rw [f25_7]
  simp [decOp60, Except.bind, f0_14, f14_4, f18_5, f23_2, predOf_code]

theorem RoundTrip.twait (x0 : Pred) (x1 : BitVec 5) (x2 : Bool) (x3 : Tgt) : RoundTrip.Statement (.twait x0 x1 x2 x3) := by
  intro h w hw
  have hW := Option.some.inj hw
  have b0 := x0.code_lt
  have b1 := x1.isLt
  have b2 := bool_toNat_lt x2
  have b3 := x3.code_lt
  have g3 : x3.wf = true := h
  have f25_7 : fld w 25 7 = 96 := by simp only [fld]; omega
  have f0_9 : fld w 0 9 = x3.code := by simp only [fld]; omega
  have f9_1 : fld w 9 1 = x2.toNat := by simp only [fld]; omega
  have f10_4 : fld w 10 4 = 0 := by simp only [fld]; omega
  have f14_4 : fld w 14 4 = 3 := by simp only [fld]; omega
  have f18_5 : fld w 18 5 = x1.toNat := by simp only [fld]; omega
  have f23_2 : fld w 23 2 = x0.code := by simp only [fld]; omega
  refine ⟨by omega, ?_⟩
  unfold decodeWord
  rw [f25_7]
  simp [decOp60, Except.bind, f0_9, f9_1, f10_4, f14_4, f18_5, f23_2, predOf_code, boolOf_toNat, tgtOf_code x3 g3]

theorem RoundTrip.trange (x0 : Pred) (x1 : BitVec 5) : RoundTrip.Statement (.trange x0 x1) := by
  intro _ w hw
  have hW := Option.some.inj hw
  have b0 := x0.code_lt
  have b1 := x1.isLt
  have f25_7 : fld w 25 7 = 96 := by simp only [fld]; omega
  have f0_14 : fld w 0 14 = 0 := by simp only [fld]; omega
  have f14_4 : fld w 14 4 = 4 := by simp only [fld]; omega
  have f18_5 : fld w 18 5 = x1.toNat := by simp only [fld]; omega
  have f23_2 : fld w 23 2 = x0.code := by simp only [fld]; omega
  refine ⟨by omega, ?_⟩
  unfold decodeWord
  rw [f25_7]
  simp [decOp60, Except.bind, f0_14, f14_4, f18_5, f23_2, predOf_code]

theorem RoundTrip.tprio (x0 : Pred) (x1 : BitVec 5) : RoundTrip.Statement (.tprio x0 x1) := by
  intro _ w hw
  have hW := Option.some.inj hw
  have b0 := x0.code_lt
  have b1 := x1.isLt
  have f25_7 : fld w 25 7 = 96 := by simp only [fld]; omega
  have f0_14 : fld w 0 14 = 0 := by simp only [fld]; omega
  have f14_4 : fld w 14 4 = 5 := by simp only [fld]; omega
  have f18_5 : fld w 18 5 = x1.toNat := by simp only [fld]; omega
  have f23_2 : fld w 23 2 = x0.code := by simp only [fld]; omega
  refine ⟨by omega, ?_⟩
  unfold decodeWord
  rw [f25_7]
  simp [decOp60, Except.bind, f0_14, f14_4, f18_5, f23_2, predOf_code]

theorem RoundTrip.amsend (x0 : Pred) (x1 : BitVec 5) : RoundTrip.Statement (.amsend x0 x1) := by
  intro _ w hw
  have hW := Option.some.inj hw
  have b0 := x0.code_lt
  have b1 := x1.isLt
  have f25_7 : fld w 25 7 = 96 := by simp only [fld]; omega
  have f0_14 : fld w 0 14 = 0 := by simp only [fld]; omega
  have f14_4 : fld w 14 4 = 6 := by simp only [fld]; omega
  have f18_5 : fld w 18 5 = x1.toNat := by simp only [fld]; omega
  have f23_2 : fld w 23 2 = x0.code := by simp only [fld]; omega
  refine ⟨by omega, ?_⟩
  unfold decodeWord
  rw [f25_7]
  simp [decOp60, Except.bind, f0_14, f14_4, f18_5, f23_2, predOf_code]

theorem RoundTrip.amreply (x0 : Pred) (x1 : BitVec 5) : RoundTrip.Statement (.amreply x0 x1) := by
  intro _ w hw
  have hW := Option.some.inj hw
  have b0 := x0.code_lt
  have b1 := x1.isLt
  have f25_7 : fld w 25 7 = 96 := by simp only [fld]; omega
  have f0_14 : fld w 0 14 = 0 := by simp only [fld]; omega
  have f14_4 : fld w 14 4 = 7 := by simp only [fld]; omega
  have f18_5 : fld w 18 5 = x1.toNat := by simp only [fld]; omega
  have f23_2 : fld w 23 2 = x0.code := by simp only [fld]; omega
  refine ⟨by omega, ?_⟩
  unfold decodeWord
  rw [f25_7]
  simp [decOp60, Except.bind, f0_14, f14_4, f18_5, f23_2, predOf_code]

theorem RoundTrip.htset (x0 : Pred) (x1 : BitVec 5) : RoundTrip.Statement (.htset x0 x1) := by
  intro _ w hw
  have hW := Option.some.inj hw
  have b0 := x0.code_lt
  have b1 := x1.isLt
  have f25_7 : fld w 25 7 = 96 := by simp only [fld]; omega
  have f0_14 : fld w 0 14 = 0 := by simp only [fld]; omega
  have f14_4 : fld w 14 4 = 8 := by simp only [fld]; omega
  have f18_5 : fld w 18 5 = x1.toNat := by simp only [fld]; omega
  have f23_2 : fld w 23 2 = x0.code := by simp only [fld]; omega
  refine ⟨by omega, ?_⟩
  unfold decodeWord
  rw [f25_7]
  simp [decOp60, Except.bind, f0_14, f14_4, f18_5, f23_2, predOf_code]

theorem RoundTrip.inbox (x0 : Pred) (x1 : BitVec 5) (x2 : Bool) (x3 : Tgt) : RoundTrip.Statement (.inbox x0 x1 x2 x3) := by
  intro h w hw
  have hW := Option.some.inj hw
  have b0 := x0.code_lt
  have b1 := x1.isLt
  have b2 := bool_toNat_lt x2
  have b3 := x3.code_lt
  have g3 : x3.wf = true := h
  have f25_7 : fld w 25 7 = 96 := by simp only [fld]; omega
  have f0_9 : fld w 0 9 = x3.code := by simp only [fld]; omega
  have f9_1 : fld w 9 1 = x2.toNat := by simp only [fld]; omega
  have f10_4 : fld w 10 4 = 0 := by simp only [fld]; omega
  have f14_4 : fld w 14 4 = 9 := by simp only [fld]; omega
  have f18_5 : fld w 18 5 = x1.toNat := by simp only [fld]; omega
  have f23_2 : fld w 23 2 = x0.code := by simp only [fld]; omega
  refine ⟨by omega, ?_⟩
  unfold decodeWord
  rw [f25_7]
  simp [decOp60, Except.bind, f0_9, f9_1, f10_4, f14_4, f18_5, f23_2, predOf_code, boolOf_toNat, tgtOf_code x3 g3]

theorem RoundTrip.hnew (x0 : Pred) (x1 : BitVec 5) (x2 : Tgt) : RoundTrip.Statement (.hnew x0 x1 x2) := by
  intro h w hw
  have hW := Option.some.inj hw
  have b0 := x0.code_lt
  have b1 := x1.isLt
  have b2 := x2.code_lt
  have g2 : x2.wf = true := h
  have f25_7 : fld w 25 7 = 97 := by simp only [fld]; omega
  have f0_9 : fld w 0 9 = x2.code := by simp only [fld]; omega
  have f9_5 : fld w 9 5 = 0 := by simp only [fld]; omega
  have f14_4 : fld w 14 4 = 0 := by simp only [fld]; omega
  have f18_5 : fld w 18 5 = x1.toNat := by simp only [fld]; omega
  have f23_2 : fld w 23 2 = x0.code := by simp only [fld]; omega
  refine ⟨by omega, ?_⟩
  unfold decodeWord
  rw [f25_7]
  simp [decOp61, Except.bind, f0_9, f9_5, f14_4, f18_5, f23_2, predOf_code, tgtOf_code x2 g2]

theorem RoundTrip.henter (x0 : Pred) (x1 : BitVec 5) : RoundTrip.Statement (.henter x0 x1) := by
  intro _ w hw
  have hW := Option.some.inj hw
  have b0 := x0.code_lt
  have b1 := x1.isLt
  have f25_7 : fld w 25 7 = 97 := by simp only [fld]; omega
  have f0_14 : fld w 0 14 = 0 := by simp only [fld]; omega
  have f14_4 : fld w 14 4 = 1 := by simp only [fld]; omega
  have f18_5 : fld w 18 5 = x1.toNat := by simp only [fld]; omega
  have f23_2 : fld w 23 2 = x0.code := by simp only [fld]; omega
  refine ⟨by omega, ?_⟩
  unfold decodeWord
  rw [f25_7]
  simp [decOp61, Except.bind, f0_14, f14_4, f18_5, f23_2, predOf_code]

theorem RoundTrip.hleave (x0 : Pred) (x1 : BitVec 5) : RoundTrip.Statement (.hleave x0 x1) := by
  intro _ w hw
  have hW := Option.some.inj hw
  have b0 := x0.code_lt
  have b1 := x1.isLt
  have f25_7 : fld w 25 7 = 97 := by simp only [fld]; omega
  have f0_14 : fld w 0 14 = 0 := by simp only [fld]; omega
  have f14_4 : fld w 14 4 = 2 := by simp only [fld]; omega
  have f18_5 : fld w 18 5 = x1.toNat := by simp only [fld]; omega
  have f23_2 : fld w 23 2 = x0.code := by simp only [fld]; omega
  refine ⟨by omega, ?_⟩
  unfold decodeWord
  rw [f25_7]
  simp [decOp61, Except.bind, f0_14, f14_4, f18_5, f23_2, predOf_code]

theorem RoundTrip.hresolve (x0 : Pred) (x1 : BitVec 5) (x2 : Tgt) : RoundTrip.Statement (.hresolve x0 x1 x2) := by
  intro h w hw
  have hW := Option.some.inj hw
  have b0 := x0.code_lt
  have b1 := x1.isLt
  have b2 := x2.code_lt
  have g2 : x2.wf = true := h
  have f25_7 : fld w 25 7 = 97 := by simp only [fld]; omega
  have f0_9 : fld w 0 9 = x2.code := by simp only [fld]; omega
  have f9_5 : fld w 9 5 = 0 := by simp only [fld]; omega
  have f14_4 : fld w 14 4 = 3 := by simp only [fld]; omega
  have f18_5 : fld w 18 5 = x1.toNat := by simp only [fld]; omega
  have f23_2 : fld w 23 2 = x0.code := by simp only [fld]; omega
  refine ⟨by omega, ?_⟩
  unfold decodeWord
  rw [f25_7]
  simp [decOp61, Except.bind, f0_9, f9_5, f14_4, f18_5, f23_2, predOf_code, tgtOf_code x2 g2]

theorem RoundTrip.hstat (x0 : Pred) (x1 : BitVec 5) (x2 : Bool) (x3 : Tgt) : RoundTrip.Statement (.hstat x0 x1 x2 x3) := by
  intro h w hw
  have hW := Option.some.inj hw
  have b0 := x0.code_lt
  have b1 := x1.isLt
  have b2 := bool_toNat_lt x2
  have b3 := x3.code_lt
  have g3 : x3.wf = true := h
  have f25_7 : fld w 25 7 = 97 := by simp only [fld]; omega
  have f0_9 : fld w 0 9 = x3.code := by simp only [fld]; omega
  have f9_1 : fld w 9 1 = x2.toNat := by simp only [fld]; omega
  have f10_4 : fld w 10 4 = 0 := by simp only [fld]; omega
  have f14_4 : fld w 14 4 = 4 := by simp only [fld]; omega
  have f18_5 : fld w 18 5 = x1.toNat := by simp only [fld]; omega
  have f23_2 : fld w 23 2 = x0.code := by simp only [fld]; omega
  refine ⟨by omega, ?_⟩
  unfold decodeWord
  rw [f25_7]
  simp [decOp61, Except.bind, f0_9, f9_1, f10_4, f14_4, f18_5, f23_2, predOf_code, boolOf_toNat, tgtOf_code x3 g3]

theorem RoundTrip.hldc (x0 : Pred) (x1 : BitVec 5) (x2 : Bool) (x3 : Bool) (x4 : MemSize) (x5 : Tgt) : RoundTrip.Statement (.hldc x0 x1 x2 x3 x4 x5) := by
  intro h w hw
  have hW := Option.some.inj hw
  have b0 := x0.code_lt
  have b1 := x1.isLt
  have b2 := bool_toNat_lt x2
  have b3 := bool_toNat_lt x3
  have b4 := x4.code_lt
  have b5 := x5.code_lt
  have g : (x5.wf && (!x2 || decide (x4 = .d))) = true := h
  simp at g
  have f25_7 : fld w 25 7 = 97 := by simp only [fld]; omega
  have f0_9 : fld w 0 9 = x5.code := by simp only [fld]; omega
  have f9_2 : fld w 9 2 = x4.code := by simp only [fld]; omega
  have f11_1 : fld w 11 1 = x3.toNat := by simp only [fld]; omega
  have f12_1 : fld w 12 1 = x2.toNat := by simp only [fld]; omega
  have f13_1 : fld w 13 1 = 0 := by simp only [fld]; omega
  have f14_4 : fld w 14 4 = 5 := by simp only [fld]; omega
  have f18_5 : fld w 18 5 = x1.toNat := by simp only [fld]; omega
  have f23_2 : fld w 23 2 = x0.code := by simp only [fld]; omega
  refine ⟨by omega, ?_⟩
  unfold decodeWord
  rw [f25_7]
  simp [decOp61, Except.bind, f0_9, f9_2, f11_1, f12_1, f13_1, f14_4, f18_5, f23_2, predOf_code, boolOf_toNat, memSizeOf_code, tgtOf_code x5 g.1]
  intro hx
  rcases g.2 with h1 | h1
  · rw [hx] at h1; cases h1
  · rw [h1]; rfl

theorem RoundTrip.tdef (x0 : Pred) (x1 : BitVec 5) (x2 : BitVec 5) : RoundTrip.Statement (.tdef x0 x1 x2) := by
  intro _ w hw
  have hW := Option.some.inj hw
  have b0 := x0.code_lt
  have b1 := x1.isLt
  have b2 := x2.isLt
  have f25_7 : fld w 25 7 = 98 := by simp only [fld]; omega
  have f0_9 : fld w 0 9 = 0 := by simp only [fld]; omega
  have f9_5 : fld w 9 5 = x2.toNat := by simp only [fld]; omega
  have f14_4 : fld w 14 4 = 0 := by simp only [fld]; omega
  have f18_5 : fld w 18 5 = x1.toNat := by simp only [fld]; omega
  have f23_2 : fld w 23 2 = x0.code := by simp only [fld]; omega
  refine ⟨by omega, ?_⟩
  unfold decodeWord
  rw [f25_7]
  simp [decOp62, Except.bind, f0_9, f9_5, f14_4, f18_5, f23_2, predOf_code]

theorem RoundTrip.tload (x0 : Pred) (x1 : BitVec 5) (x2 : BitVec 5) : RoundTrip.Statement (.tload x0 x1 x2) := by
  intro _ w hw
  have hW := Option.some.inj hw
  have b0 := x0.code_lt
  have b1 := x1.isLt
  have b2 := x2.isLt
  have f25_7 : fld w 25 7 = 98 := by simp only [fld]; omega
  have f0_8 : fld w 0 8 = 0 := by simp only [fld]; omega
  have f8_1 : fld w 8 1 = 0 := by simp only [fld]; omega
  have f9_5 : fld w 9 5 = x2.toNat := by simp only [fld]; omega
  have f14_4 : fld w 14 4 = 1 := by simp only [fld]; omega
  have f18_5 : fld w 18 5 = x1.toNat := by simp only [fld]; omega
  have f23_2 : fld w 23 2 = x0.code := by simp only [fld]; omega
  refine ⟨by omega, ?_⟩
  unfold decodeWord
  rw [f25_7]
  simp [decOp62, Except.bind, f0_8, f8_1, f9_5, f14_4, f18_5, f23_2, predOf_code]

theorem RoundTrip.tloadEdge (x0 : Pred) (x1 : BitVec 5) (x2 : BitVec 5) (x3 : BitVec 3) : RoundTrip.Statement (.tloadEdge x0 x1 x2 x3) := by
  intro _ w hw
  have hW := Option.some.inj hw
  have b0 := x0.code_lt
  have b1 := x1.isLt
  have b2 := x2.isLt
  have b3 := x3.isLt
  have f25_7 : fld w 25 7 = 98 := by simp only [fld]; omega
  have f0_4 : fld w 0 4 = 0 := by simp only [fld]; omega
  have f4_3 : fld w 4 3 = x3.toNat := by simp only [fld]; omega
  have f7_1 : fld w 7 1 = 0 := by simp only [fld]; omega
  have f8_1 : fld w 8 1 = 1 := by simp only [fld]; omega
  have f9_5 : fld w 9 5 = x2.toNat := by simp only [fld]; omega
  have f14_4 : fld w 14 4 = 1 := by simp only [fld]; omega
  have f18_5 : fld w 18 5 = x1.toNat := by simp only [fld]; omega
  have f23_2 : fld w 23 2 = x0.code := by simp only [fld]; omega
  refine ⟨by omega, ?_⟩
  unfold decodeWord
  rw [f25_7]
  simp [decOp62, Except.bind, f0_4, f4_3, f7_1, f8_1, f9_5, f14_4, f18_5, f23_2, predOf_code]

theorem RoundTrip.tstore (x0 : Pred) (x1 : BitVec 5) (x2 : BitVec 5) : RoundTrip.Statement (.tstore x0 x1 x2) := by
  intro _ w hw
  have hW := Option.some.inj hw
  have b0 := x0.code_lt
  have b1 := x1.isLt
  have b2 := x2.isLt
  have f25_7 : fld w 25 7 = 98 := by simp only [fld]; omega
  have f0_8 : fld w 0 8 = 0 := by simp only [fld]; omega
  have f8_1 : fld w 8 1 = 0 := by simp only [fld]; omega
  have f9_5 : fld w 9 5 = x2.toNat := by simp only [fld]; omega
  have f14_4 : fld w 14 4 = 2 := by simp only [fld]; omega
  have f18_5 : fld w 18 5 = x1.toNat := by simp only [fld]; omega
  have f23_2 : fld w 23 2 = x0.code := by simp only [fld]; omega
  refine ⟨by omega, ?_⟩
  unfold decodeWord
  rw [f25_7]
  simp [decOp62, Except.bind, f0_8, f8_1, f9_5, f14_4, f18_5, f23_2, predOf_code]

theorem RoundTrip.tstoreEdge (x0 : Pred) (x1 : BitVec 5) (x2 : BitVec 5) (x3 : BitVec 3) : RoundTrip.Statement (.tstoreEdge x0 x1 x2 x3) := by
  intro _ w hw
  have hW := Option.some.inj hw
  have b0 := x0.code_lt
  have b1 := x1.isLt
  have b2 := x2.isLt
  have b3 := x3.isLt
  have f25_7 : fld w 25 7 = 98 := by simp only [fld]; omega
  have f0_4 : fld w 0 4 = 0 := by simp only [fld]; omega
  have f4_3 : fld w 4 3 = x3.toNat := by simp only [fld]; omega
  have f7_1 : fld w 7 1 = 0 := by simp only [fld]; omega
  have f8_1 : fld w 8 1 = 1 := by simp only [fld]; omega
  have f9_5 : fld w 9 5 = x2.toNat := by simp only [fld]; omega
  have f14_4 : fld w 14 4 = 2 := by simp only [fld]; omega
  have f18_5 : fld w 18 5 = x1.toNat := by simp only [fld]; omega
  have f23_2 : fld w 23 2 = x0.code := by simp only [fld]; omega
  refine ⟨by omega, ?_⟩
  unfold decodeWord
  rw [f25_7]
  simp [decOp62, Except.bind, f0_4, f4_3, f7_1, f8_1, f9_5, f14_4, f18_5, f23_2, predOf_code]

theorem RoundTrip.tfree (x0 : Pred) (x1 : BitVec 5) (x2 : BitVec 5) : RoundTrip.Statement (.tfree x0 x1 x2) := by
  intro _ w hw
  have hW := Option.some.inj hw
  have b0 := x0.code_lt
  have b1 := x1.isLt
  have b2 := x2.isLt
  have f25_7 : fld w 25 7 = 98 := by simp only [fld]; omega
  have f0_9 : fld w 0 9 = 0 := by simp only [fld]; omega
  have f9_5 : fld w 9 5 = x2.toNat := by simp only [fld]; omega
  have f14_4 : fld w 14 4 = 3 := by simp only [fld]; omega
  have f18_5 : fld w 18 5 = x1.toNat := by simp only [fld]; omega
  have f23_2 : fld w 23 2 = x0.code := by simp only [fld]; omega
  refine ⟨by omega, ?_⟩
  unfold decodeWord
  rw [f25_7]
  simp [decOp62, Except.bind, f0_9, f9_5, f14_4, f18_5, f23_2, predOf_code]

theorem RoundTrip.mma (x0 : Pred) (x1 : BitVec 5) (x2 : BitVec 5) (x3 : BitVec 5) : RoundTrip.Statement (.mma x0 x1 x2 x3) := by
  intro _ w hw
  have hW := Option.some.inj hw
  have b0 := x0.code_lt
  have b1 := x1.isLt
  have b2 := x2.isLt
  have b3 := x3.isLt
  have f25_7 : fld w 25 7 = 98 := by simp only [fld]; omega
  have f0_4 : fld w 0 4 = 0 := by simp only [fld]; omega
  have f4_5 : fld w 4 5 = x3.toNat := by simp only [fld]; omega
  have f9_5 : fld w 9 5 = x2.toNat := by simp only [fld]; omega
  have f14_4 : fld w 14 4 = 4 := by simp only [fld]; omega
  have f18_5 : fld w 18 5 = x1.toNat := by simp only [fld]; omega
  have f23_2 : fld w 23 2 = x0.code := by simp only [fld]; omega
  refine ⟨by omega, ?_⟩
  unfold decodeWord
  rw [f25_7]
  simp [decOp62, Except.bind, f0_4, f4_5, f9_5, f14_4, f18_5, f23_2, predOf_code]

theorem RoundTrip.mmai (x0 : Pred) (x1 : BitVec 5) (x2 : BitVec 5) (x3 : BitVec 5) : RoundTrip.Statement (.mmai x0 x1 x2 x3) := by
  intro _ w hw
  have hW := Option.some.inj hw
  have b0 := x0.code_lt
  have b1 := x1.isLt
  have b2 := x2.isLt
  have b3 := x3.isLt
  have f25_7 : fld w 25 7 = 98 := by simp only [fld]; omega
  have f0_4 : fld w 0 4 = 0 := by simp only [fld]; omega
  have f4_5 : fld w 4 5 = x3.toNat := by simp only [fld]; omega
  have f9_5 : fld w 9 5 = x2.toNat := by simp only [fld]; omega
  have f14_4 : fld w 14 4 = 5 := by simp only [fld]; omega
  have f18_5 : fld w 18 5 = x1.toNat := by simp only [fld]; omega
  have f23_2 : fld w 23 2 = x0.code := by simp only [fld]; omega
  refine ⟨by omega, ?_⟩
  unfold decodeWord
  rw [f25_7]
  simp [decOp62, Except.bind, f0_4, f4_5, f9_5, f14_4, f18_5, f23_2, predOf_code]

theorem RoundTrip.maccrd (x0 : Pred) (x1 : BitVec 5) (x2 : BitVec 5) : RoundTrip.Statement (.maccrd x0 x1 x2) := by
  intro _ w hw
  have hW := Option.some.inj hw
  have b0 := x0.code_lt
  have b1 := x1.isLt
  have b2 := x2.isLt
  have f25_7 : fld w 25 7 = 98 := by simp only [fld]; omega
  have f0_9 : fld w 0 9 = 0 := by simp only [fld]; omega
  have f9_5 : fld w 9 5 = x2.toNat := by simp only [fld]; omega
  have f14_4 : fld w 14 4 = 6 := by simp only [fld]; omega
  have f18_5 : fld w 18 5 = x1.toNat := by simp only [fld]; omega
  have f23_2 : fld w 23 2 = x0.code := by simp only [fld]; omega
  refine ⟨by omega, ?_⟩
  unfold decodeWord
  rw [f25_7]
  simp [decOp62, Except.bind, f0_9, f9_5, f14_4, f18_5, f23_2, predOf_code]

theorem RoundTrip.macclr (x0 : Pred) (x1 : BitVec 5) : RoundTrip.Statement (.macclr x0 x1) := by
  intro _ w hw
  have hW := Option.some.inj hw
  have b0 := x0.code_lt
  have b1 := x1.isLt
  have f25_7 : fld w 25 7 = 98 := by simp only [fld]; omega
  have f0_14 : fld w 0 14 = 0 := by simp only [fld]; omega
  have f14_4 : fld w 14 4 = 7 := by simp only [fld]; omega
  have f18_5 : fld w 18 5 = x1.toNat := by simp only [fld]; omega
  have f23_2 : fld w 23 2 = x0.code := by simp only [fld]; omega
  refine ⟨by omega, ?_⟩
  unfold decodeWord
  rw [f25_7]
  simp [decOp62, Except.bind, f0_14, f14_4, f18_5, f23_2, predOf_code]

theorem RoundTrip.maccld (x0 : Pred) (x1 : BitVec 5) (x2 : BitVec 5) : RoundTrip.Statement (.maccld x0 x1 x2) := by
  intro _ w hw
  have hW := Option.some.inj hw
  have b0 := x0.code_lt
  have b1 := x1.isLt
  have b2 := x2.isLt
  have f25_7 : fld w 25 7 = 98 := by simp only [fld]; omega
  have f0_9 : fld w 0 9 = 0 := by simp only [fld]; omega
  have f9_5 : fld w 9 5 = x2.toNat := by simp only [fld]; omega
  have f14_4 : fld w 14 4 = 8 := by simp only [fld]; omega
  have f18_5 : fld w 18 5 = x1.toNat := by simp only [fld]; omega
  have f23_2 : fld w 23 2 = x0.code := by simp only [fld]; omega
  refine ⟨by omega, ?_⟩
  unfold decodeWord
  rw [f25_7]
  simp [decOp62, Except.bind, f0_9, f9_5, f14_4, f18_5, f23_2, predOf_code]

theorem RoundTrip.mew (x0 : Pred) (x1 : BitVec 5) (x2 : BitVec 5) : RoundTrip.Statement (.mew x0 x1 x2) := by
  intro _ w hw
  have hW := Option.some.inj hw
  have b0 := x0.code_lt
  have b1 := x1.isLt
  have b2 := x2.isLt
  have f25_7 : fld w 25 7 = 98 := by simp only [fld]; omega
  have f0_9 : fld w 0 9 = 0 := by simp only [fld]; omega
  have f9_5 : fld w 9 5 = x2.toNat := by simp only [fld]; omega
  have f14_4 : fld w 14 4 = 9 := by simp only [fld]; omega
  have f18_5 : fld w 18 5 = x1.toNat := by simp only [fld]; omega
  have f23_2 : fld w 23 2 = x0.code := by simp only [fld]; omega
  refine ⟨by omega, ?_⟩
  unfold decodeWord
  rw [f25_7]
  simp [decOp62, Except.bind, f0_9, f9_5, f14_4, f18_5, f23_2, predOf_code]

theorem RoundTrip.mcopy (x0 : Pred) (x1 : BitVec 5) (x2 : BitVec 5) (x3 : BitVec 5) : RoundTrip.Statement (.mcopy x0 x1 x2 x3) := by
  intro _ w hw
  have hW := Option.some.inj hw
  have b0 := x0.code_lt
  have b1 := x1.isLt
  have b2 := x2.isLt
  have b3 := x3.isLt
  have f25_7 : fld w 25 7 = 98 := by simp only [fld]; omega
  have f0_4 : fld w 0 4 = 0 := by simp only [fld]; omega
  have f4_5 : fld w 4 5 = x3.toNat := by simp only [fld]; omega
  have f9_5 : fld w 9 5 = x2.toNat := by simp only [fld]; omega
  have f14_4 : fld w 14 4 = 10 := by simp only [fld]; omega
  have f18_5 : fld w 18 5 = x1.toNat := by simp only [fld]; omega
  have f23_2 : fld w 23 2 = x0.code := by simp only [fld]; omega
  refine ⟨by omega, ?_⟩
  unfold decodeWord
  rw [f25_7]
  simp [decOp62, Except.bind, f0_4, f4_5, f9_5, f14_4, f18_5, f23_2, predOf_code]

theorem RoundTrip.msplat (x0 : Pred) (x1 : BitVec 5) (x2 : BitVec 5) : RoundTrip.Statement (.msplat x0 x1 x2) := by
  intro _ w hw
  have hW := Option.some.inj hw
  have b0 := x0.code_lt
  have b1 := x1.isLt
  have b2 := x2.isLt
  have f25_7 : fld w 25 7 = 98 := by simp only [fld]; omega
  have f0_9 : fld w 0 9 = 0 := by simp only [fld]; omega
  have f9_5 : fld w 9 5 = x2.toNat := by simp only [fld]; omega
  have f14_4 : fld w 14 4 = 11 := by simp only [fld]; omega
  have f18_5 : fld w 18 5 = x1.toNat := by simp only [fld]; omega
  have f23_2 : fld w 23 2 = x0.code := by simp only [fld]; omega
  refine ⟨by omega, ?_⟩
  unfold decodeWord
  rw [f25_7]
  simp [decOp62, Except.bind, f0_9, f9_5, f14_4, f18_5, f23_2, predOf_code]

theorem RoundTrip.scopy (x0 : Pred) (x1 : BitVec 5) (x2 : BitVec 2) (x3 : Tgt) : RoundTrip.Statement (.scopy x0 x1 x2 x3) := by
  intro h w hw
  have hW := Option.some.inj hw
  have b0 := x0.code_lt
  have b1 := x1.isLt
  have b2 := x2.isLt
  have b3 := x3.code_lt
  have g3 : x3.wf = true := h
  have f25_7 : fld w 25 7 = 99 := by simp only [fld]; omega
  have f0_9 : fld w 0 9 = x3.code := by simp only [fld]; omega
  have f9_2 : fld w 9 2 = x2.toNat := by simp only [fld]; omega
  have f11_3 : fld w 11 3 = 0 := by simp only [fld]; omega
  have f14_4 : fld w 14 4 = 0 := by simp only [fld]; omega
  have f18_5 : fld w 18 5 = x1.toNat := by simp only [fld]; omega
  have f23_2 : fld w 23 2 = x0.code := by simp only [fld]; omega
  refine ⟨by omega, ?_⟩
  unfold decodeWord
  rw [f25_7]
  simp [decOp63, Except.bind, f0_9, f9_2, f11_3, f14_4, f18_5, f23_2, predOf_code, tgtOf_code x3 g3]

theorem RoundTrip.sgath (x0 : Pred) (x1 : BitVec 5) (x2 : BitVec 2) (x3 : Tgt) : RoundTrip.Statement (.sgath x0 x1 x2 x3) := by
  intro h w hw
  have hW := Option.some.inj hw
  have b0 := x0.code_lt
  have b1 := x1.isLt
  have b2 := x2.isLt
  have b3 := x3.code_lt
  have g3 : x3.wf = true := h
  have f25_7 : fld w 25 7 = 99 := by simp only [fld]; omega
  have f0_9 : fld w 0 9 = x3.code := by simp only [fld]; omega
  have f9_2 : fld w 9 2 = x2.toNat := by simp only [fld]; omega
  have f11_3 : fld w 11 3 = 0 := by simp only [fld]; omega
  have f14_4 : fld w 14 4 = 1 := by simp only [fld]; omega
  have f18_5 : fld w 18 5 = x1.toNat := by simp only [fld]; omega
  have f23_2 : fld w 23 2 = x0.code := by simp only [fld]; omega
  refine ⟨by omega, ?_⟩
  unfold decodeWord
  rw [f25_7]
  simp [decOp63, Except.bind, f0_9, f9_2, f11_3, f14_4, f18_5, f23_2, predOf_code, tgtOf_code x3 g3]

theorem RoundTrip.sscat (x0 : Pred) (x1 : BitVec 5) (x2 : BitVec 2) (x3 : Tgt) : RoundTrip.Statement (.sscat x0 x1 x2 x3) := by
  intro h w hw
  have hW := Option.some.inj hw
  have b0 := x0.code_lt
  have b1 := x1.isLt
  have b2 := x2.isLt
  have b3 := x3.code_lt
  have g3 : x3.wf = true := h
  have f25_7 : fld w 25 7 = 99 := by simp only [fld]; omega
  have f0_9 : fld w 0 9 = x3.code := by simp only [fld]; omega
  have f9_2 : fld w 9 2 = x2.toNat := by simp only [fld]; omega
  have f11_3 : fld w 11 3 = 0 := by simp only [fld]; omega
  have f14_4 : fld w 14 4 = 2 := by simp only [fld]; omega
  have f18_5 : fld w 18 5 = x1.toNat := by simp only [fld]; omega
  have f23_2 : fld w 23 2 = x0.code := by simp only [fld]; omega
  refine ⟨by omega, ?_⟩
  unfold decodeWord
  rw [f25_7]
  simp [decOp63, Except.bind, f0_9, f9_2, f11_3, f14_4, f18_5, f23_2, predOf_code, tgtOf_code x3 g3]

theorem RoundTrip.slayout (x0 : Pred) (x1 : BitVec 5) (x2 : BitVec 2) (x3 : Tgt) : RoundTrip.Statement (.slayout x0 x1 x2 x3) := by
  intro h w hw
  have hW := Option.some.inj hw
  have b0 := x0.code_lt
  have b1 := x1.isLt
  have b2 := x2.isLt
  have b3 := x3.code_lt
  have g3 : x3.wf = true := h
  have f25_7 : fld w 25 7 = 99 := by simp only [fld]; omega
  have f0_9 : fld w 0 9 = x3.code := by simp only [fld]; omega
  have f9_2 : fld w 9 2 = x2.toNat := by simp only [fld]; omega
  have f11_3 : fld w 11 3 = 0 := by simp only [fld]; omega
  have f14_4 : fld w 14 4 = 3 := by simp only [fld]; omega
  have f18_5 : fld w 18 5 = x1.toNat := by simp only [fld]; omega
  have f23_2 : fld w 23 2 = x0.code := by simp only [fld]; omega
  refine ⟨by omega, ?_⟩
  unfold decodeWord
  rw [f25_7]
  simp [decOp63, Except.bind, f0_9, f9_2, f11_3, f14_4, f18_5, f23_2, predOf_code, tgtOf_code x3 g3]

theorem RoundTrip.sfill (x0 : Pred) (x1 : BitVec 5) (x2 : BitVec 2) (x3 : Tgt) : RoundTrip.Statement (.sfill x0 x1 x2 x3) := by
  intro h w hw
  have hW := Option.some.inj hw
  have b0 := x0.code_lt
  have b1 := x1.isLt
  have b2 := x2.isLt
  have b3 := x3.code_lt
  have g3 : x3.wf = true := h
  have f25_7 : fld w 25 7 = 99 := by simp only [fld]; omega
  have f0_9 : fld w 0 9 = x3.code := by simp only [fld]; omega
  have f9_2 : fld w 9 2 = x2.toNat := by simp only [fld]; omega
  have f11_3 : fld w 11 3 = 0 := by simp only [fld]; omega
  have f14_4 : fld w 14 4 = 4 := by simp only [fld]; omega
  have f18_5 : fld w 18 5 = x1.toNat := by simp only [fld]; omega
  have f23_2 : fld w 23 2 = x0.code := by simp only [fld]; omega
  refine ⟨by omega, ?_⟩
  unfold decodeWord
  rw [f25_7]
  simp [decOp63, Except.bind, f0_9, f9_2, f11_3, f14_4, f18_5, f23_2, predOf_code, tgtOf_code x3 g3]

theorem RoundTrip.sfence (x0 : Pred) (x1 : BitVec 5) (x2 : Scope) (x3 : Tgt) : RoundTrip.Statement (.sfence x0 x1 x2 x3) := by
  intro h w hw
  have hW := Option.some.inj hw
  have b0 := x0.code_lt
  have b1 := x1.isLt
  have b2 := x2.code_lt
  have b3 := x3.code_lt
  have g3 : x3.wf = true := h
  have f25_7 : fld w 25 7 = 99 := by simp only [fld]; omega
  have f0_9 : fld w 0 9 = x3.code := by simp only [fld]; omega
  have f9_2 : fld w 9 2 = x2.code := by simp only [fld]; omega
  have f11_3 : fld w 11 3 = 0 := by simp only [fld]; omega
  have f14_4 : fld w 14 4 = 5 := by simp only [fld]; omega
  have f18_5 : fld w 18 5 = x1.toNat := by simp only [fld]; omega
  have f23_2 : fld w 23 2 = x0.code := by simp only [fld]; omega
  refine ⟨by omega, ?_⟩
  unfold decodeWord
  rw [f25_7]
  simp [decOp63, Except.bind, f0_9, f9_2, f11_3, f14_4, f18_5, f23_2, predOf_code, scopeOf_code, tgtOf_code x3 g3]

theorem RoundTrip.swait (x0 : Pred) (x1 : BitVec 5) (x2 : Bool) (x3 : Tgt) : RoundTrip.Statement (.swait x0 x1 x2 x3) := by
  intro h w hw
  have hW := Option.some.inj hw
  have b0 := x0.code_lt
  have b1 := x1.isLt
  have b2 := bool_toNat_lt x2
  have b3 := x3.code_lt
  have g3 : x3.wf = true := h
  have f25_7 : fld w 25 7 = 99 := by simp only [fld]; omega
  have f0_9 : fld w 0 9 = x3.code := by simp only [fld]; omega
  have f9_1 : fld w 9 1 = x2.toNat := by simp only [fld]; omega
  have f10_4 : fld w 10 4 = 0 := by simp only [fld]; omega
  have f14_4 : fld w 14 4 = 6 := by simp only [fld]; omega
  have f18_5 : fld w 18 5 = x1.toNat := by simp only [fld]; omega
  have f23_2 : fld w 23 2 = x0.code := by simp only [fld]; omega
  refine ⟨by omega, ?_⟩
  unfold decodeWord
  rw [f25_7]
  simp [decOp63, Except.bind, f0_9, f9_1, f10_4, f14_4, f18_5, f23_2, predOf_code, boolOf_toNat, tgtOf_code x3 g3]

theorem RoundTrip.vwreg (x0 : Pred) (x1 : BitVec 5) (x2 : Tgt) : RoundTrip.Statement (.vwreg x0 x1 x2) := by
  intro h w hw
  have hW := Option.some.inj hw
  have b0 := x0.code_lt
  have b1 := x1.isLt
  have b2 := x2.code_lt
  have g2 : x2.wf = true := h
  have f25_7 : fld w 25 7 = 100 := by simp only [fld]; omega
  have f0_9 : fld w 0 9 = x2.code := by simp only [fld]; omega
  have f9_5 : fld w 9 5 = 0 := by simp only [fld]; omega
  have f14_4 : fld w 14 4 = 0 := by simp only [fld]; omega
  have f18_5 : fld w 18 5 = x1.toNat := by simp only [fld]; omega
  have f23_2 : fld w 23 2 = x0.code := by simp only [fld]; omega
  refine ⟨by omega, ?_⟩
  unfold decodeWord
  rw [f25_7]
  simp [decOp64, Except.bind, f0_9, f9_5, f14_4, f18_5, f23_2, predOf_code, tgtOf_code x2 g2]

theorem RoundTrip.vwdrop (x0 : Pred) (x1 : BitVec 5) : RoundTrip.Statement (.vwdrop x0 x1) := by
  intro _ w hw
  have hW := Option.some.inj hw
  have b0 := x0.code_lt
  have b1 := x1.isLt
  have f25_7 : fld w 25 7 = 100 := by simp only [fld]; omega
  have f0_14 : fld w 0 14 = 0 := by simp only [fld]; omega
  have f14_4 : fld w 14 4 = 1 := by simp only [fld]; omega
  have f18_5 : fld w 18 5 = x1.toNat := by simp only [fld]; omega
  have f23_2 : fld w 23 2 = x0.code := by simp only [fld]; omega
  refine ⟨by omega, ?_⟩
  unfold decodeWord
  rw [f25_7]
  simp [decOp64, Except.bind, f0_14, f14_4, f18_5, f23_2, predOf_code]

theorem RoundTrip.vwsync (x0 : Pred) (x1 : BitVec 5) (x2 : Bool) (x3 : Tgt) : RoundTrip.Statement (.vwsync x0 x1 x2 x3) := by
  intro h w hw
  have hW := Option.some.inj hw
  have b0 := x0.code_lt
  have b1 := x1.isLt
  have b2 := bool_toNat_lt x2
  have b3 := x3.code_lt
  have g3 : x3.wf = true := h
  have f25_7 : fld w 25 7 = 100 := by simp only [fld]; omega
  have f0_9 : fld w 0 9 = x3.code := by simp only [fld]; omega
  have f9_1 : fld w 9 1 = x2.toNat := by simp only [fld]; omega
  have f10_4 : fld w 10 4 = 0 := by simp only [fld]; omega
  have f14_4 : fld w 14 4 = 2 := by simp only [fld]; omega
  have f18_5 : fld w 18 5 = x1.toNat := by simp only [fld]; omega
  have f23_2 : fld w 23 2 = x0.code := by simp only [fld]; omega
  refine ⟨by omega, ?_⟩
  unfold decodeWord
  rw [f25_7]
  simp [decOp64, Except.bind, f0_9, f9_1, f10_4, f14_4, f18_5, f23_2, predOf_code, boolOf_toNat, tgtOf_code x3 g3]

theorem RoundTrip.vwqry (x0 : Pred) (x1 : BitVec 5) (x2 : Bool) (x3 : Tgt) : RoundTrip.Statement (.vwqry x0 x1 x2 x3) := by
  intro h w hw
  have hW := Option.some.inj hw
  have b0 := x0.code_lt
  have b1 := x1.isLt
  have b2 := bool_toNat_lt x2
  have b3 := x3.code_lt
  have g3 : x3.wf = true := h
  have f25_7 : fld w 25 7 = 100 := by simp only [fld]; omega
  have f0_9 : fld w 0 9 = x3.code := by simp only [fld]; omega
  have f9_1 : fld w 9 1 = x2.toNat := by simp only [fld]; omega
  have f10_4 : fld w 10 4 = 0 := by simp only [fld]; omega
  have f14_4 : fld w 14 4 = 3 := by simp only [fld]; omega
  have f18_5 : fld w 18 5 = x1.toNat := by simp only [fld]; omega
  have f23_2 : fld w 23 2 = x0.code := by simp only [fld]; omega
  refine ⟨by omega, ?_⟩
  unfold decodeWord
  rw [f25_7]
  simp [decOp64, Except.bind, f0_9, f9_1, f10_4, f14_4, f18_5, f23_2, predOf_code, boolOf_toNat, tgtOf_code x3 g3]

theorem RoundTrip.vwpol (x0 : Pred) (x1 : BitVec 5) : RoundTrip.Statement (.vwpol x0 x1) := by
  intro _ w hw
  have hW := Option.some.inj hw
  have b0 := x0.code_lt
  have b1 := x1.isLt
  have f25_7 : fld w 25 7 = 100 := by simp only [fld]; omega
  have f0_14 : fld w 0 14 = 0 := by simp only [fld]; omega
  have f14_4 : fld w 14 4 = 4 := by simp only [fld]; omega
  have f18_5 : fld w 18 5 = x1.toNat := by simp only [fld]; omega
  have f23_2 : fld w 23 2 = x0.code := by simp only [fld]; omega
  refine ⟨by omega, ?_⟩
  unfold decodeWord
  rw [f25_7]
  simp [decOp64, Except.bind, f0_14, f14_4, f18_5, f23_2, predOf_code]

theorem RoundTrip.pload (x0 : Pred) (x1 : BitVec 5) (x2 : Tgt) : RoundTrip.Statement (.pload x0 x1 x2) := by
  intro h w hw
  have hW := Option.some.inj hw
  have b0 := x0.code_lt
  have b1 := x1.isLt
  have b2 := x2.code_lt
  have g2 : x2.wf = true := h
  have f25_7 : fld w 25 7 = 101 := by simp only [fld]; omega
  have f0_9 : fld w 0 9 = x2.code := by simp only [fld]; omega
  have f9_5 : fld w 9 5 = 0 := by simp only [fld]; omega
  have f14_4 : fld w 14 4 = 0 := by simp only [fld]; omega
  have f18_5 : fld w 18 5 = x1.toNat := by simp only [fld]; omega
  have f23_2 : fld w 23 2 = x0.code := by simp only [fld]; omega
  refine ⟨by omega, ?_⟩
  unfold decodeWord
  rw [f25_7]
  simp [decOp65, Except.bind, f0_9, f9_5, f14_4, f18_5, f23_2, predOf_code, tgtOf_code x2 g2]

theorem RoundTrip.punload (x0 : Pred) (x1 : BitVec 5) (x2 : Tgt) : RoundTrip.Statement (.punload x0 x1 x2) := by
  intro h w hw
  have hW := Option.some.inj hw
  have b0 := x0.code_lt
  have b1 := x1.isLt
  have b2 := x2.code_lt
  have g2 : x2.wf = true := h
  have f25_7 : fld w 25 7 = 101 := by simp only [fld]; omega
  have f0_9 : fld w 0 9 = x2.code := by simp only [fld]; omega
  have f9_5 : fld w 9 5 = 0 := by simp only [fld]; omega
  have f14_4 : fld w 14 4 = 1 := by simp only [fld]; omega
  have f18_5 : fld w 18 5 = x1.toNat := by simp only [fld]; omega
  have f23_2 : fld w 23 2 = x0.code := by simp only [fld]; omega
  refine ⟨by omega, ?_⟩
  unfold decodeWord
  rw [f25_7]
  simp [decOp65, Except.bind, f0_9, f9_5, f14_4, f18_5, f23_2, predOf_code, tgtOf_code x2 g2]

theorem RoundTrip.pstart (x0 : Pred) (x1 : BitVec 5) (x2 : Tgt) : RoundTrip.Statement (.pstart x0 x1 x2) := by
  intro h w hw
  have hW := Option.some.inj hw
  have b0 := x0.code_lt
  have b1 := x1.isLt
  have b2 := x2.code_lt
  have g2 : x2.wf = true := h
  have f25_7 : fld w 25 7 = 101 := by simp only [fld]; omega
  have f0_9 : fld w 0 9 = x2.code := by simp only [fld]; omega
  have f9_5 : fld w 9 5 = 0 := by simp only [fld]; omega
  have f14_4 : fld w 14 4 = 2 := by simp only [fld]; omega
  have f18_5 : fld w 18 5 = x1.toNat := by simp only [fld]; omega
  have f23_2 : fld w 23 2 = x0.code := by simp only [fld]; omega
  refine ⟨by omega, ?_⟩
  unfold decodeWord
  rw [f25_7]
  simp [decOp65, Except.bind, f0_9, f9_5, f14_4, f18_5, f23_2, predOf_code, tgtOf_code x2 g2]

theorem RoundTrip.pstop (x0 : Pred) (x1 : BitVec 5) (x2 : Tgt) : RoundTrip.Statement (.pstop x0 x1 x2) := by
  intro h w hw
  have hW := Option.some.inj hw
  have b0 := x0.code_lt
  have b1 := x1.isLt
  have b2 := x2.code_lt
  have g2 : x2.wf = true := h
  have f25_7 : fld w 25 7 = 101 := by simp only [fld]; omega
  have f0_9 : fld w 0 9 = x2.code := by simp only [fld]; omega
  have f9_5 : fld w 9 5 = 0 := by simp only [fld]; omega
  have f14_4 : fld w 14 4 = 3 := by simp only [fld]; omega
  have f18_5 : fld w 18 5 = x1.toNat := by simp only [fld]; omega
  have f23_2 : fld w 23 2 = x0.code := by simp only [fld]; omega
  refine ⟨by omega, ?_⟩
  unfold decodeWord
  rw [f25_7]
  simp [decOp65, Except.bind, f0_9, f9_5, f14_4, f18_5, f23_2, predOf_code, tgtOf_code x2 g2]

theorem RoundTrip.psave (x0 : Pred) (x1 : BitVec 5) (x2 : Tgt) : RoundTrip.Statement (.psave x0 x1 x2) := by
  intro h w hw
  have hW := Option.some.inj hw
  have b0 := x0.code_lt
  have b1 := x1.isLt
  have b2 := x2.code_lt
  have g2 : x2.wf = true := h
  have f25_7 : fld w 25 7 = 101 := by simp only [fld]; omega
  have f0_9 : fld w 0 9 = x2.code := by simp only [fld]; omega
  have f9_5 : fld w 9 5 = 0 := by simp only [fld]; omega
  have f14_4 : fld w 14 4 = 4 := by simp only [fld]; omega
  have f18_5 : fld w 18 5 = x1.toNat := by simp only [fld]; omega
  have f23_2 : fld w 23 2 = x0.code := by simp only [fld]; omega
  refine ⟨by omega, ?_⟩
  unfold decodeWord
  rw [f25_7]
  simp [decOp65, Except.bind, f0_9, f9_5, f14_4, f18_5, f23_2, predOf_code, tgtOf_code x2 g2]

theorem RoundTrip.prest (x0 : Pred) (x1 : BitVec 5) (x2 : Tgt) : RoundTrip.Statement (.prest x0 x1 x2) := by
  intro h w hw
  have hW := Option.some.inj hw
  have b0 := x0.code_lt
  have b1 := x1.isLt
  have b2 := x2.code_lt
  have g2 : x2.wf = true := h
  have f25_7 : fld w 25 7 = 101 := by simp only [fld]; omega
  have f0_9 : fld w 0 9 = x2.code := by simp only [fld]; omega
  have f9_5 : fld w 9 5 = 0 := by simp only [fld]; omega
  have f14_4 : fld w 14 4 = 5 := by simp only [fld]; omega
  have f18_5 : fld w 18 5 = x1.toNat := by simp only [fld]; omega
  have f23_2 : fld w 23 2 = x0.code := by simp only [fld]; omega
  refine ⟨by omega, ?_⟩
  unfold decodeWord
  rw [f25_7]
  simp [decOp65, Except.bind, f0_9, f9_5, f14_4, f18_5, f23_2, predOf_code, tgtOf_code x2 g2]

theorem RoundTrip.spush (x0 : BitVec 5) (x1 : BitVec 5) : RoundTrip.Statement (.spush x0 x1) := by
  intro _ w hw
  have hW := Option.some.inj hw
  have b0 := x0.isLt
  have b1 := x1.isLt
  have f25_7 : fld w 25 7 = 101 := by simp only [fld]; omega
  have f0_9 : fld w 0 9 = 0 := by simp only [fld]; omega
  have f9_5 : fld w 9 5 = x1.toNat := by simp only [fld]; omega
  have f14_4 : fld w 14 4 = 6 := by simp only [fld]; omega
  have f18_5 : fld w 18 5 = x0.toNat := by simp only [fld]; omega
  have f23_2 : fld w 23 2 = 0 := by simp only [fld]; omega
  refine ⟨by omega, ?_⟩
  unfold decodeWord
  rw [f25_7]
  simp [decOp65, f0_9, f9_5, f14_4, f18_5, f23_2]

theorem RoundTrip.spop (x0 : BitVec 5) (x1 : BitVec 5) (x2 : Tgt) : RoundTrip.Statement (.spop x0 x1 x2) := by
  intro h w hw
  have hW := Option.some.inj hw
  have b0 := x0.isLt
  have b1 := x1.isLt
  have b2 := x2.code_lt
  have g2 : x2.wf = true := h
  have f25_7 : fld w 25 7 = 101 := by simp only [fld]; omega
  have f0_9 : fld w 0 9 = x2.code := by simp only [fld]; omega
  have f9_5 : fld w 9 5 = x1.toNat := by simp only [fld]; omega
  have f14_4 : fld w 14 4 = 7 := by simp only [fld]; omega
  have f18_5 : fld w 18 5 = x0.toNat := by simp only [fld]; omega
  have f23_2 : fld w 23 2 = 0 := by simp only [fld]; omega
  refine ⟨by omega, ?_⟩
  unfold decodeWord
  rw [f25_7]
  simp [decOp65, f0_9, f9_5, f14_4, f18_5, f23_2, tgtOf_code x2 g2]

theorem RoundTrip.trap (x0 : Pred) (x1 : BitVec 5) : RoundTrip.Statement (.trap x0 x1) := by
  intro _ w hw
  have hW := Option.some.inj hw
  have b0 := x0.code_lt
  have b1 := x1.isLt
  have f25_7 : fld w 25 7 = 102 := by simp only [fld]; omega
  have f0_14 : fld w 0 14 = 0 := by simp only [fld]; omega
  have f14_4 : fld w 14 4 = 0 := by simp only [fld]; omega
  have f18_5 : fld w 18 5 = x1.toNat := by simp only [fld]; omega
  have f23_2 : fld w 23 2 = x0.code := by simp only [fld]; omega
  refine ⟨by omega, ?_⟩
  unfold decodeWord
  rw [f25_7]
  simp [decOp66, Except.bind, f0_14, f14_4, f18_5, f23_2, predOf_code]

theorem RoundTrip.rft (x0 : Pred) (x1 : BitVec 5) : RoundTrip.Statement (.rft x0 x1) := by
  intro _ w hw
  have hW := Option.some.inj hw
  have b0 := x0.code_lt
  have b1 := x1.isLt
  have f25_7 : fld w 25 7 = 102 := by simp only [fld]; omega
  have f0_14 : fld w 0 14 = 0 := by simp only [fld]; omega
  have f14_4 : fld w 14 4 = 1 := by simp only [fld]; omega
  have f18_5 : fld w 18 5 = x1.toNat := by simp only [fld]; omega
  have f23_2 : fld w 23 2 = x0.code := by simp only [fld]; omega
  refine ⟨by omega, ?_⟩
  unfold decodeWord
  rw [f25_7]
  simp [decOp66, Except.bind, f0_14, f14_4, f18_5, f23_2, predOf_code]

theorem RoundTrip.cread (x0 : Pred) (x1 : BitVec 5) (x2 : BitVec 5) (x3 : Tgt) : RoundTrip.Statement (.cread x0 x1 x2 x3) := by
  intro h w hw
  have hW := Option.some.inj hw
  have b0 := x0.code_lt
  have b1 := x1.isLt
  have b2 := x2.isLt
  have b3 := x3.code_lt
  have g3 : x3.wf = true := h
  have f25_7 : fld w 25 7 = 102 := by simp only [fld]; omega
  have f0_9 : fld w 0 9 = x3.code := by simp only [fld]; omega
  have f9_5 : fld w 9 5 = x2.toNat := by simp only [fld]; omega
  have f14_4 : fld w 14 4 = 2 := by simp only [fld]; omega
  have f18_5 : fld w 18 5 = x1.toNat := by simp only [fld]; omega
  have f23_2 : fld w 23 2 = x0.code := by simp only [fld]; omega
  refine ⟨by omega, ?_⟩
  unfold decodeWord
  rw [f25_7]
  simp [decOp66, Except.bind, f0_9, f9_5, f14_4, f18_5, f23_2, predOf_code, tgtOf_code x3 g3]

theorem RoundTrip.cwrite (x0 : Pred) (x1 : BitVec 5) (x2 : BitVec 5) : RoundTrip.Statement (.cwrite x0 x1 x2) := by
  intro _ w hw
  have hW := Option.some.inj hw
  have b0 := x0.code_lt
  have b1 := x1.isLt
  have b2 := x2.isLt
  have f25_7 : fld w 25 7 = 102 := by simp only [fld]; omega
  have f0_9 : fld w 0 9 = 0 := by simp only [fld]; omega
  have f9_5 : fld w 9 5 = x2.toNat := by simp only [fld]; omega
  have f14_4 : fld w 14 4 = 3 := by simp only [fld]; omega
  have f18_5 : fld w 18 5 = x1.toNat := by simp only [fld]; omega
  have f23_2 : fld w 23 2 = x0.code := by simp only [fld]; omega
  refine ⟨by omega, ?_⟩
  unfold decodeWord
  rw [f25_7]
  simp [decOp66, Except.bind, f0_9, f9_5, f14_4, f18_5, f23_2, predOf_code]

theorem RoundTrip.halt (x0 : Pred) (x1 : BitVec 5) : RoundTrip.Statement (.halt x0 x1) := by
  intro _ w hw
  have hW := Option.some.inj hw
  have b0 := x0.code_lt
  have b1 := x1.isLt
  have f25_7 : fld w 25 7 = 102 := by simp only [fld]; omega
  have f0_14 : fld w 0 14 = 0 := by simp only [fld]; omega
  have f14_4 : fld w 14 4 = 4 := by simp only [fld]; omega
  have f18_5 : fld w 18 5 = x1.toNat := by simp only [fld]; omega
  have f23_2 : fld w 23 2 = x0.code := by simp only [fld]; omega
  refine ⟨by omega, ?_⟩
  unfold decodeWord
  rw [f25_7]
  simp [decOp66, Except.bind, f0_14, f14_4, f18_5, f23_2, predOf_code]

theorem RoundTrip.idle (x0 : Pred) (x1 : BitVec 5) (x2 : Tgt) : RoundTrip.Statement (.idle x0 x1 x2) := by
  intro h w hw
  have hW := Option.some.inj hw
  have b0 := x0.code_lt
  have b1 := x1.isLt
  have b2 := x2.code_lt
  have g2 : x2.wf = true := h
  have f25_7 : fld w 25 7 = 102 := by simp only [fld]; omega
  have f0_9 : fld w 0 9 = x2.code := by simp only [fld]; omega
  have f9_5 : fld w 9 5 = 0 := by simp only [fld]; omega
  have f14_4 : fld w 14 4 = 5 := by simp only [fld]; omega
  have f18_5 : fld w 18 5 = x1.toNat := by simp only [fld]; omega
  have f23_2 : fld w 23 2 = x0.code := by simp only [fld]; omega
  refine ⟨by omega, ?_⟩
  unfold decodeWord
  rw [f25_7]
  simp [decOp66, Except.bind, f0_9, f9_5, f14_4, f18_5, f23_2, predOf_code, tgtOf_code x2 g2]

theorem RoundTrip.plbfl (x0 : Pred) (x1 : BitVec 5) (x2 : Tgt) : RoundTrip.Statement (.plbfl x0 x1 x2) := by
  intro h w hw
  have hW := Option.some.inj hw
  have b0 := x0.code_lt
  have b1 := x1.isLt
  have b2 := x2.code_lt
  have g2 : x2.wf = true := h
  have f25_7 : fld w 25 7 = 102 := by simp only [fld]; omega
  have f0_9 : fld w 0 9 = x2.code := by simp only [fld]; omega
  have f9_5 : fld w 9 5 = 0 := by simp only [fld]; omega
  have f14_4 : fld w 14 4 = 6 := by simp only [fld]; omega
  have f18_5 : fld w 18 5 = x1.toNat := by simp only [fld]; omega
  have f23_2 : fld w 23 2 = x0.code := by simp only [fld]; omega
  refine ⟨by omega, ?_⟩
  unfold decodeWord
  rw [f25_7]
  simp [decOp66, Except.bind, f0_9, f9_5, f14_4, f18_5, f23_2, predOf_code, tgtOf_code x2 g2]

theorem RoundTrip.cline (x0 : Pred) (x1 : BitVec 5) (x2 : ClineOp) : RoundTrip.Statement (.cline x0 x1 x2) := by
  intro _ w hw
  have hW := Option.some.inj hw
  have b0 := x0.code_lt
  have b1 := x1.isLt
  have b2 := x2.code_lt
  have f25_7 : fld w 25 7 = 102 := by simp only [fld]; omega
  have f0_9 : fld w 0 9 = 0 := by simp only [fld]; omega
  have f9_2 : fld w 9 2 = x2.code := by simp only [fld]; omega
  have f11_3 : fld w 11 3 = 0 := by simp only [fld]; omega
  have f14_4 : fld w 14 4 = 7 := by simp only [fld]; omega
  have f18_5 : fld w 18 5 = x1.toNat := by simp only [fld]; omega
  have f23_2 : fld w 23 2 = x0.code := by simp only [fld]; omega
  refine ⟨by omega, ?_⟩
  unfold decodeWord
  rw [f25_7]
  simp [decOp66, Except.bind, f0_9, f9_2, f11_3, f14_4, f18_5, f23_2, predOf_code, clineOpOf_code]

theorem RoundTrip.dbgbrk (x0 : Pred) (x1 : BitVec 5) : RoundTrip.Statement (.dbgbrk x0 x1) := by
  intro _ w hw
  have hW := Option.some.inj hw
  have b0 := x0.code_lt
  have b1 := x1.isLt
  have f25_7 : fld w 25 7 = 102 := by simp only [fld]; omega
  have f0_14 : fld w 0 14 = 0 := by simp only [fld]; omega
  have f14_4 : fld w 14 4 = 8 := by simp only [fld]; omega
  have f18_5 : fld w 18 5 = x1.toNat := by simp only [fld]; omega
  have f23_2 : fld w 23 2 = x0.code := by simp only [fld]; omega
  refine ⟨by omega, ?_⟩
  unfold decodeWord
  rw [f25_7]
  simp [decOp66, Except.bind, f0_14, f14_4, f18_5, f23_2, predOf_code]

theorem RoundTrip.afwait (x0 : Pred) (x1 : BitVec 5) (x2 : Tgt) : RoundTrip.Statement (.afwait x0 x1 x2) := by
  intro h w hw
  have hW := Option.some.inj hw
  have b0 := x0.code_lt
  have b1 := x1.isLt
  have b2 := x2.code_lt
  have g2 : x2.wf = true := h
  have f25_7 : fld w 25 7 = 102 := by simp only [fld]; omega
  have f0_9 : fld w 0 9 = x2.code := by simp only [fld]; omega
  have f9_5 : fld w 9 5 = 0 := by simp only [fld]; omega
  have f14_4 : fld w 14 4 = 9 := by simp only [fld]; omega
  have f18_5 : fld w 18 5 = x1.toNat := by simp only [fld]; omega
  have f23_2 : fld w 23 2 = x0.code := by simp only [fld]; omega
  refine ⟨by omega, ?_⟩
  unfold decodeWord
  rw [f25_7]
  simp [decOp66, Except.bind, f0_9, f9_5, f14_4, f18_5, f23_2, predOf_code, tgtOf_code x2 g2]

theorem RoundTrip.winrd (x0 : Pred) (x1 : BitVec 5) (x2 : Tgt) : RoundTrip.Statement (.winrd x0 x1 x2) := by
  intro h w hw
  have hW := Option.some.inj hw
  have b0 := x0.code_lt
  have b1 := x1.isLt
  have b2 := x2.code_lt
  have g2 : x2.wf = true := h
  have f25_7 : fld w 25 7 = 102 := by simp only [fld]; omega
  have f0_9 : fld w 0 9 = x2.code := by simp only [fld]; omega
  have f9_5 : fld w 9 5 = 0 := by simp only [fld]; omega
  have f14_4 : fld w 14 4 = 10 := by simp only [fld]; omega
  have f18_5 : fld w 18 5 = x1.toNat := by simp only [fld]; omega
  have f23_2 : fld w 23 2 = x0.code := by simp only [fld]; omega
  refine ⟨by omega, ?_⟩
  unfold decodeWord
  rw [f25_7]
  simp [decOp66, Except.bind, f0_9, f9_5, f14_4, f18_5, f23_2, predOf_code, tgtOf_code x2 g2]

theorem RoundTrip.winwr (x0 : Pred) (x1 : BitVec 5) : RoundTrip.Statement (.winwr x0 x1) := by
  intro _ w hw
  have hW := Option.some.inj hw
  have b0 := x0.code_lt
  have b1 := x1.isLt
  have f25_7 : fld w 25 7 = 102 := by simp only [fld]; omega
  have f0_14 : fld w 0 14 = 0 := by simp only [fld]; omega
  have f14_4 : fld w 14 4 = 11 := by simp only [fld]; omega
  have f18_5 : fld w 18 5 = x1.toNat := by simp only [fld]; omega
  have f23_2 : fld w 23 2 = x0.code := by simp only [fld]; omega
  refine ⟨by omega, ?_⟩
  unfold decodeWord
  rw [f25_7]
  simp [decOp66, Except.bind, f0_14, f14_4, f18_5, f23_2, predOf_code]

theorem RoundTrip.tresume (x0 : Pred) (x1 : BitVec 5) : RoundTrip.Statement (.tresume x0 x1) := by
  intro _ w hw
  have hW := Option.some.inj hw
  have b0 := x0.code_lt
  have b1 := x1.isLt
  have f25_7 : fld w 25 7 = 102 := by simp only [fld]; omega
  have f0_14 : fld w 0 14 = 0 := by simp only [fld]; omega
  have f14_4 : fld w 14 4 = 12 := by simp only [fld]; omega
  have f18_5 : fld w 18 5 = x1.toNat := by simp only [fld]; omega
  have f23_2 : fld w 23 2 = x0.code := by simp only [fld]; omega
  refine ⟨by omega, ?_⟩
  unfold decodeWord
  rw [f25_7]
  simp [decOp66, Except.bind, f0_14, f14_4, f18_5, f23_2, predOf_code]

theorem RoundTrip.wsopen (x0 : Pred) (x1 : BitVec 5) : RoundTrip.Statement (.wsopen x0 x1) := by
  intro _ w hw
  have hW := Option.some.inj hw
  have b0 := x0.code_lt
  have b1 := x1.isLt
  have f25_7 : fld w 25 7 = 102 := by simp only [fld]; omega
  have f0_14 : fld w 0 14 = 0 := by simp only [fld]; omega
  have f14_4 : fld w 14 4 = 13 := by simp only [fld]; omega
  have f18_5 : fld w 18 5 = x1.toNat := by simp only [fld]; omega
  have f23_2 : fld w 23 2 = x0.code := by simp only [fld]; omega
  refine ⟨by omega, ?_⟩
  unfold decodeWord
  rw [f25_7]
  simp [decOp66, Except.bind, f0_14, f14_4, f18_5, f23_2, predOf_code]

theorem RoundTrip.wsclose (x0 : Pred) (x1 : BitVec 5) : RoundTrip.Statement (.wsclose x0 x1) := by
  intro _ w hw
  have hW := Option.some.inj hw
  have b0 := x0.code_lt
  have b1 := x1.isLt
  have f25_7 : fld w 25 7 = 102 := by simp only [fld]; omega
  have f0_14 : fld w 0 14 = 0 := by simp only [fld]; omega
  have f14_4 : fld w 14 4 = 14 := by simp only [fld]; omega
  have f18_5 : fld w 18 5 = x1.toNat := by simp only [fld]; omega
  have f23_2 : fld w 23 2 = x0.code := by simp only [fld]; omega
  refine ⟨by omega, ?_⟩
  unfold decodeWord
  rw [f25_7]
  simp [decOp66, Except.bind, f0_14, f14_4, f18_5, f23_2, predOf_code]

theorem RoundTrip.rdtime (x0 : Pred) (x1 : BitVec 5) (x2 : Tgt) : RoundTrip.Statement (.rdtime x0 x1 x2) := by
  intro h w hw
  have hW := Option.some.inj hw
  have b0 := x0.code_lt
  have b1 := x1.isLt
  have b2 := x2.code_lt
  have g2 : x2.wf = true := h
  have f25_7 : fld w 25 7 = 102 := by simp only [fld]; omega
  have f0_9 : fld w 0 9 = x2.code := by simp only [fld]; omega
  have f9_5 : fld w 9 5 = 0 := by simp only [fld]; omega
  have f14_4 : fld w 14 4 = 15 := by simp only [fld]; omega
  have f18_5 : fld w 18 5 = x1.toNat := by simp only [fld]; omega
  have f23_2 : fld w 23 2 = x0.code := by simp only [fld]; omega
  refine ⟨by omega, ?_⟩
  unfold decodeWord
  rw [f25_7]
  simp [decOp66, Except.bind, f0_9, f9_5, f14_4, f18_5, f23_2, predOf_code, tgtOf_code x2 g2]

theorem RoundTrip.rdpmc (x0 : Pred) (x1 : BitVec 5) (x2 : Tgt) : RoundTrip.Statement (.rdpmc x0 x1 x2) := by
  intro h w hw
  have hW := Option.some.inj hw
  have b0 := x0.code_lt
  have b1 := x1.isLt
  have b2 := x2.code_lt
  have g2 : x2.wf = true := h
  have f25_7 : fld w 25 7 = 103 := by simp only [fld]; omega
  have f0_9 : fld w 0 9 = x2.code := by simp only [fld]; omega
  have f9_5 : fld w 9 5 = 0 := by simp only [fld]; omega
  have f14_4 : fld w 14 4 = 0 := by simp only [fld]; omega
  have f18_5 : fld w 18 5 = x1.toNat := by simp only [fld]; omega
  have f23_2 : fld w 23 2 = x0.code := by simp only [fld]; omega
  refine ⟨by omega, ?_⟩
  unfold decodeWord
  rw [f25_7]
  simp [decOp67, Except.bind, f0_9, f9_5, f14_4, f18_5, f23_2, predOf_code, tgtOf_code x2 g2]

theorem RoundTrip.clauseFetch (x0 : Nat) : RoundTrip.Statement (.clauseFetch x0) := fun _ _ h => nomatch h

theorem RoundTrip.clauseCommit (x0 : Nat) : RoundTrip.Statement (.clauseCommit x0) := fun _ _ h => nomatch h

theorem RoundTrip.stopRequest (x0 : Nat) (x1 : StopReq) : RoundTrip.Statement (.stopRequest x0 x1) := fun _ _ h => nomatch h

theorem RoundTrip.stall (x0 : Nat) : RoundTrip.Statement (.stall x0) := fun _ _ h => nomatch h

theorem RoundTrip.taskStop (x0 : Nat) : RoundTrip.Statement (.taskStop x0) := fun _ _ h => nomatch h

theorem RoundTrip.upcall (x0 : Nat) : RoundTrip.Statement (.upcall x0) := fun _ _ h => nomatch h

theorem RoundTrip.srseedWrite (x0 : Nat) (x1 : BitVec 64) : RoundTrip.Statement (.srseedWrite x0 x1) := fun _ _ h => nomatch h

theorem RoundTrip.lsplitWrite (x0 : Nat) (x1 : BitVec 64) : RoundTrip.Statement (.lsplitWrite x0 x1) := fun _ _ h => nomatch h

theorem RoundTrip.prioWrite (x0 : Nat) (x1 : BitVec 64) : RoundTrip.Statement (.prioWrite x0 x1) := fun _ _ h => nomatch h

theorem RoundTrip.fpflagsWrite (x0 : Nat) (x1 : BitVec 64) : RoundTrip.Statement (.fpflagsWrite x0 x1) := fun _ _ h => nomatch h

theorem RoundTrip.resumeWrite (x0 : Nat) (x1 : BitVec 64) : RoundTrip.Statement (.resumeWrite x0 x1) := fun _ _ h => nomatch h

theorem RoundTrip.afringWrite (x0 : Nat) (x1 : BitVec 64) : RoundTrip.Statement (.afringWrite x0 x1) := fun _ _ h => nomatch h

theorem RoundTrip.fqbaseWrite (x0 : Nat) (x1 : BitVec 64) : RoundTrip.Statement (.fqbaseWrite x0 x1) := fun _ _ h => nomatch h

theorem RoundTrip.fqptrWrite (x0 : Nat) (x1 : BitVec 64) : RoundTrip.Statement (.fqptrWrite x0 x1) := fun _ _ h => nomatch h

theorem RoundTrip.asidMakeLive (x0 : BitVec 16) : RoundTrip.Statement (.asidMakeLive x0) := fun _ _ h => nomatch h

theorem RoundTrip.asidMakeNotLive (x0 : BitVec 16) : RoundTrip.Statement (.asidMakeNotLive x0) := fun _ _ h => nomatch h

theorem RoundTrip.ovqWrite (x0 : Nat) (x1 : BitVec 64) : RoundTrip.Statement (.ovqWrite x0 x1) := fun _ _ h => nomatch h

theorem RoundTrip.vlogWrite (x0 : BitVec 64) : RoundTrip.Statement (.vlogWrite x0) := fun _ _ h => nomatch h

theorem RoundTrip.wsldatWrite (x0 : Nat) (x1 : BitVec 64) : RoundTrip.Statement (.wsldatWrite x0 x1) := fun _ _ h => nomatch h

theorem RoundTrip.c0resWrite (x0 : Nat) (x1 : BitVec 64) : RoundTrip.Statement (.c0resWrite x0 x1) := fun _ _ h => nomatch h

theorem RoundTrip.migcntWrite (x0 : Nat) : RoundTrip.Statement (.migcntWrite x0) := fun _ _ h => nomatch h

theorem RoundTrip.gangArm (x0 : Nat) (x1 : BitVec 64) : RoundTrip.Statement (.gangArm x0 x1) := fun _ _ h => nomatch h

theorem RoundTrip.checkpointStart (x0 : Nat) (x1 : BitVec 56) : RoundTrip.Statement (.checkpointStart x0 x1) := fun _ _ h => nomatch h

theorem RoundTrip.restoreStart (x0 : Nat) (x1 : BitVec 56) : RoundTrip.Statement (.restoreStart x0 x1) := fun _ _ h => nomatch h

theorem RoundTrip.checkpointDone (x0 : Bool) (x1 : List (Nat × BitVec 8)) : RoundTrip.Statement (.checkpointDone x0 x1) := fun _ _ h => nomatch h

theorem RoundTrip.reservationGrant (x0 : Nat) : RoundTrip.Statement (.reservationGrant x0) := fun _ _ h => nomatch h

theorem RoundTrip.overflowAdmit (x0 : Nat) : RoundTrip.Statement (.overflowAdmit x0) := fun _ _ h => nomatch h

theorem RoundTrip.taskDispatch (x0 : Nat) : RoundTrip.Statement (.taskDispatch x0) := fun _ _ h => nomatch h

theorem RoundTrip.classAging (x0 : Nat) : RoundTrip.Statement (.classAging x0) := fun _ _ h => nomatch h

theorem RoundTrip.passoverLimit (x0 : Nat) : RoundTrip.Statement (.passoverLimit x0) := fun _ _ h => nomatch h

theorem RoundTrip.inboxGrant (x0 : Nat) (x1 : Nat) : RoundTrip.Statement (.inboxGrant x0 x1) := fun _ _ h => nomatch h

theorem RoundTrip.messageArrival (x0 : BitVec 512) : RoundTrip.Statement (.messageArrival x0) := fun _ _ h => nomatch h

theorem RoundTrip.handlerDiversion (x0 : Nat) : RoundTrip.Statement (.handlerDiversion x0) := fun _ _ h => nomatch h

theorem RoundTrip.nohandler (x0 : Nat) (x1 : Nat) : RoundTrip.Statement (.nohandler x0 x1) := fun _ _ h => nomatch h

theorem RoundTrip.translationWalk (x0 : Nat) : RoundTrip.Statement (.translationWalk x0) := fun _ _ h => nomatch h

theorem RoundTrip.permissionEntryArrival (x0 : Nat) : RoundTrip.Statement (.permissionEntryArrival x0) := fun _ _ h => nomatch h

theorem RoundTrip.homeSliceStore (x0 : Nat) : RoundTrip.Statement (.homeSliceStore x0) := fun _ _ h => nomatch h

theorem RoundTrip.storeAck (x0 : Nat) : RoundTrip.Statement (.storeAck x0) := fun _ _ h => nomatch h

theorem RoundTrip.filterBankClear (x0 : Nat) : RoundTrip.Statement (.filterBankClear x0) := fun _ _ h => nomatch h

theorem RoundTrip.refreshWindow  : RoundTrip.Statement (.refreshWindow) := fun _ _ h => nomatch h

theorem RoundTrip.physicalWrite (x0 : Bool) (x1 : Nat) (x2 : List (BitVec 8)) : RoundTrip.Statement (.physicalWrite x0 x1 x2) := fun _ _ h => nomatch h

theorem RoundTrip.hostRead (x0 : Nat) (x1 : Nat) : RoundTrip.Statement (.hostRead x0 x1) := fun _ _ h => nomatch h

theorem RoundTrip.shootdownComplete  : RoundTrip.Statement (.shootdownComplete) := fun _ _ h => nomatch h

theorem RoundTrip.waitvWake (x0 : Nat) : RoundTrip.Statement (.waitvWake x0) := fun _ _ h => nomatch h

theorem RoundTrip.waitvTimeout (x0 : Nat) : RoundTrip.Statement (.waitvTimeout x0) := fun _ _ h => nomatch h

theorem RoundTrip.versionDiscardDone (x0 : Nat) : RoundTrip.Statement (.versionDiscardDone x0) := fun _ _ h => nomatch h

theorem RoundTrip.tileFillDone (x0 : Nat) (x1 : Nat) (x2 : Nat) : RoundTrip.Statement (.tileFillDone x0 x1 x2) := fun _ _ h => nomatch h

theorem RoundTrip.tileDrainDone (x0 : Nat) (x1 : Nat) (x2 : Nat) : RoundTrip.Statement (.tileDrainDone x0 x1 x2) := fun _ _ h => nomatch h

theorem RoundTrip.streamerCommandStart (x0 : Nat) : RoundTrip.Statement (.streamerCommandStart x0) := fun _ _ h => nomatch h

theorem RoundTrip.streamerCommandComplete (x0 : Nat) : RoundTrip.Statement (.streamerCommandComplete x0) := fun _ _ h => nomatch h

theorem RoundTrip.viewBuild (x0 : Nat) : RoundTrip.Statement (.viewBuild x0) := fun _ _ h => nomatch h

theorem RoundTrip.viewPublish (x0 : Nat) : RoundTrip.Statement (.viewPublish x0) := fun _ _ h => nomatch h

theorem RoundTrip.fabricConfigure (x0 : Nat) (x1 : Nat) : RoundTrip.Statement (.fabricConfigure x0 x1) := fun _ _ h => nomatch h

theorem RoundTrip.bubbleIteration (x0 : Nat) : RoundTrip.Statement (.bubbleIteration x0) := fun _ _ h => nomatch h

theorem RoundTrip.edgeAgeLimit (x0 : Nat) (x1 : Nat) (x2 : Nat) : RoundTrip.Statement (.edgeAgeLimit x0 x1 x2) := fun _ _ h => nomatch h

theorem RoundTrip.loadFinish (x0 : Nat) (x1 : Nat) : RoundTrip.Statement (.loadFinish x0 x1) := fun _ _ h => nomatch h

theorem RoundTrip.faultQueueWrite (x0 : Nat) : RoundTrip.Statement (.faultQueueWrite x0) := fun _ _ h => nomatch h

theorem RoundTrip.afterimageRecordWrite (x0 : Nat) : RoundTrip.Statement (.afterimageRecordWrite x0) := fun _ _ h => nomatch h

theorem RoundTrip.preempt (x0 : Nat) (x1 : Nat) : RoundTrip.Statement (.preempt x0 x1) := fun _ _ h => nomatch h

theorem RoundTrip.drainLimit (x0 : Nat) : RoundTrip.Statement (.drainLimit x0) := fun _ _ h => nomatch h

theorem RoundTrip.nodeSave (x0 : Nat) (x1 : Nat) : RoundTrip.Statement (.nodeSave x0 x1) := fun _ _ h => nomatch h

theorem RoundTrip.flitRetry (x0 : Nat) : RoundTrip.Statement (.flitRetry x0) := fun _ _ h => nomatch h

theorem RoundTrip.laneRetrain (x0 : Nat) : RoundTrip.Statement (.laneRetrain x0) := fun _ _ h => nomatch h

theorem RoundTrip.linkLoss (x0 : Nat) : RoundTrip.Statement (.linkLoss x0) := fun _ _ h => nomatch h

theorem RoundTrip.coherenceLossTimeout (x0 : Nat) : RoundTrip.Statement (.coherenceLossTimeout x0) := fun _ _ h => nomatch h

theorem RoundTrip.linkReconnect (x0 : Nat) : RoundTrip.Statement (.linkReconnect x0) := fun _ _ h => nomatch h

theorem RoundTrip.farRequest (x0 : Nat) (x1 : Nat) (x2 : FarOp) : RoundTrip.Statement (.farRequest x0 x1 x2) := fun _ _ h => nomatch h

theorem RoundTrip.farAccessTimeout (x0 : Nat) : RoundTrip.Statement (.farAccessTimeout x0) := fun _ _ h => nomatch h

theorem RoundTrip.routingTableWrite (x0 : Nat) (x1 : BitVec 64) : RoundTrip.Statement (.routingTableWrite x0 x1) := fun _ _ h => nomatch h

theorem RoundTrip.submitWrite (x0 : Nat) (x1 : Nat) (x2 : List (BitVec 8)) : RoundTrip.Statement (.submitWrite x0 x1 x2) := fun _ _ h => nomatch h

theorem RoundTrip.cheadWrite (x0 : Nat) (x1 : Nat) (x2 : BitVec 32) : RoundTrip.Statement (.cheadWrite x0 x1 x2) := fun _ _ h => nomatch h

theorem RoundTrip.werrWrite (x0 : Nat) (x1 : Nat) : RoundTrip.Statement (.werrWrite x0 x1) := fun _ _ h => nomatch h

theorem RoundTrip.hostCompletion (x0 : Nat) (x1 : Nat) : RoundTrip.Statement (.hostCompletion x0 x1) := fun _ _ h => nomatch h

theorem RoundTrip.hotPageWindow (x0 : Nat) : RoundTrip.Statement (.hotPageWindow x0) := fun _ _ h => nomatch h

theorem RoundTrip.forwardExpiry (x0 : Nat) : RoundTrip.Statement (.forwardExpiry x0) := fun _ _ h => nomatch h

theorem RoundTrip.gangPlace (x0 : Nat) : RoundTrip.Statement (.gangPlace x0) := fun _ _ h => nomatch h

theorem RoundTrip.gangReady (x0 : Nat) (x1 : Nat) : RoundTrip.Statement (.gangReady x0 x1) := fun _ _ h => nomatch h

theorem RoundTrip.gangGo (x0 : Nat) : RoundTrip.Statement (.gangGo x0) := fun _ _ h => nomatch h

theorem RoundTrip.gangGraceExpiry (x0 : Nat) : RoundTrip.Statement (.gangGraceExpiry x0) := fun _ _ h => nomatch h

theorem RoundTrip.gangAbort (x0 : Nat) : RoundTrip.Statement (.gangAbort x0) := fun _ _ h => nomatch h

theorem RoundTrip.attest (x0 : Nat) : RoundTrip.Statement (.attest x0) := fun _ _ h => nomatch h

theorem RoundTrip.sealImage (x0 : Nat) : RoundTrip.Statement (.sealImage x0) := fun _ _ h => nomatch h

theorem RoundTrip.checkImage (x0 : Nat) : RoundTrip.Statement (.checkImage x0) := fun _ _ h => nomatch h

theorem RoundTrip.setcap (x0 : Nat) : RoundTrip.Statement (.setcap x0) := fun _ _ h => nomatch h

theorem RoundTrip.fuseadv (x0 : Nat) : RoundTrip.Statement (.fuseadv x0) := fun _ _ h => nomatch h

theorem RoundTrip.fwupdate (x0 : Nat) : RoundTrip.Statement (.fwupdate x0) := fun _ _ h => nomatch h

theorem RoundTrip.fwupdateInstall  : RoundTrip.Statement (.fwupdateInstall) := fun _ _ h => nomatch h

theorem RoundTrip.extend (x0 : Nat) : RoundTrip.Statement (.extend x0) := fun _ _ h => nomatch h

theorem RoundTrip.telemetry (x0 : Nat) : RoundTrip.Statement (.telemetry x0) := fun _ _ h => nomatch h

theorem RoundTrip.capOverrun  : RoundTrip.Statement (.capOverrun) := fun _ _ h => nomatch h

theorem RoundTrip.thermalThrottle  : RoundTrip.Statement (.thermalThrottle) := fun _ _ h => nomatch h

theorem RoundTrip.throttleStep  : RoundTrip.Statement (.throttleStep) := fun _ _ h => nomatch h

theorem RoundTrip.throttleRecovery  : RoundTrip.Statement (.throttleRecovery) := fun _ _ h => nomatch h

theorem RoundTrip.thermalShutdown  : RoundTrip.Statement (.thermalShutdown) := fun _ _ h => nomatch h

theorem RoundTrip.packageReset (x0 : List BootStage) : RoundTrip.Statement (.packageReset x0) := fun _ _ h => nomatch h

theorem RoundTrip.eccUncorrectable (x0 : Nat) : RoundTrip.Statement (.eccUncorrectable x0) := fun _ _ h => nomatch h

theorem RoundTrip.patrolScrub (x0 : Nat) (x1 : Bool) : RoundTrip.Statement (.patrolScrub x0 x1) := fun _ _ h => nomatch h

theorem RoundTrip.clusterRetire (x0 : Nat) (x1 : Nat) : RoundTrip.Statement (.clusterRetire x0 x1) := fun _ _ h => nomatch h

theorem RoundTrip.l2SliceRetire (x0 : Nat) : RoundTrip.Statement (.l2SliceRetire x0) := fun _ _ h => nomatch h

theorem RoundTrip.hbmRowSpare (x0 : Nat) : RoundTrip.Statement (.hbmRowSpare x0) := fun _ _ h => nomatch h

theorem RoundTrip.cxlPortDegrade (x0 : Nat) (x1 : Nat) : RoundTrip.Statement (.cxlPortDegrade x0 x1) := fun _ _ h => nomatch h

theorem RoundTrip.matrixCommandPerformed (x0 : Nat) (x1 : Nat) : RoundTrip.Statement (.matrixCommandPerformed x0 x1) := fun _ _ h => nomatch h

theorem RoundTrip.commandStall (x0 : EngineRef) : RoundTrip.Statement (.commandStall x0) := fun _ _ h => nomatch h

theorem RoundTrip.idleTimeout (x0 : Nat) : RoundTrip.Statement (.idleTimeout x0) := fun _ _ h => nomatch h

theorem RoundTrip.unreachableHomeTimeout (x0 : Nat) : RoundTrip.Statement (.unreachableHomeTimeout x0) := fun _ _ h => nomatch h

theorem RoundTrip.nodeRestore (x0 : Nat) (x1 : Nat) : RoundTrip.Statement (.nodeRestore x0 x1) := fun _ _ h => nomatch h

theorem RoundTrip.submissionWindowWrite (x0 : Nat) (x1 : Nat) (x2 : Nat) (x3 : BitVec 64) : RoundTrip.Statement (.submissionWindowWrite x0 x1 x2 x3) := fun _ _ h => nomatch h

end Sys2Proof.Laws
end

