-- ==== Sys2Proof/Safety.lean ====
section
/-! DEFINITION. Sys2Proof/Safety.lean: what counts as a safe run, and the words the statements use for what a firing leaves unchanged. -/

namespace Sys2Proof.Machine

/-- Memory stands in its canonical form. -/
abbrev State.memOk (s : State) : Prop := s.mem.wf = true

/-- A run of n steps neither stops nor leaves memory's canonical form. -/
def SafeRun (s : State) : Nat → Prop
  | 0 => s.memOk
  | n + 1 => s.memOk ∧ ∃ t, step s = .next t ∧ SafeRun t n

/-- An instruction answers a next state. -/
def Completes (i : Instr) (s : State) : Prop := ∃ t, exec i s = .next t

/-- The firing rule lets the focused instruction act on operands v: its clause is in flight and not marked, it has not fired, no older clause may yet write a control register, and its tokens are values that meet its predicate (01 R15, R27). -/
def Acts (s : State) (i : Instr) (v : Vals) : Prop :=
  ∃ x, s.finst = some x ∧ x.mark = none ∧ s.focus.iid ∉ x.fired ∧ s.ctlHeld = false ∧ x.ready s.focus.iid i = .acts v

/-- The state t of an action, the focused instruction counted as fired (01 R15). -/
def State.fired (s t : State) : State :=
  match s.finst with
  | none => t
  | some x => (t.onInst fun y => (y.markFired s.focus.iid).keepIf x).tick

/-- The focused instruction is in flight, unmarked, unfired and not held, and its tokens ask for r (01 R15). -/
def Asks (s : State) (i : Instr) (r : Ready) : Prop :=
  ∃ x, s.finst = some x ∧ x.mark = none ∧ s.focus.iid ∉ x.fired ∧ s.ctlHeld = false ∧ x.ready s.focus.iid i = r

/-- It delivers the scalar r and changes nothing else of its clause but that it has fired. -/
def GivesS (s : State) (i : Instr) (r : Word) : Prop := exec i s = .next (s.fired (s.deliverS i r))

/-- It delivers the wide value r. -/
def GivesW (s : State) (i : Instr) (r : Wide) : Prop := exec i s = .next (s.fired (s.deliverW i r))

/-- It raises flags and delivers a scalar. -/
def GivesSF (s : State) (i : Instr) (r : Word × Flags) : Prop := exec i s = .next (s.fired ((s.raise r.2).deliverS i r.1))

/-- It raises flags and delivers a wide value. -/
def GivesWF (s : State) (i : Instr) (r : Wide × Flags) : Prop := exec i s = .next (s.fired ((s.raise r.2).deliverW i r.1))

/-- It fires, and its effect slot holds the action for its clause's commit (01 R18, R20). -/
def Effects (s : State) (i : Instr) (a : Action) : Prop := exec i s = .next (s.fired (s.effect i a))

/-- It fires, and its effect slot is poisoned, so that its clause does not commit (01 R21). -/
def Poisons (s : State) (i : Instr) (k : Kind) : Prop := exec i s = .next (s.fired (s.effectPoison i k))

/-- It fires in state u (s with the side effects of its firing), keeps the action a in its effect slot and delivers the scalar r. -/
def GivesAfter (s u : State) (i : Instr) (a : Action) (r : Word) : Prop := exec i s = .next (s.fired ((u.effect i a).deliverS i r))

/-- It fires in state u, keeps the action a in its effect slot and delivers the wide value r. -/
def GivesWAfter (s u : State) (i : Instr) (a : Action) (r : Wide) : Prop := exec i s = .next (s.fired ((u.effect i a).deliverW i r))

/-- It delivers a scalar that meets P. -/
def DeliversS (s : State) (i : Instr) (P : Word → Prop) : Prop := ∃ r, GivesS s i r ∧ P r

/-- It delivers a wide value that meets P. -/
def DeliversW (s : State) (i : Instr) (P : Wide → Prop) : Prop := ∃ r, GivesW s i r ∧ P r

/-- An instruction with the primary opcode op and, in bits [22:19], the value xop (02 R33, R41). -/
def Coded (i : Instr) (op xop : Nat) : Prop := ∃ w, encodeWord i = some w ∧ fld w 25 7 = op ∧ fld w 19 4 = xop

/-- Every word of a primary opcode whose bits [22:19] are in a list decodes to no instruction (02 R46). -/
def IllegalXop (op : Nat) (xs : List Nat) : Prop :=
  ∀ w, fld w 25 7 = op → fld w 19 4 ∈ xs → ∃ e, decodeWord w = .error e

/-- What an operation on scalar operands of slots a and b delivers, for every target form and predicate. -/
def Computes (mk : Pred → Dst → Instr) (P : Word → Word → Word → Prop) : Prop :=
  ∀ pr d s v, Acts s (mk pr d) v → DeliversS s (mk pr d) (P v.a.bits v.b.bits)

/-- What an operation on slot a alone delivers, for every target form and predicate. -/
def Computes1 (mk : Pred → Dst → Instr) (P : Word → Word → Prop) : Prop :=
  ∀ pr d s v, Acts s (mk pr d) v → DeliversS s (mk pr d) (P v.a.bits)

/-- The same with an immediate of ten bits, sign-extended, as operand b, for every target (04 R94, R95, R100). -/
def ComputesImm (mk : Pred → BitVec 10 → Tgt → Instr) (P : Word → Word → Word → Prop) : Prop :=
  ∀ pr imm t s v, Acts s (mk pr imm t) v → DeliversS s (mk pr imm t) (P v.a.bits (imm.signExtend 64))

/-- Lane j of a wide value in lanes of e bits (01 R14). -/
def lane (e : Nat) (v : Wide) (j : Nat) : Nat := v.toNat / 2 ^ (e * j) % 2 ^ e

/-- Lane j of a wide value as a signed number. -/
def laneS (e : Nat) (v : Wide) (j : Nat) : Int := sgnOf e (lane e v j)

/-- What a wide operation delivers in each lane of its shape, for every shape, target form and predicate: a number, of which the lane keeps the low bits (05 R121). -/
def ComputesLanes (mk : Pred → Shape → Dst → Instr) (f : Nat → Wide → Wide → Nat → Int) : Prop :=
  ∀ pr sh d s v, Acts s (mk pr sh d) v → DeliversW s (mk pr sh d) fun r =>
    ∀ j < 512 / Shape.bits sh, (lane (Shape.bits sh) r j : Int) = f (Shape.bits sh) v.a.wbits v.b.wbits j % 2 ^ Shape.bits sh

/-- How a load of some accesses fires: with an access out of range it delivers poison PERM, after a lost link LINKLOST; once what goes before it lets it and all its bytes can be had, it records the load, keeps its action in its effect slot and delivers the token of its bytes; where one access fails it delivers that poison. Which of several accesses that fail decides, and that all are tested for their range before any is made, is the model's choice (log 107); so is the record of a load that is read again where it is performed, and which loads are performed as they fire (log 29) (05 R138 to R149; 20 R389). -/
def LoadsWith (s : State) (i : Instr) (eff : BitVec 5) (lanes : List (Word × Nat)) (hyp0 : Bool) (act : Action) (mk : List (List Byte) → Token) : Prop :=
  (∀ p, lanes.find? (fun q => !canonical q.1 q.2) = some p → exec i s = .next (s.fired (s.loadPoison i .perm p.1)))
    ∧ ∀ c x, s.fctx = some c → s.finst = some x → (∀ q ∈ lanes, canonical q.1 q.2 = true) →
        (s.focus.iid ∈ x.linkDead → exec i s = .next (s.fired (s.loadPoison i .linklost ((lanes.head?.map fun p => p.1).getD 0))))
          ∧ (s.focus.iid ∉ x.linkDead → c.loadWaits x s.focus eff = false →
              let r := s.loadAll c s.focus.win s.focus.iid eff.toNat hyp0 lanes
              r.wait = false →
                (∀ k va, r.bad = some (k, va) → exec i s = .next (s.fired (r.st.loadPoison i k va)))
                  ∧ (r.bad = none → (∀ q ∈ lanes, s.farAcc c (c.cellOf s.focus.iid) q.1 q.2 .load = true → x.waitSince s.focus.iid ≠ none) →
                      (∀ q ∈ lanes, s.cutAcc c (c.cellOf s.focus.iid) q.1 q.2 .load = false) →
                      exec i s = .next (s.fired (((r.st.keepLoad ⟨s.focus.iid, eff, lanes, r.bytes, hyp0, s.performsNow c x eff lanes⟩ act).effect i act).deliver i (mk r.bytes)))))

/-- How a store of some accesses fires: it keeps its bytes for commit in its effect slot, or its effect is poisoned by the first access that fails (05 R139, R140; 08 R194). -/
def StoresWith (s : State) (i : Instr) (lanes : List (Word × List Byte)) (rel many : Bool) : Prop :=
  ∀ c, s.fctx = some c →
    (∀ t ls, s.storeLanes c (c.cellOf s.focus.iid) 0 lanes = (t, .ok ls) → exec i s = .next (s.fired (t.effect i (.store ls rel many))))
      ∧ ∀ t k va, s.storeLanes c (c.cellOf s.focus.iid) 0 lanes = (t, .error (k, va)) → exec i s = .next (s.fired ((t.notePoison va).effectPoison i k))

/-- The read and the write of an atomic of n bytes at an address of a page or of lens scratch, in state t (09 R220). -/
def State.rmw (t : State) (l : Option Leaf) (d : Ctx) (va : Word) (n : Nat) (f : Nat → Option Nat) : Rmw :=
  match l with
  | none => t.rmwScratch d va n f
  | some y => t.rmwLeaf d y va n f

/-- Where an atomic goes: lens scratch, or the page its permission entry gives (08 R179, R194; 09 R220, R228). -/
def AtomicPlace (s : State) (c : Ctx) (va : Word) (n : Nat) (barrier : Bool) (l : Option Leaf) : Prop :=
  match l with
  | none => ∃ off, c.scratchAcc va n = some (some off)
  | some y => c.scratchAcc va n = none ∧ s.permGet c.tower (c.cellOf s.focus.iid) c.asid va .atomic = .ok y
      ∧ ¬(barrier = true ∧ (y.kind = 2 ∨ y.far = true)) ∧ ¬(y.h = true ∧ s.hypFinal c.hyp ≠ 0)
      ∧ (y.far = false → s.homeCut c.tower (y.tag c.asid) va n = false)

/-- Whether an atomic goes to a far page. -/
def atomFar (l : Option Leaf) : Bool := (l.map Leaf.far).getD false

/-- What an atomic asks of the stores before it: it is a release and an acquire unless relaxed (09 R210, R211, R220). -/
def atomAsks (l : Option Leaf) (va : Word) (n : Nat) (rlx : Bool) : GateAsks :=
  ⟨!rlx, !rlx, some (.plain va (List.replicate n 0)), (l.map fun y => decide (y.kind = 0)).getD false, false⟩

/-- How an atomic fires (09 R220, R221), in the oldest clause once its lower slots are served: out of range or misaligned, or at a place it may not touch, it is not performed and delivers that poison, the stores of lower slots sent ahead all the same; past its gate, one that meets a fault of its read or write is not performed and releases nothing, and any other reads, computes and writes once, releases before and acquires after unless relaxed, at scope SYS on a far page, and delivers the old value. That PERM stands for an address both out of range and misaligned is the model's ranking (log 107). -/
def Atomically (s : State) (i : Instr) (eff : BitVec 5) (va : Word) (n : Nat) (sc : Scope) (rlx barrier : Bool) (f : Nat → Option Nat) (mk : Nat → Token) : Prop :=
  ∀ c x, s.fctx = some c → s.finst = some x → s.focus.win = 0 → x.lowerServed eff = true →
    (canonical va n = false → ∀ u, s.gate eff ⟨false, false, none, false, false⟩ = .goes u → exec i s = .next (s.fired (u.notPerformed i .perm va)))
      ∧ (canonical va n = true → va.toNat % n ≠ 0 → ∀ u, s.gate eff ⟨false, false, none, false, false⟩ = .goes u →
          exec i s = .next (s.fired (u.notPerformed i .misalign va)))
      ∧ (∀ k t u, s.atomAt c x va n barrier = .bad k t → t.gate eff ⟨false, false, none, false, false⟩ = .goes u →
          exec i s = .next (s.fired (u.notPerformed i k va)))
      ∧ ∀ l t d₀, canonical va n = true → va.toNat % n = 0 → s.focus.iid ∉ x.linkDead →
          AtomicPlace s c va n barrier l → s.gate eff (atomAsks l va n rlx) = .goes t → t.fctx = some d₀ →
          (atomFar l = true → x.waitSince s.focus.iid ≠ none ∧ t.farQueued d₀ (c.cellOf s.focus.iid) = false) →
          let sc := if atomFar l then .sys else sc
          (∀ k u, t.rmw l d₀ va n f = .bad k u → exec i s = .next (s.fired (u.notPerformed i k va))) ∧
          ∀ o₀ u₀ d u old, t.rmw l d₀ va n f = .done o₀ u₀ →
          (if rlx then t else t.releaseHere sc).fctx = some d → (if rlx then t else t.releaseHere sc).rmw l d va n f = .done old u →
          exec i s = .next (s.fired ((((if rlx then u else u.acquireHere sc).performed eff).effect i .done).deliver i (mk old)))

/-- Everything but the contexts and the count of moves is the same: memory, towers, hypotheses, engines, loads, views, links and the package's registers. -/
structure SameOutside (s t : State) : Prop where
  rest : ({ t with ctxs := s.ctxs, moves := s.moves } : State) = s

/-- The committed registers of a context: globals, wide globals, clause address, task registers (01 R28, R30). -/
def Ctx.sameRegs (c d : Ctx) : Prop :=
  c.g = d.g ∧ c.w = d.w ∧ c.pc = d.pc ∧ (∀ k, c.reg k = d.reg k)

/-- From s to t only the focused clause instance changed: every other context, every other clause and every committed register is as it was, and so is everything outside the contexts. -/
def OnlyFocus (s t : State) : Prop :=
  SameOutside s t ∧ ∃ f : Inst → Inst, t.ctxs = (s.onInst f).ctxs

end Sys2Proof.Machine
end

