-- ==== Sys2Proof/Certificates/Slice0/Obligations.lean ====
section
/-! DEFINITION. Sys2Proof/Certificates/Slice0/Obligations.lean: the statements for the provers. -/

section

open Sys2Proof Sys2Proof.Machine

/-! ### Encoding -/

/-- Decode and encode agree, for every well-formed instruction and every operand: the encoder's word fits in 32 bits and decodes to the instruction (02 R33 to R46). -/
def Obligations.DecodeEncode : Prop := ∀ i : Instr, Sys2Proof.Laws.RoundTrip.Statement i

/-- No bit of a word is dropped: a word that decodes is the encoder's word for what it decodes to, so no two words mean the same instruction (02 R34 to R46). Whatever the decoder answers is well-formed: no 9-bit target field names i127.p, the two types of FCVT differ, an acquiring HLDC loads 8 bytes (02 R36, R42; 10 R250). That a fan form of slot p and row 15 whose mask has bit 7 set is well-formed too, so that it delivers to i127.p, is the model's choice and no rule of the spec (log 93). The reserved primaries, the predicate code 01 of the formats that have one, and register reads of w16 and up are no instructions (02 R35, R40, R41, R46). -/
def Obligations.DecoderIsExact : Prop :=
  (∀ w i, w < 2 ^ 32 → decodeWord w = .ok i → encodeWord i = some w)
    ∧ (∀ w i, decodeWord w = .ok i → i.wf = true)
    ∧ ((∀ w, fld w 25 7 ∈ [0x00, 0x0C, 0x0D, 0x0E, 0x0F, 0x1B, 0x1C, 0x1D, 0x1E, 0x1F, 0x27, 0x5F] → ∃ e, decodeWord w = .error e)
      ∧ (∀ w, 0x68 ≤ fld w 25 7 → ∃ e, decodeWord w = .error e)
      ∧ (∀ w, fld w 25 7 ∉ [0x01, 0x02, 0x05, 0x06, 0x07] → fld w 23 2 = 1 → ∃ e, decodeWord w = .error e)
      ∧ (∀ w, fld w 25 7 = 0x02 → 16 ≤ fld w 19 6 → ∃ e, decodeWord w = .error e)
      ∧ (∀ w, fld w 25 7 = 0x04 → 16 ≤ fld w 17 6 → ∃ e, decodeWord w = .error e))

/-- Words written out from the tables of 02 R34 to R41, one for each of nine formats: op, pr, xop or eff, then the fields of the format; the first is the example of 02 R37. -/
def Obligations.KnownWords : Prop :=
  decodeWord 0x020C1130 = .ok (.gread 1 (.fan .a 1 0x13))
    ∧ decodeWord 0b0010000_11_0001_0_01_0000111_11_1111111 = .ok (.sub .onTrue (.dual (.to .b 7) .discard))
    ∧ decodeWord 0b0010001_10_0101_0000000011_00_0000010 = .ok (.shli .onFalse 3 (.to .a 2))
    ∧ decodeWord 0b0000111_1010101111001101_10_0000001 = .ok (.appc 0xABCD (.to .c 1))
    ∧ decodeWord 0b1000111_00_00011_111111111_00_0000101 = .ok (.ldD .always 3 0x1FF (.to .a 5))
    ∧ decodeWord 0b1001110_00_11111_000000000000000010 = .ok (.stD .always 31 2)
    ∧ decodeWord 0b0101000_11_101_11111111111111111111 = .ok (.bro .onTrue 5 0xFFFFF)
    ∧ decodeWord 0b0000011_00_111111_00000000000000000 = .ok (.gwrite .always 63)
    ∧ decodeWord 0b1011000_00_00010_0000_11101_11_0000100 = .ok (.amoadd .always 2 .d .pkg true (.to .p 4))
    ∧ decodeWord 0b1100010_00_00001_0100_00110_00111_0000 = .ok (.mma .always 1 6 7)

/-! ### One step -/

/-- A step whose agenda's first move is due and fires an instruction is exec of the instruction that the named clause holds there, with that move taken from the agenda and the focus on it; where the clause holds no instruction the step is refused with illegalWord. A step whose agenda's first move is due and is an event is exec of that event. A package that stays in reset drops a move it does not answer (23 R422). The agenda, the order of moves it gives, and the refusal illegalWord, which only a move that names no instruction meets, are the model's own and no rule of the spec (log 3). -/
def Obligations.StepRuns : Prop :=
  (∀ (s : State) (f : Focus) (ds : List Due), s.agenda = ⟨0, .fire f⟩ :: ds → s.stopped = false → s.inReset = false →
      (∀ i, s.instrOf f = some i → step s = exec i { s with agenda := ds, focus := f })
        ∧ (s.instrOf f = none → step s = .refused .illegalWord))
    ∧ (∀ (s : State) (i : Instr) (ds : List Due), s.agenda = ⟨0, .event i⟩ :: ds → s.stopped = false → s.inReset = false ∨ answersInReset i = true →
      step s = exec i { s with agenda := ds })
    ∧ (∀ (s : State) (m : Move) (ds : List Due), s.agenda = ⟨0, m⟩ :: ds → s.stopped = false → s.inReset = true → m.heard = false →
      step s = .next { s with agenda := ds })

/-- A step with no move due: 1 ns passes, and the first of the part's own moves that has an effect is made, if there is one (the model's order of own moves, log 3). After THERMAL_SHUTDOWN no clock runs: nothing but a package reset is performed (23 R421; the stop is the model's, log 3); while the package stays in reset the time of RDTIME stands (23 R422). The state that withFetchWord makes runs the word it is given: the very next step is exec of the decoded instruction (log 28). -/
def Obligations.StepPassesAndPlaces : Prop :=
  (∀ s : State, s.stopped = false → s.inReset = false → (∀ m ds, s.agenda ≠ ⟨0, m⟩ :: ds) →
      (∀ u, s.pass.ownMoves.findSome? s.pass.effectOf = some u → step s = .next u)
        ∧ (s.pass.ownMoves.findSome? s.pass.effectOf = none → step s = .next s.pass)
        ∧ s.pass.time = s.time + 1 ∧ s.pass.mem = s.mem)
    ∧ (∀ s : State, s.stopped = true → (∀ st ds, s.agenda ≠ ⟨0, .event (.packageReset st)⟩ :: ds) → step s = .fault .clocksStopped)
    ∧ (∀ s : State, s.stopped = false → s.inReset = true → (∀ m ds, s.agenda ≠ ⟨0, m⟩ :: ds) → step s = .next { s with agenda := nearer s.agenda })
    ∧ (∀ (s : State) (n w : Nat) (i : Instr), w < 2 ^ 32 → decodeWord w = .ok i → s.stopped = false → s.inReset = false →
      step (s.withFetchWord n w) = exec i { s.withFetchWord n w with agenda := s.agenda, focus := ⟨s.nextCtx, 0, 0, false⟩ })

/-! ### Firing -/

/-- The firing rule, for every instruction of the encoding but SPUSH (which pushes a null): a missing operand changes nothing; a null goes to every target and nulls the effect and the register write; a poison goes to every target, the effect, the register write and the branch with its kind and origin; a predicate that does not match sends nothing (01 R15, R19). What an instance's tokens ask for, in the order of 01 R15: every slot read must hold a token; a null comes before a poison, the poison of the lowest slot is taken, and a predicate is true when it is not zero. A marked clause, an identifier that has fired, or an older clause that may yet write a control register: nothing happens (01 R13, R27). -/
def Obligations.FiringRule : Prop :=
  (∀ (i : Instr) (w : Nat) (s : State), encodeWord i = some w → (∀ e p, i ≠ .spush e p) →
      (Asks s i .waits → exec i s = .next s)
        ∧ (Asks s i .meetsNull → exec i s = .next (s.onInst fun y => (y.takeNull i).markFired s.focus.iid).tick)
        ∧ (∀ k o, Asks s i (.meetsPoison k o) → exec i s = .next (s.onInst fun y => (y.takePoison i k o).markFired s.focus.iid).tick)
        ∧ (Asks s i .noMatch → exec i s = .next (s.onInst fun y => y.markFired s.focus.iid).tick))
    ∧ (∀ (x : Inst) (iid : BitVec 7) (i : Instr),
      ((∃ sl ∈ allSlots i, x.tok? iid sl = none) → x.ready iid i = .waits)
        ∧ (∀ ts, x.toksOf iid (allSlots i) = some ts → Token.null ∈ ts → x.ready iid i = .meetsNull)
        ∧ (∀ ts k o, x.toksOf iid (allSlots i) = some ts → Token.null ∉ ts → firstPoison ts = some (k, o) → x.ready iid i = .meetsPoison k o)
        ∧ (∀ ts, x.toksOf iid (allSlots i) = some ts → Token.null ∉ ts → firstPoison ts = none →
            ((i.pred = .onTrue ∧ ((x.tok? iid .p).getD .null).bits = 0) ∨ (i.pred = .onFalse ∧ ((x.tok? iid .p).getD .null).bits ≠ 0)) →
            x.ready iid i = .noMatch))
    ∧ (∀ (i : Instr) (w : Nat) (s : State) (x : Inst), encodeWord i = some w → s.finst = some x →
      (x.mark ≠ none ∨ s.focus.iid ∈ x.fired ∨ s.ctlHeld = true) → exec i s = .next s)

/-- The accounting of outputs: a second service of an effect slot and a firing outside effmask, a second write of a register and one outside gwmask, and a second branch mark the clause with CLAUSEFMT, unless it is marked already (01 R18, R19). A poisoned effect outside effmask counts as a firing outside it (01 R18). That these clauses hold of a null too, so that a second null counts as a second service or a second write, is the model's choice (log 48); so is that a first null whose effmask bit is clear marks nothing and counts as nulled (log 112). -/
def Obligations.DoubleOutputs : Prop :=
  ∀ (x : Inst), x.mark = none →
    (∀ e o, x.effOut? e ≠ none → (x.recordEff e o).mark = some .clausefmt)
      ∧ (∀ e a, x.hdr.effmask.getLsbD e.toNat = false → (x.recordEff e (.fired a)).mark = some .clausefmt)
      ∧ (∀ e k, x.hdr.effmask.getLsbD e.toNat = false → (x.recordEff e (.poisoned k)).mark = some .clausefmt)
      ∧ (∀ e, x.effOut? e = none → x.recordEff e .nulled = { x with effs := x.effs ++ [(e, .nulled)] })
      ∧ (∀ r t, (∃ p ∈ x.gw, p.1 = r) → (x.recordG r t).mark = some .clausefmt)
      ∧ (∀ r t, x.hdr.gwmask.getLsbD r.toNat = false → (x.recordG r t).mark = some .clausefmt)
      ∧ (∀ r t, (∃ p ∈ x.ww, p.1 = r) → (x.recordW r t).mark = some .clausefmt)
      ∧ (∀ r t, x.hdr.wwmask.getLsbD r.toNat = false → (x.recordW r t).mark = some .clausefmt)
      ∧ (∀ b, x.branch ≠ none → (x.recordBranch b).mark = some .clausefmt)

/-- What the arrival of a token does to a clause that is not marked. At an identifier that names no instruction, at a slot that holds a token already, at a slot that the instruction does not read, p under an always-true predicate among them, and for a value of the other width, the clause fails with CLAUSEFMT and holds no more than before; any other token is held in its slot, a null or a poison in a slot of either width (01 R13, R16). A result goes to every target of its instruction: a null or a poison that finds its slots free is held in each of them and nowhere else, and one target that refuses its token fails the clause (01 R15, R16; 02 R37). The targets of a T field: two identical halves are one target, a discard none, and a fan names identifier 8 times its row plus j for every mask bit j (02 R36, R37). -/
def Obligations.Deliveries : Prop :=
  (∀ (x : Inst) (sl : Slot) (iid : BitVec 7) (tok : Token), x.mark = none →
      let failed : Inst := { x with mark := some .clausefmt }
      (x.instrAt iid = none → x.accept tok (sl, iid) = failed)
        ∧ ∀ i, x.instrAt iid = some i →
          (x.tok? iid sl ≠ none → x.accept tok (sl, iid) = failed)
            ∧ (sl ∉ allSlots i → x.accept tok (sl, iid) = failed)
            ∧ (∀ u, tok = .scalar u → slotWidth i sl = some .wide → x.accept tok (sl, iid) = failed)
            ∧ (∀ u, tok = .wide u → slotWidth i sl = some .scalar → x.accept tok (sl, iid) = failed)
            ∧ (sl = .p → slotWidth i sl ≠ some .wide)
            ∧ (x.tok? iid sl = none → sl ∈ allSlots i →
                (tok = .null ∨ (∃ k o, tok = .poison k o) ∨ (∃ u, tok = .scalar u ∧ slotWidth i sl ≠ some .wide) ∨ (∃ u, tok = .wide u ∧ slotWidth i sl ≠ some .scalar)) →
                x.accept tok (sl, iid) = { x with toks := x.toks ++ [(iid, sl, tok)] }))
    ∧ (∀ (x : Inst) (ts : List (Slot × BitVec 7)) (tok : Token), x.mark = none →
      (ts.Nodup → (tok = .null ∨ ∃ k o, tok = .poison k o) →
          (∀ t ∈ ts, ∃ i, x.instrAt t.2 = some i ∧ t.1 ∈ allSlots i ∧ x.tok? t.2 t.1 = none) →
          (x.deliver ts tok).mark = none ∧ (∀ t ∈ ts, (x.deliver ts tok).tok? t.2 t.1 = some tok)
            ∧ ∀ sl iid, (sl, iid) ∉ ts → (x.deliver ts tok).tok? iid sl = x.tok? iid sl)
        ∧ (∀ t ∈ ts, (x.accept tok t).mark ≠ none → (x.deliver ts tok).mark = some .clausefmt))
    ∧ (∀ (s : State) (i : Instr) (x : Inst) (tok : Token), s.finst = some x → (s.deliver i tok).finst = some (x.deliver i.targets tok))
    ∧ (∀ (t₁ t₂ : Tgt) (sl : Slot) (row : BitVec 4) (mask : BitVec 8),
      (Dst.dual t₁ t₁).targets = t₁.targets ∧ (t₁ ≠ t₂ → (Dst.dual t₁ t₂).targets = t₁.targets ++ t₂.targets)
        ∧ Tgt.discard.targets = [] ∧ (∀ iid, (Tgt.to sl iid).targets = [(sl, iid)])
        ∧ (∀ sl' iid, (sl', iid) ∈ (Dst.fan sl row mask).targets ↔ sl' = sl ∧ ∃ j < 8, mask.getLsbD j = true ∧ iid.toNat = 8 * row.toNat + j)
        ∧ ∀ d : Dst, d.targets.Nodup)

/-! ### Registers, constants, moves -/

/-- GREAD and WREAD deliver the value that the older clauses and the committed register give, and wait while an older clause may still write it (01 R25; 04 R87, R114). Reading a global over older clauses, whatever else they write: one whose gwmask names it must have received its write or its null; the youngest value wins, else the committed one; a wide global the same through wwmask (01 R25). For g63 an older clause whose gwmask does not name it must also have fired its branch, and a CALL or CALLO gives the address of the clause behind it (04 R114); a clause that has fired RFT has no branch to wait for. -/
def Obligations.RegisterReads : Prop :=
  (∀ (s : State) (v : Vals) (c : Ctx) (d : Dst), s.fctx = some c →
      (∀ r u, Acts s (.gread r d) v → greadFrom r (c.window.take s.focus.win) (c.gr r) = some u → GivesS s (.gread r d) u)
        ∧ (∀ r, Acts s (.gread r d) v → greadFrom r (c.window.take s.focus.win) (c.gr r) = none → exec (.gread r d) s = .next s)
        ∧ (∀ r u, Acts s (.wread r d) v → wreadFrom r (c.window.take s.focus.win) (c.wr r) = some u → GivesW s (.wread r d) u)
        ∧ (∀ r, Acts s (.wread r d) v → wreadFrom r (c.window.take s.focus.win) (c.wr r) = none → exec (.wread r d) s = .next s)
        ∧ (∀ r, s.focus.win = 0 → Acts s (.gread r d) v → GivesS s (.gread r d) (c.gr r))
        ∧ (∀ r, s.focus.win = 0 → Acts s (.wread r d) v → GivesW s (.wread r d) (c.wr r)))
    ∧ (∀ (x : Inst) (xs : List Inst) (r : BitVec 6) (v : Word), (x.gw.map fun p => p.1).Nodup →
      (r ≠ 63 → x.hdr.gwmask.getLsbD r.toNat = false → greadFrom r (x :: xs) v = greadFrom r xs v)
        ∧ (x.hdr.gwmask.getLsbD r.toNat = true → (∀ p ∈ x.gw, p.1 ≠ r) → greadFrom r (x :: xs) v = none)
        ∧ (∀ u, x.hdr.gwmask.getLsbD r.toNat = true → (r, Token.scalar u) ∈ x.gw → greadFrom r (x :: xs) v = greadFrom r xs u)
        ∧ (x.hdr.gwmask.getLsbD r.toNat = true → (r, Token.null) ∈ x.gw → greadFrom r (x :: xs) v = greadFrom r xs v)
        ∧ (x.hdr.gwmask.getLsbD 63 = false →
            (∀ t, x.branch = some (.call t) → greadFrom 63 (x :: xs) v = greadFrom 63 xs x.nextAddr)
              ∧ (∀ b, x.branch = some b → (∀ t, b ≠ .call t) → greadFrom 63 (x :: xs) v = greadFrom 63 xs v)
              ∧ (x.branch = none → greadFrom 63 (x :: xs) v = if x.rft then greadFrom 63 xs v else none))
        ∧ x.nextAddr = x.addr + BitVec.ofNat 64 (16 + 128 * (x.hdr.nchunk.toNat + 1))
        ∧ greadFrom r [] v = some v)
    ∧ (∀ (x : Inst) (xs : List Inst) (r : BitVec 4) (v : Wide), (x.ww.map fun p => p.1).Nodup →
      (x.hdr.wwmask.getLsbD r.toNat = false → wreadFrom r (x :: xs) v = wreadFrom r xs v)
        ∧ (x.hdr.wwmask.getLsbD r.toNat = true → (∀ p ∈ x.ww, p.1 ≠ r) → wreadFrom r (x :: xs) v = none)
        ∧ (∀ u, x.hdr.wwmask.getLsbD r.toNat = true → (r, Token.wide u) ∈ x.ww → wreadFrom r (x :: xs) v = wreadFrom r xs u)
        ∧ (x.hdr.wwmask.getLsbD r.toNat = true → (r, Token.null) ∈ x.ww → wreadFrom r (x :: xs) v = wreadFrom r xs v)
        ∧ wreadFrom r [] v = some v)

/-- GWRITE and WWRITE record their value for commit and change no register as they fire (04 R88; 01 R19). -/
def Obligations.RegisterWrites : Prop :=
  ∀ (s : State) (v : Vals) (pr : Pred),
    (∀ r, Acts s (.gwrite pr r) v → exec (.gwrite pr r) s = .next (s.fired (s.onInst fun x => x.recordG r (.scalar v.a.bits))))
      ∧ (∀ r, Acts s (.wwrite pr r) v → exec (.wwrite pr r) s = .next (s.fired (s.onInst fun x => x.recordW r (.wide v.a.wbits))))

/-- GENS and GENU deliver the immediate sign- and zero-extended, APPC shifts slot a left by 16 and puts the immediate below it; GENS and GENU read no slot, APPC slot a. MOV delivers its token unchanged, scalar or wide; MOVI delivers its immediate sign-extended; NOP delivers nothing; NULL delivers a null to every target. -/
def Obligations.ConstantsAndMoves : Prop :=
  ((∀ imm t s v, Acts s (.gens imm t) v → DeliversS s (.gens imm t) fun r => r.toInt = imm.toInt)
      ∧ (∀ imm t s v, Acts s (.genu imm t) v → DeliversS s (.genu imm t) fun r => r.toNat = imm.toNat)
      ∧ (∀ imm t s v, Acts s (.appc imm t) v → DeliversS s (.appc imm t) fun r => r.toNat = (v.a.bits.toNat * 2 ^ 16) % 2 ^ 64 + imm.toNat)
      ∧ (∀ imm t, (Instr.gens imm t).reads = [] ∧ (Instr.genu imm t).reads = [] ∧ (Instr.appc imm t).reads = [(.a, .scalar)]))
    ∧ (∀ (pr : Pred) (s : State) (v : Vals),
      (∀ d, Acts s (.mov pr d) v → exec (.mov pr d) s = .next (s.fired (s.deliver (.mov pr d) v.a)))
        ∧ (∀ imm t, Acts s (.movi pr imm t) v → DeliversS s (.movi pr imm t) fun r => r.toInt = imm.toInt)
        ∧ (Acts s (.nop pr) v → exec (.nop pr) s = .next (s.fired s))
        ∧ (∀ d, Acts s (.null pr d) v → exec (.null pr d) s = .next (s.fired (s.deliver (.null pr d) .null)))
        ∧ (∀ d, (Instr.mov pr d).reads = [(.a, .any)] ∧ (Instr.null pr d).reads = []) ∧ (Instr.nop pr).reads = [] ∧ (Instr.nop pr).targets = [])

/-! ### Scalar integers -/

/-- The integer ALU (op 0x10): wrapping sums and differences, bitwise operations, shifts by b[5:0], signed and unsigned minimum and maximum; every operation reads a and b, and xop 12 to 15 are illegal. -/
def Obligations.IntegerAlu : Prop :=
  Computes .add (fun a b r => r = a + b) ∧ Computes .sub (fun a b r => r = a - b)
    ∧ Computes .and (fun a b r => r = a &&& b) ∧ Computes .or (fun a b r => r = a ||| b) ∧ Computes .xor (fun a b r => r = a ^^^ b)
    ∧ Computes .shl (fun a b r => r.toNat = a.toNat * 2 ^ (b.toNat % 64) % 2 ^ 64)
    ∧ Computes .shr (fun a b r => r.toNat = a.toNat / 2 ^ (b.toNat % 64))
    ∧ Computes .sra (fun a b r => r.toInt = a.toInt / 2 ^ (b.toNat % 64))
    ∧ Computes .min (fun a b r => (r = a ∨ r = b) ∧ r.toInt ≤ a.toInt ∧ r.toInt ≤ b.toInt)
    ∧ Computes .max (fun a b r => (r = a ∨ r = b) ∧ a.toInt ≤ r.toInt ∧ b.toInt ≤ r.toInt)
    ∧ Computes .minu (fun a b r => (r = a ∨ r = b) ∧ r.toNat ≤ a.toNat ∧ r.toNat ≤ b.toNat)
    ∧ Computes .maxu (fun a b r => (r = a ∨ r = b) ∧ a.toNat ≤ r.toNat ∧ b.toNat ≤ r.toNat)
    ∧ (∀ pr d, ∀ p ∈ ([(.add pr d, 0), (.sub pr d, 1), (.and pr d, 2), (.or pr d, 3), (.xor pr d, 4), (.shl pr d, 5), (.shr pr d, 6),
        (.sra pr d, 7), (.min pr d, 8), (.max pr d, 9), (.minu pr d, 10), (.maxu pr d, 11)] : List (Instr × Nat)),
        Coded p.1 0x10 p.2 ∧ p.1.reads = [(.a, .scalar), (.b, .scalar)])
    ∧ IllegalXop 0x10 [12, 13, 14, 15]

/-- The immediate forms (op 0x11): the operation of the register form with the sign-extended immediate as b; a shift amount is imm10[5:0] (04 R94, its assembler part apart). LEA and LEAI add b, or the sign-extended immediate, shifted left by 0 to 3, wrapping; other xop values are illegal (04 R99, its assembler part apart). -/
def Obligations.ImmediatesAndAddresses : Prop :=
  (ComputesImm .addi (fun a m r => r = a + m) ∧ ComputesImm .subi (fun a m r => r = a - m)
      ∧ ComputesImm .andi (fun a m r => r = a &&& m) ∧ ComputesImm .ori (fun a m r => r = a ||| m) ∧ ComputesImm .xori (fun a m r => r = a ^^^ m)
      ∧ ComputesImm .shli (fun a m r => r.toNat = a.toNat * 2 ^ (m.toNat % 64) % 2 ^ 64)
      ∧ ComputesImm .shri (fun a m r => r.toNat = a.toNat / 2 ^ (m.toNat % 64))
      ∧ ComputesImm .srai (fun a m r => r.toInt = a.toInt / 2 ^ (m.toNat % 64))
      ∧ IllegalXop 0x11 [8, 9, 10, 11, 12, 13, 14, 15])
    ∧ ((∀ pr sh d s v, Acts s (.lea pr sh d) v → DeliversS s (.lea pr sh d) fun r => r.toNat = (v.a.bits.toNat + v.b.bits.toNat * 2 ^ sh.toNat) % 2 ^ 64)
      ∧ (∀ pr sh imm t s v, Acts s (.leai pr sh imm t) v → DeliversS s (.leai pr sh imm t) fun r =>
          r = BitVec.ofInt 64 (v.a.bits.toInt + imm.toInt * 2 ^ sh.toNat))
      ∧ IllegalXop 0x17 [4, 5, 6, 7, 8, 9, 10, 11, 12, 13, 14, 15] ∧ IllegalXop 0x1A [4, 5, 6, 7, 8, 9, 10, 11, 12, 13, 14, 15])

/-- Multiply and divide (ops 0x12 and 0x13): the halves of the product, quotients rounded toward zero, remainders with the sign of a, and the cases of a zero divisor and of the one overflow. -/
def Obligations.MultiplyDivide : Prop :=
  Computes .mul (fun a b r => r.toNat = a.toNat * b.toNat % 2 ^ 64)
    ∧ Computes .mulh (fun a b r => r.toInt = a.toInt * b.toInt / 2 ^ 64)
    ∧ Computes .mulhu (fun a b r => r.toNat = a.toNat * b.toNat / 2 ^ 64)
    ∧ Computes .div (fun a b r => (b = 0 → r = BitVec.allOnes 64) ∧ (a.toInt = -(2 ^ 63) → b.toInt = -1 → r = a)
        ∧ (b ≠ 0 → ¬(a.toInt = -(2 ^ 63) ∧ b.toInt = -1) → r.toInt = a.toInt.tdiv b.toInt))
    ∧ Computes .divu (fun a b r => (b = 0 → r = BitVec.allOnes 64) ∧ (b ≠ 0 → r.toNat = a.toNat / b.toNat))
    ∧ Computes .rem (fun a b r => (b = 0 → r = a) ∧ (a.toInt = -(2 ^ 63) → b.toInt = -1 → r = 0) ∧ (b ≠ 0 → r.toInt = a.toInt.tmod b.toInt))
    ∧ Computes .remu (fun a b r => (b = 0 → r = a) ∧ (b ≠ 0 → r.toNat = a.toNat % b.toNat))
    ∧ ComputesImm .muli (fun a m r => r = a * m)
    ∧ (∀ pr d, ∀ p ∈ ([(.mul pr d, 0), (.mulh pr d, 1), (.mulhu pr d, 2), (.div pr d, 3), (.divu pr d, 4), (.rem pr d, 5), (.remu pr d, 6)] : List (Instr × Nat)),
        Coded p.1 0x12 p.2 ∧ p.1.reads = [(.a, .scalar), (.b, .scalar)])
    ∧ (∀ pr imm t, Coded (.muli pr imm t) 0x13 0 ∧ (Instr.muli pr imm t).reads = [(.a, .scalar)])
    ∧ IllegalXop 0x12 [7, 8, 9, 10, 11, 12, 13, 14, 15] ∧ IllegalXop 0x13 [1, 2, 3, 4, 5, 6, 7, 8, 9, 10, 11, 12, 13, 14, 15]

/-- The bit operations (op 0x14): leading zeros, trailing zeros, ones, and the sign- and zero-extensions of the low 8, 16 and 32 bits; all read slot a only. -/
def Obligations.BitOperations : Prop :=
  Computes1 .clz (fun a r => (a = 0 → r = 64) ∧ (a ≠ 0 → r.toNat ≤ 63 ∧ 2 ^ (63 - r.toNat) ≤ a.toNat ∧ a.toNat < 2 ^ (64 - r.toNat)))
    ∧ Computes1 .ctz (fun a r => (a = 0 → r = 64) ∧ (a ≠ 0 → a.getLsbD r.toNat = true ∧ ∀ j < r.toNat, a.getLsbD j = false))
    ∧ Computes1 .popc (fun a r => r.toNat = ((List.range 64).filter fun j => a.getLsbD j).length)
    ∧ Computes1 .exts8 (fun a r => r.toInt = (a.setWidth 8).toInt) ∧ Computes1 .exts16 (fun a r => r.toInt = (a.setWidth 16).toInt)
    ∧ Computes1 .exts32 (fun a r => r.toInt = (a.setWidth 32).toInt)
    ∧ Computes1 .extz8 (fun a r => r.toNat = a.toNat % 2 ^ 8) ∧ Computes1 .extz16 (fun a r => r.toNat = a.toNat % 2 ^ 16)
    ∧ Computes1 .extz32 (fun a r => r.toNat = a.toNat % 2 ^ 32)
    ∧ (∀ pr d, ∀ p ∈ ([(.clz pr d, 0), (.ctz pr d, 1), (.popc pr d, 2), (.exts8 pr d, 8), (.exts16 pr d, 9), (.exts32 pr d, 10), (.extz8 pr d, 11),
        (.extz16 pr d, 12), (.extz32 pr d, 13)] : List (Instr × Nat)), Coded p.1 0x14 p.2 ∧ p.1.reads = [(.a, .scalar)])
    ∧ IllegalXop 0x14 [3, 4, 5, 6, 7, 14, 15]

/-- BFX takes the field of a that its control names, cut at bit 63, and extends it; an empty field gives 0; no control value is illegal. BFI puts the low bits of b into the field of a that c names, cut at bit 63, and keeps the other bits of a. -/
def Obligations.BitFields : Prop :=
  (Computes .bfx (fun a b r =>
        let pos := b.toNat % 64
        let l := min (b.toNat / 2 ^ 8 % 64) (64 - pos)
        (l = 0 → r = 0)
          ∧ (l ≠ 0 → ∀ j < 64, r.getLsbD j = if j < l then a.getLsbD (pos + j) else b.getLsbD 15 && a.getLsbD (pos + l - 1)))
      ∧ ∀ pr d, Coded (.bfx pr d) 0x15 0 ∧ (Instr.bfx pr d).reads = [(.a, .scalar), (.b, .scalar)])
    ∧ ((∀ pr d s v, Acts s (.bfi pr d) v → DeliversS s (.bfi pr d) fun r =>
        let pos := v.c.bits.toNat % 64
        let l := min (v.c.bits.toNat / 2 ^ 8 % 64) (64 - pos)
        ∀ j < 64, r.getLsbD j = if pos ≤ j ∧ j < pos + l then v.b.bits.getLsbD (j - pos) else v.a.bits.getLsbD j)
      ∧ ∀ pr d, Coded (.bfi pr d) 0x16 0 ∧ (Instr.bfi pr d).reads = [(.a, .scalar), (.b, .scalar), (.c, .scalar)])

/-- The tests (ops 0x18 and 0x19): 1 when the condition holds, else 0, signed and unsigned, with b or the sign-extended immediate; xop 6 to 15 are illegal. -/
def Obligations.IntegerTests : Prop :=
  Computes .teq (fun a b r => r = if a = b then 1 else 0) ∧ Computes .tne (fun a b r => r = if a ≠ b then 1 else 0)
    ∧ Computes .tlt (fun a b r => r = if a.toInt < b.toInt then 1 else 0) ∧ Computes .tle (fun a b r => r = if a.toInt ≤ b.toInt then 1 else 0)
    ∧ Computes .tltu (fun a b r => r = if a.toNat < b.toNat then 1 else 0) ∧ Computes .tleu (fun a b r => r = if a.toNat ≤ b.toNat then 1 else 0)
    ∧ ComputesImm .teqi (fun a m r => r = if a = m then 1 else 0) ∧ ComputesImm .tnei (fun a m r => r = if a ≠ m then 1 else 0)
    ∧ ComputesImm .tlti (fun a m r => r = if a.toInt < m.toInt then 1 else 0) ∧ ComputesImm .tlei (fun a m r => r = if a.toInt ≤ m.toInt then 1 else 0)
    ∧ ComputesImm .tltui (fun a m r => r = if a.toNat < m.toNat then 1 else 0) ∧ ComputesImm .tleui (fun a m r => r = if a.toNat ≤ m.toNat then 1 else 0)
    ∧ (∀ pr d, ∀ p ∈ ([(.teq pr d, 0), (.tne pr d, 1), (.tlt pr d, 2), (.tle pr d, 3), (.tltu pr d, 4), (.tleu pr d, 5)] : List (Instr × Nat)),
        Coded p.1 0x18 p.2 ∧ p.1.reads = [(.a, .scalar), (.b, .scalar)])
    ∧ (∀ pr imm t, ∀ p ∈ ([(.teqi pr imm t, 0), (.tnei pr imm t, 1), (.tlti pr imm t, 2), (.tlei pr imm t, 3), (.tltui pr imm t, 4), (.tleui pr imm t, 5)] :
        List (Instr × Nat)), Coded p.1 0x19 p.2 ∧ p.1.reads = [(.a, .scalar)])
    ∧ IllegalXop 0x18 [6, 7, 8, 9, 10, 11, 12, 13, 14, 15] ∧ IllegalXop 0x19 [6, 7, 8, 9, 10, 11, 12, 13, 14, 15]

/-! ### Scalar floating point -/

/-- Scalar floating-point arithmetic: the exact value of the operation on the operands read under FPMODE.ftz, rounded once to the type under FPMODE.rm, with its flags raised in the clause; FSGN is a bit operation without flags (04 R101 to R104). -/
def Obligations.ScalarFloat : Prop :=
  ∀ (s : State) (v : Vals) (pr : Pred) (y : FTy) (d : Dst),
    (Acts s (.fadd pr y d) v → GivesSF s (.fadd pr y d) (wr s y (addVal s.mode (rd s y v.a) (rd s y v.b))))
      ∧ (Acts s (.fsub pr y d) v → GivesSF s (.fsub pr y d) (wr s y (addVal s.mode (rd s y v.a) (rd s y v.b).negate)))
      ∧ (Acts s (.fmul pr y d) v → GivesSF s (.fmul pr y d) (wr s y (mulVal (rd s y v.a) (rd s y v.b))))
      ∧ (Acts s (.fdiv pr y d) v → GivesSF s (.fdiv pr y d) (wr s y (divVal (rd s y v.a) (rd s y v.b))))
      ∧ (Acts s (.fmin pr y d) v → GivesSF s (.fmin pr y d) (wr s y (minVal (rd s y v.a) (rd s y v.b))))
      ∧ (Acts s (.fmax pr y d) v → GivesSF s (.fmax pr y d) (wr s y (maxVal (rd s y v.a) (rd s y v.b))))
      ∧ (Acts s (.fsqrt pr y d) v → GivesSF s (.fsqrt pr y d) (wr s y (sqrtVal (rd s y v.a))))
      ∧ (Acts s (.ffma pr y d) v → GivesSF s (.ffma pr y d) (wr s y (fmaVal s.mode (rd s y v.a) (rd s y v.b) (rd s y v.c))))
      ∧ (Acts s (.ffms pr y d) v → GivesSF s (.ffms pr y d) (wr s y (fmaVal s.mode (rd s y v.a) (rd s y v.b) (rd s y v.c).negate)))
      ∧ (Acts s (.ffnma pr y d) v → GivesSF s (.ffnma pr y d) (wr s y (fmaVal s.mode (rd s y v.a).negate (rd s y v.b) (rd s y v.c))))
      ∧ (Acts s (.ffnms pr y d) v → GivesSF s (.ffnms pr y d) (wr s y (fmaVal s.mode (rd s y v.a).negate (rd s y v.b) (rd s y v.c).negate)))
      ∧ (Acts s (.fsgn pr y d) v → DeliversS s (.fsgn pr y d) fun r =>
          let f := ftyFmt y
          f.signOf r.toNat = f.signOf v.b.bits.toNat ∧ r.toNat % 2 ^ (f.eb + f.mb) = v.a.bits.toNat % 2 ^ (f.eb + f.mb) ∧ r.toNat < 2 ^ f.bits)

/-- The special cases of the exact operations: a division of a finite nonzero value by zero is a signed infinity with dz; 0/0, ∞/∞, ∞ − ∞ and 0 × ∞ are the canonical NaN with nv; a signalling NaN raises nv; an exact zero sum is +0, or −0 when rounding down; the root of −0 is −0 and of a negative value a NaN with nv; FMIN and FMAX prefer the number over the NaN and order −0 below +0 (04 R102 to R104). Rounding a multiple of a place: to nearest it is off by at most half a place and even on a tie, toward zero it is the floor of the magnitude, down and up follow the sign, and it is inexact exactly when a remainder is lost (03 R73). -/
def Obligations.FloatSpecialCasesAndRounding : Prop :=
  ((∀ a b m e, divVal (.fin a m e) (.zero b) = (.inf (xor a b), fDZ))
      ∧ (∀ a b, divVal (.zero a) (.zero b) = (.nan false, fNV) ∧ divVal (.inf a) (.inf b) = (.nan false, fNV))
      ∧ (∀ md a, addVal md (.inf a) (.inf (!a)) = (.nan false, fNV))
      ∧ (∀ a b, mulVal (.inf a) (.zero b) = (.nan false, fNV) ∧ mulVal (.zero a) (.inf b) = (.nan false, fNV))
      ∧ (∀ md y, (addVal md (.nan true) y) = (.nan false, fNV) ∧ (addVal md y (.nan true)).2 = fNV
          ∧ (mulVal (.nan true) y) = (.nan false, fNV) ∧ (divVal (.nan true) y) = (.nan false, fNV) ∧ sqrtVal (.nan true) = (.nan false, fNV))
      ∧ (∀ md n m e, addVal md (.fin n m e) (.fin (!n) m e) = (.zero (decide (md = .rdn)), 0#5))
      ∧ (∀ md, addVal md (.zero false) (.zero true) = (.zero (decide (md = .rdn)), 0#5))
      ∧ sqrtVal (.zero true) = (.zero true, 0#5) ∧ sqrtVal (.inf true) = (.nan false, fNV) ∧ (∀ m e, sqrtVal (.fin true m e) = (.nan false, fNV))
      ∧ (∀ x, x.isNan = false → minVal (.nan false) x = (x, 0#5) ∧ minVal x (.nan false) = (x, 0#5) ∧ maxVal (.nan false) x = (x, 0#5) ∧ maxVal x (.nan false) = (x, 0#5))
      ∧ minVal (.zero false) (.zero true) = (.zero true, 0#5) ∧ maxVal (.zero true) (.zero false) = (.zero false, 0#5)
      ∧ (∀ md z, (fmaVal md (.zero false) (.inf false) z) = (.nan false, fNV)))
    ∧ (∀ (neg : Bool) (m s : Nat),
      (let r := roundShift .rne neg m s
       2 * (r.1 * 2 ^ s) ≤ 2 * m + 2 ^ s ∧ 2 * m ≤ 2 * (r.1 * 2 ^ s) + 2 ^ s ∧ (2 * (m % 2 ^ s) = 2 ^ s → r.1 % 2 = 0))
        ∧ (roundShift .rtz neg m s).1 = m / 2 ^ s
        ∧ (roundShift .rdn false m s).1 = m / 2 ^ s ∧ (roundShift .rup true m s).1 = m / 2 ^ s
        ∧ (roundShift .rup false m s).1 = (m + 2 ^ s - 1) / 2 ^ s ∧ (roundShift .rdn true m s).1 = (m + 2 ^ s - 1) / 2 ^ s
        ∧ ∀ md, (roundShift md neg m s).2 = decide (m % 2 ^ s ≠ 0))

/-- FCVT, FTOI and ITOF: a narrowing FCVT under FPMODE.rm 100 takes the draw of its cell's generator and leaves it one step further; every other conversion rounds once under the mode, FTOI toward zero when it truncates (04 R105 to R107). FTOI at the ends of its range: a NaN gives 0, values beyond the range and the infinities saturate, all with nv alone (04 R106). -/
def Obligations.ScalarConversions : Prop :=
  (∀ (s : State) (v : Vals) (pr : Pred) (y z : FTy) (d : Dst) (sgn tr : Bool),
      (Acts s (.fcvt pr y z d) v → (s.isSto = false ∨ ftySig z ≤ ftySig y) →
          GivesSF s (.fcvt pr y z d) (fcvtWord s s.mode y z v.a))
        ∧ (Acts s (.fcvt pr y z d) v → s.isSto = true → ftySig y < ftySig z →
            exec (.fcvt pr y z d) s = .next (s.fired (((s.advanceGen 1).raise (fcvtWord s (.sto (genDraw (s.genState 1))) y z v.a).2).deliverS (.fcvt pr y z d)
              (fcvtWord s (.sto (genDraw (s.genState 1))) y z v.a).1)))
        ∧ (Acts s (.ftoi pr y sgn tr d) v → GivesSF s (.ftoi pr y sgn tr d) (ftoiWord sgn (if tr then .rtz else s.mode) (rd s y v.a)))
        ∧ (Acts s (.itof pr y sgn d) v →
            GivesSF s (.itof pr y sgn d) (wr s y (Val.ofInt (if sgn then v.a.bits.toInt else (v.a.bits.toNat : Int)) 0, 0#5))))
    ∧ (∀ md,
      (∀ sg q, ftoiWord sg md (.nan q) = (0, fNV))
        ∧ ftoiWord true md (.inf false) = (BitVec.ofNat 64 (2 ^ 63 - 1), fNV) ∧ ftoiWord true md (.inf true) = (BitVec.ofNat 64 (2 ^ 63), fNV)
        ∧ ftoiWord false md (.inf false) = (BitVec.allOnes 64, fNV) ∧ ftoiWord false md (.inf true) = (0, fNV)
        ∧ (∀ n m e sg, 64 ≤ e → 0 < m → (ftoiWord sg md (.fin n m e)).2 = fNV)
        ∧ (∀ m, (ftoiWord true md (.fin false m 0)).2 = if m < 2 ^ 63 then 0#5 else fNV)
        ∧ (∀ m, 0 < m → (ftoiWord false md (.fin true m 0)) = (0, fNV)))

/-- FEQ, FLT and FLE deliver 1 or 0 by the values read under ftz; zeros of either sign are equal; with a NaN they deliver 0, FEQ raising nv for a signalling one only, FLT and FLE for any (04 R108); FCLASS delivers exactly one of ten bits and raises nothing (04 R109). -/
def Obligations.FloatCompares : Prop :=
  ∀ (s : State) (v : Vals) (pr : Pred) (y : FTy) (d : Dst),
    (Acts s (.feq pr y d) v → GivesSF s (.feq pr y d) (cmpVal true eqVal (rd s y v.a) (rd s y v.b)))
      ∧ (Acts s (.flt pr y d) v → GivesSF s (.flt pr y d) (cmpVal false ltVal (rd s y v.a) (rd s y v.b)))
      ∧ (Acts s (.fle pr y d) v → GivesSF s (.fle pr y d) (cmpVal false (fun p q => !ltVal q p) (rd s y v.a) (rd s y v.b)))
      ∧ (∀ b c, eqVal (.zero b) (.zero c) = true ∧ ltVal (.zero b) (.zero c) = false)
      ∧ (∀ c x, x.isNan = false → cmpVal true c (.nan false) x = (0, 0#5) ∧ cmpVal true c (.nan true) x = (0, fNV) ∧ cmpVal false c (.nan false) x = (0, fNV))
      ∧ (Acts s (.fclass pr y d) v → DeliversS s (.fclass pr y d) fun r => ∃ k < 10, r = 1#64 <<< k ∧
          (match (ftyFmt y).decode v.a.bits.toNat with
           | .inf true => k = 0
           | .fin true m e => k = if (ftyFmt y).isSubnormal (.fin true m e) then 2 else 1
           | .zero true => k = 3
           | .zero false => k = 4
           | .fin false m e => k = if (ftyFmt y).isSubnormal (.fin false m e) then 5 else 6
           | .inf false => k = 7
           | .nan true => k = 8
           | .nan false => k = 9))

/-! ### Branches -/

/-- BRO, BR and RET are recorded as a jump, CALLO and CALL as a call, to the clause address plus sixteen times the offset or to slot a; younger clauses at another address are squashed (01 R26; 04 R110 to R115). EXITT, YIELD and SCALL are recorded in their clause and, but for what they report to the predictor, change nothing else as they fire (04 R116 to R118); a report changes only what the predictor holds (02 R39). Which clauses a branch squashes: where the next younger clause stands at another address than the target, every younger clause goes; where it stands at the target, or there is none, no clause goes; the older clauses, the committed registers, the committed stores, scratch and memory are as they were (01 R26). What a squash of a task's clauses from one on leaves, at a mispredicted branch or before a fault: those clauses are gone from the window with their register writes, effects and marks, and the hypotheses they had made are free; of the task nothing else changes but the count of squashed clauses, and memory, versions, nodes and engine commands do not (01 R26). -/
def Obligations.Branches : Prop :=
  (∀ (s : State) (v : Vals) (pr : Pred) (ex : BitVec 3) (off : BitVec 20),
      (Acts s (.bro pr ex off) v → exec (.bro pr ex off) s = .next (s.fired (s.takeBranch ex (branchTarget s.faddr off) (.jump (branchTarget s.faddr off)))))
        ∧ (Acts s (.br pr) v → exec (.br pr) s = .next (s.fired (s.takeBranch 7 v.a.bits (.jump v.a.bits))))
        ∧ (Acts s (.callo pr ex off) v → exec (.callo pr ex off) s = .next (s.fired (s.takeBranch ex (branchTarget s.faddr off) (.call (branchTarget s.faddr off)))))
        ∧ (Acts s (.call pr) v → exec (.call pr) s = .next (s.fired (s.takeBranch 7 v.a.bits (.call v.a.bits))))
        ∧ (Acts s (.ret pr) v → exec (.ret pr) s = .next (s.fired (s.takeBranch 7 v.a.bits (.jump v.a.bits))))
        ∧ (∀ a, branchTarget a off = BitVec.ofInt 64 (a.toInt + off.toInt * 16)))
    ∧ (∀ (s : State) (v : Vals) (pr : Pred) (ex : BitVec 3) (off : BitVec 20),
      (Acts s (.exitt pr) v → exec (.exitt pr) s = .next (s.fired ((s.onInst fun y => y.recordBranch .exitt).tellPredictor 7 s.fnext)))
        ∧ (Acts s (.yield pr ex off) v → exec (.yield pr ex off) s = .next (s.fired ((s.onInst fun y => y.recordBranch (.yield (branchTarget s.faddr off))).tellPredictor ex (branchTarget s.faddr off))))
        ∧ (Acts s (.scall pr ex off) v → exec (.scall pr ex off) s = .next (s.fired ((s.onInst fun y => y.recordBranch (.scall off)).tellPredictor ex s.fnext)))
        ∧ (∀ a, SameOutside s (s.tellPredictor ex a) ∧ ∃ f : Ctx → List (Word × BitVec 3 × Word), (s.tellPredictor ex a).ctxs = s.ctxs.map fun c : Ctx => { c with predictor := f c }))
    ∧ (∀ (s : State) (c : Ctx) (x : Inst) (ex : BitVec 3) (t : Word) (b : BranchOut),
      s.fctx = some c → c.kind = .task → c.window[s.focus.win]? = some x →
      let u := s.takeBranch ex t b
      let n := s.focus.win + 1
      u.mem = s.mem ∧ u.versions = s.versions ∧ ∃ d, u.fctx = some d ∧ c.sameRegs d ∧ d.pend = c.pend ∧ d.scratch = c.scratch
        ∧ d.window.take s.focus.win = c.window.take s.focus.win
        ∧ (∀ y, c.window[n]? = some y → y.addr ≠ t → d.window.length = n)
        ∧ (∀ y, c.window[n]? = some y → y.addr = t → d.window.drop n = c.window.drop n)
        ∧ (c.window[n]? = none → d.window.length = c.window.length))
    ∧ (∀ (s : State) (c : Ctx) (n : Nat), s.ctx? c.id = some c → c.kind = .task →
      let u := s.squashFrom c.id n
      u.ctx? c.id = some { c with window := c.window.take n, clSquash := c.clSquash + fetchedCount (c.window.drop n) }
        ∧ u.mem = s.mem ∧ u.versions = s.versions ∧ u.mnodes = s.mnodes ∧ u.scmds = s.scmds
        ∧ ∀ y ∈ c.window.drop n, ∀ h ∈ y.newHyps, u.hyp? h = none)

/-- Where a committed clause leaves its task: a jump and a call at the target, SCALL at the next clause in memory with a service stop, YIELD at its target on the way off the lens, EXITT at its end, RFT in mode 00 at the address it is handed, which is RESUME as it stood before the clause (04 R110 to R118; 17 R348). What a commit does to the registers, however many a clause writes: each global takes the value it received, one that received null or is not written keeps its own, a call writes the next clause's address to g63, and the raised flags are ORed into FPFLAGS (01 R20). -/
def Obligations.CommitRegistersAndBranch : Prop :=
  (∀ (c : Ctx) (x : Inst) (r : Word), x.rft = false →
      (∀ t, x.branch = some (.jump t) → (c.branchTo x r []).pc = t ∧ (c.branchTo x r []).afterStop = [])
        ∧ (∀ t, x.branch = some (.call t) → (c.branchTo x r []).pc = t)
        ∧ (∀ n, x.branch = some (.scall n) → (c.branchTo x r []).pc = x.nextAddr ∧ (c.branchTo x r []).afterStop = [(.service, n.setWidth 32)])
        ∧ (∀ t, x.branch = some (.yield t) → (c.branchTo x r []).pc = t ∧ (c.branchTo x r []).leaving = some .yield)
        ∧ (x.branch = some .exitt → (c.branchTo x r []).leaving = some .exitt ∧ (c.branchTo x r []).pc = c.pc)
        ∧ (c.branchTo { x with rft := true } r []).pc = r ∧ (c.branchTo { x with rft := true } r []).causeMode = 0
        ∧ x.nextAddr = x.addr + BitVec.ofNat 64 (16 + 128 * (x.hdr.nchunk.toNat + 1)))
    ∧ (∀ (s : State) (c : Ctx) (x : Inst), ∃ t : State, ∃ f : Ctx → Ctx, ∃ stops, s.commitTask c x =
        ((match (t.onCtx c.id fun y => ((f y).branchTo x c.resume stops).settlePrio).ctx? c.id with
          | some y => (t.onCtx c.id fun y => ((f y).branchTo x c.resume stops).settlePrio).hypBoundary y
          | none => t.onCtx c.id fun y => ((f y).branchTo x c.resume stops).settlePrio).settle c.id).tick)
    ∧ (∀ (c : Ctx) (x : Inst), (x.gw.map fun p => p.1).Nodup → (x.ww.map fun p => p.1).Nodup →
      (∀ r u, (r, Token.scalar u) ∈ x.gw → (r = 63 → ∀ t, x.branch ≠ some (.call t)) → (c.takeRegs x).gr r = u)
        ∧ (∀ r, (∀ u, (r, Token.scalar u) ∉ x.gw) → (r = 63 → ∀ t, x.branch ≠ some (.call t)) → (c.takeRegs x).gr r = c.gr r)
        ∧ (∀ t, x.branch = some (.call t) → (c.takeRegs x).gr 63 = x.nextAddr)
        ∧ (∀ r u, (r, Token.wide u) ∈ x.ww → (c.takeRegs x).wr r = u)
        ∧ (∀ r, (∀ u, (r, Token.wide u) ∉ x.ww) → (c.takeRegs x).wr r = c.wr r)
        ∧ (c.takeRegs x).fpflags = orFlags c.fpflags x.flags)

/-! ### Wide values -/

/-- The wide integer families (ops 0x30 to 0x32): each lane from the lanes of a and b, in every shape; sums, differences and low products wrap, the high product, minimum, maximum and VSRA are signed, and shifts take the low bits of the lane of b; both slots are wide. -/
def Obligations.WideIntegers : Prop :=
  ComputesLanes .vadd (fun e a b j => lane e a j + lane e b j) ∧ ComputesLanes .vsub (fun e a b j => lane e a j - lane e b j)
    ∧ ComputesLanes .vmul (fun e a b j => lane e a j * lane e b j) ∧ ComputesLanes .vmulh (fun e a b j => laneS e a j * laneS e b j / 2 ^ e)
    ∧ ComputesLanes .vmin (fun e a b j => min (laneS e a j) (laneS e b j)) ∧ ComputesLanes .vmax (fun e a b j => max (laneS e a j) (laneS e b j))
    ∧ ComputesLanes .vand (fun e a b j => (lane e a j &&& lane e b j : Nat)) ∧ ComputesLanes .vor (fun e a b j => (lane e a j ||| lane e b j : Nat))
    ∧ ComputesLanes .vxor (fun e a b j => (lane e a j ^^^ lane e b j : Nat))
    ∧ ComputesLanes .vshl (fun e a b j => lane e a j * 2 ^ (lane e b j % e)) ∧ ComputesLanes .vshr (fun e a b j => (lane e a j / 2 ^ (lane e b j % e) : Nat))
    ∧ ComputesLanes .vsra (fun e a b j => laneS e a j / 2 ^ (lane e b j % e))
    ∧ (∀ pr sh d, ∀ p ∈ ([(.vadd pr sh d, 0x30, 0), (.vsub pr sh d, 0x30, 1), (.vmul pr sh d, 0x30, 2), (.vmulh pr sh d, 0x30, 3), (.vmin pr sh d, 0x31, 0),
        (.vmax pr sh d, 0x31, 1), (.vand pr sh d, 0x31, 2), (.vor pr sh d, 0x31, 3), (.vxor pr sh d, 0x32, 0), (.vshl pr sh d, 0x32, 1),
        (.vshr pr sh d, 0x32, 2), (.vsra pr sh d, 0x32, 3)] : List (Instr × Nat × Nat)),
        Coded p.1 p.2.1 (4 * Shape.code sh + p.2.2) ∧ p.1.reads = [(.a, .wide), (.b, .wide)])

/-- VCMP writes a lane of all ones where its condition holds, else zeros; VSEL takes the lane of a where the lane of c is not zero, else of b (05 R126, R127). VBCAST fills every lane with the low bits of a; VEXTR delivers lane b mod n of a, zero-extended; VINS replaces that lane by the low bits of c; VSHUF takes lane b_j mod n of a, or zero where the top bit of b_j is set (05 R128, R129). -/
def Obligations.WideCompareSelectMove : Prop :=
  (∀ (pr : Pred) (sh : Shape) (d : Dst) (s : State) (v : Vals),
      let e := Shape.bits sh
      let a := v.a.wbits
      let b := v.b.wbits
      (Acts s (.vcmp pr sh .eq d) v → DeliversW s (.vcmp pr sh .eq d) fun r => ∀ j < 512 / e, lane e r j = if lane e a j = lane e b j then 2 ^ e - 1 else 0)
        ∧ (Acts s (.vcmp pr sh .ne d) v → DeliversW s (.vcmp pr sh .ne d) fun r => ∀ j < 512 / e, lane e r j = if lane e a j ≠ lane e b j then 2 ^ e - 1 else 0)
        ∧ (Acts s (.vcmp pr sh .lt d) v → DeliversW s (.vcmp pr sh .lt d) fun r => ∀ j < 512 / e, lane e r j = if laneS e a j < laneS e b j then 2 ^ e - 1 else 0)
        ∧ (Acts s (.vcmp pr sh .ltu d) v → DeliversW s (.vcmp pr sh .ltu d) fun r => ∀ j < 512 / e, lane e r j = if lane e a j < lane e b j then 2 ^ e - 1 else 0)
        ∧ (Acts s (.vsel pr sh d) v → DeliversW s (.vsel pr sh d) fun r => ∀ j < 512 / e, lane e r j = if lane e v.c.wbits j ≠ 0 then lane e a j else lane e b j))
    ∧ (∀ (pr : Pred) (sh : Shape) (d : Dst) (s : State) (v : Vals),
      let e := Shape.bits sh
      let n := 512 / e
      (Acts s (.vbcast pr sh d) v → DeliversW s (.vbcast pr sh d) fun r => ∀ j < n, lane e r j = v.a.bits.toNat % 2 ^ e)
        ∧ (Acts s (.vextr pr sh d) v → DeliversS s (.vextr pr sh d) fun r => r.toNat = lane e v.a.wbits (v.b.bits.toNat % n))
        ∧ (Acts s (.vins pr sh d) v → DeliversW s (.vins pr sh d) fun r =>
            ∀ j < n, lane e r j = if j = v.b.bits.toNat % n then v.c.bits.toNat % 2 ^ e else lane e v.a.wbits j)
        ∧ (Acts s (.vshuf pr sh d) v → DeliversW s (.vshuf pr sh d) fun r =>
            ∀ j < n, lane e r j = if 2 ^ (e - 1) ≤ lane e v.b.wbits j then 0 else lane e v.a.wbits (lane e v.b.wbits j % n)))

/-- The wide floating-point families: every lane by its exact operation, rounded once, the OR of the lanes' flags raised; which neighbour an inexact VEXP2 or VLOG2 lane takes is the model's free value (05 R121, R124 to R126; log 5). Lane j of a wide floating-point result of two operands comes from lane j of a and of b alone, and every flag a lane raises is raised (05 R121, R124). -/
def Obligations.WideFloat : Prop :=
  (∀ (s : State) (v : Vals) (pr : Pred) (y : VTy) (d : Dst) (cond : VFCond),
      (Acts s (.vfadd pr y d) v → GivesWF s (.vfadd pr y d) (vf2 s y (fun a b => addVal s.mode a b) v))
        ∧ (Acts s (.vfsub pr y d) v → GivesWF s (.vfsub pr y d) (vf2 s y (fun a b => addVal s.mode a b.negate) v))
        ∧ (Acts s (.vfmul pr y d) v → GivesWF s (.vfmul pr y d) (vf2 s y mulVal v))
        ∧ (Acts s (.vfdiv pr y d) v → GivesWF s (.vfdiv pr y d) (vf2 s y divVal v))
        ∧ (Acts s (.vfmin pr y d) v → GivesWF s (.vfmin pr y d) (vf2 s y minVal v))
        ∧ (Acts s (.vfmax pr y d) v → GivesWF s (.vfmax pr y d) (vf2 s y maxVal v))
        ∧ (Acts s (.vfsqrt pr y d) v → GivesWF s (.vfsqrt pr y d) (vf1 s y sqrtVal v))
        ∧ (Acts s (.vrcp pr y d) v → GivesWF s (.vrcp pr y d) (vf1 s y (fun x => divVal (.fin false 1 0) x) v))
        ∧ (Acts s (.vrsq pr y d) v → GivesWF s (.vrsq pr y d) (vf1 s y rsqVal v))
        ∧ (Acts s (.vexp2 pr y d) v → GivesWF s (.vexp2 pr y d) (packFl (vtyBits y) ((lanesOf (vtyBits y) v.a.wbits).map (expLogLane s y 0))))
        ∧ (Acts s (.vlog2 pr y d) v → GivesWF s (.vlog2 pr y d) (packFl (vtyBits y) ((lanesOf (vtyBits y) v.a.wbits).map (expLogLane s y 1))))
        ∧ (Acts s (.vffma pr y d) v → GivesWF s (.vffma pr y d) (vf3 s y false false v))
        ∧ (Acts s (.vffms pr y d) v → GivesWF s (.vffms pr y d) (vf3 s y false true v))
        ∧ (Acts s (.vffnma pr y d) v → GivesWF s (.vffnma pr y d) (vf3 s y true false v))
        ∧ (Acts s (.vffnms pr y d) v → GivesWF s (.vffnms pr y d) (vf3 s y true true v))
        ∧ (Acts s (.vfcmp pr y cond d) v → GivesWF s (.vfcmp pr y cond d) (packFl (vtyBits y)
            (List.zipWith (fun a b => (maskLane (vtyBits y) (vfcondHolds cond a b).1, (vfcondHolds cond a b).2)) (rdLanes s y v.a) (rdLanes s y v.b)))))
    ∧ (∀ (s : State) (y : VTy) (f : Val → Val → Val × Flags) (v : Vals) (j : Nat), j < 512 / vtyBits y →
      let r := wrLane s y (f ((vtyFmt y).read s.ftz (lane (vtyBits y) v.a.wbits j)) ((vtyFmt y).read s.ftz (lane (vtyBits y) v.b.wbits j)))
      lane (vtyBits y) (vf2 s y f v).1 j = r.1 % 2 ^ vtyBits y ∧ r.2 &&& (vf2 s y f v).2 = r.2)

/-- VCVT, VQNT, VDQNT, VRED, VSCAN and VDOT deliver their result where the control word is accepted, taking the generator's draws where the control, or FPMODE that it names, asks for stochastic rounding and the conversion narrows, and none else, and otherwise deliver a poison ILLOP whose origin is the instruction itself (05 R122, R130 to R136). Integer VDOT, VRED and VSCAN in terms of the lanes: a dot product of signed bytes is the exact sum of the lane products, an ADD reduction of 64-bit lanes their wrapping sum, and an inclusive XOR scan ends with the XOR of every lane (05 R134 to R136). -/
def Obligations.ControlledWide : Prop :=
  (∀ (s : State) (v : Vals) (pr : Pred) (d : Dst),
      (Acts s (.vcvt pr d) v →
          (vcvtOk v.b.bits = false → exec (.vcvt pr d) s = .next (s.fired (s.deliverPoison (.vcvt pr d) .illop)))
            ∧ (vcvtOk v.b.bits = true →
                ¬((bitsOf v.b.bits 5 3 = 4 ∨ (bitsOf v.b.bits 5 3 = 7 ∧ s.isSto = true)) ∧ narrows (bitsOf v.b.bits 8 5) (fmtPA (bitsOf v.b.bits 0 5)) = true) →
                exec (.vcvt pr d) s = .next (s.fired ((s.raise (vcvtWide s false v.a.wbits v.b.bits).2).deliverW (.vcvt pr d) (vcvtWide s false v.a.wbits v.b.bits).1)))
            ∧ (vcvtOk v.b.bits = true → bitsOf v.b.bits 5 3 = 4 ∨ (bitsOf v.b.bits 5 3 = 7 ∧ s.isSto = true) → narrows (bitsOf v.b.bits 8 5) (fmtPA (bitsOf v.b.bits 0 5)) = true →
                exec (.vcvt pr d) s = .next (s.fired (((s.advanceGen (bitsOf v.b.bits 48 9 + 1)).raise (vcvtWide s true v.a.wbits v.b.bits).2).deliverW (.vcvt pr d)
                  (vcvtWide s true v.a.wbits v.b.bits).1))))
        ∧ (Acts s (.vqnt pr d) v →
            let n := (bitsOf v.b.bits 8 3 + 1) * fmtBlock (bitsOf v.b.bits 0 5)
            let y := styOf (bitsOf v.b.bits 6 2)
            let xs := (rdLanes s y v.a ++ rdLanes s y v.c).take n
            let q (sto : Bool) := fmtPut (bitsOf v.b.bits 0 5) (vtyFmt y) false (modesOf sto .rne (s.genState n) n) xs
            (vqntOk v.b.bits = false → exec (.vqnt pr d) s = .next (s.fired (s.deliverPoison (.vqnt pr d) .illop)))
              ∧ (vqntOk v.b.bits = true → bitsOf v.b.bits 5 1 = 0 ∨ narrows (bitsOf v.b.bits 0 5) ((vtyFmt y).mb + 1) = false →
                  exec (.vqnt pr d) s = .next (s.fired ((s.raise (q false).2).deliverW (.vqnt pr d) (BitVec.ofNat 512 (q false).1))))
              ∧ (vqntOk v.b.bits = true → bitsOf v.b.bits 5 1 = 1 → narrows (bitsOf v.b.bits 0 5) ((vtyFmt y).mb + 1) = true →
                  exec (.vqnt pr d) s = .next (s.fired (((s.advanceGen n).raise (q true).2).deliverW (.vqnt pr d) (BitVec.ofNat 512 (q true).1)))))
        ∧ (Acts s (.vdqnt pr d) v →
            let y := styOf (bitsOf v.b.bits 5 2)
            let r := packFl (vtyBits y) ((fmtGetN (bitsOf v.b.bits 0 5) (v.a.wbits.toNat / 2 ^ (8 * bitsOf v.b.bits 8 6)) (bitsOf v.b.bits 16 7) (512 / vtyBits y)).map
              fun x => (vtyFmt y).write s.ftz s.mode x)
            (vdqntOk v.b.bits = false → exec (.vdqnt pr d) s = .next (s.fired (s.deliverPoison (.vdqnt pr d) .illop)))
              ∧ (vdqntOk v.b.bits = true → GivesWF s (.vdqnt pr d) r))
        ∧ (Acts s (.vred pr d) v →
            (redOk false v.b.bits = false → exec (.vred pr d) s = .next (s.fired (s.deliverPoison (.vred pr d) .illop)))
              ∧ (redOk false v.b.bits = true → GivesSF s (.vred pr d) (vredWord s v.a v.b.bits)))
        ∧ (Acts s (.vscan pr d) v →
            (redOk true v.b.bits = false → exec (.vscan pr d) s = .next (s.fired (s.deliverPoison (.vscan pr d) .illop)))
              ∧ (redOk true v.b.bits = true → GivesWF s (.vscan pr d) (vscanWide s v.a v.b.bits)))
        ∧ (Acts s (.vdot pr d) v →
            (vdotOk v.c.bits = false → exec (.vdot pr d) s = .next (s.fired (s.deliverPoison (.vdot pr d) .illop)))
              ∧ (vdotOk v.c.bits = true → GivesSF s (.vdot pr d) (vdotWord s v.a v.b v.c.bits))))
    ∧ (∀ (s : State) (a b : Wide),
      (vdotWord s (.wide a) (.wide b) 0) = (BitVec.ofInt 64 ((List.range 64).map fun j => laneS 8 a j * laneS 8 b j).sum, 0#5)
        ∧ (vredWord s (.wide a) 0x30) = (BitVec.ofNat 64 ((List.range 8).map fun j => lane 64 a j).sum, 0#5)
        ∧ lane 64 (vscanWide s (.wide a) 0x37).1 7 = ((List.range 8).map fun j => lane 64 a j).foldl (fun x y => x ^^^ y) 0)

/-! ### Loads and stores -/

/-- Scalar loads: the address is slot a plus the scaled sign-extended offset, the size that of the mnemonic, and the token the bytes zero- or sign-extended (05 R138, R139, R141). -/
def Obligations.ScalarLoads : Prop :=
  ∀ (s : State) (v : Vals) (pr : Pred) (eff : BitVec 5) (imm : BitVec 9) (t : Tgt),
    let at_ (n : Nat) : Word := BitVec.ofInt 64 (v.a.bits.toInt + imm.toInt * n)
    (Acts s (.ldZb pr eff imm t) v → LoadsWith s (.ldZb pr eff imm t) eff [(at_ 1, 1)] false .done (scalarOf 1 false))
      ∧ (Acts s (.ldZh pr eff imm t) v → LoadsWith s (.ldZh pr eff imm t) eff [(at_ 2, 2)] false .done (scalarOf 2 false))
      ∧ (Acts s (.ldZw pr eff imm t) v → LoadsWith s (.ldZw pr eff imm t) eff [(at_ 4, 4)] false .done (scalarOf 4 false))
      ∧ (Acts s (.ldD pr eff imm t) v → LoadsWith s (.ldD pr eff imm t) eff [(at_ 8, 8)] false .done (scalarOf 8 false))
      ∧ (Acts s (.ldSb pr eff imm t) v → LoadsWith s (.ldSb pr eff imm t) eff [(at_ 1, 1)] false .done (scalarOf 1 true))
      ∧ (Acts s (.ldSh pr eff imm t) v → LoadsWith s (.ldSh pr eff imm t) eff [(at_ 2, 2)] false .done (scalarOf 2 true))
      ∧ (Acts s (.ldSw pr eff imm t) v → LoadsWith s (.ldSw pr eff imm t) eff [(at_ 4, 4)] false .done (scalarOf 4 true))
      ∧ (∀ bs : List Byte, scalarOf 8 false [bs] = .scalar (BitVec.ofNat 64 (bytesToNat bs)))

/-- LDACQ, VLD, VLDS, VGATH and HLDC: their accesses, their tokens and the acquire they leave for commit; an aligned address is asked of LDACQ and of an acquiring HLDC, which else deliver MISALIGN (05 R143 to R146; 10 R250). That every lane of VLDS and VGATH is tested before a load is made, that the first lane that fails decides, and that PERM stands before MISALIGN, is the model's choice (log 107), and so is the record of the load that may be read again (log 29). -/
def Obligations.OtherLoads : Prop :=
  ∀ (s : State) (v : Vals) (pr : Pred) (eff : BitVec 5) (imm : BitVec 9) (t : Tgt) (sh : Shape) (uns sg : Bool) (sc : BitVec 2) (sz : MemSize),
    let at_ (n : Nat) : Word := BitVec.ofInt 64 (v.a.bits.toInt + imm.toInt * n)
    let n := Shape.bits sh / 8
    (Acts s (.ldacq pr eff imm t) v → canonical (at_ 8) 8 = true → (at_ 8).toNat % 8 ≠ 0 →
        exec (.ldacq pr eff imm t) s = .next (s.fired (s.loadPoison (.ldacq pr eff imm t) .misalign (at_ 8))))
      ∧ (Acts s (.ldacq pr eff imm t) v → (at_ 8).toNat % 8 = 0 → LoadsWith s (.ldacq pr eff imm t) eff [(at_ 8, 8)] false .acquire (scalarOf 8 false))
      ∧ (Acts s (.vld pr eff imm t) v → LoadsWith s (.vld pr eff imm t) eff [(at_ 64, 64)] false .done wideOf)
      ∧ (Acts s (.vlds pr eff sh t) v → LoadsWith s (.vlds pr eff sh t) eff
          ((List.range (512 / Shape.bits sh)).map fun j => (v.a.bits + v.b.bits * BitVec.ofNat 64 j, n)) false .done wideOf)
      ∧ (Acts s (.vgath pr eff sh uns sc t) v → LoadsWith s (.vgath pr eff sh uns sc t) eff
          ((List.range (512 / Shape.bits sh)).map fun j =>
            (v.a.bits + BitVec.ofInt 64 ((if uns then (lane (Shape.bits sh) v.b.wbits j : Int) else laneS (Shape.bits sh) v.b.wbits j) * 2 ^ sc.toNat), n)) false .done wideOf)
      ∧ (Acts s (.hldc pr eff false sg sz t) v → LoadsWith s (.hldc pr eff false sg sz t) eff [(v.a.bits, MemSize.bytes sz)] true .done (scalarOf (MemSize.bytes sz) sg))
      ∧ (Acts s (.hldc pr eff true sg sz t) v → v.a.bits.toNat % 8 = 0 →
          LoadsWith s (.hldc pr eff true sg sz t) eff [(v.a.bits, MemSize.bytes sz)] true .acquire (scalarOf (MemSize.bytes sz) sg))
      ∧ (Acts s (.hldc pr eff true sg sz t) v → canonical v.a.bits (MemSize.bytes sz) = true → v.a.bits.toNat % 8 ≠ 0 →
          exec (.hldc pr eff true sg sz t) s = .next (s.fired (s.loadPoison (.hldc pr eff true sg sz t) .misalign v.a.bits)))

/-- Stores: address, size and bytes as the mnemonic says, kept for commit; the lanes of VSTS and VSCAT in increasing order; STREL asks for an aligned address; PREF serves its slot and changes nothing else (05 R138 to R147). -/
def Obligations.Stores : Prop :=
  ∀ (s : State) (v : Vals) (pr : Pred) (eff : BitVec 5) (imm : BitVec 18) (sh : Shape) (uns w : Bool) (sc : BitVec 2) (lv : PrefLevel),
    let at_ (n : Nat) : Word := BitVec.ofInt 64 (v.a.bits.toInt + imm.toInt * n)
    (Acts s (.stB pr eff imm) v → StoresWith s (.stB pr eff imm) [(at_ 1, natToBytes 1 v.b.bits.toNat)] false false)
      ∧ (Acts s (.stH pr eff imm) v → StoresWith s (.stH pr eff imm) [(at_ 2, natToBytes 2 v.b.bits.toNat)] false false)
      ∧ (Acts s (.stW pr eff imm) v → StoresWith s (.stW pr eff imm) [(at_ 4, natToBytes 4 v.b.bits.toNat)] false false)
      ∧ (Acts s (.stD pr eff imm) v → StoresWith s (.stD pr eff imm) [(at_ 8, natToBytes 8 v.b.bits.toNat)] false false)
      ∧ (Acts s (.strel pr eff imm) v → (at_ 8).toNat % 8 = 0 → StoresWith s (.strel pr eff imm) [(at_ 8, natToBytes 8 v.b.bits.toNat)] true false)
      ∧ (Acts s (.strel pr eff imm) v → canonical (at_ 8) 8 = true → (at_ 8).toNat % 8 ≠ 0 →
          exec (.strel pr eff imm) s = .next (s.fired ((s.notePoison (at_ 8)).effectPoison (.strel pr eff imm) .misalign)))
      ∧ (Acts s (.vst pr eff imm) v → StoresWith s (.vst pr eff imm) [(at_ 64, natToBytes 64 v.b.wbits.toNat)] false false)
      ∧ (Acts s (.vsts pr eff sh) v → StoresWith s (.vsts pr eff sh)
          ((List.range (512 / Shape.bits sh)).map fun j =>
            (v.a.bits + v.b.bits * BitVec.ofNat 64 j, natToBytes (Shape.bits sh / 8) (lane (Shape.bits sh) v.c.wbits j))) false true)
      ∧ (Acts s (.vscat pr eff sh uns sc) v → StoresWith s (.vscat pr eff sh uns sc)
          ((List.range (512 / Shape.bits sh)).map fun j =>
            (v.a.bits + BitVec.ofInt 64 ((if uns then (lane (Shape.bits sh) v.b.wbits j : Int) else laneS (Shape.bits sh) v.b.wbits j) * 2 ^ sc.toNat),
              natToBytes (Shape.bits sh / 8) (lane (Shape.bits sh) v.c.wbits j))) false true)
      ∧ (Acts s (.pref pr eff w lv) v → Effects s (.pref pr eff w lv) .done)

/-- A load finds, byte by byte, the newest store before it that holds the byte, and else the page's byte (01 R18; 05 R149). Within a clause the stores of lower slots come before a load, the higher slot's first; those of higher slots are not seen (01 R18; 05 R149). -/
def Obligations.StoreForwarding : Prop :=
  (∀ (s : State) (c : Ctx) (cell : Nat) (l : Leaf) (va : Word) (path : List (BitVec 12)) (fwd : List Lane) (n k : Nat), k < n →
      (s.mixBytes c cell l va path fwd n).length = n
        ∧ (s.mixBytes c cell l va path fwd n)[k]? = some (match fwd.find? fun f => f.has (va + BitVec.ofNat 64 k) with
            | some f => f.at (va + BitVec.ofNat 64 k)
            | none => s.pageByte c cell l (va + BitVec.ofNat 64 k) path))
    ∧ (∀ (x : Inst) (n : Nat), n < 32 → x.sent = [] → x.forecast = [] →
      x.lanesBelow 0 = []
        ∧ (∀ ps rel many, x.effOut? (BitVec.ofNat 5 n) = some (.fired (.store ps rel many)) → x.lanesBelow (n + 1) = ps.reverse ++ x.lanesBelow n)
        ∧ (x.effOut? (BitVec.ofNat 5 n) = none → x.lanesBelow (n + 1) = x.lanesBelow n))

/-! ### Atomics, fences, waits -/

/-- AMO1 and AMO2: the old value is delivered zero-extended, and the new value is the sum, the bitwise operation, the signed or unsigned smaller or larger, b itself, c where the old value is b, or the float sum rounded to nearest (09 R220 to R223). VAMOADD adds each lane of a line, BARA counts its word down and opens the next phase with the last arrival; both deliver the old bytes or the old phase (09 R224, R228). That an address both out of range and misaligned is PERM is the model's choice (log 107). -/
def Obligations.Atomics : Prop :=
  (∀ (s : State) (v : Vals) (pr : Pred) (eff : BitVec 5) (z : AmoSize) (sc : Scope) (rx : Bool) (t : Tgt),
      let n := AmoSize.bytes z
      let e := 8 * n
      let b := v.b.bits.toNat % 2 ^ e
      let does (i : Instr) (f : Nat → Option Nat) : Prop := Acts s i v → Atomically s i eff v.a.bits n sc rx false f (fun old => .scalar (w64 old))
      does (.amoadd pr eff z sc rx t) (fun old => some ((old + b) % 2 ^ e))
        ∧ does (.amoand pr eff z sc rx t) (fun old => some (old &&& b)) ∧ does (.amoor pr eff z sc rx t) (fun old => some (old ||| b))
        ∧ does (.amoxor pr eff z sc rx t) (fun old => some (old ^^^ b))
        ∧ does (.amomin pr eff z sc rx t) (fun old => some (if sgnOf e old ≤ sgnOf e b then old else b))
        ∧ does (.amomax pr eff z sc rx t) (fun old => some (if sgnOf e old ≤ sgnOf e b then b else old))
        ∧ does (.amominu pr eff z sc rx t) (fun old => some (min old b)) ∧ does (.amomaxu pr eff z sc rx t) (fun old => some (max old b))
        ∧ does (.amoswp pr eff z sc rx t) (fun _ => some b)
        ∧ does (.amocas pr eff z sc rx t) (fun old => if old = b then some (v.c.bits.toNat % 2 ^ e) else none)
        ∧ does (.amofadd pr eff z sc rx t) (fun old => some (amoFadd (if z = .w then .fp32 else .fp64) old b)))
    ∧ (∀ (s : State) (v : Vals) (pr : Pred) (eff : BitVec 5) (y : VAmoTy) (sc : Scope) (rx : Bool) (t : Tgt),
      (Acts s (.vamoadd pr eff y sc rx t) v → Atomically s (.vamoadd pr eff y sc rx t) eff v.a.bits 64 sc rx false
          (fun old => some (packNat (vamoLane y).1 (List.zipWith (vamoLane y).2 (lanesNat (vamoLane y).1 (512 / (vamoLane y).1) old) (lanesOf (vamoLane y).1 v.b.wbits))))
          (fun old => .wide (BitVec.ofNat 512 old)))
        ∧ (Acts s (.bara pr eff sc t) v → Atomically s (.bara pr eff sc t) eff v.a.bits 8 sc false true
          (fun w => some (if w % 2 ^ 24 ≤ 1 then (w / 2 ^ 48 + 1) % 65536 * 2 ^ 48 + w / 2 ^ 24 % 2 ^ 24 * 2 ^ 24 + w / 2 ^ 24 % 2 ^ 24 else w - 1))
          (fun old => .scalar (w64 (old / 2 ^ 48)))))

/-- An atomic on a page whose frame is live, open and sound delivers the bytes that stand there, every earlier update of their lines having reached the L1s its slice reaches, and stores the new value, or nothing where the operation stores nothing; a frame that is not live, or of a closed weight store, or unsound stops it with NOTLIVE, PERM or ECCUNC, in that order (09 R220). -/
def Obligations.AtomicReadWrite : Prop :=
  ∀ (s : State) (c : Ctx) (l : Leaf) (va : Word) (n : Nat) (f : Nat → Option Nat),
    (s.live (l.pa va) = false → s.rmwLeaf c l va n f = .bad .notlive s)
      ∧ (s.live (l.pa va) = true → s.openAt (l.pa va) = false → s.rmwLeaf c l va n f = .bad .perm s)
      ∧ (s.live (l.pa va) = true → s.openAt (l.pa va) = true → s.badAt (l.pa va) n = true → s.rmwLeaf c l va n f = .bad .eccunc (s.eccEntry (l.pa va)))
      ∧ (s.live (l.pa va) = true → s.openAt (l.pa va) = true → s.badAt (l.pa va) n = false →
          let old := bytesToNat (s.paBytes (l.pa va) n)
          let u := if l.far then s else s.l1Settle (l.tag c.asid) va.toNat n
          (f old = none → s.rmwLeaf c l va n f = .done old u) ∧ u.mem = s.mem
            ∧ ∀ w t, f old = some w → u.leafWrite c.asid l va (natToBytes n w) 0 (some c.recA) = .ok t →
                s.rmwLeaf c l va n f = .done old (t.onCtx c.id fun x => { x.applyU (.plain va (natToBytes n w)) (l.tag c.asid) with watch := c.watch }))

/-- WAITV in the oldest clause delivers the word at once when it differs from b, and on a far page or in scratch in any case; BARW delivers the phase once it is no longer b; both keep their read for the check at commit (log 29); a misaligned address delivers MISALIGN (09 R226, R229). The fences keep their kind and scope for their clause's commit (09 R214). The wait of a WAITV ends when a store by another observer to the line it watches has been performed at its lens and at the latest after 64 us, a bound that stretches with the clock: it reads its word again and delivers it; every store to the line ends it, whatever bytes it leaves there (09 R226; 23 R420). -/
def Obligations.FencesAndWaits : Prop :=
  (∀ (s : State) (v : Vals) (pr : Pred) (eff : BitVec 5) (aq : Bool) (sc : Scope) (t : Tgt) (c : Ctx) (x : Inst), s.fctx = some c → s.finst = some x →
      let va := v.a.bits
      let r := s.loadAll c s.focus.win s.focus.iid eff.toNat false [(va, 8)]
      let w := BitVec.ofNat 64 (bytesToNat ((r.bytes.head?).getD []))
      (Acts s (.waitv pr eff aq t) v → s.focus.win = 0 → canonical va 8 = true → va.toNat % 8 ≠ 0 →
          exec (.waitv pr eff aq t) s = .next (s.fired (s.loadPoison (.waitv pr eff aq t) .misalign va)))
        ∧ (Acts s (.waitv pr eff aq t) v → s.focus.win = 0 → canonical va 8 = true → va.toNat % 8 = 0 → s.focus.iid ∉ x.linkDead →
            c.loadWaits x s.focus eff = false → (∀ q ∈ x.loads, q.iid ≠ s.focus.iid) → r.wait = false → r.bad = none →
            s.cutAcc c (c.cellOf s.focus.iid) va 8 .load = false →
            w ≠ v.b.bits ∨ c.scratchAcc va 8 ≠ none ∨ s.farAcc c (c.cellOf s.focus.iid) va 8 .load = true →
            exec (.waitv pr eff aq t) s = .next (s.fired (r.st.loadWord (.waitv pr eff aq t) eff va r.bytes (if aq then .acquire else .done) w)))
        ∧ (Acts s (.barw pr eff sc t) v → canonical va 8 = true → va.toNat % 8 ≠ 0 →
            exec (.barw pr eff sc t) s = .next (s.fired (s.notPerformed (.barw pr eff sc t) .misalign va)))
        ∧ (∀ l, Acts s (.barw pr eff sc t) v → canonical va 8 = true → va.toNat % 8 = 0 → s.focus.iid ∉ x.linkDead →
            c.loadWaits x s.focus eff = false → c.scratchAcc va 8 = none →
            s.permLook c.tower (c.cellOf s.focus.iid) c.asid va .load = .ok l → l.kind ≠ 2 → l.far = false → l.h = false ∨ s.hypFinal c.hyp = 0 →
            r.wait = false → r.bad = none → s.cutAcc c (c.cellOf s.focus.iid) va 8 .load = false → w.toNat / 2 ^ 48 ≠ v.b.bits.toNat % 65536 →
            exec (.barw pr eff sc t) s = .next (s.fired (r.st.loadWord (.barw pr eff sc t) eff va r.bytes (if sc = .lens then .done else .acquire)
              (BitVec.ofNat 64 (w.toNat / 2 ^ 48))))))
    ∧ (∀ (s : State) (v : Vals) (pr : Pred) (eff : BitVec 5) (sc : Scope),
      (Acts s (.fenceAcq pr eff sc) v → Effects s (.fenceAcq pr eff sc) (.fence 0 sc)) ∧ (Acts s (.fenceRel pr eff sc) v → Effects s (.fenceRel pr eff sc) (.fence 1 sc))
        ∧ (Acts s (.fenceAcqrel pr eff sc) v → Effects s (.fenceAcqrel pr eff sc) (.fence 2 sc))
        ∧ (Acts s (.fenceSc pr eff sc) v → Effects s (.fenceSc pr eff sc) (.fence 3 sc))
        ∧ (Acts s (.fenceEngine pr eff sc) v → Effects s (.fenceEngine pr eff sc) (.fence 4 sc)))
    ∧ (∀ (s : State) (c : Nat) (x : Ctx) (iid : BitVec 7) (i : Instr) (since : Nat) (r : LoadRec), s.ctx? c = some x → x.waitv? = some (iid, i, since, r) →
      let u : State := { s with focus := ⟨x.id, 0, iid, s.focus.spec⟩ }
      (s.time < since + s.us 64 → exec (.waitvTimeout c) s = .next s)
        ∧ (x.woken r = false → exec (.waitvWake c) s = .next s)
        ∧ (∀ line, x.watch = some (line, true) → (∀ y ∈ x.l1, y.u = true ∨ y.bytes = []) → x.woken r = true)
        ∧ (∀ line, x.watch = some (line, false) → x.woken r = false)
        ∧ (∀ pr eff aq t v, i = .waitv pr eff aq t → Acts u i v →
            let q := u.loadAll x 0 iid eff.toNat false [(v.a.bits, 8)]
            let w := BitVec.ofNat 64 (bytesToNat ((q.bytes.head?).getD []))
            let z := q.st.loadWord i eff v.a.bits q.bytes (if aq then .acquire else .done) w
            q.wait = false → q.bad = none →
            (x.woken r = true → exec (.waitvWake c) s = .next (u.fired (z.onInst fun y => y.waitedOut iid z.time)))
              ∧ (since + s.us 64 ≤ s.time → exec (.waitvTimeout c) s = .next (u.fired (z.onInst fun y => y.waitedOut iid z.time)))))
    ∧ (∀ (s t : State) (asid : BitVec 16) (l : Leaf) (va : Word) (bs : List Byte) (hyp : BitVec 12) (wr : Option Word) (c : Ctx) (line : Nat) (f : Bool),
      s.leafWrite asid l va bs hyp wr = .ok t → l.h = false → (l.far = true ∨ ∀ off, paKind (l.pa va) ≠ .device off) → c ∈ s.ctxs → c.watch = some (line, f) →
      line * 64 < l.pa va + bs.length → l.pa va < line * 64 + 64 → ∃ d ∈ t.ctxs, d.id = c.id ∧ d.watch = some (line, true))
    ∧ ∀ s : State, s.clock = 2100 → s.share = 8 → s.us 64 = 64000

/-! ### Tasks, messages, hypotheses -/

/-- Task instructions: a record operand is checked for alignment and range; TSPAWN and TSUBMIT take a free reservation and keep their submission for commit; TDEP, TRANGE and TPRIO keep theirs; TWAIT with poll delivers the state and the reason of the record's first word at once, without poll its completion value once the state is terminal, and waits before that; either delivery is an acquire (07 R155, R157 to R167). Three points are the model's choice: MISALIGN for a record address both misaligned and at or above 2^56, and ILLOP for a class of 8 or more whatever the record address of TPRIO (log 107), and that the reservation is taken at firing (log 31). -/
def Obligations.TaskInstructions : Prop :=
  ∀ (s : State) (v : Vals) (pr : Pred) (eff : BitVec 5) (t : Tgt) (c : Ctx) (x : Inst), s.fctx = some c → s.finst = some x →
    let a := v.a.bits
    (a.toNat % 64 ≠ 0 → (Acts s (.tspawn pr eff) v → Poisons s (.tspawn pr eff) .misalign) ∧ (Acts s (.tsubmit pr eff) v → Poisons s (.tsubmit pr eff) .misalign))
      ∧ (a.toNat % 64 = 0 → 2 ^ 56 ≤ a.toNat → (Acts s (.tspawn pr eff) v → Poisons s (.tspawn pr eff) .perm) ∧ (Acts s (.tsubmit pr eff) v → Poisons s (.tsubmit pr eff) .perm))
      ∧ (a.toNat % 64 = 0 → a.toNat < 2 ^ 56 → s.roomToSubmit c.tower = true → (s.tower c.tower).waitSubs = [] →
          (Acts s (.tspawn pr eff) v → exec (.tspawn pr eff) s = .next (s.fired ((s.onInst fun y => { y with taskRes := y.taskRes + 1 }).effect (.tspawn pr eff) (.tspawn a))))
            ∧ (Acts s (.tsubmit pr eff) v → exec (.tsubmit pr eff) s = .next (s.fired ((s.onInst fun y => { y with taskRes := y.taskRes + 1 }).effect (.tsubmit pr eff) (.tsubmit a)))))
      ∧ (a.toNat % 64 = 0 → a.toNat < 2 ^ 56 → v.b.bits.toNat % 64 = 0 → v.b.bits.toNat < 2 ^ 56 → Acts s (.tdep pr eff) v → Effects s (.tdep pr eff) (.tdep a v.b.bits))
      ∧ (a.toNat < 16 → Acts s (.trange pr eff) v → Effects s (.trange pr eff) (.trange (BitVec.ofNat 4 a.toNat)))
      ∧ (16 ≤ a.toNat → Acts s (.trange pr eff) v → Poisons s (.trange pr eff) .illop)
      ∧ (a.toNat % 64 = 0 → a.toNat < 2 ^ 56 → v.b.bits.toNat < 8 → Acts s (.tprio pr eff) v →
          Effects s (.tprio pr eff) (.tprio a (s.classOf c.asid (BitVec.ofNat 3 v.b.bits.toNat))))
      ∧ (8 ≤ v.b.bits.toNat → Acts s (.tprio pr eff) v → Poisons s (.tprio pr eff) .illop)
      ∧ (∀ w bs, a.toNat % 64 = 0 → a.toNat < 2 ^ 56 → s.vread c.asid a 64 0 = (w, .ok bs) →
          let q := (qwordOf bs 0).toNat
          (Acts s (.twait pr eff true t) v →
              GivesAfter s w (.twait pr eff true t) .acquire (w64 (q % 16 + q / 2 ^ 56 % 16 * 256)))
            ∧ (5 ≤ q % 16 → q % 16 ≤ 9 → Acts s (.twait pr eff false t) v →
              GivesAfter s w (.twait pr eff false t) .acquire (qwordOf bs 7))
            ∧ (q % 16 < 5 → Acts s (.twait pr eff false t) v → exec (.twait pr eff false t) s = .next s.beginWait))

/-- Message instructions: AMSEND with a legal operand to a cell of this package takes an entry of its inbox and keeps the message, whose fields the part fills in; a reserved bit or a tower above 5 poisons it ILLOP; to another package it goes on a route that is valid once it has waited for the entry it is granted there (log 11), an invalid route poisons it PERM and a lost link LINKLOST; AMREPLY answers the message of the handler that runs, outside a handler it is poisoned ILLOP; HTSET keeps its table entry; INBOX delivers the handler's message, or takes the head message of its cell's inbox, and where there is none delivers a wide token of zeros (07 R168 to R173; 20 R391). -/
def Obligations.MessageInstructions : Prop :=
  ∀ (s : State) (v : Vals) (pr : Pred) (eff : BitVec 5) (t : Tgt) (c : Ctx) (x : Inst), s.fctx = some c → s.finst = some x →
    let a := v.a.bits.toNat
    let cell := a % 128
    let tw := a / 256 % 8
    let box := (s.tower tw).inbox cell
    let msg := mkMsg s c cell tw s.self (a / 2 ^ 24 % 256) (a / 2 ^ 32 % 256) false (v.a.bits.getLsbD 40) (v.c.bits.toNat % 2 ^ 32) v.b.wbits.toNat
    (a < 2 ^ 41 → a / 128 % 2 = 0 → a / 2 ^ 11 % 32 = 0 → a / 2 ^ 22 % 4 = 0 → tw < 6 → a / 2 ^ 16 % 64 = s.self →
        (x.grants.any fun g => decide (g.1 = s.focus.iid)) = false → (c.id, x.uid, s.focus.iid) ∉ box.asking → box.hasRoom = true → box.asking = [] →
        Acts s (.amsend pr eff) v →
        exec (.amsend pr eff) s = .next (s.fired (((s.onInbox tw cell fun y => { y with granted := y.granted + 1 }).onInst fun y =>
          { y with grants := (s.focus.iid, tw, cell) :: y.grants }).effect (.amsend pr eff) (.amsend msg))))
      ∧ (2 ^ 41 ≤ a ∨ a / 128 % 2 = 1 ∨ a / 2 ^ 11 % 32 ≠ 0 ∨ a / 2 ^ 22 % 4 ≠ 0 ∨ 6 ≤ tw → Acts s (.amsend pr eff) v → Poisons s (.amsend pr eff) .illop)
      ∧ (let pkg := a / 2 ^ 16 % 64
         a < 2 ^ 41 → a / 128 % 2 = 0 → a / 2 ^ 11 % 32 = 0 → a / 2 ^ 22 % 4 = 0 → tw < 6 → pkg ≠ s.self → Acts s (.amsend pr eff) v →
          (s.focus.iid ∈ x.linkDead → Poisons s (.amsend pr eff) .linklost)
            ∧ (s.focus.iid ∉ x.linkDead → ((s.routes[pkg]?).getD 0).getLsbD 0 = false → Poisons s (.amsend pr eff) .perm)
            ∧ (s.focus.iid ∉ x.linkDead → ((s.routes[pkg]?).getD 0).getLsbD 0 = true → x.waitSince s.focus.iid ≠ none → Effects s (.amsend pr eff) (.amsend
                (mkMsg s c cell tw pkg (a / 2 ^ 24 % 256) (a / 2 ^ 32 % 256) false (v.a.bits.getLsbD 40) (v.c.bits.toNat % 2 ^ 32) v.b.wbits.toNat))))
      ∧ (s.self < 64 → c.base < 128 → c.tower < 6 →
          msgDcell msg = cell ∧ msgDtower msg = tw ∧ msgDpkg msg = s.self ∧ msgSlot msg = a / 2 ^ 24 % 256 ∧ msgAsid msg = c.asid ∧ bitsOf msg 48 7 = c.base
            ∧ bitsOf msg 56 3 = c.tower ∧ msgSpkg msg = s.self ∧ bitsOf msg 72 8 = a / 2 ^ 32 % 256 ∧ bitsOf msg 96 32 = v.c.bits.toNat % 2 ^ 32
            ∧ bitsOf msg 128 384 = v.b.wbits.toNat % 2 ^ 384)
      ∧ (c.causeMode ≠ 1 → Acts s (.amreply pr eff) v → Poisons s (.amreply pr eff) .illop)
      ∧ (∀ m, c.causeMode = 1 → c.hmsg = some m → msgSpkg m = s.self →
          let rb := (s.tower (bitsOf m 56 3)).inbox (bitsOf m 48 7)
          (x.grants.any fun g => decide (g.1 = s.focus.iid)) = false → (c.id, x.uid, s.focus.iid) ∉ rb.asking → rb.hasRoom = true → rb.asking = [] →
          Acts s (.amreply pr eff) v →
            exec (.amreply pr eff) s = .next (s.fired (((s.onInbox (bitsOf m 56 3) (bitsOf m 48 7) fun y => { y with granted := y.granted + 1 }).onInst fun y =>
              { y with grants := (s.focus.iid, bitsOf m 56 3, bitsOf m 48 7) :: y.grants }).effect (.amreply pr eff) (.amsend
                (mkMsg s c (bitsOf m 48 7) (bitsOf m 56 3) s.self (bitsOf m 72 8) (bitsOf m 72 8) true false (bitsOf m 96 32) v.a.wbits.toNat)))))
      ∧ (1 ≤ a % 256 → a / 256 < 6 → v.b.bits.toNat / 2 % 8 = 0 → v.b.bits.toNat < 2 ^ 56 → Acts s (.htset pr eff) v →
          Effects s (.htset pr eff) (.htset (BitVec.ofNat 8 (a % 256)) (BitVec.ofNat 3 (a / 256)) v.b.bits))
      ∧ (a % 256 = 0 ∨ 6 ≤ a / 256 ∨ v.b.bits.toNat / 2 % 8 ≠ 0 ∨ 2 ^ 56 ≤ v.b.bits.toNat → Acts s (.htset pr eff) v → Poisons s (.htset pr eff) .illop)
      ∧ (∀ m, c.causeMode = 1 → c.hmsg = some m → Acts s (.inbox pr eff false t) v →
          GivesWAfter s s (.inbox pr eff false t) .done m)
      ∧ (c.causeMode ≠ 1 → Acts s (.inbox pr eff false t) v →
          GivesWAfter s s (.inbox pr eff false t) .done 0)
      ∧ (let j := c.base + a % c.width
         s.oldest = true → Acts s (.inbox pr eff true t) v →
          (∀ m, ((s.tower c.tower).inbox j).head? = some m → msgSlot m = 0 → msgAsid m = c.asid →
              GivesWAfter s s (.inbox pr eff true t) (.inboxTake j) m)
            ∧ ((∀ m, ((s.tower c.tower).inbox j).head? = some m → msgSlot m ≠ 0 ∨ msgAsid m ≠ c.asid) →
              GivesWAfter s s (.inbox pr eff true t) .done 0))

/-- Hypothesis instructions: HNEW binds a FREE number as a LIVE child of HYPCUR, one deeper, and delivers it (that it is the lowest is the model's choice, log 119), or delivers HYPFULL at depth 16 or where none is free; HENTER keeps 0 or a hypothesis of its ASID and is poisoned PERM for another's and for a FREE one; HLEAVE keeps its move; HRESOLVE does its one step past its gate, and with an operand out of range delivers ILLOP past the gate; HSTAT delivers a hypothesis's word or the summary (10 R245 to R249). -/
def Obligations.HypothesisInstructions : Prop :=
  ∀ (s : State) (v : Vals) (pr : Pred) (eff : BitVec 5) (t : Tgt) (c : Ctx), s.fctx = some c →
    let p := s.hypFinal c.hyp
    let depth := ((s.hyp? p).map fun x => x.depth).getD 0
    let a := v.a.bits
    (∀ h, depth < 16 → s.freeHyp = some h → Acts s (.hnew pr eff t) v →
        exec (.hnew pr eff t) s = .next (s.fired (((({ s with hyps := s.hyps ++ [⟨h, .live, c.asid, p, depth + 1, 0, false⟩] } : State).onInst fun x =>
          { x with newHyps := h :: x.newHyps }).effect (.hnew pr eff t) (.hnew h)).deliverS (.hnew pr eff t) (h.setWidth 64))))
      ∧ (∀ h, s.freeHyp = some h → h ≠ 0 ∧ s.hyp? h = none ∧ ∀ k : BitVec 12, k ≠ 0 → k.toNat < h.toNat → s.hyp? k ≠ none)
      ∧ (16 ≤ depth ∨ s.freeHyp = none → Acts s (.hnew pr eff t) v → exec (.hnew pr eff t) s = .next (s.fired (s.effectBad (.hnew pr eff t) .hypfull)))
      ∧ (s.oldest = true → a = 0 → Acts s (.henter pr eff) v → Effects s (.henter pr eff) (.henter 0))
      ∧ (∀ x : Hyp, s.oldest = true → a.toNat < 4096 → s.hyp? (BitVec.ofNat 12 a.toNat) = some x → x.owner = c.asid → Acts s (.henter pr eff) v →
          Effects s (.henter pr eff) (.henter (BitVec.ofNat 12 a.toNat)))
      ∧ (∀ x : Hyp, s.oldest = true → a.toNat < 4096 → a ≠ 0 → s.hyp? (BitVec.ofNat 12 a.toNat) = some x → x.owner ≠ c.asid → Acts s (.henter pr eff) v →
          Poisons s (.henter pr eff) .perm)
      ∧ (s.oldest = true → a.toNat < 4096 → a ≠ 0 → s.hyp? (BitVec.ofNat 12 a.toNat) = none → Acts s (.henter pr eff) v → Poisons s (.henter pr eff) .perm)
      ∧ (s.oldest = true → 4096 ≤ a.toNat → Acts s (.henter pr eff) v → Poisons s (.henter pr eff) .illop)
      ∧ (s.oldest = true → Acts s (.hleave pr eff) v → Effects s (.hleave pr eff) .hleave)
      ∧ (∀ u d, a.toNat < 4096 → v.b.bits.toNat < 4096 → s.gate eff ⟨true, true, none, false, false⟩ = .goes u → (u.releaseHere .pkg).fctx = some d → Acts s (.hresolve pr eff t) v →
          let q := (u.releaseHere .pkg).resolveHyps d (u.releaseHere .pkg).focus.iid eff (BitVec.ofNat 12 a.toNat) (BitVec.ofNat 12 v.b.bits.toNat)
          exec (.hresolve pr eff t) s = .next (s.fired ((((q.1.acquireHere .pkg).performed eff).effect (.hresolve pr eff t) .done).deliverS (.hresolve pr eff t) (w64 q.2))))
      ∧ (∀ u, 4096 ≤ a.toNat ∨ 4096 ≤ v.b.bits.toNat → s.gate eff ⟨false, false, none, false, false⟩ = .goes u → Acts s (.hresolve pr eff t) v →
          exec (.hresolve pr eff t) s = .next (s.fired (u.effectBad (.hresolve pr eff t) .illop)))
      ∧ (4096 ≤ a.toNat → Acts s (.hstat pr eff false t) v → exec (.hstat pr eff false t) s = .next (s.fired (s.effectBad (.hstat pr eff false t) .illop)))
      ∧ (∀ d iid, (s.resolveHyps d iid eff 0 0).2 = 0)
      ∧ (∀ d iid h, h ≠ 0 → s.hyp? h = none → (s.resolveHyps d iid eff h 0).2 = 4 ∧ (s.resolveHyps d iid eff 0 h).2 = 16)
      ∧ (∀ d iid h (x : Hyp), h ≠ 0 → s.hyp? h = some x → x.owner ≠ d.asid → (s.resolveHyps d iid eff h 0).2 = 8 ∧ (s.resolveHyps d iid eff 0 h).2 = 32)
      ∧ (a.toNat < 4096 → Acts s (.hstat pr eff false t) v →
          GivesAfter s s (.hstat pr eff false t) .done (s.hstatWord c.asid (BitVec.ofNat 12 a.toNat)))
      ∧ (Acts s (.hstat pr eff true t) v → exec (.hstat pr eff true t) s = .next (s.fired ((s.effect (.hstat pr eff true t) .done).deliverS (.hstat pr eff true t)
          (w64 ((s.hyps.length + 1) * 16 + (s.versions.filter fun x => x.logged).length * 2 ^ 32)))))
      ∧ s.hstatWord c.asid 0 = 1 ∧ (∀ h, h ≠ 0 → s.hyp? h = none → s.hstatWord c.asid h = 0)
      ∧ (∀ h (x : Hyp), h ≠ 0 → s.hyp? h = some x → x.owner ≠ c.asid → s.hstatWord c.asid h = 7)

/-! ### Engines -/

/-- The matrix instructions fire alike: a node number of the grant and an operand b with its reserved bits zero keep the command for commit, an address of TLOAD or TSTORE has to be canonical, and everything else poisons the effect; the checks of each control word are written out: the zero fields of the word of TDEF and of MMA, MMAI, MACCRD, MACCLR, MACCLD, MEW and MCOPY and the operation of MEW, while slot b of TLOAD, TSTORE, TFREE and MSPLAT has none (12 R255, R258, R259, R265 to R274; 14 R314). -/
def Obligations.MatrixInstructions : Prop :=
  ∀ (s : State) (v : Vals) (pr : Pred) (eff ta tb : BitVec 5) (port : BitVec 3) (c : Ctx), s.fctx = some c →
    ∀ p ∈ ([(.tdef pr eff ta, 0, ta.toNat, 0), (.tload pr eff ta, 1, ta.toNat, 0), (.tstore pr eff ta, 2, ta.toNat, 0), (.tfree pr eff ta, 3, ta.toNat, 0),
        (.mma pr eff ta tb, 4, ta.toNat, tb.toNat), (.mmai pr eff ta tb, 5, ta.toNat, tb.toNat), (.maccrd pr eff ta, 6, ta.toNat, 0), (.macclr pr eff, 7, 0, 0),
        (.maccld pr eff ta, 8, ta.toNat, 0), (.mew pr eff ta, 9, ta.toNat, 0), (.mcopy pr eff ta tb, 10, ta.toNat, tb.toNat), (.msplat pr eff ta, 11, ta.toNat, 0),
        (.tloadEdge pr eff ta port, 17, ta.toNat, port.toNat), (.tstoreEdge pr eff ta port, 18, ta.toNat, port.toNat)] : List (Instr × Nat × Nat × Nat)),
      Acts s p.1 v →
        let a := v.a.bits
        let b := v.b.bits
        (a.toNat < s.mnOf c → matrixOk p.2.1 b = true → (p.2.1 = 1 ∨ p.2.1 = 2 → b.toNat < 2 ^ 56) →
            Effects s p.1 (.matrix a.toNat p.2.1 p.2.2.1 p.2.2.2 b v.c.bits))
          ∧ (s.mnOf c ≤ a.toNat ∨ matrixOk p.2.1 b = false → Poisons s p.1 .illop)
          ∧ (a.toNat < s.mnOf c → p.2.1 = 1 ∨ p.2.1 = 2 → 2 ^ 56 ≤ b.toNat → exec p.1 s = .next (s.fired ((s.notePoison b).effectPoison p.1 .perm)))
          ∧ (p.2.1 = 0 → (matrixOk p.2.1 b = true ↔ b.toNat % 4 = 0 ∧ b.toNat / 2 ^ 3 % 2 = 0 ∧ b.toNat / 2 ^ 7 % 2 = 0 ∧ b.toNat / 2 ^ 17 % 2 ^ 7 = 0
              ∧ b.toNat / 2 ^ 30 % 4 = 0 ∧ b.toNat / 2 ^ 38 % 4 = 0 ∧ b.toNat / 2 ^ 42 % 2 ^ 6 = 0 ∧ b.toNat < 2 ^ 57))
          ∧ (p.2.1 ∈ [1, 2, 3, 11, 17, 18] → matrixOk p.2.1 b = true)
          ∧ (p.2.1 = 6 → (matrixOk p.2.1 b = true ↔ b.toNat / 2 % 2 ^ 7 = 0 ∧ b.toNat / 2 ^ 14 % 4 = 0 ∧ b.toNat / 2 ^ 22 % 4 = 0 ∧ b.toNat < 2 ^ 25))
          ∧ (p.2.1 = 8 → (matrixOk p.2.1 b = true ↔ b.toNat / 2 % 2 ^ 7 = 0 ∧ b.toNat / 2 ^ 14 % 4 = 0 ∧ b.toNat < 2 ^ 22))
          ∧ (p.2.1 = 9 → (matrixOk p.2.1 b = true ↔ b.toNat / 2 ^ 2 % 2 ^ 6 = 0 ∧ b.toNat / 2 ^ 14 % 4 = 0 ∧ b.toNat / 2 ^ 22 % 4 = 0 ∧ b.toNat / 2 ^ 24 ≤ 4))
          ∧ (p.2.1 = 7 ∨ p.2.1 = 10 → (matrixOk p.2.1 b = true ↔ b.toNat < 2))
          ∧ (p.2.1 = 4 ∨ p.2.1 = 5 → (matrixOk p.2.1 b = true ↔ b.toNat < 2 ^ 30 ∧ b.toNat / 2 ^ 4 % 2 ^ 4 = 0 ∧ b.toNat / 2 ^ 14 % 4 = 0 ∧ b.toNat / 2 ^ 22 % 4 = 0))

/-- The streamer commands: descriptors aligned to 64 bytes and in range, an index aligned to 4; the ticket carries the command's number and its queue; SWAIT and SFENCE in the oldest clause answer a ticket that is complete, poll one that is not, deliver the poison of a discarded command and ILLOP for a ticket that fails its check; a number that was never handed over polls as complete (13 R276, R282 to R288). A streamer ticket fails its check for a nonzero bit [62:34], for a number of the same or a younger clause or one not yet issued, and for a queue that is not its command's; it is complete where no command of its number or an earlier one of its queue is unfinished and none is held back by a fence, discarded where its command was, and pending while its command is unfinished or held. The model's choices in it: PERM for a descriptor address both out of range and misaligned and the first failing address deciding (log 107), the five commands alone counting in a ticket (log 35), a node's ticket complete only with no tile draining (log 67). -/
def Obligations.StreamerInstructions : Prop :=
  ∀ (s : State) (v : Vals) (pr : Pred) (eff : BitVec 5) (q : BitVec 2) (sc : Scope) (t : Tgt) (c : Ctx) (x : Inst), s.fctx = some c → s.finst = some x →
    let a := v.a.bits
    let w := s.acquireHere .pkg
    (∀ p ∈ ([(.scopy pr eff q t, 0), (.sgath pr eff q t, 1), (.sscat pr eff q t, 2), (.slayout pr eff q t, 3), (.sfill pr eff q t, 4)] : List (Instr × Nat)),
        Acts s p.1 v →
          (a.toNat < 2 ^ 56 → a.toNat % 64 = 0 → (p.2 ≠ 4 → v.b.bits.toNat < 2 ^ 56 ∧ v.b.bits.toNat % 64 = 0) →
              (p.2 = 1 ∨ p.2 = 2 → v.c.bits.toNat < 2 ^ 56 ∧ v.c.bits.toNat % 4 = 0) →
              GivesAfter s s p.1 (.streamer p.2 q.toNat a v.b.bits v.c.bits) (w64 ((x.streamerSeq s.focus.iid).toNat + q.toNat * 2 ^ 32)))
            ∧ (a.toNat < 2 ^ 56 → a.toNat % 64 ≠ 0 → a.toNat + 64 ≤ 2 ^ 56 → exec p.1 s = .next (s.fired ((s.notePoison a).effectBad p.1 .misalign)))
            ∧ (2 ^ 56 - 64 < a.toNat → exec p.1 s = .next (s.fired ((s.notePoison a).effectBad p.1 .perm)))
            ∧ (a.toNat < 2 ^ 56 → a.toNat % 64 = 0 → p.2 ≠ 4 →
                let b := v.b.bits
                (2 ^ 56 - 64 < b.toNat → exec p.1 s = .next (s.fired ((s.notePoison b).effectBad p.1 .perm)))
                  ∧ (b.toNat + 64 ≤ 2 ^ 56 → b.toNat % 64 ≠ 0 → exec p.1 s = .next (s.fired ((s.notePoison b).effectBad p.1 .misalign)))
                  ∧ (b.toNat < 2 ^ 56 → b.toNat % 64 = 0 → p.2 = 1 ∨ p.2 = 2 →
                      let ix := v.c.bits
                      (2 ^ 56 ≤ ix.toNat → exec p.1 s = .next (s.fired ((s.notePoison ix).effectBad p.1 .perm)))
                        ∧ (ix.toNat < 2 ^ 56 → ix.toNat % 4 ≠ 0 → exec p.1 s = .next (s.fired ((s.notePoison ix).effectBad p.1 .misalign))))))
      ∧ (s.oldest = true → s.ticket c x a = .complete →
          (Acts s (.swait pr eff false t) v → GivesAfter s w (.swait pr eff false t) .acquire a)
            ∧ (Acts s (.swait pr eff true t) v → GivesAfter s w (.swait pr eff true t) .acquire 1)
            ∧ (c.hasStores = false → Acts s (.sfence pr eff sc t) v → GivesAfter s ((s.releaseHere sc).acquireHere .pkg) (.sfence pr eff sc t) .acquire a))
      ∧ (s.oldest = true → s.ticket c x a = .pending →
          (Acts s (.swait pr eff true t) v → GivesAfter s w (.swait pr eff true t) .acquire 0)
            ∧ (Acts s (.swait pr eff false t) v → exec (.swait pr eff false t) s = .next s) ∧ (Acts s (.sfence pr eff sc t) v → exec (.sfence pr eff sc t) s = .next s))
      ∧ (∀ k, s.oldest = true → s.ticket c x a = .discarded k →
          (Acts s (.swait pr eff true t) v → GivesAfter s w (.swait pr eff true t) .acquire 2)
            ∧ (Acts s (.swait pr eff false t) v → exec (.swait pr eff false t) s = .next (s.fired ((w.effect (.swait pr eff false t) .acquire).deliverPoison (.swait pr eff false t) k)))
            ∧ (Acts s (.sfence pr eff sc t) v → exec (.sfence pr eff sc t) s = .next (s.fired ((s.effect (.sfence pr eff sc t) .done).deliverPoison (.sfence pr eff sc t) k))))
      ∧ (s.oldest = true → s.ticket c x a = .bad →
          (∀ poll, Acts s (.swait pr eff poll t) v → exec (.swait pr eff poll t) s = .next (s.fired ((s.effect (.swait pr eff poll t) .done).deliverPoison (.swait pr eff poll t) .illop)))
            ∧ (Acts s (.sfence pr eff sc t) v → exec (.sfence pr eff sc t) s = .next (s.fired ((s.effect (.sfence pr eff sc t) .done).deliverPoison (.sfence pr eff sc t) .illop))))
      ∧ (s.oldest = true → s.ticket c x a = .behind →
          (Acts s (.swait pr eff true t) v → GivesAfter s w (.swait pr eff true t) .acquire 1)
            ∧ (Acts s (.swait pr eff false t) v → exec (.swait pr eff false t) s = .next s) ∧ (Acts s (.sfence pr eff sc t) v → exec (.sfence pr eff sc t) s = .next s))
      ∧ (a.getLsbD 63 = true → (s.mnOf c ≤ a.toNat % 16 ∨ a.toNat / 16 % 2 ^ 59 ≠ 0) → s.ticket c x a = .bad)
      ∧ (a.getLsbD 63 = true → a.toNat / 16 % 2 ^ 59 = 0 → a.toNat % 16 < s.mnOf c → ∀ m, s.mnode? c.tower (s.ownerOf c (a.toNat % 16)) = some m →
          (s.ticket c x a = .complete ↔ m.idle = true ∧ c.heldMatrix (a.toNat % 16) = false))
      ∧ (a.getLsbD 63 = false →
          let seq : BitVec 32 := a.setWidth 32
          let queue := a.toNat / 2 ^ 32 % 4
          let mine (q : SCmd) : Prop := q.org.key = c.key ∧ q.org.load = none ∧ q.gone = false ∧ c.kind = .task
          let held (n : Nat) := c.heldStream (BitVec.ofNat 2 n)
          let near (n : BitVec 32) : Prop := (seq - n).toNat < 2 ^ 31
          let unissued : Prop := 2 ^ 31 ≤ (x.streamBase - seq).toNat
          (a.toNat / 2 ^ 34 ≠ 0 → s.ticket c x a = .bad)
            ∧ (unissued → (∀ q ∈ s.scmds, mine q → q.seq ≠ seq) → s.ticket c x a = .bad)
            ∧ (∀ n < 4, n ≠ queue → seq ∈ held n → s.ticket c x a = .bad)
            ∧ (∀ q ∈ s.scmds, mine q → q.seq = seq → (∀ r ∈ s.scmds, mine r → r.seq = seq → r = q) →
                (q.queue ≠ queue → s.ticket c x a = .bad)
                  ∧ (q.queue = queue → a.toNat / 2 ^ 34 = 0 → ¬unissued → (∀ n < 4, n ≠ queue → seq ∉ held n) →
                      (q.unfinished = true → s.ticket c x a = .pending)
                        ∧ (q.unfinished = false → (∀ n ∈ held queue, ¬near n) →
                            (∀ r ∈ s.scmds, mine r → r.queue = queue → r.unfinished = true → ¬near r.seq) →
                            (q.st = .complete → s.ticket c x a = .complete) ∧ ∀ k, q.st = .discarded k → s.ticket c x a = .discarded k)))
            ∧ (a.toNat / 2 ^ 34 = 0 → ¬unissued → (∀ n < 4, n ≠ queue → seq ∉ held n) → seq ∈ held queue → (∀ q ∈ s.scmds, mine q → q.seq ≠ seq) →
                s.ticket c x a = .pending)
            ∧ (a.toNat / 2 ^ 34 = 0 → ¬unissued → (∀ n < 4, seq ∉ held n) → (∀ q ∈ s.scmds, mine q → q.seq ≠ seq) →
                let blocked : Prop := (∃ n ∈ held queue, near n) ∨ ∃ r ∈ s.scmds, mine r ∧ r.queue = queue ∧ r.unfinished = true ∧ near r.seq
                (blocked → s.ticket c x a = .behind) ∧ (¬blocked → s.ticket c x a = .complete)))

/-- The view instructions: VWREG past its gate registers the descriptor it reads and delivers the handle or error; VWDROP and VWPOL keep their action, VWPOL poisoned for policy 3; VWQRY delivers a tile's epoch and state, all ones for no such tile; VWSYNC past its gate is a release, advances the tiles it names that are dirty, or all of them when it forces, and delivers how many view tiles are FAULTED once every one is settled, at once where they are; for an invalid handle or tile it delivers all ones (13 R299 to R303; that the release is performed there too is the model's reading, log 101). An address of VWREG that is out of range or misaligned and an operand b of VWSYNC of 2^32 or more poison past the gate; PERM for an address that is both and the lowest of several codes of an error are the model's choice (logs 107 and 103). -/
def Obligations.ViewInstructions : Prop :=
  ∀ (s : State) (v : Vals) (pr : Pred) (eff : BitVec 5) (t : Tgt) (f : Bool) (c : Ctx) (x : Inst), s.fctx = some c → s.finst = some x →
    let a := v.a.bits
    let b := v.b.bits
    (∀ u d w bs, a.toNat < 2 ^ 56 → a.toNat % 64 = 0 → s.gate eff ⟨false, false, none, false, true⟩ = .goes u → u.fctx = some d → u.viewWaits d.asid a 64 = false →
        u.taskRead d a 64 = (w, .ok bs) → Acts s (.vwreg pr eff t) v →
        GivesAfter s ((w.register d bs).1.performed eff) (.vwreg pr eff t) .done (w.register d bs).2)
      ∧ (∀ u, s.gate eff ⟨false, false, none, false, false⟩ = .goes u → Acts s (.vwreg pr eff t) v →
          (2 ^ 56 - 64 < a.toNat → exec (.vwreg pr eff t) s = .next (s.fired (u.notPerformed (.vwreg pr eff t) .perm a)))
            ∧ (a.toNat + 64 ≤ 2 ^ 56 → a.toNat % 64 ≠ 0 → exec (.vwreg pr eff t) s = .next (s.fired (u.notPerformed (.vwreg pr eff t) .misalign a))))
      ∧ (∀ u d w k va, a.toNat < 2 ^ 56 → a.toNat % 64 = 0 → s.gate eff ⟨false, false, none, false, true⟩ = .goes u → u.fctx = some d →
          u.viewWaits d.asid a 64 = false → u.taskRead d a 64 = (w, .bad k va) → Acts s (.vwreg pr eff t) v →
          exec (.vwreg pr eff t) s = .next (s.fired (w.notPerformed (.vwreg pr eff t) k va)))
      ∧ (Acts s (.vwdrop pr eff) v → Effects s (.vwdrop pr eff) (.vwdrop a))
      ∧ (b.toNat % 4 ≠ 3 → b.toNat / 4 % 2 ^ 14 = 0 → b.toNat < 2 ^ 49 → Acts s (.vwpol pr eff) v → Effects s (.vwpol pr eff) (.vwpol a b))
      ∧ (b.toNat % 4 = 3 ∨ 2 ^ 49 ≤ b.toNat → Acts s (.vwpol pr eff) v → Poisons s (.vwpol pr eff) .illop)
      ∧ (s.viewOf c.asid a = none → Acts s (.vwqry pr eff f t) v → GivesAfter s s (.vwqry pr eff f t) .done (BitVec.allOnes 64))
      ∧ (∀ (m : Master) (y : View) (g : VTile) e, s.viewOf c.asid a = some (m, y) → y.tiles[b.toNat]? = some g → m.epochs[b.toNat]? = some e →
          let st := if g.faulted then 2 else if g.fresh e then 0 else 1
          (Acts s (.vwqry pr eff true t) v → GivesAfter s s (.vwqry pr eff true t) .done (w64 (e.toNat + st * 2 ^ 32)))
            ∧ ∀ e', g.epoch = some e' → Acts s (.vwqry pr eff false t) v → GivesAfter s s (.vwqry pr eff false t) .done (w64 (e'.toNat + st * 2 ^ 32)))
      ∧ (∀ tw slot ts n, x.syncs.find? (fun p => decide (p.1 = s.focus.iid)) = some (s.focus.iid, tw, slot, ts) → s.settled tw slot ts = some n →
          Acts s (.vwsync pr eff f t) v → GivesAfter s (s.performed eff) (.vwsync pr eff f t) .done (w64 n))
      ∧ (∀ u, x.syncs.find? (fun p => decide (p.1 = s.focus.iid)) = none → b.toNat < 2 ^ 32 → s.gate eff ⟨true, false, none, false, true⟩ = .goes u → Acts s (.vwsync pr eff f t) v →
          let w := u.released c.recA c.asid
          (w.viewOf c.asid a = none → GivesAfter s (w.performed eff) (.vwsync pr eff f t) .done (BitVec.allOnes 64))
            ∧ ∀ m y, w.viewOf c.asid a = some (m, y) →
              (b.toNat ≠ 0xFFFFFFFF → m.tileCount ≤ b.toNat → GivesAfter s (w.performed eff) (.vwsync pr eff f t) .done (BitVec.allOnes 64))
                ∧ ∀ named, (b.toNat = 0xFFFFFFFF ∧ named = List.range m.tileCount) ∨ (b.toNat ≠ 0xFFFFFFFF ∧ b.toNat < m.tileCount ∧ named = [b.toNat]) →
                  let r := w.syncAdvance c m named f
                  (∀ n, r.1.settled m.tower m.slot r.2 = some n → GivesAfter s (r.1.performed eff) (.vwsync pr eff f t) .done (w64 n))
                    ∧ (r.1.settled m.tower m.slot r.2 = none → exec (.vwsync pr eff f t) s = .next
                        (r.1.onInst fun y => { y with syncs := y.syncs ++ [(r.1.focus.iid, m.tower, m.slot, r.2)] }).beginWait))
      ∧ (∀ (w : State) (m : Master) n, w.masterNow m = some m →
          (f = true ∨ (∃ d ∈ m.dirty, d.1 = n) → (w.syncAdvance c m [n] f).1 = w.advance m.tower m.slot n (some (c.recA, c.asid)))
            ∧ (f = false → (∀ d ∈ m.dirty, d.1 ≠ n) → w.syncAdvance c m [n] f = (w, [(n, (m.epochs[n]?).getD 0)])))
      ∧ (∀ u, 2 ^ 32 ≤ b.toNat → x.syncs.find? (fun p => decide (p.1 = s.focus.iid)) = none → s.gate eff ⟨false, false, none, false, false⟩ = .goes u →
          Acts s (.vwsync pr eff f t) v → exec (.vwsync pr eff f t) s = .next (s.fired (u.effectBad (.vwsync pr eff f t) .illop)))

/-- The fabric instructions: past the gate, PUNLOAD, PSTART, PSTOP and PSAVE act on the load of their handle in the state it is in (PUNLOAD and PSAVE: of a load whose nodes have no store left behind commit and that has no record or status word due, log 86) and deliver 0 or an error word with bit 63 set: 8 for no such load, 9 for a state in which they may not act; PSTART of a FAULTED load disposes of its records first; a PSTOP that ends waits for the load no longer; PSAVE leaves no earlier saved load under its area; PLOAD and PREST wait until their load is placed, and deliver its handle, a PREST freeing the saved load the part still holds; PREST of an area that is not aligned, cannot be read or records no state is error 10 (14 R319, R322 to R325; log 99). SPOP and SPUSH of a node clause: the head token of the edge is delivered and leaves at commit, a slot of the edge is reserved and the token kept, a null operand pushes a null token; without room or token they wait; elsewhere they are ILLOP; tokens leave an edge in the order they came (14 R311 to R313). -/
def Obligations.FabricInstructions : Prop :=
  (∀ (s u : State) (v : Vals) (pr : Pred) (eff : BitVec 5) (t : Tgt) (c : Ctx) (x : Inst), s.gate eff ⟨true, false, none, false, true⟩ = .goes u →
      let w := u.releaseHere .pkg
      let a := v.a.bits
      let gives (z : State) (i : Instr) (r : Word) : Prop := GivesAfter s (z.performed eff) i .done r
      w.fctx = some c → w.finst = some x →
      (w.loadOf c.asid a = none →
          (∀ i ∈ ([.punload pr eff t, .pstart pr eff t, .pstop pr eff t, .psave pr eff t] : List Instr), Acts s i v → gives w i (errWord 8)) ∧ (errWord 8).toNat = 2 ^ 63 + 8)
        ∧ (∀ l, w.loadOf c.asid a = some l →
            (l.st = .running → Acts s (.punload pr eff t) v → gives w (.punload pr eff t) (errWord 9))
              ∧ (l.st ≠ .running → w.loadBusy l = false → Acts s (.punload pr eff t) v → gives (w.freeLoad l).hypSweep (.punload pr eff t) 0)
              ∧ ((∀ z ∈ w.ctxs, z.loadRef = some (l.tower, l.slot) → z.pend = []) → (∀ r ∈ w.recq, r.load ≠ some (l.tower, l.slot)) → l.statusDue = false →
                    w.loadBusy l = false)
              ∧ (l.st = .loaded ∨ l.st = .stopped → Acts s (.pstart pr eff t) v → gives (w.runLoad l) (.pstart pr eff t) 0)
              ∧ (∀ y bss, l.st = .faulted → l.statusDue = false → (∀ r ∈ w.recq, r.load ≠ some (l.tower, l.slot)) →
                    w.loadRecs c l (List.range l.nrec) = (y, some bss) → Acts s (.pstart pr eff t) v →
                    gives ((y.disposeAll l ((List.range l.nrec).zip bss)).runLoad l) (.pstart pr eff t) 0)
              ∧ (l.st = .running ∨ l.st = .finished ∨ l.st = .saved → Acts s (.pstart pr eff t) v → gives w (.pstart pr eff t) (errWord 9))
              ∧ (let ended := w.onLoad l.tower l.slot fun z => { z with waiter := if z.waiter = some (c.id, x.uid, w.focus.iid) then none else z.waiter }
                 (l.st = .stopped ∨ l.st = .finished → Acts s (.pstop pr eff t) v → gives ended (.pstop pr eff t) 0)
                  ∧ (l.st = .faulted → Acts s (.pstop pr eff t) v → gives ended (.pstop pr eff t) (w64 l.nrec)))
              ∧ (l.st = .loaded → Acts s (.pstop pr eff t) v → gives w (.pstop pr eff t) (errWord 9))
              ∧ (let z := (w.onLoad l.tower l.slot fun z => { z with stopAsked := true, waiter := some (c.id, x.uid, w.focus.iid) }).discardHeld l
                 l.st = .running → l.waiter = none → z.loadStill l = true → Acts s (.pstop pr eff t) v →
                  gives ((z.onLoad l.tower l.slot fun z => { z with stopAsked := false, waiter := none, edges := z.edges.map fun e => { e with headAt := none } }).loadTo
                    l.tower l.slot .stopped) (.pstop pr eff t) 0)
              ∧ (∀ y, l.st = .loaded ∨ l.st = .stopped ∨ l.st = .faulted → v.b.bits.toNat % 4096 = 0 → v.b.bits.toNat < 2 ^ 56 → w.loadBusy l = false →
                  (w.discardHeld l).vwriteAll c.asid v.b.bits ((w.discardHeld l).loadImage l) = (y, none) → Acts s (.psave pr eff t) v →
                  let own (m : MNode) : Bool := decide (m.tower = l.tower) && (match m.owner with
                    | .load slot _ => decide (slot = l.slot)
                    | _ => false)
                  let y : State := { y with loads := y.loads.map fun o : Load =>
                    if o.st = LoadSt.saved ∧ o.asid = l.asid ∧ o.area = some v.b.bits then { o with area := none } else o }
                  let z := (y.onLoad l.tower l.slot fun z => { z with
                    area := some v.b.bits
                    keptCells := (w.ctxs.filter fun z => decide (z.loadRef = some (l.tower, l.slot))).map fun z => { z with window := [] }
                    keptNodes := y.mnodes.filter own }).loadTo l.tower l.slot .saved
                  gives { z with ctxs := z.ctxs.filter fun x => !decide (x.loadRef = some (l.tower, l.slot)), mnodes := z.mnodes.filter fun m => !own m } (.psave pr eff t) 0)
              ∧ (l.st = .running ∨ l.st = .finished ∨ l.st = .saved → Acts s (.psave pr eff t) v → gives w (.psave pr eff t) (errWord 9))
              ∧ (l.st = .loaded ∨ l.st = .stopped ∨ l.st = .faulted → v.b.bits.toNat % 4096 ≠ 0 → Acts s (.psave pr eff t) v → gives w (.psave pr eff t) (errWord 10)))
        ∧ (∀ y n, s.waitingLoad = none → w.checkImage c a v.b.bits = (y, .error n) → Acts s (.pload pr eff t) v → gives y (.pload pr eff t) (errWord n))
        ∧ (∀ l, s.waitingLoad = some l → l.st ≠ .configuring → Acts s (.pload pr eff t) v →
            GivesAfter s ((s.onLoad l.tower l.slot fun z => { z with waiter := none }).performed eff) (.pload pr eff t) .done l.handle)
        ∧ (∀ l, s.waitingLoad = some l → l.st ≠ .configuring → Acts s (.prest pr eff t) v →
            let y := s.onLoad l.tower l.slot fun z => { z with waiter := none, area := none }
            (∀ o, y.savedAt l.asid l.area = some o → GivesAfter s ((y.freeLoad o).performed eff) (.prest pr eff t) .done l.handle)
              ∧ (y.savedAt l.asid l.area = none → GivesAfter s (y.performed eff) (.prest pr eff t) .done l.handle))
        ∧ (s.waitingLoad = none → Acts s (.prest pr eff t) v →
            (a.toNat % 4096 ≠ 0 → gives w (.prest pr eff t) (errWord 10))
              ∧ (∀ y, a.toNat % 4096 = 0 → w.vreadAll c.asid a [(0, 24)] = (y, none) → gives y (.prest pr eff t) (errWord 10))
              ∧ (∀ y bs, a.toNat % 4096 = 0 → w.vreadAll c.asid a [(0, 24)] = (y, some [bs]) → savedSt (qwordOf bs 2) = none → gives y (.prest pr eff t) (errWord 10))))
    ∧ (∀ (s : State) (v : Vals) (eff port : BitVec 5) (t : Tgt) (c : Ctx) (x : Inst), s.fctx = some c → s.finst = some x →
      (x.hdr.kind ≠ 1 → (Acts s (.spop eff port t) v → exec (.spop eff port t) s = .next (s.fired (s.effectBad (.spop eff port t) .illop)))
          ∧ (Acts s (.spush eff port) v → Poisons s (.spush eff port) .illop))
        ∧ (∀ l n e, x.hdr.kind = 1 → s.edgeOfCtx c port.toNat false = some (l, n, e) → Acts s (.spop eff port t) v →
            (∀ h hs, e.toks = h :: hs → h.tag ≠ .bubble → exec (.spop eff port t) s = .next (s.fired ((s.effect (.spop eff port t) (.spop port)).deliver (.spop eff port t)
                (h.token e.wide s.focus.iid))))
              ∧ (e.toks = [] → exec (.spop eff port t) s = .next s))
        ∧ (∀ l n e, x.hdr.kind = 1 → s.edgeOfCtx c port.toNat true = some (l, n, e) →
            (Acts s (.spush eff port) v → e.toks.length + x.edgeRes.count port < e.depth → (∀ u, v.a = .scalar u → e.wide = false) → (∀ u, v.a = .wide u → e.wide = true) →
                exec (.spush eff port) s = .next (s.fired ((s.onInst fun y => { y with edgeRes := port :: y.edgeRes }).effect (.spush eff port) (.spush port v.a))))
              ∧ (Asks s (.spush eff port) .meetsNull → e.toks.length + x.edgeRes.count port < e.depth →
                exec (.spush eff port) s = .next (((s.onInst fun y => { y with edgeRes := port :: y.edgeRes }).effect (.spush eff port) (.spush port .null)).onInst
                  fun y => y.markFired s.focus.iid).tick)
              ∧ (Acts s (.spush eff port) v → e.depth ≤ e.toks.length + x.edgeRes.count port → (∀ u, v.a = .scalar u → e.wide = false) →
                (∀ u, v.a = .wide u → e.wide = true) → exec (.spush eff port) s = .next s))
        ∧ (∀ (e : FEdge) (k : FTok) now, (e.push k now).toks = e.toks ++ [k] ∧ (e.pop now).toks = e.toks.drop 1)
        ∧ (∀ (r : Word) (q : BitVec 32) w, (Token.edge (.scalar r) q).token false 0 = .scalar r ∧ (Token.edge .null q).token w 0 = .null))

/-! ### System -/

/-- TRAP, DBGBRK, RFT, CREAD, CWRITE: a trap code of 16 bits is kept, a wider one poisoned ILLOP; RFT stands in for the branch and is poisoned ILLOP in mode 00; CREAD in the oldest clause delivers the register and CWRITE keeps its write, a supervisor selector on a cell that is not the supervisor's giving PERM (17 R348, R349, R353, R354). The reading instructions: RDTIME delivers the package time unless an older RDTIME has not fired, RDPMC a counter (a number above 255 gives ILLOP), AFWAIT the count of the ring once no older store or record is due, IDLE the bits of why its wait ends, and CLINE is performed past its gate, without effect on lens scratch or a far page, and with an address out of range or a page it may not touch poisons its effect past the gate (17 R356, R360, R361, R363, R364). That RDTIME waits for an older one is the model's choice (log 59), as is that AFWAIT waits for a record that is due (log 71). -/
def Obligations.ControlInstructions : Prop :=
  (∀ (s : State) (v : Vals) (pr : Pred) (eff sel : BitVec 5) (t : Tgt) (c : Ctx), s.fctx = some c →
      (v.a.bits.toNat < 2 ^ 16 → Acts s (.trap pr eff) v → Effects s (.trap pr eff) (.trap (BitVec.ofNat 16 v.a.bits.toNat)))
        ∧ (2 ^ 16 ≤ v.a.bits.toNat → Acts s (.trap pr eff) v → Poisons s (.trap pr eff) .illop)
        ∧ (Acts s (.dbgbrk pr eff) v → Effects s (.dbgbrk pr eff) .dbgbrk)
        ∧ (c.normalMode = false → Acts s (.rft pr eff) v → exec (.rft pr eff) s = .next (s.fired ((s.effect (.rft pr eff) .rft).onInst Inst.recordRft)))
        ∧ (c.normalMode = true → Acts s (.rft pr eff) v → exec (.rft pr eff) s = .next (s.fired ((s.effectPoison (.rft pr eff) .illop).onInst Inst.recordRft)))
        ∧ (c.normalMode = true ↔ c.causeMode = 0)
        ∧ (s.oldest = true →
            (sel.toNat < 16 → Acts s (.cread pr eff sel t) v → GivesAfter s s (.cread pr eff sel t) .done (c.reg sel.toNat))
              ∧ (16 ≤ sel.toNat → s.privileged = true → Acts s (.cread pr eff sel t) v → GivesAfter s s (.cread pr eff sel t) .done (s.svReg c.tower sel.toNat))
              ∧ (16 ≤ sel.toNat → s.privileged = false → Acts s (.cread pr eff sel t) v → exec (.cread pr eff sel t) s = .next (s.fired (s.effectBad (.cread pr eff sel t) .perm)))
              ∧ (sel.toNat < 16 ∨ s.privileged = true → Acts s (.cwrite pr eff sel) v → Effects s (.cwrite pr eff sel) (.cwrite sel v.a.bits))
              ∧ (16 ≤ sel.toNat → s.privileged = false → Acts s (.cwrite pr eff sel) v → Poisons s (.cwrite pr eff sel) .perm))
        ∧ (s.oldest = false → (Acts s (.cread pr eff sel t) v → exec (.cread pr eff sel t) s = .next s) ∧ (Acts s (.cwrite pr eff sel) v → exec (.cwrite pr eff sel) s = .next s))
        ∧ (s.privileged = true ↔ c.kind = .task ∧ c.cellOf s.focus.iid = (s.tower c.tower).svCell))
    ∧ (∀ (s : State) (v : Vals) (pr : Pred) (eff : BitVec 5) (op : ClineOp) (t : Tgt) (c : Ctx) (x : Inst), s.fctx = some c → s.finst = some x →
      let va := v.a.bits
      let acc : Access := match op with
        | .ic => .fetch
        | _ => .load
      (s.timeHeld = false → Acts s (.rdtime pr eff t) v → GivesAfter s s (.rdtime pr eff t) .done (w64 s.time))
        ∧ (s.timeHeld = true → Acts s (.rdtime pr eff t) v → exec (.rdtime pr eff t) s = .next s)
        ∧ (va.toNat < 256 → Acts s (.rdpmc pr eff t) v → GivesAfter s s (.rdpmc pr eff t) .done (c.counter s.time s.clock va.toNat))
        ∧ (256 ≤ va.toNat → Acts s (.rdpmc pr eff t) v → exec (.rdpmc pr eff t) s = .next (s.fired ((s.effect (.rdpmc pr eff t) .done).deliverPoison (.rdpmc pr eff t) .illop)))
        ∧ (s.oldest = true → c.heldIn = [] → c.pend = [] → s.recordDue c = false → Acts s (.afwait pr eff t) v →
            GivesAfter s s (.afwait pr eff t) .done (w64 (c.afHead - c.afTail).toNat))
        ∧ (s.recordDue c = true → Acts s (.afwait pr eff t) v → exec (.afwait pr eff t) s = .next s)
        ∧ (let since := (x.waitSince s.focus.iid).getD s.time
           s.oldest = true → va.toNat < 2 ^ 32 → Acts s (.idle pr eff t) v →
            (s.idleBits c va.toNat since ≠ 0 →
                GivesAfter s (s.onInst fun y => y.waitedOut s.focus.iid s.time) (.idle pr eff t) .done (w64 (s.idleBits c va.toNat since)))
              ∧ (s.idleBits c va.toNat since = 0 → exec (.idle pr eff t) s = .next s.beginWait))
        ∧ (2 ^ 32 ≤ va.toNat → Acts s (.idle pr eff t) v → exec (.idle pr eff t) s = .next (s.fired (s.effectBad (.idle pr eff t) .illop)))
        ∧ (∀ u, s.oldest = true → scratchBase ≤ va.toNat → va.toNat < 2 ^ 56 → s.gate eff ⟨decide (op = .ic), false, none, false, false⟩ = .goes u → Acts s (.cline pr eff op) v →
            exec (.cline pr eff op) s = .next (s.fired ((u.performed eff).effect (.cline pr eff op) .done)))
        ∧ (∀ u l, s.oldest = true → va.toNat < scratchBase → s.permGet c.tower (c.cellOf s.focus.iid) c.asid va acc = .ok l →
            s.gate eff ⟨decide (op = .ic), false, none, false, false⟩ = .goes u → Acts s (.cline pr eff op) v →
            exec (.cline pr eff op) s =
              .next (s.fired ((((if l.far then u else u.clineDo (l.tag c.asid) op va)).performed eff).effect (.cline pr eff op) .done)))
        ∧ (∀ u, 2 ^ 56 ≤ va.toNat → s.gate eff ⟨false, false, none, false, false⟩ = .goes u → Acts s (.cline pr eff op) v →
            exec (.cline pr eff op) s = .next (s.fired ((u.notePoison va).effectPoison (.cline pr eff op) .perm)))
        ∧ (∀ k u w, s.oldest = true → va.toNat < scratchBase → s.permGet c.tower (c.cellOf s.focus.iid) c.asid va acc = .bad k u →
            u.gate eff ⟨false, false, none, false, false⟩ = .goes w → Acts s (.cline pr eff op) v →
            exec (.cline pr eff op) s = .next (s.fired ((w.takeNotes.notePoison va).effectPoison (.cline pr eff op) k)))
        ∧ (∀ now since n, (n = 0 ∨ now < since + n * 1000) → s.privileged = false → (∀ j < c.width, ((s.tower c.tower).inbox (c.base + j)).head? = none) → s.time = now →
            s.idleBits c n since = 0))

/-- The supervisor's instructions: on a cell that is not the supervisor's every one of them ends with PERM; on it HALT, TRESUME, WINWR, WSOPEN and WSCLOSE keep their action, WINRD delivers a window of a STOPPED task, and PLBFL delivers 0 once its shoot-down has finished (17 R355 to R359, R362). -/
def Obligations.SupervisorInstructions : Prop :=
  ∀ (s : State) (v : Vals) (pr : Pred) (eff : BitVec 5) (t : Tgt),
    let a := v.a.bits
    let b := v.b.bits
    (s.privileged = false →
        (∀ i ∈ ([.halt pr eff, .winwr pr eff, .tresume pr eff, .wsopen pr eff, .wsclose pr eff] : List Instr), Acts s i v → Poisons s i .perm)
          ∧ (Acts s (.winrd pr eff t) v → exec (.winrd pr eff t) s = .next (s.fired (s.effectBad (.winrd pr eff t) .perm)))
          ∧ (∀ u, s.gate eff ⟨false, false, none, false, false⟩ = .goes u → Acts s (.plbfl pr eff t) v →
              exec (.plbfl pr eff t) s = .next (s.fired (u.effectBad (.plbfl pr eff t) .perm))))
      ∧ (s.privileged = true →
          (a.toNat % 64 = 0 → a.toNat < 2 ^ 56 → b.toNat < 3 → Acts s (.halt pr eff) v → Effects s (.halt pr eff) (.halt a (BitVec.ofNat 2 b.toNat)))
            ∧ (a.toNat % 64 = 0 → a.toNat < 2 ^ 56 → 3 ≤ b.toNat → Acts s (.halt pr eff) v → Poisons s (.halt pr eff) .illop)
            ∧ (Acts s (.tresume pr eff) v → Effects s (.tresume pr eff) (.tresume a))
            ∧ (a.toNat < 6 → (Acts s (.wsopen pr eff) v → Effects s (.wsopen pr eff) (.wsopen a.toNat)) ∧ (Acts s (.wsclose pr eff) v → Effects s (.wsclose pr eff) (.wsclose a.toNat)))
            ∧ (6 ≤ a.toNat → (Acts s (.wsopen pr eff) v → Poisons s (.wsopen pr eff) .illop) ∧ (Acts s (.wsclose pr eff) v → Poisons s (.wsclose pr eff) .illop))
            ∧ (∀ tw (x : TaskInfo), b.toNat < 256 → b ≠ 195 → s.stopped? a = some (tw, x) → Acts s (.winwr pr eff) v →
                Effects s (.winwr pr eff) (.winwr a (BitVec.ofNat 8 b.toNat) v.c.bits))
            ∧ (b.toNat < 256 → s.stopped? a = none → Acts s (.winwr pr eff) v → Poisons s (.winwr pr eff) .perm)
            ∧ (256 ≤ b.toNat → Acts s (.winwr pr eff) v → Poisons s (.winwr pr eff) .illop)
            ∧ (∀ tw (x : TaskInfo) u d, s.oldest = true → b.toNat < 256 → s.stopped? a = some (tw, x) → s.stoppedCtx tw x = (u, .ok d) → Acts s (.winrd pr eff t) v →
                GivesAfter s u (.winrd pr eff t) .done (d.windowWord b.toNat))
            ∧ (s.oldest = true → b.toNat < 256 → s.stopped? a = none → Acts s (.winrd pr eff t) v →
                exec (.winrd pr eff t) s = .next (s.fired ((s.effect (.winrd pr eff t) .done).deliverPoison (.winrd pr eff t) .perm)))
            ∧ (∀ f (y : Shoot), shootOperand v = .ok f → s.shoots.find? (fun x => decide (x.by_ = some (s.focus.ctx, s.focus.iid))) = some y → y.finished = true →
                Acts s (.plbfl pr eff t) v →
                GivesAfter s (({ s with shoots := s.shoots.filter fun x => !decide (x.by_ = some (s.focus.ctx, s.focus.iid)) } : State).performed eff) (.plbfl pr eff t) .done 0)
            ∧ (∀ k u, shootOperand v = .error k → s.gate eff ⟨false, false, none, false, false⟩ = .goes u → Acts s (.plbfl pr eff t) v →
                exec (.plbfl pr eff t) s = .next (s.fired (u.effectBad (.plbfl pr eff t) k)))
            ∧ (∀ f u, shootOperand v = .ok f → s.shoots.find? (fun x => decide (x.by_ = some (s.focus.ctx, s.focus.iid))) = none → s.gate eff ⟨true, false, none, false, false⟩ = .goes u →
                Acts s (.plbfl pr eff t) v → exec (.plbfl pr eff t) s = .next ({ (u.releaseHere .pkg) with
                  shoots := (u.releaseHere .pkg).shoots ++ [⟨f, some (s.focus.ctx, s.focus.iid), false⟩] } : State).beginWait))
      ∧ (2 ^ 18 ≤ a.toNat → shootOperand v = .error .illop)
      ∧ (a.toNat < 2 ^ 18 → a.toNat / 2 ^ 16 = 3 → shootOperand v = .error .illop)
      ∧ (a.toNat / 2 ^ 16 = 1 → shootOperand v = .ok (.whole (a.setWidth 16)))
      ∧ (a.toNat / 2 ^ 16 = 2 → shootOperand v = .ok .globals)
      ∧ (a.toNat < 2 ^ 16 → b.toNat % 65536 = 0 → v.c.bits.toNat < 2 ^ 32 → shootOperand v = .ok (.range (a.setWidth 16) (b.toNat / 65536) v.c.bits.toNat))

/-! ### Clauses and stops -/

/-- CLAUSE_FETCH places the clause at the address the window asks for, its header checked and every word looked at: a bad header or a target beyond the clause marks it CLAUSEFMT, an illegal word ILLOP, an address out of line CLAUSEFMT (01 R10 to R13, R24; 02 R46). -/
def Obligations.ClauseFetch : Prop :=
  ∀ (s : State) (n : Nat) (x : Ctx) (a : Word), s.ctx? n = some x → x.kind = .task → x.runs = true → s.stopDue x = false → x.fetchAddr = some a →
    exec (.clauseFetch n) s = .next (s.fetchFrom x a)
      ∧ (clauseAddrOk a = true ↔ a.toNat % 16 = 0 ∧ a.toNat < 2 ^ 56)
      ∧ (clauseAddrOk a = false → s.fetchFrom x a = s.placeInst x a .zero [] (some .clausefmt) none)
      ∧ (let cell := x.base + a.toNat / 16 % (if x.width = 0 then 1 else x.width)
         ∀ hb t bs u, clauseAddrOk a = true → s.fetchBytes x cell a 16 = .ok hb t → t.fetchBytes x cell (a + 16) (headerOf hb).size = .ok bs u →
          s.fetchFrom x a = u.placeInst x a (headerOf hb) (wordsOf bs) (clauseMark (headerOf hb) (wordsOf bs) false (x.needHandler && x.window.isEmpty)) none)
      ∧ (∀ h : Header, h.size = 128 * (h.nchunk.toNat + 1))
      ∧ (∀ (h : Header) ws, h.version ≠ 1 ∨ h.kind = 3 ∨ h.kind = 1 ∨ h.reserved ≠ 0 → clauseMark h ws false false = some .clausefmt)
      ∧ (∀ (h : Header) ws, h.kind ≠ 2 → clauseMark h ws false true = some .clausefmt)
      ∧ (∀ (h : Header) w e ws, h.bad false false = false → decodeWord w = .error e → w < 2 ^ 32 → clauseMark h (BitVec.ofNat 32 w :: ws) false false = some .illop)
      ∧ (∀ (h : Header) w i ws, h.bad false false = false → decodeWord w = .ok i → w < 2 ^ 32 → (∃ t ∈ i.targets, (BitVec.ofNat 32 w :: ws).length ≤ t.2.toNat) →
          (∀ p e f q, i ≠ .tloadEdge p e f q ∧ i ≠ .tstoreEdge p e f q) → clauseMark h (BitVec.ofNat 32 w :: ws) false false = some .clausefmt)
      ∧ (∀ (h : Header) (ws : List (BitVec 32)), h.bad false false = false → (∀ w ∈ ws, ∃ i, decodeWord w.toNat = .ok i ∧ (∀ t ∈ i.targets, t.2.toNat < ws.length)
          ∧ (∀ p e f q, i ≠ .tloadEdge p e f q ∧ i ≠ .tstoreEdge p e f q)) → clauseMark h ws false false = none)

/-- CLAUSE_COMMIT: a clause with an own fault or not complete stays; a complete, clean one whose loads stand and whose stores fit commits, one whose loads no longer stand runs again (that loads which went early are read again at commit is the model's choice, log 29); a commit counts up, and the next clause becomes the oldest; a clause is complete once every masked output and its branch are there (01 R18 to R21). -/
def Obligations.ClauseCommit : Prop :=
  ∀ (s : State) (n : Nat) (y : Ctx) (x : Inst) (xs : List Inst), s.ctx? n = some y → y.window = x :: xs → y.kind = .task →
    (x.ownFault ≠ none ∨ x.complete = false → exec (.clauseCommit n) s = .next s)
      ∧ (y.runs = true → s.stopDue y = false → x.ownFault = none → x.complete = true →
          (∀ t, s.performLoads y x 32 = .again t → exec (.clauseCommit n) s = .next (t.rerun y.id))
            ∧ (∀ t, s.performLoads y x 32 = .wait t → exec (.clauseCommit n) s = .next t)
            ∧ (∀ t z w zs, s.performLoads y x 32 = .ready t → t.ctx? y.id = some z → z.window = w :: zs → z.storesFit w = true →
                exec (.clauseCommit n) s = .next (t.commitTask z w)))
      ∧ (x.complete = true ↔ (∀ r < 64, x.hdr.gwmask.getLsbD r = true → ∃ p ∈ x.gw, p.1.toNat = r) ∧ (∀ r < 16, x.hdr.wwmask.getLsbD r = true → ∃ p ∈ x.ww, p.1.toNat = r)
          ∧ (∀ e < 32, x.hdr.effmask.getLsbD e = true → x.effOut? (BitVec.ofNat 5 e) ≠ none) ∧ (x.branch ≠ none ∨ x.rft = true))
      ∧ (∀ eng, (y.countCommit x eng).commitCount = y.commitCount + 1 ∧ (y.countCommit x eng).clCommit = y.clCommit + 1 ∧ (y.countCommit x eng).needHandler = false)
      ∧ (y.shift s.time).window.map (fun z => z.uid) = xs.map (fun z => z.uid)

/-- Stops: a stop request is noted at its context; a task with a cause that may be served is stopped and reported, or continued at UPCALL in mode 10 where its cause may be taken so, a SERVICE, TRAP or BREAK beside it dropped (the STEP too: the model's choice, log 95); a HALT that is to end a task stands against later ones; a task that leaves ends or is saved once its stores have settled, and one that ends with a fault still open stops with every cause that stands there; a stall is a cause once the oldest clause has stood for the limit (17 R332 to R335, R346, R355; 07 R174; 04 R116, R117). -/
def Obligations.StopsAndUpcalls : Prop :=
  ∀ (s : State) (n : Nat) (c : Ctx) (t : TaskInfo), s.running? n = some (c, t) →
    (exec (.stopRequest n .halt) s = .next (s.onCtx c.id fun y => y.askHalt 0).tick)
      ∧ (∀ (y : Ctx) act, (y.haltReq = none ∨ y.haltReq = some 0 → (y.askHalt act).haltReq = some act) ∧ ∀ a, a ≠ 0 → y.haltReq = some a → (y.askHalt act).haltReq = some a)
      ∧ (exec (.stopRequest n .linkLost) s = .next (s.onCtx c.id fun y => { y with lost := true }).tick)
      ∧ (∀ x others, c.leaving = none → (c.haltReq = none ∨ c.haltReq = some 0) → s.chosen c = some (x, others) → ((∀ y ∈ x :: others, y.own = false ∨ y.kind = .stall) ∨ ∃ u, s.recheck c.id (List.range 32) = .same u) →
          (c.upcalls x = false → ¬(x.kind = .orphan ∧ s.recSilent t = true) → s.quiet c = true → exec (.taskStop n) s = .next (s.stopTask c t x others false).tick)
            ∧ (c.upcalls x = false → ¬(x.kind = .orphan ∧ s.recSilent t = true) → s.quiet c = true → s.stalled c = true → exec (.stall n) s = .next (s.stopTask c t x others false).tick)
            ∧ (c.upcalls x = true → exec (.taskStop n) s = .next s)
            ∧ (c.upcalls x = true → exec (.upcall n) s =
                .next (({ s.clear c with lates := s.lates.filter fun l => !decide (l.1 = c.key) || l.2.noUpcall } : State).onCtx c.id fun y =>
                  { y.settlePrio.takeUpcall x.kind (x.src.getD y.causeSrc) x.va with afterStop := [] }).tick))
      ∧ (s.stalled c = false → exec (.stall n) s = .next s)
      ∧ (c.leaving = some .exitt → s.quiet c = true → s.openFaults c.key (some c) (s.ringRecs c.asid c.afBase c.afHead c.afTail) = false →
          exec (.taskStop n) s = .next (s.endRunning c t 5 (c.gr 1)).tick)
      ∧ (∀ x xs, c.leaving = some .exitt → s.quiet c = true → s.openFaults c.key (some c) (s.ringRecs c.asid c.afBase c.afHead c.afTail) = true → s.recordDue c = false →
          s.exitCauses c (s.ringRecs c.asid c.afBase c.afHead c.afTail) = x :: xs → exec (.taskStop n) s = .next (s.stopTask c t x xs true).tick)
      ∧ (c.leaving = some .yield → s.quiet c = true → exec (.taskStop n) s = .next (s.leaveSaved c t false).tick)
      ∧ (c.leaving = some .checkpoint → s.quiet c = true → exec (.taskStop n) s = .next (s.leaveSaved c t true).tick)
      ∧ (∀ how, c.leaving = some how → s.quiet c = false → exec (.taskStop n) s = .next s)
      ∧ (∀ x : Cause, c.upcalls x = true ↔ (x.kind = .notpres ∨ x.kind = .viewstale ∨ x.kind = .hypfull) ∧ c.upcall ≠ 0 ∧ c.causeMode = 0 ∧ x.noUpcall = false)

/-- Taking an upcall or a handler and returning: RESUME takes the clause address, CAUSE the mode, an upcall also the kind, its source and FAULTADDR, the clause address that of UPCALL or of the handler table; RFT goes to RESUME as it stood before the clause (01 R27), in mode 00, and then the next clause need be no handler (17 R346, R348, R354; 07 R171). -/
def Obligations.TakingAndReturning : Prop :=
  ∀ (c : Ctx) (k : Kind) (src : BitVec 3) (va pc : Word) (m : BitVec 512),
    let u := c.takeUpcall k src va
    let h := c.takeHandler m pc
    (u.resume = c.pc ∧ u.causeMode = 2 ∧ u.causeCode = BitVec.ofNat 5 k.code ∧ u.causeSrc = src ∧ u.faddr = va ∧ u.needHandler = true ∧ u.g = c.g ∧ u.w = c.w ∧ u.normalMode = false)
      ∧ u.pc.toNat = c.upcall.toNat
      ∧ (h.resume = c.pc ∧ h.causeMode = 1 ∧ h.pc = pc ∧ h.hmsg = some m ∧ h.needHandler = true ∧ h.g = c.g ∧ h.w = c.w ∧ h.faddr = c.faddr ∧ h.normalMode = false)
      ∧ (∀ r, let b := c.returnFromTrap r; b.pc = r ∧ b.causeMode = 0 ∧ b.normalMode = true ∧ b.hmsg = none ∧ b.g = c.g ∧ b.w = c.w ∧ b.causeCode = c.causeCode)
      ∧ ((u.returnFromTrap u.resume).pc = c.pc ∧ (h.returnFromTrap h.resume).pc = c.pc)
      ∧ (∀ (x : Inst) r, x.rft = true → c.branchTo x r [] = { c.returnFromTrap r with afterStop := [] })

/-! ### What the part does by itself -/

/-- The event rows of register writes have the effect of the write: SRSEED, LSPLIT, PRIO, FPFLAGS, RESUME and AFRING on a task's registers, FQBASE, FQPTR, OVQ, VLOG, WSLDAT, C0RES, MIGCNT, GANGCMD and CKPT on the supervisor's, and the live ASIDs (01 R30; 08 R178, R186, R192; 17 R337, R341, R350, R351, R354; 18 R378; 20 R398, R401, R403; that these rows are such writes is the model's reading, log 17). Every changed bit of WSLDAT leaves its region reading 0: for a bit that goes from 0 to 1 the rule says so, that the contents lost where it goes from 1 to 0 read 0 too is the model's choice (log 121). -/
def Obligations.RegisterWriteEvents : Prop :=
  ∀ (s : State) (n tw : Nat) (c : Ctx) (v : Word) (a : BitVec 16) (d : BitVec 56), s.ctx? n = some c →
    (exec (.srseedWrite n v) s = .next (s.onCtx c.id fun x => x.writeSeed v).tick ∧ exec (.lsplitWrite n v) s = .next (s.onCtx c.id fun x => x.writeSplit v).tick)
      ∧ (exec (.prioWrite n v) s = .next (s.onCtx c.id fun x => { x with prio := s.classOf c.asid (v.setWidth 3) }).tick
        ∧ exec (.fpflagsWrite n v) s = .next (s.onCtx c.id fun x => x.putReg 9 v).tick)
      ∧ (c.causeMode ≠ 0 → exec (.resumeWrite n v) s = .next (s.onCtx c.id fun x => x.putReg 12 v).tick)
      ∧ (c.causeMode = 0 → exec (.resumeWrite n v) s = .next s.tick)
      ∧ exec (.afringWrite n v) s = .next (s.writeRing c v).tick
      ∧ ((c.putReg 9 v).fpflags = v.setWidth 5 ∧ (v.toNat % 16 = 0 → v.toNat < 2 ^ 56 → (c.putReg 12 v).resume = v) ∧ (c.writeSeed v).seed = v.setWidth 32)
      ∧ (exec (.fqbaseWrite tw v) s = .next (s.writeFqBase tw v).tick ∧ exec (.fqptrWrite tw v) s = .next (s.writeFqPtr tw v).tick
        ∧ exec (.ovqWrite tw v) s = .next (s.writeOvq tw v).tick ∧ exec (.vlogWrite v) s = .next (s.writeVlog v).tick)
      ∧ (exec (.wsldatWrite tw v) s = .next (s.writeWsl tw v).tick ∧ exec (.c0resWrite tw v) s = .next (s.writeC0res tw v).tick)
      ∧ (tw < 6 → s.towers.length = 6 → ((s.writeC0res tw v).tower tw).c0res = v.setWidth 32)
      ∧ (∀ off : Nat, off < 64 → (bitsOf (s.tower tw).wslive (64 * (s.tower tw).wslSel.toNat) 64 / 2 ^ off % 2 ≠ v.toNat / 2 ^ off % 2) →
          ∀ k < 65536, Memory.get (s.writeWsl tw v).mem (s.regionBase tw (64 * (s.tower tw).wslSel.toNat) + off * 65536 + k) = 0)
      ∧ exec (.migcntWrite tw) s = .next (s.onTower tw fun t => { t with migDone := 0, migPskip := 0, migBskip := 0, migAband := 0 }).tick
      ∧ (∀ t, exec (.asidMakeLive a) s = .next t → a ∉ s.liveAsids → s.liveAsids.length < 1024 → t.liveAsids = s.liveAsids ++ [a] ∧ t.asidRef = false)
      ∧ (∀ t, exec (.asidMakeLive a) s = .next t → a ∉ s.liveAsids → 1024 ≤ s.liveAsids.length → t.liveAsids = s.liveAsids ∧ t.asidRef = true)
      ∧ (∃ t, exec (.asidMakeLive a) s = .next t) ∧ (∃ t, exec (.asidMakeNotLive a) s = .next t ∧ a ∉ t.liveAsids ∧ t.shoots = s.shoots ++ [⟨.whole a, none, false⟩])
      ∧ exec (.gangArm n v) s = .next ((s.onTower c.tower fun t => { t with gangcmd := w64 (v.toNat / 64 % 2 ^ 50 * 64) }).armGang c (w64 (v.toNat / 64 % 2 ^ 50 * 64))).tick
      ∧ (exec (.checkpointStart n d) s = .next (s.startCkpt c (d.setWidth 64) false).tick ∧ exec (.restoreStart n d) s = .next (s.startCkpt c (d.setWidth 64) true).tick)

/-- Tasks and messages by themselves: a freed reservation goes to the submission window that waits first, the oldest READY record of the overflow queue into the pool; the first task that none passed over for 1 ms holds back is dispatched where a lens fits it, and is passed over where none does; full steps of 4 ms age a class; the pass-over limit comes after 1 ms (stretched, log 84); a task that must go is drained, killed or checkpointed as 18 R368 chooses; the inbox grants its entries in order, a message arrives, a running task is diverted, a message nobody serves, its cell held by no task of its ASID or its entry not valid, goes to the supervisor after 64 us, with cause 0 for an entry that is not valid also where no such task is there (the model's choice, log 109) (07 R157, R158, R163, R169 to R172; 18 R367 to R371; 20 R391). -/
def Obligations.TaskAndMessageEvents : Prop :=
  ∀ (s : State) (tw n cls cell : Nat),
    (∀ w win, (s.tower tw).waitSubs.find? (fun w => !w.granted) = some w → s.roomToSubmit tw = true → w.by_ = none → w.window = some win →
        let u := s.onTower tw fun t => { t with waitSubs := t.waitSubs.erase w }
        (u.windowStream tw win = none → exec (.reservationGrant tw) s = .next (u.windowGo tw win).tick)
          ∧ (∀ k, u.windowStream tw win = some k → exec (.reservationGrant tw) s = .next (u.windowStreamWait tw win k).tick))
      ∧ (∀ x xs, sortBy (fun a b => decide (a.readySeq ≤ b.readySeq)) ((s.tower tw).tasks.filter (fun x => decide (x.st = .ready) && x.overflow)) = x :: xs →
          (s.tower tw).poolCount < 4096 → exec (.overflowAdmit tw) s = .next ((s.onTask tw x.key fun y => { y with overflow := false }).ovqStore tw).tick)
      ∧ (∀ t ts w b k ns, s.dispatchHeld = false → tw < 6 → s.admissible tw = t :: ts → s.hypRefuted t.hyp = false → s.wantsOf t = some w → s.composeFor tw t w = some (b, k, ns) →
          exec (.taskDispatch tw) s = .next (s.place tw t b k ns false).tick)
      ∧ (∀ t w, (s.tower tw).svKey ≠ some t.key → s.composeFor tw t w = s.compose tw t.eff w)
      ∧ (∀ x ∈ s.admissible tw, x ∈ s.candidates tw ∧ ∀ h ∈ s.candidates tw, (s.tower tw).heldBy h x = false)
      ∧ (∀ t w, s.dispatchHeld = false → tw < 6 → s.admissible tw = [t] → s.hypRefuted t.hyp = false → s.wantsOf t = some w → s.composeFor tw t w = none →
          exec (.taskDispatch tw) s = .next (s.passOver tw t.key))
      ∧ (s.dispatchHeld = true → exec (.taskDispatch tw) s = .next s)
      ∧ (let old (x : TaskInfo) : Bool := decide (x.st = .ready) && decide (x.aged < x.steps s.time)
         (s.tower tw).tasks.any old = true →
          exec (.classAging tw) s = .next (s.onTower tw fun t => { t with tasks := t.tasks.map fun x => if old x then { x with aged := x.steps s.time } else x }).tick)
      ∧ (∀ t : TaskInfo, t.steps s.time = (s.time - t.readyAt) / 4000000 ∧ (t.cls = 0 → t.eff = 0) ∧ (t.cls ≠ 0 → 1 ≤ t.eff ∧ t.eff ≤ t.cls.toNat))
      ∧ (∀ p, (s.tower tw).passed.find? (fun p => decide (p.2 + s.us 1000 ≤ s.time) && !(s.tower tw).passedLimit.contains p.1) = some p →
          exec (.passoverLimit tw) s = .next (s.onTower tw fun t => { t with passedLimit := t.passedLimit ++ [p.1] }).tick)
      ∧ (∀ (x : Ctx) t, s.running? n = some (x, t) → x.going = false → s.stopDue x = false → s.mustLeave x cls = true →
          let killok := s.recIdem t && decide (x.hint ≠ 1) && x.normalMode && decide (x.afHead = x.afTail) && !x.hasFault
          let drainok := decide (x.est.toNat ≤ 5) && decide (x.hint ≠ 1)
          (chooseMove cls killok drainok x.hint = .drain → exec (.preempt n cls) s = .next (s.onCtx n fun y => { y with drainAt := some (s.time + s.us 5) }).tick)
            ∧ (chooseMove cls killok drainok x.hint = .kill → x.boundary = true → exec (.preempt n cls) s = .next ((s.clear x).onCtx n fun y => { y with leaving := some .kill }).tick)
            ∧ (chooseMove cls killok drainok x.hint = .checkpoint → x.boundary = true → exec (.preempt n cls) s = .next ((s.clear x).onCtx n fun y => { y with leaving := some .checkpoint }).tick))
      ∧ (∀ k d h, (k = true → ¬(h = 2 ∧ d = true) → chooseMove 0 k d h = .kill) ∧ (d = true → (k = false ∨ h = 2) → chooseMove 0 k d h = .drain) ∧ (k = false → d = false → chooseMove 0 k d h = .checkpoint)
          ∧ (0 < cls → d = true → chooseMove cls k d h = .drain) ∧ (0 < cls → d = false → k = true → h = 3 → chooseMove cls k d h = .kill)
          ∧ (0 < cls → d = false → (k = false ∨ h ≠ 3) → chooseMove cls k d h = .checkpoint))
      ∧ (∀ (x : Ctx) t a, s.running? n = some (x, t) → x.drainAt = some a → x.leaving = none → a ≤ s.time → x.boundary = true → s.stopDue x = false →
          exec (.drainLimit n) s = .next ((s.clear x).onCtx n fun y => { y with leaving := some .checkpoint }).tick)
      ∧ (let b := (s.tower tw).inbox cell
         (b.asking = [] → exec (.inboxGrant tw cell) s = .next s)
          ∧ (∀ c uid iid rest, b.asking = (c, uid, iid) :: rest → b.hasRoom = true →
              (∀ u pr eff, (s.onInbox tw cell fun y => { y with asking := rest, granted := y.granted + 1 }).focusOn c uid iid = some (u, .amsend pr eff) →
                let w := u.onInst fun y => { y with grants := (iid, tw, cell) :: y.grants }
                exec (.inboxGrant tw cell) s = exec (.amsend pr eff) w
                  ∧ (∀ d x gs v, w.fctx = some d → w.finst = some x → w.focus.iid = iid → x.grants = (iid, tw, cell) :: gs → Acts w (.amsend pr eff) v →
                      let a := v.a.bits.toNat
                      a / 128 % 2 = 0 → a / 2 ^ 11 % 32 = 0 → a / 2 ^ 22 % 4 = 0 → a / 2 ^ 41 = 0 → a / 256 % 8 < 6 → a / 65536 % 64 = w.self →
                      exec (.inboxGrant tw cell) s = .next (w.fired (w.effect (.amsend pr eff) (.amsend
                        (mkMsg w d (bitsOf v.a.bits 0 7) (bitsOf v.a.bits 8 3) (bitsOf v.a.bits 16 6) (bitsOf v.a.bits 24 8) (bitsOf v.a.bits 32 8) false
                          (v.a.bits.getLsbD 40) (bitsOf v.c.bits 0 32) v.b.wbits.toNat))))))
              ∧ ((s.onInbox tw cell fun y => { y with asking := rest, granted := y.granted + 1 }).focusOn c uid iid = none →
                exec (.inboxGrant tw cell) s = .next (s.onInbox tw cell fun y => { y with asking := rest }).tick)))
      ∧ (∀ m f, s.flight.find? (fun f => decide (f.2 = m)) = some f → (∀ g ∈ s.flight.takeWhile (fun g => !decide (g = f)), g.1 ≠ f.1 ∨ msgDtower g.2 ≠ msgDtower m ∨ msgDcell g.2 ≠ msgDcell m) →
          exec (.messageArrival m) s = .next (({ s with flight := s.flight.erase f } : State).onInbox (msgDtower m) (msgDcell m) fun b => b.push m).tick)
      ∧ (∀ (b : Inbox) m, (b.push m).msgs.map (fun x => x.msg) = b.msgs.map (fun x => x.msg) ++ [m] ∧ b.pop.msgs.map (fun x => x.msg) = (b.msgs.map fun x => x.msg).drop 1)
      ∧ (∀ (x : Ctx) j m pc, s.ctx? n = some x → x.kind = .task → x.causeMode = 0 → x.boundary = true → x.parked = false → x.frozen = false → x.leaving = none → s.stopDue x = false →
          s.diversion? x = some (j, m, pc) →
          exec (.handlerDiversion n) s = .next ((((s.clear x).onInbox x.tower j fun b => b.pop).onCtx n fun y =>
            { y.settlePrio.takeHandler m pc with handlerAt := s.time }).acquired n).tick)
      ∧ (let on (c : Ctx) : Prop := c.kind = .task ∧ c.tower = tw ∧ c.base ≤ cell ∧ cell < c.base + c.width
         (∀ m ms, ((s.tower tw).inbox cell).msgs = m :: ms →
            (s.unserved tw cell m.msg = true → s.inHandler tw cell = false → (m.headAt.getD s.time) + s.us 64 ≤ s.time → (s.tower tw).fqRoom = true →
                (s.tower tw).fqHeld = [] →
                exec (.nohandler tw cell) s = .next ((s.onInbox tw cell fun y => y.pop).fqPush tw { FqEntry.blank Kind.nohandler.code 1 s.time with
                  asid := msgAsid m.msg, arg := (if s.entryBad tw m.msg then 0 else 1), body := natToBytes 64 m.msg.toNat ++ List.replicate 64 0 }).tick)
              ∧ (s.unserved tw cell m.msg = false ∨ s.inHandler tw cell = true → exec (.nohandler tw cell) s = .next s)
              ∧ (msgSlot m.msg = 0 → (s.unserved tw cell m.msg = true ↔ ∀ c ∈ s.ctxs, on c → c.asid ≠ msgAsid m.msg))
              ∧ (msgSlot m.msg ≠ 0 → (s.unserved tw cell m.msg = true ↔
                  (∀ c ∈ s.ctxs, on c → c.parked = false → c.frozen = false → c.asid ≠ msgAsid m.msg) ∨ s.handlerClause tw (msgAsid m.msg) (msgSlot m.msg) = none))
              ∧ (s.entryBad tw m.msg = true ↔ msgSlot m.msg ≠ 0 ∧ s.handlerClause tw (msgAsid m.msg) (msgSlot m.msg) = none))
           ∧ (s.inHandler tw cell = true ↔ ∃ c ∈ s.ctxs, on c ∧ c.parked = false ∧ c.causeMode = 1))

/-- Translation, home slices and physical accesses: a complex answers the requests of a page, from its translation cache or by one of its 16 walkers, an answer installs an entry or hands over its fault, an answer older than a shoot-down is asked again; a slice performs a store that may go: its bytes stand at its physical address and no others change, a version of a hypothesis leaves memory alone, a frame that is not live, of a closed weight store or, where the store merges, in error makes it fault late, as an entry that forbids it does, and until its acknowledgement the store stands applied in its queue; the slice forwards it to the L1s that hold the line, which first being open (log 7), and acknowledges it, one it cannot reach withholding that for 50 us; a physical write that nothing stands against is performed and drops the copies, one of the host to a closed weight store is discarded and reported, one to a frame that has migrated goes on to the new frame; a host read of sound live bytes delivers them; a shoot-down ends in every tower (08 R181, R182, R185, R188, R194 to R199; 20 R394; 23 R425). Ends of waits: the background discard of a REFUTED hypothesis's versions, a message or access given up after 50 us, and an IDLE whose timeout has passed. The model's choices: a write by physical address to a region that is not live is lost (log 68), the 16 us of a filter bank are not stretched (log 84), a shoot-down takes effect as it completes (log 57), what a slice asks the complex for (log 110) (10 R233, R241; 17 R360; 20 R389 to R391). -/
def Obligations.MemoryEvents : Prop :=
  (∀ (s : State) (tw n slice : Nat) (pa : Nat) (bs : List (BitVec 8)),
      (∀ r rs, (s.tower tw).walkReqs = r :: rs →
          let same (q : WalkReq) : Bool := decide (q.asid = r.asid) && decide (q.page = r.page)
          ((s.tower tw).walks < 16 → exec (.translationWalk tw) s = .next ((s.serveWalk tw ((s.tower tw).walkReqs.filter same)).onTower tw fun x => { x with
              walkReqs := x.walkReqs.filter fun q => !same q }).tick)
            ∧ (16 ≤ (s.tower tw).walks → exec (.translationWalk tw) s = .next s)
            ∧ (let w := s.translate tw r.asid r.page r.acc
               s.serveWalk tw [r] = w.1.onTower tw fun x => { x with walkAns := x.walkAns ++ [⟨r, x.gen, w.2.1, w.2.2⟩] }))
        ∧ (∀ e a p acc, s.asidUsable a = true → (s.tower tw).trans.find? (fun x => x.serves a p && (!acc.writes || x.leaf.d)) = some e →
            s.translate tw a p acc = (s, if e.leaf.allows acc then .leaf e.leaf else .fault .perm (w64 (p * 65536)), false))
        ∧ (∀ a as_ l, (s.tower tw).walkAns = a :: as_ → a.gen = (s.tower tw).gen → a.req.cell < 256 → a.res = .leaf l →
            exec (.permissionEntryArrival tw) s = .next ((s.onTower tw fun x => { x with walkAns := as_ }).onTower tw fun x => { x with
              perms := permInstall x.perms ⟨a.req.cell, l.tag a.req.asid, (if l.large then a.req.page / 1024 * 1024 else a.req.page), l⟩
              permNotes := x.permNotes.filter fun b => !(decide (b.req.cell = a.req.cell) && decide (b.req.asid = a.req.asid)
                && decide ((if l.large then a.req.page / 1024 * 1024 else a.req.page) ≤ b.req.page)
                && decide (b.req.page < (if l.large then a.req.page / 1024 * 1024 else a.req.page) + if l.large then 1024 else 1)) }).tick)
        ∧ (∀ a as_, (s.tower tw).walkAns = a :: as_ → a.gen = (s.tower tw).gen → 256 ≤ a.req.cell →
            exec (.permissionEntryArrival tw) s = .next (s.onTower tw fun x => { x with walkAns := as_ }).tick)
        ∧ (∀ a as_ k va, (s.tower tw).walkAns = a :: as_ → a.gen = (s.tower tw).gen → a.req.cell < 256 → a.res = .fault k va → a.req.acc ≠ .store →
            exec (.permissionEntryArrival tw) s = .next ((s.onTower tw fun x => { x with walkAns := as_ }).onTower tw fun x => { x with permNotes := x.permNotes ++ [a] }).tick)
        ∧ (∀ a as_ k va, (s.tower tw).walkAns = a :: as_ → a.gen = (s.tower tw).gen → a.req.cell < 256 → a.res = .fault k va → a.req.acc = .store →
            exec (.permissionEntryArrival tw) s = .next ((s.onTower tw fun x => { x with walkAns := as_ }).storeFault tw a.req k).tick)
        ∧ (∀ a as_, (s.tower tw).walkAns = a :: as_ → a.gen ≠ (s.tower tw).gen → exec (.permissionEntryArrival tw) s = .next ((s.onTower tw fun x => { x with walkAns := as_ }).onTower tw
            fun x => { x with walkReqs := if x.walkReqs.contains a.req then x.walkReqs else x.walkReqs ++ [a.req] }).tick)
        ∧ (∀ x, s.ctx? n = some x →
            let ready := (List.range x.pend.length).filter fun i => s.storeReady x i
            ((s.askStores x).moves ≠ s.moves → exec (.homeSliceStore n) s = .next (s.askStores x))
              ∧ ((s.askStores x).moves = s.moves → ready = [] → exec (.homeSliceStore n) s = .next s)
              ∧ ∀ i p l rel many, (s.askStores x).moves = s.moves → s.choose 1 ready = some i → x.pend[i]? = some p → p.what = .store l rel many →
                  p.st = .waiting
                    ∧ (∀ k, s.pendPerm x p l = .bad k → l.va.toNat < scratchBase → exec (.homeSliceStore n) s = .next (s.lateFault x p l k).tick)
                    ∧ ∀ y : Leaf, s.pendPerm x p l = .ok y → (y.far = false ∨ l.va.toNat % 64 + l.data.length ≤ 64) →
                        let pa := y.pa l.va
                        let gone := s.subjunctive y p.hyp && s.discards (s.hypFinal p.hyp)
                        (gone = false → s.live pa = false → exec (.homeSliceStore n) s = .next (s.lateFault x p l .notlive).tick)
                          ∧ (gone = false → s.live pa = true → s.openAt pa = false → exec (.homeSliceStore n) s = .next (s.lateFault x p l .perm).tick)
                          ∧ (s.subjunctive y p.hyp = false → s.live pa = true → s.openAt pa = true → s.mergeBad pa l.data.length = true →
                              exec (.homeSliceStore n) s = .next ((s.eccEntry pa).lateFault x p l .eccunc).tick)
                          ∧ (∀ k t, s.releasing rel x.recA x.asid (fun z => z.leafWrite x.asid y l.va l.data p.hyp (some x.recA)) = .bad k t →
                              exec (.homeSliceStore n) s = .next (t.lateFault x p l k).tick)
                          ∧ ∀ t, s.memOk → s.releasing rel x.recA x.asid (fun z => z.leafWrite x.asid y l.va l.data p.hyp (some x.recA)) = .ok t → ∃ u, exec (.homeSliceStore n) s = .next u
                              ∧ (∃ c ∈ u.ctxs, c.id = x.id ∧ c.pend[i]? = some { p with what := p.what.through y, st := .applied })
                              ∧ (∀ a, a < pa ∨ pa + l.data.length ≤ a → Memory.get u.mem a = Memory.get s.mem a)
                              ∧ (s.subjunctive y p.hyp = true → u.mem = s.mem)
                              ∧ (s.subjunctive y p.hyp = false → (y.far = true ∨ ∀ off, paKind pa ≠ .device off) → Memory.getN u.mem pa l.data.length = l.data))
        ∧ (∀ (x : Ctx) p, s.ctx? n = some x → x.pend.find? (fun p => decide (p.st = .applied)) = some p →
            (s.ackWaits x p = [] → exec (.storeAck n) s = .next ((s.onCtx n fun y => { y with pend := y.pend.erase p }).settle n).tick)
              ∧ (∀ l z zs y, p.lines x.asid = some l → s.ackWaits x p = z :: zs →
                  s.choose 21 ((z :: zs).filter fun w => s.forwardable w l) = some y → exec (.storeAck n) s = .next (s.forward y.id l).tick)
              ∧ (∀ l z zs, p.lines x.asid = some l → s.ackWaits x p = z :: zs → s.choose 21 ((z :: zs).filter fun w => s.forwardable w l) = none →
                  (s.lostSince + s.us 50 ≤ s.time → p.since + s.us 50 ≤ s.time → exec (.storeAck n) s = .next
                      ((linesOf l.2.1 l.2.2).foldl (fun u k => u.raiseLost (s.homeSlice l.1 k / 64)) (s.markSharers (s.cutSharers x p))).tick)
                    ∧ (s.time < s.lostSince + s.us 50 → exec (.storeAck n) s = .next s)))
        ∧ (slice < 384 → ((s.tower (slice / 64)).filterAt[slice % 64]?).getD 0 + 16000 ≤ s.time →
            exec (.filterBankClear slice) s = .next (s.onTower (slice / 64) fun t => { t with
              filterOld := (t.filterOld.filter fun b => !decide (b.1 = slice % 64)) ++ t.filterNew.filter fun b => decide (b.1 = slice % 64)
              filterNew := t.filterNew.filter fun b => !decide (b.1 = slice % 64)
              filterAt := t.filterAt.set (slice % 64) s.time }).tick)
        ∧ (s.time % 250 = 0 → exec .refreshWindow s = .next s.tick) ∧ (s.time % 250 ≠ 0 → exec .refreshWindow s = .next s)
        ∧ (∀ t k host, s.isFar pa = false → paKind pa = .hbm t ∨ paKind pa = .weight t k → s.forwardAt pa = none → s.physBad pa bs.length = none → exec (.physicalWrite host pa bs) s = .next (s.physPut pa bs).tick)
        ∧ (∀ t k, s.isFar pa = false → paKind pa = .hbm t ∨ paKind pa = .weight t k → s.forwardAt pa = none → s.openAt pa = true →
            s.physBad pa bs.length = some .notlive → ∀ host, exec (.physicalWrite host pa bs) s = .next s)
        ∧ (∀ t k host, s.isFar pa = false → paKind pa = .hbm t ∨ paKind pa = .weight t k → s.forwardAt pa = none → s.physBad pa bs.length = some .eccunc →
            exec (.physicalWrite host pa bs) s = .next ((s.physPut pa bs).eccEntry pa).tick)
        ∧ (∀ t k, s.isFar pa = false → paKind pa = .hbm t ∨ paKind pa = .weight t k → s.forwardAt pa = none → s.openAt pa = false →
            exec (.physicalWrite true pa bs) s =
              .next (({ s with outbox := s.outbox ++ [.hostPoisoned pa] } : State).fqMachine ((paTower pa).getD 0) Kind.perm.code 0 0).tick)
        ∧ (∀ t k tw f host, s.isFar pa = false → paKind pa = .hbm t ∨ paKind pa = .weight t k → s.forwardAt pa = some (tw, f) →
            exec (.physicalWrite host pa bs) s = .next (s.forwardTo tw f s.self pa (.store bs)).tick)
        ∧ (∀ off, s.isFar pa = false → paKind pa = .device off → exec (.physicalWrite true pa bs) s = .next (s.hostDevWrite pa off bs).tick)
        ∧ (∀ off, 0x180000 ≤ off → s.hostDevWrite pa off bs = s.devWrite pa off bs)
        ∧ (∀ off, off < 0x180000 → s.hostDevWrite pa off bs = s.windowPut (off / 0x40000) (off / 0x1000 % 64) (off % 0x1000) bs)
        ∧ (∀ t k m, s.isFar pa = false → paKind pa = .hbm t ∨ paKind pa = .weight t k → 0 < m → m ≤ 4096 → s.forwardAt pa = none → s.live pa = true → s.badAt pa m = false →
            exec (.hostRead pa m) s = .next (((List.range ((pa + m + 63) / 64 - pa / 64)).map fun k => pa / 64 + k).foldl State.snoopAdd { s with
              outbox := s.outbox ++ [.hostData (s.paBytes pa m) false] }).tick)
        ∧ (∀ x : Shoot, s.shoots.find? (fun x => !x.finished) = some x → x.by_ = none →
            exec .shootdownComplete s = .next ({ ((s.shootAll x.form).shootCells x.form) with shoots := ((s.shootAll x.form).shootCells x.form).shoots.erase x } : State).tick))
    ∧ (∀ (s : State) (n h : Nat) (x : Ctx),
      (∀ y : Hyp, s.hyp? (BitVec.ofNat 12 h) = some y → y.st = .refuted → y.discarded = false → exec (.versionDiscardDone h) s = .next
          ((({ s with versions := s.versions.filter fun v => !decide (v.hyp = y.n) } : State).onHyp y.n fun z => { z with discarded := true }).hypSweep).tick)
        ∧ (∀ m iid ws, s.ctx? n = some x → s.waitedOn x (fun cell p => s.farAcc x cell p.1 p.2 .load) true = (m, iid) :: ws →
            exec (.farAccessTimeout n) s = .next (s.giveUp n m iid).tick)
        ∧ (∀ p l, s.ctx? n = some x → s.waitedOn x (fun cell p => s.farAcc x cell p.1 p.2 .load) true = [] →
            s.storeWaited x (fun _ l p => l.far && decide (p.since + s.us 50 ≤ s.time)) = some (p, l) → exec (.farAccessTimeout n) s = .next (s.lateFault x p l .linklost).tick)
        ∧ (∀ m iid ws, s.ctx? n = some x → s.lostSince + s.us 50 ≤ s.time → s.waitedOn x (fun cell p => s.cutAcc x cell p.1 p.2 .load) false = (m, iid) :: ws →
            exec (.unreachableHomeTimeout n) s = .next (s.giveUp n m iid).tick)
        ∧ (∀ y ys iid pr eff t since, s.ctx? n = some x → x.window = y :: ys → y.waits = [(iid, since)] → y.instrAt iid = some (.idle pr eff t) → iid ∉ y.fired →
            (let k := ((y.tok? iid .a).getD .null).bits.toNat
             let z : State := { s with focus := ⟨n, 0, iid, false⟩ }
             k ≠ 0 → since + k * 1000 ≤ s.time → exec (.idleTimeout n) s = exec (.idle pr eff t) z
               ∧ (∀ v, Acts z (.idle pr eff t) v → v.a.bits.toNat = k → k < 2 ^ 32 →
                   z.idleBits x k since ≠ 0 ∧ exec (.idleTimeout n) s = .next (z.fired (((z.onInst fun y => y.waitedOut iid s.time).effect (.idle pr eff t) .done).deliverS
                     (.idle pr eff t) (w64 (z.idleBits x k since))))))))

/-- The engines by themselves: a node performs its next command, a filling tile becomes ready and a draining one empty or ready, a command without progress faults late with STALL, a streamer starts and completes, a view tile is built and published, a load is placed, and finishes, a bubble goes through a node, a head token past the age limit faults the load, nodes are saved and restored (12 R257, R258, R260; 13 R276, R284, R289, R294, R297; 14 R306, R313, R316, R321, R323; 18 R375, R376, R380). A node whose head tokens hold a bubble discards its instance, takes a token from every port it pops and gives a bubble to every port it pushes, and counts an iteration (14 R313); the stated ports are those of its clause. The model's choices: the record of a streamer's stall lists the whole command (log 70), the nodes of a killed task are dropped (log 74), tiles that a fault had caught are settled at the restore (log 76), and the saved node of a task that has ended with commands left takes a free M-node (log 111). -/
def Obligations.EngineEvents : Prop :=
  (∀ (s : State) (tw n k : Nat),
      (∀ m u, s.mnodes.find? (fun m => decide (m.tower = tw) && decide (m.n = n)) = some m →
          (m.restoring = false → m.next.findSome? (fun q => s.tryCmd m q) = some u → exec (.matrixCommandPerformed tw n) s = .next u.hypSweep.tick)
            ∧ (tState (m.tile k) = 1 → s.tileBusy m k = false → exec (.tileFillDone tw n k) s = .next (s.setNode (m.setState k 2)).tick)
            ∧ (tState (m.tile k) = 3 → s.tileBusy m k = false → k ∉ m.freeing → exec (.tileDrainDone tw n k) s = .next (s.setNode (m.setState k 2)).tick)
            ∧ (tState (m.tile k) = 3 → s.tileBusy m k = false → k ∈ m.freeing →
                exec (.tileDrainDone tw n k) s = .next (s.setNode { (m.setState k 0) with freeing := m.freeing.filter fun t => !decide (t = k) }).tick)
            ∧ (tState (m.tile k) ≠ 1 → exec (.tileFillDone tw n k) s = .next s)
            ∧ (∀ q, s.stalledCmd m = some q → s.pauses q.org = false → exec (.commandStall (.node tw n)) s = .next (s.matrixFault m q .stall 0 0).tick))
        ∧ (∀ q, s.scmds.find? (fun q => decide (q.id = n)) = some q → q.unfinished = true → s.queueBehind q = false → s.scmdWaits q = false →
            s.pauses q.org = false → q.progress + s.stallLimit q.org.asid ≤ s.time → exec (.commandStall (.streamer n)) s = .next (s.scmdFault q .stall 0 0 (2 ^ 48) none 0).tick)
        ∧ ((∀ l ∈ s.loads, ∀ f ∈ l.streams, f.id ≠ n) → exec (.streamerCommandStart n) s = .next (s.startScmd n))
        ∧ (∀ q, s.scmds.find? (fun q => decide (q.id = n)) = some q → q.st = .running → q.repairs = [] → q.redo = [] →
            (q.job .mem .mem).total ≤ q.next → q.disc = none →
            exec (.streamerCommandComplete n) s = .next (if q.descs.2.kind = 1 then s.onScmd n fun x => { x with st := .complete } else (s.onScmd n fun x => { x with st := .complete }).hypSweep).tick)
        ∧ (∀ (b : Build) m v u bss, s.builds.find? (fun b => decide (b.tower = tw) && b.made.isNone && b.failed.isNone) = some b →
            s.masters.find? (fun m => decide (m.tower = tw) && decide (m.slot = b.slot)) = some m → m.views.find? (fun v => decide (v.idx = b.view)) = some v →
            s.snapshot m b.tile (List.range 64) = (u, .ok bss) → (nanFails v.vfmt = false ∨ firstNan (bss.map m.values) = none) →
            exec (.viewBuild tw) s = .next (State.tick { u with builds := u.builds.map fun x =>
              if x = b then { x with made := some (v.encode m b.tile (bss.map m.values), (m.epochs[b.tile]?).getD 0) } else x }))
        ∧ (let out (b : Build) : Bool := !s.recq.any fun r => decide (r.src = 4) &&
              decide (r.idx = BitVec.ofNat 32 b.tile) && decide (bitsOf r.ticket 0 13 = b.view + b.slot * 16 + b.tower * 1024)
           let first (b : Build) : Bool := (s.builds.takeWhile fun x => !decide (x = b)).all fun x =>
              !(decide (x.tower = b.tower) && decide (x.slot = b.slot) && decide (x.tile = b.tile) && decide (x.view = b.view))
           ∀ (b : Build) m v rows ep u, s.builds.find? (fun b => decide (b.tower = tw) && (b.made.isSome || (b.failed.isSome && out b)) && first b) = some b →
            s.masters.find? (fun m => decide (m.tower = tw) && decide (m.slot = b.slot)) = some m → m.views.find? (fun v => decide (v.idx = b.view)) = some v →
            let set (t : State) (bad : Bool) : State :=
              let u := t.onMaster tw b.slot fun m => m.onView b.view fun v => { v with tiles := v.tiles.modify b.tile fun x => { x with epoch := some ep, faulted := bad } }
              State.tick { u with builds := u.builds.filter fun x => !decide (x = b) }
            (b.failed = none → b.made = some (rows, ep) → (m.epochs[b.tile]?).getD 0 = ep → s.viewPuts m.asid rows = (u, none) →
                exec (.viewPublish tw) s = .next (set u false))
              ∧ (b.failed = some (ep, rows) → exec (.viewPublish tw) s = .next (set (s.viewPuts m.asid rows).1 true)))
        ∧ (∀ l u pr eff t w, s.load? tw k = some l → l.st = .configuring → s.regionClear l = true → l.waiter = some w → s.focusOn w.1 w.2.1 w.2.2 = some (u, .pload pr eff t) →
            let z := (({ u with mnodes := u.mnodes ++ u.freshNodes l } : State).loadTo tw k .loaded).tick
            exec (.fabricConfigure tw k) s = exec (.pload pr eff t) z
              ∧ (∀ l' v, z.waitingLoad = some l' → l'.st ≠ .configuring → Acts z (.pload pr eff t) v →
                  exec (.fabricConfigure tw k) s = .next (z.fired ((((z.onLoad l'.tower l'.slot fun x => { x with waiter := none }).performed eff).effect
                    (.pload pr eff t) .done).deliverS (.pload pr eff t) l'.handle))))
        ∧ (∀ l u pr eff t w a y, s.load? tw k = some l → l.st = .configuring → s.regionClear l = true → l.waiter = some w → l.area = some a →
            s.focusOn w.1 w.2.1 w.2.2 = some (u, .prest pr eff t) →
            let z : State := { u with mnodes := u.mnodes ++ u.freshNodes l }
            z.restoreLoad l (z.savedAt l.asid (some a)) a = some y → exec (.fabricConfigure tw k) s = exec (.prest pr eff t) (y.statusWrite tw k).tick)
        ∧ (∀ l, s.load? tw k = some l → l.st ≠ .configuring → exec (.fabricConfigure tw k) s = .next s)
        ∧ (∀ l e a, s.load? tw k = some l → l.st = .running → l.edges[n]? = some e → e.headAt = some a → a + s.ageLimit l ≤ s.time →
            exec (.edgeAgeLimit tw k n) s = .next (s.record6 l e.cnode .stall (((l.cells[e.cnode]?).map fun c => c.addr).getD 0) 0 0 n e.cnode).tick)
        ∧ (∀ l, s.load? tw k = some l → l.st = .running → l.stopAsked = false → (∀ c ∈ s.ctxs, c.loadRef = some (tw, k) → c.retired = true ∧ c.hasStores = false) →
            (∀ f ∈ l.streams, f.ended = true) → (∀ m ∈ s.mnodes, m.tower = tw → (∀ i, m.owner ≠ .load k i) ∨ ((∀ q ∈ m.queue, 16 ≤ q.xop) ∧ s.drained m = true)) →
            exec (.loadFinish tw k) s = .next (s.loadTo tw k .finished).tick)
        ∧ (∀ l, s.load? tw k = some l → l.st = .faulted → l.statusDue = true → (∀ m ∈ s.mnodes, m.tower = tw → (∀ i, m.owner ≠ .load k i) ∨ s.performedAll m = true) →
            (∀ c ∈ s.ctxs, c.loadRef = some (tw, k) → c.engineHeld = false ∨ s.quiet c = true) →
            exec (.loadFinish tw k) s = .next ((s.onLoad tw k fun x => { x with statusDue := false }).statusWrite tw k).tick)
        ∧ (∀ m, s.granted? tw n = some m → m.leaving = some none → m.quiet = true → m.away = false → s.streams m = false → exec (.nodeSave tw n) s = .next (s.freeNode m).tick)
        ∧ (∀ m save key idx, s.granted? tw n = some m → m.leaving = some (some save) → m.owner = .task key idx → m.restoring = true →
            (m.quiet = true → exec (.nodeSave tw n) s = .next (s.freeNode m).tick) ∧ (m.quiet = false → exec (.nodeSave tw n) s = .next s))
        ∧ (∀ m save key idx u, s.granted? tw n = some m → m.leaving = some (some save) → m.owner = .task key idx → m.restoring = false → s.nodeStill m = true →
            s.vwriteAll key.asid (nodeArea save idx) m.image = (u, none) → exec (.nodeSave tw n) s = .next (u.freeNode m).tick)
        ∧ (∀ m key idx area u x, s.granted? tw n = some m → m.owner = .task key idx → m.area = some area → m.restoring = true → m.away = false →
            m.leaving = none ∨ m.quiet = false ∨ s.streams m = true → s.readNode key.asid area m = (u, .ok x) →
            exec (.nodeRestore tw n) s = .next (u.setNode { (u.settleTiles x) with restoring := false }).tick)
        ∧ (∀ m key idx area c u kd va, s.granted? tw n = some m → m.owner = .task key idx → m.area = some area → m.restoring = true → m.away = false →
            m.leaving = none → s.readNode key.asid area m = (u, .error (kd, va)) → u.ctxOf? key = some c → (∀ x ∈ u.lates, x.1 ≠ key) →
            exec (.nodeRestore tw n) s = .next ({ u with lates := u.lates ++ [(key, (⟨c.lateSeq, kd, 2, va, true⟩ : Late))] } : State).tick)
        ∧ (∀ m key idx f, s.granted? tw n = some m → m.owner = .task key idx → m.away = true → m.leaving ≠ none →
            (nodeOrder 0 1).find? (fun j => s.nodeUsable m.tower 1 j && (s.granted? m.tower j).isNone) = some f →
            exec (.nodeRestore tw n) s = .next ({ s with mnodes := (s.mnodes.filter fun y => !(decide (y.tower = m.tower) && decide (y.n = m.n))) ++ [{ MNode.fresh m.tower f m.owner 0 with
              gen := m.gen, queue := m.queue, freeing := m.freeing, leaving := some none, restoring := m.area.isSome, area := m.area }] } : State).tick))
    ∧ (∀ (s : State) (n : Nat) (x : Ctx) (slot k : Nat) (inst : Inst) (xs : List Inst) (l : Load) (f : FCell) (sq : BitVec 32),
      s.ctx? n = some x → x.kind = .node slot k → x.window = inst :: xs → s.load? x.tower slot = some l → l.cells[k]? = some f → l.st = .running → l.stopAsked = false →
      let head (p : Nat) : Option FTok := (s.edgeFor x.tower slot k p false).bind fun e => e.2.2.toks.head?
      let pops := sortBy (fun a b => decide (a ≤ b)) f.pops
      (∀ p ∈ pops, (head p).isSome = true) →
      (∀ p ∈ f.pushes, ∃ e, s.edgeFor x.tower slot k p true = some e ∧ e.2.2.toks.length < e.2.2.depth) →
      (pops.findSome? fun p => (head p).bind fun t => if t.tag = .bubble then some t.seq else none) = some sq →
      ∃ t, exec (.bubbleIteration n) s = .next (t.onCtx n fun y => { y with window := [], iter := y.iter + 1 }).tick
        ∧ t = f.pushes.foldl (fun u p => match u.edgeFor x.tower slot k p true with
            | some (_, i, _) => u.onLoad x.tower slot fun l => l.onEdge i fun e => e.push ⟨.bubble, 0, sq⟩ u.time
            | none => u)
          (pops.foldl (fun u p => match u.edgeFor x.tower slot k p false with
            | some (_, i, _) => u.onLoad x.tower slot fun l => l.onEdge i fun e => e.pop u.time
            | none => u) (s.release inst)))

/-- Records and links: a held fault-queue entry is written at base + 256 x (head mod 2^n) and head advances, but not while FQBASE is zero or the queue is full; a record that is due is written; a link loses a spare of a direction, or has half its lanes, is lost and comes back (which number names which lane is the model's, log 19); 50 us after a loss that cuts towers off the sharers that cannot be reached are marked and every tower reports LINKLOST; that a tower reports its own mask, also one that others cut off, is the model's choice (log 69), as is what a migration moves to and from this package (log 25); a far request is served on the frame it names, or goes on where the page has migrated, and a home package may send a page (17 R337 to R339; 20 R387 to R390, R399, R400). -/
def Obligations.RecordAndLinkEvents : Prop :=
  ∀ (s : State) (tw n src pa : Nat) (op : FarOp),
    (∀ e es c u, (s.tower tw).fqHeld = e :: es → s.supervisor? tw = some c → (s.tower tw).fqBase ≠ 0 → ((s.tower tw).fqHead - (s.tower tw).fqTail).toNat < 2 ^ (s.tower tw).fqN →
        s.vwrite c.asid ((s.tower tw).fqBase + w64 (256 * ((s.tower tw).fqHead.toNat % 2 ^ (s.tower tw).fqN))) (e.bytes tw) = (u, none) →
        exec (.faultQueueWrite tw) s = .next (u.onTower tw fun w => { w with fqHeld := es, fqHead := w.fqHead + 1 }).tick)
      ∧ ((s.tower tw).fqBase = 0 ∨ ((s.tower tw).fqHead - (s.tower tw).fqTail).toNat = 2 ^ (s.tower tw).fqN → exec (.faultQueueWrite tw) s = .next s)
      ∧ (∀ e : FqEntry, (e.bytes tw).length = 256 ∨ 128 < e.body.length)
      ∧ (∀ x r, s.ctx? n = some x → s.recq.find? x.ownsRec = some r → exec (.afterimageRecordWrite n) s = .next (s.recordOut r))
      ∧ (∀ x, s.ctx? n = some x → s.recq.find? x.ownsRec = none → exec (.afterimageRecordWrite n) s = .next s)
      ∧ (∀ l, s.links[n]? = some l →
          (l.lostAt = none → exec (.flitRetry n) s = .next ({ s with flitRetries := s.flitRetries + 1 } : State).tick)
            ∧ (l.lostAt = none → exec (.linkLoss n) s = .next (s.onLink n fun x => { x with lostAt := some s.time, served := false }).tick)
            ∧ (∀ a, l.lostAt = some a → exec (.linkLoss n) s = .next s ∧ exec (.flitRetry n) s = .next s)
            ∧ (∀ a t, l.lostAt = some a → l.served = false → a + s.us 50 ≤ s.time → t < 6 → s.cutMask t ≠ 0 →
                exec (.coherenceLossTimeout n) s =
                  .next (((List.range 6).foldl (fun u t => u.fqMachine t Kind.linklost.code 0 (BitVec.ofNat 32 (n + s.cutMask t * 256)))
                    (s.markSharers (s.ctxs.flatMap fun c => c.pend.flatMap (s.cutSharers c)))).onLink n fun x => { x with served := true }).tick)
            ∧ (∀ a, l.lostAt = some a → s.time < a + s.us 50 → exec (.coherenceLossTimeout n) s = .next s)
            ∧ (∀ a, l.lostAt = some a →
                let u := s.onLink n fun x => { x with lostAt := none, served := false }
                exec (.linkReconnect n) s = .next ((List.range 6).foldl (fun w t => if u.cutMask t = s.cutMask t then w else w.purge t) u).tick))
      ∧ (∀ l back, n < 14 → back = decide (7 ≤ n) → s.links[n % 7]? = some l → l.lostAt = none →
          (0 < l.left back ∨ l.half = false → exec (.laneRetrain n) s = .next (s.onLink (n % 7) fun x => x.retrain back s.time).tick)
            ∧ (l.left back = 0 → l.half = true → exec (.laneRetrain n) s = .next s)
            ∧ (0 < l.left back → (l.retrain back s.time).left back = l.left back - 1 ∧ (l.retrain back s.time).left (!back) = l.left (!back) ∧ (l.retrain back s.time).half = l.half)
            ∧ (l.left back = 0 → (l.retrain back s.time).half = true))
      ∧ ((∀ asid page bytes, op ≠ .takePage asid page bytes) → s.isFar pa = false → paKind pa ≠ .hole →
          (s.forwardAt pa = none → exec (.farRequest src pa op) s = .next ((s.farCount src pa).farServe src pa op).tick)
            ∧ (∀ t f, s.forwardAt pa = some (t, f) → exec (.farRequest src pa op) s = .next (s.forwardTo t f src pa op).tick))
      ∧ (∀ asid page bytes, s.isFar pa = true → exec (.farRequest src pa (.takePage asid page bytes)) s = .next (s.takePage src pa asid page bytes).tick)
      ∧ (∀ m, s.live pa = true → s.badAt pa m = false → (s.farServe src pa (.load m)).outbox = s.outbox ++ [.farReply src (.ok (s.paBytes pa m))])
      ∧ (∀ m, s.live pa = false → (s.farServe src pa (.load m)).outbox = s.outbox ++ [.farReply src (.error .notlive)])

/-- Host and gangs: a routing entry, a window's registers and its SUBMIT, CHEAD and error count are written in arrival order, a completion goes to the host's queue while it has room, after 1 ms the pages that one package alone has reached thr times are proposed and each migrates, is skipped, stays, or is abandoned as its leaf, the bound and the open choices of package D say, an old frame goes to MIGPOOL 10 ms after its last access; a gang places its members from its start on, its leader takes a READY, the members start, a late gang is told, an aborted one drops its members; a checkpoint ends, a restore with the memory of its image, and either waits for the updates asked for before it. The model's choices: on a package that does not lead, GO, ABORT and the grace event are the arrival of the leader's message, and members are placed one by one and frozen (log 77); the 1 ms and 10 ms are not stretched (log 84); whether and where package D takes a page (log 25) (20 R392, R395 to R404). -/
def Obligations.HostAndGangEvents : Prop :=
  ∀ (s : State) (tw win off n p : Nat) (v : Word) (x : BitVec 32) (bs : List (BitVec 8)),
    exec (.routingTableWrite n v) s = .next (s.routeWrite n v).tick
      ∧ (tw < 6 → win < 64 → exec (.submitWrite tw win bs) s = .next (s.windowPut tw win 0 bs).tick ∧ exec (.cheadWrite tw win x) s = .next (s.windowPut tw win 0x70 (natToBytes 8 x.toNat)).tick
          ∧ exec (.werrWrite tw win) s = .next (s.windowPut tw win 0x78 (natToBytes 8 0)).tick)
      ∧ (tw < 6 → win < 64 → off ∈ [0x40, 0x48, 0x50, 0x58] → exec (.submissionWindowWrite tw win off v) s = .next (s.windowPut tw win off (natToBytes 8 v.toNat)).tick)
      ∧ (6 ≤ tw → exec (.submitWrite tw win bs) s = .next s)
      ∧ (∀ w : Window, (w.put 0x70 v).chead = v.setWidth 32 ∧ (w.put 0x78 v).werr = 0 ∧ (w.put 0x40 v).asid = v.setWidth 16 ∧ (w.put 0x40 v).en = v.getLsbD 16 ∧ (w.put 0x58 v).vec = v.setWidth 11)
      ∧ (let w := s.window tw win
         ∀ rec_ code cval rest, w.comps = (rec_, code, cval) :: rest → (w.ctail - w.chead).toNat < 2 ^ w.cn →
          exec (.hostCompletion tw win) s = .next (State.tick { (s.onWindow tw win fun y => { y with comps := rest, ctail := y.ctail + 1 }) with
            outbox := (s.onWindow tw win fun y => { y with comps := rest, ctail := y.ctail + 1 }).outbox ++ [.hostWrite (w.cq.toNat + 16 * (w.ctail.toNat % 2 ^ w.cn)) (w.completion rec_ code cval)]
              ++ (if w.irq then [.msix w.vec] else []) }))
      ∧ (2 ^ (s.window tw win).cn ≤ ((s.window tw win).ctail - (s.window tw win).chead).toNat → exec (.hostCompletion tw win) s = .next s)
      ∧ (tw < 6 → (s.tower tw).hotAt + 1000000 ≤ s.time →
          let t := s.tower tw
          let u := s.onTower tw fun w => { w with hot := [], hotAt := s.time }
          (t.migEn = false ∨ t.migThr = 0 → exec (.hotPageWindow tw) s = .next u.tick)
            ∧ (t.migEn = true → t.migThr ≠ 0 → exec (.hotPageWindow tw) s = .next (State.tick
                (((t.hot.filter fun h => decide (t.migThr ≤ h.2.2) && t.hot.all fun g => !decide (g.1 = h.1) || decide (g.2.1 = h.2.1)).foldl
                  (fun (x : State) h => x.migrate tw h.1 h.2.1) u)))))
      ∧ (s.time < (s.tower tw).hotAt + 1000000 → exec (.hotPageWindow tw) s = .next s)
      ∧ (∀ frame src,
          let pa := s.self * 2 ^ 46 + frame * 65536 % 2 ^ 46
          (s.homeLeaf tw pa = none → s.migrate tw frame src = s.onTower tw fun w => { w with migAband := w.migAband + 1 })
            ∧ ∀ asid page ea (l : Leaf), s.homeLeaf tw pa = some (asid, page, ea, l) →
              (l.bit 9 = true → s.migrate tw frame src = s.onTower tw fun w => { w with migPskip := w.migPskip + 1 })
                ∧ (l.bit 9 = false → (s.tower tw).migBound ≤ s.migrations asid page → s.migrate tw frame src = s.onTower tw fun w => { w with migBskip := w.migBskip + 1 })
                ∧ (l.bit 9 = false → s.migrations asid page < (s.tower tw).migBound →
                    let stays := l.large || l.ws || l.m || l.vw || l.h || l.glob || decide (l.kind = 2)
                    (stays = true → s.migrate tw frame src = s)
                      ∧ (stays = false → (s.free 13).getLsbD 0 = true → s.migrate tw frame src = s.onTower tw fun w => { w with migAband := w.migAband + 1 })
                      ∧ (stays = false → (s.free 13).getLsbD 0 = false → ∃ target, tw < s.towers.length →
                          let m := (s.migrate tw frame src).tower tw
                          m.migDone = (s.tower tw).migDone + 1 ∧ m.migPskip = (s.tower tw).migPskip ∧ m.migBskip = (s.tower tw).migBskip ∧ m.migAband = (s.tower tw).migAband
                            ∧ m.forwards = (s.tower tw).forwards ++ [⟨pa / 65536, target, s.time⟩])))
      ∧ (∀ f, (s.tower tw).forwards.find? (fun f => decide (f.lastAt + 10000000 ≤ s.time)) = some f → (s.tower tw).migPool.getLsbD 0 = false →
          exec (.forwardExpiry tw) s = .next (s.onTower tw fun w => { w with migPool := w64 (3 + f.frame % 2 ^ 36 * 65536), forwards := w.forwards.erase f }).tick)
      ∧ (∀ g, s.gang? n = some g →
          (∀ m t, g.st = .armed → g.start ≤ s.time → s.dispatchHeld = false → s.gangNext g = some m → s.placeMember g m = some t → exec (.gangPlace n) s = .next t.tick)
            ∧ (g.st = .armed → g.start ≤ s.time → s.dispatchHeld = false → s.gangNext g = none → g.lead ≠ s.self →
                exec (.gangPlace n) s = .next (State.tick { ((s.onGang n fun x => { x with st := .placed }).gangStatus g 2) with
                  outbox := ((s.onGang n fun x => { x with st := .placed }).gangStatus g 2).outbox ++ [.gangReady n g.lead] }))
            ∧ (s.time < g.start → exec (.gangPlace n) s = .next s)
            ∧ (g.lead = s.self → g.pkgs.getLsbD p = true → p ≠ s.self → g.sent = none → p ∉ g.ready → exec (.gangReady n p) s = .next (s.takeReady n p).tick)
            ∧ (g.st = .placed → (g.lead = s.self → g.sent = some true) →
                exec (.gangGo n) s = .next ((((({ s with ctxs := s.ctxs.map fun c : Ctx => if g.placed c then { c with frozen := false } else c } : State).onTower g.tower fun t =>
                  { t with tasks := t.tasks.map fun x : TaskInfo => if x.gang = some n then { x with gang := none } else x }).onGang n fun x => { x with st := .running }).gangStatus g 4).tick))
            ∧ (g.late = false → g.sent = none → g.st = .armed ∨ g.st = .placed →
                let u := (s.onGang n fun x => { x with late := true }).gangStatus g 3
                (g.lead ≠ s.self → exec (.gangGraceExpiry n) s = .next u.tick)
                  ∧ (g.lead = s.self → s.time < g.start + g.grace * 1000 → exec (.gangGraceExpiry n) s = .next s)
                  ∧ (g.lead = s.self → g.start + g.grace * 1000 ≤ s.time → g.abort = false →
                      exec (.gangGraceExpiry n) s = .next ({ u with outbox := u.outbox ++ (s.otherPackages g).map fun p => .gangLate n p } : State).tick))
            ∧ (∀ b, g.sent = some b → (s.takeReady n p).outbox = s.outbox)
            ∧ (g.st = .armed ∨ g.st = .placed → (g.lead = s.self → g.sent = some false) →
                exec (.gangAbort n) s = .next (((g.members.foldl (fun u r => u.dropMember g r) s).onGang n fun x => { x with st := .aborted }).gangStatus g 5).tick))
      ∧ (∀ k img, s.ckptRun = some k → 0 < k.behind → s.fwAsked = true → ∀ b, exec (.checkpointDone b img) s = .next s)
      ∧ (∀ k img, s.ckptRun = some k → k.behind = 0 ∨ s.fwAsked = false → exec (.checkpointDone true img) s = .next (({ s with ckptRun := none } : State).putStatus k.tower k.asid k.status 4).tick)
      ∧ (∀ k img, s.ckptRun = some k → k.behind = 0 ∨ s.fwAsked = false → k.restore = true →
          let store (a : Nat) : Prop := s.isFar a = false ∧ ∃ t, paKind a = .hbm t ∨ ∃ r, paKind a = .weight t r
          let u : State := { s with
            ckptRun := none
            snoop := []
            outbox := s.outbox ++ s.snoop.map Out.backInvalidate
            mem := (img.filter fun b => decide (b.1 < 1158 * 2 ^ 30)).foldl (fun m b => Memory.set m (s.imagePa b.1) b.2) (s.mem.filter fun b => s.isFar b.1 || (match paKind b.1 with
              | .hbm _ => false
              | .weight _ _ => false
              | _ => true)) }
          exec (.checkpointDone false img) s = .next (u.putStatus k.tower k.asid k.status 2).tick
            ∧ (s.memOk → img = [] → (∀ a, store a → Memory.get u.mem a = 0) ∧ ∀ a, ¬store a → Memory.get u.mem a = Memory.get s.mem a))
      ∧ (∀ k img, s.ckptRun = some k → k.behind = 0 ∨ s.fwAsked = false → k.restore = false → exec (.checkpointDone false img) s = .next (State.tick
          (({ s with ckptRun := none, outbox := s.outbox ++ [.checkpoint k.port k.target s.image] } : State).putStatus k.tower k.asid k.status 2)))

/-- The mailbox commands: the oldest command is served, a reply stands in its buffer and its status; ATTEST answers with its report and a signature; EXTEND takes a digest into M8 to M15; FUSEADV counts up to 64; SETCAP takes 1500 to 4600 W in steps of 50; an update waits for a quiesce point and dispatch is held (21 R415; 23 R420, R422 to R425, R428; buffer layouts are the model's, log 24; that SETCAP puts the clock and the share at once where the cap allows, and how low, is its choice, log 26; the error status and the keys are free, logs 22 and 23). An update at a quiesce point is installed if its image is signed and not older than the fuse counter, else ends with an error status; dispatch goes on either way (23 R428). -/
def Obligations.MailboxCommands : Prop :=
  (∀ (s : State) (m : Nat), s.mboxQueue.head? = some m → s.fwWait = none →
      let cmd (k : Nat) : Prop := (s.mbox m).cmd.toNat = k
      let done (t : State) (i : Instr) : Prop := exec i s = .next t.tick
      (cmd 1 → let r := s.report (s.buffer m 32); done (s.mboxReply m (r ++ (Config.attestSignature r ++ List.replicate 384 0).take 384)) (.attest m))
        ∧ (cmd 2 → done (s.mboxReply m (hmac Config.sealKey ((s.buffer m 4096).take (Config.imageBytes (s.buffer m 4096))))) (.sealImage m))
        ∧ (cmd 3 → let x := (s.buffer m 4096).take (Config.imageBytes (s.buffer m 4096))
            done (s.mboxReply m (natToBytes 8 (Config.verdictWord (decide (32 ≤ x.length) && decide (hmac Config.sealKey (x.take (x.length - 32)) = x.drop (x.length - 32)))).toNat)) (.checkImage m))
        ∧ (cmd 4 → let v := bytesToNat (s.buffer m 8)
            (1500 ≤ v → v ≤ 4600 → v % 50 = 0 → s.throttling = false →
                done (({ s with cap := v, clock := capClock v, share := capShare v, capOverAt := if capShare v = 1 then some s.time else none } : State).mboxEnd m 1) (.setcap m))
              ∧ (v < 1500 ∨ 4600 < v ∨ v % 50 ≠ 0 → done (s.mboxEnd m s.errorStatus) (.setcap m)))
        ∧ (cmd 5 → (s.fuses < 64 → done (({ s with fuses := s.fuses + 1 } : State).mboxReply m (natToBytes 8 (s.fuses + 1))) (.fuseadv m))
            ∧ (64 ≤ s.fuses → done (s.mboxEnd m s.errorStatus) (.fuseadv m)))
        ∧ (cmd 6 → done { s with fwWait := some (m, bytesToNat (s.buffer m 8)) } (.fwupdate m))
        ∧ (cmd 7 → let r := bytesToNat (s.buffer m 8)
            (8 ≤ r → r ≤ 15 → done ((s.extend r ((s.buffer m 40).drop 8)).mboxEnd m 1) (.extend m)) ∧ (r < 8 ∨ 15 < r → done (s.mboxEnd m s.errorStatus) (.extend m)))
        ∧ (cmd 8 → let t : State := { s with corrected := s.corrected + (s.free 25).toNat % 2 ^ 32 }
            done (t.mboxReply m (([(s.free 16).toNat, (s.free 17).toNat, t.corrected, s.flitRetries, s.routeIgnored] : List Nat).flatMap fun x => natToBytes 8 x)) (.telemetry m))
        ∧ (¬cmd 5 → exec (.fuseadv m) s = .next s) ∧ 2 ≤ s.errorStatus.toNat
        ∧ (∀ bs st, (s.mboxReply m bs).mem = (s.pwrite (s.bufferPa m) bs).mem ∧ (m < s.mboxes.length → ((s.mboxEnd m st).mbox m).status = st) ∧ m ∉ (s.mboxEnd m st).mboxQueue)
        ∧ (∀ i d x, s.measures[i]? = some x → (s.extend i d).measures[i]? = some (BitVec.ofNat 256 (bytesToNat (sha256 (natToBytes 32 x.toNat ++ d))))))
    ∧ (∀ (s : State) (m pa : Nat), s.fwWait = some (m, pa) → (∀ k, s.ckptRun = some k → 0 < k.behind) → s.quiesced = true →
      let bytes := s.paBytes pa (Config.firmwareBytes (s.paBytes pa 64))
      let x : BootStage := ⟨bytes.take (Config.firmwareSplit bytes), bytes.drop (Config.firmwareSplit bytes), Config.firmwareVersion bytes⟩
      let u : State := { s with fwWait := none, ckptRun := s.ckptRun.map fun k => { k with behind := k.behind - 1 } }
      (Config.signatureOk x.image x.signature = true → s.fuses ≤ x.version → exec .fwupdateInstall s = .next ((u.extend 7 (sha256 x.image)).mboxEnd m 1).tick)
        ∧ (Config.signatureOk x.image x.signature = false ∨ x.version < s.fuses → exec .fwupdateInstall s = .next (u.mboxEnd m u.errorStatus).tick))
    ∧ (∀ (s : State) (k : Ckpt), s.ckptRun = some k → k.behind = 0 → exec .fwupdateInstall s = .next s)
    ∧ ∀ s : State, s.quiesced = false → exec .fwupdateInstall s = .next s

/-- Power, heat and repair: a throttle takes its steps down 100 us apart and up 1 ms apart, the clock between 1050 MHz and what the cap allows; a shutdown stops every clock; an overrun and a throttle write a class-3 entry; bad lines are marked once (an event number of 2^52 or more names a scratch word, of 2^53 or more a line of an L1: the model's, log 100), the scrub leaves a region that is not live alone, a failing cluster is granted no more and its tasks stop with ECCUNC, a slice goes at a quiesce point, rows and ports are noted; a package reset keeps the fuse counter and the number of the package, empties memory, and without a boot stage leaves the package in reset and both mailboxes at status 0x100. The model's choices: what a cap allows, 2100 MHz and the whole share at 4600 W (log 26), that the package's entries go to tower 0 (log 79), what a package reset keeps (log 80), how rows and slices are repaired (log 81), and that the 100 us and 1 ms of the steps are not stretched (log 84) (23 R420 to R422, R426, R427; 20 R393). -/
def Obligations.PowerAndRepair : Prop :=
  ∀ (s : State) (tw n pa lanes : Nat) (st : List BootStage),
    (∀ a, s.capOverAt = some a → a + 10000000 ≤ s.time → s.share = 1 → exec .capOverrun s = .next (({ s with capOverAt := some s.time } : State).fqMachine 0 0 0 2).tick)
      ∧ (s.throttling = false → exec .thermalThrottle s = .next (({ s with throttling := true, stepAt := s.time } : State).fqMachine 0 0 0 1).tick)
      ∧ (s.throttling = true → s.stepAt + 100000 ≤ s.time →
          (1050 < s.clock → exec .throttleStep s = .next ({ s with clock := s.clock - 50, stepAt := s.time } : State).tick)
            ∧ (s.clock ≤ 1050 → 1 < s.share → exec .throttleStep s = .next ({ s with share := s.share - 1, stepAt := s.time } : State).tick))
      ∧ (s.throttling = true → s.time < s.stepAt + 100000 → exec .throttleStep s = .next s)
      ∧ (s.throttling = true → s.stepAt + 1000000 ≤ s.time →
          (s.share < capShare s.cap → exec .throttleRecovery s = .next ({ s with share := s.share + 1, stepAt := s.time } : State).tick)
            ∧ (capShare s.cap ≤ s.share → s.clock < capClock s.cap → exec .throttleRecovery s = .next ({ s with clock := s.clock + 50, stepAt := s.time } : State).tick)
            ∧ (capShare s.cap ≤ s.share → capClock s.cap ≤ s.clock → exec .throttleRecovery s = .next ({ s with throttling := false, stepAt := s.time } : State).tick))
      ∧ (capClock 4600 = 2100 ∧ capShare 4600 = 8 ∧ ∀ k, 1050 ≤ capClock k ∧ capClock k ≤ 2100 ∧ 1 ≤ capShare k ∧ capShare k ≤ 8)
      ∧ exec .thermalShutdown s = .next ({ s with stopped := true } : State).tick
      ∧ (∀ t, s.isFar pa = false → paTower pa = some t → s.live pa = true → pa < 2 ^ 52 →
          (pa / 64 ∉ s.badLines → exec (.eccUncorrectable pa) s = .next ({ s with badLines := s.badLines ++ [pa / 64] } : State).tick
              ∧ exec (.patrolScrub pa true) s = .next (({ s with badLines := s.badLines ++ [pa / 64] } : State).eccEntry pa).tick)
            ∧ (pa / 64 ∈ s.badLines → exec (.eccUncorrectable pa) s = .next s ∧ exec (.patrolScrub pa false) s = .next (s.eccEntry pa).tick))
      ∧ (s.live pa = false → exec (.patrolScrub pa true) s = .next s)
      ∧ (2 ^ 53 ≤ pa → exec (.eccUncorrectable pa) s = .next (s.spoilL1 ((pa - 2 ^ 53) / 2 ^ 20) ((pa - 2 ^ 53) % 2 ^ 20)))
      ∧ (2 ^ 52 ≤ pa → pa < 2 ^ 53 → exec (.eccUncorrectable pa) s = .next (s.spoilScratch ((pa - 2 ^ 52) / 2 ^ 20) ((pa - 2 ^ 52) % 2 ^ 20)))
      ∧ (tw < 6 → n < 64 → n ∉ (s.tower tw).retiredClusters → exec (.clusterRetire tw n) s = .next (State.tick { (s.onTower tw fun t =>
          { t with retiredClusters := t.retiredClusters ++ [n] }) with ctxs := s.ctxs.map fun c : Ctx => if c.inCluster tw n then { c with eccStop := true } else c }))
      ∧ ((s.retireSlice n).retiredSlices = s.retiredSlices ++ [n] ∧ (s.retireSlice n).sliceWait = s.sliceWait.erase n ∧ (s.retireSlice n).mem = s.mem)
      ∧ (n < 384 → n ∉ s.retiredSlices → s.retiredSlices.length < 383 →
          (s.quiesced = true → exec (.l2SliceRetire n) s = .next (s.retireSlice n).tick)
            ∧ (s.quiesced = false → n ∉ s.sliceWait → exec (.l2SliceRetire n) s = .next ({ s with sliceWait := s.sliceWait ++ [n] } : State).tick))
      ∧ (n ∉ s.sparedRows → exec (.hbmRowSpare n) s = .next ({ s with sparedRows := s.sparedRows ++ [n] } : State).tick)
      ∧ (∀ k, s.cxlLanes[n]? = some k → lanes = 8 ∨ lanes = 4 → lanes < k → exec (.cxlPortDegrade n lanes) s = .next ({ s with cxlLanes := s.cxlLanes.set n lanes } : State).tick)
      ∧ (∃ t, exec (.packageReset st) s = .next t ∧ t.fuses = s.fuses ∧ t.self = s.self ∧ t.mem = [] ∧ (st = [] → t.inReset = true ∧ ∀ b ∈ t.mboxes, b.status = 0x100))

/-! ### Memory, frames, reset -/

/-- Memory: a byte written is read back and no other byte changes, bytes stand one after another, the lowest first in a number, writing keeps the canonical form, and two memories in that form that read alike are the same (00 R4; 01 R31; log 1). -/
def Obligations.MemoryLaws : Prop :=
  (∀ (m : List Host.Cell) (a b : Nat) (x : Byte), Memory.wf m = true →
      Memory.get (Memory.set m a x) a = x ∧ (a ≠ b → Memory.get (Memory.set m a x) b = Memory.get m b) ∧ Memory.wf (Memory.set m a x) = true)
    ∧ (∀ (m : List Host.Cell) (a n : Nat) (bs : List Byte), Memory.wf m = true →
      Memory.wf (Memory.setN m a bs) = true ∧ Memory.getN (Memory.setN m a bs) a bs.length = bs
        ∧ (∀ b, b < a ∨ a + bs.length ≤ b → Memory.get (Memory.setN m a bs) b = Memory.get m b)
        ∧ (Memory.getN m a n).length = n ∧ ∀ k < n, (Memory.getN m a n)[k]? = some (Memory.get m (a + k)))
    ∧ (∀ (n v : Nat), (natToBytes n v).length = n ∧ bytesToNat (natToBytes n v) = v % 256 ^ n ∧ ∀ k < n, (natToBytes n v)[k]? = some (BitVec.ofNat 8 (v / 256 ^ k)))
    ∧ (∀ m₁ m₂ : List Host.Cell, Memory.wf m₁ = true → Memory.wf m₂ = true → (∀ a, Memory.get m₁ a = Memory.get m₂ a) → m₁ = m₂)

/-- The frame of a firing: an instruction that computes a value or keeps an effect for its commit changes nothing but the focused clause as it fires; a branch or an end of a run, from which the predictor learns, a load, a store and a conversion that takes a draw also leave every committed register of every context and every byte of memory as they were (01 R18, R20, R25). -/
def Obligations.FiringFrame : Prop :=
  ∀ (s u : State) (r6 : BitVec 6) (d : Dst) (r4 : BitVec 4) (pr : Pred) (m16 : BitVec 16) (t : Tgt) (m10 : BitVec 10) (x2 : BitVec 2) (y : FTy) (b1 : Bool) (b2 : Bool) (x3 : BitVec 3) (m20 : BitVec 20) (sh : Shape) (vy : VTy) (vc : VCond) (vf : VFCond) (e : BitVec 5) (lv : PrefLevel) (sc : Scope) (ta : BitVec 5) (tb : BitVec 5) (q5 : BitVec 5) (z : FTy) (m9 : BitVec 9) (m18 : BitVec 18) (mz : MemSize),
    (∀ i ∈ ([.gread r6 d, .wread r4 d, .gwrite pr r6, .wwrite pr r4, .gens m16 t, .genu m16 t, .appc m16 t, .mov pr d, .movi pr m10 t, .nop pr,
        .null pr d, .add pr d, .sub pr d, .and pr d, .or pr d, .xor pr d, .shl pr d, .shr pr d, .sra pr d, .min pr d, .max pr d, .minu pr d,
        .maxu pr d, .addi pr m10 t, .subi pr m10 t, .andi pr m10 t, .ori pr m10 t, .xori pr m10 t, .shli pr m10 t, .shri pr m10 t, .srai pr m10 t,
        .mul pr d, .mulh pr d, .mulhu pr d, .div pr d, .divu pr d, .rem pr d, .remu pr d, .muli pr m10 t, .clz pr d, .ctz pr d, .popc pr d,
        .exts8 pr d, .exts16 pr d, .exts32 pr d, .extz8 pr d, .extz16 pr d, .extz32 pr d, .bfx pr d, .bfi pr d, .lea pr x2 d, .leai pr x2 m10 t,
        .teq pr d, .tne pr d, .tlt pr d, .tle pr d, .tltu pr d, .tleu pr d, .teqi pr m10 t, .tnei pr m10 t, .tlti pr m10 t, .tlei pr m10 t,
        .tltui pr m10 t, .tleui pr m10 t, .fadd pr y d, .fsub pr y d, .fmul pr y d, .fdiv pr y d, .fmin pr y d, .fmax pr y d, .fsqrt pr y d,
        .fsgn pr y d, .ffma pr y d, .ffms pr y d, .ffnma pr y d, .ffnms pr y d, .ftoi pr y b1 b2 d, .itof pr y b1 d, .feq pr y d, .flt pr y d,
        .fle pr y d, .fclass pr y d, .vadd pr sh d, .vsub pr sh d, .vmul pr sh d, .vmulh pr sh d,
        .vmin pr sh d, .vmax pr sh d, .vand pr sh d, .vor pr sh d, .vxor pr sh d, .vshl pr sh d, .vshr pr sh d, .vsra pr sh d, .vfadd pr vy d,
        .vfsub pr vy d, .vfmul pr vy d, .vfdiv pr vy d, .vfmin pr vy d, .vfmax pr vy d, .vfsqrt pr vy d, .vrcp pr vy d, .vrsq pr vy d,
        .vexp2 pr vy d, .vlog2 pr vy d, .vffma pr vy d, .vffms pr vy d, .vffnma pr vy d, .vffnms pr vy d, .vdqnt pr d, .vcmp pr sh vc d,
        .vfcmp pr vy vf d, .vsel pr sh d, .vbcast pr sh d, .vextr pr sh d, .vins pr sh d, .vshuf pr sh d, .vred pr d, .vscan pr d, .vdot pr d,
        .pref pr e b1 lv, .fenceAcq pr e sc, .fenceRel pr e sc, .fenceAcqrel pr e sc, .fenceSc pr e sc, .fenceEngine pr e sc, .tdep pr e,
        .trange pr e, .tprio pr e, .htset pr e, .inbox pr e b1 t, .henter pr e, .hleave pr e, .hstat pr e b1 t, .tdef pr e ta, .tload pr e ta,
        .tloadEdge pr e ta x3, .tstore pr e ta, .tstoreEdge pr e ta x3, .tfree pr e ta, .mma pr e ta tb, .mmai pr e ta tb, .maccrd pr e ta,
        .macclr pr e, .maccld pr e ta, .mew pr e ta, .mcopy pr e ta tb, .msplat pr e ta, .scopy pr e x2 t, .sgath pr e x2 t, .sscat pr e x2 t,
        .slayout pr e x2 t, .sfill pr e x2 t, .vwdrop pr e, .vwqry pr e b1 t, .vwpol pr e, .spush e q5, .spop e q5 t, .trap pr e, .rft pr e,
        .cread pr e q5 t, .cwrite pr e q5, .halt pr e, .dbgbrk pr e, .winwr pr e, .tresume pr e, .wsopen pr e, .wsclose pr e, .rdtime pr e t,
        .rdpmc pr e t] : List Instr), exec i s = .next u → OnlyFocus s u)
      ∧ (∀ i ∈ ([.bro pr x3 m20, .br pr, .callo pr x3 m20, .call pr, .ret pr, .exitt pr, .yield pr x3 m20, .scall pr x3 m20, .fcvt pr y z d, .vcvt pr d, .vqnt pr d, .ldZb pr e m9 t, .ldZh pr e m9 t,
        .ldZw pr e m9 t, .ldD pr e m9 t, .ldSb pr e m9 t, .ldSh pr e m9 t, .ldSw pr e m9 t, .ldacq pr e m9 t, .vld pr e m9 t, .vlds pr e sh t,
        .vgath pr e sh b1 x2 t, .stB pr e m18, .stH pr e m18, .stW pr e m18, .stD pr e m18, .strel pr e m18, .vst pr e m18, .vsts pr e sh,
        .vscat pr e sh b1 x2, .hldc pr e b1 b2 mz t, .waitv pr e b1 t, .barw pr e sc t] : List Instr), exec i s = .next u →
          (∀ a, Memory.get u.mem a = Memory.get s.mem a) ∧ ∀ c ∈ u.ctxs, ∃ b ∈ s.ctxs, c.id = b.id ∧ c.sameRegs b)
      ∧ (∀ a, OnlyFocus s u → Memory.get u.mem a = Memory.get s.mem a)

/-- Where a store of a page goes: the bytes written stand at the physical address of its leaf, every byte outside them reads as before, and the memory keeps its form; a version of a hypothesis leaves memory alone; an atomic reads and writes the bytes of its operand alone, and one on lens scratch none of memory (08 R186, R195; 09 R220, R228; 10 R236, R238). -/
def Obligations.StoreFrame : Prop :=
  (∀ (s t : State) (asid : BitVec 16) (l : Leaf) (va : Word) (bs : List Byte) (hyp : BitVec 12) (wr : Option Word), s.memOk → s.leafWrite asid l va bs hyp wr = .ok t →
    let pa := l.pa va
    t.memOk ∧ (∀ a, a < pa ∨ pa + bs.length ≤ a → Memory.get t.mem a = Memory.get s.mem a)
      ∧ (l.h = true → l.far = false → s.hypFinal hyp ≠ 0 → t.mem = s.mem)
      ∧ ((l.h = false ∨ l.far = true ∨ s.hypFinal hyp = 0) → (l.far = true ∨ ∀ off, paKind pa ≠ .device off) → Memory.getN t.mem pa bs.length = bs)
      ∧ ∀ d ∈ t.ctxs, ∃ b ∈ s.ctxs, d.id = b.id ∧ d.sameRegs b ∧ d.window = b.window ∧ d.pend = b.pend)
    ∧ ∀ (s t : State) (c : Ctx) (va : Word) (n old : Nat) (f : Nat → Option Nat), s.memOk →
        (∀ l : Leaf, s.rmwLeaf c l va n f = .done old t →
            t.memOk ∧ old = bytesToNat (s.paBytes (l.pa va) n) ∧ (∀ a, a < l.pa va ∨ l.pa va + n ≤ a → Memory.get t.mem a = Memory.get s.mem a)
              ∧ (f old = none → t.mem = s.mem) ∧ ∀ d ∈ t.ctxs, ∃ b ∈ s.ctxs, d.id = b.id ∧ d.sameRegs b)
          ∧ (s.rmwScratch c va n f = .done old t → t.mem = s.mem ∧ ∀ d ∈ t.ctxs, ∃ b ∈ s.ctxs, d.id = b.id ∧ d.sameRegs b)

/-- Reset: the package time is zero and memory empty, no context runs, no hypothesis but 0 is live, no address space is live, the fault queues have no room, the clock is 2100 MHz, the share whole and the cap 4600 W, the routing table of package 0 reaches itself alone, the measurement registers are zero, nothing is booted or throttled (17 R337, R350, R363; 20 R392; 23 R420, R422, R425; memory's contents are log 1's; that package 0's own entry is the one that is valid, with port and SELF 0, and that the share is whole and nothing throttles at reset are the model's choice, log 2). -/
def Obligations.Reset : Prop :=
  State.reset.memOk ∧ State.reset.mem = [] ∧ State.reset.time = 0 ∧ State.reset.ctxs = [] ∧ State.reset.hyps = [] ∧ State.reset.liveAsids = []
    ∧ (∀ tw < 6, (State.reset.tower tw).fqBase = 0 ∧ (State.reset.tower tw).fqHead = (State.reset.tower tw).fqTail ∧ (State.reset.tower tw).fqRoom = false)
    ∧ State.reset.clock = 2100 ∧ State.reset.share = 8 ∧ State.reset.cap = 4600 ∧ State.reset.throttling = false ∧ State.reset.inReset = false
    ∧ State.reset.routes = (List.replicate 64 0).set 0 1 ∧ State.reset.measures = List.replicate 16 0 ∧ State.reset.stopped = false ∧ (∀ a, Memory.get State.reset.mem a = 0)

/-- Every step that answers a next state keeps the memory in its canonical form: addresses strictly rising, no entry that equals what an unlisted address reads as (the invariant of the model's memory; log 1). -/
def Obligations.StepKeepsMemory : Prop := ∀ s t : State, s.memOk → step s = .next t → t.memOk

end
end

