-- ==== Sys2Proof/Laws/Firing.lean ====
section
/-! SUPPORT. Sys2Proof/Laws/Firing.lean: what the firing rule does, once for every instruction that goes through it (01 R15). -/

namespace Sys2Proof.Machine

-- One proof at a time: proofs checked side by side take each a stack of memory.
set_option Elab.async false

/-- A missing operand leaves everything as it is. -/
theorem fire_waits {s : State} {i : Instr} (h : Asks s i .waits) (act : Vals → State → Act) : fire s i act = .next s := by
  obtain ⟨x, h1, h2, h3, h4, h5⟩ := h
  simp [fire, h1, h2, h3, h4, h5]

/-- A null goes to the targets. -/
theorem fire_null {s : State} {i : Instr} (h : Asks s i .meetsNull) (act : Vals → State → Act) :
    fire s i act = .next (s.onInst fun y => (y.takeNull i).markFired s.focus.iid).tick := by
  obtain ⟨x, h1, h2, h3, h4, h5⟩ := h
  simp [fire, h1, h2, h3, h4, h5]

/-- A poison goes to the targets and the outputs. -/
theorem fire_poison {s : State} {i : Instr} {k : Kind} {o : BitVec 7} (h : Asks s i (.meetsPoison k o)) (act : Vals → State → Act) :
    fire s i act = .next (s.onInst fun y => (y.takePoison i k o).markFired s.focus.iid).tick := by
  obtain ⟨x, h1, h2, h3, h4, h5⟩ := h
  simp [fire, h1, h2, h3, h4, h5]

/-- A predicate that does not match: it fires without an action. -/
theorem fire_noMatch {s : State} {i : Instr} (h : Asks s i .noMatch) (act : Vals → State → Act) :
    fire s i act = .next (s.onInst fun y => y.markFired s.focus.iid).tick := by
  obtain ⟨x, h1, h2, h3, h4, h5⟩ := h
  simp [fire, h1, h2, h3, h4, h5]

/-- On operands the instruction acts. -/
theorem fire_acts {s : State} {i : Instr} {v : Vals} (h : Acts s i v) (act : Vals → State → Act) :
    fire s i act = match act v s with
      | .waits t => .next t
      | .fires t => .next (s.fired t) := by
  obtain ⟨x, h1, h2, h3, h4, h5⟩ := h
  simp only [fire, h1, h2, h4, h5]
  cases act v s <;> simp [State.fired, h1, h3]

/-- An action that fires. -/
theorem fire_fires {s t : State} {i : Instr} {v : Vals} (h : Acts s i v) {act : Vals → State → Act} (ha : act v s = .fires t) :
    fire s i act = .next (s.fired t) := by rw [fire_acts h, ha]

theorem fireS_acts {s : State} {i : Instr} {v : Vals} (h : Acts s i v) (f : Vals → Word) :
    fireS s i f = .next (s.fired (s.deliverS i (f v))) := fire_fires h rfl

theorem fireW_acts {s : State} {i : Instr} {v : Vals} (h : Acts s i v) (f : Vals → Wide) :
    fireW s i f = .next (s.fired (s.deliverW i (f v))) := fire_fires h rfl

theorem fireSF_acts {s : State} {i : Instr} {v : Vals} (h : Acts s i v) (f : Vals → Word × Flags) :
    fireSF s i f = .next (s.fired ((s.raise (f v).2).deliverS i (f v).1)) := fire_fires h rfl

theorem fireWF_acts {s : State} {i : Instr} {v : Vals} (h : Acts s i v) (f : Vals → Wide × Flags) :
    fireWF s i f = .next (s.fired ((s.raise (f v).2).deliverW i (f v).1)) := fire_fires h rfl

/-- From the meaning as a scalar computation to what it delivers. -/
theorem delivers {s : State} {i : Instr} {v : Vals} {f : Vals → Word} {P : Word → Prop} (h : Acts s i v) (he : exec i s = fireS s i f) (hp : P (f v)) :
    DeliversS s i P := ⟨f v, by unfold GivesS; rw [he]; exact fireS_acts h f, hp⟩

/-- From the meaning as a wide computation to what it delivers. -/
theorem deliversW {s : State} {i : Instr} {v : Vals} {f : Vals → Wide} {P : Wide → Prop} (h : Acts s i v) (he : exec i s = fireW s i f) (hp : P (f v)) :
    DeliversW s i P := ⟨f v, by unfold GivesW; rw [he]; exact fireW_acts h f, hp⟩

/-- What acts has its context and its clause in flight. -/
theorem Acts.finst {s : State} {i : Instr} {v : Vals} (h : Acts s i v) : ∃ x, s.finst = some x := ⟨h.choose, h.choose_spec.1⟩

theorem Acts.fctx {s : State} {i : Instr} {v : Vals} (h : Acts s i v) : ∃ c, s.fctx = some c := by
  obtain ⟨x, hx⟩ := h.finst
  unfold State.finst at hx
  cases hc : s.fctx with
  | none => simp [hc] at hx
  | some c => exact ⟨c, rfl⟩

/-- A firing answers a next state, whatever the tokens and the action. -/
theorem fire_next (s : State) (i : Instr) (act : Vals → State → Act) : ∃ t, fire s i act = .next t := by
  unfold fire
  split
  · exact ⟨_, rfl⟩
  · split
    · exact ⟨_, rfl⟩
    · split
      · exact ⟨_, rfl⟩
      · exact ⟨_, rfl⟩
      · exact ⟨_, rfl⟩
      · exact ⟨_, rfl⟩
      · split <;> exact ⟨_, rfl⟩

/-- An instruction of R220 that is not performed fires once its gate lets it, and waits else (09 R220). -/
theorem gated_goes {s u : State} {eff : BitVec 5} (h : s.gate eff ⟨false, false, none, false, false⟩ = .goes u) (f : State → State) : s.gated eff f = .fires (f u) := by
  simp [State.gated, h]

theorem gated_waits {s u : State} {eff : BitVec 5} (h : s.gate eff ⟨false, false, none, false, false⟩ = .waits u) (f : State → State) : s.gated eff f = .waits u := by
  simp [State.gated, h]

/-- A fault of an access that releases leaves what the access alone leaves: the release is not performed (13 R293). -/
theorem releasing_bad {s t : State} {w : State → Wr} {k : Kind} (h : w s = .bad k t) (rel : Bool) (owner : Word) (asid : BitVec 16) :
    s.releasing rel owner asid w = .bad k t := by simp [State.releasing, h]

/-- An access that does not release is the access. -/
theorem releasing_plain (s : State) (owner : Word) (asid : BitVec 16) (w : State → Wr) : s.releasing false owner asid w = w s := by
  unfold State.releasing; cases w s <;> rfl

/-- A stop that is to end a task stands (17 R355). -/
theorem askHalt_keeps {c : Ctx} {a : BitVec 2} (ha : a ≠ 0) (h : c.haltReq = some a) (act : BitVec 2) : (c.askHalt act).haltReq = some a := by
  simp only [Ctx.askHalt, h, if_neg ha]

theorem askHalt_takes {c : Ctx} (h : c.haltReq = none ∨ c.haltReq = some 0) (act : BitVec 2) : (c.askHalt act).haltReq = some act := by
  rcases h with h | h <;> simp [Ctx.askHalt, h]

end Sys2Proof.Machine
end

