-- ==== Sys2Proof/Laws/Fires.lean ====
section
/-! SUPPORT. Sys2Proof/Laws/Fires.lean: every encoded instruction but SPUSH goes through the firing rule, with an action of its own (01 R15). -/

namespace Sys2Proof.Laws

-- One proof at a time: proofs checked side by side take each a stack of memory.
set_option Elab.async false

open Sys2Proof.Machine

/-- The instruction's meaning is the firing rule with some action. -/
def Fires (i : Instr) : Prop := ∀ s : State, ∃ act, exec i s = fire s i act

theorem fireS_is (s : State) (i : Instr) (f : Vals → Word) : ∃ act, fireS s i f = fire s i act := ⟨_, rfl⟩
theorem fireW_is (s : State) (i : Instr) (f : Vals → Wide) : ∃ act, fireW s i f = fire s i act := ⟨_, rfl⟩
theorem fireSF_is (s : State) (i : Instr) (f : Vals → Word × Flags) : ∃ act, fireSF s i f = fire s i act := ⟨_, rfl⟩
theorem fireWF_is (s : State) (i : Instr) (f : Vals → Wide × Flags) : ∃ act, fireWF s i f = fire s i act := ⟨_, rfl⟩
theorem fireLanes_is (s : State) (i : Instr) (e : Nat) (f : Nat → Nat → Nat) : ∃ act, fireLanes s i e f = fire s i act := by
  unfold fireLanes; exact fireW_is _ _ _

theorem Fires.gread (reg : BitVec 6) (d : Dst) : Fires (.gread reg d) := by
  intro s; show ∃ act, execGread reg d s = _; unfold execGread; exact ⟨_, rfl⟩
theorem Fires.wread (reg : BitVec 4) (d : Dst) : Fires (.wread reg d) := by
  intro s; show ∃ act, execWread reg d s = _; unfold execWread; exact ⟨_, rfl⟩
theorem Fires.gwrite (pr : Pred) (reg : BitVec 6) : Fires (.gwrite pr reg) := by
  intro s; show ∃ act, execGwrite pr reg s = _; unfold execGwrite; exact ⟨_, rfl⟩
theorem Fires.wwrite (pr : Pred) (reg : BitVec 4) : Fires (.wwrite pr reg) := by
  intro s; show ∃ act, execWwrite pr reg s = _; unfold execWwrite; exact ⟨_, rfl⟩
theorem Fires.gens (imm : BitVec 16) (t : Tgt) : Fires (.gens imm t) := by
  intro s; show ∃ act, execGens imm t s = _; unfold execGens; exact fireS_is _ _ _
theorem Fires.genu (imm : BitVec 16) (t : Tgt) : Fires (.genu imm t) := by
  intro s; show ∃ act, execGenu imm t s = _; unfold execGenu; exact fireS_is _ _ _
theorem Fires.appc (imm : BitVec 16) (t : Tgt) : Fires (.appc imm t) := by
  intro s; show ∃ act, execAppc imm t s = _; unfold execAppc; exact fireS_is _ _ _
theorem Fires.mov (pr : Pred) (d : Dst) : Fires (.mov pr d) := by
  intro s; show ∃ act, execMov pr d s = _; unfold execMov; exact ⟨_, rfl⟩
theorem Fires.movi (pr : Pred) (imm : BitVec 10) (t : Tgt) : Fires (.movi pr imm t) := by
  intro s; show ∃ act, execMovi pr imm t s = _; unfold execMovi; exact fireS_is _ _ _
theorem Fires.nop (pr : Pred) : Fires (.nop pr) := by
  intro s; show ∃ act, execNop pr s = _; unfold execNop; exact ⟨_, rfl⟩
theorem Fires.null (pr : Pred) (d : Dst) : Fires (.null pr d) := by
  intro s; show ∃ act, execNull pr d s = _; unfold execNull; exact ⟨_, rfl⟩
theorem Fires.add (pr : Pred) (d : Dst) : Fires (.add pr d) := by
  intro s; show ∃ act, execAdd pr d s = _; unfold execAdd; exact fireS_is _ _ _
theorem Fires.sub (pr : Pred) (d : Dst) : Fires (.sub pr d) := by
  intro s; show ∃ act, execSub pr d s = _; unfold execSub; exact fireS_is _ _ _
theorem Fires.and (pr : Pred) (d : Dst) : Fires (.and pr d) := by
  intro s; show ∃ act, execAnd pr d s = _; unfold execAnd; exact fireS_is _ _ _
theorem Fires.or (pr : Pred) (d : Dst) : Fires (.or pr d) := by
  intro s; show ∃ act, execOr pr d s = _; unfold execOr; exact fireS_is _ _ _
theorem Fires.xor (pr : Pred) (d : Dst) : Fires (.xor pr d) := by
  intro s; show ∃ act, execXor pr d s = _; unfold execXor; exact fireS_is _ _ _
theorem Fires.shl (pr : Pred) (d : Dst) : Fires (.shl pr d) := by
  intro s; show ∃ act, execShl pr d s = _; unfold execShl; exact fireS_is _ _ _
theorem Fires.shr (pr : Pred) (d : Dst) : Fires (.shr pr d) := by
  intro s; show ∃ act, execShr pr d s = _; unfold execShr; exact fireS_is _ _ _
theorem Fires.sra (pr : Pred) (d : Dst) : Fires (.sra pr d) := by
  intro s; show ∃ act, execSra pr d s = _; unfold execSra; exact fireS_is _ _ _
theorem Fires.min (pr : Pred) (d : Dst) : Fires (.min pr d) := by
  intro s; show ∃ act, execMin pr d s = _; unfold execMin; exact fireS_is _ _ _
theorem Fires.max (pr : Pred) (d : Dst) : Fires (.max pr d) := by
  intro s; show ∃ act, execMax pr d s = _; unfold execMax; exact fireS_is _ _ _
theorem Fires.minu (pr : Pred) (d : Dst) : Fires (.minu pr d) := by
  intro s; show ∃ act, execMinu pr d s = _; unfold execMinu; exact fireS_is _ _ _
theorem Fires.maxu (pr : Pred) (d : Dst) : Fires (.maxu pr d) := by
  intro s; show ∃ act, execMaxu pr d s = _; unfold execMaxu; exact fireS_is _ _ _
theorem Fires.addi (pr : Pred) (imm : BitVec 10) (t : Tgt) : Fires (.addi pr imm t) := by
  intro s; show ∃ act, execAddi pr imm t s = _; unfold execAddi; exact fireS_is _ _ _
theorem Fires.subi (pr : Pred) (imm : BitVec 10) (t : Tgt) : Fires (.subi pr imm t) := by
  intro s; show ∃ act, execSubi pr imm t s = _; unfold execSubi; exact fireS_is _ _ _
theorem Fires.andi (pr : Pred) (imm : BitVec 10) (t : Tgt) : Fires (.andi pr imm t) := by
  intro s; show ∃ act, execAndi pr imm t s = _; unfold execAndi; exact fireS_is _ _ _
theorem Fires.ori (pr : Pred) (imm : BitVec 10) (t : Tgt) : Fires (.ori pr imm t) := by
  intro s; show ∃ act, execOri pr imm t s = _; unfold execOri; exact fireS_is _ _ _
theorem Fires.xori (pr : Pred) (imm : BitVec 10) (t : Tgt) : Fires (.xori pr imm t) := by
  intro s; show ∃ act, execXori pr imm t s = _; unfold execXori; exact fireS_is _ _ _
theorem Fires.shli (pr : Pred) (imm : BitVec 10) (t : Tgt) : Fires (.shli pr imm t) := by
  intro s; show ∃ act, execShli pr imm t s = _; unfold execShli; exact fireS_is _ _ _
theorem Fires.shri (pr : Pred) (imm : BitVec 10) (t : Tgt) : Fires (.shri pr imm t) := by
  intro s; show ∃ act, execShri pr imm t s = _; unfold execShri; exact fireS_is _ _ _
theorem Fires.srai (pr : Pred) (imm : BitVec 10) (t : Tgt) : Fires (.srai pr imm t) := by
  intro s; show ∃ act, execSrai pr imm t s = _; unfold execSrai; exact fireS_is _ _ _
theorem Fires.mul (pr : Pred) (d : Dst) : Fires (.mul pr d) := by
  intro s; show ∃ act, execMul pr d s = _; unfold execMul; exact fireS_is _ _ _
theorem Fires.mulh (pr : Pred) (d : Dst) : Fires (.mulh pr d) := by
  intro s; show ∃ act, execMulh pr d s = _; unfold execMulh; exact fireS_is _ _ _
theorem Fires.mulhu (pr : Pred) (d : Dst) : Fires (.mulhu pr d) := by
  intro s; show ∃ act, execMulhu pr d s = _; unfold execMulhu; exact fireS_is _ _ _
theorem Fires.div (pr : Pred) (d : Dst) : Fires (.div pr d) := by
  intro s; show ∃ act, execDiv pr d s = _; unfold execDiv; exact fireS_is _ _ _
theorem Fires.divu (pr : Pred) (d : Dst) : Fires (.divu pr d) := by
  intro s; show ∃ act, execDivu pr d s = _; unfold execDivu; exact fireS_is _ _ _
theorem Fires.rem (pr : Pred) (d : Dst) : Fires (.rem pr d) := by
  intro s; show ∃ act, execRem pr d s = _; unfold execRem; exact fireS_is _ _ _
theorem Fires.remu (pr : Pred) (d : Dst) : Fires (.remu pr d) := by
  intro s; show ∃ act, execRemu pr d s = _; unfold execRemu; exact fireS_is _ _ _
theorem Fires.muli (pr : Pred) (imm : BitVec 10) (t : Tgt) : Fires (.muli pr imm t) := by
  intro s; show ∃ act, execMuli pr imm t s = _; unfold execMuli; exact fireS_is _ _ _
theorem Fires.clz (pr : Pred) (d : Dst) : Fires (.clz pr d) := by
  intro s; show ∃ act, execClz pr d s = _; unfold execClz; exact fireS_is _ _ _
theorem Fires.ctz (pr : Pred) (d : Dst) : Fires (.ctz pr d) := by
  intro s; show ∃ act, execCtz pr d s = _; unfold execCtz; exact fireS_is _ _ _
theorem Fires.popc (pr : Pred) (d : Dst) : Fires (.popc pr d) := by
  intro s; show ∃ act, execPopc pr d s = _; unfold execPopc; exact fireS_is _ _ _
theorem Fires.exts8 (pr : Pred) (d : Dst) : Fires (.exts8 pr d) := by
  intro s; show ∃ act, execExts8 pr d s = _; unfold execExts8; exact fireS_is _ _ _
theorem Fires.exts16 (pr : Pred) (d : Dst) : Fires (.exts16 pr d) := by
  intro s; show ∃ act, execExts16 pr d s = _; unfold execExts16; exact fireS_is _ _ _
theorem Fires.exts32 (pr : Pred) (d : Dst) : Fires (.exts32 pr d) := by
  intro s; show ∃ act, execExts32 pr d s = _; unfold execExts32; exact fireS_is _ _ _
theorem Fires.extz8 (pr : Pred) (d : Dst) : Fires (.extz8 pr d) := by
  intro s; show ∃ act, execExtz8 pr d s = _; unfold execExtz8; exact fireS_is _ _ _
theorem Fires.extz16 (pr : Pred) (d : Dst) : Fires (.extz16 pr d) := by
  intro s; show ∃ act, execExtz16 pr d s = _; unfold execExtz16; exact fireS_is _ _ _
theorem Fires.extz32 (pr : Pred) (d : Dst) : Fires (.extz32 pr d) := by
  intro s; show ∃ act, execExtz32 pr d s = _; unfold execExtz32; exact fireS_is _ _ _
theorem Fires.bfx (pr : Pred) (d : Dst) : Fires (.bfx pr d) := by
  intro s; show ∃ act, execBfx pr d s = _; unfold execBfx; exact fireS_is _ _ _
theorem Fires.bfi (pr : Pred) (d : Dst) : Fires (.bfi pr d) := by
  intro s; show ∃ act, execBfi pr d s = _; unfold execBfi; exact fireS_is _ _ _
theorem Fires.lea (pr : Pred) (shift : BitVec 2) (d : Dst) : Fires (.lea pr shift d) := by
  intro s; show ∃ act, execLea pr shift d s = _; unfold execLea; exact fireS_is _ _ _
theorem Fires.leai (pr : Pred) (shift : BitVec 2) (imm : BitVec 10) (t : Tgt) : Fires (.leai pr shift imm t) := by
  intro s; show ∃ act, execLeai pr shift imm t s = _; unfold execLeai; exact fireS_is _ _ _
theorem Fires.teq (pr : Pred) (d : Dst) : Fires (.teq pr d) := by
  intro s; show ∃ act, execTeq pr d s = _; unfold execTeq; exact fireS_is _ _ _
theorem Fires.tne (pr : Pred) (d : Dst) : Fires (.tne pr d) := by
  intro s; show ∃ act, execTne pr d s = _; unfold execTne; exact fireS_is _ _ _
theorem Fires.tlt (pr : Pred) (d : Dst) : Fires (.tlt pr d) := by
  intro s; show ∃ act, execTlt pr d s = _; unfold execTlt; exact fireS_is _ _ _
theorem Fires.tle (pr : Pred) (d : Dst) : Fires (.tle pr d) := by
  intro s; show ∃ act, execTle pr d s = _; unfold execTle; exact fireS_is _ _ _
theorem Fires.tltu (pr : Pred) (d : Dst) : Fires (.tltu pr d) := by
  intro s; show ∃ act, execTltu pr d s = _; unfold execTltu; exact fireS_is _ _ _
theorem Fires.tleu (pr : Pred) (d : Dst) : Fires (.tleu pr d) := by
  intro s; show ∃ act, execTleu pr d s = _; unfold execTleu; exact fireS_is _ _ _
theorem Fires.teqi (pr : Pred) (imm : BitVec 10) (t : Tgt) : Fires (.teqi pr imm t) := by
  intro s; show ∃ act, execTeqi pr imm t s = _; unfold execTeqi; exact fireS_is _ _ _
theorem Fires.tnei (pr : Pred) (imm : BitVec 10) (t : Tgt) : Fires (.tnei pr imm t) := by
  intro s; show ∃ act, execTnei pr imm t s = _; unfold execTnei; exact fireS_is _ _ _
theorem Fires.tlti (pr : Pred) (imm : BitVec 10) (t : Tgt) : Fires (.tlti pr imm t) := by
  intro s; show ∃ act, execTlti pr imm t s = _; unfold execTlti; exact fireS_is _ _ _
theorem Fires.tlei (pr : Pred) (imm : BitVec 10) (t : Tgt) : Fires (.tlei pr imm t) := by
  intro s; show ∃ act, execTlei pr imm t s = _; unfold execTlei; exact fireS_is _ _ _
theorem Fires.tltui (pr : Pred) (imm : BitVec 10) (t : Tgt) : Fires (.tltui pr imm t) := by
  intro s; show ∃ act, execTltui pr imm t s = _; unfold execTltui; exact fireS_is _ _ _
theorem Fires.tleui (pr : Pred) (imm : BitVec 10) (t : Tgt) : Fires (.tleui pr imm t) := by
  intro s; show ∃ act, execTleui pr imm t s = _; unfold execTleui; exact fireS_is _ _ _
theorem Fires.fadd (pr : Pred) (y : FTy) (d : Dst) : Fires (.fadd pr y d) := by
  intro s; show ∃ act, execFadd pr y d s = _; unfold execFadd; exact fireSF_is _ _ _
theorem Fires.fsub (pr : Pred) (y : FTy) (d : Dst) : Fires (.fsub pr y d) := by
  intro s; show ∃ act, execFsub pr y d s = _; unfold execFsub; exact fireSF_is _ _ _
theorem Fires.fmul (pr : Pred) (y : FTy) (d : Dst) : Fires (.fmul pr y d) := by
  intro s; show ∃ act, execFmul pr y d s = _; unfold execFmul; exact fireSF_is _ _ _
theorem Fires.fdiv (pr : Pred) (y : FTy) (d : Dst) : Fires (.fdiv pr y d) := by
  intro s; show ∃ act, execFdiv pr y d s = _; unfold execFdiv; exact fireSF_is _ _ _
theorem Fires.fmin (pr : Pred) (y : FTy) (d : Dst) : Fires (.fmin pr y d) := by
  intro s; show ∃ act, execFmin pr y d s = _; unfold execFmin; exact fireSF_is _ _ _
theorem Fires.fmax (pr : Pred) (y : FTy) (d : Dst) : Fires (.fmax pr y d) := by
  intro s; show ∃ act, execFmax pr y d s = _; unfold execFmax; exact fireSF_is _ _ _
theorem Fires.fsqrt (pr : Pred) (y : FTy) (d : Dst) : Fires (.fsqrt pr y d) := by
  intro s; show ∃ act, execFsqrt pr y d s = _; unfold execFsqrt; exact fireSF_is _ _ _
theorem Fires.fsgn (pr : Pred) (y : FTy) (d : Dst) : Fires (.fsgn pr y d) := by
  intro s; show ∃ act, execFsgn pr y d s = _; unfold execFsgn; exact fireS_is _ _ _
theorem Fires.ffma (pr : Pred) (y : FTy) (d : Dst) : Fires (.ffma pr y d) := by
  intro s; show ∃ act, execFfma pr y d s = _; unfold execFfma; exact fireSF_is _ _ _
theorem Fires.ffms (pr : Pred) (y : FTy) (d : Dst) : Fires (.ffms pr y d) := by
  intro s; show ∃ act, execFfms pr y d s = _; unfold execFfms; exact fireSF_is _ _ _
theorem Fires.ffnma (pr : Pred) (y : FTy) (d : Dst) : Fires (.ffnma pr y d) := by
  intro s; show ∃ act, execFfnma pr y d s = _; unfold execFfnma; exact fireSF_is _ _ _
theorem Fires.ffnms (pr : Pred) (y : FTy) (d : Dst) : Fires (.ffnms pr y d) := by
  intro s; show ∃ act, execFfnms pr y d s = _; unfold execFfnms; exact fireSF_is _ _ _
theorem Fires.fcvt (pr : Pred) (y z : FTy) (d : Dst) : Fires (.fcvt pr y z d) := by
  intro s; show ∃ act, execFcvt pr y z d s = _; unfold execFcvt; exact ⟨_, rfl⟩
theorem Fires.ftoi (pr : Pred) (y : FTy) (sgn trunc : Bool) (d : Dst) : Fires (.ftoi pr y sgn trunc d) := by
  intro s; show ∃ act, execFtoi pr y sgn trunc d s = _; unfold execFtoi; exact fireSF_is _ _ _
theorem Fires.itof (pr : Pred) (y : FTy) (sgn : Bool) (d : Dst) : Fires (.itof pr y sgn d) := by
  intro s; show ∃ act, execItof pr y sgn d s = _; unfold execItof; exact fireSF_is _ _ _
theorem Fires.feq (pr : Pred) (y : FTy) (d : Dst) : Fires (.feq pr y d) := by
  intro s; show ∃ act, execFeq pr y d s = _; unfold execFeq; exact fireSF_is _ _ _
theorem Fires.flt (pr : Pred) (y : FTy) (d : Dst) : Fires (.flt pr y d) := by
  intro s; show ∃ act, execFlt pr y d s = _; unfold execFlt; exact fireSF_is _ _ _
theorem Fires.fle (pr : Pred) (y : FTy) (d : Dst) : Fires (.fle pr y d) := by
  intro s; show ∃ act, execFle pr y d s = _; unfold execFle; exact fireSF_is _ _ _
theorem Fires.fclass (pr : Pred) (y : FTy) (d : Dst) : Fires (.fclass pr y d) := by
  intro s; show ∃ act, execFclass pr y d s = _; unfold execFclass; exact fireS_is _ _ _
theorem Fires.bro (pr : Pred) (exit : BitVec 3) (off : BitVec 20) : Fires (.bro pr exit off) := by
  intro s; show ∃ act, execBro pr exit off s = _; unfold execBro; exact ⟨_, rfl⟩
theorem Fires.br (pr : Pred) : Fires (.br pr) := by
  intro s; show ∃ act, execBr pr s = _; unfold execBr; exact ⟨_, rfl⟩
theorem Fires.callo (pr : Pred) (exit : BitVec 3) (off : BitVec 20) : Fires (.callo pr exit off) := by
  intro s; show ∃ act, execCallo pr exit off s = _; unfold execCallo; exact ⟨_, rfl⟩
theorem Fires.call (pr : Pred) : Fires (.call pr) := by
  intro s; show ∃ act, execCall pr s = _; unfold execCall; exact ⟨_, rfl⟩
theorem Fires.ret (pr : Pred) : Fires (.ret pr) := by
  intro s; show ∃ act, execRet pr s = _; unfold execRet; exact ⟨_, rfl⟩
theorem Fires.exitt (pr : Pred) : Fires (.exitt pr) := by
  intro s; show ∃ act, execExitt pr s = _; unfold execExitt; exact ⟨_, rfl⟩
theorem Fires.yield (pr : Pred) (exit : BitVec 3) (off : BitVec 20) : Fires (.yield pr exit off) := by
  intro s; show ∃ act, execYield pr exit off s = _; unfold execYield; exact ⟨_, rfl⟩
theorem Fires.scall (pr : Pred) (exit : BitVec 3) (svc : BitVec 20) : Fires (.scall pr exit svc) := by
  intro s; show ∃ act, execScall pr exit svc s = _; unfold execScall; exact ⟨_, rfl⟩
theorem Fires.vadd (pr : Pred) (sh : Shape) (d : Dst) : Fires (.vadd pr sh d) := by
  intro s; show ∃ act, execVadd pr sh d s = _; unfold execVadd; exact fireLanes_is _ _ _ _
theorem Fires.vsub (pr : Pred) (sh : Shape) (d : Dst) : Fires (.vsub pr sh d) := by
  intro s; show ∃ act, execVsub pr sh d s = _; unfold execVsub; exact fireLanes_is _ _ _ _
theorem Fires.vmul (pr : Pred) (sh : Shape) (d : Dst) : Fires (.vmul pr sh d) := by
  intro s; show ∃ act, execVmul pr sh d s = _; unfold execVmul; exact fireLanes_is _ _ _ _
theorem Fires.vmulh (pr : Pred) (sh : Shape) (d : Dst) : Fires (.vmulh pr sh d) := by
  intro s; show ∃ act, execVmulh pr sh d s = _; unfold execVmulh; exact fireLanes_is _ _ _ _
theorem Fires.vmin (pr : Pred) (sh : Shape) (d : Dst) : Fires (.vmin pr sh d) := by
  intro s; show ∃ act, execVmin pr sh d s = _; unfold execVmin; exact fireLanes_is _ _ _ _
theorem Fires.vmax (pr : Pred) (sh : Shape) (d : Dst) : Fires (.vmax pr sh d) := by
  intro s; show ∃ act, execVmax pr sh d s = _; unfold execVmax; exact fireLanes_is _ _ _ _
theorem Fires.vand (pr : Pred) (sh : Shape) (d : Dst) : Fires (.vand pr sh d) := by
  intro s; show ∃ act, execVand pr sh d s = _; unfold execVand; exact fireLanes_is _ _ _ _
theorem Fires.vor (pr : Pred) (sh : Shape) (d : Dst) : Fires (.vor pr sh d) := by
  intro s; show ∃ act, execVor pr sh d s = _; unfold execVor; exact fireLanes_is _ _ _ _
theorem Fires.vxor (pr : Pred) (sh : Shape) (d : Dst) : Fires (.vxor pr sh d) := by
  intro s; show ∃ act, execVxor pr sh d s = _; unfold execVxor; exact fireLanes_is _ _ _ _
theorem Fires.vshl (pr : Pred) (sh : Shape) (d : Dst) : Fires (.vshl pr sh d) := by
  intro s; show ∃ act, execVshl pr sh d s = _; unfold execVshl; exact fireLanes_is _ _ _ _
theorem Fires.vshr (pr : Pred) (sh : Shape) (d : Dst) : Fires (.vshr pr sh d) := by
  intro s; show ∃ act, execVshr pr sh d s = _; unfold execVshr; exact fireLanes_is _ _ _ _
theorem Fires.vsra (pr : Pred) (sh : Shape) (d : Dst) : Fires (.vsra pr sh d) := by
  intro s; show ∃ act, execVsra pr sh d s = _; unfold execVsra; exact fireLanes_is _ _ _ _
theorem Fires.vfadd (pr : Pred) (y : VTy) (d : Dst) : Fires (.vfadd pr y d) := by
  intro s; show ∃ act, execVfadd pr y d s = _; unfold execVfadd; exact fireWF_is _ _ _
theorem Fires.vfsub (pr : Pred) (y : VTy) (d : Dst) : Fires (.vfsub pr y d) := by
  intro s; show ∃ act, execVfsub pr y d s = _; unfold execVfsub; exact fireWF_is _ _ _
theorem Fires.vfmul (pr : Pred) (y : VTy) (d : Dst) : Fires (.vfmul pr y d) := by
  intro s; show ∃ act, execVfmul pr y d s = _; unfold execVfmul; exact fireWF_is _ _ _
theorem Fires.vfdiv (pr : Pred) (y : VTy) (d : Dst) : Fires (.vfdiv pr y d) := by
  intro s; show ∃ act, execVfdiv pr y d s = _; unfold execVfdiv; exact fireWF_is _ _ _
theorem Fires.vfmin (pr : Pred) (y : VTy) (d : Dst) : Fires (.vfmin pr y d) := by
  intro s; show ∃ act, execVfmin pr y d s = _; unfold execVfmin; exact fireWF_is _ _ _
theorem Fires.vfmax (pr : Pred) (y : VTy) (d : Dst) : Fires (.vfmax pr y d) := by
  intro s; show ∃ act, execVfmax pr y d s = _; unfold execVfmax; exact fireWF_is _ _ _
theorem Fires.vfsqrt (pr : Pred) (y : VTy) (d : Dst) : Fires (.vfsqrt pr y d) := by
  intro s; show ∃ act, execVfsqrt pr y d s = _; unfold execVfsqrt; exact fireWF_is _ _ _
theorem Fires.vrcp (pr : Pred) (y : VTy) (d : Dst) : Fires (.vrcp pr y d) := by
  intro s; show ∃ act, execVrcp pr y d s = _; unfold execVrcp; exact fireWF_is _ _ _
theorem Fires.vrsq (pr : Pred) (y : VTy) (d : Dst) : Fires (.vrsq pr y d) := by
  intro s; show ∃ act, execVrsq pr y d s = _; unfold execVrsq; exact fireWF_is _ _ _
theorem Fires.vexp2 (pr : Pred) (y : VTy) (d : Dst) : Fires (.vexp2 pr y d) := by
  intro s; show ∃ act, execVexp2 pr y d s = _; unfold execVexp2; exact fireWF_is _ _ _
theorem Fires.vlog2 (pr : Pred) (y : VTy) (d : Dst) : Fires (.vlog2 pr y d) := by
  intro s; show ∃ act, execVlog2 pr y d s = _; unfold execVlog2; exact fireWF_is _ _ _
theorem Fires.vffma (pr : Pred) (y : VTy) (d : Dst) : Fires (.vffma pr y d) := by
  intro s; show ∃ act, execVffma pr y d s = _; unfold execVffma; exact fireWF_is _ _ _
theorem Fires.vffms (pr : Pred) (y : VTy) (d : Dst) : Fires (.vffms pr y d) := by
  intro s; show ∃ act, execVffms pr y d s = _; unfold execVffms; exact fireWF_is _ _ _
theorem Fires.vffnma (pr : Pred) (y : VTy) (d : Dst) : Fires (.vffnma pr y d) := by
  intro s; show ∃ act, execVffnma pr y d s = _; unfold execVffnma; exact fireWF_is _ _ _
theorem Fires.vffnms (pr : Pred) (y : VTy) (d : Dst) : Fires (.vffnms pr y d) := by
  intro s; show ∃ act, execVffnms pr y d s = _; unfold execVffnms; exact fireWF_is _ _ _
theorem Fires.vcvt (pr : Pred) (d : Dst) : Fires (.vcvt pr d) := by
  intro s; show ∃ act, execVcvt pr d s = _; unfold execVcvt; exact ⟨_, rfl⟩
theorem Fires.vqnt (pr : Pred) (d : Dst) : Fires (.vqnt pr d) := by
  intro s; show ∃ act, execVqnt pr d s = _; unfold execVqnt; exact ⟨_, rfl⟩
theorem Fires.vdqnt (pr : Pred) (d : Dst) : Fires (.vdqnt pr d) := by
  intro s; show ∃ act, execVdqnt pr d s = _; unfold execVdqnt; exact ⟨_, rfl⟩
theorem Fires.vcmp (pr : Pred) (sh : Shape) (cond : VCond) (d : Dst) : Fires (.vcmp pr sh cond d) := by
  intro s; show ∃ act, execVcmp pr sh cond d s = _; unfold execVcmp; exact fireLanes_is _ _ _ _
theorem Fires.vfcmp (pr : Pred) (y : VTy) (cond : VFCond) (d : Dst) : Fires (.vfcmp pr y cond d) := by
  intro s; show ∃ act, execVfcmp pr y cond d s = _; unfold execVfcmp; exact fireWF_is _ _ _
theorem Fires.vsel (pr : Pred) (sh : Shape) (d : Dst) : Fires (.vsel pr sh d) := by
  intro s; show ∃ act, execVsel pr sh d s = _; unfold execVsel; exact fireW_is _ _ _
theorem Fires.vbcast (pr : Pred) (sh : Shape) (d : Dst) : Fires (.vbcast pr sh d) := by
  intro s; show ∃ act, execVbcast pr sh d s = _; unfold execVbcast; exact fireW_is _ _ _
theorem Fires.vextr (pr : Pred) (sh : Shape) (d : Dst) : Fires (.vextr pr sh d) := by
  intro s; show ∃ act, execVextr pr sh d s = _; unfold execVextr; exact fireS_is _ _ _
theorem Fires.vins (pr : Pred) (sh : Shape) (d : Dst) : Fires (.vins pr sh d) := by
  intro s; show ∃ act, execVins pr sh d s = _; unfold execVins; exact fireW_is _ _ _
theorem Fires.vshuf (pr : Pred) (sh : Shape) (d : Dst) : Fires (.vshuf pr sh d) := by
  intro s; show ∃ act, execVshuf pr sh d s = _; unfold execVshuf; exact fireW_is _ _ _
theorem Fires.vred (pr : Pred) (d : Dst) : Fires (.vred pr d) := by
  intro s; show ∃ act, execVred pr d s = _; unfold execVred; exact ⟨_, rfl⟩
theorem Fires.vscan (pr : Pred) (d : Dst) : Fires (.vscan pr d) := by
  intro s; show ∃ act, execVscan pr d s = _; unfold execVscan; exact ⟨_, rfl⟩
theorem Fires.vdot (pr : Pred) (d : Dst) : Fires (.vdot pr d) := by
  intro s; show ∃ act, execVdot pr d s = _; unfold execVdot; exact ⟨_, rfl⟩
theorem Fires.ldZb (pr : Pred) (eff : BitVec 5) (imm : BitVec 9) (t : Tgt) : Fires (.ldZb pr eff imm t) := by
  intro s; show ∃ act, execLdZb pr eff imm t s = _; unfold execLdZb; exact ⟨_, rfl⟩
theorem Fires.ldZh (pr : Pred) (eff : BitVec 5) (imm : BitVec 9) (t : Tgt) : Fires (.ldZh pr eff imm t) := by
  intro s; show ∃ act, execLdZh pr eff imm t s = _; unfold execLdZh; exact ⟨_, rfl⟩
theorem Fires.ldZw (pr : Pred) (eff : BitVec 5) (imm : BitVec 9) (t : Tgt) : Fires (.ldZw pr eff imm t) := by
  intro s; show ∃ act, execLdZw pr eff imm t s = _; unfold execLdZw; exact ⟨_, rfl⟩
theorem Fires.ldD (pr : Pred) (eff : BitVec 5) (imm : BitVec 9) (t : Tgt) : Fires (.ldD pr eff imm t) := by
  intro s; show ∃ act, execLdD pr eff imm t s = _; unfold execLdD; exact ⟨_, rfl⟩
theorem Fires.ldSb (pr : Pred) (eff : BitVec 5) (imm : BitVec 9) (t : Tgt) : Fires (.ldSb pr eff imm t) := by
  intro s; show ∃ act, execLdSb pr eff imm t s = _; unfold execLdSb; exact ⟨_, rfl⟩
theorem Fires.ldSh (pr : Pred) (eff : BitVec 5) (imm : BitVec 9) (t : Tgt) : Fires (.ldSh pr eff imm t) := by
  intro s; show ∃ act, execLdSh pr eff imm t s = _; unfold execLdSh; exact ⟨_, rfl⟩
theorem Fires.ldSw (pr : Pred) (eff : BitVec 5) (imm : BitVec 9) (t : Tgt) : Fires (.ldSw pr eff imm t) := by
  intro s; show ∃ act, execLdSw pr eff imm t s = _; unfold execLdSw; exact ⟨_, rfl⟩
theorem Fires.stB (pr : Pred) (eff : BitVec 5) (imm : BitVec 18) : Fires (.stB pr eff imm) := by
  intro s; show ∃ act, execStB pr eff imm s = _; unfold execStB; exact ⟨_, rfl⟩
theorem Fires.stH (pr : Pred) (eff : BitVec 5) (imm : BitVec 18) : Fires (.stH pr eff imm) := by
  intro s; show ∃ act, execStH pr eff imm s = _; unfold execStH; exact ⟨_, rfl⟩
theorem Fires.stW (pr : Pred) (eff : BitVec 5) (imm : BitVec 18) : Fires (.stW pr eff imm) := by
  intro s; show ∃ act, execStW pr eff imm s = _; unfold execStW; exact ⟨_, rfl⟩
theorem Fires.stD (pr : Pred) (eff : BitVec 5) (imm : BitVec 18) : Fires (.stD pr eff imm) := by
  intro s; show ∃ act, execStD pr eff imm s = _; unfold execStD; exact ⟨_, rfl⟩
theorem Fires.ldacq (pr : Pred) (eff : BitVec 5) (imm : BitVec 9) (t : Tgt) : Fires (.ldacq pr eff imm t) := by
  intro s; show ∃ act, execLdacq pr eff imm t s = _; unfold execLdacq; exact ⟨_, rfl⟩
theorem Fires.strel (pr : Pred) (eff : BitVec 5) (imm : BitVec 18) : Fires (.strel pr eff imm) := by
  intro s; show ∃ act, execStrel pr eff imm s = _; unfold execStrel; exact ⟨_, rfl⟩
theorem Fires.vld (pr : Pred) (eff : BitVec 5) (imm : BitVec 9) (t : Tgt) : Fires (.vld pr eff imm t) := by
  intro s; show ∃ act, execVld pr eff imm t s = _; unfold execVld; exact ⟨_, rfl⟩
theorem Fires.vst (pr : Pred) (eff : BitVec 5) (imm : BitVec 18) : Fires (.vst pr eff imm) := by
  intro s; show ∃ act, execVst pr eff imm s = _; unfold execVst; exact ⟨_, rfl⟩
theorem Fires.vlds (pr : Pred) (eff : BitVec 5) (sh : Shape) (t : Tgt) : Fires (.vlds pr eff sh t) := by
  intro s; show ∃ act, execVlds pr eff sh t s = _; unfold execVlds; exact ⟨_, rfl⟩
theorem Fires.vsts (pr : Pred) (eff : BitVec 5) (sh : Shape) : Fires (.vsts pr eff sh) := by
  intro s; show ∃ act, execVsts pr eff sh s = _; unfold execVsts; exact ⟨_, rfl⟩
theorem Fires.vgath (pr : Pred) (eff : BitVec 5) (sh : Shape) (uns : Bool) (scale : BitVec 2) (t : Tgt) : Fires (.vgath pr eff sh uns scale t) := by
  intro s; show ∃ act, execVgath pr eff sh uns scale t s = _; unfold execVgath; exact ⟨_, rfl⟩
theorem Fires.vscat (pr : Pred) (eff : BitVec 5) (sh : Shape) (uns : Bool) (scale : BitVec 2) : Fires (.vscat pr eff sh uns scale) := by
  intro s; show ∃ act, execVscat pr eff sh uns scale s = _; unfold execVscat; exact ⟨_, rfl⟩
theorem Fires.pref (pr : Pred) (eff : BitVec 5) (wr : Bool) (lvl : PrefLevel) : Fires (.pref pr eff wr lvl) := by
  intro s; show ∃ act, execPref pr eff wr lvl s = _; unfold execPref; exact ⟨_, rfl⟩
theorem Fires.amoadd (pr : Pred) (eff : BitVec 5) (size : AmoSize) (sc : Scope) (rlx : Bool) (t : Tgt) : Fires (.amoadd pr eff size sc rlx t) := by
  intro s; show ∃ act, execAmoadd pr eff size sc rlx t s = _; unfold execAmoadd; exact ⟨_, rfl⟩
theorem Fires.amoand (pr : Pred) (eff : BitVec 5) (size : AmoSize) (sc : Scope) (rlx : Bool) (t : Tgt) : Fires (.amoand pr eff size sc rlx t) := by
  intro s; show ∃ act, execAmoand pr eff size sc rlx t s = _; unfold execAmoand; exact ⟨_, rfl⟩
theorem Fires.amoor (pr : Pred) (eff : BitVec 5) (size : AmoSize) (sc : Scope) (rlx : Bool) (t : Tgt) : Fires (.amoor pr eff size sc rlx t) := by
  intro s; show ∃ act, execAmoor pr eff size sc rlx t s = _; unfold execAmoor; exact ⟨_, rfl⟩
theorem Fires.amoxor (pr : Pred) (eff : BitVec 5) (size : AmoSize) (sc : Scope) (rlx : Bool) (t : Tgt) : Fires (.amoxor pr eff size sc rlx t) := by
  intro s; show ∃ act, execAmoxor pr eff size sc rlx t s = _; unfold execAmoxor; exact ⟨_, rfl⟩
theorem Fires.amomin (pr : Pred) (eff : BitVec 5) (size : AmoSize) (sc : Scope) (rlx : Bool) (t : Tgt) : Fires (.amomin pr eff size sc rlx t) := by
  intro s; show ∃ act, execAmomin pr eff size sc rlx t s = _; unfold execAmomin; exact ⟨_, rfl⟩
theorem Fires.amomax (pr : Pred) (eff : BitVec 5) (size : AmoSize) (sc : Scope) (rlx : Bool) (t : Tgt) : Fires (.amomax pr eff size sc rlx t) := by
  intro s; show ∃ act, execAmomax pr eff size sc rlx t s = _; unfold execAmomax; exact ⟨_, rfl⟩
theorem Fires.amominu (pr : Pred) (eff : BitVec 5) (size : AmoSize) (sc : Scope) (rlx : Bool) (t : Tgt) : Fires (.amominu pr eff size sc rlx t) := by
  intro s; show ∃ act, execAmominu pr eff size sc rlx t s = _; unfold execAmominu; exact ⟨_, rfl⟩
theorem Fires.amomaxu (pr : Pred) (eff : BitVec 5) (size : AmoSize) (sc : Scope) (rlx : Bool) (t : Tgt) : Fires (.amomaxu pr eff size sc rlx t) := by
  intro s; show ∃ act, execAmomaxu pr eff size sc rlx t s = _; unfold execAmomaxu; exact ⟨_, rfl⟩
theorem Fires.amoswp (pr : Pred) (eff : BitVec 5) (size : AmoSize) (sc : Scope) (rlx : Bool) (t : Tgt) : Fires (.amoswp pr eff size sc rlx t) := by
  intro s; show ∃ act, execAmoswp pr eff size sc rlx t s = _; unfold execAmoswp; exact ⟨_, rfl⟩
theorem Fires.amocas (pr : Pred) (eff : BitVec 5) (size : AmoSize) (sc : Scope) (rlx : Bool) (t : Tgt) : Fires (.amocas pr eff size sc rlx t) := by
  intro s; show ∃ act, execAmocas pr eff size sc rlx t s = _; unfold execAmocas; exact ⟨_, rfl⟩
theorem Fires.amofadd (pr : Pred) (eff : BitVec 5) (size : AmoSize) (sc : Scope) (rlx : Bool) (t : Tgt) : Fires (.amofadd pr eff size sc rlx t) := by
  intro s; show ∃ act, execAmofadd pr eff size sc rlx t s = _; unfold execAmofadd; exact ⟨_, rfl⟩
theorem Fires.vamoadd (pr : Pred) (eff : BitVec 5) (y : VAmoTy) (sc : Scope) (rlx : Bool) (t : Tgt) : Fires (.vamoadd pr eff y sc rlx t) := by
  intro s; show ∃ act, execVamoadd pr eff y sc rlx t s = _; unfold execVamoadd; exact ⟨_, rfl⟩
theorem Fires.fenceAcq (pr : Pred) (eff : BitVec 5) (sc : Scope) : Fires (.fenceAcq pr eff sc) := by
  intro s; show ∃ act, execFenceAcq pr eff sc s = _; unfold execFenceAcq; exact ⟨_, rfl⟩
theorem Fires.fenceRel (pr : Pred) (eff : BitVec 5) (sc : Scope) : Fires (.fenceRel pr eff sc) := by
  intro s; show ∃ act, execFenceRel pr eff sc s = _; unfold execFenceRel; exact ⟨_, rfl⟩
theorem Fires.fenceAcqrel (pr : Pred) (eff : BitVec 5) (sc : Scope) : Fires (.fenceAcqrel pr eff sc) := by
  intro s; show ∃ act, execFenceAcqrel pr eff sc s = _; unfold execFenceAcqrel; exact ⟨_, rfl⟩
theorem Fires.fenceSc (pr : Pred) (eff : BitVec 5) (sc : Scope) : Fires (.fenceSc pr eff sc) := by
  intro s; show ∃ act, execFenceSc pr eff sc s = _; unfold execFenceSc; exact ⟨_, rfl⟩
theorem Fires.fenceEngine (pr : Pred) (eff : BitVec 5) (sc : Scope) : Fires (.fenceEngine pr eff sc) := by
  intro s; show ∃ act, execFenceEngine pr eff sc s = _; unfold execFenceEngine; exact ⟨_, rfl⟩
theorem Fires.waitv (pr : Pred) (eff : BitVec 5) (acq : Bool) (t : Tgt) : Fires (.waitv pr eff acq t) := by
  intro s; show ∃ act, execWaitv pr eff acq t s = _; unfold execWaitv; exact ⟨_, rfl⟩
theorem Fires.bara (pr : Pred) (eff : BitVec 5) (sc : Scope) (t : Tgt) : Fires (.bara pr eff sc t) := by
  intro s; show ∃ act, execBara pr eff sc t s = _; unfold execBara; exact ⟨_, rfl⟩
theorem Fires.barw (pr : Pred) (eff : BitVec 5) (sc : Scope) (t : Tgt) : Fires (.barw pr eff sc t) := by
  intro s; show ∃ act, execBarw pr eff sc t s = _; unfold execBarw; exact ⟨_, rfl⟩
theorem Fires.tspawn (pr : Pred) (eff : BitVec 5) : Fires (.tspawn pr eff) := by
  intro s; show ∃ act, execTspawn pr eff s = _; unfold execTspawn; exact ⟨_, rfl⟩
theorem Fires.tsubmit (pr : Pred) (eff : BitVec 5) : Fires (.tsubmit pr eff) := by
  intro s; show ∃ act, execTsubmit pr eff s = _; unfold execTsubmit; exact ⟨_, rfl⟩
theorem Fires.tdep (pr : Pred) (eff : BitVec 5) : Fires (.tdep pr eff) := by
  intro s; show ∃ act, execTdep pr eff s = _; unfold execTdep; exact ⟨_, rfl⟩
theorem Fires.twait (pr : Pred) (eff : BitVec 5) (poll : Bool) (t : Tgt) : Fires (.twait pr eff poll t) := by
  intro s; show ∃ act, execTwait pr eff poll t s = _; unfold execTwait; exact ⟨_, rfl⟩
theorem Fires.trange (pr : Pred) (eff : BitVec 5) : Fires (.trange pr eff) := by
  intro s; show ∃ act, execTrange pr eff s = _; unfold execTrange; exact ⟨_, rfl⟩
theorem Fires.tprio (pr : Pred) (eff : BitVec 5) : Fires (.tprio pr eff) := by
  intro s; show ∃ act, execTprio pr eff s = _; unfold execTprio; exact ⟨_, rfl⟩
theorem Fires.amsend (pr : Pred) (eff : BitVec 5) : Fires (.amsend pr eff) := by
  intro s; show ∃ act, execAmsend pr eff s = _; unfold execAmsend; exact ⟨_, rfl⟩
theorem Fires.amreply (pr : Pred) (eff : BitVec 5) : Fires (.amreply pr eff) := by
  intro s; show ∃ act, execAmreply pr eff s = _; unfold execAmreply; exact ⟨_, rfl⟩
theorem Fires.htset (pr : Pred) (eff : BitVec 5) : Fires (.htset pr eff) := by
  intro s; show ∃ act, execHtset pr eff s = _; unfold execHtset; exact ⟨_, rfl⟩
theorem Fires.inbox (pr : Pred) (eff : BitVec 5) (take : Bool) (t : Tgt) : Fires (.inbox pr eff take t) := by
  intro s; show ∃ act, execInbox pr eff take t s = _; unfold execInbox; exact ⟨_, rfl⟩
theorem Fires.hnew (pr : Pred) (eff : BitVec 5) (t : Tgt) : Fires (.hnew pr eff t) := by
  intro s; show ∃ act, execHnew pr eff t s = _; unfold execHnew; exact ⟨_, rfl⟩
theorem Fires.henter (pr : Pred) (eff : BitVec 5) : Fires (.henter pr eff) := by
  intro s; show ∃ act, execHenter pr eff s = _; unfold execHenter; exact ⟨_, rfl⟩
theorem Fires.hleave (pr : Pred) (eff : BitVec 5) : Fires (.hleave pr eff) := by
  intro s; show ∃ act, execHleave pr eff s = _; unfold execHleave; exact ⟨_, rfl⟩
theorem Fires.hresolve (pr : Pred) (eff : BitVec 5) (t : Tgt) : Fires (.hresolve pr eff t) := by
  intro s; show ∃ act, execHresolve pr eff t s = _; unfold execHresolve; exact ⟨_, rfl⟩
theorem Fires.hstat (pr : Pred) (eff : BitVec 5) (sum : Bool) (t : Tgt) : Fires (.hstat pr eff sum t) := by
  intro s; show ∃ act, execHstat pr eff sum t s = _; unfold execHstat; exact ⟨_, rfl⟩
theorem Fires.hldc (pr : Pred) (eff : BitVec 5) (acq : Bool) (sgn : Bool) (size : MemSize) (t : Tgt) : Fires (.hldc pr eff acq sgn size t) := by
  intro s; show ∃ act, execHldc pr eff acq sgn size t s = _; unfold execHldc; exact ⟨_, rfl⟩
theorem Fires.tdef (pr : Pred) (eff ta : BitVec 5) : Fires (.tdef pr eff ta) := by
  intro s; show ∃ act, execTdef pr eff ta s = _; unfold execTdef; exact ⟨_, rfl⟩
theorem Fires.tload (pr : Pred) (eff ta : BitVec 5) : Fires (.tload pr eff ta) := by
  intro s; show ∃ act, execTload pr eff ta s = _; unfold execTload; exact ⟨_, rfl⟩
theorem Fires.tloadEdge (pr : Pred) (eff ta : BitVec 5) (port : BitVec 3) : Fires (.tloadEdge pr eff ta port) := by
  intro s; show ∃ act, execTloadEdge pr eff ta port s = _; unfold execTloadEdge; exact ⟨_, rfl⟩
theorem Fires.tstore (pr : Pred) (eff ta : BitVec 5) : Fires (.tstore pr eff ta) := by
  intro s; show ∃ act, execTstore pr eff ta s = _; unfold execTstore; exact ⟨_, rfl⟩
theorem Fires.tstoreEdge (pr : Pred) (eff ta : BitVec 5) (port : BitVec 3) : Fires (.tstoreEdge pr eff ta port) := by
  intro s; show ∃ act, execTstoreEdge pr eff ta port s = _; unfold execTstoreEdge; exact ⟨_, rfl⟩
theorem Fires.tfree (pr : Pred) (eff ta : BitVec 5) : Fires (.tfree pr eff ta) := by
  intro s; show ∃ act, execTfree pr eff ta s = _; unfold execTfree; exact ⟨_, rfl⟩
theorem Fires.mma (pr : Pred) (eff ta tb : BitVec 5) : Fires (.mma pr eff ta tb) := by
  intro s; show ∃ act, execMma pr eff ta tb s = _; unfold execMma; exact ⟨_, rfl⟩
theorem Fires.mmai (pr : Pred) (eff ta tb : BitVec 5) : Fires (.mmai pr eff ta tb) := by
  intro s; show ∃ act, execMmai pr eff ta tb s = _; unfold execMmai; exact ⟨_, rfl⟩
theorem Fires.maccrd (pr : Pred) (eff ta : BitVec 5) : Fires (.maccrd pr eff ta) := by
  intro s; show ∃ act, execMaccrd pr eff ta s = _; unfold execMaccrd; exact ⟨_, rfl⟩
theorem Fires.macclr (pr : Pred) (eff : BitVec 5) : Fires (.macclr pr eff) := by
  intro s; show ∃ act, execMacclr pr eff s = _; unfold execMacclr; exact ⟨_, rfl⟩
theorem Fires.maccld (pr : Pred) (eff ta : BitVec 5) : Fires (.maccld pr eff ta) := by
  intro s; show ∃ act, execMaccld pr eff ta s = _; unfold execMaccld; exact ⟨_, rfl⟩
theorem Fires.mew (pr : Pred) (eff ta : BitVec 5) : Fires (.mew pr eff ta) := by
  intro s; show ∃ act, execMew pr eff ta s = _; unfold execMew; exact ⟨_, rfl⟩
theorem Fires.mcopy (pr : Pred) (eff ta tb : BitVec 5) : Fires (.mcopy pr eff ta tb) := by
  intro s; show ∃ act, execMcopy pr eff ta tb s = _; unfold execMcopy; exact ⟨_, rfl⟩
theorem Fires.msplat (pr : Pred) (eff ta : BitVec 5) : Fires (.msplat pr eff ta) := by
  intro s; show ∃ act, execMsplat pr eff ta s = _; unfold execMsplat; exact ⟨_, rfl⟩
theorem Fires.scopy (pr : Pred) (eff : BitVec 5) (queue : BitVec 2) (t : Tgt) : Fires (.scopy pr eff queue t) := by
  intro s; show ∃ act, execScopy pr eff queue t s = _; unfold execScopy; exact ⟨_, rfl⟩
theorem Fires.sgath (pr : Pred) (eff : BitVec 5) (queue : BitVec 2) (t : Tgt) : Fires (.sgath pr eff queue t) := by
  intro s; show ∃ act, execSgath pr eff queue t s = _; unfold execSgath; exact ⟨_, rfl⟩
theorem Fires.sscat (pr : Pred) (eff : BitVec 5) (queue : BitVec 2) (t : Tgt) : Fires (.sscat pr eff queue t) := by
  intro s; show ∃ act, execSscat pr eff queue t s = _; unfold execSscat; exact ⟨_, rfl⟩
theorem Fires.slayout (pr : Pred) (eff : BitVec 5) (queue : BitVec 2) (t : Tgt) : Fires (.slayout pr eff queue t) := by
  intro s; show ∃ act, execSlayout pr eff queue t s = _; unfold execSlayout; exact ⟨_, rfl⟩
theorem Fires.sfill (pr : Pred) (eff : BitVec 5) (queue : BitVec 2) (t : Tgt) : Fires (.sfill pr eff queue t) := by
  intro s; show ∃ act, execSfill pr eff queue t s = _; unfold execSfill; exact ⟨_, rfl⟩
theorem Fires.sfence (pr : Pred) (eff : BitVec 5) (sc : Scope) (t : Tgt) : Fires (.sfence pr eff sc t) := by
  intro s; show ∃ act, execSfence pr eff sc t s = _; unfold execSfence; exact ⟨_, rfl⟩
theorem Fires.swait (pr : Pred) (eff : BitVec 5) (poll : Bool) (t : Tgt) : Fires (.swait pr eff poll t) := by
  intro s; show ∃ act, execSwait pr eff poll t s = _; unfold execSwait; exact ⟨_, rfl⟩
theorem Fires.vwreg (pr : Pred) (eff : BitVec 5) (t : Tgt) : Fires (.vwreg pr eff t) := by
  intro s; show ∃ act, execVwreg pr eff t s = _; unfold execVwreg; exact ⟨_, rfl⟩
theorem Fires.vwdrop (pr : Pred) (eff : BitVec 5) : Fires (.vwdrop pr eff) := by
  intro s; show ∃ act, execVwdrop pr eff s = _; unfold execVwdrop; exact ⟨_, rfl⟩
theorem Fires.vwsync (pr : Pred) (eff : BitVec 5) (force : Bool) (t : Tgt) : Fires (.vwsync pr eff force t) := by
  intro s; show ∃ act, execVwsync pr eff force t s = _; unfold execVwsync; exact ⟨_, rfl⟩
theorem Fires.vwqry (pr : Pred) (eff : BitVec 5) (master : Bool) (t : Tgt) : Fires (.vwqry pr eff master t) := by
  intro s; show ∃ act, execVwqry pr eff master t s = _; unfold execVwqry; exact ⟨_, rfl⟩
theorem Fires.vwpol (pr : Pred) (eff : BitVec 5) : Fires (.vwpol pr eff) := by
  intro s; show ∃ act, execVwpol pr eff s = _; unfold execVwpol; exact ⟨_, rfl⟩
theorem Fires.pload (pr : Pred) (eff : BitVec 5) (t : Tgt) : Fires (.pload pr eff t) := by
  intro s; show ∃ act, execPload pr eff t s = _; unfold execPload; exact ⟨_, rfl⟩
theorem Fires.punload (pr : Pred) (eff : BitVec 5) (t : Tgt) : Fires (.punload pr eff t) := by
  intro s; show ∃ act, execPunload pr eff t s = _; unfold execPunload; exact ⟨_, rfl⟩
theorem Fires.pstart (pr : Pred) (eff : BitVec 5) (t : Tgt) : Fires (.pstart pr eff t) := by
  intro s; show ∃ act, execPstart pr eff t s = _; unfold execPstart; exact ⟨_, rfl⟩
theorem Fires.pstop (pr : Pred) (eff : BitVec 5) (t : Tgt) : Fires (.pstop pr eff t) := by
  intro s; show ∃ act, execPstop pr eff t s = _; unfold execPstop; exact ⟨_, rfl⟩
theorem Fires.psave (pr : Pred) (eff : BitVec 5) (t : Tgt) : Fires (.psave pr eff t) := by
  intro s; show ∃ act, execPsave pr eff t s = _; unfold execPsave; exact ⟨_, rfl⟩
theorem Fires.prest (pr : Pred) (eff : BitVec 5) (t : Tgt) : Fires (.prest pr eff t) := by
  intro s; show ∃ act, execPrest pr eff t s = _; unfold execPrest; exact ⟨_, rfl⟩
theorem Fires.spop (eff port : BitVec 5) (t : Tgt) : Fires (.spop eff port t) := by
  intro s; show ∃ act, execSpop eff port t s = _; unfold execSpop; exact ⟨_, rfl⟩
theorem Fires.trap (pr : Pred) (eff : BitVec 5) : Fires (.trap pr eff) := by
  intro s; show ∃ act, execTrap pr eff s = _; unfold execTrap; exact ⟨_, rfl⟩
theorem Fires.rft (pr : Pred) (eff : BitVec 5) : Fires (.rft pr eff) := by
  intro s; show ∃ act, execRft pr eff s = _; unfold execRft; exact ⟨_, rfl⟩
theorem Fires.cread (pr : Pred) (eff : BitVec 5) (sel : BitVec 5) (t : Tgt) : Fires (.cread pr eff sel t) := by
  intro s; show ∃ act, execCread pr eff sel t s = _; unfold execCread; exact ⟨_, rfl⟩
theorem Fires.cwrite (pr : Pred) (eff : BitVec 5) (sel : BitVec 5) : Fires (.cwrite pr eff sel) := by
  intro s; show ∃ act, execCwrite pr eff sel s = _; unfold execCwrite; exact ⟨_, rfl⟩
theorem Fires.halt (pr : Pred) (eff : BitVec 5) : Fires (.halt pr eff) := by
  intro s; show ∃ act, execHalt pr eff s = _; unfold execHalt; exact ⟨_, rfl⟩
theorem Fires.idle (pr : Pred) (eff : BitVec 5) (t : Tgt) : Fires (.idle pr eff t) := by
  intro s; show ∃ act, execIdle pr eff t s = _; unfold execIdle; exact ⟨_, rfl⟩
theorem Fires.plbfl (pr : Pred) (eff : BitVec 5) (t : Tgt) : Fires (.plbfl pr eff t) := by
  intro s; show ∃ act, execPlbfl pr eff t s = _; unfold execPlbfl; exact ⟨_, rfl⟩
theorem Fires.cline (pr : Pred) (eff : BitVec 5) (op : ClineOp) : Fires (.cline pr eff op) := by
  intro s; show ∃ act, execCline pr eff op s = _; unfold execCline; exact ⟨_, rfl⟩
theorem Fires.dbgbrk (pr : Pred) (eff : BitVec 5) : Fires (.dbgbrk pr eff) := by
  intro s; show ∃ act, execDbgbrk pr eff s = _; unfold execDbgbrk; exact ⟨_, rfl⟩
theorem Fires.afwait (pr : Pred) (eff : BitVec 5) (t : Tgt) : Fires (.afwait pr eff t) := by
  intro s; show ∃ act, execAfwait pr eff t s = _; unfold execAfwait; exact ⟨_, rfl⟩
theorem Fires.winrd (pr : Pred) (eff : BitVec 5) (t : Tgt) : Fires (.winrd pr eff t) := by
  intro s; show ∃ act, execWinrd pr eff t s = _; unfold execWinrd; exact ⟨_, rfl⟩
theorem Fires.winwr (pr : Pred) (eff : BitVec 5) : Fires (.winwr pr eff) := by
  intro s; show ∃ act, execWinwr pr eff s = _; unfold execWinwr; exact ⟨_, rfl⟩
theorem Fires.tresume (pr : Pred) (eff : BitVec 5) : Fires (.tresume pr eff) := by
  intro s; show ∃ act, execTresume pr eff s = _; unfold execTresume; exact ⟨_, rfl⟩
theorem Fires.wsopen (pr : Pred) (eff : BitVec 5) : Fires (.wsopen pr eff) := by
  intro s; show ∃ act, execWsopen pr eff s = _; unfold execWsopen; exact ⟨_, rfl⟩
theorem Fires.wsclose (pr : Pred) (eff : BitVec 5) : Fires (.wsclose pr eff) := by
  intro s; show ∃ act, execWsclose pr eff s = _; unfold execWsclose; exact ⟨_, rfl⟩
theorem Fires.rdtime (pr : Pred) (eff : BitVec 5) (t : Tgt) : Fires (.rdtime pr eff t) := by
  intro s; show ∃ act, execRdtime pr eff t s = _; unfold execRdtime; exact ⟨_, rfl⟩
theorem Fires.rdpmc (pr : Pred) (eff : BitVec 5) (t : Tgt) : Fires (.rdpmc pr eff t) := by
  intro s; show ∃ act, execRdpmc pr eff t s = _; unfold execRdpmc; exact ⟨_, rfl⟩

/-- Every encoded instruction but SPUSH. -/
theorem fires_of_encoded {i : Instr} {w : Nat} (h : encodeWord i = some w) (hs : ∀ e p, i ≠ .spush e p) : Fires i := by
  cases i with
  | gread reg d => exact Fires.gread reg d
  | wread reg d => exact Fires.wread reg d
  | gwrite pr reg => exact Fires.gwrite pr reg
  | wwrite pr reg => exact Fires.wwrite pr reg
  | gens imm t => exact Fires.gens imm t
  | genu imm t => exact Fires.genu imm t
  | appc imm t => exact Fires.appc imm t
  | mov pr d => exact Fires.mov pr d
  | movi pr imm t => exact Fires.movi pr imm t
  | nop pr => exact Fires.nop pr
  | null pr d => exact Fires.null pr d
  | add pr d => exact Fires.add pr d
  | sub pr d => exact Fires.sub pr d
  | and pr d => exact Fires.and pr d
  | or pr d => exact Fires.or pr d
  | xor pr d => exact Fires.xor pr d
  | shl pr d => exact Fires.shl pr d
  | shr pr d => exact Fires.shr pr d
  | sra pr d => exact Fires.sra pr d
  | min pr d => exact Fires.min pr d
  | max pr d => exact Fires.max pr d
  | minu pr d => exact Fires.minu pr d
  | maxu pr d => exact Fires.maxu pr d
  | addi pr imm t => exact Fires.addi pr imm t
  | subi pr imm t => exact Fires.subi pr imm t
  | andi pr imm t => exact Fires.andi pr imm t
  | ori pr imm t => exact Fires.ori pr imm t
  | xori pr imm t => exact Fires.xori pr imm t
  | shli pr imm t => exact Fires.shli pr imm t
  | shri pr imm t => exact Fires.shri pr imm t
  | srai pr imm t => exact Fires.srai pr imm t
  | mul pr d => exact Fires.mul pr d
  | mulh pr d => exact Fires.mulh pr d
  | mulhu pr d => exact Fires.mulhu pr d
  | div pr d => exact Fires.div pr d
  | divu pr d => exact Fires.divu pr d
  | rem pr d => exact Fires.rem pr d
  | remu pr d => exact Fires.remu pr d
  | muli pr imm t => exact Fires.muli pr imm t
  | clz pr d => exact Fires.clz pr d
  | ctz pr d => exact Fires.ctz pr d
  | popc pr d => exact Fires.popc pr d
  | exts8 pr d => exact Fires.exts8 pr d
  | exts16 pr d => exact Fires.exts16 pr d
  | exts32 pr d => exact Fires.exts32 pr d
  | extz8 pr d => exact Fires.extz8 pr d
  | extz16 pr d => exact Fires.extz16 pr d
  | extz32 pr d => exact Fires.extz32 pr d
  | bfx pr d => exact Fires.bfx pr d
  | bfi pr d => exact Fires.bfi pr d
  | lea pr shift d => exact Fires.lea pr shift d
  | leai pr shift imm t => exact Fires.leai pr shift imm t
  | teq pr d => exact Fires.teq pr d
  | tne pr d => exact Fires.tne pr d
  | tlt pr d => exact Fires.tlt pr d
  | tle pr d => exact Fires.tle pr d
  | tltu pr d => exact Fires.tltu pr d
  | tleu pr d => exact Fires.tleu pr d
  | teqi pr imm t => exact Fires.teqi pr imm t
  | tnei pr imm t => exact Fires.tnei pr imm t
  | tlti pr imm t => exact Fires.tlti pr imm t
  | tlei pr imm t => exact Fires.tlei pr imm t
  | tltui pr imm t => exact Fires.tltui pr imm t
  | tleui pr imm t => exact Fires.tleui pr imm t
  | fadd pr y d => exact Fires.fadd pr y d
  | fsub pr y d => exact Fires.fsub pr y d
  | fmul pr y d => exact Fires.fmul pr y d
  | fdiv pr y d => exact Fires.fdiv pr y d
  | fmin pr y d => exact Fires.fmin pr y d
  | fmax pr y d => exact Fires.fmax pr y d
  | fsqrt pr y d => exact Fires.fsqrt pr y d
  | fsgn pr y d => exact Fires.fsgn pr y d
  | ffma pr y d => exact Fires.ffma pr y d
  | ffms pr y d => exact Fires.ffms pr y d
  | ffnma pr y d => exact Fires.ffnma pr y d
  | ffnms pr y d => exact Fires.ffnms pr y d
  | fcvt pr y z d => exact Fires.fcvt pr y z d
  | ftoi pr y sgn trunc d => exact Fires.ftoi pr y sgn trunc d
  | itof pr y sgn d => exact Fires.itof pr y sgn d
  | feq pr y d => exact Fires.feq pr y d
  | flt pr y d => exact Fires.flt pr y d
  | fle pr y d => exact Fires.fle pr y d
  | fclass pr y d => exact Fires.fclass pr y d
  | bro pr exit off => exact Fires.bro pr exit off
  | br pr => exact Fires.br pr
  | callo pr exit off => exact Fires.callo pr exit off
  | call pr => exact Fires.call pr
  | ret pr => exact Fires.ret pr
  | exitt pr => exact Fires.exitt pr
  | yield pr exit off => exact Fires.yield pr exit off
  | scall pr exit svc => exact Fires.scall pr exit svc
  | vadd pr sh d => exact Fires.vadd pr sh d
  | vsub pr sh d => exact Fires.vsub pr sh d
  | vmul pr sh d => exact Fires.vmul pr sh d
  | vmulh pr sh d => exact Fires.vmulh pr sh d
  | vmin pr sh d => exact Fires.vmin pr sh d
  | vmax pr sh d => exact Fires.vmax pr sh d
  | vand pr sh d => exact Fires.vand pr sh d
  | vor pr sh d => exact Fires.vor pr sh d
  | vxor pr sh d => exact Fires.vxor pr sh d
  | vshl pr sh d => exact Fires.vshl pr sh d
  | vshr pr sh d => exact Fires.vshr pr sh d
  | vsra pr sh d => exact Fires.vsra pr sh d
  | vfadd pr y d => exact Fires.vfadd pr y d
  | vfsub pr y d => exact Fires.vfsub pr y d
  | vfmul pr y d => exact Fires.vfmul pr y d
  | vfdiv pr y d => exact Fires.vfdiv pr y d
  | vfmin pr y d => exact Fires.vfmin pr y d
  | vfmax pr y d => exact Fires.vfmax pr y d
  | vfsqrt pr y d => exact Fires.vfsqrt pr y d
  | vrcp pr y d => exact Fires.vrcp pr y d
  | vrsq pr y d => exact Fires.vrsq pr y d
  | vexp2 pr y d => exact Fires.vexp2 pr y d
  | vlog2 pr y d => exact Fires.vlog2 pr y d
  | vffma pr y d => exact Fires.vffma pr y d
  | vffms pr y d => exact Fires.vffms pr y d
  | vffnma pr y d => exact Fires.vffnma pr y d
  | vffnms pr y d => exact Fires.vffnms pr y d
  | vcvt pr d => exact Fires.vcvt pr d
  | vqnt pr d => exact Fires.vqnt pr d
  | vdqnt pr d => exact Fires.vdqnt pr d
  | vcmp pr sh cond d => exact Fires.vcmp pr sh cond d
  | vfcmp pr y cond d => exact Fires.vfcmp pr y cond d
  | vsel pr sh d => exact Fires.vsel pr sh d
  | vbcast pr sh d => exact Fires.vbcast pr sh d
  | vextr pr sh d => exact Fires.vextr pr sh d
  | vins pr sh d => exact Fires.vins pr sh d
  | vshuf pr sh d => exact Fires.vshuf pr sh d
  | vred pr d => exact Fires.vred pr d
  | vscan pr d => exact Fires.vscan pr d
  | vdot pr d => exact Fires.vdot pr d
  | ldZb pr eff imm t => exact Fires.ldZb pr eff imm t
  | ldZh pr eff imm t => exact Fires.ldZh pr eff imm t
  | ldZw pr eff imm t => exact Fires.ldZw pr eff imm t
  | ldD pr eff imm t => exact Fires.ldD pr eff imm t
  | ldSb pr eff imm t => exact Fires.ldSb pr eff imm t
  | ldSh pr eff imm t => exact Fires.ldSh pr eff imm t
  | ldSw pr eff imm t => exact Fires.ldSw pr eff imm t
  | stB pr eff imm => exact Fires.stB pr eff imm
  | stH pr eff imm => exact Fires.stH pr eff imm
  | stW pr eff imm => exact Fires.stW pr eff imm
  | stD pr eff imm => exact Fires.stD pr eff imm
  | ldacq pr eff imm t => exact Fires.ldacq pr eff imm t
  | strel pr eff imm => exact Fires.strel pr eff imm
  | vld pr eff imm t => exact Fires.vld pr eff imm t
  | vst pr eff imm => exact Fires.vst pr eff imm
  | vlds pr eff sh t => exact Fires.vlds pr eff sh t
  | vsts pr eff sh => exact Fires.vsts pr eff sh
  | vgath pr eff sh uns scale t => exact Fires.vgath pr eff sh uns scale t
  | vscat pr eff sh uns scale => exact Fires.vscat pr eff sh uns scale
  | pref pr eff wr lvl => exact Fires.pref pr eff wr lvl
  | amoadd pr eff size sc rlx t => exact Fires.amoadd pr eff size sc rlx t
  | amoand pr eff size sc rlx t => exact Fires.amoand pr eff size sc rlx t
  | amoor pr eff size sc rlx t => exact Fires.amoor pr eff size sc rlx t
  | amoxor pr eff size sc rlx t => exact Fires.amoxor pr eff size sc rlx t
  | amomin pr eff size sc rlx t => exact Fires.amomin pr eff size sc rlx t
  | amomax pr eff size sc rlx t => exact Fires.amomax pr eff size sc rlx t
  | amominu pr eff size sc rlx t => exact Fires.amominu pr eff size sc rlx t
  | amomaxu pr eff size sc rlx t => exact Fires.amomaxu pr eff size sc rlx t
  | amoswp pr eff size sc rlx t => exact Fires.amoswp pr eff size sc rlx t
  | amocas pr eff size sc rlx t => exact Fires.amocas pr eff size sc rlx t
  | amofadd pr eff size sc rlx t => exact Fires.amofadd pr eff size sc rlx t
  | vamoadd pr eff y sc rlx t => exact Fires.vamoadd pr eff y sc rlx t
  | fenceAcq pr eff sc => exact Fires.fenceAcq pr eff sc
  | fenceRel pr eff sc => exact Fires.fenceRel pr eff sc
  | fenceAcqrel pr eff sc => exact Fires.fenceAcqrel pr eff sc
  | fenceSc pr eff sc => exact Fires.fenceSc pr eff sc
  | fenceEngine pr eff sc => exact Fires.fenceEngine pr eff sc
  | waitv pr eff acq t => exact Fires.waitv pr eff acq t
  | bara pr eff sc t => exact Fires.bara pr eff sc t
  | barw pr eff sc t => exact Fires.barw pr eff sc t
  | tspawn pr eff => exact Fires.tspawn pr eff
  | tsubmit pr eff => exact Fires.tsubmit pr eff
  | tdep pr eff => exact Fires.tdep pr eff
  | twait pr eff poll t => exact Fires.twait pr eff poll t
  | trange pr eff => exact Fires.trange pr eff
  | tprio pr eff => exact Fires.tprio pr eff
  | amsend pr eff => exact Fires.amsend pr eff
  | amreply pr eff => exact Fires.amreply pr eff
  | htset pr eff => exact Fires.htset pr eff
  | inbox pr eff take t => exact Fires.inbox pr eff take t
  | hnew pr eff t => exact Fires.hnew pr eff t
  | henter pr eff => exact Fires.henter pr eff
  | hleave pr eff => exact Fires.hleave pr eff
  | hresolve pr eff t => exact Fires.hresolve pr eff t
  | hstat pr eff sum t => exact Fires.hstat pr eff sum t
  | hldc pr eff acq sgn size t => exact Fires.hldc pr eff acq sgn size t
  | tdef pr eff ta => exact Fires.tdef pr eff ta
  | tload pr eff ta => exact Fires.tload pr eff ta
  | tloadEdge pr eff ta port => exact Fires.tloadEdge pr eff ta port
  | tstore pr eff ta => exact Fires.tstore pr eff ta
  | tstoreEdge pr eff ta port => exact Fires.tstoreEdge pr eff ta port
  | tfree pr eff ta => exact Fires.tfree pr eff ta
  | mma pr eff ta tb => exact Fires.mma pr eff ta tb
  | mmai pr eff ta tb => exact Fires.mmai pr eff ta tb
  | maccrd pr eff ta => exact Fires.maccrd pr eff ta
  | macclr pr eff => exact Fires.macclr pr eff
  | maccld pr eff ta => exact Fires.maccld pr eff ta
  | mew pr eff ta => exact Fires.mew pr eff ta
  | mcopy pr eff ta tb => exact Fires.mcopy pr eff ta tb
  | msplat pr eff ta => exact Fires.msplat pr eff ta
  | scopy pr eff queue t => exact Fires.scopy pr eff queue t
  | sgath pr eff queue t => exact Fires.sgath pr eff queue t
  | sscat pr eff queue t => exact Fires.sscat pr eff queue t
  | slayout pr eff queue t => exact Fires.slayout pr eff queue t
  | sfill pr eff queue t => exact Fires.sfill pr eff queue t
  | sfence pr eff sc t => exact Fires.sfence pr eff sc t
  | swait pr eff poll t => exact Fires.swait pr eff poll t
  | vwreg pr eff t => exact Fires.vwreg pr eff t
  | vwdrop pr eff => exact Fires.vwdrop pr eff
  | vwsync pr eff force t => exact Fires.vwsync pr eff force t
  | vwqry pr eff master t => exact Fires.vwqry pr eff master t
  | vwpol pr eff => exact Fires.vwpol pr eff
  | pload pr eff t => exact Fires.pload pr eff t
  | punload pr eff t => exact Fires.punload pr eff t
  | pstart pr eff t => exact Fires.pstart pr eff t
  | pstop pr eff t => exact Fires.pstop pr eff t
  | psave pr eff t => exact Fires.psave pr eff t
  | prest pr eff t => exact Fires.prest pr eff t
  | spush eff port => exact absurd rfl (hs _ _)
  | spop eff port t => exact Fires.spop eff port t
  | trap pr eff => exact Fires.trap pr eff
  | rft pr eff => exact Fires.rft pr eff
  | cread pr eff sel t => exact Fires.cread pr eff sel t
  | cwrite pr eff sel => exact Fires.cwrite pr eff sel
  | halt pr eff => exact Fires.halt pr eff
  | idle pr eff t => exact Fires.idle pr eff t
  | plbfl pr eff t => exact Fires.plbfl pr eff t
  | cline pr eff op => exact Fires.cline pr eff op
  | dbgbrk pr eff => exact Fires.dbgbrk pr eff
  | afwait pr eff t => exact Fires.afwait pr eff t
  | winrd pr eff t => exact Fires.winrd pr eff t
  | winwr pr eff => exact Fires.winwr pr eff
  | tresume pr eff => exact Fires.tresume pr eff
  | wsopen pr eff => exact Fires.wsopen pr eff
  | wsclose pr eff => exact Fires.wsclose pr eff
  | rdtime pr eff t => exact Fires.rdtime pr eff t
  | rdpmc pr eff t => exact Fires.rdpmc pr eff t
  | clauseFetch c => exact absurd h (by unfold encodeWord; simp)
  | clauseCommit c => exact absurd h (by unfold encodeWord; simp)
  | stopRequest c r => exact absurd h (by unfold encodeWord; simp)
  | stall c => exact absurd h (by unfold encodeWord; simp)
  | taskStop c => exact absurd h (by unfold encodeWord; simp)
  | upcall c => exact absurd h (by unfold encodeWord; simp)
  | srseedWrite c v => exact absurd h (by unfold encodeWord; simp)
  | lsplitWrite c v => exact absurd h (by unfold encodeWord; simp)
  | prioWrite c v => exact absurd h (by unfold encodeWord; simp)
  | fpflagsWrite c v => exact absurd h (by unfold encodeWord; simp)
  | resumeWrite c v => exact absurd h (by unfold encodeWord; simp)
  | afringWrite c v => exact absurd h (by unfold encodeWord; simp)
  | fqbaseWrite tw v => exact absurd h (by unfold encodeWord; simp)
  | fqptrWrite tw v => exact absurd h (by unfold encodeWord; simp)
  | asidMakeLive asid => exact absurd h (by unfold encodeWord; simp)
  | asidMakeNotLive asid => exact absurd h (by unfold encodeWord; simp)
  | ovqWrite tw v => exact absurd h (by unfold encodeWord; simp)
  | vlogWrite v => exact absurd h (by unfold encodeWord; simp)
  | wsldatWrite tw v => exact absurd h (by unfold encodeWord; simp)
  | c0resWrite tw v => exact absurd h (by unfold encodeWord; simp)
  | migcntWrite tw => exact absurd h (by unfold encodeWord; simp)
  | gangArm c v => exact absurd h (by unfold encodeWord; simp)
  | checkpointStart c desc => exact absurd h (by unfold encodeWord; simp)
  | restoreStart c desc => exact absurd h (by unfold encodeWord; simp)
  | checkpointDone failed image => exact absurd h (by unfold encodeWord; simp)
  | reservationGrant tw => exact absurd h (by unfold encodeWord; simp)
  | overflowAdmit tw => exact absurd h (by unfold encodeWord; simp)
  | taskDispatch tw => exact absurd h (by unfold encodeWord; simp)
  | classAging tw => exact absurd h (by unfold encodeWord; simp)
  | passoverLimit tw => exact absurd h (by unfold encodeWord; simp)
  | inboxGrant tw cell => exact absurd h (by unfold encodeWord; simp)
  | messageArrival m => exact absurd h (by unfold encodeWord; simp)
  | handlerDiversion c => exact absurd h (by unfold encodeWord; simp)
  | nohandler tw cell => exact absurd h (by unfold encodeWord; simp)
  | translationWalk tw => exact absurd h (by unfold encodeWord; simp)
  | permissionEntryArrival tw => exact absurd h (by unfold encodeWord; simp)
  | homeSliceStore c => exact absurd h (by unfold encodeWord; simp)
  | storeAck c => exact absurd h (by unfold encodeWord; simp)
  | filterBankClear slice => exact absurd h (by unfold encodeWord; simp)
  | refreshWindow => exact absurd h (by unfold encodeWord; simp)
  | physicalWrite host pa bytes => exact absurd h (by unfold encodeWord; simp)
  | hostRead pa n => exact absurd h (by unfold encodeWord; simp)
  | shootdownComplete => exact absurd h (by unfold encodeWord; simp)
  | waitvWake c => exact absurd h (by unfold encodeWord; simp)
  | waitvTimeout c => exact absurd h (by unfold encodeWord; simp)
  | versionDiscardDone h => exact absurd h (by unfold encodeWord; simp)
  | tileFillDone tw node tile => exact absurd h (by unfold encodeWord; simp)
  | tileDrainDone tw node tile => exact absurd h (by unfold encodeWord; simp)
  | streamerCommandStart id => exact absurd h (by unfold encodeWord; simp)
  | streamerCommandComplete id => exact absurd h (by unfold encodeWord; simp)
  | viewBuild tw => exact absurd h (by unfold encodeWord; simp)
  | viewPublish tw => exact absurd h (by unfold encodeWord; simp)
  | fabricConfigure tw slot => exact absurd h (by unfold encodeWord; simp)
  | bubbleIteration c => exact absurd h (by unfold encodeWord; simp)
  | edgeAgeLimit tw slot edge => exact absurd h (by unfold encodeWord; simp)
  | loadFinish tw slot => exact absurd h (by unfold encodeWord; simp)
  | faultQueueWrite tw => exact absurd h (by unfold encodeWord; simp)
  | afterimageRecordWrite c => exact absurd h (by unfold encodeWord; simp)
  | preempt c cls => exact absurd h (by unfold encodeWord; simp)
  | drainLimit c => exact absurd h (by unfold encodeWord; simp)
  | nodeSave c n => exact absurd h (by unfold encodeWord; simp)
  | flitRetry link => exact absurd h (by unfold encodeWord; simp)
  | laneRetrain link => exact absurd h (by unfold encodeWord; simp)
  | linkLoss link => exact absurd h (by unfold encodeWord; simp)
  | coherenceLossTimeout link => exact absurd h (by unfold encodeWord; simp)
  | linkReconnect link => exact absurd h (by unfold encodeWord; simp)
  | farRequest src pa op => exact absurd h (by unfold encodeWord; simp)
  | farAccessTimeout c => exact absurd h (by unfold encodeWord; simp)
  | routingTableWrite d v => exact absurd h (by unfold encodeWord; simp)
  | submitWrite tw win bytes => exact absurd h (by unfold encodeWord; simp)
  | cheadWrite tw win v => exact absurd h (by unfold encodeWord; simp)
  | werrWrite tw win => exact absurd h (by unfold encodeWord; simp)
  | hostCompletion tw win => exact absurd h (by unfold encodeWord; simp)
  | hotPageWindow tw => exact absurd h (by unfold encodeWord; simp)
  | forwardExpiry tw => exact absurd h (by unfold encodeWord; simp)
  | gangPlace gid => exact absurd h (by unfold encodeWord; simp)
  | gangReady gid pkg => exact absurd h (by unfold encodeWord; simp)
  | gangGo gid => exact absurd h (by unfold encodeWord; simp)
  | gangGraceExpiry gid => exact absurd h (by unfold encodeWord; simp)
  | gangAbort gid => exact absurd h (by unfold encodeWord; simp)
  | attest m => exact absurd h (by unfold encodeWord; simp)
  | sealImage m => exact absurd h (by unfold encodeWord; simp)
  | checkImage m => exact absurd h (by unfold encodeWord; simp)
  | setcap m => exact absurd h (by unfold encodeWord; simp)
  | fuseadv m => exact absurd h (by unfold encodeWord; simp)
  | fwupdate m => exact absurd h (by unfold encodeWord; simp)
  | fwupdateInstall => exact absurd h (by unfold encodeWord; simp)
  | extend m => exact absurd h (by unfold encodeWord; simp)
  | telemetry m => exact absurd h (by unfold encodeWord; simp)
  | capOverrun => exact absurd h (by unfold encodeWord; simp)
  | thermalThrottle => exact absurd h (by unfold encodeWord; simp)
  | throttleStep => exact absurd h (by unfold encodeWord; simp)
  | throttleRecovery => exact absurd h (by unfold encodeWord; simp)
  | thermalShutdown => exact absurd h (by unfold encodeWord; simp)
  | packageReset stages => exact absurd h (by unfold encodeWord; simp)
  | eccUncorrectable pa => exact absurd h (by unfold encodeWord; simp)
  | patrolScrub pa bad => exact absurd h (by unfold encodeWord; simp)
  | clusterRetire tw cluster => exact absurd h (by unfold encodeWord; simp)
  | l2SliceRetire slice => exact absurd h (by unfold encodeWord; simp)
  | hbmRowSpare row => exact absurd h (by unfold encodeWord; simp)
  | cxlPortDegrade port lanes => exact absurd h (by unfold encodeWord; simp)
  | matrixCommandPerformed tw node => exact absurd h (by unfold encodeWord; simp)
  | commandStall eng => exact absurd h (by unfold encodeWord; simp)
  | idleTimeout c => exact absurd h (by unfold encodeWord; simp)
  | unreachableHomeTimeout c => exact absurd h (by unfold encodeWord; simp)
  | nodeRestore c n => exact absurd h (by unfold encodeWord; simp)
  | submissionWindowWrite tw win off v => exact absurd h (by unfold encodeWord; simp)

end Sys2Proof.Laws
end

