-- ==== Sys2Proof/Laws/Frame.lean ====
section
/-! SUPPORT. Sys2Proof/Laws/Frame.lean: what the shared operations of a firing leave unchanged: each changes the focused clause alone (01 R15 to R21). -/

namespace Sys2Proof.Machine

-- One proof at a time: proofs checked side by side take each a stack of memory.
set_option Elab.async false

theorem OnlyFocus.refl (s : State) : OnlyFocus s s :=
  ⟨⟨rfl⟩, id, by simp [State.onInst, State.onCtx, List.modify_id]⟩

/-- What stands outside the contexts, the focus among it, is the same. -/
theorem OnlyFocus.focus {s t : State} (h : OnlyFocus s t) : t.focus = s.focus := by
  have := congrArg State.focus h.1.rest
  exact this

theorem OnlyFocus.trans {s t u : State} (h : OnlyFocus s t) (k : OnlyFocus t u) : OnlyFocus s u := by
  have hf := h.focus
  obtain ⟨⟨h1⟩, f, hc⟩ := h
  obtain ⟨⟨k1⟩, g, kc⟩ := k
  refine ⟨⟨?_⟩, fun x => g (f x), ?_⟩
  · rw [← h1, ← k1]
  · rw [kc]
    simp only [State.onInst, State.onCtx, hf] at hc ⊢
    rw [hc, List.map_map]
    refine List.map_congr_left fun x _ => ?_
    by_cases hx : x.id = s.focus.ctx
    · simp [hx, List.modify_modify_eq, Function.comp_def]
    · simp [hx]

theorem onlyFocus_onInst (s : State) (f : Inst → Inst) : OnlyFocus s (s.onInst f) := ⟨⟨rfl⟩, f, rfl⟩

theorem onlyFocus_tick (s : State) : OnlyFocus s s.tick := ⟨⟨rfl⟩, (OnlyFocus.refl s).2⟩

theorem OnlyFocus.onInst {s t : State} (h : OnlyFocus s t) (f : Inst → Inst) : OnlyFocus s (t.onInst f) := h.trans (onlyFocus_onInst t f)

theorem OnlyFocus.tick {s t : State} (h : OnlyFocus s t) : OnlyFocus s t.tick := h.trans (onlyFocus_tick t)

theorem OnlyFocus.deliver {s t : State} (h : OnlyFocus s t) (i : Instr) (k : Token) : OnlyFocus s (t.deliver i k) := h.onInst _

theorem OnlyFocus.deliverS {s t : State} (h : OnlyFocus s t) (i : Instr) (v : Word) : OnlyFocus s (t.deliverS i v) := h.onInst _

theorem OnlyFocus.deliverW {s t : State} (h : OnlyFocus s t) (i : Instr) (v : Wide) : OnlyFocus s (t.deliverW i v) := h.onInst _

theorem OnlyFocus.deliverPoison {s t : State} (h : OnlyFocus s t) (i : Instr) (k : Kind) : OnlyFocus s (t.deliverPoison i k) := h.onInst _

theorem OnlyFocus.raise {s t : State} (h : OnlyFocus s t) (f : Flags) : OnlyFocus s (t.raise f) := h.onInst _

theorem OnlyFocus.notePoison {s t : State} (h : OnlyFocus s t) (va : Word) : OnlyFocus s (t.notePoison va) := h.onInst _

theorem OnlyFocus.effect {s t : State} (h : OnlyFocus s t) (i : Instr) (a : Action) : OnlyFocus s (t.effect i a) := by
  unfold State.effect
  split
  · exact h.onInst _
  · exact h

theorem OnlyFocus.effectPoison {s t : State} (h : OnlyFocus s t) (i : Instr) (k : Kind) : OnlyFocus s (t.effectPoison i k) := by
  unfold State.effectPoison
  split
  · exact h.onInst _
  · exact h

theorem OnlyFocus.effectBad {s t : State} (h : OnlyFocus s t) (i : Instr) (k : Kind) : OnlyFocus s (t.effectBad i k) :=
  (h.effectPoison i k).deliverPoison i k

theorem OnlyFocus.beginWait {s t : State} (h : OnlyFocus s t) : OnlyFocus s t.beginWait := by
  unfold State.beginWait
  split
  · exact h
  · split
    · exact h
    · exact (h.onInst _).tick

/-- The frame of an action: whether it waits or fires, only the focused clause has changed. -/
def Act.frame (s : State) : Act → Prop
  | .waits t => OnlyFocus s t
  | .fires t => OnlyFocus s t

/-- An instruction whose action has the frame changes the focused clause alone, whatever its tokens. -/
theorem fire_onlyFocus {s u : State} {i : Instr} {act : Vals → State → Act} (ha : ∀ v, (act v s).frame s) (h : fire s i act = .next u) :
    OnlyFocus s u := by
  have r := OnlyFocus.refl s
  unfold fire at h
  split at h
  · cases h; exact r
  · split at h
    · cases h; exact r
    · split at h
      · cases h; exact r
      · cases h; exact (r.onInst _).tick
      · cases h; exact (r.onInst _).tick
      · cases h; exact (r.onInst _).tick
      · rename_i v _
        have hv := ha v
        split at h
        · rename_i t e; cases h; rw [e] at hv; exact hv
        · rename_i t e; cases h; rw [e] at hv; exact (hv.onInst _).tick

theorem fireS_onlyFocus {s u : State} {i : Instr} {f : Vals → Word} (h : fireS s i f = .next u) : OnlyFocus s u :=
  fire_onlyFocus (act := fun v t => .fires (t.deliverS i (f v))) (fun _ => (OnlyFocus.refl s).deliverS _ _) h

theorem fireW_onlyFocus {s u : State} {i : Instr} {f : Vals → Wide} (h : fireW s i f = .next u) : OnlyFocus s u :=
  fire_onlyFocus (act := fun v t => .fires (t.deliverW i (f v))) (fun _ => (OnlyFocus.refl s).deliverW _ _) h

theorem fireSF_onlyFocus {s u : State} {i : Instr} {f : Vals → Word × Flags} (h : fireSF s i f = .next u) : OnlyFocus s u :=
  fire_onlyFocus (act := fun v t => .fires ((t.raise (f v).2).deliverS i (f v).1)) (fun _ => ((OnlyFocus.refl s).raise _).deliverS _ _) h

theorem fireWF_onlyFocus {s u : State} {i : Instr} {f : Vals → Wide × Flags} (h : fireWF s i f = .next u) : OnlyFocus s u :=
  fire_onlyFocus (act := fun v t => .fires ((t.raise (f v).2).deliverW i (f v).1)) (fun _ => ((OnlyFocus.refl s).raise _).deliverW _ _) h

/-- What changes the focused clause alone leaves memory alone. -/
theorem OnlyFocus.mem {s t : State} (h : OnlyFocus s t) : t.mem = s.mem := by
  have := congrArg State.mem h.1.rest
  exact this

end Sys2Proof.Machine
end

