-- ==== Sys2Proof/Laws/Memory.lean ====
section
/-! SUPPORT. Sys2Proof/Laws/Memory.lean: what reading and writing memory do: a byte written is read, no other byte changes, and the canonical form stands (01 R31; log 1). -/

namespace Sys2Proof.Machine

-- One proof at a time: proofs checked side by side take each a stack of memory.
set_option Elab.async false

/-- Every address of a memory is at least n. -/
def Memory.above (m : Memory) (n : Nat) : Prop := ∀ c ∈ m, n ≤ c.1

theorem Memory.wf_cons {x : Nat} {b : Byte} {m : Memory} :
    Memory.wf ((x, b) :: m) = true ↔ b ≠ Memory.unlisted ∧ Memory.wf m = true ∧ Memory.above m (x + 1) := by
  induction m generalizing x b with
  | nil => simp [Memory.wf, Memory.above]
  | cons c m ih =>
    obtain ⟨y, d⟩ := c
    have h := @ih y d
    simp only [Memory.wf, Bool.and_eq_true, decide_eq_true_eq]
    constructor
    · rintro ⟨⟨h1, h2⟩, h3⟩
      refine ⟨h1, h3, ?_⟩
      intro e he
      rcases List.mem_cons.mp he with rfl | he
      · exact h2
      · have := (h.mp h3).2.2 e he; omega
    · rintro ⟨h1, h2, h3⟩
      exact ⟨⟨h1, h3 (y, d) (by simp)⟩, h2⟩

theorem Memory.get_above {m : Memory} {a n : Nat} (h : Memory.above m n) (ha : a < n) : Memory.get m a = Memory.unlisted := by
  induction m with
  | nil => rfl
  | cons c m ih =>
    obtain ⟨x, b⟩ := c
    have h1 : n ≤ x := h (x, b) (by simp)
    rw [Memory.get, if_neg (by omega), ih fun e he => h e (by simp [he])]

theorem Memory.set_above {m : Memory} {a n : Nat} {v : Byte} (h : Memory.above m n) (ha : n ≤ a) : Memory.above (Memory.set m a v) n := by
  induction m with
  | nil =>
    unfold Memory.set
    split
    · exact h
    · intro c hc; simp only [List.mem_singleton] at hc; subst hc; exact ha
  | cons c m ih =>
    obtain ⟨x, b⟩ := c
    have h1 : n ≤ x := h (x, b) (by simp)
    have h2 : Memory.above m n := fun e he => h e (by simp [he])
    unfold Memory.set
    split
    · split
      · exact h
      · intro c hc
        rcases List.mem_cons.mp hc with rfl | hc
        · exact ha
        · exact h c hc
    · split
      · split
        · exact h2
        · intro c hc
          rcases List.mem_cons.mp hc with rfl | hc
          · exact ha
          · exact h2 c hc
      · intro c hc
        rcases List.mem_cons.mp hc with rfl | hc
        · exact h1
        · exact ih h2 c hc

/-- A write of one byte keeps the canonical form. -/
theorem Memory.wf_set {m : Memory} (h : Memory.wf m = true) (a : Nat) (v : Byte) : Memory.wf (Memory.set m a v) = true := by
  induction m with
  | nil =>
    unfold Memory.set
    split
    · rfl
    · rename_i hv; simp [Memory.wf, hv]
  | cons c m ih =>
    obtain ⟨x, b⟩ := c
    obtain ⟨h1, h2, h3⟩ := Memory.wf_cons.mp h
    unfold Memory.set
    split
    · rename_i ha
      split
      · exact h
      · rename_i hv
        refine Memory.wf_cons.mpr ⟨hv, h, fun e he => ?_⟩
        rcases List.mem_cons.mp he with rfl | he
        · exact ha
        · have := h3 e he; omega
    · split
      · rename_i ha
        split
        · exact h2
        · rename_i hv; exact Memory.wf_cons.mpr ⟨hv, h2, ha ▸ h3⟩
      · exact Memory.wf_cons.mpr ⟨h1, ih h2, Memory.set_above h3 (by omega)⟩

/-- A byte written is read. -/
theorem Memory.get_set_same {m : Memory} (h : Memory.wf m = true) (a : Nat) (v : Byte) : Memory.get (Memory.set m a v) a = v := by
  induction m with
  | nil =>
    unfold Memory.set
    split
    · rename_i hv; exact hv.symm
    · simp [Memory.get]
  | cons c m ih =>
    obtain ⟨x, b⟩ := c
    obtain ⟨_, h2, h3⟩ := Memory.wf_cons.mp h
    unfold Memory.set
    split
    · rename_i ha
      split
      · rename_i hv
        rw [hv, Memory.get, if_neg (by omega)]
        exact Memory.get_above h3 (by omega)
      · simp [Memory.get]
    · split
      · rename_i ha
        split
        · rename_i hv; rw [hv]; exact Memory.get_above h3 (by omega)
        · simp [Memory.get]
      · rename_i ha
        rw [Memory.get, if_neg (fun e => ha e.symm)]
        exact ih h2

/-- No other byte changes. -/
theorem Memory.get_set_other {m : Memory} (h : Memory.wf m = true) {a b : Nat} (v : Byte) (hab : a ≠ b) :
    Memory.get (Memory.set m a v) b = Memory.get m b := by
  induction m with
  | nil =>
    unfold Memory.set
    split
    · rfl
    · simp [Memory.get, hab]
  | cons c m ih =>
    obtain ⟨x, d⟩ := c
    obtain ⟨_, h2, h3⟩ := Memory.wf_cons.mp h
    unfold Memory.set
    split
    · split
      · rfl
      · rw [Memory.get, if_neg hab]
    · split
      · rename_i ha
        split
        · rw [Memory.get, if_neg (by omega)]
        · simp [Memory.get, hab, ← ha]
      · simp only [Memory.get]
        rw [ih h2]

/-- A write of bytes keeps the canonical form. -/
theorem Memory.wf_setN {m : Memory} (h : Memory.wf m = true) (a : Nat) (bs : List Byte) : Memory.wf (Memory.setN m a bs) = true := by
  induction bs generalizing m a with
  | nil => exact h
  | cons b bs ih => exact ih (Memory.wf_set h a b) (a + 1)

/-- Taking entries out keeps the canonical form. -/
theorem Memory.wf_filter {m : Memory} (h : Memory.wf m = true) (p : Host.Cell → Bool) : Memory.wf (m.filter p) = true := by
  induction m with
  | nil => rfl
  | cons c m ih =>
    obtain ⟨x, b⟩ := c
    obtain ⟨h1, h2, h3⟩ := Memory.wf_cons.mp h
    by_cases hp : p (x, b) = true
    · rw [List.filter_cons_of_pos hp]
      exact Memory.wf_cons.mpr ⟨h1, ih h2, fun e he => h3 e (List.mem_filter.mp he).1⟩
    · rw [List.filter_cons_of_neg hp]; exact ih h2

/-- A write of bytes leaves every byte outside them. -/
theorem Memory.get_setN_other {m : Memory} (h : Memory.wf m = true) (a : Nat) (bs : List Byte) {b : Nat} (hb : b < a ∨ a + bs.length ≤ b) :
    Memory.get (Memory.setN m a bs) b = Memory.get m b := by
  induction bs generalizing m a with
  | nil => rfl
  | cons c bs ih =>
    simp only [List.length_cons] at hb
    rw [Memory.setN, ih (Memory.wf_set h a c) (a + 1) (by omega), Memory.get_set_other h c (by omega)]

/-- A physical write keeps the canonical form. -/
theorem State.wf_pwrite {s : State} (h : s.mem.wf = true) (pa : Nat) (bs : List Byte) : (s.pwrite pa bs).mem.wf = true := Memory.wf_setN h pa bs

end Sys2Proof.Machine
end

