-- ==== Sys2Proof/Laws/State.lean ====
section
/-! SUPPORT. Sys2Proof/Laws/State.lean: what each update of the state leaves in each field; true by definition, and simplification rules. -/

namespace Sys2Proof.Machine

-- One proof at a time: proofs checked side by side take each a stack of memory.
set_option Elab.async false

/-! ### tick -/

@[simp] theorem State.tick_mem (s : State) : (s.tick).mem = s.mem := rfl
@[simp] theorem State.tick_time (s : State) : (s.tick).time = s.time := rfl
@[simp] theorem State.tick_ctxs (s : State) : (s.tick).ctxs = s.ctxs := rfl
@[simp] theorem State.tick_nextCtx (s : State) : (s.tick).nextCtx = s.nextCtx := rfl
@[simp] theorem State.tick_towers (s : State) : (s.tick).towers = s.towers := rfl
@[simp] theorem State.tick_asidtab (s : State) : (s.tick).asidtab = s.asidtab := rfl
@[simp] theorem State.tick_liveAsids (s : State) : (s.tick).liveAsids = s.liveAsids := rfl
@[simp] theorem State.tick_asidCmd (s : State) : (s.tick).asidCmd = s.asidCmd := rfl
@[simp] theorem State.tick_asidRef (s : State) : (s.tick).asidRef = s.asidRef := rfl
@[simp] theorem State.tick_vlogSize (s : State) : (s.tick).vlogSize = s.vlogSize := rfl
@[simp] theorem State.tick_vlogEn (s : State) : (s.tick).vlogEn = s.vlogEn := rfl
@[simp] theorem State.tick_vlogPa (s : State) : (s.tick).vlogPa = s.vlogPa := rfl
@[simp] theorem State.tick_hyps (s : State) : (s.tick).hyps = s.hyps := rfl
@[simp] theorem State.tick_versions (s : State) : (s.tick).versions = s.versions := rfl
@[simp] theorem State.tick_shoots (s : State) : (s.tick).shoots = s.shoots := rfl
@[simp] theorem State.tick_badLines (s : State) : (s.tick).badLines = s.badLines := rfl
@[simp] theorem State.tick_self (s : State) : (s.tick).self = s.self := rfl
@[simp] theorem State.tick_recq (s : State) : (s.tick).recq = s.recq := rfl
@[simp] theorem State.tick_lates (s : State) : (s.tick).lates = s.lates := rfl
@[simp] theorem State.tick_heldActs (s : State) : (s.tick).heldActs = s.heldActs := rfl
@[simp] theorem State.tick_ended (s : State) : (s.tick).ended = s.ended := rfl
@[simp] theorem State.tick_flight (s : State) : (s.tick).flight = s.flight := rfl
@[simp] theorem State.tick_mnodes (s : State) : (s.tick).mnodes = s.mnodes := rfl
@[simp] theorem State.tick_scmds (s : State) : (s.tick).scmds = s.scmds := rfl
@[simp] theorem State.tick_nextCmd (s : State) : (s.tick).nextCmd = s.nextCmd := rfl
@[simp] theorem State.tick_masters (s : State) : (s.tick).masters = s.masters := rfl
@[simp] theorem State.tick_builds (s : State) : (s.tick).builds = s.builds := rfl
@[simp] theorem State.tick_loads (s : State) : (s.tick).loads = s.loads := rfl
@[simp] theorem State.tick_routes (s : State) : (s.tick).routes = s.routes := rfl
@[simp] theorem State.tick_routeIgnored (s : State) : (s.tick).routeIgnored = s.routeIgnored := rfl
@[simp] theorem State.tick_snoop (s : State) : (s.tick).snoop = s.snoop := rfl
@[simp] theorem State.tick_outbox (s : State) : (s.tick).outbox = s.outbox := rfl
@[simp] theorem State.tick_links (s : State) : (s.tick).links = s.links := rfl
@[simp] theorem State.tick_flitRetries (s : State) : (s.tick).flitRetries = s.flitRetries := rfl
@[simp] theorem State.tick_corrected (s : State) : (s.tick).corrected = s.corrected := rfl
@[simp] theorem State.tick_cxlLanes (s : State) : (s.tick).cxlLanes = s.cxlLanes := rfl
@[simp] theorem State.tick_gangs (s : State) : (s.tick).gangs = s.gangs := rfl
@[simp] theorem State.tick_ckptRun (s : State) : (s.tick).ckptRun = s.ckptRun := rfl
@[simp] theorem State.tick_mboxes (s : State) : (s.tick).mboxes = s.mboxes := rfl
@[simp] theorem State.tick_mboxQueue (s : State) : (s.tick).mboxQueue = s.mboxQueue := rfl
@[simp] theorem State.tick_measures (s : State) : (s.tick).measures = s.measures := rfl
@[simp] theorem State.tick_fuses (s : State) : (s.tick).fuses = s.fuses := rfl
@[simp] theorem State.tick_cap (s : State) : (s.tick).cap = s.cap := rfl
@[simp] theorem State.tick_capOverAt (s : State) : (s.tick).capOverAt = s.capOverAt := rfl
@[simp] theorem State.tick_clock (s : State) : (s.tick).clock = s.clock := rfl
@[simp] theorem State.tick_share (s : State) : (s.tick).share = s.share := rfl
@[simp] theorem State.tick_throttling (s : State) : (s.tick).throttling = s.throttling := rfl
@[simp] theorem State.tick_stepAt (s : State) : (s.tick).stepAt = s.stepAt := rfl
@[simp] theorem State.tick_inReset (s : State) : (s.tick).inReset = s.inReset := rfl
@[simp] theorem State.tick_fwWait (s : State) : (s.tick).fwWait = s.fwWait := rfl
@[simp] theorem State.tick_retiredSlices (s : State) : (s.tick).retiredSlices = s.retiredSlices := rfl
@[simp] theorem State.tick_sparedRows (s : State) : (s.tick).sparedRows = s.sparedRows := rfl
@[simp] theorem State.tick_hbmLanes (s : State) : (s.tick).hbmLanes = s.hbmLanes := rfl
@[simp] theorem State.tick_sliceWait (s : State) : (s.tick).sliceWait = s.sliceWait := rfl
@[simp] theorem State.tick_focus (s : State) : (s.tick).focus = s.focus := rfl
@[simp] theorem State.tick_agenda (s : State) : (s.tick).agenda = s.agenda := rfl
@[simp] theorem State.tick_moves (s : State) : (s.tick).moves = s.moves + 1 := rfl
@[simp] theorem State.tick_stopped (s : State) : (s.tick).stopped = s.stopped := rfl

/-! ### pwrite -/

@[simp] theorem State.pwrite_mem (s : State) (pa : Nat) (bs : List Byte) : (s.pwrite pa bs).mem = s.mem.setN pa bs := rfl
@[simp] theorem State.pwrite_time (s : State) (pa : Nat) (bs : List Byte) : (s.pwrite pa bs).time = s.time := rfl
@[simp] theorem State.pwrite_ctxs (s : State) (pa : Nat) (bs : List Byte) : (s.pwrite pa bs).ctxs = s.ctxs := rfl
@[simp] theorem State.pwrite_nextCtx (s : State) (pa : Nat) (bs : List Byte) : (s.pwrite pa bs).nextCtx = s.nextCtx := rfl
@[simp] theorem State.pwrite_towers (s : State) (pa : Nat) (bs : List Byte) : (s.pwrite pa bs).towers = s.towers := rfl
@[simp] theorem State.pwrite_asidtab (s : State) (pa : Nat) (bs : List Byte) : (s.pwrite pa bs).asidtab = s.asidtab := rfl
@[simp] theorem State.pwrite_liveAsids (s : State) (pa : Nat) (bs : List Byte) : (s.pwrite pa bs).liveAsids = s.liveAsids := rfl
@[simp] theorem State.pwrite_asidCmd (s : State) (pa : Nat) (bs : List Byte) : (s.pwrite pa bs).asidCmd = s.asidCmd := rfl
@[simp] theorem State.pwrite_asidRef (s : State) (pa : Nat) (bs : List Byte) : (s.pwrite pa bs).asidRef = s.asidRef := rfl
@[simp] theorem State.pwrite_vlogSize (s : State) (pa : Nat) (bs : List Byte) : (s.pwrite pa bs).vlogSize = s.vlogSize := rfl
@[simp] theorem State.pwrite_vlogEn (s : State) (pa : Nat) (bs : List Byte) : (s.pwrite pa bs).vlogEn = s.vlogEn := rfl
@[simp] theorem State.pwrite_vlogPa (s : State) (pa : Nat) (bs : List Byte) : (s.pwrite pa bs).vlogPa = s.vlogPa := rfl
@[simp] theorem State.pwrite_hyps (s : State) (pa : Nat) (bs : List Byte) : (s.pwrite pa bs).hyps = s.hyps := rfl
@[simp] theorem State.pwrite_versions (s : State) (pa : Nat) (bs : List Byte) : (s.pwrite pa bs).versions = s.versions := rfl
@[simp] theorem State.pwrite_shoots (s : State) (pa : Nat) (bs : List Byte) : (s.pwrite pa bs).shoots = s.shoots := rfl
@[simp] theorem State.pwrite_badLines (s : State) (pa : Nat) (bs : List Byte) : (s.pwrite pa bs).badLines = s.badLines.filter fun l => !coversLine l pa bs.length := rfl
@[simp] theorem State.pwrite_self (s : State) (pa : Nat) (bs : List Byte) : (s.pwrite pa bs).self = s.self := rfl
@[simp] theorem State.pwrite_recq (s : State) (pa : Nat) (bs : List Byte) : (s.pwrite pa bs).recq = s.recq := rfl
@[simp] theorem State.pwrite_lates (s : State) (pa : Nat) (bs : List Byte) : (s.pwrite pa bs).lates = s.lates := rfl
@[simp] theorem State.pwrite_heldActs (s : State) (pa : Nat) (bs : List Byte) : (s.pwrite pa bs).heldActs = s.heldActs := rfl
@[simp] theorem State.pwrite_ended (s : State) (pa : Nat) (bs : List Byte) : (s.pwrite pa bs).ended = s.ended := rfl
@[simp] theorem State.pwrite_flight (s : State) (pa : Nat) (bs : List Byte) : (s.pwrite pa bs).flight = s.flight := rfl
@[simp] theorem State.pwrite_mnodes (s : State) (pa : Nat) (bs : List Byte) : (s.pwrite pa bs).mnodes = s.mnodes := rfl
@[simp] theorem State.pwrite_scmds (s : State) (pa : Nat) (bs : List Byte) : (s.pwrite pa bs).scmds = s.scmds := rfl
@[simp] theorem State.pwrite_nextCmd (s : State) (pa : Nat) (bs : List Byte) : (s.pwrite pa bs).nextCmd = s.nextCmd := rfl
@[simp] theorem State.pwrite_masters (s : State) (pa : Nat) (bs : List Byte) : (s.pwrite pa bs).masters = s.masters := rfl
@[simp] theorem State.pwrite_builds (s : State) (pa : Nat) (bs : List Byte) : (s.pwrite pa bs).builds = s.builds := rfl
@[simp] theorem State.pwrite_loads (s : State) (pa : Nat) (bs : List Byte) : (s.pwrite pa bs).loads = s.loads := rfl
@[simp] theorem State.pwrite_routes (s : State) (pa : Nat) (bs : List Byte) : (s.pwrite pa bs).routes = s.routes := rfl
@[simp] theorem State.pwrite_routeIgnored (s : State) (pa : Nat) (bs : List Byte) : (s.pwrite pa bs).routeIgnored = s.routeIgnored := rfl
@[simp] theorem State.pwrite_snoop (s : State) (pa : Nat) (bs : List Byte) : (s.pwrite pa bs).snoop = s.snoop := rfl
@[simp] theorem State.pwrite_outbox (s : State) (pa : Nat) (bs : List Byte) : (s.pwrite pa bs).outbox = s.outbox := rfl
@[simp] theorem State.pwrite_links (s : State) (pa : Nat) (bs : List Byte) : (s.pwrite pa bs).links = s.links := rfl
@[simp] theorem State.pwrite_flitRetries (s : State) (pa : Nat) (bs : List Byte) : (s.pwrite pa bs).flitRetries = s.flitRetries := rfl
@[simp] theorem State.pwrite_corrected (s : State) (pa : Nat) (bs : List Byte) : (s.pwrite pa bs).corrected = s.corrected := rfl
@[simp] theorem State.pwrite_cxlLanes (s : State) (pa : Nat) (bs : List Byte) : (s.pwrite pa bs).cxlLanes = s.cxlLanes := rfl
@[simp] theorem State.pwrite_gangs (s : State) (pa : Nat) (bs : List Byte) : (s.pwrite pa bs).gangs = s.gangs := rfl
@[simp] theorem State.pwrite_ckptRun (s : State) (pa : Nat) (bs : List Byte) : (s.pwrite pa bs).ckptRun = s.ckptRun := rfl
@[simp] theorem State.pwrite_mboxes (s : State) (pa : Nat) (bs : List Byte) : (s.pwrite pa bs).mboxes = s.mboxes := rfl
@[simp] theorem State.pwrite_mboxQueue (s : State) (pa : Nat) (bs : List Byte) : (s.pwrite pa bs).mboxQueue = s.mboxQueue := rfl
@[simp] theorem State.pwrite_measures (s : State) (pa : Nat) (bs : List Byte) : (s.pwrite pa bs).measures = s.measures := rfl
@[simp] theorem State.pwrite_fuses (s : State) (pa : Nat) (bs : List Byte) : (s.pwrite pa bs).fuses = s.fuses := rfl
@[simp] theorem State.pwrite_cap (s : State) (pa : Nat) (bs : List Byte) : (s.pwrite pa bs).cap = s.cap := rfl
@[simp] theorem State.pwrite_capOverAt (s : State) (pa : Nat) (bs : List Byte) : (s.pwrite pa bs).capOverAt = s.capOverAt := rfl
@[simp] theorem State.pwrite_clock (s : State) (pa : Nat) (bs : List Byte) : (s.pwrite pa bs).clock = s.clock := rfl
@[simp] theorem State.pwrite_share (s : State) (pa : Nat) (bs : List Byte) : (s.pwrite pa bs).share = s.share := rfl
@[simp] theorem State.pwrite_throttling (s : State) (pa : Nat) (bs : List Byte) : (s.pwrite pa bs).throttling = s.throttling := rfl
@[simp] theorem State.pwrite_stepAt (s : State) (pa : Nat) (bs : List Byte) : (s.pwrite pa bs).stepAt = s.stepAt := rfl
@[simp] theorem State.pwrite_inReset (s : State) (pa : Nat) (bs : List Byte) : (s.pwrite pa bs).inReset = s.inReset := rfl
@[simp] theorem State.pwrite_fwWait (s : State) (pa : Nat) (bs : List Byte) : (s.pwrite pa bs).fwWait = s.fwWait := rfl
@[simp] theorem State.pwrite_retiredSlices (s : State) (pa : Nat) (bs : List Byte) : (s.pwrite pa bs).retiredSlices = s.retiredSlices := rfl
@[simp] theorem State.pwrite_sparedRows (s : State) (pa : Nat) (bs : List Byte) : (s.pwrite pa bs).sparedRows = s.sparedRows := rfl
@[simp] theorem State.pwrite_hbmLanes (s : State) (pa : Nat) (bs : List Byte) : (s.pwrite pa bs).hbmLanes = s.hbmLanes := rfl
@[simp] theorem State.pwrite_sliceWait (s : State) (pa : Nat) (bs : List Byte) : (s.pwrite pa bs).sliceWait = s.sliceWait := rfl
@[simp] theorem State.pwrite_focus (s : State) (pa : Nat) (bs : List Byte) : (s.pwrite pa bs).focus = s.focus := rfl
@[simp] theorem State.pwrite_agenda (s : State) (pa : Nat) (bs : List Byte) : (s.pwrite pa bs).agenda = s.agenda := rfl
@[simp] theorem State.pwrite_moves (s : State) (pa : Nat) (bs : List Byte) : (s.pwrite pa bs).moves = s.moves := rfl
@[simp] theorem State.pwrite_stopped (s : State) (pa : Nat) (bs : List Byte) : (s.pwrite pa bs).stopped = s.stopped := rfl

/-! ### onCtx -/

@[simp] theorem State.onCtx_mem (s : State) (c : Nat) (f : Ctx → Ctx) : (s.onCtx c f).mem = s.mem := rfl
@[simp] theorem State.onCtx_time (s : State) (c : Nat) (f : Ctx → Ctx) : (s.onCtx c f).time = s.time := rfl
@[simp] theorem State.onCtx_ctxs (s : State) (c : Nat) (f : Ctx → Ctx) : (s.onCtx c f).ctxs = s.ctxs.map fun x => if x.id = c then f x else x := rfl
@[simp] theorem State.onCtx_nextCtx (s : State) (c : Nat) (f : Ctx → Ctx) : (s.onCtx c f).nextCtx = s.nextCtx := rfl
@[simp] theorem State.onCtx_towers (s : State) (c : Nat) (f : Ctx → Ctx) : (s.onCtx c f).towers = s.towers := rfl
@[simp] theorem State.onCtx_asidtab (s : State) (c : Nat) (f : Ctx → Ctx) : (s.onCtx c f).asidtab = s.asidtab := rfl
@[simp] theorem State.onCtx_liveAsids (s : State) (c : Nat) (f : Ctx → Ctx) : (s.onCtx c f).liveAsids = s.liveAsids := rfl
@[simp] theorem State.onCtx_asidCmd (s : State) (c : Nat) (f : Ctx → Ctx) : (s.onCtx c f).asidCmd = s.asidCmd := rfl
@[simp] theorem State.onCtx_asidRef (s : State) (c : Nat) (f : Ctx → Ctx) : (s.onCtx c f).asidRef = s.asidRef := rfl
@[simp] theorem State.onCtx_vlogSize (s : State) (c : Nat) (f : Ctx → Ctx) : (s.onCtx c f).vlogSize = s.vlogSize := rfl
@[simp] theorem State.onCtx_vlogEn (s : State) (c : Nat) (f : Ctx → Ctx) : (s.onCtx c f).vlogEn = s.vlogEn := rfl
@[simp] theorem State.onCtx_vlogPa (s : State) (c : Nat) (f : Ctx → Ctx) : (s.onCtx c f).vlogPa = s.vlogPa := rfl
@[simp] theorem State.onCtx_hyps (s : State) (c : Nat) (f : Ctx → Ctx) : (s.onCtx c f).hyps = s.hyps := rfl
@[simp] theorem State.onCtx_versions (s : State) (c : Nat) (f : Ctx → Ctx) : (s.onCtx c f).versions = s.versions := rfl
@[simp] theorem State.onCtx_shoots (s : State) (c : Nat) (f : Ctx → Ctx) : (s.onCtx c f).shoots = s.shoots := rfl
@[simp] theorem State.onCtx_badLines (s : State) (c : Nat) (f : Ctx → Ctx) : (s.onCtx c f).badLines = s.badLines := rfl
@[simp] theorem State.onCtx_self (s : State) (c : Nat) (f : Ctx → Ctx) : (s.onCtx c f).self = s.self := rfl
@[simp] theorem State.onCtx_recq (s : State) (c : Nat) (f : Ctx → Ctx) : (s.onCtx c f).recq = s.recq := rfl
@[simp] theorem State.onCtx_lates (s : State) (c : Nat) (f : Ctx → Ctx) : (s.onCtx c f).lates = s.lates := rfl
@[simp] theorem State.onCtx_heldActs (s : State) (c : Nat) (f : Ctx → Ctx) : (s.onCtx c f).heldActs = s.heldActs := rfl
@[simp] theorem State.onCtx_ended (s : State) (c : Nat) (f : Ctx → Ctx) : (s.onCtx c f).ended = s.ended := rfl
@[simp] theorem State.onCtx_flight (s : State) (c : Nat) (f : Ctx → Ctx) : (s.onCtx c f).flight = s.flight := rfl
@[simp] theorem State.onCtx_mnodes (s : State) (c : Nat) (f : Ctx → Ctx) : (s.onCtx c f).mnodes = s.mnodes := rfl
@[simp] theorem State.onCtx_scmds (s : State) (c : Nat) (f : Ctx → Ctx) : (s.onCtx c f).scmds = s.scmds := rfl
@[simp] theorem State.onCtx_nextCmd (s : State) (c : Nat) (f : Ctx → Ctx) : (s.onCtx c f).nextCmd = s.nextCmd := rfl
@[simp] theorem State.onCtx_masters (s : State) (c : Nat) (f : Ctx → Ctx) : (s.onCtx c f).masters = s.masters := rfl
@[simp] theorem State.onCtx_builds (s : State) (c : Nat) (f : Ctx → Ctx) : (s.onCtx c f).builds = s.builds := rfl
@[simp] theorem State.onCtx_loads (s : State) (c : Nat) (f : Ctx → Ctx) : (s.onCtx c f).loads = s.loads := rfl
@[simp] theorem State.onCtx_routes (s : State) (c : Nat) (f : Ctx → Ctx) : (s.onCtx c f).routes = s.routes := rfl
@[simp] theorem State.onCtx_routeIgnored (s : State) (c : Nat) (f : Ctx → Ctx) : (s.onCtx c f).routeIgnored = s.routeIgnored := rfl
@[simp] theorem State.onCtx_snoop (s : State) (c : Nat) (f : Ctx → Ctx) : (s.onCtx c f).snoop = s.snoop := rfl
@[simp] theorem State.onCtx_outbox (s : State) (c : Nat) (f : Ctx → Ctx) : (s.onCtx c f).outbox = s.outbox := rfl
@[simp] theorem State.onCtx_links (s : State) (c : Nat) (f : Ctx → Ctx) : (s.onCtx c f).links = s.links := rfl
@[simp] theorem State.onCtx_flitRetries (s : State) (c : Nat) (f : Ctx → Ctx) : (s.onCtx c f).flitRetries = s.flitRetries := rfl
@[simp] theorem State.onCtx_corrected (s : State) (c : Nat) (f : Ctx → Ctx) : (s.onCtx c f).corrected = s.corrected := rfl
@[simp] theorem State.onCtx_cxlLanes (s : State) (c : Nat) (f : Ctx → Ctx) : (s.onCtx c f).cxlLanes = s.cxlLanes := rfl
@[simp] theorem State.onCtx_gangs (s : State) (c : Nat) (f : Ctx → Ctx) : (s.onCtx c f).gangs = s.gangs := rfl
@[simp] theorem State.onCtx_ckptRun (s : State) (c : Nat) (f : Ctx → Ctx) : (s.onCtx c f).ckptRun = s.ckptRun := rfl
@[simp] theorem State.onCtx_mboxes (s : State) (c : Nat) (f : Ctx → Ctx) : (s.onCtx c f).mboxes = s.mboxes := rfl
@[simp] theorem State.onCtx_mboxQueue (s : State) (c : Nat) (f : Ctx → Ctx) : (s.onCtx c f).mboxQueue = s.mboxQueue := rfl
@[simp] theorem State.onCtx_measures (s : State) (c : Nat) (f : Ctx → Ctx) : (s.onCtx c f).measures = s.measures := rfl
@[simp] theorem State.onCtx_fuses (s : State) (c : Nat) (f : Ctx → Ctx) : (s.onCtx c f).fuses = s.fuses := rfl
@[simp] theorem State.onCtx_cap (s : State) (c : Nat) (f : Ctx → Ctx) : (s.onCtx c f).cap = s.cap := rfl
@[simp] theorem State.onCtx_capOverAt (s : State) (c : Nat) (f : Ctx → Ctx) : (s.onCtx c f).capOverAt = s.capOverAt := rfl
@[simp] theorem State.onCtx_clock (s : State) (c : Nat) (f : Ctx → Ctx) : (s.onCtx c f).clock = s.clock := rfl
@[simp] theorem State.onCtx_share (s : State) (c : Nat) (f : Ctx → Ctx) : (s.onCtx c f).share = s.share := rfl
@[simp] theorem State.onCtx_throttling (s : State) (c : Nat) (f : Ctx → Ctx) : (s.onCtx c f).throttling = s.throttling := rfl
@[simp] theorem State.onCtx_stepAt (s : State) (c : Nat) (f : Ctx → Ctx) : (s.onCtx c f).stepAt = s.stepAt := rfl
@[simp] theorem State.onCtx_inReset (s : State) (c : Nat) (f : Ctx → Ctx) : (s.onCtx c f).inReset = s.inReset := rfl
@[simp] theorem State.onCtx_fwWait (s : State) (c : Nat) (f : Ctx → Ctx) : (s.onCtx c f).fwWait = s.fwWait := rfl
@[simp] theorem State.onCtx_retiredSlices (s : State) (c : Nat) (f : Ctx → Ctx) : (s.onCtx c f).retiredSlices = s.retiredSlices := rfl
@[simp] theorem State.onCtx_sparedRows (s : State) (c : Nat) (f : Ctx → Ctx) : (s.onCtx c f).sparedRows = s.sparedRows := rfl
@[simp] theorem State.onCtx_hbmLanes (s : State) (c : Nat) (f : Ctx → Ctx) : (s.onCtx c f).hbmLanes = s.hbmLanes := rfl
@[simp] theorem State.onCtx_sliceWait (s : State) (c : Nat) (f : Ctx → Ctx) : (s.onCtx c f).sliceWait = s.sliceWait := rfl
@[simp] theorem State.onCtx_focus (s : State) (c : Nat) (f : Ctx → Ctx) : (s.onCtx c f).focus = s.focus := rfl
@[simp] theorem State.onCtx_agenda (s : State) (c : Nat) (f : Ctx → Ctx) : (s.onCtx c f).agenda = s.agenda := rfl
@[simp] theorem State.onCtx_moves (s : State) (c : Nat) (f : Ctx → Ctx) : (s.onCtx c f).moves = s.moves := rfl
@[simp] theorem State.onCtx_stopped (s : State) (c : Nat) (f : Ctx → Ctx) : (s.onCtx c f).stopped = s.stopped := rfl

/-! ### onInst -/

@[simp] theorem State.onInst_mem (s : State) (f : Inst → Inst) : (s.onInst f).mem = s.mem := rfl
@[simp] theorem State.onInst_time (s : State) (f : Inst → Inst) : (s.onInst f).time = s.time := rfl
@[simp] theorem State.onInst_ctxs (s : State) (f : Inst → Inst) : (s.onInst f).ctxs = (s.onCtx s.focus.ctx fun c => { c with window := c.window.modify s.focus.win f }).ctxs := rfl
@[simp] theorem State.onInst_nextCtx (s : State) (f : Inst → Inst) : (s.onInst f).nextCtx = s.nextCtx := rfl
@[simp] theorem State.onInst_towers (s : State) (f : Inst → Inst) : (s.onInst f).towers = s.towers := rfl
@[simp] theorem State.onInst_asidtab (s : State) (f : Inst → Inst) : (s.onInst f).asidtab = s.asidtab := rfl
@[simp] theorem State.onInst_liveAsids (s : State) (f : Inst → Inst) : (s.onInst f).liveAsids = s.liveAsids := rfl
@[simp] theorem State.onInst_asidCmd (s : State) (f : Inst → Inst) : (s.onInst f).asidCmd = s.asidCmd := rfl
@[simp] theorem State.onInst_asidRef (s : State) (f : Inst → Inst) : (s.onInst f).asidRef = s.asidRef := rfl
@[simp] theorem State.onInst_vlogSize (s : State) (f : Inst → Inst) : (s.onInst f).vlogSize = s.vlogSize := rfl
@[simp] theorem State.onInst_vlogEn (s : State) (f : Inst → Inst) : (s.onInst f).vlogEn = s.vlogEn := rfl
@[simp] theorem State.onInst_vlogPa (s : State) (f : Inst → Inst) : (s.onInst f).vlogPa = s.vlogPa := rfl
@[simp] theorem State.onInst_hyps (s : State) (f : Inst → Inst) : (s.onInst f).hyps = s.hyps := rfl
@[simp] theorem State.onInst_versions (s : State) (f : Inst → Inst) : (s.onInst f).versions = s.versions := rfl
@[simp] theorem State.onInst_shoots (s : State) (f : Inst → Inst) : (s.onInst f).shoots = s.shoots := rfl
@[simp] theorem State.onInst_badLines (s : State) (f : Inst → Inst) : (s.onInst f).badLines = s.badLines := rfl
@[simp] theorem State.onInst_self (s : State) (f : Inst → Inst) : (s.onInst f).self = s.self := rfl
@[simp] theorem State.onInst_recq (s : State) (f : Inst → Inst) : (s.onInst f).recq = s.recq := rfl
@[simp] theorem State.onInst_lates (s : State) (f : Inst → Inst) : (s.onInst f).lates = s.lates := rfl
@[simp] theorem State.onInst_heldActs (s : State) (f : Inst → Inst) : (s.onInst f).heldActs = s.heldActs := rfl
@[simp] theorem State.onInst_ended (s : State) (f : Inst → Inst) : (s.onInst f).ended = s.ended := rfl
@[simp] theorem State.onInst_flight (s : State) (f : Inst → Inst) : (s.onInst f).flight = s.flight := rfl
@[simp] theorem State.onInst_mnodes (s : State) (f : Inst → Inst) : (s.onInst f).mnodes = s.mnodes := rfl
@[simp] theorem State.onInst_scmds (s : State) (f : Inst → Inst) : (s.onInst f).scmds = s.scmds := rfl
@[simp] theorem State.onInst_nextCmd (s : State) (f : Inst → Inst) : (s.onInst f).nextCmd = s.nextCmd := rfl
@[simp] theorem State.onInst_masters (s : State) (f : Inst → Inst) : (s.onInst f).masters = s.masters := rfl
@[simp] theorem State.onInst_builds (s : State) (f : Inst → Inst) : (s.onInst f).builds = s.builds := rfl
@[simp] theorem State.onInst_loads (s : State) (f : Inst → Inst) : (s.onInst f).loads = s.loads := rfl
@[simp] theorem State.onInst_routes (s : State) (f : Inst → Inst) : (s.onInst f).routes = s.routes := rfl
@[simp] theorem State.onInst_routeIgnored (s : State) (f : Inst → Inst) : (s.onInst f).routeIgnored = s.routeIgnored := rfl
@[simp] theorem State.onInst_snoop (s : State) (f : Inst → Inst) : (s.onInst f).snoop = s.snoop := rfl
@[simp] theorem State.onInst_outbox (s : State) (f : Inst → Inst) : (s.onInst f).outbox = s.outbox := rfl
@[simp] theorem State.onInst_links (s : State) (f : Inst → Inst) : (s.onInst f).links = s.links := rfl
@[simp] theorem State.onInst_flitRetries (s : State) (f : Inst → Inst) : (s.onInst f).flitRetries = s.flitRetries := rfl
@[simp] theorem State.onInst_corrected (s : State) (f : Inst → Inst) : (s.onInst f).corrected = s.corrected := rfl
@[simp] theorem State.onInst_cxlLanes (s : State) (f : Inst → Inst) : (s.onInst f).cxlLanes = s.cxlLanes := rfl
@[simp] theorem State.onInst_gangs (s : State) (f : Inst → Inst) : (s.onInst f).gangs = s.gangs := rfl
@[simp] theorem State.onInst_ckptRun (s : State) (f : Inst → Inst) : (s.onInst f).ckptRun = s.ckptRun := rfl
@[simp] theorem State.onInst_mboxes (s : State) (f : Inst → Inst) : (s.onInst f).mboxes = s.mboxes := rfl
@[simp] theorem State.onInst_mboxQueue (s : State) (f : Inst → Inst) : (s.onInst f).mboxQueue = s.mboxQueue := rfl
@[simp] theorem State.onInst_measures (s : State) (f : Inst → Inst) : (s.onInst f).measures = s.measures := rfl
@[simp] theorem State.onInst_fuses (s : State) (f : Inst → Inst) : (s.onInst f).fuses = s.fuses := rfl
@[simp] theorem State.onInst_cap (s : State) (f : Inst → Inst) : (s.onInst f).cap = s.cap := rfl
@[simp] theorem State.onInst_capOverAt (s : State) (f : Inst → Inst) : (s.onInst f).capOverAt = s.capOverAt := rfl
@[simp] theorem State.onInst_clock (s : State) (f : Inst → Inst) : (s.onInst f).clock = s.clock := rfl
@[simp] theorem State.onInst_share (s : State) (f : Inst → Inst) : (s.onInst f).share = s.share := rfl
@[simp] theorem State.onInst_throttling (s : State) (f : Inst → Inst) : (s.onInst f).throttling = s.throttling := rfl
@[simp] theorem State.onInst_stepAt (s : State) (f : Inst → Inst) : (s.onInst f).stepAt = s.stepAt := rfl
@[simp] theorem State.onInst_inReset (s : State) (f : Inst → Inst) : (s.onInst f).inReset = s.inReset := rfl
@[simp] theorem State.onInst_fwWait (s : State) (f : Inst → Inst) : (s.onInst f).fwWait = s.fwWait := rfl
@[simp] theorem State.onInst_retiredSlices (s : State) (f : Inst → Inst) : (s.onInst f).retiredSlices = s.retiredSlices := rfl
@[simp] theorem State.onInst_sparedRows (s : State) (f : Inst → Inst) : (s.onInst f).sparedRows = s.sparedRows := rfl
@[simp] theorem State.onInst_hbmLanes (s : State) (f : Inst → Inst) : (s.onInst f).hbmLanes = s.hbmLanes := rfl
@[simp] theorem State.onInst_sliceWait (s : State) (f : Inst → Inst) : (s.onInst f).sliceWait = s.sliceWait := rfl
@[simp] theorem State.onInst_focus (s : State) (f : Inst → Inst) : (s.onInst f).focus = s.focus := rfl
@[simp] theorem State.onInst_agenda (s : State) (f : Inst → Inst) : (s.onInst f).agenda = s.agenda := rfl
@[simp] theorem State.onInst_moves (s : State) (f : Inst → Inst) : (s.onInst f).moves = s.moves := rfl
@[simp] theorem State.onInst_stopped (s : State) (f : Inst → Inst) : (s.onInst f).stopped = s.stopped := rfl

/-! ### onF -/

@[simp] theorem State.onF_mem (s : State) (f : Ctx → Ctx) : (s.onF f).mem = s.mem := rfl
@[simp] theorem State.onF_time (s : State) (f : Ctx → Ctx) : (s.onF f).time = s.time := rfl
@[simp] theorem State.onF_ctxs (s : State) (f : Ctx → Ctx) : (s.onF f).ctxs = (s.onCtx s.focus.ctx f).ctxs := rfl
@[simp] theorem State.onF_towers (s : State) (f : Ctx → Ctx) : (s.onF f).towers = s.towers := rfl
@[simp] theorem State.onF_hyps (s : State) (f : Ctx → Ctx) : (s.onF f).hyps = s.hyps := rfl
@[simp] theorem State.onF_versions (s : State) (f : Ctx → Ctx) : (s.onF f).versions = s.versions := rfl
@[simp] theorem State.onF_badLines (s : State) (f : Ctx → Ctx) : (s.onF f).badLines = s.badLines := rfl
@[simp] theorem State.onF_self (s : State) (f : Ctx → Ctx) : (s.onF f).self = s.self := rfl
@[simp] theorem State.onF_mnodes (s : State) (f : Ctx → Ctx) : (s.onF f).mnodes = s.mnodes := rfl
@[simp] theorem State.onF_scmds (s : State) (f : Ctx → Ctx) : (s.onF f).scmds = s.scmds := rfl
@[simp] theorem State.onF_loads (s : State) (f : Ctx → Ctx) : (s.onF f).loads = s.loads := rfl
@[simp] theorem State.onF_outbox (s : State) (f : Ctx → Ctx) : (s.onF f).outbox = s.outbox := rfl
@[simp] theorem State.onF_focus (s : State) (f : Ctx → Ctx) : (s.onF f).focus = s.focus := rfl
@[simp] theorem State.onF_agenda (s : State) (f : Ctx → Ctx) : (s.onF f).agenda = s.agenda := rfl
@[simp] theorem State.onF_moves (s : State) (f : Ctx → Ctx) : (s.onF f).moves = s.moves := rfl
@[simp] theorem State.onF_stopped (s : State) (f : Ctx → Ctx) : (s.onF f).stopped = s.stopped := rfl

/-! ### onTower -/

@[simp] theorem State.onTower_mem (s : State) (tw : Nat) (f : Tower → Tower) : (s.onTower tw f).mem = s.mem := rfl
@[simp] theorem State.onTower_time (s : State) (tw : Nat) (f : Tower → Tower) : (s.onTower tw f).time = s.time := rfl
@[simp] theorem State.onTower_ctxs (s : State) (tw : Nat) (f : Tower → Tower) : (s.onTower tw f).ctxs = s.ctxs := rfl
@[simp] theorem State.onTower_nextCtx (s : State) (tw : Nat) (f : Tower → Tower) : (s.onTower tw f).nextCtx = s.nextCtx := rfl
@[simp] theorem State.onTower_towers (s : State) (tw : Nat) (f : Tower → Tower) : (s.onTower tw f).towers = s.towers.modify tw f := rfl
@[simp] theorem State.onTower_asidtab (s : State) (tw : Nat) (f : Tower → Tower) : (s.onTower tw f).asidtab = s.asidtab := rfl
@[simp] theorem State.onTower_liveAsids (s : State) (tw : Nat) (f : Tower → Tower) : (s.onTower tw f).liveAsids = s.liveAsids := rfl
@[simp] theorem State.onTower_asidCmd (s : State) (tw : Nat) (f : Tower → Tower) : (s.onTower tw f).asidCmd = s.asidCmd := rfl
@[simp] theorem State.onTower_asidRef (s : State) (tw : Nat) (f : Tower → Tower) : (s.onTower tw f).asidRef = s.asidRef := rfl
@[simp] theorem State.onTower_vlogSize (s : State) (tw : Nat) (f : Tower → Tower) : (s.onTower tw f).vlogSize = s.vlogSize := rfl
@[simp] theorem State.onTower_vlogEn (s : State) (tw : Nat) (f : Tower → Tower) : (s.onTower tw f).vlogEn = s.vlogEn := rfl
@[simp] theorem State.onTower_vlogPa (s : State) (tw : Nat) (f : Tower → Tower) : (s.onTower tw f).vlogPa = s.vlogPa := rfl
@[simp] theorem State.onTower_hyps (s : State) (tw : Nat) (f : Tower → Tower) : (s.onTower tw f).hyps = s.hyps := rfl
@[simp] theorem State.onTower_versions (s : State) (tw : Nat) (f : Tower → Tower) : (s.onTower tw f).versions = s.versions := rfl
@[simp] theorem State.onTower_shoots (s : State) (tw : Nat) (f : Tower → Tower) : (s.onTower tw f).shoots = s.shoots := rfl
@[simp] theorem State.onTower_badLines (s : State) (tw : Nat) (f : Tower → Tower) : (s.onTower tw f).badLines = s.badLines := rfl
@[simp] theorem State.onTower_self (s : State) (tw : Nat) (f : Tower → Tower) : (s.onTower tw f).self = s.self := rfl
@[simp] theorem State.onTower_recq (s : State) (tw : Nat) (f : Tower → Tower) : (s.onTower tw f).recq = s.recq := rfl
@[simp] theorem State.onTower_lates (s : State) (tw : Nat) (f : Tower → Tower) : (s.onTower tw f).lates = s.lates := rfl
@[simp] theorem State.onTower_heldActs (s : State) (tw : Nat) (f : Tower → Tower) : (s.onTower tw f).heldActs = s.heldActs := rfl
@[simp] theorem State.onTower_ended (s : State) (tw : Nat) (f : Tower → Tower) : (s.onTower tw f).ended = s.ended := rfl
@[simp] theorem State.onTower_flight (s : State) (tw : Nat) (f : Tower → Tower) : (s.onTower tw f).flight = s.flight := rfl
@[simp] theorem State.onTower_mnodes (s : State) (tw : Nat) (f : Tower → Tower) : (s.onTower tw f).mnodes = s.mnodes := rfl
@[simp] theorem State.onTower_scmds (s : State) (tw : Nat) (f : Tower → Tower) : (s.onTower tw f).scmds = s.scmds := rfl
@[simp] theorem State.onTower_nextCmd (s : State) (tw : Nat) (f : Tower → Tower) : (s.onTower tw f).nextCmd = s.nextCmd := rfl
@[simp] theorem State.onTower_masters (s : State) (tw : Nat) (f : Tower → Tower) : (s.onTower tw f).masters = s.masters := rfl
@[simp] theorem State.onTower_builds (s : State) (tw : Nat) (f : Tower → Tower) : (s.onTower tw f).builds = s.builds := rfl
@[simp] theorem State.onTower_loads (s : State) (tw : Nat) (f : Tower → Tower) : (s.onTower tw f).loads = s.loads := rfl
@[simp] theorem State.onTower_routes (s : State) (tw : Nat) (f : Tower → Tower) : (s.onTower tw f).routes = s.routes := rfl
@[simp] theorem State.onTower_routeIgnored (s : State) (tw : Nat) (f : Tower → Tower) : (s.onTower tw f).routeIgnored = s.routeIgnored := rfl
@[simp] theorem State.onTower_snoop (s : State) (tw : Nat) (f : Tower → Tower) : (s.onTower tw f).snoop = s.snoop := rfl
@[simp] theorem State.onTower_outbox (s : State) (tw : Nat) (f : Tower → Tower) : (s.onTower tw f).outbox = s.outbox := rfl
@[simp] theorem State.onTower_links (s : State) (tw : Nat) (f : Tower → Tower) : (s.onTower tw f).links = s.links := rfl
@[simp] theorem State.onTower_flitRetries (s : State) (tw : Nat) (f : Tower → Tower) : (s.onTower tw f).flitRetries = s.flitRetries := rfl
@[simp] theorem State.onTower_corrected (s : State) (tw : Nat) (f : Tower → Tower) : (s.onTower tw f).corrected = s.corrected := rfl
@[simp] theorem State.onTower_cxlLanes (s : State) (tw : Nat) (f : Tower → Tower) : (s.onTower tw f).cxlLanes = s.cxlLanes := rfl
@[simp] theorem State.onTower_gangs (s : State) (tw : Nat) (f : Tower → Tower) : (s.onTower tw f).gangs = s.gangs := rfl
@[simp] theorem State.onTower_ckptRun (s : State) (tw : Nat) (f : Tower → Tower) : (s.onTower tw f).ckptRun = s.ckptRun := rfl
@[simp] theorem State.onTower_mboxes (s : State) (tw : Nat) (f : Tower → Tower) : (s.onTower tw f).mboxes = s.mboxes := rfl
@[simp] theorem State.onTower_mboxQueue (s : State) (tw : Nat) (f : Tower → Tower) : (s.onTower tw f).mboxQueue = s.mboxQueue := rfl
@[simp] theorem State.onTower_measures (s : State) (tw : Nat) (f : Tower → Tower) : (s.onTower tw f).measures = s.measures := rfl
@[simp] theorem State.onTower_fuses (s : State) (tw : Nat) (f : Tower → Tower) : (s.onTower tw f).fuses = s.fuses := rfl
@[simp] theorem State.onTower_cap (s : State) (tw : Nat) (f : Tower → Tower) : (s.onTower tw f).cap = s.cap := rfl
@[simp] theorem State.onTower_capOverAt (s : State) (tw : Nat) (f : Tower → Tower) : (s.onTower tw f).capOverAt = s.capOverAt := rfl
@[simp] theorem State.onTower_clock (s : State) (tw : Nat) (f : Tower → Tower) : (s.onTower tw f).clock = s.clock := rfl
@[simp] theorem State.onTower_share (s : State) (tw : Nat) (f : Tower → Tower) : (s.onTower tw f).share = s.share := rfl
@[simp] theorem State.onTower_throttling (s : State) (tw : Nat) (f : Tower → Tower) : (s.onTower tw f).throttling = s.throttling := rfl
@[simp] theorem State.onTower_stepAt (s : State) (tw : Nat) (f : Tower → Tower) : (s.onTower tw f).stepAt = s.stepAt := rfl
@[simp] theorem State.onTower_inReset (s : State) (tw : Nat) (f : Tower → Tower) : (s.onTower tw f).inReset = s.inReset := rfl
@[simp] theorem State.onTower_fwWait (s : State) (tw : Nat) (f : Tower → Tower) : (s.onTower tw f).fwWait = s.fwWait := rfl
@[simp] theorem State.onTower_retiredSlices (s : State) (tw : Nat) (f : Tower → Tower) : (s.onTower tw f).retiredSlices = s.retiredSlices := rfl
@[simp] theorem State.onTower_sparedRows (s : State) (tw : Nat) (f : Tower → Tower) : (s.onTower tw f).sparedRows = s.sparedRows := rfl
@[simp] theorem State.onTower_hbmLanes (s : State) (tw : Nat) (f : Tower → Tower) : (s.onTower tw f).hbmLanes = s.hbmLanes := rfl
@[simp] theorem State.onTower_sliceWait (s : State) (tw : Nat) (f : Tower → Tower) : (s.onTower tw f).sliceWait = s.sliceWait := rfl
@[simp] theorem State.onTower_focus (s : State) (tw : Nat) (f : Tower → Tower) : (s.onTower tw f).focus = s.focus := rfl
@[simp] theorem State.onTower_agenda (s : State) (tw : Nat) (f : Tower → Tower) : (s.onTower tw f).agenda = s.agenda := rfl
@[simp] theorem State.onTower_moves (s : State) (tw : Nat) (f : Tower → Tower) : (s.onTower tw f).moves = s.moves := rfl
@[simp] theorem State.onTower_stopped (s : State) (tw : Nat) (f : Tower → Tower) : (s.onTower tw f).stopped = s.stopped := rfl

/-! ### onWindow -/

@[simp] theorem State.onWindow_mem (s : State) (tw w : Nat) (f : Window → Window) : (s.onWindow tw w f).mem = s.mem := rfl
@[simp] theorem State.onWindow_time (s : State) (tw w : Nat) (f : Window → Window) : (s.onWindow tw w f).time = s.time := rfl
@[simp] theorem State.onWindow_ctxs (s : State) (tw w : Nat) (f : Window → Window) : (s.onWindow tw w f).ctxs = s.ctxs := rfl
@[simp] theorem State.onWindow_towers (s : State) (tw w : Nat) (f : Window → Window) : (s.onWindow tw w f).towers = s.towers.modify tw fun t => { t with windows := t.windows.modify w f } := rfl
@[simp] theorem State.onWindow_hyps (s : State) (tw w : Nat) (f : Window → Window) : (s.onWindow tw w f).hyps = s.hyps := rfl
@[simp] theorem State.onWindow_versions (s : State) (tw w : Nat) (f : Window → Window) : (s.onWindow tw w f).versions = s.versions := rfl
@[simp] theorem State.onWindow_badLines (s : State) (tw w : Nat) (f : Window → Window) : (s.onWindow tw w f).badLines = s.badLines := rfl
@[simp] theorem State.onWindow_self (s : State) (tw w : Nat) (f : Window → Window) : (s.onWindow tw w f).self = s.self := rfl
@[simp] theorem State.onWindow_mnodes (s : State) (tw w : Nat) (f : Window → Window) : (s.onWindow tw w f).mnodes = s.mnodes := rfl
@[simp] theorem State.onWindow_scmds (s : State) (tw w : Nat) (f : Window → Window) : (s.onWindow tw w f).scmds = s.scmds := rfl
@[simp] theorem State.onWindow_loads (s : State) (tw w : Nat) (f : Window → Window) : (s.onWindow tw w f).loads = s.loads := rfl
@[simp] theorem State.onWindow_outbox (s : State) (tw w : Nat) (f : Window → Window) : (s.onWindow tw w f).outbox = s.outbox := rfl
@[simp] theorem State.onWindow_focus (s : State) (tw w : Nat) (f : Window → Window) : (s.onWindow tw w f).focus = s.focus := rfl
@[simp] theorem State.onWindow_agenda (s : State) (tw w : Nat) (f : Window → Window) : (s.onWindow tw w f).agenda = s.agenda := rfl
@[simp] theorem State.onWindow_moves (s : State) (tw w : Nat) (f : Window → Window) : (s.onWindow tw w f).moves = s.moves := rfl
@[simp] theorem State.onWindow_stopped (s : State) (tw w : Nat) (f : Window → Window) : (s.onWindow tw w f).stopped = s.stopped := rfl

/-! ### onInbox -/

@[simp] theorem State.onInbox_mem (s : State) (tw cell : Nat) (f : Inbox → Inbox) : (s.onInbox tw cell f).mem = s.mem := rfl
@[simp] theorem State.onInbox_time (s : State) (tw cell : Nat) (f : Inbox → Inbox) : (s.onInbox tw cell f).time = s.time := rfl
@[simp] theorem State.onInbox_ctxs (s : State) (tw cell : Nat) (f : Inbox → Inbox) : (s.onInbox tw cell f).ctxs = s.ctxs := rfl
@[simp] theorem State.onInbox_hyps (s : State) (tw cell : Nat) (f : Inbox → Inbox) : (s.onInbox tw cell f).hyps = s.hyps := rfl
@[simp] theorem State.onInbox_versions (s : State) (tw cell : Nat) (f : Inbox → Inbox) : (s.onInbox tw cell f).versions = s.versions := rfl
@[simp] theorem State.onInbox_badLines (s : State) (tw cell : Nat) (f : Inbox → Inbox) : (s.onInbox tw cell f).badLines = s.badLines := rfl
@[simp] theorem State.onInbox_self (s : State) (tw cell : Nat) (f : Inbox → Inbox) : (s.onInbox tw cell f).self = s.self := rfl
@[simp] theorem State.onInbox_mnodes (s : State) (tw cell : Nat) (f : Inbox → Inbox) : (s.onInbox tw cell f).mnodes = s.mnodes := rfl
@[simp] theorem State.onInbox_scmds (s : State) (tw cell : Nat) (f : Inbox → Inbox) : (s.onInbox tw cell f).scmds = s.scmds := rfl
@[simp] theorem State.onInbox_loads (s : State) (tw cell : Nat) (f : Inbox → Inbox) : (s.onInbox tw cell f).loads = s.loads := rfl
@[simp] theorem State.onInbox_outbox (s : State) (tw cell : Nat) (f : Inbox → Inbox) : (s.onInbox tw cell f).outbox = s.outbox := rfl
@[simp] theorem State.onInbox_focus (s : State) (tw cell : Nat) (f : Inbox → Inbox) : (s.onInbox tw cell f).focus = s.focus := rfl
@[simp] theorem State.onInbox_agenda (s : State) (tw cell : Nat) (f : Inbox → Inbox) : (s.onInbox tw cell f).agenda = s.agenda := rfl
@[simp] theorem State.onInbox_moves (s : State) (tw cell : Nat) (f : Inbox → Inbox) : (s.onInbox tw cell f).moves = s.moves := rfl
@[simp] theorem State.onInbox_stopped (s : State) (tw cell : Nat) (f : Inbox → Inbox) : (s.onInbox tw cell f).stopped = s.stopped := rfl

/-! ### onTask -/

@[simp] theorem State.onTask_mem (s : State) (tw : Nat) (k : TaskKey) (f : TaskInfo → TaskInfo) : (s.onTask tw k f).mem = s.mem := rfl
@[simp] theorem State.onTask_time (s : State) (tw : Nat) (k : TaskKey) (f : TaskInfo → TaskInfo) : (s.onTask tw k f).time = s.time := rfl
@[simp] theorem State.onTask_ctxs (s : State) (tw : Nat) (k : TaskKey) (f : TaskInfo → TaskInfo) : (s.onTask tw k f).ctxs = s.ctxs := rfl
@[simp] theorem State.onTask_hyps (s : State) (tw : Nat) (k : TaskKey) (f : TaskInfo → TaskInfo) : (s.onTask tw k f).hyps = s.hyps := rfl
@[simp] theorem State.onTask_versions (s : State) (tw : Nat) (k : TaskKey) (f : TaskInfo → TaskInfo) : (s.onTask tw k f).versions = s.versions := rfl
@[simp] theorem State.onTask_badLines (s : State) (tw : Nat) (k : TaskKey) (f : TaskInfo → TaskInfo) : (s.onTask tw k f).badLines = s.badLines := rfl
@[simp] theorem State.onTask_self (s : State) (tw : Nat) (k : TaskKey) (f : TaskInfo → TaskInfo) : (s.onTask tw k f).self = s.self := rfl
@[simp] theorem State.onTask_mnodes (s : State) (tw : Nat) (k : TaskKey) (f : TaskInfo → TaskInfo) : (s.onTask tw k f).mnodes = s.mnodes := rfl
@[simp] theorem State.onTask_scmds (s : State) (tw : Nat) (k : TaskKey) (f : TaskInfo → TaskInfo) : (s.onTask tw k f).scmds = s.scmds := rfl
@[simp] theorem State.onTask_loads (s : State) (tw : Nat) (k : TaskKey) (f : TaskInfo → TaskInfo) : (s.onTask tw k f).loads = s.loads := rfl
@[simp] theorem State.onTask_outbox (s : State) (tw : Nat) (k : TaskKey) (f : TaskInfo → TaskInfo) : (s.onTask tw k f).outbox = s.outbox := rfl
@[simp] theorem State.onTask_focus (s : State) (tw : Nat) (k : TaskKey) (f : TaskInfo → TaskInfo) : (s.onTask tw k f).focus = s.focus := rfl
@[simp] theorem State.onTask_agenda (s : State) (tw : Nat) (k : TaskKey) (f : TaskInfo → TaskInfo) : (s.onTask tw k f).agenda = s.agenda := rfl
@[simp] theorem State.onTask_moves (s : State) (tw : Nat) (k : TaskKey) (f : TaskInfo → TaskInfo) : (s.onTask tw k f).moves = s.moves := rfl
@[simp] theorem State.onTask_stopped (s : State) (tw : Nat) (k : TaskKey) (f : TaskInfo → TaskInfo) : (s.onTask tw k f).stopped = s.stopped := rfl

/-! ### onHyp -/

@[simp] theorem State.onHyp_mem (s : State) (h : BitVec 12) (f : Hyp → Hyp) : (s.onHyp h f).mem = s.mem := rfl
@[simp] theorem State.onHyp_time (s : State) (h : BitVec 12) (f : Hyp → Hyp) : (s.onHyp h f).time = s.time := rfl
@[simp] theorem State.onHyp_ctxs (s : State) (h : BitVec 12) (f : Hyp → Hyp) : (s.onHyp h f).ctxs = s.ctxs := rfl
@[simp] theorem State.onHyp_nextCtx (s : State) (h : BitVec 12) (f : Hyp → Hyp) : (s.onHyp h f).nextCtx = s.nextCtx := rfl
@[simp] theorem State.onHyp_towers (s : State) (h : BitVec 12) (f : Hyp → Hyp) : (s.onHyp h f).towers = s.towers := rfl
@[simp] theorem State.onHyp_asidtab (s : State) (h : BitVec 12) (f : Hyp → Hyp) : (s.onHyp h f).asidtab = s.asidtab := rfl
@[simp] theorem State.onHyp_liveAsids (s : State) (h : BitVec 12) (f : Hyp → Hyp) : (s.onHyp h f).liveAsids = s.liveAsids := rfl
@[simp] theorem State.onHyp_asidCmd (s : State) (h : BitVec 12) (f : Hyp → Hyp) : (s.onHyp h f).asidCmd = s.asidCmd := rfl
@[simp] theorem State.onHyp_asidRef (s : State) (h : BitVec 12) (f : Hyp → Hyp) : (s.onHyp h f).asidRef = s.asidRef := rfl
@[simp] theorem State.onHyp_vlogSize (s : State) (h : BitVec 12) (f : Hyp → Hyp) : (s.onHyp h f).vlogSize = s.vlogSize := rfl
@[simp] theorem State.onHyp_vlogEn (s : State) (h : BitVec 12) (f : Hyp → Hyp) : (s.onHyp h f).vlogEn = s.vlogEn := rfl
@[simp] theorem State.onHyp_vlogPa (s : State) (h : BitVec 12) (f : Hyp → Hyp) : (s.onHyp h f).vlogPa = s.vlogPa := rfl
@[simp] theorem State.onHyp_hyps (s : State) (h : BitVec 12) (f : Hyp → Hyp) : (s.onHyp h f).hyps = s.hyps.map fun x => if x.n = h then f x else x := rfl
@[simp] theorem State.onHyp_versions (s : State) (h : BitVec 12) (f : Hyp → Hyp) : (s.onHyp h f).versions = s.versions := rfl
@[simp] theorem State.onHyp_shoots (s : State) (h : BitVec 12) (f : Hyp → Hyp) : (s.onHyp h f).shoots = s.shoots := rfl
@[simp] theorem State.onHyp_badLines (s : State) (h : BitVec 12) (f : Hyp → Hyp) : (s.onHyp h f).badLines = s.badLines := rfl
@[simp] theorem State.onHyp_self (s : State) (h : BitVec 12) (f : Hyp → Hyp) : (s.onHyp h f).self = s.self := rfl
@[simp] theorem State.onHyp_recq (s : State) (h : BitVec 12) (f : Hyp → Hyp) : (s.onHyp h f).recq = s.recq := rfl
@[simp] theorem State.onHyp_lates (s : State) (h : BitVec 12) (f : Hyp → Hyp) : (s.onHyp h f).lates = s.lates := rfl
@[simp] theorem State.onHyp_heldActs (s : State) (h : BitVec 12) (f : Hyp → Hyp) : (s.onHyp h f).heldActs = s.heldActs := rfl
@[simp] theorem State.onHyp_ended (s : State) (h : BitVec 12) (f : Hyp → Hyp) : (s.onHyp h f).ended = s.ended := rfl
@[simp] theorem State.onHyp_flight (s : State) (h : BitVec 12) (f : Hyp → Hyp) : (s.onHyp h f).flight = s.flight := rfl
@[simp] theorem State.onHyp_mnodes (s : State) (h : BitVec 12) (f : Hyp → Hyp) : (s.onHyp h f).mnodes = s.mnodes := rfl
@[simp] theorem State.onHyp_scmds (s : State) (h : BitVec 12) (f : Hyp → Hyp) : (s.onHyp h f).scmds = s.scmds := rfl
@[simp] theorem State.onHyp_nextCmd (s : State) (h : BitVec 12) (f : Hyp → Hyp) : (s.onHyp h f).nextCmd = s.nextCmd := rfl
@[simp] theorem State.onHyp_masters (s : State) (h : BitVec 12) (f : Hyp → Hyp) : (s.onHyp h f).masters = s.masters := rfl
@[simp] theorem State.onHyp_builds (s : State) (h : BitVec 12) (f : Hyp → Hyp) : (s.onHyp h f).builds = s.builds := rfl
@[simp] theorem State.onHyp_loads (s : State) (h : BitVec 12) (f : Hyp → Hyp) : (s.onHyp h f).loads = s.loads := rfl
@[simp] theorem State.onHyp_routes (s : State) (h : BitVec 12) (f : Hyp → Hyp) : (s.onHyp h f).routes = s.routes := rfl
@[simp] theorem State.onHyp_routeIgnored (s : State) (h : BitVec 12) (f : Hyp → Hyp) : (s.onHyp h f).routeIgnored = s.routeIgnored := rfl
@[simp] theorem State.onHyp_snoop (s : State) (h : BitVec 12) (f : Hyp → Hyp) : (s.onHyp h f).snoop = s.snoop := rfl
@[simp] theorem State.onHyp_outbox (s : State) (h : BitVec 12) (f : Hyp → Hyp) : (s.onHyp h f).outbox = s.outbox := rfl
@[simp] theorem State.onHyp_links (s : State) (h : BitVec 12) (f : Hyp → Hyp) : (s.onHyp h f).links = s.links := rfl
@[simp] theorem State.onHyp_flitRetries (s : State) (h : BitVec 12) (f : Hyp → Hyp) : (s.onHyp h f).flitRetries = s.flitRetries := rfl
@[simp] theorem State.onHyp_corrected (s : State) (h : BitVec 12) (f : Hyp → Hyp) : (s.onHyp h f).corrected = s.corrected := rfl
@[simp] theorem State.onHyp_cxlLanes (s : State) (h : BitVec 12) (f : Hyp → Hyp) : (s.onHyp h f).cxlLanes = s.cxlLanes := rfl
@[simp] theorem State.onHyp_gangs (s : State) (h : BitVec 12) (f : Hyp → Hyp) : (s.onHyp h f).gangs = s.gangs := rfl
@[simp] theorem State.onHyp_ckptRun (s : State) (h : BitVec 12) (f : Hyp → Hyp) : (s.onHyp h f).ckptRun = s.ckptRun := rfl
@[simp] theorem State.onHyp_mboxes (s : State) (h : BitVec 12) (f : Hyp → Hyp) : (s.onHyp h f).mboxes = s.mboxes := rfl
@[simp] theorem State.onHyp_mboxQueue (s : State) (h : BitVec 12) (f : Hyp → Hyp) : (s.onHyp h f).mboxQueue = s.mboxQueue := rfl
@[simp] theorem State.onHyp_measures (s : State) (h : BitVec 12) (f : Hyp → Hyp) : (s.onHyp h f).measures = s.measures := rfl
@[simp] theorem State.onHyp_fuses (s : State) (h : BitVec 12) (f : Hyp → Hyp) : (s.onHyp h f).fuses = s.fuses := rfl
@[simp] theorem State.onHyp_cap (s : State) (h : BitVec 12) (f : Hyp → Hyp) : (s.onHyp h f).cap = s.cap := rfl
@[simp] theorem State.onHyp_capOverAt (s : State) (h : BitVec 12) (f : Hyp → Hyp) : (s.onHyp h f).capOverAt = s.capOverAt := rfl
@[simp] theorem State.onHyp_clock (s : State) (h : BitVec 12) (f : Hyp → Hyp) : (s.onHyp h f).clock = s.clock := rfl
@[simp] theorem State.onHyp_share (s : State) (h : BitVec 12) (f : Hyp → Hyp) : (s.onHyp h f).share = s.share := rfl
@[simp] theorem State.onHyp_throttling (s : State) (h : BitVec 12) (f : Hyp → Hyp) : (s.onHyp h f).throttling = s.throttling := rfl
@[simp] theorem State.onHyp_stepAt (s : State) (h : BitVec 12) (f : Hyp → Hyp) : (s.onHyp h f).stepAt = s.stepAt := rfl
@[simp] theorem State.onHyp_inReset (s : State) (h : BitVec 12) (f : Hyp → Hyp) : (s.onHyp h f).inReset = s.inReset := rfl
@[simp] theorem State.onHyp_fwWait (s : State) (h : BitVec 12) (f : Hyp → Hyp) : (s.onHyp h f).fwWait = s.fwWait := rfl
@[simp] theorem State.onHyp_retiredSlices (s : State) (h : BitVec 12) (f : Hyp → Hyp) : (s.onHyp h f).retiredSlices = s.retiredSlices := rfl
@[simp] theorem State.onHyp_sparedRows (s : State) (h : BitVec 12) (f : Hyp → Hyp) : (s.onHyp h f).sparedRows = s.sparedRows := rfl
@[simp] theorem State.onHyp_hbmLanes (s : State) (h : BitVec 12) (f : Hyp → Hyp) : (s.onHyp h f).hbmLanes = s.hbmLanes := rfl
@[simp] theorem State.onHyp_sliceWait (s : State) (h : BitVec 12) (f : Hyp → Hyp) : (s.onHyp h f).sliceWait = s.sliceWait := rfl
@[simp] theorem State.onHyp_focus (s : State) (h : BitVec 12) (f : Hyp → Hyp) : (s.onHyp h f).focus = s.focus := rfl
@[simp] theorem State.onHyp_agenda (s : State) (h : BitVec 12) (f : Hyp → Hyp) : (s.onHyp h f).agenda = s.agenda := rfl
@[simp] theorem State.onHyp_moves (s : State) (h : BitVec 12) (f : Hyp → Hyp) : (s.onHyp h f).moves = s.moves := rfl
@[simp] theorem State.onHyp_stopped (s : State) (h : BitVec 12) (f : Hyp → Hyp) : (s.onHyp h f).stopped = s.stopped := rfl

/-! ### onLoad -/

@[simp] theorem State.onLoad_mem (s : State) (tw slot : Nat) (f : Load → Load) : (s.onLoad tw slot f).mem = s.mem := rfl
@[simp] theorem State.onLoad_time (s : State) (tw slot : Nat) (f : Load → Load) : (s.onLoad tw slot f).time = s.time := rfl
@[simp] theorem State.onLoad_ctxs (s : State) (tw slot : Nat) (f : Load → Load) : (s.onLoad tw slot f).ctxs = s.ctxs := rfl
@[simp] theorem State.onLoad_nextCtx (s : State) (tw slot : Nat) (f : Load → Load) : (s.onLoad tw slot f).nextCtx = s.nextCtx := rfl
@[simp] theorem State.onLoad_towers (s : State) (tw slot : Nat) (f : Load → Load) : (s.onLoad tw slot f).towers = s.towers := rfl
@[simp] theorem State.onLoad_asidtab (s : State) (tw slot : Nat) (f : Load → Load) : (s.onLoad tw slot f).asidtab = s.asidtab := rfl
@[simp] theorem State.onLoad_liveAsids (s : State) (tw slot : Nat) (f : Load → Load) : (s.onLoad tw slot f).liveAsids = s.liveAsids := rfl
@[simp] theorem State.onLoad_asidCmd (s : State) (tw slot : Nat) (f : Load → Load) : (s.onLoad tw slot f).asidCmd = s.asidCmd := rfl
@[simp] theorem State.onLoad_asidRef (s : State) (tw slot : Nat) (f : Load → Load) : (s.onLoad tw slot f).asidRef = s.asidRef := rfl
@[simp] theorem State.onLoad_vlogSize (s : State) (tw slot : Nat) (f : Load → Load) : (s.onLoad tw slot f).vlogSize = s.vlogSize := rfl
@[simp] theorem State.onLoad_vlogEn (s : State) (tw slot : Nat) (f : Load → Load) : (s.onLoad tw slot f).vlogEn = s.vlogEn := rfl
@[simp] theorem State.onLoad_vlogPa (s : State) (tw slot : Nat) (f : Load → Load) : (s.onLoad tw slot f).vlogPa = s.vlogPa := rfl
@[simp] theorem State.onLoad_hyps (s : State) (tw slot : Nat) (f : Load → Load) : (s.onLoad tw slot f).hyps = s.hyps := rfl
@[simp] theorem State.onLoad_versions (s : State) (tw slot : Nat) (f : Load → Load) : (s.onLoad tw slot f).versions = s.versions := rfl
@[simp] theorem State.onLoad_shoots (s : State) (tw slot : Nat) (f : Load → Load) : (s.onLoad tw slot f).shoots = s.shoots := rfl
@[simp] theorem State.onLoad_badLines (s : State) (tw slot : Nat) (f : Load → Load) : (s.onLoad tw slot f).badLines = s.badLines := rfl
@[simp] theorem State.onLoad_self (s : State) (tw slot : Nat) (f : Load → Load) : (s.onLoad tw slot f).self = s.self := rfl
@[simp] theorem State.onLoad_recq (s : State) (tw slot : Nat) (f : Load → Load) : (s.onLoad tw slot f).recq = s.recq := rfl
@[simp] theorem State.onLoad_lates (s : State) (tw slot : Nat) (f : Load → Load) : (s.onLoad tw slot f).lates = s.lates := rfl
@[simp] theorem State.onLoad_heldActs (s : State) (tw slot : Nat) (f : Load → Load) : (s.onLoad tw slot f).heldActs = s.heldActs := rfl
@[simp] theorem State.onLoad_ended (s : State) (tw slot : Nat) (f : Load → Load) : (s.onLoad tw slot f).ended = s.ended := rfl
@[simp] theorem State.onLoad_flight (s : State) (tw slot : Nat) (f : Load → Load) : (s.onLoad tw slot f).flight = s.flight := rfl
@[simp] theorem State.onLoad_mnodes (s : State) (tw slot : Nat) (f : Load → Load) : (s.onLoad tw slot f).mnodes = s.mnodes := rfl
@[simp] theorem State.onLoad_scmds (s : State) (tw slot : Nat) (f : Load → Load) : (s.onLoad tw slot f).scmds = s.scmds := rfl
@[simp] theorem State.onLoad_nextCmd (s : State) (tw slot : Nat) (f : Load → Load) : (s.onLoad tw slot f).nextCmd = s.nextCmd := rfl
@[simp] theorem State.onLoad_masters (s : State) (tw slot : Nat) (f : Load → Load) : (s.onLoad tw slot f).masters = s.masters := rfl
@[simp] theorem State.onLoad_builds (s : State) (tw slot : Nat) (f : Load → Load) : (s.onLoad tw slot f).builds = s.builds := rfl
@[simp] theorem State.onLoad_loads (s : State) (tw slot : Nat) (f : Load → Load) : (s.onLoad tw slot f).loads = s.loads.map fun l => if l.tower = tw ∧ l.slot = slot then f l else l := rfl
@[simp] theorem State.onLoad_routes (s : State) (tw slot : Nat) (f : Load → Load) : (s.onLoad tw slot f).routes = s.routes := rfl
@[simp] theorem State.onLoad_routeIgnored (s : State) (tw slot : Nat) (f : Load → Load) : (s.onLoad tw slot f).routeIgnored = s.routeIgnored := rfl
@[simp] theorem State.onLoad_snoop (s : State) (tw slot : Nat) (f : Load → Load) : (s.onLoad tw slot f).snoop = s.snoop := rfl
@[simp] theorem State.onLoad_outbox (s : State) (tw slot : Nat) (f : Load → Load) : (s.onLoad tw slot f).outbox = s.outbox := rfl
@[simp] theorem State.onLoad_links (s : State) (tw slot : Nat) (f : Load → Load) : (s.onLoad tw slot f).links = s.links := rfl
@[simp] theorem State.onLoad_flitRetries (s : State) (tw slot : Nat) (f : Load → Load) : (s.onLoad tw slot f).flitRetries = s.flitRetries := rfl
@[simp] theorem State.onLoad_corrected (s : State) (tw slot : Nat) (f : Load → Load) : (s.onLoad tw slot f).corrected = s.corrected := rfl
@[simp] theorem State.onLoad_cxlLanes (s : State) (tw slot : Nat) (f : Load → Load) : (s.onLoad tw slot f).cxlLanes = s.cxlLanes := rfl
@[simp] theorem State.onLoad_gangs (s : State) (tw slot : Nat) (f : Load → Load) : (s.onLoad tw slot f).gangs = s.gangs := rfl
@[simp] theorem State.onLoad_ckptRun (s : State) (tw slot : Nat) (f : Load → Load) : (s.onLoad tw slot f).ckptRun = s.ckptRun := rfl
@[simp] theorem State.onLoad_mboxes (s : State) (tw slot : Nat) (f : Load → Load) : (s.onLoad tw slot f).mboxes = s.mboxes := rfl
@[simp] theorem State.onLoad_mboxQueue (s : State) (tw slot : Nat) (f : Load → Load) : (s.onLoad tw slot f).mboxQueue = s.mboxQueue := rfl
@[simp] theorem State.onLoad_measures (s : State) (tw slot : Nat) (f : Load → Load) : (s.onLoad tw slot f).measures = s.measures := rfl
@[simp] theorem State.onLoad_fuses (s : State) (tw slot : Nat) (f : Load → Load) : (s.onLoad tw slot f).fuses = s.fuses := rfl
@[simp] theorem State.onLoad_cap (s : State) (tw slot : Nat) (f : Load → Load) : (s.onLoad tw slot f).cap = s.cap := rfl
@[simp] theorem State.onLoad_capOverAt (s : State) (tw slot : Nat) (f : Load → Load) : (s.onLoad tw slot f).capOverAt = s.capOverAt := rfl
@[simp] theorem State.onLoad_clock (s : State) (tw slot : Nat) (f : Load → Load) : (s.onLoad tw slot f).clock = s.clock := rfl
@[simp] theorem State.onLoad_share (s : State) (tw slot : Nat) (f : Load → Load) : (s.onLoad tw slot f).share = s.share := rfl
@[simp] theorem State.onLoad_throttling (s : State) (tw slot : Nat) (f : Load → Load) : (s.onLoad tw slot f).throttling = s.throttling := rfl
@[simp] theorem State.onLoad_stepAt (s : State) (tw slot : Nat) (f : Load → Load) : (s.onLoad tw slot f).stepAt = s.stepAt := rfl
@[simp] theorem State.onLoad_inReset (s : State) (tw slot : Nat) (f : Load → Load) : (s.onLoad tw slot f).inReset = s.inReset := rfl
@[simp] theorem State.onLoad_fwWait (s : State) (tw slot : Nat) (f : Load → Load) : (s.onLoad tw slot f).fwWait = s.fwWait := rfl
@[simp] theorem State.onLoad_retiredSlices (s : State) (tw slot : Nat) (f : Load → Load) : (s.onLoad tw slot f).retiredSlices = s.retiredSlices := rfl
@[simp] theorem State.onLoad_sparedRows (s : State) (tw slot : Nat) (f : Load → Load) : (s.onLoad tw slot f).sparedRows = s.sparedRows := rfl
@[simp] theorem State.onLoad_hbmLanes (s : State) (tw slot : Nat) (f : Load → Load) : (s.onLoad tw slot f).hbmLanes = s.hbmLanes := rfl
@[simp] theorem State.onLoad_sliceWait (s : State) (tw slot : Nat) (f : Load → Load) : (s.onLoad tw slot f).sliceWait = s.sliceWait := rfl
@[simp] theorem State.onLoad_focus (s : State) (tw slot : Nat) (f : Load → Load) : (s.onLoad tw slot f).focus = s.focus := rfl
@[simp] theorem State.onLoad_agenda (s : State) (tw slot : Nat) (f : Load → Load) : (s.onLoad tw slot f).agenda = s.agenda := rfl
@[simp] theorem State.onLoad_moves (s : State) (tw slot : Nat) (f : Load → Load) : (s.onLoad tw slot f).moves = s.moves := rfl
@[simp] theorem State.onLoad_stopped (s : State) (tw slot : Nat) (f : Load → Load) : (s.onLoad tw slot f).stopped = s.stopped := rfl

/-! ### setNode -/

@[simp] theorem State.setNode_mem (s : State) (m : MNode) : (s.setNode m).mem = s.mem := rfl
@[simp] theorem State.setNode_time (s : State) (m : MNode) : (s.setNode m).time = s.time := rfl
@[simp] theorem State.setNode_ctxs (s : State) (m : MNode) : (s.setNode m).ctxs = s.ctxs := rfl
@[simp] theorem State.setNode_nextCtx (s : State) (m : MNode) : (s.setNode m).nextCtx = s.nextCtx := rfl
@[simp] theorem State.setNode_towers (s : State) (m : MNode) : (s.setNode m).towers = s.towers := rfl
@[simp] theorem State.setNode_asidtab (s : State) (m : MNode) : (s.setNode m).asidtab = s.asidtab := rfl
@[simp] theorem State.setNode_liveAsids (s : State) (m : MNode) : (s.setNode m).liveAsids = s.liveAsids := rfl
@[simp] theorem State.setNode_asidCmd (s : State) (m : MNode) : (s.setNode m).asidCmd = s.asidCmd := rfl
@[simp] theorem State.setNode_asidRef (s : State) (m : MNode) : (s.setNode m).asidRef = s.asidRef := rfl
@[simp] theorem State.setNode_vlogSize (s : State) (m : MNode) : (s.setNode m).vlogSize = s.vlogSize := rfl
@[simp] theorem State.setNode_vlogEn (s : State) (m : MNode) : (s.setNode m).vlogEn = s.vlogEn := rfl
@[simp] theorem State.setNode_vlogPa (s : State) (m : MNode) : (s.setNode m).vlogPa = s.vlogPa := rfl
@[simp] theorem State.setNode_hyps (s : State) (m : MNode) : (s.setNode m).hyps = s.hyps := rfl
@[simp] theorem State.setNode_versions (s : State) (m : MNode) : (s.setNode m).versions = s.versions := rfl
@[simp] theorem State.setNode_shoots (s : State) (m : MNode) : (s.setNode m).shoots = s.shoots := rfl
@[simp] theorem State.setNode_badLines (s : State) (m : MNode) : (s.setNode m).badLines = s.badLines := rfl
@[simp] theorem State.setNode_self (s : State) (m : MNode) : (s.setNode m).self = s.self := rfl
@[simp] theorem State.setNode_recq (s : State) (m : MNode) : (s.setNode m).recq = s.recq := rfl
@[simp] theorem State.setNode_lates (s : State) (m : MNode) : (s.setNode m).lates = s.lates := rfl
@[simp] theorem State.setNode_heldActs (s : State) (m : MNode) : (s.setNode m).heldActs = s.heldActs := rfl
@[simp] theorem State.setNode_ended (s : State) (m : MNode) : (s.setNode m).ended = s.ended := rfl
@[simp] theorem State.setNode_flight (s : State) (m : MNode) : (s.setNode m).flight = s.flight := rfl
@[simp] theorem State.setNode_mnodes (s : State) (m : MNode) : (s.setNode m).mnodes = s.mnodes.map fun x => if x.tower = m.tower ∧ x.n = m.n then m else x := rfl
@[simp] theorem State.setNode_scmds (s : State) (m : MNode) : (s.setNode m).scmds = s.scmds := rfl
@[simp] theorem State.setNode_nextCmd (s : State) (m : MNode) : (s.setNode m).nextCmd = s.nextCmd := rfl
@[simp] theorem State.setNode_masters (s : State) (m : MNode) : (s.setNode m).masters = s.masters := rfl
@[simp] theorem State.setNode_builds (s : State) (m : MNode) : (s.setNode m).builds = s.builds := rfl
@[simp] theorem State.setNode_loads (s : State) (m : MNode) : (s.setNode m).loads = s.loads := rfl
@[simp] theorem State.setNode_routes (s : State) (m : MNode) : (s.setNode m).routes = s.routes := rfl
@[simp] theorem State.setNode_routeIgnored (s : State) (m : MNode) : (s.setNode m).routeIgnored = s.routeIgnored := rfl
@[simp] theorem State.setNode_snoop (s : State) (m : MNode) : (s.setNode m).snoop = s.snoop := rfl
@[simp] theorem State.setNode_outbox (s : State) (m : MNode) : (s.setNode m).outbox = s.outbox := rfl
@[simp] theorem State.setNode_links (s : State) (m : MNode) : (s.setNode m).links = s.links := rfl
@[simp] theorem State.setNode_flitRetries (s : State) (m : MNode) : (s.setNode m).flitRetries = s.flitRetries := rfl
@[simp] theorem State.setNode_corrected (s : State) (m : MNode) : (s.setNode m).corrected = s.corrected := rfl
@[simp] theorem State.setNode_cxlLanes (s : State) (m : MNode) : (s.setNode m).cxlLanes = s.cxlLanes := rfl
@[simp] theorem State.setNode_gangs (s : State) (m : MNode) : (s.setNode m).gangs = s.gangs := rfl
@[simp] theorem State.setNode_ckptRun (s : State) (m : MNode) : (s.setNode m).ckptRun = s.ckptRun := rfl
@[simp] theorem State.setNode_mboxes (s : State) (m : MNode) : (s.setNode m).mboxes = s.mboxes := rfl
@[simp] theorem State.setNode_mboxQueue (s : State) (m : MNode) : (s.setNode m).mboxQueue = s.mboxQueue := rfl
@[simp] theorem State.setNode_measures (s : State) (m : MNode) : (s.setNode m).measures = s.measures := rfl
@[simp] theorem State.setNode_fuses (s : State) (m : MNode) : (s.setNode m).fuses = s.fuses := rfl
@[simp] theorem State.setNode_cap (s : State) (m : MNode) : (s.setNode m).cap = s.cap := rfl
@[simp] theorem State.setNode_capOverAt (s : State) (m : MNode) : (s.setNode m).capOverAt = s.capOverAt := rfl
@[simp] theorem State.setNode_clock (s : State) (m : MNode) : (s.setNode m).clock = s.clock := rfl
@[simp] theorem State.setNode_share (s : State) (m : MNode) : (s.setNode m).share = s.share := rfl
@[simp] theorem State.setNode_throttling (s : State) (m : MNode) : (s.setNode m).throttling = s.throttling := rfl
@[simp] theorem State.setNode_stepAt (s : State) (m : MNode) : (s.setNode m).stepAt = s.stepAt := rfl
@[simp] theorem State.setNode_inReset (s : State) (m : MNode) : (s.setNode m).inReset = s.inReset := rfl
@[simp] theorem State.setNode_fwWait (s : State) (m : MNode) : (s.setNode m).fwWait = s.fwWait := rfl
@[simp] theorem State.setNode_retiredSlices (s : State) (m : MNode) : (s.setNode m).retiredSlices = s.retiredSlices := rfl
@[simp] theorem State.setNode_sparedRows (s : State) (m : MNode) : (s.setNode m).sparedRows = s.sparedRows := rfl
@[simp] theorem State.setNode_hbmLanes (s : State) (m : MNode) : (s.setNode m).hbmLanes = s.hbmLanes := rfl
@[simp] theorem State.setNode_sliceWait (s : State) (m : MNode) : (s.setNode m).sliceWait = s.sliceWait := rfl
@[simp] theorem State.setNode_focus (s : State) (m : MNode) : (s.setNode m).focus = s.focus := rfl
@[simp] theorem State.setNode_agenda (s : State) (m : MNode) : (s.setNode m).agenda = s.agenda := rfl
@[simp] theorem State.setNode_moves (s : State) (m : MNode) : (s.setNode m).moves = s.moves := rfl
@[simp] theorem State.setNode_stopped (s : State) (m : MNode) : (s.setNode m).stopped = s.stopped := rfl

/-! ### onMaster -/

@[simp] theorem State.onMaster_mem (s : State) (tw slot : Nat) (f : Master → Master) : (s.onMaster tw slot f).mem = s.mem := rfl
@[simp] theorem State.onMaster_time (s : State) (tw slot : Nat) (f : Master → Master) : (s.onMaster tw slot f).time = s.time := rfl
@[simp] theorem State.onMaster_ctxs (s : State) (tw slot : Nat) (f : Master → Master) : (s.onMaster tw slot f).ctxs = s.ctxs := rfl
@[simp] theorem State.onMaster_nextCtx (s : State) (tw slot : Nat) (f : Master → Master) : (s.onMaster tw slot f).nextCtx = s.nextCtx := rfl
@[simp] theorem State.onMaster_towers (s : State) (tw slot : Nat) (f : Master → Master) : (s.onMaster tw slot f).towers = s.towers := rfl
@[simp] theorem State.onMaster_asidtab (s : State) (tw slot : Nat) (f : Master → Master) : (s.onMaster tw slot f).asidtab = s.asidtab := rfl
@[simp] theorem State.onMaster_liveAsids (s : State) (tw slot : Nat) (f : Master → Master) : (s.onMaster tw slot f).liveAsids = s.liveAsids := rfl
@[simp] theorem State.onMaster_asidCmd (s : State) (tw slot : Nat) (f : Master → Master) : (s.onMaster tw slot f).asidCmd = s.asidCmd := rfl
@[simp] theorem State.onMaster_asidRef (s : State) (tw slot : Nat) (f : Master → Master) : (s.onMaster tw slot f).asidRef = s.asidRef := rfl
@[simp] theorem State.onMaster_vlogSize (s : State) (tw slot : Nat) (f : Master → Master) : (s.onMaster tw slot f).vlogSize = s.vlogSize := rfl
@[simp] theorem State.onMaster_vlogEn (s : State) (tw slot : Nat) (f : Master → Master) : (s.onMaster tw slot f).vlogEn = s.vlogEn := rfl
@[simp] theorem State.onMaster_vlogPa (s : State) (tw slot : Nat) (f : Master → Master) : (s.onMaster tw slot f).vlogPa = s.vlogPa := rfl
@[simp] theorem State.onMaster_hyps (s : State) (tw slot : Nat) (f : Master → Master) : (s.onMaster tw slot f).hyps = s.hyps := rfl
@[simp] theorem State.onMaster_versions (s : State) (tw slot : Nat) (f : Master → Master) : (s.onMaster tw slot f).versions = s.versions := rfl
@[simp] theorem State.onMaster_shoots (s : State) (tw slot : Nat) (f : Master → Master) : (s.onMaster tw slot f).shoots = s.shoots := rfl
@[simp] theorem State.onMaster_badLines (s : State) (tw slot : Nat) (f : Master → Master) : (s.onMaster tw slot f).badLines = s.badLines := rfl
@[simp] theorem State.onMaster_self (s : State) (tw slot : Nat) (f : Master → Master) : (s.onMaster tw slot f).self = s.self := rfl
@[simp] theorem State.onMaster_recq (s : State) (tw slot : Nat) (f : Master → Master) : (s.onMaster tw slot f).recq = s.recq := rfl
@[simp] theorem State.onMaster_lates (s : State) (tw slot : Nat) (f : Master → Master) : (s.onMaster tw slot f).lates = s.lates := rfl
@[simp] theorem State.onMaster_heldActs (s : State) (tw slot : Nat) (f : Master → Master) : (s.onMaster tw slot f).heldActs = s.heldActs := rfl
@[simp] theorem State.onMaster_ended (s : State) (tw slot : Nat) (f : Master → Master) : (s.onMaster tw slot f).ended = s.ended := rfl
@[simp] theorem State.onMaster_flight (s : State) (tw slot : Nat) (f : Master → Master) : (s.onMaster tw slot f).flight = s.flight := rfl
@[simp] theorem State.onMaster_mnodes (s : State) (tw slot : Nat) (f : Master → Master) : (s.onMaster tw slot f).mnodes = s.mnodes := rfl
@[simp] theorem State.onMaster_scmds (s : State) (tw slot : Nat) (f : Master → Master) : (s.onMaster tw slot f).scmds = s.scmds := rfl
@[simp] theorem State.onMaster_nextCmd (s : State) (tw slot : Nat) (f : Master → Master) : (s.onMaster tw slot f).nextCmd = s.nextCmd := rfl
@[simp] theorem State.onMaster_masters (s : State) (tw slot : Nat) (f : Master → Master) : (s.onMaster tw slot f).masters = s.masters.map fun m => if m.tower = tw ∧ m.slot = slot then f m else m := rfl
@[simp] theorem State.onMaster_builds (s : State) (tw slot : Nat) (f : Master → Master) : (s.onMaster tw slot f).builds = s.builds := rfl
@[simp] theorem State.onMaster_loads (s : State) (tw slot : Nat) (f : Master → Master) : (s.onMaster tw slot f).loads = s.loads := rfl
@[simp] theorem State.onMaster_routes (s : State) (tw slot : Nat) (f : Master → Master) : (s.onMaster tw slot f).routes = s.routes := rfl
@[simp] theorem State.onMaster_routeIgnored (s : State) (tw slot : Nat) (f : Master → Master) : (s.onMaster tw slot f).routeIgnored = s.routeIgnored := rfl
@[simp] theorem State.onMaster_snoop (s : State) (tw slot : Nat) (f : Master → Master) : (s.onMaster tw slot f).snoop = s.snoop := rfl
@[simp] theorem State.onMaster_outbox (s : State) (tw slot : Nat) (f : Master → Master) : (s.onMaster tw slot f).outbox = s.outbox := rfl
@[simp] theorem State.onMaster_links (s : State) (tw slot : Nat) (f : Master → Master) : (s.onMaster tw slot f).links = s.links := rfl
@[simp] theorem State.onMaster_flitRetries (s : State) (tw slot : Nat) (f : Master → Master) : (s.onMaster tw slot f).flitRetries = s.flitRetries := rfl
@[simp] theorem State.onMaster_corrected (s : State) (tw slot : Nat) (f : Master → Master) : (s.onMaster tw slot f).corrected = s.corrected := rfl
@[simp] theorem State.onMaster_cxlLanes (s : State) (tw slot : Nat) (f : Master → Master) : (s.onMaster tw slot f).cxlLanes = s.cxlLanes := rfl
@[simp] theorem State.onMaster_gangs (s : State) (tw slot : Nat) (f : Master → Master) : (s.onMaster tw slot f).gangs = s.gangs := rfl
@[simp] theorem State.onMaster_ckptRun (s : State) (tw slot : Nat) (f : Master → Master) : (s.onMaster tw slot f).ckptRun = s.ckptRun := rfl
@[simp] theorem State.onMaster_mboxes (s : State) (tw slot : Nat) (f : Master → Master) : (s.onMaster tw slot f).mboxes = s.mboxes := rfl
@[simp] theorem State.onMaster_mboxQueue (s : State) (tw slot : Nat) (f : Master → Master) : (s.onMaster tw slot f).mboxQueue = s.mboxQueue := rfl
@[simp] theorem State.onMaster_measures (s : State) (tw slot : Nat) (f : Master → Master) : (s.onMaster tw slot f).measures = s.measures := rfl
@[simp] theorem State.onMaster_fuses (s : State) (tw slot : Nat) (f : Master → Master) : (s.onMaster tw slot f).fuses = s.fuses := rfl
@[simp] theorem State.onMaster_cap (s : State) (tw slot : Nat) (f : Master → Master) : (s.onMaster tw slot f).cap = s.cap := rfl
@[simp] theorem State.onMaster_capOverAt (s : State) (tw slot : Nat) (f : Master → Master) : (s.onMaster tw slot f).capOverAt = s.capOverAt := rfl
@[simp] theorem State.onMaster_clock (s : State) (tw slot : Nat) (f : Master → Master) : (s.onMaster tw slot f).clock = s.clock := rfl
@[simp] theorem State.onMaster_share (s : State) (tw slot : Nat) (f : Master → Master) : (s.onMaster tw slot f).share = s.share := rfl
@[simp] theorem State.onMaster_throttling (s : State) (tw slot : Nat) (f : Master → Master) : (s.onMaster tw slot f).throttling = s.throttling := rfl
@[simp] theorem State.onMaster_stepAt (s : State) (tw slot : Nat) (f : Master → Master) : (s.onMaster tw slot f).stepAt = s.stepAt := rfl
@[simp] theorem State.onMaster_inReset (s : State) (tw slot : Nat) (f : Master → Master) : (s.onMaster tw slot f).inReset = s.inReset := rfl
@[simp] theorem State.onMaster_fwWait (s : State) (tw slot : Nat) (f : Master → Master) : (s.onMaster tw slot f).fwWait = s.fwWait := rfl
@[simp] theorem State.onMaster_retiredSlices (s : State) (tw slot : Nat) (f : Master → Master) : (s.onMaster tw slot f).retiredSlices = s.retiredSlices := rfl
@[simp] theorem State.onMaster_sparedRows (s : State) (tw slot : Nat) (f : Master → Master) : (s.onMaster tw slot f).sparedRows = s.sparedRows := rfl
@[simp] theorem State.onMaster_hbmLanes (s : State) (tw slot : Nat) (f : Master → Master) : (s.onMaster tw slot f).hbmLanes = s.hbmLanes := rfl
@[simp] theorem State.onMaster_sliceWait (s : State) (tw slot : Nat) (f : Master → Master) : (s.onMaster tw slot f).sliceWait = s.sliceWait := rfl
@[simp] theorem State.onMaster_focus (s : State) (tw slot : Nat) (f : Master → Master) : (s.onMaster tw slot f).focus = s.focus := rfl
@[simp] theorem State.onMaster_agenda (s : State) (tw slot : Nat) (f : Master → Master) : (s.onMaster tw slot f).agenda = s.agenda := rfl
@[simp] theorem State.onMaster_moves (s : State) (tw slot : Nat) (f : Master → Master) : (s.onMaster tw slot f).moves = s.moves := rfl
@[simp] theorem State.onMaster_stopped (s : State) (tw slot : Nat) (f : Master → Master) : (s.onMaster tw slot f).stopped = s.stopped := rfl

/-! ### onScmd -/

@[simp] theorem State.onScmd_mem (s : State) (id : Nat) (f : SCmd → SCmd) : (s.onScmd id f).mem = s.mem := rfl
@[simp] theorem State.onScmd_time (s : State) (id : Nat) (f : SCmd → SCmd) : (s.onScmd id f).time = s.time := rfl
@[simp] theorem State.onScmd_ctxs (s : State) (id : Nat) (f : SCmd → SCmd) : (s.onScmd id f).ctxs = s.ctxs := rfl
@[simp] theorem State.onScmd_nextCtx (s : State) (id : Nat) (f : SCmd → SCmd) : (s.onScmd id f).nextCtx = s.nextCtx := rfl
@[simp] theorem State.onScmd_towers (s : State) (id : Nat) (f : SCmd → SCmd) : (s.onScmd id f).towers = s.towers := rfl
@[simp] theorem State.onScmd_asidtab (s : State) (id : Nat) (f : SCmd → SCmd) : (s.onScmd id f).asidtab = s.asidtab := rfl
@[simp] theorem State.onScmd_liveAsids (s : State) (id : Nat) (f : SCmd → SCmd) : (s.onScmd id f).liveAsids = s.liveAsids := rfl
@[simp] theorem State.onScmd_asidCmd (s : State) (id : Nat) (f : SCmd → SCmd) : (s.onScmd id f).asidCmd = s.asidCmd := rfl
@[simp] theorem State.onScmd_asidRef (s : State) (id : Nat) (f : SCmd → SCmd) : (s.onScmd id f).asidRef = s.asidRef := rfl
@[simp] theorem State.onScmd_vlogSize (s : State) (id : Nat) (f : SCmd → SCmd) : (s.onScmd id f).vlogSize = s.vlogSize := rfl
@[simp] theorem State.onScmd_vlogEn (s : State) (id : Nat) (f : SCmd → SCmd) : (s.onScmd id f).vlogEn = s.vlogEn := rfl
@[simp] theorem State.onScmd_vlogPa (s : State) (id : Nat) (f : SCmd → SCmd) : (s.onScmd id f).vlogPa = s.vlogPa := rfl
@[simp] theorem State.onScmd_hyps (s : State) (id : Nat) (f : SCmd → SCmd) : (s.onScmd id f).hyps = s.hyps := rfl
@[simp] theorem State.onScmd_versions (s : State) (id : Nat) (f : SCmd → SCmd) : (s.onScmd id f).versions = s.versions := rfl
@[simp] theorem State.onScmd_shoots (s : State) (id : Nat) (f : SCmd → SCmd) : (s.onScmd id f).shoots = s.shoots := rfl
@[simp] theorem State.onScmd_badLines (s : State) (id : Nat) (f : SCmd → SCmd) : (s.onScmd id f).badLines = s.badLines := rfl
@[simp] theorem State.onScmd_self (s : State) (id : Nat) (f : SCmd → SCmd) : (s.onScmd id f).self = s.self := rfl
@[simp] theorem State.onScmd_recq (s : State) (id : Nat) (f : SCmd → SCmd) : (s.onScmd id f).recq = s.recq := rfl
@[simp] theorem State.onScmd_lates (s : State) (id : Nat) (f : SCmd → SCmd) : (s.onScmd id f).lates = s.lates := rfl
@[simp] theorem State.onScmd_heldActs (s : State) (id : Nat) (f : SCmd → SCmd) : (s.onScmd id f).heldActs = s.heldActs := rfl
@[simp] theorem State.onScmd_ended (s : State) (id : Nat) (f : SCmd → SCmd) : (s.onScmd id f).ended = s.ended := rfl
@[simp] theorem State.onScmd_flight (s : State) (id : Nat) (f : SCmd → SCmd) : (s.onScmd id f).flight = s.flight := rfl
@[simp] theorem State.onScmd_mnodes (s : State) (id : Nat) (f : SCmd → SCmd) : (s.onScmd id f).mnodes = s.mnodes := rfl
@[simp] theorem State.onScmd_scmds (s : State) (id : Nat) (f : SCmd → SCmd) : (s.onScmd id f).scmds = s.scmds.map fun q => if q.id = id then f q else q := rfl
@[simp] theorem State.onScmd_nextCmd (s : State) (id : Nat) (f : SCmd → SCmd) : (s.onScmd id f).nextCmd = s.nextCmd := rfl
@[simp] theorem State.onScmd_masters (s : State) (id : Nat) (f : SCmd → SCmd) : (s.onScmd id f).masters = s.masters := rfl
@[simp] theorem State.onScmd_builds (s : State) (id : Nat) (f : SCmd → SCmd) : (s.onScmd id f).builds = s.builds := rfl
@[simp] theorem State.onScmd_loads (s : State) (id : Nat) (f : SCmd → SCmd) : (s.onScmd id f).loads = s.loads := rfl
@[simp] theorem State.onScmd_routes (s : State) (id : Nat) (f : SCmd → SCmd) : (s.onScmd id f).routes = s.routes := rfl
@[simp] theorem State.onScmd_routeIgnored (s : State) (id : Nat) (f : SCmd → SCmd) : (s.onScmd id f).routeIgnored = s.routeIgnored := rfl
@[simp] theorem State.onScmd_snoop (s : State) (id : Nat) (f : SCmd → SCmd) : (s.onScmd id f).snoop = s.snoop := rfl
@[simp] theorem State.onScmd_outbox (s : State) (id : Nat) (f : SCmd → SCmd) : (s.onScmd id f).outbox = s.outbox := rfl
@[simp] theorem State.onScmd_links (s : State) (id : Nat) (f : SCmd → SCmd) : (s.onScmd id f).links = s.links := rfl
@[simp] theorem State.onScmd_flitRetries (s : State) (id : Nat) (f : SCmd → SCmd) : (s.onScmd id f).flitRetries = s.flitRetries := rfl
@[simp] theorem State.onScmd_corrected (s : State) (id : Nat) (f : SCmd → SCmd) : (s.onScmd id f).corrected = s.corrected := rfl
@[simp] theorem State.onScmd_cxlLanes (s : State) (id : Nat) (f : SCmd → SCmd) : (s.onScmd id f).cxlLanes = s.cxlLanes := rfl
@[simp] theorem State.onScmd_gangs (s : State) (id : Nat) (f : SCmd → SCmd) : (s.onScmd id f).gangs = s.gangs := rfl
@[simp] theorem State.onScmd_ckptRun (s : State) (id : Nat) (f : SCmd → SCmd) : (s.onScmd id f).ckptRun = s.ckptRun := rfl
@[simp] theorem State.onScmd_mboxes (s : State) (id : Nat) (f : SCmd → SCmd) : (s.onScmd id f).mboxes = s.mboxes := rfl
@[simp] theorem State.onScmd_mboxQueue (s : State) (id : Nat) (f : SCmd → SCmd) : (s.onScmd id f).mboxQueue = s.mboxQueue := rfl
@[simp] theorem State.onScmd_measures (s : State) (id : Nat) (f : SCmd → SCmd) : (s.onScmd id f).measures = s.measures := rfl
@[simp] theorem State.onScmd_fuses (s : State) (id : Nat) (f : SCmd → SCmd) : (s.onScmd id f).fuses = s.fuses := rfl
@[simp] theorem State.onScmd_cap (s : State) (id : Nat) (f : SCmd → SCmd) : (s.onScmd id f).cap = s.cap := rfl
@[simp] theorem State.onScmd_capOverAt (s : State) (id : Nat) (f : SCmd → SCmd) : (s.onScmd id f).capOverAt = s.capOverAt := rfl
@[simp] theorem State.onScmd_clock (s : State) (id : Nat) (f : SCmd → SCmd) : (s.onScmd id f).clock = s.clock := rfl
@[simp] theorem State.onScmd_share (s : State) (id : Nat) (f : SCmd → SCmd) : (s.onScmd id f).share = s.share := rfl
@[simp] theorem State.onScmd_throttling (s : State) (id : Nat) (f : SCmd → SCmd) : (s.onScmd id f).throttling = s.throttling := rfl
@[simp] theorem State.onScmd_stepAt (s : State) (id : Nat) (f : SCmd → SCmd) : (s.onScmd id f).stepAt = s.stepAt := rfl
@[simp] theorem State.onScmd_inReset (s : State) (id : Nat) (f : SCmd → SCmd) : (s.onScmd id f).inReset = s.inReset := rfl
@[simp] theorem State.onScmd_fwWait (s : State) (id : Nat) (f : SCmd → SCmd) : (s.onScmd id f).fwWait = s.fwWait := rfl
@[simp] theorem State.onScmd_retiredSlices (s : State) (id : Nat) (f : SCmd → SCmd) : (s.onScmd id f).retiredSlices = s.retiredSlices := rfl
@[simp] theorem State.onScmd_sparedRows (s : State) (id : Nat) (f : SCmd → SCmd) : (s.onScmd id f).sparedRows = s.sparedRows := rfl
@[simp] theorem State.onScmd_hbmLanes (s : State) (id : Nat) (f : SCmd → SCmd) : (s.onScmd id f).hbmLanes = s.hbmLanes := rfl
@[simp] theorem State.onScmd_sliceWait (s : State) (id : Nat) (f : SCmd → SCmd) : (s.onScmd id f).sliceWait = s.sliceWait := rfl
@[simp] theorem State.onScmd_focus (s : State) (id : Nat) (f : SCmd → SCmd) : (s.onScmd id f).focus = s.focus := rfl
@[simp] theorem State.onScmd_agenda (s : State) (id : Nat) (f : SCmd → SCmd) : (s.onScmd id f).agenda = s.agenda := rfl
@[simp] theorem State.onScmd_moves (s : State) (id : Nat) (f : SCmd → SCmd) : (s.onScmd id f).moves = s.moves := rfl
@[simp] theorem State.onScmd_stopped (s : State) (id : Nat) (f : SCmd → SCmd) : (s.onScmd id f).stopped = s.stopped := rfl

/-! ### onGang -/

@[simp] theorem State.onGang_mem (s : State) (gid : Nat) (f : Gang → Gang) : (s.onGang gid f).mem = s.mem := rfl
@[simp] theorem State.onGang_time (s : State) (gid : Nat) (f : Gang → Gang) : (s.onGang gid f).time = s.time := rfl
@[simp] theorem State.onGang_ctxs (s : State) (gid : Nat) (f : Gang → Gang) : (s.onGang gid f).ctxs = s.ctxs := rfl
@[simp] theorem State.onGang_nextCtx (s : State) (gid : Nat) (f : Gang → Gang) : (s.onGang gid f).nextCtx = s.nextCtx := rfl
@[simp] theorem State.onGang_towers (s : State) (gid : Nat) (f : Gang → Gang) : (s.onGang gid f).towers = s.towers := rfl
@[simp] theorem State.onGang_asidtab (s : State) (gid : Nat) (f : Gang → Gang) : (s.onGang gid f).asidtab = s.asidtab := rfl
@[simp] theorem State.onGang_liveAsids (s : State) (gid : Nat) (f : Gang → Gang) : (s.onGang gid f).liveAsids = s.liveAsids := rfl
@[simp] theorem State.onGang_asidCmd (s : State) (gid : Nat) (f : Gang → Gang) : (s.onGang gid f).asidCmd = s.asidCmd := rfl
@[simp] theorem State.onGang_asidRef (s : State) (gid : Nat) (f : Gang → Gang) : (s.onGang gid f).asidRef = s.asidRef := rfl
@[simp] theorem State.onGang_vlogSize (s : State) (gid : Nat) (f : Gang → Gang) : (s.onGang gid f).vlogSize = s.vlogSize := rfl
@[simp] theorem State.onGang_vlogEn (s : State) (gid : Nat) (f : Gang → Gang) : (s.onGang gid f).vlogEn = s.vlogEn := rfl
@[simp] theorem State.onGang_vlogPa (s : State) (gid : Nat) (f : Gang → Gang) : (s.onGang gid f).vlogPa = s.vlogPa := rfl
@[simp] theorem State.onGang_hyps (s : State) (gid : Nat) (f : Gang → Gang) : (s.onGang gid f).hyps = s.hyps := rfl
@[simp] theorem State.onGang_versions (s : State) (gid : Nat) (f : Gang → Gang) : (s.onGang gid f).versions = s.versions := rfl
@[simp] theorem State.onGang_shoots (s : State) (gid : Nat) (f : Gang → Gang) : (s.onGang gid f).shoots = s.shoots := rfl
@[simp] theorem State.onGang_badLines (s : State) (gid : Nat) (f : Gang → Gang) : (s.onGang gid f).badLines = s.badLines := rfl
@[simp] theorem State.onGang_self (s : State) (gid : Nat) (f : Gang → Gang) : (s.onGang gid f).self = s.self := rfl
@[simp] theorem State.onGang_recq (s : State) (gid : Nat) (f : Gang → Gang) : (s.onGang gid f).recq = s.recq := rfl
@[simp] theorem State.onGang_lates (s : State) (gid : Nat) (f : Gang → Gang) : (s.onGang gid f).lates = s.lates := rfl
@[simp] theorem State.onGang_heldActs (s : State) (gid : Nat) (f : Gang → Gang) : (s.onGang gid f).heldActs = s.heldActs := rfl
@[simp] theorem State.onGang_ended (s : State) (gid : Nat) (f : Gang → Gang) : (s.onGang gid f).ended = s.ended := rfl
@[simp] theorem State.onGang_flight (s : State) (gid : Nat) (f : Gang → Gang) : (s.onGang gid f).flight = s.flight := rfl
@[simp] theorem State.onGang_mnodes (s : State) (gid : Nat) (f : Gang → Gang) : (s.onGang gid f).mnodes = s.mnodes := rfl
@[simp] theorem State.onGang_scmds (s : State) (gid : Nat) (f : Gang → Gang) : (s.onGang gid f).scmds = s.scmds := rfl
@[simp] theorem State.onGang_nextCmd (s : State) (gid : Nat) (f : Gang → Gang) : (s.onGang gid f).nextCmd = s.nextCmd := rfl
@[simp] theorem State.onGang_masters (s : State) (gid : Nat) (f : Gang → Gang) : (s.onGang gid f).masters = s.masters := rfl
@[simp] theorem State.onGang_builds (s : State) (gid : Nat) (f : Gang → Gang) : (s.onGang gid f).builds = s.builds := rfl
@[simp] theorem State.onGang_loads (s : State) (gid : Nat) (f : Gang → Gang) : (s.onGang gid f).loads = s.loads := rfl
@[simp] theorem State.onGang_routes (s : State) (gid : Nat) (f : Gang → Gang) : (s.onGang gid f).routes = s.routes := rfl
@[simp] theorem State.onGang_routeIgnored (s : State) (gid : Nat) (f : Gang → Gang) : (s.onGang gid f).routeIgnored = s.routeIgnored := rfl
@[simp] theorem State.onGang_snoop (s : State) (gid : Nat) (f : Gang → Gang) : (s.onGang gid f).snoop = s.snoop := rfl
@[simp] theorem State.onGang_outbox (s : State) (gid : Nat) (f : Gang → Gang) : (s.onGang gid f).outbox = s.outbox := rfl
@[simp] theorem State.onGang_links (s : State) (gid : Nat) (f : Gang → Gang) : (s.onGang gid f).links = s.links := rfl
@[simp] theorem State.onGang_flitRetries (s : State) (gid : Nat) (f : Gang → Gang) : (s.onGang gid f).flitRetries = s.flitRetries := rfl
@[simp] theorem State.onGang_corrected (s : State) (gid : Nat) (f : Gang → Gang) : (s.onGang gid f).corrected = s.corrected := rfl
@[simp] theorem State.onGang_cxlLanes (s : State) (gid : Nat) (f : Gang → Gang) : (s.onGang gid f).cxlLanes = s.cxlLanes := rfl
@[simp] theorem State.onGang_gangs (s : State) (gid : Nat) (f : Gang → Gang) : (s.onGang gid f).gangs = s.gangs.map fun g => if g.gid = gid then f g else g := rfl
@[simp] theorem State.onGang_ckptRun (s : State) (gid : Nat) (f : Gang → Gang) : (s.onGang gid f).ckptRun = s.ckptRun := rfl
@[simp] theorem State.onGang_mboxes (s : State) (gid : Nat) (f : Gang → Gang) : (s.onGang gid f).mboxes = s.mboxes := rfl
@[simp] theorem State.onGang_mboxQueue (s : State) (gid : Nat) (f : Gang → Gang) : (s.onGang gid f).mboxQueue = s.mboxQueue := rfl
@[simp] theorem State.onGang_measures (s : State) (gid : Nat) (f : Gang → Gang) : (s.onGang gid f).measures = s.measures := rfl
@[simp] theorem State.onGang_fuses (s : State) (gid : Nat) (f : Gang → Gang) : (s.onGang gid f).fuses = s.fuses := rfl
@[simp] theorem State.onGang_cap (s : State) (gid : Nat) (f : Gang → Gang) : (s.onGang gid f).cap = s.cap := rfl
@[simp] theorem State.onGang_capOverAt (s : State) (gid : Nat) (f : Gang → Gang) : (s.onGang gid f).capOverAt = s.capOverAt := rfl
@[simp] theorem State.onGang_clock (s : State) (gid : Nat) (f : Gang → Gang) : (s.onGang gid f).clock = s.clock := rfl
@[simp] theorem State.onGang_share (s : State) (gid : Nat) (f : Gang → Gang) : (s.onGang gid f).share = s.share := rfl
@[simp] theorem State.onGang_throttling (s : State) (gid : Nat) (f : Gang → Gang) : (s.onGang gid f).throttling = s.throttling := rfl
@[simp] theorem State.onGang_stepAt (s : State) (gid : Nat) (f : Gang → Gang) : (s.onGang gid f).stepAt = s.stepAt := rfl
@[simp] theorem State.onGang_inReset (s : State) (gid : Nat) (f : Gang → Gang) : (s.onGang gid f).inReset = s.inReset := rfl
@[simp] theorem State.onGang_fwWait (s : State) (gid : Nat) (f : Gang → Gang) : (s.onGang gid f).fwWait = s.fwWait := rfl
@[simp] theorem State.onGang_retiredSlices (s : State) (gid : Nat) (f : Gang → Gang) : (s.onGang gid f).retiredSlices = s.retiredSlices := rfl
@[simp] theorem State.onGang_sparedRows (s : State) (gid : Nat) (f : Gang → Gang) : (s.onGang gid f).sparedRows = s.sparedRows := rfl
@[simp] theorem State.onGang_hbmLanes (s : State) (gid : Nat) (f : Gang → Gang) : (s.onGang gid f).hbmLanes = s.hbmLanes := rfl
@[simp] theorem State.onGang_sliceWait (s : State) (gid : Nat) (f : Gang → Gang) : (s.onGang gid f).sliceWait = s.sliceWait := rfl
@[simp] theorem State.onGang_focus (s : State) (gid : Nat) (f : Gang → Gang) : (s.onGang gid f).focus = s.focus := rfl
@[simp] theorem State.onGang_agenda (s : State) (gid : Nat) (f : Gang → Gang) : (s.onGang gid f).agenda = s.agenda := rfl
@[simp] theorem State.onGang_moves (s : State) (gid : Nat) (f : Gang → Gang) : (s.onGang gid f).moves = s.moves := rfl
@[simp] theorem State.onGang_stopped (s : State) (gid : Nat) (f : Gang → Gang) : (s.onGang gid f).stopped = s.stopped := rfl

/-! ### onLink -/

@[simp] theorem State.onLink_mem (s : State) (n : Nat) (f : Link → Link) : (s.onLink n f).mem = s.mem := rfl
@[simp] theorem State.onLink_time (s : State) (n : Nat) (f : Link → Link) : (s.onLink n f).time = s.time := rfl
@[simp] theorem State.onLink_ctxs (s : State) (n : Nat) (f : Link → Link) : (s.onLink n f).ctxs = s.ctxs := rfl
@[simp] theorem State.onLink_nextCtx (s : State) (n : Nat) (f : Link → Link) : (s.onLink n f).nextCtx = s.nextCtx := rfl
@[simp] theorem State.onLink_towers (s : State) (n : Nat) (f : Link → Link) : (s.onLink n f).towers = s.towers := rfl
@[simp] theorem State.onLink_asidtab (s : State) (n : Nat) (f : Link → Link) : (s.onLink n f).asidtab = s.asidtab := rfl
@[simp] theorem State.onLink_liveAsids (s : State) (n : Nat) (f : Link → Link) : (s.onLink n f).liveAsids = s.liveAsids := rfl
@[simp] theorem State.onLink_asidCmd (s : State) (n : Nat) (f : Link → Link) : (s.onLink n f).asidCmd = s.asidCmd := rfl
@[simp] theorem State.onLink_asidRef (s : State) (n : Nat) (f : Link → Link) : (s.onLink n f).asidRef = s.asidRef := rfl
@[simp] theorem State.onLink_vlogSize (s : State) (n : Nat) (f : Link → Link) : (s.onLink n f).vlogSize = s.vlogSize := rfl
@[simp] theorem State.onLink_vlogEn (s : State) (n : Nat) (f : Link → Link) : (s.onLink n f).vlogEn = s.vlogEn := rfl
@[simp] theorem State.onLink_vlogPa (s : State) (n : Nat) (f : Link → Link) : (s.onLink n f).vlogPa = s.vlogPa := rfl
@[simp] theorem State.onLink_hyps (s : State) (n : Nat) (f : Link → Link) : (s.onLink n f).hyps = s.hyps := rfl
@[simp] theorem State.onLink_versions (s : State) (n : Nat) (f : Link → Link) : (s.onLink n f).versions = s.versions := rfl
@[simp] theorem State.onLink_shoots (s : State) (n : Nat) (f : Link → Link) : (s.onLink n f).shoots = s.shoots := rfl
@[simp] theorem State.onLink_badLines (s : State) (n : Nat) (f : Link → Link) : (s.onLink n f).badLines = s.badLines := rfl
@[simp] theorem State.onLink_self (s : State) (n : Nat) (f : Link → Link) : (s.onLink n f).self = s.self := rfl
@[simp] theorem State.onLink_recq (s : State) (n : Nat) (f : Link → Link) : (s.onLink n f).recq = s.recq := rfl
@[simp] theorem State.onLink_lates (s : State) (n : Nat) (f : Link → Link) : (s.onLink n f).lates = s.lates := rfl
@[simp] theorem State.onLink_heldActs (s : State) (n : Nat) (f : Link → Link) : (s.onLink n f).heldActs = s.heldActs := rfl
@[simp] theorem State.onLink_ended (s : State) (n : Nat) (f : Link → Link) : (s.onLink n f).ended = s.ended := rfl
@[simp] theorem State.onLink_flight (s : State) (n : Nat) (f : Link → Link) : (s.onLink n f).flight = s.flight := rfl
@[simp] theorem State.onLink_mnodes (s : State) (n : Nat) (f : Link → Link) : (s.onLink n f).mnodes = s.mnodes := rfl
@[simp] theorem State.onLink_scmds (s : State) (n : Nat) (f : Link → Link) : (s.onLink n f).scmds = s.scmds := rfl
@[simp] theorem State.onLink_nextCmd (s : State) (n : Nat) (f : Link → Link) : (s.onLink n f).nextCmd = s.nextCmd := rfl
@[simp] theorem State.onLink_masters (s : State) (n : Nat) (f : Link → Link) : (s.onLink n f).masters = s.masters := rfl
@[simp] theorem State.onLink_builds (s : State) (n : Nat) (f : Link → Link) : (s.onLink n f).builds = s.builds := rfl
@[simp] theorem State.onLink_loads (s : State) (n : Nat) (f : Link → Link) : (s.onLink n f).loads = s.loads := rfl
@[simp] theorem State.onLink_routes (s : State) (n : Nat) (f : Link → Link) : (s.onLink n f).routes = s.routes := rfl
@[simp] theorem State.onLink_routeIgnored (s : State) (n : Nat) (f : Link → Link) : (s.onLink n f).routeIgnored = s.routeIgnored := rfl
@[simp] theorem State.onLink_snoop (s : State) (n : Nat) (f : Link → Link) : (s.onLink n f).snoop = s.snoop := rfl
@[simp] theorem State.onLink_outbox (s : State) (n : Nat) (f : Link → Link) : (s.onLink n f).outbox = s.outbox := rfl
@[simp] theorem State.onLink_links (s : State) (n : Nat) (f : Link → Link) : (s.onLink n f).links = s.links.modify n f := rfl
@[simp] theorem State.onLink_flitRetries (s : State) (n : Nat) (f : Link → Link) : (s.onLink n f).flitRetries = s.flitRetries := rfl
@[simp] theorem State.onLink_corrected (s : State) (n : Nat) (f : Link → Link) : (s.onLink n f).corrected = s.corrected := rfl
@[simp] theorem State.onLink_cxlLanes (s : State) (n : Nat) (f : Link → Link) : (s.onLink n f).cxlLanes = s.cxlLanes := rfl
@[simp] theorem State.onLink_gangs (s : State) (n : Nat) (f : Link → Link) : (s.onLink n f).gangs = s.gangs := rfl
@[simp] theorem State.onLink_ckptRun (s : State) (n : Nat) (f : Link → Link) : (s.onLink n f).ckptRun = s.ckptRun := rfl
@[simp] theorem State.onLink_mboxes (s : State) (n : Nat) (f : Link → Link) : (s.onLink n f).mboxes = s.mboxes := rfl
@[simp] theorem State.onLink_mboxQueue (s : State) (n : Nat) (f : Link → Link) : (s.onLink n f).mboxQueue = s.mboxQueue := rfl
@[simp] theorem State.onLink_measures (s : State) (n : Nat) (f : Link → Link) : (s.onLink n f).measures = s.measures := rfl
@[simp] theorem State.onLink_fuses (s : State) (n : Nat) (f : Link → Link) : (s.onLink n f).fuses = s.fuses := rfl
@[simp] theorem State.onLink_cap (s : State) (n : Nat) (f : Link → Link) : (s.onLink n f).cap = s.cap := rfl
@[simp] theorem State.onLink_capOverAt (s : State) (n : Nat) (f : Link → Link) : (s.onLink n f).capOverAt = s.capOverAt := rfl
@[simp] theorem State.onLink_clock (s : State) (n : Nat) (f : Link → Link) : (s.onLink n f).clock = s.clock := rfl
@[simp] theorem State.onLink_share (s : State) (n : Nat) (f : Link → Link) : (s.onLink n f).share = s.share := rfl
@[simp] theorem State.onLink_throttling (s : State) (n : Nat) (f : Link → Link) : (s.onLink n f).throttling = s.throttling := rfl
@[simp] theorem State.onLink_stepAt (s : State) (n : Nat) (f : Link → Link) : (s.onLink n f).stepAt = s.stepAt := rfl
@[simp] theorem State.onLink_inReset (s : State) (n : Nat) (f : Link → Link) : (s.onLink n f).inReset = s.inReset := rfl
@[simp] theorem State.onLink_fwWait (s : State) (n : Nat) (f : Link → Link) : (s.onLink n f).fwWait = s.fwWait := rfl
@[simp] theorem State.onLink_retiredSlices (s : State) (n : Nat) (f : Link → Link) : (s.onLink n f).retiredSlices = s.retiredSlices := rfl
@[simp] theorem State.onLink_sparedRows (s : State) (n : Nat) (f : Link → Link) : (s.onLink n f).sparedRows = s.sparedRows := rfl
@[simp] theorem State.onLink_hbmLanes (s : State) (n : Nat) (f : Link → Link) : (s.onLink n f).hbmLanes = s.hbmLanes := rfl
@[simp] theorem State.onLink_sliceWait (s : State) (n : Nat) (f : Link → Link) : (s.onLink n f).sliceWait = s.sliceWait := rfl
@[simp] theorem State.onLink_focus (s : State) (n : Nat) (f : Link → Link) : (s.onLink n f).focus = s.focus := rfl
@[simp] theorem State.onLink_agenda (s : State) (n : Nat) (f : Link → Link) : (s.onLink n f).agenda = s.agenda := rfl
@[simp] theorem State.onLink_moves (s : State) (n : Nat) (f : Link → Link) : (s.onLink n f).moves = s.moves := rfl
@[simp] theorem State.onLink_stopped (s : State) (n : Nat) (f : Link → Link) : (s.onLink n f).stopped = s.stopped := rfl

/-! ### The focused context and clause -/

/-- A context is found again after another update of the contexts, changed if it is the one named. -/
theorem State.ctx?_onCtx (s : State) (n c : Nat) (f : Ctx → Ctx) (hf : ∀ x, (f x).id = x.id) :
    (s.onCtx c f).ctx? n = (s.ctx? n).map fun x => if x.id = c then f x else x := by
  have hp : ((fun x : Ctx => decide (x.id = n)) ∘ fun x => if x.id = c then f x else x) = fun x => decide (x.id = n) := by
    funext x
    by_cases h : x.id = c <;> simp [h, hf]
  simp only [State.ctx?, State.onCtx_ctxs, List.find?_map, hp]

theorem State.ctx?_onInst (s : State) (n : Nat) (f : Inst → Inst) :
    (s.onInst f).ctx? n = (s.ctx? n).map fun x => if x.id = s.focus.ctx then { x with window := x.window.modify s.focus.win f } else x :=
  State.ctx?_onCtx s n _ _ fun _ => rfl

/-- A tower after an update of one. -/
theorem State.tower_onTower_other (s : State) (a b : Nat) (f : Tower → Tower) (h : a ≠ b) : (s.onTower a f).tower b = s.tower b := by
  simp [State.tower, h]

/-! ### Order -/

theorem insertBy_perm {α : Type} (le : α → α → Bool) (a : α) (l : List α) : (insertBy le a l).Perm (a :: l) := by
  induction l with
  | nil => exact .refl _
  | cons b l ih =>
    unfold insertBy
    split
    · exact .refl _
    · exact (ih.cons b).trans (.swap a b l)

/-- Sorting loses and adds nothing. -/
theorem sortBy_perm {α : Type} (le : α → α → Bool) (l : List α) : (sortBy le l).Perm l := by
  induction l with
  | nil => exact .refl _
  | cons a l ih => exact (insertBy_perm le a _).trans (ih.cons a)

end Sys2Proof.Machine
end

