-- ==== Sys2Proof/Tests/Slice0.lean ====
section
/-! SUPPORT. Sys2Proof/Tests/Slice0.lean: the model's own tests: ill-formed terms, words written out from the spec's tables, one-step results worked out from the spec, and for each statement a state and operands that meet its hypotheses. -/

namespace Sys2Proof.Machine

set_option Elab.async false

/-! ### Ill-formed terms, each refused by its check -/

theorem test_wf_target : Instr.wf (.movi .always 0 (.to .p 127)) = false := by decide
theorem test_wf_target_first : Instr.wf (.add .always (.dual (.to .p 127) .discard)) = false := by decide
theorem test_wf_target_second : Instr.wf (.gread 1 (.dual .discard (.to .p 127))) = false := by decide
theorem test_wf_target_other_slots : Instr.wf (.add .always (.dual (.to .c 127) (.to .p 126))) = true := by decide
theorem test_wf_fcvt : Instr.wf (.fcvt .always .f32 .f32 (.dual .discard .discard)) = false := by decide
theorem test_wf_hldc : Instr.wf (.hldc .always 0 true false .w .discard) = false := by decide
theorem test_wf_hldc_plain : Instr.wf (.hldc .always 0 false false .w .discard) = true := by decide
theorem test_wf_tower : Instr.wf (.taskDispatch 6) = false := by decide
theorem test_wf_cell : Instr.wf (.inboxGrant 0 128) = false := by decide
theorem test_wf_slice : Instr.wf (.filterBankClear 384) = false := by decide
theorem test_wf_tile : Instr.wf (.tileFillDone 0 255 32) = false := by decide
theorem test_wf_node : Instr.wf (.tileDrainDone 0 256 0) = false := by decide
theorem test_wf_slot : Instr.wf (.loadFinish 0 16) = false := by decide
theorem test_wf_link : Instr.wf (.linkLoss 7) = false := by decide
theorem test_wf_route : Instr.wf (.routingTableWrite 64 0) = false := by decide
theorem test_wf_window : Instr.wf (.cheadWrite 0 64 0) = false := by decide
theorem test_wf_submit : Instr.wf (.submitWrite 0 0 [0]) = false := by decide

/-! ### The encoded clause of 02, word by word -/

theorem test_word_gread1 : decodeWord 0x02080405 = .ok (.gread 1 (.dual (.to .a 2) (.to .a 5))) := by decide
theorem test_word_gread2 : decodeWord 0x02110406 = .ok (.gread 2 (.dual (.to .b 2) (.to .a 6))) := by decide
theorem test_word_tlt : decodeWord 0x30130784 = .ok (.tlt .always (.dual (.to .p 3) (.to .p 4))) := by decide
theorem test_word_sub_true : decodeWord 0x21880E07 = .ok (.sub .onTrue (.dual (.to .a 7) (.to .a 7))) := by decide
theorem test_word_sub_false : decodeWord 0x21080E07 = .ok (.sub .onFalse (.dual (.to .a 7) (.to .a 7))) := by decide
theorem test_word_mov : decodeWord 0x10010604 = .ok (.mov .always (.dual (.to .b 3) (.to .a 4))) := by decide
theorem test_word_gwrite : decodeWord 0x06060000 = .ok (.gwrite .always 3) := by decide
theorem test_word_bro : decodeWord 0x50000009 = .ok (.bro .always 0 9) := by decide
theorem test_word_nop : decodeWord 0x14000000 = .ok (.nop .always) := by decide

/-! ### A word of each family, written bit by bit from 02 R34 and R41 -/

theorem test_word_wread : decodeWord 0b0000010_001111_0_000000011_100000100 = .ok (.wread 15 (.dual (.to .a 3) (.to .c 4))) := by decide
theorem test_word_wwrite : decodeWord 0b0000100_10_001110_00000000000000000 = .ok (.wwrite .onFalse 14) := by decide
theorem test_word_gens : decodeWord 0b0000101_1000000000000001_000000010 = .ok (.gens 0x8001 (.to .a 2)) := by decide
theorem test_word_movi : decodeWord 0b0001001_00_0000_1111111110_010000001 = .ok (.movi .always 0x3FE (.to .b 1)) := by decide
theorem test_word_maxu : decodeWord 0b0010000_00_1011_0_000000001_111111111 = .ok (.maxu .always (.dual (.to .a 1) .discard)) := by decide
theorem test_word_srai : decodeWord 0b0010001_11_0111_0000111111_000000110 = .ok (.srai .onTrue 63 (.to .a 6)) := by decide
theorem test_word_remu : decodeWord 0b0010010_00_0110_0_000000001_000000001 = .ok (.remu .always (.dual (.to .a 1) (.to .a 1))) := by decide
theorem test_word_muli : decodeWord 0b0010011_00_0000_0000000111_000000001 = .ok (.muli .always 7 (.to .a 1)) := by decide
theorem test_word_exts8 : decodeWord 0b0010100_00_1000_0_000000001_000000001 = .ok (.exts8 .always (.dual (.to .a 1) (.to .a 1))) := by decide
theorem test_word_bfi : decodeWord 0b0010110_00_0000_1_10_0010_00000101_0000 = .ok (.bfi .always (.fan .c 2 5)) := by decide
theorem test_word_lea : decodeWord 0b0010111_00_0011_0_000000001_000000001 = .ok (.lea .always 3 (.dual (.to .a 1) (.to .a 1))) := by decide
theorem test_word_leai : decodeWord 0b0011010_00_0010_1000000000_000000001 = .ok (.leai .always 2 0x200 (.to .a 1)) := by decide
theorem test_word_tltui : decodeWord 0b0011001_00_0100_1111111111_110000011 = .ok (.tltui .always 0x3FF (.to .p 3)) := by decide
theorem test_word_fdiv : decodeWord 0b0100000_00_0111_0_000000001_000000001 = .ok (.fdiv .always .f32 (.dual (.to .a 1) (.to .a 1))) := by decide
theorem test_word_fsgn : decodeWord 0b0100001_00_1111_0_000000001_000000001 = .ok (.fsgn .always .bf16 (.dual (.to .a 1) (.to .a 1))) := by decide
theorem test_word_ffnma : decodeWord 0b0100010_00_1010_0_000000001_000000001 = .ok (.ffnma .always .f16 (.dual (.to .a 1) (.to .a 1))) := by decide
theorem test_word_fcvt : decodeWord 0b0100011_00_0100_0_000000001_000000001 = .ok (.fcvt .always .f32 .f64 (.dual (.to .a 1) (.to .a 1))) := by decide
theorem test_word_ftoi : decodeWord 0b0100100_00_0111_0_000000001_000000001 = .ok (.ftoi .always .f32 true true (.dual (.to .a 1) (.to .a 1))) := by decide
theorem test_word_fclass : decodeWord 0b0100110_00_0011_0_000000001_000000001 = .ok (.fclass .always .f64 (.dual (.to .a 1) (.to .a 1))) := by decide
theorem test_word_callo : decodeWord 0b0101010_10_111_00000000000000000011 = .ok (.callo .onFalse 7 3) := by decide
theorem test_word_ret : decodeWord 0b0101100_00_0000_0000000000000000000 = .ok (.ret .always) := by decide
theorem test_word_scall : decodeWord 0b0101111_00_000_00000000000000000101 = .ok (.scall .always 0 5) := by decide
theorem test_word_vmulh : decodeWord 0b0110000_00_1011_0_000000001_000000001 = .ok (.vmulh .always .e32 (.dual (.to .a 1) (.to .a 1))) := by decide
theorem test_word_vsra : decodeWord 0b0110010_00_1111_0_000000001_000000001 = .ok (.vsra .always .e64 (.dual (.to .a 1) (.to .a 1))) := by decide
theorem test_word_vrsq : decodeWord 0b0110101_00_0100_0_000000001_000000001 = .ok (.vrsq .always .f16 (.dual (.to .a 1) (.to .a 1))) := by decide
theorem test_word_vfcmp : decodeWord 0b0111011_00_0111_0_000000001_000000001 = .ok (.vfcmp .always .f16 .un (.dual (.to .a 1) (.to .a 1))) := by decide
theorem test_word_vshuf : decodeWord 0b1000000_00_0100_0_000000001_000000001 = .ok (.vshuf .always .e16 (.dual (.to .a 1) (.to .a 1))) := by decide
theorem test_word_vred : decodeWord 0b1000001_00_0000_0_000000001_000000001 = .ok (.vred .always (.dual (.to .a 1) (.to .a 1))) := by decide
theorem test_word_ld_sh : decodeWord 0b1001001_00_00001_100000000_000000001 = .ok (.ldSh .always 1 0x100 (.to .a 1)) := by decide
theorem test_word_vst : decodeWord 0b1010010_11_00101_000000000000000011 = .ok (.vst .onTrue 5 3) := by decide
theorem test_word_fence : decodeWord 0b1011011_00_00001_0010_00001_000000000 = .ok (.fenceAcqrel .always 1 .die) := by decide
theorem test_word_amocas : decodeWord 0b1011001_00_00001_0001_10111_000000001 = .ok (.amocas .always 1 .w .sys true (.to .a 1)) := by decide
theorem test_word_tprio : decodeWord 0b1100000_00_00001_0101_00000_000000000 = .ok (.tprio .always 1) := by decide
theorem test_word_hleave : decodeWord 0b1100001_00_00011_0010_00000_000000000 = .ok (.hleave .always 3) := by decide
theorem test_word_tload : decodeWord 0b1100010_00_00001_0001_11111_00000_0000 = .ok (.tload .always 1 31) := by decide
theorem test_word_mcopy : decodeWord 0b1100010_00_00001_1010_00010_00011_0000 = .ok (.mcopy .always 1 2 3) := by decide
theorem test_word_vwdrop : decodeWord 0b1100100_00_00001_0001_00000_000000000 = .ok (.vwdrop .always 1) := by decide
theorem test_word_spush : decodeWord 0b1100101_00_00001_0110_00111_000000000 = .ok (.spush 1 7) := by decide
theorem test_word_spop : decodeWord 0b1100101_00_00001_0111_00010_000000011 = .ok (.spop 1 2 (.to .a 3)) := by decide
theorem test_word_cwrite : decodeWord 0b1100110_00_00001_0011_01001_000000000 = .ok (.cwrite .always 1 9) := by decide
theorem test_word_rdtime : decodeWord 0b1100110_00_00001_1111_00000_000000010 = .ok (.rdtime .always 1 (.to .a 2)) := by decide

/-! ### Words that are no instructions (02 R35, R40, R42, R46) -/

theorem test_illegal_zero : (decodeWord 0).toOption = none := by decide
theorem test_illegal_reserved : (decodeWord 0b0001100_00_0000_0000000000000000000).toOption = none := by decide
theorem test_illegal_predicate : (decodeWord 0b0010000_01_0000_0_000000001_000000001).toOption = none := by decide
theorem test_illegal_xop : (decodeWord 0b0010000_00_1100_0_000000001_000000001).toOption = none := by decide
theorem test_illegal_register : (decodeWord 0b0000010_010000_0_000000001_000000001).toOption = none := by decide
theorem test_illegal_fcvt : (decodeWord 0b0100011_00_0101_0_000000001_000000001).toOption = none := by decide
theorem test_illegal_fan : (decodeWord 0b0010000_00_0000_1_00_0001_00000001_0001).toOption = none := by decide
theorem test_illegal_write : (decodeWord 0b0000011_00_000011_00000000000000001).toOption = none := by decide
theorem test_illegal_matrix : (decodeWord 0b1100010_00_00001_0000_00001_00000_0001).toOption = none := by decide

/-! ### One step: results worked out from the spec -/

/-- A word whose targets are i1.a, its tokens, and a MOV at i1 that takes the result. -/
def shot (w : Nat) (toks : List (Slot × Token)) : State :=
  let c := Ctx.blank 0 .task 0 0 1 0 0 0
  let h : Header := ⟨0xFFFFFFFFFFFFFFFF, 0xFFFF, 0xFFFFFFFF, 1, 0, 0, 0, false⟩
  let x : Inst := { Inst.place 0 0 h (BitVec.ofNat 32 w :: 0x1001FFFF#32 :: List.replicate 30 0x14000000#32) none 0 (some 0) 0 [] with
    toks := toks.map fun t => (0, t.1, t.2) }
  { State.reset with ctxs := [{ c with window := [x] }], nextCtx := 1, agenda := [⟨0, .fire ⟨0, 0, 0, false⟩⟩] }

/-- What the step delivers to i1.a, and the flags raised. -/
def hit (w : Nat) (toks : List (Slot × Token)) : Option (Token × BitVec 5) :=
  match step (shot w toks) with
  | .next t => ((t.ctx? 0).bind fun c => c.window.head?).bind fun x => (x.tok? 1 .a).map fun k => (k, x.flags)
  | _ => none

/-- Two scalar operands. -/
def ab (a b : Nat) : List (Slot × Token) := [(.a, .scalar (w64 a)), (.b, .scalar (w64 b))]

/-- Two wide operands. -/
def wab (a b : Nat) : List (Slot × Token) := [(.a, .wide (BitVec.ofNat 512 a)), (.b, .wide (BitVec.ofNat 512 b))]

/-- A word of format G, unpredicated, to i1.a. -/
def wordG (op xop : Nat) : Nat := op * 2 ^ 25 + xop * 2 ^ 19 + 2 ^ 9 + 1

-- 04 R93
theorem test_add_wraps : hit (wordG 0x10 0) (ab 0xFFFFFFFFFFFFFFFF 2) = some (.scalar 1, 0) := by decide +kernel
theorem test_sub_order : hit (wordG 0x10 1) (ab 3 5) = some (.scalar 0xFFFFFFFFFFFFFFFE, 0) := by decide +kernel
theorem test_shl_amount : hit (wordG 0x10 5) (ab 3 65) = some (.scalar 6, 0) := by decide +kernel
theorem test_sra_sign : hit (wordG 0x10 7) (ab 0x8000000000000000 63) = some (.scalar 0xFFFFFFFFFFFFFFFF, 0) := by decide +kernel
theorem test_min_signed : hit (wordG 0x10 8) (ab 0xFFFFFFFFFFFFFFFF 1) = some (.scalar 0xFFFFFFFFFFFFFFFF, 0) := by decide +kernel
theorem test_minu_unsigned : hit (wordG 0x10 10) (ab 0xFFFFFFFFFFFFFFFF 1) = some (.scalar 1, 0) := by decide +kernel
-- 04 R95, the rows of its table
theorem test_div_zero : hit (wordG 0x12 3) (ab 5 0) = some (.scalar 0xFFFFFFFFFFFFFFFF, 0) := by decide +kernel
theorem test_div_overflow : hit (wordG 0x12 3) (ab 0x8000000000000000 0xFFFFFFFFFFFFFFFF) = some (.scalar 0x8000000000000000, 0) := by decide +kernel
theorem test_div_rounds : hit (wordG 0x12 3) (ab 0xFFFFFFFFFFFFFFF9 2) = some (.scalar 0xFFFFFFFFFFFFFFFD, 0) := by decide +kernel
theorem test_divu : hit (wordG 0x12 4) (ab 0xFFFFFFFFFFFFFFF9 2) = some (.scalar 0x7FFFFFFFFFFFFFFC, 0) := by decide +kernel
theorem test_rem_sign : hit (wordG 0x12 5) (ab 0xFFFFFFFFFFFFFFF9 2) = some (.scalar 0xFFFFFFFFFFFFFFFF, 0) := by decide +kernel
theorem test_remu : hit (wordG 0x12 6) (ab 0xFFFFFFFFFFFFFFF9 2) = some (.scalar 1, 0) := by decide +kernel
theorem test_mulh : hit (wordG 0x12 1) (ab 0xFFFFFFFFFFFFFFFF 2) = some (.scalar 0xFFFFFFFFFFFFFFFF, 0) := by decide +kernel
-- 04 R96, R97
theorem test_clz_zero : hit (wordG 0x14 0) (ab 0 0) = some (.scalar 64, 0) := by decide +kernel
theorem test_bfx_cut : hit (wordG 0x15 0) (ab 0xF000000000000000 (60 + 8 * 256 + 32768)) = some (.scalar 0xFFFFFFFFFFFFFFFF, 0) := by decide +kernel
-- 04 R100
theorem test_tltu : hit (wordG 0x18 4) (ab 1 0xFFFFFFFFFFFFFFFF) = some (.scalar 1, 0) := by decide +kernel
theorem test_tlt : hit (wordG 0x18 2) (ab 1 0xFFFFFFFFFFFFFFFF) = some (.scalar 0, 0) := by decide +kernel
-- 04 R101 to R103: 1 + 1 = 2; 1 / 0 is an infinity with dz
theorem test_fadd : hit (wordG 0x20 0) (ab 0x3FF0000000000000 0x3FF0000000000000) = some (.scalar 0x4000000000000000, 0) := by decide +kernel
theorem test_fdiv_zero : hit (wordG 0x20 3) (ab 0x3FF0000000000000 0) = some (.scalar 0x7FF0000000000000, 8) := by decide +kernel
-- 05 R123: lanes do not carry into one another
theorem test_vadd_lanes : hit (wordG 0x30 0) (wab 0xFFFF 0x0101) = some (.wide 0x0000, 0) := by decide +kernel
theorem test_vmulh_signed : hit (wordG 0x30 3) (wab 0xFF 0x02) = some (.wide 0xFF, 0) := by decide +kernel
-- 01 R15: a null and a poison pass through
theorem test_null_passes : hit (wordG 0x10 0) [(.a, .null), (.b, .scalar 1)] = some (.null, 0) := by decide +kernel
theorem test_poison_passes : hit (wordG 0x10 0) [(.a, .scalar 1), (.b, .poison .perm 9)] = some (.poison .perm 9, 0) := by decide +kernel

/-! ### Hypotheses met: instructions that act -/

/-- Reset, with an instruction and its tokens in the oldest clause of a task, and the focus on it. -/
def placed (i : Instr) : State :=
  match encodeWord i with
  | some w => { State.reset.withFetchWord 32 w with agenda := [], focus := ⟨0, 0, 0, false⟩ }
  | none => State.reset

/-- Whether the focused instruction acts. -/
def actsNow (s : State) (i : Instr) : Bool :=
  match s.finst with
  | none => false
  | some x =>
    x.mark.isNone && !x.fired.contains s.focus.iid && !s.ctlHeld && (match x.ready s.focus.iid i with
      | .acts _ => true
      | _ => false)

/-- Whether it acts on operands v. -/
def actsOn (s : State) (i : Instr) (v : Vals) : Bool :=
  match s.finst with
  | none => false
  | some x => x.mark.isNone && !x.fired.contains s.focus.iid && !s.ctlHeld && decide (x.ready s.focus.iid i = .acts v)

theorem actsOn_acts {s : State} {i : Instr} {v : Vals} (h : actsOn s i v = true) : Acts s i v := by
  unfold actsOn at h
  split at h
  · cases h
  · rename_i x hx
    simp only [Bool.and_eq_true, Option.isNone_iff_eq_none, Bool.not_eq_true', decide_eq_true_eq] at h
    exact ⟨x, hx, h.1.1.1, by simpa using h.1.1.2, h.1.2, h.2⟩

theorem actsNow_acts {s : State} {i : Instr} (h : actsNow s i = true) : ∃ v, Acts s i v := by
  unfold actsNow at h
  split at h
  · cases h
  · rename_i x hx
    simp only [Bool.and_eq_true] at h
    split at h
    · rename_i v hv
      exact ⟨v, actsOn_acts (by simp only [actsOn, hx]; simp [hv]; simpa using h.1)⟩
    · simp at h

theorem all_act {l : List Instr} (h : (l.all fun i => actsNow (placed i) i) = true) : ∀ i ∈ l, ∃ s v, Acts s i v :=
  fun i hi => ⟨placed i, actsNow_acts (List.all_eq_true.mp h i hi)⟩

theorem acts_RegisterReads : ∀ i ∈ ([.gread 1 (.dual .discard .discard), .wread 1 (.dual .discard .discard)] : List Instr), ∃ s v, Acts s i v := all_act (by decide +kernel)

theorem acts_RegisterWrites : ∀ i ∈ ([.gwrite .always 1, .wwrite .always 1] : List Instr), ∃ s v, Acts s i v := all_act (by decide +kernel)

theorem acts_ConstantsAndMoves : ∀ i ∈ ([.gens 1 .discard, .genu 1 .discard, .appc 1 .discard, .mov .always (.dual .discard .discard), .movi .always 1 .discard, .nop .always,
     .null .always (.dual .discard .discard)] : List Instr), ∃ s v, Acts s i v := all_act (by decide +kernel)

theorem acts_IntegerAlu : ∀ i ∈ ([.add .always (.dual .discard .discard), .sub .always (.dual .discard .discard), .and .always (.dual .discard .discard),
     .or .always (.dual .discard .discard), .xor .always (.dual .discard .discard), .shl .always (.dual .discard .discard),
     .shr .always (.dual .discard .discard), .sra .always (.dual .discard .discard), .min .always (.dual .discard .discard),
     .max .always (.dual .discard .discard), .minu .always (.dual .discard .discard), .maxu .always (.dual .discard .discard)] : List Instr), ∃ s v, Acts s i v := all_act (by decide +kernel)

theorem acts_ImmediatesAndAddresses : ∀ i ∈ ([.addi .always 1 .discard, .subi .always 1 .discard, .andi .always 1 .discard, .ori .always 1 .discard, .xori .always 1 .discard,
     .shli .always 1 .discard, .shri .always 1 .discard, .srai .always 1 .discard, .lea .always 1 (.dual .discard .discard),
     .leai .always 1 1 .discard] : List Instr), ∃ s v, Acts s i v := all_act (by decide +kernel)

theorem acts_MultiplyDivide : ∀ i ∈ ([.mul .always (.dual .discard .discard), .mulh .always (.dual .discard .discard), .mulhu .always (.dual .discard .discard),
     .div .always (.dual .discard .discard), .divu .always (.dual .discard .discard), .rem .always (.dual .discard .discard),
     .remu .always (.dual .discard .discard), .muli .always 1 .discard] : List Instr), ∃ s v, Acts s i v := all_act (by decide +kernel)

theorem acts_BitOperations : ∀ i ∈ ([.clz .always (.dual .discard .discard), .ctz .always (.dual .discard .discard), .popc .always (.dual .discard .discard),
     .exts8 .always (.dual .discard .discard), .exts16 .always (.dual .discard .discard), .exts32 .always (.dual .discard .discard),
     .extz8 .always (.dual .discard .discard), .extz16 .always (.dual .discard .discard), .extz32 .always (.dual .discard .discard)] : List Instr), ∃ s v, Acts s i v := all_act (by decide +kernel)

theorem acts_BitFields : ∀ i ∈ ([.bfx .always (.dual .discard .discard), .bfi .always (.dual .discard .discard)] : List Instr), ∃ s v, Acts s i v := all_act (by decide +kernel)

theorem acts_IntegerTests : ∀ i ∈ ([.teq .always (.dual .discard .discard), .tne .always (.dual .discard .discard), .tlt .always (.dual .discard .discard),
     .tle .always (.dual .discard .discard), .tltu .always (.dual .discard .discard), .tleu .always (.dual .discard .discard),
     .teqi .always 1 .discard, .tnei .always 1 .discard, .tlti .always 1 .discard, .tlei .always 1 .discard, .tltui .always 1 .discard,
     .tleui .always 1 .discard] : List Instr), ∃ s v, Acts s i v := all_act (by decide +kernel)

theorem acts_ScalarFloat : ∀ i ∈ ([.fadd .always .f64 (.dual .discard .discard), .fsub .always .f64 (.dual .discard .discard), .fmul .always .f64 (.dual .discard .discard),
     .fdiv .always .f64 (.dual .discard .discard), .fmin .always .f64 (.dual .discard .discard), .fmax .always .f64 (.dual .discard .discard),
     .fsqrt .always .f64 (.dual .discard .discard), .ffma .always .f64 (.dual .discard .discard), .ffms .always .f64 (.dual .discard .discard),
     .ffnma .always .f64 (.dual .discard .discard), .ffnms .always .f64 (.dual .discard .discard), .fsgn .always .f64 (.dual .discard .discard)] : List Instr), ∃ s v, Acts s i v := all_act (by decide +kernel)

theorem acts_ScalarConversions : ∀ i ∈ ([.fcvt .always .f64 .f32 (.dual .discard .discard), .ftoi .always .f64 true true (.dual .discard .discard),
     .itof .always .f64 true (.dual .discard .discard)] : List Instr), ∃ s v, Acts s i v := all_act (by decide +kernel)

theorem acts_FloatCompares : ∀ i ∈ ([.feq .always .f64 (.dual .discard .discard), .flt .always .f64 (.dual .discard .discard), .fle .always .f64 (.dual .discard .discard),
     .fclass .always .f64 (.dual .discard .discard)] : List Instr), ∃ s v, Acts s i v := all_act (by decide +kernel)

theorem acts_Branches : ∀ i ∈ ([.bro .always 1 1, .br .always, .callo .always 1 1, .call .always, .ret .always, .exitt .always, .yield .always 1 1, .scall .always 1 1] : List Instr), ∃ s v, Acts s i v := all_act (by decide +kernel)

theorem acts_WideIntegers : ∀ i ∈ ([.vadd .always .e8 (.dual .discard .discard), .vsub .always .e8 (.dual .discard .discard), .vmul .always .e8 (.dual .discard .discard),
     .vmulh .always .e8 (.dual .discard .discard), .vmin .always .e8 (.dual .discard .discard), .vmax .always .e8 (.dual .discard .discard),
     .vand .always .e8 (.dual .discard .discard), .vor .always .e8 (.dual .discard .discard), .vxor .always .e8 (.dual .discard .discard),
     .vshl .always .e8 (.dual .discard .discard), .vshr .always .e8 (.dual .discard .discard), .vsra .always .e8 (.dual .discard .discard)] : List Instr), ∃ s v, Acts s i v := all_act (by decide +kernel)

theorem acts_WideCompareSelectMove : ∀ i ∈ ([.vcmp .always .e8 .eq (.dual .discard .discard), .vsel .always .e8 (.dual .discard .discard), .vbcast .always .e8 (.dual .discard .discard),
     .vextr .always .e8 (.dual .discard .discard), .vins .always .e8 (.dual .discard .discard), .vshuf .always .e8 (.dual .discard .discard)] : List Instr), ∃ s v, Acts s i v := all_act (by decide +kernel)

theorem acts_WideFloat : ∀ i ∈ ([.vfadd .always .f32 (.dual .discard .discard), .vfsub .always .f32 (.dual .discard .discard), .vfmul .always .f32 (.dual .discard .discard),
     .vfdiv .always .f32 (.dual .discard .discard), .vfmin .always .f32 (.dual .discard .discard), .vfmax .always .f32 (.dual .discard .discard),
     .vfsqrt .always .f32 (.dual .discard .discard), .vrcp .always .f32 (.dual .discard .discard), .vrsq .always .f32 (.dual .discard .discard),
     .vexp2 .always .f32 (.dual .discard .discard), .vlog2 .always .f32 (.dual .discard .discard), .vffma .always .f32 (.dual .discard .discard),
     .vffms .always .f32 (.dual .discard .discard), .vffnma .always .f32 (.dual .discard .discard), .vffnms .always .f32 (.dual .discard .discard),
     .vfcmp .always .f32 .eq (.dual .discard .discard)] : List Instr), ∃ s v, Acts s i v := all_act (by decide +kernel)

theorem acts_ControlledWide : ∀ i ∈ ([.vcvt .always (.dual .discard .discard), .vqnt .always (.dual .discard .discard), .vdqnt .always (.dual .discard .discard),
     .vred .always (.dual .discard .discard), .vscan .always (.dual .discard .discard), .vdot .always (.dual .discard .discard)] : List Instr), ∃ s v, Acts s i v := all_act (by decide +kernel)

theorem acts_ScalarLoads : ∀ i ∈ ([.ldZb .always 1 1 .discard, .ldZh .always 1 1 .discard, .ldZw .always 1 1 .discard, .ldD .always 1 1 .discard, .ldSb .always 1 1 .discard,
     .ldSh .always 1 1 .discard, .ldSw .always 1 1 .discard] : List Instr), ∃ s v, Acts s i v := all_act (by decide +kernel)

theorem acts_OtherLoads : ∀ i ∈ ([.ldacq .always 1 1 .discard, .vld .always 1 1 .discard, .vlds .always 1 .e8 .discard, .vgath .always 1 .e8 true 1 .discard,
     .hldc .always 1 true true .d .discard] : List Instr), ∃ s v, Acts s i v := all_act (by decide +kernel)

theorem acts_Stores : ∀ i ∈ ([.stB .always 1 1, .stH .always 1 1, .stW .always 1 1, .stD .always 1 1, .strel .always 1 1, .vst .always 1 1, .vsts .always 1 .e8,
     .vscat .always 1 .e8 true 1, .pref .always 1 true .l1] : List Instr), ∃ s v, Acts s i v := all_act (by decide +kernel)

theorem acts_Atomics : ∀ i ∈ ([.amoadd .always 1 .d .lens true .discard, .amoand .always 1 .d .lens true .discard, .amoor .always 1 .d .lens true .discard,
     .amoxor .always 1 .d .lens true .discard, .amomin .always 1 .d .lens true .discard, .amomax .always 1 .d .lens true .discard,
     .amominu .always 1 .d .lens true .discard, .amomaxu .always 1 .d .lens true .discard, .amoswp .always 1 .d .lens true .discard,
     .amocas .always 1 .d .lens true .discard, .amofadd .always 1 .d .lens true .discard, .vamoadd .always 1 .e32 .lens true .discard,
     .bara .always 1 .lens .discard] : List Instr), ∃ s v, Acts s i v := all_act (by decide +kernel)

theorem acts_FencesAndWaits : ∀ i ∈ ([.waitv .always 1 true .discard, .barw .always 1 .lens .discard, .fenceAcq .always 1 .lens, .fenceRel .always 1 .lens,
     .fenceAcqrel .always 1 .lens, .fenceSc .always 1 .lens, .fenceEngine .always 1 .lens] : List Instr), ∃ s v, Acts s i v := all_act (by decide +kernel)

theorem acts_TaskInstructions : ∀ i ∈ ([.tspawn .always 1, .tsubmit .always 1, .tdep .always 1, .trange .always 1, .tprio .always 1, .twait .always 1 true .discard] : List Instr), ∃ s v, Acts s i v := all_act (by decide +kernel)

theorem acts_MessageInstructions : ∀ i ∈ ([.inbox .always 1 true .discard, .amsend .always 1, .amreply .always 1, .htset .always 1] : List Instr), ∃ s v, Acts s i v := all_act (by decide +kernel)

theorem acts_HypothesisInstructions : ∀ i ∈ ([.hnew .always 1 .discard, .henter .always 1, .hleave .always 1, .hresolve .always 1 .discard, .hstat .always 1 true .discard] : List Instr), ∃ s v, Acts s i v := all_act (by decide +kernel)

theorem acts_MatrixInstructions : ∀ i ∈ ([.tdef .always 1 1, .tload .always 1 1, .tstore .always 1 1, .tfree .always 1 1, .mma .always 1 1 1, .mmai .always 1 1 1, .maccrd .always 1 1,
     .macclr .always 1, .maccld .always 1 1, .mew .always 1 1, .mcopy .always 1 1 1, .msplat .always 1 1, .tloadEdge .always 1 1 1,
     .tstoreEdge .always 1 1 1] : List Instr), ∃ s v, Acts s i v := all_act (by decide +kernel)

theorem acts_StreamerInstructions : ∀ i ∈ ([.scopy .always 1 1 .discard, .sgath .always 1 1 .discard, .sscat .always 1 1 .discard, .slayout .always 1 1 .discard,
     .sfill .always 1 1 .discard, .swait .always 1 true .discard, .sfence .always 1 .lens .discard] : List Instr), ∃ s v, Acts s i v := all_act (by decide +kernel)

theorem acts_ViewInstructions : ∀ i ∈ ([.vwreg .always 1 .discard, .vwdrop .always 1, .vwpol .always 1, .vwqry .always 1 true .discard, .vwsync .always 1 true .discard] : List Instr), ∃ s v, Acts s i v := all_act (by decide +kernel)

theorem acts_FabricInstructions : ∀ i ∈ ([.punload .always 1 .discard, .pstart .always 1 .discard, .pstop .always 1 .discard, .psave .always 1 .discard, .pload .always 1 .discard,
     .prest .always 1 .discard, .spop 1 1 .discard, .spush 1 1] : List Instr), ∃ s v, Acts s i v := all_act (by decide +kernel)

theorem acts_ControlInstructions : ∀ i ∈ ([.trap .always 1, .dbgbrk .always 1, .rft .always 1, .cread .always 1 1 .discard, .cwrite .always 1 1, .rdtime .always 1 .discard,
     .rdpmc .always 1 .discard, .afwait .always 1 .discard, .idle .always 1 .discard, .cline .always 1 .ic] : List Instr), ∃ s v, Acts s i v := all_act (by decide +kernel)

theorem acts_SupervisorInstructions : ∀ i ∈ ([.halt .always 1, .winwr .always 1, .tresume .always 1, .wsopen .always 1, .wsclose .always 1, .winrd .always 1 .discard,
     .plbfl .always 1 .discard] : List Instr), ∃ s v, Acts s i v := all_act (by decide +kernel)

/-! ### Hypotheses met: clauses with conditions of their own -/

/-- An instruction with tokens in the oldest clause of the task on cell 0 of tower 0, the focus on it; fc, fi and fs change its context, its clause and the rest. -/
def setup (i : Instr) (toks : List (Slot × Token)) (fc : Ctx → Ctx := id) (fi : Inst → Inst := id) (fs : State → State := id) : State :=
  fs (({ shot ((encodeWord i).getD 0) toks with agenda := [], focus := ⟨0, 0, 0, false⟩ }.onInst fi).onCtx 0 fc)

def sc (n : Nat) : Token := .scalar (w64 n)

def vals (a : Token) (b : Token := .null) (c : Token := .null) : Vals := ⟨a, b, c⟩

def dd : Dst := .dual .discard .discard

theorem wit_decode : Instr.wf (.add .always dd) = true ∧ (∃ w, encodeWord (.add .always dd) = some w ∧ w < 2 ^ 32 ∧ decodeWord w = .ok (.add .always dd)) :=
  ⟨by decide, _, rfl, by decide, by decide⟩
theorem wit_no_instruction : fld 0 25 7 = 0 ∧ 0x68 ≤ fld 0xD0000000 25 7 ∧ (fld 0x20800000 25 7 ∉ [0x01, 0x02, 0x05, 0x06, 0x07] ∧ fld 0x20800000 23 2 = 1)
    ∧ (fld 0x04800000 25 7 = 2 ∧ fld 0x04800000 19 6 = 16) ∧ (fld 0x08200000 25 7 = 4 ∧ fld 0x08200000 17 6 = 16) := by decide
theorem wit_step_runs : (shot 0x14000000 []).agenda = [⟨0, .fire ⟨0, 0, 0, false⟩⟩] ∧ (shot 0x14000000 []).stopped = false
    ∧ (shot 0x14000000 []).instrOf ⟨0, 0, 0, false⟩ = some (.nop .always) ∧ (shot 0 []).instrOf ⟨0, 0, 0, false⟩ = none
    ∧ ({ State.reset with agenda := [⟨0, .event .refreshWindow⟩] } : State).stopped = false := by decide +kernel
theorem wit_step_passes : State.reset.stopped = false ∧ State.reset.agenda = [] ∧ (({ State.reset with agenda := [⟨2, .event .refreshWindow⟩] } : State).agenda = [⟨2, .event .refreshWindow⟩])
    ∧ ({ State.reset with stopped := true } : State).stopped = true ∧ decodeWord 0x14000000 = .ok (.nop .always) := by decide
/-- A part with nothing to do makes no move of its own; one whose task holds an instruction that can fire does. -/
theorem wit_own_moves : (State.reset.pass.ownMoves.findSome? State.reset.pass.effectOf).isNone = true
    ∧ (let s := (setup (.movi .always 1 .discard) []).pass; (s.ownMoves.findSome? s.effectOf).isSome) = true := by decide +kernel

/-- The firing rule's cases. -/
theorem wit_firing :
    (∃ s, Asks s (.add .always dd) .waits) ∧ (∃ s, Asks s (.add .always dd) .meetsNull) ∧ (∃ s, Asks s (.add .always dd) (.meetsPoison .perm 9))
      ∧ ∃ s, Asks s (.nop .onTrue) .noMatch :=
  ⟨⟨setup (.add .always dd) [(.a, sc 1)], _, rfl, rfl, by decide, rfl, by decide +kernel⟩,
    ⟨setup (.add .always dd) [(.a, sc 1), (.b, .null)], _, rfl, rfl, by decide, rfl, by decide +kernel⟩,
    ⟨setup (.add .always dd) [(.a, sc 1), (.b, .poison .perm 9)], _, rfl, rfl, by decide, rfl, by decide +kernel⟩,
    ⟨setup (.nop .onTrue) [(.p, sc 0)], _, rfl, rfl, by decide, rfl, by decide +kernel⟩⟩

/-- A clause instance of 32 no-operations. -/
def blankInst : Inst := Inst.place 0 0 ⟨2, 0, 1, 1, 0, 0, 0, false⟩ (List.replicate 32 0x14000000#32) none 0 none 0 []

theorem wit_ready : (∃ sl ∈ allSlots (.add .always dd), blankInst.tok? 0 sl = none)
    ∧ ({ blankInst with toks := [(0, .a, .null), (0, .b, sc 1)] }.toksOf 0 (allSlots (.add .always dd)) = some [.null, sc 1])
    ∧ firstPoison [sc 1, .poison .perm 3] = some (.perm, 3)
    ∧ ((Instr.nop .onFalse).pred = .onFalse ∧ (({ blankInst with toks := [(0, .p, sc 1)] }.tok? 0 .p).getD .null).bits ≠ 0)
    ∧ ((Instr.nop .onTrue).pred = .onTrue ∧ (({ blankInst with toks := [(0, .p, sc 0)] }.tok? 0 .p).getD .null).bits = 0) :=
  ⟨⟨.a, by decide, by decide⟩, by decide, by decide, by decide, by decide⟩
theorem wit_held : (∃ x, (setup (.nop .always) [] id (fun x => x.fail .illop)).finst = some x ∧ x.mark ≠ none)
    ∧ (∃ x, (setup (.nop .always) [] id (fun x => x.markFired 0)).finst = some x ∧ 0 ∈ x.fired)
    ∧ (setup (.nop .always) [] (fun c => { c with window := { blankInst with ctlWr := true } :: c.window }) id (fun s => { s with focus := ⟨0, 1, 0, false⟩ })).ctlHeld = true :=
  ⟨⟨_, rfl, by decide⟩, ⟨_, rfl, by decide⟩, by decide +kernel⟩
theorem wit_outputs : blankInst.mark = none ∧ { blankInst with effs := [(0, .nulled)] }.effOut? 0 ≠ none ∧ blankInst.hdr.effmask.getLsbD 1 = false
    ∧ (∃ p ∈ { blankInst with gw := [(1, .null)] }.gw, p.1 = 1) ∧ blankInst.hdr.gwmask.getLsbD 0 = false
    ∧ (∃ p ∈ { blankInst with ww := [(1, .null)] }.ww, p.1 = 1) ∧ blankInst.hdr.wwmask.getLsbD 0 = false ∧ { blankInst with branch := some .exitt }.branch ≠ none :=
  ⟨rfl, by decide, by decide, ⟨_, List.mem_singleton_self _, rfl⟩, by decide, ⟨_, List.mem_singleton_self _, rfl⟩, by decide, by decide⟩

theorem wit_register_reads :
    (∃ s c v, Acts s (.gread 1 dd) v ∧ s.fctx = some c ∧ s.focus.win = 0 ∧ greadFrom 1 (c.window.take s.focus.win) (c.gr 1) = some 0)
      ∧ (∃ s c v, Acts s (.gread 1 dd) v ∧ s.fctx = some c ∧ greadFrom 1 (c.window.take s.focus.win) (c.gr 1) = none)
      ∧ (∃ s c v, Acts s (.wread 1 dd) v ∧ s.fctx = some c ∧ wreadFrom 1 (c.window.take s.focus.win) (c.wr 1) = some 0)
      ∧ (∃ s c v, Acts s (.wread 1 dd) v ∧ s.fctx = some c ∧ wreadFrom 1 (c.window.take s.focus.win) (c.wr 1) = none) :=
  ⟨⟨setup (.gread 1 dd) [], _, vals .null, actsOn_acts (by decide +kernel), rfl, rfl, rfl⟩,
    ⟨setup (.gread 1 dd) [] (fun c => { c with window := { blankInst with ctlWr := false } :: c.window }) id (fun s => { s with focus := ⟨0, 1, 0, false⟩ }), _, vals .null,
      actsOn_acts (by decide +kernel), rfl, rfl⟩,
    ⟨setup (.wread 1 dd) [], _, vals .null, actsOn_acts (by decide +kernel), rfl, rfl⟩,
    ⟨setup (.wread 1 dd) [] (fun c => { c with window := { blankInst with hdr := ⟨0, 2, 0, 1, 0, 0, 0, false⟩ } :: c.window }) id (fun s => { s with focus := ⟨0, 1, 0, false⟩ }), _, vals .null,
      actsOn_acts (by decide +kernel), rfl, rfl⟩⟩
theorem wit_register_forwarding : blankInst.hdr.gwmask.getLsbD 0 = false ∧ blankInst.hdr.gwmask.getLsbD 1 = true ∧ blankInst.gw = [] ∧ (1 : BitVec 6) ≠ 63 := by decide
theorem wit_commit : blankInst.rft = false ∧ blankInst.gw = [] ∧ blankInst.ww = [] ∧ blankInst.branch = none
    ∧ (∀ b : BranchOut, { blankInst with branch := some b }.branch = some b) := ⟨rfl, rfl, rfl, rfl, fun _ => rfl⟩
theorem wit_stochastic : (setup (.fcvt .always .f32 .f64 dd) [(.a, sc 0)] (fun c => { c with rm := 4 })).isSto = true ∧ ftySig .f32 < ftySig .f64
    ∧ actsOn (setup (.fcvt .always .f32 .f64 dd) [(.a, sc 0)] (fun c => { c with rm := 4 })) (.fcvt .always .f32 .f64 dd) (vals (sc 0)) = true := by decide +kernel
theorem wit_control_words : (vcvtOk 0x21 = true ∨ vcvtOk 0 = true) ∧ vcvtOk (BitVec.allOnes 64) = false ∧ vqntOk (BitVec.allOnes 64) = false ∧ vdqntOk (BitVec.allOnes 64) = false
    ∧ redOk false 0x30 = true ∧ redOk false (BitVec.allOnes 64) = false ∧ redOk true 0x37 = true ∧ redOk true (BitVec.allOnes 64) = false
    ∧ vdotOk 0 = true ∧ vdotOk (BitVec.allOnes 64) = false := by decide +kernel

theorem wit_control_positive : vcvtOk 0x8E2 = true ∧ bitsOf (0x8E2 : Word) 5 3 = 7 ∧ vcvtOk 0x82 = true ∧ bitsOf (0x82 : Word) 5 3 = 4
    ∧ narrows (bitsOf (0x82 : Word) 8 5) (fmtPA (bitsOf (0x82 : Word) 0 5)) = true
    ∧ vqntOk 19 = true ∧ vqntOk (19 + 32) = true ∧ narrows 19 ((vtyFmt (styOf 0)).mb + 1) = true ∧ vdqntOk 19 = true := by decide +kernel

/-- One page mapped: VA 0 to 0xFFFF of ASID 0 on the frame at PA 0x1000000, readable, writable, executable, written, S; the walk's tables and the permission entry of cell 0. -/
def mapped (s : State) : State :=
  { s with
    mem := [(0, 1), (1, 0x20), (0x2000, 1), (0x2001, 0x40), (0x4000, 1), (0x4001, 0x60), (0x6000, 1), (0x6001, 0x80), (0x8000, 0x0F), (0x8001, 0x30), (0x8003, 1)]
    liveAsids := [0]
    towers := s.towers.modify 0 fun t => { t with perms := [⟨0, some 0, 0, ⟨0x0100300F, false⟩⟩] } }

theorem test_mapped_wf : (mapped State.reset).mem.wf = true := by decide
/-- The walk finds the leaf (08 R188). -/
theorem test_walk : (mapped State.reset).walk 0 0x1234 .store = ((mapped State.reset).onTower 0 fun t => { t with owners := [⟨0x100, 1, some 0, 0, true⟩] }, .leaf ⟨0x0100300F, false⟩) := by
  decide +kernel
theorem test_pa : Leaf.pa ⟨0x0100300F, false⟩ 0x1234 = 0x1001234 := by decide

/-- Loads: an access out of range; one whose bytes can be had; one that fails. -/
theorem wit_load :
    (let i : Instr := .ldD .always 0 0 .discard
     actsOn (setup i [(.a, sc (2 ^ 56))]) i (vals (sc (2 ^ 56))) = true ∧ [(w64 (2 ^ 56), 8)].find? (fun q => !canonical q.1 q.2) = some (w64 (2 ^ 56), 8))
      ∧ (let i : Instr := .ldD .always 0 0 .discard
         let s := setup i [(.a, sc 16)] id id mapped
         ∃ c x, s.fctx = some c ∧ s.finst = some x ∧ actsOn s i (vals (sc 16)) = true ∧ canonical 16 8 = true ∧ s.focus.iid ∉ x.linkDead ∧ c.loadWaits x s.focus 0 = false
          ∧ (s.loadAll c 0 0 0 false [(16, 8)]).wait = false ∧ (s.loadAll c 0 0 0 false [(16, 8)]).bad = none
          ∧ s.farAcc c 0 16 8 .load = false ∧ s.cutAcc c 0 16 8 .load = false)
      ∧ (let i : Instr := .ldD .always 0 0 .discard
         let s := setup i [(.a, sc 16)]
         ∃ c, s.fctx = some c ∧ (s.loadAll c 0 0 0 false [(16, 8)]).wait = false ∧ (s.loadAll c 0 0 0 false [(16, 8)]).bad = some (.perm, 16)) :=
  ⟨by decide +kernel, ⟨_, _, rfl, rfl, by decide +kernel, by decide, by decide, by decide +kernel, by decide +kernel, by decide +kernel, by decide +kernel,
    by decide +kernel⟩, ⟨_, rfl, by decide +kernel, by decide +kernel⟩⟩
theorem wit_aligned : (∃ s v, Acts s (.ldacq .always 1 0 .discard) v ∧ v.a.bits = 4) ∧ (∃ s v, Acts s (.hldc .always 1 true false .d .discard) v ∧ v.a.bits = 4)
    ∧ (∃ s v, Acts s (.strel .always 1 0) v ∧ v.a.bits = 4) ∧ canonical 4 8 = true ∧ (4 : Word).toNat % 8 ≠ 0 :=
  ⟨⟨setup (.ldacq .always 1 0 .discard) [(.a, sc 4)], vals (sc 4), actsOn_acts (by decide +kernel), rfl⟩,
    ⟨setup (.hldc .always 1 true false .d .discard) [(.a, sc 4)], vals (sc 4), actsOn_acts (by decide +kernel), rfl⟩,
    ⟨setup (.strel .always 1 0) [(.a, sc 4), (.b, sc 0)], vals (sc 4) (sc 0), actsOn_acts (by decide +kernel), rfl⟩, by decide, by decide⟩
theorem wit_store :
    (let s := setup (.stD .always 0 0) [(.a, sc 16), (.b, sc 1)] id id mapped
     ∃ c, s.fctx = some c ∧ (s.storeLanes c 0 0 [(16, natToBytes 8 1)]).2 = .ok [⟨0, 16, natToBytes 8 1, false, some ⟨0x0100300F, false⟩, 0⟩])
      ∧ (let s := setup (.stD .always 0 0) [(.a, sc (2 ^ 56)), (.b, sc 1)]
         ∃ c, s.fctx = some c ∧ (s.storeLanes c 0 0 [(w64 (2 ^ 56), natToBytes 8 1)]).2 = .error (.perm, w64 (2 ^ 56))) :=
  ⟨⟨_, rfl, by decide +kernel⟩, ⟨_, rfl, by decide +kernel⟩⟩
theorem wit_forwarding : (0 : Nat) < 1 ∧ blankInst.sent = [] ∧ blankInst.forecast = [] ∧ blankInst.effOut? 0 = none
    ∧ { blankInst with effs := [(0, .fired (.store [] false false))] }.effOut? (BitVec.ofNat 5 0) = some (.fired (.store [] false false)) := by decide

/-- Whether a gate lets an instruction act, and the state it leaves. -/
def gateState (s : State) (eff : BitVec 5) (a : GateAsks) : Option State :=
  match s.gate eff a with
  | .goes t => some t
  | .waits _ => none

theorem gateState_goes {s t : State} {eff : BitVec 5} {a : GateAsks} (h : gateState s eff a = some t) : s.gate eff a = .goes t := by
  unfold gateState at h
  split at h
  · rename_i u hu; cases h; exact hu
  · cases h

/-- An atomic in the oldest clause, on a mapped page: its place, its gate, and its one read and write; and one turned away (out of range, misaligned, with no page). -/
theorem wit_atomic :
    let i : Instr := .amoadd .always 0 .d .lens true .discard
    let s := setup i [(.a, sc 16), (.b, sc 1)] id id mapped
    let l : Option Leaf := some ⟨0x0100300F, false⟩
    actsOn s i (vals (sc 16) (sc 1)) = true ∧ canonical 16 8 = true ∧ (16 : Word).toNat % 8 = 0 ∧ s.focus.win = 0
      ∧ (∃ c x, s.fctx = some c ∧ s.finst = some x ∧ s.focus.iid ∉ x.linkDead ∧ x.lowerServed 0 = true ∧ AtomicPlace s c 16 8 false l ∧ atomFar l = false
          ∧ (s.rmw l c 16 8 fun o => some (o + 1)) matches .done 0 _)
      ∧ (gateState s 0 (atomAsks l 16 8 true)).isSome = true ∧ (gateState s 0 (atomAsks l 16 8 false)).isSome = true := by
  refine ⟨by decide +kernel, by decide, by decide, rfl, ⟨_, _, rfl, rfl, by decide, by decide +kernel, ?_, rfl, by decide +kernel⟩, by decide +kernel, by decide +kernel⟩
  exact ⟨by decide +kernel, by decide +kernel, by decide, by decide, fun _ => by decide +kernel⟩
theorem wit_atomic_turned_away :
    let i : Instr := .amoadd .always 0 .d .lens true .discard
    let s := setup i [(.a, sc 16), (.b, sc 1)]
    (gateState s 0 ⟨false, false, none, false, false⟩).isSome = true ∧ canonical (2 ^ 56) 8 = false ∧ canonical 4 8 = true ∧ (4 : Word).toNat % 8 ≠ 0
      ∧ ∃ c x, s.fctx = some c ∧ s.finst = some x ∧ s.focus.win = 0 ∧ x.lowerServed 0 = true
        ∧ (s.atomAt c x 16 8 false) matches .bad .perm _ := by
  refine ⟨by decide +kernel, by decide, by decide, by decide, _, _, rfl, rfl, rfl, by decide +kernel, by decide +kernel⟩
theorem wit_atomic_place : let s := setup (.nop .always) [] id id mapped
    s.live 0x1000010 = true ∧ s.openAt 0x1000010 = true ∧ s.badAt 0x1000010 8 = false ∧ ({ s with badLines := [0x40000] } : State).badAt 0x1000010 8 = true
      ∧ s.live 0x20000000000 = false ∧ ((s.onTower 0 fun t => { t with wslive := 1 }).live 0x20000000000 = true)
      ∧ ((s.onTower 0 fun t => { t with wsOpen := false }).openAt 0x20000000000 = false)
      ∧ ∃ c, s.fctx = some c ∧ (s.leafWrite c.asid ⟨0x0100300F, false⟩ 16 (natToBytes 8 5) 0 (some c.recA)) matches .ok _ := by
  refine ⟨by decide +kernel, by decide +kernel, by decide +kernel, by decide +kernel, by decide +kernel, by decide +kernel, by decide +kernel, _, rfl, by decide +kernel⟩

/-- Waits that end as they fire. -/
theorem wit_waits :
    (let i : Instr := .waitv .always 0 false .discard
     let s := setup i [(.a, sc 16), (.b, sc 1)] id id mapped
     ∃ c x, s.fctx = some c ∧ s.finst = some x ∧ actsOn s i (vals (sc 16) (sc 1)) = true ∧ s.focus.win = 0 ∧ canonical 16 8 = true ∧ s.focus.iid ∉ x.linkDead
       ∧ c.loadWaits x s.focus 0 = false ∧ (∀ q ∈ x.loads, q.iid ≠ s.focus.iid) ∧ (s.loadAll c 0 0 0 false [(16, 8)]).wait = false ∧ (s.loadAll c 0 0 0 false [(16, 8)]).bad = none
       ∧ s.cutAcc c 0 16 8 .load = false ∧ (s.loadAll c 0 0 0 false [(16, 8)]).bytes = [List.replicate 8 0])
      ∧ (let i : Instr := .barw .always 0 .lens .discard
         let s := setup i [(.a, sc 16), (.b, sc 1)] id id mapped
         ∃ c x, s.fctx = some c ∧ s.finst = some x ∧ actsOn s i (vals (sc 16) (sc 1)) = true ∧ s.focus.iid ∉ x.linkDead ∧ c.loadWaits x s.focus 0 = false
           ∧ s.permLook c.tower 0 c.asid 16 .load = .ok ⟨0x0100300F, false⟩ ∧ c.scratchAcc 16 8 = none ∧ (s.loadAll c 0 0 0 false [(16, 8)]).wait = false
           ∧ (s.loadAll c 0 0 0 false [(16, 8)]).bad = none ∧ s.cutAcc c 0 16 8 .load = false) := by
  refine ⟨⟨_, _, rfl, rfl, by decide +kernel, by decide +kernel, by decide +kernel, by decide +kernel, by decide +kernel, fun q h => (by cases h), by decide +kernel, by decide +kernel, by decide +kernel, by decide +kernel⟩,
    ⟨_, _, rfl, rfl, by decide +kernel, by decide +kernel, by decide +kernel, by decide +kernel, by decide +kernel, by decide +kernel, by decide +kernel, by decide +kernel⟩⟩

/-- A WAITV that waits on the line at VA 0 since time 0: before a store and before 64 us, then after both. -/
def waiter (stored : Bool) (t : Nat) : State :=
  setup (.waitv .always 0 false .discard) [(.a, sc 16), (.b, sc 0)] (fun c => { c with watch := some (0x40000, stored) })
    (fun x => { x with waits := [(0, 0)], loads := [⟨0, 0, [(16, 8)], [List.replicate 8 0], false, true⟩] }) fun s => { mapped s with time := t }
def waiterRec : LoadRec := ⟨0, 0, [(16, 8)], [List.replicate 8 0], false, true⟩
theorem wit_wait_ends :
    let i : Instr := .waitv .always 0 false .discard
    (∃ c, (waiter true 64000).ctx? 0 = some c ∧ c.waitv? = some (0, i, 0, waiterRec) ∧ c.woken waiterRec = true ∧ c.watch = some (0x40000, true) ∧ c.l1 = []
        ∧ ((waiter true 64000).loadAll c 0 0 0 false [(16, 8)]).wait = false ∧ ((waiter true 64000).loadAll c 0 0 0 false [(16, 8)]).bad = none)
      ∧ actsOn (waiter true 64000) i (vals (sc 16) (sc 0)) = true ∧ (waiter true 64000).us 64 = 64000
      ∧ (∃ c, (waiter false 3).ctx? 0 = some c ∧ c.waitv? = some (0, i, 0, waiterRec) ∧ c.woken waiterRec = false ∧ c.watch = some (0x40000, false))
      ∧ (waiter false 3).time < 0 + (waiter false 3).us 64 := by
  refine ⟨⟨_, rfl, by decide +kernel, by decide +kernel, rfl, rfl, by decide +kernel, by decide +kernel⟩, by decide +kernel, by decide +kernel,
    ⟨_, rfl, by decide +kernel, by decide +kernel, rfl⟩, by decide +kernel⟩
theorem wit_line_watched : let s := waiter false 3
    (∃ c ∈ s.ctxs, c.watch = some (0x40000, false)) ∧ (s.leafWrite 0 ⟨0x0100300F, false⟩ 16 (natToBytes 8 5) 0 none) matches .ok _
      ∧ Leaf.h ⟨0x0100300F, false⟩ = false ∧ (paKind (Leaf.pa ⟨0x0100300F, false⟩ 16)) matches .hbm _
      ∧ 0x40000 * 64 < Leaf.pa ⟨0x0100300F, false⟩ 16 + 8 ∧ Leaf.pa ⟨0x0100300F, false⟩ 16 < 0x40000 * 64 + 64 := by
  refine ⟨⟨_, List.mem_singleton_self _, rfl⟩, by decide +kernel, by decide +kernel, by decide +kernel, by decide +kernel, by decide +kernel⟩
theorem wit_full_clock : State.reset.clock = 2100 ∧ State.reset.share = 8 := by decide +kernel

/-- Task instructions: each range of a record operand, room to submit, a record's state and class. -/
theorem wit_tasks :
    (let i : Instr := .tspawn .always 1
     actsOn (setup i [(.a, sc 8)]) i (vals (sc 8)) = true ∧ actsOn (setup i [(.a, sc (2 ^ 56))]) i (vals (sc (2 ^ 56))) = true
       ∧ actsOn (setup i [(.a, sc 64)]) i (vals (sc 64)) = true ∧ (setup i [(.a, sc 64)]).roomToSubmit 0 = true ∧ ((setup i [(.a, sc 64)]).tower 0).waitSubs = [])
      ∧ actsOn (setup (.trange .always 1) [(.a, sc 15)]) (.trange .always 1) (vals (sc 15)) = true
      ∧ actsOn (setup (.trange .always 1) [(.a, sc 16)]) (.trange .always 1) (vals (sc 16)) = true
      ∧ actsOn (setup (.tdep .always 1) [(.a, sc 64), (.b, sc 0)]) (.tdep .always 1) (vals (sc 64) (sc 0)) = true
      ∧ actsOn (setup (.tprio .always 1) [(.a, sc 64), (.b, sc 7)]) (.tprio .always 1) (vals (sc 64) (sc 7)) = true
      ∧ actsOn (setup (.tprio .always 1) [(.a, sc 64), (.b, sc 8)]) (.tprio .always 1) (vals (sc 64) (sc 8)) = true := by decide +kernel

/-- A record at VA 0x40 whose first byte holds a state. -/
def withRecord (st : Nat) (s : State) : State := { mapped s with mem := (mapped s).mem ++ [(0x1000040, BitVec.ofNat 8 st)] }

/-- The state a record's first byte holds, as a load of the record reads it. -/
def recState (s : State) : Option Nat :=
  match (s.vread 0 64 64 0).2 with
  | .ok bs => some ((qwordOf bs 0).toNat % 16)
  | .bad _ _ => none

theorem wit_wait : actsOn (setup (.twait .always 1 true .discard) [(.a, sc 64)] id id (withRecord 9)) (.twait .always 1 true .discard) (vals (sc 64)) = true
    ∧ ∀ st ∈ [4, 5, 9], recState (withRecord st (setup (.nop .always) [])) = some st := by decide +kernel

/-- Whether the focused context meets a condition, and so the focused clause. -/
def hasCtx (s : State) (p : Ctx → Bool) : Bool := (s.fctx.map p).getD false
def hasInst (s : State) (p : Inst → Bool) : Bool := (s.finst.map p).getD false

theorem wit_amsend :
    let i : Instr := .amsend .always 1
    let s := setup i [(.a, sc 0x1000500), (.b, .wide 5), (.c, sc 7)]
    actsOn s i (vals (sc 0x1000500) (.wide 5) (sc 7)) = true ∧ ((s.tower 5).inbox 0).hasRoom = true ∧ ((s.tower 5).inbox 0).asking = [] ∧ s.self = 0
      ∧ hasInst s (fun x => x.grants.isEmpty) = true
      ∧ 0x1000500 / 256 % 8 = 5 ∧ 0x1000500 / 2 ^ 16 % 64 = s.self
      ∧ actsOn (setup i [(.a, sc 0x600), (.b, .wide 5), (.c, sc 7)]) i (vals (sc 0x600) (.wide 5) (sc 7)) = true
      ∧ actsOn (setup i [(.a, sc (2 ^ 41)), (.b, .wide 5), (.c, sc 7)]) i (vals (sc (2 ^ 41)) (.wide 5) (sc 7)) = true := by decide +kernel
/-- To another package: a link lost, a route that is not valid, and a valid one after its wait. -/
theorem wit_amsend_far :
    let i : Instr := .amsend .always 1
    let v := vals (sc 0x10500) (.wide 5) (sc 7)
    let s (f : Inst → Inst) (r : Word) := setup i [(.a, sc 0x10500), (.b, .wide 5), (.c, sc 7)] id f fun s => { s with routes := s.routes.set 1 r }
    0x10500 / 2 ^ 16 % 64 = 1 ∧ 0x10500 / 256 % 8 = 5
      ∧ actsOn (s (fun x => { x with linkDead := [0] }) 0) i v = true ∧ hasInst (s (fun x => { x with linkDead := [0] }) 0) (fun x => x.linkDead.contains 0) = true
      ∧ actsOn (s id 0) i v = true ∧ (s id 0).self = 0 ∧ hasInst (s id 0) (fun x => x.linkDead.isEmpty) = true ∧ (((s id 0).routes[1]?).getD 0).getLsbD 0 = false
      ∧ actsOn (s (fun x => { x with waits := [(0, 5)] }) 1) i v = true ∧ (((s id 1).routes[1]?).getD 0).getLsbD 0 = true
      ∧ hasInst (s (fun x => { x with waits := [(0, 5)] }) 1) (fun x => x.linkDead.isEmpty && (x.waitSince 0).isSome) = true := by decide +kernel
theorem wit_messages :
    (let i : Instr := .amreply .always 1
     let s := setup i [(.a, .wide 5)] (fun c => { c with causeMode := 1, hmsg := some 0 })
     hasCtx s (fun c => c.causeMode = 1 && c.hmsg = some 0) = true ∧ msgSpkg 0 = s.self ∧ actsOn s i (vals (.wide 5)) = true ∧ ((s.tower 0).inbox 0).hasRoom = true)
      ∧ actsOn (setup (.amreply .always 1) [(.a, .wide 5)]) (.amreply .always 1) (vals (.wide 5)) = true
      ∧ actsOn (setup (.htset .always 1) [(.a, sc 0x501), (.b, sc 0x41)]) (.htset .always 1) (vals (sc 0x501) (sc 0x41)) = true ∧ (0x41 : Nat) / 2 % 8 = 0
      ∧ actsOn (setup (.htset .always 1) [(.a, sc 0x601), (.b, sc 0)]) (.htset .always 1) (vals (sc 0x601) (sc 0)) = true
      ∧ (let i : Instr := .inbox .always 1 true .discard
         let s := setup i [(.a, sc 0)] id id fun s => s.onInbox 0 0 fun b => b.push 0
         actsOn s i (vals (sc 0)) = true ∧ s.oldest = true ∧ ((s.tower 0).inbox 0).head? = some 0 ∧ msgSlot 0 = 0 ∧ msgAsid 0 = 0)
      ∧ ((setup (.nop .always) []).tower 0 |>.inbox 0).head? = none := by decide +kernel

/-- A hypothesis of an owner, at a depth. -/
def hypOf (n : BitVec 12) (owner : BitVec 16) (d : Nat) : Hyp := ⟨n, .live, owner, 0, d, 0, false⟩

theorem wit_hypotheses :
    (let i : Instr := .hnew .always 1 .discard
     let s := setup i []
     actsOn s i (vals .null) = true ∧ s.freeHyp = some 1 ∧ ((s.hyp? (s.hypFinal 0)).map fun x => x.depth).getD 0 = 0)
      ∧ (let s := setup (.hnew .always 1 .discard) [] (fun c => { c with hyp := 1 }) id fun s => { s with hyps := [hypOf 1 0 16] }
         ((s.hyp? (s.hypFinal 1)).map fun x => x.depth).getD 0 = 16)
      ∧ (let i : Instr := .henter .always 1
         let s := setup i [(.a, sc 1)] id id fun s => { s with hyps := [hypOf 1 0 1] }
         let u := setup i [(.a, sc 1)] id id fun s => { s with hyps := [hypOf 1 9 1] }
         actsOn s i (vals (sc 1)) = true ∧ s.oldest = true ∧ s.hyp? 1 = some (hypOf 1 0 1) ∧ u.hyp? 1 = some (hypOf 1 9 1)
           ∧ actsOn (setup i [(.a, sc 0)]) i (vals (sc 0)) = true ∧ actsOn (setup i [(.a, sc 4096)]) i (vals (sc 4096)) = true)
      ∧ (let i : Instr := .hresolve .always 0 .discard
         let s := setup i [(.a, sc 1), (.b, sc 0)] id id fun s => { s with hyps := [hypOf 1 0 1] }
         actsOn s i (vals (sc 1) (sc 0)) = true ∧ (gateState s 0 ⟨true, true, none, false, false⟩).isSome = true ∧ (s.releaseHere .pkg).fctx.isSome = true)
      ∧ (setup (.nop .always) []).hyp? 3 = none
      ∧ actsOn (setup (.hstat .always 1 false .discard) [(.a, sc 4095)]) (.hstat .always 1 false .discard) (vals (sc 4095)) = true := by decide +kernel

/-- A task with one M-node granted. -/
def withNode (s : State) : State := { (s.onCtx 0 fun c => { c with nodes := [0] }) with mnodes := [MNode.fresh 0 0 (.task ⟨0, 0⟩ 0) 0] }

theorem wit_matrix :
    (let i : Instr := .tload .always 1 0
     actsOn (setup i [(.a, sc 0), (.b, sc 0), (.c, sc 0)] id id withNode) i (vals (sc 0) (sc 0) (sc 0)) = true
       ∧ hasCtx (withNode (setup i [])) (fun c => (withNode (setup i [])).mnOf c = 1) = true ∧ matrixOk 1 0 = true
       ∧ actsOn (setup i [(.a, sc 0), (.b, sc (2 ^ 56)), (.c, sc 0)] id id withNode) i (vals (sc 0) (sc (2 ^ 56)) (sc 0)) = true
       ∧ actsOn (setup i [(.a, sc 1), (.b, sc 0), (.c, sc 0)] id id withNode) i (vals (sc 1) (sc 0) (sc 0)) = true)
      ∧ matrixOk 7 1 = true ∧ matrixOk 7 2 = false ∧ matrixOk 4 0 = true ∧ matrixOk 4 (2 ^ 30) = false := by decide +kernel

theorem wit_streamers :
    (let i : Instr := .sgath .always 1 0 .discard
     actsOn (setup i [(.a, sc 64), (.b, sc 0), (.c, sc 4)]) i (vals (sc 64) (sc 0) (sc 4)) = true
       ∧ actsOn (setup i [(.a, sc 1), (.b, sc 0), (.c, sc 4)]) i (vals (sc 1) (sc 0) (sc 4)) = true
       ∧ actsOn (setup i [(.a, sc (2 ^ 56)), (.b, sc 0), (.c, sc 4)]) i (vals (sc (2 ^ 56)) (sc 0) (sc 4)) = true)
      ∧ (let i : Instr := .swait .always 1 false .discard
         let s := setup i [(.a, sc (2 ^ 63))] id id withNode
         s.oldest = true ∧ actsOn s i (vals (sc (2 ^ 63))) = true
           ∧ hasCtx s (fun c => hasInst s fun x => s.ticket c x (w64 (2 ^ 63)) = .complete && s.ticket c x (w64 (2 ^ 63 + 1)) = .bad && !c.hasStores
              && (s.mnode? c.tower (s.ownerOf c 0)).isSome && c.heldMatrix 0 = false) = true)
      ∧ (let i : Instr := .swait .always 1 true .discard
         let s := setup i [(.a, sc (2 ^ 63))] (fun c => { c with nodes := [0] })
         actsOn s i (vals (sc (2 ^ 63))) = true ∧ hasCtx s (fun c => hasInst s fun x => s.ticket c x (w64 (2 ^ 63)) = .pending) = true) := by decide +kernel

/-- A task of the pool, RUNNING on context 0. -/
def aTask (st : TaskSt) (rec_ : Word := 0) : TaskInfo where
  recA := rec_
  asid := 0
  recAsid := 0
  st := st
  cls := 2
  strm := none
  ranges := []
  released := 0
  readyAt := 0
  readySeq := 0
  aged := 0
  overflow := false
  window := none
  hyp := 0
  shielded := false
  gang := none
  heldHyps := []
  endAsked := false
  halted := false
  preempted := false
  needHandler := false
  cause := none
  newPrio := none

/-- A streamer command of the task on context 0, queue 0, with a ticket number, in a state. -/
def aScmd (seq : BitVec 32) (st : SSt) : SCmd where
  id := 0
  org := ⟨0, none, 0, 0, 0, 0, 0, 0, 0⟩
  queue := 0
  seq := seq
  xop := 0
  a := 0
  b := 0
  c := 0
  mn := 0
  src := []
  dst := []
  unread := false
  bad := none
  st := st
  repairs := []
  next := 0
  redo := []
  disc := none
  gone := false
  progress := 0

/-- What tickets of the oldest clause say: discarded, running, not yet handed over behind a running one, of another queue. -/
theorem wit_tickets :
    let i : Instr := .swait .always 1 true .discard
    let s (a : Nat) (q : List SCmd) := setup i [(.a, sc a)] id (fun x => { x with streamBase := 5 }) fun s => { s with scmds := q }
    let t (a : Nat) (q : List SCmd) := (s a q).fctx.bind fun c => (s a q).finst.map fun x => (s a q).ticket c x (w64 a)
    t 3 [aScmd 3 (.discarded .perm)] = some (.discarded .perm) ∧ t 3 [aScmd 3 .running] = some .pending ∧ t 4 [aScmd 3 .running] = some .behind
      ∧ t (3 + 2 ^ 32) [aScmd 3 .running] = some .bad ∧ t 3 [aScmd 3 .complete] = some .complete ∧ (s 3 []).oldest = true ∧ actsOn (s 3 []) i (vals (sc 3)) = true
      ∧ hasCtx (s 3 []) (fun c => !c.hasStores && !c.heldIn.any Pend.isStore) = true ∧ actsOn (setup (.sfence .always 1 .lens .discard) [(.a, sc 3)]) (.sfence .always 1 .lens .discard) (vals (sc 3)) = true := by
  decide +kernel

def withTasks (ts : List TaskInfo) (s : State) : State := s.onTower 0 fun t => { t with tasks := ts }

/-- A view of a master with two tiles, the second never built. -/
def aMaster : Master where
  tower := 0
  slot := 0
  asid := 0
  mbase := 0
  mfmt := 2
  nr := 64
  nc := 128
  mstride := 256
  epochs := [3, 0]
  dirty := []
  views := [{ idx := 0, gen := 1, vbase := 0, vfmt := 5, vlay := 0, vstride := 64, sax := 0, sc := 0, rm := 0, seed := 0, shstride := 0,
              tiles := [⟨some 3, false, 0⟩, ⟨none, true, 0⟩] }]

theorem wit_views :
    (let i : Instr := .vwreg .always 0 .discard
     let s := setup i [(.a, sc 64)] id id mapped
     actsOn s i (vals (sc 64)) = true ∧ (gateState s 0 ⟨false, false, none, false, true⟩).isSome = true
       ∧ hasCtx s (fun c => !s.viewWaits c.asid 64 64 && (match (s.taskRead c 64 64).2 with
          | .ok _ => true
          | .bad _ _ => false)) = true
       ∧ actsOn (setup i [(.a, sc (2 ^ 56))]) i (vals (sc (2 ^ 56))) = true)
      ∧ (let i : Instr := .vwpol .always 1
         actsOn (setup i [(.a, sc 0), (.b, sc (2 ^ 49 - 2 ^ 16 + 2))]) i (vals (sc 0) (sc (2 ^ 49 - 2 ^ 16 + 2))) = true ∧ (2 ^ 49 - 2 ^ 16 + 2) / 4 % 2 ^ 14 = 0
           ∧ actsOn (setup i [(.a, sc 0), (.b, sc 3)]) i (vals (sc 0) (sc 3)) = true ∧ actsOn (setup i [(.a, sc 0), (.b, sc (2 ^ 49))]) i (vals (sc 0) (sc (2 ^ 49))) = true)
      ∧ (let i : Instr := .vwqry .always 1 true .discard
         let s := setup i [(.a, sc 0), (.b, sc 1)] id id fun s => { s with masters := [aMaster] }
         actsOn s i (vals (sc 0) (sc 1)) = true ∧ ((aMaster.views.head?).map fun v => (s.viewOf 0 (v.handle aMaster)).isSome) = some true ∧ s.viewOf 0 1 = none)
      ∧ (let i : Instr := .vwsync .always 0 true .discard
         let s := setup i [(.a, sc 7), (.b, sc 0)] id (fun x => { x with syncs := [(0, 0, 0, [(1, 0)])] }) fun s => { s with masters := [aMaster] }
         actsOn s i (vals (sc 7) (sc 0)) = true ∧ s.settled 0 0 [(1, 0)] = some 1 ∧ (gateState (setup i []) 0 ⟨true, false, none, false, true⟩).isSome = true
           ∧ (setup i []).viewOf 0 7 = none ∧ actsOn (setup i [(.a, sc 7), (.b, sc (2 ^ 32))]) i (vals (sc 7) (sc (2 ^ 32))) = true) := by decide +kernel

/-- The handle of aMaster's view. -/
def aHandle : Word := ((aMaster.views.head?).map fun v => v.handle aMaster).getD 0
/-- The first firing of a VWSYNC of a valid handle: it names a tile or all of them, and they are settled after it or not. -/
theorem wit_vwsync :
    let i : Instr := .vwsync .always 0 false .discard
    let s := setup i [(.a, .scalar aHandle), (.b, sc 0)] id id fun s => { s with masters := [{ aMaster with dirty := [(1, [])] }] }
    actsOn s i (vals (.scalar aHandle) (sc 0)) = true ∧ hasInst s (fun x => (x.syncs.find? fun p => decide (p.1 = 0)).isNone) = true
      ∧ (match gateState s 0 ⟨true, false, none, false, true⟩ with
        | none => false
        | some u => hasCtx s fun c =>
          let w := u.released c.recA c.asid
          match w.viewOf c.asid aHandle with
          | none => false
          | some (m, _) =>
            let r := w.syncAdvance c m [0] false
            let r1 := w.syncAdvance c m [0, 1] true
            decide (m.tileCount = 2) && (r.1.settled m.tower m.slot r.2).isSome && (r1.1.settled m.tower m.slot r1.2).isNone
              && decide (w.masterNow m = some m) && m.dirty.all fun d => decide (d.1 = 1)) = true := by
  refine ⟨by decide +kernel, by decide +kernel, ?_⟩
  decide +kernel

/-- A fabric load of ASID 0 in slot 0, with one cell node and one edge out of it and one into it. -/
def aLoad (st : LoadSt) : Load where
  tower := 0
  slot := 0
  gen := 0
  asid := 0
  st := st
  image := 0
  origin := 0
  w := 1
  h := 1
  cells := []
  mnodes := []
  streams := []
  edges := [⟨0, 1, 1, 0, 2, 0, false, [], none⟩, ⟨1, 0, 0, 0, 2, 0, false, [⟨.value, 5, 0⟩], none⟩, ⟨1, 1, 0, 2, 1, 0, false, [], none⟩, ⟨0, 3, 1, 2, 1, 0, false, [⟨.null, 0, 0⟩], none⟩]
  age := 1000
  status := 0
  ring := 0
  nrec := 0
  statusDue := false
  stopAsked := false
  waiter := none
  area := none
  keptCells := []
  keptNodes := []

/-- A state in which the gate of a fabric instruction opens, a load in the given state. -/
def atLoad (i : Instr) (st : LoadSt) (toks : List (Slot × Token)) : State := setup i toks id id fun s => { mapped s with loads := [aLoad st] }

/-- The load a fabric instruction finds past its gate. -/
def foundLoad (s : State) (h : Word) : Option LoadSt :=
  match s.gate 0 ⟨true, false, none, false, true⟩ with
  | .goes u => ((u.releaseHere .pkg).loadOf 0 h).map fun l => l.st
  | .waits _ => none

theorem wit_fabric :
    (∀ st ∈ [LoadSt.loaded, .running, .stopped, .faulted, .saved, .finished],
        let s := atLoad (.pstart .always 0 .discard) st [(.a, sc 128)]
        actsOn s (.pstart .always 0 .discard) (vals (sc 128)) = true ∧ foundLoad s (w64 128) = some st ∧ foundLoad s (w64 129) = none ∧ (aLoad st).handle = w64 128)
      ∧ actsOn (atLoad (.punload .always 0 .discard) .loaded [(.a, sc 128)]) (.punload .always 0 .discard) (vals (sc 128)) = true
      ∧ actsOn (atLoad (.pstop .always 0 .discard) .running [(.a, sc 128)]) (.pstop .always 0 .discard) (vals (sc 128)) = true
      ∧ (atLoad (.pstop .always 0 .discard) .running [(.a, sc 128)]).loadStill (aLoad .running) = true
      ∧ (let i : Instr := .psave .always 0 .discard
         let s := atLoad i .stopped [(.a, sc 128), (.b, sc 4096)]
         actsOn s i (vals (sc 128) (sc 4096)) = true ∧ (s.vwriteAll 0 4096 (s.loadImage { aLoad .stopped with edges := [] })).2.isNone = true
          ∧ actsOn (atLoad i .stopped [(.a, sc 128), (.b, sc 64)]) i (vals (sc 128) (sc 64)) = true)
      ∧ (let i : Instr := .pload .always 0 .discard
         let s := atLoad i .loaded [(.a, sc 1), (.b, sc 0)]
         actsOn s i (vals (sc 1) (sc 0)) = true ∧ s.waitingLoad.isNone = true
          ∧ hasCtx s (fun c => match (s.checkImage c 1 0).2 with
            | .error n => decide (n = 1)
            | .ok _ => false) = true)
      ∧ (let i : Instr := .pload .always 0 .discard
         let s := setup i [(.a, sc 64), (.b, sc 0)] id id fun s => { s with loads := [{ aLoad .loaded with waiter := some (0, 0, 0) }] }
         actsOn s i (vals (sc 64) (sc 0)) = true ∧ (s.waitingLoad.map fun l => l.st) = some .loaded)
      ∧ (let i : Instr := .prest .always 0 .discard
         let s := setup i [(.a, sc 4096), (.b, sc 0)] id id fun s => { s with loads := [{ aLoad .loaded with waiter := some (0, 0, 0), area := some 4096 }] }
         let u := atLoad i .loaded [(.a, sc 4096), (.b, sc 0)]
         actsOn s i (vals (sc 4096) (sc 0)) = true ∧ s.waitingLoad.isSome = true ∧ actsOn u i (vals (sc 4096) (sc 0)) = true ∧ u.waitingLoad.isNone = true
          ∧ (u.loads.all fun o => o.st ≠ .saved) = true) := by decide +kernel

/-- A state past the gate of a fabric instruction with these loads, and what it says of the first. -/
def pastGate (i : Instr) (toks : List (Slot × Token)) (ls : List Load) (p : State → Load → Bool) : Bool :=
  match gateState (setup i toks id id fun s => { mapped s with loads := ls }) 0 ⟨true, false, none, false, true⟩ with
  | none => false
  | some u => ((u.releaseHere .pkg).loads.head?.map fun l => p (u.releaseHere .pkg) l).getD false

/-- PUNLOAD, PSTART of a FAULTED load with one record, PSTOP and PSAVE in the states that let them act. -/
theorem wit_fabric_acts :
    pastGate (.punload .always 0 .discard) [(.a, sc 128)] [aLoad .stopped] (fun w l => !w.loadBusy l && (w.ctxs.all fun z => z.loadRef.isNone) && w.recq.isEmpty && !l.statusDue) = true
      ∧ pastGate (.pstart .always 0 .discard) [(.a, sc 128)] [{ aLoad .faulted with nrec := 1, ring := 0x20000 }] (fun w l =>
          decide (l.st = .faulted) && w.recq.isEmpty && !l.statusDue && ((w.loadRecs ((w.ctx? 0).getD (Ctx.blank 0 .task 0 0 1 0 0 0)) l (List.range l.nrec)).2.map List.length) == some 1) = true
      ∧ pastGate (.pstop .always 0 .discard) [(.a, sc 128)] [aLoad .running] (fun w l => l.waiter.isNone
          && ((w.onLoad l.tower l.slot fun z => { z with stopAsked := true, waiter := some (0, 0, 0) }).discardHeld l).loadStill l) = true
      ∧ pastGate (.psave .always 0 .discard) [(.a, sc 128), (.b, sc 4096)] [{ aLoad .stopped with edges := [] }] (fun w l => !w.loadBusy l
          && ((w.discardHeld l).vwriteAll 0 4096 ((w.discardHeld l).loadImage l)).2.isNone) = true := by
  refine ⟨by decide +kernel, by decide +kernel, by decide +kernel, by decide +kernel⟩
/-- PREST: its load placed, with the saved load beside it or without; an area out of line, unreadable, or that records no state. -/
theorem wit_prest :
    (let i : Instr := .prest .always 0 .discard
     let s (ls : List Load) := setup i [(.a, sc 4096), (.b, sc 0)] id id fun s => { s with loads := ls }
     let l : Load := { aLoad .loaded with waiter := some (0, 0, 0), area := some 4096 }
     let o : Load := { aLoad .saved with slot := 1, area := some 4096 }
     let y (ls : List Load) := (s ls).onLoad 0 0 fun z => { z with waiter := none, area := none }
     (s [l, o]).waitingLoad = some l ∧ (y [l, o]).savedAt 0 (some 4096) = some o ∧ (y [l]).savedAt 0 (some 4096) = none ∧ actsOn (s [l, o]) i (vals (sc 4096) (sc 0)) = true)
      ∧ (let i : Instr := .prest .always 0 .discard
         let s := setup i [(.a, sc 4096), (.b, sc 0)]
         let u := setup i [(.a, sc 4096), (.b, sc 0)] id id mapped
         let z := setup i [(.a, sc 64), (.b, sc 0)]
         s.waitingLoad = none ∧ u.waitingLoad = none ∧ actsOn s i (vals (sc 4096) (sc 0)) = true ∧ actsOn u i (vals (sc 4096) (sc 0)) = true ∧ actsOn z i (vals (sc 64) (sc 0)) = true
           ∧ (gateState s 0 ⟨true, false, none, false, true⟩).map (fun w => decide (((w.releaseHere .pkg).vreadAll 0 4096 [(0, 24)]).2 = none)) = some true
           ∧ (gateState u 0 ⟨true, false, none, false, true⟩).map (fun w => (((w.releaseHere .pkg).vreadAll 0 4096 [(0, 24)]).2.map fun b => (b.map List.length, (savedSt (qwordOf (b.headD []) 2)).isNone)))
               = some (some ([24], true))) := by
  refine ⟨by decide +kernel, by decide +kernel⟩

/-- A pinned clause of a cell node at position 0 of the load. -/
def atNode (i : Instr) (toks : List (Slot × Token)) : State :=
  setup i toks (fun c => { c with kind := .node 0 0 }) (fun x => { x with hdr := { x.hdr with kind := 1 } }) fun s => { s with loads := [aLoad .running] }

def hasEdge (s : State) (port : Nat) (producer : Bool) (p : FEdge → Bool) : Bool := hasCtx s fun c => ((s.edgeOfCtx c port producer).map fun e => p e.2.2).getD false

theorem wit_edges :
    (let s := atNode (.spop 0 0 .discard) []
     actsOn s (.spop 0 0 .discard) (vals .null) = true ∧ hasEdge s 0 false (fun e => (e.toks.map fun t => t.tag) = [.value]) = true
      ∧ hasEdge s 2 false (fun e => e.toks.isEmpty) = true ∧ actsOn (atNode (.spop 0 2 .discard) []) (.spop 0 2 .discard) (vals .null) = true)
      ∧ (let i : Instr := .spush 0 1
         let s := atNode i [(.a, sc 9)]
         actsOn s i (vals (sc 9)) = true ∧ hasEdge s 1 true (fun e => e.toks.length < e.depth && !e.wide) = true
          ∧ hasEdge s 3 true (fun e => e.depth ≤ e.toks.length && !e.wide) = true ∧ actsOn (atNode (.spush 0 3) [(.a, sc 9)]) (.spush 0 3) (vals (sc 9)) = true
          ∧ hasInst (atNode i [(.a, .null)]) (fun x => x.ready 0 i = .meetsNull) = true)
      ∧ hasInst (setup (.spush 0 1) [(.a, sc 9)]) (fun x => x.hdr.kind = 0) = true := by decide +kernel

theorem wit_control :
    actsOn (setup (.trap .always 1) [(.a, sc (2 ^ 16 - 1))]) (.trap .always 1) (vals (sc (2 ^ 16 - 1))) = true
      ∧ actsOn (setup (.trap .always 1) [(.a, sc (2 ^ 16))]) (.trap .always 1) (vals (sc (2 ^ 16))) = true
      ∧ (let s := setup (.rft .always 1) [] fun c => { c with causeMode := 1 }
         actsOn s (.rft .always 1) (vals .null) = true ∧ hasCtx s (fun c => !c.normalMode) = true ∧ hasCtx (setup (.rft .always 1) []) (fun c => c.normalMode) = true)
      ∧ (let s := setup (.cread .always 1 16 .discard) []
         actsOn s (.cread .always 1 16 .discard) (vals .null) = true ∧ s.oldest = true ∧ s.privileged = true)
      ∧ (let s := setup (.cread .always 1 16 .discard) [] fun c => { c with base := 1 }
         actsOn s (.cread .always 1 16 .discard) (vals .null) = true ∧ s.oldest = true ∧ s.privileged = false)
      ∧ (let s := setup (.cwrite .always 1 15) [(.a, sc 3)] fun c => { c with base := 1 }
         actsOn s (.cwrite .always 1 15) (vals (sc 3)) = true ∧ s.oldest = true ∧ s.privileged = false)
      ∧ (let s := setup (.cread .always 1 16 .discard) [] (fun c => { c with window := blankInst :: c.window }) id fun s => { s with focus := ⟨0, 1, 0, false⟩ }
         actsOn s (.cread .always 1 16 .discard) (vals .null) = true ∧ s.oldest = false)
      ∧ (setup (.rdtime .always 1 .discard) []).timeHeld = false
      ∧ (let s := setup (.rdtime .always 1 .discard) [] (fun c => { c with window := c.window ++ c.window }) id fun s => { s with focus := ⟨0, 1, 0, false⟩ }
         actsOn s (.rdtime .always 1 .discard) (vals .null) = true ∧ s.timeHeld = true)
      ∧ actsOn (setup (.rdpmc .always 1 .discard) [(.a, sc 255)]) (.rdpmc .always 1 .discard) (vals (sc 255)) = true
      ∧ actsOn (setup (.rdpmc .always 1 .discard) [(.a, sc 256)]) (.rdpmc .always 1 .discard) (vals (sc 256)) = true
      ∧ (let s := setup (.afwait .always 1 .discard) []
         s.oldest = true ∧ hasCtx s (fun c => c.heldIn.isEmpty && c.pend.isEmpty && !s.recordDue c) = true)
      ∧ (let i : Instr := .idle .always 1 .discard
         let s := setup i [(.a, sc 5)] fun c => { c with base := 1 }
         actsOn s i (vals (sc 5)) = true ∧ hasCtx s (fun c => s.idleBits c 5 0 = 0) = true
          ∧ hasCtx ({ s with time := 5000 } : State) (fun c => ({ s with time := 5000 } : State).idleBits c 5 0 ≠ 0) = true
          ∧ actsOn (setup i [(.a, sc (2 ^ 32))]) i (vals (sc (2 ^ 32))) = true)
      ∧ (let i : Instr := .cline .always 0 .wb
         let s := setup i [(.a, sc 64)] id id mapped
         actsOn s i (vals (sc 64)) = true ∧ (gateState s 0 ⟨false, false, none, false, false⟩).isSome = true
          ∧ (match s.permGet 0 0 0 64 .load with
            | .ok l => !l.far
            | _ => false) = true ∧ actsOn (setup i [(.a, sc scratchBase)]) i (vals (sc scratchBase)) = true ∧ scratchBase < 2 ^ 56
          ∧ actsOn (setup i [(.a, sc (2 ^ 56))]) i (vals (sc (2 ^ 56))) = true) := by decide +kernel

theorem wit_supervisor :
    (let i : Instr := .halt .always 1
     let s := setup i [(.a, sc 64), (.b, sc 2)]
     actsOn s i (vals (sc 64) (sc 2)) = true ∧ s.privileged = true ∧ actsOn (setup i [(.a, sc 64), (.b, sc 3)]) i (vals (sc 64) (sc 3)) = true
      ∧ (setup i [(.a, sc 64), (.b, sc 2)] fun c => { c with base := 1 }).privileged = false)
      ∧ actsOn (setup (.wsopen .always 1) [(.a, sc 5)]) (.wsopen .always 1) (vals (sc 5)) = true ∧ actsOn (setup (.wsopen .always 1) [(.a, sc 6)]) (.wsopen .always 1) (vals (sc 6)) = true
      ∧ (let i : Instr := .winwr .always 1
         let s := setup i [(.a, sc 64), (.b, sc 255), (.c, sc 0)] id id (withTasks [aTask .stopped 64])
         actsOn s i (vals (sc 64) (sc 255) (sc 0)) = true ∧ (s.stopped? 64).isSome = true ∧ s.stopped? 128 = none
          ∧ actsOn (setup i [(.a, sc 64), (.b, sc 256), (.c, sc 0)]) i (vals (sc 64) (sc 256) (sc 0)) = true)
      ∧ (let i : Instr := .winrd .always 1 .discard
         let s := setup i [(.a, sc 0), (.b, sc 0)] id id (withTasks [aTask .stopped])
         actsOn s i (vals (sc 0) (sc 0)) = true ∧ s.oldest = true ∧ ((s.stopped? 0).map fun p => (s.stoppedCtx p.1 p.2).2.toOption.isSome) = some true)
      ∧ (let i : Instr := .plbfl .always 0 .discard
         let s := setup i [(.a, sc 0x20000), (.b, sc 0), (.c, sc 0)] id id fun s => { s with shoots := [⟨.globals, some (0, 0), true⟩] }
         let u := setup i [(.a, sc 0x10003), (.b, sc 0), (.c, sc 0)]
         actsOn s i (vals (sc 0x20000) (sc 0) (sc 0)) = true ∧ s.privileged = true ∧ (s.shoots.find? fun x => decide (x.by_ = some (s.focus.ctx, s.focus.iid))).isSome = true
          ∧ actsOn u i (vals (sc 0x10003) (sc 0) (sc 0)) = true ∧ u.shoots = [] ∧ (gateState u 0 ⟨true, false, none, false, false⟩).isSome = true)
      ∧ shootOperand (vals (sc 0x10003)) = .ok (.whole 3) ∧ shootOperand (vals (sc 0x20000)) = .ok .globals ∧ shootOperand (vals (sc 0x30000)) = .error .illop
      ∧ shootOperand (vals (sc 3) (sc 0x30000) (sc 7)) = .ok (.range 3 3 7) ∧ shootOperand (vals (sc 0x40000)) = .error .illop := by decide +kernel

/-! ### Hypotheses met: clauses, stops, tasks, messages -/

/-- A machine whose one task, RUNNING on cell 1 of tower 0, holds the given window. -/
def running (w : List Inst) (fc : Ctx → Ctx := id) (fs : State → State := id) : State :=
  fs (withTasks [aTask .running] (mapped { State.reset with
    ctxs := [fc { Ctx.blank 0 .task 0 1 1 0 0 0 with window := w }]
    nextCtx := 1 }))

/-- A committed store of one byte at VA 0x40, performed and not yet acknowledged. -/
def aStore : Pend := ⟨.store ⟨0, 0x40, [1], false, some ⟨0x0100300F, false⟩, 0⟩ false false, .applied, 0, 0, 0, 0, 0, 0, 0, 0, false⟩

def has0 (s : State) (p : Ctx → Bool) : Bool := ((s.ctx? 0).map p).getD false
def runs0 (s : State) (p : Ctx → TaskInfo → Bool) : Bool := ((s.running? 0).map fun q => p q.1 q.2).getD false

/-- A clause in memory at VA 0x100: a header of kind 00 with a branch and 32 words, the first EXITT, the others no-operations. -/
def withClause (s : State) : State :=
  { s with
    mem := Memory.setN s.mem 0x1000100 (natToBytes 16 0x1000 ++ natToBytes 4 0x5A000000 ++ (List.replicate 31 [0, 0, 0, 0x14]).flatten)
    towers := s.towers.modify 0 fun t => { t with perms := [⟨0, some 0, 0, ⟨0x0100300F, false⟩⟩, ⟨1, some 0, 0, ⟨0x0100300F, false⟩⟩] } }

theorem wit_fetch :
    has0 (running []) (fun c => c.kind = .task && c.runs && !(running []).stopDue c && c.fetchAddr = some 0) = true
      ∧ clauseAddrOk 8 = false ∧ clauseAddrOk (w64 (2 ^ 56)) = false ∧ clauseAddrOk (w64 (2 ^ 56 - 16)) = true
      ∧ (let s := withClause (running [])
         has0 s fun c => match s.fetchBytes c 1 0x100 16 with
          | .ok _ t => (match t.fetchBytes c 1 0x110 128 with
            | .ok _ _ => true
            | _ => false)
          | _ => false) = true
      ∧ ({ Header.zero with version := 2 } : Header).version ≠ 1 ∧ ({ Header.zero with version := 1 } : Header).bad false false = false ∧ (decodeWord 0).toOption = none
      ∧ ((Instr.gread 1 (.dual (.to .a 32) .discard)).targets.any fun t => decide (32 ≤ t.2.toNat)) = true := by decide +kernel

/-- A clause with its branch and no outputs masked. -/
def doneInst : Inst := { Inst.place 7 0 ⟨0, 0, 0, 1, 0, 0, 0, false⟩ (List.replicate 32 0x14000000#32) none 0 (some 0) 0 [] with branch := some (.jump 0x100) }

theorem wit_clause_commit :
    doneInst.ownFault.isNone = true ∧ doneInst.complete = true ∧ blankInst.complete = false ∧ (doneInst.fail .illop).ownFault.isSome = true
      ∧ (let s := running [doneInst]
         has0 s fun c => c.runs && !s.stopDue c && c.storesFit doneInst && (match s.performLoads c doneInst 32 with
          | .ready _ => true
          | _ => false)) = true
      ∧ (let x : Inst := { doneInst with loads := [⟨0, 0, [(0x40, 8)], [[1, 0, 0, 0, 0, 0, 0, 0]], false, false⟩], words := 0x90000000#32 :: List.replicate 31 0x14000000#32 }
         let s := withClause (running [x])
         has0 s fun c => match s.performLoads c x 32 with
          | .again _ => true
          | _ => false) = true := by decide +kernel

theorem wit_stops :
    runs0 (running []) (fun _ _ => true) = true
      ∧ (let s := running [] fun c => { c with haltReq := some 0 }
         runs0 s fun c t => c.leaving.isNone && s.quiet c && ((s.chosen c).map fun q => decide (q.1.kind = .halted) && !c.upcalls q.1 && q.2.isEmpty && !(s.recSilent t && decide (q.1.kind = .orphan))) = some true) = true
      ∧ (let s := running [{ blankInst with oldestAt := some 0 }] id fun s => { s with time := 10 ^ 9 }
         runs0 s fun c _ => s.stalled c && s.quiet c && ((s.chosen c).map fun q => decide (q.1.kind = .stall)) = some true) = true
      ∧ (let s := running [{ doneInst with words := [], mark := some .notpres, poisonVa := [(0, 0x5000)] }] fun c => { c with upcall := 0x100 }
         runs0 s fun c _ => ((s.chosen c).map fun q => c.upcalls q.1) = some true && (match s.recheck c.id (List.range 32) with
          | .same _ => true
          | _ => false)) = true
      ∧ (∀ how ∈ [Leave.exitt, .yield, .checkpoint, .kill],
          let s := running [] fun c => { c with leaving := some how }
          (runs0 s fun c _ => s.quiet c && !s.openFaults c.key (some c) (s.ringRecs c.asid c.afBase c.afHead c.afTail)) = true)
      ∧ (let s := running [] fun c => { c with leaving := some .yield, pend := [aStore] }
         runs0 s fun c _ => !s.quiet c) = true := by decide +kernel

/-- A clause with a load behind a fence of kind sc waits; an entry through UPCALL or a handler asks for a clause of kind 10. -/
theorem wit_clause_more :
    (let x : Inst := { doneInst with loads := [⟨0, 0, [(0x40, 8)], [List.replicate 8 0], false, false⟩], words := 0x90000000#32 :: List.replicate 31 0x14000000#32 }
     let s := withClause (running [x] fun c => { c with pend := [⟨.fence 3 .sys, .waiting, 0, 0, 0, 0, 0, 0, 0, 0, false⟩] })
     has0 s fun c => match s.performLoads c x 32 with
      | .wait _ => true
      | _ => false) = true
      ∧ clauseMark { Header.zero with version := 1, kind := 0 } [] false true = some .clausefmt ∧ clauseMark { Header.zero with version := 1, kind := 2 } [] false true = none
      ∧ (let h : Header := { Header.zero with version := 1 }
         h.bad false false = false ∧ (∃ e, decodeWord 0 = .error e) ∧ ((decodeWord 0x14000000).toOption.map fun i => i.targets.isEmpty) = some true) := by
  refine ⟨by decide +kernel, by decide, by decide, by decide, ⟨_, rfl⟩, by decide⟩

theorem wit_register_writes : has0 (running []) (fun c => decide (c.causeMode = 0)) = true ∧ has0 (running [] fun c => { c with causeMode := 2 }) (fun c => decide (c.causeMode ≠ 0)) = true
    ∧ State.reset.towers.length = 6 ∧ (5 : Nat) < 6 ∧ State.reset.liveAsids.length < 1024 ∧ (7 : BitVec 16) ∉ State.reset.liveAsids
    ∧ 1024 ≤ ((List.range 1024).map (BitVec.ofNat 16)).length ∧ (2000 : BitVec 16) ∉ (List.range 1024).map (BitVec.ofNat 16)
    ∧ bitsOf (State.reset.tower 0).wslive (64 * (State.reset.tower 0).wslSel.toNat) 64 / 2 ^ 63 % 2 ≠ (w64 (2 ^ 63)).toNat / 2 ^ 63 % 2 := by decide +kernel

/-- READY tasks of a pool whose records ask for one cell. -/
def ready (ts : List TaskInfo) : State := withTasks ts (mapped { State.reset with time := 8000000 })

theorem choose_isSome (s : State) (k : Nat) {l : List Nat} (h : l.isEmpty = false) : (s.choose k l).isSome = true := by
  match l, h with
  | [_], _ => rfl
  | a :: b :: l, _ => simp only [State.choose]; rw [List.getElem?_eq_getElem (Nat.mod_lt _ (by simp))]; rfl

/-- A task that asks for one cell finds a place, whichever block is taken. -/
theorem wit_compose : (((ready [aTask .ready]).composeFor 0 (aTask .ready) ⟨1, false, 0⟩).isSome = true) := by
  have hf : (([1] : List Nat).find? fun k => !((ready [aTask .ready]).freeBlocks 0 2 k).isEmpty) = some 1 := by decide +kernel
  have hc := choose_isSome (ready [aTask .ready]) 11 (l := (ready [aTask .ready]).freeBlocks 0 2 1) (by decide +kernel)
  obtain ⟨b, hb⟩ := Option.isSome_iff_exists.mp hc
  rw [State.composeFor, if_neg (by decide +kernel)]
  simp only [State.compose, State.withNodes, show (⟨1, false, 0⟩ : Wants).widths = [1] from rfl, show (aTask .ready).eff = 2 from rfl, hf, hb, Nat.not_lt_zero, if_false, Option.isSome_some]

theorem wit_dispatch :
    (let s := (ready []).onTower 0 fun t => { t with waitSubs := [⟨none, some 3, false⟩] }
     ((s.tower 0).waitSubs.find? fun w => !w.granted).isSome = true ∧ s.roomToSubmit 0 = true ∧ ((s.tower 0).waitSubs.map fun w => (w.by_, w.window)) = [(none, some 3)]
      ∧ s.windowStream 0 3 = none)
      ∧ (let s := ready [{ aTask .ready with overflow := true }]
         (sortBy (fun a b => decide (a.readySeq ≤ b.readySeq)) ((s.tower 0).tasks.filter fun x => decide (x.st = .ready) && x.overflow)).length = 1 ∧ (s.tower 0).poolCount < 4096)
      ∧ (let s := ready [aTask .ready]
         s.dispatchHeld = false ∧ (s.admissible 0).map (fun t => decide (s.wantsOf t = some ⟨1, false, 0⟩) && decide (t.eff = 2) && !s.hypRefuted t.hyp) = [true])
      ∧ ({ ready [] with fwWait := some (0, 0) } : State).dispatchHeld = true
      ∧ ((ready [aTask .ready]).tower 0).tasks.any (fun x => decide (x.st = .ready) && decide (x.aged < x.steps 8000000)) = true
      ∧ (let s := (ready []).onTower 0 fun t => { t with passed := [(⟨0, 0⟩, 7000000)] }
         ((s.tower 0).passed.find? fun p => decide (p.2 + s.us 1000 ≤ s.time) && !(s.tower 0).passedLimit.contains p.1).isSome = true) := by decide +kernel
/-- A task for which no lens is free: every cluster is retired. -/
theorem wit_pass_over :
    let s := (ready [aTask .ready]).onTower 0 fun t => { t with retiredClusters := List.range 64 }
    s.admissible 0 = [aTask .ready] ∧ s.wantsOf (aTask .ready) = some ⟨1, false, 0⟩ ∧ s.composeFor 0 (aTask .ready) ⟨1, false, 0⟩ = none := by decide +kernel
/-- A submission through a window to a stream that tracks 256 tasks. -/
theorem wit_window_stream :
    let s := ((ready (List.replicate 256 { aTask .ready with strm := some 0 })).onTower 0 fun t => { t with
      waitSubs := [⟨none, some 3, false⟩]
      windows := t.windows.modify 3 fun w => { w with strm := true } })
    s.windowStream 0 3 = some 0 := by decide +kernel
theorem wit_moves :
    ([(0, true, true, 0), (0, true, true, 2), (0, false, true, 0), (0, false, false, 0), (5, true, true, 0), (5, true, false, 3), (5, true, false, 2)].map
        fun q : Nat × Bool × Bool × BitVec 2 => chooseMove q.1 q.2.1 q.2.2.1 q.2.2.2) = [.kill, .drain, .drain, .checkpoint, .drain, .kill, .checkpoint]
      ∧ (let s := running [] (fun c => { c with drainAt := some 5, prio := 4 }) fun s => { s with time := 5 }
         runs0 s fun c _ => c.leaving.isNone && c.boundary && !s.stopDue c) = true
      ∧ (let s := running [] (fun c => { c with prio := 4 }) fun s => { s with loads := [{ aLoad .configuring with w := 16, h := 16 }] }
         runs0 s fun c _ => !c.going && s.mustLeave c 0) = true := by decide +kernel

/-- A message from context 0 to slot 3 of a cell. -/
def aMsg : BitVec 512 := 3

theorem wit_message_events :
    (let s := (setup (.amsend .always 1) []).onInbox 0 5 fun b => { b with asking := [(0, 0, 0)] }
     ((s.tower 0).inbox 5).hasRoom = true ∧ ((s.tower 0).inbox 5).asking = [(0, 0, 0)] ∧ ((s.tower 0).inbox 6).asking = []
      ∧ (s.focusOn 0 0 0).isSome = true ∧ (s.focusOn 0 9 0).isNone = true)
      ∧ (({ State.reset with flight := [(⟨0, 0⟩, aMsg)] } : State).flight.find? (fun f => decide (f.2 = aMsg))).isSome = true
      ∧ (let s := (running []).onInbox 0 0 fun b => b.push 0
         (({ s with time := 64000 } : State).tower 0 |>.inbox 0).msgs.length = 1 ∧ s.holderOf? 0 0 0 = none ∧ s.us 64 = 64000 ∧ msgSlot 0 = 0
          ∧ (Tower.reset.fqHeld) = [] ∧ { Tower.reset with fqBase := 0x1000 }.fqRoom = true) := by decide +kernel
/-- An AMSEND that waits for an entry of the inbox of cell 5 and is granted it: a legal operand, to its own package. -/
theorem wit_inbox_grant :
    let i : Instr := .amsend .always 1
    let v := vals (sc 0x5) (.wide 5) (sc 7)
    let s := (setup i [(.a, sc 0x5), (.b, .wide 5), (.c, sc 7)] id fun x => { x with waits := [(0, 0)] }).onInbox 0 5 fun b => { b with asking := [(0, 0, 0)] }
    (match (s.onInbox 0 5 fun y => { y with asking := [], granted := y.granted + 1 }).focusOn 0 0 0 with
      | none => false
      | some (u, j) =>
        let w := u.onInst fun y => { y with grants := (0, 0, 5) :: y.grants }
        decide (j = i) && actsOn w i v && decide (w.focus.iid = 0) && decide (w.self = 0) && hasInst w fun x => decide (x.grants.head? = some (0, 0, 5))) = true := by decide +kernel
/-- The handler table of ASID 0 at PA 0x3800, slot 3 holding a given entry. -/
def handlerTables (e : Nat) (s : State) : State :=
  { s with
    mem := Memory.setN (Memory.setN s.mem 0x3000 (natToBytes 8 0x3801)) 0x3818 (natToBytes 8 e)
    towers := s.towers.modify 0 fun t => { t with htdir := 0x3000, fqBase := 0x1000 } }

/-- A message to slot 3 at the head of the inbox of cell 1. -/
def slotMsg : BitVec 512 := 3 * 2 ^ 24
theorem wit_handlers :
    (let s := handlerTables 0x101 ((running []).onInbox 0 1 fun b => b.push slotMsg)
     has0 s fun c => c.kind = .task && c.causeMode = 0 && c.boundary && !c.parked && !c.frozen && c.leaving.isNone && !s.stopDue c && decide (s.diversion? c = some (1, slotMsg, 0x100))) = true
      ∧ (let s : State := { handlerTables 0 ((running []).onInbox 0 1 fun b => b.push slotMsg) with time := 64000 }
         ((s.tower 0).inbox 1).msgs.map (fun m => m.msg) = [slotMsg] ∧ ((s.holderOf? 0 1 slotMsg).map fun c => decide (c.causeMode ≠ 1)) = some true ∧ s.entryBad 0 slotMsg = true
          ∧ (s.tower 0).fqRoom = true ∧ (s.tower 0).fqHeld = [] ∧ s.us 64 = 64000) := by decide +kernel

/-- An entry of the translation cache, and one line of an L1 that is owed an update. -/
def sharer (cut : Bool) (t : Nat) : State :=
  running [] (fun c => { c with pend := [aStore], l1 := [⟨0, some 0, 1, false, [(0, 0)], false⟩] }) fun s => { s with
    time := t
    links := if cut then s.links.map fun l => { l with lostAt := some 0 } else s.links }
theorem wit_memory_events :
    (let r : WalkReq := ⟨1, 0, 0, .load⟩
     let s := State.reset.onTower 0 fun t => { t with walkReqs := [r], walkAns := [⟨r, 0, .leaf ⟨0x0100300F, false⟩, false⟩, ⟨r, 0, .fault .perm 0, true⟩, ⟨r, 9, .fault .perm 0, true⟩] }
     (s.tower 0).walkReqs = [r] ∧ (s.tower 0).walkAns.map (fun a => decide (a.gen = (s.tower 0).gen)) = [true, true, false] ∧ r.acc ≠ .store ∧ (s.tower 0).walks < 16
      ∧ 16 ≤ ((s.onTower 0 fun t => { t with walkAns := (List.range 16).map fun p => ⟨⟨1, 0, p, .load⟩, 0, .fault .perm 0, true⟩ }).tower 0).walks)
      ∧ (let s := (mapped State.reset).onTower 0 fun t => { t with trans := [⟨some 0, 0, ⟨0x0100300F, false⟩⟩] }
         s.asidUsable 0 = true ∧ ((s.tower 0).trans.find? fun x => x.serves 0 0 && (!Access.load.writes || x.leaf.d)).isSome = true ∧ s.asidUsable 5 = false)
      ∧ (has0 (running [] fun c => { c with pend := [aStore] }) fun c => (c.pend.find? fun p => decide (p.st = .applied)).isSome && ((running []).ackWaits c aStore).isEmpty) = true
      ∧ (383 : Nat) < 384 ∧ ({ State.reset with time := 16000 } : State).time % 250 = 0 ∧ (1 : Nat) % 250 ≠ 0
      ∧ State.reset.isFar 0x1000000 = false ∧ paKind 0x1000000 = .hbm 0 ∧ State.reset.physBad 0x1000000 8 = none ∧ State.reset.forwardAt 0x1000000 = none
      ∧ (match paKind 0x20000000000 with
        | .weight _ _ => true
        | _ => false) = true ∧ State.reset.physBad 0x20000000000 8 = some .notlive ∧ State.reset.live 0x1000000 = true ∧ State.reset.badAt 0x1000000 4096 = false
      ∧ State.reset.openAt 0x20000000000 = false ∧ (State.reset.onTower 0 fun t => { t with wsOpen := true }).openAt 0x20000000000 = true
      ∧ ((State.reset.onTower 0 fun t => { t with forwards := [⟨0x100, 0x4000000, 0⟩] }).forwardAt 0x1000000) = some (0, ⟨0x100, 0x4000000, 0⟩)
      ∧ (match paKind 0x3F000000000 with
        | .device _ => true
        | _ => false) = true
      ∧ (({ State.reset with shoots := [⟨.globals, none, false⟩] } : State).shoots.find? (fun x => !x.finished)).isSome = true
      ∧ (let s : State := { State.reset with hyps := [{ hypOf 1 0 1 with st := .refuted }] }
         (s.hyp? (BitVec.ofNat 12 1)).map (fun y => decide (y.st = .refuted) && !y.discarded) = some true) := by decide +kernel
/-- A store whose update an L1 still awaits; one whose L1 its slice reaches while no link is lost. -/
theorem wit_sharers :
    (has0 (sharer false 0) fun c => decide (aStore.lines c.asid = some (some 0, 0x40, 1)) && decide (((sharer false 0).ackWaits c aStore).length = 1)
        && ((sharer false 0).ackWaits c aStore).all fun w => (sharer false 0).forwardable w (some 0, 0x40, 1)) = true
      ∧ (has0 (sharer true 50000) fun c => decide (((sharer true 50000).ackWaits c aStore).length = 1)) = true
      ∧ (sharer true 50000).lostSince + (sharer true 50000).us 50 ≤ (sharer true 50000).time ∧ (sharer true 3).time < (sharer true 3).lostSince + (sharer true 3).us 50 := by decide +kernel
theorem wit_idle_ends :
    let s := running [{ blankInst with words := [BitVec.ofNat 32 ((encodeWord (.idle .always 1 .discard)).getD 0)], toks := [(0, .a, sc 5)], waits := [(0, 0)] }] id fun s => { s with time := 5000 }
    (has0 s fun c => match c.window with
      | y :: _ => decide (y.waits = [(0, 0)]) && decide (y.instrAt 0 = some (.idle .always 1 .discard)) && y.fired.isEmpty && decide (((y.tok? 0 .a).getD .null).bits = 5)
      | [] => false) = true ∧ (0 + 5 * 1000 ≤ 5000)
      ∧ actsOn ({ s with focus := ⟨0, 0, 0, false⟩ } : State) (.idle .always 1 .discard) (vals (sc 5)) = true := by decide +kernel
/-- Accesses that have waited 50 us: a load of a far page, a far store, and one that a lost link keeps. -/
def farMapped (s : State) : State := (mapped s).onTower 0 fun t => { t with perms := [⟨1, some 0, 0, ⟨0x002040000100300F, false⟩⟩] }
def farLoad (fc : Ctx → Ctx) : State :=
  running [{ blankInst with words := [BitVec.ofNat 32 ((encodeWord (.ldD .always 0 0 .discard)).getD 0)], toks := [(0, .a, sc 16)], waits := [(0, 0)] }] fc fun s => { farMapped s with time := 50000 }
theorem wit_far_waits :
    (has0 (farLoad id) fun c => !((farLoad id).waitedOn c (fun cell p => (farLoad id).farAcc c cell p.1 p.2 .load) true).isEmpty) = true
      ∧ (has0 (running [] (fun c => { c with pend := [{ aStore with what := .store ⟨0, 0x40, [1], true, none, 0⟩ false false, st := .waiting }] }) fun s => { farMapped s with time := 50000 }) fun c =>
          let s := running [] (fun c => { c with pend := [{ aStore with what := .store ⟨0, 0x40, [1], true, none, 0⟩ false false, st := .waiting }] }) fun s => { farMapped s with time := 50000 }
          (s.waitedOn c (fun cell p => s.farAcc c cell p.1 p.2 .load) true).isEmpty && (s.storeWaited c fun _ l p => l.far && decide (p.since + s.us 50 ≤ s.time)).isSome) = true := by decide +kernel

/-- A node of a task with a tile in each state and a command. -/
def busyNode : MNode := { MNode.fresh 0 0 (.task ⟨0, 0⟩ 0) 0 with
  tiles := [1, 3] ++ List.replicate 30 0
  queue := [⟨0, ⟨0, none, 0, 0, 0, 0, 0, 0, 0⟩, 3, 5, 0, 0, 0, none, [], none, 0⟩] }

theorem wit_engines :
    (let s : State := { State.reset with mnodes := [busyNode], time := 10 ^ 10 }
     busyNode.restoring = false ∧ tState (busyNode.tile 0) = 1 ∧ tState (busyNode.tile 1) = 3 ∧ s.tileBusy busyNode 0 = false ∧ s.tileBusy busyNode 1 = false
      ∧ (busyNode.next.findSome? fun q => s.tryCmd busyNode q).isSome = true)
      ∧ (let q := aScmd 0 .running
         let s : State := { State.reset with scmds := [q], time := 10 ^ 10 }
         s.queueBehind q = false ∧ s.scmdWaits q = false ∧ s.pauses q.org = false ∧ q.unfinished = true ∧ q.progress + s.stallLimit 0 ≤ 10 ^ 10)
      ∧ (let l := aLoad .running
         (({ State.reset with loads := [l] } : State).load? 0 0).isSome = true ∧ l.stopAsked = false ∧ l.streams = [])
      ∧ (({ State.reset with loads := [{ aLoad .running with edges := [⟨0, 1, 1, 0, 2, 0, false, [⟨.value, 0, 0⟩], some 0⟩] }] } : State).load? 0 0).isSome = true
      ∧ (let m := { busyNode with queue := [], leaving := some none }
         (({ State.reset with mnodes := [m] } : State).granted? 0 0).map (fun m => m.quiet && m.leaving = some none) = some true) := by decide +kernel

/-- More of the engines: a view tile built and published, or its failure shown; a load placed and its PLOAD or PREST answered; loads that finish; an iteration of bubbles. -/
def aBuild : Build := ⟨0, 0, 0, 0, none, none, none⟩
theorem wit_view_events :
    (let s : State := { mapped State.reset with masters := [aMaster], builds := [aBuild] }
     (s.builds.find? fun b => decide (b.tower = 0) && b.made.isNone && b.failed.isNone) = some aBuild ∧ nanFails 16 = false
      ∧ (match (s.snapshot aMaster 0 (List.range 64)).2 with
        | .ok bss => decide (bss.length = 64)
        | _ => false) = true)
      ∧ ((aMaster.epochs[0]?).getD 0 = 3 ∧ ((({ State.reset with masters := [aMaster] } : State).viewPuts 0 []).2.isNone) = true) := by decide +kernel
theorem wit_fabric_events :
    (let i : Instr := .pload .always 0 .discard
     let l : Load := { aLoad .configuring with waiter := some (0, 0, 0) }
     let s := setup i [(.a, sc 64), (.b, sc 0)] (fun c => { c with base := 127 }) id fun s => { s with loads := [l] }
     s.load? 0 0 = some l ∧ s.regionClear l = true ∧ ((s.focusOn 0 0 0).map fun q => decide (q.2 = i)
       && (let z := (({ q.1 with mnodes := q.1.mnodes ++ q.1.freshNodes l } : State).loadTo 0 0 .loaded).tick
           (z.waitingLoad.map fun y => decide (y.st = .loaded)) == some true && actsOn z i (vals (sc 64) (sc 0)))) = some true)
      ∧ (let i : Instr := .prest .always 0 .discard
         let l : Load := { aLoad .configuring with edges := [], waiter := some (0, 0, 0), area := some 0x1000 }
         let s := setup i [(.a, sc 0x1000), (.b, sc 0)] (fun c => { c with base := 127 }) id fun s => { mapped s with
           loads := [l]
           mem := (mapped s).mem ++ [(0x1001010, 1)] }
         s.load? 0 0 = some l ∧ s.regionClear l = true ∧ ((s.focusOn 0 0 0).map fun q => decide (q.2 = i)
           && (({ q.1 with mnodes := q.1.mnodes ++ q.1.freshNodes l } : State).restoreLoad l (({ q.1 with mnodes := q.1.mnodes ++ q.1.freshNodes l } : State).savedAt l.asid (some 0x1000)) 0x1000).isSome)
             = some true)
      ∧ (let l := { aLoad .faulted with statusDue := true }
         ({ State.reset with loads := [l] } : State).load? 0 0 = some l ∧ l.st = .faulted ∧ l.statusDue = true) := by decide +kernel
/-- A node whose clause pops port 0 and pushes port 1, a bubble at its head. -/
theorem wit_bubble :
    let f : FCell := ⟨0, 0, { Header.zero with kind := 1 }, [BitVec.ofNat 32 ((encodeWord (.spop 0 0 .discard)).getD 0), BitVec.ofNat 32 ((encodeWord (.spush 1 1)).getD 0)]⟩
    let l : Load := { aLoad .running with
      cells := [f]
      edges := [⟨1, 0, 0, 0, 2, 0, false, [⟨.bubble, 0, 5⟩], none⟩, ⟨0, 1, 1, 0, 2, 0, false, [], none⟩] }
    let s := setup (.nop .always) [] (fun c => { c with kind := .node 0 0 }) id fun s => { s with loads := [l] }
    f.pops = [0] ∧ f.pushes = [1] ∧ s.load? 0 0 = some l ∧ ((s.edgeFor 0 0 0 0 false).bind fun e => e.2.2.toks.head?) = some ⟨.bubble, 0, 5⟩
      ∧ ((s.edgeFor 0 0 0 1 true).map fun e => decide (e.2.2.toks.length < e.2.2.depth)) = some true
      ∧ (has0 s fun c => decide (c.kind = .node 0 0) && decide (c.window.length = 1)) = true := by decide +kernel

/-- An entry, a queue with room, and a supervisor on cell 0 whose page at VA 0x1000 is mapped. -/
def withQueue (s : State) : State :=
  { (mapped s).onTower 0 fun t => { t with fqBase := 0x1000, fqHeld := [FqEntry.blank 1 2 0], svOn := true } with
    ctxs := [Ctx.blank 0 .task 0 0 1 0 0 0] }

theorem wit_records :
    (let s := withQueue State.reset
     (s.supervisor? 0).isSome = true ∧ (s.tower 0).fqHeld.length = 1 ∧ ((s.tower 0).fqHead - (s.tower 0).fqTail).toNat < 2 ^ (s.tower 0).fqN
      ∧ (s.vwrite 0 0x1000 ((FqEntry.blank 1 2 0).bytes 0)).2.isNone = true)
      ∧ (State.reset.tower 0).fqBase = 0
      ∧ ((Tower.reset.fqHead + 16) - Tower.reset.fqTail).toNat = 2 ^ Tower.reset.fqN := by decide +kernel
/-- A record that is due to the task on context 0; a page that another package sends. -/
def aRec : AfRec := ⟨.perm, 0, 0, 0, 0, 0, 0x40, 0, 0, 0, 0, 0, 0, 0, [], none, 0⟩
theorem wit_records_more :
    (has0 (running [] id fun s => { s with recq := [aRec] }) fun c => decide (([aRec] : List AfRec).find? c.ownsRec = some aRec)) = true
      ∧ ((State.reset.onTower 0 fun t => { t with forwards := [⟨0x100, 0x4000000, 0⟩] }).forwardAt 0x1000000).isSome = true
      ∧ State.reset.live 0x1000000 = true ∧ State.reset.badAt 0x1000000 8 = false ∧ State.reset.live 0x20000000000 = false := by decide +kernel
/-- Lanes of the second direction, with spares, without any, and at half width. -/
theorem wit_lanes :
    (13 : Nat) < 14 ∧ decide (7 ≤ (13 : Nat)) = true
      ∧ (let s (l : Nat × Nat) (h : Bool) : State := { State.reset with links := State.reset.links.map fun x => { x with spares := l, half := h } }
         ((s (4, 4) false).links[6]?).map (fun l => l.left true) = some 4 ∧ ((s (4, 0) false).links[6]?).map (fun l => (l.left true, l.half)) = some (0, false)
           ∧ ((s (4, 0) true).links[6]?).map (fun l => (l.left true, l.half)) = some (0, true)) := by decide +kernel
theorem wit_links :
    (State.reset.links[0]?).map (fun l => l.lostAt.isNone && decide (0 < l.left false) && decide (0 < l.left true)) = some true ∧ State.reset.links.length = 7
      ∧ (let s : State := { State.reset with links := State.reset.links.map fun l => { l with lostAt := some 0 }, time := 50000 }
         (s.links[0]?).map (fun l => decide (l.lostAt = some 0) && !l.served) = some true ∧ s.cutMask 0 ≠ 0)
      ∧ paKind 0x1000000 ≠ .hole ∧ paTower 0x1000000 = some 0 ∧ (State.reset.tower 0).forwards = [] ∧ State.reset.isFar (1 * 2 ^ 46) = true := by decide +kernel

def aGang (st : GangSt) : Gang where
  gid := 1
  tower := 0
  asid := 0
  lead := 1
  members := []
  start := 0
  grace := 1
  abort := false
  stat := 0
  pkgs := 3
  st := st
  ready := []
  sent := none
  late := false

theorem wit_host :
    (0 : Nat) < 6 ∧ (63 : Nat) < 64 ∧ 6 ≤ (6 : Nat)
      ∧ (let s := State.reset.onWindow 0 3 fun w => { w with comps := [(64, 4, 0)] }
         (s.window 0 3).comps = [(64, 4, 0)] ∧ ((s.window 0 3).ctail - (s.window 0 3).chead).toNat < 2 ^ (s.window 0 3).cn)
      ∧ (let s := State.reset.onWindow 0 3 fun w => { w with ctail := 1 }
         2 ^ (s.window 0 3).cn ≤ ((s.window 0 3).ctail - (s.window 0 3).chead).toNat)
      ∧ (State.reset.tower 5).migEn = false ∧ (State.reset.tower 5).hotAt + 1000000 ≤ ({ State.reset with time := 1000000 } : State).time
      ∧ ([(⟨7, 8, 0⟩ : Forward)].find? fun f => decide (f.lastAt + 10000000 ≤ 10000000)).isSome = true ∧ (State.reset.tower 0).migPool.getLsbD 0 = false := by decide +kernel
theorem wit_gangs :
    (let s : State := { State.reset with gangs := [aGang .armed], time := 1000 }
     (s.gang? 1).isSome = true ∧ s.dispatchHeld = false ∧ s.gangNext (aGang .armed) = none ∧ (aGang .armed).start ≤ s.time ∧ (aGang .armed).lead ≠ s.self
      ∧ (aGang .armed).start + (aGang .armed).grace * 1000 ≤ s.time)
      ∧ (({ State.reset with gangs := [aGang .placed] } : State).gang? 1).isSome = true
      ∧ ((aGang .armed).pkgs.getLsbD 1 = true ∧ 1 ≠ State.reset.self)
      ∧ (({ aGang .armed with members := [64] } : Gang).members).length = 1 ∧ ({ State.reset with gangs := [{ aGang .armed with members := [64] }] } : State).gangNext { aGang .armed with members := [64] } = some 64
      ∧ (let k : Ckpt := ⟨false, 0, 0, 0, 0, 0, 0⟩
         ({ State.reset with ckptRun := some k } : State).ckptRun = some k ∧ k.behind = 0 ∧ k.restore = false) := by decide +kernel

theorem wit_mailboxes :
    (∀ k < 9, let s : State := { State.reset with mboxQueue := [1], mboxes := [⟨0, 0⟩, ⟨BitVec.ofNat 16 k, 0⟩] }
      s.mboxQueue.head? = some 1 ∧ s.fwWait = none ∧ (s.mbox 1).cmd.toNat = k)
      ∧ (∀ v ∈ [1500, 1550, 4600], 1500 ≤ v ∧ v ≤ 4600 ∧ v % 50 = 0) ∧ State.reset.throttling = false ∧ State.reset.fuses < 64
      ∧ (let s : State := { State.reset with fwWait := some (0, 0) }
         s.ckptRun = none ∧ s.quiesced = true ∧ s.fwWait = some (0, 0)) := by decide +kernel
theorem wit_power :
    State.reset.throttling = false
      ∧ (let s : State := { State.reset with throttling := true, time := 1000000, clock := 1100, share := 3, capOverAt := some 0 }
         s.throttling = true ∧ s.stepAt + 100000 ≤ s.time ∧ s.stepAt + 1000000 ≤ s.time ∧ 1050 < s.clock ∧ s.share < capShare s.cap)
      ∧ (let s : State := { State.reset with capOverAt := some 0, time := 10000000, share := 1 }
         s.capOverAt = some 0 ∧ 0 + 10000000 ≤ s.time ∧ s.share = 1)
      ∧ 0x1000000 / 64 ∉ State.reset.badLines ∧ 63 ∉ (State.reset.tower 5).retiredClusters ∧ 383 ∉ State.reset.retiredSlices ∧ 383 ∉ State.reset.sliceWait ∧ State.reset.quiesced = true
      ∧ 7 ∉ State.reset.sparedRows ∧ (State.reset.cxlLanes[11]?).map (fun k => decide (8 < k)) = some true := by
  refine ⟨by decide +kernel, ⟨rfl, by decide, by decide, by decide, ?_⟩, ⟨rfl, by decide, rfl⟩, by decide +kernel⟩
  show (3 : Nat) < capShare 4600
  simp [capShare, capSteps]

theorem wit_memory : Memory.wf [(3, 1), (7, 2)] = true ∧ (3 : Nat) ≠ 4 ∧ Memory.wf ([] : Memory) = true := by decide

def answersNext (o : Host.Outcome State Fault Refusal) : Bool :=
  match o with
  | .next _ => true
  | _ => false

theorem answersNext_next {o : Host.Outcome State Fault Refusal} (h : answersNext o = true) : ∃ u, o = .next u := by
  cases o with
  | next u => exact ⟨u, rfl⟩
  | fault r => cases h
  | refused r => cases h

/-- A frame's premises: an instruction of each list that answers a next state. -/
theorem wit_frame : (∃ u, exec (.add .always dd) (setup (.add .always dd) [(.a, sc 1), (.b, sc 2)]) = .next u)
    ∧ ∃ u, exec (.ldD .always 0 0 .discard) (setup (.ldD .always 0 0 .discard) [(.a, sc 16)] id id mapped) = .next u :=
  ⟨answersNext_next (by decide +kernel), answersNext_next (by decide +kernel)⟩

theorem wit_store_frame :
    (match State.leafWrite (mapped State.reset) 0 ⟨0x0100300F, false⟩ 0x40 [1, 2] 0 none with
      | .ok t => decide (Memory.getN t.mem 0x1000040 2 = [1, 2])
      | _ => false) = true
      ∧ (mapped State.reset).memOk := by decide +kernel

/-- The invariant holds at reset. -/
theorem reset_memOk : State.reset.memOk := by decide
/-- A step from a state that meets it. -/
theorem wit_step : (setup (.nop .always) []).memOk ∧ (shot 0x14000000 []).memOk := by decide

/-! ### Hypotheses met: deliveries, registers, bad operands, tickets -/

/-- Tokens that arrive: an identifier that names nothing, a slot taken, a slot not read, a value of the other width, and one that is held. -/
theorem wit_deliveries :
    let x : Inst := { blankInst with words := [BitVec.ofNat 32 ((encodeWord (.add .always dd)).getD 0), BitVec.ofNat 32 ((encodeWord (.vadd .always .e8 dd)).getD 0)] }
    x.mark = none ∧ x.instrAt 5 = none ∧ x.instrAt 0 = some (.add .always dd) ∧ x.instrAt 1 = some (.vadd .always .e8 dd)
      ∧ { x with toks := [(0, .a, sc 1)] }.tok? 0 .a ≠ none ∧ Slot.p ∉ allSlots (.add .always dd) ∧ Slot.a ∈ allSlots (.add .always dd) ∧ Slot.b ∈ allSlots (.add .always dd)
      ∧ slotWidth (.add .always dd) .a = some .scalar ∧ slotWidth (.vadd .always .e8 dd) .a = some .wide ∧ x.tok? 0 .a = none ∧ x.tok? 0 .b = none
      ∧ ([(.a, 0), (.b, 0)] : List (Slot × BitVec 7)).Nodup ∧ (x.accept .null (.p, 0)).mark ≠ none ∧ (setup (.nop .always) []).finst.isSome = true
      ∧ Tgt.to .a 1 ≠ Tgt.to .a 2 := by decide +kernel

/-- Registers over an older clause that writes them, by a value or a null, and g63 behind a call, another branch and RFT; a commit of several writes. -/
theorem wit_register_values :
    let y : Inst := { blankInst with hdr := { blankInst.hdr with gwmask := 2, wwmask := 2 }, gw := [(1, sc 7)], ww := [(1, .wide 7)] }
    (y.gw.map fun p => p.1).Nodup ∧ (y.ww.map fun p => p.1).Nodup ∧ y.hdr.gwmask.getLsbD 1 = true ∧ y.hdr.wwmask.getLsbD 1 = true ∧ y.hdr.gwmask.getLsbD 63 = false
      ∧ (1, sc 7) ∈ y.gw ∧ (1, Token.wide 7) ∈ y.ww ∧ (1, Token.null) ∈ { y with gw := [(1, .null)] }.gw ∧ (1, Token.null) ∈ { y with ww := [(1, .null)] }.ww
      ∧ ({ y with gw := [] }.gw = [] ∧ { y with ww := [] }.ww = []) ∧ { y with branch := some (.call 0x40) }.branch = some (.call 0x40)
      ∧ { y with branch := some .exitt }.branch = some .exitt ∧ y.branch = none
      ∧ ((({ y with hdr := { y.hdr with gwmask := 6 }, gw := [(1, sc 7), (2, .null)] } : Inst).gw.map fun p => p.1).Nodup) := by
  decide +kernel

/-- What a branch finds behind it: a clause at its target, one elsewhere, or none; the windows that a squash shortens. -/
theorem wit_squash :
    let s := setup (.bro .always 1 1) [] fun c => { c with window := c.window ++ [{ blankInst with addr := 0x40 }] }
    let u := setup (.bro .always 1 1) []
    hasCtx s (fun c => decide (c.kind = .task) && decide ((s.ctx? c.id).isSome) && decide (s.focus.win = 0) && decide (c.window.length = 2)
        && decide ((c.window[1]?).map (fun y => y.addr) = some 0x40)) = true
      ∧ hasCtx u (fun c => decide (c.window[0]?.isSome) && decide ((c.window[1]?).isNone)) = true := by decide +kernel

/-- Stochastic rounding that FPMODE names, of a conversion that narrows and of one that does not. -/
theorem wit_stochastic_wide :
    (let s := setup (.vcvt .always dd) [(.a, .wide 0), (.b, sc 0xE2)] (fun c => { c with rm := 4 })
     s.isSto = true ∧ vcvtOk 0xE2 = true ∧ bitsOf (0xE2 : Word) 5 3 = 7 ∧ narrows (bitsOf (0xE2 : Word) 8 5) (fmtPA (bitsOf (0xE2 : Word) 0 5)) = true
      ∧ actsOn s (.vcvt .always dd) (vals (.wide 0) (sc 0xE2)) = true)
      ∧ vcvtOk 0x282 = true ∧ bitsOf (0x282 : Word) 5 3 = 4 ∧ narrows (bitsOf (0x282 : Word) 8 5) (fmtPA (bitsOf (0x282 : Word) 0 5)) = false
      ∧ vqntOk (19 + 32) = true ∧ bitsOf ((19 + 32 : Nat) : Word) 5 1 = 1 := by decide +kernel

/-- Operands that poison past the gate: HRESOLVE, VWREG, VWSYNC, PLBFL and CLINE; a read of VWREG that fails; HENTER of a FREE hypothesis. -/
theorem wit_gate_poisons :
    let bad : GateAsks := ⟨false, false, none, false, false⟩
    (let i : Instr := .hresolve .always 0 .discard
     actsOn (setup i [(.a, sc 4096), (.b, sc 0)]) i (vals (sc 4096) (sc 0)) = true ∧ (gateState (setup i [(.a, sc 4096), (.b, sc 0)]) 0 bad).isSome = true)
      ∧ (let i : Instr := .vwreg .always 0 .discard
         actsOn (setup i [(.a, sc 3)]) i (vals (sc 3)) = true ∧ (gateState (setup i [(.a, sc 3)]) 0 bad).isSome = true
          ∧ (let s := setup i [(.a, sc 0x20000)] id id mapped
             actsOn s i (vals (sc 0x20000)) = true
              ∧ (match gateState s 0 ⟨false, false, none, false, true⟩ with
                | none => false
                | some u => hasCtx u fun d => !u.viewWaits d.asid 0x20000 64 && (match (u.taskRead d 0x20000 64).2 with
                  | .ok _ => false
                  | .bad _ _ => true)) = true))
      ∧ (let i : Instr := .vwsync .always 0 true .discard
         let s := setup i [(.a, sc 7), (.b, sc (2 ^ 32))]
         actsOn s i (vals (sc 7) (sc (2 ^ 32))) = true ∧ (gateState s 0 bad).isSome = true ∧ hasInst s (fun x => (x.syncs.find? fun p => decide (p.1 = s.focus.iid)).isNone) = true)
      ∧ (let i : Instr := .plbfl .always 0 .discard
         let s := setup i [(.a, sc 0x30000), (.b, sc 0), (.c, sc 0)]
         let u := setup i [(.a, sc 0x20000), (.b, sc 0), (.c, sc 0)] fun c => { c with base := 1 }
         actsOn s i (vals (sc 0x30000) (sc 0) (sc 0)) = true ∧ s.privileged = true ∧ (gateState s 0 bad).isSome = true
          ∧ actsOn u i (vals (sc 0x20000) (sc 0) (sc 0)) = true ∧ u.privileged = false ∧ (gateState u 0 bad).isSome = true)
      ∧ (let i : Instr := .cline .always 0 .wb
         let s := setup i [(.a, sc 64)]
         let y := setup i [(.a, sc (2 ^ 56))]
         actsOn s i (vals (sc 64)) = true ∧ s.oldest = true
          ∧ (match s.permGet 0 0 0 64 .load with
            | .bad _ u => (gateState u 0 bad).isSome
            | _ => false) = true
          ∧ actsOn y i (vals (sc (2 ^ 56))) = true ∧ (gateState y 0 bad).isSome = true
          ∧ (gateState (setup i [(.a, sc scratchBase)]) 0 bad).isSome = true)
      ∧ (let i : Instr := .henter .always 1
         let s := setup i [(.a, sc 5)]
         actsOn s i (vals (sc 5)) = true ∧ s.oldest = true ∧ s.hyp? 5 = none) := by
  refine ⟨by decide +kernel, by decide +kernel, by decide +kernel, by decide +kernel, by decide +kernel, by decide +kernel⟩

/-- Streamer commands whose second descriptor or index is out of line or out of range. -/
theorem wit_streamer_operands :
    (let i : Instr := .scopy .always 1 0 .discard
     actsOn (setup i [(.a, sc 64), (.b, sc 3)]) i (vals (sc 64) (sc 3)) = true ∧ actsOn (setup i [(.a, sc 64), (.b, sc (2 ^ 56))]) i (vals (sc 64) (sc (2 ^ 56))) = true)
      ∧ (let i : Instr := .sgath .always 1 0 .discard
         actsOn (setup i [(.a, sc 64), (.b, sc 0), (.c, sc 3)]) i (vals (sc 64) (sc 0) (sc 3)) = true
          ∧ actsOn (setup i [(.a, sc 64), (.b, sc 0), (.c, sc (2 ^ 56))]) i (vals (sc 64) (sc 0) (sc (2 ^ 56))) = true) := by decide +kernel

/-- What a streamer ticket names: a command not yet issued, one of another queue, one unfinished or over with none before it, one held by a fence, and none with or without an earlier one. -/
theorem wit_ticket_meaning :
    let i : Instr := .swait .always 1 true .discard
    let held : Pend := ⟨.act (.streamer 0 0 0 0 0), .waiting, 3, 0, 0, 0, 0, 0, 0, 0, false⟩
    let s (q : List SCmd) (p : List Pend) := setup i [(.a, sc 3)] (fun c => { c with pend := p }) (fun x => { x with streamBase := 5 }) fun s => { s with scmds := q }
    let mine (q : SCmd) (c : Ctx) : Bool := decide (q.org.key = c.key) && q.org.load.isNone && !q.gone && decide (c.kind = .task)
    2 ^ 31 ≤ ((5 : BitVec 32) - 7).toNat ∧ ¬(2 ^ 31 ≤ ((5 : BitVec 32) - 3).toNat) ∧ w64 3 / 2 ^ 34 = 0 ∧ (w64 3).getLsbD 63 = false
      ∧ hasCtx (s [aScmd 3 .running, aScmd 2 .complete] []) (fun c => mine (aScmd 3 .running) c && mine (aScmd 2 .complete) c) = true
      ∧ (aScmd 3 .running).unfinished = true ∧ (aScmd 3 .complete).unfinished = false ∧ (aScmd 3 (.discarded .perm)).unfinished = false
      ∧ hasCtx (s [] [held]) (fun c => decide (c.heldStream 0 = [held.seq]) && decide (c.heldStream 1 = [])) = true
      ∧ hasCtx (s [] []) (fun c => decide (c.heldStream 0 = [])) = true
      ∧ ((3 : BitVec 32) - 2).toNat < 2 ^ 31 ∧ ¬(((2 : BitVec 32) - 3).toNat < 2 ^ 31) := by decide +kernel

/-- EXITT with a fault still open: a late fault of the task that ends. -/
theorem wit_exit_fault :
    let l : TaskKey × Late := (⟨0, 0⟩, ⟨0, .perm, 2, 0, false⟩)
    let s := running [] (fun c => { c with leaving := some .exitt }) fun s => { s with lates := [l] }
    (runs0 s fun c _ => s.quiet c && s.openFaults c.key (some c) (s.ringRecs c.asid c.afBase c.afHead c.afTail) && !s.recordDue c
      && !(s.exitCauses c (s.ringRecs c.asid c.afBase c.afHead c.afTail)).isEmpty) = true
      ∧ has0 (running []) (fun y => decide (y.haltReq = none)) = true ∧ has0 (running [] fun c => { c with haltReq := some 1 }) (fun y => decide (y.haltReq = some 1)) = true := by decide +kernel

/-- A message that no task of its ASID is there for, one of slot 0 whose cell a task holds, and a cell in a handler; an answer for an L2 slice. -/
theorem wit_unserved :
    (let s := handlerTables 0x101 ((running []).onInbox 0 9 fun b => b.push slotMsg)
     s.unserved 0 9 slotMsg = true ∧ s.inHandler 0 9 = false ∧ s.unserved 0 1 slotMsg = false ∧ s.inHandler 0 1 = false ∧ msgSlot slotMsg ≠ 0 ∧ msgSlot 0 = 0
      ∧ s.unserved 0 1 0 = false ∧ s.unserved 0 9 0 = true ∧ s.entryBad 0 slotMsg = false)
      ∧ (running [] fun c => { c with causeMode := 1 }).inHandler 0 1 = true
      ∧ (let r : WalkReq := ⟨256, 0, 0, .load⟩
         let s := State.reset.onTower 0 fun t => { t with walkAns := [⟨r, 0, .leaf ⟨0x0100300F, false⟩, false⟩] }
         ((s.tower 0).walkAns.map fun a => decide (a.gen = (s.tower 0).gen)) = [true] ∧ 256 ≤ r.cell) := by decide +kernel

/-- A store that a slice may perform: through its entry, through one that forbids it, on a frame that is not live, of a closed weight store, of a line in error, as a version, and one that asks for its entry first. -/
def waitingStore : Pend := { aStore with what := .store (.plain 0x43 [0xAB]) false false, st := .waiting }
theorem wit_home_store :
    let on (l : Leaf) (fs : State → State) := running [] (fun c => { c with pend := [waitingStore] }) fun s => fs (s.onTower 0 fun t => { t with perms := [⟨1, some 0, 0, l⟩] })
    let goes (s : State) (p : State → Ctx → Pend → Lane → Bool) : Bool := has0 s fun x =>
      decide ((s.askStores x).moves = s.moves) && decide (s.choose 1 ((List.range x.pend.length).filter fun i => s.storeReady x i) = some 0) && (match x.pend with
        | [⟨.store l false false, .waiting, a, b, d, e, f, g, h, i, j⟩] => p s x ⟨.store l false false, .waiting, a, b, d, e, f, g, h, i, j⟩ l
        | _ => false)
    let through (s : State) (p : State → Leaf → Bool) : Bool := goes s fun s x q l => match s.pendPerm x q l with
      | .ok y => p s y
      | _ => false
    let rw : Leaf := ⟨0x0100300F, false⟩
    goes (on ⟨0x01003001, false⟩ id) (fun s x q l => match s.pendPerm x q l with
        | .bad _ => true
        | _ => false) = true
      ∧ through (on rw id) (fun s y => !s.subjunctive y 0 && s.live 0x1000043 && s.openAt 0x1000043 && !s.mergeBad 0x1000043 1 && !y.far && decide (y.pa 0x43 = 0x1000043)) = true
      ∧ through (on rw fun s => { s with badLines := [0x1000040 / 64] }) (fun s y => s.mergeBad (y.pa 0x43) 1 && s.live (y.pa 0x43) && s.openAt (y.pa 0x43)) = true
      ∧ through (on ⟨0x2000000340F, false⟩ id) (fun s y => !s.live (y.pa 0x43)) = true
      ∧ through (on ⟨0x2000000340F, false⟩ fun s => s.onTower 0 fun t => { t with wslive := 1 }) (fun s y => s.live (y.pa 0x43) && !s.openAt (y.pa 0x43)) = true
      ∧ (let s := on ⟨0x0100304F, false⟩ fun s => { s with hyps := [hypOf 1 0 1], versions := [⟨1, some 0, 1, [], false, 0⟩] }
         s.subjunctive ⟨0x0100304F, false⟩ 1 = true ∧ s.discards (s.hypFinal 1) = false
          ∧ (match s.leafWrite 0 ⟨0x0100304F, false⟩ 0x43 [0xAB] 1 none with
            | .ok t => decide (t.versions.length = 1)
            | .bad _ _ => false) = true)
      ∧ goes (on rw id) (fun s x q l => match s.releasing false x.recA x.asid (fun z => z.leafWrite x.asid rw l.va l.data q.hyp (some x.recA)) with
        | .ok _ => true
        | .bad _ _ => false) = true
      ∧ goes (on rw fun s => { s with badLines := [0x1000040 / 64] }) (fun s x q l => match s.releasing false x.recA x.asid (fun z => z.leafWrite x.asid rw l.va l.data q.hyp (some x.recA)) with
        | .ok _ => false
        | .bad _ _ => true) = true
      ∧ (let s := running [] fun c => { c with pend := [waitingStore] }
         has0 s fun x => decide ((s.askStores x).moves ≠ s.moves)) = true := by
  refine ⟨by decide +kernel, by decide +kernel, by decide +kernel, by decide +kernel, by decide +kernel, ⟨by decide +kernel, by decide +kernel, by decide +kernel⟩, by decide +kernel, by decide +kernel,
    by decide +kernel⟩

/-- Physical writes and loads in other states: a line in error, a load that has a status word due, and edges of a load that is FAULTED. -/
theorem wit_more_memory :
    ({ State.reset with badLines := [0x1000000 / 64] } : State).physBad 0x1000000 8 = some .eccunc
      ∧ (let l : Load := { aLoad .faulted with statusDue := true }
         let s : State := { State.reset with loads := [l], mnodes := [{ busyNode with owner := .load 0 0, queue := [], tiles := List.replicate 32 0 }] }
         (s.load? 0 0 = some l ∧ l.statusDue = true) ∧ (s.mnodes.all fun m => s.performedAll m) = true ∧ s.ctxs = []) := by decide +kernel

/-- Nodes that leave while they are restored, with and without a command; that are to be restored, and fail; that get a free M-node again. -/
def leavingNode (q : List MCmd) : MNode := { busyNode with queue := q, restoring := true, area := some 0x40000, leaving := some (some 0) }
theorem wit_nodes :
    (let s (q : List MCmd) : State := { State.reset with mnodes := [leavingNode q] }
     (s []).granted? 0 0 = some (leavingNode []) ∧ (leavingNode []).owner = .task ⟨0, 0⟩ 0 ∧ (leavingNode []).quiet = true
      ∧ (s busyNode.queue).granted? 0 0 = some (leavingNode busyNode.queue) ∧ (leavingNode busyNode.queue).quiet = false)
      ∧ (let m : MNode := { busyNode with queue := [], restoring := true, area := some 0x40000, leaving := none }
         let s := running [] id fun s => { s with mnodes := [m] }
         s.granted? 0 0 = some m ∧ m.owner = .task ⟨0, 0⟩ 0 ∧ m.area = some 0x40000 ∧ m.away = false
          ∧ (match s.readNode 0 0x40000 m with
            | (u, .error _) => (u.ctxOf? ⟨0, 0⟩).isSome && decide (u.lates = [])
            | _ => false) = true)
      ∧ (let m : MNode := { busyNode with away := true, leaving := some none }
         let s : State := { State.reset with mnodes := [m] }
         s.granted? 0 0 = some m ∧ m.owner = .task ⟨0, 0⟩ 0 ∧ m.away = true ∧ m.leaving ≠ none
          ∧ ((nodeOrder 0 1).find? fun j => s.nodeUsable m.tower 1 j && (s.granted? m.tower j).isNone).isSome = true)
      ∧ (let m : MNode := { busyNode with queue := [], leaving := some none }
         let s : State := { State.reset with mnodes := [m] }
         s.granted? 0 0 = some m ∧ m.quiet = true ∧ m.away = false ∧ s.streams m = false)
      ∧ (let m : MNode := { busyNode with queue := [], tiles := List.replicate 32 0, leaving := some (some 0) }
         let s : State := { State.reset with mnodes := [m] }
         s.granted? 0 0 = some m ∧ m.restoring = false ∧ s.nodeStill m = true) := by
  refine ⟨by decide +kernel, by decide +kernel, by decide +kernel, by decide +kernel, by decide +kernel⟩

/-- Hot pages with migration enabled, and what a page's move comes to: no leaf of its tower names the frame, or one does. -/
theorem wit_migration :
    (let s : State := ({ State.reset with time := 1000000 } : State).onTower 5 fun t => { t with migEn := true, migThr := 4 }
     (s.tower 5).migEn = true ∧ (s.tower 5).migThr ≠ 0 ∧ (s.tower 5).hotAt + 1000000 ≤ s.time)
      ∧ (let s : State := (mapped State.reset).onTower 0 fun t => { t with owners := [⟨0x100, 1, some 0, 0, true⟩] }
         (s.homeLeaf 0 0x1000000 = some (0, 0, 0x8000, ⟨0x0100300F, false⟩)) ∧ s.migrations 0 0 = 0 ∧ State.reset.towers.length = 6
          ∧ ((⟨0x0100300F, false⟩ : Leaf).bit 9 = false) ∧ ((⟨0x0100320F, false⟩ : Leaf).bit 9 = true)
          ∧ (let l : Leaf := ⟨0x0100300F, false⟩; (l.large || l.ws || l.m || l.vw || l.h || l.glob || decide (l.kind = 2)) = false)) := by decide +kernel

/-- A checkpoint and a restore that wait for updates asked for before them, and an update that goes before one. -/
theorem wit_checkpoints :
    (let k : Ckpt := ⟨false, 0, 0, 0, 0, 0, 1⟩
     let s : State := { State.reset with ckptRun := some k, fwWait := some (0, 0) }
     s.ckptRun = some k ∧ 0 < k.behind ∧ s.fwAsked = true ∧ s.quiesced = true ∧ s.fwWait = some (0, 0))
      ∧ (let k : Ckpt := ⟨true, 0, 0, 0, 0, 0, 0⟩
         let s : State := { State.reset with ckptRun := some k }
         s.ckptRun = some k ∧ k.restore = true ∧ k.behind = 0 ∧ s.memOk)
      ∧ State.reset.quiesced = true ∧ ({ running [] with ctxs := [Ctx.blank 0 .task 0 1 1 0 0 0] } : State).quiesced = false
      ∧ ((State.reset.tower 0).svKey ≠ some (aTask .ready).key) := by
  refine ⟨by decide +kernel, ⟨by decide +kernel, by decide, by decide, reset_memOk⟩, by decide +kernel, by decide +kernel, by decide +kernel⟩

/-- Whether a write through a leaf reaches device space past every register, where it changes nothing. -/
def toNowhere (s : State) (va : Word) (l : Leaf) : Bool :=
  !l.h && !l.far && s.live (l.pa va) && s.openAt (l.pa va) && s.badLines.isEmpty && !s.isFar (l.pa va) && (match paKind (l.pa va) with
    | .device off => decide (0x191000 ≤ off)
    | _ => false)
theorem leafWrite_nowhere {s : State} {va : Word} {l : Leaf} (h : toNowhere s va l = true) (data : List Byte) : s.leafWrite 0 l va data 0 none = .ok s := by
  simp only [toNowhere, Bool.and_eq_true, Bool.not_eq_true', List.isEmpty_iff] at h
  obtain ⟨⟨⟨⟨⟨⟨hh, hf⟩, hl⟩, ho⟩, hb⟩, hr⟩, hk⟩ := h
  split at hk
  · rename_i off e
    have hm : inMboxBuffer off = false := by simp only [inMboxBuffer, Bool.and_eq_false_iff, decide_eq_false_iff_not]; have := of_decide_eq_true hk; omega
    have := of_decide_eq_true hk
    simp only [State.leafWrite, State.subjunctive, hh, hf, hl, ho, hb, hr, e, State.mergeBad, State.devWrite, hm, Bool.false_and, List.any_nil, Bool.not_true, if_false, Bool.false_eq_true]
    rw [if_neg (by omega), if_neg (by omega)]
  · cases hk
theorem vputs_nowhere {s : State} : (ps : List ((Word × Nat) × Leaf)) → (ps.all fun p => toNowhere s p.1.1 p.2) = true → (data : List Byte) → s.vputs 0 0 none ps data = (s, none)
  | [], _, _ => rfl
  | ((va, n), l) :: ps, h, data => by
    simp only [List.all_cons, Bool.and_eq_true] at h
    simp only [State.vputs, leafWrite_nowhere h.1, vputs_nowhere ps h.2]
theorem vwrite_nowhere {s : State} {va : Word} {n : Nat} {ls : List Leaf} (hw : inWindow va n = false) (hv : s.vleaves 0 (pieces (n / 65536 + 2) va n) = (s, .ok ls))
    (h : (((pieces (n / 65536 + 2) va n).zip ls).all fun p => toNowhere s p.1.1 p.2) = true) {data : List Byte} (hn : data.length = n) : s.vwrite 0 va data = (s, none) := by
  subst hn
  simp only [State.vwrite, State.vwriteH, hw, hv, vputs_nowhere _ h, Bool.false_eq_true, if_false]
theorem getN_length (m : Memory) : (a n : Nat) → (Memory.getN m a n).length = n
  | _, 0 => rfl
  | a, n + 1 => by simp only [Memory.getN, List.length_cons, getN_length m (a + 1) n]

/-- The pages 0x30 to 0x34 of ASID 0 on frames of device space. -/
def savedTo (s : State) : State :=
  { mapped s with mem := (mapped s).mem ++ (List.range 5).flatMap fun k => [(0x8180 + 8 * k, 0x0F), (0x8181 + 8 * k, 0x30), (0x8182 + 8 * k, BitVec.ofNat 8 (0x20 + k)), (0x8184 + 8 * k, 0xF0), (0x8185 + 8 * k, 0x03)] }
def stillNode : MNode := { busyNode with queue := [], tiles := List.replicate 32 0, leaving := some (some 0) }
def saving : State := { savedTo State.reset with mnodes := [stillNode] }
theorem saving_vwrite (o n : Nat) (data : List Byte) (hn : data.length = n) (hw : inWindow (nodeArea 0 0 + w64 o) n = false)
    (h : (match saving.vleaves 0 (pieces (n / 65536 + 2) (nodeArea 0 0 + w64 o) n) with
      | (t, .ok ls) => decide (t = saving) && (((pieces (n / 65536 + 2) (nodeArea 0 0 + w64 o) n).zip ls).all fun p => toNowhere t p.1.1 p.2)
      | _ => false) = true) : saving.vwrite 0 (nodeArea 0 0 + w64 o) data = (saving, none) := by
  split at h
  · rename_i t ls e
    simp only [Bool.and_eq_true, decide_eq_true_eq] at h
    obtain ⟨rfl, h⟩ := h
    exact vwrite_nowhere hw e h hn
  · cases h
/-- A node that is saved: every part of its image can be written. -/
theorem wit_node_save :
    saving.granted? 0 0 = some stillNode ∧ stillNode.leaving = some (some 0) ∧ stillNode.owner = .task ⟨0, 0⟩ 0 ∧ stillNode.restoring = false ∧ saving.nodeStill stillNode = true
      ∧ saving.vwriteAll 0 (nodeArea 0 0) stillNode.image = (saving, none) := by
  refine ⟨by decide +kernel, rfl, rfl, rfl, by decide +kernel, ?_⟩
  simp only [MNode.image, State.vwriteAll, saving_vwrite 0 0x40000 _ (getN_length ..) (by decide +kernel) (by decide +kernel),
    saving_vwrite 0x40000 0x6000 _ (getN_length ..) (by decide +kernel) (by decide +kernel), saving_vwrite 0x46000 0x6000 _ (getN_length ..) (by decide +kernel) (by decide +kernel),
    saving_vwrite 0x4C000 64 (stillNode.bfmt.flatMap fun b => natToBytes 8 b.toNat) (by decide +kernel) (by decide +kernel) (by decide +kernel),
    saving_vwrite 0x4C040 256 (stillNode.tiles.flatMap fun t => natToBytes 8 t.toNat) (by decide +kernel) (by decide +kernel) (by decide +kernel)]
/-- A node that is restored from an area that can be read. -/
theorem wit_node_restore :
    let m : MNode := { busyNode with restoring := true, area := some (nodeArea 0 0) }
    let s : State := { savedTo State.reset with mnodes := [m] }
    s.granted? 0 0 = some m ∧ m.owner = .task ⟨0, 0⟩ 0 ∧ m.away = false ∧ m.leaving = none
      ∧ (match s.readNode 0 (nodeArea 0 0) m with
        | (_, .ok _) => true
        | _ => false) = true := by
  refine ⟨by decide +kernel, rfl, rfl, rfl, by decide +kernel⟩

/-! ### Events: results worked out from the spec -/

/-- What an event leaves, if it answers a next state. -/
def after {α : Type} (x : Instr) (s : State) (f : State → α) : Option α :=
  match exec x s with
  | .next t => some (f t)
  | _ => none

-- 01 R20, R21: the write and the branch take effect; 04 R110
theorem test_commit : after (.clauseCommit 0) (running [{ doneInst with hdr := { doneInst.hdr with gwmask := 32 }, gw := [(5, sc 9)] }])
    (fun t => has0 t fun c => c.gr 5 = 9 && c.gr 6 = 0 && c.pc = 0x100 && c.commitCount = 1 && c.window.isEmpty) = some true := by decide +kernel
-- 01 R20: a null write leaves the register
theorem test_commit_null : after (.clauseCommit 0) (running [{ doneInst with hdr := { doneInst.hdr with gwmask := 32 }, gw := [(5, .null)] }] fun c => c.setG 5 7)
    (fun t => has0 t fun c => c.gr 5 = 7 && c.pc = 0x100) = some true := by decide +kernel
-- 01 R10, R12: the header and the words at the clause address
theorem test_fetch : after (.clauseFetch 0) (withClause (running [] fun c => { c with pc := 0x100 }))
    (fun t => has0 t fun c => c.window.map (fun x => (x.addr, x.mark, x.words.length, x.words.head?)) = [(0x100, none, 32, some 0x5A000000#32)]) = some true := by decide +kernel
-- 17 R346: RESUME, CAUSE, FADDR, and the clause address of UPCALL
theorem test_upcall : after (.upcall 0) (running [{ doneInst with words := [], mark := some .notpres, poisonVa := [(0, 0x5000)] }] fun c => { c with upcall := 0x200, pc := 0x300 })
    (fun t => has0 t fun c => c.pc = 0x200 && c.resume = 0x300 && c.causeMode = 2 && c.causeCode = 4 && c.faddr = 0x5000 && c.needHandler) = some true := by decide +kernel
-- 08 R181, 09 R215: a committed store reaches memory
theorem test_store_home : after (.homeSliceStore 0) (withClause (running [] fun c => { c with pend := [{ aStore with what := .store (.plain 0x43 [0xAB]) false false, st := .waiting }] }))
    (fun t => (Memory.get t.mem 0x1000043, Memory.get t.mem 0x1000042)) = some (0xAB, 0) := by decide +kernel
-- 07 R163: a class falls by one for every full 4 ms
theorem test_aging : after (.classAging 0) (ready [aTask .ready]) (fun t => (t.tower 0).tasks.map fun x => x.eff) = some [1] := by decide +kernel
-- 23 R421: no clock runs
theorem test_shutdown : after .thermalShutdown State.reset (fun t => match step t with
    | .fault r => decide (r = .clocksStopped)
    | _ => false) = some true := by decide +kernel
-- 23 R423: the fuse counter goes up by one and the buffer holds it
theorem test_fuse : after (.fuseadv 0) { State.reset with fuses := 6, mboxQueue := [0], mboxes := [⟨5, 0⟩, ⟨0, 0⟩] } (fun t => (t.fuses, t.mboxQueue)) = some (7, []) := by decide +kernel
-- 03 R78, 04 R105: a widening is exact and raises no flag, of a signalling NaN too
theorem test_widen_signalling : (hit (wordG 0x23 1) [(.a, sc 0x7F800001)]).map (fun r => r.2) = some 0 := by decide +kernel
-- 23 R422: a package in reset answers no host write
theorem test_in_reset : (match step { State.reset with inReset := true, agenda := [⟨0, .event (.physicalWrite true 0x1000000 [1])⟩] } with
    | .next t => (Memory.get t.mem 0x1000000, t.agenda.length)
    | _ => (9, 9)) = (0, 0) := by decide +kernel
-- 13 R289, 12 R257: a filling tile becomes ready, and nothing else of the node changes
theorem test_tile_fill : after (.tileFillDone 0 0 0) { State.reset with mnodes := [busyNode], time := 10 ^ 10 }
    (fun t => t.mnodes.map fun m => (tState (m.tile 0), tState (m.tile 1), m.queue.length)) = some [(2, 3, 1)] := by decide +kernel
-- 20 R386, R387: a lane fails in one direction; the other keeps its four spares
theorem test_lane_retrain : after (.laneRetrain 8) State.reset (fun t => (t.links[1]?).map fun l => (l.left true, l.left false, l.half)) = some (some (3, 4, false)) := by decide +kernel

end Sys2Proof.Machine
end

section
/-! Scalar integer instructions (04 R93, R95 to R98, R100): what their word is, which words of their primaries are illegal, and how a value computed from the operands becomes what is delivered. -/

namespace Sys2Proof.ScalarInteger

open Sys2Proof.Machine

/-! ### From the value computed to the value delivered -/

/-- An instruction of slots a and b whose meaning is a function f of its two words meets every property that f meets. -/
theorem computes {mk : Pred → Dst → Instr} {P : Word → Word → Word → Prop} (f : Word → Word → Word)
    (he : ∀ pr d s, exec (mk pr d) s = fireS s (mk pr d) fun v => f v.a.bits v.b.bits) (hP : ∀ a b, P a b (f a b)) : Computes mk P :=
  fun pr d s _ hv => delivers hv (he pr d s) (hP _ _)

/-- The same of slot a alone. -/
theorem computes1 {mk : Pred → Dst → Instr} {P : Word → Word → Prop} (f : Word → Word)
    (he : ∀ pr d s, exec (mk pr d) s = fireS s (mk pr d) fun v => f v.a.bits) (hP : ∀ a, P a (f a)) : Computes1 mk P :=
  fun pr d s _ hv => delivers hv (he pr d s) (hP _)

/-- The same with the sign-extended immediate as the second word. -/
theorem computesImm {mk : Pred → BitVec 10 → Tgt → Instr} {P : Word → Word → Word → Prop} (f : Word → Word → Word)
    (he : ∀ pr imm t s, exec (mk pr imm t) s = fireS s (mk pr imm t) fun v => f v.a.bits (imm.signExtend 64)) (hP : ∀ a m, P a m (f a m)) :
    ComputesImm mk P :=
  fun pr imm t s _ hv => delivers hv (he pr imm t s) (hP _ _)

/-! ### Codes -/

/-- A word made of a primary, an extension, a predicate and the low 19 bits shows the first two in their fields (02 R33, R34). -/
theorem fld_op_xop {base op xop q low : Nat} (hb : base = op * 33554432 + xop * 524288) (hop : op < 128) (hx : xop < 16) (hq : q < 4)
    (hl : low < 524288) : fld (base + q * 8388608 + low) 25 7 = op ∧ fld (base + q * 8388608 + low) 19 4 = xop := by
  simp only [fld]
  omega

/-- An instruction with a predicate and a field T has the primary and the extension of its word. -/
theorem coded_dst {i : Instr} {base op xop : Nat} {pr : Pred} {d : Dst} (hw : encodeWord i = some (base + pr.code * 8388608 + d.code))
    (hb : base = op * 33554432 + xop * 524288) (hop : op < 128) (hx : xop < 16) : Coded i op xop :=
  ⟨_, hw, fld_op_xop hb hop hx pr.code_lt d.code_lt⟩

/-- The same with a ten-bit immediate and one target. -/
theorem coded_imm {i : Instr} {base op xop : Nat} {pr : Pred} {imm : BitVec 10} {t : Tgt}
    (hw : encodeWord i = some (base + pr.code * 8388608 + imm.toNat * 512 + t.code)) (hb : base = op * 33554432 + xop * 524288) (hop : op < 128)
    (hx : xop < 16) : Coded i op xop := by
  have hlow : imm.toNat * 512 + t.code < 524288 := by
    have := imm.isLt
    have := t.code_lt
    omega
  exact ⟨_, hw.trans (by rw [Nat.add_assoc _ (imm.toNat * 512)]), fld_op_xop hb hop hx pr.code_lt hlow⟩

/-- Each row of a table is an instruction coded with primary op and the row's extension that reads the slots r. -/
def Rows (op : Nat) (r : List (Slot × Width)) (l : List (Instr × Nat)) : Prop := ∀ p ∈ l, Coded p.1 op p.2 ∧ p.1.reads = r

theorem Rows.nil (op : Nat) (r : List (Slot × Width)) : Rows op r [] := List.forall_mem_nil _

theorem Rows.cons {op xop : Nat} {r : List (Slot × Width)} {i : Instr} {l : List (Instr × Nat)} (hc : Coded i op xop) (hr : i.reads = r)
    (hl : Rows op r l) : Rows op r ((i, xop) :: l) := List.forall_mem_cons.mpr ⟨⟨hc, hr⟩, hl⟩

/-- Where the decoder of a primary refuses the extensions of a list, no word with one of them is an instruction (02 R46). -/
theorem illegalXop_of_dec {op : Nat} {xs : List Nat} {dec : Nat → Except DecodeErr Instr} (hd : ∀ w, fld w 25 7 = op → decodeWord w = dec w)
    (he : ∀ w, fld w 19 4 ∈ xs → dec w = .error .unassigned) : IllegalXop op xs :=
  fun w hop hx => ⟨_, (hd w hop).trans (he w hx)⟩

/-! ### The integer ALU (04 R93) -/

theorem toNat_shl_shamt (a b : Word) : (a <<< shamt b).toNat = a.toNat * 2 ^ (b.toNat % 64) % 2 ^ 64 := by
  rw [BitVec.toNat_shiftLeft, Nat.shiftLeft_eq, shamt]

theorem toNat_shr_shamt (a b : Word) : (a >>> shamt b).toNat = a.toNat / 2 ^ (b.toNat % 64) := by
  rw [BitVec.toNat_ushiftRight, Nat.shiftRight_eq_div_pow, shamt]

theorem toInt_sra_shamt (a b : Word) : (a.sshiftRight (shamt b)).toInt = a.toInt / 2 ^ (b.toNat % 64) := by
  rw [BitVec.toInt_sshiftRight, Int.shiftRight_eq_div_pow, shamt]
  norm_cast

/-- Of two words the one that an order by a measure m picks is one of them and not above either. -/
theorem ite_lt_le {α : Type} [LinearOrder α] (m : Word → α) (a b r : Word) (hr : r = if m b < m a then b else a) :
    (r = a ∨ r = b) ∧ m r ≤ m a ∧ m r ≤ m b := by
  subst hr
  split
  case isTrue h => exact ⟨.inr rfl, h.le, le_rfl⟩
  case isFalse h => exact ⟨.inl rfl, le_rfl, not_lt.mp h⟩

/-- The same for the one that is not below either. -/
theorem le_ite_lt {α : Type} [LinearOrder α] (m : Word → α) (a b r : Word) (hr : r = if m a < m b then b else a) :
    (r = a ∨ r = b) ∧ m a ≤ m r ∧ m b ≤ m r := by
  subst hr
  split
  case isTrue h => exact ⟨.inr rfl, h.le, le_rfl⟩
  case isFalse h => exact ⟨.inl rfl, le_rfl, not_lt.mp h⟩

/-- Of the words of primary 0x10 the extensions 12 to 15 are no instructions. -/
theorem illegalXop_0x10 : IllegalXop 0x10 [12, 13, 14, 15] := by
  refine illegalXop_of_dec (dec := decOp10) (fun w h => by simp only [decodeWord, h]) fun w hx => ?_
  simp only [List.mem_cons, List.not_mem_nil, or_false] at hx
  simp (disch := omega) only [decOp10, if_neg]

/-- Settles O11: each operation's word function meets its arithmetic description, and its row of the table is its code. -/
theorem integerAlu : Obligations.IntegerAlu := by
  refine ⟨computes (· + ·) (fun _ _ _ => rfl) fun _ _ => rfl, computes (· - ·) (fun _ _ _ => rfl) fun _ _ => rfl,
    computes (· &&& ·) (fun _ _ _ => rfl) fun _ _ => rfl, computes (· ||| ·) (fun _ _ _ => rfl) fun _ _ => rfl,
    computes (· ^^^ ·) (fun _ _ _ => rfl) fun _ _ => rfl,
    computes (fun a b => a <<< shamt b) (fun _ _ _ => rfl) toNat_shl_shamt,
    computes (fun a b => a >>> shamt b) (fun _ _ _ => rfl) toNat_shr_shamt,
    computes (fun a b => a.sshiftRight (shamt b)) (fun _ _ _ => rfl) toInt_sra_shamt,
    computes (fun a b => if b.slt a then b else a) (fun _ _ _ => rfl) fun a b => ite_lt_le BitVec.toInt a b _ (by simp only [BitVec.slt_iff_toInt_lt]),
    computes (fun a b => if a.slt b then b else a) (fun _ _ _ => rfl) fun a b => le_ite_lt BitVec.toInt a b _ (by simp only [BitVec.slt_iff_toInt_lt]),
    computes (fun a b => if b.ult a then b else a) (fun _ _ _ => rfl) fun a b => ite_lt_le BitVec.toNat a b _ (by simp only [BitVec.ult_iff_toNat_lt]),
    computes (fun a b => if a.ult b then b else a) (fun _ _ _ => rfl) fun a b => le_ite_lt BitVec.toNat a b _ (by simp only [BitVec.ult_iff_toNat_lt]),
    fun pr d => ?_, illegalXop_0x10⟩
  iterate 12 refine Rows.cons (coded_dst (pr := pr) (d := d) rfl rfl (by decide) (by decide)) rfl ?_
  exact Rows.nil _ _

/-! ### Multiply and divide (04 R95) -/

/-- The product of two signed words has 127 bits, so its high half is a signed word. -/
theorem toInt_mulh (a b : Word) : (BitVec.ofInt 64 (a.toInt * b.toInt / 2 ^ 64)).toInt = a.toInt * b.toInt / 2 ^ 64 := by
  have hle : a.toInt * b.toInt ≤ 2 ^ 126 := BitVec.toInt_mul_toInt_le
  have hge : -2 ^ 126 ≤ a.toInt * b.toInt := BitVec.le_toInt_mul_toInt
  rw [BitVec.toInt_ofInt]
  exact Int.bmod_eq_of_le (by omega) (by omega)

/-- The high half of an unsigned product is a word. -/
theorem toNat_mulhu (a b : Word) : (w64 (a.toNat * b.toNat / 2 ^ 64)).toNat = a.toNat * b.toNat / 2 ^ 64 := by
  rw [w64, BitVec.toNat_ofNat]
  exact Nat.mod_eq_of_lt (Nat.div_lt_of_lt_mul (Nat.mul_lt_mul'' a.isLt b.isLt))

theorem divS_of_ne_zero {a b : Word} (hb : b ≠ 0) : divS a b = a.sdiv b := by
  rw [divS, if_neg hb, ← BitVec.toInt_inj, BitVec.toInt_ofInt, BitVec.toInt_sdiv]

theorem remS_of_ne_zero {a b : Word} (hb : b ≠ 0) : remS a b = a.srem b := by
  rw [remS, if_neg hb, ← BitVec.toInt_srem, BitVec.ofInt_toInt]

theorem eq_intMin_of_toInt {a : Word} (ha : a.toInt = -(2 ^ 63)) : a = BitVec.intMin 64 := BitVec.eq_of_toInt_eq ha

theorem eq_neg_one_of_toInt {b : Word} (hb : b.toInt = -1) : b = -1#64 := BitVec.eq_of_toInt_eq hb

/-- By zero all ones; the overflow, the least word by -1, wraps to the dividend; else the quotient rounded toward zero (01 R31). -/
theorem divS_spec (a b : Word) : (b = 0 → divS a b = BitVec.allOnes 64) ∧ (a.toInt = -(2 ^ 63) → b.toInt = -1 → divS a b = a)
    ∧ (b ≠ 0 → ¬(a.toInt = -(2 ^ 63) ∧ b.toInt = -1) → (divS a b).toInt = a.toInt.tdiv b.toInt) := by
  refine ⟨fun hb => if_pos hb, fun ha hb => ?_, fun hb hov => ?_⟩
  · rw [eq_intMin_of_toInt ha, eq_neg_one_of_toInt hb]
    decide
  · rw [divS_of_ne_zero hb]
    refine BitVec.toInt_sdiv_of_ne_or_ne a b ?_
    by_contra! h
    obtain ⟨rfl, rfl⟩ := h
    exact hov ⟨by decide, by decide⟩

/-- By zero the dividend, at the overflow zero, else the remainder with the sign of a (01 R31). -/
theorem remS_spec (a b : Word) : (b = 0 → remS a b = a) ∧ (a.toInt = -(2 ^ 63) → b.toInt = -1 → remS a b = 0)
    ∧ (b ≠ 0 → (remS a b).toInt = a.toInt.tmod b.toInt) := by
  refine ⟨fun hb => if_pos hb, fun ha hb => ?_, fun hb => ?_⟩
  · rw [eq_intMin_of_toInt ha, eq_neg_one_of_toInt hb]
    decide
  · rw [remS_of_ne_zero hb, BitVec.toInt_srem]

theorem divU_spec (a b : Word) : (b = 0 → divU a b = BitVec.allOnes 64) ∧ (b ≠ 0 → (divU a b).toNat = a.toNat / b.toNat) := by
  refine ⟨fun hb => if_pos hb, fun hb => ?_⟩
  rw [divU, if_neg hb, w64, BitVec.toNat_ofNat]
  exact Nat.mod_eq_of_lt ((Nat.div_le_self _ _).trans_lt a.isLt)

theorem remU_spec (a b : Word) : (b = 0 → remU a b = a) ∧ (b ≠ 0 → (remU a b).toNat = a.toNat % b.toNat) := by
  refine ⟨fun hb => if_pos hb, fun hb => ?_⟩
  rw [remU, if_neg hb, w64, BitVec.toNat_ofNat]
  exact Nat.mod_eq_of_lt ((Nat.mod_le _ _).trans_lt a.isLt)

theorem illegalXop_0x12 : IllegalXop 0x12 [7, 8, 9, 10, 11, 12, 13, 14, 15] := by
  refine illegalXop_of_dec (dec := decOp12) (fun w h => by simp only [decodeWord, h]) fun w hx => ?_
  simp only [List.mem_cons, List.not_mem_nil, or_false] at hx
  simp (disch := omega) only [decOp12, if_neg]

theorem illegalXop_0x13 : IllegalXop 0x13 [1, 2, 3, 4, 5, 6, 7, 8, 9, 10, 11, 12, 13, 14, 15] := by
  refine illegalXop_of_dec (dec := decOp13) (fun w h => by simp only [decodeWord, h]) fun w hx => ?_
  simp only [List.mem_cons, List.not_mem_nil, or_false] at hx
  simp (disch := omega) only [decOp13, if_neg]

/-- Settles O13: the halves of a product fit their words, and away from a zero divisor the quotient and the remainder are the library's signed and unsigned ones. -/
theorem multiplyDivide : Obligations.MultiplyDivide := by
  refine ⟨computes (· * ·) (fun _ _ _ => rfl) BitVec.toNat_mul,
    computes (fun a b => BitVec.ofInt 64 (a.toInt * b.toInt / 2 ^ 64)) (fun _ _ _ => rfl) toInt_mulh,
    computes (fun a b => w64 (a.toNat * b.toNat / 2 ^ 64)) (fun _ _ _ => rfl) toNat_mulhu,
    computes divS (fun _ _ _ => rfl) divS_spec, computes divU (fun _ _ _ => rfl) divU_spec,
    computes remS (fun _ _ _ => rfl) remS_spec, computes remU (fun _ _ _ => rfl) remU_spec,
    computesImm (· * ·) (fun _ _ _ _ => rfl) fun _ _ => rfl,
    fun pr d => ?_, fun pr imm t => ⟨coded_imm (pr := pr) (imm := imm) (t := t) rfl rfl (by decide) (by decide), rfl⟩, illegalXop_0x12, illegalXop_0x13⟩
  iterate 7 refine Rows.cons (coded_dst (pr := pr) (d := d) rfl rfl (by decide) (by decide)) rfl ?_
  exact Rows.nil _ _

/-! ### The bit operations (04 R96) -/

/-- A word that is not zero lies between the powers of two that its count of leading zeros names. -/
theorem clz64_spec {a : Word} (ha : a ≠ 0) :
    (clz64 a).toNat ≤ 63 ∧ 2 ^ (63 - (clz64 a).toNat) ≤ a.toNat ∧ a.toNat < 2 ^ (64 - (clz64 a).toNat) := by
  have hne : a.toNat ≠ 0 := fun h => ha (BitVec.eq_of_toNat_eq h)
  have hlog : Nat.log2 a.toNat < 64 := (Nat.log2_lt hne).mpr a.isLt
  have hclz : (clz64 a).toNat = 63 - Nat.log2 a.toNat := by
    rw [clz64, if_neg ha, w64, BitVec.toNat_ofNat]
    omega
  refine ⟨by omega, ?_, ?_⟩
  · rw [show 63 - (clz64 a).toNat = Nat.log2 a.toNat by omega]
    exact Nat.log2_self_le hne
  · rw [show 64 - (clz64 a).toNat = Nat.log2 a.toNat + 1 by omega]
    exact Nat.lt_log2_self

theorem ctzNat_le (n v : Nat) : ctzNat n v ≤ n := by
  induction n generalizing v with
  | zero => exact le_rfl
  | succ n ih =>
    have := ih (v / 2)
    rw [ctzNat]
    split <;> omega

/-- Below the count of trailing zeros every bit is zero. -/
theorem testBit_of_lt_ctzNat {n v j : Nat} (hj : j < ctzNat n v) : v.testBit j = false := by
  induction n generalizing v j with
  | zero => exact absurd hj (Nat.not_lt_zero j)
  | succ n ih =>
    rw [ctzNat] at hj
    split at hj
    case isTrue => exact absurd hj (Nat.not_lt_zero j)
    case isFalse hodd =>
      cases j with
      | zero => simpa [Nat.testBit_zero] using hodd
      | succ j => exact (Nat.testBit_succ v j).trans (ih (by omega))

/-- At the count, where it is below the width, stands a one. -/
theorem testBit_ctzNat {n v : Nat} (hlt : ctzNat n v < n) : v.testBit (ctzNat n v) = true := by
  induction n generalizing v with
  | zero => exact absurd hlt (Nat.not_lt_zero _)
  | succ n ih =>
    rw [ctzNat] at hlt ⊢
    split
    case isTrue hodd => simpa [Nat.testBit_zero] using hodd
    case isFalse hodd =>
      rw [if_neg hodd] at hlt
      rw [Nat.add_comm, Nat.testBit_succ]
      exact ih (by omega)

theorem toNat_ctz (a : Word) : (w64 (ctzNat 64 a.toNat)).toNat = ctzNat 64 a.toNat := by
  have := ctzNat_le 64 a.toNat
  rw [w64, BitVec.toNat_ofNat]
  omega

theorem ctz_spec {a : Word} (ha : a ≠ 0) :
    a.getLsbD (w64 (ctzNat 64 a.toNat)).toNat = true ∧ ∀ j < (w64 (ctzNat 64 a.toNat)).toNat, a.getLsbD j = false := by
  rw [toNat_ctz]
  refine ⟨testBit_ctzNat ?_, fun j hj => testBit_of_lt_ctzNat hj⟩
  -- were all 64 bits zero, so would be the word
  by_contra hge
  exact ha (BitVec.eq_of_getLsbD_eq fun j hj =>
    (testBit_of_lt_ctzNat (lt_of_lt_of_le hj (not_lt.mp hge))).trans BitVec.getLsbD_zero.symm)

theorem popNat_eq_length (n v : Nat) : popNat n v = ((List.range n).filter fun j => v.testBit j).length := by
  rw [← List.countP_eq_length_filter]
  induction n generalizing v with
  | zero => rfl
  | succ n ih =>
    rw [popNat, ih, List.range_succ_eq_map, List.countP_cons, List.countP_map, Nat.testBit_zero, Nat.add_comm]
    congr 1
    · exact List.countP_congr fun j _ => by simp [Nat.testBit_succ]
    · rcases Nat.mod_two_eq_zero_or_one v with h | h <;> simp [h]

theorem toNat_popc (a : Word) : (w64 (popNat 64 a.toNat)).toNat = ((List.range 64).filter fun j => a.getLsbD j).length := by
  have hle : popNat 64 a.toNat ≤ 64 := by
    rw [popNat_eq_length]
    exact (List.length_filter_le _ _).trans_eq List.length_range
  rw [w64, BitVec.toNat_ofNat, Nat.mod_eq_of_lt (by omega), popNat_eq_length]
  rfl

/-- The low n bits zero-extended. -/
theorem toNat_extz {n : Nat} (hn : n ≤ 64) (a : Word) : ((a.setWidth n).setWidth 64).toNat = a.toNat % 2 ^ n := by
  rw [BitVec.toNat_setWidth_of_le hn, BitVec.toNat_setWidth]

theorem illegalXop_0x14 : IllegalXop 0x14 [3, 4, 5, 6, 7, 14, 15] := by
  refine illegalXop_of_dec (dec := decOp14) (fun w h => by simp only [decodeWord, h]) fun w hx => ?_
  simp only [List.mem_cons, List.not_mem_nil, or_false] at hx
  simp (disch := omega) only [decOp14, if_neg]

/-- Settles O14: the counts by the binary logarithm and by recursion over the bits, the extensions by the library's change of width. -/
theorem bitOperations : Obligations.BitOperations := by
  refine ⟨computes1 clz64 (fun _ _ _ => rfl) fun a => ⟨fun ha => if_pos ha, clz64_spec⟩,
    computes1 (fun a => w64 (ctzNat 64 a.toNat)) (fun _ _ _ => rfl) fun a => ⟨fun ha => by subst ha; decide, ctz_spec⟩,
    computes1 (fun a => w64 (popNat 64 a.toNat)) (fun _ _ _ => rfl) toNat_popc,
    computes1 (fun a => (a.setWidth 8).signExtend 64) (fun _ _ _ => rfl) fun _ => BitVec.toInt_signExtend_of_le (by decide),
    computes1 (fun a => (a.setWidth 16).signExtend 64) (fun _ _ _ => rfl) fun _ => BitVec.toInt_signExtend_of_le (by decide),
    computes1 (fun a => (a.setWidth 32).signExtend 64) (fun _ _ _ => rfl) fun _ => BitVec.toInt_signExtend_of_le (by decide),
    computes1 (fun a => (a.setWidth 8).setWidth 64) (fun _ _ _ => rfl) (toNat_extz (by decide)),
    computes1 (fun a => (a.setWidth 16).setWidth 64) (fun _ _ _ => rfl) (toNat_extz (by decide)),
    computes1 (fun a => (a.setWidth 32).setWidth 64) (fun _ _ _ => rfl) (toNat_extz (by decide)),
    fun pr d => ?_, illegalXop_0x14⟩
  iterate 9 refine Rows.cons (coded_dst (pr := pr) (d := d) rfl rfl (by decide) (by decide)) rfl ?_
  exact Rows.nil _ _

/-! ### Bit fields (04 R97, R98) -/

/-- Where a control's field begins. -/
theorem fieldPos_eq (ctl : Word) : bitsOf ctl 0 6 = ctl.toNat % 64 := by
  simp only [bitsOf]
  omega

/-- How long it is once cut at bit 63. -/
theorem fieldLen_eq (ctl : Word) : fieldLen ctl = min (ctl.toNat / 2 ^ 8 % 64) (64 - ctl.toNat % 64) := by
  rw [fieldLen, fieldPos_eq]
  rfl

theorem testBit_bitsOf (a : Word) (pos l j : Nat) : (bitsOf a pos l).testBit j = (decide (j < l) && a.getLsbD (pos + j)) := by
  rw [bitsOf, Nat.testBit_mod_two_pow, Nat.testBit_div_two_pow, Nat.add_comm]
  rfl

/-- Whether the single bit at n of a word is one. -/
theorem bitsOf_one (a : Word) (n : Nat) : bitsOf a n 1 = 1 ↔ a.getLsbD n = true := by
  rw [BitVec.getLsbD, Nat.testBit_eq_decide_div_mod_eq, decide_eq_true_iff]
  rfl

/-- Whether the highest bit of a field of length l is one. -/
theorem bitsOf_div_top (a : Word) (pos : Nat) {l : Nat} (hl : l ≠ 0) : bitsOf a pos l / 2 ^ (l - 1) = 1 ↔ a.getLsbD (pos + l - 1) = true := by
  have hlt : bitsOf a pos l / 2 ^ (l - 1) < 2 := by
    refine Nat.div_lt_of_lt_mul ?_
    rw [← pow_succ, Nat.sub_add_cancel (Nat.pos_of_ne_zero hl)]
    exact Nat.mod_lt _ (Nat.two_pow_pos l)
  have htop : (bitsOf a pos l).testBit (l - 1) = a.getLsbD (pos + l - 1) := by
    rw [testBit_bitsOf, decide_eq_true (by omega), Bool.true_and, Nat.add_sub_assoc (Nat.pos_of_ne_zero hl)]
  rw [← htop, Nat.testBit_eq_decide_div_mod_eq, decide_eq_true_iff, Nat.mod_eq_of_lt hlt]

/-- A field below ones up to bit 63. -/
theorem testBit_add_ones {f l j : Nat} (hf : f < 2 ^ l) (hl : l ≤ 64) (hj : j < 64) :
    (f + (2 ^ 64 - 2 ^ l)).testBit j = if j < l then f.testBit j else true := by
  have hones : 2 ^ 64 - 2 ^ l = 2 ^ l * (2 ^ (64 - l) - 1) := by
    rw [Nat.mul_sub_one, ← pow_add, Nat.add_sub_cancel' hl]
  rw [hones, Nat.add_comm, Nat.testBit_two_pow_mul_add _ hf, Nat.testBit_two_pow_sub_one]
  split
  case isTrue => rfl
  case isFalse hge => exact decide_eq_true (by omega)

theorem bfxWord_of_empty {a ctl : Word} (hl : fieldLen ctl = 0) : bfxWord a ctl = 0 := if_pos hl

theorem getLsbD_bfxWord {a ctl : Word} (hl : fieldLen ctl ≠ 0) {j : Nat} (hj : j < 64) :
    (bfxWord a ctl).getLsbD j =
      if j < fieldLen ctl then a.getLsbD (bitsOf ctl 0 6 + j) else ctl.getLsbD 15 && a.getLsbD (bitsOf ctl 0 6 + fieldLen ctl - 1) := by
  have hle : fieldLen ctl ≤ 64 := by
    rw [fieldLen_eq]
    omega
  have hf : bitsOf a (bitsOf ctl 0 6) (fieldLen ctl) < 2 ^ fieldLen ctl := Nat.mod_lt _ (Nat.two_pow_pos _)
  simp only [bfxWord, if_neg hl, bitsOf_one, bitsOf_div_top a _ hl, ← Bool.and_eq_true]
  split
  case isTrue hs =>
    rw [w64, BitVec.getLsbD_ofNat, testBit_add_ones hf hle hj, testBit_bitsOf, hs]
    split <;> simp [*]
  case isFalse hs =>
    rw [w64, BitVec.getLsbD_ofNat, testBit_bitsOf, Bool.eq_false_of_not_eq_true hs]
    split <;> simp [*]

/-- The ones that the mask of a field has. -/
theorem getLsbD_fieldMask (pos l : Nat) {j : Nat} (hj : j < 64) :
    (w64 ((2 ^ l - 1) * 2 ^ pos)).getLsbD j = decide (pos ≤ j ∧ j < pos + l) := by
  rw [w64, BitVec.getLsbD_ofNat, Nat.testBit_mul_two_pow, Nat.testBit_two_pow_sub_one, ← Bool.decide_and, ← Bool.decide_and]
  congr 1
  exact propext (by omega)

theorem getLsbD_bfiWord (a b ctl : Word) {j : Nat} (hj : j < 64) :
    (bfiWord a b ctl).getLsbD j =
      if bitsOf ctl 0 6 ≤ j ∧ j < bitsOf ctl 0 6 + fieldLen ctl then b.getLsbD (j - bitsOf ctl 0 6) else a.getLsbD j := by
  simp only [bfiWord, BitVec.getLsbD_or, BitVec.getLsbD_and, BitVec.getLsbD_not, BitVec.getLsbD_shiftLeft, getLsbD_fieldMask _ _ hj]
  split
  case isTrue hin => simp [hin, hj, Nat.not_lt.mpr hin.1]
  case isFalse hout => simp [hout, hj]

/-- Settles O15: the words of BFX and BFI bit by bit, at the place and of the length their control names. -/
theorem bitFields : Obligations.BitFields := by
  refine ⟨⟨computes bfxWord (fun _ _ _ => rfl) fun a ctl => ?_, fun pr d => ⟨coded_dst (pr := pr) (d := d) rfl rfl (by decide) (by decide), rfl⟩⟩,
    fun pr d s v hv => delivers (f := fun v => bfiWord v.a.bits v.b.bits v.c.bits) hv rfl ?_,
    fun pr d => ⟨coded_dst (pr := pr) (d := d) rfl rfl (by decide) (by decide), rfl⟩⟩
  · dsimp only
    rw [← fieldLen_eq, ← fieldPos_eq]
    exact ⟨bfxWord_of_empty, fun hl j hj => getLsbD_bfxWord hl hj⟩
  · dsimp only
    rw [← fieldLen_eq, ← fieldPos_eq]
    exact fun j hj => getLsbD_bfiWord _ _ _ hj

/-! ### The tests (04 R100) -/

theorem boolWord_decide (c : Prop) [Decidable c] : boolWord (decide c) = if c then 1 else 0 := by
  simp [boolWord]

theorem illegalXop_0x18 : IllegalXop 0x18 [6, 7, 8, 9, 10, 11, 12, 13, 14, 15] := by
  refine illegalXop_of_dec (dec := decOp18) (fun w h => by simp only [decodeWord, h]) fun w hx => ?_
  simp only [List.mem_cons, List.not_mem_nil, or_false] at hx
  simp (disch := omega) only [decOp18, if_neg]

theorem illegalXop_0x19 : IllegalXop 0x19 [6, 7, 8, 9, 10, 11, 12, 13, 14, 15] := by
  refine illegalXop_of_dec (dec := decOp19) (fun w h => by simp only [decodeWord, h]) fun w hx => ?_
  simp only [List.mem_cons, List.not_mem_nil, or_false] at hx
  simp (disch := omega) only [decOp19, if_neg]

/-- Settles O16: the word of a decided comparison is 1 or 0, for both forms of the second operand. -/
theorem integerTests : Obligations.IntegerTests := by
  refine ⟨computes (fun a b => boolWord (decide (a = b))) (fun _ _ _ => rfl) fun _ _ => boolWord_decide _,
    computes (fun a b => boolWord (decide (a ≠ b))) (fun _ _ _ => rfl) fun _ _ => boolWord_decide _,
    computes (fun a b => boolWord (a.slt b)) (fun _ _ _ => rfl) fun _ _ => boolWord_decide _,
    computes (fun a b => boolWord (a.sle b)) (fun _ _ _ => rfl) fun _ _ => boolWord_decide _,
    computes (fun a b => boolWord (a.ult b)) (fun _ _ _ => rfl) fun _ _ => boolWord_decide _,
    computes (fun a b => boolWord (a.ule b)) (fun _ _ _ => rfl) fun _ _ => boolWord_decide _,
    computesImm (fun a m => boolWord (decide (a = m))) (fun _ _ _ _ => rfl) fun _ _ => boolWord_decide _,
    computesImm (fun a m => boolWord (decide (a ≠ m))) (fun _ _ _ _ => rfl) fun _ _ => boolWord_decide _,
    computesImm (fun a m => boolWord (a.slt m)) (fun _ _ _ _ => rfl) fun _ _ => boolWord_decide _,
    computesImm (fun a m => boolWord (a.sle m)) (fun _ _ _ _ => rfl) fun _ _ => boolWord_decide _,
    computesImm (fun a m => boolWord (a.ult m)) (fun _ _ _ _ => rfl) fun _ _ => boolWord_decide _,
    computesImm (fun a m => boolWord (a.ule m)) (fun _ _ _ _ => rfl) fun _ _ => boolWord_decide _,
    fun pr d => ?_, fun pr imm t => ?_, illegalXop_0x18, illegalXop_0x19⟩
  · iterate 6 refine Rows.cons (coded_dst (pr := pr) (d := d) rfl rfl (by decide) (by decide)) rfl ?_
    exact Rows.nil _ _
  · iterate 6 refine Rows.cons (coded_imm (pr := pr) (imm := imm) (t := t) rfl rfl (by decide) (by decide)) rfl ?_
    exact Rows.nil _ _

end Sys2Proof.ScalarInteger
end

section
/-! Wide integer instructions (05 R121, R123): what a lane of a packed value is, and how an operation on lanes becomes the value delivered. -/

namespace Sys2Proof.WideInteger

open Sys2Proof.Machine Sys2Proof.ScalarInteger

/-! ### The lanes of a wide value (01 R14) -/

/-- The lanes of a number are its digits in base 2^e. -/
theorem getElem?_lanesNat (e : Nat) {n j : Nat} (hj : j < n) (v : Nat) : (lanesNat e n v)[j]? = some (v / 2 ^ (e * j) % 2 ^ e) := by
  induction n generalizing v j with
  | zero => exact absurd hj (Nat.not_lt_zero j)
  | succ n ih =>
    cases j with
    | zero => simp [lanesNat]
    | succ j =>
      rw [lanesNat, List.getElem?_cons_succ, ih (Nat.lt_of_succ_lt_succ hj), Nat.div_div_eq_div_mul, ← pow_add, Nat.mul_succ, Nat.add_comm e]

theorem getElem?_lanesOf {e j : Nat} (hj : j < 512 / e) (v : Wide) : (lanesOf e v)[j]? = some (lane e v j) :=
  getElem?_lanesNat e hj v.toNat

/-- The digits of a packed number are the low bits of what was packed. -/
theorem packNat_digit {e j x : Nat} {xs : List Nat} (hx : xs[j]? = some x) : packNat e xs / 2 ^ (e * j) % 2 ^ e = x % 2 ^ e := by
  induction xs generalizing j with
  | nil => cases hx
  | cons y ys ih =>
    have hlow : y % 2 ^ e < 2 ^ e := Nat.mod_lt _ (Nat.two_pow_pos e)
    cases j with
    | zero =>
      obtain rfl : y = x := Option.some.inj hx
      rw [packNat, Nat.mul_zero, pow_zero, Nat.div_one, Nat.add_mul_mod_self_left, Nat.mod_mod]
    | succ j =>
      rw [packNat, Nat.mul_succ, Nat.add_comm (e * j), pow_add, ← Nat.div_div_eq_div_mul, Nat.add_mul_div_left _ _ (Nat.two_pow_pos e),
        Nat.div_eq_of_lt hlow, Nat.zero_add]
      exact ih hx

/-- Digits that lie within a width stay when a number is cut to it. -/
theorem toNat_ofNat_digit {w p e : Nat} (h : p + e ≤ w) (v : Nat) : (BitVec.ofNat w v).toNat / 2 ^ p % 2 ^ e = v / 2 ^ p % 2 ^ e := by
  obtain ⟨m, rfl⟩ := Nat.exists_eq_add_of_le h
  rw [BitVec.toNat_ofNat, Nat.add_assoc, pow_add 2 p, Nat.mod_mul_right_div_self, Nat.mod_mod_of_dvd _ (pow_dvd_pow 2 (Nat.le_add_right e m))]

/-- A lane lies within the 512 bits, so packing a value into them keeps it. -/
theorem lane_packWide {e j x : Nat} (hj : j < 512 / e) {xs : List Nat} (hx : xs[j]? = some x) : lane e (packWide e xs) j = x % 2 ^ e := by
  have hfit : e * j + e ≤ 512 := (Nat.mul_le_mul_left e hj).trans (Nat.mul_div_le 512 e)
  rw [lane, packWide, toNat_ofNat_digit hfit, packNat_digit hx]

/-- Lane j of a lane-by-lane result comes from lane j of each operand (05 R121). -/
theorem lane_mapLanes2 {e j : Nat} (hj : j < 512 / e) (f : Nat → Nat → Nat) (a b : Wide) :
    lane e (mapLanes2 e f a b) j = f (lane e a j) (lane e b j) % 2 ^ e :=
  lane_packWide hj (by rw [List.getElem?_zipWith, getElem?_lanesOf hj, getElem?_lanesOf hj])

/-! ### Lanes as numbers -/

theorem laneOf_emod (e : Nat) (x : Int) : (laneOf e x : Int) % 2 ^ e = x % 2 ^ e := by
  rw [laneOf, Int.toNat_of_nonneg (Int.emod_nonneg _ (by positivity)), Int.emod_emod]

/-- Read with its sign or without, a lane has the same low bits. -/
theorem sgnOf_emod (e x : Nat) : sgnOf e x % 2 ^ e = (x : Int) % 2 ^ e := by
  rw [sgnOf]
  split
  case isTrue => rfl
  case isFalse => exact Int.sub_emod_right _ _

/-- The lane that VMIN picks is the smaller signed number. -/
theorem sgnOf_ite_min (e x y : Nat) : sgnOf e (if sgnOf e y < sgnOf e x then y else x) = min (sgnOf e x) (sgnOf e y) := by
  split
  case isTrue h => exact (min_eq_right h.le).symm
  case isFalse h => exact (min_eq_left (not_lt.mp h)).symm

/-- The lane that VMAX picks is the larger signed number. -/
theorem sgnOf_ite_max (e x y : Nat) : sgnOf e (if sgnOf e x < sgnOf e y then y else x) = max (sgnOf e x) (sgnOf e y) := by
  split
  case isTrue h => exact (max_eq_right h.le).symm
  case isFalse h => exact (max_eq_left (not_lt.mp h)).symm

/-! ### From the lanes computed to the value delivered -/

/-- An instruction whose meaning is a function f of two lanes delivers every lane function that agrees with f in the low bits. -/
theorem computesLanes {mk : Pred → Shape → Dst → Instr} {g : Nat → Wide → Wide → Nat → Int} (f : Nat → Nat → Nat → Nat)
    (he : ∀ pr sh d s, exec (mk pr sh d) s = fireLanes s (mk pr sh d) (Shape.bits sh) (f (Shape.bits sh)))
    (hg : ∀ e a b j, (f e (lane e a j) (lane e b j) : Int) % 2 ^ e = g e a b j % 2 ^ e) : ComputesLanes mk g := by
  refine fun pr sh d s v hv => ⟨_, (he pr sh d s).trans (fireW_acts hv _), fun j hj => ?_⟩
  rw [lane_mapLanes2 hj, ← hg, Int.natCast_mod, Nat.cast_pow, Nat.cast_ofNat]

/-- The shape stands in the upper two bits of the extension, the operation in the lower two (02 R43). -/
theorem coded_shape {i : Instr} {base op k : Nat} {pr : Pred} {sh : Shape} {d : Dst}
    (hw : encodeWord i = some (base + pr.code * 8388608 + sh.code * 2097152 + d.code)) (hb : base = op * 33554432 + k * 524288)
    (hop : op < 128) (hk : k < 4) : Coded i op (4 * sh.code + k) := by
  have := sh.code_lt
  refine coded_dst (base := base + sh.code * 2097152) (pr := pr) (d := d) (hw.trans ?_) ?_ hop ?_
  · rw [Nat.add_right_comm base]
  all_goals omega

/-- Each row of a table of shape sh is an instruction coded with the row's primary and operation that reads two wide slots. -/
def ShapeRows (sh : Shape) (l : List (Instr × Nat × Nat)) : Prop :=
  ∀ p ∈ l, Coded p.1 p.2.1 (4 * sh.code + p.2.2) ∧ p.1.reads = [(.a, .wide), (.b, .wide)]

theorem ShapeRows.nil (sh : Shape) : ShapeRows sh [] := List.forall_mem_nil _

theorem ShapeRows.cons {sh : Shape} {i : Instr} {op k : Nat} {l : List (Instr × Nat × Nat)} (hc : Coded i op (4 * sh.code + k))
    (hr : i.reads = [(.a, .wide), (.b, .wide)]) (hl : ShapeRows sh l) : ShapeRows sh ((i, op, k) :: l) :=
  List.forall_mem_cons.mpr ⟨⟨hc, hr⟩, hl⟩

/-- Settles O23: each operation on lanes agrees in the low bits with its arithmetic description, and a lane keeps just those. -/
theorem wideIntegers : Obligations.WideIntegers := by
  refine ⟨computesLanes (fun _ x y => x + y) (fun _ _ _ _ => rfl) fun _ _ _ _ => by rw [Nat.cast_add],
    computesLanes (fun e x y => laneOf e ((x : Int) - (y : Int))) (fun _ _ _ _ => rfl) fun _ _ _ _ => laneOf_emod _ _,
    computesLanes (fun _ x y => x * y) (fun _ _ _ _ => rfl) fun _ _ _ _ => by rw [Nat.cast_mul],
    computesLanes (fun e x y => laneOf e (sgnOf e x * sgnOf e y / 2 ^ e)) (fun _ _ _ _ => rfl) fun _ _ _ _ => laneOf_emod _ _,
    computesLanes (fun e x y => if sgnOf e y < sgnOf e x then y else x) (fun _ _ _ _ => rfl) fun _ _ _ _ => ?_,
    computesLanes (fun e x y => if sgnOf e x < sgnOf e y then y else x) (fun _ _ _ _ => rfl) fun _ _ _ _ => ?_,
    computesLanes (fun _ x y => x &&& y) (fun _ _ _ _ => rfl) fun _ _ _ _ => rfl,
    computesLanes (fun _ x y => x ||| y) (fun _ _ _ _ => rfl) fun _ _ _ _ => rfl,
    computesLanes (fun _ x y => x ^^^ y) (fun _ _ _ _ => rfl) fun _ _ _ _ => rfl,
    computesLanes (fun e x y => x * 2 ^ (y % e)) (fun _ _ _ _ => rfl) fun _ _ _ _ => by rw [Nat.cast_mul, Nat.cast_pow, Nat.cast_ofNat],
    computesLanes (fun e x y => x / 2 ^ (y % e)) (fun _ _ _ _ => rfl) fun _ _ _ _ => rfl,
    computesLanes (fun e x y => sraLane e x (y % e)) (fun _ _ _ _ => rfl) fun _ _ _ _ => laneOf_emod _ _, fun pr sh d => ?_⟩
  · rw [← sgnOf_emod, sgnOf_ite_min, laneS, laneS]
  · rw [← sgnOf_emod, sgnOf_ite_max, laneS, laneS]
  · iterate 12 refine ShapeRows.cons (coded_shape (pr := pr) (d := d) rfl rfl (by decide) (by decide)) rfl ?_
    exact ShapeRows.nil _

end Sys2Proof.WideInteger
end

section
/-! The encoding (02 R33 to R46): an instruction's word reads back as the instruction, a word that is read is the word of what it says, and the reserved words are none. -/

namespace Sys2Proof.EncodingExact

section
open Sys2Proof.Laws

/-- Settles O1: by cases on the instruction, each case the law of its own layout. -/
theorem decodeEncode : Obligations.DecodeEncode := by
  open RoundTrip in
  exact fun i => i.casesOn
    gread wread gwrite wwrite gens genu appc mov movi nop null add sub and or xor shl shr sra min max minu maxu addi subi andi ori xori shli shri
    srai mul mulh mulhu div divu rem remu muli clz ctz popc exts8 exts16 exts32 extz8 extz16 extz32 bfx bfi lea leai teq tne tlt tle tltu tleu teqi
    tnei tlti tlei tltui tleui fadd fsub fmul fdiv fmin fmax fsqrt fsgn ffma ffms ffnma ffnms fcvt ftoi itof feq flt fle fclass bro br callo call ret
    exitt yield scall vadd vsub vmul vmulh vmin vmax vand vor vxor vshl vshr vsra vfadd vfsub vfmul vfdiv vfmin vfmax vfsqrt vrcp vrsq vexp2 vlog2
    vffma vffms vffnma vffnms vcvt vqnt vdqnt vcmp vfcmp vsel vbcast vextr vins vshuf vred vscan vdot ldZb ldZh ldZw ldD ldSb ldSh ldSw stB stH stW
    stD ldacq strel vld vst vlds vsts vgath vscat pref amoadd amoand amoor amoxor amomin amomax amominu amomaxu amoswp amocas amofadd vamoadd
    fenceAcq fenceRel fenceAcqrel fenceSc fenceEngine waitv bara barw tspawn tsubmit tdep twait trange tprio amsend amreply htset inbox hnew henter
    hleave hresolve hstat hldc tdef tload tloadEdge tstore tstoreEdge tfree mma mmai maccrd macclr maccld mew mcopy msplat scopy sgath sscat slayout
    sfill sfence swait vwreg vwdrop vwsync vwqry vwpol pload punload pstart pstop psave prest spush spop trap rft cread cwrite halt idle plbfl cline
    dbgbrk afwait winrd winwr tresume wsopen wsclose rdtime rdpmc clauseFetch clauseCommit stopRequest stall taskStop upcall srseedWrite lsplitWrite
    prioWrite fpflagsWrite resumeWrite afringWrite fqbaseWrite fqptrWrite asidMakeLive asidMakeNotLive ovqWrite vlogWrite wsldatWrite c0resWrite
    migcntWrite gangArm checkpointStart restoreStart checkpointDone reservationGrant overflowAdmit taskDispatch classAging passoverLimit inboxGrant
    messageArrival handlerDiversion nohandler translationWalk permissionEntryArrival homeSliceStore storeAck filterBankClear refreshWindow
    physicalWrite hostRead shootdownComplete waitvWake waitvTimeout versionDiscardDone tileFillDone tileDrainDone streamerCommandStart
    streamerCommandComplete viewBuild viewPublish fabricConfigure bubbleIteration edgeAgeLimit loadFinish faultQueueWrite afterimageRecordWrite
    preempt drainLimit nodeSave flitRetry laneRetrain linkLoss coherenceLossTimeout linkReconnect farRequest farAccessTimeout routingTableWrite
    submitWrite cheadWrite werrWrite hostCompletion hotPageWindow forwardExpiry gangPlace gangReady gangGo gangGraceExpiry gangAbort attest sealImage
    checkImage setcap fuseadv fwupdate fwupdateInstall extend telemetry capOverrun thermalThrottle throttleStep throttleRecovery thermalShutdown
    packageReset eccUncorrectable patrolScrub clusterRetire l2SliceRetire hbmRowSpare cxlPortDegrade matrixCommandPerformed commandStall idleTimeout
    unreachableHomeTimeout nodeRestore submissionWindowWrite

end

/-! ### Each field form is the code of what it reads as -/

@[simp] theorem toNat_ofNat_fld (w lo n : Nat) : (BitVec.ofNat n (fld w lo n)).toNat = fld w lo n := by
  rw [BitVec.toNat_ofNat, fld, Nat.mod_mod]

theorem fld_lt (w lo n : Nat) : fld w lo n < 2 ^ n := Nat.mod_lt _ (Nat.two_pow_pos n)

/-- A function on codes that is right on the four values of a two-bit field is right on such a field. -/
theorem on_two_bits {f : Nat → Nat} (h : ∀ v < 4, f v = v) (w lo : Nat) : f (fld w lo 2) = fld w lo 2 := h _ (fld_lt w lo 2)

@[simp] theorem code_slotOf_fld (w lo : Nat) : (slotOf (fld w lo 2)).code = fld w lo 2 := on_two_bits (f := fun v => (slotOf v).code) (by decide) w lo
@[simp] theorem code_ftyOf_fld (w lo : Nat) : (ftyOf (fld w lo 2)).code = fld w lo 2 := on_two_bits (f := fun v => (ftyOf v).code) (by decide) w lo
@[simp] theorem code_shapeOf_fld (w lo : Nat) : (shapeOf (fld w lo 2)).code = fld w lo 2 := on_two_bits (f := fun v => (shapeOf v).code) (by decide) w lo
@[simp] theorem code_scopeOf_fld (w lo : Nat) : (scopeOf (fld w lo 2)).code = fld w lo 2 := on_two_bits (f := fun v => (scopeOf v).code) (by decide) w lo
@[simp] theorem code_vamoTyOf_fld (w lo : Nat) : (vamoTyOf (fld w lo 2)).code = fld w lo 2 := on_two_bits (f := fun v => (vamoTyOf v).code) (by decide) w lo
@[simp] theorem code_memSizeOf_fld (w lo : Nat) : (memSizeOf (fld w lo 2)).code = fld w lo 2 := on_two_bits (f := fun v => (memSizeOf v).code) (by decide) w lo
@[simp] theorem code_vcondOf_fld (w lo : Nat) : (vcondOf (fld w lo 2)).code = fld w lo 2 := on_two_bits (f := fun v => (vcondOf v).code) (by decide) w lo
@[simp] theorem code_vfcondOf_fld (w lo : Nat) : (vfcondOf (fld w lo 2)).code = fld w lo 2 := on_two_bits (f := fun v => (vfcondOf v).code) (by decide) w lo

@[simp] theorem toNat_boolOf_fld (w lo : Nat) : (boolOf (fld w lo 1)).toNat = fld w lo 1 := by
  rcases Nat.lt_succ_iff_lt_or_eq.mp (fld_lt w lo 1) with h | h
  · rw [Nat.lt_one_iff.mp h]; rfl
  · rw [h]; rfl

@[simp] theorem code_tgtOf_fld (w lo : Nat) : (tgtOf (fld w lo 9)).code = fld w lo 9 := by
  have hv := fld_lt w lo 9
  generalize fld w lo 9 = v at hv ⊢
  unfold tgtOf
  split
  case isTrue h => exact h.symm
  case isFalse => rw [Tgt.code, code_slotOf_fld, toNat_ofNat_fld]; simp only [fld]; omega

/-- No 9-bit field reads as i127.p: its code is the discard code (02 R36). -/
theorem wf_tgtOf_fld (w lo : Nat) : (tgtOf (fld w lo 9)).wf = true := by
  have hc := code_tgtOf_fld w lo
  have hv := fld_lt w lo 9
  generalize fld w lo 9 = v at hc hv ⊢
  by_cases h : v = 511
  · rw [h]; rfl
  · rw [tgtOf, if_neg h] at hc ⊢
    simp only [Tgt.wf, Bool.not_eq_true', Bool.and_eq_false_iff, decide_eq_false_iff_not]
    by_contra hboth
    obtain ⟨hs, hi⟩ : slotOf (fld v 7 2) = .p ∧ BitVec.ofNat 7 (fld v 0 7) = 127 := by simpa [not_or] using hboth
    rw [hs, hi] at hc
    exact h hc.symm

/-! A word is the sum of its fields, each at its place. -/

/-- A field cut in two: the upper part begins where the lower one ends. -/
theorem fld_cut {w lo m n hi len : Nat} (hhi : lo + m = hi) (hlen : m + n = len) : fld w lo len = fld w hi n * 2 ^ m + fld w lo m := by
  subst hhi hlen
  unfold fld
  rw [Nat.pow_add, Nat.pow_add, Nat.mod_mul, ← Nat.div_div_eq_div_mul, Nat.mul_comm, Nat.add_comm]

theorem word_eq_predicated {w : Nat} (hw : w < 2 ^ 32) : w = fld w 25 7 * 2 ^ 25 + fld w 23 2 * 2 ^ 23 + fld w 0 23 := by
  have hwhole : fld w 0 32 = w := by rw [fld, pow_zero, Nat.div_one, Nat.mod_eq_of_lt hw]
  have hop : fld w 0 32 = fld w 25 7 * 2 ^ 25 + fld w 0 25 := fld_cut rfl rfl
  have hpred : fld w 0 25 = fld w 23 2 * 2 ^ 23 + fld w 0 23 := fld_cut rfl rfl
  omega

theorem low_eq_ext_dst (w : Nat) : fld w 0 23 = fld w 19 4 * 2 ^ 19 + fld w 0 19 := fld_cut rfl rfl

theorem low_eq_type_ext_dst (w : Nat) : fld w 0 23 = fld w 21 2 * 2 ^ 21 + fld w 19 2 * 2 ^ 19 + fld w 0 19 := by
  have htype : fld w 0 23 = fld w 21 2 * 2 ^ 21 + fld w 0 21 := fld_cut rfl rfl
  have hext : fld w 0 21 = fld w 19 2 * 2 ^ 19 + fld w 0 19 := fld_cut rfl rfl
  rw [htype, hext, Nat.add_assoc]

theorem low_eq_eff_ext (w : Nat) : fld w 0 23 = fld w 18 5 * 2 ^ 18 + fld w 14 4 * 2 ^ 14 + fld w 0 14 := by
  have heff : fld w 0 23 = fld w 18 5 * 2 ^ 18 + fld w 0 18 := fld_cut rfl rfl
  have hext : fld w 0 18 = fld w 14 4 * 2 ^ 14 + fld w 0 14 := fld_cut rfl rfl
  rw [heff, hext, Nat.add_assoc]

theorem low_eq_five_tgt (w : Nat) : fld w 0 14 = fld w 9 5 * 2 ^ 9 + fld w 0 9 := fld_cut rfl rfl

theorem low_eq_ten_tgt (w : Nat) : fld w 0 19 = fld w 9 10 * 2 ^ 9 + fld w 0 9 := fld_cut rfl rfl

theorem tgt_eq_five_four (w : Nat) : fld w 0 9 = fld w 4 5 * 2 ^ 4 + fld w 0 4 := fld_cut rfl rfl

theorem five_eq_size_scope_bit (w : Nat) : fld w 9 5 = fld w 12 2 * 2 ^ 3 + fld w 10 2 * 2 + fld w 9 1 := by
  have hsize : fld w 9 5 = fld w 12 2 * 2 ^ 3 + fld w 9 3 := fld_cut rfl rfl
  have hscope : fld w 9 3 = fld w 10 2 * 2 ^ 1 + fld w 9 1 := fld_cut rfl rfl
  omega

/-! ### What a field that can be refused reads as, when it is not -/

theorem code_of_predOf {v : Nat} {q : Pred} (h : predOf v = .ok q) : v = q.code := by
  unfold predOf at h; split at h <;> cases h <;> rfl

theorem code_of_vtyOf {v : Nat} {q : VTy} (h : vtyOf v = .ok q) : v = q.code := by
  unfold vtyOf at h; split at h <;> cases h <;> rfl

theorem code_of_amoSizeOf {v : Nat} {q : AmoSize} (h : amoSizeOf v = .ok q) : v = q.code := by
  unfold amoSizeOf at h; split at h <;> cases h <;> rfl

theorem code_of_prefLevelOf {v : Nat} {q : PrefLevel} (h : prefLevelOf v = .ok q) : v = q.code := by
  unfold prefLevelOf at h; split at h <;> cases h <;> rfl

theorem code_of_clineOpOf {v : Nat} {q : ClineOp} (h : clineOpOf v = .ok q) : v = q.code := by
  unfold clineOpOf at h; split at h <;> cases h <;> rfl

theorem toNat_of_wideRegOf {v : Nat} {r : BitVec 4} (h : wideRegOf v = .ok r) : v = r.toNat := by
  unfold wideRegOf at h
  split at h <;> cases h
  next hv => exact (Nat.mod_eq_of_lt hv).symm

theorem code_of_dstOf {w : Nat} {d : Dst} (h : dstOf (fld w 0 19) = .ok d) : fld w 0 19 = d.code ∧ d.wf = true := by
  have hv := fld_lt w 0 19
  generalize fld w 0 19 = v at h hv ⊢
  unfold dstOf at h
  split at h
  case isTrue hfan =>
    split at h <;> cases h
    next hz => 
      refine ⟨?_, rfl⟩
      simp only [Dst.code, code_slotOf_fld, toNat_ofNat_fld]
      simp only [fld] at hfan hz ⊢
      omega
  case isFalse hdual =>
    cases h
    refine ⟨?_, by rw [Dst.wf, wf_tgtOf_fld, wf_tgtOf_fld]; rfl⟩
    simp only [Dst.code, code_tgtOf_fld]
    simp only [fld] at hdual ⊢
    omega

/-- No predicate has the code 01 (02 R35). -/
theorem ne_one_of_code {v : Nat} {q : Pred} (h : v = q.code) : v ≠ 1 := by rw [h]; cases q <;> decide

/-! ### A reading that drops no bit -/

/-- The primaries whose format has no predicate field (02 R34, R35). -/
def unpredicated : List Nat := [0x01, 0x02, 0x05, 0x06, 0x07]

/-- What reading the word w has to keep: the instruction it answers is well-formed, has w as its word, and stands under a legal predicate code where its format has one. -/
def Faithful (w : Nat) (e : Except DecodeErr Instr) : Prop :=
  ∀ i, e = .ok i → i.wf = true ∧ (w < 2 ^ 32 → encodeWord i = some w) ∧ (fld w 25 7 ∈ unpredicated ∨ fld w 23 2 ≠ 1)

/-- The check of an acquiring HLDC's size is the check of its form (10 R250). -/
theorem wf_hldc {w lo l : Nat} (h : ¬(fld w lo 1 = 1 ∧ fld w l 2 ≠ 3)) : (!boolOf (fld w lo 1) || decide (memSizeOf (fld w l 2) = .d)) = true := by
  rw [← code_memSizeOf_fld w l, ne_eq, MemSize.code_eq_three] at h
  unfold boolOf
  by_cases ha : fld w lo 1 = 1
  · have := not_and_not_right.mp h ha
    rw [this]; simp
  · simp [ha]

namespace Faithful
variable {w : Nat}

theorem error {x : DecodeErr} : Faithful w (.error x) := fun _ h => nomatch h

theorem ok {i : Instr} {n : Nat} (he : encodeWord i = some n) (hwf : i.wf = true) (hn : w < 2 ^ 32 → n = w)
    (hp : fld w 25 7 ∈ unpredicated ∨ fld w 23 2 ≠ 1) : Faithful w (.ok i) := by
  rintro _ ⟨⟩
  exact ⟨hwf, fun hw => (hn hw) ▸ he, hp⟩

/-- A choice of the extension field. -/
theorem choose {c : Prop} [Decidable c] {x y : Except DecodeErr Instr} (hx : c → Faithful w x) (hy : Faithful w y) : Faithful w (if c then x else y) := by
  split
  case isTrue h => exact hx h
  case isFalse => exact hy

/-- A check that refuses. -/
theorem refuse {c : Prop} [Decidable c] {x : DecodeErr} {y : Except DecodeErr Instr} (hy : ¬c → Faithful w y) : Faithful w (if c then .error x else y) := by
  split
  case isTrue => exact error
  case isFalse h => exact hy h

theorem bind {α : Type} {r : Except DecodeErr α} {k : α → Except DecodeErr Instr} (h : ∀ q, r = .ok q → Faithful w (k q)) : Faithful w (r.bind k) := by
  cases r with
  | error => exact error
  | ok q => exact h q rfl

/-! A field that may be refused: what follows reads on with the code that stands in the field. -/

theorem bindPred {k : Pred → Except DecodeErr Instr} {v : Nat} (h : ∀ q : Pred, v = q.code → Faithful w (k q)) : Faithful w ((predOf v).bind k) :=
  bind fun q hq => h q (code_of_predOf hq)

theorem bindDst {k : Dst → Except DecodeErr Instr} (h : ∀ d : Dst, fld w 0 19 = d.code → d.wf = true → Faithful w (k d)) :
    Faithful w ((dstOf (fld w 0 19)).bind k) :=
  bind fun d hd => h d (code_of_dstOf hd).1 (code_of_dstOf hd).2

theorem bindVTy {k : VTy → Except DecodeErr Instr} {v : Nat} (h : ∀ q : VTy, v = q.code → Faithful w (k q)) : Faithful w ((vtyOf v).bind k) :=
  bind fun q hq => h q (code_of_vtyOf hq)

theorem bindAmoSize {k : AmoSize → Except DecodeErr Instr} {v : Nat} (h : ∀ q : AmoSize, v = q.code → Faithful w (k q)) : Faithful w ((amoSizeOf v).bind k) :=
  bind fun q hq => h q (code_of_amoSizeOf hq)

theorem bindLevel {k : PrefLevel → Except DecodeErr Instr} {v : Nat} (h : ∀ q : PrefLevel, v = q.code → Faithful w (k q)) :
    Faithful w ((prefLevelOf v).bind k) :=
  bind fun q hq => h q (code_of_prefLevelOf hq)

theorem bindCline {k : ClineOp → Except DecodeErr Instr} {v : Nat} (h : ∀ q : ClineOp, v = q.code → Faithful w (k q)) :
    Faithful w ((clineOpOf v).bind k) :=
  bind fun q hq => h q (code_of_clineOpOf hq)

theorem bindWideReg {k : BitVec 4 → Except DecodeErr Instr} {v : Nat} (h : ∀ q : BitVec 4, v = q.toNat → Faithful w (k q)) :
    Faithful w ((wideRegOf v).bind k) :=
  bind fun q hq => h q (toNat_of_wideRegOf hq)

/-! The formats that many instructions share (02 R34, R40 to R45): the word is the sum of its fields. -/

/-- A predicate, a four-bit extension and the destination field. -/
theorem predDst {mk : Pred → Dst → Instr} {op x : Nat} (hop : fld w 25 7 = op) (hx : fld w 19 4 = x)
    (he : ∀ q d, encodeWord (mk q d) = some (op * 33554432 + x * 524288 + q.code * 8388608 + d.code)) (hwf : ∀ q d, d.wf = true → (mk q d).wf = true) :
    Faithful w ((predOf (fld w 23 2)).bind fun q => (dstOf (fld w 0 19)).bind fun d => .ok (mk q d)) :=
  bindPred fun q hq => bindDst fun d hd hw => ok (he q d) (hwf q d hw) (fun hl => by
      have hword := word_eq_predicated hl
      have hlow := low_eq_ext_dst w
      omega) (.inr (ne_one_of_code hq))

/-- A predicate, a four-bit extension, a ten-bit immediate and one target. -/
theorem predImm {mk : Pred → BitVec 10 → Tgt → Instr} {op x : Nat} (hop : fld w 25 7 = op) (hx : fld w 19 4 = x)
    (he : ∀ q m t, encodeWord (mk q m t) = some (op * 33554432 + x * 524288 + q.code * 8388608 + m.toNat * 512 + t.code))
    (hwf : ∀ q m t, t.wf = true → (mk q m t).wf = true) :
    Faithful w ((predOf (fld w 23 2)).bind fun q => .ok (mk q (BitVec.ofNat 10 (fld w 9 10)) (tgtOf (fld w 0 9)))) :=
  bindPred fun q hq => ok (he q _ _) (hwf q _ _ (wf_tgtOf_fld w 0))
    (fun hl => by
      simp only [toNat_ofNat_fld, code_tgtOf_fld]
      have hword := word_eq_predicated hl
      have hlow := low_eq_ext_dst w
      have hlower := low_eq_ten_tgt w
      omega) (.inr (ne_one_of_code hq))

/-- A predicate, a type, a two-bit extension and the destination field. -/
theorem predTypeDst {α : Type} {f : Nat → α} {code : α → Nat} (hf : ∀ w lo, code (f (fld w lo 2)) = fld w lo 2) {mk : Pred → α → Dst → Instr} {op x : Nat}
    (hop : fld w 25 7 = op) (hx : fld w 19 2 = x)
    (he : ∀ q y d, encodeWord (mk q y d) = some (op * 33554432 + x * 524288 + q.code * 8388608 + code y * 2097152 + d.code))
    (hwf : ∀ q y d, d.wf = true → (mk q y d).wf = true) :
    Faithful w ((predOf (fld w 23 2)).bind fun q => (dstOf (fld w 0 19)).bind fun d => .ok (mk q (f (fld w 21 2)) d)) :=
  bindPred fun q hq => bindDst fun d hd hw => ok (he q _ d) (hwf q _ d hw) (fun hl => by
      rw [hf]
      have hword := word_eq_predicated hl
      have hlow := low_eq_type_ext_dst w
      omega) (.inr (ne_one_of_code hq))

/-- The same with a wide floating-point type, whose code may be refused. -/
theorem predVTyDst {mk : Pred → VTy → Dst → Instr} {op x : Nat} (hop : fld w 25 7 = op) (hx : fld w 19 2 = x)
    (he : ∀ q y d, encodeWord (mk q y d) = some (op * 33554432 + x * 524288 + q.code * 8388608 + y.code * 2097152 + d.code))
    (hwf : ∀ q y d, d.wf = true → (mk q y d).wf = true) :
    Faithful w ((predOf (fld w 23 2)).bind fun q => (vtyOf (fld w 21 2)).bind fun y => (dstOf (fld w 0 19)).bind fun d => .ok (mk q y d)) :=
  bindPred fun q hq => bindVTy fun y hy => bindDst fun d hd hw =>
    ok (he q y d) (hwf q y d hw) (fun hl => by
      have hword := word_eq_predicated hl
      have hlow := low_eq_type_ext_dst w
      omega) (.inr (ne_one_of_code hq))

/-- A predicate, an effect slot, a four-bit extension and zeros. -/
theorem predEff {mk : Pred → BitVec 5 → Instr} {op x : Nat} (hop : fld w 25 7 = op) (hx : fld w 14 4 = x)
    (he : ∀ q e, encodeWord (mk q e) = some (op * 33554432 + x * 16384 + q.code * 8388608 + e.toNat * 262144)) (hwf : ∀ q e, (mk q e).wf = true) :
    Faithful w (if fld w 0 14 ≠ 0 then .error .mustBeZero else (predOf (fld w 23 2)).bind fun q => .ok (mk q (BitVec.ofNat 5 (fld w 18 5)))) :=
  refuse fun hz => bindPred fun q hq => ok (he q _) (hwf q _) (fun hl => by
      rw [toNat_ofNat_fld]
      have hword := word_eq_predicated hl
      have hlow := low_eq_eff_ext w
      omega) (.inr (ne_one_of_code hq))

/-- A predicate, an effect slot, a four-bit extension, a tile or selector and zeros. -/
theorem predEffTile {mk : Pred → BitVec 5 → BitVec 5 → Instr} {op x : Nat} (hop : fld w 25 7 = op) (hx : fld w 14 4 = x)
    (he : ∀ q e k, encodeWord (mk q e k) = some (op * 33554432 + x * 16384 + q.code * 8388608 + e.toNat * 262144 + k.toNat * 512))
    (hwf : ∀ q e k, (mk q e k).wf = true) :
    Faithful w (if fld w 0 9 ≠ 0 then .error .mustBeZero else
      (predOf (fld w 23 2)).bind fun q => .ok (mk q (BitVec.ofNat 5 (fld w 18 5)) (BitVec.ofNat 5 (fld w 9 5)))) :=
  refuse fun hz => bindPred fun q hq => ok (he q _ _) (hwf q _ _) (fun hl => by
      simp only [toNat_ofNat_fld]
      have hword := word_eq_predicated hl
      have hlow := low_eq_eff_ext w
      have hlower := low_eq_five_tgt w
      omega)
    (.inr (ne_one_of_code hq))

/-- The same with two tiles. -/
theorem predEffTiles {mk : Pred → BitVec 5 → BitVec 5 → BitVec 5 → Instr} {op x : Nat} (hop : fld w 25 7 = op) (hx : fld w 14 4 = x)
    (he : ∀ q e k l, encodeWord (mk q e k l) = some (op * 33554432 + x * 16384 + q.code * 8388608 + e.toNat * 262144 + k.toNat * 512 + l.toNat * 16))
    (hwf : ∀ q e k l, (mk q e k l).wf = true) :
    Faithful w (if fld w 0 4 ≠ 0 then .error .mustBeZero else
      (predOf (fld w 23 2)).bind fun q => .ok (mk q (BitVec.ofNat 5 (fld w 18 5)) (BitVec.ofNat 5 (fld w 9 5)) (BitVec.ofNat 5 (fld w 4 5)))) :=
  refuse fun hz => bindPred fun q hq => ok (he q _ _ _) (hwf q _ _ _) (fun hl => by
      simp only [toNat_ofNat_fld]
      have hword := word_eq_predicated hl
      have hlow := low_eq_eff_ext w
      have hlower := low_eq_five_tgt w
      have hlowest := tgt_eq_five_four w
      omega)
    (.inr (ne_one_of_code hq))

/-- A predicate, an effect slot, a four-bit extension, zeros and one target. -/
theorem predEffTgt {mk : Pred → BitVec 5 → Tgt → Instr} {op x : Nat} (hop : fld w 25 7 = op) (hx : fld w 14 4 = x)
    (he : ∀ q e t, encodeWord (mk q e t) = some (op * 33554432 + x * 16384 + q.code * 8388608 + e.toNat * 262144 + t.code))
    (hwf : ∀ q e t, t.wf = true → (mk q e t).wf = true) :
    Faithful w (if fld w 9 5 ≠ 0 then .error .mustBeZero else
      (predOf (fld w 23 2)).bind fun q => .ok (mk q (BitVec.ofNat 5 (fld w 18 5)) (tgtOf (fld w 0 9)))) :=
  refuse fun hz => bindPred fun q hq => ok (he q _ _) (hwf q _ _ (wf_tgtOf_fld w 0))
    (fun hl => by
      simp only [toNat_ofNat_fld, code_tgtOf_fld]
      have hword := word_eq_predicated hl
      have hlow := low_eq_eff_ext w
      have hlower := low_eq_five_tgt w
      omega) (.inr (ne_one_of_code hq))

/-- A predicate, an effect slot, a four-bit extension, a size, a scope, the relaxed bit and one target. -/
theorem predAmo {mk : Pred → BitVec 5 → AmoSize → Scope → Bool → Tgt → Instr} {op x : Nat} (hop : fld w 25 7 = op) (hx : fld w 14 4 = x)
    (he : ∀ q e z sc b t, encodeWord (mk q e z sc b t) =
      some (op * 33554432 + x * 16384 + q.code * 8388608 + e.toNat * 262144 + z.code * 4096 + sc.code * 1024 + b.toNat * 512 + t.code))
    (hwf : ∀ q e z sc b t, t.wf = true → (mk q e z sc b t).wf = true) :
    Faithful w ((predOf (fld w 23 2)).bind fun q => (amoSizeOf (fld w 12 2)).bind fun z =>
      .ok (mk q (BitVec.ofNat 5 (fld w 18 5)) z (scopeOf (fld w 10 2)) (boolOf (fld w 9 1)) (tgtOf (fld w 0 9)))) :=
  bindPred fun q hq => bindAmoSize fun z hz => ok (he q _ z _ _ _) (hwf q _ z _ _ _ (wf_tgtOf_fld w 0))
    (fun hl => by
      simp only [toNat_ofNat_fld, code_scopeOf_fld, toNat_boolOf_fld, code_tgtOf_fld]
      have hword := word_eq_predicated hl
      have hlow := low_eq_eff_ext w
      have hlower := low_eq_five_tgt w
      have hlowest := five_eq_size_scope_bit w
      omega) (.inr (ne_one_of_code hq))

end Faithful

/-- Reading the words of primary p.1 by p.2 drops no bit. -/
def ReadsFaithfully (p : Nat × (Nat → Except DecodeErr Instr)) : Prop := ∀ w, fld w 25 7 = p.1 → Faithful w (p.2 w)

theorem readsFaithfully_0x01 :
    ∀ p ∈ [(0x01, decOp01), (0x02, decOp02), (0x03, decOp03), (0x04, decOp04), (0x05, decOp05), (0x06, decOp06), (0x07, decOp07),
      (0x08, decOp08), (0x09, decOp09), (0x0a, decOp0a), (0x0b, decOp0b)],
      ReadsFaithfully p := by
  simp only [ReadsFaithfully, List.forall_mem_cons, List.not_mem_nil, false_imp_iff, implies_true, and_true]
  refine ⟨?_, ?_, ?_, ?_, ?_, ?_, ?_, ?_, ?_, ?_, ?_⟩ <;> intro w hop
  all_goals
    simp only [decOp01, decOp02, decOp03, decOp04, decOp05, decOp06, decOp07, decOp08, decOp09, decOp0a, decOp0b]
    repeat' first
      | exact Faithful.error
      | exact Faithful.predDst hop hx (fun _ _ => rfl) fun _ _ h => h
      | exact Faithful.predImm hop hx (fun _ _ _ => rfl) fun _ _ _ h => h
      | refine Faithful.refuse fun _ => ?_
      | refine Faithful.choose (fun hx => ?_) ?_
      | refine Faithful.bindPred fun _ _ => ?_
      | refine Faithful.bindDst fun _ _ _ => ?_
      | refine Faithful.bindWideReg fun _ _ => ?_
  all_goals
    refine Faithful.ok rfl ?_ (fun _ => ?_) ?_
    · first
      | rfl
      | assumption
      | exact wf_tgtOf_fld w 0
    · try simp only [toNat_ofNat_fld, code_tgtOf_fld]
      simp only [fld] at *
      omega
    · first
      | exact .inr (ne_one_of_code ‹_›)
      | exact .inl (by rw [hop]; decide)

theorem readsFaithfully_0x10 :
    ∀ p ∈ [(0x10, decOp10), (0x11, decOp11), (0x12, decOp12), (0x13, decOp13), (0x14, decOp14), (0x15, decOp15), (0x16, decOp16),
      (0x17, decOp17), (0x18, decOp18), (0x19, decOp19), (0x1a, decOp1a), (0x20, decOp20), (0x21, decOp21), (0x22, decOp22), (0x23, decOp23),
      (0x24, decOp24), (0x25, decOp25), (0x26, decOp26), (0x28, decOp28), (0x29, decOp29), (0x2a, decOp2a), (0x2b, decOp2b), (0x2c, decOp2c),
      (0x2d, decOp2d), (0x2e, decOp2e), (0x2f, decOp2f)],
      ReadsFaithfully p := by
  simp only [ReadsFaithfully, List.forall_mem_cons, List.not_mem_nil, false_imp_iff, implies_true, and_true]
  refine ⟨?_, ?_, ?_, ?_, ?_, ?_, ?_, ?_, ?_, ?_, ?_, ?_, ?_, ?_, ?_, ?_, ?_, ?_, ?_, ?_, ?_, ?_, ?_, ?_, ?_, ?_⟩ <;> intro w hop
  all_goals
    simp only [decOp10, decOp11, decOp12, decOp13, decOp14, decOp15, decOp16, decOp17, decOp18, decOp19, decOp1a, decOp20, decOp21, decOp22, decOp23,
      decOp24, decOp25, decOp26, decOp28, decOp29, decOp2a, decOp2b, decOp2c, decOp2d, decOp2e, decOp2f]
    repeat' first
      | exact Faithful.error
      | exact Faithful.predDst hop hx (fun _ _ => rfl) fun _ _ h => h
      | exact Faithful.predImm hop hx (fun _ _ _ => rfl) fun _ _ _ h => h
      | exact Faithful.predTypeDst code_ftyOf_fld hop hx (fun _ _ _ => rfl) fun _ _ _ h => h
      | refine Faithful.refuse fun _ => ?_
      | refine Faithful.choose (fun hx => ?_) ?_
      | refine Faithful.bindPred fun _ _ => ?_
      | refine Faithful.bindDst fun _ _ _ => ?_
  all_goals
    refine Faithful.ok rfl ?_ (fun _ => ?_) ?_
    · first
      | rfl
      | assumption
      | exact wf_tgtOf_fld w 0
      | exact Bool.and_intro ‹_› (decide_eq_true ‹_›)
    · try simp only [code_ftyOf_fld, toNat_ofNat_fld, toNat_boolOf_fld, code_tgtOf_fld]
      simp only [fld] at *
      omega
    · exact .inr (ne_one_of_code ‹_›)

theorem readsFaithfully_0x30 :
    ∀ p ∈ [(0x30, decOp30), (0x31, decOp31), (0x32, decOp32), (0x33, decOp33), (0x34, decOp34), (0x35, decOp35), (0x36, decOp36),
      (0x37, decOp37), (0x38, decOp38), (0x39, decOp39), (0x3a, decOp3a), (0x3b, decOp3b), (0x3c, decOp3c), (0x3d, decOp3d), (0x3e, decOp3e),
      (0x3f, decOp3f), (0x40, decOp40), (0x41, decOp41), (0x42, decOp42), (0x43, decOp43), (0x44, decOp44), (0x45, decOp45), (0x46, decOp46),
      (0x47, decOp47), (0x48, decOp48), (0x49, decOp49), (0x4a, decOp4a), (0x4b, decOp4b), (0x4c, decOp4c), (0x4d, decOp4d), (0x4e, decOp4e),
      (0x4f, decOp4f)],
      ReadsFaithfully p := by
  simp only [ReadsFaithfully, List.forall_mem_cons, List.not_mem_nil, false_imp_iff, implies_true, and_true]
  refine ⟨?_, ?_, ?_, ?_, ?_, ?_, ?_, ?_, ?_, ?_, ?_, ?_, ?_, ?_, ?_, ?_, ?_, ?_, ?_, ?_, ?_, ?_, ?_, ?_, ?_, ?_, ?_, ?_, ?_, ?_, ?_, ?_⟩ <;> intro w hop
  all_goals
    simp only [decOp30, decOp31, decOp32, decOp33, decOp34, decOp35, decOp36, decOp37, decOp38, decOp39, decOp3a, decOp3b, decOp3c, decOp3d, decOp3e,
      decOp3f, decOp40, decOp41, decOp42, decOp43, decOp44, decOp45, decOp46, decOp47, decOp48, decOp49, decOp4a, decOp4b, decOp4c, decOp4d,
      decOp4e, decOp4f]
    repeat' first
      | exact Faithful.error
      | exact Faithful.predTypeDst code_shapeOf_fld hop hx (fun _ _ _ => rfl) fun _ _ _ h => h
      | exact Faithful.predVTyDst hop hx (fun _ _ _ => rfl) fun _ _ _ h => h
      | exact Faithful.predDst hop hx (fun _ _ => rfl) fun _ _ h => h
      | refine Faithful.choose (fun hx => ?_) ?_
      | refine Faithful.bindPred fun _ _ => ?_
      | refine Faithful.bindDst fun _ _ _ => ?_
      | refine Faithful.bindVTy fun _ _ => ?_
  all_goals
    refine Faithful.ok rfl ?_ (fun _ => ?_) ?_
    · first
      | rfl
      | assumption
      | exact wf_tgtOf_fld w 0
    · simp only [code_shapeOf_fld, code_vcondOf_fld, code_vfcondOf_fld, toNat_ofNat_fld, code_tgtOf_fld]
      simp only [fld] at *
      omega
    · exact .inr (ne_one_of_code ‹_›)

theorem readsFaithfully_0x50 :
    ∀ p ∈ [(0x50, decOp50), (0x51, decOp51), (0x52, decOp52), (0x53, decOp53), (0x54, decOp54), (0x55, decOp55), (0x56, decOp56),
      (0x57, decOp57), (0x58, decOp58), (0x59, decOp59), (0x5a, decOp5a), (0x5b, decOp5b), (0x5c, decOp5c), (0x5d, decOp5d), (0x5e, decOp5e)],
      ReadsFaithfully p := by
  simp only [ReadsFaithfully, List.forall_mem_cons, List.not_mem_nil, false_imp_iff, implies_true, and_true]
  refine ⟨?_, ?_, ?_, ?_, ?_, ?_, ?_, ?_, ?_, ?_, ?_, ?_, ?_, ?_, ?_⟩ <;> intro w hop
  all_goals
    simp only [decOp50, decOp51, decOp52, decOp53, decOp54, decOp55, decOp56, decOp57, decOp58, decOp59, decOp5a, decOp5b, decOp5c, decOp5d, decOp5e]
    repeat' first
      | exact Faithful.error
      | exact Faithful.predAmo hop hx (fun _ _ _ _ _ _ => rfl) fun _ _ _ _ _ _ h => h
      | refine Faithful.refuse fun _ => ?_
      | refine Faithful.choose (fun hx => ?_) ?_
      | refine Faithful.bindPred fun _ _ => ?_
      | refine Faithful.bindLevel fun _ _ => ?_
  all_goals
    refine Faithful.ok rfl ?_ (fun _ => ?_) ?_
    · first
      | rfl
      | exact wf_tgtOf_fld w 0
    · simp only [code_shapeOf_fld, code_scopeOf_fld, code_vamoTyOf_fld, toNat_ofNat_fld, toNat_boolOf_fld, code_tgtOf_fld]
      simp only [fld] at *
      omega
    · exact .inr (ne_one_of_code ‹_›)

theorem readsFaithfully_0x60 : ∀ p ∈ [(0x60, decOp60), (0x61, decOp61)], ReadsFaithfully p := by
  simp only [ReadsFaithfully, List.forall_mem_cons, List.not_mem_nil, false_imp_iff, implies_true, and_true]
  refine ⟨?_, ?_⟩ <;> intro w hop
  all_goals
    simp only [decOp60, decOp61]
    repeat' first
      | exact Faithful.error
      | exact Faithful.predEff hop hx (fun _ _ => rfl) fun _ _ => rfl
      | exact Faithful.predEffTgt hop hx (fun _ _ _ => rfl) fun _ _ _ h => h
      | refine Faithful.refuse fun _ => ?_
      | refine Faithful.choose (fun hx => ?_) ?_
      | refine Faithful.bindPred fun _ _ => ?_
  all_goals
    refine Faithful.ok rfl ?_ (fun _ => ?_) ?_
    · first
      | exact wf_tgtOf_fld w 0
      | exact Bool.and_intro (wf_tgtOf_fld w 0) (wf_hldc ‹_›)
    · simp only [code_memSizeOf_fld, toNat_ofNat_fld, toNat_boolOf_fld, code_tgtOf_fld]
      simp only [fld] at *
      omega
    · exact .inr (ne_one_of_code ‹_›)

theorem readsFaithfully_0x62 : ∀ p ∈ [(0x62, decOp62), (0x63, decOp63)], ReadsFaithfully p := by
  simp only [ReadsFaithfully, List.forall_mem_cons, List.not_mem_nil, false_imp_iff, implies_true, and_true]
  refine ⟨?_, ?_⟩ <;> intro w hop
  all_goals
    simp only [decOp62, decOp63]
    repeat' first
      | exact Faithful.error
      | exact Faithful.predEffTile hop hx (fun _ _ _ => rfl) fun _ _ _ => rfl
      | exact Faithful.predEffTiles hop hx (fun _ _ _ _ => rfl) fun _ _ _ _ => rfl
      | exact Faithful.predEff hop hx (fun _ _ => rfl) fun _ _ => rfl
      | refine Faithful.refuse fun _ => ?_
      | refine Faithful.choose (fun hx => ?_) ?_
      | refine Faithful.bindPred fun _ _ => ?_
  all_goals
    refine Faithful.ok rfl ?_ (fun _ => ?_) ?_
    · first
      | rfl
      | exact wf_tgtOf_fld w 0
    · simp only [code_scopeOf_fld, toNat_ofNat_fld, toNat_boolOf_fld, code_tgtOf_fld]
      simp only [fld] at *
      omega
    · exact .inr (ne_one_of_code ‹_›)

theorem readsFaithfully_0x64 : ∀ p ∈ [(0x64, decOp64), (0x65, decOp65), (0x66, decOp66), (0x67, decOp67)], ReadsFaithfully p := by
  simp only [ReadsFaithfully, List.forall_mem_cons, List.not_mem_nil, false_imp_iff, implies_true, and_true]
  refine ⟨?_, ?_, ?_, ?_⟩ <;> intro w hop
  all_goals
    simp only [decOp64, decOp65, decOp66, decOp67]
    repeat' first
      | exact Faithful.error
      | exact Faithful.predEffTgt hop hx (fun _ _ _ => rfl) fun _ _ _ h => h
      | exact Faithful.predEff hop hx (fun _ _ => rfl) fun _ _ => rfl
      | exact Faithful.predEffTile hop hx (fun _ _ _ => rfl) fun _ _ _ => rfl
      | refine Faithful.refuse fun _ => ?_
      | refine Faithful.choose (fun hx => ?_) ?_
      | refine Faithful.bindPred fun _ _ => ?_
      | refine Faithful.bindCline fun _ _ => ?_
  all_goals
    refine Faithful.ok rfl ?_ (fun _ => ?_) ?_
    · first
      | rfl
      | exact wf_tgtOf_fld w 0
    · simp only [toNat_ofNat_fld, toNat_boolOf_fld, code_tgtOf_fld]
      simp only [fld] at *
      omega
    · first
      | exact .inr (ne_one_of_code ‹_›)
      | exact .inr (by omega)

/-- A word read by one of the rows of a table that reads faithfully is read faithfully. -/
theorem Faithful.of_row {w op : Nat} {dec : Nat → Except DecodeErr Instr} {l : List (Nat × (Nat → Except DecodeErr Instr))} (h : ∀ p ∈ l, ReadsFaithfully p)
    (hm : (op, dec) ∈ l) (hop : fld w 25 7 = op) : Faithful w (dec w) := h _ hm w hop

theorem faithful_decodeWord (w : Nat) : Faithful w (decodeWord w) := by
  unfold decodeWord
  split
  all_goals next hop => first
    | (refine Faithful.of_row readsFaithfully_0x01 ?_ hop; solve | simp only [List.mem_cons, true_or, or_true])
    | (refine Faithful.of_row readsFaithfully_0x10 ?_ hop; solve | simp only [List.mem_cons, true_or, or_true])
    | (refine Faithful.of_row readsFaithfully_0x30 ?_ hop; solve | simp only [List.mem_cons, true_or, or_true])
    | (refine Faithful.of_row readsFaithfully_0x50 ?_ hop; solve | simp only [List.mem_cons, true_or, or_true])
    | (refine Faithful.of_row readsFaithfully_0x60 ?_ hop; solve | simp only [List.mem_cons, true_or, or_true])
    | (refine Faithful.of_row readsFaithfully_0x62 ?_ hop; solve | simp only [List.mem_cons, true_or, or_true])
    | (refine Faithful.of_row readsFaithfully_0x64 ?_ hop; solve | simp only [List.mem_cons, true_or, or_true])
    | exact Faithful.error

theorem decodeWord_ok {w : Nat} {i : Instr} (h : decodeWord w = .ok i) :
    i.wf = true ∧ (w < 2 ^ 32 → encodeWord i = some w) ∧ (fld w 25 7 ∈ unpredicated ∨ fld w 23 2 ≠ 1) := faithful_decodeWord w i h

/-! ### The reserved words (02 R35, R40, R41, R46) -/

/-- What answers no instruction answers a refusal. -/
theorem error_of_not_ok {w : Nat} (h : ∀ i, decodeWord w ≠ .ok i) : ∃ e, decodeWord w = .error e := by
  cases hw : decodeWord w with
  | error e => exact ⟨e, rfl⟩
  | ok i => exact absurd hw (h i)

theorem decodeWord_reserved {w op : Nat} (hop : fld w 25 7 = op)
    (h : op ∈ [0x00, 0x0C, 0x0D, 0x0E, 0x0F, 0x1B, 0x1C, 0x1D, 0x1E, 0x1F, 0x27, 0x5F]) : decodeWord w = .error .illegalPrimary := by
  unfold decodeWord
  rw [hop]
  fin_cases h <;> rfl

theorem decodeWord_above {w : Nat} (h : 0x68 ≤ fld w 25 7) : decodeWord w = .error .illegalPrimary := by
  unfold decodeWord
  split
  case h_93 => rfl
  all_goals omega

theorem wideRegOf_of_le {v : Nat} (h : 16 ≤ v) : wideRegOf v = .error .registerRange := if_neg (by omega)

/-- Settles O2: reading drops no bit, by the format of each primary; the reserved words fall to the last row of the decoder, or fail their predicate or register field. -/
theorem decoderIsExact : Obligations.DecoderIsExact := by
  refine ⟨fun w i hw h => (decodeWord_ok h).2.1 hw, fun w i h => (decodeWord_ok h).1, fun w h => ⟨_, decodeWord_reserved rfl h⟩,
    fun w h => ⟨_, decodeWord_above h⟩, fun w hop hpr => error_of_not_ok fun i h => ?_, fun w hop hr => error_of_not_ok fun i h => ?_,
    fun w hop hr => error_of_not_ok fun i h => ?_⟩
  · obtain ⟨-, -, hp⟩ := decodeWord_ok h
    exact hp.elim hop fun hne => hne hpr
  · rw [decodeWord, hop] at h
    simp [decOp02, wideRegOf_of_le hr, Except.bind] at h
  · rw [decodeWord, hop] at h
    simp only [decOp04, wideRegOf_of_le hr] at h
    split at h
    · cases h
    · generalize predOf (fld w 23 2) = r at h
      cases r <;> cases h

end Sys2Proof.EncodingExact
end

section
/-! One step: the agenda's moves, the passing of time, the shutdown and the reset, and a placed word. -/

namespace Sys2Proof.Stepping

-- One proof at a time: proofs checked side by side take each a stack of memory.
set_option Elab.async false

open Sys2Proof.Machine

/-- A move whose package hears it and whose clocks run. -/
theorem step_due {s : State} {m : Move} {ds : List Due} (ha : s.agenda = ⟨0, m⟩ :: ds) (hs : s.stopped = false)
    (hr : s.inReset = false ∨ m.heard = true) : step s = State.move { s with agenda := ds } m := by
  rcases hr with hr | hr <;> simp [step, ha, hs, hr]

theorem step_fire {s : State} {f : Focus} {ds : List Due} (ha : s.agenda = ⟨0, .fire f⟩ :: ds) (hs : s.stopped = false)
    (hr : s.inReset = false) :
    (∀ i, s.instrOf f = some i → step s = exec i { s with agenda := ds, focus := f })
      ∧ (s.instrOf f = none → step s = .refused .illegalWord) := by
  rw [step_due ha hs (.inl hr)]
  have hi : State.instrOf { s with agenda := ds } f = s.instrOf f := rfl
  constructor
  · intro i h
    simp only [State.move, hi, h]
  · intro h
    simp only [State.move, hi, h]

/-- Settles O4: each clause is the branch of `step` that its hypotheses name. -/
theorem stepRuns : Obligations.StepRuns := by
  refine ⟨fun s f ds ha hs hr => step_fire ha hs hr, fun s i ds ha hs hr => step_due ha hs hr, ?_⟩
  intro s m ds ha hs hr hm
  simp [step, ha, hs, hr, hm]

/-- With no move due a step takes its second branch. -/
theorem step_idle {s : State} (ha : ∀ m ds, s.agenda ≠ ⟨0, m⟩ :: ds) :
    step s = if s.stopped then .fault .clocksStopped
      else if s.inReset then .next { s with agenda := nearer s.agenda }
      else match s.pass.ownMoves.findSome? s.pass.effectOf with
        | some u => .next u
        | none => .next s.pass := by
  unfold step
  split
  · next m ds h => exact absurd h (ha m ds)
  · rfl

theorem pass_time (s : State) : s.pass.time = s.time + 1 := rfl

theorem markHeads_mem (s : State) : s.markHeads.mem = s.mem := by
  unfold State.markHeads
  split <;> rfl

theorem pass_mem (s : State) : s.pass.mem = s.mem := markHeads_mem s

/-- After a shutdown only a package reset is performed (23 R421). -/
theorem step_stopped {s : State} (hs : s.stopped = true)
    (ha : ∀ st ds, s.agenda ≠ ⟨0, .event (.packageReset st)⟩ :: ds) : step s = .fault .clocksStopped := by
  unfold step
  split
  · next m ds h =>
    have hm : m.isReset = false := by
      unfold Move.isReset
      split
      · exact absurd h (ha _ _)
      · rfl
    simp [hs, hm]
  · simp [hs]

/-- The clause that `withFetchWord` places holds the word as its instruction 0. -/
theorem placedInst_instrAt {w : Nat} {i : Instr} (hw : w < 2 ^ 32) (hd : decodeWord w = .ok i) (uid : Nat) :
    (placedInst uid (BitVec.ofNat 32 w)).instrAt 0 = some i := by
  have hn : (BitVec.ofNat 32 w).toNat = w := by rw [BitVec.toNat_ofNat, Nat.mod_eq_of_lt hw]
  simp [Inst.instrAt, placedInst, Inst.place, hn, hd]

theorem withFetchWord_instrOf {w : Nat} {i : Instr} (s : State) (n : Nat) (hw : w < 2 ^ 32) (hd : decodeWord w = .ok i) :
    (s.withFetchWord n w).instrOf ⟨s.nextCtx, 0, 0, false⟩ = some i := by
  have hp := placedInst_instrAt hw hd s.nextCmd
  simpa [State.instrOf, State.ctx?, State.withFetchWord, Ctx.blank] using hp

/-- Settles O5: the branches of `step` with no move due, and the placed word as the move that is due. -/
theorem stepPassesAndPlaces : Obligations.StepPassesAndPlaces := by
  refine ⟨?_, fun s hs ha => step_stopped hs ha, ?_, ?_⟩
  · intro s hs hr ha
    rw [step_idle ha]
    refine ⟨fun u hu => ?_, fun hn => ?_, pass_time s, pass_mem s⟩
    · simp [hs, hr, hu]
    · simp [hs, hr, hn]
  · intro s hs hr ha
    simp [step_idle ha, hs, hr]
  · intro s n w i hw hd hs hr
    exact (step_fire (s := s.withFetchWord n w) rfl hs hr).1 i (withFetchWord_instrOf s n hw hd)

end Sys2Proof.Stepping
end

section
/-! The firing rule (01 R15): what an instruction's tokens ask for, and when nothing happens. -/

namespace Sys2Proof.FiringRules

-- One proof at a time: proofs checked side by side take each a stack of memory.
set_option Elab.async false

open Sys2Proof.Machine Sys2Proof.Laws

/-! ### What the tokens ask for -/

theorem toksOf_missing {x : Inst} {iid : BitVec 7} {l : List Slot} (h : ∃ sl ∈ l, x.tok? iid sl = none) : x.toksOf iid l = none := by
  induction l with
  | nil => simp at h
  | cons sl rest ih =>
    unfold Inst.toksOf
    obtain ⟨m, hm, hn⟩ := h
    rcases List.mem_cons.mp hm with rfl | hm
    · rw [hn]
    · rw [ih ⟨m, hm, hn⟩]
      cases x.tok? iid sl <;> rfl

section
variable {x : Inst} {iid : BitVec 7} {i : Instr} {ts : List Token}

theorem ready_missing (h : ∃ sl ∈ allSlots i, x.tok? iid sl = none) : x.ready iid i = .waits := by
  simp only [Inst.ready, toksOf_missing h]

theorem ready_null (h : x.toksOf iid (allSlots i) = some ts) (hn : Token.null ∈ ts) : x.ready iid i = .meetsNull := by
  have hany : (ts.any fun t => decide (t = .null)) = true := by simpa using hn
  simp only [Inst.ready, h, hany, if_true]

theorem any_null_eq_false (hn : Token.null ∉ ts) : (ts.any fun t => decide (t = .null)) = false :=
  List.any_eq_false.mpr fun t ht he => hn (of_decide_eq_true he ▸ ht)

theorem ready_poison {k : Kind} {o : BitVec 7} (h : x.toksOf iid (allSlots i) = some ts) (hn : Token.null ∉ ts)
    (hp : firstPoison ts = some (k, o)) : x.ready iid i = .meetsPoison k o := by
  simp [Inst.ready, h, any_null_eq_false hn, hp]

theorem ready_noMatch (h : x.toksOf iid (allSlots i) = some ts) (hn : Token.null ∉ ts) (hp : firstPoison ts = none)
    (hpr : x.predHolds iid i = false) : x.ready iid i = .noMatch := by
  simp [Inst.ready, h, any_null_eq_false hn, hp, hpr]

/-- A predicate fails where it asks for a true p that is zero, or for a false p that is not (02 R35). -/
theorem predHolds_eq_false
    (h : (i.pred = .onTrue ∧ ((x.tok? iid .p).getD .null).bits = 0) ∨ (i.pred = .onFalse ∧ ((x.tok? iid .p).getD .null).bits ≠ 0)) :
    x.predHolds iid i = false := by
  unfold Inst.predHolds
  rcases h with ⟨hp, hb⟩ | ⟨hp, hb⟩
  · rw [hp]; exact decide_eq_false (not_not_intro hb)
  · rw [hp]; exact decide_eq_false hb

end

/-! ### When nothing happens -/

/-- A clause that is marked, an identifier that has fired, or an older clause that may yet write a control register (01 R13, R27). -/
def Held (s : State) (x : Inst) : Prop := x.mark ≠ none ∨ s.focus.iid ∈ x.fired ∨ s.ctlHeld = true

theorem held_bool {s : State} {x : Inst} (h : Held s x) : (x.mark.isSome || x.fired.contains s.focus.iid || s.ctlHeld) = true := by
  rcases h with h | h | h
  · simp [Option.isSome_iff_ne_none.mpr h]
  · simp [h]
  · simp [h]

theorem fire_held {s : State} {x : Inst} (hx : s.finst = some x) (h : Held s x) (i : Instr) (act : Vals → State → Act) :
    fire s i act = .next s := by
  simp only [fire, hx, held_bool h, if_true]

/-- SPUSH pushes a null of its own accord only where the firing rule lets it. -/
theorem execSpush_held {s : State} {x : Inst} (hx : s.finst = some x) (h : Held s x) (e p : BitVec 5) :
    exec (.spush e p) s = .next s := by
  have hn : (x.mark.isNone && !x.fired.contains s.focus.iid && !s.ctlHeld && decide (x.hdr.kind = 1)
      && decide (x.ready s.focus.iid (.spush e p) = .meetsNull)) = false := by
    rcases h with h | h | h
    · simp [h]
    · simp [h]
    · simp [h]
  show execSpush e p s = _
  simp only [execSpush, hx, hn]
  exact fire_held hx h _ _

theorem exec_held {i : Instr} {w : Nat} {s : State} {x : Inst} (hw : encodeWord i = some w) (hx : s.finst = some x) (h : Held s x) :
    exec i s = .next s := by
  by_cases hi : ∃ e p, i = .spush e p
  · obtain ⟨e, p, rfl⟩ := hi
    exact execSpush_held hx h e p
  · push Not at hi
    obtain ⟨act, ha⟩ := fires_of_encoded hw hi s
    rw [ha, fire_held hx h]

/-- Settles O6: every instruction but SPUSH is the firing rule with an action of its own, and the rule's outcomes are those of its tokens. -/
theorem firingRule : Obligations.FiringRule := by
  refine ⟨?_, ?_, fun i w s x hw hx h => exec_held hw hx h⟩
  · intro i w s hw hs
    obtain ⟨act, ha⟩ := fires_of_encoded hw hs s
    rw [ha]
    exact ⟨fun h => fire_waits h act, fun h => fire_null h act, fun k o h => fire_poison h act, fun h => fire_noMatch h act⟩
  · intro x iid i
    exact ⟨ready_missing, fun _ h hn => ready_null h hn, fun _ _ _ h hn hp => ready_poison h hn hp,
      fun _ h hn hp hpr => ready_noMatch h hn hp (predHolds_eq_false hpr)⟩

/-! ### The accounting of outputs (01 R18, R19) -/

theorem fail_mark {x : Inst} (h : x.mark = none) (k : Kind) : (x.fail k).mark = some k := by
  simp only [Inst.fail, h]

theorem fail_eq {x : Inst} (h : x.mark = none) (k : Kind) : x.fail k = { x with mark := some k } := by
  simp only [Inst.fail, h]

section
variable {x : Inst} (hm : x.mark = none)
include hm

theorem recordEff_again {e : BitVec 5} (h : x.effOut? e ≠ none) (o : EffOut) : (x.recordEff e o).mark = some .clausefmt := by
  simp [Inst.recordEff, Option.isSome_iff_ne_none.mpr h, fail_mark hm]

theorem recordEff_outside {e : BitVec 5} {o : EffOut} (h : x.hdr.effmask.getLsbD e.toNat = false) (ho : o ≠ .nulled) :
    (x.recordEff e o).mark = some .clausefmt := by
  simp [Inst.recordEff, h, ho, fail_mark hm]

theorem recordG_again {r : BitVec 6} (h : ∃ p ∈ x.gw, p.1 = r) (t : Token) : (x.recordG r t).mark = some .clausefmt := by
  have ha : (x.gw.any fun p => decide (p.1 = r)) = true := by simpa using h
  simp only [Inst.recordG, ha, Bool.true_or, if_true, fail_mark hm]

theorem recordG_outside {r : BitVec 6} (h : x.hdr.gwmask.getLsbD r.toNat = false) (t : Token) :
    (x.recordG r t).mark = some .clausefmt := by
  simp only [Inst.recordG, h, Bool.not_false, Bool.or_true, if_true, fail_mark hm]

theorem recordW_again {r : BitVec 4} (h : ∃ p ∈ x.ww, p.1 = r) (t : Token) : (x.recordW r t).mark = some .clausefmt := by
  have ha : (x.ww.any fun p => decide (p.1 = r)) = true := by simpa using h
  simp only [Inst.recordW, ha, Bool.true_or, if_true, fail_mark hm]

theorem recordW_outside {r : BitVec 4} (h : x.hdr.wwmask.getLsbD r.toNat = false) (t : Token) :
    (x.recordW r t).mark = some .clausefmt := by
  simp only [Inst.recordW, h, Bool.not_false, Bool.or_true, if_true, fail_mark hm]

theorem recordBranch_again (h : x.branch ≠ none) (b : BranchOut) : (x.recordBranch b).mark = some .clausefmt := by
  simp only [Inst.recordBranch, Option.isSome_iff_ne_none.mpr h, Bool.true_or, if_true, fail_mark hm]

end

/-- A null that an effect slot gets first is kept, whatever effmask says (log 112). -/
theorem recordEff_nulled {x : Inst} {e : BitVec 5} (h : x.effOut? e = none) :
    x.recordEff e .nulled = { x with effs := x.effs ++ [(e, .nulled)] } := by
  simp [Inst.recordEff, h]

/-- Settles O7: the branch of each recording function that its hypothesis names. -/
theorem doubleOutputs : Obligations.DoubleOutputs := by
  intro x hm
  exact ⟨fun e o h => recordEff_again hm h o, fun e a h => recordEff_outside hm h nofun, fun e k h => recordEff_outside hm h nofun,
    fun e h => recordEff_nulled h, fun r t h => recordG_again hm h t, fun r t h => recordG_outside hm h t,
    fun r t h => recordW_again hm h t, fun r t h => recordW_outside hm h t, fun b h => recordBranch_again hm h b⟩

end Sys2Proof.FiringRules
end

section
/-! Deliveries (01 R16, R17; 02 R36, R37): what a token does to the slot it arrives at, and which slots the targets of a T field name. -/

namespace Sys2Proof.Delivering

-- One proof at a time: proofs checked side by side take each a stack of memory.
set_option Elab.async false

open Sys2Proof.Machine Sys2Proof.FiringRules

/-! ### The slots of an instruction -/

/-- Slot p is never among the operands a, b and c (01 R14). -/
theorem p_not_read (i : Instr) : Slot.p ∉ i.reads.map fun r => r.1 := by
  cases i
  case inbox pr eff take t => cases take <;> exact of_decide_eq_true rfl
  case hstat pr eff sum t => cases sum <;> exact of_decide_eq_true rfl
  all_goals exact of_decide_eq_true rfl

theorem slotWidth_p_ne_wide (i : Instr) : slotWidth i .p ≠ some .wide := by
  simp only [slotWidth]
  split <;> simp

/-- A slot has a width exactly where the instruction reads it. -/
theorem slotWidth_eq_none_iff (i : Instr) (sl : Slot) : slotWidth i sl = none ↔ sl ∉ allSlots i := by
  have hp := p_not_read i
  have hfind : (i.reads.find? fun r => decide (r.1 = sl)).map (fun r => r.2) = none ↔ sl ∉ i.reads.map fun r => r.1 := by
    simp only [Option.map_eq_none_iff, List.find?_eq_none, List.mem_map, not_exists, not_and, decide_eq_true_eq]
  unfold slotWidth allSlots
  split
  · by_cases h : i.pred = .always
    · simpa [h] using hp
    · simp [h]
  · next hsl =>
    rw [hfind]
    by_cases h : i.pred = .always
    · simp [h]
    · simp only [h, if_false, List.mem_append, List.mem_singleton, not_or, iff_self_and]
      exact fun _ => hsl

theorem slotWidth_of_mem {i : Instr} {sl : Slot} (h : sl ∈ allSlots i) : ∃ w, slotWidth i sl = some w := by
  refine Option.ne_none_iff_exists'.mp fun hn => (slotWidth_eq_none_iff i sl).mp hn h

/-! ### One token at one slot -/

section
variable {x : Inst} {sl : Slot} {iid : BitVec 7} {tok : Token} {i : Instr}

theorem accept_noInstr (h : x.instrAt iid = none) : x.accept tok (sl, iid) = x.fail .clausefmt := by
  simp only [Inst.accept, h]

theorem accept_full (hi : x.instrAt iid = some i) (h : x.tok? iid sl ≠ none) : x.accept tok (sl, iid) = x.fail .clausefmt := by
  unfold Inst.accept
  simp only [hi, Option.isSome_iff_ne_none.mpr h]
  cases slotWidth i sl <;> rfl

theorem accept_notRead (hi : x.instrAt iid = some i) (h : sl ∉ allSlots i) : x.accept tok (sl, iid) = x.fail .clausefmt := by
  simp only [Inst.accept, hi, (slotWidth_eq_none_iff i sl).mpr h]

theorem accept_misfit {w : Width} (hi : x.instrAt iid = some i) (hw : slotWidth i sl = some w) (h : w.fits tok = false) :
    x.accept tok (sl, iid) = x.fail .clausefmt := by
  simp only [Inst.accept, hi, hw, h, Bool.not_false, Bool.or_true, if_true]

theorem accept_held {w : Width} (hi : x.instrAt iid = some i) (hw : slotWidth i sl = some w) (ht : x.tok? iid sl = none)
    (h : w.fits tok = true) : x.accept tok (sl, iid) = { x with toks := x.toks ++ [(iid, sl, tok)] } := by
  simp [Inst.accept, hi, hw, ht, h]

end

theorem fits_null (w : Width) : w.fits .null = true := by cases w <;> rfl

theorem fits_poison (w : Width) (k : Kind) (o : BitVec 7) : w.fits (.poison k o) = true := by cases w <;> rfl

theorem fits_scalar {w : Width} (h : w ≠ .wide) (u : Word) : w.fits (.scalar u) = true := by
  cases w <;> first | rfl | exact absurd rfl h

theorem fits_wide {w : Width} (h : w ≠ .scalar) (u : Wide) : w.fits (.wide u) = true := by
  cases w <;> first | rfl | exact absurd rfl h

/-- A token that a slot of the instruction takes (01 R16). -/
def Suits (i : Instr) (sl : Slot) (tok : Token) : Prop :=
  tok = .null ∨ (∃ k o, tok = .poison k o) ∨ (∃ u, tok = .scalar u ∧ slotWidth i sl ≠ some .wide)
    ∨ (∃ u, tok = .wide u ∧ slotWidth i sl ≠ some .scalar)

theorem accept_suits {x : Inst} {sl : Slot} {iid : BitVec 7} {tok : Token} {i : Instr} (hi : x.instrAt iid = some i)
    (ht : x.tok? iid sl = none) (hs : sl ∈ allSlots i) (h : Suits i sl tok) :
    x.accept tok (sl, iid) = { x with toks := x.toks ++ [(iid, sl, tok)] } := by
  obtain ⟨w, hw⟩ := slotWidth_of_mem hs
  refine accept_held hi hw ht ?_
  rcases h with rfl | ⟨k, o, rfl⟩ | ⟨u, rfl, hn⟩ | ⟨u, rfl, hn⟩
  · exact fits_null w
  · exact fits_poison w k o
  · exact fits_scalar (fun h => hn (h ▸ hw)) u
  · exact fits_wide (fun h => hn (h ▸ hw)) u

/-! ### A token at every target -/

theorem tok?_append (x : Inst) (iid : BitVec 7) (sl : Slot) (jid : BitVec 7) (m : Slot) (tok : Token) :
    ({ x with toks := x.toks ++ [(jid, m, tok)] } : Inst).tok? iid sl
      = if (m, jid) = (sl, iid) ∧ x.tok? iid sl = none then some tok else x.tok? iid sl := by
  simp only [Inst.tok?, List.find?_append, Option.map_eq_none_iff]
  cases h : x.toks.find? fun t => decide (t.1 = iid) && decide (t.2.1 = sl) with
  | some t => simp
  | none => by_cases hj : jid = iid <;> by_cases hm : m = sl <;> simp [hj, hm]

/-- What a clause holds of an arrival does not change its instructions. -/
theorem instrAt_append (x : Inst) (iid : BitVec 7) (l : List (BitVec 7 × Slot × Token)) :
    ({ x with toks := l } : Inst).instrAt iid = x.instrAt iid := rfl

/-- The slots that targets name are read and free. -/
def Free (x : Inst) (ts : List (Slot × BitVec 7)) : Prop :=
  ∀ t ∈ ts, ∃ i, x.instrAt t.2 = some i ∧ t.1 ∈ allSlots i ∧ x.tok? t.2 t.1 = none

/-- A null or a poison that finds its slots free is held in each of them and nowhere else. -/
theorem deliver_free {tok : Token} (htok : tok = .null ∨ ∃ k o, tok = .poison k o) (ts : List (Slot × BitVec 7)) :
    ∀ x : Inst, x.mark = none → ts.Nodup → Free x ts →
      (x.deliver ts tok).mark = none ∧ (∀ t ∈ ts, (x.deliver ts tok).tok? t.2 t.1 = some tok)
        ∧ ∀ sl iid, (sl, iid) ∉ ts → (x.deliver ts tok).tok? iid sl = x.tok? iid sl := by
  induction ts with
  | nil => exact fun x hm _ _ => ⟨hm, nofun, fun _ _ _ => rfl⟩
  | cons t ts ih =>
    obtain ⟨m, jid⟩ := t
    intro x hm hnd hfree
    obtain ⟨hnot, hnd⟩ := List.nodup_cons.mp hnd
    obtain ⟨i, hi, hs, ht⟩ := hfree (m, jid) (by simp)
    have hacc : x.accept tok (m, jid) = { x with toks := x.toks ++ [(jid, m, tok)] } :=
      accept_suits hi ht hs (htok.imp_right Or.inl)
    have hrest : Free { x with toks := x.toks ++ [(jid, m, tok)] } ts := by
      intro u hu
      obtain ⟨k, hk, hks, hkt⟩ := hfree u (List.mem_cons_of_mem _ hu)
      refine ⟨k, hk, hks, ?_⟩
      have hne : ¬(m, jid) = (u.1, u.2) := fun h => hnot (h ▸ hu)
      rw [tok?_append, if_neg fun h => hne h.1, hkt]
    obtain ⟨h1, h2, h3⟩ := ih { x with toks := x.toks ++ [(jid, m, tok)] } hm hnd hrest
    have hd : x.deliver ((m, jid) :: ts) tok = Inst.deliver { x with toks := x.toks ++ [(jid, m, tok)] } ts tok := by
      rw [← hacc]; rfl
    rw [hd]
    refine ⟨h1, List.forall_mem_cons.mpr ⟨?_, h2⟩, fun sl iid hne => ?_⟩
    · rw [h3 m jid hnot, tok?_append, if_pos ⟨rfl, ht⟩]
    · obtain ⟨hne1, hne2⟩ := not_or.mp (mt List.mem_cons.mpr hne)
      rw [h3 sl iid hne2, tok?_append, if_neg fun h => hne1 h.1.symm]

/-- A marked clause stays marked as it is. -/
theorem accept_marked {x : Inst} {k : Kind} (h : x.mark = some k) (tok : Token) (t : Slot × BitVec 7) :
    (x.accept tok t).mark = some k := by
  unfold Inst.accept
  split
  · simp [Inst.fail, h]
  · split
    · simp [Inst.fail, h]
    · split
      · simp [Inst.fail, h]
      · exact h

theorem deliver_marked {k : Kind} (tok : Token) (ts : List (Slot × BitVec 7)) :
    ∀ x : Inst, x.mark = some k → (x.deliver ts tok).mark = some k := by
  induction ts with
  | nil => exact fun x h => h
  | cons t ts ih => exact fun x h => ih _ (accept_marked h tok t)

/-- An arrival leaves a clause unmarked, with more tokens, or marks it with CLAUSEFMT. -/
theorem accept_cases {x : Inst} (h : x.mark = none) (tok : Token) (t : Slot × BitVec 7) :
    (∃ i w, x.instrAt t.2 = some i ∧ slotWidth i t.1 = some w ∧ x.tok? t.2 t.1 = none ∧ w.fits tok = true
        ∧ x.accept tok t = { x with toks := x.toks ++ [(t.2, t.1, tok)] })
      ∨ (x.accept tok t).mark = some .clausefmt := by
  obtain ⟨sl, iid⟩ := t
  cases hi : x.instrAt iid with
  | none => exact .inr (by rw [accept_noInstr hi, fail_mark h])
  | some i =>
    cases hw : slotWidth i sl with
    | none => exact .inr (by rw [accept_notRead hi ((slotWidth_eq_none_iff i sl).mp hw), fail_mark h])
    | some w =>
      cases ht : x.tok? iid sl with
      | some u => exact .inr (by rw [accept_full hi (by simp [ht]), fail_mark h])
      | none =>
        cases hf : w.fits tok with
        | false => exact .inr (by rw [accept_misfit hi hw hf, fail_mark h])
        | true => exact .inl ⟨i, w, rfl, hw, rfl, hf, accept_held hi hw ht hf⟩

/-- A slot that refuses a token refuses it too once the clause holds more tokens. -/
theorem accept_refused_append {x : Inst} (h : x.mark = none) {tok : Token} {t : Slot × BitVec 7} (hr : (x.accept tok t).mark ≠ none)
    (jid : BitVec 7) (m : Slot) (u : Token) : (Inst.accept { x with toks := x.toks ++ [(jid, m, u)] } tok t).mark ≠ none := by
  obtain ⟨sl, iid⟩ := t
  obtain ⟨i, w, hi, hw, ht, hf, -⟩ | hc := accept_cases (x := { x with toks := x.toks ++ [(jid, m, u)] }) h tok (sl, iid)
  · have hi' : x.instrAt iid = some i := hi
    have ht' : x.tok? iid sl = none := by
      rw [tok?_append] at ht
      split at ht
      · exact absurd ht (by simp)
      · exact ht
    rw [accept_held hi' hw ht' hf] at hr
    exact absurd h hr
  · simp [hc]

/-- One target that refuses its token fails the clause (01 R16). -/
theorem deliver_refused {tok : Token} (ts : List (Slot × BitVec 7)) :
    ∀ x : Inst, x.mark = none → ∀ t ∈ ts, (x.accept tok t).mark ≠ none → (x.deliver ts tok).mark = some .clausefmt := by
  induction ts with
  | nil => exact fun _ _ _ ht => absurd ht List.not_mem_nil
  | cons u ts ih =>
    intro x hm t ht hr
    show (Inst.deliver (x.accept tok u) ts tok).mark = _
    obtain ⟨_, _, _, _, _, _, ha⟩ | hc := accept_cases hm tok u
    · rcases List.mem_cons.mp ht with rfl | ht
      · rw [ha] at hr
        exact absurd hm hr
      · rw [ha]
        exact ih { x with toks := x.toks ++ [(u.2, u.1, tok)] } hm t ht (accept_refused_append hm hr _ _ _)
    · exact deliver_marked tok ts _ hc

/-! ### The focused clause -/

theorem ctx?_onCtx (s : State) (n : Nat) (f : Ctx → Ctx) (hf : ∀ c, (f c).id = c.id) :
    (s.onCtx n f).ctx? n = (s.ctx? n).map f := by
  simp only [State.ctx?, State.onCtx, List.find?_map]
  have hcongr : (s.ctxs.find? ((fun x => decide (x.id = n)) ∘ fun x => if x.id = n then f x else x))
      = s.ctxs.find? fun x => decide (x.id = n) := by
    congr 1
    funext x
    by_cases hx : x.id = n <;> simp [hx, hf]
  rw [hcongr]
  cases h : s.ctxs.find? fun x => decide (x.id = n) with
  | none => rfl
  | some c =>
    have hc : c.id = n := by simpa using List.find?_some h
    simp [hc]

theorem fctx_onInst (s : State) (f : Inst → Inst) :
    (s.onInst f).fctx = s.fctx.map fun c => { c with window := c.window.modify s.focus.win f } :=
  ctx?_onCtx s s.focus.ctx _ fun _ => rfl

theorem finst_onInst (s : State) (f : Inst → Inst) : (s.onInst f).finst = s.finst.map f := by
  unfold State.finst
  rw [fctx_onInst, show (s.onInst f).focus = s.focus from rfl]
  cases s.fctx with
  | none => rfl
  | some c => simp

/-! ### Targets (02 R36, R37) -/

theorem mem_fanTargets (sl : Slot) (row : BitVec 4) (mask : BitVec 8) (m : Slot) (iid : BitVec 7) :
    (m, iid) ∈ fanTargets sl row mask ↔ m = sl ∧ ∃ j < 8, mask.getLsbD j = true ∧ iid.toNat = 8 * row.toNat + j := by
  have hrow := row.isLt
  simp only [fanTargets, List.mem_filterMap, List.mem_range, Option.ite_none_right_eq_some, Option.some.injEq, Prod.mk.injEq]
  constructor
  · rintro ⟨j, hj, hb, rfl, rfl⟩
    exact ⟨rfl, j, hj, hb, by rw [BitVec.toNat_ofNat, Nat.mod_eq_of_lt (by omega)]⟩
  · rintro ⟨rfl, j, hj, hb, he⟩
    exact ⟨j, hj, hb, rfl, by rw [← he]; simp⟩

theorem fanTargets_nodup (sl : Slot) (row : BitVec 4) (mask : BitVec 8) : (fanTargets sl row mask).Nodup := by
  have hrow := row.isLt
  refine List.pairwise_filterMap.mpr (List.pairwise_lt_range.imp_of_mem fun {j k} hj hk hlt t ht u hu => ?_)
  rw [List.mem_range] at hj hk
  obtain ⟨-, ⟨⟩⟩ := Option.ite_none_right_eq_some.mp ht
  obtain ⟨-, ⟨⟩⟩ := Option.ite_none_right_eq_some.mp hu
  intro he
  have hn := congrArg (fun p : Slot × BitVec 7 => p.2.toNat) he
  simp only [BitVec.toNat_ofNat] at hn
  omega

theorem Tgt.targets_nodup (t : Tgt) : t.targets.Nodup := by
  cases t <;> simp [Tgt.targets]

theorem Tgt.targets_disjoint {t₁ t₂ : Tgt} (h : t₁ ≠ t₂) : t₁.targets.Disjoint t₂.targets := by
  match t₁, t₂, h with
  | .discard, _, _ => simp [Tgt.targets]
  | .to .., .discard, _ => simp [Tgt.targets]
  | .to sl iid, .to m jid, h => simpa [Tgt.targets, eq_comm] using h

theorem Dst.targets_nodup (d : Dst) : d.targets.Nodup := by
  cases d with
  | dual t₁ t₂ =>
    by_cases h : t₁ = t₂
    · simpa only [Dst.targets, if_pos h] using Tgt.targets_nodup t₁
    · simpa only [Dst.targets, if_neg h] using (Tgt.targets_nodup t₁).append (Tgt.targets_nodup t₂) (Tgt.targets_disjoint h)
  | fan sl row mask => exact fanTargets_nodup sl row mask

/-- Settles O60: one arrival, then the arrivals of a list by induction on it, then the lists that T fields name. -/
theorem deliveries : Obligations.Deliveries := by
  refine ⟨?_, ?_, ?_, ?_⟩
  · intro x sl iid tok hm failed
    have hfail : x.fail .clausefmt = failed := fail_eq hm _
    rw [← hfail]
    refine ⟨accept_noInstr, fun i hi => ⟨accept_full hi, accept_notRead hi, ?_, ?_, ?_, fun ht hs h => accept_suits hi ht hs h⟩⟩
    · rintro u rfl hw
      exact accept_misfit hi hw rfl
    · rintro u rfl hw
      exact accept_misfit hi hw rfl
    · rintro rfl
      exact slotWidth_p_ne_wide i
  · intro x ts tok hm
    exact ⟨fun hnd htok hfree => deliver_free htok ts x hm hnd hfree, deliver_refused ts x hm⟩
  · intro s i x tok hx
    rw [State.deliver, finst_onInst, hx]
    rfl
  · intro t₁ t₂ sl row mask
    exact ⟨if_pos rfl, fun h => if_neg h, rfl, fun _ => rfl, fun m iid => mem_fanTargets sl row mask m iid, Dst.targets_nodup⟩

end Sys2Proof.Delivering
end

section
/-! Register reads and writes, constants and moves (01 R25; 04 R87 to R92, R114). -/

namespace Sys2Proof.RegistersAndMoves

-- One proof at a time: proofs checked side by side take each a stack of memory.
set_option Elab.async false

open Sys2Proof.Machine

/-- An action that waits leaves the state it gives. -/
theorem fire_actWaits {s t : State} {i : Instr} {v : Vals} {act : Vals → State → Act} (h : Acts s i v) (ha : act v s = .waits t) :
    fire s i act = .next t := by rw [fire_acts h, ha]

/-! ### The register reads (01 R25) -/

section
variable {s : State} {v : Vals} {c : Ctx} {d : Dst} (hc : s.fctx = some c)
include hc

theorem gread_gives {r : BitVec 6} {u : Word} (h : Acts s (.gread r d) v) (hr : greadFrom r (c.window.take s.focus.win) (c.gr r) = some u) :
    GivesS s (.gread r d) u := by
  show execGread r d s = _
  unfold execGread
  refine fire_fires h ?_
  simp only [hc, hr]

theorem gread_waits {r : BitVec 6} (h : Acts s (.gread r d) v) (hr : greadFrom r (c.window.take s.focus.win) (c.gr r) = none) :
    exec (.gread r d) s = .next s := by
  show execGread r d s = _
  unfold execGread
  refine fire_actWaits h ?_
  simp only [hc, hr]

theorem wread_gives {r : BitVec 4} {u : Wide} (h : Acts s (.wread r d) v) (hr : wreadFrom r (c.window.take s.focus.win) (c.wr r) = some u) :
    GivesW s (.wread r d) u := by
  show execWread r d s = _
  unfold execWread
  refine fire_fires h ?_
  simp only [hc, hr]

theorem wread_waits {r : BitVec 4} (h : Acts s (.wread r d) v) (hr : wreadFrom r (c.window.take s.focus.win) (c.wr r) = none) :
    exec (.wread r d) s = .next s := by
  show execWread r d s = _
  unfold execWread
  refine fire_actWaits h ?_
  simp only [hc, hr]

end

/-! ### What an older clause gives (01 R25; 04 R114) -/

/-- Among writes of different registers the one of r is the one found. -/
theorem find?_of_mem_nodup {α β : Type} [DecidableEq α] {l : List (α × β)} {a : α} {b : β} (hn : (l.map fun p => p.1).Nodup)
    (h : (a, b) ∈ l) : l.find? (fun p => decide (p.1 = a)) = some (a, b) := by
  induction l with
  | nil => exact absurd h List.not_mem_nil
  | cons p l ih =>
    obtain ⟨hp, hn⟩ := List.nodup_cons.mp hn
    rcases List.mem_cons.mp h with rfl | h
    · simp
    · have hne : p.1 ≠ a := fun he => hp (List.mem_map.mpr ⟨(a, b), h, he.symm⟩)
      simp [hne, ih hn h]

theorem find?_of_forall_ne {α β : Type} [DecidableEq α] {l : List (α × β)} {a : α} (h : ∀ p ∈ l, p.1 ≠ a) :
    l.find? (fun p => decide (p.1 = a)) = none :=
  List.find?_eq_none.mpr fun p hp => by simpa using h p hp

section
variable {x : Inst} {xs : List Inst} {r : BitVec 6} {v : Word}

theorem greadFrom_unnamed (hr : r ≠ 63) (hm : x.hdr.gwmask.getLsbD r.toNat = false) : greadFrom r (x :: xs) v = greadFrom r xs v := by
  rw [greadFrom, hm, if_neg (by decide), if_neg hr]

theorem greadFrom_named (hm : x.hdr.gwmask.getLsbD r.toNat = true) :
    greadFrom r (x :: xs) v = match x.gw.find? (fun p => decide (p.1 = r)) with
      | none => none
      | some (_, .scalar u) => greadFrom r xs u
      | some _ => greadFrom r xs v := by
  simp only [greadFrom, hm, if_true] <;> rfl

/-- The link of a clause whose gwmask does not name it waits for the branch (04 R114). -/
theorem greadFrom_link (hm : x.hdr.gwmask.getLsbD 63 = false) :
    greadFrom 63 (x :: xs) v = match x.branch with
      | some (.call _) => greadFrom 63 xs x.nextAddr
      | some _ => greadFrom 63 xs v
      | none => if x.rft then greadFrom 63 xs v else none := by
  have hm' : x.hdr.gwmask.getLsbD (63 : BitVec 6).toNat = false := hm
  rw [greadFrom, hm', if_neg (by decide), if_pos rfl] <;> rfl

end

theorem wreadFrom_named {x : Inst} {xs : List Inst} {r : BitVec 4} {v : Wide} (hm : x.hdr.wwmask.getLsbD r.toNat = true) :
    wreadFrom r (x :: xs) v = match x.ww.find? (fun p => decide (p.1 = r)) with
      | none => none
      | some (_, .wide u) => wreadFrom r xs u
      | some _ => wreadFrom r xs v := by
  simp only [wreadFrom, hm, if_true] <;> rfl

/-- Settles O8: the two branches of each read's action, then what the first older clause gives. -/
theorem registerReads : Obligations.RegisterReads := by
  refine ⟨?_, ?_, ?_⟩
  · intro s v c d hc
    refine ⟨fun r u h hr => gread_gives hc h hr, fun r h hr => gread_waits hc h hr, fun r u h hr => wread_gives hc h hr,
      fun r h hr => wread_waits hc h hr, fun r hw h => gread_gives hc h ?_, fun r hw h => wread_gives hc h ?_⟩
    · rw [hw]; rfl
    · rw [hw]; rfl
  · intro x xs r v hn
    refine ⟨greadFrom_unnamed, fun hm h => ?_, fun u hm h => ?_, fun hm h => ?_, fun hm => ⟨fun t hb => ?_, fun b hb hne => ?_, fun hb => ?_⟩, rfl, rfl⟩
    · rw [greadFrom_named hm, find?_of_forall_ne h]
    · rw [greadFrom_named hm, find?_of_mem_nodup hn h]
    · rw [greadFrom_named hm, find?_of_mem_nodup hn h]
    · rw [greadFrom_link hm, hb]
    · rw [greadFrom_link hm, hb]
      cases b with
      | call t => exact absurd rfl (hne t)
      | _ => rfl
    · rw [greadFrom_link hm, hb]
  · intro x xs r v hn
    refine ⟨fun hm => by simp [wreadFrom, hm], fun hm h => ?_, fun u hm h => ?_, fun hm h => ?_, rfl⟩
    · rw [wreadFrom_named hm, find?_of_forall_ne h]
    · rw [wreadFrom_named hm, find?_of_mem_nodup hn h]
    · rw [wreadFrom_named hm, find?_of_mem_nodup hn h]

theorem gwrite_acts {s : State} {v : Vals} {pr : Pred} {r : BitVec 6} (h : Acts s (.gwrite pr r) v) :
    exec (.gwrite pr r) s = .next (s.fired (s.onInst fun x => x.recordG r (.scalar v.a.bits))) := by
  show execGwrite pr r s = _
  exact fire_fires h rfl

theorem wwrite_acts {s : State} {v : Vals} {pr : Pred} {r : BitVec 4} (h : Acts s (.wwrite pr r) v) :
    exec (.wwrite pr r) s = .next (s.fired (s.onInst fun x => x.recordW r (.wide v.a.wbits))) := by
  show execWwrite pr r s = _
  exact fire_fires h rfl

/-- Settles O9: both are the firing rule with the recording as their action. -/
theorem registerWrites : Obligations.RegisterWrites := fun _ _ _ => ⟨fun _ h => gwrite_acts h, fun _ h => wwrite_acts h⟩

/-! ### Constants and moves (04 R89 to R92) -/

/-- A shift by 16 leaves room for 16 bits, so that putting them there is a sum. -/
theorem toNat_appc (a : Word) (imm : BitVec 16) : ((a <<< 16) ||| imm.setWidth 64).toNat = a.toNat * 2 ^ 16 % 2 ^ 64 + imm.toNat := by
  have hi := imm.isLt
  have ha : a.toNat * 2 ^ 16 % 2 ^ 64 = a.toNat % 2 ^ 48 * 2 ^ 16 := Nat.mul_mod_mul_right (2 ^ 16) a.toNat (2 ^ 48)
  have hi' : (imm.setWidth 64).toNat = imm.toNat := BitVec.toNat_setWidth_of_le (by decide)
  rw [BitVec.toNat_or, BitVec.toNat_shiftLeft, Nat.shiftLeft_eq, ha, hi', ← Nat.shiftLeft_eq, Nat.shiftLeft_add_eq_or_of_lt hi]

theorem constants_deliver (s : State) (v : Vals) (imm : BitVec 16) (t : Tgt) :
    (Acts s (.gens imm t) v → DeliversS s (.gens imm t) fun r => r.toInt = imm.toInt)
      ∧ (Acts s (.genu imm t) v → DeliversS s (.genu imm t) fun r => r.toNat = imm.toNat)
      ∧ (Acts s (.appc imm t) v → DeliversS s (.appc imm t) fun r => r.toNat = (v.a.bits.toNat * 2 ^ 16) % 2 ^ 64 + imm.toNat) :=
  ⟨fun h => delivers (f := fun _ => imm.signExtend 64) h rfl (BitVec.toInt_signExtend_of_le (by decide)),
    fun h => delivers (f := fun _ => imm.setWidth 64) h rfl (BitVec.toNat_setWidth_of_le (by decide)),
    fun h => delivers (f := fun v => (v.a.bits <<< 16) ||| imm.setWidth 64) h rfl (toNat_appc v.a.bits imm)⟩

section
variable {s : State} {v : Vals} {pr : Pred}

theorem mov_acts {d : Dst} (h : Acts s (.mov pr d) v) : exec (.mov pr d) s = .next (s.fired (s.deliver (.mov pr d) v.a)) := by
  show execMov pr d s = _
  exact fire_fires h rfl

theorem nop_acts (h : Acts s (.nop pr) v) : exec (.nop pr) s = .next (s.fired s) := by
  show execNop pr s = _
  exact fire_fires h rfl

theorem null_acts {d : Dst} (h : Acts s (.null pr d) v) : exec (.null pr d) s = .next (s.fired (s.deliver (.null pr d) .null)) := by
  show execNull pr d s = _
  exact fire_fires h rfl

end

/-- Settles O10: each is the firing rule with its constant or its token. -/
theorem constantsAndMoves : Obligations.ConstantsAndMoves :=
  ⟨⟨fun imm t s v => (constants_deliver s v imm t).1, fun imm t s v => (constants_deliver s v imm t).2.1,
      fun imm t s v => (constants_deliver s v imm t).2.2, fun _ _ => ⟨rfl, rfl, rfl⟩⟩,
    fun _ _ _ => ⟨fun _ h => mov_acts h,
      fun imm _ h => delivers (f := fun _ => imm.signExtend 64) h rfl (BitVec.toInt_signExtend_of_le (by decide)),
      fun h => nop_acts h, fun _ h => null_acts h, fun _ => ⟨rfl, rfl⟩, rfl, rfl⟩⟩

end Sys2Proof.RegistersAndMoves
end

section
/-! Words of the encoding tables, immediate forms and address arithmetic (02 R34 to R41; 04 R94, R99). -/

namespace Sys2Proof.ImmediateForms

-- One proof at a time: proofs checked side by side take each a stack of memory.
set_option Elab.async false

open Sys2Proof.Machine Sys2Proof.ScalarInteger

/-- Settles O3: each word evaluates. -/
theorem knownWords : Obligations.KnownWords :=
  ⟨rfl, rfl, rfl, rfl, rfl, rfl, rfl, rfl, rfl, rfl⟩

/-- Six immediate bits are the sign-extended immediate modulo 64. -/
theorem shamt_signExtend (imm : BitVec 10) : shamt (imm.signExtend 64) = imm.toNat % 64 := by
  have hlow : (imm.signExtend 64).setWidth 6 = imm.setWidth 6 := by
    ext j hj
    have hj10 : j < 10 := by omega
    have hj64 : j < 64 := by omega
    rw [BitVec.getElem_setWidth, BitVec.getElem_setWidth, BitVec.getLsbD_signExtend]
    simp [hj10, hj64]
  have hn := congrArg BitVec.toNat hlow
  simpa [BitVec.toNat_setWidth, shamt] using hn

section
variable (pr : Pred) (imm : BitVec 10) (t : Tgt) (s : State)

theorem exec_shli : exec (.shli pr imm t) s = fireS s (.shli pr imm t) fun v => v.a.bits <<< shamt (imm.signExtend 64) := by
  rw [shamt_signExtend]; rfl

theorem exec_shri : exec (.shri pr imm t) s = fireS s (.shri pr imm t) fun v => v.a.bits >>> shamt (imm.signExtend 64) := by
  rw [shamt_signExtend]; rfl

theorem exec_srai : exec (.srai pr imm t) s = fireS s (.srai pr imm t) fun v => v.a.bits.sshiftRight (shamt (imm.signExtend 64)) := by
  rw [shamt_signExtend]; rfl

end

theorem toNat_lea (a b : Word) (sh : BitVec 2) : (a + (b <<< sh.toNat)).toNat = (a.toNat + b.toNat * 2 ^ sh.toNat) % 2 ^ 64 := by
  rw [BitVec.toNat_add, BitVec.toNat_shiftLeft, Nat.shiftLeft_eq, Nat.add_mod_mod]

/-- A shift left of a sign-extended immediate is a product of signed numbers. -/
theorem leai_eq_ofInt (a : Word) (imm : BitVec 10) (sh : BitVec 2) :
    a + (imm.signExtend 64 <<< sh.toNat) = BitVec.ofInt 64 (a.toInt + imm.toInt * 2 ^ sh.toNat) := by
  have hi : imm.signExtend 64 = BitVec.ofInt 64 imm.toInt := by
    apply BitVec.eq_of_toInt_eq
    rw [BitVec.toInt_signExtend_of_le (by decide), ← BitVec.toInt_signExtend_of_le (v := 64) (by decide), BitVec.ofInt_toInt]
  have hp : (2 : Int) ^ sh.toNat = ((2 ^ sh.toNat : Nat) : Int) := by norm_cast
  rw [BitVec.ofInt_add, BitVec.ofInt_toInt, BitVec.ofInt_mul, ← hi, hp, BitVec.ofInt_natCast, BitVec.shiftLeft_eq_mul_twoPow]
  congr 2
  exact BitVec.eq_of_toNat_eq (by rw [BitVec.toNat_twoPow, BitVec.toNat_ofNat])

theorem illegalXop_0x11 : IllegalXop 0x11 [8, 9, 10, 11, 12, 13, 14, 15] := by
  refine illegalXop_of_dec (dec := decOp11) (fun w h => by simp only [decodeWord, h]) fun w hx => ?_
  simp only [List.mem_cons, List.not_mem_nil, or_false] at hx
  simp (disch := omega) only [decOp11, if_neg]

theorem illegalXop_0x17 : IllegalXop 0x17 [4, 5, 6, 7, 8, 9, 10, 11, 12, 13, 14, 15] := by
  refine illegalXop_of_dec (dec := decOp17) (fun w h => by simp only [decodeWord, h]) fun w hx => ?_
  simp only [List.mem_cons, List.not_mem_nil, or_false] at hx
  have hne : fld w 21 2 ≠ 0 := by
    simp only [fld] at hx ⊢
    omega
  exact if_neg hne

theorem illegalXop_0x1A : IllegalXop 0x1A [4, 5, 6, 7, 8, 9, 10, 11, 12, 13, 14, 15] := by
  refine illegalXop_of_dec (dec := decOp1a) (fun w h => by simp only [decodeWord, h]) fun w hx => ?_
  simp only [List.mem_cons, List.not_mem_nil, or_false] at hx
  have hne : fld w 21 2 ≠ 0 := by
    simp only [fld] at hx ⊢
    omega
  exact if_neg hne

/-- Settles O12: the register forms' functions on the sign-extended immediate, and the shifted sums. -/
theorem immediatesAndAddresses : Obligations.ImmediatesAndAddresses :=
  ⟨⟨computesImm (· + ·) (fun _ _ _ _ => rfl) fun _ _ => rfl, computesImm (· - ·) (fun _ _ _ _ => rfl) fun _ _ => rfl,
      computesImm (· &&& ·) (fun _ _ _ _ => rfl) fun _ _ => rfl, computesImm (· ||| ·) (fun _ _ _ _ => rfl) fun _ _ => rfl,
      computesImm (· ^^^ ·) (fun _ _ _ _ => rfl) fun _ _ => rfl,
      computesImm (fun a m => a <<< shamt m) exec_shli toNat_shl_shamt,
      computesImm (fun a m => a >>> shamt m) exec_shri toNat_shr_shamt,
      computesImm (fun a m => a.sshiftRight (shamt m)) exec_srai toInt_sra_shamt, illegalXop_0x11⟩,
    fun _ sh _ _ v hv => delivers (f := fun v => v.a.bits + (v.b.bits <<< sh.toNat)) hv rfl (toNat_lea v.a.bits v.b.bits sh),
    fun _ sh imm _ _ v hv => delivers (f := fun v => v.a.bits + (imm.signExtend 64 <<< sh.toNat)) hv rfl (leai_eq_ofInt v.a.bits imm sh),
    illegalXop_0x17, illegalXop_0x1A⟩

end Sys2Proof.ImmediateForms
end

section
/-! Scalar floating point (04 R101 to R109; 03 R73, R77): completion, special cases, rounding, conversions, compares. -/

namespace Sys2Proof.ScalarFloats

-- One proof at a time: proofs checked side by side take each a stack of memory.
set_option Elab.async false

open Sys2Proof.Machine

/-! ### Arithmetic (04 R101 to R104) -/

/-- A magnitude below a format's sign bit, with a sign put on it: the sign, the magnitude and the range of the code. -/
theorem withSign_spec (f : FloatFmt) (neg : Bool) {mag : Nat} (h : mag < 2 ^ (f.eb + f.mb)) :
    f.signOf (f.withSign neg mag) = neg ∧ f.withSign neg mag % 2 ^ (f.eb + f.mb) = mag ∧ f.withSign neg mag < 2 ^ f.bits := by
  have hb : 2 ^ f.bits = 2 * 2 ^ (f.eb + f.mb) := by rw [FloatFmt.bits, Nat.add_assoc, pow_add, pow_one]
  rw [hb]
  generalize hp : 2 ^ (f.eb + f.mb) = p at h ⊢
  cases neg
  · simp only [FloatFmt.signOf, FloatFmt.withSign, hp, Bool.false_eq_true, if_false, Nat.div_eq_of_lt h, Nat.mod_eq_of_lt h]
    exact ⟨by decide, trivial, by omega⟩
  · have hdiv : (p + mag) / p = 1 := by
      rw [Nat.add_div_left _ (by omega), Nat.div_eq_of_lt h]
    simp only [FloatFmt.signOf, FloatFmt.withSign, hp, if_true, hdiv, Nat.add_mod_left, Nat.mod_eq_of_lt h]
    exact ⟨by decide, trivial, by omega⟩

theorem ftyFmt_bits_le (y : FTy) : (ftyFmt y).bits ≤ 64 := by
  cases y <;> decide

/-- FSGN's word has the sign of b and the magnitude bits of a (04 R103). -/
theorem fsgn_spec (y : FTy) (a b : Word) :
    let f := ftyFmt y
    let r := w64 (f.withSign (f.signOf b.toNat) (a.toNat % 2 ^ (f.eb + f.mb)))
    f.signOf r.toNat = f.signOf b.toNat ∧ r.toNat % 2 ^ (f.eb + f.mb) = a.toNat % 2 ^ (f.eb + f.mb) ∧ r.toNat < 2 ^ f.bits := by
  intro f r
  obtain ⟨hs, hm, hlt⟩ := withSign_spec f (f.signOf b.toNat) (Nat.mod_lt a.toNat (Nat.two_pow_pos (f.eb + f.mb)))
  have hr : r.toNat = f.withSign (f.signOf b.toNat) (a.toNat % 2 ^ (f.eb + f.mb)) := by
    rw [show r = w64 _ from rfl, w64, BitVec.toNat_ofNat]
    exact Nat.mod_eq_of_lt (hlt.trans_le (Nat.pow_le_pow_right (by decide) (ftyFmt_bits_le y)))
  rw [hr]
  exact ⟨hs, hm, hlt⟩

/-- From the meaning as a scalar computation with flags to what it gives. -/
theorem givesSF {s : State} {i : Instr} {v : Vals} {f : Vals → Word × Flags} (h : Acts s i v) (he : exec i s = fireSF s i f) :
    GivesSF s i (f v) := he.trans (fireSF_acts h f)

/-- Settles O17: each is the firing rule with its exact operation. -/
theorem scalarFloat : Obligations.ScalarFloat := fun s v _ y _ =>
  ⟨fun h => givesSF (f := fun v => wr s y (addVal s.mode (rd s y v.a) (rd s y v.b))) h rfl,
    fun h => givesSF (f := fun v => wr s y (addVal s.mode (rd s y v.a) (rd s y v.b).negate)) h rfl,
    fun h => givesSF (f := fun v => wr s y (mulVal (rd s y v.a) (rd s y v.b))) h rfl,
    fun h => givesSF (f := fun v => wr s y (divVal (rd s y v.a) (rd s y v.b))) h rfl,
    fun h => givesSF (f := fun v => wr s y (minVal (rd s y v.a) (rd s y v.b))) h rfl,
    fun h => givesSF (f := fun v => wr s y (maxVal (rd s y v.a) (rd s y v.b))) h rfl,
    fun h => givesSF (f := fun v => wr s y (sqrtVal (rd s y v.a))) h rfl,
    fun h => givesSF (f := fun v => wr s y (fmaVal s.mode (rd s y v.a) (rd s y v.b) (rd s y v.c))) h rfl,
    fun h => givesSF (f := fun v => wr s y (fmaVal s.mode (rd s y v.a) (rd s y v.b) (rd s y v.c).negate)) h rfl,
    fun h => givesSF (f := fun v => wr s y (fmaVal s.mode (rd s y v.a).negate (rd s y v.b) (rd s y v.c))) h rfl,
    fun h => givesSF (f := fun v => wr s y (fmaVal s.mode (rd s y v.a).negate (rd s y v.b) (rd s y v.c).negate)) h rfl,
    fun h => delivers (f := fun v => w64 ((ftyFmt y).withSign ((ftyFmt y).signOf v.b.bits.toNat) (v.a.bits.toNat % 2 ^ ((ftyFmt y).eb + (ftyFmt y).mb))))
      h rfl (fsgn_spec y v.a.bits v.b.bits)⟩

/-! ### Special cases (04 R102 to R104) -/

theorem addVal_snan_right (md : Mode) (y : Val) : (addVal md y (.nan true)).2 = fNV := by
  cases y with
  | nan q => cases q <;> rfl
  | _ => rfl

/-- Two opposite finite values sum to a zero whose sign the mode gives. -/
theorem addVal_cancel (md : Mode) (n : Bool) (m : Nat) (e : Int) :
    addVal md (.fin n m e) (.fin (!n) m e) = (.zero (decide (md = .rdn)), 0#5) := by
  cases n <;> simp [addVal, addFin]

/-- The number stands against the quiet NaN, without a flag. -/
theorem minMax_quiet {x : Val} (h : x.isNan = false) :
    minVal (.nan false) x = (x, 0#5) ∧ minVal x (.nan false) = (x, 0#5) ∧ maxVal (.nan false) x = (x, 0#5) ∧ maxVal x (.nan false) = (x, 0#5) := by
  cases x with
  | nan q => exact absurd h (by simp [Val.isNan])
  | _ => exact ⟨rfl, rfl, rfl, rfl⟩

/-- Zero times infinity is invalid, whatever is added. -/
theorem fmaVal_zero_inf (md : Mode) (z : Val) : fmaVal md (.zero false) (.inf false) z = (.nan false, fNV) := by
  have ha : addVal md (.nan false) z = (.nan false, flagIf z.isSnan fNV) := rfl
  have hf : ∀ b, fNV ||| flagIf b fNV = fNV := by decide
  show ((addVal md (.nan false) z).1, fNV ||| (addVal md (.nan false) z).2) = _
  rw [ha, hf]

/-! ### Rounding (03 R73) -/

/-- What is lost when a multiple of a place is cut there. -/
theorem roundShift_inexact (md : Mode) (neg : Bool) (m s : Nat) : (roundShift md neg m s).2 = decide (m % 2 ^ s ≠ 0) := rfl

/-- The magnitude rounded away from zero where a remainder is lost. -/
theorem roundShift_away (m s : Nat) : (if decide (m % 2 ^ s ≠ 0) then m / 2 ^ s + 1 else m / 2 ^ s) = (m + 2 ^ s - 1) / 2 ^ s := by
  have hp := Nat.two_pow_pos s
  have hm := Nat.div_add_mod m (2 ^ s)
  have hr := Nat.mod_lt m hp
  symm
  by_cases h : m % 2 ^ s = 0
  · simp only [h, ne_eq, not_true_eq_false, decide_false, Bool.false_eq_true, if_false]
    refine Nat.div_eq_of_lt_le ?_ ?_
    · rw [Nat.mul_comm]; omega
    · rw [Nat.mul_comm, Nat.mul_succ]; omega
  · simp only [h, ne_eq, not_false_eq_true, decide_true, if_true]
    refine Nat.div_eq_of_lt_le ?_ ?_
    · rw [Nat.mul_comm, Nat.mul_succ]; omega
    · rw [Nat.mul_comm, Nat.mul_succ, Nat.mul_succ]; omega

/-- To nearest: at most half a place off, and even on a tie. -/
theorem roundShift_rne (neg : Bool) (m s : Nat) :
    let r := roundShift .rne neg m s
    2 * (r.1 * 2 ^ s) ≤ 2 * m + 2 ^ s ∧ 2 * m ≤ 2 * (r.1 * 2 ^ s) + 2 ^ s ∧ (2 * (m % 2 ^ s) = 2 ^ s → r.1 % 2 = 0) := by
  have hm := Nat.div_add_mod m (2 ^ s)
  have hr := Nat.mod_lt m (Nat.two_pow_pos s)
  simp only [roundShift]
  generalize 2 ^ s = p at *
  generalize m % p = r at *
  generalize m / p = q at *
  split
  case isTrue h =>
    have hup : 2 * r > p ∨ (2 * r = p ∧ q % 2 = 1) := by simpa using h
    rw [Nat.mul_comm (q + 1), Nat.mul_succ]
    omega
  case isFalse h =>
    have hdn : ¬(2 * r > p ∨ (2 * r = p ∧ q % 2 = 1)) := by simpa using h
    rw [Nat.mul_comm q]
    omega

/-- Settles O18: the operations evaluate on the special values; rounding by quotient and remainder of the place. -/
theorem floatSpecialCasesAndRounding : Obligations.FloatSpecialCasesAndRounding := by
  refine ⟨⟨fun _ _ _ _ => rfl, fun _ _ => ⟨rfl, rfl⟩, fun _ a => ?_, fun _ _ => ⟨rfl, rfl⟩, fun md y => ⟨rfl, addVal_snan_right md y, rfl, rfl, rfl⟩,
    addVal_cancel, fun _ => rfl, rfl, rfl, fun _ _ => rfl, fun _ h => minMax_quiet h, rfl, rfl, fmaVal_zero_inf⟩, fun neg m s =>
    ⟨roundShift_rne neg m s, rfl, rfl, rfl, ?_, ?_, fun md => roundShift_inexact md neg m s⟩⟩
  · cases a <;> rfl
  · simpa [roundShift] using roundShift_away m s
  · simpa [roundShift] using roundShift_away m s

end Sys2Proof.ScalarFloats
end

section
/-! Scalar conversions and compares (04 R105 to R109; 03 R77): draws, the ends of the range of FTOI, the class word. -/

namespace Sys2Proof.ScalarConversions

-- One proof at a time: proofs checked side by side take each a stack of memory.
set_option Elab.async false

open Sys2Proof.Machine Sys2Proof.ScalarFloats

/-! ### FCVT (04 R105) -/

section
variable {s : State} {v : Vals} {pr : Pred} {y z : FTy} {d : Dst}

theorem fcvt_plain (h : Acts s (.fcvt pr y z d) v) (hn : s.isSto = false ∨ ftySig z ≤ ftySig y) :
    GivesSF s (.fcvt pr y z d) (fcvtWord s s.mode y z v.a) := by
  have hc : (s.isSto && decide (ftySig y < ftySig z)) = false := by
    rcases hn with hn | hn
    · simp [hn]
    · simp [Nat.not_lt.mpr hn]
  show execFcvt pr y z d s = _
  unfold execFcvt
  exact fire_fires h (by simp only [hc, Bool.false_eq_true, if_false])

theorem fcvt_stochastic (h : Acts s (.fcvt pr y z d) v) (hs : s.isSto = true) (hn : ftySig y < ftySig z) :
    exec (.fcvt pr y z d) s = .next (s.fired (((s.advanceGen 1).raise (fcvtWord s (.sto (genDraw (s.genState 1))) y z v.a).2).deliverS (.fcvt pr y z d)
      (fcvtWord s (.sto (genDraw (s.genState 1))) y z v.a).1)) := by
  have hc : (s.isSto && decide (ftySig y < ftySig z)) = true := by simp [hs, hn]
  show execFcvt pr y z d s = _
  unfold execFcvt
  exact fire_fires h (by simp only [hc, if_true])

end

/-! ### FTOI at the ends of its range (04 R106) -/

/-- The bounds of FTOI's range. -/
theorem ftoiWord_eq (sgn : Bool) (md : Mode) (v : Val) :
    ftoiWord sgn md v = (BitVec.ofInt 64 (toIntVal md (if sgn then -(2 ^ 63) else 0) (if sgn then 2 ^ 63 - 1 else 2 ^ 64 - 1) v).1,
      (toIntVal md (if sgn then -(2 ^ 63) else 0) (if sgn then 2 ^ 63 - 1 else 2 ^ 64 - 1) v).2) := rfl

/-- An integer times a power of two that is not negative is rounded without loss. -/
theorem roundInt_of_nonneg (md : Mode) (neg : Bool) (m : Nat) {e : Int} (he : 0 ≤ e) :
    roundInt md neg m e = (if neg then -((m * 2 ^ e.toNat : Nat) : Int) else ((m * 2 ^ e.toNat : Nat) : Int), false) := by
  simp only [roundInt, roundAt, if_pos he, Int.sub_zero]

/-- A finite value beyond both ends of a range saturates with nv alone. -/
theorem toIntVal_outside {md : Mode} {lo hi : Int} {neg : Bool} {m : Nat} {e : Int}
    (h : hi < (roundInt md neg m e).1 ∨ (roundInt md neg m e).1 < lo) : (toIntVal md lo hi (.fin neg m e)).2 = fNV := by
  simp only [toIntVal]
  split
  · rfl
  · next hh => rw [if_pos (h.resolve_left hh)]

theorem ftoiWord_large (md : Mode) (neg : Bool) {m : Nat} {e : Int} (sgn : Bool) (he : 64 ≤ e) (hm : 0 < m) :
    (ftoiWord sgn md (.fin neg m e)).2 = fNV := by
  rw [ftoiWord_eq]
  refine toIntVal_outside ?_
  rw [roundInt_of_nonneg md neg m (by omega)]
  have hpow : 2 ^ 64 ≤ m * 2 ^ e.toNat :=
    (Nat.pow_le_pow_right (by decide) (by omega)).trans (Nat.le_mul_of_pos_left _ hm)
  generalize m * 2 ^ e.toNat = n at hpow
  cases neg <;> cases sgn <;> simp only [Bool.false_eq_true, if_false, if_true] <;> omega

/-- A whole number that is not negative is in the signed range below 2^63. -/
theorem ftoiWord_whole (md : Mode) (m : Nat) : (ftoiWord true md (.fin false m 0)).2 = if m < 2 ^ 63 then 0#5 else fNV := by
  rw [ftoiWord_eq]
  simp only [toIntVal, roundInt_of_nonneg md false m (le_refl 0), Bool.false_eq_true, if_false, if_true, Int.toNat_zero, pow_zero, Nat.mul_one]
  split
  · rw [if_neg (by omega)]
  · next h =>
    rw [if_neg (by omega), if_pos (by omega)]
    rfl

/-- A negative whole number is below the unsigned range. -/
theorem ftoiWord_negative (md : Mode) {m : Nat} (hm : 0 < m) : ftoiWord false md (.fin true m 0) = (0, fNV) := by
  rw [ftoiWord_eq]
  simp only [toIntVal, roundInt_of_nonneg md true m (le_refl 0), Bool.false_eq_true, if_false, if_true, Int.toNat_zero, pow_zero, Nat.mul_one]
  rw [if_neg (by omega), if_pos (by omega)]
  rfl

/-- Settles O19: the two branches of FCVT, the rounding of FTOI and ITOF, and FTOI's range. -/
theorem scalarConversions : Obligations.ScalarConversions := by
  refine ⟨fun s v pr y z d sgn tr => ⟨fun h hn => fcvt_plain h hn, fun h hs hn => fcvt_stochastic h hs hn,
      fun h => givesSF (f := fun v => ftoiWord sgn (if tr then .rtz else s.mode) (rd s y v.a)) h rfl,
      fun h => givesSF (f := fun v => wr s y (Val.ofInt (if sgn then v.a.bits.toInt else (v.a.bits.toNat : Int)) 0, 0#5)) h rfl⟩,
    fun md => ⟨fun _ _ => rfl, rfl, rfl, rfl, rfl, fun n _ _ sg he hm => ftoiWord_large md n sg he hm, ftoiWord_whole md,
      fun _ hm => ftoiWord_negative md hm⟩⟩

/-! ### Compares and the class word (04 R108, R109) -/

/-- A compare with a NaN as its first operand. -/
theorem cmpVal_nan (c : Val → Val → Bool) {x : Val} (h : x.isNan = false) :
    cmpVal true c (.nan false) x = (0, 0#5) ∧ cmpVal true c (.nan true) x = (0, fNV) ∧ cmpVal false c (.nan false) x = (0, fNV) := by
  cases x with
  | nan q => exact absurd h (by simp [Val.isNan])
  | _ => exact ⟨rfl, rfl, rfl⟩

/-- The bit of the class word that stands for a value. -/
def classBit (f : FloatFmt) : Val → Nat
  | .inf true => 0
  | .fin true m e => if f.isSubnormal (.fin true m e) then 2 else 1
  | .zero true => 3
  | .zero false => 4
  | .fin false m e => if f.isSubnormal (.fin false m e) then 5 else 6
  | .inf false => 7
  | .nan true => 8
  | .nan false => 9

theorem classBit_lt (f : FloatFmt) (v : Val) : classBit f v < 10 := by
  unfold classBit
  split <;> first | decide | (split <;> decide)

theorem classWord_eq (f : FloatFmt) (x : Nat) : classWord f x = 1#64 <<< classBit f (f.decode x) := by
  unfold classWord classBit
  rcases f.decode x with (_ | _) | ⟨_ | _, m, e⟩ | (_ | _) | (_ | _)
  case fin.false => dsimp only; split <;> rfl
  case fin.true => dsimp only; split <;> rfl
  all_goals rfl

theorem fclass_spec (y : FTy) (a : Word) :
    ∃ k < 10, classWord (ftyFmt y) a.toNat = 1#64 <<< k ∧
      (match (ftyFmt y).decode a.toNat with
        | .inf true => k = 0
        | .fin true m e => k = if (ftyFmt y).isSubnormal (.fin true m e) then 2 else 1
        | .zero true => k = 3
        | .zero false => k = 4
        | .fin false m e => k = if (ftyFmt y).isSubnormal (.fin false m e) then 5 else 6
        | .inf false => k = 7
        | .nan true => k = 8
        | .nan false => k = 9) := by
  refine ⟨classBit (ftyFmt y) ((ftyFmt y).decode a.toNat), classBit_lt _ _, classWord_eq _ _, ?_⟩
  rcases (ftyFmt y).decode a.toNat with (_ | _) | ⟨_ | _, m, e⟩ | (_ | _) | (_ | _) <;> rfl

/-- Settles O20: each compare is the firing rule with its test, and the class word is the bit of its value's class. -/
theorem floatCompares : Obligations.FloatCompares := fun s _ _ y _ =>
  ⟨fun h => givesSF (f := fun v => cmpVal true eqVal (rd s y v.a) (rd s y v.b)) h rfl,
    fun h => givesSF (f := fun v => cmpVal false ltVal (rd s y v.a) (rd s y v.b)) h rfl,
    fun h => givesSF (f := fun v => cmpVal false (fun p q => !ltVal q p) (rd s y v.a) (rd s y v.b)) h rfl,
    fun _ _ => ⟨rfl, rfl⟩, fun c _ h => cmpVal_nan c h,
    fun h => delivers (f := fun v => classWord (ftyFmt y) v.a.bits.toNat) h rfl (fclass_spec y _)⟩

end Sys2Proof.ScalarConversions
end

section
/-! Wide compares, selection, lane movement and floating point, lane by lane (05 R121, R124 to R129). -/

namespace Sys2Proof.WideLanes

-- One proof at a time: proofs checked side by side take each a stack of memory.
set_option Elab.async false

open Sys2Proof.Machine Sys2Proof.WideInteger

/-! ### Lanes -/

theorem lane_lt (e : Nat) (v : Wide) (j : Nat) : lane e v j < 2 ^ e := Nat.mod_lt _ (Nat.two_pow_pos e)

theorem lanesNat_length (e n v : Nat) : (lanesNat e n v).length = n := by
  induction n generalizing v with
  | zero => rfl
  | succ n ih => simp [lanesNat, ih]

theorem lanesOf_length (e : Nat) (v : Wide) : (lanesOf e v).length = 512 / e := lanesNat_length _ _ _

theorem lanesOf_eq (e : Nat) (v : Wide) : lanesOf e v = (List.range (512 / e)).map (lane e v) := by
  refine List.ext_getElem? fun j => ?_
  by_cases hj : j < 512 / e
  · rw [getElem?_lanesOf hj, List.getElem?_map, List.getElem?_range hj, Option.map_some]
  · rw [List.getElem?_eq_none (by rw [lanesOf_length]; omega), List.getElem?_eq_none (by simp; omega)]

theorem shape_bits_le (sh : Shape) : Shape.bits sh ≤ 64 := by cases sh <;> decide

theorem shape_lanes_pos (sh : Shape) : 0 < 512 / Shape.bits sh := by cases sh <;> decide

/-- A lane of a packed list whose entry fits the lane. -/
theorem lane_packWide_of_lt {e j x : Nat} (hj : j < 512 / e) {xs : List Nat} (hx : xs[j]? = some x) (hlt : x < 2 ^ e) :
    lane e (packWide e xs) j = x := by
  rw [lane_packWide hj hx, Nat.mod_eq_of_lt hlt]

theorem maskLane_lt (e : Nat) (c : Bool) : maskLane e c < 2 ^ e := by
  have := Nat.two_pow_pos e
  cases c <;> simp [maskLane]

/-! ### Compare and select (05 R126, R127) -/

/-- A lane of VCMP's result. -/
theorem lane_vcmp (cond : VCond) (e : Nat) (a b : Wide) {j : Nat} (hj : j < 512 / e) :
    lane e (mapLanes2 e (fun x y => maskLane e (vcondHolds cond e x y)) a b) j = maskLane e (vcondHolds cond e (lane e a j) (lane e b j)) := by
  rw [lane_mapLanes2 hj, Nat.mod_eq_of_lt (maskLane_lt _ _)]

/-- The mask of a decided condition. -/
theorem maskLane_decide (e : Nat) (p : Prop) [Decidable p] : maskLane e (decide p) = if p then 2 ^ e - 1 else 0 := by
  simp [maskLane]

section
variable {pr : Pred} {sh : Shape} {d : Dst} {s : State} {v : Vals}

/-- VCMP delivers, in each lane, the mask of its condition. -/
theorem vcmp_delivers {cond : VCond} {c : Nat → Nat → Prop} [∀ x y, Decidable (c x y)]
    (hc : ∀ x y, vcondHolds cond (Shape.bits sh) x y = decide (c x y)) (h : Acts s (.vcmp pr sh cond d) v) :
    DeliversW s (.vcmp pr sh cond d) fun r => ∀ j < 512 / Shape.bits sh, lane (Shape.bits sh) r j =
      if c (lane (Shape.bits sh) v.a.wbits j) (lane (Shape.bits sh) v.b.wbits j) then 2 ^ Shape.bits sh - 1 else 0 := by
  refine deliversW (f := fun v => mapLanes2 (Shape.bits sh) (fun x y => maskLane (Shape.bits sh) (vcondHolds cond (Shape.bits sh) x y)) v.a.wbits v.b.wbits)
    h rfl fun j hj => ?_
  rw [lane_vcmp cond _ _ _ hj, hc, maskLane_decide]

theorem vsel_delivers (h : Acts s (.vsel pr sh d) v) :
    DeliversW s (.vsel pr sh d) fun r => ∀ j < 512 / Shape.bits sh, lane (Shape.bits sh) r j =
      if lane (Shape.bits sh) v.c.wbits j ≠ 0 then lane (Shape.bits sh) v.a.wbits j else lane (Shape.bits sh) v.b.wbits j := by
  refine deliversW (f := fun v => packWide (Shape.bits sh)
      (List.zipWith (fun (ab : Nat × Nat) (m : Nat) => if m ≠ 0 then ab.1 else ab.2)
        (List.zip (lanesOf (Shape.bits sh) v.a.wbits) (lanesOf (Shape.bits sh) v.b.wbits))
        (lanesOf (Shape.bits sh) v.c.wbits))) h rfl fun j hj => ?_
  have hz : (List.zip (lanesOf (Shape.bits sh) v.a.wbits) (lanesOf (Shape.bits sh) v.b.wbits))[j]?
      = some (lane (Shape.bits sh) v.a.wbits j, lane (Shape.bits sh) v.b.wbits j) :=
    List.getElem?_zip_eq_some.mpr ⟨getElem?_lanesOf hj v.a.wbits, getElem?_lanesOf hj v.b.wbits⟩
  refine lane_packWide_of_lt hj ?_ ?_
  · rw [List.getElem?_zipWith, hz, getElem?_lanesOf hj]
  · split <;> exact lane_lt _ _ _

/-! ### Lane movement (05 R128, R129) -/

theorem vbcast_delivers (h : Acts s (.vbcast pr sh d) v) :
    DeliversW s (.vbcast pr sh d) fun r => ∀ j < 512 / Shape.bits sh, lane (Shape.bits sh) r j = v.a.bits.toNat % 2 ^ Shape.bits sh := by
  refine deliversW (f := fun v => packWide (Shape.bits sh) (List.replicate (512 / Shape.bits sh) (v.a.bits.toNat % 2 ^ Shape.bits sh))) h rfl
    fun j hj => ?_
  refine lane_packWide_of_lt hj ?_ (Nat.mod_lt _ (Nat.two_pow_pos _))
  rw [List.getElem?_replicate, if_pos hj]

theorem vextr_delivers (h : Acts s (.vextr pr sh d) v) :
    DeliversS s (.vextr pr sh d) fun r => r.toNat = lane (Shape.bits sh) v.a.wbits (v.b.bits.toNat % (512 / Shape.bits sh)) := by
  refine delivers (f := fun v => w64 (((lanesOf (Shape.bits sh) v.a.wbits)[v.b.bits.toNat % (512 / Shape.bits sh)]?).getD 0)) h rfl ?_
  rw [getElem?_lanesOf (Nat.mod_lt _ (shape_lanes_pos sh)), Option.getD_some, w64, BitVec.toNat_ofNat]
  exact Nat.mod_eq_of_lt ((lane_lt _ _ _).trans_le (Nat.pow_le_pow_right (by decide) (shape_bits_le sh)))

theorem vins_delivers (h : Acts s (.vins pr sh d) v) :
    DeliversW s (.vins pr sh d) fun r => ∀ j < 512 / Shape.bits sh, lane (Shape.bits sh) r j =
      if j = v.b.bits.toNat % (512 / Shape.bits sh) then v.c.bits.toNat % 2 ^ Shape.bits sh else lane (Shape.bits sh) v.a.wbits j := by
  refine deliversW (f := fun v => packWide (Shape.bits sh)
      ((lanesOf (Shape.bits sh) v.a.wbits).set (v.b.bits.toNat % (512 / Shape.bits sh)) (v.c.bits.toNat % 2 ^ Shape.bits sh))) h rfl fun j hj => ?_
  have hk := Nat.mod_lt v.b.bits.toNat (shape_lanes_pos sh)
  split
  · next he =>
    refine lane_packWide_of_lt hj ?_ (Nat.mod_lt _ (Nat.two_pow_pos _))
    rw [he, List.getElem?_set_self (by rw [lanesOf_length]; exact hk)]
  · next he =>
    refine lane_packWide_of_lt hj ?_ (lane_lt _ _ _)
    rw [List.getElem?_set_ne (Ne.symm he), getElem?_lanesOf hj]

theorem vshuf_delivers (h : Acts s (.vshuf pr sh d) v) :
    DeliversW s (.vshuf pr sh d) fun r => ∀ j < 512 / Shape.bits sh, lane (Shape.bits sh) r j =
      if 2 ^ (Shape.bits sh - 1) ≤ lane (Shape.bits sh) v.b.wbits j then 0
      else lane (Shape.bits sh) v.a.wbits (lane (Shape.bits sh) v.b.wbits j % (512 / Shape.bits sh)) := by
  refine deliversW (f := fun v => shuffle (Shape.bits sh) v.a.wbits v.b.wbits) h rfl fun j hj => ?_
  refine lane_packWide_of_lt hj ?_ ?_
  · rw [List.getElem?_map, getElem?_lanesOf hj, Option.map_some, getElem?_lanesOf (Nat.mod_lt _ (shape_lanes_pos sh)), Option.getD_some]
  · split
    · exact Nat.two_pow_pos _
    · exact lane_lt _ _ _

end

/-- Settles O24: the lane that each packed list holds at a place. -/
theorem wideCompareSelectMove : Obligations.WideCompareSelectMove :=
  ⟨fun _ sh _ _ _ => ⟨vcmp_delivers (c := fun x y => x = y) fun _ _ => rfl, vcmp_delivers (c := fun x y => x ≠ y) fun _ _ => rfl,
      vcmp_delivers (c := fun x y => sgnOf (Shape.bits sh) x < sgnOf (Shape.bits sh) y) fun _ _ => rfl,
      vcmp_delivers (c := fun x y => x < y) fun _ _ => rfl, vsel_delivers⟩,
    fun _ _ _ _ _ => ⟨vbcast_delivers, vextr_delivers, vins_delivers, vshuf_delivers⟩⟩

/-! ### Floating point (05 R121, R124 to R126) -/

/-- From the meaning as a wide computation with flags to what it gives. -/
theorem givesWF {s : State} {i : Instr} {v : Vals} {f : Vals → Wide × Flags} (h : Acts s i v) (he : exec i s = fireWF s i f) :
    GivesWF s i (f v) := he.trans (fireWF_acts h f)

/-- What has been ORed in stays in. -/
theorem and_foldl_or (xs : List (Nat × Flags)) (f : Flags) : f &&& xs.foldl (fun fl x => fl ||| x.2) f = f := by
  induction xs generalizing f with
  | nil => exact BitVec.and_self
  | cons x xs ih =>
    have hx := ih (f ||| x.2)
    rw [List.foldl_cons]
    generalize xs.foldl (fun fl x => fl ||| x.2) (f ||| x.2) = g at hx
    calc f &&& g = f &&& ((f ||| x.2) &&& g) := by ext k hk; simp; grind
      _ = f := by rw [hx]; ext k hk; simp; grind

/-- Every flag of an entry is in the OR of all. -/
theorem and_foldl_or_of_mem {xs : List (Nat × Flags)} {x : Nat × Flags} (h : x ∈ xs) (f : Flags) :
    x.2 &&& xs.foldl (fun fl x => fl ||| x.2) f = x.2 := by
  induction xs generalizing f with
  | nil => exact absurd h List.not_mem_nil
  | cons y ys ih =>
    rcases List.mem_cons.mp h with rfl | h
    · have hx := and_foldl_or ys (f ||| x.2)
      rw [List.foldl_cons]
      generalize ys.foldl (fun fl x => fl ||| x.2) (f ||| x.2) = g at hx
      calc x.2 &&& g = x.2 &&& ((f ||| x.2) &&& g) := by ext k hk; simp; grind
        _ = x.2 := by rw [hx]; ext k hk; simp; grind
    · exact ih h _

theorem packFl_lane {e j : Nat} (hj : j < 512 / e) {xs : List (Nat × Flags)} {r : Nat × Flags} (hx : xs[j]? = some r) :
    lane e (packFl e xs).1 j = r.1 % 2 ^ e ∧ r.2 &&& (packFl e xs).2 = r.2 := by
  constructor
  · exact lane_packWide hj (by rw [List.getElem?_map, hx, Option.map_some])
  · exact and_foldl_or_of_mem (List.mem_of_getElem? hx) _

theorem rdLanes_getElem? (s : State) (y : VTy) (t : Token) {j : Nat} (hj : j < 512 / vtyBits y) :
    (rdLanes s y t)[j]? = some ((vtyFmt y).read s.ftz (lane (vtyBits y) t.wbits j)) := by
  rw [rdLanes, List.getElem?_map, getElem?_lanesOf hj, Option.map_some]

/-- Settles O25: each family is the firing rule with its lanes packed, and an entry of the packed list is its lane. -/
theorem wideFloat : Obligations.WideFloat := by
  refine ⟨fun s v _ y _ cond => ⟨fun h => givesWF (f := vf2 s y fun a b => addVal s.mode a b) h rfl,
      fun h => givesWF (f := vf2 s y fun a b => addVal s.mode a b.negate) h rfl, fun h => givesWF (f := vf2 s y mulVal) h rfl,
      fun h => givesWF (f := vf2 s y divVal) h rfl, fun h => givesWF (f := vf2 s y minVal) h rfl, fun h => givesWF (f := vf2 s y maxVal) h rfl,
      fun h => givesWF (f := vf1 s y sqrtVal) h rfl, fun h => givesWF (f := vf1 s y rcpVal) h rfl, fun h => givesWF (f := vf1 s y rsqVal) h rfl,
      fun h => givesWF (f := fun v => packFl (vtyBits y) ((lanesOf (vtyBits y) v.a.wbits).map (expLogLane s y 0))) h rfl,
      fun h => givesWF (f := fun v => packFl (vtyBits y) ((lanesOf (vtyBits y) v.a.wbits).map (expLogLane s y 1))) h rfl,
      fun h => givesWF (f := vf3 s y false false) h rfl, fun h => givesWF (f := vf3 s y false true) h rfl,
      fun h => givesWF (f := vf3 s y true false) h rfl, fun h => givesWF (f := vf3 s y true true) h rfl,
      fun h => givesWF (f := fun v => packFl (vtyBits y)
        (List.zipWith (fun a b => (maskLane (vtyBits y) (vfcondHolds cond a b).1, (vfcondHolds cond a b).2)) (rdLanes s y v.a) (rdLanes s y v.b))) h rfl⟩,
    fun s y f v j hj => packFl_lane hj ?_⟩
  rw [List.getElem?_zipWith, rdLanes_getElem? s y _ hj, rdLanes_getElem? s y _ hj]

end Sys2Proof.WideLanes
end

section
/-! Controlled wide instructions (05 R122, R130 to R136). -/

namespace Sys2Proof.WideControls

-- One proof at a time: proofs checked side by side take each a stack of memory.
set_option Elab.async false

open Sys2Proof.Machine Sys2Proof.WideInteger Sys2Proof.WideLanes

section
variable {s : State} {v : Vals} {pr : Pred} {d : Dst}

/-! ### Completion -/

/-- Whether a VCVT under a control takes draws: it asks for stochastic rounding, or FPMODE does that it names, and it narrows (05 R130). -/
def vcvtSto (s : State) (c : Word) : Bool :=
  (decide (bitsOf c 5 3 = 4) || (decide (bitsOf c 5 3 = 7) && s.isSto)) && narrows (bitsOf c 8 5) (fmtPA (bitsOf c 0 5))

theorem vcvtSto_iff (s : State) (c : Word) :
    vcvtSto s c = true ↔ (bitsOf c 5 3 = 4 ∨ (bitsOf c 5 3 = 7 ∧ s.isSto = true)) ∧ narrows (bitsOf c 8 5) (fmtPA (bitsOf c 0 5)) = true := by
  simp [vcvtSto]

theorem vcvt_refused (h : Acts s (.vcvt pr d) v) (hc : vcvtOk v.b.bits = false) :
    exec (.vcvt pr d) s = .next (s.fired (s.deliverPoison (.vcvt pr d) .illop)) := by
  show execVcvt pr d s = _
  unfold execVcvt
  exact fire_fires h (by simp only [hc, Bool.false_eq_true, if_false])

theorem vcvt_accepted (h : Acts s (.vcvt pr d) v) (hc : vcvtOk v.b.bits = true) :
    exec (.vcvt pr d) s = .next (s.fired (((if vcvtSto s v.b.bits then s.advanceGen (bitsOf v.b.bits 48 9 + 1) else s).raise
      (vcvtWide s (vcvtSto s v.b.bits) v.a.wbits v.b.bits).2).deliverW (.vcvt pr d) (vcvtWide s (vcvtSto s v.b.bits) v.a.wbits v.b.bits).1)) := by
  show execVcvt pr d s = _
  unfold execVcvt
  exact fire_fires h (by simp only [hc, if_true]; rfl)

/-- Whether a VQNT under a control takes draws (05 R131). -/
def vqntSto (c : Word) : Bool := decide (bitsOf c 5 1 = 1) && narrows (bitsOf c 0 5) ((vtyFmt (styOf (bitsOf c 6 2))).mb + 1)

/-- The elements a VQNT quantises. -/
def vqntCount (c : Word) : Nat := (bitsOf c 8 3 + 1) * fmtBlock (bitsOf c 0 5)

/-- What a VQNT writes, with draws or without. -/
def vqntPut (s : State) (v : Vals) (sto : Bool) : Nat × Flags :=
  fmtPut (bitsOf v.b.bits 0 5) (vtyFmt (styOf (bitsOf v.b.bits 6 2))) false (modesOf sto .rne (s.genState (vqntCount v.b.bits)) (vqntCount v.b.bits))
    ((rdLanes s (styOf (bitsOf v.b.bits 6 2)) v.a ++ rdLanes s (styOf (bitsOf v.b.bits 6 2)) v.c).take (vqntCount v.b.bits))

theorem vqnt_refused (h : Acts s (.vqnt pr d) v) (hc : vqntOk v.b.bits = false) :
    exec (.vqnt pr d) s = .next (s.fired (s.deliverPoison (.vqnt pr d) .illop)) := by
  show execVqnt pr d s = _
  unfold execVqnt
  exact fire_fires h (by simp only [hc, Bool.false_eq_true, if_false])

theorem vqnt_accepted (h : Acts s (.vqnt pr d) v) (hc : vqntOk v.b.bits = true) :
    exec (.vqnt pr d) s = .next (s.fired (((if vqntSto v.b.bits then s.advanceGen (vqntCount v.b.bits) else s).raise
      (vqntPut s v (vqntSto v.b.bits)).2).deliverW (.vqnt pr d) (BitVec.ofNat 512 (vqntPut s v (vqntSto v.b.bits)).1))) := by
  show execVqnt pr d s = _
  unfold execVqnt
  exact fire_fires h (by simp only [hc, if_true]; rfl)

/-- A one-bit field is 0 or 1. -/
theorem bitsOf_one_eq_zero_or_one (c : Word) (lo : Nat) : bitsOf c lo 1 = 0 ∨ bitsOf c lo 1 = 1 := by
  have : bitsOf c lo 1 < 2 := Nat.mod_lt _ (by decide)
  omega

theorem vqntSto_eq_false {c : Word} (h : bitsOf c 5 1 = 0 ∨ narrows (bitsOf c 0 5) ((vtyFmt (styOf (bitsOf c 6 2))).mb + 1) = false) :
    vqntSto c = false := by
  rcases h with h | h <;> simp [vqntSto, h]

theorem vdqnt_spec (h : Acts s (.vdqnt pr d) v) :
    let y := styOf (bitsOf v.b.bits 5 2)
    let r := packFl (vtyBits y) ((fmtGetN (bitsOf v.b.bits 0 5) (v.a.wbits.toNat / 2 ^ (8 * bitsOf v.b.bits 8 6)) (bitsOf v.b.bits 16 7) (512 / vtyBits y)).map
      fun x => (vtyFmt y).write s.ftz s.mode x)
    (vdqntOk v.b.bits = false → exec (.vdqnt pr d) s = .next (s.fired (s.deliverPoison (.vdqnt pr d) .illop)))
      ∧ (vdqntOk v.b.bits = true → GivesWF s (.vdqnt pr d) r) := by
  intro y r
  constructor <;> intro hc
  · show execVdqnt pr d s = _
    unfold execVdqnt
    exact fire_fires h (by simp only [hc, Bool.false_eq_true, if_false])
  · show execVdqnt pr d s = _
    unfold execVdqnt
    exact fire_fires h (by simp only [hc, if_true, r, y])

theorem vred_spec (h : Acts s (.vred pr d) v) :
    (redOk false v.b.bits = false → exec (.vred pr d) s = .next (s.fired (s.deliverPoison (.vred pr d) .illop)))
      ∧ (redOk false v.b.bits = true → GivesSF s (.vred pr d) (vredWord s v.a v.b.bits)) := by
  constructor <;> intro hc
  · show execVred pr d s = _
    unfold execVred
    exact fire_fires h (by simp only [hc, Bool.false_eq_true, if_false])
  · show execVred pr d s = _
    unfold execVred
    exact fire_fires h (by simp only [hc, if_true])

theorem vscan_spec (h : Acts s (.vscan pr d) v) :
    (redOk true v.b.bits = false → exec (.vscan pr d) s = .next (s.fired (s.deliverPoison (.vscan pr d) .illop)))
      ∧ (redOk true v.b.bits = true → GivesWF s (.vscan pr d) (vscanWide s v.a v.b.bits)) := by
  constructor <;> intro hc
  · show execVscan pr d s = _
    unfold execVscan
    exact fire_fires h (by simp only [hc, Bool.false_eq_true, if_false])
  · show execVscan pr d s = _
    unfold execVscan
    exact fire_fires h (by simp only [hc, if_true])

theorem vdot_spec (h : Acts s (.vdot pr d) v) :
    (vdotOk v.c.bits = false → exec (.vdot pr d) s = .next (s.fired (s.deliverPoison (.vdot pr d) .illop)))
      ∧ (vdotOk v.c.bits = true → GivesSF s (.vdot pr d) (vdotWord s v.a v.b v.c.bits)) := by
  constructor <;> intro hc
  · show execVdot pr d s = _
    unfold execVdot
    exact fire_fires h (by simp only [hc, Bool.false_eq_true, if_false])
  · show execVdot pr d s = _
    unfold execVdot
    exact fire_fires h (by simp only [hc, if_true])

end

/-! ### Integer results in terms of the lanes -/

/-- Adding up from a start is the start and the sum. -/
theorem foldl_add_eq_sum {α : Type} [AddCommMonoid α] (l : List α) (a : α) : l.foldl (fun u v => u + v) a = a + l.sum := by
  induction l generalizing a with
  | nil => simp
  | cons x l ih => rw [List.foldl_cons, ih, List.sum_cons, add_assoc]

/-- A dot product of signed bytes: each signed lane times its partner (05 R136). -/
theorem vdotWord_signedBytes (s : State) (a b : Wide) :
    vdotWord s (.wide a) (.wide b) 0 = (BitVec.ofInt 64 ((List.range 64).map fun j => laneS 8 a j * laneS 8 b j).sum, 0#5) := by
  have hz : List.zipWith (fun x y => sgnOf 8 x * sgnOf 8 y) (lanesOf 8 a) (lanesOf 8 b) = (List.range 64).map fun j => laneS 8 a j * laneS 8 b j := by
    rw [lanesOf_eq, lanesOf_eq, List.zipWith_map, List.zipWith_self]
    rfl
  show (BitVec.ofInt 64 ((List.zipWith (fun x y => sgnOf 8 x * sgnOf 8 y) (lanesOf 8 a) (lanesOf 8 b)).foldl (fun acc p => acc + p) 0), 0#5) = _
  rw [hz, foldl_add_eq_sum, zero_add]

/-- Sums taken modulo at every step are the sum modulo. -/
theorem foldl_redInt_add {e : Nat} (l : List Nat) (a : Nat) : l.foldl (redInt 0 e) a % 2 ^ e = (a + l.sum) % 2 ^ e := by
  induction l generalizing a with
  | nil => simp
  | cons x l ih =>
    rw [List.foldl_cons, ih, redInt, List.sum_cons, ← add_assoc, Nat.mod_add_mod]

/-- A word does not tell a lane read with its sign from the lane. -/
theorem ofInt_sgnOf (x : Nat) : BitVec.ofInt 64 (sgnOf 64 x) = BitVec.ofNat 64 x := by
  apply BitVec.eq_of_toNat_eq
  rw [BitVec.toNat_ofInt, BitVec.toNat_ofNat]
  have h := sgnOf_emod 64 x
  push_cast
  omega

theorem ofNat_mod_two_pow (x : Nat) : BitVec.ofNat 64 (x % 2 ^ 64) = BitVec.ofNat 64 x :=
  BitVec.eq_of_toNat_eq (by simp only [BitVec.toNat_ofNat, Nat.mod_mod])

/-- An ADD reduction of 64-bit lanes is their wrapping sum (05 R134). -/
theorem vredWord_add64 (s : State) (a : Wide) :
    vredWord s (.wide a) 0x30 = (BitVec.ofNat 64 ((List.range 8).map fun j => lane 64 a j).sum, 0#5) := by
  have hl : lanesOf 64 a = lane 64 a 0 :: (List.range' 1 7).map (lane 64 a) := lanesOf_eq 64 a
  have hs : ((List.range 8).map fun j => lane 64 a j).sum = lane 64 a 0 + ((List.range' 1 7).map (lane 64 a)).sum := rfl
  show (BitVec.ofInt 64 (sgnOf 64 (match lanesOf 64 a with
    | [] => 0
    | x :: rest => rest.foldl (redInt 0 64) x)), 0#5) = _
  rw [hl, hs, ofInt_sgnOf, ← ofNat_mod_two_pow, foldl_redInt_add, ofNat_mod_two_pow]

/-- An inclusive scan ends with all its lanes combined (05 R135). -/
theorem vscanWide_xor64 (s : State) (a : Wide) :
    lane 64 (vscanWide s (.wide a) 0x37).1 7 = ((List.range 8).map fun j => lane 64 a j).foldl (fun x y => x ^^^ y) 0 := by
  have hl : lanesOf 64 a = (List.range 8).map (lane 64 a) := lanesOf_eq 64 a
  have hlt := lane_lt 64 a
  show lane 64 (packWide 64 (match lanesOf 64 a with
    | [] => []
    | x :: rest => x :: scanInt 7 64 x rest)) 7 = _
  rw [hl]
  refine (lane_packWide_of_lt (by decide) rfl ?_).trans ?_
  · simp only [redInt]
    repeat' apply Nat.xor_lt_two_pow
    all_goals exact hlt _
  · simp [redInt, List.range, List.range.loop]

/-- Settles O26: the branch of each action that the control takes, and three results by their lanes. -/
theorem controlledWide : Obligations.ControlledWide := by
  refine ⟨fun s v pr d => ⟨fun h => ⟨vcvt_refused h, fun hc hn => ?_, fun hc ha hw => ?_⟩, fun h => ⟨vqnt_refused h, fun hc hn => ?_, fun hc ha hw => ?_⟩,
    vdqnt_spec, vred_spec, vscan_spec, vdot_spec⟩, fun s a b => ⟨vdotWord_signedBytes s a b, vredWord_add64 s a, vscanWide_xor64 s a⟩⟩
  · have hsto : vcvtSto s v.b.bits = false := Bool.eq_false_iff.mpr fun ht => hn ((vcvtSto_iff _ _).mp ht)
    simpa only [hsto, Bool.false_eq_true, if_false] using vcvt_accepted h hc
  · have hsto : vcvtSto s v.b.bits = true := (vcvtSto_iff _ _).mpr ⟨ha, hw⟩
    simpa only [hsto, if_true] using vcvt_accepted h hc
  · have hsto : vqntSto v.b.bits = false := vqntSto_eq_false hn
    have hx := vqnt_accepted h hc
    simp only [hsto, Bool.false_eq_true, if_false] at hx
    exact hx
  · have hsto : vqntSto v.b.bits = true := by simp [vqntSto, ha, hw]
    have hx := vqnt_accepted h hc
    simp only [hsto, if_true] at hx
    exact hx

end Sys2Proof.WideControls
end

section
/-! Memory (00 R4; log 1), store forwarding (01 R18; 05 R149), and the state after reset. -/

namespace Sys2Proof.MemoryBytes

-- One proof at a time: proofs checked side by side take each a stack of memory.
set_option Elab.async false

open Sys2Proof.Machine

/-! ### The laws of memory -/

theorem length_getN (m : Memory) (a n : Nat) : (m.getN a n).length = n := by
  induction n generalizing a with
  | zero => rfl
  | succ n ih => simp [Memory.getN, ih]

theorem getElem?_getN (m : Memory) (a : Nat) {n k : Nat} (h : k < n) : (m.getN a n)[k]? = some (m.get (a + k)) := by
  induction n generalizing a k with
  | zero => exact absurd h (Nat.not_lt_zero k)
  | succ n ih =>
    cases k with
    | zero => rfl
    | succ k =>
      rw [Memory.getN, List.getElem?_cons_succ, ih (a + 1) (Nat.lt_of_succ_lt_succ h), Nat.add_assoc, Nat.add_comm 1 k]

/-- Memories that agree on an interval give the same bytes there. -/
theorem getN_congr {m₁ m₂ : Memory} {a n : Nat} (h : ∀ k < n, m₁.get (a + k) = m₂.get (a + k)) : m₁.getN a n = m₂.getN a n := by
  refine List.ext_getElem? fun k => ?_
  by_cases hk : k < n
  · rw [getElem?_getN _ _ hk, getElem?_getN _ _ hk, h k hk]
  · rw [List.getElem?_eq_none (by rw [length_getN]; omega), List.getElem?_eq_none (by rw [length_getN]; omega)]

/-- Bytes written are read back. -/
theorem getN_setN {m : Memory} (h : m.wf = true) (a : Nat) (bs : List Byte) : (m.setN a bs).getN a bs.length = bs := by
  induction bs generalizing m a with
  | nil => rfl
  | cons b bs ih =>
    have hw := Memory.wf_set h a b
    rw [Memory.setN, List.length_cons, Memory.getN, ih hw, Memory.get_setN_other hw _ _ (.inl (Nat.lt_succ_self a)), Memory.get_set_same h]

theorem length_natToBytes (n v : Nat) : (natToBytes n v).length = n := by
  induction n generalizing v with
  | zero => rfl
  | succ n ih => simp [natToBytes, ih]

theorem bytesToNat_natToBytes (n v : Nat) : bytesToNat (natToBytes n v) = v % 256 ^ n := by
  induction n generalizing v with
  | zero => simp [natToBytes, bytesToNat, Nat.mod_one]
  | succ n ih =>
    have hsplit : v % 256 ^ (n + 1) = v % 256 + 256 * (v / 256 % 256 ^ n) := by rw [pow_succ', Nat.mod_mul]
    rw [natToBytes, bytesToNat, ih, BitVec.toNat_ofNat, hsplit]

theorem getElem?_natToBytes (v : Nat) {n k : Nat} (h : k < n) : (natToBytes n v)[k]? = some (BitVec.ofNat 8 (v / 256 ^ k)) := by
  induction n generalizing v k with
  | zero => exact absurd h (Nat.not_lt_zero k)
  | succ n ih =>
    cases k with
    | zero => simp [natToBytes]
    | succ k => rw [natToBytes, List.getElem?_cons_succ, ih (v / 256) (Nat.lt_of_succ_lt_succ h), Nat.div_div_eq_div_mul, pow_succ']

/-- What stands first in a memory in canonical form is the lowest byte that differs from an unlisted one. -/
theorem eq_nil_of_get_unlisted {m : Memory} (h : m.wf = true) (hg : ∀ a, m.get a = Memory.unlisted) : m = [] := by
  cases m with
  | nil => rfl
  | cons c m =>
    obtain ⟨x, b⟩ := c
    have hb := (Memory.wf_cons.mp h).1
    exact absurd (by simpa [Memory.get] using hg x) hb

/-- Two memories in canonical form list the same first address where they read alike. -/
theorem first_le_of_get_eq {x y : Nat} {b c : Byte} {m₁ m₂ : Memory} (h₁ : Memory.wf ((x, b) :: m₁) = true) (h₂ : Memory.wf ((y, c) :: m₂) = true)
    (hg : ∀ a, Memory.get ((x, b) :: m₁) a = Memory.get ((y, c) :: m₂) a) : x ≤ y := by
  obtain ⟨hc, -, -⟩ := Memory.wf_cons.mp h₂
  obtain ⟨-, -, habove⟩ := Memory.wf_cons.mp h₁
  by_contra hlt
  have hy := hg y
  rw [Memory.get, if_neg (by omega), Memory.get_above habove (by omega), Memory.get, if_pos rfl] at hy
  exact hc hy.symm

/-- Two memories in canonical form that read alike are the same. -/
theorem eq_of_get_eq {m₁ m₂ : Memory} (h₁ : m₁.wf = true) (h₂ : m₂.wf = true) (hg : ∀ a, m₁.get a = m₂.get a) : m₁ = m₂ := by
  induction m₁ generalizing m₂ with
  | nil => exact (eq_nil_of_get_unlisted h₂ fun a => (hg a).symm).symm
  | cons c m₁ ih =>
    cases m₂ with
    | nil => exact eq_nil_of_get_unlisted h₁ hg
    | cons d m₂ =>
      obtain ⟨x, b⟩ := c
      obtain ⟨y, e⟩ := d
      obtain rfl : x = y := Nat.le_antisymm (first_le_of_get_eq h₁ h₂ hg) (first_le_of_get_eq h₂ h₁ fun a => (hg a).symm)
      obtain rfl : b = e := by simpa [Memory.get] using hg x
      obtain ⟨-, hw₁, ha₁⟩ := Memory.wf_cons.mp h₁
      obtain ⟨-, hw₂, ha₂⟩ := Memory.wf_cons.mp h₂
      rw [ih hw₁ hw₂ fun a => ?_]
      by_cases hax : a = x
      · rw [hax, Memory.get_above ha₁ (Nat.lt_succ_self x), Memory.get_above ha₂ (Nat.lt_succ_self x)]
      · have ha := hg a
        rwa [Memory.get, if_neg (Ne.symm hax), Memory.get, if_neg (Ne.symm hax)] at ha

/-- Settles O55: one byte by the laws of the frozen text, more by induction, and canonical memories by their first entries. -/
theorem memoryLaws : Obligations.MemoryLaws :=
  ⟨fun _ a b x h => ⟨Memory.get_set_same h a x, fun hab => Memory.get_set_other h x hab, Memory.wf_set h a x⟩,
    fun m a n bs h => ⟨Memory.wf_setN h a bs, getN_setN h a bs, fun _ hb => Memory.get_setN_other h a bs hb, length_getN m a n,
      fun _ hk => getElem?_getN m a hk⟩,
    fun n v => ⟨length_natToBytes n v, bytesToNat_natToBytes n v, fun _ hk => getElem?_natToBytes v hk⟩,
    fun _ _ h₁ h₂ hg => eq_of_get_eq h₁ h₂ hg⟩

/-! ### Store forwarding -/

section
variable (s : State) (c : Ctx) (cell : Nat) (l : Leaf) (path : List (BitVec 12)) (fwd : List Lane)

theorem length_mixBytes (va : Word) (n : Nat) : (s.mixBytes c cell l va path fwd n).length = n := by
  induction n generalizing va with
  | zero => rfl
  | succ n ih => simp [State.mixBytes, ih]

/-- A byte under the newest stores before it. -/
def mixByte (va : Word) : Byte :=
  match fwd.find? fun f => f.has va with
  | some f => f.at va
  | none => s.pageByte c cell l va path

theorem getElem?_mixBytes (va : Word) {n k : Nat} (h : k < n) :
    (s.mixBytes c cell l va path fwd n)[k]? = some (mixByte s c cell l path fwd (va + BitVec.ofNat 64 k)) := by
  induction n generalizing va k with
  | zero => exact absurd h (Nat.not_lt_zero k)
  | succ n ih =>
    cases k with
    | zero =>
      have h0 : va + BitVec.ofNat 64 0 = va := BitVec.add_zero va
      rw [h0]
      rfl
    | succ k =>
      have hsucc : va + 1 + BitVec.ofNat 64 k = va + BitVec.ofNat 64 (k + 1) := by
        rw [BitVec.add_assoc, BitVec.ofNat_add k 1, BitVec.add_comm (BitVec.ofNat 64 k)]
        rfl
      rw [State.mixBytes, List.getElem?_cons_succ, ih (va + 1) (Nat.lt_of_succ_lt_succ h), hsucc]

end

theorem lanesBelow_served {x : Inst} {n : Nat} {o : EffOut} (hs : x.sent = []) (h : x.effOut? (BitVec.ofNat 5 n) = some o) :
    x.lanesBelow (n + 1) = o.lanes.reverse ++ x.lanesBelow n := by
  simp [Inst.lanesBelow, h, hs]

theorem lanesBelow_unserved {x : Inst} {n : Nat} (hs : x.sent = []) (hf : x.forecast = []) (h : x.effOut? (BitVec.ofNat 5 n) = none) :
    x.lanesBelow (n + 1) = x.lanesBelow n := by
  simp [Inst.lanesBelow, h, hs, hf]

/-- Settles O30: bytes by induction on their number, the stores of a clause slot by slot. -/
theorem storeForwarding : Obligations.StoreForwarding :=
  ⟨fun s c cell l va path fwd n _ hk => ⟨length_mixBytes s c cell l path fwd va n, getElem?_mixBytes s c cell l path fwd va hk⟩,
    fun _ _ _ hs hf => ⟨rfl, fun _ _ _ h => lanesBelow_served hs h, fun h => lanesBelow_unserved hs hf h⟩⟩

/-- Settles O58: the state after reset evaluates. -/
theorem reset : Obligations.Reset := by
  refine ⟨reset_memOk, rfl, rfl, rfl, rfl, rfl, ?_, rfl, rfl, rfl, rfl, rfl, rfl, rfl, rfl, fun _ => rfl⟩
  decide

end Sys2Proof.MemoryBytes
end

section
/-! Loads and stores (05 R138 to R149; 10 R250): how each access fires, and its address, size and bytes. -/

namespace Sys2Proof.LoadsAndStores

-- One proof at a time: proofs checked side by side take each a stack of memory.
set_option Elab.async false

open Sys2Proof.Machine Sys2Proof.WideInteger Sys2Proof.WideLanes

/-! ### How a load and a store fire -/

section
variable {s : State} {i : Instr} {v : Vals} {eff : BitVec 5} {lanes : List (Word × Nat)} {hyp0 : Bool} {act : Action}
  {mk : List (List Byte) → Token}

theorem fireLoad_noncanonical {c : Ctx} {x : Inst} {p : Word × Nat} (hc : s.fctx = some c) (hx : s.finst = some x)
    (hp : lanes.find? (fun q => !canonical q.1 q.2) = some p) : s.fireLoad i eff lanes hyp0 act mk = .fires (s.loadPoison i .perm p.1) := by
  simp only [State.fireLoad, hc, hx, hp]

theorem find?_canonical (h : ∀ q ∈ lanes, canonical q.1 q.2 = true) : lanes.find? (fun q => !canonical q.1 q.2) = none :=
  List.find?_eq_none.mpr fun q hq => by simp [h q hq]

theorem fireLoad_linkDead {c : Ctx} {x : Inst} (hc : s.fctx = some c) (hx : s.finst = some x) (hl : ∀ q ∈ lanes, canonical q.1 q.2 = true)
    (hd : s.focus.iid ∈ x.linkDead) :
    s.fireLoad i eff lanes hyp0 act mk = .fires (s.loadPoison i .linklost ((lanes.head?.map fun p => p.1).getD 0)) := by
  have hd' : x.linkDead.contains s.focus.iid = true := List.contains_iff_mem.mpr hd
  simp only [State.fireLoad, hc, hx, find?_canonical hl, hd', if_true]

/-- Past its checks and its waits a load reads. -/
theorem fireLoad_reads {c : Ctx} {x : Inst} (hc : s.fctx = some c) (hx : s.finst = some x) (hl : ∀ q ∈ lanes, canonical q.1 q.2 = true)
    (hd : s.focus.iid ∉ x.linkDead) (hw : c.loadWaits x s.focus eff = false)
    (hr : (s.loadAll c s.focus.win s.focus.iid eff.toNat hyp0 lanes).wait = false) :
    s.fireLoad i eff lanes hyp0 act mk =
      let r := s.loadAll c s.focus.win s.focus.iid eff.toNat hyp0 lanes
      match r.bad with
      | some (k, va) => .fires (r.st.loadPoison i k va)
      | none =>
        if ((lanes.any fun p => s.farAcc c (c.cellOf s.focus.iid) p.1 p.2 .load) && (x.waitSince s.focus.iid).isNone)
            || lanes.any fun p => s.cutAcc c (c.cellOf s.focus.iid) p.1 p.2 .load then
          .waits s.beginWait
        else .fires (((r.st.keepLoad ⟨s.focus.iid, eff, lanes, r.bytes, hyp0, s.performsNow c x eff lanes⟩ act).effect i act).deliver i (mk r.bytes)) := by
  have hd' : x.linkDead.contains s.focus.iid = false := by simpa using hd
  simp only [State.fireLoad, hc, hx, find?_canonical hl, hd', hw, hr, Bool.false_eq_true, if_false] <;> rfl

/-- No access is far, or the wait has begun; and none is cut off. -/
theorem far_or_cut_eq_false {c : Ctx} {x : Inst}
    (hf : ∀ q ∈ lanes, s.farAcc c (c.cellOf s.focus.iid) q.1 q.2 .load = true → x.waitSince s.focus.iid ≠ none)
    (hcut : ∀ q ∈ lanes, s.cutAcc c (c.cellOf s.focus.iid) q.1 q.2 .load = false) :
    (((lanes.any fun p => s.farAcc c (c.cellOf s.focus.iid) p.1 p.2 .load) && (x.waitSince s.focus.iid).isNone)
      || lanes.any fun p => s.cutAcc c (c.cellOf s.focus.iid) p.1 p.2 .load) = false := by
  have hc : (lanes.any fun p => s.cutAcc c (c.cellOf s.focus.iid) p.1 p.2 .load) = false :=
    List.any_eq_false.mpr fun q hq => by simp [hcut q hq]
  rw [hc, Bool.or_false, Bool.and_eq_false_iff]
  by_cases hany : (lanes.any fun p => s.farAcc c (c.cellOf s.focus.iid) p.1 p.2 .load) = true
  · obtain ⟨q, hq, hfar⟩ := List.any_eq_true.mp hany
    exact .inr (Option.isNone_eq_false_iff.mpr (Option.isSome_iff_ne_none.mpr (hf q hq hfar)))
  · exact .inl (by simpa using hany)

/-- An instruction whose action is a load fires as a load. -/
theorem loadsWith {f : Vals → State → Act} (h : Acts s i v) (he : exec i s = fire s i f) (hf : f v s = s.fireLoad i eff lanes hyp0 act mk) :
    LoadsWith s i eff lanes hyp0 act mk := by
  have hfires : ∀ {t}, s.fireLoad i eff lanes hyp0 act mk = .fires t → exec i s = .next (s.fired t) :=
    fun ht => he.trans (fire_fires h (hf.trans ht))
  refine ⟨fun p hp => ?_, fun c x hc hx hl => ⟨fun hd => hfires (fireLoad_linkDead hc hx hl hd), fun hd hw => ?_⟩⟩
  · obtain ⟨x, hx⟩ := h.finst
    obtain ⟨c, hc⟩ := h.fctx
    exact hfires (fireLoad_noncanonical hc hx hp)
  · intro r hr
    have hreads := fireLoad_reads (i := i) (act := act) (mk := mk) hc hx hl hd hw hr
    refine ⟨fun k va hb => hfires (hreads.trans ?_), fun hb hfar hcut => hfires (hreads.trans ?_)⟩
    · simp only [r] at hb
      simp only [hb] <;> rfl
    · simp only [r] at hb
      simp only [hb, far_or_cut_eq_false hfar hcut, Bool.false_eq_true, if_false] <;> rfl

/-- An instruction whose action is a store fires as a store. -/
theorem storesWith {f : Vals → State → Act} {data : List (Word × List Byte)} {rel many : Bool} (h : Acts s i v) (he : exec i s = fire s i f)
    (hf : f v s = s.fireStore i data rel many) : StoresWith s i data rel many := by
  refine fun c hc => ⟨fun t ls hs => he.trans (fire_fires h (hf.trans ?_)), fun t k va hs => he.trans (fire_fires h (hf.trans ?_))⟩
  · simp only [State.fireStore, hc, hs]
  · simp only [State.fireStore, hc, hs]

end

/-! ### Addresses -/

/-- A base plus a scaled sign-extended immediate, as a sum of signed numbers (02 R38). -/
theorem add_immScaled {n : Nat} (hn : n ≤ 64) (a : Word) (imm : BitVec n) (size : Nat) :
    a + immScaled imm size = BitVec.ofInt 64 (a.toInt + imm.toInt * size) := by
  have hi : imm.signExtend 64 = BitVec.ofInt 64 imm.toInt := by
    apply BitVec.eq_of_toInt_eq
    rw [BitVec.toInt_signExtend_of_le hn, ← BitVec.toInt_signExtend_of_le (v := 64) hn, BitVec.ofInt_toInt]
  rw [BitVec.ofInt_add, BitVec.ofInt_toInt, BitVec.ofInt_mul, BitVec.ofInt_natCast, ← hi, immScaled]

theorem bitsZero_three_iff (a : Word) : bitsZero a 0 3 = true ↔ a.toNat % 8 = 0 := by
  simp [bitsZero, bitsOf]

/-- The lane addresses of a gathered access (05 R146). -/
theorem gatheredVas_eq (sh : Shape) (uns : Bool) (sc : BitVec 2) (a : Word) (b : Wide) :
    gatheredVas sh uns sc a b = (List.range (512 / Shape.bits sh)).map fun j =>
      a + BitVec.ofInt 64 ((if uns then (lane (Shape.bits sh) b j : Int) else laneS (Shape.bits sh) b j) * 2 ^ sc.toNat) := by
  rw [gatheredVas, lanesOf_eq, List.map_map]
  refine List.map_congr_left fun j _ => ?_
  have hp : BitVec.ofInt 64 (2 ^ sc.toNat) = w64 (2 ^ sc.toNat) := by
    rw [w64, ← BitVec.ofInt_natCast]
    norm_cast
  cases uns
  · simp only [Function.comp_apply, Bool.false_eq_true, if_false, BitVec.ofInt_mul, hp] <;> rfl
  · simp only [Function.comp_apply, if_true, BitVec.ofInt_mul, hp, BitVec.ofInt_natCast] <;> rfl

/-- Lane addresses with their bytes. -/
theorem laneData_map (sh : Shape) (f : Nat → Word) (c : Wide) :
    laneData sh ((List.range (512 / Shape.bits sh)).map f) c
      = (List.range (512 / Shape.bits sh)).map fun j => (f j, natToBytes (Shape.bits sh / 8) (lane (Shape.bits sh) c j)) := by
  rw [laneData, lanesOf_eq, List.zipWith_map, List.zipWith_self]

/-! ### Scalar loads (05 R141) -/

/-- A scalar load reads its size at its base plus its scaled offset. -/
theorem ldAct_loadsWith {s : State} {i : Instr} {v : Vals} {eff : BitVec 5} {imm : BitVec 9} (n : Nat) (sg : Bool) (h : Acts s i v)
    (he : exec i s = fire s i (ldAct i eff imm n sg)) :
    LoadsWith s i eff [(BitVec.ofInt 64 (v.a.bits.toInt + imm.toInt * n), n)] false .done (scalarOf n sg) :=
  loadsWith h he (by rw [← add_immScaled (by decide)] <;> rfl)

/-- Settles O27: each is a load of its size. -/
theorem scalarLoads : Obligations.ScalarLoads := fun _ _ _ _ _ _ =>
  ⟨fun h => ldAct_loadsWith 1 false h rfl, fun h => ldAct_loadsWith 2 false h rfl, fun h => ldAct_loadsWith 4 false h rfl,
    fun h => ldAct_loadsWith 8 false h rfl, fun h => ldAct_loadsWith 1 true h rfl, fun h => ldAct_loadsWith 2 true h rfl,
    fun h => ldAct_loadsWith 4 true h rfl, fun _ => rfl⟩

/-! ### The other loads (05 R143 to R146; 10 R250) -/

section
variable {s : State} {v : Vals} {pr : Pred} {eff : BitVec 5} {t : Tgt}

theorem ldacq_misaligned {imm : BitVec 9} (h : Acts s (.ldacq pr eff imm t) v)
    (hc : canonical (BitVec.ofInt 64 (v.a.bits.toInt + imm.toInt * (8 : Nat))) 8 = true)
    (hm : (BitVec.ofInt 64 (v.a.bits.toInt + imm.toInt * (8 : Nat))).toNat % 8 ≠ 0) :
    exec (.ldacq pr eff imm t) s
      = .next (s.fired (s.loadPoison (.ldacq pr eff imm t) .misalign (BitVec.ofInt 64 (v.a.bits.toInt + imm.toInt * (8 : Nat))))) := by
  rw [← add_immScaled (by decide)] at hc hm ⊢
  have hz : bitsZero (v.a.bits + immScaled imm 8) 0 3 = false := Bool.eq_false_iff.mpr fun hz => hm ((bitsZero_three_iff _).mp hz)
  show execLdacq pr eff imm t s = _
  unfold execLdacq
  exact fire_fires h (by simp only [hc, hz, Bool.not_false, Bool.and_self, if_true])

theorem ldacq_aligned {imm : BitVec 9} (h : Acts s (.ldacq pr eff imm t) v)
    (hm : (BitVec.ofInt 64 (v.a.bits.toInt + imm.toInt * (8 : Nat))).toNat % 8 = 0) :
    LoadsWith s (.ldacq pr eff imm t) eff [(BitVec.ofInt 64 (v.a.bits.toInt + imm.toInt * (8 : Nat)), 8)] false .acquire (scalarOf 8 false) := by
  rw [← add_immScaled (by decide)] at hm ⊢
  have hz : bitsZero (v.a.bits + immScaled imm 8) 0 3 = true := (bitsZero_three_iff _).mpr hm
  refine loadsWith h (show execLdacq pr eff imm t s = _ from rfl) ?_
  simp only [hz, Bool.not_true, Bool.and_false, Bool.false_eq_true, if_false]

theorem vld_loads {imm : BitVec 9} (h : Acts s (.vld pr eff imm t) v) :
    LoadsWith s (.vld pr eff imm t) eff [(BitVec.ofInt 64 (v.a.bits.toInt + imm.toInt * (64 : Nat)), 64)] false .done wideOf := by
  rw [← add_immScaled (by decide)]
  exact loadsWith h (show execVld pr eff imm t s = _ from rfl) rfl

theorem vlds_loads {sh : Shape} (h : Acts s (.vlds pr eff sh t) v) :
    LoadsWith s (.vlds pr eff sh t) eff
      ((List.range (512 / Shape.bits sh)).map fun j => (v.a.bits + v.b.bits * BitVec.ofNat 64 j, Shape.bits sh / 8)) false .done wideOf := by
  refine loadsWith h (show execVlds pr eff sh t s = _ from rfl) ?_
  rw [stridedVas, List.map_map]
  rfl

theorem vgath_loads {sh : Shape} {uns : Bool} {sc : BitVec 2} (h : Acts s (.vgath pr eff sh uns sc t) v) :
    LoadsWith s (.vgath pr eff sh uns sc t) eff ((List.range (512 / Shape.bits sh)).map fun j =>
      (v.a.bits + BitVec.ofInt 64 ((if uns then (lane (Shape.bits sh) v.b.wbits j : Int) else laneS (Shape.bits sh) v.b.wbits j) * 2 ^ sc.toNat),
        Shape.bits sh / 8)) false .done wideOf := by
  refine loadsWith h (show execVgath pr eff sh uns sc t s = _ from rfl) ?_
  rw [gatheredVas_eq, List.map_map]
  rfl

theorem hldc_plain {sg : Bool} {sz : MemSize} (h : Acts s (.hldc pr eff false sg sz t) v) :
    LoadsWith s (.hldc pr eff false sg sz t) eff [(v.a.bits, MemSize.bytes sz)] true .done (scalarOf (MemSize.bytes sz) sg) :=
  loadsWith h (show execHldc pr eff false sg sz t s = _ from rfl) rfl

theorem hldc_aligned {sg : Bool} {sz : MemSize} (h : Acts s (.hldc pr eff true sg sz t) v) (hm : v.a.bits.toNat % 8 = 0) :
    LoadsWith s (.hldc pr eff true sg sz t) eff [(v.a.bits, MemSize.bytes sz)] true .acquire (scalarOf (MemSize.bytes sz) sg) := by
  have hz : bitsZero v.a.bits 0 3 = true := (bitsZero_three_iff _).mpr hm
  refine loadsWith h (show execHldc pr eff true sg sz t s = _ from rfl) ?_
  simp only [hz, Bool.not_true, Bool.and_false, Bool.false_eq_true, if_false, if_true]

theorem hldc_misaligned {sg : Bool} {sz : MemSize} (h : Acts s (.hldc pr eff true sg sz t) v)
    (hc : canonical v.a.bits (MemSize.bytes sz) = true) (hm : v.a.bits.toNat % 8 ≠ 0) :
    exec (.hldc pr eff true sg sz t) s = .next (s.fired (s.loadPoison (.hldc pr eff true sg sz t) .misalign v.a.bits)) := by
  have hz : bitsZero v.a.bits 0 3 = false := Bool.eq_false_iff.mpr fun hz => hm ((bitsZero_three_iff _).mp hz)
  show execHldc pr eff true sg sz t s = _
  unfold execHldc
  exact fire_fires h (by simp only [hc, hz, Bool.not_false, Bool.and_self, if_true])

end

/-- Settles O28: each is a load of its accesses, the acquiring forms of an aligned address. -/
theorem otherLoads : Obligations.OtherLoads := fun _ _ _ _ _ _ _ _ _ _ _ =>
  ⟨ldacq_misaligned, ldacq_aligned, vld_loads, vlds_loads, vgath_loads, hldc_plain, hldc_aligned, hldc_misaligned⟩

/-! ### The stores (05 R142 to R147) -/

/-- A scalar store writes its size at its base plus its scaled offset. -/
theorem stAct_storesWith {s : State} {i : Instr} {v : Vals} {imm : BitVec 18} (n : Nat) (h : Acts s i v) (he : exec i s = fire s i (stAct i imm n)) :
    StoresWith s i [(BitVec.ofInt 64 (v.a.bits.toInt + imm.toInt * n), natToBytes n v.b.bits.toNat)] false false :=
  storesWith h he (by rw [← add_immScaled (by decide)] <;> rfl)

section
variable {s : State} {v : Vals} {pr : Pred} {eff : BitVec 5}

theorem strel_aligned {imm : BitVec 18} (h : Acts s (.strel pr eff imm) v)
    (hm : (BitVec.ofInt 64 (v.a.bits.toInt + imm.toInt * (8 : Nat))).toNat % 8 = 0) :
    StoresWith s (.strel pr eff imm) [(BitVec.ofInt 64 (v.a.bits.toInt + imm.toInt * (8 : Nat)), natToBytes 8 v.b.bits.toNat)] true false := by
  rw [← add_immScaled (by decide)] at hm ⊢
  have hz : bitsZero (v.a.bits + immScaled imm 8) 0 3 = true := (bitsZero_three_iff _).mpr hm
  refine storesWith h (show execStrel pr eff imm s = _ from rfl) ?_
  simp only [hz, Bool.not_true, Bool.and_false, Bool.false_eq_true, if_false]

theorem strel_misaligned {imm : BitVec 18} (h : Acts s (.strel pr eff imm) v)
    (hc : canonical (BitVec.ofInt 64 (v.a.bits.toInt + imm.toInt * (8 : Nat))) 8 = true)
    (hm : (BitVec.ofInt 64 (v.a.bits.toInt + imm.toInt * (8 : Nat))).toNat % 8 ≠ 0) :
    exec (.strel pr eff imm) s = .next (s.fired ((s.notePoison (BitVec.ofInt 64 (v.a.bits.toInt + imm.toInt * (8 : Nat)))).effectPoison (.strel pr eff imm)
      .misalign)) := by
  rw [← add_immScaled (by decide)] at hc hm ⊢
  have hz : bitsZero (v.a.bits + immScaled imm 8) 0 3 = false := Bool.eq_false_iff.mpr fun hz => hm ((bitsZero_three_iff _).mp hz)
  show execStrel pr eff imm s = _
  unfold execStrel
  exact fire_fires h (by simp only [hc, hz, Bool.not_false, Bool.and_self, if_true])

theorem vst_stores {imm : BitVec 18} (h : Acts s (.vst pr eff imm) v) :
    StoresWith s (.vst pr eff imm) [(BitVec.ofInt 64 (v.a.bits.toInt + imm.toInt * (64 : Nat)), natToBytes 64 v.b.wbits.toNat)] false false := by
  rw [← add_immScaled (by decide)]
  exact storesWith h (show execVst pr eff imm s = _ from rfl) rfl

theorem vsts_stores {sh : Shape} (h : Acts s (.vsts pr eff sh) v) :
    StoresWith s (.vsts pr eff sh) ((List.range (512 / Shape.bits sh)).map fun j =>
      (v.a.bits + v.b.bits * BitVec.ofNat 64 j, natToBytes (Shape.bits sh / 8) (lane (Shape.bits sh) v.c.wbits j))) false true := by
  refine storesWith h (show execVsts pr eff sh s = _ from rfl) ?_
  rw [stridedVas, laneData_map]
  rfl

theorem vscat_stores {sh : Shape} {uns : Bool} {sc : BitVec 2} (h : Acts s (.vscat pr eff sh uns sc) v) :
    StoresWith s (.vscat pr eff sh uns sc) ((List.range (512 / Shape.bits sh)).map fun j =>
      (v.a.bits + BitVec.ofInt 64 ((if uns then (lane (Shape.bits sh) v.b.wbits j : Int) else laneS (Shape.bits sh) v.b.wbits j) * 2 ^ sc.toNat),
        natToBytes (Shape.bits sh / 8) (lane (Shape.bits sh) v.c.wbits j))) false true := by
  refine storesWith h (show execVscat pr eff sh uns sc s = _ from rfl) ?_
  rw [gatheredVas_eq, laneData_map]

theorem pref_effects {w : Bool} {lv : PrefLevel} (h : Acts s (.pref pr eff w lv) v) : Effects s (.pref pr eff w lv) .done := by
  show execPref pr eff w lv s = _
  exact fire_fires h rfl

end

/-- Settles O29: each is a store of its bytes at its addresses. -/
theorem stores : Obligations.Stores := fun _ _ _ _ _ _ _ _ _ _ =>
  ⟨fun h => stAct_storesWith 1 h rfl, fun h => stAct_storesWith 2 h rfl, fun h => stAct_storesWith 4 h rfl, fun h => stAct_storesWith 8 h rfl,
    strel_aligned, strel_misaligned, vst_stores, vsts_stores, vscat_stores, pref_effects⟩

end Sys2Proof.LoadsAndStores
end

section
/-! Atomics (09 R220 to R228): how they fire, what they store, and their read and write of a page. -/

namespace Sys2Proof.Atomics

-- One proof at a time: proofs checked side by side take each a stack of memory.
set_option Elab.async false

open Sys2Proof.Machine Sys2Proof.LoadsAndStores

/-! ### How an atomic fires (09 R220, R221) -/

section
variable {s : State} {c : Ctx} {x : Inst} {i : Instr} {eff : BitVec 5} {va : Word} {n : Nat} {sc : Scope} {rlx barrier : Bool}
  {f : Nat → Option Nat} {mk : Nat → Token}

theorem atomAt_noncanonical (hc : canonical va n = false) : s.atomAt c x va n barrier = .bad .perm s := by
  simp only [State.atomAt, hc, Bool.not_false, if_true]

theorem atomAt_misaligned (hc : canonical va n = true) (hm : va.toNat % n ≠ 0) : s.atomAt c x va n barrier = .bad .misalign s := by
  simp only [State.atomAt, hc, hm, Bool.not_true, Bool.false_eq_true, if_false, ne_eq, not_false_eq_true, decide_true, if_true]

/-- At a place it may touch an atomic passes its checks. -/
theorem atomAt_place {l : Option Leaf} (hc : canonical va n = true) (hm : va.toNat % n = 0) (hd : s.focus.iid ∉ x.linkDead)
    (hp : AtomicPlace s c va n barrier l) : s.atomAt c x va n barrier = .ok l := by
  have hd' : x.linkDead.contains s.focus.iid = false := by simpa using hd
  unfold State.atomAt
  simp only [hc, hm, hd', Bool.not_true, Bool.false_eq_true, if_false, ne_eq, not_true_eq_false, decide_false]
  cases l with
  | none =>
    obtain ⟨off, ho⟩ := hp
    simp only [ho]
  | some y =>
    obtain ⟨hs, hg, hb, hh, -⟩ := hp
    have hb' : (barrier && (decide (y.kind = 2) || y.far)) = false := Bool.eq_false_iff.mpr fun h => hb (by simpa using h)
    have hh' : (y.h && decide (s.hypFinal c.hyp ≠ 0)) = false := Bool.eq_false_iff.mpr fun h => hh (by simpa using h)
    simp only [hs, hg, hb', hh', Bool.false_eq_true, if_false]

section
variable (hc : s.fctx = some c) (hx : s.finst = some x) (hw : s.focus.win = 0) (hl : x.lowerServed eff = true)
include hc hx hw hl

/-- In the oldest clause with its lower slots served, an atomic makes its checks. -/
theorem atomic_bad {k : Kind} {t u : State} (ha : s.atomAt c x va n barrier = .bad k t)
    (hg : t.gate eff ⟨false, false, none, false, false⟩ = .goes u) :
    s.atomic i eff va n sc rlx barrier f mk = .fires (u.notPerformed i k va) := by
  have ho : (!s.oldest || !x.lowerServed eff) = false := by simp [State.oldest, hw, hl]
  simp only [State.atomic, hc, hx, ho, Bool.false_eq_true, if_false, ha, gated_goes hg]

/-- What an atomic comes to once its gate lets it. -/
def atomResult (t : State) (l : Option Leaf) (d₀ : Ctx) (i : Instr) (eff : BitVec 5) (va : Word) (n : Nat) (sc : Scope) (rlx : Bool)
    (f : Nat → Option Nat) (mk : Nat → Token) : Act :=
  let act (t : State) : Rmw := match l, t.fctx with
    | none, some d => t.rmwScratch d va n f
    | some y, some d => t.rmwLeaf d y va n f
    | _, none => .bad .perm t
  match (match t.rmw l d₀ va n f with
    | .bad k u => Rmw.bad k u
    | .done _ _ => act (if rlx then t else t.releaseHere sc)) with
  | .bad k u => .fires (u.notPerformed i k va)
  | .done old u => .fires ((((if rlx then u else u.acquireHere sc).performed eff).effect i .done).deliver i (mk old))

omit hw hl in
/-- Past its gate, with no wait for its line or its far page, an atomic reads and writes. -/
theorem atomic_goes {l : Option Leaf} {t : State} {d₀ : Ctx} (hw : s.focus.win = 0) (hl : x.lowerServed eff = true)
    (ha : s.atomAt c x va n barrier = .ok l) (hp : AtomicPlace s c va n barrier l)
    (hg : s.gate eff (atomAsks l va n rlx) = .goes t) (hd : t.fctx = some d₀)
    (hfar : atomFar l = true → x.waitSince s.focus.iid ≠ none ∧ t.farQueued d₀ (c.cellOf s.focus.iid) = false) :
    s.atomic i eff va n sc rlx barrier f mk = atomResult t l d₀ i eff va n (if atomFar l then .sys else sc) rlx f mk := by
  have ho : (!s.oldest || !x.lowerServed eff) = false := by simp [State.oldest, hw, hl]
  have hq : (atomFar l && t.farQueued d₀ (c.cellOf s.focus.iid)) = false := by
    cases hf : atomFar l with
    | false => rfl
    | true => simp [(hfar hf).2]
  have hcut : ((l.map fun y => !y.far && s.homeCut c.tower (y.tag c.asid) va n).getD false || (atomFar l && (x.waitSince s.focus.iid).isNone)) = false := by
    cases l with
    | none => simp [atomFar]
    | some y =>
      obtain ⟨-, -, -, -, hhc⟩ := hp
      cases hy : y.far with
      | false => simp [atomFar, hy, hhc hy]
      | true =>
        have hws := (hfar (by simp [atomFar, hy])).1
        simp [atomFar, hy, Option.isSome_iff_ne_none.mpr hws]
  unfold atomFar at hq hcut
  unfold atomAsks at hg
  simp only [State.atomic, hc, hx, ho, ha, hg, hd, Option.map_some, Option.getD_some, hq, hcut, Bool.false_eq_true, if_false]
  cases l <;> rfl

end

/-- A read or write that meets a fault. -/
theorem atomResult_bad {t u : State} {l : Option Leaf} {d₀ : Ctx} {k : Kind} (h : t.rmw l d₀ va n f = .bad k u) :
    atomResult t l d₀ i eff va n sc rlx f mk = .fires (u.notPerformed i k va) := by
  simp only [atomResult, h]

/-- A read and write that succeed, after the release of one that is not relaxed. -/
theorem atomResult_done {t u₀ u : State} {l : Option Leaf} {d₀ d : Ctx} {o₀ old : Nat} (h : t.rmw l d₀ va n f = .done o₀ u₀)
    (hd : (if rlx then t else t.releaseHere sc).fctx = some d) (hr : (if rlx then t else t.releaseHere sc).rmw l d va n f = .done old u) :
    atomResult t l d₀ i eff va n sc rlx f mk
      = .fires ((((if rlx then u else u.acquireHere sc).performed eff).effect i .done).deliver i (mk old)) := by
  cases l with
  | none =>
    unfold State.rmw at hr
    simp only [atomResult, h, hd, hr]
  | some y =>
    unfold State.rmw at hr
    simp only [atomResult, h, hd, hr]

/-- An instruction whose action is an atomic fires atomically. -/
theorem atomically {v : Vals} {g : Vals → State → Act} (h : Acts s i v) (he : exec i s = fire s i g)
    (hg : g v s = s.atomic i eff va n sc rlx barrier f mk) : Atomically s i eff va n sc rlx barrier f mk := by
  have hfires : ∀ {t}, s.atomic i eff va n sc rlx barrier f mk = .fires t → exec i s = .next (s.fired t) :=
    fun ht => he.trans (fire_fires h (hg.trans ht))
  intro c x hc hx hw hl
  refine ⟨fun hnc u hu => hfires (atomic_bad hc hx hw hl (atomAt_noncanonical hnc) hu),
    fun hcan hm u hu => hfires (atomic_bad hc hx hw hl (atomAt_misaligned hcan hm) hu),
    fun k t u ha hu => hfires (atomic_bad hc hx hw hl ha hu), fun l t d₀ hcan hm hd hp hgate hfctx hfar => ?_⟩
  have hgoes := atomic_goes (i := i) (sc := sc) (f := f) (mk := mk) hc hx hw hl (atomAt_place hcan hm hd hp) hp hgate hfctx hfar
  intro sc'
  exact ⟨fun k u hr => hfires (hgoes.trans (atomResult_bad hr)), fun o₀ u₀ d u old h₀ hd hr => hfires (hgoes.trans (atomResult_done h₀ hd hr))⟩

end

/-! ### The operations (09 R222 to R224, R228) -/

/-- A scalar atomic of AMO1. -/
theorem amoAct_atomically {s : State} {i : Instr} {v : Vals} {eff : BitVec 5} {z : AmoSize} {sc : Scope} {rx : Bool} (op : Nat → Nat → Nat → Nat)
    (h : Acts s i v) (he : exec i s = fire s i (amoAct i eff z sc rx op)) :
    Atomically s i eff v.a.bits (AmoSize.bytes z) sc rx false
      (fun old => some (op (8 * AmoSize.bytes z) old (v.b.bits.toNat % 2 ^ (8 * AmoSize.bytes z)))) (fun old => .scalar (w64 old)) :=
  atomically h he rfl

/-- Settles O31: each atomic with its operation. -/
theorem atomics : Obligations.Atomics := by
  refine ⟨fun s v pr eff z sc rx t => ⟨fun h => amoAct_atomically (fun e x y => (x + y) % 2 ^ e) h rfl, fun h => amoAct_atomically (fun _ x y => x &&& y) h rfl,
      fun h => amoAct_atomically (fun _ x y => x ||| y) h rfl, fun h => amoAct_atomically (fun _ x y => x ^^^ y) h rfl,
      fun h => amoAct_atomically (fun e x y => if sgnOf e x ≤ sgnOf e y then x else y) h rfl,
      fun h => amoAct_atomically (fun e x y => if sgnOf e x ≤ sgnOf e y then y else x) h rfl, fun h => ?_, fun h => ?_,
      fun h => amoAct_atomically (fun _ _ y => y) h rfl, fun h => atomically h (show execAmocas pr eff z sc rx t s = _ from rfl) rfl,
      fun h => amoAct_atomically (fun _ x y => amoFadd (if z = .w then .fp32 else .fp64) x y) h rfl⟩,
    fun s v pr eff y sc rx t => ⟨fun h => atomically h (show execVamoadd pr eff y sc rx t s = _ from rfl) rfl,
      fun h => atomically h (show execBara pr eff sc t s = _ from rfl) rfl⟩⟩
  · simpa only [Nat.min_def] using amoAct_atomically (fun _ x y => if x ≤ y then x else y) h (show execAmominu pr eff z sc rx t s = _ from rfl)
  · simpa only [Nat.max_def] using amoAct_atomically (fun _ x y => if x ≤ y then y else x) h (show execAmomaxu pr eff z sc rx t s = _ from rfl)

/-! ### The read and write of a page (09 R220) -/

/-- The state an atomic reads in: at the home slice, once the earlier updates of its lines have reached the L1s. -/
def settledFor (s : State) (c : Ctx) (l : Leaf) (va : Word) (n : Nat) : State :=
  if l.far then s else s.l1Settle (l.tag c.asid) va.toNat n

theorem settledFor_mem (s : State) (c : Ctx) (l : Leaf) (va : Word) (n : Nat) : (settledFor s c l va n).mem = s.mem := by
  unfold settledFor
  split <;> rfl

theorem paBytes_congr {s u : State} (h : ∀ a, u.paByte a = s.paByte a) (pa n : Nat) : u.paBytes pa n = s.paBytes pa n := by
  induction n generalizing pa with
  | zero => rfl
  | succ n ih => rw [State.paBytes, State.paBytes, h, ih]

theorem settledFor_paBytes (s : State) (c : Ctx) (l : Leaf) (va : Word) (n pa m : Nat) :
    (settledFor s c l va n).paBytes pa m = s.paBytes pa m := by
  refine paBytes_congr (fun a => ?_) pa m
  unfold settledFor
  split <;> rfl

/-- Where nothing stands against it, an atomic reads its bytes and writes what its operation stores. -/
theorem rmwLeaf_sound {s : State} {c : Ctx} {l : Leaf} {va : Word} {n : Nat} (f : Nat → Option Nat) (hl : s.live (l.pa va) = true)
    (ho : s.openAt (l.pa va) = true) (hb : s.badAt (l.pa va) n = false) :
    s.rmwLeaf c l va n f = match f (bytesToNat (s.paBytes (l.pa va) n)) with
      | none => .done (bytesToNat (s.paBytes (l.pa va) n)) (settledFor s c l va n)
      | some v =>
        match (settledFor s c l va n).leafWrite c.asid l va (natToBytes n v) 0 (some c.recA) with
        | .ok t => .done (bytesToNat (s.paBytes (l.pa va) n))
            (t.onCtx c.id fun x => { x.applyU (.plain va (natToBytes n v)) (l.tag c.asid) with watch := c.watch })
        | .bad k t => .bad k t := by
  rw [← settledFor_paBytes s c l va n (l.pa va) n]
  simp only [State.rmwLeaf, hl, ho, hb, Bool.not_true, Bool.false_eq_true, if_false] <;> rfl

/-- Settles O32: the checks of `rmwLeaf` in their order, then its read and its write. -/
theorem atomicReadWrite : Obligations.AtomicReadWrite := by
  intro s c l va n f
  refine ⟨fun hl => ?_, fun hl ho => ?_, fun hl ho hb => ?_, fun hl ho hb => ?_⟩
  · simp only [State.rmwLeaf, hl, Bool.not_false, if_true]
  · simp only [State.rmwLeaf, hl, ho, Bool.not_true, Bool.not_false, Bool.false_eq_true, if_false, if_true]
  · simp only [State.rmwLeaf, hl, ho, hb, Bool.not_true, Bool.false_eq_true, if_false, if_true]
  · refine ⟨fun hn => ?_, settledFor_mem s c l va n, fun w t hs hw => ?_⟩
    · rw [rmwLeaf_sound f hl ho hb, hn]
      rfl
    · rw [rmwLeaf_sound f hl ho hb, hs]
      simp only [show (settledFor s c l va n).leafWrite c.asid l va (natToBytes n w) 0 (some c.recA) = _ from hw]

end Sys2Proof.Atomics
end

section
/-! Writes through a leaf and atomics (08 R181 to R195; 09 R220): where their bytes go, and what they leave of memory and of the contexts. -/

namespace Sys2Proof.PageWrites

-- One proof at a time: proofs checked side by side take each a stack of memory.
set_option Elab.async false

open Sys2Proof.Machine Sys2Proof.MemoryBytes Sys2Proof.Atomics

/-! ### Contexts that keep their registers -/

theorem sameRegs_refl (c : Ctx) : c.sameRegs c := ⟨rfl, rfl, rfl, fun _ => rfl⟩

theorem sameRegs_trans {a b c : Ctx} (h : a.sameRegs b) (k : b.sameRegs c) : a.sameRegs c := by
  obtain ⟨h1, h2, h3, h4⟩ := h
  obtain ⟨k1, k2, k3, k4⟩ := k
  exact ⟨h1.trans k1, h2.trans k2, h3.trans k3, fun n => (h4 n).trans (k4 n)⟩

/-- A context with the registers, the clauses and the stores of another. -/
def SameTask (d b : Ctx) : Prop := d.id = b.id ∧ d.sameRegs b ∧ d.window = b.window ∧ d.pend = b.pend

theorem SameTask.refl (c : Ctx) : SameTask c c := ⟨rfl, sameRegs_refl c, rfl, rfl⟩

theorem SameTask.trans {a b c : Ctx} (h : SameTask a b) (k : SameTask b c) : SameTask a c := by
  obtain ⟨h1, h2, h3, h4⟩ := h
  obtain ⟨k1, k2, k3, k4⟩ := k
  exact ⟨h1.trans k1, sameRegs_trans h2 k2, h3.trans k3, h4.trans k4⟩

/-- Every context of t stood in s with the same registers, clauses and stores. -/
def TasksKept (s t : State) : Prop := ∀ d ∈ t.ctxs, ∃ b ∈ s.ctxs, SameTask d b

theorem TasksKept.trans {s t u : State} (h : TasksKept s t) (k : TasksKept t u) : TasksKept s u := by
  intro e he
  obtain ⟨d, hd, hed⟩ := k e he
  obtain ⟨b, hb, hdb⟩ := h d hd
  exact ⟨b, hb, hed.trans hdb⟩

theorem tasksKept_of_eq {s t : State} (h : t.ctxs = s.ctxs) : TasksKept s t := fun d hd => ⟨d, h ▸ hd, .refl d⟩

theorem tasksKept_of_map {s t : State} {f : Ctx → Ctx} (h : t.ctxs = s.ctxs.map f) (hf : ∀ c, SameTask (f c) c) : TasksKept s t := by
  intro d hd
  rw [h] at hd
  obtain ⟨b, hb, rfl⟩ := List.mem_map.mp hd
  exact ⟨b, hb, hf b⟩

/-- A change of the L1s, of the watched line, of both: registers, clauses and stores stay. -/
theorem sameTask_l1_watch (c : Ctx) (l1 : List L1Line) (w : Option (Nat × Bool)) : SameTask { c with l1 := l1, watch := w } c :=
  ⟨rfl, ⟨rfl, rfl, rfl, fun _ => rfl⟩, rfl, rfl⟩

theorem tasksKept_l1Settle (s : State) (tag : Option (BitVec 16)) (va n : Nat) : TasksKept s (s.l1Settle tag va n) :=
  tasksKept_of_map rfl fun c => sameTask_l1_watch c _ c.watch

/-- What waking the watchers of a line makes of a context. -/
def woke (pa n : Nat) (sees : Ctx → Bool) (c : Ctx) : Ctx :=
  match c.watch with
  | none => c
  | some (line, _) => if line * 64 < pa + n ∧ pa < line * 64 + 64 ∧ sees c = true then { c with watch := some (line, true) } else c

theorem wakeWatch_ctxs (s : State) (pa n : Nat) (sees : Ctx → Bool) : (s.wakeWatch pa n sees).ctxs = s.ctxs.map (woke pa n sees) := rfl

theorem sameTask_woke (pa n : Nat) (sees : Ctx → Bool) (c : Ctx) : SameTask (woke pa n sees c) c := by
  unfold woke
  split
  · exact .refl c
  · split
    · exact sameTask_l1_watch c c.l1 _
    · exact .refl c

theorem tasksKept_wakeWatch (s : State) (pa n : Nat) (sees : Ctx → Bool) : TasksKept s (s.wakeWatch pa n sees) :=
  tasksKept_of_map (wakeWatch_ctxs s pa n sees) (sameTask_woke pa n sees)

/-! ### A version of a hypothesis (10 R238) -/

/-- Neither memory nor any context changes. -/
def Aside (s t : State) : Prop := t.mem = s.mem ∧ t.ctxs = s.ctxs

theorem Aside.trans {s t u : State} (h : Aside s t) (k : Aside t u) : Aside s u := ⟨k.1.trans h.1, k.2.trans h.2⟩

theorem putVersion_aside {s t : State} {asid : BitVec 16} {tag : Option (BitVec 16)} {h : BitVec 12} {va : Nat} {data : List Byte}
    (ht : s.putVersion asid tag h va data = .ok t) : Aside s t := by
  unfold State.putVersion at ht
  split at ht
  · cases ht; exact ⟨rfl, rfl⟩
  · dsimp only at ht
    split at ht
    · cases ht; exact ⟨rfl, rfl⟩
    · split at ht
      · cases ht; exact ⟨rfl, rfl⟩
      · cases ht

theorem putLines_aside {asid : BitVec 16} {tag : Option (BitVec 16)} {h : BitVec 12} (fuel : Nat) :
    ∀ {s t : State} {va : Nat} {data : List Byte}, s.putLines asid tag h fuel va data = .ok t → Aside s t := by
  induction fuel with
  | zero =>
    intro s t va data ht
    cases ht
    exact ⟨rfl, rfl⟩
  | succ n ih =>
    intro s t va data ht
    unfold State.putLines at ht
    dsimp only at ht
    split at ht
    · cases ht
    · next u hu =>
      split at ht
      · cases ht
        exact putVersion_aside hu
      · exact (putVersion_aside hu).trans (ih ht)

theorem putVersions_aside {s t : State} {asid : BitVec 16} {tag : Option (BitVec 16)} {h : BitVec 12} {va : Nat} {data : List Byte}
    (ht : s.putVersions asid tag h va data = .ok t) : Aside s t := by
  unfold State.putVersions at ht
  split at ht
  · cases ht
  · next u hu => cases ht; exact putLines_aside _ hu

/-! ### A write through a leaf -/

/-- What a write of a page leaves once nothing stands against it: its bytes in memory, the copies of its lines given up, the watchers of its lines woken. -/
def pageWritten (s : State) (asid : BitVec 16) (l : Leaf) (va : Word) (bs : List Byte) (wr : Option Word) : State :=
  let t := (((s.l1Settle (l.tag asid) va.toNat bs.length).pwrite (l.pa va) bs).backInvalidate (l.pa va) bs.length).wakeWatch (l.pa va) bs.length fun _ => true
  if l.m then t.markDirty asid va.toNat bs.length wr else t

/-- Where a write of a page goes: nowhere or into a version when it belongs to a hypothesis, to a device, or to memory. -/
theorem leafWrite_cases {s t : State} {asid : BitVec 16} {l : Leaf} {va : Word} {bs : List Byte} {hyp : BitVec 12} {wr : Option Word}
    (h : s.leafWrite asid l va bs hyp wr = .ok t) :
    (s.subjunctive l hyp = true ∧ (t = s ∨ ∃ u sees, Aside s u ∧ t = u.wakeWatch (l.pa va) bs.length sees))
      ∨ (s.subjunctive l hyp = false ∧ l.far = false ∧ ∃ off, paKind (l.pa va) = .device off ∧ t = s.devWrite (l.pa va) off bs)
      ∨ (s.subjunctive l hyp = false ∧ (l.far = true ∨ ∀ off, paKind (l.pa va) ≠ .device off) ∧ t = pageWritten s asid l va bs wr) := by
  cases hsub : s.subjunctive l hyp with
  | true =>
    refine .inl ⟨rfl, ?_⟩
    simp only [State.leafWrite, hsub, Bool.true_and, if_true] at h
    split at h
    · cases h; exact .inl rfl
    · split at h
      · cases h
      · split at h
        · cases h
        · cases hv : s.putVersions asid (l.tag asid) (s.hypFinal hyp) va.toNat bs with
          | bad k u => rw [hv] at h; cases h
          | ok u =>
            rw [hv] at h
            cases h
            exact .inr ⟨u, _, putVersions_aside hv, rfl⟩
  | false =>
    simp only [State.leafWrite, hsub, Bool.false_and, Bool.false_eq_true, if_false] at h
    split at h
    · cases h
    · split at h
      · cases h
      · split at h
        · cases h
        · split at h
          · next off hk =>
            have hfar : l.far = false := by
              by_contra hf
              rw [Bool.not_eq_false] at hf
              simp [hf] at hk
            rw [hfar, if_neg (by decide)] at hk
            cases h
            exact .inr (.inl ⟨rfl, hfar, off, hk, rfl⟩)
          · next hk =>
            refine .inr (.inr ⟨rfl, ?_, by cases h; rfl⟩)
            cases hfar : l.far with
            | true => exact .inl rfl
            | false =>
              rw [hfar, if_neg (by decide)] at hk
              exact .inr hk

/-! ### What a write of a page leaves -/

section
variable (s : State) (asid : BitVec 16) (l : Leaf) (va : Word) (bs : List Byte) (wr : Option Word)

theorem pageWritten_mem : (pageWritten s asid l va bs wr).mem = s.mem.setN (l.pa va) bs := by
  unfold pageWritten
  dsimp only
  split <;> rfl

theorem pageWritten_ctxs :
    (pageWritten s asid l va bs wr).ctxs
      = (s.l1Settle (l.tag asid) va.toNat bs.length).ctxs.map (woke (l.pa va) bs.length fun _ => true) := by
  unfold pageWritten
  dsimp only
  split <;> rfl

theorem tasksKept_pageWritten : TasksKept s (pageWritten s asid l va bs wr) := by
  refine (tasksKept_l1Settle s (l.tag asid) va.toNat bs.length).trans ?_
  exact tasksKept_of_map (pageWritten_ctxs s asid l va bs wr) (sameTask_woke _ _ _)

end

theorem mboxCommand_aside (s : State) (m : Nat) (cmd : BitVec 16) : Aside s (s.mboxCommand m cmd) := by
  unfold State.mboxCommand
  dsimp only
  split
  · exact ⟨rfl, rfl⟩
  · split <;> exact ⟨rfl, rfl⟩

theorem routeWrite_aside (s : State) (d : Nat) (v : Word) : Aside s (s.routeWrite d v) := by
  unfold State.routeWrite
  split <;> exact ⟨rfl, rfl⟩

/-- A write to a device register changes memory in a mailbox buffer alone, and no context. -/
theorem devWrite_cases (s : State) (pa off : Nat) (bs : List Byte) :
    ((s.devWrite pa off bs).mem = s.mem.setN pa bs ∨ (s.devWrite pa off bs).mem = s.mem) ∧ (s.devWrite pa off bs).ctxs = s.ctxs := by
  unfold State.devWrite
  split
  · exact ⟨.inl rfl, rfl⟩
  · split
    · exact ⟨.inr (mboxCommand_aside _ _ _).1, (mboxCommand_aside _ _ _).2⟩
    · split
      · exact ⟨.inr (routeWrite_aside _ _ _).1, (routeWrite_aside _ _ _).2⟩
      · exact ⟨.inr rfl, rfl⟩

section
variable {s t : State} {asid : BitVec 16} {l : Leaf} {va : Word} {bs : List Byte} {hyp : BitVec 12} {wr : Option Word}
  (h : s.leafWrite asid l va bs hyp wr = .ok t)
include h

/-- Of memory a write of a page changes nothing, or its own bytes. -/
theorem leafWrite_mem : t.mem = s.mem ∨ t.mem = s.mem.setN (l.pa va) bs := by
  obtain ⟨-, rfl | ⟨u, sees, ⟨hm, -⟩, rfl⟩⟩ | ⟨-, -, off, -, rfl⟩ | ⟨-, -, rfl⟩ := leafWrite_cases h
  · exact .inl rfl
  · exact .inl hm
  · exact (devWrite_cases s (l.pa va) off bs).1.symm
  · exact .inr (pageWritten_mem s asid l va bs wr)

theorem leafWrite_memOk (hw : s.memOk) : t.memOk := by
  unfold State.memOk at *
  rcases leafWrite_mem h with hm | hm
  · rwa [hm]
  · rw [hm]
    exact Memory.wf_setN hw _ _

theorem leafWrite_outside (hw : s.memOk) {a : Nat} (ha : a < l.pa va ∨ l.pa va + bs.length ≤ a) : t.mem.get a = s.mem.get a := by
  rcases leafWrite_mem h with hm | hm
  · rw [hm]
  · rw [hm]
    exact Memory.get_setN_other hw _ _ ha

theorem leafWrite_tasksKept : TasksKept s t := by
  obtain ⟨-, rfl | ⟨u, sees, ⟨-, hc⟩, rfl⟩⟩ | ⟨-, -, off, -, rfl⟩ | ⟨-, -, rfl⟩ := leafWrite_cases h
  · exact tasksKept_of_eq rfl
  · exact (tasksKept_of_eq hc).trans (tasksKept_wakeWatch u _ _ _)
  · exact tasksKept_of_eq (devWrite_cases s (l.pa va) off bs).2
  · exact tasksKept_pageWritten s asid l va bs wr

/-- A version of a hypothesis leaves memory alone (10 R238). -/
theorem leafWrite_version (hs : s.subjunctive l hyp = true) : t.mem = s.mem := by
  obtain ⟨-, rfl | ⟨u, sees, ⟨hm, -⟩, rfl⟩⟩ | ⟨hn, -⟩ | ⟨hn, -⟩ := leafWrite_cases h
  · rfl
  · exact hm
  · rw [hs] at hn; cases hn
  · rw [hs] at hn; cases hn

/-- A write that is no version and goes to no device is performed in memory. -/
theorem leafWrite_performed (hs : s.subjunctive l hyp = false) (hd : l.far = true ∨ ∀ off, paKind (l.pa va) ≠ .device off) :
    t = pageWritten s asid l va bs wr := by
  obtain ⟨hn, -⟩ | ⟨-, hf, off, hk, -⟩ | ⟨-, -, rfl⟩ := leafWrite_cases h
  · rw [hs] at hn; cases hn
  · rcases hd with hd | hd
    · rw [hd] at hf; cases hf
    · exact absurd hk (hd off)
  · rfl

end

theorem subjunctive_eq_true {s : State} {l : Leaf} {hyp : BitVec 12} (hh : l.h = true) (hf : l.far = false) (hn : s.hypFinal hyp ≠ 0) :
    s.subjunctive l hyp = true := by
  simp only [State.subjunctive, hh, hf, Bool.not_false, Bool.true_and]
  exact decide_eq_true hn

theorem subjunctive_eq_false {s : State} {l : Leaf} {hyp : BitVec 12} (h : l.h = false ∨ l.far = true ∨ s.hypFinal hyp = 0) :
    s.subjunctive l hyp = false := by
  rcases h with h | h | h <;> simp [State.subjunctive, h]

/-! ### Atomics -/

/-- An atomic's update of its own L1 lines, the watched line put back, keeps the context's registers. -/
theorem sameTask_applyU (c : Ctx) (p : Lane) (tag : Option (BitVec 16)) (w : Option (Nat × Bool)) : SameTask { c.applyU p tag with watch := w } c :=
  sameTask_l1_watch c _ w

theorem tasksKept_onCtx (s : State) (n : Nat) {f : Ctx → Ctx} (hf : ∀ c, SameTask (f c) c) : TasksKept s (s.onCtx n f) := by
  refine tasksKept_of_map (f := fun x => if x.id = n then f x else x) rfl fun c => ?_
  split
  · exact hf c
  · exact .refl c

theorem tasksKept_settledFor (s : State) (c : Ctx) (l : Leaf) (va : Word) (n : Nat) : TasksKept s (settledFor s c l va n) := by
  unfold settledFor
  split
  · exact tasksKept_of_eq rfl
  · exact tasksKept_l1Settle s _ _ _

/-- What an atomic on a page that is performed has done: it read its bytes, and stored nothing or what its operation gives. -/
theorem rmwLeaf_done {s t : State} {c : Ctx} {l : Leaf} {va : Word} {n old : Nat} {f : Nat → Option Nat} (h : s.rmwLeaf c l va n f = .done old t) :
    old = bytesToNat (s.paBytes (l.pa va) n) ∧
      ((f old = none ∧ t = settledFor s c l va n) ∨ ∃ v u, f old = some v ∧
        (settledFor s c l va n).leafWrite c.asid l va (natToBytes n v) 0 (some c.recA) = .ok u
          ∧ t = u.onCtx c.id fun x => { x.applyU (.plain va (natToBytes n v)) (l.tag c.asid) with watch := c.watch }) := by
  obtain ⟨hdead, hclosed, hunsound, -⟩ := atomicReadWrite s c l va n f
  have hl : s.live (l.pa va) = true := by
    by_contra hl
    rw [hdead (Bool.eq_false_iff.mpr hl)] at h
    cases h
  have ho : s.openAt (l.pa va) = true := by
    by_contra ho
    rw [hclosed hl (Bool.eq_false_iff.mpr ho)] at h
    cases h
  have hb : s.badAt (l.pa va) n = false := by
    by_contra hb
    rw [hunsound hl ho (Bool.not_eq_false _ ▸ hb)] at h
    cases h
  rw [rmwLeaf_sound f hl ho hb] at h
  split at h
  · next hf =>
    cases h
    exact ⟨rfl, .inl ⟨hf, rfl⟩⟩
  · next v hf =>
    split at h
    · next u hu =>
      cases h
      exact ⟨rfl, .inr ⟨v, u, hf, hu, rfl⟩⟩
    · cases h

section
variable {s t : State} {c : Ctx} {va : Word} {n old : Nat} {f : Nat → Option Nat}

theorem tasksKept_rmwLeaf {l : Leaf} (h : s.rmwLeaf c l va n f = .done old t) : TasksKept s t := by
  obtain ⟨-, ⟨-, rfl⟩ | ⟨v, u, -, hu, rfl⟩⟩ := rmwLeaf_done h
  · exact tasksKept_settledFor s c l va n
  · exact ((tasksKept_settledFor s c l va n).trans (leafWrite_tasksKept hu)).trans (tasksKept_onCtx u c.id fun x => sameTask_applyU x _ _ _)

/-- An atomic on a page leaves the canonical form, every byte outside its own, and all of memory where it stores nothing. -/
theorem rmwLeaf_mem {l : Leaf} (hw : s.memOk) (h : s.rmwLeaf c l va n f = .done old t) :
    t.memOk ∧ (∀ a, a < l.pa va ∨ l.pa va + n ≤ a → t.mem.get a = s.mem.get a) ∧ (f old = none → t.mem = s.mem) := by
  have hset := settledFor_mem s c l va n
  have hws : (settledFor s c l va n).memOk := by unfold State.memOk; rwa [hset]
  obtain ⟨-, ⟨-, rfl⟩ | ⟨v, u, hf, hu, rfl⟩⟩ := rmwLeaf_done h
  · exact ⟨hws, fun a _ => by rw [hset], fun _ => hset⟩
  · have hout : ∀ a, a < l.pa va ∨ l.pa va + n ≤ a → u.mem.get a = s.mem.get a := by
      intro a ha
      rw [← length_natToBytes n v] at ha
      rw [leafWrite_outside hu hws ha, hset]
    have hok : u.memOk := leafWrite_memOk hu hws
    exact ⟨hok, hout, fun hn => by rw [hn] at hf; cases hf⟩

/-- Scratch takes bytes without a change of the registers. -/
theorem sameTask_putScratch_regs (x : Ctx) (p : Lane) : (x.putScratch p).id = x.id ∧ (x.putScratch p).sameRegs x := by
  unfold Ctx.putScratch
  dsimp only
  split
  · exact ⟨rfl, sameRegs_refl x⟩
  · exact ⟨rfl, rfl, rfl, rfl, fun _ => rfl⟩

theorem rmwScratch_kept (h : s.rmwScratch c va n f = .done old t) :
    t.mem = s.mem ∧ ∀ d ∈ t.ctxs, ∃ b ∈ s.ctxs, d.id = b.id ∧ d.sameRegs b := by
  unfold State.rmwScratch at h
  split at h
  · cases h
  · dsimp only at h
    split at h
    · cases h
      exact ⟨rfl, fun d hd => ⟨d, hd, rfl, sameRegs_refl d⟩⟩
    · next v _ =>
      cases h
      refine ⟨rfl, fun d hd => ?_⟩
      obtain ⟨b, hb, rfl⟩ := List.mem_map.mp hd
      refine ⟨b, hb, ?_⟩
      split
      · exact sameTask_putScratch_regs b _
      · exact ⟨rfl, sameRegs_refl b⟩

end

/-- Settles O57: by where a write goes (`leafWrite_cases`) and what a performed atomic has done (`rmwLeaf_done`). -/
theorem storeFrame : Obligations.StoreFrame := by
  refine ⟨fun s t asid l va bs hyp wr hw h => ⟨leafWrite_memOk h hw, fun a ha => leafWrite_outside h hw ha,
    fun hh hf hn => leafWrite_version h (subjunctive_eq_true hh hf hn), fun hs hd => ?_, leafWrite_tasksKept h⟩,
    fun s t c va n old f hw => ⟨fun l h => ?_, rmwScratch_kept⟩⟩
  · rw [leafWrite_performed h (subjunctive_eq_false hs) hd, pageWritten_mem]
    exact getN_setN hw _ _
  · obtain ⟨hok, hout, hnone⟩ := rmwLeaf_mem hw h
    refine ⟨hok, (rmwLeaf_done h).1, hout, hnone, fun d hd => ?_⟩
    obtain ⟨b, hb, hid, hregs, -, -⟩ := tasksKept_rmwLeaf h d hd
    exact ⟨b, hb, hid, hregs⟩

end Sys2Proof.PageWrites
end

section
/-! Fences, WAITV and BARW (09 R214, R226, R229). -/

namespace Sys2Proof.Waits

-- One proof at a time: proofs checked side by side take each a stack of memory.
set_option Elab.async false

open Sys2Proof.Machine Sys2Proof.LoadsAndStores Sys2Proof.PageWrites

/-! ### The fences -/

/-- A fence keeps its kind and scope. -/
theorem fence_effects {s : State} {i : Instr} {v : Vals} {kind : Nat} {sc : Scope} (h : Acts s i v) (he : exec i s = fire s i (fenceAct i kind sc)) :
    Effects s i (.fence kind sc) := he.trans (fire_fires h rfl)

/-! ### WAITV (09 R226) -/

section
variable {s : State} {v : Vals} {pr : Pred} {eff : BitVec 5} {aq : Bool} {sc : Scope} {t : Tgt} {c : Ctx} {x : Inst}
  (hc : s.fctx = some c) (hx : s.finst = some x)

section
include hc hx

theorem waitv_misaligned (h : Acts s (.waitv pr eff aq t) v) (hw : s.focus.win = 0) (hcan : canonical v.a.bits 8 = true)
    (hm : v.a.bits.toNat % 8 ≠ 0) :
    exec (.waitv pr eff aq t) s = .next (s.fired (s.loadPoison (.waitv pr eff aq t) .misalign v.a.bits)) := by
  have hz : bitsZero v.a.bits 0 3 = false := Bool.eq_false_iff.mpr fun hz => hm ((bitsZero_three_iff _).mp hz)
  have ho : s.oldest = true := decide_eq_true hw
  show execWaitv pr eff aq t s = _
  unfold execWaitv
  exact fire_fires h (by simp only [hc, hx, ho, hcan, hz, Bool.not_true, Bool.not_false, Bool.false_eq_true, if_false, if_true])

omit hx in
/-- The second half of a WAITV, where its word can be read. -/
theorem waitvRead_fires {i : Instr} {va : Word} (hr : (s.loadAll c s.focus.win s.focus.iid eff.toNat false [(va, 8)]).wait = false)
    (hb : (s.loadAll c s.focus.win s.focus.iid eff.toNat false [(va, 8)]).bad = none) :
    s.waitvRead i eff va aq =
      let r := s.loadAll c s.focus.win s.focus.iid eff.toNat false [(va, 8)]
      .fires (r.st.loadWord i eff va r.bytes (if aq then .acquire else .done) (BitVec.ofNat 64 (bytesToNat ((r.bytes.head?).getD [])))) := by
  simp only [State.waitvRead, hc, hr, hb, Bool.false_eq_true, if_false] <;> rfl

theorem waitv_delivers (h : Acts s (.waitv pr eff aq t) v) (hw : s.focus.win = 0) (hcan : canonical v.a.bits 8 = true)
    (hm : v.a.bits.toNat % 8 = 0) (hd : s.focus.iid ∉ x.linkDead) (hlw : c.loadWaits x s.focus eff = false)
    (hl : ∀ q ∈ x.loads, q.iid ≠ s.focus.iid) (hr : (s.loadAll c s.focus.win s.focus.iid eff.toNat false [(v.a.bits, 8)]).wait = false)
    (hb : (s.loadAll c s.focus.win s.focus.iid eff.toNat false [(v.a.bits, 8)]).bad = none)
    (hcut : s.cutAcc c (c.cellOf s.focus.iid) v.a.bits 8 .load = false)
    (hnow : BitVec.ofNat 64 (bytesToNat (((s.loadAll c s.focus.win s.focus.iid eff.toNat false [(v.a.bits, 8)]).bytes.head?).getD [])) ≠ v.b.bits
      ∨ c.scratchAcc v.a.bits 8 ≠ none ∨ s.farAcc c (c.cellOf s.focus.iid) v.a.bits 8 .load = true) :
    exec (.waitv pr eff aq t) s = .next (s.fired (let r := s.loadAll c s.focus.win s.focus.iid eff.toNat false [(v.a.bits, 8)]
      r.st.loadWord (.waitv pr eff aq t) eff v.a.bits r.bytes (if aq then .acquire else .done)
        (BitVec.ofNat 64 (bytesToNat ((r.bytes.head?).getD []))))) := by
  have hz : bitsZero v.a.bits 0 3 = true := (bitsZero_three_iff _).mpr hm
  have ho : s.oldest = true := decide_eq_true hw
  have hd' : x.linkDead.contains s.focus.iid = false := by simpa using hd
  have hl' : (x.loads.any fun r => decide (r.iid = s.focus.iid)) = false := List.any_eq_false.mpr fun q hq => by simp [hl q hq]
  have hwait : (((s.loadAll c s.focus.win s.focus.iid eff.toNat false [(v.a.bits, 8)]).bad.isNone
      && decide (w64 (bytesToNat (((s.loadAll c s.focus.win s.focus.iid eff.toNat false [(v.a.bits, 8)]).bytes.head?).getD [])) = v.b.bits))
      && (c.scratchAcc v.a.bits 8).isNone && !s.farAcc c (c.cellOf s.focus.iid) v.a.bits 8 .load) = false := by
    rcases hnow with hne | hs | hf
    · have hne' : decide (w64 (bytesToNat (((s.loadAll c s.focus.win s.focus.iid eff.toNat false [(v.a.bits, 8)]).bytes.head?).getD [])) = v.b.bits) = false :=
        decide_eq_false hne
      simp [hne']
    · simp [Option.isNone_eq_false_iff.mpr (Option.isSome_iff_ne_none.mpr hs)]
    · simp [hf]
  have hread := waitvRead_fires (i := .waitv pr eff aq t) (aq := aq) hc hr hb
  show execWaitv pr eff aq t s = _
  unfold execWaitv
  refine fire_fires h ?_
  simp only [hc, hx, ho, hcan, hz, hd', hlw, hl', hr, hcut, hwait, Bool.not_true, Bool.false_eq_true, if_false, Bool.or_self]
  exact hread

/-! ### BARW (09 R229) -/

theorem barw_misaligned (h : Acts s (.barw pr eff sc t) v) (hcan : canonical v.a.bits 8 = true) (hm : v.a.bits.toNat % 8 ≠ 0) :
    exec (.barw pr eff sc t) s = .next (s.fired (s.notPerformed (.barw pr eff sc t) .misalign v.a.bits)) := by
  have hz : bitsZero v.a.bits 0 3 = false := Bool.eq_false_iff.mpr fun hz => hm ((bitsZero_three_iff _).mp hz)
  show execBarw pr eff sc t s = _
  unfold execBarw
  exact fire_fires h (by simp only [hc, hx, hcan, hz, Bool.not_true, Bool.not_false, Bool.false_eq_true, if_false, if_true])

theorem barw_delivers {l : Leaf} (h : Acts s (.barw pr eff sc t) v) (hcan : canonical v.a.bits 8 = true) (hm : v.a.bits.toNat % 8 = 0)
    (hd : s.focus.iid ∉ x.linkDead) (hlw : c.loadWaits x s.focus eff = false) (hs : c.scratchAcc v.a.bits 8 = none)
    (hp : s.permLook c.tower (c.cellOf s.focus.iid) c.asid v.a.bits .load = .ok l) (hk : l.kind ≠ 2) (hf : l.far = false)
    (hh : l.h = false ∨ s.hypFinal c.hyp = 0) (hr : (s.loadAll c s.focus.win s.focus.iid eff.toNat false [(v.a.bits, 8)]).wait = false)
    (hb : (s.loadAll c s.focus.win s.focus.iid eff.toNat false [(v.a.bits, 8)]).bad = none)
    (hcut : s.cutAcc c (c.cellOf s.focus.iid) v.a.bits 8 .load = false)
    (hgen : bytesToNat (((s.loadAll c s.focus.win s.focus.iid eff.toNat false [(v.a.bits, 8)]).bytes.head?).getD []) / 2 ^ 48 ≠ v.b.bits.toNat % 65536) :
    exec (.barw pr eff sc t) s = .next (s.fired (let r := s.loadAll c s.focus.win s.focus.iid eff.toNat false [(v.a.bits, 8)]
      r.st.loadWord (.barw pr eff sc t) eff v.a.bits r.bytes (if sc = .lens then .done else .acquire)
        (w64 (bytesToNat ((r.bytes.head?).getD []) / 2 ^ 48)))) := by
  have hz : bitsZero v.a.bits 0 3 = true := (bitsZero_three_iff _).mpr hm
  have hd' : x.linkDead.contains s.focus.iid = false := by simpa using hd
  have hk' : (decide (l.kind = 2) || l.far) = false := by simp [hk, hf]
  have hh' : (l.h && decide (s.hypFinal c.hyp ≠ 0)) = false := by
    rcases hh with hh | hh <;> simp [hh]
  show execBarw pr eff sc t s = _
  unfold execBarw
  refine fire_fires h ?_
  simp only [hc, hx, hcan, hz, hd', hlw, hs, hp, hk', hh', hr, hb, hcut, hgen, Bool.not_true, Bool.false_eq_true, if_false, Bool.or_self]

end

end

/-! ### The bytes of a load -/

/-- Bytes make a number below the power of 256 that their count names. -/
theorem bytesToNat_lt (bs : List Byte) : bytesToNat bs < 256 ^ bs.length := by
  induction bs with
  | nil => simp [bytesToNat]
  | cons b bs ih =>
    have hb := b.isLt
    rw [bytesToNat, List.length_cons, pow_succ']
    omega

/-- The bytes of parts, one after another. -/
def joined (bs : List (List Byte)) : List Byte := bs.foldr (fun a b => a ++ b) []

theorem joined_append (xs ys : List (List Byte)) : joined (xs ++ ys) = joined xs ++ joined ys := by
  induction xs with
  | nil => rfl
  | cons x xs ih =>
    show x ++ joined (xs ++ ys) = (x ++ joined xs) ++ joined ys
    rw [ih, List.append_assoc]

section
variable (s : State) (c : Ctx) (cell : Nat) (own old : List Lane) (hyp0 : Bool)

/-- A part of a load gives its bytes or none. -/
theorem length_loadPart (l : Leaf) (va : Word) (n : Nat) : (joined (s.loadPart c cell own old l va n hyp0).bytes).length ≤ n := by
  have hmix : ∀ path fwd, (joined [s.mixBytes c cell l va path fwd n]).length ≤ n := by
    intro path fwd
    simp [joined, MemoryBytes.length_mixBytes]
  have hnil : (joined []).length ≤ n := Nat.zero_le n
  unfold State.loadPart
  dsimp only
  repeat' split
  all_goals first | exact hnil | exact hmix _ _

theorem length_loadParts (ps : List (Word × Nat)) :
    ∀ s : State, (joined (s.loadParts c cell own old hyp0 ps).bytes).length ≤ (ps.map fun p => p.2).sum := by
  induction ps with
  | nil => exact fun s => Nat.zero_le _
  | cons p ps ih =>
    intro s
    obtain ⟨va, n⟩ := p
    rw [List.map_cons, List.sum_cons]
    unfold State.loadParts
    split
    · next t _ => exact (ih t).trans (Nat.le_add_left _ _)
    · next k t _ => exact (ih t).trans (Nat.le_add_left _ _)
    · next l _ =>
      dsimp only
      rw [joined_append, List.length_append]
      exact Nat.add_le_add (length_loadPart s c cell own old hyp0 l va n) (ih _)

theorem sum_pageParts (va : Word) (n : Nat) : ((pageParts va n).map fun p => p.2).sum = n := by
  unfold pageParts
  dsimp only
  split
  · simp
  · simp only [List.map_cons, List.map_nil, List.sum_cons, List.sum_nil]
    omega

/-- A load of a page gives no more bytes than it asks for. -/
theorem length_loadAll_head (win : Nat) (iid : BitVec 7) (eff : Nat) (va : Word) (n : Nat) (hs : c.scratchAcc va n = none) :
    (((s.loadAll c win iid eff hyp0 [(va, n)]).bytes.head?).getD []).length ≤ n := by
  unfold State.loadAll
  split
  · exact Nat.zero_le n
  · simp only [State.loadLanes, State.loadLane, hs, List.append_nil, List.head?_cons, Option.getD_some]
    exact (length_loadParts c _ _ _ hyp0 (pageParts va n) s).trans_eq (sum_pageParts va n)

end

/-- Up to eight bytes make a word. -/
theorem toNat_ofNat_bytes {bs : List Byte} (h : bs.length ≤ 8) : (BitVec.ofNat 64 (bytesToNat bs)).toNat = bytesToNat bs := by
  rw [BitVec.toNat_ofNat]
  exact Nat.mod_eq_of_lt ((bytesToNat_lt bs).trans_le (Nat.pow_le_pow_right (by decide : 0 < 256) h))

/-! ### The end of a wait (09 R226) -/

section
variable {s : State} {c : Nat} {x : Ctx} {iid : BitVec 7} {i : Instr} {since : Nat} {r : LoadRec}

theorem ctx?_id (h : s.ctx? c = some x) : x.id = c := by
  simpa using List.find?_some h

theorem waitvTimeout_early (hx : s.ctx? c = some x) (hw : x.waitv? = some (iid, i, since, r)) (ht : s.time < since + s.us 64) :
    exec (.waitvTimeout c) s = .next s := by
  show execWaitvTimeout c s = _
  simp only [execWaitvTimeout, hx, hw, if_neg (Nat.not_le.mpr ht)]

theorem waitvWake_asleep (hx : s.ctx? c = some x) (hw : x.waitv? = some (iid, i, since, r)) (hs : x.woken r = false) :
    exec (.waitvWake c) s = .next s := by
  show execWaitvWake c s = _
  simp only [execWaitvWake, hx, hw, hs, Bool.false_eq_true, if_false]

theorem waitvWake_woken (hx : s.ctx? c = some x) (hw : x.waitv? = some (iid, i, since, r)) (hs : x.woken r = true) :
    exec (.waitvWake c) s = s.waitvEnd x iid i := by
  show execWaitvWake c s = _
  simp only [execWaitvWake, hx, hw, hs, if_true]

theorem waitvTimeout_late (hx : s.ctx? c = some x) (hw : x.waitv? = some (iid, i, since, r)) (ht : since + s.us 64 ≤ s.time) :
    exec (.waitvTimeout c) s = s.waitvEnd x iid i := by
  show execWaitvTimeout c s = _
  simp only [execWaitvTimeout, hx, hw, if_pos ht]

/-- At the end of its wait a WAITV reads its word again and delivers it. -/
theorem waitvEnd_delivers {pr : Pred} {eff : BitVec 5} {aq : Bool} {t : Tgt} {v : Vals} (hx : s.ctx? c = some x) :
    let u : State := { s with focus := ⟨x.id, 0, iid, s.focus.spec⟩ }
    let q := u.loadAll x 0 iid eff.toNat false [(v.a.bits, 8)]
    let z := q.st.loadWord (.waitv pr eff aq t) eff v.a.bits q.bytes (if aq then .acquire else .done) (BitVec.ofNat 64 (bytesToNat ((q.bytes.head?).getD [])))
    Acts u (.waitv pr eff aq t) v → q.wait = false → q.bad = none →
      s.waitvEnd x iid (.waitv pr eff aq t) = .next (u.fired (z.onInst fun y => y.waitedOut iid z.time)) := by
  intro u q z h hwait hbad
  have hc : u.fctx = some x := by
    show s.ctx? x.id = some x
    rw [ctx?_id hx, hx]
  have hread := waitvRead_fires (s := u) (i := .waitv pr eff aq t) (va := v.a.bits) (aq := aq) hc hwait hbad
  unfold State.waitvEnd
  refine fire_fires h ?_
  rw [show (State.waitvRead u (.waitv pr eff aq t) eff v.a.bits aq) = _ from hread]

/-- A context woken by a store whose L1s have the update. -/
theorem woken_of_updated {line : Nat} (hw : x.watch = some (line, true)) (hl : ∀ y ∈ x.l1, y.u = true ∨ y.bytes = []) : x.woken r = true := by
  have hany : (x.l1.any fun y => !y.u && !y.bytes.isEmpty && r.parts.any fun p => decide (y.line = p.1.toNat / 64)) = false :=
    List.any_eq_false.mpr fun y hy => by rcases hl y hy with h | h <;> simp [h]
  simp [Ctx.woken, hw, hany]

theorem woken_of_unstored {line : Nat} (hw : x.watch = some (line, false)) : x.woken r = false := by
  simp [Ctx.woken, hw]

end

/-- A store to a watched line wakes its watchers, whatever bytes it leaves there. -/
theorem leafWrite_wakes {s t : State} {asid : BitVec 16} {l : Leaf} {va : Word} {bs : List Byte} {hyp : BitVec 12} {wr : Option Word} {c : Ctx}
    {line : Nat} {f : Bool} (h : s.leafWrite asid l va bs hyp wr = .ok t) (hh : l.h = false)
    (hd : l.far = true ∨ ∀ off, paKind (l.pa va) ≠ .device off) (hc : c ∈ s.ctxs) (hw : c.watch = some (line, f))
    (h₁ : line * 64 < l.pa va + bs.length) (h₂ : l.pa va < line * 64 + 64) : ∃ d ∈ t.ctxs, d.id = c.id ∧ d.watch = some (line, true) := by
  rw [leafWrite_performed h (subjunctive_eq_false (.inl hh)) hd, pageWritten_ctxs]
  have hset := List.mem_map_of_mem (f := fun c : Ctx =>
    ({ c with l1 := c.l1.map fun x => if x.touches (l.tag asid) va.toNat bs.length && !s.lineCut c.tower (l.tag asid) x.line then x.settle else x } : Ctx)) hc
  refine ⟨_, List.mem_map_of_mem hset, ?_⟩
  simp only [woke, hw, h₁, h₂, and_self, if_true]

/-- Settles O33: WAITV and BARW at the end of their checks, the fences, the two ends of a wait, and what a store wakes. -/
theorem fencesAndWaits : Obligations.FencesAndWaits := by
  refine ⟨fun s v pr eff aq sc t c x hc hx => ?_, fun s v pr eff sc => ⟨fun h => fence_effects h rfl, fun h => fence_effects h rfl,
      fun h => fence_effects h rfl, fun h => fence_effects h rfl, fun h => fence_effects h rfl⟩,
    fun s c x iid i since r hx hw => ?_, fun s t asid l va bs hyp wr c line f h hh hd hc hw => leafWrite_wakes h hh hd hc hw, fun s hcl hsh => ?_⟩
  · refine ⟨waitv_misaligned hc hx, waitv_delivers hc hx, barw_misaligned hc hx, fun l h hcan hm hd hlw hs hp hk hf hh hr hb hcut hgen => ?_⟩
    have hw := toNat_ofNat_bytes (length_loadAll_head s c false s.focus.win s.focus.iid eff.toNat v.a.bits 8 hs)
    rw [hw] at hgen ⊢
    exact barw_delivers hc hx h hcan hm hd hlw hs hp hk hf hh hr hb hcut hgen
  · intro u
    refine ⟨waitvTimeout_early hx hw, waitvWake_asleep hx hw, fun _ => woken_of_updated, fun _ => woken_of_unstored, ?_⟩
    rintro pr eff aq t v rfl h q w z hwait hbad
    have hend := waitvEnd_delivers hx h hwait hbad
    exact ⟨fun hk => (waitvWake_woken hx hw hk).trans hend, fun ht => (waitvTimeout_late hx hw ht).trans hend⟩
  · simp [State.us, hcl, hsh]

end Sys2Proof.Waits
end

section
/-! Task instructions (07 R155 to R167). -/

namespace Sys2Proof.TaskOps

-- One proof at a time: proofs checked side by side take each a stack of memory.
set_option Elab.async false

open Sys2Proof.Machine

/-! ### Fields of an operand that must be zero -/

/-- The upper bits of a word are zero where it is below their place. -/
theorem bitsZero_upper {w : Nat} (v : BitVec w) {lo n : Nat} (h : lo + n = w) : bitsZero v lo n = decide (v.toNat < 2 ^ lo) := by
  have hv : v.toNat < 2 ^ lo * 2 ^ n := by rw [← pow_add, h]; exact v.isLt
  have hlt : v.toNat / 2 ^ lo < 2 ^ n := Nat.div_lt_of_lt_mul hv
  rw [bitsZero, bitsOf, Nat.mod_eq_of_lt hlt]
  refine decide_eq_decide.mpr ?_
  rw [Nat.div_eq_zero_iff]
  have := Nat.two_pow_pos lo
  omega

/-- The low bits of a word are zero where their power of two divides it. -/
theorem bitsZero_low {w : Nat} (v : BitVec w) (n : Nat) : bitsZero v 0 n = decide (v.toNat % 2 ^ n = 0) := by
  rw [bitsZero, bitsOf, pow_zero, Nat.div_one]

theorem recOperand_ok {a : Word} (h : a.toNat % 64 = 0) (hr : a.toNat < 2 ^ 56) : recOperand a = none := by
  have hc : canonical a 64 = true := decide_eq_true (by omega)
  simp [recOperand, bitsZero_low, h, hc]

theorem recOperand_misaligned {a : Word} (h : a.toNat % 64 ≠ 0) : recOperand a = some .misalign := by
  simp [recOperand, bitsZero_low, h]

theorem recOperand_range {a : Word} (h : a.toNat % 64 = 0) (hr : 2 ^ 56 ≤ a.toNat) : recOperand a = some .perm := by
  have hc : canonical a 64 = false := decide_eq_false (by omega)
  simp [recOperand, bitsZero_low, h, hc]

/-! ### TSPAWN and TSUBMIT (07 R155, R157) -/

section
variable {s : State} {v : Vals} {i : Instr} {mk : Word → Action}

theorem spawnAct_refused {k : Kind} (h : recOperand v.a.bits = some k) : spawnAct i mk v s = .fires (s.effectPoison i k) := by
  simp only [spawnAct, h]

/-- With room and nobody waiting a submission takes its reservation at once. -/
theorem spawnAct_reserves {c : Ctx} {x : Inst} (hc : s.fctx = some c) (hx : s.finst = some x) (h : recOperand v.a.bits = none)
    (hr : s.roomToSubmit c.tower = true) (hw : (s.tower c.tower).waitSubs = []) :
    spawnAct i mk v s = .fires ((s.onInst fun y => { y with taskRes := y.taskRes + 1 }).effect i (mk v.a.bits)) := by
  simp only [spawnAct, hc, hx, h, hr, hw, List.find?_nil, List.all_nil, Bool.and_self, if_true]

theorem spawn_poisons {k : Kind} (h : Acts s i v) (he : exec i s = fire s i (spawnAct i mk)) (hk : recOperand v.a.bits = some k) : Poisons s i k :=
  he.trans (fire_fires h (spawnAct_refused hk))

end

/-! ### TDEP, TRANGE, TPRIO, TWAIT (07 R160, R162, R166, R167) -/

section
variable {s : State} {v : Vals} {pr : Pred} {eff : BitVec 5}

theorem tdep_effects (ha : recOperand v.a.bits = none) (hb : recOperand v.b.bits = none) (h : Acts s (.tdep pr eff) v) :
    Effects s (.tdep pr eff) (.tdep v.a.bits v.b.bits) := by
  show execTdep pr eff s = _
  unfold execTdep
  exact fire_fires h (by simp only [ha, hb, Option.or_none])

theorem trange_effects (ha : v.a.bits.toNat < 16) (h : Acts s (.trange pr eff) v) :
    Effects s (.trange pr eff) (.trange (BitVec.ofNat 4 v.a.bits.toNat)) := by
  have hz : bitsZero v.a.bits 4 60 = true := (bitsZero_upper v.a.bits (lo := 4) (n := 60) rfl).trans (decide_eq_true ha)
  show execTrange pr eff s = _
  unfold execTrange
  exact fire_fires h (by simp only [hz, if_true, BitVec.ofNat_toNat])

theorem trange_poisons (ha : 16 ≤ v.a.bits.toNat) (h : Acts s (.trange pr eff) v) : Poisons s (.trange pr eff) .illop := by
  have hz : bitsZero v.a.bits 4 60 = false := (bitsZero_upper v.a.bits (lo := 4) (n := 60) rfl).trans (decide_eq_false (Nat.not_lt.mpr ha))
  show execTrange pr eff s = _
  unfold execTrange
  exact fire_fires h (by simp only [hz, Bool.false_eq_true, if_false])

theorem tprio_effects {c : Ctx} (hc : s.fctx = some c) (ha : recOperand v.a.bits = none) (hb : v.b.bits.toNat < 8) (h : Acts s (.tprio pr eff) v) :
    Effects s (.tprio pr eff) (.tprio v.a.bits (s.classOf c.asid (BitVec.ofNat 3 v.b.bits.toNat))) := by
  have hz : bitsZero v.b.bits 3 61 = true := (bitsZero_upper v.b.bits (lo := 3) (n := 61) rfl).trans (decide_eq_true hb)
  show execTprio pr eff s = _
  unfold execTprio
  exact fire_fires h (by simp only [hc, hz, ha, Bool.not_true, Bool.false_eq_true, if_false, ite_self, BitVec.ofNat_toNat])

theorem tprio_poisons {c : Ctx} (hc : s.fctx = some c) (hb : 8 ≤ v.b.bits.toNat) (h : Acts s (.tprio pr eff) v) : Poisons s (.tprio pr eff) .illop := by
  have hz : bitsZero v.b.bits 3 61 = false := (bitsZero_upper v.b.bits (lo := 3) (n := 61) rfl).trans (decide_eq_false (Nat.not_lt.mpr hb))
  show execTprio pr eff s = _
  unfold execTprio
  exact fire_fires h (by simp only [hc, hz, Bool.not_false, if_true])

section
variable {t : Tgt} {c : Ctx} {w : State} {bs : List Byte} (hc : s.fctx = some c) (ha : recOperand v.a.bits = none)
  (hr : s.vread c.asid v.a.bits 64 0 = (w, .ok bs))
include hc ha hr

theorem twait_polls (h : Acts s (.twait pr eff true t) v) :
    GivesAfter s w (.twait pr eff true t) .acquire (w64 (bitsOf (qwordOf bs 0) 0 4 + bitsOf (qwordOf bs 0) 56 4 * 256)) := by
  show execTwait pr eff true t s = _
  unfold execTwait
  exact fire_fires h (by simp only [hc, ha, hr, if_true])

theorem twait_completes (hq : 5 ≤ bitsOf (qwordOf bs 0) 0 4 ∧ bitsOf (qwordOf bs 0) 0 4 ≤ 9) (h : Acts s (.twait pr eff false t) v) :
    GivesAfter s w (.twait pr eff false t) .acquire (qwordOf bs 7) := by
  show execTwait pr eff false t s = _
  unfold execTwait
  exact fire_fires h (by simp only [hc, ha, hr, hq, Bool.false_eq_true, if_false, and_self, if_true])

theorem twait_waits (hq : bitsOf (qwordOf bs 0) 0 4 < 5) (h : Acts s (.twait pr eff false t) v) :
    exec (.twait pr eff false t) s = .next s.beginWait := by
  have hn : ¬(5 ≤ bitsOf (qwordOf bs 0) 0 4 ∧ bitsOf (qwordOf bs 0) 0 4 ≤ 9) := fun h => absurd h.1 (Nat.not_le.mpr hq)
  show execTwait pr eff false t s = _
  unfold execTwait
  exact RegistersAndMoves.fire_actWaits h (by simp only [hc, ha, hr, hn, Bool.false_eq_true, if_false])

end

end

/-- Settles O34: the operand's checks, then the branch of each action. -/
theorem taskInstructions : Obligations.TaskInstructions := by
  intro s v pr eff t c x hc hx a
  refine ⟨fun hm => ⟨fun h => spawn_poisons h rfl (recOperand_misaligned hm), fun h => spawn_poisons h rfl (recOperand_misaligned hm)⟩,
    fun hm hr => ⟨fun h => spawn_poisons h rfl (recOperand_range hm hr), fun h => spawn_poisons h rfl (recOperand_range hm hr)⟩,
    fun hm hr hroom hsubs => ⟨fun h => ?_, fun h => ?_⟩,
    fun hm hr hm' hr' h => tdep_effects (recOperand_ok hm hr) (recOperand_ok hm' hr') h, trange_effects, trange_poisons,
    fun hm hr hb h => tprio_effects hc (recOperand_ok hm hr) hb h, tprio_poisons hc, fun w bs hm hr hv => ?_⟩
  · exact fire_fires h (spawnAct_reserves hc hx (recOperand_ok hm hr) hroom hsubs)
  · exact fire_fires h (spawnAct_reserves hc hx (recOperand_ok hm hr) hroom hsubs)
  · intro q
    have hs : bitsOf (qwordOf bs 0) 0 4 = q % 16 := by
      rw [bitsOf, pow_zero, Nat.div_one]
      rfl
    have hq : bitsOf (qwordOf bs 0) 56 4 = q / 2 ^ 56 % 16 := rfl
    rw [← hs, ← hq]
    exact ⟨twait_polls hc (recOperand_ok hm hr) hv, fun h5 h9 => twait_completes hc (recOperand_ok hm hr) hv ⟨h5, h9⟩,
      fun h5 => twait_waits hc (recOperand_ok hm hr) hv h5⟩

end Sys2Proof.TaskOps
end

section
/-! Message instructions (07 R168 to R173; 20 R391). -/

namespace Sys2Proof.MessageOps

-- One proof at a time: proofs checked side by side take each a stack of memory.
set_option Elab.async false

open Sys2Proof.Machine Sys2Proof.TaskOps

theorem bitsZero_iff {w : Nat} (v : BitVec w) (lo n : Nat) : bitsZero v lo n = true ↔ v.toNat / 2 ^ lo % 2 ^ n = 0 := decide_eq_true_iff

theorem not_bitsZero_iff {w : Nat} (v : BitVec w) (lo n : Nat) : (!bitsZero v lo n) = true ↔ v.toNat / 2 ^ lo % 2 ^ n ≠ 0 := by
  rw [Bool.not_eq_true', ← Bool.not_eq_true, bitsZero_iff]

/-! ### The fields of a message (07 R168) -/

section
variable {s : State} {c : Ctx} {cell tower pkg slot rslot tag payload : Nat} {rep rq : Bool}

/-- The flags of a message and its valid bit. -/
def msgFlags (rep rq : Bool) : Nat := rep.toNat + rq.toNat * 2 + 4

theorem msgFlags_lt (rep rq : Bool) : msgFlags rep rq < 8 := by cases rep <;> cases rq <;> decide

/-- Every field of a message within its bounds stands at its place. -/
theorem mkMsg_fields (hcell : cell < 128) (htower : tower < 8) (hpkg : pkg < 64) (hslot : slot < 256) (hbase : c.base < 128) (htw : c.tower < 8)
    (hself : s.self < 64) (hrslot : rslot < 256) (htag : tag < 2 ^ 32) :
    let m := mkMsg s c cell tower pkg slot rslot rep rq tag payload
    bitsOf m 0 7 = cell ∧ bitsOf m 8 3 = tower ∧ bitsOf m 16 6 = pkg ∧ bitsOf m 24 8 = slot ∧ bitsOf m 32 16 = c.asid.toNat ∧ bitsOf m 48 7 = c.base
      ∧ bitsOf m 56 3 = c.tower ∧ bitsOf m 64 6 = s.self ∧ bitsOf m 72 8 = rslot ∧ bitsOf m 96 32 = tag ∧ bitsOf m 128 384 = payload % 2 ^ 384 := by
  have hasid := c.asid.isLt
  have hpay : payload % 2 ^ 384 < 2 ^ 384 := Nat.mod_lt _ (Nat.two_pow_pos _)
  have hflags := msgFlags_lt rep rq
  have hm : (mkMsg s c cell tower pkg slot rslot rep rq tag payload).toNat = cell + tower * 2 ^ 8 + pkg * 2 ^ 16 + slot * 2 ^ 24 + c.asid.toNat * 2 ^ 32
      + c.base * 2 ^ 48 + c.tower * 2 ^ 56 + s.self * 2 ^ 64 + rslot * 2 ^ 72 + msgFlags rep rq * 2 ^ 80 + tag * 2 ^ 96 + payload % 2 ^ 384 * 2 ^ 128 := by
    rw [mkMsg, BitVec.toNat_ofNat]
    cases rep <;> cases rq <;> simp only [msgFlags, Bool.toNat_true, Bool.toNat_false, if_true, Bool.false_eq_true, if_false] <;> omega
  simp only [bitsOf, hm]
  omega

end

/-! ### Sending (07 R169; 20 R391; log 11) -/

section
variable {s : State} {c : Ctx} {x : Inst} {i : Instr} {tw cell pkg : Nat} {m : BitVec 512} (hc : s.fctx = some c) (hx : s.finst = some x)
include hc hx

/-- With room, nobody waiting and no entry asked for yet, a message to this package takes an entry of its inbox. -/
theorem sendMsg_granted (hg : (x.grants.any fun g => decide (g.1 = s.focus.iid)) = false)
    (ha : (c.id, x.uid, s.focus.iid) ∉ ((s.tower tw).inbox cell).asking) (hr : ((s.tower tw).inbox cell).hasRoom = true)
    (he : ((s.tower tw).inbox cell).asking = []) :
    s.sendMsg i tw cell s.self m = .fires (((s.onInbox tw cell fun y => { y with granted := y.granted + 1 }).onInst fun y =>
      { y with grants := (s.focus.iid, tw, cell) :: y.grants }).effect i (.amsend m)) := by
  simp only [State.sendMsg, hc, hx, ne_eq, not_true_eq_false, if_false, hg, Bool.false_eq_true, hr, he, List.isEmpty_nil, Bool.and_self, if_true,
    List.contains_nil]

theorem sendMsg_dead (hp : pkg ≠ s.self) (hd : s.focus.iid ∈ x.linkDead) : s.sendMsg i tw cell pkg m = .fires (s.effectPoison i .linklost) := by
  simp only [State.sendMsg, hc, hx, ne_eq, hp, not_false_eq_true, if_true, List.contains_iff_mem, hd]

theorem sendMsg_noRoute (hp : pkg ≠ s.self) (hd : s.focus.iid ∉ x.linkDead) (hr : ((s.routes[pkg]?).getD 0).getLsbD 0 = false) :
    s.sendMsg i tw cell pkg m = .fires (s.effectPoison i .perm) := by
  simp only [State.sendMsg, hc, hx, ne_eq, hp, not_false_eq_true, if_true, List.contains_iff_mem, hd, if_false, hr, Bool.not_false]

theorem sendMsg_routed (hp : pkg ≠ s.self) (hd : s.focus.iid ∉ x.linkDead) (hr : ((s.routes[pkg]?).getD 0).getLsbD 0 = true)
    (hw : x.waitSince s.focus.iid ≠ none) : s.sendMsg i tw cell pkg m = .fires (s.effect i (.amsend m)) := by
  simp only [State.sendMsg, hc, hx, ne_eq, hp, not_false_eq_true, if_true, List.contains_iff_mem, hd, if_false, hr, Bool.not_true, Bool.false_eq_true,
    Option.isNone_eq_false_iff.mpr (Option.isSome_iff_ne_none.mpr hw)]

end

/-! ### AMSEND and AMREPLY (07 R169, R172) -/

section
/-- The reserved bits of an AMSEND's operand and the number of its tower (07 R168). -/
def AmsendLegal (a : Nat) : Prop := a < 2 ^ 41 ∧ a / 128 % 2 = 0 ∧ a / 2 ^ 11 % 32 = 0 ∧ a / 2 ^ 22 % 4 = 0 ∧ a / 256 % 8 < 6

theorem amsend_bad_iff (a : Word) :
    (!bitsZero a 7 1 || !bitsZero a 11 5 || !bitsZero a 22 2 || !bitsZero a 41 23 || decide (6 ≤ bitsOf a 8 3)) = true ↔ ¬AmsendLegal a.toNat := by
  have h := a.isLt
  simp only [Bool.or_eq_true, not_bitsZero_iff, decide_eq_true_eq]
  simp only [bitsOf, AmsendLegal]
  omega

/-- What AMSEND sends. -/
def amsendMsg (s : State) (c : Ctx) (v : Vals) : BitVec 512 :=
  mkMsg s c (v.a.bits.toNat % 128) (v.a.bits.toNat / 256 % 8) (v.a.bits.toNat / 2 ^ 16 % 64) (v.a.bits.toNat / 2 ^ 24 % 256) (v.a.bits.toNat / 2 ^ 32 % 256)
    false (v.a.bits.getLsbD 40) (v.c.bits.toNat % 2 ^ 32) v.b.wbits.toNat

variable {s : State} {v : Vals} {pr : Pred} {eff : BitVec 5} {c : Ctx} (hc : s.fctx = some c)
include hc

theorem amsend_fires {u : State} (h : Acts s (.amsend pr eff) v) (hl : AmsendLegal v.a.bits.toNat)
    (hs : s.sendMsg (.amsend pr eff) (v.a.bits.toNat / 256 % 8) (v.a.bits.toNat % 128) (v.a.bits.toNat / 2 ^ 16 % 64) (amsendMsg s c v) = .fires u) :
    exec (.amsend pr eff) s = .next (s.fired u) := by
  have hb := Bool.eq_false_iff.mpr fun h => (amsend_bad_iff v.a.bits).mp h hl
  have hcell : bitsOf v.a.bits 0 7 = v.a.bits.toNat % 128 := by rw [bitsOf, pow_zero, Nat.div_one] <;> rfl
  have htag : bitsOf v.c.bits 0 32 = v.c.bits.toNat % 2 ^ 32 := by rw [bitsOf, pow_zero, Nat.div_one] <;> rfl
  show execAmsend pr eff s = _
  unfold execAmsend
  refine fire_fires h ?_
  simp only [hc, hb, Bool.false_eq_true, if_false, hcell, htag]
  exact hs

theorem amsend_illegal (h : Acts s (.amsend pr eff) v) (hl : ¬AmsendLegal v.a.bits.toNat) : Poisons s (.amsend pr eff) .illop := by
  show execAmsend pr eff s = _
  unfold execAmsend
  exact fire_fires h (by simp only [hc, (amsend_bad_iff v.a.bits).mpr hl, if_true])

theorem amreply_outside (hm : c.causeMode ≠ 1) (h : Acts s (.amreply pr eff) v) : Poisons s (.amreply pr eff) .illop := by
  show execAmreply pr eff s = _
  unfold execAmreply
  exact fire_fires h (by simp only [hc, hm, if_false])

theorem amreply_fires {m : BitVec 512} {u : State} (hm : c.causeMode = 1) (hh : c.hmsg = some m) (h : Acts s (.amreply pr eff) v)
    (hs : s.sendMsg (.amreply pr eff) (bitsOf m 56 3) (bitsOf m 48 7) (bitsOf m 64 6)
      (mkMsg s c (bitsOf m 48 7) (bitsOf m 56 3) (bitsOf m 64 6) (bitsOf m 72 8) (bitsOf m 72 8) true false (bitsOf m 96 32) v.a.wbits.toNat) = .fires u) :
    exec (.amreply pr eff) s = .next (s.fired u) := by
  show execAmreply pr eff s = _
  unfold execAmreply
  exact fire_fires h (by simp only [hc, hm, hh, if_true]; exact hs)

end

/-! ### HTSET and INBOX (07 R170, R173) -/

section
variable {s : State} {v : Vals} {pr : Pred} {eff : BitVec 5} {t : Tgt}

/-- The zero fields of HTSET's operands, its slot and its tower (07 R170). -/
def HtsetIllegal (a b : Nat) : Prop := a % 256 = 0 ∨ 6 ≤ a / 256 ∨ b / 2 % 8 ≠ 0 ∨ 2 ^ 56 ≤ b

theorem htset_bad_iff (a b : Word) :
    (!bitsZero a 11 53 || bitsZero a 0 8 || decide (6 ≤ bitsOf a 8 3) || !bitsZero b 1 3 || !bitsZero b 56 8) = true ↔ HtsetIllegal a.toNat b.toNat := by
  have ha := a.isLt
  have hb := b.isLt
  simp only [Bool.or_eq_true, not_bitsZero_iff, bitsZero_iff, decide_eq_true_eq]
  simp only [bitsOf, HtsetIllegal]
  omega

theorem htset_poisons (hl : HtsetIllegal v.a.bits.toNat v.b.bits.toNat) (h : Acts s (.htset pr eff) v) : Poisons s (.htset pr eff) .illop := by
  show execHtset pr eff s = _
  unfold execHtset
  exact fire_fires h (by simp only [(htset_bad_iff _ _).mpr hl, if_true])

theorem htset_effects (hl : ¬HtsetIllegal v.a.bits.toNat v.b.bits.toNat) (h : Acts s (.htset pr eff) v) :
    Effects s (.htset pr eff) (.htset (BitVec.ofNat 8 (v.a.bits.toNat % 256)) (BitVec.ofNat 3 (v.a.bits.toNat / 256)) v.b.bits) := by
  have hb := Bool.eq_false_iff.mpr fun h => hl ((htset_bad_iff v.a.bits v.b.bits).mp h)
  have hslot : BitVec.ofNat 8 (v.a.bits.toNat % 256) = v.a.bits.setWidth 8 := by bv_omega
  have htower : BitVec.ofNat 3 (v.a.bits.toNat / 256) = (v.a.bits >>> 8).setWidth 3 := by
    apply BitVec.eq_of_toNat_eq
    rw [BitVec.toNat_setWidth, BitVec.toNat_ushiftRight, BitVec.toNat_ofNat, Nat.shiftRight_eq_div_pow]
  show execHtset pr eff s = _
  unfold execHtset
  exact fire_fires h (by simp only [hb, Bool.false_eq_true, if_false, hslot, htower])

section
variable {c : Ctx} (hc : s.fctx = some c)
include hc

theorem inbox_handler (h : Acts s (.inbox pr eff false t) v) :
    GivesWAfter s s (.inbox pr eff false t) .done (if c.causeMode = 1 then c.hmsg.getD 0 else 0) := by
  show execInbox pr eff false t s = _
  unfold execInbox
  exact fire_fires h (by simp only [hc, Bool.not_false, if_true])

variable (ho : s.oldest = true)
include ho

theorem inbox_takes {m : BitVec 512} (h : Acts s (.inbox pr eff true t) v)
    (hm : ((s.tower c.tower).inbox (c.base + v.a.bits.toNat % c.width)).head? = some m) (hs : msgSlot m = 0) (ha : msgAsid m = c.asid) :
    GivesWAfter s s (.inbox pr eff true t) (.inboxTake (c.base + v.a.bits.toNat % c.width)) m := by
  show execInbox pr eff true t s = _
  unfold execInbox
  exact fire_fires h (by simp only [hc, ho, hm, hs, ha, and_self, Bool.not_true, Bool.false_eq_true, if_false, if_true])

theorem inbox_empty (h : Acts s (.inbox pr eff true t) v)
    (hn : ∀ m, ((s.tower c.tower).inbox (c.base + v.a.bits.toNat % c.width)).head? = some m → msgSlot m ≠ 0 ∨ msgAsid m ≠ c.asid) :
    GivesWAfter s s (.inbox pr eff true t) .done 0 := by
  show execInbox pr eff true t s = _
  unfold execInbox
  refine fire_fires h ?_
  cases hm : ((s.tower c.tower).inbox (c.base + v.a.bits.toNat % c.width)).head? with
  | none => simp only [hc, ho, hm, Bool.not_true, Bool.false_eq_true, if_false]
  | some m =>
    have hno : ¬(msgSlot m = 0 ∧ msgAsid m = c.asid) := fun ⟨h0, h1⟩ => (hn m hm).elim (· h0) (· h1)
    simp only [hc, ho, hm, hno, Bool.not_true, Bool.false_eq_true, if_false]

end
end

/-- Settles O35: an operand's legality, the ways of `State.sendMsg`, and the fields of what is sent. -/
theorem messageInstructions : Obligations.MessageInstructions := by
  intro s v pr eff t c x hc hx a cell tw box msg
  have legal : a < 2 ^ 41 → a / 128 % 2 = 0 → a / 2 ^ 11 % 32 = 0 → a / 2 ^ 22 % 4 = 0 → tw < 6 → AmsendLegal a :=
    fun h1 h2 h3 h4 h5 => ⟨h1, h2, h3, h4, h5⟩
  refine ⟨fun h1 h2 h3 h4 h5 hp hg hask hr he h => ?_, fun hbad h => amsend_illegal hc h ?_, ?_, fun hself hbase htw => ?_, amreply_outside hc,
    ?_, fun h1 h2 h3 h4 => htset_effects ?_, htset_poisons, fun m hm hh h => ?_, fun hm h => ?_, ?_⟩
  · refine amsend_fires hc h (legal h1 h2 h3 h4 h5) ?_
    have hmsg : amsendMsg s c v = msg := by rw [amsendMsg, show v.a.bits.toNat / 2 ^ 16 % 64 = s.self from hp]
    rw [hmsg, show v.a.bits.toNat / 2 ^ 16 % 64 = s.self from hp]
    exact sendMsg_granted hc hx hg hask hr he
  · rintro ⟨h1, h2, h3, h4, h5⟩
    have h5' : tw < 6 := h5
    omega
  · intro pkg h1 h2 h3 h4 h5 hp h
    have send := fun {u} => amsend_fires (u := u) hc h (legal h1 h2 h3 h4 h5)
    exact ⟨fun hd => send (sendMsg_dead hc hx hp hd), fun hd hr => send (sendMsg_noRoute hc hx hp hd hr),
      fun hd hr hw => send (sendMsg_routed hc hx hp hd hr hw)⟩
  · obtain ⟨hcell, htower, hpkg, hslot, hasid, hb, ht, hs, hrslot, htag, hpay⟩ := mkMsg_fields (s := s) (c := c) (cell := cell) (tower := tw) (pkg := s.self)
      (slot := a / 2 ^ 24 % 256) (rslot := a / 2 ^ 32 % 256) (tag := v.c.bits.toNat % 2 ^ 32) (payload := v.b.wbits.toNat) (rep := false)
      (rq := v.a.bits.getLsbD 40) (Nat.mod_lt _ (by decide)) (Nat.mod_lt _ (by decide)) hself (Nat.mod_lt _ (by decide)) hbase (by omega) hself
      (Nat.mod_lt _ (by decide)) (Nat.mod_lt _ (by decide))
    exact ⟨hcell, htower, hpkg, hslot, (congrArg (BitVec.ofNat 16) hasid).trans (by simp), hb, ht, hs, hrslot, htag, hpay⟩
  · intro m hm hh hsp rb hg hask hr he h
    have hsp' : bitsOf m 64 6 = s.self := hsp
    refine amreply_fires hc hm hh h ?_
    rw [hsp']
    exact sendMsg_granted hc hx hg hask hr he
  · rintro (h | h | h | h)
    · exact absurd h (by have : 1 ≤ v.a.bits.toNat % 256 := h1; omega)
    · exact absurd h (Nat.not_le.mpr h2)
    · exact h h3
    · exact absurd h (Nat.not_le.mpr h4)
  · have := inbox_handler hc h
    rwa [if_pos hm, hh] at this
  · have := inbox_handler hc h
    rwa [if_neg hm] at this
  · intro j ho h
    exact ⟨fun m => inbox_takes hc ho h, inbox_empty hc ho h⟩

end Sys2Proof.MessageOps
end

section
/-! Hypothesis instructions (10 R245 to R249). -/

namespace Sys2Proof.HypothesisOps

-- One proof at a time: proofs checked side by side take each a stack of memory.
set_option Elab.async false

open Sys2Proof.Machine Sys2Proof.TaskOps

/-! ### Operands and free numbers -/

theorem hypOperand_of_lt {a : Word} (h : a.toNat < 4096) : hypOperand a = some (BitVec.ofNat 12 a.toNat) := by
  have hz : bitsZero a 12 52 = true := (bitsZero_upper a (lo := 12) (n := 52) rfl).trans (decide_eq_true h)
  rw [hypOperand, hz, if_pos rfl, BitVec.ofNat_toNat]

theorem hypOperand_of_le {a : Word} (h : 4096 ≤ a.toNat) : hypOperand a = none := by
  have hz : bitsZero a 12 52 = false := (bitsZero_upper a (lo := 12) (n := 52) rfl).trans (decide_eq_false (Nat.not_lt.mpr h))
  rw [hypOperand, hz, if_neg Bool.false_ne_true]

theorem ofNat_ne_zero {a : Word} (h : a.toNat < 4096) (h0 : a ≠ 0) : BitVec.ofNat 12 a.toNat ≠ 0 := by
  intro he
  have := congrArg BitVec.toNat he
  have h1 : a.toNat ≠ 0 := fun h => h0 (BitVec.eq_of_toNat_eq h)
  rw [BitVec.toNat_ofNat, Nat.mod_eq_of_lt h] at this
  exact h1 this

/-- The first number of a strictly rising list that a test finds: every smaller number of the list fails the test. -/
theorem find_rising_first {α : Type} {f : Nat → Option α} {l : List Nat} (hs : l.Pairwise (· < ·)) {b : α} (h : l.findSome? f = some b) :
    ∃ n ∈ l, f n = some b ∧ ∀ k ∈ l, k < n → f k = none := by
  obtain ⟨l₁, n, l₂, rfl, hn, hl⟩ := List.findSome?_eq_some_iff.mp h
  refine ⟨n, List.mem_append_right _ List.mem_cons_self, hn, fun k hk hlt => ?_⟩
  have hr := List.pairwise_append.mp hs |>.2.1
  rcases List.mem_append.mp hk with hk | hk
  · exact hl k hk
  · rcases List.mem_cons.mp hk with rfl | hk
    · exact absurd hlt (Nat.lt_irrefl _)
    · exact absurd ((List.pairwise_cons.mp hr).1 k hk) (Nat.lt_asymm hlt)

/-- The number that HNEW binds is the lowest FREE one (log 119). -/
theorem freeHyp_spec {s : State} {h : BitVec 12} (hf : s.freeHyp = some h) :
    h ≠ 0 ∧ s.hyp? h = none ∧ ∀ k : BitVec 12, k ≠ 0 → k.toNat < h.toNat → s.hyp? k ≠ none := by
  have hl : (List.range Config.hypotheses).drop 1 = List.range' 1 4095 := by rw [List.drop_one, List.tail_range] <;> rfl
  rw [State.freeHyp, hl] at hf
  split at hf
  · exact absurd hf nofun
  · obtain ⟨n, hn, hs, hfirst⟩ := find_rising_first List.pairwise_lt_range' hf
    rw [List.mem_range'_1] at hn
    split at hs
    · rename_i hfree
      obtain rfl := Option.some.inj hs
      have hnlt : n < 2 ^ 12 := by omega
      have hval : (BitVec.ofNat 12 n).toNat = n := by rw [BitVec.toNat_ofNat, Nat.mod_eq_of_lt hnlt]
      refine ⟨fun h0 => ?_, Option.isNone_iff_eq_none.mp hfree, fun k hk hlt hnone => ?_⟩
      · have := congrArg BitVec.toNat h0
        rw [hval] at this
        exact absurd this (by simp; omega)
      · rw [hval] at hlt
        have hkpos : k.toNat ≠ 0 := fun h => hk (BitVec.eq_of_toNat_eq h)
        have := hfirst k.toNat (List.mem_range'_1.mpr (by omega)) hlt
        rw [BitVec.ofNat_toNat, BitVec.setWidth_eq, hnone] at this
        exact absurd this nofun
    · exact absurd hs nofun

/-! ### HNEW, HENTER, HLEAVE (10 R245 to R247) -/

section
variable {s : State} {v : Vals} {pr : Pred} {eff : BitVec 5} {t : Tgt} {c : Ctx} (hc : s.fctx = some c)
include hc

theorem hnew_binds {h : BitVec 12} (hd : ((s.hyp? (s.hypFinal c.hyp)).map fun x => x.depth).getD 0 < 16) (hf : s.freeHyp = some h)
    (ha : Acts s (.hnew pr eff t) v) :
    exec (.hnew pr eff t) s = .next (s.fired (((({ s with hyps := s.hyps ++ [⟨h, .live, c.asid, s.hypFinal c.hyp,
      ((s.hyp? (s.hypFinal c.hyp)).map fun x => x.depth).getD 0 + 1, 0, false⟩] } : State).onInst fun x =>
        { x with newHyps := h :: x.newHyps }).effect (.hnew pr eff t) (.hnew h)).deliverS (.hnew pr eff t) (h.setWidth 64))) := by
  show execHnew pr eff t s = _
  unfold execHnew
  exact fire_fires ha (by simp only [hc, if_neg (Nat.not_le.mpr hd), hf])

theorem hnew_full (hd : 16 ≤ ((s.hyp? (s.hypFinal c.hyp)).map fun x => x.depth).getD 0 ∨ s.freeHyp = none) (ha : Acts s (.hnew pr eff t) v) :
    exec (.hnew pr eff t) s = .next (s.fired (s.effectBad (.hnew pr eff t) .hypfull)) := by
  have hn : (if 16 ≤ ((s.hyp? (s.hypFinal c.hyp)).map fun x => x.depth).getD 0 then none else s.freeHyp) = none := by
    rcases hd with hd | hd
    · rw [if_pos hd]
    · rw [hd, ite_self]
  show execHnew pr eff t s = _
  unfold execHnew
  exact fire_fires ha (by simp only [hc, hn])

section
variable (ho : s.oldest = true)
include ho

/-- HENTER of a number keeps it where it is 0 or one of the task's own ASID. -/
theorem henter_fires (hlt : v.a.bits.toNat < 4096) (ha : Acts s (.henter pr eff) v) :
    exec (.henter pr eff) s = .next (s.fired (if decide (BitVec.ofNat 12 v.a.bits.toNat = 0) || (match s.hyp? (BitVec.ofNat 12 v.a.bits.toNat) with
      | some x => decide (x.owner = c.asid)
      | none => false) then s.effect (.henter pr eff) (.henter (BitVec.ofNat 12 v.a.bits.toNat)) else s.effectPoison (.henter pr eff) .perm)) := by
  show execHenter pr eff s = _
  unfold execHenter
  exact fire_fires ha (by simp only [hc, hypOperand_of_lt hlt, ho, Bool.not_true, Bool.false_eq_true, if_false] <;> rfl)

theorem henter_zero (h0 : v.a.bits = 0) (ha : Acts s (.henter pr eff) v) : Effects s (.henter pr eff) (.henter 0) := by
  have hz : BitVec.ofNat 12 v.a.bits.toNat = 0 := by rw [h0]; rfl
  have := henter_fires hc ho (by rw [h0]; decide) ha
  rwa [hz, decide_eq_true rfl, Bool.true_or, if_pos rfl] at this

theorem henter_own {x : Hyp} (hlt : v.a.bits.toNat < 4096) (hx : s.hyp? (BitVec.ofNat 12 v.a.bits.toNat) = some x) (hown : x.owner = c.asid)
    (ha : Acts s (.henter pr eff) v) : Effects s (.henter pr eff) (.henter (BitVec.ofNat 12 v.a.bits.toNat)) := by
  have := henter_fires hc ho hlt ha
  simp only [hx, decide_eq_true hown, Bool.or_true, if_true] at this
  exact this

theorem henter_alien {x : Hyp} (hlt : v.a.bits.toNat < 4096) (h0 : v.a.bits ≠ 0) (hx : s.hyp? (BitVec.ofNat 12 v.a.bits.toNat) = some x)
    (hown : x.owner ≠ c.asid) (ha : Acts s (.henter pr eff) v) : Poisons s (.henter pr eff) .perm := by
  have := henter_fires hc ho hlt ha
  simp only [hx, decide_eq_false hown, decide_eq_false (ofNat_ne_zero hlt h0), Bool.or_false, Bool.false_eq_true, if_false] at this
  exact this

theorem henter_free (hlt : v.a.bits.toNat < 4096) (h0 : v.a.bits ≠ 0) (hx : s.hyp? (BitVec.ofNat 12 v.a.bits.toNat) = none)
    (ha : Acts s (.henter pr eff) v) : Poisons s (.henter pr eff) .perm := by
  have := henter_fires hc ho hlt ha
  simp only [hx, decide_eq_false (ofNat_ne_zero hlt h0), Bool.or_false, Bool.false_eq_true, if_false] at this
  exact this

theorem henter_illop (hlt : 4096 ≤ v.a.bits.toNat) (ha : Acts s (.henter pr eff) v) : Poisons s (.henter pr eff) .illop := by
  show execHenter pr eff s = _
  unfold execHenter
  exact fire_fires ha (by simp only [hc, hypOperand_of_le hlt, ho, Bool.not_true, Bool.false_eq_true, if_false])

end
end

theorem hleave_effects {s : State} {v : Vals} {pr : Pred} {eff : BitVec 5} (ho : s.oldest = true) (ha : Acts s (.hleave pr eff) v) :
    Effects s (.hleave pr eff) .hleave := by
  show execHleave pr eff s = _
  unfold execHleave
  exact fire_fires ha (if_pos ho)

/-! ### HRESOLVE and HSTAT (10 R248, R249) -/

section
variable {s u : State} {v : Vals} {pr : Pred} {eff : BitVec 5} {t : Tgt}

theorem hresolve_resolves {d : Ctx} (ha : v.a.bits.toNat < 4096) (hb : v.b.bits.toNat < 4096) (hg : s.gate eff ⟨true, true, none, false, false⟩ = .goes u)
    (hd : (u.releaseHere .pkg).fctx = some d) (h : Acts s (.hresolve pr eff t) v) :
    let q := (u.releaseHere .pkg).resolveHyps d (u.releaseHere .pkg).focus.iid eff (BitVec.ofNat 12 v.a.bits.toNat) (BitVec.ofNat 12 v.b.bits.toNat)
    exec (.hresolve pr eff t) s = .next (s.fired ((((q.1.acquireHere .pkg).performed eff).effect (.hresolve pr eff t) .done).deliverS (.hresolve pr eff t) (w64 q.2))) := by
  show execHresolve pr eff t s = _
  unfold execHresolve
  exact fire_fires h (by simp only [hypOperand_of_lt ha, hypOperand_of_lt hb, hg, hd])

theorem hresolve_illop (hab : 4096 ≤ v.a.bits.toNat ∨ 4096 ≤ v.b.bits.toNat) (hg : s.gate eff ⟨false, false, none, false, false⟩ = .goes u)
    (h : Acts s (.hresolve pr eff t) v) : exec (.hresolve pr eff t) s = .next (s.fired (u.effectBad (.hresolve pr eff t) .illop)) := by
  have hgate := gated_goes hg fun w => w.effectBad (.hresolve pr eff t) .illop
  show execHresolve pr eff t s = _
  unfold execHresolve
  refine fire_fires h ?_
  rcases hab with ha | hb
  · simp only [hypOperand_of_le ha, hgate]
  · cases hypOperand v.a.bits <;> simp only [hypOperand_of_le hb, hgate]

theorem hstat_word {c : Ctx} (hc : s.fctx = some c) (ha : v.a.bits.toNat < 4096) (h : Acts s (.hstat pr eff false t) v) :
    GivesAfter s s (.hstat pr eff false t) .done (s.hstatWord c.asid (BitVec.ofNat 12 v.a.bits.toNat)) := by
  show execHstat pr eff false t s = _
  unfold execHstat
  exact fire_fires h (by simp only [hc, hypOperand_of_lt ha, Bool.false_eq_true, if_false])

theorem hstat_illop {c : Ctx} (hc : s.fctx = some c) (ha : 4096 ≤ v.a.bits.toNat) (h : Acts s (.hstat pr eff false t) v) :
    exec (.hstat pr eff false t) s = .next (s.fired (s.effectBad (.hstat pr eff false t) .illop)) := by
  show execHstat pr eff false t s = _
  unfold execHstat
  exact fire_fires h (by simp only [hc, hypOperand_of_le ha, Bool.false_eq_true, if_false])

theorem hstat_summary (h : Acts s (.hstat pr eff true t) v) :
    exec (.hstat pr eff true t) s = .next (s.fired ((s.effect (.hstat pr eff true t) .done).deliverS (.hstat pr eff true t)
      (w64 ((s.hyps.length + 1) * 16 + (s.versions.filter fun x => x.logged).length * 2 ^ 32)))) := by
  show execHstat pr eff true t s = _
  unfold execHstat
  exact fire_fires h (if_pos rfl)

end

/-- What a resolution answers for a number that names no hypothesis. -/
theorem resolveHyps_free {s : State} {d : Ctx} {iid : BitVec 7} {eff : BitVec 5} {h : BitVec 12} (h0 : h ≠ 0) (hn : s.hyp? h = none) :
    (s.resolveHyps d iid eff h 0).2 = 4 ∧ (s.resolveHyps d iid eff 0 h).2 = 16 := by
  simp only [State.resolveHyps, h0, hn, if_false, if_true, and_self]

/-- And for one that another ASID owns. -/
theorem resolveHyps_alien {s : State} {d : Ctx} {iid : BitVec 7} {eff : BitVec 5} {h : BitVec 12} {x : Hyp} (h0 : h ≠ 0) (hx : s.hyp? h = some x)
    (ho : x.owner ≠ d.asid) : (s.resolveHyps d iid eff h 0).2 = 8 ∧ (s.resolveHyps d iid eff 0 h).2 = 32 := by
  simp only [State.resolveHyps, h0, hx, ho, ne_eq, not_false_eq_true, if_false, if_true, and_self]

/-- Settles O36: the numbers that operands name, then the branch of each action. -/
theorem hypothesisInstructions : Obligations.HypothesisInstructions := by
  intro s v pr eff t c hc p depth a
  refine ⟨fun h => hnew_binds hc, fun h => freeHyp_spec, hnew_full hc, henter_zero hc, fun x ho => henter_own hc ho, fun x ho => henter_alien hc ho,
    henter_free hc, henter_illop hc, hleave_effects, fun u d => hresolve_resolves, fun u => hresolve_illop, hstat_illop hc, fun d iid => rfl,
    fun d iid h => resolveHyps_free, fun d iid h x => resolveHyps_alien, hstat_word hc, hstat_summary, rfl, fun h h0 hn => ?_, fun h x h0 hx ho => ?_⟩
  · rw [State.hstatWord, if_neg h0, hn]
  · simp only [State.hstatWord, if_neg h0, hx, ho, ne_eq, not_false_eq_true, if_true]

end Sys2Proof.HypothesisOps
end

section
/-! Matrix instructions (12 R255 to R274; 14 R314). -/

namespace Sys2Proof.MatrixOps

-- One proof at a time: proofs checked side by side take each a stack of memory.
set_option Elab.async false

open Sys2Proof.Machine Sys2Proof.MessageOps

/-! ### The zero fields of the control words (12 R255, R265 to R274) -/

section
variable (b : Word)

theorem matrixOk_tdef : matrixOk 0 b = true ↔ b.toNat % 4 = 0 ∧ b.toNat / 2 ^ 3 % 2 = 0 ∧ b.toNat / 2 ^ 7 % 2 = 0 ∧ b.toNat / 2 ^ 17 % 2 ^ 7 = 0
    ∧ b.toNat / 2 ^ 30 % 4 = 0 ∧ b.toNat / 2 ^ 38 % 4 = 0 ∧ b.toNat / 2 ^ 42 % 2 ^ 6 = 0 ∧ b.toNat < 2 ^ 57 := by
  have h := b.isLt
  simp only [matrixOk, Bool.and_eq_true, bitsZero_iff]
  omega

theorem matrixOk_product {xop : Nat} (hx : xop = 4 ∨ xop = 5) :
    matrixOk xop b = true ↔ b.toNat < 2 ^ 30 ∧ b.toNat / 2 ^ 4 % 2 ^ 4 = 0 ∧ b.toNat / 2 ^ 14 % 4 = 0 ∧ b.toNat / 2 ^ 22 % 4 = 0 := by
  have h := b.isLt
  rcases hx with rfl | rfl <;>
    · simp only [matrixOk, Bool.and_eq_true, bitsZero_iff]
      omega

theorem matrixOk_maccrd : matrixOk 6 b = true ↔ b.toNat / 2 % 2 ^ 7 = 0 ∧ b.toNat / 2 ^ 14 % 4 = 0 ∧ b.toNat / 2 ^ 22 % 4 = 0 ∧ b.toNat < 2 ^ 25 := by
  have h := b.isLt
  simp only [matrixOk, Bool.and_eq_true, bitsZero_iff]
  omega

theorem matrixOk_flag {xop : Nat} (hx : xop = 7 ∨ xop = 10) : matrixOk xop b = true ↔ b.toNat < 2 := by
  have h := b.isLt
  rcases hx with rfl | rfl <;>
    · simp only [matrixOk, bitsZero_iff]
      omega

theorem matrixOk_maccld : matrixOk 8 b = true ↔ b.toNat / 2 % 2 ^ 7 = 0 ∧ b.toNat / 2 ^ 14 % 4 = 0 ∧ b.toNat < 2 ^ 22 := by
  have h := b.isLt
  simp only [matrixOk, Bool.and_eq_true, bitsZero_iff]
  omega

theorem matrixOk_mew : matrixOk 9 b = true ↔ b.toNat / 2 ^ 2 % 2 ^ 6 = 0 ∧ b.toNat / 2 ^ 14 % 4 = 0 ∧ b.toNat / 2 ^ 22 % 4 = 0 ∧ b.toNat / 2 ^ 24 ≤ 4 := by
  have h := b.isLt
  simp only [matrixOk, Bool.and_eq_true, bitsZero_iff, decide_eq_true_eq]
  simp only [bitsOf]
  omega

theorem matrixOk_plain {xop : Nat} (hx : xop ∈ [1, 2, 3, 11, 17, 18]) : matrixOk xop b = true := by
  simp only [List.mem_cons, List.not_mem_nil, or_false] at hx
  rcases hx with rfl | rfl | rfl | rfl | rfl | rfl <;> rfl

end

/-! ### The action shared by the matrix instructions -/

section
variable {s : State} {v : Vals} {i : Instr} {xop ta tb : Nat} {c : Ctx} (hc : s.fctx = some c)
include hc

theorem matrixAct_effect (ha : v.a.bits.toNat < s.mnOf c) (ho : matrixOk xop v.b.bits = true) (hb : xop = 1 ∨ xop = 2 → v.b.bits.toNat < 2 ^ 56) :
    matrixAct i xop ta tb v s = .fires (s.effect i (.matrix v.a.bits.toNat xop ta tb v.b.bits v.c.bits)) := by
  have hn : ((decide (xop = 1) || decide (xop = 2)) && !canonical v.b.bits 1) = false := by
    refine Bool.eq_false_iff.mpr fun h => ?_
    simp only [Bool.and_eq_true, Bool.or_eq_true, decide_eq_true_eq, Bool.not_eq_true'] at h
    have := hb h.1
    exact absurd h.2 (by simp only [canonical, decide_eq_false_iff_not, not_not]; omega)
  simp only [matrixAct, hc, decide_eq_false (Nat.not_le.mpr ha), ho, hn, Bool.not_true, Bool.or_self, Bool.false_eq_true, if_false]

theorem matrixAct_illop (h : s.mnOf c ≤ v.a.bits.toNat ∨ matrixOk xop v.b.bits = false) :
    matrixAct i xop ta tb v s = .fires (s.effectPoison i .illop) := by
  have hbad : (decide (s.mnOf c ≤ v.a.bits.toNat) || !matrixOk xop v.b.bits) = true := by
    simpa only [Bool.or_eq_true, decide_eq_true_eq, Bool.not_eq_true'] using h
  simp only [matrixAct, hc, hbad, if_true]

theorem matrixAct_perm (ha : v.a.bits.toNat < s.mnOf c) (hx : xop = 1 ∨ xop = 2) (hb : 2 ^ 56 ≤ v.b.bits.toNat) :
    matrixAct i xop ta tb v s = .fires ((s.notePoison v.b.bits).effectPoison i .perm) := by
  have hcan : canonical v.b.bits 1 = false := decide_eq_false (by omega)
  have ho : matrixOk xop v.b.bits = true := matrixOk_plain _ (by rcases hx with rfl | rfl <;> decide)
  have hop : (decide (xop = 1) || decide (xop = 2)) = true := by simpa only [Bool.or_eq_true, decide_eq_true_eq] using hx
  simp only [matrixAct, hc, decide_eq_false (Nat.not_le.mpr ha), ho, hcan, hop, Bool.not_true, Bool.not_false, Bool.or_self, Bool.and_self,
    Bool.false_eq_true, if_false, if_true]

end

/-- Settles O37: the instructions share `matrixAct`, whose three outcomes are told apart. -/
theorem matrixInstructions : Obligations.MatrixInstructions := by
  intro s v pr eff ta tb port c hc p hp h
  have he : exec p.1 s = fire s p.1 (matrixAct p.1 p.2.1 p.2.2.1 p.2.2.2) := by
    revert p
    simp only [List.forall_mem_cons]
    exact ⟨fun _ => rfl, fun _ => rfl, fun _ => rfl, fun _ => rfl, fun _ => rfl, fun _ => rfl, fun _ => rfl, fun _ => rfl, fun _ => rfl, fun _ => rfl,
      fun _ => rfl, fun _ => rfl, fun _ => rfl, fun _ => rfl, fun p hp => absurd hp List.not_mem_nil⟩
  intro a b
  refine ⟨fun ha ho hb => he.trans (fire_fires h (matrixAct_effect hc ha ho hb)), fun hbad => he.trans (fire_fires h (matrixAct_illop hc hbad)),
    fun ha hx hb => he.trans (fire_fires h (matrixAct_perm hc ha hx hb)), ?_, matrixOk_plain b, ?_, ?_, ?_, matrixOk_flag b, matrixOk_product b⟩
  · intro hx; rw [hx]; exact matrixOk_tdef b
  · intro hx; rw [hx]; exact matrixOk_maccrd b
  · intro hx; rw [hx]; exact matrixOk_maccld b
  · intro hx; rw [hx]; exact matrixOk_mew b

end Sys2Proof.MatrixOps
end

section
/-! Streamer commands and their tickets (13 R276, R282 to R288). -/

namespace Sys2Proof.StreamerOps

-- One proof at a time: proofs checked side by side take each a stack of memory.
set_option Elab.async false

open Sys2Proof.Machine Sys2Proof.MessageOps

/-! ### The operands of a command (13 R285) -/

section
variable {a : Word}

theorem canonical_of {n : Nat} (h : a.toNat + n ≤ 2 ^ 56) : canonical a n = true := decide_eq_true h

theorem not_canonical_of {n : Nat} (h : ¬a.toNat + n ≤ 2 ^ 56) : canonical a n = false := decide_eq_false h

theorem bitsZero_low_of {n : Nat} (h : a.toNat % 2 ^ n = 0) : bitsZero a 0 n = true := (TaskOps.bitsZero_low a n).trans (decide_eq_true h)

theorem not_bitsZero_low_of {n : Nat} (h : a.toNat % 2 ^ n ≠ 0) : bitsZero a 0 n = false := (TaskOps.bitsZero_low a n).trans (decide_eq_false h)

theorem descOperand_ok (h : a.toNat < 2 ^ 56) (hm : a.toNat % 64 = 0) : descOperand a = none := by
  simp only [descOperand, canonical_of (a := a) (n := 64) (by omega), bitsZero_low_of (a := a) (n := 6) hm, Bool.not_true, Bool.false_eq_true, if_false]

theorem descOperand_perm (h : 2 ^ 56 - 64 < a.toNat) : descOperand a = some (.perm, a) := by
  simp only [descOperand, not_canonical_of (a := a) (n := 64) (by omega), Bool.not_false, if_true]

theorem descOperand_misalign (h : a.toNat + 64 ≤ 2 ^ 56) (hm : a.toNat % 64 ≠ 0) : descOperand a = some (.misalign, a) := by
  simp only [descOperand, canonical_of (a := a) (n := 64) h, not_bitsZero_low_of (a := a) (n := 6) hm, Bool.not_true, Bool.not_false, Bool.false_eq_true,
    if_false, if_true]

theorem indexOperand_ok (h : a.toNat < 2 ^ 56) (hm : a.toNat % 4 = 0) : indexOperand a = none := by
  simp only [indexOperand, canonical_of (a := a) (n := 1) (by omega), bitsZero_low_of (a := a) (n := 2) hm, Bool.not_true, Bool.false_eq_true, if_false]

theorem indexOperand_perm (h : 2 ^ 56 ≤ a.toNat) : indexOperand a = some (.perm, a) := by
  simp only [indexOperand, not_canonical_of (a := a) (n := 1) (by omega), Bool.not_false, if_true]

theorem indexOperand_misalign (h : a.toNat < 2 ^ 56) (hm : a.toNat % 4 ≠ 0) : indexOperand a = some (.misalign, a) := by
  simp only [indexOperand, canonical_of (a := a) (n := 1) (by omega), not_bitsZero_low_of (a := a) (n := 2) hm, Bool.not_true, Bool.not_false,
    Bool.false_eq_true, if_false, if_true]

end

/-- The first of a command's addresses that fails its check (13 R285; log 107). -/
def badOperand (xop : Nat) (v : Vals) : Option (Kind × Word) :=
  ((descOperand v.a.bits).or (if xop = 4 then none else descOperand v.b.bits)).or (if xop = 1 ∨ xop = 2 then indexOperand v.c.bits else none)

section
variable {s : State} {v : Vals} {i : Instr} {xop : Nat} {q : BitVec 2} {x : Inst} (hx : s.finst = some x)
include hx

theorem streamAct_bad {k : Kind} {va : Word} (h : badOperand xop v = some (k, va)) :
    streamAct i xop q v s = .fires ((s.notePoison va).effectBad i k) := by
  have h' := h
  rw [badOperand] at h'
  simp only [streamAct, hx, h']

theorem streamAct_ok (h : badOperand xop v = none) :
    streamAct i xop q v s = .fires ((s.effect i (.streamer xop q.toNat v.a.bits v.b.bits v.c.bits)).deliverS i
      (w64 ((x.streamerSeq s.focus.iid).toNat + q.toNat * 2 ^ 32))) := by
  have h' := h
  rw [badOperand] at h'
  simp only [streamAct, hx, h']

end

/-! ### SWAIT and SFENCE (13 R287, R288) -/

section
variable {s : State} {v : Vals} {pr : Pred} {eff : BitVec 5} {sc : Scope} {t : Tgt} {c : Ctx} {x : Inst} (hc : s.fctx = some c) (hx : s.finst = some x)
  (ho : s.oldest = true)
include hc hx ho

section
variable {poll : Bool} (h : Acts s (.swait pr eff poll t) v)
include h

theorem swait_complete (ht : s.ticket c x v.a.bits = .complete) :
    GivesAfter s (s.acquireHere .pkg) (.swait pr eff poll t) .acquire (if poll then 1 else v.a.bits) := by
  show execSwait pr eff poll t s = _
  unfold execSwait
  exact fire_fires h (by simp only [hc, hx, ho, ht, Bool.not_true, Bool.false_eq_true, if_false])

theorem swait_bad (ht : s.ticket c x v.a.bits = .bad) :
    exec (.swait pr eff poll t) s = .next (s.fired ((s.effect (.swait pr eff poll t) .done).deliverPoison (.swait pr eff poll t) .illop)) := by
  show execSwait pr eff poll t s = _
  unfold execSwait
  exact fire_fires h (by simp only [hc, hx, ho, ht, Bool.not_true, Bool.false_eq_true, if_false])

end

theorem swait_polls_pending (h : Acts s (.swait pr eff true t) v) (ht : s.ticket c x v.a.bits = .pending) :
    GivesAfter s (s.acquireHere .pkg) (.swait pr eff true t) .acquire 0 := by
  show execSwait pr eff true t s = _
  unfold execSwait
  exact fire_fires h (by simp only [hc, hx, ho, ht, Bool.not_true, Bool.false_eq_true, if_false, if_true])

theorem swait_polls_behind (h : Acts s (.swait pr eff true t) v) (ht : s.ticket c x v.a.bits = .behind) :
    GivesAfter s (s.acquireHere .pkg) (.swait pr eff true t) .acquire 1 := by
  show execSwait pr eff true t s = _
  unfold execSwait
  exact fire_fires h (by simp only [hc, hx, ho, ht, Bool.not_true, Bool.false_eq_true, if_false, if_true])

theorem swait_polls_discarded {k : Kind} (h : Acts s (.swait pr eff true t) v) (ht : s.ticket c x v.a.bits = .discarded k) :
    GivesAfter s (s.acquireHere .pkg) (.swait pr eff true t) .acquire 2 := by
  show execSwait pr eff true t s = _
  unfold execSwait
  exact fire_fires h (by simp only [hc, hx, ho, ht, Bool.not_true, Bool.false_eq_true, if_false, if_true])

theorem swait_waits (h : Acts s (.swait pr eff false t) v) (ht : s.ticket c x v.a.bits = .pending ∨ s.ticket c x v.a.bits = .behind) :
    exec (.swait pr eff false t) s = .next s := by
  show execSwait pr eff false t s = _
  unfold execSwait
  refine RegistersAndMoves.fire_actWaits h ?_
  rcases ht with ht | ht <;> simp only [hc, hx, ho, ht, Bool.not_true, Bool.false_eq_true, if_false]

theorem swait_discarded {k : Kind} (h : Acts s (.swait pr eff false t) v) (ht : s.ticket c x v.a.bits = .discarded k) :
    exec (.swait pr eff false t) s
      = .next (s.fired (((s.acquireHere .pkg).effect (.swait pr eff false t) .acquire).deliverPoison (.swait pr eff false t) k)) := by
  show execSwait pr eff false t s = _
  unfold execSwait
  exact fire_fires h (by simp only [hc, hx, ho, ht, Bool.not_true, Bool.false_eq_true, if_false])

section
variable (h : Acts s (.sfence pr eff sc t) v)
include h

theorem sfence_complete (hs : c.hasStores = false) (ht : s.ticket c x v.a.bits = .complete) :
    GivesAfter s ((s.releaseHere sc).acquireHere .pkg) (.sfence pr eff sc t) .acquire v.a.bits := by
  show execSfence pr eff sc t s = _
  unfold execSfence
  exact fire_fires h (by simp only [hc, hx, ho, ht, hs, Bool.not_true, Bool.false_eq_true, if_false])

theorem sfence_waits (ht : s.ticket c x v.a.bits = .pending ∨ s.ticket c x v.a.bits = .behind) : exec (.sfence pr eff sc t) s = .next s := by
  show execSfence pr eff sc t s = _
  unfold execSfence
  refine RegistersAndMoves.fire_actWaits h ?_
  rcases ht with ht | ht <;> simp only [hc, hx, ho, ht, Bool.not_true, Bool.false_eq_true, if_false]

theorem sfence_bad (ht : s.ticket c x v.a.bits = .bad) :
    exec (.sfence pr eff sc t) s = .next (s.fired ((s.effect (.sfence pr eff sc t) .done).deliverPoison (.sfence pr eff sc t) .illop)) := by
  show execSfence pr eff sc t s = _
  unfold execSfence
  exact fire_fires h (by simp only [hc, hx, ho, ht, Bool.not_true, Bool.false_eq_true, if_false])

theorem sfence_discarded {k : Kind} (ht : s.ticket c x v.a.bits = .discarded k) :
    exec (.sfence pr eff sc t) s = .next (s.fired ((s.effect (.sfence pr eff sc t) .done).deliverPoison (.sfence pr eff sc t) k)) := by
  show execSfence pr eff sc t s = _
  unfold execSfence
  exact fire_fires h (by simp only [hc, hx, ho, ht, Bool.not_true, Bool.false_eq_true, if_false])

end
end

/-! ### The check of a ticket (13 R287; logs 35, 67) -/

section
variable {s : State} {c : Ctx} {x : Inst} {t : Word}

theorem ticket_node_bad (h : t.getLsbD 63 = true) (hb : s.mnOf c ≤ t.toNat % 16 ∨ t.toNat / 16 % 2 ^ 59 ≠ 0) : s.ticket c x t = .bad := by
  have hbad : (!bitsZero t 4 59 || decide (s.mnOf c ≤ bitsOf t 0 4)) = true := by
    simp only [Bool.or_eq_true, not_bitsZero_iff, decide_eq_true_eq]
    simp only [bitsOf, pow_zero, Nat.div_one]
    exact hb.symm
  simp only [State.ticket, h, hbad, if_true]

theorem ticket_node {m : MNode} (h : t.getLsbD 63 = true) (hz : t.toNat / 16 % 2 ^ 59 = 0) (hn : t.toNat % 16 < s.mnOf c)
    (hm : s.mnode? c.tower (s.ownerOf c (t.toNat % 16)) = some m) :
    s.ticket c x t = .complete ↔ m.idle = true ∧ c.heldMatrix (t.toNat % 16) = false := by
  have hok : bitsZero t 4 59 = true := (bitsZero_iff t 4 59).mpr hz
  have hnode : bitsOf t 0 4 = t.toNat % 16 := by rw [bitsOf, pow_zero, Nat.div_one] <;> rfl
  simp only [State.ticket, h, hok, hnode, hm, decide_eq_false (Nat.not_le.mpr hn), Bool.not_true, Bool.or_self, Bool.false_eq_true, if_false, if_true]
  cases m.idle <;> cases c.heldMatrix (t.toNat % 16) <;> simp

/-- A command of the task that a context runs, which is still counted (log 35). -/
def Mine (c : Ctx) (q : SCmd) : Prop := q.org.key = c.key ∧ q.org.load = none ∧ q.gone = false ∧ c.kind = .task

theorem mine_iff (c : Ctx) (q : SCmd) :
    (decide (q.org.key = c.key) && q.org.load.isNone && !q.gone && decide (c.kind = .task)) = true ↔ Mine c q := by
  simp only [Bool.and_eq_true, decide_eq_true_eq, Option.isNone_iff_eq_none, Bool.not_eq_true', Mine, and_assoc]

/-- The command that a ticket of a number names. -/
def namedCmd (s : State) (c : Ctx) (seq : BitVec 32) : Option SCmd :=
  s.scmds.reverse.find? fun q => (decide (q.org.key = c.key) && q.org.load.isNone && !q.gone && decide (c.kind = .task)) && decide (q.seq = seq)

theorem namedCmd_none {seq : BitVec 32} (h : ∀ q ∈ s.scmds, Mine c q → q.seq ≠ seq) : namedCmd s c seq = none := by
  refine List.find?_eq_none.mpr fun q hq ht => ?_
  obtain ⟨hm, hs⟩ := Bool.and_eq_true_iff.mp ht
  exact h q (List.mem_reverse.mp hq) ((mine_iff c q).mp hm) (of_decide_eq_true hs)

theorem namedCmd_some {seq : BitVec 32} {q : SCmd} (hq : q ∈ s.scmds) (hm : Mine c q) (hs : q.seq = seq)
    (hu : ∀ r ∈ s.scmds, Mine c r → r.seq = seq → r = q) : namedCmd s c seq = some q := by
  cases hf : namedCmd s c seq with
  | none =>
    have := List.find?_eq_none.mp hf q (List.mem_reverse.mpr hq)
    rw [(mine_iff c q).mpr hm, decide_eq_true hs] at this
    exact absurd rfl this
  | some r =>
    rw [namedCmd] at hf
    have hp := List.find?_some hf
    obtain ⟨hrm, hrs⟩ := Bool.and_eq_true_iff.mp hp
    rw [hu r (List.mem_reverse.mp (List.mem_of_find?_eq_some hf)) ((mine_iff c r).mp hrm) (of_decide_eq_true hrs)]

/-- A number that the clause's own commands or later ones have. -/
def Unissued (x : Inst) (seq : BitVec 32) : Prop := 2 ^ 31 ≤ (x.streamBase - seq).toNat

/-- An earlier number of the queue is still held, or an earlier command of it unfinished. -/
def Blocked (s : State) (c : Ctx) (seq : BitVec 32) (queue : Nat) : Prop :=
  (∃ n ∈ c.heldStream (BitVec.ofNat 2 queue), (seq - n).toNat < 2 ^ 31)
    ∨ ∃ r ∈ s.scmds, Mine c r ∧ r.queue = queue ∧ r.unfinished = true ∧ (seq - r.seq).toNat < 2 ^ 31

theorem blocked_iff (seq : BitVec 32) (queue : Nat) :
    ((c.heldStream (BitVec.ofNat 2 queue)).any (fun n => decide ((seq - n).toNat < 2 ^ 31))
      || s.scmds.any (fun q => (decide (q.org.key = c.key) && q.org.load.isNone && !q.gone && decide (c.kind = .task)) && decide (q.queue = queue)
        && q.unfinished && decide ((seq - q.seq).toNat < 2 ^ 31))) = true ↔ Blocked s c seq queue := by
  rw [Blocked, Bool.or_eq_true, List.any_eq_true, List.any_eq_true]
  refine or_congr ⟨fun ⟨n, hn, h⟩ => ⟨n, hn, of_decide_eq_true h⟩, fun ⟨n, hn, h⟩ => ⟨n, hn, decide_eq_true h⟩⟩ (exists_congr fun r => and_congr_right fun _ => ?_)
  rw [Bool.and_eq_true, Bool.and_eq_true, Bool.and_eq_true, mine_iff, decide_eq_true_eq, decide_eq_true_eq, and_assoc, and_assoc]

section
variable (h : t.getLsbD 63 = false)
include h

theorem bits_upper_iff : bitsZero t 34 29 = true ↔ t.toNat / 2 ^ 34 = 0 := by
  have hlt : t.toNat < 2 ^ 63 := by
    have hm : t.msb = false := by rw [BitVec.msb_eq_getLsbD_last]; exact h
    have := BitVec.msb_eq_false_iff_two_mul_lt.mp hm
    omega
  rw [bitsZero_iff]
  omega

theorem ticket_bits (hb : t.toNat / 2 ^ 34 ≠ 0) : s.ticket c x t = .bad := by
  have hz : bitsZero t 34 29 = false := Bool.eq_false_iff.mpr fun hz => hb ((bits_upper_iff h).mp hz)
  simp only [State.ticket, h, hz, Bool.not_false, Bool.true_or, Bool.false_eq_true, if_false, if_true]

theorem ticket_unissued (hu : Unissued x (t.setWidth 32)) (hn : ∀ q ∈ s.scmds, Mine c q → q.seq ≠ t.setWidth 32) : s.ticket c x t = .bad := by
  have hnone := namedCmd_none hn
  rw [namedCmd] at hnone
  simp only [State.ticket, h, hnone, decide_eq_true (show 2 ^ 31 ≤ (x.streamBase - t.setWidth 32).toNat from hu), Option.isNone_none, Bool.and_self, Bool.or_true, Bool.false_eq_true, if_false, if_true]

theorem ticket_otherQueue {n : Nat} (hn : n < 4) (hq : n ≠ t.toNat / 2 ^ 32 % 4) (hs : t.setWidth 32 ∈ c.heldStream (BitVec.ofNat 2 n)) :
    s.ticket c x t = .bad := by
  have hany : ((List.range 4).any fun n => decide (n ≠ bitsOf t 32 2) && (c.heldStream (BitVec.ofNat 2 n)).contains (t.setWidth 32)) = true :=
    List.any_eq_true.mpr ⟨n, List.mem_range.mpr hn, Bool.and_eq_true_iff.mpr ⟨decide_eq_true hq, List.contains_iff_mem.mpr hs⟩⟩
  simp only [State.ticket, h, hany, if_true, ite_self, Bool.false_eq_true, if_false]

theorem ticket_wrongQueue {q : SCmd} (hq : namedCmd s c (t.setWidth 32) = some q) (hw : q.queue ≠ t.toNat / 2 ^ 32 % 4) : s.ticket c x t = .bad := by
  rw [namedCmd] at hq
  have hw' : q.queue ≠ bitsOf t 32 2 := hw
  simp only [State.ticket, h, hq, decide_eq_true hw', Option.map_some, Option.getD_some, if_true, ite_self, Bool.false_eq_true, if_false]

variable (hz : t.toNat / 2 ^ 34 = 0) (hu : ¬Unissued x (t.setWidth 32))
  (ho : ∀ n < 4, n ≠ t.toNat / 2 ^ 32 % 4 → t.setWidth 32 ∉ c.heldStream (BitVec.ofNat 2 n))
include hz hu ho

theorem noOtherQueue :
    ((List.range 4).any fun n => decide (n ≠ bitsOf t 32 2) && (c.heldStream (BitVec.ofNat 2 n)).contains (t.setWidth 32)) = false := by
  refine List.any_eq_false.mpr fun n hn ht => ?_
  obtain ⟨hne, hs⟩ := Bool.and_eq_true_iff.mp ht
  exact ho n (List.mem_range.mp hn) (of_decide_eq_true hne) (List.contains_iff_mem.mp hs)

/-- What a ticket answers that names no command still counted. -/
theorem ticket_unnamed (hn : namedCmd s c (t.setWidth 32) = none) :
    (t.setWidth 32 ∈ c.heldStream (BitVec.ofNat 2 (t.toNat / 2 ^ 32 % 4)) → s.ticket c x t = .pending)
      ∧ (t.setWidth 32 ∉ c.heldStream (BitVec.ofNat 2 (t.toNat / 2 ^ 32 % 4)) → Blocked s c (t.setWidth 32) (t.toNat / 2 ^ 32 % 4) → s.ticket c x t = .behind)
      ∧ (t.setWidth 32 ∉ c.heldStream (BitVec.ofNat 2 (t.toNat / 2 ^ 32 % 4)) → ¬Blocked s c (t.setWidth 32) (t.toNat / 2 ^ 32 % 4) → s.ticket c x t = .complete) := by
  have hq : t.toNat / 2 ^ 32 % 4 = bitsOf t 32 2 := rfl
  rw [namedCmd] at hn
  rw [hq]
  simp only [State.ticket, h, hn, (bits_upper_iff h).mpr hz, decide_eq_false (show ¬2 ^ 31 ≤ (x.streamBase - t.setWidth 32).toNat from hu),
    noOtherQueue h hz hu ho, Option.map_none, Option.getD_none, Option.isNone_none, Bool.not_true, Bool.and_true, Bool.or_self, Bool.or_false,
    List.contains_iff_mem, Bool.false_eq_true, if_false, if_true]
  refine ⟨fun hh => if_pos hh, fun hh hb => ?_, fun hh hb => ?_⟩
  · rw [if_neg hh, if_pos ((blocked_iff _ _).mpr hb)]
  · rw [if_neg hh, if_neg (mt (blocked_iff _ _).mp hb)]

/-- What a ticket answers that names a command of its queue. -/
theorem ticket_named {q : SCmd} (hn : namedCmd s c (t.setWidth 32) = some q) (hw : q.queue = t.toNat / 2 ^ 32 % 4) :
    (q.unfinished = true → s.ticket c x t = .pending)
      ∧ (q.unfinished = false → t.setWidth 32 ∉ c.heldStream (BitVec.ofNat 2 (t.toNat / 2 ^ 32 % 4)) → ¬Blocked s c (t.setWidth 32) (t.toNat / 2 ^ 32 % 4) →
        (q.st = .complete → s.ticket c x t = .complete) ∧ ∀ k, q.st = .discarded k → s.ticket c x t = .discarded k) := by
  have hq : t.toNat / 2 ^ 32 % 4 = bitsOf t 32 2 := rfl
  rw [namedCmd] at hn
  rw [hq] at hw ⊢
  simp only [State.ticket, h, hn, (bits_upper_iff h).mpr hz, decide_eq_false (show ¬2 ^ 31 ≤ (x.streamBase - t.setWidth 32).toNat from hu),
    noOtherQueue h hz hu ho, Option.map_some, Option.getD_some, Option.isNone_some, hw, ne_eq, not_true_eq_false, decide_false, Bool.not_true,
    Bool.and_false, Bool.or_self, Bool.false_eq_true, if_false]
  refine ⟨fun hun => by rw [hun, Bool.or_true, if_pos rfl], fun hun hh hb => ?_⟩
  have hc : (c.heldStream (BitVec.ofNat 2 (bitsOf t 32 2))).contains (t.setWidth 32) = false :=
    Bool.eq_false_iff.mpr fun h => hh (List.contains_iff_mem.mp h)
  rw [hun, hc, Bool.or_self, if_neg Bool.false_ne_true, if_neg (mt (blocked_iff _ _).mp hb)]
  exact ⟨fun hst => by rw [hst], fun k hst => by rw [hst]⟩

end
end

/-- Settles O38: a command's first failing address, the answers of SWAIT and SFENCE to a ticket, and the check of a ticket. -/
theorem streamerInstructions : Obligations.StreamerInstructions := by
  intro s v pr eff q sc t c x hc hx a w
  refine ⟨fun p hp h => ?_, fun ho ht => ⟨fun h => swait_complete hc hx ho h ht, fun h => swait_complete hc hx ho h ht,
      fun hs h => sfence_complete hc hx ho h hs ht⟩,
    fun ho ht => ⟨fun h => swait_polls_pending hc hx ho h ht, fun h => swait_waits hc hx ho h (.inl ht), fun h => sfence_waits hc hx ho h (.inl ht)⟩,
    fun k ho ht => ⟨fun h => swait_polls_discarded hc hx ho h ht, fun h => swait_discarded hc hx ho h ht, fun h => sfence_discarded hc hx ho h ht⟩,
    fun ho ht => ⟨fun poll h => swait_bad hc hx ho h ht, fun h => sfence_bad hc hx ho h ht⟩,
    fun ho ht => ⟨fun h => swait_polls_behind hc hx ho h ht, fun h => swait_waits hc hx ho h (.inr ht), fun h => sfence_waits hc hx ho h (.inr ht)⟩,
    ticket_node_bad, fun h hz hn m hm => ticket_node h hz hn hm, ?_⟩
  · have he : exec p.1 s = fire s p.1 (streamAct p.1 p.2 q) ∧ (p.2 = 0 ∨ p.2 = 1 ∨ p.2 = 2 ∨ p.2 = 3 ∨ p.2 = 4) := by
      revert p
      simp only [List.forall_mem_cons]
      exact ⟨fun _ => ⟨rfl, by decide⟩, fun _ => ⟨rfl, by decide⟩, fun _ => ⟨rfl, by decide⟩, fun _ => ⟨rfl, by decide⟩, fun _ => ⟨rfl, by decide⟩,
        fun p hp => absurd hp List.not_mem_nil⟩
    have bad : ∀ {k va}, badOperand p.2 v = some (k, va) → exec p.1 s = .next (s.fired ((s.notePoison va).effectBad p.1 k)) :=
      fun hb => he.1.trans (fire_fires h (streamAct_bad hx hb))
    refine ⟨fun h1 h2 h3 h4 => he.1.trans (fire_fires h (streamAct_ok hx ?_)), fun h1 h2 h3 => bad ?_, fun h1 => bad ?_, fun h1 h2 h3 => ?_⟩
    · have hb : (if p.2 = 4 then none else descOperand v.b.bits) = none := by
        split
        · rfl
        · rename_i h; exact descOperand_ok (h3 h).1 (h3 h).2
      have hi : (if p.2 = 1 ∨ p.2 = 2 then indexOperand v.c.bits else none) = none := by
        split
        · rename_i h; exact indexOperand_ok (h4 h).1 (h4 h).2
        · rfl
      rw [badOperand, descOperand_ok h1 h2, hb, hi]; rfl
    · rw [badOperand, descOperand_misalign h3 h2]; rfl
    · rw [badOperand, descOperand_perm h1]; rfl
    · intro b
      refine ⟨fun h4 => bad ?_, fun h4 h5 => bad ?_, fun h4 h5 h6 => ?_⟩
      · rw [badOperand, descOperand_ok h1 h2, if_neg h3, descOperand_perm h4]; rfl
      · rw [badOperand, descOperand_ok h1 h2, if_neg h3, descOperand_misalign h4 h5]; rfl
      · intro ix
        refine ⟨fun h7 => bad ?_, fun h7 h8 => bad ?_⟩
        · rw [badOperand, descOperand_ok h1 h2, if_neg h3, descOperand_ok h4 h5, if_pos h6, indexOperand_perm h7]; rfl
        · rw [badOperand, descOperand_ok h1 h2, if_neg h3, descOperand_ok h4 h5, if_pos h6, indexOperand_misalign h7 h8]; rfl
  · intro h seq queue mine held near unissued
    refine ⟨ticket_bits h, ticket_unissued h, fun n hn hq hs => ticket_otherQueue h hn hq hs, fun r hr hm hs hu => ?_, fun hz hu ho hh hn => ?_,
      fun hz hu ho hn => ?_⟩
    · have hnamed := namedCmd_some hr hm hs hu
      refine ⟨ticket_wrongQueue h hnamed, fun hq hz hui ho => ?_⟩
      obtain ⟨hun, hfin⟩ := ticket_named h hz hui ho hnamed hq
      refine ⟨hun, fun hf hnear hothers => hfin hf (fun hmem => ?_) ?_⟩
      · exact hnear _ hmem (by show (seq - seq).toNat < 2 ^ 31; rw [BitVec.sub_self]; decide)
      · rintro (⟨n, hn, hlt⟩ | ⟨y, hy, hmy, hqy, huy, hlt⟩)
        · exact hnear n hn hlt
        · exact hothers y hy hmy hqy huy hlt
    · exact (ticket_unnamed h hz hu ho (namedCmd_none hn)).1 hh
    · obtain ⟨-, hbehind, hcomplete⟩ := ticket_unnamed h hz hu (fun n hn _ => ho n hn) (namedCmd_none hn)
      have hh := ho queue (Nat.mod_lt _ (by decide))
      exact ⟨hbehind hh, hcomplete hh⟩

end Sys2Proof.StreamerOps
end

section
/-! Prism view instructions (13 R299 to R303). -/

namespace Sys2Proof.ViewOps

-- One proof at a time: proofs checked side by side take each a stack of memory.
set_option Elab.async false

open Sys2Proof.Machine Sys2Proof.MessageOps Sys2Proof.StreamerOps

section
variable {s : State} {v : Vals} {pr : Pred} {eff : BitVec 5} {t : Tgt}

/-! ### VWREG (13 R299) -/

section
variable (h : Acts s (.vwreg pr eff t) v)
include h

theorem vwreg_bad {u : State} {k : Kind} {va : Word} (hb : descOperand v.a.bits = some (k, va)) (hg : s.gate eff ⟨false, false, none, false, false⟩ = .goes u) :
    exec (.vwreg pr eff t) s = .next (s.fired (u.notPerformed (.vwreg pr eff t) k va)) := by
  show execVwreg pr eff t s = _
  unfold execVwreg
  exact fire_fires h (by simp only [hb]; exact gated_goes hg fun w => w.notPerformed (.vwreg pr eff t) k va)

section
variable {u w : State} {d : Ctx} (ha : v.a.bits.toNat < 2 ^ 56) (hm : v.a.bits.toNat % 64 = 0) (hg : s.gate eff ⟨false, false, none, false, true⟩ = .goes u)
  (hd : u.fctx = some d) (hw : u.viewWaits d.asid v.a.bits 64 = false)
include ha hm hg hd hw

theorem vwreg_registers {bs : List Byte} (hr : u.taskRead d v.a.bits 64 = (w, .ok bs)) :
    GivesAfter s ((w.register d bs).1.performed eff) (.vwreg pr eff t) .done (w.register d bs).2 := by
  show execVwreg pr eff t s = _
  unfold execVwreg
  exact fire_fires h (by simp only [descOperand_ok ha hm, hg, hd, hw, hr, Bool.false_eq_true, if_false])

theorem vwreg_unread {k : Kind} {va : Word} (hr : u.taskRead d v.a.bits 64 = (w, .bad k va)) :
    exec (.vwreg pr eff t) s = .next (s.fired (w.notPerformed (.vwreg pr eff t) k va)) := by
  show execVwreg pr eff t s = _
  unfold execVwreg
  exact fire_fires h (by simp only [descOperand_ok ha hm, hg, hd, hw, hr, Bool.false_eq_true, if_false])

end
end

/-! ### VWDROP, VWPOL and VWQRY (13 R300 to R302) -/

theorem vwdrop_effects (h : Acts s (.vwdrop pr eff) v) : Effects s (.vwdrop pr eff) (.vwdrop v.a.bits) := by
  show execVwdrop pr eff s = _
  unfold execVwdrop
  exact fire_fires h rfl

theorem vwpol_effects (h3 : v.b.bits.toNat % 4 ≠ 3) (hz : v.b.bits.toNat / 4 % 2 ^ 14 = 0) (hu : v.b.bits.toNat < 2 ^ 49) (h : Acts s (.vwpol pr eff) v) :
    Effects s (.vwpol pr eff) (.vwpol v.a.bits v.b.bits) := by
  have hok : ¬(bitsOf v.b.bits 0 2 = 3 ∨ (!bitsZero v.b.bits 2 14) = true ∨ (!bitsZero v.b.bits 49 15) = true) := by
    simp only [not_bitsZero_iff]
    simp only [bitsOf]
    omega
  show execVwpol pr eff s = _
  unfold execVwpol
  exact fire_fires h (congrArg Act.fires (if_neg hok))

theorem vwpol_poisons (hb : v.b.bits.toNat % 4 = 3 ∨ 2 ^ 49 ≤ v.b.bits.toNat) (h : Acts s (.vwpol pr eff) v) : Poisons s (.vwpol pr eff) .illop := by
  have hlt := v.b.bits.isLt
  have hbad : bitsOf v.b.bits 0 2 = 3 ∨ (!bitsZero v.b.bits 2 14) = true ∨ (!bitsZero v.b.bits 49 15) = true := by
    simp only [not_bitsZero_iff]
    simp only [bitsOf]
    omega
  show execVwpol pr eff s = _
  unfold execVwpol
  exact fire_fires h (congrArg Act.fires (if_pos hbad))

section
variable {f : Bool} {c : Ctx} (hc : s.fctx = some c) (h : Acts s (.vwqry pr eff f t) v)
include hc h

theorem vwqry_none (hv : s.viewOf c.asid v.a.bits = none) : GivesAfter s s (.vwqry pr eff f t) .done (BitVec.allOnes 64) := by
  show execVwqry pr eff f t s = _
  unfold execVwqry
  exact fire_fires h (by simp only [hc, hv])

/-- A tile's epoch, of the master or of the view, with the state of the view's tile. -/
theorem vwqry_tile {m : Master} {y : View} {g : VTile} {e : BitVec 32} (hv : s.viewOf c.asid v.a.bits = some (m, y))
    (hg : y.tiles[v.b.bits.toNat]? = some g) (he : m.epochs[v.b.bits.toNat]? = some e) :
    GivesAfter s s (.vwqry pr eff f t) .done (w64 ((if f then e else g.epoch.getD ((s.free 6).setWidth 32)).toNat
      + (if g.faulted then 2 else if g.fresh e then 0 else 1) * 2 ^ 32)) := by
  show execVwqry pr eff f t s = _
  unfold execVwqry
  exact fire_fires h (by simp only [hc, hv, hg, he])

end

/-! ### VWSYNC (13 R303; log 101) -/

section
variable {f : Bool} {c : Ctx} {x : Inst} (hc : s.fctx = some c) (hx : s.finst = some x)
include hc hx

theorem vwsync_settled {tw slot n : Nat} {ts : List (Nat × BitVec 32)}
    (hf : x.syncs.find? (fun p => decide (p.1 = s.focus.iid)) = some (s.focus.iid, tw, slot, ts)) (hs : s.settled tw slot ts = some n)
    (h : Acts s (.vwsync pr eff f t) v) : GivesAfter s (s.performed eff) (.vwsync pr eff f t) .done (w64 n) := by
  show execVwsync pr eff f t s = _
  unfold execVwsync
  exact fire_fires h (by simp only [hc, hx, hf, hs])

variable {u : State} (hf : x.syncs.find? (fun p => decide (p.1 = s.focus.iid)) = none)
include hf

theorem vwsync_illop (hb : 2 ^ 32 ≤ v.b.bits.toNat) (hg : s.gate eff ⟨false, false, none, false, false⟩ = .goes u) (h : Acts s (.vwsync pr eff f t) v) :
    exec (.vwsync pr eff f t) s = .next (s.fired (u.effectBad (.vwsync pr eff f t) .illop)) := by
  have hz : bitsZero v.b.bits 32 32 = false := (TaskOps.bitsZero_upper v.b.bits (lo := 32) (n := 32) rfl).trans (decide_eq_false (Nat.not_lt.mpr hb))
  have hgate := gated_goes hg fun w => w.effectBad (.vwsync pr eff f t) .illop
  show execVwsync pr eff f t s = _
  unfold execVwsync
  exact fire_fires h (by simp only [hc, hx, hf, hz, hgate, Bool.not_false, if_true])

section
variable (hb : v.b.bits.toNat < 2 ^ 32) (hg : s.gate eff ⟨true, false, none, false, true⟩ = .goes u) (h : Acts s (.vwsync pr eff f t) v)
include hb hg h

/-- Past its gate, for a handle or a tile that is not valid. -/
theorem vwsync_invalid (hbad : (u.released c.recA c.asid).viewOf c.asid v.a.bits = none
      ∨ ∃ m y, (u.released c.recA c.asid).viewOf c.asid v.a.bits = some (m, y) ∧ v.b.bits.toNat ≠ 0xFFFFFFFF ∧ m.tileCount ≤ v.b.bits.toNat) :
    GivesAfter s ((u.released c.recA c.asid).performed eff) (.vwsync pr eff f t) .done (BitVec.allOnes 64) := by
  have hz : bitsZero v.b.bits 32 32 = true := (TaskOps.bitsZero_upper v.b.bits (lo := 32) (n := 32) rfl).trans (decide_eq_true hb)
  show execVwsync pr eff f t s = _
  unfold execVwsync
  refine fire_fires h ?_
  rcases hbad with hv | ⟨m, y, hv, hn⟩
  · simp only [hc, hx, hf, hz, hg, hv, Bool.not_true, Bool.false_eq_true, if_false]
  · simp only [hc, hx, hf, hz, hg, hv, hn, ne_eq, not_false_eq_true, and_self, Bool.not_true, Bool.false_eq_true, if_false, if_true]

/-- The tiles that an operand b names. -/
def namedTiles (m : Master) (b : Nat) : List Nat := if b = 0xFFFFFFFF then List.range m.tileCount else [b]

section
variable {m : Master} {y : View} (hv : (u.released c.recA c.asid).viewOf c.asid v.a.bits = some (m, y))
  (hn : ¬(v.b.bits.toNat ≠ 0xFFFFFFFF ∧ m.tileCount ≤ v.b.bits.toNat))
include hv hn

theorem vwsync_delivers {n : Nat}
    (hs : ((u.released c.recA c.asid).syncAdvance c m (namedTiles m v.b.bits.toNat) f).1.settled m.tower m.slot
      ((u.released c.recA c.asid).syncAdvance c m (namedTiles m v.b.bits.toNat) f).2 = some n) :
    GivesAfter s (((u.released c.recA c.asid).syncAdvance c m (namedTiles m v.b.bits.toNat) f).1.performed eff) (.vwsync pr eff f t) .done (w64 n) := by
  have hz : bitsZero v.b.bits 32 32 = true := (TaskOps.bitsZero_upper v.b.bits (lo := 32) (n := 32) rfl).trans (decide_eq_true hb)
  rw [namedTiles] at hs ⊢
  show execVwsync pr eff f t s = _
  unfold execVwsync
  exact fire_fires h (by simp only [hc, hx, hf, hz, hg, hv, hn, hs, Bool.not_true, Bool.false_eq_true, if_false])

theorem vwsync_begins
    (hs : ((u.released c.recA c.asid).syncAdvance c m (namedTiles m v.b.bits.toNat) f).1.settled m.tower m.slot
      ((u.released c.recA c.asid).syncAdvance c m (namedTiles m v.b.bits.toNat) f).2 = none) :
    let r := (u.released c.recA c.asid).syncAdvance c m (namedTiles m v.b.bits.toNat) f
    exec (.vwsync pr eff f t) s = .next (r.1.onInst fun y => { y with syncs := y.syncs ++ [(r.1.focus.iid, m.tower, m.slot, r.2)] }).beginWait := by
  have hz : bitsZero v.b.bits 32 32 = true := (TaskOps.bitsZero_upper v.b.bits (lo := 32) (n := 32) rfl).trans (decide_eq_true hb)
  rw [namedTiles] at hs ⊢
  show execVwsync pr eff f t s = _
  unfold execVwsync
  exact RegistersAndMoves.fire_actWaits h (by simp only [hc, hx, hf, hz, hg, hv, hn, hs, Bool.not_true, Bool.false_eq_true, if_false])

end
end
end
end

/-- Which of the named tiles a VWSYNC advances. -/
theorem syncAdvance_one {w : State} {c : Ctx} {m : Master} {n : Nat} {f : Bool} (hm : w.masterNow m = some m) :
    (f = true ∨ (∃ d ∈ m.dirty, d.1 = n) → (w.syncAdvance c m [n] f).1 = w.advance m.tower m.slot n (some (c.recA, c.asid)))
      ∧ (f = false → (∀ d ∈ m.dirty, d.1 ≠ n) → w.syncAdvance c m [n] f = (w, [(n, (m.epochs[n]?).getD 0)])) := by
  have hdirty : (f || ((w.masterNow m).map fun y => y.dirty.any fun d => decide (d.1 = n)).getD false) = true ↔ f = true ∨ ∃ d ∈ m.dirty, d.1 = n := by
    rw [hm, Option.map_some, Option.getD_some, Bool.or_eq_true, List.any_eq_true]
    exact or_congr_right (exists_congr fun d => and_congr_right fun _ => decide_eq_true_iff)
  refine ⟨fun h => ?_, fun hf hn => ?_⟩
  · simp only [State.syncAdvance, List.filter_cons, hdirty.mpr h, if_true, List.filter_nil, List.foldl_cons, List.foldl_nil]
  · have hno := Bool.eq_false_iff.mpr (mt hdirty.mp (not_or.mpr ⟨by rw [hf]; decide, fun ⟨d, hd, hdn⟩ => hn d hd hdn⟩))
    simp only [State.syncAdvance, List.filter_cons, hno, Bool.false_eq_true, if_false, List.filter_nil, List.foldl_nil, List.map_cons, List.map_nil]
    rw [hm, Option.getD_some]

/-- Settles O39: each instruction's branches, VWSYNC's by the handle, the tile and whether what it names is settled. -/
theorem viewInstructions : Obligations.ViewInstructions := by
  intro s v pr eff t f c x hc hx a b
  refine ⟨fun u d w bs ha hm hg hd hw hr h => vwreg_registers h ha hm hg hd hw hr,
    fun u hg h => ⟨fun hp => vwreg_bad h (descOperand_perm hp) hg, fun hp hm => vwreg_bad h (descOperand_misalign hp hm) hg⟩,
    fun u d w k va ha hm hg hd hw hr h => vwreg_unread h ha hm hg hd hw hr, vwdrop_effects, vwpol_effects, vwpol_poisons,
    fun hv h => vwqry_none hc h hv, fun m y g e hv hg he => ?_, fun tw slot ts n hf hs h => vwsync_settled hc hx hf hs h, fun u hf hb hg h => ?_,
    fun w m n => syncAdvance_one, fun u hb hf hg h => vwsync_illop hc hx hf hb hg h⟩
  · intro st
    refine ⟨fun h => vwqry_tile hc h hv hg he, fun e' he' h => ?_⟩
    have := vwqry_tile hc h hv hg he
    rwa [he', Option.getD_some, if_neg Bool.false_ne_true] at this
  · intro w
    refine ⟨fun hv => vwsync_invalid hc hx hf hb hg h (.inl hv), fun m y hv => ⟨fun hne hle => vwsync_invalid hc hx hf hb hg h (.inr ⟨m, y, hv, hne, hle⟩),
      fun named hn => ?_⟩⟩
    have hnamed : named = namedTiles m v.b.bits.toNat := by
      rcases hn with ⟨hall, hl⟩ | ⟨hne, -, hl⟩
      · rw [hl, namedTiles, if_pos hall]
      · rw [hl, namedTiles, if_neg hne]
    have hvalid : ¬(v.b.bits.toNat ≠ 0xFFFFFFFF ∧ m.tileCount ≤ v.b.bits.toNat) := by
      rintro ⟨hne, hle⟩
      rcases hn with ⟨hall, -⟩ | ⟨-, hlt, -⟩
      · exact hne hall
      · exact absurd hlt (Nat.not_lt.mpr hle)
    rw [hnamed]
    exact ⟨fun n hs => vwsync_delivers hc hx hf hb hg h hv hvalid hs, fun hs => vwsync_begins hc hx hf hb hg h hv hvalid hs⟩

end Sys2Proof.ViewOps
end

section
/-! The configuring instructions on every state of a load, SPOP and SPUSH (14 R311 to R325). -/

namespace Sys2Proof.FabricOps

-- One proof at a time: proofs checked side by side take each a stack of memory.
set_option Elab.async false

open Sys2Proof.Machine Sys2Proof.StreamerOps

/-! ### Past the gate (14 R322) -/

section
variable {s u : State} {v : Vals} {i : Instr} {pr : Pred} {eff : BitVec 5} {t : Tgt} {c : Ctx} {x : Inst}
  (hg : s.gate eff ⟨true, false, none, false, true⟩ = .goes u) (hc : (u.releaseHere .pkg).fctx = some c) (hx : (u.releaseHere .pkg).finst = some x)
include hg hc hx

theorem fabricAct_done {y : State} {r : Word} {act : Ctx → Inst → Word → Word → State → Act}
    (ha : act c x v.a.bits v.b.bits (u.releaseHere .pkg) = y.fabricDone i eff r) :
    fabricAct i eff v s act = .fires (((y.performed eff).effect i .done).deliverS i r) := by
  simp only [fabricAct, hg, hc, hx, ha, State.fabricDone]

/-- A handle that names no load of the ASID. -/
theorem noLoad (hl : (u.releaseHere .pkg).loadOf c.asid v.a.bits = none) :
    ∀ i ∈ ([.punload pr eff t, .pstart pr eff t, .pstop pr eff t, .psave pr eff t] : List Instr), Acts s i v →
      GivesAfter s ((u.releaseHere .pkg).performed eff) i .done (errWord 8) := by
  simp only [List.forall_mem_cons]
  refine ⟨fun h => ?_, fun h => ?_, fun h => ?_, fun h => ?_, fun i hi => absurd hi List.not_mem_nil⟩
  · show execPunload pr eff t s = _
    unfold execPunload
    exact fire_fires h (fabricAct_done hg hc hx (by simp only [hl]))
  · show execPstart pr eff t s = _
    unfold execPstart
    exact fire_fires h (fabricAct_done hg hc hx (by simp only [hl]))
  · show execPstop pr eff t s = _
    unfold execPstop
    exact fire_fires h (fabricAct_done hg hc hx (by simp only [hl]))
  · show execPsave pr eff t s = _
    unfold execPsave
    exact fire_fires h (fabricAct_done hg hc hx (by simp only [hl]))

section
variable {l : Load} (hl : (u.releaseHere .pkg).loadOf c.asid v.a.bits = some l)
include hl

/-! ### PUNLOAD and PSTART (14 R319, R322) -/

theorem punload_running (hs : l.st = .running) (h : Acts s (.punload pr eff t) v) :
    GivesAfter s ((u.releaseHere .pkg).performed eff) (.punload pr eff t) .done (errWord 9) := by
  show execPunload pr eff t s = _
  unfold execPunload
  exact fire_fires h (fabricAct_done hg hc hx (by simp only [hl, hs, if_true]))

theorem punload_frees (hs : l.st ≠ .running) (hb : (u.releaseHere .pkg).loadBusy l = false) (h : Acts s (.punload pr eff t) v) :
    GivesAfter s (((u.releaseHere .pkg).freeLoad l).hypSweep.performed eff) (.punload pr eff t) .done 0 := by
  show execPunload pr eff t s = _
  unfold execPunload
  exact fire_fires h (fabricAct_done hg hc hx (by simp only [hl, hs, hb, Bool.false_eq_true, if_false]))

section
variable (h : Acts s (.pstart pr eff t) v)
include h

theorem pstart_runs (hs : l.st = .loaded ∨ l.st = .stopped) :
    GivesAfter s (((u.releaseHere .pkg).runLoad l).performed eff) (.pstart pr eff t) .done 0 := by
  show execPstart pr eff t s = _
  unfold execPstart
  rcases hs with hs | hs <;> exact fire_fires h (fabricAct_done hg hc hx (by simp only [hl, hs]))

theorem pstart_disposes {y : State} {bss : List (Option (List Byte))} (hs : l.st = .faulted) (hd : l.statusDue = false)
    (hr : ∀ r ∈ (u.releaseHere .pkg).recq, r.load ≠ some (l.tower, l.slot))
    (hrecs : (u.releaseHere .pkg).loadRecs c l (List.range l.nrec) = (y, some bss)) :
    GivesAfter s (((y.disposeAll l ((List.range l.nrec).zip bss)).runLoad l).performed eff) (.pstart pr eff t) .done 0 := by
  have hdue : (l.statusDue || (u.releaseHere .pkg).recq.any fun r => decide (r.load = some (l.tower, l.slot))) = false := by
    rw [hd, Bool.false_or, List.any_eq_false]
    exact fun r hm ht => hr r hm (of_decide_eq_true ht)
  show execPstart pr eff t s = _
  unfold execPstart
  exact fire_fires h (fabricAct_done hg hc hx (by simp only [hl, hs, hdue, hrecs, Bool.false_eq_true, if_false]))

theorem pstart_refused (hs : l.st = .running ∨ l.st = .finished ∨ l.st = .saved) :
    GivesAfter s ((u.releaseHere .pkg).performed eff) (.pstart pr eff t) .done (errWord 9) := by
  show execPstart pr eff t s = _
  unfold execPstart
  rcases hs with hs | hs | hs <;> exact fire_fires h (fabricAct_done hg hc hx (by simp only [hl, hs]))

end

/-! ### PSTOP (14 R324) -/

section
variable (h : Acts s (.pstop pr eff t) v)
include h

theorem pstop_ended (hs : l.st = .stopped ∨ l.st = .finished) :
    GivesAfter s (((u.releaseHere .pkg).onLoad l.tower l.slot fun z =>
      { z with waiter := if z.waiter = some (c.id, x.uid, (u.releaseHere .pkg).focus.iid) then none else z.waiter }).performed eff) (.pstop pr eff t) .done 0 := by
  show execPstop pr eff t s = _
  unfold execPstop
  rcases hs with hs | hs <;> exact fire_fires h (fabricAct_done hg hc hx (by simp only [hl, hs]))

theorem pstop_faulted (hs : l.st = .faulted) :
    GivesAfter s (((u.releaseHere .pkg).onLoad l.tower l.slot fun z =>
      { z with waiter := if z.waiter = some (c.id, x.uid, (u.releaseHere .pkg).focus.iid) then none else z.waiter }).performed eff) (.pstop pr eff t) .done
        (w64 l.nrec) := by
  show execPstop pr eff t s = _
  unfold execPstop
  exact fire_fires h (fabricAct_done hg hc hx (by simp only [hl, hs]))

theorem pstop_loaded (hs : l.st = .loaded) : GivesAfter s ((u.releaseHere .pkg).performed eff) (.pstop pr eff t) .done (errWord 9) := by
  show execPstop pr eff t s = _
  unfold execPstop
  exact fire_fires h (fabricAct_done hg hc hx (by simp only [hl, hs]))

/-- A running load that nothing moves any more once it is asked to stop. -/
theorem pstop_stops (hs : l.st = .running) (hw : l.waiter = none)
    (hstill : (((u.releaseHere .pkg).onLoad l.tower l.slot fun z =>
      { z with stopAsked := true, waiter := some (c.id, x.uid, (u.releaseHere .pkg).focus.iid) }).discardHeld l).loadStill l = true) :
    GivesAfter s (((((((u.releaseHere .pkg).onLoad l.tower l.slot fun z =>
      { z with stopAsked := true, waiter := some (c.id, x.uid, (u.releaseHere .pkg).focus.iid) }).discardHeld l).onLoad l.tower l.slot fun z =>
        { z with stopAsked := false, waiter := none, edges := z.edges.map fun e => { e with headAt := none } }).loadTo l.tower l.slot .stopped)).performed eff)
          (.pstop pr eff t) .done 0 := by
  show execPstop pr eff t s = _
  unfold execPstop
  exact fire_fires h (fabricAct_done hg hc hx (by simp only [hl, hs, hw, hstill, Option.isSome_none, Bool.false_and, Bool.false_eq_true, if_false, if_true]))

end

/-! ### PSAVE (14 R325) -/

section
variable (h : Acts s (.psave pr eff t) v)
include h

theorem psave_refused (hs : l.st = .running ∨ l.st = .finished ∨ l.st = .saved) :
    GivesAfter s ((u.releaseHere .pkg).performed eff) (.psave pr eff t) .done (errWord 9) := by
  have hno : (!(decide (l.st = .loaded) || decide (l.st = .stopped) || decide (l.st = .faulted))) = true := by rcases hs with hs | hs | hs <;> rw [hs] <;> rfl
  show execPsave pr eff t s = _
  unfold execPsave
  exact fire_fires h (fabricAct_done hg hc hx (by simp only [hl, hno, if_true]))

variable (hs : l.st = .loaded ∨ l.st = .stopped ∨ l.st = .faulted)
include hs

theorem psave_allowed : (!(decide (l.st = .loaded) || decide (l.st = .stopped) || decide (l.st = .faulted))) = false := by
  rcases hs with hs | hs | hs <;> rw [hs] <;> rfl

theorem psave_misaligned (hb : v.b.bits.toNat % 4096 ≠ 0) :
    GivesAfter s ((u.releaseHere .pkg).performed eff) (.psave pr eff t) .done (errWord 10) := by
  have hz : bitsZero v.b.bits 0 12 = false := not_bitsZero_low_of (n := 12) hb
  show execPsave pr eff t s = _
  unfold execPsave
  exact fire_fires h (fabricAct_done hg hc hx (by
    simp only [hl, psave_allowed hg hc hx hl h hs, hz, Bool.not_false, Bool.true_or, Bool.false_eq_true, if_false, if_true]))

/-- What PSAVE leaves once the image is written: the load saved under its area alone, its cells and nodes kept with it. -/
def State.savedLoad (w y : State) (l : Load) (area : Word) : State :=
  let own (m : MNode) : Bool := decide (m.tower = l.tower) && (match m.owner with
    | .load slot _ => decide (slot = l.slot)
    | _ => false)
  let y : State := { y with loads := y.loads.map fun o : Load =>
    if o.st = LoadSt.saved ∧ o.asid = l.asid ∧ o.area = some area then { o with area := none } else o }
  let z := (y.onLoad l.tower l.slot fun z => { z with
    area := some area
    keptCells := (w.ctxs.filter fun z => decide (z.loadRef = some (l.tower, l.slot))).map fun z => { z with window := [] }
    keptNodes := y.mnodes.filter own }).loadTo l.tower l.slot .saved
  { z with ctxs := z.ctxs.filter fun x => !decide (x.loadRef = some (l.tower, l.slot)), mnodes := z.mnodes.filter fun m => !own m }

theorem psave_saves {y : State} (hb : v.b.bits.toNat % 4096 = 0) (hr : v.b.bits.toNat < 2 ^ 56) (hbusy : (u.releaseHere .pkg).loadBusy l = false)
    (hw : ((u.releaseHere .pkg).discardHeld l).vwriteAll c.asid v.b.bits (((u.releaseHere .pkg).discardHeld l).loadImage l) = (y, none)) :
    GivesAfter s ((State.savedLoad (u.releaseHere .pkg) y l v.b.bits).performed eff) (.psave pr eff t) .done 0 := by
  have hz : bitsZero v.b.bits 0 12 = true := bitsZero_low_of (n := 12) hb
  have hcan : canonical v.b.bits 1 = true := canonical_of (by omega)
  show execPsave pr eff t s = _
  unfold execPsave
  exact fire_fires h (fabricAct_done hg hc hx (by
    simp only [hl, psave_allowed hg hc hx hl h hs, hz, hcan, hbusy, hw, Bool.not_true, Bool.or_self, Bool.false_eq_true, if_false] <;> rfl))

end
end
end

/-- A load is not busy once its cells have nothing left to store and nothing of it is due to be written (log 86). -/
theorem loadBusy_false {w : State} {l : Load} (hp : ∀ z ∈ w.ctxs, z.loadRef = some (l.tower, l.slot) → z.pend = [])
    (hr : ∀ r ∈ w.recq, r.load ≠ some (l.tower, l.slot)) (hd : l.statusDue = false) : w.loadBusy l = false := by
  have hcells : (w.ctxs.any fun c => decide (c.loadRef = some (l.tower, l.slot)) && !c.pend.isEmpty && !w.quiet c) = false := by
    refine List.any_eq_false.mpr fun z hz ht => ?_
    simp only [Bool.and_eq_true, decide_eq_true_eq, Bool.not_eq_true'] at ht
    obtain ⟨⟨href, hpend⟩, -⟩ := ht
    rw [hp z hz href] at hpend
    exact absurd hpend nofun
  have hrecs : (w.recq.any fun r => decide (r.load = some (l.tower, l.slot))) = false :=
    List.any_eq_false.mpr fun r hm ht => hr r hm (of_decide_eq_true ht)
  rw [State.loadBusy, hcells, hd, hrecs]; rfl

/-! ### PLOAD and PREST (14 R323, R325; log 99) -/

section
variable {s u : State} {v : Vals} {pr : Pred} {eff : BitVec 5} {t : Tgt}

theorem pload_placed {l : Load} (hw : s.waitingLoad = some l) (hs : l.st ≠ .configuring) (h : Acts s (.pload pr eff t) v) :
    GivesAfter s ((s.onLoad l.tower l.slot fun z => { z with waiter := none }).performed eff) (.pload pr eff t) .done l.handle := by
  show execPload pr eff t s = _
  unfold execPload
  exact fire_fires h (by simp only [hw, hs, if_false, State.fabricDone])

theorem prest_placed {l : Load} (hw : s.waitingLoad = some l) (hs : l.st ≠ .configuring) (h : Acts s (.prest pr eff t) v) :
    let y := s.onLoad l.tower l.slot fun z => { z with waiter := none, area := none }
    (∀ o, y.savedAt l.asid l.area = some o → GivesAfter s ((y.freeLoad o).performed eff) (.prest pr eff t) .done l.handle)
      ∧ (y.savedAt l.asid l.area = none → GivesAfter s (y.performed eff) (.prest pr eff t) .done l.handle) := by
  intro y
  refine ⟨fun o ho => ?_, fun hn => ?_⟩
  · have ho' : (s.onLoad l.tower l.slot fun z => { z with waiter := none, area := none }).savedAt l.asid l.area = some o := ho
    show execPrest pr eff t s = _
    unfold execPrest
    exact fire_fires h (by simp only [hw, hs, ho', if_false, State.fabricDone, y])
  · have hn' : (s.onLoad l.tower l.slot fun z => { z with waiter := none, area := none }).savedAt l.asid l.area = none := hn
    show execPrest pr eff t s = _
    unfold execPrest
    exact fire_fires h (by simp only [hw, hs, hn', if_false, State.fabricDone, y])

section
variable {c : Ctx} {x : Inst} (hg : s.gate eff ⟨true, false, none, false, true⟩ = .goes u) (hc : (u.releaseHere .pkg).fctx = some c)
  (hx : (u.releaseHere .pkg).finst = some x) (hw : s.waitingLoad = none)
include hg hc hx hw

theorem pload_refused {y : State} {n : Nat} (hi : (u.releaseHere .pkg).checkImage c v.a.bits v.b.bits = (y, .error n)) (h : Acts s (.pload pr eff t) v) :
    GivesAfter s (y.performed eff) (.pload pr eff t) .done (errWord n) := by
  show execPload pr eff t s = _
  unfold execPload
  exact fire_fires h (by simp only [hw]; exact fabricAct_done hg hc hx (by simp only [hi]))

section
variable (h : Acts s (.prest pr eff t) v)
include h

/-- An area that is misaligned, cannot be read or records no state. -/
theorem prest_refused {y : State} {r : Option (List (List Byte))}
    (hr : (if bitsZero v.a.bits 0 12 then (u.releaseHere .pkg).vreadAll c.asid v.a.bits [(0, 24)] else (u.releaseHere .pkg, none)) = (y, r))
    (hn : ∀ bss, r = some bss → savedSt (qwordOf ((bss[0]?).getD []) 2) = none) :
    GivesAfter s (y.performed eff) (.prest pr eff t) .done (errWord 10) := by
  show execPrest pr eff t s = _
  unfold execPrest
  refine fire_fires h ?_
  simp only [hw]
  refine fabricAct_done hg hc hx ?_
  cases r with
  | none => simp only [hr]
  | some bss => simp only [hr, hn bss rfl, Option.isNone_none, Bool.true_or, if_true]

end
end
end

/-! ### SPOP and SPUSH (14 R311 to R313) -/

section
variable {s : State} {v : Vals} {eff port : BitVec 5} {t : Tgt} {c : Ctx} {x : Inst} (hc : s.fctx = some c) (hx : s.finst = some x)
include hc hx

theorem spop_elsewhere (hk : x.hdr.kind ≠ 1) (h : Acts s (.spop eff port t) v) :
    exec (.spop eff port t) s = .next (s.fired (s.effectBad (.spop eff port t) .illop)) := by
  show execSpop eff port t s = _
  unfold execSpop
  exact fire_fires h (by simp only [hc, hx, hk, ne_eq, not_false_eq_true, if_true])

section
variable (hk : x.hdr.kind = 1)
include hk

section
variable {l : Load} {n : Nat} {e : FEdge} (he : s.edgeOfCtx c port.toNat false = some (l, n, e)) (h : Acts s (.spop eff port t) v)
include he h

theorem spop_takes {k : FTok} {ks : List FTok} (ht : e.toks = k :: ks) (hb : k.tag ≠ .bubble) :
    exec (.spop eff port t) s = .next (s.fired ((s.effect (.spop eff port t) (.spop port)).deliver (.spop eff port t) (k.token e.wide s.focus.iid))) := by
  show execSpop eff port t s = _
  unfold execSpop
  exact fire_fires h (by simp only [hc, hx, hk, he, ht, hb, ne_eq, not_true_eq_false, if_false])

theorem spop_waits (ht : e.toks = []) : exec (.spop eff port t) s = .next s := by
  show execSpop eff port t s = _
  unfold execSpop
  exact RegistersAndMoves.fire_actWaits h (by simp only [hc, hx, hk, he, ht, ne_eq, not_true_eq_false, if_false])

end

section
variable {l : Load} {n : Nat} {e : FEdge} {k : Token} (he : s.edgeOfCtx c port.toNat true = some (l, n, e))
  (hs : ∀ u, k = .scalar u → e.wide = false) (hw : ∀ u, k = .wide u → e.wide = true)
include he hs hw

/-- A token of the edge's width takes a slot, or waits for one. -/
theorem spushAct_fits (i : Instr) :
    spushAct i port k s = if e.toks.length + x.edgeRes.count port < e.depth
      then .fires ((s.onInst fun y => { y with edgeRes := port :: y.edgeRes }).effect i (.spush port k)) else .waits s := by
  cases k with
  | scalar u => simp only [spushAct, hc, hx, hk, he, hs u rfl, ne_eq, not_true_eq_false, if_false, Bool.not_false, Bool.not_true, Bool.false_eq_true]
  | wide u => simp only [spushAct, hc, hx, hk, he, hw u rfl, ne_eq, not_true_eq_false, if_false, Bool.not_true, Bool.false_eq_true]
  | null => simp only [spushAct, hc, hx, hk, he, ne_eq, not_true_eq_false, if_false, Bool.not_true, Bool.false_eq_true]
  | poison kd o => simp only [spushAct, hc, hx, hk, he, ne_eq, not_true_eq_false, if_false, Bool.not_true, Bool.false_eq_true]

end
end
end

/-- The test by which SPUSH takes a null for itself. -/
theorem execSpush_eq (eff port : BitVec 5) (s : State) (b : Bool)
    (hb : (match s.finst with
      | none => false
      | some x => x.mark.isNone && !x.fired.contains s.focus.iid && !s.ctlHeld && decide (x.hdr.kind = 1)
        && decide (x.ready s.focus.iid (.spush eff port) = .meetsNull)) = b) :
    exec (.spush eff port) s = if b then
      match spushAct (.spush eff port) port .null s with
      | .waits t => .next t
      | .fires t => .next (t.onInst fun y => y.markFired s.focus.iid).tick
    else fire s (.spush eff port) fun v u => spushAct (.spush eff port) port v.a u := by
  rw [← hb]
  rfl

section
variable {s : State} {v : Vals} {eff port : BitVec 5} {c : Ctx} {x : Inst} (hc : s.fctx = some c) (hx : s.finst = some x)
include hx

theorem spush_acts (h : Acts s (.spush eff port) v) :
    exec (.spush eff port) s = fire s (.spush eff port) fun v u => spushAct (.spush eff port) port v.a u := by
  obtain ⟨y, hy, hm, hf, hctl, hr⟩ := h
  obtain rfl : x = y := Option.some.inj (hx.symm.trans hy)
  refine (execSpush_eq eff port s false ?_).trans (if_neg Bool.false_ne_true)
  simp only [hx, hr, reduceCtorEq, decide_false, Bool.and_false]

include hc

theorem spush_elsewhere (hk : x.hdr.kind ≠ 1) (h : Acts s (.spush eff port) v) : Poisons s (.spush eff port) .illop := by
  refine (spush_acts hx h).trans (fire_fires h ?_)
  simp only [spushAct, hc, hx, hk, ne_eq, not_false_eq_true, if_true]

section
variable (hk : x.hdr.kind = 1) {l : Load} {n : Nat} {e : FEdge} (he : s.edgeOfCtx c port.toNat true = some (l, n, e))
include hk he

theorem spush_reserves (h : Acts s (.spush eff port) v) (hr : e.toks.length + x.edgeRes.count port < e.depth) (hs : ∀ u, v.a = .scalar u → e.wide = false)
    (hw : ∀ u, v.a = .wide u → e.wide = true) :
    exec (.spush eff port) s
      = .next (s.fired ((s.onInst fun y => { y with edgeRes := port :: y.edgeRes }).effect (.spush eff port) (.spush port v.a))) :=
  (spush_acts hx h).trans (fire_fires h ((spushAct_fits hc hx hk he hs hw _).trans (if_pos hr)))

theorem spush_waits (h : Acts s (.spush eff port) v) (hr : e.depth ≤ e.toks.length + x.edgeRes.count port) (hs : ∀ u, v.a = .scalar u → e.wide = false)
    (hw : ∀ u, v.a = .wide u → e.wide = true) : exec (.spush eff port) s = .next s :=
  (spush_acts hx h).trans (RegistersAndMoves.fire_actWaits h ((spushAct_fits hc hx hk he hs hw _).trans (if_neg (Nat.not_lt.mpr hr))))

theorem spush_null (h : Asks s (.spush eff port) .meetsNull) (hr : e.toks.length + x.edgeRes.count port < e.depth) :
    exec (.spush eff port) s = .next (((s.onInst fun y => { y with edgeRes := port :: y.edgeRes }).effect (.spush eff port) (.spush port .null)).onInst
      fun y => y.markFired s.focus.iid).tick := by
  obtain ⟨y, hy, hm, hf, hctl, hready⟩ := h
  obtain rfl : x = y := Option.some.inj (hx.symm.trans hy)
  have hcont : x.fired.contains s.focus.iid = false := Bool.eq_false_iff.mpr fun h => hf (List.contains_iff_mem.mp h)
  refine (execSpush_eq eff port s true ?_).trans ((if_pos rfl).trans ?_)
  · simp only [hx, hm, hcont, hctl, hk, hready, Option.isNone_none, Bool.not_false, decide_true, Bool.and_self]
  · rw [(spushAct_fits (k := .null) hc hx hk he (fun _ => nofun) (fun _ => nofun) _).trans (if_pos hr)]

end
end

/-- A token that stands on an edge is popped as the token that was pushed. -/
theorem token_edge_scalar (r : Word) (q : BitVec 32) : (Token.edge (.scalar r) q).token false 0 = .scalar r := by
  show Token.scalar ((r.setWidth 512).setWidth 64) = .scalar r
  rw [BitVec.setWidth_setWidth_of_le r (by decide), BitVec.setWidth_eq]

/-- Settles O40: each configuring instruction by the state of its load, SPOP and SPUSH by their edge. -/
theorem fabricInstructions : Obligations.FabricInstructions := by
  refine ⟨?_, ?_⟩
  · intro s u v pr eff t c x hg w a gives hc hx
    refine ⟨fun hl => ⟨noLoad hg hc hx hl, by decide⟩, fun l hl => ⟨punload_running hg hc hx hl, punload_frees hg hc hx hl, loadBusy_false,
        fun hs h => pstart_runs hg hc hx hl h hs, fun y bss hs hd hr hrecs h => pstart_disposes hg hc hx hl h hs hd hr hrecs,
        fun hs h => pstart_refused hg hc hx hl h hs, ⟨fun hs h => pstop_ended hg hc hx hl h hs, fun hs h => pstop_faulted hg hc hx hl h hs⟩,
        fun hs h => pstop_loaded hg hc hx hl h hs, fun hs hw hstill h => pstop_stops hg hc hx hl h hs hw hstill,
        fun y hs hb hr hbusy hw h => psave_saves hg hc hx hl h hs hb hr hbusy hw, fun hs h => psave_refused hg hc hx hl h hs,
        fun hs hb h => psave_misaligned hg hc hx hl h hs hb⟩,
      fun y n hw hi h => pload_refused hg hc hx hw hi h, fun l => pload_placed, fun l hw hs h => prest_placed hw hs h, fun hw h => ?_⟩
    refine ⟨fun hm => ?_, fun y hm hr => ?_, fun y bs hm hr hn => ?_⟩
    · have hz : bitsZero v.a.bits 0 12 = false := not_bitsZero_low_of (n := 12) hm
      exact prest_refused hg hc hx hw h (if_neg (by rw [hz]; decide)) nofun
    · have hz : bitsZero v.a.bits 0 12 = true := bitsZero_low_of (n := 12) hm
      exact prest_refused hg hc hx hw h ((if_pos hz).trans hr) nofun
    · have hz : bitsZero v.a.bits 0 12 = true := bitsZero_low_of (n := 12) hm
      exact prest_refused hg hc hx hw h ((if_pos hz).trans hr) fun bss hb => by obtain rfl := Option.some.inj hb; exact hn
  · intro s v eff port t c x hc hx
    exact ⟨fun hk => ⟨spop_elsewhere hc hx hk, spush_elsewhere hc hx hk⟩,
      fun l n e hk he h => ⟨fun k ks ht hb => spop_takes hc hx hk he h ht hb, spop_waits hc hx hk he h⟩,
      fun l n e hk he => ⟨spush_reserves hc hx hk he, spush_null hc hx hk he, spush_waits hc hx hk he⟩,
      fun e k now => ⟨rfl, rfl⟩, fun r q w => ⟨token_edge_scalar r q, rfl⟩⟩

end Sys2Proof.FabricOps
end

section
/-! Traps, control registers and the reading instructions (17 R348 to R364). -/

namespace Sys2Proof.ControlOps

-- One proof at a time: proofs checked side by side take each a stack of memory.
set_option Elab.async false

open Sys2Proof.Machine Sys2Proof.TaskOps Sys2Proof.StreamerOps

section
variable {s : State} {v : Vals} {pr : Pred} {eff sel : BitVec 5} {t : Tgt}

/-! ### TRAP, DBGBRK, RFT (17 R348, R349) -/

theorem trap_effects (ha : v.a.bits.toNat < 2 ^ 16) (h : Acts s (.trap pr eff) v) : Effects s (.trap pr eff) (.trap (BitVec.ofNat 16 v.a.bits.toNat)) := by
  have hz : bitsZero v.a.bits 16 48 = true := (bitsZero_upper v.a.bits (lo := 16) (n := 48) rfl).trans (decide_eq_true ha)
  show execTrap pr eff s = _
  unfold execTrap
  exact fire_fires h (by rw [hz, if_pos rfl, BitVec.ofNat_toNat])

theorem trap_poisons (ha : 2 ^ 16 ≤ v.a.bits.toNat) (h : Acts s (.trap pr eff) v) : Poisons s (.trap pr eff) .illop := by
  have hz : bitsZero v.a.bits 16 48 = false := (bitsZero_upper v.a.bits (lo := 16) (n := 48) rfl).trans (decide_eq_false (Nat.not_lt.mpr ha))
  show execTrap pr eff s = _
  unfold execTrap
  exact fire_fires h (by rw [hz, if_neg Bool.false_ne_true])

theorem dbgbrk_effects (h : Acts s (.dbgbrk pr eff) v) : Effects s (.dbgbrk pr eff) .dbgbrk := by
  show execDbgbrk pr eff s = _
  unfold execDbgbrk
  exact fire_fires h rfl

section
variable {c : Ctx} (hc : s.fctx = some c)
include hc

theorem rft_returns (hm : c.normalMode = false) (h : Acts s (.rft pr eff) v) :
    exec (.rft pr eff) s = .next (s.fired ((s.effect (.rft pr eff) .rft).onInst Inst.recordRft)) := by
  show execRft pr eff s = _
  unfold execRft
  exact fire_fires h (by simp only [hc, hm, Bool.false_eq_true, if_false])

theorem rft_illop (hm : c.normalMode = true) (h : Acts s (.rft pr eff) v) :
    exec (.rft pr eff) s = .next (s.fired ((s.effectPoison (.rft pr eff) .illop).onInst Inst.recordRft)) := by
  show execRft pr eff s = _
  unfold execRft
  exact fire_fires h (by simp only [hc, hm, if_true])

theorem privileged_iff : s.privileged = true ↔ c.kind = .task ∧ c.cellOf s.focus.iid = (s.tower c.tower).svCell := by
  simp only [State.privileged, hc, Bool.and_eq_true, decide_eq_true_eq]

/-! ### CREAD and CWRITE (17 R353, R354) -/

theorem cread_own (ho : s.oldest = true) (hs : sel.toNat < 16) (h : Acts s (.cread pr eff sel t) v) :
    GivesAfter s s (.cread pr eff sel t) .done (c.reg sel.toNat) := by
  show execCread pr eff sel t s = _
  unfold execCread
  exact fire_fires h (by simp only [hc, ho, hs, Bool.not_true, Bool.false_eq_true, if_false, if_true])

theorem cread_supervisor (ho : s.oldest = true) (hs : 16 ≤ sel.toNat) (hp : s.privileged = true) (h : Acts s (.cread pr eff sel t) v) :
    GivesAfter s s (.cread pr eff sel t) .done (s.svReg c.tower sel.toNat) := by
  show execCread pr eff sel t s = _
  unfold execCread
  exact fire_fires h (by simp only [hc, ho, if_neg (Nat.not_lt.mpr hs), hp, Bool.not_true, Bool.false_eq_true, if_false, if_true])

theorem cread_perm (ho : s.oldest = true) (hs : 16 ≤ sel.toNat) (hp : s.privileged = false) (h : Acts s (.cread pr eff sel t) v) :
    exec (.cread pr eff sel t) s = .next (s.fired (s.effectBad (.cread pr eff sel t) .perm)) := by
  show execCread pr eff sel t s = _
  unfold execCread
  exact fire_fires h (by simp only [hc, ho, if_neg (Nat.not_lt.mpr hs), hp, Bool.not_true, Bool.false_eq_true, if_false])

theorem cread_waits (ho : s.oldest = false) (h : Acts s (.cread pr eff sel t) v) : exec (.cread pr eff sel t) s = .next s := by
  show execCread pr eff sel t s = _
  unfold execCread
  exact RegistersAndMoves.fire_actWaits h (by simp only [hc, ho, Bool.not_false, if_true])

end

theorem cwrite_effects (ho : s.oldest = true) (hs : sel.toNat < 16 ∨ s.privileged = true) (h : Acts s (.cwrite pr eff sel) v) :
    Effects s (.cwrite pr eff sel) (.cwrite sel v.a.bits) := by
  have hok : (decide (sel.toNat < 16) || s.privileged) = true := by simpa only [Bool.or_eq_true, decide_eq_true_eq] using hs
  show execCwrite pr eff sel s = _
  unfold execCwrite
  exact fire_fires h (by simp only [ho, hok, Bool.not_true, Bool.false_eq_true, if_false, if_true])

theorem cwrite_perm (ho : s.oldest = true) (hs : 16 ≤ sel.toNat) (hp : s.privileged = false) (h : Acts s (.cwrite pr eff sel) v) :
    Poisons s (.cwrite pr eff sel) .perm := by
  show execCwrite pr eff sel s = _
  unfold execCwrite
  exact fire_fires h (by simp only [ho, hp, decide_eq_false (Nat.not_lt.mpr hs), Bool.not_true, Bool.or_self, Bool.false_eq_true, if_false])

theorem cwrite_waits (ho : s.oldest = false) (h : Acts s (.cwrite pr eff sel) v) : exec (.cwrite pr eff sel) s = .next s := by
  show execCwrite pr eff sel s = _
  unfold execCwrite
  exact RegistersAndMoves.fire_actWaits h (by simp only [ho, Bool.not_false, if_true])

/-! ### RDTIME, RDPMC, AFWAIT, IDLE (17 R356, R360, R361, R364; logs 59, 71) -/

theorem rdtime_delivers (ht : s.timeHeld = false) (h : Acts s (.rdtime pr eff t) v) : GivesAfter s s (.rdtime pr eff t) .done (w64 s.time) := by
  show execRdtime pr eff t s = _
  unfold execRdtime
  exact fire_fires h (by simp only [ht, Bool.false_eq_true, if_false])

theorem rdtime_waits (ht : s.timeHeld = true) (h : Acts s (.rdtime pr eff t) v) : exec (.rdtime pr eff t) s = .next s := by
  show execRdtime pr eff t s = _
  unfold execRdtime
  exact RegistersAndMoves.fire_actWaits h (by simp only [ht, if_true])

section
variable {c : Ctx} (hc : s.fctx = some c)
include hc

theorem rdpmc_counts (ha : v.a.bits.toNat < 256) (h : Acts s (.rdpmc pr eff t) v) :
    GivesAfter s s (.rdpmc pr eff t) .done (c.counter s.time s.clock v.a.bits.toNat) := by
  have hz : bitsZero v.a.bits 8 56 = true := (bitsZero_upper v.a.bits (lo := 8) (n := 56) rfl).trans (decide_eq_true ha)
  show execRdpmc pr eff t s = _
  unfold execRdpmc
  exact fire_fires h (by simp only [hc, hz, Bool.not_true, Bool.false_eq_true, if_false])

theorem rdpmc_illop (ha : 256 ≤ v.a.bits.toNat) (h : Acts s (.rdpmc pr eff t) v) :
    exec (.rdpmc pr eff t) s = .next (s.fired ((s.effect (.rdpmc pr eff t) .done).deliverPoison (.rdpmc pr eff t) .illop)) := by
  have hz : bitsZero v.a.bits 8 56 = false := (bitsZero_upper v.a.bits (lo := 8) (n := 56) rfl).trans (decide_eq_false (Nat.not_lt.mpr ha))
  show execRdpmc pr eff t s = _
  unfold execRdpmc
  exact fire_fires h (by simp only [hc, hz, Bool.not_false, if_true])

theorem afwait_counts (ho : s.oldest = true) (hh : c.heldIn = []) (hp : c.pend = []) (hr : s.recordDue c = false) (h : Acts s (.afwait pr eff t) v) :
    GivesAfter s s (.afwait pr eff t) .done (w64 (c.afHead - c.afTail).toNat) := by
  show execAfwait pr eff t s = _
  unfold execAfwait
  exact fire_fires h (by simp only [hc, ho, hh, hp, hr, List.any_nil, Bool.not_true, Bool.or_self, Bool.false_eq_true, if_false])

theorem afwait_waits (hr : s.recordDue c = true) (h : Acts s (.afwait pr eff t) v) : exec (.afwait pr eff t) s = .next s := by
  show execAfwait pr eff t s = _
  unfold execAfwait
  exact RegistersAndMoves.fire_actWaits h (by simp only [hc, hr, Bool.or_true, if_true])

section
variable {x : Inst} (hx : s.finst = some x)
include hx

theorem idle_illop (ha : 2 ^ 32 ≤ v.a.bits.toNat) (h : Acts s (.idle pr eff t) v) :
    exec (.idle pr eff t) s = .next (s.fired (s.effectBad (.idle pr eff t) .illop)) := by
  have hz : bitsZero v.a.bits 32 32 = false := (bitsZero_upper v.a.bits (lo := 32) (n := 32) rfl).trans (decide_eq_false (Nat.not_lt.mpr ha))
  show execIdle pr eff t s = _
  unfold execIdle
  exact fire_fires h (by simp only [hc, hx, hz, Bool.not_false, if_true])

variable (ho : s.oldest = true) (ha : v.a.bits.toNat < 2 ^ 32) (h : Acts s (.idle pr eff t) v)
include ho ha h

theorem idle_ends (hb : s.idleBits c v.a.bits.toNat ((x.waitSince s.focus.iid).getD s.time) ≠ 0) :
    GivesAfter s (s.onInst fun y => y.waitedOut s.focus.iid s.time) (.idle pr eff t) .done
      (w64 (s.idleBits c v.a.bits.toNat ((x.waitSince s.focus.iid).getD s.time))) := by
  have hz : bitsZero v.a.bits 32 32 = true := (bitsZero_upper v.a.bits (lo := 32) (n := 32) rfl).trans (decide_eq_true ha)
  show execIdle pr eff t s = _
  unfold execIdle
  exact fire_fires h (by simp only [hc, hx, hz, ho, hb, Bool.not_true, Bool.false_eq_true, if_false])

theorem idle_waits (hb : s.idleBits c v.a.bits.toNat ((x.waitSince s.focus.iid).getD s.time) = 0) : exec (.idle pr eff t) s = .next s.beginWait := by
  have hz : bitsZero v.a.bits 32 32 = true := (bitsZero_upper v.a.bits (lo := 32) (n := 32) rfl).trans (decide_eq_true ha)
  show execIdle pr eff t s = _
  unfold execIdle
  exact RegistersAndMoves.fire_actWaits h (by simp only [hc, hx, hz, ho, hb, Bool.not_true, Bool.false_eq_true, if_false, if_true])

end

/-! ### CLINE (17 R363) -/

section
variable {op : ClineOp}

/-- How a CLINE accesses the page of its address. -/
def clineAccess (op : ClineOp) : Access :=
  match op with
  | .ic => .fetch
  | _ => .load

theorem cline_out {u : State} (ha : 2 ^ 56 ≤ v.a.bits.toNat) (hg : s.gate eff ⟨false, false, none, false, false⟩ = .goes u) (h : Acts s (.cline pr eff op) v) :
    exec (.cline pr eff op) s = .next (s.fired ((u.notePoison v.a.bits).effectPoison (.cline pr eff op) .perm)) := by
  have hcan : canonical v.a.bits 1 = false := not_canonical_of (by omega)
  have hgate := gated_goes hg fun w => (w.notePoison v.a.bits).effectPoison (.cline pr eff op) .perm
  show execCline pr eff op s = _
  unfold execCline
  exact fire_fires h (by simp only [hc, hcan, hgate, Bool.not_false, if_true])

variable (ho : s.oldest = true)
include ho

theorem cline_scratch {u : State} (hl : scratchBase ≤ v.a.bits.toNat) (ha : v.a.bits.toNat < 2 ^ 56)
    (hg : s.gate eff ⟨decide (op = .ic), false, none, false, false⟩ = .goes u) (h : Acts s (.cline pr eff op) v) :
    exec (.cline pr eff op) s = .next (s.fired ((u.performed eff).effect (.cline pr eff op) .done)) := by
  have hcan : canonical v.a.bits 1 = true := canonical_of (by omega)
  show execCline pr eff op s = _
  unfold execCline
  exact fire_fires h (by simp only [hc, hcan, ho, hl, hg, Bool.not_true, Bool.false_eq_true, if_false, if_true])

variable (hl : v.a.bits.toNat < scratchBase)
include hl

theorem cline_canonical : canonical v.a.bits 1 = true := by
  have : scratchBase < 2 ^ 56 := by decide
  exact canonical_of (by omega)

theorem cline_page {u : State} {l : Leaf} (hp : s.permGet c.tower (c.cellOf s.focus.iid) c.asid v.a.bits (clineAccess op) = .ok l)
    (hg : s.gate eff ⟨decide (op = .ic), false, none, false, false⟩ = .goes u) (h : Acts s (.cline pr eff op) v) :
    exec (.cline pr eff op) s
      = .next (s.fired (((if l.far then u else u.clineDo (l.tag c.asid) op v.a.bits).performed eff).effect (.cline pr eff op) .done)) := by
  have hcan := cline_canonical hc ho hl
  show execCline pr eff op s = _
  unfold execCline
  refine fire_fires h ?_
  generalize decide (op = .ic) = rel at hg ⊢
  cases op <;> simp only [clineAccess] at hp <;> cases hf : l.far <;>
    simp only [hc, hcan, ho, if_neg (Nat.not_le.mpr hl), hp, hg, hf, Bool.not_true, Bool.false_eq_true, if_false, if_true]

theorem cline_bad {u w : State} {k : Kind} (hp : s.permGet c.tower (c.cellOf s.focus.iid) c.asid v.a.bits (clineAccess op) = .bad k u)
    (hg : u.gate eff ⟨false, false, none, false, false⟩ = .goes w) (h : Acts s (.cline pr eff op) v) :
    exec (.cline pr eff op) s = .next (s.fired ((w.takeNotes.notePoison v.a.bits).effectPoison (.cline pr eff op) k)) := by
  have hcan := cline_canonical hc ho hl
  have hgate := gated_goes hg fun w => (w.takeNotes.notePoison v.a.bits).effectPoison (.cline pr eff op) k
  show execCline pr eff op s = _
  unfold execCline
  refine fire_fires h ?_
  cases op <;> simp only [clineAccess] at hp <;>
    simp only [hc, hcan, ho, if_neg (Nat.not_le.mpr hl), hp, hgate, Bool.not_true, Bool.false_eq_true, if_false]

end
end
end

/-- Off the supervisor's cell, with no message at its inboxes and its time not over, an IDLE has no reason to end. -/
theorem idleBits_zero {s : State} {c : Ctx} {n since : Nat} (ht : n = 0 ∨ s.time < since + n * 1000) (hp : s.privileged = false)
    (hi : ∀ j < c.width, ((s.tower c.tower).inbox (c.base + j)).head? = none) : s.idleBits c n since = 0 := by
  have hhead : ((List.range c.width).any fun j => (((s.tower c.tower).inbox (c.base + j)).head?).isSome) = false := by
    refine List.any_eq_false.mpr fun j hj ht => ?_
    rw [hi j (List.mem_range.mp hj)] at ht
    exact absurd ht nofun
  have hpassed : (decide (n ≠ 0) && decide (since + n * 1000 ≤ s.time)) = false := by
    refine Bool.eq_false_iff.mpr fun h => ?_
    simp only [Bool.and_eq_true, decide_eq_true_eq] at h
    omega
  simp only [State.idleBits, hhead, hp, hpassed, Bool.false_and, Bool.false_eq_true, if_false]

/-- Settles O41: each instruction's branches, by the mode, the selector, the wait and the page. -/
theorem controlInstructions : Obligations.ControlInstructions := by
  refine ⟨fun s v pr eff sel t c hc => ⟨trap_effects, trap_poisons, dbgbrk_effects, rft_returns hc, rft_illop hc, decide_eq_true_iff,
      fun ho => ⟨cread_own hc ho, cread_supervisor hc ho, cread_perm hc ho, cwrite_effects ho, cwrite_perm ho⟩,
      fun ho => ⟨cread_waits hc ho, cwrite_waits ho⟩, privileged_iff hc⟩, fun s v pr eff op t c x hc hx => ?_⟩
  intro va acc
  have hacc : acc = clineAccess op := by cases op <;> rfl
  refine ⟨rdtime_delivers, rdtime_waits, rdpmc_counts hc, rdpmc_illop hc, afwait_counts hc, afwait_waits hc, ?_, idle_illop hc hx,
    fun u ho => cline_scratch hc ho, fun u l ho hl hp => ?_, fun u => cline_out hc, fun k u w ho hl hp => ?_, fun now since n ht hp hi hnow => ?_⟩
  · intro since ho ha h
    exact ⟨idle_ends hc hx ho ha h, idle_waits hc hx ho ha h⟩
  · rw [hacc] at hp
    exact cline_page hc ho hl hp
  · rw [hacc] at hp
    exact cline_bad hc ho hl hp
  · exact idleBits_zero (hnow ▸ ht) hp hi

end Sys2Proof.ControlOps
end

section
/-! The supervisor's instructions (17 R355 to R359, R362). -/

namespace Sys2Proof.SupervisorOps

-- One proof at a time: proofs checked side by side take each a stack of memory.
set_option Elab.async false

open Sys2Proof.Machine Sys2Proof.TaskOps Sys2Proof.StreamerOps Sys2Proof.MessageOps

section
variable {s u : State} {v : Vals} {pr : Pred} {eff : BitVec 5} {t : Tgt}

/-! ### On a cell that is not the supervisor's -/

section
variable (hp : s.privileged = false)
include hp

theorem supervisor_perm : ∀ i ∈ ([.halt pr eff, .winwr pr eff, .tresume pr eff, .wsopen pr eff, .wsclose pr eff] : List Instr), Acts s i v → Poisons s i .perm := by
  simp only [List.forall_mem_cons]
  refine ⟨fun h => ?_, fun h => ?_, fun h => ?_, fun h => ?_, fun h => ?_, fun i hi => absurd hi List.not_mem_nil⟩
  · show execHalt pr eff s = _
    unfold execHalt
    exact fire_fires h (by simp only [hp, Bool.not_false, if_true])
  · show execWinwr pr eff s = _
    unfold execWinwr
    exact fire_fires h (by simp only [hp, Bool.not_false, if_true])
  · show execTresume pr eff s = _
    unfold execTresume
    exact fire_fires h (by simp only [hp, Bool.false_eq_true, if_false])
  · show execWsopen pr eff s = _
    unfold execWsopen
    exact fire_fires h (by simp only [weightAct, hp, Bool.not_false, if_true])
  · show execWsclose pr eff s = _
    unfold execWsclose
    exact fire_fires h (by simp only [weightAct, hp, Bool.not_false, if_true])

theorem winrd_perm (h : Acts s (.winrd pr eff t) v) : exec (.winrd pr eff t) s = .next (s.fired (s.effectBad (.winrd pr eff t) .perm)) := by
  show execWinrd pr eff t s = _
  unfold execWinrd
  exact fire_fires h (by simp only [hp, Bool.not_false, if_true])

theorem plbfl_perm (hg : s.gate eff ⟨false, false, none, false, false⟩ = .goes u) (h : Acts s (.plbfl pr eff t) v) :
    exec (.plbfl pr eff t) s = .next (s.fired (u.effectBad (.plbfl pr eff t) .perm)) := by
  have hgate := gated_goes hg fun w => w.effectBad (.plbfl pr eff t) .perm
  show execPlbfl pr eff t s = _
  unfold execPlbfl
  exact fire_fires h (by simp only [hp, hgate, Bool.not_false, if_true])

end

section
variable (hp : s.privileged = true)
include hp

/-! ### HALT, TRESUME, WSOPEN and WSCLOSE (17 R355, R356, R359) -/

theorem halt_effects (ha : recOperand v.a.bits = none) (hb : v.b.bits.toNat < 3) (h : Acts s (.halt pr eff) v) :
    Effects s (.halt pr eff) (.halt v.a.bits (BitVec.ofNat 2 v.b.bits.toNat)) := by
  have hok : (!bitsZero v.b.bits 2 62 || decide (bitsOf v.b.bits 0 2 = 3)) = false := by
    refine Bool.eq_false_iff.mpr fun h => ?_
    simp only [Bool.or_eq_true, not_bitsZero_iff, decide_eq_true_eq] at h
    simp only [bitsOf] at h
    omega
  show execHalt pr eff s = _
  unfold execHalt
  exact fire_fires h (by simp only [hp, ha, hok, Bool.not_true, Bool.false_eq_true, if_false, BitVec.ofNat_toNat])

theorem halt_illop (ha : recOperand v.a.bits = none) (hb : 3 ≤ v.b.bits.toNat) (h : Acts s (.halt pr eff) v) : Poisons s (.halt pr eff) .illop := by
  have hlt := v.b.bits.isLt
  have hbad : (!bitsZero v.b.bits 2 62 || decide (bitsOf v.b.bits 0 2 = 3)) = true := by
    simp only [Bool.or_eq_true, not_bitsZero_iff, decide_eq_true_eq]
    simp only [bitsOf]
    omega
  show execHalt pr eff s = _
  unfold execHalt
  exact fire_fires h (by simp only [hp, ha, hbad, Bool.not_true, Bool.false_eq_true, if_false, if_true])

theorem tresume_effects (h : Acts s (.tresume pr eff) v) : Effects s (.tresume pr eff) (.tresume v.a.bits) := by
  show execTresume pr eff s = _
  unfold execTresume
  exact fire_fires h (by simp only [hp, if_true])

theorem weightAct_effect {i : Instr} {mk : Nat → Action} (ha : v.a.bits.toNat < 6) : weightAct i mk v s = .fires (s.effect i (mk v.a.bits.toNat)) := by
  have hok : (!bitsZero v.a.bits 3 61 || decide (6 ≤ v.a.bits.toNat)) = false := by
    refine Bool.eq_false_iff.mpr fun h => ?_
    simp only [Bool.or_eq_true, not_bitsZero_iff, decide_eq_true_eq] at h
    omega
  simp only [weightAct, hp, hok, Bool.not_true, Bool.false_eq_true, if_false]

theorem weightAct_illop {i : Instr} {mk : Nat → Action} (ha : 6 ≤ v.a.bits.toNat) : weightAct i mk v s = .fires (s.effectPoison i .illop) := by
  simp only [weightAct, hp, decide_eq_true ha, Bool.or_true, Bool.not_true, Bool.false_eq_true, if_false, if_true]

/-! ### WINWR and WINRD (17 R357) -/

theorem windowNumber (hb : v.b.bits.toNat < 256) : bitsZero v.b.bits 8 56 = true :=
  (bitsZero_upper v.b.bits (lo := 8) (n := 56) rfl).trans (decide_eq_true hb)

theorem winwr_effects {tw : Nat} {x : TaskInfo} (hb : v.b.bits.toNat < 256) (hn : v.b.bits ≠ 195) (hs : s.stopped? v.a.bits = some (tw, x))
    (h : Acts s (.winwr pr eff) v) : Effects s (.winwr pr eff) (.winwr v.a.bits (BitVec.ofNat 8 v.b.bits.toNat) v.c.bits) := by
  show execWinwr pr eff s = _
  unfold execWinwr
  exact fire_fires h (by
    simp only [hp, windowNumber hp hb, hs, hn, false_and, Bool.not_true, Bool.false_eq_true, if_false, BitVec.ofNat_toNat])

theorem winwr_perm (hb : v.b.bits.toNat < 256) (hs : s.stopped? v.a.bits = none) (h : Acts s (.winwr pr eff) v) : Poisons s (.winwr pr eff) .perm := by
  show execWinwr pr eff s = _
  unfold execWinwr
  exact fire_fires h (by simp only [hp, windowNumber hp hb, hs, Bool.not_true, Bool.false_eq_true, if_false])

theorem winwr_illop (hb : 256 ≤ v.b.bits.toNat) (h : Acts s (.winwr pr eff) v) : Poisons s (.winwr pr eff) .illop := by
  have hz : bitsZero v.b.bits 8 56 = false := (bitsZero_upper v.b.bits (lo := 8) (n := 56) rfl).trans (decide_eq_false (Nat.not_lt.mpr hb))
  show execWinwr pr eff s = _
  unfold execWinwr
  exact fire_fires h (by simp only [hp, hz, Bool.not_true, Bool.not_false, Bool.false_eq_true, if_false, if_true])

section
variable (ho : s.oldest = true) (hb : v.b.bits.toNat < 256) (h : Acts s (.winrd pr eff t) v)
include ho hb h

theorem winrd_delivers {tw : Nat} {x : TaskInfo} {d : Ctx} (hs : s.stopped? v.a.bits = some (tw, x)) (hd : s.stoppedCtx tw x = (u, .ok d)) :
    GivesAfter s u (.winrd pr eff t) .done (d.windowWord v.b.bits.toNat) := by
  show execWinrd pr eff t s = _
  unfold execWinrd
  exact fire_fires h (by simp only [hp, ho, windowNumber hp hb, hs, hd, Bool.not_true, Bool.false_eq_true, if_false])

theorem winrd_none (hs : s.stopped? v.a.bits = none) :
    exec (.winrd pr eff t) s = .next (s.fired ((s.effect (.winrd pr eff t) .done).deliverPoison (.winrd pr eff t) .perm)) := by
  show execWinrd pr eff t s = _
  unfold execWinrd
  exact fire_fires h (by simp only [hp, ho, windowNumber hp hb, hs, Bool.not_true, Bool.false_eq_true, if_false])

end

/-! ### PLBFL (17 R358) -/

section
variable (h : Acts s (.plbfl pr eff t) v)
include h

theorem plbfl_finished {f : ShootForm} {y : Shoot} (hf : shootOperand v = .ok f)
    (hy : s.shoots.find? (fun x => decide (x.by_ = some (s.focus.ctx, s.focus.iid))) = some y) (hfin : y.finished = true) :
    GivesAfter s (({ s with shoots := s.shoots.filter fun x => !decide (x.by_ = some (s.focus.ctx, s.focus.iid)) } : State).performed eff)
      (.plbfl pr eff t) .done 0 := by
  show execPlbfl pr eff t s = _
  unfold execPlbfl
  exact fire_fires h (by simp only [hp, hf, hy, hfin, Bool.not_true, Bool.false_eq_true, if_false, if_true])

theorem plbfl_bad {k : Kind} (hf : shootOperand v = .error k) (hg : s.gate eff ⟨false, false, none, false, false⟩ = .goes u) :
    exec (.plbfl pr eff t) s = .next (s.fired (u.effectBad (.plbfl pr eff t) k)) := by
  have hgate := gated_goes hg fun w => w.effectBad (.plbfl pr eff t) k
  show execPlbfl pr eff t s = _
  unfold execPlbfl
  exact fire_fires h (by simp only [hp, hf, hgate, Bool.not_true, Bool.false_eq_true, if_false])

theorem plbfl_begins {f : ShootForm} (hf : shootOperand v = .ok f)
    (hy : s.shoots.find? (fun x => decide (x.by_ = some (s.focus.ctx, s.focus.iid))) = none) (hg : s.gate eff ⟨true, false, none, false, false⟩ = .goes u) :
    exec (.plbfl pr eff t) s = .next ({ (u.releaseHere .pkg) with
      shoots := (u.releaseHere .pkg).shoots ++ [⟨f, some (s.focus.ctx, s.focus.iid), false⟩] } : State).beginWait := by
  show execPlbfl pr eff t s = _
  unfold execPlbfl
  exact RegistersAndMoves.fire_actWaits h (by simp only [hp, hf, hy, hg, Bool.not_true, Bool.false_eq_true, if_false])

end
end
end

/-! ### The operand of PLBFL (17 R358) -/

section
variable {v : Vals}

theorem bits_18_iff (a : Word) : bitsZero a 18 46 = true ↔ a.toNat < 2 ^ 18 := by
  have h := a.isLt
  rw [bitsZero_iff]
  omega

theorem shootOperand_reserved (ha : 2 ^ 18 ≤ v.a.bits.toNat) : shootOperand v = .error .illop := by
  have hz : bitsZero v.a.bits 18 46 = false := Bool.eq_false_iff.mpr fun h => absurd ((bits_18_iff _).mp h) (Nat.not_lt.mpr ha)
  simp only [shootOperand, hz, Bool.not_false, if_true]

/-- The form that bits [17:16] name, the bits above being zero. -/
theorem shootOperand_form {n : Nat} (ha : v.a.bits.toNat / 2 ^ 16 = n) (hn : n < 4) :
    bitsZero v.a.bits 18 46 = true ∧ bitsOf v.a.bits 16 2 = n := by
  refine ⟨(bits_18_iff _).mpr (by omega), ?_⟩
  rw [bitsOf]
  omega

theorem shootOperand_three (ha : v.a.bits.toNat / 2 ^ 16 = 3) : shootOperand v = .error .illop := by
  obtain ⟨hz, hf⟩ := shootOperand_form ha (by decide)
  simp only [shootOperand, hz, hf, Bool.not_true, Bool.false_eq_true, if_false]

theorem shootOperand_whole (ha : v.a.bits.toNat / 2 ^ 16 = 1) : shootOperand v = .ok (.whole (v.a.bits.setWidth 16)) := by
  obtain ⟨hz, hf⟩ := shootOperand_form ha (by decide)
  simp only [shootOperand, hz, hf, Bool.not_true, Bool.false_eq_true, if_false]

theorem shootOperand_globals (ha : v.a.bits.toNat / 2 ^ 16 = 2) : shootOperand v = .ok .globals := by
  obtain ⟨hz, hf⟩ := shootOperand_form ha (by decide)
  simp only [shootOperand, hz, hf, Bool.not_true, Bool.false_eq_true, if_false]

theorem shootOperand_range (ha : v.a.bits.toNat < 2 ^ 16) (hb : v.b.bits.toNat % 65536 = 0) (hc : v.c.bits.toNat < 2 ^ 32) :
    shootOperand v = .ok (.range (v.a.bits.setWidth 16) (v.b.bits.toNat / 65536) v.c.bits.toNat) := by
  obtain ⟨hz, hf⟩ := shootOperand_form (v := v) (n := 0) (by omega) (by decide)
  have hbz : bitsZero v.b.bits 0 16 = true := bitsZero_low_of (n := 16) hb
  have hcz : bitsZero v.c.bits 32 32 = true := (bitsZero_upper v.c.bits (lo := 32) (n := 32) rfl).trans (decide_eq_true hc)
  have hcv : bitsOf v.c.bits 0 32 = v.c.bits.toNat := by rw [bitsOf, pow_zero, Nat.div_one, Nat.mod_eq_of_lt hc]
  simp only [shootOperand, hz, hf, hbz, hcz, hcv, Bool.not_true, Bool.false_eq_true, if_false]

end

/-- Settles O42: PERM off the supervisor's cell, each instruction's branches on it, and PLBFL's operand. -/
theorem supervisorInstructions : Obligations.SupervisorInstructions := by
  intro s v pr eff t a b
  refine ⟨fun hp => ⟨supervisor_perm hp, winrd_perm hp, fun u => plbfl_perm hp⟩, fun hp => ⟨fun hm hr => halt_effects hp (recOperand_ok hm hr),
      fun hm hr => halt_illop hp (recOperand_ok hm hr), tresume_effects hp, fun ha => ⟨fun h => ?_, fun h => ?_⟩, fun ha => ⟨fun h => ?_, fun h => ?_⟩,
      fun tw x => winwr_effects hp, winwr_perm hp, winwr_illop hp, fun tw x u d ho hb hs hd h => winrd_delivers hp ho hb h hs hd,
      fun ho hb hs h => winrd_none hp ho hb h hs, fun f y hf hy hfin h => plbfl_finished hp h hf hy hfin, fun k u hf hg h => plbfl_bad hp h hf hg,
      fun f u hf hy hg h => plbfl_begins hp h hf hy hg⟩,
    shootOperand_reserved, fun _ => shootOperand_three, shootOperand_whole, shootOperand_globals, shootOperand_range⟩
  · exact fire_fires (act := weightAct (.wsopen pr eff) .wsopen) h (weightAct_effect hp ha)
  · exact fire_fires (act := weightAct (.wsclose pr eff) .wsclose) h (weightAct_effect hp ha)
  · exact fire_fires (act := weightAct (.wsopen pr eff) .wsopen) h (weightAct_illop hp ha)
  · exact fire_fires (act := weightAct (.wsclose pr eff) .wsclose) h (weightAct_illop hp ha)

end Sys2Proof.SupervisorOps
end

section
/-! Fetching and committing a clause, stops, upcalls and the return from them (01 R10 to R27; 17 R332 to R354). -/

namespace Sys2Proof.ClauseEvents

-- One proof at a time: proofs checked side by side take each a stack of memory.
set_option Elab.async false

open Sys2Proof.Machine Sys2Proof.MessageOps

/-! ### CLAUSE_FETCH (01 R10 to R13, R24) -/

theorem exec_clauseFetch {s : State} {n : Nat} {x : Ctx} {a : Word} (hx : s.ctx? n = some x) (hk : x.kind = .task) (hr : x.runs = true)
    (hd : s.stopDue x = false) (ha : x.fetchAddr = some a) : exec (.clauseFetch n) s = .next (s.fetchFrom x a) := by
  show execClauseFetch n s = _
  simp only [execClauseFetch, hx, hk, hr, hd, ha, Bool.not_true, Bool.false_and, Bool.or_self, Bool.false_eq_true, if_false]

theorem clauseAddrOk_iff (a : Word) : clauseAddrOk a = true ↔ a.toNat % 16 = 0 ∧ a.toNat < 2 ^ 56 := by
  have h := a.isLt
  simp only [clauseAddrOk, Bool.and_eq_true, bitsZero_iff]
  omega

theorem fetchFrom_bad {s : State} {x : Ctx} {a : Word} (h : clauseAddrOk a = false) : s.fetchFrom x a = s.placeInst x a .zero [] (some .clausefmt) none := by
  simp only [State.fetchFrom, h, Bool.not_false, if_true]

theorem fetchFrom_ok {s t u : State} {x : Ctx} {a : Word} {hb bs : List Byte} (h : clauseAddrOk a = true)
    (hh : s.fetchBytes x (x.base + a.toNat / 16 % (if x.width = 0 then 1 else x.width)) a 16 = .ok hb t)
    (hw : t.fetchBytes x (x.base + a.toNat / 16 % (if x.width = 0 then 1 else x.width)) (a + 16) (headerOf hb).size = .ok bs u) :
    s.fetchFrom x a
      = u.placeInst x a (headerOf hb) (wordsOf bs) (clauseMark (headerOf hb) (wordsOf bs) false (x.needHandler && x.window.isEmpty)) none := by
  simp only [State.fetchFrom, h, hh, hw, Bool.not_true, Bool.false_eq_true, if_false]

/-- A word that decodes, but to no form of an edge, is marked only for a target beyond its clause. -/
theorem wordMark_plain {n : Nat} {w : BitVec 32} {i : Instr} (hd : decodeWord w.toNat = .ok i)
    (hne : ∀ p e f q, i ≠ .tloadEdge p e f q ∧ i ≠ .tstoreEdge p e f q) :
    wordMark false n w = if i.targets.any fun t => decide (n ≤ t.2.toNat) then some .clausefmt else none := by
  simp only [wordMark, hd]
  split
  · exact absurd rfl (hne _ _ _ _).1
  · exact absurd rfl (hne _ _ _ _).2
  · rw [Bool.false_and, if_neg Bool.false_ne_true]

theorem clauseMark_bad {h : Header} {ws : List (BitVec 32)} {handler : Bool} (hb : h.bad false handler = true) :
    clauseMark h ws false handler = some .clausefmt := by rw [clauseMark, if_pos hb]

theorem header_bad {h : Header} (hb : h.version ≠ 1 ∨ h.kind = 3 ∨ h.kind = 1 ∨ h.reserved ≠ 0) : h.bad false false = true := by
  simp only [Header.bad, Bool.or_eq_true, decide_eq_true_eq, Bool.false_eq_true, if_false, Bool.false_and, or_false]
  rcases hb with h | h | h | h
  · exact .inl (.inl (.inl h))
  · exact .inl (.inl (.inr h))
  · exact .inr h
  · exact .inl (.inr h)

theorem header_bad_handler {h : Header} (hk : h.kind ≠ 2) : h.bad false true = true := by
  simp only [Header.bad, decide_eq_true hk, Bool.and_self, Bool.or_true]

/-- The mark of the first word stands, where the header is sound. -/
theorem clauseMark_cons {h : Header} {w : BitVec 32} {ws : List (BitVec 32)} {k : Kind} (hb : h.bad false false = false)
    (hw : wordMark false (w :: ws).length w = some k) : clauseMark h (w :: ws) false false = some k := by
  rw [clauseMark, if_neg (Bool.eq_false_iff.mp hb), List.findSome?_cons, hw]

theorem clauseMark_none {h : Header} {ws : List (BitVec 32)} (hb : h.bad false false = false) (hw : ∀ w ∈ ws, wordMark false ws.length w = none) :
    clauseMark h ws false false = none := by
  rw [clauseMark, if_neg (Bool.eq_false_iff.mp hb)]
  exact List.findSome?_eq_none_iff.mpr hw

theorem toNat_word {w : Nat} (h : w < 2 ^ 32) : (BitVec.ofNat 32 w).toNat = w := by rw [BitVec.toNat_ofNat, Nat.mod_eq_of_lt h]

/-- Settles O43: the address, then the header, then the words of a clause. -/
theorem clauseFetch : Obligations.ClauseFetch := by
  intro s n x a hx hk hr hd ha
  refine ⟨exec_clauseFetch hx hk hr hd ha, clauseAddrOk_iff a, fetchFrom_bad, ?_, fun h => rfl, fun h ws hb => clauseMark_bad (header_bad hb),
    fun h ws hk => clauseMark_bad (header_bad_handler hk), fun h w e ws hb he hw => clauseMark_cons hb ?_, fun h w i ws hb hi hw ht hne => clauseMark_cons hb ?_,
    fun h ws hb hall => clauseMark_none hb fun w hw => ?_⟩
  · intro cell hb t bs u ho hh hw
    exact fetchFrom_ok ho hh hw
  · simp only [wordMark, toNat_word hw, he]
  · rw [wordMark_plain ((congrArg decodeWord (toNat_word hw)).trans hi) hne, if_pos]
    obtain ⟨t, ht, hle⟩ := ht
    exact List.any_eq_true.mpr ⟨t, ht, decide_eq_true hle⟩
  · obtain ⟨i, hi, ht, hne⟩ := hall w hw
    rw [wordMark_plain hi hne, if_neg]
    refine Bool.eq_false_iff.mp (List.any_eq_false.mpr fun t hm hle => ?_)
    exact absurd (ht t hm) (Nat.not_lt.mpr (of_decide_eq_true hle))

/-! ### CLAUSE_COMMIT (01 R18 to R21) -/

section
variable {s : State} {n : Nat} {y : Ctx} {x : Inst} {xs : List Inst} (hy : s.ctx? n = some y) (hw : y.window = x :: xs) (hk : y.kind = .task)
include hy hw hk

theorem clauseCommit_stays (h : x.ownFault ≠ none ∨ x.complete = false) : exec (.clauseCommit n) s = .next s := by
  have hstop : (!y.runs || (s.stopDue y && y.boundary) || x.ownFault.isSome || !x.complete) = true := by
    rcases h with h | h
    · rw [Option.isSome_iff_ne_none.mpr h, Bool.or_true, Bool.true_or]
    · rw [h, Bool.not_false, Bool.or_true]
  show execClauseCommit n s = _
  simp only [execClauseCommit, hy, hw, hk, hstop, if_true]

theorem clauseCommit_tries (hr : y.runs = true) (hd : s.stopDue y = false) (hf : x.ownFault = none) (hc : x.complete = true) :
    exec (.clauseCommit n) s = .next (s.tryCommit y x State.commitTask) := by
  show execClauseCommit n s = _
  simp only [execClauseCommit, hy, hw, hk, hr, hd, hf, hc, Bool.not_true, Bool.false_and, Option.isSome_none, Bool.or_self, Bool.false_eq_true, if_false]

end

theorem complete_iff (x : Inst) :
    x.complete = true ↔ (∀ r < 64, x.hdr.gwmask.getLsbD r = true → ∃ p ∈ x.gw, p.1.toNat = r)
      ∧ (∀ r < 16, x.hdr.wwmask.getLsbD r = true → ∃ p ∈ x.ww, p.1.toNat = r)
      ∧ (∀ e < 32, x.hdr.effmask.getLsbD e = true → x.effOut? (BitVec.ofNat 5 e) ≠ none) ∧ (x.branch ≠ none ∨ x.rft = true) := by
  simp only [Inst.complete, Bool.and_eq_true, List.all_eq_true, List.mem_range, Bool.or_eq_true, Bool.not_eq_true', List.any_eq_true, decide_eq_true_eq,
    Option.isSome_iff_ne_none, ← Bool.not_eq_true, ← imp_iff_not_or, and_assoc]

/-- Settles O44: the tests of the event, then the three answers of the loads. -/
theorem clauseCommit : Obligations.ClauseCommit := by
  intro s n y x xs hy hw hk
  refine ⟨clauseCommit_stays hy hw hk, fun hr hd hf hc => ?_, complete_iff x, fun eng => ⟨rfl, rfl, rfl⟩, ?_⟩
  · rw [clauseCommit_tries hy hw hk hr hd hf hc]
    refine ⟨fun t ht => ?_, fun t ht => ?_, fun t z w zs ht hz hzw hfit => ?_⟩
    · rw [State.tryCommit, ht]
    · rw [State.tryCommit, ht]
    · simp only [State.tryCommit, ht, hz, hzw, hfit, Option.bind_some, List.head?_cons, Option.map_some, if_true]
  · cases xs with
    | nil => simp only [Ctx.shift, hw, List.drop_succ_cons, List.drop_zero, List.map_nil]
    | cons z zs => simp only [Ctx.shift, hw, List.drop_succ_cons, List.drop_zero, List.map_cons]

/-! ### Stops and upcalls (17 R332 to R335, R346, R355) -/

theorem upcalls_iff (c : Ctx) (x : Cause) :
    c.upcalls x = true ↔ (x.kind = .notpres ∨ x.kind = .viewstale ∨ x.kind = .hypfull) ∧ c.upcall ≠ 0 ∧ c.causeMode = 0 ∧ x.noUpcall = false := by
  simp only [Ctx.upcalls, Ctx.normalMode, Bool.and_eq_true, List.contains_iff_mem, List.mem_cons, List.not_mem_nil, or_false, decide_eq_true_eq,
    Bool.not_eq_true', and_assoc]

section
variable {s : State} {n : Nat} {c : Ctx} {t : TaskInfo} (hr : s.running? n = some (c, t))

section
variable {x : Cause} {others : List Cause} {up : Bool} (hc : s.chosen c = some (x, others))
  (ho : (∀ y ∈ x :: others, y.own = false ∨ y.kind = .stall) ∨ ∃ u, s.recheck c.id (List.range 32) = .same u)
include hc ho

/-- Serving a cause once the loads of the clause still stand where the cause is its own. -/
theorem serve_eq : s.serve c t up =
    if c.upcalls x then
      if !up then .next s
      else
        .next (({ s.clear c with lates := s.lates.filter fun l => !decide (l.1 = c.key) || l.2.noUpcall } : State).onCtx c.id fun y =>
          { y.settlePrio.takeUpcall x.kind (x.src.getD y.causeSrc) x.va with afterStop := [] }).tick
    else if up then .next s
    else if x.kind = .orphan && s.recSilent t then s.orphanEnd c t
    else if !s.quiet c then .next s
    else .next (s.stopTask c t x others false).tick := by
  have hstands : ∃ u, (if (x :: others).any (fun y => y.own && decide (y.kind ≠ .stall)) then s.recheck c.id (List.range 32) else Recheck.same s) = .same u := by
    rcases ho with h | ⟨u, hu⟩
    · have hown : (x :: others).any (fun y => y.own && decide (y.kind ≠ .stall)) = false := by
        refine List.any_eq_false.mpr fun y hy ht => ?_
        simp only [Bool.and_eq_true, decide_eq_true_eq] at ht
        rcases h y hy with h | h
        · rw [h] at ht; exact absurd ht.1 nofun
        · exact ht.2 h
      exact ⟨s, by rw [hown, if_neg Bool.false_ne_true]⟩
    · split
      · exact ⟨u, hu⟩
      · exact ⟨s, rfl⟩
  obtain ⟨u, hu⟩ := hstands
  simp only [State.serve, hc, hu]

theorem serve_stops (hu : c.upcalls x = false) (horphan : ¬(x.kind = .orphan ∧ s.recSilent t = true)) (hq : s.quiet c = true) :
    s.serve c t false = .next (s.stopTask c t x others false).tick := by
  have hno : (decide (x.kind = .orphan) && s.recSilent t) = false := by
    refine Bool.eq_false_iff.mpr fun h => horphan ?_
    rwa [Bool.and_eq_true, decide_eq_true_eq] at h
  rw [serve_eq hc ho, if_neg (by rw [hu]; decide), if_neg Bool.false_ne_true, if_neg (Bool.eq_false_iff.mp hno), if_neg (by rw [hq]; decide)]

end

include hr

theorem taskStop_serves (hl : c.leaving = none) (hh : c.haltReq = none ∨ c.haltReq = some 0) : exec (.taskStop n) s = s.serve c t false := by
  show execTaskStop n s = _
  rcases hh with hh | hh <;> simp only [execTaskStop, hr, hl, hh, if_true]

theorem taskStop_leaves {how : Leave} (hl : c.leaving = some how) : exec (.taskStop n) s = s.finishLeave c t how := by
  show execTaskStop n s = _
  simp only [execTaskStop, hr, hl]

theorem upcall_serves (hl : c.leaving = none) : exec (.upcall n) s = s.serve c t true := by
  show execUpcall n s = _
  simp only [execUpcall, hr, hl, Option.isSome_none, Bool.false_eq_true, if_false]

theorem stall_serves (hl : c.leaving = none) (hs : s.stalled c = true) : exec (.stall n) s = s.serve c t false := by
  show execStall n s = _
  simp only [execStall, hr, hl, hs, Option.isSome_none, Bool.not_true, Bool.or_self, Bool.false_eq_true, if_false]

theorem stall_early (hs : s.stalled c = false) : exec (.stall n) s = .next s := by
  show execStall n s = _
  simp only [execStall, hr, hs, Bool.not_false, Bool.or_true, if_true]

end

/-- Settles O45: which event serves or leaves, and what serving and leaving do. -/
theorem stopsAndUpcalls : Obligations.StopsAndUpcalls := by
  intro s n c t hr
  refine ⟨?_, fun y act => ⟨fun h => askHalt_takes h act, fun a ha h => askHalt_keeps ha h act⟩, ?_, fun x others hl hh hc ho => ⟨fun hu horph hq => ?_,
      fun hu horph hq hs => ?_, fun hu => ?_, fun hu => ?_⟩, stall_early hr, fun hl hq hf => ?_, fun x xs hl hq hf hd hx => ?_, fun hl hq => ?_, fun hl hq => ?_,
    fun how hl hq => ?_, upcalls_iff c⟩
  · show execStopRequest n .halt s = _
    simp only [execStopRequest, hr]
  · show execStopRequest n .linkLost s = _
    simp only [execStopRequest, hr]
  · rw [taskStop_serves hr hl hh, serve_stops hc ho hu horph hq]
  · rw [stall_serves hr hl hs, serve_stops hc ho hu horph hq]
  · rw [taskStop_serves hr hl hh, serve_eq hc ho, if_pos hu]; rfl
  · rw [upcall_serves hr hl, serve_eq hc ho, if_pos hu]; rfl
  · rw [taskStop_leaves hr hl]
    simp only [State.finishLeave, hq, hf, Bool.not_true, Bool.false_eq_true, if_false]
  · rw [taskStop_leaves hr hl]
    simp only [State.finishLeave, hq, hf, hd, hx, Bool.not_true, Bool.false_eq_true, if_false, if_true]
  · rw [taskStop_leaves hr hl]
    simp only [State.finishLeave, hq, Bool.not_true, Bool.false_eq_true, if_false]
  · rw [taskStop_leaves hr hl]
    simp only [State.finishLeave, hq, Bool.not_true, Bool.false_eq_true, if_false]
  · rw [taskStop_leaves hr hl]
    simp only [State.finishLeave, hq, Bool.not_false, if_true]

/-- Settles O46: each field stands as `Ctx.takeUpcall`, `Ctx.takeHandler` and `Ctx.returnFromTrap` set it. -/
theorem takingAndReturning : Obligations.TakingAndReturning := by
  intro c k src va pc m
  refine ⟨⟨rfl, rfl, rfl, rfl, rfl, rfl, rfl, rfl, rfl⟩, rfl, ⟨rfl, rfl, rfl, rfl, rfl, rfl, rfl, rfl, rfl⟩,
    fun r => ⟨rfl, rfl, rfl, rfl, rfl, rfl, rfl⟩, ⟨rfl, rfl⟩, fun x r hx => ?_⟩
  rw [Ctx.branchTo, hx, if_pos rfl]

end Sys2Proof.ClauseEvents
end

section
/-! The branch class and what a squash leaves (01 R26; 04 R110 to R118). -/

namespace Sys2Proof.BranchOps

-- One proof at a time: proofs checked side by side take each a stack of memory.
set_option Elab.async false

open Sys2Proof.Machine Sys2Proof.Delivering

theorem ctx?_onCtx_of {s : State} {n : Nat} {c : Ctx} {f : Ctx → Ctx} (hc : s.ctx? n = some c)
    (hf : ∀ c, (f c).id = c.id := by intro; rfl) : (s.onCtx n f).ctx? n = some (f c) := by rw [ctx?_onCtx s n f hf, hc, Option.map_some]

theorem fctx_onInst_of {s : State} {c : Ctx} {f : Inst → Inst} (hc : s.fctx = some c) :
    (s.onInst f).fctx = some { c with window := c.window.modify s.focus.win f } := by rw [fctx_onInst, hc, Option.map_some]

/-! ### What is kept as clauses are released -/

/-- From s to t memory, versions, nodes, engine commands and the focus are as they were, every task's context stands, and no hypothesis is new. -/
structure Releases (s t : State) : Prop where
  mem : t.mem = s.mem
  versions : t.versions = s.versions
  mnodes : t.mnodes = s.mnodes
  scmds : t.scmds = s.scmds
  focus : t.focus = s.focus
  ctx : ∀ n c, s.ctx? n = some c → c.kind = .task → t.ctx? n = some c
  hyp : ∀ h, s.hyp? h = none → t.hyp? h = none

theorem Releases.refl (s : State) : Releases s s := ⟨rfl, rfl, rfl, rfl, rfl, fun _ _ h _ => h, fun _ h => h⟩

theorem Releases.trans {s t u : State} (h : Releases s t) (k : Releases t u) : Releases s u :=
  ⟨k.mem.trans h.mem, k.versions.trans h.versions, k.mnodes.trans h.mnodes, k.scmds.trans h.scmds, k.focus.trans h.focus,
    fun n c hc ht => k.ctx n c (h.ctx n c hc ht) ht, fun n hn => k.hyp n (h.hyp n hn)⟩

/-- What is found first is found first among those that pass a test it passes. -/
theorem find_filter_of_pass {α : Type} {p q : α → Bool} {xs : List α} {a : α} (h : xs.find? q = some a) (hp : p a = true) :
    (xs.filter p).find? q = some a := by
  induction xs with
  | nil => exact absurd h nofun
  | cons x xs ih =>
    rw [List.find?_cons] at h
    rw [List.filter_cons]
    cases hq : q x with
    | true =>
      rw [hq] at h
      obtain rfl : x = a := Option.some.inj h
      rw [hp, if_pos rfl, List.find?_cons, hq]
    | false =>
      rw [hq] at h
      split
      · rw [List.find?_cons, hq]; exact ih h
      · exact ih h

theorem onTower_releases (s : State) (n : Nat) (f : Tower → Tower) : Releases s (s.onTower n f) :=
  ⟨rfl, rfl, rfl, rfl, rfl, fun _ _ h _ => h, fun _ h => h⟩

theorem grants_releases (f : Nat → Tower → Tower) (gs : List (BitVec 7 × Nat × Nat)) (s : State) :
    Releases s (gs.foldl (fun t g => t.onTower g.2.1 (f g.2.2)) s) := by
  induction gs generalizing s with
  | nil => exact Releases.refl s
  | cons g gs ih => exact (onTower_releases s g.2.1 (f g.2.2)).trans (ih _)

/-- A clause that is released leaves its hypotheses free. -/
theorem release_releases (s : State) (x : Inst) : Releases s (s.release x) ∧ ∀ h ∈ x.newHyps, (s.release x).hyp? h = none := by
  have hg := grants_releases (fun cell w => { w with inboxes := w.inboxes.map fun b => if b.cell = cell then { b with granted := b.granted - 1 } else b }) x.grants
  unfold State.release
  refine ⟨Releases.trans ?_ (hg _), fun h hm => (hg _).hyp h ?_⟩
  · refine ⟨rfl, rfl, rfl, rfl, rfl, fun n c hc ht => ?_, fun h hn => List.find?_eq_none.mpr fun y hy =>
      List.find?_eq_none.mp hn y (List.mem_of_mem_filter hy)⟩
    refine find_filter_of_pass hc ?_
    rw [Bool.not_eq_true']
    refine List.any_eq_false.mpr fun l _ hl => ?_
    rw [ht, Bool.and_false] at hl
    exact absurd hl nofun
  · refine List.find?_eq_none.mpr fun y hy hn => ?_
    have hkeep := (List.mem_filter.mp hy).2
    rw [of_decide_eq_true hn, List.contains_iff_mem.mpr hm] at hkeep
    exact absurd hkeep nofun

theorem releaseAll_releases (xs : List Inst) (s : State) :
    Releases s (xs.foldl (fun t y => t.release y) s) ∧ ∀ x ∈ xs, ∀ h ∈ x.newHyps, (xs.foldl (fun t y => t.release y) s).hyp? h = none := by
  induction xs generalizing s with
  | nil => exact ⟨Releases.refl s, fun x hx => absurd hx List.not_mem_nil⟩
  | cons x xs ih =>
    obtain ⟨hr, hfree⟩ := release_releases s x
    obtain ⟨hrs, hfrees⟩ := ih (s.release x)
    refine ⟨hr.trans hrs, fun y hy h hh => ?_⟩
    rcases List.mem_cons.mp hy with rfl | hy
    · exact hrs.hyp h (hfree h hh)
    · exact hfrees y hy h hh

theorem forgetReads_releases (s : State) (c : Ctx) : Releases s (s.forgetReads c) := onTower_releases s c.tower _

/-- What is dropped of a task, before its window is cut. -/
theorem dropFrom_eq {s : State} {c : Ctx} {m n : Nat} (hc : s.ctx? m = some c) :
    ∃ t, Releases s t ∧ (∀ x ∈ c.window.drop n, ∀ h ∈ x.newHyps, t.hyp? h = none)
      ∧ s.dropFrom m n = t.onCtx m fun y => { y with window := y.window.take n } := by
  obtain ⟨hr, hfree⟩ := releaseAll_releases (c.window.drop n) s
  have shoots : ∀ t : State, Releases s t → (∀ x ∈ c.window.drop n, ∀ h ∈ x.newHyps, t.hyp? h = none) → ∀ d : List Shoot,
      Releases s { t with shoots := d } ∧ ∀ x ∈ c.window.drop n, ∀ h ∈ x.newHyps, ({ t with shoots := d } : State).hyp? h = none :=
    fun t h hf d => ⟨h.trans ⟨rfl, rfl, rfl, rfl, rfl, fun _ _ h _ => h, fun _ h => h⟩, hf⟩
  have forget : ∀ t : State, Releases s t → (∀ x ∈ c.window.drop n, ∀ h ∈ x.newHyps, t.hyp? h = none) →
      Releases s (t.forgetReads c) ∧ ∀ x ∈ c.window.drop n, ∀ h ∈ x.newHyps, (t.forgetReads c).hyp? h = none :=
    fun t h hf => ⟨h.trans (forgetReads_releases t c), hf⟩
  simp only [State.dropFrom, hc]
  split <;> split
  · obtain ⟨h1, f1⟩ := shoots _ hr hfree _
    obtain ⟨h2, f2⟩ := forget _ h1 f1
    exact ⟨_, h2, f2, rfl⟩
  · obtain ⟨h2, f2⟩ := forget _ hr hfree
    exact ⟨_, h2, f2, rfl⟩
  · obtain ⟨h1, f1⟩ := shoots _ hr hfree _
    exact ⟨_, h1, f1, rfl⟩
  · exact ⟨_, hr, hfree, rfl⟩

/-- What a squash of a task's clauses leaves (01 R26). -/
theorem squashFrom_leaves {s : State} {c : Ctx} {m n : Nat} (hc : s.ctx? m = some c) (hk : c.kind = .task) :
    (s.squashFrom m n).ctx? m = some { c with window := c.window.take n, clSquash := c.clSquash + fetchedCount (c.window.drop n) }
      ∧ (s.squashFrom m n).mem = s.mem ∧ (s.squashFrom m n).versions = s.versions ∧ (s.squashFrom m n).mnodes = s.mnodes
      ∧ (s.squashFrom m n).scmds = s.scmds ∧ (s.squashFrom m n).focus = s.focus
      ∧ ∀ y ∈ c.window.drop n, ∀ h ∈ y.newHyps, (s.squashFrom m n).hyp? h = none := by
  obtain ⟨t, ht, hfree, he⟩ := dropFrom_eq (n := n) hc
  rw [State.squashFrom, hc]
  simp only [he]
  exact ⟨ctx?_onCtx_of (ctx?_onCtx_of (ht.ctx m c hc hk)), ht.mem, ht.versions, ht.mnodes, ht.scmds, ht.focus, hfree⟩

theorem unfetch_leaves {s : State} {c : Ctx} (hc : s.ctx? s.focus.ctx = some c) (hk : c.kind = .task) :
    (s.unfetch c).ctx? s.focus.ctx = some { c with
        window := c.window.take (s.focus.win + 1), clFetch := c.clFetch - fetchedCount (c.window.drop (s.focus.win + 1)) }
      ∧ (s.unfetch c).mem = s.mem ∧ (s.unfetch c).versions = s.versions ∧ (s.unfetch c).focus = s.focus := by
  have hid : c.id = s.focus.ctx := Waits.ctx?_id hc
  obtain ⟨t, ht, -, he⟩ := dropFrom_eq (n := s.focus.win + 1) hc
  have hu : s.unfetch c = (t.onCtx s.focus.ctx fun y => { y with window := y.window.take (s.focus.win + 1) }).onF fun x =>
      { x with clFetch := x.clFetch - fetchedCount (c.window.drop (s.focus.win + 1)) } := by rw [State.unfetch, hid, he]
  rw [hu, State.onF, show (t.onCtx s.focus.ctx fun y => { y with window := y.window.take (s.focus.win + 1) }).focus = s.focus from ht.focus]
  exact ⟨ctx?_onCtx_of (ctx?_onCtx_of (ht.ctx _ c hc hk)), ht.mem, ht.versions, ht.focus⟩

/-! ### The clauses behind a branch (01 R26) -/

/-- The clauses that stay behind a branch to t from the clause at n. -/
def staying (c : Ctx) (n : Nat) (t : Word) : List Inst :=
  if (c.window[n + 1]?).map (fun y => y.addr) ≠ none ∧ (c.window[n + 1]?).map (fun y => y.addr) ≠ some t then c.window.take (n + 1) else c.window

/-- A task's context as a branch leaves it: the clauses of ws with the branch's own changed, the predictor and the counts of fetches, squashes and mispredictions as may be. -/
def Resolved (c : Ctx) (n : Nat) (ws : List Inst) (d : Ctx) : Prop :=
  ∃ (g : Inst → Inst) (p : List (Word × BitVec 3 × Word)) (f q b : Nat),
    d = { c with window := ws.modify n g, predictor := p, clFetch := f, clSquash := q, brMisp := b }

theorem resolve_leaves {s : State} {c : Ctx} (hc : s.fctx = some c) (hk : c.kind = .task) (t : Word) :
    (s.resolve t).mem = s.mem ∧ (s.resolve t).versions = s.versions ∧ (s.resolve t).focus = s.focus
      ∧ ∃ d, (s.resolve t).fctx = some d ∧ Resolved c s.focus.win (staying c s.focus.win t) d := by
  have hc' : s.ctx? s.focus.ctx = some c := hc
  have hunmisp : ∀ (u : State) (d : Ctx) (ws : List Inst) (k : Nat), u.fctx = some d → u.focus = s.focus → Resolved c s.focus.win ws d →
      (u.unmispredict k).mem = u.mem ∧ (u.unmispredict k).versions = u.versions ∧ (u.unmispredict k).focus = s.focus
        ∧ ∃ e, (u.unmispredict k).fctx = some e ∧ Resolved c s.focus.win ws e := by
    rintro u d ws k hd hf ⟨g, p, f, q, b, rfl⟩
    have hcounts : (u.onF fun c => { c with clFetch := c.clFetch - k, clSquash := c.clSquash - k, brMisp := c.brMisp - 1 }).fctx = _ :=
      ctx?_onCtx_of (s := u) (n := u.focus.ctx) hd
    have hwin : (u.onF fun c => { c with clFetch := c.clFetch - k, clSquash := c.clSquash - k, brMisp := c.brMisp - 1 }).focus.win = s.focus.win :=
      congrArg Focus.win hf
    refine ⟨rfl, rfl, hf, _, fctx_onInst_of hcounts, ?_⟩
    rw [hwin]
    exact ⟨_, p, f - k, q - k, b - 1, by rw [List.modify_modify_eq]⟩
  have hplain : ∀ ws, ws = c.window → Resolved c s.focus.win ws c := by
    rintro ws rfl
    exact ⟨id, c.predictor, c.clFetch, c.clSquash, c.brMisp, by rw [List.modify_id]⟩
  have hshort : c.window[s.focus.win]? = none → staying c s.focus.win t = c.window := by
    intro h
    have : c.window[s.focus.win + 1]? = none := by
      rw [List.getElem?_eq_none_iff] at h ⊢
      omega
    rw [staying, this, Option.map_none, if_neg (fun h => h.1 rfl)]
  unfold State.resolve
  simp only [hc]
  cases hx : c.window[s.focus.win]? with
  | none => exact ⟨rfl, rfl, rfl, c, hc, hplain _ (hshort hx)⟩
  | some x =>
    simp only
    by_cases hoff : (c.window[s.focus.win + 1]?).map (fun y => y.addr) ≠ none ∧ (c.window[s.focus.win + 1]?).map (fun y => y.addr) ≠ some t
    · rw [decide_eq_true hoff, Bool.true_and]
      have hst : staying c s.focus.win t = c.window.take (s.focus.win + 1) := if_pos hoff
      rw [hst]
      split
      · obtain ⟨hd, hm, hv, -, -, hf, -⟩ := squashFrom_leaves (n := s.focus.win + 1) hc' hk
        have hsq : (s.squashFrom s.focus.ctx (s.focus.win + 1)).fctx = some _ := (congrArg (fun f : Focus => (s.squashFrom s.focus.ctx (s.focus.win + 1)).ctx? f.ctx) hf).trans hd
        have hmisp : ((s.squashFrom s.focus.ctx (s.focus.win + 1)).onF fun x => { x with brMisp := x.brMisp + 1 }).fctx = some _ :=
          ctx?_onCtx_of hsq
        refine ⟨hm, hv, hf, _, fctx_onInst_of hmisp, ?_⟩
        · rw [show ((s.squashFrom s.focus.ctx (s.focus.win + 1)).onF fun x => { x with brMisp := x.brMisp + 1 }).focus = s.focus from hf]
          exact ⟨_, c.predictor, c.clFetch, c.clSquash + fetchedCount (c.window.drop (s.focus.win + 1)), c.brMisp + 1, rfl⟩
      · obtain ⟨hd, hm, hv, hf⟩ := unfetch_leaves hc' hk
        have hfd : (s.unfetch c).fctx = some { c with
            window := c.window.take (s.focus.win + 1), clFetch := c.clFetch - fetchedCount (c.window.drop (s.focus.win + 1)) } := by
          rw [State.fctx, hf]; exact hd
        have hres : Resolved c s.focus.win (c.window.take (s.focus.win + 1)) { c with
            window := c.window.take (s.focus.win + 1), clFetch := c.clFetch - fetchedCount (c.window.drop (s.focus.win + 1)) } :=
          ⟨id, c.predictor, c.clFetch - fetchedCount (c.window.drop (s.focus.win + 1)), c.clSquash, c.brMisp, by rw [List.modify_id]⟩
        rw [if_pos rfl]
        split
        · split
          · rename_i k _ _
            obtain ⟨h1, h2, h3, h4⟩ := hunmisp _ _ _ k hfd hf hres
            exact ⟨h1.trans hm, h2.trans hv, h3, h4⟩
          · exact ⟨hm, hv, hf, _, hfd, hres⟩
        · exact ⟨hm, hv, hf, _, hfd, hres⟩
    · rw [decide_eq_false hoff, Bool.false_and, if_neg Bool.false_ne_true, if_neg Bool.false_ne_true]
      have hres := hplain _ (if_neg hoff : staying c s.focus.win t = c.window)
      split
      · split
        · rename_i k _ _
          exact hunmisp _ _ _ k hc rfl hres
        · exact ⟨rfl, rfl, rfl, c, hc, hres⟩
      · exact ⟨rfl, rfl, rfl, c, hc, hres⟩

/-- A branch leaves its task's context with the clauses that stay. -/
theorem takeBranch_leaves {s : State} {c : Ctx} {x : Inst} (hc : s.fctx = some c) (hk : c.kind = .task) (hx : c.window[s.focus.win]? = some x)
    (ex : BitVec 3) (t : Word) (b : BranchOut) :
    (s.takeBranch ex t b).mem = s.mem ∧ (s.takeBranch ex t b).versions = s.versions
      ∧ ∃ d, (s.takeBranch ex t b).fctx = some d ∧ Resolved c s.focus.win (staying c s.focus.win t) d := by
  have hfin : (s.onInst fun y => y.recordBranch b).finst = some (x.recordBranch b) := by
    rw [finst_onInst, State.finst, hc, Option.bind_some, hx]
    rfl
  have htold : ∃ p, ((s.onInst fun y => y.recordBranch b).tellPredictor ex t).fctx
      = some { c with window := c.window.modify s.focus.win fun y => y.recordBranch b, predictor := p } := by
    rw [State.tellPredictor, hfin]
    exact ⟨_, ctx?_onCtx_of (s := s.onInst fun y => y.recordBranch b) (n := s.focus.ctx) (fctx_onInst_of hc)⟩
  have hframe : ((s.onInst fun y => y.recordBranch b).tellPredictor ex t).mem = s.mem
      ∧ ((s.onInst fun y => y.recordBranch b).tellPredictor ex t).versions = s.versions
      ∧ ((s.onInst fun y => y.recordBranch b).tellPredictor ex t).focus = s.focus := by
    rw [State.tellPredictor, hfin]
    exact ⟨rfl, rfl, rfl⟩
  obtain ⟨p, hp⟩ := htold
  obtain ⟨hm, hv, hf⟩ := hframe
  obtain ⟨h1, h2, h3, d, hd, g, p', f, q, m, rfl⟩ := resolve_leaves hp hk t
  rw [hf] at hd
  refine ⟨h1.trans hm, h2.trans hv, _, hd, ?_⟩
  have hnext : (c.window.modify s.focus.win fun y => y.recordBranch b)[s.focus.win + 1]? = c.window[s.focus.win + 1]? :=
    List.getElem?_modify_ne _ _ (by omega)
  refine ⟨g ∘ fun y => y.recordBranch b, p', f, q, m, ?_⟩
  have hst : staying { c with window := c.window.modify s.focus.win fun y => y.recordBranch b, predictor := p } s.focus.win t
      = (staying c s.focus.win t).modify s.focus.win fun y => y.recordBranch b := by
    simp only [staying, hnext]
    split
    · rw [List.take_modify]
    · rfl
  rw [hst, List.modify_modify_eq]

section
variable {c : Ctx} {n : Nat} {t : Word}

theorem staying_take : (staying c n t).take n = c.window.take n := by
  rw [staying]
  split
  · rw [List.take_take, Nat.min_eq_left (Nat.le_succ n)]
  · rfl

theorem staying_other {y : Inst} (hy : c.window[n + 1]? = some y) (ha : y.addr ≠ t) : (staying c n t).length = n + 1 := by
  have hlen : n + 1 < c.window.length := (List.getElem?_eq_some_iff.mp hy).1
  rw [staying, hy, if_pos ⟨nofun, fun h => ha (Option.some.inj h)⟩, List.length_take, Nat.min_eq_left (Nat.le_of_lt hlen)]

theorem staying_same {y : Inst} (hy : c.window[n + 1]? = some y) (ha : y.addr = t) : staying c n t = c.window := by
  rw [staying, hy, if_neg (fun h => h.2 (congrArg some ha))]

theorem staying_none (hy : c.window[n + 1]? = none) : staying c n t = c.window := by
  rw [staying, hy, if_neg (fun h => h.1 rfl)]

end

/-- A report to the predictor changes what the predictors hold and nothing else (02 R39). -/
theorem tellPredictor_only (s : State) (ex : BitVec 3) (a : Word) :
    SameOutside s (s.tellPredictor ex a) ∧ ∃ f : Ctx → List (Word × BitVec 3 × Word), (s.tellPredictor ex a).ctxs = s.ctxs.map fun c : Ctx => { c with predictor := f c } := by
  rw [State.tellPredictor]
  cases s.finst with
  | none => exact ⟨⟨rfl⟩, fun c => c.predictor, (List.map_id' s.ctxs).symm⟩
  | some x =>
    refine ⟨⟨rfl⟩, fun c => if c.id = s.focus.ctx then (c.learn x.addr ex a).predictor else c.predictor, ?_⟩
    show (s.ctxs.map fun c => if c.id = s.focus.ctx then c.learn x.addr ex a else c) = _
    refine List.map_congr_left fun c _ => ?_
    by_cases h : c.id = s.focus.ctx
    · simp only [if_pos h]; rfl
    · simp only [if_neg h]

theorem branchTarget_eq (a : Word) (off : BitVec 20) : branchTarget a off = BitVec.ofInt 64 (a.toInt + off.toInt * 16) := by
  rw [branchTarget, BitVec.ofInt_add, BitVec.ofInt_mul, BitVec.ofInt_toInt]
  rfl

/-- Settles O21: each branch's action, and what the clauses behind a branch and behind a squash come to. -/
theorem branches : Obligations.Branches := by
  refine ⟨fun s v pr ex off => ⟨fun h => ?_, fun h => ?_, fun h => ?_, fun h => ?_, fun h => ?_, fun a => branchTarget_eq a off⟩,
    fun s v pr ex off => ⟨fun h => ?_, fun h => ?_, fun h => ?_, tellPredictor_only s ex⟩, fun s c x ex t b hc hk hx => ?_, fun s c n hc hk => ?_⟩
  · show execBro pr ex off s = _
    unfold execBro
    exact fire_fires h rfl
  · show execBr pr s = _
    unfold execBr
    exact fire_fires h rfl
  · show execCallo pr ex off s = _
    unfold execCallo
    exact fire_fires h rfl
  · show execCall pr s = _
    unfold execCall
    exact fire_fires h rfl
  · show execRet pr s = _
    unfold execRet
    exact fire_fires h rfl
  · show execExitt pr s = _
    unfold execExitt
    exact fire_fires h rfl
  · show execYield pr ex off s = _
    unfold execYield
    exact fire_fires h rfl
  · show execScall pr ex off s = _
    unfold execScall
    exact fire_fires h rfl
  · intro u n
    obtain ⟨hm, hv, d, hd, g, p, f, q, m, rfl⟩ := takeBranch_leaves hc hk hx ex t b
    refine ⟨hm, hv, _, hd, ⟨rfl, rfl, rfl, fun _ => rfl⟩, rfl, rfl, ?_, fun y hy ha => ?_, fun y hy ha => ?_, fun hy => ?_⟩
    · show ((staying c s.focus.win t).modify s.focus.win g).take s.focus.win = _
      rw [List.take_modify, staying_take, List.modify_eq_self (by rw [List.length_take]; exact Nat.min_le_left _ _)]
    · exact (List.length_modify _ _ _).trans (staying_other hy ha)
    · show ((staying c s.focus.win t).modify s.focus.win g).drop n = _
      rw [staying_same hy ha, List.drop_modify_of_lt _ _ _ _ (Nat.lt_succ_self _)]
    · exact (List.length_modify _ _ _).trans (congrArg List.length (staying_none hy))
  · obtain ⟨h1, h2, h3, h4, h5, -, h6⟩ := squashFrom_leaves (n := n) hc hk
    exact ⟨h1, h2, h3, h4, h5, h6⟩

end Sys2Proof.BranchOps
end

section
/-! The event rows of register writes (01 R30; 08 R186; 17 R350 to R354; log 17). -/

namespace Sys2Proof.RegisterEvents

-- One proof at a time: proofs checked side by side take each a stack of memory.
set_option Elab.async false

open Sys2Proof.Machine

/-! ### An event that writes a register of a context -/

section
variable {s : State} {n : Nat} {c : Ctx} (hc : s.ctx? n = some c)
include hc

theorem regEvent_of (f : Ctx → State) : regEvent s n f = .next (f c).tick := by rw [regEvent, hc]

/-- The registers a program may write with CWRITE. -/
theorem taskReg_events (v : Word) :
    (exec (.srseedWrite n v) s = .next (s.writeTaskReg c 10 v).tick ∧ exec (.lsplitWrite n v) s = .next (s.writeTaskReg c 11 v).tick)
      ∧ (exec (.prioWrite n v) s = .next (s.writeTaskReg c 4 v).tick ∧ exec (.fpflagsWrite n v) s = .next (s.writeTaskReg c 9 v).tick)
      ∧ exec (.resumeWrite n v) s = .next (s.writeTaskReg c 12 v).tick ∧ exec (.afringWrite n v) s = .next (s.writeTaskReg c 7 v).tick :=
  ⟨⟨regEvent_of hc _, regEvent_of hc _⟩, ⟨regEvent_of hc _, regEvent_of hc _⟩, regEvent_of hc _, regEvent_of hc _⟩

theorem gangArm_event (v : Word) :
    exec (.gangArm n v) s = .next ((s.onTower c.tower fun t => { t with gangcmd := w64 (bitsOf v 6 50 * 64) }).armGang c (w64 (bitsOf v 6 50 * 64))).tick :=
  regEvent_of hc fun x => s.writeSvReg x 30 v

end

/-- RESUME holds a clause address. -/
theorem resume_putReg {c : Ctx} {v : Word} (hm : v.toNat % 16 = 0) (hr : v.toNat < 2 ^ 56) : (c.putReg 12 v).resume = v := by
  show BitVec.ofNat 64 (bitsOf v 4 52 * 16) = v
  refine BitVec.eq_of_toNat_eq ?_
  rw [BitVec.toNat_ofNat, bitsOf]
  omega

/-! ### Towers and the ASIDs that are live -/

theorem tower_onTower_same {s : State} {tw : Nat} (h : tw < s.towers.length) (f : Tower → Tower) : (s.onTower tw f).tower tw = f (s.tower tw) := by
  simp only [State.tower, State.onTower, List.getElem?_modify_eq, List.getElem?_eq_getElem h, Option.map_eq_map, Option.map_some, Option.getD_some]

section
variable {s : State} {a : BitVec 16}

theorem makeLive_room (ha : a ∉ s.liveAsids) (hr : s.liveAsids.length < 1024) :
    (s.makeLive a).liveAsids = s.liveAsids ++ [a] ∧ (s.makeLive a).asidRef = false := by
  have hc : s.liveAsids.contains a = false := Bool.eq_false_iff.mpr (mt List.contains_iff_mem.mp ha)
  rw [State.makeLive, hc, if_neg Bool.false_ne_true, if_neg (show ¬Config.liveAsids ≤ s.liveAsids.length from Nat.not_le.mpr hr)]
  exact ⟨rfl, rfl⟩

theorem makeLive_full (ha : a ∉ s.liveAsids) (hr : 1024 ≤ s.liveAsids.length) :
    (s.makeLive a).liveAsids = s.liveAsids ∧ (s.makeLive a).asidRef = true := by
  have hc : s.liveAsids.contains a = false := Bool.eq_false_iff.mpr (mt List.contains_iff_mem.mp ha)
  rw [State.makeLive, hc, if_neg Bool.false_ne_true, if_pos (show Config.liveAsids ≤ s.liveAsids.length from hr)]
  exact ⟨rfl, rfl⟩

end

/-! ### WSLDAT (08 R186; log 121) -/

/-- An address whose cells a filter drops reads as an unlisted one. -/
theorem get_filter_dropped {m : Memory} {a : Nat} {p : Host.Cell → Bool} (h : ∀ b : Host.Cell, b.1 = a → p b = false) :
    Memory.get (m.filter p) a = Memory.unlisted := by
  induction m with
  | nil => rfl
  | cons x m ih =>
    rw [List.filter_cons]
    by_cases hx : x.1 = a
    · rw [h x hx, if_neg Bool.false_ne_true]
      exact ih
    · split
      · exact (if_neg hx).trans ih
      · exact ih

/-- The region of a bit of WSLDAT that changes reads 0 afterwards. -/
theorem writeWsl_clears {s : State} {tw off k : Nat} {v : Word} (ho : off < 64)
    (hc : bitsOf (s.tower tw).wslive (64 * (s.tower tw).wslSel.toNat) 64 / 2 ^ off % 2 ≠ v.toNat / 2 ^ off % 2) (hk : k < 65536) :
    Memory.get (s.writeWsl tw v).mem (s.regionBase tw (64 * (s.tower tw).wslSel.toNat) + off * 65536 + k) = 0 := by
  refine get_filter_dropped fun b hb => ?_
  have hoff : (b.1 - s.regionBase tw (64 * (s.tower tw).wslSel.toNat)) / 65536 = off := by omega
  have hle : s.regionBase tw (64 * (s.tower tw).wslSel.toNat) ≤ b.1 := by omega
  simp only [hoff, decide_eq_true hle, decide_eq_true ho, decide_eq_true hc, Bool.and_self, Bool.not_true]

/-- Settles O47: the event is the register's write, whose effect is then its own. -/
theorem registerWriteEvents : Obligations.RegisterWriteEvents := by
  intro s n tw c v a d hc
  obtain ⟨hseed, hprio, hresume, hring⟩ := taskReg_events hc v
  refine ⟨hseed, hprio, fun hm => hresume.trans ?_, fun hm => hresume.trans ?_, hring, ⟨rfl, resume_putReg, rfl⟩, ⟨rfl, rfl, rfl, rfl⟩, ⟨rfl, rfl⟩,
    fun ht hl => ?_, fun off ho hc k hk => writeWsl_clears ho hc hk, rfl, fun t ht ha hr => ?_, fun t ht ha hr => ?_, ⟨_, rfl⟩, ⟨_, rfl, ?_, rfl⟩,
    gangArm_event hc v, regEvent_of hc _, regEvent_of hc _⟩
  · rw [State.writeTaskReg, if_neg hm]
  · rw [State.writeTaskReg, if_pos hm]
  · rw [State.writeC0res, tower_onTower_same (hl ▸ ht)]
  · cases ht
    exact makeLive_room (s := { s with asidCmd := a.setWidth 17 ||| 0x10000#17 }) ha hr
  · cases ht
    exact makeLive_full (s := { s with asidCmd := a.setWidth 17 ||| 0x10000#17 }) ha hr
  · exact fun hm => absurd (List.mem_filter.mp hm).2 (by rw [decide_eq_true rfl]; decide)

end Sys2Proof.RegisterEvents
end

section
/-! Tasks and messages by themselves (07 R157 to R172; 18 R367 to R371; 20 R391). -/

namespace Sys2Proof.TaskEvents

-- One proof at a time: proofs checked side by side take each a stack of memory.
set_option Elab.async false

open Sys2Proof.Machine Sys2Proof.MessageOps

/-! ### Submissions, the overflow queue and the pass-over limit (07 R157, R158; 18 R367) -/

section
variable {s : State} {tw : Nat}

theorem reservationGrant_window {w : WaitSub} {win : Nat} (hw : (s.tower tw).waitSubs.find? (fun w => !w.granted) = some w)
    (hr : s.roomToSubmit tw = true) (hb : w.by_ = none) (hwin : w.window = some win) :
    let u := s.onTower tw fun t => { t with waitSubs := t.waitSubs.erase w }
    (u.windowStream tw win = none → exec (.reservationGrant tw) s = .next (u.windowGo tw win).tick)
      ∧ ∀ k, u.windowStream tw win = some k → exec (.reservationGrant tw) s = .next (u.windowStreamWait tw win k).tick := by
  intro u
  refine ⟨fun hs => ?_, fun k hs => ?_⟩
  · show execReservationGrant tw s = _
    simp only [execReservationGrant, hw, hr, hb, hwin, Bool.not_true, Bool.false_eq_true, if_false]
    rw [show (s.onTower tw fun t => { t with waitSubs := t.waitSubs.erase w }).windowStream tw win = none from hs]
  · show execReservationGrant tw s = _
    simp only [execReservationGrant, hw, hr, hb, hwin, Bool.not_true, Bool.false_eq_true, if_false]
    rw [show (s.onTower tw fun t => { t with waitSubs := t.waitSubs.erase w }).windowStream tw win = some k from hs]

theorem overflowAdmit_oldest {x : TaskInfo} {xs : List TaskInfo}
    (hx : sortBy (fun a b => decide (a.readySeq ≤ b.readySeq)) ((s.tower tw).tasks.filter (fun x => decide (x.st = .ready) && x.overflow)) = x :: xs)
    (hp : (s.tower tw).poolCount < 4096) :
    exec (.overflowAdmit tw) s = .next ((s.onTask tw x.key fun y => { y with overflow := false }).ovqStore tw).tick := by
  show execOverflowAdmit tw s = _
  simp only [execOverflowAdmit, hx]
  exact if_pos hp

theorem classAging_ages
    (h : (s.tower tw).tasks.any (fun x => decide (x.st = .ready) && decide (x.aged < x.steps s.time)) = true) :
    exec (.classAging tw) s = .next (s.onTower tw fun t => { t with tasks := t.tasks.map fun x =>
      if (decide (x.st = .ready) && decide (x.aged < x.steps s.time)) = true then { x with aged := x.steps s.time } else x }).tick := by
  show execClassAging tw s = _
  simp only [execClassAging, h, if_true]

theorem passoverLimit_marks {p : TaskKey × Nat}
    (h : (s.tower tw).passed.find? (fun p => decide (p.2 + s.us 1000 ≤ s.time) && !(s.tower tw).passedLimit.contains p.1) = some p) :
    exec (.passoverLimit tw) s = .next (s.onTower tw fun t => { t with passedLimit := t.passedLimit ++ [p.1] }).tick := by
  show execPassoverLimit tw s = _
  simp only [execPassoverLimit, h]

end

/-- A task's class as it is aged stays between 1 and its own (07 R163). -/
theorem eff_bounds {t : TaskInfo} (h : t.cls ≠ 0) : 1 ≤ t.eff ∧ t.eff ≤ t.cls.toNat := by
  have hpos : t.cls.toNat ≠ 0 := fun h0 => h (BitVec.eq_of_toNat_eq h0)
  have heff : t.eff = Nat.max 1 (t.cls.toNat - t.aged) := by rw [TaskInfo.eff, if_neg h]
  rw [heff]
  exact ⟨Nat.le_max_left _ _, Nat.max_le.mpr ⟨by omega, Nat.sub_le _ _⟩⟩

/-! ### Dispatch (18 R367, R371) -/

section
variable {s : State} {tw : Nat}

theorem taskDispatch_held (h : s.dispatchHeld = true) : exec (.taskDispatch tw) s = .next s := by
  show execTaskDispatch tw s = _
  simp only [execTaskDispatch, h, Bool.true_or, if_true]

section
variable {t : TaskInfo} {ts : List TaskInfo} {w : Wants} (hd : s.dispatchHeld = false) (ht : tw < 6) (ha : s.admissible tw = t :: ts)
  (hh : s.hypRefuted t.hyp = false) (hw : s.wantsOf t = some w)
include hd ht ha hh hw

theorem taskDispatch_places {b k : Nat} {ns : List Nat} (hc : s.composeFor tw t w = some (b, k, ns)) :
    exec (.taskDispatch tw) s = .next (s.place tw t b k ns false).tick := by
  have hgo : (s.dispatchHeld || decide (Config.towers ≤ tw)) = false := by rw [hd, Bool.false_or]; exact decide_eq_false (Nat.not_le.mpr ht)
  show execTaskDispatch tw s = _
  simp only [execTaskDispatch, hgo, ha, hh, hw, hc, Option.bind_some, Bool.false_eq_true, if_false]

end

theorem taskDispatch_passes {t : TaskInfo} {w : Wants} (hd : s.dispatchHeld = false) (ht : tw < 6) (ha : s.admissible tw = [t])
    (hh : s.hypRefuted t.hyp = false) (hw : s.wantsOf t = some w) (hc : s.composeFor tw t w = none) :
    exec (.taskDispatch tw) s = .next (s.passOver tw t.key) := by
  have hgo : (s.dispatchHeld || decide (Config.towers ≤ tw)) = false := by rw [hd, Bool.false_or]; exact decide_eq_false (Nat.not_le.mpr ht)
  show execTaskDispatch tw s = _
  simp only [execTaskDispatch, hgo, ha, hh, hw, hc, Option.bind_some, List.findSome?_nil, Bool.false_eq_true, if_false]

theorem admissible_free {x : TaskInfo} (hx : x ∈ s.admissible tw) : x ∈ s.candidates tw ∧ ∀ h ∈ s.candidates tw, (s.tower tw).heldBy h x = false := by
  obtain ⟨hc, hn⟩ := List.mem_filter.mp hx
  refine ⟨hc, fun h hh => ?_⟩
  rw [Bool.not_eq_true'] at hn
  exact Bool.eq_false_iff.mpr (List.any_eq_false.mp hn h hh)

end

/-! ### Pre-emption (18 R368) -/

theorem preempt_moves {s : State} {n cls : Nat} {x : Ctx} {t : TaskInfo} (hr : s.running? n = some (x, t)) (hg : x.going = false)
    (hd : s.stopDue x = false) (hm : s.mustLeave x cls = true) :
    exec (.preempt n cls) s = match chooseMove cls (s.recIdem t && decide (x.hint ≠ 1) && x.normalMode && decide (x.afHead = x.afTail) && !x.hasFault)
        (decide (x.est.toNat ≤ 5) && decide (x.hint ≠ 1)) x.hint with
      | .drain => .next (s.onCtx n fun y => { y with drainAt := some (s.time + s.us 5) }).tick
      | .kill => if x.boundary then .next ((s.clear x).onCtx n fun y => { y with leaving := some .kill }).tick else .next s
      | .checkpoint => if x.boundary then .next ((s.clear x).onCtx n fun y => { y with leaving := some .checkpoint }).tick else .next s := by
  show execPreempt n cls s = _
  simp only [execPreempt, hr, hg, hd, hm, Bool.not_true, Bool.or_self, Bool.false_eq_true, if_false] <;> rfl

section
variable {cls : Nat} {k d : Bool} {h : BitVec 2}

theorem chooseMove_kill_zero (hk : k = true) (hn : ¬(h = 2 ∧ d = true)) : chooseMove 0 k d h = .kill := by
  have hno : (decide (h = 2) && d) = false := Bool.eq_false_iff.mpr fun ht => hn (by rwa [Bool.and_eq_true, decide_eq_true_eq] at ht)
  rw [chooseMove, if_pos rfl, hk, hno, Bool.not_false, Bool.and_self, if_pos rfl]

theorem chooseMove_drain_zero (hd : d = true) (hk : k = false ∨ h = 2) : chooseMove 0 k d h = .drain := by
  have hno : (k && !(decide (h = 2) && d)) = false := by
    rcases hk with hk | hk
    · rw [hk, Bool.false_and]
    · rw [hk, hd, decide_eq_true rfl, Bool.and_self, Bool.not_true, Bool.and_false]
  rw [chooseMove, if_pos rfl, hno, if_neg Bool.false_ne_true, if_pos hd]

theorem chooseMove_checkpoint_zero (hk : k = false) (hd : d = false) : chooseMove 0 k d h = .checkpoint := by
  rw [chooseMove, if_pos rfl, hk, hd, Bool.false_and, if_neg Bool.false_ne_true, if_neg Bool.false_ne_true]

section
variable (hc : 0 < cls)
include hc

theorem chooseMove_drain (hd : d = true) : chooseMove cls k d h = .drain := by rw [chooseMove, if_neg (Nat.ne_of_gt hc), if_pos hd]

theorem chooseMove_kill (hd : d = false) (hk : k = true) (hh : h = 3) : chooseMove cls k d h = .kill := by
  rw [chooseMove, if_neg (Nat.ne_of_gt hc), hd, if_neg Bool.false_ne_true, hk, decide_eq_true hh, Bool.and_self, if_pos rfl]

theorem chooseMove_checkpoint (hd : d = false) (hk : k = false ∨ h ≠ 3) : chooseMove cls k d h = .checkpoint := by
  have hno : (k && decide (h = 3)) = false := by
    rcases hk with hk | hk
    · rw [hk, Bool.false_and]
    · rw [decide_eq_false hk, Bool.and_false]
  rw [chooseMove, if_neg (Nat.ne_of_gt hc), hd, if_neg Bool.false_ne_true, hno, if_neg Bool.false_ne_true]

end
end

theorem drainLimit_leaves {s : State} {n a : Nat} {x : Ctx} {t : TaskInfo} (hr : s.running? n = some (x, t)) (ha : x.drainAt = some a) (hl : x.leaving = none)
    (ht : a ≤ s.time) (hb : x.boundary = true) (hd : s.stopDue x = false) :
    exec (.drainLimit n) s = .next ((s.clear x).onCtx n fun y => { y with leaving := some .checkpoint }).tick := by
  show execDrainLimit n s = _
  simp only [execDrainLimit, hr, ha, hl, ht, hb, hd, Bool.false_eq_true, not_false_eq_true, and_self, if_true]

/-! ### Inboxes and messages (07 R169 to R172) -/

section
variable {s : State} {tw cell : Nat}

theorem inboxGrant_none (h : ((s.tower tw).inbox cell).asking = []) : exec (.inboxGrant tw cell) s = .next s := by
  show execInboxGrant tw cell s = _
  simp only [execInboxGrant, h]

section
variable {c uid : Nat} {iid : BitVec 7} {rest : List (Nat × Nat × BitVec 7)} (ha : ((s.tower tw).inbox cell).asking = (c, uid, iid) :: rest)
  (hr : ((s.tower tw).inbox cell).hasRoom = true)
include ha hr

theorem inboxGrant_sends {u : State} {pr : Pred} {eff : BitVec 5}
    (hf : (s.onInbox tw cell fun y => { y with asking := rest, granted := y.granted + 1 }).focusOn c uid iid = some (u, .amsend pr eff)) :
    exec (.inboxGrant tw cell) s = exec (.amsend pr eff) (u.onInst fun y => { y with grants := (iid, tw, cell) :: y.grants }) := by
  show execInboxGrant tw cell s = _
  simp only [execInboxGrant, ha, hr, hf, Bool.not_true, Bool.false_eq_true, if_false]
  rfl

theorem inboxGrant_gone
    (hf : (s.onInbox tw cell fun y => { y with asking := rest, granted := y.granted + 1 }).focusOn c uid iid = none) :
    exec (.inboxGrant tw cell) s = .next (s.onInbox tw cell fun y => { y with asking := rest }).tick := by
  show execInboxGrant tw cell s = _
  simp only [execInboxGrant, ha, hr, hf, Bool.not_true, Bool.false_eq_true, if_false]

end

/-- An AMSEND that holds a grant keeps its message for commit. -/
theorem amsend_granted {w : State} {d : Ctx} {x : Inst} {v : Vals} {pr : Pred} {eff : BitVec 5} {gs : List (BitVec 7 × Nat × Nat)} (hc : w.fctx = some d)
    (hx : w.finst = some x) (hg : x.grants = (w.focus.iid, tw, cell) :: gs) (hl : AmsendLegal v.a.bits.toNat) (hp : v.a.bits.toNat / 2 ^ 16 % 64 = w.self)
    (h : Acts w (.amsend pr eff) v) :
    exec (.amsend pr eff) w = .next (w.fired (w.effect (.amsend pr eff) (.amsend (amsendMsg w d v)))) := by
  refine amsend_fires hc h hl ?_
  simp only [State.sendMsg, hc, hx, hp, ne_eq, not_true_eq_false, if_false, hg, List.any_cons, decide_true, Bool.true_or, if_true]

theorem messageArrival_arrives {m : BitVec 512} {f : TaskKey × BitVec 512} (hf : s.flight.find? (fun f => decide (f.2 = m)) = some f)
    (hb : ∀ g ∈ s.flight.takeWhile (fun g => !decide (g = f)), g.1 ≠ f.1 ∨ msgDtower g.2 ≠ msgDtower m ∨ msgDcell g.2 ≠ msgDcell m) :
    exec (.messageArrival m) s = .next (({ s with flight := s.flight.erase f } : State).onInbox (msgDtower m) (msgDcell m) fun b => b.push m).tick := by
  have hno : ((s.flight.takeWhile fun g => !decide (g = f)).any fun g =>
      decide (g.1 = f.1) && decide (msgDtower g.2 = msgDtower m) && decide (msgDcell g.2 = msgDcell m)) = false := by
    refine List.any_eq_false.mpr fun g hg ht => ?_
    simp only [Bool.and_eq_true, decide_eq_true_eq] at ht
    rcases hb g hg with h | h | h
    · exact h ht.1.1
    · exact h ht.1.2
    · exact h ht.2
  show execMessageArrival m s = _
  simp only [execMessageArrival, hf, hno, Bool.false_eq_true, if_false]

theorem push_pop_msgs (b : Inbox) (m : BitVec 512) :
    (b.push m).msgs.map (fun x => x.msg) = b.msgs.map (fun x => x.msg) ++ [m] ∧ b.pop.msgs.map (fun x => x.msg) = (b.msgs.map fun x => x.msg).drop 1 :=
  ⟨by rw [Inbox.push, List.map_append]; rfl, by rw [Inbox.pop, List.map_drop]⟩

theorem handlerDiversion_takes {n j : Nat} {x : Ctx} {m : BitVec 512} {pc : Word} (hx : s.ctx? n = some x) (hk : x.kind = .task) (hm : x.causeMode = 0)
    (hb : x.boundary = true) (hp : x.parked = false) (hf : x.frozen = false) (hl : x.leaving = none) (hd : s.stopDue x = false)
    (hv : s.diversion? x = some (j, m, pc)) :
    exec (.handlerDiversion n) s = .next ((((s.clear x).onInbox x.tower j fun b => b.pop).onCtx n fun y =>
      { y.settlePrio.takeHandler m pc with handlerAt := s.time }).acquired n).tick := by
  have hnm : x.normalMode = true := decide_eq_true hm
  show execHandlerDiversion n s = _
  simp only [execHandlerDiversion, hx, hk, hnm, hb, hp, hf, hl, hd, hv, ne_eq, not_true_eq_false, decide_false, Option.isSome_none, Bool.not_true,
    Bool.or_self, Bool.false_eq_true, if_false]

/-! ### Messages that nobody serves (07 R172; log 109) -/

section
variable {m : InMsg} {ms : List InMsg} (hm : ((s.tower tw).inbox cell).msgs = m :: ms)
include hm

theorem nohandler_reports (hu : s.unserved tw cell m.msg = true) (hh : s.inHandler tw cell = false) (ht : (m.headAt.getD s.time) + s.us 64 ≤ s.time)
    (hr : (s.tower tw).fqRoom = true) (he : (s.tower tw).fqHeld = []) :
    exec (.nohandler tw cell) s = .next ((s.onInbox tw cell fun y => y.pop).fqPush tw { FqEntry.blank Kind.nohandler.code 1 s.time with
      asid := msgAsid m.msg, arg := (if s.entryBad tw m.msg then 0 else 1), body := natToBytes 64 m.msg.toNat ++ List.replicate 64 0 }).tick := by
  show execNohandler tw cell s = _
  simp only [execNohandler, hm, hu, hh, decide_eq_true ht, hr, he, List.isEmpty_nil, Bool.not_false, Bool.and_self, if_true]

theorem nohandler_served (h : s.unserved tw cell m.msg = false ∨ s.inHandler tw cell = true) : exec (.nohandler tw cell) s = .next s := by
  show execNohandler tw cell s = _
  rcases h with h | h <;> simp only [execNohandler, hm, h, Bool.not_true, Bool.and_false, Bool.false_and, Bool.false_eq_true, if_false]

end

theorem entryBad_iff (m : BitVec 512) : s.entryBad tw m = true ↔ msgSlot m ≠ 0 ∧ s.handlerClause tw (msgAsid m) (msgSlot m) = none := by
  rw [State.entryBad, Bool.and_eq_true, decide_eq_true_eq, Option.isNone_iff_eq_none]

theorem unserved_polled_iff {m : BitVec 512} (h : msgSlot m = 0) :
    s.unserved tw cell m = true
      ↔ ∀ c ∈ s.ctxs, (c.kind = .task ∧ c.tower = tw ∧ c.base ≤ cell ∧ cell < c.base + c.width) → c.asid ≠ msgAsid m := by
  rw [State.unserved, if_pos h, Bool.not_eq_true', State.held?, List.any_eq_false]
  refine forall₂_congr fun c _ => ?_
  simp only [Bool.and_eq_true, decide_eq_true_eq]
  tauto

theorem unserved_handled_iff {m : BitVec 512} (h : msgSlot m ≠ 0) :
    s.unserved tw cell m = true
      ↔ (∀ c ∈ s.ctxs, (c.kind = .task ∧ c.tower = tw ∧ c.base ≤ cell ∧ cell < c.base + c.width) → c.parked = false → c.frozen = false → c.asid ≠ msgAsid m)
        ∨ s.handlerClause tw (msgAsid m) (msgSlot m) = none := by
  rw [State.unserved, if_neg h, Bool.or_eq_true, Option.isNone_iff_eq_none, State.holderOf?, List.find?_eq_none, entryBad_iff]
  refine or_congr (forall₂_congr fun c _ => ?_) (and_iff_right h)
  simp only [Bool.and_eq_true, decide_eq_true_eq, Bool.not_eq_true']
  tauto

theorem inHandler_iff : s.inHandler tw cell = true
    ↔ ∃ c ∈ s.ctxs, (c.kind = .task ∧ c.tower = tw ∧ c.base ≤ cell ∧ cell < c.base + c.width) ∧ c.parked = false ∧ c.causeMode = 1 := by
  rw [State.inHandler, List.any_eq_true]
  refine exists_congr fun c => and_congr_right fun _ => ?_
  simp only [Bool.and_eq_true, decide_eq_true_eq, Bool.not_eq_true']
  tauto

end

/-- Settles O48: each event by its own test. -/
theorem taskAndMessageEvents : Obligations.TaskAndMessageEvents := by
  intro s tw n cls cell
  refine ⟨fun w win hw hr hb hwin => reservationGrant_window hw hr hb hwin, fun x xs hx hp => overflowAdmit_oldest hx hp,
    fun t ts w b k ns hd ht ha hh hw hc => taskDispatch_places hd ht ha hh hw hc, fun t w hk => if_neg hk, fun x => admissible_free,
    fun t w hd ht ha hh hw hc => taskDispatch_passes hd ht ha hh hw hc, taskDispatch_held, classAging_ages,
    fun t => ⟨rfl, fun h => if_pos h, eff_bounds⟩, fun p => passoverLimit_marks, fun x t hr hg hd hm => ?_,
    fun k d h => ⟨chooseMove_kill_zero, chooseMove_drain_zero, chooseMove_checkpoint_zero, chooseMove_drain, chooseMove_kill, chooseMove_checkpoint⟩,
    fun x t a hr ha hl ht hb hd => drainLimit_leaves hr ha hl ht hb hd, ?_, fun m f => messageArrival_arrives, push_pop_msgs,
    fun x j m pc hx hk hm hb hp hf hl hd hv => handlerDiversion_takes hx hk hm hb hp hf hl hd hv,
    fun m ms hm => ⟨nohandler_reports hm, nohandler_served hm, unserved_polled_iff, unserved_handled_iff, entryBad_iff m.msg⟩, inHandler_iff⟩
  · intro killok drainok
    rw [preempt_moves hr hg hd hm]
    refine ⟨fun hc => ?_, fun hc hb => ?_, fun hc hb => ?_⟩
    · simp only [hc, killok, drainok]
    · simp only [hc, hb, killok, drainok, if_true]
    · simp only [hc, hb, killok, drainok, if_true]
  · refine ⟨inboxGrant_none, fun c uid iid rest ha hr => ⟨fun u pr eff hf => ⟨inboxGrant_sends ha hr hf, ?_⟩, inboxGrant_gone ha hr⟩⟩
    intro d x gs v hc hx hi hg h a h1 h2 h3 h4 h5 h6
    have hlt : v.a.bits.toNat < 2 ^ 41 := by
      have h4' : v.a.bits.toNat / 2 ^ 41 = 0 := h4
      omega
    have hmsg : ∀ w : State, mkMsg w d (bitsOf v.a.bits 0 7) (bitsOf v.a.bits 8 3) (bitsOf v.a.bits 16 6) (bitsOf v.a.bits 24 8) (bitsOf v.a.bits 32 8) false
        (v.a.bits.getLsbD 40) (bitsOf v.c.bits 0 32) v.b.wbits.toNat = amsendMsg w d v := by
      intro w
      have hcell : bitsOf v.a.bits 0 7 = v.a.bits.toNat % 128 := by rw [bitsOf, pow_zero, Nat.div_one] <;> rfl
      have htag : bitsOf v.c.bits 0 32 = v.c.bits.toNat % 2 ^ 32 := by rw [bitsOf, pow_zero, Nat.div_one]
      rw [hcell, htag]
      rfl
    rw [hmsg, inboxGrant_sends ha hr hf]
    exact amsend_granted hc hx (hi.symm ▸ hg) ⟨hlt, h1, h2, h3, h5⟩ h6 h

end Sys2Proof.TaskEvents
end

section
/-! Translation, home slices, physical accesses, shoot-downs and ends of waits (08 R181 to R199; 10 R241; 17 R360; 20 R389 to R394). -/

namespace Sys2Proof.MemoryEvents

-- One proof at a time: proofs checked side by side take each a stack of memory.
set_option Elab.async false

open Sys2Proof.Machine Sys2Proof.PageWrites Sys2Proof.MemoryBytes

/-! ### Translation (08 R178 to R182) -/

section
variable {s : State} {tw : Nat}

theorem accesses_single (r : WalkReq) : accesses [r] = [r.acc] := by
  obtain ⟨c, a, p, acc⟩ := r
  cases acc <;> rfl

/-- A page that one cell asks for is translated once, and its answer put behind those that stand. -/
theorem serveWalk_single (r : WalkReq) :
    s.serveWalk tw [r] = (s.translate tw r.asid r.page r.acc).1.onTower tw fun x => { x with
      walkAns := x.walkAns ++ [⟨r, x.gen, (s.translate tw r.asid r.page r.acc).2.1, (s.translate tw r.asid r.page r.acc).2.2⟩] } := by
  have hf : [r].find? (fun q => decide (q.acc = r.acc)) = some r := List.find?_cons_of_pos (decide_eq_true rfl)
  have ha : [r].filter (fun q => decide (q.acc = r.acc)) = [r] := List.filter_cons_of_pos (decide_eq_true rfl)
  simp only [State.serveWalk, accesses_single, List.foldl_cons, List.foldl_nil, hf, ha, List.map_cons, List.map_nil]

theorem translate_cached {e : TransEntry} {a : BitVec 16} {p : Nat} {acc : Access} (ha : s.asidUsable a = true)
    (he : (s.tower tw).trans.find? (fun x => x.serves a p && (!acc.writes || x.leaf.d)) = some e) :
    s.translate tw a p acc = (s, if e.leaf.allows acc then .leaf e.leaf else .fault .perm (w64 (p * 65536)), false) := by
  simp only [State.translate, ha, if_true, he]

theorem translationWalk_serves {r : WalkReq} {rs : List WalkReq} (hr : (s.tower tw).walkReqs = r :: rs) (hw : (s.tower tw).walks < 16) :
    exec (.translationWalk tw) s = .next ((s.serveWalk tw ((s.tower tw).walkReqs.filter fun q => decide (q.asid = r.asid) && decide (q.page = r.page))).onTower tw
      fun x => { x with walkReqs := x.walkReqs.filter fun q => !(decide (q.asid = r.asid) && decide (q.page = r.page)) }).tick := by
  show execTranslationWalk tw s = _
  simp only [execTranslationWalk, hr, Nat.not_le.mpr hw, if_false]

theorem translationWalk_full {r : WalkReq} {rs : List WalkReq} (hr : (s.tower tw).walkReqs = r :: rs) (hw : 16 ≤ (s.tower tw).walks) :
    exec (.translationWalk tw) s = .next s := by
  show execTranslationWalk tw s = _
  simp only [execTranslationWalk, hr, hw, if_true]

variable {a : WalkAns} {as_ : List WalkAns} (ha : (s.tower tw).walkAns = a :: as_)
include ha

theorem entryArrival_old (hg : a.gen ≠ (s.tower tw).gen) :
    exec (.permissionEntryArrival tw) s = .next ((s.onTower tw fun x => { x with walkAns := as_ }).onTower tw
      fun x => { x with walkReqs := if x.walkReqs.contains a.req then x.walkReqs else x.walkReqs ++ [a.req] }).tick := by
  show execPermissionEntryArrival tw s = _
  simp only [execPermissionEntryArrival, ha, hg, ne_eq, not_false_eq_true, if_true]

variable (hg : a.gen = (s.tower tw).gen)
include hg

theorem entryArrival_engine (hc : 256 ≤ a.req.cell) :
    exec (.permissionEntryArrival tw) s = .next (s.onTower tw fun x => { x with walkAns := as_ }).tick := by
  show execPermissionEntryArrival tw s = _
  simp only [execPermissionEntryArrival, ha, hg, hc, ne_eq, not_true_eq_false, if_false, if_true]

variable (hc : a.req.cell < 256)
include hc

theorem entryArrival_leaf {l : Leaf} (hl : a.res = .leaf l) :
    exec (.permissionEntryArrival tw) s = .next ((s.onTower tw fun x => { x with walkAns := as_ }).onTower tw fun x => { x with
      perms := permInstall x.perms ⟨a.req.cell, l.tag a.req.asid, (if l.large then a.req.page / 1024 * 1024 else a.req.page), l⟩
      permNotes := x.permNotes.filter fun b => !(decide (b.req.cell = a.req.cell) && decide (b.req.asid = a.req.asid)
        && decide ((if l.large then a.req.page / 1024 * 1024 else a.req.page) ≤ b.req.page)
        && decide (b.req.page < (if l.large then a.req.page / 1024 * 1024 else a.req.page) + if l.large then 1024 else 1)) }).tick := by
  show execPermissionEntryArrival tw s = _
  simp only [execPermissionEntryArrival, ha, hg, Nat.not_le.mpr hc, hl, ne_eq, not_true_eq_false, if_false]

theorem entryArrival_fault {k : Kind} {va : Word} (hk : a.res = .fault k va) (hs : a.req.acc ≠ .store) :
    exec (.permissionEntryArrival tw) s =
      .next ((s.onTower tw fun x => { x with walkAns := as_ }).onTower tw fun x => { x with permNotes := x.permNotes ++ [a] }).tick := by
  show execPermissionEntryArrival tw s = _
  simp only [execPermissionEntryArrival, ha, hg, Nat.not_le.mpr hc, hk, hs, ne_eq, not_true_eq_false, if_false]

theorem entryArrival_storeFault {k : Kind} {va : Word} (hk : a.res = .fault k va) (hs : a.req.acc = .store) :
    exec (.permissionEntryArrival tw) s = .next ((s.onTower tw fun x => { x with walkAns := as_ }).storeFault tw a.req k).tick := by
  show execPermissionEntryArrival tw s = _
  simp only [execPermissionEntryArrival, ha, hg, Nat.not_le.mpr hc, hk, hs, ne_eq, not_true_eq_false, if_false, if_true]

end

/-! ### A store at its home slice (08 R185, R194 to R197) -/

theorem choose_mem {α : Type} {s : State} {site : Nat} {xs : List α} {a : α} (h : s.choose site xs = some a) : a ∈ xs := by
  unfold State.choose at h
  split at h
  · cases h
  · cases h; exact List.mem_singleton_self _
  · exact List.mem_of_getElem? h

/-- A store that may go waits. -/
theorem storeReady_waiting {s : State} {x : Ctx} {i : Nat} {p : Pend} (h : s.storeReady x i = true) (hp : x.pend[i]? = some p) : p.st = .waiting := by
  unfold State.storeReady at h
  rw [hp] at h
  dsimp only at h
  split at h
  · assumption
  · cases h

/-- `t` holds the contexts of `s` one for one, each of them the same task. -/
def TasksMapped (s t : State) : Prop := ∃ f, t.ctxs = s.ctxs.map f ∧ ∀ c, SameTask (f c) c

theorem TasksMapped.of_eq {s t : State} (h : t.ctxs = s.ctxs) : TasksMapped s t := ⟨id, by rw [h, List.map_id], .refl⟩

theorem TasksMapped.trans {s t u : State} (h : TasksMapped s t) (k : TasksMapped t u) : TasksMapped s u := by
  obtain ⟨f, hf, hft⟩ := h
  obtain ⟨g, hg, hgt⟩ := k
  exact ⟨g ∘ f, by rw [hg, hf, List.map_map], fun c => (hgt _).trans (hft c)⟩

theorem leafWrite_tasksMapped {s t : State} {asid : BitVec 16} {l : Leaf} {va : Word} {bs : List Byte} {hyp : BitVec 12} {wr : Option Word}
    (h : s.leafWrite asid l va bs hyp wr = .ok t) : TasksMapped s t := by
  obtain ⟨-, rfl | ⟨u, sees, ⟨-, hc⟩, rfl⟩⟩ | ⟨-, -, off, -, rfl⟩ | ⟨-, -, rfl⟩ := leafWrite_cases h
  · exact .of_eq rfl
  · exact .trans (.of_eq hc) ⟨_, wakeWatch_ctxs _ _ _ _, sameTask_woke _ _ _⟩
  · exact .of_eq (devWrite_cases s (l.pa va) off bs).2
  · exact .trans ⟨_, rfl, fun c => sameTask_l1_watch c _ _⟩ ⟨_, pageWritten_ctxs s asid l va bs wr, sameTask_woke _ _ _⟩

theorem l1Lag_tasksMapped (s : State) (by_ : Nat) (l : Leaf) (tag : Option (BitVec 16)) (va : Nat) (old : List Byte) :
    TasksMapped s (s.l1Lag by_ l tag va old) := by
  refine ⟨_, rfl, fun c => ?_⟩
  split
  · exact .refl c
  · exact sameTask_l1_watch c _ _

/-- What the tiles a release advances leave as it was: memory, the contexts and the hypotheses. -/
def BesideMasters (s t : State) : Prop := t.mem = s.mem ∧ t.ctxs = s.ctxs ∧ t.hyps = s.hyps

theorem BesideMasters.refl (s : State) : BesideMasters s s := ⟨rfl, rfl, rfl⟩

theorem BesideMasters.trans {s t u : State} (h : BesideMasters s t) (k : BesideMasters t u) : BesideMasters s u :=
  ⟨k.1.trans h.1, k.2.1.trans h.2.1, k.2.2.trans h.2.2⟩

theorem BesideMasters.foldl {α : Type} {f : State → α → State} (hf : ∀ s a, BesideMasters s (f s a)) (xs : List α) (s : State) :
    BesideMasters s (xs.foldl f s) := by
  induction xs generalizing s with
  | nil => exact .refl s
  | cons a xs ih => exact (hf s a).trans (ih (f s a))

theorem askBuilds_beside (s : State) (m : Master) (tile : Nat) (cause : Option (Word × BitVec 16)) : BesideMasters s (s.askBuilds m tile cause) := by
  refine BesideMasters.foldl (fun u v => ?_) _ s
  dsimp only
  split <;> exact ⟨rfl, rfl, rfl⟩

theorem advance_beside (s : State) (tw slot tile : Nat) (cause : Option (Word × BitVec 16)) : BesideMasters s (s.advance tw slot tile cause) := by
  unfold State.advance
  split
  · exact .refl s
  · exact .trans ⟨rfl, rfl, rfl⟩ (askBuilds_beside _ _ tile cause)

theorem released_beside (s : State) (owner : Word) (asid : BitVec 16) : BesideMasters s (s.released owner asid) :=
  BesideMasters.foldl (fun u m => BesideMasters.foldl (fun w n => advance_beside w _ _ n _) _ u) _ s

theorem BesideMasters.subjunctive {s t : State} (h : BesideMasters s t) (l : Leaf) (hyp : BitVec 12) : t.subjunctive l hyp = s.subjunctive l hyp := by
  unfold State.subjunctive State.hypFinal
  rw [h.2.2]

/-- A releasing store that is refused is refused as it is looked at first. -/
theorem releasing_of_bad {s t : State} {rel : Bool} {owner : Word} {asid : BitVec 16} {w : State → Wr} {k : Kind} (h : w s = .bad k t) :
    s.releasing rel owner asid w = .bad k t := by
  simp only [State.releasing, h]

/-- A releasing store is performed on the state it finds, or on that with the dirty tiles advanced. -/
theorem releasing_ok {s t : State} {rel : Bool} {owner : Word} {asid : BitVec 16} {w : State → Wr} (h : s.releasing rel owner asid w = .ok t) :
    ∃ u, BesideMasters s u ∧ w u = .ok t := by
  unfold State.releasing at h
  split at h
  · cases h
  · next v hv =>
    split at h
    · exact ⟨_, released_beside s owner asid, h⟩
    · cases h
      exact ⟨s, .refl s, hv⟩

section
variable {s : State} {asid : BitVec 16} {l : Leaf} {va : Word} {bs : List Byte} {hyp : BitVec 12} {wr : Option Word}

theorem leafWrite_notlive (hg : (s.subjunctive l hyp && s.discards (s.hypFinal hyp)) = false) (hl : s.live (l.pa va) = false) :
    s.leafWrite asid l va bs hyp wr = .bad .notlive s := by
  simp only [State.leafWrite, hg, hl, Bool.false_eq_true, if_false, Bool.not_false, if_true]

theorem leafWrite_perm (hg : (s.subjunctive l hyp && s.discards (s.hypFinal hyp)) = false) (hl : s.live (l.pa va) = true)
    (ho : s.openAt (l.pa va) = false) : s.leafWrite asid l va bs hyp wr = .bad .perm s := by
  simp only [State.leafWrite, hg, hl, ho, Bool.false_eq_true, if_false, Bool.not_true, Bool.not_false, if_true]

theorem leafWrite_eccunc (hs : s.subjunctive l hyp = false) (hl : s.live (l.pa va) = true) (ho : s.openAt (l.pa va) = true)
    (hm : s.mergeBad (l.pa va) bs.length = true) : s.leafWrite asid l va bs hyp wr = .bad .eccunc (s.eccEntry (l.pa va)) := by
  simp only [State.leafWrite, hs, hl, ho, hm, Bool.false_and, Bool.false_eq_true, if_false, Bool.not_true, if_true]

end

/-- What is changed at one place of a task's store queue stands there, whatever else the step has done to the contexts beside it. -/
theorem exists_modified {s t : State} {x : Ctx} {i : Nat} {p : Pend} {g : Ctx → Ctx} {q : Pend → Pend} (hx : x ∈ s.ctxs)
    (hp : x.pend[i]? = some p) (ht : TasksMapped s t) (hid : ∀ c, (g c).id = c.id) (hg : ∀ c, (g c).pend = c.pend.modify i q) :
    ∃ c ∈ (t.onCtx x.id g).ctxs, c.id = x.id ∧ c.pend[i]? = some (q p) := by
  obtain ⟨f, htc, hf⟩ := ht
  obtain ⟨hfid, -, -, hfp⟩ := hf x
  have hmem : g (f x) ∈ (t.onCtx x.id g).ctxs := by
    refine List.mem_map.mpr ⟨f x, htc ▸ List.mem_map_of_mem hx, ?_⟩
    rw [if_pos hfid]
  refine ⟨_, hmem, (hid _).trans hfid, ?_⟩
  rw [hg, List.getElem?_modify_eq, hfp, hp]
  rfl

section
variable {s : State} {n i : Nat} {x : Ctx} (hx : s.ctx? n = some x)
include hx

theorem homeSlice_asks (h : (s.askStores x).moves ≠ s.moves) : exec (.homeSliceStore n) s = .next (s.askStores x) := by
  show execHomeSliceStore n s = _
  simp only [execHomeSliceStore, State.homeStep, hx, h, ne_eq, not_false_eq_true, if_true]

variable (hm : (s.askStores x).moves = s.moves)
include hm

theorem homeSlice_none (h : (List.range x.pend.length).filter (fun i => s.storeReady x i) = []) : exec (.homeSliceStore n) s = .next s := by
  show execHomeSliceStore n s = _
  simp only [execHomeSliceStore, State.homeStep, hx, hm, h, State.choose, ne_eq, not_true_eq_false, if_false]

variable (hi : s.choose 1 ((List.range x.pend.length).filter fun i => s.storeReady x i) = some i)
include hi

theorem homeSlice_applies : exec (.homeSliceStore n) s = .next (s.applyStore x i).tick := by
  show execHomeSliceStore n s = _
  simp only [execHomeSliceStore, State.homeStep, hx, hm, hi, ne_eq, not_true_eq_false, if_false]

omit hm in
theorem homeSlice_waiting {p : Pend} (hp : x.pend[i]? = some p) : p.st = .waiting :=
  storeReady_waiting (List.mem_filter.mp (choose_mem hi)).2 hp

end

section
variable {s : State} {i : Nat} {x : Ctx} {p : Pend} {l : Lane} {rel many : Bool} (hp : x.pend[i]? = some p) (hl : p.what = .store l rel many)
include hp hl

theorem applyStore_forbidden {k : Kind} (hk : s.pendPerm x p l = .bad k) (hs : l.va.toNat < scratchBase) :
    s.applyStore x i = s.lateFault x p l k := by
  simp only [State.applyStore, hp, hl, hk, Nat.not_le.mpr hs, if_false]

variable {y : Leaf} (hy : s.pendPerm x p l = .ok y) (hf : y.far = false ∨ l.va.toNat % 64 + l.data.length ≤ 64)
include hy hf

omit hp hl hy in
theorem oneLine : (y.far && decide (64 < l.va.toNat % 64 + l.data.length)) = false := by
  rcases hf with hf | hf
  · rw [hf, Bool.false_and]
  · rw [decide_eq_false (Nat.not_lt.mpr hf), Bool.and_false]

theorem applyStore_refused {k : Kind} {t : State}
    (hw : s.releasing rel x.recA x.asid (fun z => z.leafWrite x.asid y l.va l.data p.hyp (some x.recA)) = .bad k t) :
    s.applyStore x i = t.lateFault x p l k := by
  simp only [State.applyStore, hp, hl, hy, oneLine hf, Bool.false_eq_true, if_false, hw]

/-- A store that is performed stands applied in its queue; its bytes are in memory, or in a version, and no others change (08 R185, R194, R195). -/
theorem applyStore_performed (hx : x ∈ s.ctxs) (hw : s.memOk) {t : State}
    (ht : s.releasing rel x.recA x.asid (fun z => z.leafWrite x.asid y l.va l.data p.hyp (some x.recA)) = .ok t) :
    (∃ c ∈ (s.applyStore x i).ctxs, c.id = x.id ∧ c.pend[i]? = some { p with what := p.what.through y, st := .applied })
      ∧ (∀ a, a < y.pa l.va ∨ y.pa l.va + l.data.length ≤ a → (s.applyStore x i).mem.get a = s.mem.get a)
      ∧ (s.subjunctive y p.hyp = true → (s.applyStore x i).mem = s.mem)
      ∧ (s.subjunctive y p.hyp = false → (y.far = true ∨ ∀ off, paKind (y.pa l.va) ≠ .device off) →
          (s.applyStore x i).mem.getN (y.pa l.va) l.data.length = l.data) := by
  obtain ⟨u, hu, hlw⟩ := releasing_ok ht
  obtain ⟨hmem, hctxs, -⟩ := id hu
  have htm : TasksMapped s t := .trans (.of_eq hctxs) (leafWrite_tasksMapped hlw)
  have hok : u.memOk := by unfold State.memOk at *; rwa [hmem]
  have hsm : (s.applyStore x i).mem = t.mem := by
    simp only [State.applyStore, hp, hl, hy, oneLine hf, Bool.false_eq_true, if_false, ht]
    split <;> rfl
  rw [hsm, ← hmem, ← hu.subjunctive]
  refine ⟨?_, fun a ha => leafWrite_outside hlw hok ha, leafWrite_version hlw, fun hs hd => ?_⟩
  · simp only [State.applyStore, hp, hl, hy, oneLine hf, Bool.false_eq_true, if_false, ht]
    rw [← hl]
    have hid : ∀ c : Ctx, (if s.subjunctive y p.hyp then c else c.applyU l (y.tag x.asid)).id = c.id := fun c => by split <;> rfl
    refine exists_modified (q := fun q => { q with what := q.what.through y, st := .applied }) hx hp ?_ ?_ ?_
    · split
      · exact htm
      · exact htm.trans (l1Lag_tasksMapped _ _ _ _ _ _)
    · exact hid
    · exact fun _ => rfl
  · rw [leafWrite_performed hlw hs hd, pageWritten_mem]
    exact getN_setN hok _ _

end

/-! ### The acknowledgement of a store (08 R196, R197; 20 R390) -/

section
variable {s : State} {n : Nat} {x : Ctx} {p : Pend} (hx : s.ctx? n = some x) (hp : x.pend.find? (fun p => decide (p.st = .applied)) = some p)
include hx hp

theorem storeAck_done (h : s.ackWaits x p = []) :
    exec (.storeAck n) s = .next ((s.onCtx n fun y => { y with pend := y.pend.erase p }).settle n).tick := by
  show execStoreAck n s = _
  cases hl : p.lines x.asid <;> simp only [execStoreAck, hx, hp, h, hl]

variable {l : Option (BitVec 16) × Nat × Nat} {z : Ctx} {zs : List Ctx} (hl : p.lines x.asid = some l) (hz : s.ackWaits x p = z :: zs)
include hl hz

theorem storeAck_forwards {y : Ctx} (hy : s.choose 21 ((z :: zs).filter fun w => s.forwardable w l) = some y) :
    exec (.storeAck n) s = .next (s.forward y.id l).tick := by
  show execStoreAck n s = _
  simp only [execStoreAck, hx, hp, hl, hz, hy]

variable (hy : s.choose 21 ((z :: zs).filter fun w => s.forwardable w l) = none)
include hy

theorem storeAck_lost (hs : s.lostSince + s.us 50 ≤ s.time) (ht : p.since + s.us 50 ≤ s.time) :
    exec (.storeAck n) s = .next
      ((linesOf l.2.1 l.2.2).foldl (fun u k => u.raiseLost (s.homeSlice l.1 k / 64)) (s.markSharers (s.cutSharers x p))).tick := by
  show execStoreAck n s = _
  simp only [execStoreAck, hx, hp, hl, hz, hy, hs, ht, and_self, if_true]

theorem storeAck_waits (hs : s.time < s.lostSince + s.us 50) : exec (.storeAck n) s = .next s := by
  show execStoreAck n s = _
  simp only [execStoreAck, hx, hp, hl, hz, hy, Nat.not_le.mpr hs, false_and, if_false]

end

theorem filterBankClear_due {s : State} {slice : Nat} (h : slice < 384) (ht : ((s.tower (slice / 64)).filterAt[slice % 64]?).getD 0 + 16000 ≤ s.time) :
    exec (.filterBankClear slice) s = .next (s.onTower (slice / 64) fun t => { t with
      filterOld := (t.filterOld.filter fun b => !decide (b.1 = slice % 64)) ++ t.filterNew.filter fun b => decide (b.1 = slice % 64)
      filterNew := t.filterNew.filter fun b => !decide (b.1 = slice % 64)
      filterAt := t.filterAt.set (slice % 64) s.time }).tick := by
  have htw : slice / 64 < 6 := by omega
  show execFilterBankClear slice s = _
  simp only [execFilterBankClear, htw, ht, and_self, if_true]

theorem refreshWindow_due {s : State} (h : s.time % 250 = 0) : exec .refreshWindow s = .next s.tick := if_pos h

theorem refreshWindow_not_due {s : State} (h : s.time % 250 ≠ 0) : exec .refreshWindow s = .next s := if_neg h

/-! ### Accesses by physical address (08 R186, R199; 20 R394; 23 R425) -/

/-- An address of a tower's HBM or of its weight store. -/
def Stored (pa : Nat) : Prop := (∃ t, paKind pa = .hbm t) ∨ ∃ t k, paKind pa = .weight t k

theorem stored_of {pa t k : Nat} (h : paKind pa = .hbm t ∨ paKind pa = .weight t k) : Stored pa := h.imp (fun h => ⟨t, h⟩) fun h => ⟨t, k, h⟩

theorem openAt_of_physBad {s : State} {pa n : Nat} (h : s.physBad pa n = none ∨ s.physBad pa n = some .eccunc) : s.openAt pa = true := by
  by_contra ho
  rw [Bool.not_eq_true] at ho
  simp only [State.physBad, ho, Bool.not_false, if_true] at h
  split at h <;> simp at h

section
variable {s : State} {pa : Nat} {bs : List (BitVec 8)} (hf : s.isFar pa = false)
include hf

theorem hostWrite_device {off : Nat} (hk : paKind pa = .device off) : exec (.physicalWrite true pa bs) s = .next (s.hostDevWrite pa off bs).tick := by
  show execPhysicalWrite true pa bs s = _
  simp only [execPhysicalWrite, hf, hk, Bool.false_eq_true, if_false, if_true]

variable (hk : Stored pa)
include hk

theorem physicalWrite_forwards {tw : Nat} {f : Forward} {host : Bool} (h : s.forwardAt pa = some (tw, f)) :
    exec (.physicalWrite host pa bs) s = .next (s.forwardTo tw f s.self pa (.store bs)).tick := by
  show execPhysicalWrite host pa bs s = _
  rcases hk with ⟨t, hk⟩ | ⟨t, k, hk⟩ <;> simp only [execPhysicalWrite, hf, hk, h, Bool.false_eq_true, if_false]

section
variable (h : s.forwardAt pa = none)
include h

/-- A write to a frame that stands here, whose store is open or which does not come from the host: what stands against it decides. -/
theorem physicalWrite_here {host : Bool} (ho : (host && !s.openAt pa) = false) :
    exec (.physicalWrite host pa bs) s = match s.physBad pa bs.length with
      | none => .next (s.physPut pa bs).tick
      | some .eccunc => .next ((s.physPut pa bs).eccEntry pa).tick
      | some _ => .next s := by
  show execPhysicalWrite host pa bs s = _
  rcases hk with ⟨t, hk⟩ | ⟨t, k, hk⟩ <;> simp only [execPhysicalWrite, hf, hk, h, ho, Bool.false_eq_true, if_false] <;> rfl

theorem physicalWrite_sound {host : Bool} (hb : s.physBad pa bs.length = none) :
    exec (.physicalWrite host pa bs) s = .next (s.physPut pa bs).tick := by
  rw [physicalWrite_here hf hk h (by rw [openAt_of_physBad (.inl hb), Bool.not_true, Bool.and_false]), hb]

theorem physicalWrite_notlive {host : Bool} (ho : s.openAt pa = true) (hb : s.physBad pa bs.length = some .notlive) :
    exec (.physicalWrite host pa bs) s = .next s := by
  rw [physicalWrite_here hf hk h (by rw [ho, Bool.not_true, Bool.and_false]), hb]

theorem physicalWrite_eccunc {host : Bool} (hb : s.physBad pa bs.length = some .eccunc) :
    exec (.physicalWrite host pa bs) s = .next ((s.physPut pa bs).eccEntry pa).tick := by
  rw [physicalWrite_here hf hk h (by rw [openAt_of_physBad (.inr hb), Bool.not_true, Bool.and_false]), hb]

theorem hostWrite_closed (ho : s.openAt pa = false) :
    exec (.physicalWrite true pa bs) s =
      .next (({ s with outbox := s.outbox ++ [.hostPoisoned pa] } : State).fqMachine ((paTower pa).getD 0) Kind.perm.code 0 0).tick := by
  show execPhysicalWrite true pa bs s = _
  rcases hk with ⟨t, hk⟩ | ⟨t, k, hk⟩ <;>
    simp only [execPhysicalWrite, hf, hk, h, ho, Bool.false_eq_true, if_false, Bool.not_false, Bool.and_self, if_true]

theorem hostRead_sound {m : Nat} (hm : 0 < m) (hm' : m ≤ 4096) (hl : s.live pa = true) (hb : s.badAt pa m = false) :
    exec (.hostRead pa m) s = .next (((List.range ((pa + m + 63) / 64 - pa / 64)).map fun k => pa / 64 + k).foldl State.snoopAdd { s with
      outbox := s.outbox ++ [.hostData (s.paBytes pa m) false] }).tick := by
  show execHostRead pa m s = _
  rcases hk with ⟨t, hk⟩ | ⟨t, k, hk⟩ <;>
    simp only [execHostRead, hf, hm.ne', Nat.not_lt.mpr hm', hk, h, hl, hb, Bool.false_eq_true, or_self, if_false, Bool.not_true, Bool.or_self]

end

end

theorem hostDevWrite_register {s : State} {pa off : Nat} {bs : List (BitVec 8)} (h : 0x180000 ≤ off) : s.hostDevWrite pa off bs = s.devWrite pa off bs :=
  if_neg (Nat.not_lt.mpr h)

theorem hostDevWrite_window {s : State} {pa off : Nat} {bs : List (BitVec 8)} (h : off < 0x180000) :
    s.hostDevWrite pa off bs = s.windowPut (off / 0x40000) (off / 0x1000 % 64) (off % 0x1000) bs :=
  if_pos h

theorem shootdownComplete_ends {s : State} {x : Shoot} (h : s.shoots.find? (fun x => !x.finished) = some x) (hb : x.by_ = none) :
    exec .shootdownComplete s =
      .next ({ ((s.shootAll x.form).shootCells x.form) with shoots := ((s.shootAll x.form).shootCells x.form).shoots.erase x } : State).tick := by
  show execShootdownComplete s = _
  simp only [execShootdownComplete, h, hb]

/-! ### Ends of waits (10 R241; 17 R360; 20 R389, R390) -/

section
variable {s : State} {n : Nat} {x : Ctx}

theorem versionDiscard_done {h : Nat} {y : Hyp} (hy : s.hyp? (BitVec.ofNat 12 h) = some y) (hr : y.st = .refuted) (hd : y.discarded = false) :
    exec (.versionDiscardDone h) s = .next
      ((({ s with versions := s.versions.filter fun v => !decide (v.hyp = y.n) } : State).onHyp y.n fun z => { z with discarded := true }).hypSweep).tick := by
  show execVersionDiscardDone h s = _
  simp only [execVersionDiscardDone, hy, hr, hd, and_self, if_true]

variable (hx : s.ctx? n = some x)
include hx

theorem farAccess_givenUp {m : Nat} {iid : BitVec 7} {ws : List (Nat × BitVec 7)}
    (hw : s.waitedOn x (fun cell p => s.farAcc x cell p.1 p.2 .load) true = (m, iid) :: ws) :
    exec (.farAccessTimeout n) s = .next (s.giveUp n m iid).tick := by
  show execFarAccessTimeout n s = _
  simp only [execFarAccessTimeout, hx, hw]

theorem farStore_lost {p : Pend} {l : Lane} (hw : s.waitedOn x (fun cell p => s.farAcc x cell p.1 p.2 .load) true = [])
    (hp : s.storeWaited x (fun _ l p => l.far && decide (p.since + s.us 50 ≤ s.time)) = some (p, l)) :
    exec (.farAccessTimeout n) s = .next (s.lateFault x p l .linklost).tick := by
  show execFarAccessTimeout n s = _
  simp only [execFarAccessTimeout, hx, hw, hp]

theorem homeAccess_givenUp {m : Nat} {iid : BitVec 7} {ws : List (Nat × BitVec 7)} (ht : s.lostSince + s.us 50 ≤ s.time)
    (hw : s.waitedOn x (fun cell p => s.cutAcc x cell p.1 p.2 .load) false = (m, iid) :: ws) :
    exec (.unreachableHomeTimeout n) s = .next (s.giveUp n m iid).tick := by
  show execUnreachableHomeTimeout n s = _
  simp only [execUnreachableHomeTimeout, hx, Nat.not_lt.mpr ht, if_false, hw]

variable {y : Inst} {ys : List Inst} {iid : BitVec 7} {pr : Pred} {eff : BitVec 5} {t : Tgt} {since : Nat} (hw : x.window = y :: ys)
  (hs : y.waits = [(iid, since)]) (hi : y.instrAt iid = some (.idle pr eff t))
include hw hs hi

/-- The end of an IDLE's wait is its firing, with the focus on it. -/
theorem idleTimeout_fires (hn : iid ∉ y.fired) (hk : ((y.tok? iid .a).getD .null).bits.toNat ≠ 0)
    (ht : since + ((y.tok? iid .a).getD .null).bits.toNat * 1000 ≤ s.time) :
    exec (.idleTimeout n) s = exec (.idle pr eff t) { s with focus := ⟨n, 0, iid, false⟩ } := by
  show execIdleTimeout n s = execIdle pr eff t _
  have hh : ((s.ctx? n).bind fun x => x.window.head?) = some y := by rw [hx, Option.bind_some, hw]; rfl
  have hc : ¬ (y.fired.contains iid = true) := by rwa [List.contains_iff_mem]
  simp only [execIdleTimeout, hh, hs, List.findSome?_cons, hi, hk, ht, hc, ne_eq, not_false_eq_true, and_self, if_true,
    Bool.false_eq_true]

/-- Its time has passed, so an idle bit is set and the IDLE delivers it. -/
theorem idle_delivers_passed {v : Vals} (hv : Acts { s with focus := ⟨n, 0, iid, false⟩ } (.idle pr eff t) v) (hk : v.a.bits.toNat ≠ 0)
    (hl : v.a.bits.toNat < 2 ^ 32) (ht : since + v.a.bits.toNat * 1000 ≤ s.time) :
    let z : State := { s with focus := ⟨n, 0, iid, false⟩ }
    z.idleBits x v.a.bits.toNat since ≠ 0 ∧ exec (.idle pr eff t) z = .next (z.fired (((z.onInst fun y => y.waitedOut iid s.time).effect (.idle pr eff t) .done).deliverS
      (.idle pr eff t) (w64 (z.idleBits x v.a.bits.toNat since)))) := by
  intro z
  have hzx : z.fctx = some x := hx
  have hzy : z.finst = some y := by
    show z.fctx.bind (fun c => c.window[0]?) = some y
    rw [hzx, Option.bind_some, hw]
    rfl
  have hsince : (y.waitSince z.focus.iid).getD z.time = since := by
    simp only [Inst.waitSince, hs, show z.focus.iid = iid from rfl, List.find?_cons, decide_true, Option.map_some, Option.getD_some]
  have hbits : z.idleBits x v.a.bits.toNat since ≠ 0 := by
    simp only [State.idleBits, show z.time = s.time from rfl, hk, ht, ne_eq, not_false_eq_true, decide_true, Bool.and_self, if_true]
    omega
  have hgives := ControlOps.idle_ends hzx hzy rfl hl hv (by rwa [hsince])
  rw [hsince] at hgives
  exact ⟨hbits, hgives⟩

end

/-- Settles O49: the answers of a page, a store at its home slice, accesses by physical address, and the ends of waits. -/
theorem memoryEvents : Obligations.MemoryEvents := by
  refine ⟨fun s tw n slice pa bs => ⟨fun r rs hr => ⟨translationWalk_serves hr, translationWalk_full hr, serveWalk_single r⟩,
    fun e a p acc => translate_cached, fun a as_ l h hg hc => entryArrival_leaf h hg hc, fun a as_ h hg => entryArrival_engine h hg,
    fun a as_ k va h hg hc => entryArrival_fault h hg hc, fun a as_ k va h hg hc => entryArrival_storeFault h hg hc,
    fun a as_ h => entryArrival_old h, fun x hx => ?_, ?_, filterBankClear_due, refreshWindow_due, refreshWindow_not_due,
    fun t k host hf hk h => physicalWrite_sound hf (stored_of hk) h, fun t k hf hk h ho hb host => physicalWrite_notlive hf (stored_of hk) h ho hb,
    fun t k host hf hk h => physicalWrite_eccunc hf (stored_of hk) h, fun t k hf hk => hostWrite_closed hf (stored_of hk),
    fun t k tw f host hf hk => physicalWrite_forwards hf (stored_of hk), fun off hf => hostWrite_device hf, fun off => hostDevWrite_register,
    fun off => hostDevWrite_window, fun t k m hf hk hm hm' h => hostRead_sound hf (stored_of hk) h hm hm', fun x => shootdownComplete_ends⟩,
    fun s n h x => ⟨fun y => versionDiscard_done, fun m iid ws hx => farAccess_givenUp hx, fun p l hx => farStore_lost hx,
      fun m iid ws hx => homeAccess_givenUp hx, fun y ys iid pr eff t since hx hw hs hi hn => ?_⟩⟩
  · intro ready
    refine ⟨homeSlice_asks hx, homeSlice_none hx, fun i p l rel many hm hi hp hl => ⟨homeSlice_waiting hx hi hp, fun k hk hva => ?_, fun y hy hf => ?_⟩⟩
    · rw [homeSlice_applies hx hm hi, applyStore_forbidden hp hl hk hva]
    · intro pa gone
      have hrefused := fun k t h => congrArg (fun u : State => (.next u.tick : Host.Outcome State Fault Refusal))
        (applyStore_refused hp hl hy hf (k := k) (t := t) h)
      rw [homeSlice_applies hx hm hi]
      refine ⟨fun hg hlv => hrefused _ _ (releasing_of_bad (leafWrite_notlive hg hlv)), fun hg hlv ho => hrefused _ _ (releasing_of_bad (leafWrite_perm hg hlv ho)),
        fun hs hlv ho hb => hrefused _ _ (releasing_of_bad (leafWrite_eccunc hs hlv ho hb)), hrefused, fun t hok ht => ⟨_, rfl, ?_⟩⟩
      exact applyStore_performed hp hl hy hf (List.mem_of_find?_eq_some hx) hok ht
  · exact fun x p hx hp => ⟨storeAck_done hx hp, fun l z zs y hl hz => storeAck_forwards hx hp hl hz,
      fun l z zs hl hz hy => ⟨storeAck_lost hx hp hl hz hy, storeAck_waits hx hp hl hz hy⟩⟩
  · intro k z hk ht
    refine ⟨idleTimeout_fires hx hw hs hi hn hk ht, fun v hv hvk hl => ?_⟩
    obtain ⟨hb, he⟩ := idle_delivers_passed hx hw hs hi hv (hvk.symm ▸ hk) (hvk.symm ▸ hl) (hvk.symm ▸ ht)
    rw [hvk] at hb he
    exact ⟨hb, (idleTimeout_fires hx hw hs hi hn hk ht).trans he⟩

end Sys2Proof.MemoryEvents
end

section
/-! Nodes, streamers, prism, fabric loads and edges by themselves (12 R257 to R260; 13 R284 to R297; 14 R306 to R323; 18 R375 to R380). -/

namespace Sys2Proof.EngineEvents

-- One proof at a time: proofs checked side by side take each a stack of memory.
set_option Elab.async false

open Sys2Proof.Machine Sys2Proof.FabricOps

/-! ### Matrix nodes (12 R257, R258, R260) -/

section
variable {s : State} {tw n k : Nat} {m : MNode} (hm : s.mnodes.find? (fun m => decide (m.tower = tw) && decide (m.n = n)) = some m)
include hm

theorem command_performed {u : State} (hr : m.restoring = false) (ht : m.next.findSome? (fun q => s.tryCmd m q) = some u) :
    exec (.matrixCommandPerformed tw n) s = .next u.hypSweep.tick := by
  show execMatrixCommandPerformed tw n s = _
  simp only [execMatrixCommandPerformed, hm, hr, Bool.false_eq_true, if_false, ht]

theorem tileFill_done (ht : tState (m.tile k) = 1) (hb : s.tileBusy m k = false) :
    exec (.tileFillDone tw n k) s = .next (s.setNode (m.setState k 2)).tick := by
  show execTileFillDone tw n k s = _
  simp only [execTileFillDone, hm, ht, hb, Bool.false_eq_true, not_false_eq_true, and_self, if_true]

theorem tileFill_not_filling (ht : tState (m.tile k) ≠ 1) : exec (.tileFillDone tw n k) s = .next s := by
  show execTileFillDone tw n k s = _
  simp only [execTileFillDone, hm, ht, false_and, if_false]

theorem tileDrain_done (ht : tState (m.tile k) = 3) (hb : s.tileBusy m k = false) :
    exec (.tileDrainDone tw n k) s = .next (s.setNode (m.drained k)).tick := by
  show execTileDrainDone tw n k s = _
  simp only [execTileDrainDone, hm, ht, hb, Bool.false_eq_true, not_false_eq_true, and_self, if_true]

omit hm in
theorem drained_ready (hf : k ∉ m.freeing) : m.drained k = m.setState k 2 := if_neg (by rwa [List.contains_iff_mem])

omit hm in
theorem drained_freed (hf : k ∈ m.freeing) :
    m.drained k = { (m.setState k 0) with freeing := m.freeing.filter fun t => !decide (t = k) } :=
  if_pos (List.contains_iff_mem.mpr hf)

theorem nodeCommand_stalls {q : MCmd} (hq : s.stalledCmd m = some q) (hp : s.pauses q.org = false) :
    exec (.commandStall (.node tw n)) s = .next (s.matrixFault m q .stall 0 0).tick := by
  show execCommandStall (.node tw n) s = _
  simp only [execCommandStall, hm, hq, hp, Bool.false_eq_true, if_false]

end

/-! ### Streamers (13 R276, R284) -/

section
variable {s : State} {n : Nat}

theorem streamerCommand_starts (h : ∀ l ∈ s.loads, ∀ f ∈ l.streams, f.id ≠ n) : exec (.streamerCommandStart n) s = .next (s.startScmd n) := by
  have hnone : (s.loads.findSome? fun l => (l.streams.zipIdx.find? fun f => decide (f.1.id = n)).map fun f => (l, f.2, f.1)) = none := by
    refine List.findSome?_eq_none_iff.mpr fun l hl => ?_
    rw [Option.map_eq_none_iff, List.find?_eq_none]
    intro f hf
    rw [decide_eq_true_eq]
    exact h l hl f.1 (List.fst_mem_of_mem_zipIdx hf)
  show execStreamerCommandStart n s = _
  simp only [execStreamerCommandStart, hnone]

variable {q : SCmd} (hq : s.scmds.find? (fun q => decide (q.id = n)) = some q)
include hq

theorem streamerCommand_stalls (hu : q.unfinished = true) (hb : s.queueBehind q = false) (hw : s.scmdWaits q = false) (hp : s.pauses q.org = false)
    (ht : q.progress + s.stallLimit q.org.asid ≤ s.time) :
    exec (.commandStall (.streamer n)) s = .next (s.scmdFault q .stall 0 0 (2 ^ 48) none 0).tick := by
  show execCommandStall (.streamer n) s = _
  simp only [execCommandStall, hq, hu, hb, hw, hp, ht, Bool.not_false, Bool.and_self, decide_true, if_true]

theorem streamerCommand_completes (hst : q.st = .running) (hr : q.repairs = []) (hd : q.redo = []) (ht : (q.job .mem .mem).total ≤ q.next) (hn : q.disc = none) :
    exec (.streamerCommandComplete n) s = .next (if q.descs.2.kind = 1 then s.onScmd n fun x => { x with st := .complete }
      else (s.onScmd n fun x => { x with st := .complete }).hypSweep).tick := by
  show execStreamerCommandComplete n s = _
  simp only [execStreamerCommandComplete, hq, hst, hr, hd, ht, hn, and_self, if_true]

end

/-! ### Building and publishing a view tile (13 R294, R297) -/

section
variable {s : State} {tw : Nat} {b : Build} {m : Master} {v : View} (hm : s.masters.find? (fun m => decide (m.tower = tw) && decide (m.slot = b.slot)) = some m)
  (hv : m.views.find? (fun v => decide (v.idx = b.view)) = some v)
include hm hv

theorem viewOf_build : ((s.masters.find? fun m => decide (m.tower = tw) && decide (m.slot = b.slot)).bind fun m =>
    (m.views.find? fun v => decide (v.idx = b.view)).map fun v => (m, v)) = some (m, v) := by
  rw [hm, Option.bind_some, hv, Option.map_some]

theorem viewBuild_made {u : State} {bss : List (List Byte)} (hb : s.builds.find? (fun b => decide (b.tower = tw) && b.made.isNone && b.failed.isNone) = some b)
    (hs : s.snapshot m b.tile (List.range 64) = (u, .ok bss)) (hn : nanFails v.vfmt = false ∨ firstNan (bss.map m.values) = none) :
    exec (.viewBuild tw) s = .next (State.tick { u with builds := u.builds.map fun x =>
      if x = b then { x with made := some (v.encode m b.tile (bss.map m.values), (m.epochs[b.tile]?).getD 0) } else x }) := by
  have hsound : (if nanFails v.vfmt then firstNan (bss.map m.values) else none) = none := by
    rcases hn with hn | hn
    · rw [hn]; rfl
    · rw [hn]; split <;> rfl
  show execViewBuild tw s = _
  simp only [execViewBuild, hb, viewOf_build hm hv, hs, hsound]

/-- The pair of a build and its tile that may be published now: made, or failed with its record out, and no earlier build of the tile before it. -/
def Publishable (s : State) (tw : Nat) (b : Build) : Bool :=
  decide (b.tower = tw) && (b.made.isSome || (b.failed.isSome && !s.recq.any fun r => decide (r.src = 4) &&
      decide (r.idx = BitVec.ofNat 32 b.tile) && decide (bitsOf r.ticket 0 13 = b.view + b.slot * 16 + b.tower * 1024)))
    && (s.builds.takeWhile fun x => !decide (x = b)).all fun x =>
      !(decide (x.tower = b.tower) && decide (x.slot = b.slot) && decide (x.tile = b.tile) && decide (x.view = b.view))

/-- The tile's view at epoch `ep`, sound or FAULTED, and the build gone. -/
def publishedAt (u : State) (tw : Nat) (b : Build) (ep : BitVec 32) (bad : Bool) : State :=
  let t := u.onMaster tw b.slot fun m => m.onView b.view fun v => { v with tiles := v.tiles.modify b.tile fun x => { x with epoch := some ep, faulted := bad } }
  { t with builds := t.builds.filter fun x => !decide (x = b) }

variable {rows : List (Nat × List Byte)} {ep : BitVec 32} (hb : s.builds.find? (Publishable s tw) = some b)
include hb

theorem viewPublish_made {u : State} (hf : b.failed = none) (hmade : b.made = some (rows, ep)) (he : (m.epochs[b.tile]?).getD 0 = ep)
    (hp : s.viewPuts m.asid rows = (u, none)) : exec (.viewPublish tw) s = .next (publishedAt u tw b ep false).tick := by
  unfold Publishable at hb
  show execViewPublish tw s = _
  simp only [execViewPublish, hb, hf, hmade, viewOf_build hm hv, he, ne_eq, not_true_eq_false, decide_false, Bool.false_and, Bool.false_eq_true, if_false, hp,
    publishedAt]

theorem viewPublish_failed (hf : b.failed = some (ep, rows)) :
    exec (.viewPublish tw) s = .next (publishedAt (s.viewPuts m.asid rows).1 tw b ep true).tick := by
  unfold Publishable at hb
  show execViewPublish tw s = _
  simp only [execViewPublish, hb, hf, viewOf_build hm hv, publishedAt]

end

/-! ### Fabric loads (14 R306, R316, R321 to R325) -/

section
variable {s : State} {tw k : Nat} {l : Load} (hl : s.load? tw k = some l)
include hl

theorem fabricConfigure_placed (hc : l.st ≠ .configuring) : exec (.fabricConfigure tw k) s = .next s := by
  show execFabricConfigure tw k s = _
  simp only [execFabricConfigure, hl, hc, ne_eq, not_false_eq_true, true_or, if_true]

section
variable {u : State} {pr : Pred} {eff : BitVec 5} {t : Tgt} {w : Nat × Nat × BitVec 7} (hc : l.st = .configuring) (hr : s.regionClear l = true)
  (hw : l.waiter = some w)
include hc hr hw

/-- The load is placed, and the PLOAD that waits for it fires. -/
theorem fabricConfigure_pload (hf : s.focusOn w.1 w.2.1 w.2.2 = some (u, .pload pr eff t)) :
    exec (.fabricConfigure tw k) s = exec (.pload pr eff t) (({ u with mnodes := u.mnodes ++ u.freshNodes l } : State).loadTo tw k .loaded).tick := by
  show execFabricConfigure tw k s = execPload pr eff t _
  simp only [execFabricConfigure, hl, hc, hr, hw, Option.bind_some, hf, ne_eq, not_true_eq_false, Bool.not_true, Bool.false_eq_true, or_self, if_false]

theorem fabricConfigure_prest {a : Word} {y : State} (ha : l.area = some a) (hf : s.focusOn w.1 w.2.1 w.2.2 = some (u, .prest pr eff t))
    (hy : ({ u with mnodes := u.mnodes ++ u.freshNodes l } : State).restoreLoad l
      (({ u with mnodes := u.mnodes ++ u.freshNodes l } : State).savedAt l.asid (some a)) a = some y) :
    exec (.fabricConfigure tw k) s = exec (.prest pr eff t) (y.statusWrite tw k).tick := by
  show execFabricConfigure tw k s = execPrest pr eff t _
  simp only [execFabricConfigure, hl, hc, hr, hw, ha, Option.bind_some, hf, hy, ne_eq, not_true_eq_false, Bool.not_true, Bool.false_eq_true, or_self, if_false]

end

theorem edge_tooOld {n a : Nat} {e : FEdge} (hr : l.st = .running) (he : l.edges[n]? = some e) (ha : e.headAt = some a) (ht : a + s.ageLimit l ≤ s.time) :
    exec (.edgeAgeLimit tw k n) s = .next (s.record6 l e.cnode .stall (((l.cells[e.cnode]?).map fun c => c.addr).getD 0) 0 0 n e.cnode).tick := by
  show execEdgeAgeLimit tw k n s = _
  simp only [execEdgeAgeLimit, hl, hr, he, ha, ht, Option.bind_some, Option.map_some, and_self, if_true]

omit hl in
/-- A property of the load's own M-nodes, as the list of them states it. -/
theorem loadNodes_all {p : MNode → Bool} (h : ∀ m ∈ s.mnodes, m.tower = tw → (∀ i, m.owner ≠ .load k i) ∨ p m = true) :
    (s.mnodes.filter fun m => decide (m.tower = tw) && (match m.owner with
      | .load sl _ => decide (sl = k)
      | _ => false)).all p = true := by
  refine List.all_eq_true.mpr fun m hm => ?_
  obtain ⟨hmem, hown⟩ := List.mem_filter.mp hm
  rw [Bool.and_eq_true, decide_eq_true_eq] at hown
  obtain ⟨htw, hown⟩ := hown
  refine (h m hmem htw).resolve_left fun hno => ?_
  cases ho : m.owner with
  | load sl i =>
    rw [ho] at hown
    exact hno i (by rw [ho, of_decide_eq_true hown])
  | task key i => rw [ho] at hown; cases hown

omit hl in
/-- A property of the load's own node clauses. -/
theorem loadCells_all {p : Ctx → Bool} (h : ∀ c ∈ s.ctxs, c.loadRef = some (tw, k) → p c = true) :
    (s.ctxs.filter fun c => decide (c.loadRef = some (tw, k))).all p = true := by
  refine List.all_eq_true.mpr fun c hc => ?_
  obtain ⟨hmem, href⟩ := List.mem_filter.mp hc
  exact h c hmem (of_decide_eq_true href)

theorem load_finishes (hr : l.st = .running) (hs : l.stopAsked = false) (hc : ∀ c ∈ s.ctxs, c.loadRef = some (tw, k) → c.retired = true ∧ c.hasStores = false)
    (hf : ∀ f ∈ l.streams, f.ended = true)
    (hn : ∀ m ∈ s.mnodes, m.tower = tw → (∀ i, m.owner ≠ .load k i) ∨ ((∀ q ∈ m.queue, 16 ≤ q.xop) ∧ s.drained m = true)) :
    exec (.loadFinish tw k) s = .next (s.loadTo tw k .finished).tick := by
  have hcells := loadCells_all (s := s) (tw := tw) (k := k) (p := fun c => c.retired && !c.hasStores) fun c hmem href => by
    obtain ⟨h₁, h₂⟩ := hc c hmem href
    rw [h₁, h₂]; rfl
  have hnodes := loadNodes_all (s := s) (tw := tw) (k := k) (p := fun m => m.queue.all (fun q => decide (16 ≤ q.xop)) && s.drained m) fun m hmem htw =>
    (hn m hmem htw).imp_right fun ⟨hq, hd⟩ => by
      rw [Bool.and_eq_true]
      exact ⟨List.all_eq_true.mpr fun q hm => decide_eq_true (hq q hm), hd⟩
  have hstreams : (l.streams.all fun f => f.ended) = true := List.all_eq_true.mpr hf
  show execLoadFinish tw k s = _
  unfold execLoadFinish
  rw [hl]
  dsimp only
  refine if_pos ?_
  rw [hr, hs, hcells, hstreams]
  exact hnodes

theorem load_status (hst : l.st = .faulted) (hd : l.statusDue = true)
    (hn : ∀ m ∈ s.mnodes, m.tower = tw → (∀ i, m.owner ≠ .load k i) ∨ s.performedAll m = true)
    (hc : ∀ c ∈ s.ctxs, c.loadRef = some (tw, k) → c.engineHeld = false ∨ s.quiet c = true) :
    exec (.loadFinish tw k) s = .next ((s.onLoad tw k fun x => { x with statusDue := false }).statusWrite tw k).tick := by
  have hnodes := loadNodes_all hn
  have hcells := loadCells_all (s := s) (tw := tw) (k := k) (p := fun c => !c.engineHeld || s.quiet c) fun c hmem href => by
    rcases hc c hmem href with h | h
    · rw [h]; rfl
    · rw [h, Bool.or_true]
  show execLoadFinish tw k s = _
  unfold execLoadFinish
  rw [hl]
  dsimp only
  rw [hst]
  refine (if_neg Bool.false_ne_true).trans (if_pos ?_)
  rw [hd, hcells, Bool.and_true, Bool.true_and]
  exact hnodes

end

/-! ### A node saved and restored (18 R375, R376, R380) -/

section
variable {s : State} {tw n : Nat} {m : MNode} (hm : s.granted? tw n = some m)
include hm

theorem nodeSave_freed (hl : m.leaving = some none) (hq : m.quiet = true) (ha : m.away = false) (hs : s.streams m = false) :
    exec (.nodeSave tw n) s = .next (s.freeNode m).tick := by
  show execNodeSave tw n s = _
  simp only [execNodeSave, hm, hl, hq, ha, hs, Bool.not_false, Bool.and_self, if_true]

section
variable {save : Word} {key : TaskKey} {idx : Nat} (hl : m.leaving = some (some save)) (ho : m.owner = .task key idx)
include hl ho

theorem nodeSave_unrestored (hr : m.restoring = true) : exec (.nodeSave tw n) s = if m.quiet then .next (s.freeNode m).tick else .next s := by
  show execNodeSave tw n s = _
  simp only [execNodeSave, hm, hl, ho, hr, if_true]

theorem nodeSave_saved {u : State} (hr : m.restoring = false) (hs : s.nodeStill m = true) (hw : s.vwriteAll key.asid (nodeArea save idx) m.image = (u, none)) :
    exec (.nodeSave tw n) s = .next (u.freeNode m).tick := by
  show execNodeSave tw n s = _
  simp only [execNodeSave, hm, hl, ho, hr, hs, hw, Bool.not_true, Bool.false_eq_true, if_false]

end

variable {key : TaskKey} {idx : Nat} (ho : m.owner = .task key idx)
include ho

/-- A node that another has been granted in place of asks for one anew; the match is split case by case, for which the kernel compares nothing. -/
theorem nodeRestore_away (ha : m.away = true) (hl : m.leaving.isSome = true) : exec (.nodeRestore tw n) s = s.regrant m := by
  show execNodeRestore tw n s = _
  unfold execNodeRestore
  split
  · next h => cases hm.symm.trans h
  · next m' h =>
    cases hm.symm.trans h
    split
    · next h => cases ho.symm.trans h
    · rw [if_pos (by rw [ha, hl]; rfl)]
    · rw [if_pos ha, if_pos hl]

theorem nodeRestore_regrants {f : Nat} (ha : m.away = true) (hl : m.leaving ≠ none)
    (hf : (nodeOrder 0 1).find? (fun j => s.nodeUsable m.tower 1 j && (s.granted? m.tower j).isNone) = some f) :
    exec (.nodeRestore tw n) s = .next ({ s with mnodes := (s.mnodes.filter fun y => !(decide (y.tower = m.tower) && decide (y.n = m.n))) ++ [{ MNode.fresh m.tower f m.owner 0 with
      gen := m.gen, queue := m.queue, freeing := m.freeing, leaving := some none, restoring := m.area.isSome, area := m.area }] } : State).tick := by
  rw [nodeRestore_away hm ho ha (Option.isSome_iff_ne_none.mpr hl)]
  unfold State.regrant
  rw [hf]

variable {area : Word} (har : m.area = some area) (hr : m.restoring = true) (ha : m.away = false)
include har hr ha

theorem nodeRestore_restored {u : State} {x : MNode} (hl : m.leaving = none ∨ m.quiet = false ∨ s.streams m = true) (hx : s.readNode key.asid area m = (u, .ok x)) :
    exec (.nodeRestore tw n) s = .next (u.setNode { (u.settleTiles x) with restoring := false }).tick := by
  have hstays : (m.leaving.isSome && m.quiet && !s.streams m) = false := by
    rcases hl with h | h | h <;> simp [h]
  show execNodeRestore tw n s = _
  simp only [execNodeRestore, hm, ho, har, hr, ha, hstays, hx, Bool.not_true, Bool.or_self, Bool.false_eq_true, if_false]

theorem nodeRestore_fails {c : Ctx} {u : State} {kd : Kind} {va : Word} (hl : m.leaving = none) (hx : s.readNode key.asid area m = (u, .error (kd, va)))
    (hc : u.ctxOf? key = some c) (hlate : ∀ x ∈ u.lates, x.1 ≠ key) :
    exec (.nodeRestore tw n) s = .next ({ u with lates := u.lates ++ [(key, (⟨c.lateSeq, kd, 2, va, true⟩ : Late))] } : State).tick := by
  have hnone : (u.lates.any fun l => decide (l.1 = key)) = false := List.any_eq_false.mpr fun x hx => by
    rw [decide_eq_true_eq]
    exact hlate x hx
  show execNodeRestore tw n s = _
  simp only [execNodeRestore, hm, ho, har, hr, ha, hl, hx, State.restoreFails, hc, hnone, Option.isSome_none, Bool.false_and, Bool.not_true, Bool.or_self,
    Bool.false_eq_true, if_false]

end

/-! ### A bubble passes through a node (14 R313) -/

/-- A token taken from the edge that a port pops. -/
def popPort (tw slot k now : Nat) (u : State) (p : Nat) : State :=
  match u.edgeFor tw slot k p false with
  | some (_, i, _) => u.onLoad tw slot fun l => l.onEdge i fun e => e.pop now
  | none => u

/-- A bubble given to the edge that a port pushes. -/
def pushBubble (tw slot k : Nat) (seq : BitVec 32) (now : Nat) (u : State) (p : Nat) : State :=
  match u.edgeFor tw slot k p true with
  | some (_, i, _) => u.onLoad tw slot fun l => l.onEdge i fun e => e.push ⟨.bubble, 0, seq⟩ now
  | none => u

theorem popPort_time (tw slot k now : Nat) (u : State) (p : Nat) : (popPort tw slot k now u p).time = u.time := by
  unfold popPort
  split <;> rfl

theorem pushBubble_time (tw slot k : Nat) (seq : BitVec 32) (now : Nat) (u : State) (p : Nat) : (pushBubble tw slot k seq now u p).time = u.time := by
  unfold pushBubble
  split <;> rfl

/-- Steps that keep the time may read it at the start or as they go. -/
theorem foldl_at_time {α : Type} {f : Nat → State → α → State} (hf : ∀ n u a, (f n u a).time = u.time) (xs : List α) (u : State) :
    xs.foldl (f u.time) u = xs.foldl (fun w a => f w.time w a) u := by
  induction xs generalizing u with
  | nil => rfl
  | cons a xs ih =>
    rw [List.foldl_cons, List.foldl_cons, ← ih, hf]

section
variable {s : State} {n : Nat} {x : Ctx} {slot k : Nat} {inst : Inst} {xs : List Inst} {l : Load} {f : FCell} {sq : BitVec 32}

theorem bubble_passes (hx : s.ctx? n = some x) (hk : x.kind = .node slot k) (hw : x.window = inst :: xs) (hl : s.load? x.tower slot = some l) (hf : l.cells[k]? = some f)
    (hr : l.st = .running) (hs : l.stopAsked = false)
    (hh : ∀ p ∈ sortBy (fun a b => decide (a ≤ b)) f.pops, ((s.edgeFor x.tower slot k p false).bind fun e => e.2.2.toks.head?).isSome = true)
    (hp : ∀ p ∈ f.pushes, ∃ e, s.edgeFor x.tower slot k p true = some e ∧ e.2.2.toks.length < e.2.2.depth)
    (hb : ((sortBy (fun a b => decide (a ≤ b)) f.pops).findSome? fun p =>
      ((s.edgeFor x.tower slot k p false).bind fun e => e.2.2.toks.head?).bind fun t => if t.tag = .bubble then some t.seq else none) = some sq) :
    exec (.bubbleIteration n) s = .next ((f.pushes.foldl (fun u p => pushBubble x.tower slot k sq u.time u p)
      ((sortBy (fun a b => decide (a ≤ b)) f.pops).foldl (fun u p => popPort x.tower slot k u.time u p) (s.release inst))).onCtx n
        fun y => { y with window := [], iter := y.iter + 1 }).tick := by
  have hheads := List.all_eq_true.mpr hh
  have hrooms : (f.pushes.all fun p => ((s.edgeFor x.tower slot k p true).map fun e => decide (e.2.2.toks.length < e.2.2.depth)).getD false) = true :=
    List.all_eq_true.mpr fun p hm => by
      obtain ⟨e, he, hlt⟩ := hp p hm
      rw [he]
      exact decide_eq_true hlt
  rw [← foldl_at_time (f := fun n u p => popPort x.tower slot k n u p) (popPort_time x.tower slot k),
    ← foldl_at_time (f := fun n u p => pushBubble x.tower slot k sq n u p) (pushBubble_time x.tower slot k sq)]
  show execBubbleIteration n s = _
  simp only [execBubbleIteration, hx, hk, hw, hl, hf, hb, hr, hs, hheads, hrooms, ne_eq, not_true_eq_false, Bool.false_eq_true, or_self, decide_false,
    Bool.not_true, Bool.or_self, if_false, popPort, pushBubble] <;> rfl

end

/-- Settles O50: what each engine does by itself, as its state asks for it. -/
theorem engineEvents : Obligations.EngineEvents := by
  refine ⟨fun s tw n k => ⟨fun m u hm => ⟨command_performed hm, tileFill_done hm, fun ht hb hf => ?_, fun ht hb hf => ?_, tileFill_not_filling hm,
      fun q => nodeCommand_stalls hm⟩, fun q => streamerCommand_stalls, streamerCommand_starts, fun q => streamerCommand_completes,
    fun b m v u bss hb hm hv => viewBuild_made hm hv hb, ?_, ?_, ?_, fun l => fabricConfigure_placed, fun l e a hl => edge_tooOld hl,
    fun l hl => load_finishes hl, fun l hl => load_status hl, fun m => nodeSave_freed, fun m save key idx hm hl ho hr => ⟨fun hq => ?_, fun hq => ?_⟩,
    fun m save key idx u hm hl ho => nodeSave_saved hm hl ho, fun m key idx area u x hm ho har hr ha hl => nodeRestore_restored hm ho har hr ha hl,
    fun m key idx area c u kd va hm ho har hr ha hl => nodeRestore_fails hm ho har hr ha hl, fun m key idx f hm ho => nodeRestore_regrants hm ho⟩,
    fun s n x slot k inst xs l f sq hx hk hw hl hf hr hs => ?_⟩
  · rw [tileDrain_done hm ht hb, drained_ready hf]
  · rw [tileDrain_done hm ht hb, drained_freed hf]
  · intro out first b m v rows ep u hb hm hv set
    exact ⟨viewPublish_made hm hv hb, viewPublish_failed hm hv hb⟩
  · intro l u pr eff t w hl hc hr hw hf z
    refine ⟨fabricConfigure_pload hl hc hr hw hf, fun l' v hwait hst hv => ?_⟩
    exact (fabricConfigure_pload hl hc hr hw hf).trans (pload_placed hwait hst hv)
  · intro l u pr eff t w a y hl hc hr hw ha hf z hy
    exact fabricConfigure_prest hl hc hr hw ha hf hy
  · rw [nodeSave_unrestored hm hl ho hr, hq, if_pos rfl]
  · rw [nodeSave_unrestored hm hl ho hr, hq, if_neg Bool.false_ne_true]
  · intro head pops hh hp hb
    exact ⟨_, bubble_passes hx hk hw hl hf hr hs hh hp hb, rfl⟩

end Sys2Proof.EngineEvents
end

section
/-! Fault-queue and ring records, links, and far requests (17 R337 to R339; 20 R387 to R400). -/

namespace Sys2Proof.RecordEvents

-- One proof at a time: proofs checked side by side take each a stack of memory.
set_option Elab.async false

open Sys2Proof.Machine Sys2Proof.MemoryBytes

/-! ### The fault queue (17 R337, R338) -/

section
variable {s : State} {tw : Nat}

theorem fqRoom_iff {t : Tower} : t.fqRoom = true ↔ t.fqBase ≠ 0 ∧ (t.fqHead - t.fqTail).toNat < 2 ^ t.fqN := by
  simp only [Tower.fqRoom, Bool.and_eq_true, decide_eq_true_eq]

theorem faultQueue_writes {e : FqEntry} {es : List FqEntry} {c : Ctx} {u : State} (he : (s.tower tw).fqHeld = e :: es) (hc : s.supervisor? tw = some c)
    (hb : (s.tower tw).fqBase ≠ 0) (hn : ((s.tower tw).fqHead - (s.tower tw).fqTail).toNat < 2 ^ (s.tower tw).fqN)
    (hw : s.vwrite c.asid ((s.tower tw).fqBase + w64 (256 * ((s.tower tw).fqHead.toNat % 2 ^ (s.tower tw).fqN))) (e.bytes tw) = (u, none)) :
    exec (.faultQueueWrite tw) s = .next (u.onTower tw fun w => { w with fqHeld := es, fqHead := w.fqHead + 1 }).tick := by
  have hroom : (s.tower tw).fqRoom = true := fqRoom_iff.mpr ⟨hb, hn⟩
  show execFaultQueueWrite tw s = _
  simp only [execFaultQueueWrite, State.fqWrite, he, hc, hroom, hw, Bool.not_true, Bool.false_eq_true, if_false]

theorem faultQueue_waits (h : (s.tower tw).fqBase = 0 ∨ ((s.tower tw).fqHead - (s.tower tw).fqTail).toNat = 2 ^ (s.tower tw).fqN) :
    exec (.faultQueueWrite tw) s = .next s := by
  have hroom : (s.tower tw).fqRoom = false := by
    rw [← Bool.not_eq_true, fqRoom_iff]
    rintro ⟨hb, hn⟩
    exact h.elim hb fun h => hn.ne h
  have hnone : s.fqWrite tw = none := by
    unfold State.fqWrite
    dsimp only
    split
    · rw [hroom]; rfl
    · rfl
  show execFaultQueueWrite tw s = _
  rw [execFaultQueueWrite, hnone]

theorem length_entry (e : FqEntry) (tw : Nat) (h : e.body.length ≤ 128) : (e.bytes tw).length = 256 := by
  simp only [FqEntry.bytes, List.flatMap_cons, List.flatMap_nil, List.length_append, length_natToBytes, List.length_nil, List.length_replicate]
  omega

end

/-! ### Records that are due (17 R339) -/

section
variable {s : State} {n : Nat} {x : Ctx} (hx : s.ctx? n = some x)
include hx

theorem record_written {r : AfRec} (hr : s.recq.find? x.ownsRec = some r) : exec (.afterimageRecordWrite n) s = .next (s.recordOut r) := by
  show execAfterimageRecordWrite n s = _
  simp only [execAfterimageRecordWrite, hx, hr]

theorem record_none (hr : s.recq.find? x.ownsRec = none) : exec (.afterimageRecordWrite n) s = .next s := by
  show execAfterimageRecordWrite n s = _
  simp only [execAfterimageRecordWrite, hx, hr]

end

/-! ### Links between the towers (20 R387 to R390) -/

section
variable {s : State} {n : Nat} {l : Link} (hl : s.links[n]? = some l)
include hl

theorem flitRetry_counts (h : l.lostAt = none) : exec (.flitRetry n) s = .next ({ s with flitRetries := s.flitRetries + 1 } : State).tick := by
  show execFlitRetry n s = _
  simp only [execFlitRetry, hl, h, Option.isSome_none, Bool.false_eq_true, if_false]

theorem linkLoss_loses (h : l.lostAt = none) :
    exec (.linkLoss n) s = .next (s.onLink n fun x => { x with lostAt := some s.time, served := false }).tick := by
  show execLinkLoss n s = _
  simp only [execLinkLoss, hl, h, Option.isSome_none, Bool.false_eq_true, if_false]

variable {a : Nat} (h : l.lostAt = some a)
include h

theorem linkLoss_lost : exec (.linkLoss n) s = .next s := by
  show execLinkLoss n s = _
  simp only [execLinkLoss, hl, h, Option.isSome_some, if_true]

theorem flitRetry_lost : exec (.flitRetry n) s = .next s := by
  show execFlitRetry n s = _
  simp only [execFlitRetry, hl, h, Option.isSome_some, if_true]

theorem coherenceLoss_reported {t : Nat} (hs : l.served = false) (ht : a + s.us 50 ≤ s.time) (h6 : t < 6) (hc : s.cutMask t ≠ 0) :
    exec (.coherenceLossTimeout n) s =
      .next (((List.range 6).foldl (fun u t => u.fqMachine t Kind.linklost.code 0 (BitVec.ofNat 32 (n + s.cutMask t * 256)))
        (s.markSharers (s.ctxs.flatMap fun c => c.pend.flatMap (s.cutSharers c)))).onLink n fun x => { x with served := true }).tick := by
  have hcut : ((List.range 6).all fun t => decide (s.cutMask t = 0)) = false :=
    List.all_eq_false.mpr ⟨t, List.mem_range.mpr h6, by rw [decide_eq_true_eq]; exact hc⟩
  show execCoherenceLossTimeout n s = _
  simp only [execCoherenceLossTimeout, hl, h, hs, Nat.not_lt.mpr ht, hcut, Bool.false_eq_true, or_self, if_false]

theorem coherenceLoss_early (ht : s.time < a + s.us 50) : exec (.coherenceLossTimeout n) s = .next s := by
  show execCoherenceLossTimeout n s = _
  simp only [execCoherenceLossTimeout, hl, h, ht, true_or, or_true, if_true]

theorem link_reconnects :
    let u := s.onLink n fun x => { x with lostAt := none, served := false }
    exec (.linkReconnect n) s = .next ((List.range 6).foldl (fun w t => if u.cutMask t = s.cutMask t then w else w.purge t) u).tick := by
  show execLinkReconnect n s = _
  simp only [execLinkReconnect, hl, h, Option.isNone_some, Bool.false_eq_true, if_false]

end

section
variable {s : State} {n : Nat} {back : Bool} {l : Link}

/-- A lane that fails takes a spare of its direction alone. -/
theorem retrain_left (now : Nat) (h : 0 < l.left back) :
    (l.retrain back now).left back = l.left back - 1 ∧ (l.retrain back now).left (!back) = l.left (!back) ∧ (l.retrain back now).half = l.half := by
  have hhalf : (l.retrain back now).half = l.half := by
    rw [Link.retrain, decide_eq_false h.ne', Bool.or_false]
  refine ⟨?_, ?_, hhalf⟩ <;> cases back <;> rfl

/-- Without a spare the link goes on with half its lanes. -/
theorem retrain_half (now : Nat) (h : l.left back = 0) : (l.retrain back now).half = true := by
  rw [Link.retrain, decide_eq_true h, Bool.or_true]

variable (hn : n < 14) (hb : back = decide (7 ≤ n)) (hl : s.links[n % 7]? = some l) (hlost : l.lostAt = none)
include hn hb hl hlost

theorem lane_retrains (h : 0 < l.left back ∨ l.half = false) :
    exec (.laneRetrain n) s = .next (s.onLink (n % 7) fun x => x.retrain back s.time).tick := by
  have hgo : ¬(l.left back = 0 ∧ l.half = true) := fun ⟨h₁, h₂⟩ => h.elim (fun h => h.ne' h₁) fun h => Bool.false_ne_true (h.symm.trans h₂)
  show execLaneRetrain n s = _
  simp only [execLaneRetrain, hn, if_true, ← hb, hl, hlost, Option.isSome_none, Bool.false_eq_true, false_or, hgo, if_false]

theorem lane_stays (h₁ : l.left back = 0) (h₂ : l.half = true) : exec (.laneRetrain n) s = .next s := by
  show execLaneRetrain n s = _
  simp only [execLaneRetrain, hn, if_true, ← hb, hl, h₁, h₂, and_self, or_true]

end

/-! ### Requests of another package (20 R399, R400) -/

section
variable {s : State} {src pa : Nat} {op : FarOp}

/-- A request that takes no page is served at the frame it names, or where that frame has gone. -/
theorem farRequest_eq (hop : ∀ asid page bytes, op ≠ .takePage asid page bytes) (hf : s.isFar pa = false) (hk : paKind pa ≠ .hole) :
    exec (.farRequest src pa op) s = match s.forwardAt pa with
      | some (t, f) => .next (s.forwardTo t f src pa op).tick
      | none => .next ((s.farCount src pa).farServe src pa op).tick := by
  have hgo : ¬(s.isFar pa = true ∨ paKind pa = .hole) := by
    rw [hf]
    exact fun h => h.elim Bool.false_ne_true hk
  show execFarRequest src pa op s = _
  unfold execFarRequest
  split
  · next asid page bytes => exact absurd rfl (hop asid page bytes)
  · rw [if_neg hgo] <;> rfl

theorem farRequest_takesPage {asid : BitVec 16} {page : Nat} {bytes : List Byte} (hf : s.isFar pa = true) :
    exec (.farRequest src pa (.takePage asid page bytes)) s = .next (s.takePage src pa asid page bytes).tick := by
  show execFarRequest src pa (.takePage asid page bytes) s = _
  simp only [execFarRequest, hf, if_true]

theorem farLoad_answers {m : Nat} (hl : s.live pa = true) (hb : s.badAt pa m = false) :
    (s.farServe src pa (.load m)).outbox = s.outbox ++ [.farReply src (.ok (s.paBytes pa m))] := by
  simp only [State.farServe, hl, hb, Bool.not_true, Bool.false_eq_true, if_false, State.farAnswer]

theorem farLoad_notlive {m : Nat} (hl : s.live pa = false) :
    (s.farServe src pa (.load m)).outbox = s.outbox ++ [.farReply src (.error .notlive)] := by
  simp only [State.farServe, hl, Bool.not_false, if_true, State.farAnswer]

end

/-- Settles O51: records are written where there is room, links lose lanes and come back, and a far request finds its frame. -/
theorem recordAndLinkEvents : Obligations.RecordAndLinkEvents := by
  refine fun s tw n src pa op => ⟨fun e es c u => faultQueue_writes, faultQueue_waits, fun e => ?_, fun x r hx => record_written hx, fun x hx => record_none hx,
    fun l hl => ⟨flitRetry_counts hl, linkLoss_loses hl, fun a h => ⟨linkLoss_lost hl h, flitRetry_lost hl h⟩,
      fun a t h => coherenceLoss_reported hl h, fun a h => coherenceLoss_early hl h, fun a h => link_reconnects hl h⟩,
    fun l back hn hb hl hlost => ⟨lane_retrains hn hb hl hlost, lane_stays hn hb hl hlost, retrain_left s.time, retrain_half s.time⟩,
    fun hop hf hk => ⟨fun h => ?_, fun t f h => ?_⟩, fun asid page bytes => farRequest_takesPage, fun m => farLoad_answers, fun m => farLoad_notlive⟩
  · exact (Nat.lt_or_ge 128 e.body.length).elim .inr fun h => .inl (length_entry e tw h)
  · rw [farRequest_eq hop hf hk, h]
  · rw [farRequest_eq hop hf hk, h]

end Sys2Proof.RecordEvents
end

section
/-! Host windows, completions, migration, gangs and checkpoints (20 R392 to R404). -/

namespace Sys2Proof.HostEvents

-- One proof at a time: proofs checked side by side take each a stack of memory.
set_option Elab.async false

open Sys2Proof.Machine Sys2Proof.RegisterEvents

/-! ### Submission windows and completions (20 R392, R395, R396) -/

section
variable {s : State} {tw win : Nat}

theorem windowExists_of (ht : tw < 6) (hw : win < 64) : windowExists tw win = true := by
  rw [windowExists, Bool.and_eq_true, decide_eq_true_eq, decide_eq_true_eq]
  exact ⟨ht, hw⟩

theorem windowExists_not (ht : 6 ≤ tw) : windowExists tw win = false := by
  rw [windowExists, decide_eq_false (show ¬tw < Config.towers from Nat.not_lt.mpr ht), Bool.false_and]

theorem window_writes (ht : tw < 6) (hw : win < 64) (bs : List (BitVec 8)) (x : BitVec 32) :
    exec (.submitWrite tw win bs) s = .next (s.windowPut tw win 0 bs).tick ∧ exec (.cheadWrite tw win x) s = .next (s.windowPut tw win 0x70 (natToBytes 8 x.toNat)).tick
      ∧ exec (.werrWrite tw win) s = .next (s.windowPut tw win 0x78 (natToBytes 8 0)).tick :=
  have he := windowExists_of ht hw
  ⟨if_pos he, if_pos he, if_pos he⟩

theorem windowRegister_written {off : Nat} (ht : tw < 6) (hw : win < 64) (ho : off ∈ [0x40, 0x48, 0x50, 0x58]) (v : Word) :
    exec (.submissionWindowWrite tw win off v) s = .next (s.windowPut tw win off (natToBytes 8 v.toNat)).tick :=
  if_pos (by rw [windowExists_of ht hw, List.contains_iff_mem.mpr ho]; rfl)

theorem submit_nowhere (ht : 6 ≤ tw) (bs : List (BitVec 8)) : exec (.submitWrite tw win bs) s = .next s :=
  if_neg (by rw [windowExists_not ht]; exact Bool.false_ne_true)

theorem completion_written {rec_ : Word} {code : Nat} {cval : Word} {rest : List (Word × Nat × Word)} (hc : (s.window tw win).comps = (rec_, code, cval) :: rest)
    (hr : ((s.window tw win).ctail - (s.window tw win).chead).toNat < 2 ^ (s.window tw win).cn) :
    exec (.hostCompletion tw win) s = .next (State.tick { (s.onWindow tw win fun y => { y with comps := rest, ctail := y.ctail + 1 }) with
      outbox := (s.onWindow tw win fun y => { y with comps := rest, ctail := y.ctail + 1 }).outbox
        ++ [.hostWrite ((s.window tw win).cq.toNat + 16 * ((s.window tw win).ctail.toNat % 2 ^ (s.window tw win).cn)) ((s.window tw win).completion rec_ code cval)]
        ++ (if (s.window tw win).irq then [.msix (s.window tw win).vec] else []) }) := by
  show execHostCompletion tw win s = _
  simp only [execHostCompletion, hc, Nat.not_le.mpr hr, if_false]

theorem completion_waits (hr : 2 ^ (s.window tw win).cn ≤ ((s.window tw win).ctail - (s.window tw win).chead).toNat) : exec (.hostCompletion tw win) s = .next s := by
  show execHostCompletion tw win s = _
  unfold execHostCompletion
  dsimp only
  split
  · rfl
  · rw [if_pos hr]

end

/-! ### Migration (20 R397 to R400) -/

section
variable {s : State} {tw : Nat}

theorem hotWindow_off (ht : tw < 6) (hd : (s.tower tw).hotAt + 1000000 ≤ s.time) (ho : (s.tower tw).migEn = false ∨ (s.tower tw).migThr = 0) :
    exec (.hotPageWindow tw) s = .next (s.onTower tw fun w => { w with hot := [], hotAt := s.time }).tick := by
  have hgo : ¬(s.time < (s.tower tw).hotAt + 1000000 ∨ Config.towers ≤ tw) := fun h => h.elim (Nat.not_lt.mpr hd) (Nat.not_le.mpr ht)
  have hoff : ((s.tower tw).migEn && decide ((s.tower tw).migThr ≠ 0)) = false := by
    rcases ho with h | h
    · rw [h, Bool.false_and]
    · rw [decide_eq_false (not_not.mpr h), Bool.and_false]
  show execHotPageWindow tw s = _
  simp only [execHotPageWindow, hgo, hoff, Bool.false_eq_true, if_false]

theorem hotWindow_migrates (ht : tw < 6) (hd : (s.tower tw).hotAt + 1000000 ≤ s.time) (he : (s.tower tw).migEn = true) (hthr : (s.tower tw).migThr ≠ 0) :
    exec (.hotPageWindow tw) s = .next (State.tick
      ((((s.tower tw).hot.filter fun h => decide ((s.tower tw).migThr ≤ h.2.2) && (s.tower tw).hot.all fun g => !decide (g.1 = h.1) || decide (g.2.1 = h.2.1)).foldl
        (fun (x : State) h => x.migrate tw h.1 h.2.1) (s.onTower tw fun w => { w with hot := [], hotAt := s.time })))) := by
  have hgo : ¬(s.time < (s.tower tw).hotAt + 1000000 ∨ Config.towers ≤ tw) := fun h => h.elim (Nat.not_lt.mpr hd) (Nat.not_le.mpr ht)
  show execHotPageWindow tw s = _
  simp only [execHotPageWindow, hgo, he, hthr, if_false, ne_eq, not_false_eq_true, decide_true, Bool.and_self, if_true, List.foldl_map]

theorem hotWindow_early (h : s.time < (s.tower tw).hotAt + 1000000) : exec (.hotPageWindow tw) s = .next s := by
  show execHotPageWindow tw s = _
  simp only [execHotPageWindow, h, true_or, if_true]

/-- What a tower holds once a shoot-down has reached it and it has then been changed itself. -/
theorem shot_tower {u : State} {f : ShootForm} {g : Tower → Tower} (hu : u.towers = s.towers) (h : tw < s.towers.length) :
    (((u.shootAll f).shootCells f).onTower tw g).tower tw = g ((s.tower tw).shoot f) := by
  simp only [State.tower, State.onTower, State.shootCells, State.shootAll, hu, List.getElem?_modify_eq, List.getElem?_map, List.getElem?_eq_getElem h,
    Option.map_some, Option.map_eq_map, Option.getD_some]

theorem partWrites_towers (pa ea : Nat) (xs ys : List (BitVec 8)) : ((s.pwrite pa xs).partWrite ea ys).towers = s.towers := rfl

theorem partWrites_time (pa ea : Nat) (xs ys : List (BitVec 8)) : ((s.pwrite pa xs).partWrite ea ys).time = s.time := rfl

section
variable {frame src : Nat}

theorem migrate_abandoned (h : s.homeLeaf tw (s.self * 2 ^ 46 + frame * 65536 % 2 ^ 46) = none) :
    s.migrate tw frame src = s.onTower tw fun w => { w with migAband := w.migAband + 1 } := by
  simp only [State.migrate, h, State.migAbandon]

variable {asid : BitVec 16} {page ea : Nat} {l : Leaf} (h : s.homeLeaf tw (s.self * 2 ^ 46 + frame * 65536 % 2 ^ 46) = some (asid, page, ea, l))
include h

theorem migrate_skipped (hp : l.bit 9 = true) : s.migrate tw frame src = s.onTower tw fun w => { w with migPskip := w.migPskip + 1 } := by
  simp only [State.migrate, h, hp, if_true]

variable (hp : l.bit 9 = false)
include hp

theorem migrate_bound (hb : (s.tower tw).migBound ≤ s.migrations asid page) :
    s.migrate tw frame src = s.onTower tw fun w => { w with migBskip := w.migBskip + 1 } := by
  simp only [State.migrate, h, hp, hb, Bool.false_eq_true, if_false, if_true]

variable (hb : s.migrations asid page < (s.tower tw).migBound)
include hb

theorem migrate_stays (hs : (l.large || l.ws || l.m || l.vw || l.h || l.glob || decide (l.kind = 2)) = true) : s.migrate tw frame src = s := by
  simp only [State.migrate, h, hp, Nat.not_le.mpr hb, hs, Bool.false_eq_true, if_false, if_true]

variable (hs : (l.large || l.ws || l.m || l.vw || l.h || l.glob || decide (l.kind = 2)) = false)
include hs

theorem migrate_refused (hf : (s.free 13).getLsbD 0 = true) : s.migrate tw frame src = s.onTower tw fun w => { w with migAband := w.migAband + 1 } := by
  simp only [State.migrate, h, hp, Nat.not_le.mpr hb, hs, hf, Bool.false_eq_true, if_false, if_true, State.migAbandon]

/-- A page that migrates is counted and its old frame forwarded, in its own tower. -/
theorem migrate_done (hf : (s.free 13).getLsbD 0 = false) (ht : tw < s.towers.length) :
    (s.migrate tw frame src).tower tw = { ((s.tower tw).shoot (.range asid page 1)).noteMigration asid page s.time with
      migDone := (s.tower tw).migDone + 1
      forwards := (s.tower tw).forwards
        ++ [⟨(s.self * 2 ^ 46 + frame * 65536 % 2 ^ 46) / 65536, src % 64 * 2 ^ 30 + (s.free 14).toNat % 2 ^ 30, s.time⟩] } := by
  unfold State.migrate
  dsimp only
  rw [h]
  dsimp only
  rw [hp, if_neg Bool.false_ne_true, if_neg (Nat.not_le.mpr hb), hs, if_neg Bool.false_ne_true, hf, if_neg Bool.false_ne_true,
    shot_tower (partWrites_towers _ _ _ _) ht, partWrites_time] <;> rfl

end

theorem forward_expires {f : Forward} (hf : (s.tower tw).forwards.find? (fun f => decide (f.lastAt + 10000000 ≤ s.time)) = some f)
    (hp : (s.tower tw).migPool.getLsbD 0 = false) :
    exec (.forwardExpiry tw) s = .next (s.onTower tw fun w => { w with migPool := w64 (3 + f.frame % 2 ^ 36 * 65536), forwards := w.forwards.erase f }).tick := by
  show execForwardExpiry tw s = _
  simp only [execForwardExpiry, hf, hp, Bool.false_eq_true, if_false]

end

/-! ### Gangs (20 R401 to R403) -/

section
variable {s : State} {n p : Nat} {g : Gang} (hg : s.gang? n = some g)
include hg

section
variable (ha : g.st = .armed) (hs : g.start ≤ s.time) (hd : s.dispatchHeld = false)
include ha hs hd

theorem gang_places {m : Word} {t : State} (hm : s.gangNext g = some m) (ht : s.placeMember g m = some t) : exec (.gangPlace n) s = .next t.tick := by
  show execGangPlace n s = _
  simp only [execGangPlace, hg, ha, Nat.not_lt.mpr hs, hd, ne_eq, not_true_eq_false, Bool.false_eq_true, or_self, if_false, hm, ht]

theorem gang_placed (hm : s.gangNext g = none) (hl : g.lead ≠ s.self) :
    exec (.gangPlace n) s = .next (State.tick { ((s.onGang n fun x => { x with st := .placed }).gangStatus g 2) with
      outbox := ((s.onGang n fun x => { x with st := .placed }).gangStatus g 2).outbox ++ [.gangReady n g.lead] }) := by
  show execGangPlace n s = _
  simp only [execGangPlace, hg, ha, Nat.not_lt.mpr hs, hd, ne_eq, not_true_eq_false, Bool.false_eq_true, or_self, if_false, hm, hl]

end

theorem gang_early (h : s.time < g.start) : exec (.gangPlace n) s = .next s := by
  show execGangPlace n s = _
  simp only [execGangPlace, hg, h, true_or, or_true, if_true]

theorem gangReady_taken (hl : g.lead = s.self) (hp : g.pkgs.getLsbD p = true) (hne : p ≠ s.self) (hs : g.sent = none) (hr : p ∉ g.ready) :
    exec (.gangReady n p) s = .next (s.takeReady n p).tick := by
  have hc : g.ready.contains p = false := Bool.eq_false_iff.mpr (mt List.contains_iff_mem.mp hr)
  show execGangReady n p s = _
  simp only [execGangReady, hg, hl, hp, hne, hs, hc, ne_eq, not_false_eq_true, Bool.false_eq_true, and_self, if_true]

theorem takeReady_sent {b : Bool} (hs : g.sent = some b) : (s.takeReady n p).outbox = s.outbox := by
  simp only [State.takeReady, hg, hs, Option.isNone_some, Bool.false_and, Bool.false_eq_true, if_false, State.onGang]

theorem gang_starts (hst : g.st = .placed) (hl : g.lead = s.self → g.sent = some true) :
    exec (.gangGo n) s = .next ((((({ s with ctxs := s.ctxs.map fun c : Ctx => if g.placed c then { c with frozen := false } else c } : State).onTower g.tower fun t =>
      { t with tasks := t.tasks.map fun x : TaskInfo => if x.gang = some n then { x with gang := none } else x }).onGang n fun x => { x with st := .running }).gangStatus g 4).tick) := by
  have hgo : ¬(g.lead = s.self ∧ g.sent ≠ some true) := fun ⟨h₁, h₂⟩ => h₂ (hl h₁)
  show execGangGo n s = _
  simp only [execGangGo, hg, hst, ne_eq, not_true_eq_false, false_or, hgo, if_false]

theorem gang_aborts (hst : g.st = .armed ∨ g.st = .placed) (hl : g.lead = s.self → g.sent = some false) :
    exec (.gangAbort n) s = .next (((g.members.foldl (fun u r => u.dropMember g r) s).onGang n fun x => { x with st := .aborted }).gangStatus g 5).tick := by
  have hgo : ¬(g.st = .running ∨ g.st = .aborted ∨ (g.lead = s.self ∧ g.sent ≠ some false)) := by
    rintro (h | h | ⟨h₁, h₂⟩)
    · rcases hst with hst | hst <;> cases hst.symm.trans h
    · rcases hst with hst | hst <;> cases hst.symm.trans h
    · exact h₂ (hl h₁)
  show execGangAbort n s = _
  simp only [execGangAbort, hg, hgo, if_false]

variable (hlate : g.late = false) (hsent : g.sent = none) (hst : g.st = .armed ∨ g.st = .placed)
include hlate hsent hst

omit hg hlate hsent in
theorem unsettled : g.st ≠ .running ∧ g.st ≠ .aborted := by
  rcases hst with h | h <;> rw [h] <;> exact ⟨nofun, nofun⟩

theorem grace_member (hl : g.lead ≠ s.self) :
    exec (.gangGraceExpiry n) s = .next ((s.onGang n fun x => { x with late := true }).gangStatus g 3).tick := by
  show execGangGraceExpiry n s = _
  simp only [execGangGraceExpiry, hg, hlate, hsent, unsettled hst, hl, Option.isSome_none, Bool.false_eq_true, false_and, or_self, if_false, ne_eq,
    not_false_eq_true, if_true]

theorem grace_early (hl : g.lead = s.self) (ht : s.time < g.start + g.grace * 1000) : exec (.gangGraceExpiry n) s = .next s := by
  show execGangGraceExpiry n s = _
  simp only [execGangGraceExpiry, hg, hl, ht, and_self, or_true, if_true]

theorem grace_leader (hl : g.lead = s.self) (ht : g.start + g.grace * 1000 ≤ s.time) (ha : g.abort = false) :
    let u := (s.onGang n fun x => { x with late := true }).gangStatus g 3
    exec (.gangGraceExpiry n) s = .next ({ u with outbox := u.outbox ++ (s.otherPackages g).map fun p => .gangLate n p } : State).tick := by
  show execGangGraceExpiry n s = _
  simp only [execGangGraceExpiry, hg, hlate, hsent, unsettled hst, hl, Nat.not_lt.mpr ht, Option.isSome_none, Bool.false_eq_true, and_false, or_self,
    if_false, ne_eq, not_true_eq_false, ha]

end

/-! ### Checkpoints (20 R404) -/

/-- The cells of a memory that a filter keeps read as before. -/
theorem get_filter_kept {m : Memory} {a : Nat} {p : Host.Cell → Bool} (h : ∀ b : Host.Cell, b.1 = a → p b = true) :
    Memory.get (m.filter p) a = Memory.get m a := by
  induction m with
  | nil => rfl
  | cons x m ih =>
    rw [List.filter_cons]
    by_cases hx : x.1 = a
    · rw [if_pos (h x hx)]
      exact (if_pos hx).trans (if_pos hx).symm
    · split
      · exact (if_neg hx).trans (ih.trans (if_neg hx).symm)
      · exact ih.trans (if_neg hx).symm

/-- An address that a checkpoint's image holds: one of this package's HBM or weight store. -/
def Imaged (s : State) (a : Nat) : Prop := s.isFar a = false ∧ ∃ t, paKind a = .hbm t ∨ ∃ r, paKind a = .weight t r

/-- The cells that a restore keeps: everything outside its image. -/
def keptCell (s : State) (b : Host.Cell) : Bool := s.isFar b.1 || (match paKind b.1 with
  | .hbm _ => false
  | .weight _ _ => false
  | _ => true)

theorem keptCell_iff {s : State} {b : Host.Cell} : keptCell s b = true ↔ ¬Imaged s b.1 := by
  unfold keptCell Imaged
  cases s.isFar b.1 <;> cases paKind b.1 <;> simp

section
variable {s : State} {k : Ckpt} {img : List (Nat × BitVec 8)} (hk : s.ckptRun = some k)
include hk

theorem checkpoint_waits (hb : 0 < k.behind) (hf : s.fwAsked = true) (b : Bool) : exec (.checkpointDone b img) s = .next s := by
  have hs : ({ s with ckptRun := some k } : State) = s := by rw [← hk]
  show execCheckpointDone b img s = _
  simp only [execCheckpointDone, hk, hb, hf, decide_true, Bool.and_self, if_true, hs]

variable (hb : k.behind = 0 ∨ s.fwAsked = false)
include hb

omit hk in
theorem checkpoint_free : (decide (0 < k.behind) && s.fwAsked) = false := by
  rcases hb with h | h
  · rw [h]; rfl
  · rw [h, Bool.and_false]

theorem checkpoint_failed : exec (.checkpointDone true img) s = .next (({ s with ckptRun := none } : State).putStatus k.tower k.asid k.status 4).tick := by
  show execCheckpointDone true img s = _
  simp only [execCheckpointDone, hk, checkpoint_free hb, Bool.false_eq_true, if_false, if_true]

theorem checkpoint_restored (hr : k.restore = true) :
    exec (.checkpointDone false img) s = .next (({ s with
      ckptRun := none
      snoop := []
      outbox := s.outbox ++ s.snoop.map Out.backInvalidate
      mem := (img.filter fun b => decide (b.1 < 1158 * 2 ^ 30)).foldl (fun m b => Memory.set m (s.imagePa b.1) b.2) (s.mem.filter (keptCell s)) } : State).putStatus
        k.tower k.asid k.status 2).tick := by
  show execCheckpointDone false img s = _
  simp only [execCheckpointDone, hk, checkpoint_free hb, hr, Bool.false_eq_true, if_false, if_true] <;> rfl

theorem checkpoint_taken (hr : k.restore = false) :
    exec (.checkpointDone false img) s = .next (State.tick
      (({ s with ckptRun := none, outbox := s.outbox ++ [.checkpoint k.port k.target s.image] } : State).putStatus k.tower k.asid k.status 2)) := by
  show execCheckpointDone false img s = _
  simp only [execCheckpointDone, hk, checkpoint_free hb, hr, Bool.false_eq_true, if_false] <;> rfl

end

/-- Settles O52: host writes in their windows, migration by the leaf and the bound, gangs by their state, checkpoints by their kind. -/
theorem hostAndGangEvents : Obligations.HostAndGangEvents := by
  refine fun s tw win off n p v x bs => ⟨rfl, fun ht hw => window_writes ht hw bs x, fun ht hw ho => windowRegister_written ht hw ho v, fun ht => submit_nowhere ht bs,
    fun w => ⟨rfl, rfl, rfl, rfl, rfl⟩, fun rec_ code cval rest => completion_written, completion_waits, fun ht hd => ⟨hotWindow_off ht hd, hotWindow_migrates ht hd⟩,
    hotWindow_early, fun frame src => ⟨migrate_abandoned, fun asid page ea l h => ⟨migrate_skipped h, migrate_bound h,
      fun hp hb => ⟨migrate_stays h hp hb, migrate_refused h hp hb, fun hs hf => ⟨src % 64 * 2 ^ 30 + (s.free 14).toNat % 2 ^ 30, fun ht => ?_⟩⟩⟩⟩,
    fun f => forward_expires, fun g hg => ⟨fun m t ha hs hd => gang_places hg ha hs hd, gang_placed hg, gang_early hg, gangReady_taken hg, gang_starts hg,
      fun hlate hsent hst => ⟨grace_member hg hlate hsent hst, grace_early hg hlate hsent hst, grace_leader hg hlate hsent hst⟩,
      fun b hs => takeReady_sent hg hs, gang_aborts hg⟩,
    fun k img hk hb hf b => checkpoint_waits hk hb hf b, fun k img hk hb => checkpoint_failed hk hb, fun k img hk hb hr => ?_,
    fun k img hk hb => checkpoint_taken hk hb⟩
  · intro m
    have hm : m = _ := migrate_done h hp hb hs hf ht
    rw [hm]
    exact ⟨rfl, rfl, rfl, rfl, rfl⟩
  · intro store u
    refine ⟨(checkpoint_restored hk hb hr).trans rfl, fun hok hi => ⟨fun a ha => ?_, fun a ha => ?_⟩⟩
    · subst hi
      exact get_filter_dropped (p := keptCell s) fun b hb => by
        rw [← Bool.not_eq_true, keptCell_iff, hb]
        exact not_not.mpr ha
    · subst hi
      exact get_filter_kept (p := keptCell s) fun b hb => by
        rw [keptCell_iff, hb]
        exact ha

end Sys2Proof.HostEvents
end

section
/-! The mailbox commands and the firmware update (21 R415; 23 R420 to R428). -/

namespace Sys2Proof.MailboxEvents

-- One proof at a time: proofs checked side by side take each a stack of memory.
set_option Elab.async false

open Sys2Proof.Machine

/-! ### What ends a command (23 R425) -/

section
variable (s : State) (m : Nat)

theorem mboxReply_mem (bs : List (BitVec 8)) : (s.mboxReply m bs).mem = (s.pwrite (s.bufferPa m) bs).mem := rfl

theorem mboxEnd_status (st : Word) (h : m < s.mboxes.length) : ((s.mboxEnd m st).mbox m).status = st := by
  rw [State.mbox, State.mboxEnd, List.getElem?_modify_eq, List.getElem?_eq_getElem h]
  rfl

theorem mboxEnd_served (st : Word) : m ∉ (s.mboxEnd m st).mboxQueue := fun h => by
  have hm := (List.mem_filter.mp h).2
  rw [decide_eq_true rfl] at hm
  cases hm

theorem errorStatus_error : 2 ≤ s.errorStatus.toNat := by
  rw [State.errorStatus, w64, BitVec.toNat_ofNat]
  omega

theorem extend_measure {i : Nat} {d : List (BitVec 8)} {x : BitVec 256} (h : s.measures[i]? = some x) :
    (s.extend i d).measures[i]? = some (BitVec.ofNat 256 (bytesToNat (sha256 (natToBytes 32 x.toNat ++ d)))) := by
  rw [State.extend, List.getElem?_modify_eq, h]
  rfl

end

/-! ### The eight commands -/

section
variable {s : State} {m : Nat}

/-- A mailbox that is not at the head of the queue, or whose command is another, is not served. -/
theorem mboxServe_other {code : Nat} {f : State → State} (h : (s.mbox m).cmd.toNat ≠ code) : mboxServe s m code f = .next s :=
  if_neg fun ⟨_, hc, _⟩ => h hc

theorem fuseadv_other (h : (s.mbox m).cmd.toNat ≠ 5) : exec (.fuseadv m) s = .next s := by
  show execFuseadv m s = _
  rw [execFuseadv, mboxServe_other h]

variable (hq : s.mboxQueue.head? = some m) (hw : s.fwWait = none)
include hq hw

/-- The oldest command is served while no update waits. -/
theorem mboxServe_head {code : Nat} (f : State → State) (h : (s.mbox m).cmd.toNat = code) : mboxServe s m code f = .next (f s).tick :=
  if_pos ⟨hq, h, hw⟩

theorem attest_reports (h : (s.mbox m).cmd.toNat = 1) (r : List (BitVec 8)) (hr : s.report (s.buffer m 32) = r) :
    exec (.attest m) s = .next (s.mboxReply m (r ++ (Config.attestSignature r ++ List.replicate 384 0).take 384)).tick := by
  show execAttest m s = _
  unfold execAttest
  rw [mboxServe_head hq hw _ h, hr]

theorem sealImage_seals (h : (s.mbox m).cmd.toNat = 2) (b : List (BitVec 8)) (hb : s.buffer m 4096 = b) :
    exec (.sealImage m) s = .next (s.mboxReply m (hmac Config.sealKey (b.take (Config.imageBytes b)))).tick := by
  show execSealImage m s = _
  unfold execSealImage
  rw [mboxServe_head hq hw _ h, hb]

theorem checkImage_judges (h : (s.mbox m).cmd.toNat = 3) (x : List (BitVec 8)) (hx : (s.buffer m 4096).take (Config.imageBytes (s.buffer m 4096)) = x) :
    exec (.checkImage m) s = .next (s.mboxReply m (natToBytes 8
      (Config.verdictWord (decide (32 ≤ x.length) && decide (hmac Config.sealKey (x.take (x.length - 32)) = x.drop (x.length - 32)))).toNat)).tick := by
  show execCheckImage m s = _
  unfold execCheckImage
  rw [mboxServe_head hq hw _ h]
  dsimp only
  rw [hx]

theorem fwupdate_waits (h : (s.mbox m).cmd.toNat = 6) : exec (.fwupdate m) s = .next ({ s with fwWait := some (m, bytesToNat (s.buffer m 8)) } : State).tick := by
  show execFwupdate m s = _
  unfold execFwupdate
  rw [mboxServe_head hq hw _ h]

theorem telemetry_tells (h : (s.mbox m).cmd.toNat = 8) (t : State) (ht : ({ s with corrected := s.corrected + (s.free 25).toNat % 2 ^ 32 } : State) = t) :
    exec (.telemetry m) s = .next (t.mboxReply m
      (([(t.free 16).toNat, (t.free 17).toNat, t.corrected, t.flitRetries, t.routeIgnored] : List Nat).flatMap fun x => natToBytes 8 x)).tick := by
  show execTelemetry m s = _
  unfold execTelemetry
  rw [mboxServe_head hq hw _ h, ht]

section
variable {v : Nat} (hv : bytesToNat (s.buffer m 8) = v)
include hv

section
variable (h : (s.mbox m).cmd.toNat = 4)
include h

theorem setcap_set (h₁ : 1500 ≤ v) (h₂ : v ≤ 4600) (h₃ : v % 50 = 0) (ht : s.throttling = false) :
    exec (.setcap m) s = .next (({ s with cap := v, clock := capClock v, share := capShare v, capOverAt := if capShare v = 1 then some s.time else none } : State).mboxEnd m 1).tick := by
  have hok : ¬(v < 1500 ∨ 4600 < v ∨ v % 50 ≠ 0) := by omega
  show execSetcap m s = _
  unfold execSetcap
  rw [mboxServe_head hq hw _ h, hv]
  dsimp only
  rw [if_neg hok, ht] <;> rfl

theorem setcap_refused (hbad : v < 1500 ∨ 4600 < v ∨ v % 50 ≠ 0) : exec (.setcap m) s = .next (s.mboxEnd m s.errorStatus).tick := by
  show execSetcap m s = _
  unfold execSetcap
  rw [mboxServe_head hq hw _ h, hv]
  dsimp only
  rw [if_pos hbad]

end

section
variable (h : (s.mbox m).cmd.toNat = 7)
include h

theorem extend_extends (h₁ : 8 ≤ v) (h₂ : v ≤ 15) : exec (.extend m) s = .next ((s.extend v ((s.buffer m 40).drop 8)).mboxEnd m 1).tick := by
  show execExtend m s = _
  unfold execExtend
  rw [mboxServe_head hq hw _ h, hv]
  dsimp only
  rw [if_pos ⟨h₁, h₂⟩]

theorem extend_refused (hr : v < 8 ∨ 15 < v) : exec (.extend m) s = .next (s.mboxEnd m s.errorStatus).tick := by
  have hbad : ¬(8 ≤ v ∧ v ≤ 15) := by omega
  show execExtend m s = _
  unfold execExtend
  rw [mboxServe_head hq hw _ h, hv]
  dsimp only
  rw [if_neg hbad]

end

end

section
variable (h : (s.mbox m).cmd.toNat = 5)
include h

theorem fuseadv_counts (hf : s.fuses < 64) :
    exec (.fuseadv m) s = .next (({ s with fuses := s.fuses + 1 } : State).mboxReply m (natToBytes 8 (s.fuses + 1))).tick := by
  show execFuseadv m s = _
  unfold execFuseadv
  rw [mboxServe_head hq hw _ h, if_pos hf]

theorem fuseadv_full (hf : 64 ≤ s.fuses) : exec (.fuseadv m) s = .next (s.mboxEnd m s.errorStatus).tick := by
  show execFuseadv m s = _
  unfold execFuseadv
  rw [mboxServe_head hq hw _ h, if_neg (Nat.not_lt.mpr hf)]

end

end

/-! ### The firmware update (23 R428) -/

section
variable {s : State}

theorem install_behind {k : Ckpt} (hk : s.ckptRun = some k) (hb : k.behind = 0) : exec .fwupdateInstall s = .next s := by
  show execFwupdateInstall s = _
  unfold execFwupdateInstall
  split
  · rfl
  · simp only [hk, hb, Nat.lt_irrefl, decide_false, Bool.not_false, Bool.true_or, if_true]

theorem install_busy (hq : s.quiesced = false) : exec .fwupdateInstall s = .next s := by
  show execFwupdateInstall s = _
  unfold execFwupdateInstall
  split
  · rfl
  · simp only [hq, Bool.not_false, Bool.or_true, if_true]

/-- The image in the buffer as a boot stage: its bytes, its signature and its version. -/
def imageAt (s : State) (pa : Nat) : BootStage :=
  let bytes := s.paBytes pa (Config.firmwareBytes (s.paBytes pa 64))
  ⟨bytes.take (Config.firmwareSplit bytes), bytes.drop (Config.firmwareSplit bytes), Config.firmwareVersion bytes⟩

/-- The state once the update has had its turn: nothing waits, and a checkpoint asked for later is one nearer. -/
def updateTaken (s : State) : State := { s with fwWait := none, ckptRun := s.ckptRun.map fun k => { k with behind := k.behind - 1 } }

variable {m pa : Nat} (hw : s.fwWait = some (m, pa)) (hk : ∀ k, s.ckptRun = some k → 0 < k.behind) (hq : s.quiesced = true)
include hw hk hq

theorem install_judges :
    exec .fwupdateInstall s = if stageOk s.fuses (imageAt s pa) then .next (((updateTaken s).extend 7 (sha256 (imageAt s pa).image)).mboxEnd m 1).tick
      else .next ((updateTaken s).mboxEnd m (updateTaken s).errorStatus).tick := by
  have hfirst : (match s.ckptRun with
      | none => true
      | some k => decide (0 < k.behind)) = true := by
    split
    · rfl
    · next k hck => exact decide_eq_true (hk k hck)
  show execFwupdateInstall s = _
  unfold execFwupdateInstall
  rw [hw]
  dsimp only
  refine (if_neg fun hno => ?_).trans rfl
  rw [hq, Bool.not_true, Bool.or_false, Bool.not_eq_true'] at hno
  exact Bool.false_ne_true (hno.symm.trans hfirst)

theorem install_installs (hs : Config.signatureOk (imageAt s pa).image (imageAt s pa).signature = true) (hv : s.fuses ≤ (imageAt s pa).version) :
    exec .fwupdateInstall s = .next (((updateTaken s).extend 7 (sha256 (imageAt s pa).image)).mboxEnd m 1).tick := by
  rw [install_judges hw hk hq, stageOk, hs, decide_eq_true hv]
  exact if_pos rfl

theorem install_fails (h : Config.signatureOk (imageAt s pa).image (imageAt s pa).signature = false ∨ (imageAt s pa).version < s.fuses) :
    exec .fwupdateInstall s = .next ((updateTaken s).mboxEnd m (updateTaken s).errorStatus).tick := by
  have hbad : stageOk s.fuses (imageAt s pa) = false := by
    rw [stageOk]
    rcases h with h | h
    · rw [h, Bool.false_and]
    · rw [decide_eq_false (Nat.not_le.mpr h), Bool.and_false]
  rw [install_judges hw hk hq, hbad]
  exact if_neg Bool.false_ne_true

end

/-- Settles O53: the oldest command by its code and its operands, and the update at a quiesce point. -/
theorem mailboxCommands : Obligations.MailboxCommands := by
  refine ⟨fun s m hq hw => ?_, fun s m pa hw hk hqu => ?_, fun s k => install_behind, fun s => install_busy⟩
  · intro cmd done
    refine ⟨fun h => attest_reports hq hw h _ rfl, fun h => sealImage_seals hq hw h _ rfl, fun h => checkImage_judges hq hw h _ rfl, fun h => ?_,
      fun h => ⟨fuseadv_counts hq hw h, fuseadv_full hq hw h⟩, fwupdate_waits hq hw, fun h => ?_, fun h => telemetry_tells hq hw h _ rfl,
      fuseadv_other, errorStatus_error s, fun bs st => ⟨mboxReply_mem s m bs, mboxEnd_status s m st, mboxEnd_served s m st⟩,
      fun i d x => extend_measure s⟩
    · intro v
      exact ⟨setcap_set hq hw rfl h, setcap_refused hq hw rfl h⟩
    · intro r
      exact ⟨extend_extends hq hw rfl h, extend_refused hq hw rfl h⟩
  · intro bytes x u
    exact ⟨install_installs hw hk hqu, install_fails hw hk hqu⟩

end Sys2Proof.MailboxEvents
end

section
/-! The power cap, throttling, shutdown, repair and the package reset (20 R393; 23 R420 to R427). -/

namespace Sys2Proof.PowerEvents

-- One proof at a time: proofs checked side by side take each a stack of memory.
set_option Elab.async false

open Sys2Proof.Machine

/-! ### Power and heat (23 R420, R421) -/

section
variable {s : State}

theorem capOverrun_reported {a : Nat} (ha : s.capOverAt = some a) (ht : a + 10000000 ≤ s.time) (hs : s.share = 1) :
    exec .capOverrun s = .next (({ s with capOverAt := some s.time } : State).fqMachine 0 0 0 2).tick := by
  show execCapOverrun s = _
  simp only [execCapOverrun, ha, ht, hs, and_self, if_true]

theorem throttle_begins (h : s.throttling = false) :
    exec .thermalThrottle s = .next (({ s with throttling := true, stepAt := s.time } : State).fqMachine 0 0 0 1).tick := by
  show execThermalThrottle s = _
  simp only [execThermalThrottle, h, Bool.false_eq_true, if_false]

theorem capSteps_4600 : capSteps 4600 = 0 := rfl

theorem capClock_range (k : Nat) : 1050 ≤ capClock k ∧ capClock k ≤ 2100 := by
  have hmin : Nat.min 21 (capSteps k) ≤ 21 := Nat.min_le_left _ _
  unfold capClock
  omega

theorem capSteps_le (k : Nat) : capSteps k ≤ 28 := by
  unfold capSteps
  split <;> omega

theorem capShare_range (k : Nat) : 1 ≤ capShare k ∧ capShare k ≤ 8 := by
  have hsteps := capSteps_le k
  unfold capShare
  omega

variable (h : s.throttling = true)
include h

theorem throttleStep_early (ht : s.time < s.stepAt + 100000) : exec .throttleStep s = .next s := by
  show execThrottleStep s = _
  simp only [execThrottleStep, ht, decide_true, Bool.or_true, if_true]

section
variable (ht : s.stepAt + 100000 ≤ s.time)
include ht

theorem throttleStep_clock (hc : 1050 < s.clock) : exec .throttleStep s = .next ({ s with clock := s.clock - 50, stepAt := s.time } : State).tick := by
  show execThrottleStep s = _
  simp only [execThrottleStep, h, Nat.not_lt.mpr ht, hc, decide_false, Bool.not_true, Bool.or_self, Bool.false_eq_true, if_false, if_true]

theorem throttleStep_share (hc : s.clock ≤ 1050) (hs : 1 < s.share) : exec .throttleStep s = .next ({ s with share := s.share - 1, stepAt := s.time } : State).tick := by
  show execThrottleStep s = _
  simp only [execThrottleStep, h, Nat.not_lt.mpr ht, Nat.not_lt.mpr hc, hs, decide_false, Bool.not_true, Bool.or_self, Bool.false_eq_true, if_false, if_true]

end

section
variable (ht : s.stepAt + 1000000 ≤ s.time)
include ht

theorem throttleRecovery_share (hs : s.share < capShare s.cap) :
    exec .throttleRecovery s = .next ({ s with share := s.share + 1, stepAt := s.time } : State).tick := by
  show execThrottleRecovery s = _
  simp only [execThrottleRecovery, h, Nat.not_lt.mpr ht, hs, decide_false, Bool.not_true, Bool.or_self, Bool.false_eq_true, if_false, if_true]

variable (hs : capShare s.cap ≤ s.share)
include hs

theorem throttleRecovery_clock (hc : s.clock < capClock s.cap) :
    exec .throttleRecovery s = .next ({ s with clock := s.clock + 50, stepAt := s.time } : State).tick := by
  show execThrottleRecovery s = _
  simp only [execThrottleRecovery, h, Nat.not_lt.mpr ht, Nat.not_lt.mpr hs, hc, decide_false, Bool.not_true, Bool.or_self, Bool.false_eq_true, if_false, if_true]

theorem throttleRecovery_ends (hc : capClock s.cap ≤ s.clock) :
    exec .throttleRecovery s = .next ({ s with throttling := false, stepAt := s.time } : State).tick := by
  show execThrottleRecovery s = _
  simp only [execThrottleRecovery, h, Nat.not_lt.mpr ht, Nat.not_lt.mpr hs, Nat.not_lt.mpr hc, decide_false, Bool.not_true, Bool.or_self, Bool.false_eq_true,
    if_false]

end

end

/-! ### Errors of memory and their repair (23 R426, R427; log 81) -/

section
variable {s : State} {pa : Nat}

theorem contains_false {α : Type} [BEq α] [LawfulBEq α] {a : α} {xs : List α} (h : a ∉ xs) : xs.contains a = false :=
  Bool.eq_false_iff.mpr (mt List.contains_iff_mem.mp h)

theorem contains_true {α : Type} [BEq α] [LawfulBEq α] {a : α} {xs : List α} (h : a ∈ xs) : xs.contains a = true := List.contains_iff_mem.mpr h

theorem scrub_notlive (h : s.live pa = false) : exec (.patrolScrub pa true) s = .next s := by
  show execPatrolScrub pa true s = _
  simp only [execPatrolScrub, h, Bool.not_false, Bool.or_true, if_true]

theorem ecc_l1 (h : 2 ^ 53 ≤ pa) : exec (.eccUncorrectable pa) s = .next (s.spoilL1 ((pa - 2 ^ 53) / 2 ^ 20) ((pa - 2 ^ 53) % 2 ^ 20)) := if_pos h

theorem ecc_scratch (h : 2 ^ 52 ≤ pa) (h' : pa < 2 ^ 53) :
    exec (.eccUncorrectable pa) s = .next (s.spoilScratch ((pa - 2 ^ 52) / 2 ^ 20) ((pa - 2 ^ 52) % 2 ^ 20)) :=
  (if_neg (Nat.not_le.mpr h')).trans (if_pos h)

variable {t : Nat} (hf : s.isFar pa = false) (ht : paTower pa = some t)
include hf ht

/-- An error below 2^52 names a line of memory, which is marked once. -/
theorem ecc_line (h : pa < 2 ^ 52) :
    exec (.eccUncorrectable pa) s = if s.badLines.contains (pa / 64) then .next s else .next ({ s with badLines := s.badLines ++ [pa / 64] } : State).tick := by
  have h₁ : ¬2 ^ 53 ≤ pa := by omega
  have h₂ : ¬2 ^ 52 ≤ pa := by omega
  have hin : (s.isFar pa || (paTower pa).isNone || s.badLines.contains (pa / 64)) = s.badLines.contains (pa / 64) := by rw [hf, ht]; rfl
  refine (if_neg h₁).trans ((if_neg h₂).trans ?_)
  rw [hin]

theorem scrub_finds (hl : s.live pa = true) (hm : pa / 64 ∉ s.badLines) :
    exec (.patrolScrub pa true) s = .next (({ s with badLines := s.badLines ++ [pa / 64] } : State).eccEntry pa).tick := by
  show execPatrolScrub pa true s = _
  simp only [execPatrolScrub, hf, ht, hl, contains_false hm, Option.isNone_some, Bool.not_true, Bool.or_self, Bool.true_or, Bool.false_eq_true, if_false, if_true]

theorem scrub_meets (hl : s.live pa = true) (hm : pa / 64 ∈ s.badLines) : exec (.patrolScrub pa false) s = .next (s.eccEntry pa).tick := by
  show execPatrolScrub pa false s = _
  simp only [execPatrolScrub, hf, ht, hl, contains_true hm, Option.isNone_some, Bool.not_true, Bool.or_self, Bool.or_true, Bool.false_eq_true, if_false, if_true]

end

section
variable {s : State} {tw n : Nat}

theorem cluster_retired (ht : tw < 6) (hn : n < 64) (hr : n ∉ (s.tower tw).retiredClusters) :
    exec (.clusterRetire tw n) s = .next (State.tick { (s.onTower tw fun t => { t with retiredClusters := t.retiredClusters ++ [n] }) with
      ctxs := s.ctxs.map fun c : Ctx => if c.inCluster tw n then { c with eccStop := true } else c }) := by
  have hgo : ¬(Config.towers ≤ tw ∨ 64 ≤ n ∨ (s.tower tw).retiredClusters.contains n = true) := by
    rw [contains_false hr]
    rintro (h | h | h)
    · exact absurd ht (Nat.not_lt.mpr h)
    · omega
    · cases h
  exact if_neg hgo

variable (hn : n < 384) (hr : n ∉ s.retiredSlices) (hl : s.retiredSlices.length < 383)
include hn hr hl

theorem slice_open : ¬(384 ≤ n ∨ s.retiredSlices.contains n = true ∨ 383 ≤ s.retiredSlices.length) := by
  rw [contains_false hr]
  rintro (h | h | h)
  · omega
  · cases h
  · omega

theorem slice_retired (hq : s.quiesced = true) : exec (.l2SliceRetire n) s = .next (s.retireSlice n).tick :=
  (if_neg (slice_open hn hr hl)).trans (if_pos hq)

theorem slice_waits (hq : s.quiesced = false) (hw : n ∉ s.sliceWait) :
    exec (.l2SliceRetire n) s = .next ({ s with sliceWait := s.sliceWait ++ [n] } : State).tick := by
  refine (if_neg (slice_open hn hr hl)).trans ?_
  rw [hq, contains_false hw]
  rfl

end

section
variable {s : State} {n : Nat}

theorem row_spared (h : n ∉ s.sparedRows) : exec (.hbmRowSpare n) s = .next ({ s with sparedRows := s.sparedRows ++ [n] } : State).tick :=
  if_neg (by rw [contains_false h]; exact Bool.false_ne_true)

theorem port_degraded {k lanes : Nat} (hk : s.cxlLanes[n]? = some k) (hl : lanes = 8 ∨ lanes = 4) (hlt : lanes < k) :
    exec (.cxlPortDegrade n lanes) s = .next ({ s with cxlLanes := s.cxlLanes.set n lanes } : State).tick := by
  show execCxlPortDegrade n lanes s = _
  simp only [execCxlPortDegrade, hk, hl, hlt, and_self, if_true]

end

/-! ### The package reset (23 R422; 20 R393; log 80) -/

/-- What the boot of a package keeps: its fuse counter, its number and its memory. -/
def BootKeeps (s t : State) : Prop := t.fuses = s.fuses ∧ t.self = s.self ∧ t.mem = s.mem

theorem BootKeeps.trans {s t u : State} (h : BootKeeps s t) (k : BootKeeps t u) : BootKeeps s u := by
  obtain ⟨h₁, h₂, h₃⟩ := h
  obtain ⟨k₁, k₂, k₃⟩ := k
  exact ⟨k₁.trans h₁, k₂.trans h₂, k₃.trans h₃⟩

theorem boot_keeps (n k : Nat) (xs : List BootStage) (s : State) : BootKeeps s (s.boot n k xs).1 := by
  induction n generalizing k xs s with
  | zero => exact ⟨rfl, rfl, rfl⟩
  | succ n ih =>
    cases xs with
    | nil => exact ⟨rfl, rfl, rfl⟩
    | cons x xs =>
      rw [State.boot]
      split
      · exact .trans ⟨rfl, rfl, rfl⟩ (ih (k + 1) xs _)
      · exact ⟨rfl, rfl, rfl⟩

theorem startSupervisors_keep (tws : List Nat) (s : State) : BootKeeps s (tws.foldl State.startSupervisor s) := by
  induction tws generalizing s with
  | nil => exact ⟨rfl, rfl, rfl⟩
  | cons tw tws ih => exact .trans ⟨rfl, rfl, rfl⟩ (ih _)

/-- The package right after its reset, before the first boot stage. -/
def unbooted (s : State) : State :=
  { State.reset with fuses := s.fuses, self := s.self, routes := (List.replicate 64 (0 : Word)).set s.self 1, agenda := s.agenda, moves := s.moves }

/-- The package once its boot has ended: in reset where a stage was refused or missing, else with its supervisors started. -/
def booted (r : State × Option Nat) : State :=
  match r with
  | (t, some k) => ({ t with inReset := true, mboxes := t.mboxes.map fun b => { b with status := w64 (0x100 + k) } } : State).tick
  | (t, none) => ((List.range Config.towers).foldl State.startSupervisor { t with mboxes := t.mboxes.map fun b => { b with status := 1 } }).tick

theorem mboxes_keep (t : State) (bs : List Mbox) : BootKeeps t { t with mboxes := bs } := ⟨rfl, rfl, rfl⟩

theorem tick_keeps (t : State) : BootKeeps t t.tick := ⟨rfl, rfl, rfl⟩

theorem booted_keeps (r : State × Option Nat) : BootKeeps r.1 (booted r) := by
  obtain ⟨t, _ | k⟩ := r
  · rw [booted]
    exact ((mboxes_keep t _).trans (startSupervisors_keep _ _)).trans (tick_keeps _)
  · exact ⟨rfl, rfl, rfl⟩

theorem packageReset_boots (s : State) (st : List BootStage) : exec (.packageReset st) s = .next (booted ((unbooted s).boot 7 0 st)) := by
  show execPackageReset st s = _
  unfold execPackageReset unbooted
  dsimp only
  split <;> next h => rw [h, booted] <;> rfl

theorem booted_without_stage (t : State) : (booted (t, some 0)).inReset = true ∧ ∀ b ∈ (booted (t, some 0)).mboxes, b.status = 0x100 := by
  refine ⟨rfl, fun b hm => ?_⟩
  obtain ⟨b', -, rfl⟩ := List.mem_map.mp hm
  rfl

theorem packageReset_keeps (s : State) (st : List BootStage) : BootKeeps (unbooted s) (booted ((unbooted s).boot 7 0 st)) :=
  (boot_keeps 7 0 st (unbooted s)).trans (booted_keeps _)

/-- Settles O54: power and heat by their times, errors by their place, repairs by what stands already, and the reset. -/
theorem powerAndRepair : Obligations.PowerAndRepair := by
  refine fun s tw n pa lanes st => ⟨fun a => capOverrun_reported, throttle_begins, fun h ht => ⟨throttleStep_clock h ht, throttleStep_share h ht⟩, throttleStep_early,
    fun h ht => ⟨throttleRecovery_share h ht, throttleRecovery_clock h ht, throttleRecovery_ends h ht⟩, ⟨rfl, rfl, fun k => ?_⟩, rfl,
    fun t hf ht hl h => ⟨fun hm => ⟨?_, scrub_finds hf ht hl hm⟩, fun hm => ⟨?_, scrub_meets hf ht hl hm⟩⟩, scrub_notlive, ecc_l1, ecc_scratch, cluster_retired,
    ⟨rfl, rfl, rfl⟩, fun hn hr hl => ⟨slice_retired hn hr hl, slice_waits hn hr hl⟩, row_spared, fun k => port_degraded, ?_⟩
  · exact ⟨(capClock_range k).1, (capClock_range k).2, capShare_range k⟩
  · rw [ecc_line hf ht h, contains_false hm, if_neg Bool.false_ne_true]
  · rw [ecc_line hf ht h, contains_true hm, if_pos rfl]
  · obtain ⟨hfuses, hself, hmem⟩ := packageReset_keeps s st
    refine ⟨_, packageReset_boots s st, hfuses, hself, hmem, fun h => ?_⟩
    rw [h]
    exact booted_without_stage _

end Sys2Proof.PowerEvents
end

section
/-! The frame of a firing (01 R18, R20, R25). -/

namespace Sys2Proof.FiringFrames

-- One proof at a time: proofs checked side by side take each a stack of memory.
set_option Elab.async false

open Sys2Proof.Machine Sys2Proof.PageWrites

/-! ### What an action that changes the focused clause alone is made of -/

section
variable {s t : State} {i : Instr}

@[simp] theorem frame_waits : (Act.waits t).frame s ↔ OnlyFocus s t := Iff.rfl

@[simp] theorem frame_fires : (Act.fires t).frame s ↔ OnlyFocus s t := Iff.rfl

@[simp] theorem frame_ite {p : Prop} [Decidable p] {a b : Act} (ha : a.frame s) (hb : b.frame s) : (if p then a else b).frame s := by
  split
  · exact ha
  · exact hb

@[simp] theorem focus_ite {p : Prop} [Decidable p] {a b : State} (ha : OnlyFocus s a) (hb : OnlyFocus s b) : OnlyFocus s (if p then a else b) := by
  split
  · exact ha
  · exact hb

@[simp] theorem focus_refl : OnlyFocus s s := .refl s

@[simp] theorem focus_onInst (h : OnlyFocus s t) (f : Inst → Inst) : OnlyFocus s (t.onInst f) := h.onInst f

@[simp] theorem focus_deliver (h : OnlyFocus s t) (k : Token) : OnlyFocus s (t.deliver i k) := h.deliver i k

@[simp] theorem focus_deliverS (h : OnlyFocus s t) (v : Word) : OnlyFocus s (t.deliverS i v) := h.deliverS i v

@[simp] theorem focus_deliverW (h : OnlyFocus s t) (v : Wide) : OnlyFocus s (t.deliverW i v) := h.deliverW i v

@[simp] theorem focus_deliverPoison (h : OnlyFocus s t) (k : Kind) : OnlyFocus s (t.deliverPoison i k) := h.deliverPoison i k

@[simp] theorem focus_raise (h : OnlyFocus s t) (f : Flags) : OnlyFocus s (t.raise f) := h.raise f

@[simp] theorem focus_notePoison (h : OnlyFocus s t) (va : Word) : OnlyFocus s (t.notePoison va) := h.notePoison va

@[simp] theorem focus_effect (h : OnlyFocus s t) (a : Action) : OnlyFocus s (t.effect i a) := h.effect i a

@[simp] theorem focus_effectPoison (h : OnlyFocus s t) (k : Kind) : OnlyFocus s (t.effectPoison i k) := h.effectPoison i k

@[simp] theorem focus_effectBad (h : OnlyFocus s t) (k : Kind) : OnlyFocus s (t.effectBad i k) := h.effectBad i k

end

/-! ### The instructions with an action of their own -/

section
variable {s u : State}

theorem gread_frame {reg : BitVec 6} {d : Dst} (h : execGread reg d s = .next u) : OnlyFocus s u := by
  unfold execGread at h
  refine fire_onlyFocus (fun v => ?_) h
  repeat' split
  all_goals simp

theorem wread_frame {reg : BitVec 4} {d : Dst} (h : execWread reg d s = .next u) : OnlyFocus s u := by
  unfold execWread at h
  refine fire_onlyFocus (fun v => ?_) h
  repeat' split
  all_goals simp

theorem gwrite_frame {pr : Pred} {reg : BitVec 6} (h : execGwrite pr reg s = .next u) : OnlyFocus s u := by
  unfold execGwrite at h
  refine fire_onlyFocus (fun v => ?_) h
  simp

theorem wwrite_frame {pr : Pred} {reg : BitVec 4} (h : execWwrite pr reg s = .next u) : OnlyFocus s u := by
  unfold execWwrite at h
  refine fire_onlyFocus (fun v => ?_) h
  simp

theorem mov_frame {pr : Pred} {d : Dst} (h : execMov pr d s = .next u) : OnlyFocus s u := by
  unfold execMov at h
  refine fire_onlyFocus (fun v => ?_) h
  simp

theorem nop_frame {pr : Pred} (h : execNop pr s = .next u) : OnlyFocus s u := by
  unfold execNop at h
  refine fire_onlyFocus (fun v => ?_) h
  simp

theorem null_frame {pr : Pred} {d : Dst} (h : execNull pr d s = .next u) : OnlyFocus s u := by
  unfold execNull at h
  refine fire_onlyFocus (fun v => ?_) h
  simp

theorem vdqnt_frame {pr : Pred} {d : Dst} (h : execVdqnt pr d s = .next u) : OnlyFocus s u := by
  unfold execVdqnt at h
  refine fire_onlyFocus (fun v => ?_) h
  dsimp only
  repeat' split
  all_goals simp

theorem vred_frame {pr : Pred} {d : Dst} (h : execVred pr d s = .next u) : OnlyFocus s u := by
  unfold execVred at h
  refine fire_onlyFocus (fun v => ?_) h
  dsimp only
  repeat' split
  all_goals simp

theorem vscan_frame {pr : Pred} {d : Dst} (h : execVscan pr d s = .next u) : OnlyFocus s u := by
  unfold execVscan at h
  refine fire_onlyFocus (fun v => ?_) h
  dsimp only
  repeat' split
  all_goals simp

theorem vdot_frame {pr : Pred} {d : Dst} (h : execVdot pr d s = .next u) : OnlyFocus s u := by
  unfold execVdot at h
  refine fire_onlyFocus (fun v => ?_) h
  dsimp only
  repeat' split
  all_goals simp

theorem pref_frame {pr : Pred} {eff : BitVec 5} {wr : Bool} {lvl : PrefLevel} (h : execPref pr eff wr lvl s = .next u) : OnlyFocus s u := by
  unfold execPref at h
  refine fire_onlyFocus (fun v => ?_) h
  simp

theorem tdep_frame {pr : Pred} {eff : BitVec 5} (h : execTdep pr eff s = .next u) : OnlyFocus s u := by
  unfold execTdep at h
  refine fire_onlyFocus (fun v => ?_) h
  repeat' split
  all_goals simp

theorem trange_frame {pr : Pred} {eff : BitVec 5} (h : execTrange pr eff s = .next u) : OnlyFocus s u := by
  unfold execTrange at h
  refine fire_onlyFocus (fun v => ?_) h
  simp

theorem tprio_frame {pr : Pred} {eff : BitVec 5} (h : execTprio pr eff s = .next u) : OnlyFocus s u := by
  unfold execTprio at h
  refine fire_onlyFocus (fun v => ?_) h
  dsimp only
  repeat' split
  all_goals simp

theorem htset_frame {pr : Pred} {eff : BitVec 5} (h : execHtset pr eff s = .next u) : OnlyFocus s u := by
  unfold execHtset at h
  refine fire_onlyFocus (fun v => ?_) h
  dsimp only
  simp

theorem inbox_frame {pr : Pred} {eff : BitVec 5} {take : Bool} {t : Tgt} (h : execInbox pr eff take t s = .next u) : OnlyFocus s u := by
  unfold execInbox at h
  refine fire_onlyFocus (fun v => ?_) h
  dsimp only
  repeat' split
  all_goals simp

theorem henter_frame {pr : Pred} {eff : BitVec 5} (h : execHenter pr eff s = .next u) : OnlyFocus s u := by
  unfold execHenter at h
  refine fire_onlyFocus (fun v => ?_) h
  dsimp only
  repeat' split
  all_goals simp

theorem hleave_frame {pr : Pred} {eff : BitVec 5} (h : execHleave pr eff s = .next u) : OnlyFocus s u := by
  unfold execHleave at h
  refine fire_onlyFocus (fun v => ?_) h
  simp

theorem hstat_frame {pr : Pred} {eff : BitVec 5} {sum : Bool} {t : Tgt} (h : execHstat pr eff sum t s = .next u) : OnlyFocus s u := by
  unfold execHstat at h
  refine fire_onlyFocus (fun v => ?_) h
  dsimp only
  repeat' split
  all_goals simp

theorem vwdrop_frame {pr : Pred} {eff : BitVec 5} (h : execVwdrop pr eff s = .next u) : OnlyFocus s u := by
  unfold execVwdrop at h
  refine fire_onlyFocus (fun v => ?_) h
  simp

theorem vwqry_frame {pr : Pred} {eff : BitVec 5} {master : Bool} {t : Tgt} (h : execVwqry pr eff master t s = .next u) : OnlyFocus s u := by
  unfold execVwqry at h
  refine fire_onlyFocus (fun v => ?_) h
  dsimp only
  repeat' split
  all_goals simp

theorem vwpol_frame {pr : Pred} {eff : BitVec 5} (h : execVwpol pr eff s = .next u) : OnlyFocus s u := by
  unfold execVwpol at h
  refine fire_onlyFocus (fun v => ?_) h
  dsimp only
  simp

theorem spop_frame {eff port : BitVec 5} {t : Tgt} (h : execSpop eff port t s = .next u) : OnlyFocus s u := by
  unfold execSpop at h
  refine fire_onlyFocus (fun v => ?_) h
  dsimp only
  repeat' split
  all_goals simp

theorem trap_frame {pr : Pred} {eff : BitVec 5} (h : execTrap pr eff s = .next u) : OnlyFocus s u := by
  unfold execTrap at h
  refine fire_onlyFocus (fun v => ?_) h
  simp

theorem rft_frame {pr : Pred} {eff : BitVec 5} (h : execRft pr eff s = .next u) : OnlyFocus s u := by
  unfold execRft at h
  refine fire_onlyFocus (fun v => ?_) h
  dsimp only
  repeat' split
  all_goals simp

theorem cread_frame {pr : Pred} {eff : BitVec 5} {sel : BitVec 5} {t : Tgt} (h : execCread pr eff sel t s = .next u) : OnlyFocus s u := by
  unfold execCread at h
  refine fire_onlyFocus (fun v => ?_) h
  dsimp only
  repeat' split
  all_goals simp

theorem cwrite_frame {pr : Pred} {eff : BitVec 5} {sel : BitVec 5} (h : execCwrite pr eff sel s = .next u) : OnlyFocus s u := by
  unfold execCwrite at h
  refine fire_onlyFocus (fun v => ?_) h
  dsimp only
  repeat' split
  all_goals simp

theorem halt_frame {pr : Pred} {eff : BitVec 5} (h : execHalt pr eff s = .next u) : OnlyFocus s u := by
  unfold execHalt at h
  refine fire_onlyFocus (fun v => ?_) h
  dsimp only
  repeat' split
  all_goals simp

theorem dbgbrk_frame {pr : Pred} {eff : BitVec 5} (h : execDbgbrk pr eff s = .next u) : OnlyFocus s u := by
  unfold execDbgbrk at h
  refine fire_onlyFocus (fun v => ?_) h
  simp

theorem winwr_frame {pr : Pred} {eff : BitVec 5} (h : execWinwr pr eff s = .next u) : OnlyFocus s u := by
  unfold execWinwr at h
  refine fire_onlyFocus (fun v => ?_) h
  dsimp only
  repeat' split
  all_goals simp

theorem tresume_frame {pr : Pred} {eff : BitVec 5} (h : execTresume pr eff s = .next u) : OnlyFocus s u := by
  unfold execTresume at h
  refine fire_onlyFocus (fun v => ?_) h
  simp

theorem rdtime_frame {pr : Pred} {eff : BitVec 5} {t : Tgt} (h : execRdtime pr eff t s = .next u) : OnlyFocus s u := by
  unfold execRdtime at h
  refine fire_onlyFocus (fun v => ?_) h
  dsimp only
  repeat' split
  all_goals simp

theorem rdpmc_frame {pr : Pred} {eff : BitVec 5} {t : Tgt} (h : execRdpmc pr eff t s = .next u) : OnlyFocus s u := by
  unfold execRdpmc at h
  refine fire_onlyFocus (fun v => ?_) h
  dsimp only
  repeat' split
  all_goals simp

theorem fireLanes_frame {i : Instr} {e : Nat} {f : Nat → Nat → Nat} (h : fireLanes s i e f = .next u) : OnlyFocus s u := by
  unfold fireLanes at h
  exact fireW_onlyFocus h

theorem fence_frame {i : Instr} {k : Nat} {sc : Scope} (h : fire s i (fenceAct i k sc) = .next u) : OnlyFocus s u := by
  refine fire_onlyFocus (fun v => ?_) h
  simp [fenceAct]

theorem matrix_frame {i : Instr} {xop ta tb : Nat} (h : fire s i (matrixAct i xop ta tb) = .next u) : OnlyFocus s u := by
  refine fire_onlyFocus (fun v => ?_) h
  unfold matrixAct
  dsimp only
  repeat' split
  all_goals simp

theorem stream_frame {i : Instr} {xop : Nat} {q : BitVec 2} (h : fire s i (streamAct i xop q) = .next u) : OnlyFocus s u := by
  refine fire_onlyFocus (fun v => ?_) h
  unfold streamAct
  dsimp only
  split
  · simp
  · split <;> simp

theorem weight_frame {i : Instr} {mk : Nat → Action} (h : fire s i (weightAct i mk) = .next u) : OnlyFocus s u := by
  refine fire_onlyFocus (fun v => ?_) h
  unfold weightAct
  repeat' split
  all_goals simp

theorem spushAct_frame (i : Instr) (port : BitVec 5) (t : Token) : (spushAct i port t s).frame s := by
  unfold spushAct
  dsimp only
  repeat' split
  all_goals simp

/-- An SPUSH with a null operand acts too, and changes the focused clause alone as the others do (14 R312). -/
theorem spush_frame {eff port : BitVec 5} (h : execSpush eff port s = .next u) : OnlyFocus s u := by
  have he := (FabricOps.execSpush_eq eff port s _ rfl).symm.trans h
  have ha := spushAct_frame (s := s) (.spush eff port) port .null
  obtain ⟨-, he⟩ | ⟨-, he⟩ := ite_eq_iff.mp he
  · split at he
    · next w hw => cases he; rwa [hw] at ha
    · next w hw => cases he; rw [hw] at ha; exact (ha.onInst _).tick
  · exact fire_onlyFocus (fun v => spushAct_frame (.spush eff port) port v.a) he

end

/-! ### What keeps memory and the committed registers -/

/-- From s to t memory is as it was, and every context that t holds is one of s with its registers. -/
def RegsKept (s t : State) : Prop := t.mem = s.mem ∧ ∀ c ∈ t.ctxs, ∃ b ∈ s.ctxs, c.id = b.id ∧ c.sameRegs b

theorem RegsKept.refl (s : State) : RegsKept s s := ⟨rfl, fun c hc => ⟨c, hc, rfl, sameRegs_refl c⟩⟩

theorem RegsKept.trans {s t u : State} (h : RegsKept s t) (k : RegsKept t u) : RegsKept s u := by
  refine ⟨k.1.trans h.1, fun c hc => ?_⟩
  obtain ⟨b, hb, hcb, hrb⟩ := k.2 c hc
  obtain ⟨a, ha, hba, hra⟩ := h.2 b hb
  exact ⟨a, ha, hcb.trans hba, sameRegs_trans hrb hra⟩

/-- What leaves memory alone and brings no context of its own. -/
theorem RegsKept.of_subset {s t : State} (hm : t.mem = s.mem) (hc : ∀ c ∈ t.ctxs, c ∈ s.ctxs) : RegsKept s t :=
  ⟨hm, fun c h => ⟨c, hc c h, rfl, sameRegs_refl c⟩⟩

theorem RegsKept.foldl {α : Type} {f : State → α → State} (hf : ∀ s a, RegsKept s (f s a)) (xs : List α) (s : State) : RegsKept s (xs.foldl f s) := by
  induction xs generalizing s with
  | nil => exact .refl s
  | cons a xs ih => exact (hf s a).trans (ih (f s a))

theorem regsKept_onTower (s : State) (n : Nat) (f : Tower → Tower) : RegsKept s (s.onTower n f) := .of_subset rfl fun _ h => h

theorem RegsKept.ite {s a b : State} {p : Prop} [Decidable p] (ha : RegsKept s a) (hb : RegsKept s b) : RegsKept s (if p then a else b) := by
  split
  · exact ha
  · exact hb

/-- A change of a context that touches none of its registers. -/
theorem regsKept_onCtx (s : State) (n : Nat) (f : Ctx → Ctx) (hid : ∀ c, (f c).id = c.id := by intro; rfl)
    (hf : ∀ c, (f c).sameRegs c := by intro; exact ⟨rfl, rfl, rfl, fun _ => rfl⟩) : RegsKept s (s.onCtx n f) := by
  refine ⟨rfl, fun c hc => ?_⟩
  obtain ⟨b, hb, rfl⟩ := List.mem_map.mp hc
  refine ⟨b, hb, ?_⟩
  split
  · exact ⟨hid b, hf b⟩
  · exact ⟨rfl, sameRegs_refl b⟩

theorem regsKept_onF (s : State) (f : Ctx → Ctx) (hid : ∀ c, (f c).id = c.id := by intro; rfl)
    (hf : ∀ c, (f c).sameRegs c := by intro; exact ⟨rfl, rfl, rfl, fun _ => rfl⟩) : RegsKept s (s.onF f) := regsKept_onCtx s s.focus.ctx f hid hf

theorem regsKept_onInst (s : State) (f : Inst → Inst) : RegsKept s (s.onInst f) := regsKept_onCtx s _ _

theorem regsKept_of_focus {s t : State} (h : OnlyFocus s t) : RegsKept s t := by
  obtain ⟨f, hc⟩ := h.2
  refine ⟨h.mem, fun c hm => ?_⟩
  rw [hc] at hm
  exact (regsKept_onInst s f).2 c hm

/-! ### Branches (01 R26) -/

theorem regsKept_release (s : State) (x : Inst) : RegsKept s (s.release x) := by
  unfold State.release
  refine RegsKept.trans (.of_subset ?_ fun c hc => ?_) (RegsKept.foldl (fun (t : State) (g : BitVec 7 × Nat × Nat) => regsKept_onTower t g.2.1 _) _ _)
  · rfl
  · exact List.mem_of_mem_filter hc

theorem regsKept_dropFrom (s : State) (c n : Nat) : RegsKept s (s.dropFrom c n) := by
  unfold State.dropFrom
  split
  · exact .refl s
  · next x hx =>
    have hr := RegsKept.foldl regsKept_release (x.window.drop n) s
    have hs : ∀ d, RegsKept s (if n = 0 then { (x.window.drop n).foldl State.release s with shoots := d } else (x.window.drop n).foldl State.release s) :=
      fun d => .ite (hr.trans (.of_subset rfl fun _ h => h)) hr
    exact RegsKept.trans (.ite ((hs _).trans (regsKept_onTower _ _ _)) (hs _)) (regsKept_onCtx _ c _)

theorem regsKept_squashFrom (s : State) (c n : Nat) : RegsKept s (s.squashFrom c n) := by
  unfold State.squashFrom
  split
  · exact .refl s
  · exact (regsKept_dropFrom s c n).trans (regsKept_onCtx _ c _)

theorem regsKept_unfetch (s : State) (c : Ctx) : RegsKept s (s.unfetch c) :=
  (regsKept_dropFrom s c.id _).trans (regsKept_onF _ _)

theorem regsKept_unmispredict (s : State) (k : Nat) : RegsKept s (s.unmispredict k) :=
  (regsKept_onF s _).trans (regsKept_onInst _ _)

theorem regsKept_resolve (s : State) (target : Word) : RegsKept s (s.resolve target) := by
  unfold State.resolve
  split
  · exact .refl s
  · next c hc =>
    split
    · exact .refl s
    · dsimp only
      split
      · exact ((regsKept_squashFrom s _ _).trans (regsKept_onF _ _)).trans (regsKept_onInst _ _)
      · have hu : ∀ b : Bool, RegsKept s (if b then s.unfetch c else s) := fun b => by
          cases b
          · exact .refl s
          · exact regsKept_unfetch s c
        split
        · split
          · exact (hu _).trans (regsKept_unmispredict _ _)
          · exact hu _
        · exact hu _

theorem regsKept_tellPredictor (s : State) (ex : BitVec 3) (a : Word) : RegsKept s (s.tellPredictor ex a) := by
  unfold State.tellPredictor
  split
  · exact .refl s
  · exact regsKept_onF s _

theorem regsKept_takeBranch (s : State) (ex : BitVec 3) (a : Word) (b : BranchOut) : RegsKept s (s.takeBranch ex a b) :=
  ((regsKept_onInst s _).trans (regsKept_tellPredictor _ ex a)).trans (regsKept_resolve _ a)

theorem regsKept_advanceGen (s : State) (n : Nat) : RegsKept s (s.advanceGen n) := by
  unfold State.advanceGen
  split
  · exact regsKept_onInst s _
  · exact .refl s
  · exact (regsKept_onF s _).trans (regsKept_onInst _ _)

/-! ### Loads and stores as they fire (01 R18; 05 R149) -/

theorem regsKept_permAsk (s : State) (tw cell : Nat) (asid : BitVec 16) (va : Word) (acc : Access) : RegsKept s (s.permAsk tw cell asid va acc) := by
  unfold State.permAsk
  dsimp only
  split
  · exact .refl s
  · exact .of_subset rfl fun _ h => h

/-- The state that a look at a permission leaves. -/
theorem permGet_kept {s t : State} {tw cell : Nat} {asid : BitVec 16} {va : Word} {acc : Access}
    (h : s.permGet tw cell asid va acc = .ask t ∨ ∃ k, s.permGet tw cell asid va acc = .bad k t) : RegsKept s t := by
  have hp := regsKept_permAsk s tw cell asid va acc
  unfold State.permGet at h
  split at h
  · rcases h with h | ⟨k, h⟩ <;> cases h
  · rcases h with h | ⟨k, h⟩ <;> cases h
    exact .refl s
  · split at h
    · rcases h with h | ⟨k, h⟩ <;> cases h
      exact .refl s
    · rcases h with h | ⟨k, h⟩ <;> cases h
      exact hp

theorem regsKept_eccEntry (s : State) (pa : Nat) : RegsKept s (s.eccEntry pa) := by
  unfold State.eccEntry
  split
  · exact .refl s
  · exact regsKept_onTower s _ _

theorem l1Trim_eq (c : Ctx) : ∃ l1, c.l1Trim = { c with l1 := l1 } := by
  have hfold : ∀ (ps : List Nat) (x : Ctx), ∃ l1, ps.foldl (fun x pos =>
      let extra := (x.l1.filter fun y => decide (y.pos = pos)).length - x.l1Room
      ({ x with l1 := ((x.l1.filter fun y => decide (y.pos = pos)).take extra).foldl List.erase x.l1 } : Ctx)) x = { x with l1 := l1 } := by
    intro ps
    induction ps with
    | nil => exact fun x => ⟨x.l1, rfl⟩
    | cons p ps ih =>
      intro x
      obtain ⟨l1, h⟩ := ih { x with l1 := ((x.l1.filter fun y => decide (y.pos = p)).take ((x.l1.filter fun y => decide (y.pos = p)).length - x.l1Room)).foldl List.erase x.l1 }
      exact ⟨l1, h⟩
  exact hfold _ c

theorem regsKept_fillLine (s : State) (c : Ctx) (cell : Nat) (l : Leaf) (line : Nat) : RegsKept s (s.fillLine c cell l line) := by
  have hserve : RegsKept s (if l.far then s else s.l2Serve c.asid l line) := by
    split
    · exact .refl s
    · exact regsKept_onTower s _ _
  unfold State.fillLine
  dsimp only
  split
  · exact hserve
  · split
    · exact .refl s
    · refine hserve.trans (regsKept_onCtx _ c.id _ (fun x => ?_) fun x => ?_)
      · obtain ⟨l1, h⟩ := l1Trim_eq ({ x with l1 := x.l1 ++ _ } : Ctx)
        rw [h]
      · obtain ⟨l1, h⟩ := l1Trim_eq ({ x with l1 := x.l1 ++ _ } : Ctx)
        rw [h]
        exact ⟨rfl, rfl, rfl, fun _ => rfl⟩

theorem regsKept_fillL1 (s : State) (c : Ctx) (cell : Nat) (l : Leaf) (va : Word) (n : Nat) : RegsKept s (s.fillL1 c cell l va n) :=
  RegsKept.foldl (fun t k => regsKept_fillLine t _ cell l _) _ s

section
variable (s : State) (c : Ctx) (cell : Nat) (own old : List Lane) (hyp0 : Bool)

theorem regsKept_loadPart (l : Leaf) (va : Word) (n : Nat) : RegsKept s (s.loadPart c cell own old l va n hyp0).st := by
  unfold State.loadPart
  dsimp only
  repeat' split
  all_goals simp only [RegsKept.refl, regsKept_eccEntry, regsKept_fillL1]

theorem regsKept_loadParts (ps : List (Word × Nat)) : RegsKept s (s.loadParts c cell own old hyp0 ps).st := by
  induction ps generalizing s with
  | nil => exact .refl s
  | cons p ps ih =>
    unfold State.loadParts
    split
    · next t h => exact (permGet_kept (.inl h)).trans (ih t)
    · next k t h => exact (permGet_kept (.inr ⟨k, h⟩)).trans (ih t)
    · exact (regsKept_loadPart s c cell own old hyp0 _ _ _).trans (ih _)

theorem regsKept_loadLane (va : Word) (n : Nat) : RegsKept s (s.loadLane c cell own old hyp0 va n).st := by
  unfold State.loadLane
  split
  · exact .refl s
  · split
    · exact regsKept_onTower s _ _
    · exact .refl s
  · exact regsKept_loadParts s c cell own old hyp0 _

theorem regsKept_loadLanes (ls : List (Word × Nat)) : RegsKept s (s.loadLanes c cell own old hyp0 ls).st := by
  induction ls generalizing s with
  | nil => exact .refl s
  | cons l ls ih => exact (regsKept_loadLane s c cell own old hyp0 l.1 l.2).trans (ih _)

theorem regsKept_loadAll (win : Nat) (iid : BitVec 7) (eff : Nat) (ls : List (Word × Nat)) : RegsKept s (s.loadAll c win iid eff hyp0 ls).st := by
  unfold State.loadAll
  split
  · exact .refl s
  · exact regsKept_loadLanes s c _ _ _ hyp0 ls

theorem regsKept_storeParts (lane : Nat) (ps : List (Word × Nat)) (bs : List Byte) : RegsKept s (s.storeParts c cell lane ps bs).1 := by
  induction ps generalizing s bs with
  | nil => exact .refl s
  | cons p ps ih =>
    unfold State.storeParts
    split
    · exact .refl s
    · dsimp only
      split
      · next u ls h =>
        show RegsKept s u
        rw [← show _ = u from congrArg Prod.fst h]
        exact RegsKept.trans (.ite (regsKept_permAsk s _ _ _ _ _) (.refl s)) (ih _ (bs.drop p.2))
      · exact RegsKept.trans (.ite (regsKept_permAsk s _ _ _ _ _) (.refl s)) (ih _ (bs.drop p.2))

theorem regsKept_storeLane (lane : Nat) (va : Word) (bs : List Byte) : RegsKept s (s.storeLane c cell lane va bs).1 := by
  unfold State.storeLane
  split
  · exact .refl s
  · split
    · exact .refl s
    · exact .refl s
    · exact regsKept_storeParts s c cell lane _ bs

theorem regsKept_storeLanes (n : Nat) (ls : List (Word × List Byte)) : RegsKept s (s.storeLanes c cell n ls).1 := by
  induction ls generalizing s n with
  | nil => exact .refl s
  | cons l ls ih =>
    have hl := regsKept_storeLane s c cell n l.1 l.2
    unfold State.storeLanes
    split
    · next t e h => rwa [h] at hl
    · next t ms h =>
      rw [h] at hl
      refine hl.trans ?_
      split
      · next u ms h' => simpa only [h'] using ih t (n + 1)
      · exact ih t (n + 1)

end

theorem regsKept_dropNotes (s : State) (tw : Nat) (of_ : WalkReq → Bool) : RegsKept s (s.dropNotes tw of_) :=
  .ite (regsKept_onTower s _ _) (.refl s)

theorem regsKept_takeNotes (s : State) : RegsKept s s.takeNotes := by
  unfold State.takeNotes
  split
  · exact .refl s
  · exact regsKept_dropNotes s _ _

section
variable {s t : State} {i : Instr}

/-- An action of the focused clause after what has been kept. -/
theorem RegsKept.focus {u : State} (h : RegsKept s t) (k : OnlyFocus t u) : RegsKept s u := h.trans (regsKept_of_focus k)

theorem RegsKept.loadPoison (h : RegsKept s t) (k : Kind) (va : Word) : RegsKept s (t.loadPoison i k va) :=
  (h.trans (regsKept_takeNotes t)).focus ((((OnlyFocus.refl _).notePoison va).effect i .done).deliverPoison i k)

theorem RegsKept.notPerformed (h : RegsKept s t) (k : Kind) (va : Word) : RegsKept s (t.notPerformed i k va) :=
  (h.trans (regsKept_takeNotes t)).focus ((((OnlyFocus.refl _).notePoison va).effectPoison i k).deliverPoison i k)

theorem regsKept_acquired (s : State) (c : Nat) : RegsKept s (s.acquired c) := regsKept_onCtx s c _

theorem regsKept_keepLoad (s : State) (r : LoadRec) (a : Action) : RegsKept s (s.keepLoad r a) :=
  .ite ((regsKept_onInst s _).trans (regsKept_acquired _ _)) (regsKept_onInst s _)

theorem regsKept_loadWord (s : State) (eff : BitVec 5) (va : Word) (bs : List (List Byte)) (a : Action) (v : Word) : RegsKept s (s.loadWord i eff va bs a v) :=
  (regsKept_keepLoad s _ a).focus (((OnlyFocus.refl _).effect i a).deliverS i v)

theorem regsKept_watchLine (s : State) (c : Ctx) (cell : Nat) (va : Word) : RegsKept s (s.watchLine c cell va) := by
  unfold State.watchLine
  split
  · exact regsKept_onCtx s c.id _
  · exact .refl s

end

/-! ### The instructions that read, write, branch or draw -/

/-- Whether it waits or fires, the action has left memory and the registers alone. -/
def Act.keepsRegs (s : State) : Act → Prop
  | .waits t => RegsKept s t
  | .fires t => RegsKept s t

theorem Act.keepsRegs_ite {s : State} {p : Prop} [Decidable p] {a b : Act} (ha : Act.keepsRegs s a) (hb : Act.keepsRegs s b) :
    Act.keepsRegs s (if p then a else b) := by
  split
  · exact ha
  · exact hb

section
variable {s u : State} {i : Instr}

/-- An instruction whose action keeps the registers keeps them, whatever its tokens. -/
theorem fire_regsKept {act : Vals → State → Act} (h : fire s i act = .next u) (ha : ∀ v, Act.keepsRegs s (act v s)) : RegsKept s u := by
  unfold fire at h
  split at h
  · cases h; exact .refl s
  · split at h
    · cases h; exact .refl s
    · split at h
      · cases h; exact .refl s
      · cases h; exact regsKept_onInst s _
      · cases h; exact regsKept_onInst s _
      · cases h; exact regsKept_onInst s _
      · next v _ =>
        have hv := ha v
        split at h
        · next t e => cases h; rwa [e] at hv
        · next t e => cases h; rw [e] at hv; exact RegsKept.trans hv (regsKept_onInst t _)

theorem fireLoad_keepsRegs (eff : BitVec 5) (lanes : List (Word × Nat)) (hyp0 : Bool) (a : Action) (mk : List (List Byte) → Token) :
    Act.keepsRegs s (s.fireLoad i eff lanes hyp0 a mk) := by
  unfold State.fireLoad
  split
  · exact .refl s
  · exact .refl s
  · exact (RegsKept.refl s).loadPoison _ _
  · next c x _ _ _ =>
    have hl := regsKept_loadAll s c hyp0 s.focus.win s.focus.iid eff.toNat lanes
    refine Act.keepsRegs_ite ((RegsKept.refl s).loadPoison _ _) (Act.keepsRegs_ite (.refl s) (Act.keepsRegs_ite (hl.focus (OnlyFocus.refl _).beginWait) ?_))
    split
    · exact hl.loadPoison _ _
    · refine Act.keepsRegs_ite (regsKept_of_focus (OnlyFocus.refl s).beginWait) ?_
      exact (hl.trans (regsKept_keepLoad _ _ a)).focus (((OnlyFocus.refl _).effect i a).deliver i _)

theorem fireStore_keepsRegs (lanes : List (Word × List Byte)) (rel many : Bool) : Act.keepsRegs s (s.fireStore i lanes rel many) := by
  unfold State.fireStore
  split
  · exact .refl s
  · next c _ =>
    have hl := regsKept_storeLanes s c (c.cellOf s.focus.iid) 0 lanes
    split
    · next t k va h => rw [h] at hl; exact RegsKept.focus hl (by simp)
    · next t ls h => rw [h] at hl; exact RegsKept.focus hl (by simp)

theorem waitvRead_keepsRegs (eff : BitVec 5) (va : Word) (acq : Bool) : Act.keepsRegs s (s.waitvRead i eff va acq) := by
  unfold State.waitvRead
  split
  · exact .refl s
  · next c _ =>
    have hl := regsKept_loadAll s c false s.focus.win s.focus.iid eff.toNat [(va, 8)]
    refine Act.keepsRegs_ite hl ?_
    split
    · exact hl.loadPoison _ _
    · exact hl.trans (regsKept_loadWord _ eff va _ _ _)

theorem ld_keeps {eff : BitVec 5} {imm : BitVec 9} {n : Nat} {sgn : Bool} (h : fire s i (ldAct i eff imm n sgn) = .next u) : RegsKept s u :=
  fire_regsKept h (fun _ => fireLoad_keepsRegs _ _ _ _ _)

theorem st_keeps {imm : BitVec 18} {n : Nat} (h : fire s i (stAct i imm n) = .next u) : RegsKept s u :=
  fire_regsKept h (fun _ => fireStore_keepsRegs _ _ _)

section
variable {pr : Pred} {eff : BitVec 5} {imm : BitVec 9} {imm18 : BitVec 18} {t : Tgt} {sh : Shape} {uns acq sgn : Bool} {scale : BitVec 2} {size : MemSize} {sc : Scope}

theorem ldacq_keeps (h : execLdacq pr eff imm t s = .next u) : RegsKept s u := by
  unfold execLdacq at h
  exact fire_regsKept h (fun v => Act.keepsRegs_ite ((RegsKept.refl s).loadPoison _ _) (fireLoad_keepsRegs _ _ _ _ _))

theorem vld_keeps (h : execVld pr eff imm t s = .next u) : RegsKept s u := by
  unfold execVld at h
  exact fire_regsKept h (fun _ => fireLoad_keepsRegs _ _ _ _ _)

theorem vlds_keeps (h : execVlds pr eff sh t s = .next u) : RegsKept s u := by
  unfold execVlds at h
  exact fire_regsKept h (fun _ => fireLoad_keepsRegs _ _ _ _ _)

theorem vgath_keeps (h : execVgath pr eff sh uns scale t s = .next u) : RegsKept s u := by
  unfold execVgath at h
  exact fire_regsKept h (fun _ => fireLoad_keepsRegs _ _ _ _ _)

theorem hldc_keeps (h : execHldc pr eff acq sgn size t s = .next u) : RegsKept s u := by
  unfold execHldc at h
  exact fire_regsKept h (fun _ => Act.keepsRegs_ite ((RegsKept.refl s).loadPoison _ _) (fireLoad_keepsRegs _ _ _ _ _))

theorem strel_keeps (h : execStrel pr eff imm18 s = .next u) : RegsKept s u := by
  unfold execStrel at h
  exact fire_regsKept h (fun _ => Act.keepsRegs_ite (regsKept_of_focus (by simp)) (fireStore_keepsRegs _ _ _))

theorem vst_keeps (h : execVst pr eff imm18 s = .next u) : RegsKept s u := by
  unfold execVst at h
  exact fire_regsKept h (fun _ => fireStore_keepsRegs _ _ _)

theorem vsts_keeps (h : execVsts pr eff sh s = .next u) : RegsKept s u := by
  unfold execVsts at h
  exact fire_regsKept h (fun _ => fireStore_keepsRegs _ _ _)

theorem vscat_keeps (h : execVscat pr eff sh uns scale s = .next u) : RegsKept s u := by
  unfold execVscat at h
  exact fire_regsKept h (fun _ => fireStore_keepsRegs _ _ _)

theorem waitv_keeps (h : execWaitv pr eff acq t s = .next u) : RegsKept s u := by
  unfold execWaitv at h
  refine fire_regsKept h fun v => ?_
  dsimp only
  split
  · next c x _ _ =>
    have hl := regsKept_loadAll s c false s.focus.win s.focus.iid eff.toNat [(v.a.bits, 8)]
    refine Act.keepsRegs_ite (.refl s) (Act.keepsRegs_ite ((RegsKept.refl s).loadPoison _ _) (Act.keepsRegs_ite ((RegsKept.refl s).loadPoison _ _)
      (Act.keepsRegs_ite ((RegsKept.refl s).loadPoison _ _) (Act.keepsRegs_ite (.refl s) (Act.keepsRegs_ite (.refl s)
        (Act.keepsRegs_ite (hl.focus (OnlyFocus.refl _).beginWait) (Act.keepsRegs_ite ?_ (waitvRead_keepsRegs eff _ acq))))))))
    exact (hl.trans (regsKept_watchLine _ c _ _)).focus ((onlyFocus_onInst _ _).tick)
  · exact .refl s

theorem barw_keeps (h : execBarw pr eff sc t s = .next u) : RegsKept s u := by
  unfold execBarw at h
  refine fire_regsKept h fun v => ?_
  dsimp only
  split
  · next c x _ _ =>
    have hl := regsKept_loadAll s c false s.focus.win s.focus.iid eff.toNat [(v.a.bits, 8)]
    refine Act.keepsRegs_ite ((RegsKept.refl s).notPerformed _ _) (Act.keepsRegs_ite ((RegsKept.refl s).notPerformed _ _)
      (Act.keepsRegs_ite ((RegsKept.refl s).loadPoison _ _) (Act.keepsRegs_ite (.refl s) ?_)))
    split
    · exact (RegsKept.refl s).notPerformed _ _
    · refine Act.keepsRegs_ite (hl.focus (OnlyFocus.refl _).beginWait) ?_
      split
      · exact hl.loadPoison _ _
      · exact Act.keepsRegs_ite hl (hl.trans (regsKept_loadWord _ eff _ _ _ _))
  · exact .refl s

end

section
variable {pr : Pred} {ex : BitVec 3} {off : BitVec 20} {y z : FTy} {d : Dst}

theorem bro_keeps (h : execBro pr ex off s = .next u) : RegsKept s u := by
  unfold execBro at h
  exact fire_regsKept h (fun _ => regsKept_takeBranch s _ _ _)

theorem br_keeps (h : execBr pr s = .next u) : RegsKept s u := by
  unfold execBr at h
  exact fire_regsKept h (fun _ => regsKept_takeBranch s _ _ _)

theorem callo_keeps (h : execCallo pr ex off s = .next u) : RegsKept s u := by
  unfold execCallo at h
  exact fire_regsKept h (fun _ => regsKept_takeBranch s _ _ _)

theorem call_keeps (h : execCall pr s = .next u) : RegsKept s u := by
  unfold execCall at h
  exact fire_regsKept h (fun _ => regsKept_takeBranch s _ _ _)

theorem ret_keeps (h : execRet pr s = .next u) : RegsKept s u := by
  unfold execRet at h
  exact fire_regsKept h (fun _ => regsKept_takeBranch s _ _ _)

theorem exitt_keeps (h : execExitt pr s = .next u) : RegsKept s u := by
  unfold execExitt at h
  exact fire_regsKept h (fun _ => (regsKept_onInst s _).trans (regsKept_tellPredictor _ _ _))

theorem yield_keeps (h : execYield pr ex off s = .next u) : RegsKept s u := by
  unfold execYield at h
  exact fire_regsKept h (fun _ => (regsKept_onInst s _).trans (regsKept_tellPredictor _ _ _))

theorem scall_keeps (h : execScall pr ex off s = .next u) : RegsKept s u := by
  unfold execScall at h
  exact fire_regsKept h (fun _ => (regsKept_onInst s _).trans (regsKept_tellPredictor _ _ _))

theorem fcvt_keeps (h : execFcvt pr y z d s = .next u) : RegsKept s u := by
  unfold execFcvt at h
  exact fire_regsKept h (fun _ => Act.keepsRegs_ite ((regsKept_advanceGen s 1).focus (by simp)) (regsKept_of_focus (by simp)))

theorem vcvt_keeps (h : execVcvt pr d s = .next u) : RegsKept s u := by
  unfold execVcvt at h
  exact fire_regsKept h (fun _ => Act.keepsRegs_ite (RegsKept.focus (.ite (regsKept_advanceGen s _) (.refl s)) (((OnlyFocus.refl _).raise _).deliverW _ _)) (regsKept_of_focus (by simp)))

theorem vqnt_keeps (h : execVqnt pr d s = .next u) : RegsKept s u := by
  unfold execVqnt at h
  exact fire_regsKept h (fun _ => Act.keepsRegs_ite (RegsKept.focus (.ite (regsKept_advanceGen s _) (.refl s)) (((OnlyFocus.refl _).raise _).deliverW _ _)) (regsKept_of_focus (by simp)))

end

end

/-- Settles O56: what an action may be made of, and by that what each instruction leaves unchanged. -/
theorem firingFrame : Obligations.FiringFrame := by
  intro s u r6 d r4 pr m16 t m10 x2 y b1 b2 x3 m20 sh vy vc vf e lv sc ta tb q5 z m9 m18 mz
  refine ⟨List.forall_iff_forall_mem.mp ?_, fun i hi h => ?_, fun a h => by rw [h.mem]⟩
  · unfold exec
    exact ⟨
      gread_frame, wread_frame, gwrite_frame, wwrite_frame, fireS_onlyFocus, fireS_onlyFocus, fireS_onlyFocus, mov_frame, fireS_onlyFocus, nop_frame,
      null_frame, fireS_onlyFocus, fireS_onlyFocus, fireS_onlyFocus, fireS_onlyFocus, fireS_onlyFocus, fireS_onlyFocus, fireS_onlyFocus, fireS_onlyFocus,
      fireS_onlyFocus, fireS_onlyFocus, fireS_onlyFocus, fireS_onlyFocus, fireS_onlyFocus, fireS_onlyFocus, fireS_onlyFocus, fireS_onlyFocus,
      fireS_onlyFocus, fireS_onlyFocus, fireS_onlyFocus, fireS_onlyFocus, fireS_onlyFocus, fireS_onlyFocus, fireS_onlyFocus, fireS_onlyFocus,
      fireS_onlyFocus, fireS_onlyFocus, fireS_onlyFocus, fireS_onlyFocus, fireS_onlyFocus, fireS_onlyFocus, fireS_onlyFocus, fireS_onlyFocus,
      fireS_onlyFocus, fireS_onlyFocus, fireS_onlyFocus, fireS_onlyFocus, fireS_onlyFocus, fireS_onlyFocus, fireS_onlyFocus, fireS_onlyFocus,
      fireS_onlyFocus, fireS_onlyFocus, fireS_onlyFocus, fireS_onlyFocus, fireS_onlyFocus, fireS_onlyFocus, fireS_onlyFocus, fireS_onlyFocus,
      fireS_onlyFocus, fireS_onlyFocus, fireS_onlyFocus, fireS_onlyFocus, fireS_onlyFocus, fireSF_onlyFocus, fireSF_onlyFocus, fireSF_onlyFocus,
      fireSF_onlyFocus, fireSF_onlyFocus, fireSF_onlyFocus, fireSF_onlyFocus, fireS_onlyFocus, fireSF_onlyFocus, fireSF_onlyFocus, fireSF_onlyFocus,
      fireSF_onlyFocus, fireSF_onlyFocus, fireSF_onlyFocus, fireSF_onlyFocus, fireSF_onlyFocus, fireSF_onlyFocus, fireS_onlyFocus, fireLanes_frame,
      fireLanes_frame, fireLanes_frame, fireLanes_frame, fireLanes_frame, fireLanes_frame, fireLanes_frame, fireLanes_frame, fireLanes_frame,
      fireLanes_frame, fireLanes_frame, fireLanes_frame, fireWF_onlyFocus, fireWF_onlyFocus, fireWF_onlyFocus, fireWF_onlyFocus, fireWF_onlyFocus,
      fireWF_onlyFocus, fireWF_onlyFocus, fireWF_onlyFocus, fireWF_onlyFocus, fireWF_onlyFocus, fireWF_onlyFocus, fireWF_onlyFocus, fireWF_onlyFocus,
      fireWF_onlyFocus, fireWF_onlyFocus, vdqnt_frame, fireLanes_frame, fireWF_onlyFocus, fireW_onlyFocus, fireW_onlyFocus, fireS_onlyFocus,
      fireW_onlyFocus, fireW_onlyFocus, vred_frame, vscan_frame, vdot_frame, pref_frame, fence_frame, fence_frame, fence_frame, fence_frame, fence_frame,
      tdep_frame, trange_frame, tprio_frame, htset_frame, inbox_frame, henter_frame, hleave_frame, hstat_frame, matrix_frame, matrix_frame, matrix_frame,
      matrix_frame, matrix_frame, matrix_frame, matrix_frame, matrix_frame, matrix_frame, matrix_frame, matrix_frame, matrix_frame, matrix_frame,
      matrix_frame, stream_frame, stream_frame, stream_frame, stream_frame, stream_frame, vwdrop_frame, vwqry_frame, vwpol_frame, spush_frame,
      spop_frame, trap_frame, rft_frame, cread_frame, cwrite_frame, halt_frame, dbgbrk_frame, winwr_frame, tresume_frame, weight_frame, weight_frame,
      rdtime_frame, rdpmc_frame⟩
  · have hkept : RegsKept s u := by
      revert i
      refine List.forall_iff_forall_mem.mp ?_
      unfold exec
      exact ⟨bro_keeps, br_keeps, callo_keeps, call_keeps, ret_keeps, exitt_keeps, yield_keeps, scall_keeps, fcvt_keeps, vcvt_keeps, vqnt_keeps, ld_keeps, ld_keeps,
        ld_keeps, ld_keeps, ld_keeps, ld_keeps, ld_keeps, ldacq_keeps, vld_keeps, vlds_keeps, vgath_keeps, st_keeps, st_keeps, st_keeps, st_keeps, strel_keeps,
        vst_keeps, vsts_keeps, vscat_keeps, hldc_keeps, waitv_keeps, barw_keeps⟩
    exact ⟨fun a => by rw [hkept.1], hkept.2⟩

end Sys2Proof.FiringFrames
end

section
/-! The memory a step leaves (log 1), first part: the functions of the state that leave memory alone. -/

namespace Sys2Proof.StepMemory

-- One proof at a time: proofs checked side by side take each a stack of memory.
set_option Elab.async false

open Sys2Proof.Machine

@[simp] theorem ite_mem {p : Prop} [Decidable p] (a b : State) :
    (if p then a else b).mem = if p then a.mem else b.mem := by
  split <;> rfl

@[simp] theorem foldl_mem {α : Type} {f : State → α → State} (hf : ∀ s a, (f s a).mem = s.mem) (xs : List α) (s : State) :
    (xs.foldl f s).mem = s.mem :=
  List.foldlRecOn (motive := fun t : State => t.mem = s.mem) xs f rfl fun t ht a _ => (hf t a).trans ht

@[simp] theorem l1Settle_mem (s : State) (tag : Option (BitVec 16)) (va : Nat) (n : Nat) :
    (s.l1Settle tag va n).mem = s.mem := rfl

@[simp] theorem ackAll_mem (s : State) (c : Ctx) : (s.ackAll c).mem = s.mem := by
  unfold State.ackAll
  rw [State.onCtx_mem]
  refine foldl_mem (fun u p => ?_) _ _
  split <;> simp

@[simp] theorem acquired_mem (s : State) (c : Nat) : (s.acquired c).mem = s.mem := rfl

@[simp] theorem acquireHere_mem (s : State) (sc : Scope) : (s.acquireHere sc).mem = s.mem := by
  unfold State.acquireHere; simp

@[simp] theorem askBuilds_mem (s : State) (m : Master) (tile : Nat) (cause : Option (Word × BitVec 16)) :
    (s.askBuilds m tile cause).mem = s.mem := by
  unfold State.askBuilds; simp

@[simp] theorem advance_mem (s : State) (tw : Nat) (slot : Nat) (tile : Nat) (cause : Option
    (Word × BitVec 16)) :
    (s.advance tw slot tile cause).mem = s.mem := by
  unfold State.advance; split <;> simp

@[simp] theorem permAsk_mem (s : State) (tw : Nat) (cell : Nat) (asid : BitVec 16) (va : Word)
    (acc : Access) :
    (s.permAsk tw cell asid va acc).mem = s.mem := by
  unfold State.permAsk; simp

@[simp] theorem askStores_mem (s : State) (c : Ctx) : (s.askStores c).mem = s.mem := by
  unfold State.askStores
  refine foldl_mem (fun t p => ?_) _ _
  split
  · split <;> simp
  · rfl

@[simp] theorem backInvalidate_mem (s : State) (pa : Nat) (n : Nat) :
    (s.backInvalidate pa n).mem = s.mem := rfl

@[simp] theorem beginWait_mem (s : State) : (s.beginWait).mem = s.mem := by
  unfold State.beginWait; split <;> simp

@[simp] theorem hypSweep_mem (s : State) : (s.hypSweep).mem = s.mem := rfl

@[simp] theorem hypCount_mem (s : State) (h : BitVec 12) (up : Bool) : (s.hypCount h up).mem = s.mem := rfl

@[simp] theorem bindMove_mem (s : State) (old : BitVec 12) (new : BitVec 12) :
    (s.bindMove old new).mem = s.mem := by
  unfold State.bindMove; simp

@[simp] theorem extend_mem (s : State) (i : Nat) (digest : List Byte) : (s.extend i digest).mem = s.mem := rfl

@[simp] theorem forgetAsks_mem (s : State) (c : Ctx) : (s.forgetAsks c).mem = s.mem := rfl

@[simp] theorem forgetReads_mem (s : State) (c : Ctx) : (s.forgetReads c).mem = s.mem := rfl

@[simp] theorem release_mem (s : State) (x : Inst) : (s.release x).mem = s.mem := by
  unfold State.release
  exact foldl_mem (fun t g => by simp) _ _

@[simp] theorem dropFrom_mem (s : State) (c : Nat) (n : Nat) : (s.dropFrom c n).mem = s.mem := by
  unfold State.dropFrom; split <;> simp

@[simp] theorem squashFrom_mem (s : State) (c : Nat) (n : Nat) : (s.squashFrom c n).mem = s.mem := by
  unfold State.squashFrom; split <;> simp

@[simp] theorem clear_mem (s : State) (c : Ctx) : (s.clear c).mem = s.mem := by
  unfold State.clear; simp

@[simp] theorem clearMigCnt_mem (s : State) (tw : Nat) : (s.clearMigCnt tw).mem = s.mem := rfl

@[simp] theorem l2Drop_mem (s : State) (f : L2Line → Bool) : (s.l2Drop f).mem = s.mem := rfl

@[simp] theorem l1Drop_mem (s : State) (f : Ctx → L1Line → Bool) : (s.l1Drop f).mem = s.mem := rfl

@[simp] theorem clineDo_mem (s : State) (tag : Option (BitVec 16)) (op : ClineOp) (va : Word) :
    (s.clineDo tag op va).mem = s.mem := by
  unfold State.clineDo; split <;> rfl

@[simp] theorem setHyp_mem (s : State) (c : Ctx) (h : BitVec 12) : (s.setHyp c h).mem = s.mem := by
  unfold State.setHyp; simp

@[simp] theorem commitHyp_mem (s : State) (c : Ctx) (a : Action) : (s.commitHyp c a).mem = s.mem := by
  unfold State.commitHyp
  split
  · split
    · split <;> simp
    · rfl
  · simp
  · simp
  · rfl

@[simp] theorem continueNodes_mem (s : State) (k : TaskKey) : (s.continueNodes k).mem = s.mem := rfl

@[simp] theorem deliver_mem (s : State) (i : Instr) (tok : Token) : (s.deliver i tok).mem = s.mem := rfl

@[simp] theorem deliverPoison_mem (s : State) (i : Instr) (k : Kind) :
    (s.deliverPoison i k).mem = s.mem := rfl

@[simp] theorem deliverS_mem (s : State) (i : Instr) (v : Word) : (s.deliverS i v).mem = s.mem := rfl

@[simp] theorem dirtyOwned_mem (s : State) (pa : Nat) (n : Nat) : (s.dirtyOwned pa n).mem = s.mem := by
  unfold State.dirtyOwned; split <;> rfl

@[simp] theorem leaveTile_mem (s : State) (q : SCmd) (st : Nat) : (s.leaveTile q st).mem = s.mem := by
  unfold State.leaveTile; dsimp only
  (repeat' split) <;> rfl

@[simp] theorem discardScmd_mem (s : State) (q : SCmd) (k : Kind) : (s.discardScmd q k).mem = s.mem := by
  unfold State.discardScmd; simp

@[simp] theorem dropScmd_mem (s : State) (q : SCmd) (r : Repair) : (s.dropScmd q r).mem = s.mem := by
  unfold State.dropScmd; split <;> simp

@[simp] theorem discardFaults_mem (s : State) (k : TaskKey) : (s.discardFaults k).mem = s.mem := by
  unfold State.discardFaults
  refine foldl_mem (fun u q => foldl_mem (fun w r => ?_) _ _) _ _
  split <;> simp

@[simp] theorem discardHeld_mem (s : State) (l : Load) : (s.discardHeld l).mem = s.mem := by
  unfold State.discardHeld; simp

@[simp] theorem dropHeldHyp_mem (s : State) (k : TaskKey) (tower : Nat) (seq : BitVec 16) :
    (s.dropHeldHyp k tower seq).mem = s.mem := rfl

@[simp] theorem disposeMatrix_mem (s : State) (owner : Word) (load : Option (Nat × Nat)) (seq : BitVec 16)
    (replay : Bool) :
    (s.disposeMatrix owner load seq replay).mem = s.mem := by
  unfold State.disposeMatrix; split <;> rfl

@[simp] theorem discardUnread_mem (s : State) (k : TaskKey) (tower : Nat) (on : Option Ctx) :
    (s.discardUnread k tower on).mem = s.mem := by
  unfold State.discardUnread; dsimp only
  (repeat' split) <;> simp

@[simp] theorem discardUnreadLoad_mem (s : State) (l : Load) (n : BitVec 16) :
    (s.discardUnreadLoad l n).mem = s.mem := by
  unfold State.discardUnreadLoad; dsimp only
  (repeat' split) <;> rfl

@[simp] theorem disposeStore_mem (s : State) (c : Ctx) (r : AfRec) (replay : Bool) :
    (s.disposeStore c r replay).mem = s.mem := by
  unfold State.disposeStore; simp

@[simp] theorem noteLeft_mem (s : State) (c : Ctx) : (s.noteLeft c).mem = s.mem := by
  unfold State.noteLeft; simp

@[simp] theorem dropCtx_mem (s : State) (c : Nat) : (s.dropCtx c).mem = s.mem := by
  unfold State.dropCtx; split <;> simp

@[simp] theorem dropNotes_mem (s : State) (tw : Nat) (of_ : WalkReq → Bool) :
    (s.dropNotes tw of_).mem = s.mem := by
  unfold State.dropNotes; simp

@[simp] theorem dropOwned_mem (s : State) (pa : Nat) (n : Nat) : (s.dropOwned pa n).mem = s.mem := by
  unfold State.dropOwned; split <;> rfl

@[simp] theorem fqPush_mem (s : State) (tw : Nat) (e : FqEntry) : (s.fqPush tw e).mem = s.mem := rfl

@[simp] theorem fqMachine_mem (s : State) (tw : Nat) (code : Nat) (va : Word) (arg : BitVec 32) :
    (s.fqMachine tw code va arg).mem = s.mem := rfl

@[simp] theorem eccEntry_mem (s : State) (pa : Nat) : (s.eccEntry pa).mem = s.mem := by
  unfold State.eccEntry; simp

@[simp] theorem eccScratch_mem (s : State) (c : Ctx) (va : Word) : (s.eccScratch c va).mem = s.mem := rfl

@[simp] theorem effect_mem (s : State) (i : Instr) (a : Action) : (s.effect i a).mem = s.mem := by
  unfold State.effect; split <;> rfl

@[simp] theorem effectPoison_mem (s : State) (i : Instr) (k : Kind) : (s.effectPoison i k).mem = s.mem := by
  unfold State.effectPoison; split <;> rfl

@[simp] theorem effectBad_mem (s : State) (i : Instr) (k : Kind) : (s.effectBad i k).mem = s.mem := by
  unfold State.effectBad; simp

@[simp] theorem performed_mem (s : State) (eff : BitVec 5) : (s.performed eff).mem = s.mem := rfl

@[simp] theorem farAnswer_mem (s : State) (src : Nat) (r : Except Kind (List Byte)) :
    (s.farAnswer src r).mem = s.mem := rfl

@[simp] theorem farCount_mem (s : State) (src : Nat) (pa : Nat) : (s.farCount src pa).mem = s.mem := by
  unfold State.farCount; split <;> rfl

@[simp] theorem loadFault_mem (s : State) (tw : Nat) (slot : Nat) : (s.loadFault tw slot).mem = s.mem := by
  unfold State.loadFault; split <;> simp

@[simp] theorem lateFault_mem (s : State) (c : Ctx) (p : Pend) (l : Lane) (k : Kind) :
    (s.lateFault c p l k).mem = s.mem := by
  unfold State.lateFault; dsimp only
  (repeat' split) <;> simp

@[simp] theorem faultWaiting_mem (s : State) (c : Nat) (cell : Nat) (page : Nat) (k : Kind) (fuel : Nat) :
    (s.faultWaiting c cell page k fuel).mem = s.mem := by
  fun_induction State.faultWaiting s c cell page k fuel <;> simp_all

@[simp] theorem released_mem (s : State) (owner : Word) (asid : BitVec 16) :
    (s.released owner asid).mem = s.mem := by
  unfold State.released; simp

@[simp] theorem fenceDone_mem (s : State) (c : Ctx) (kind : Nat) (sc : Scope) :
    (s.fenceDone c kind sc).mem = s.mem := by
  unfold State.fenceDone; simp

@[simp] theorem placeInst_mem (s : State) (c : Ctx) (addr : Word) (h : Header) (words : List (BitVec 32))
    (mark : Option Kind) (va : Option Word) :
    (s.placeInst c addr h words mark va).mem = s.mem := by
  unfold State.placeInst; simp

@[simp] theorem l2Serve_mem (s : State) (asid : BitVec 16) (l : Leaf) (line : Nat) :
    (s.l2Serve asid l line).mem = s.mem := rfl

@[simp] theorem fillLine_mem (s : State) (c : Ctx) (cell : Nat) (l : Leaf) (line : Nat) :
    (s.fillLine c cell l line).mem = s.mem := by
  unfold State.fillLine; simp

@[simp] theorem fillL1_mem (s : State) (c : Ctx) (cell : Nat) (l : Leaf) (va : Word) (n : Nat) :
    (s.fillL1 c cell l va n).mem = s.mem := by
  unfold State.fillL1; simp

@[simp] theorem forgetSyncs_mem (s : State) (tw : Nat) (slot : Nat) :
    (s.forgetSyncs tw slot).mem = s.mem := rfl

@[simp] theorem unbind_mem (s : State) (h : BitVec 12) : (s.unbind h).mem = s.mem := rfl

@[simp] theorem forgetTask_mem (s : State) (tw : Nat) (t : TaskInfo) : (s.forgetTask tw t).mem = s.mem := rfl

@[simp] theorem forward_mem (s : State) (c : Nat) (l : Option (BitVec 16) × Nat × Nat) :
    (s.forward c l).mem = s.mem := rfl

@[simp] theorem fqRecord_mem (s : State) (r : AfRec) : (s.fqRecord r).mem = s.mem := rfl

@[simp] theorem fqStruct_mem (s : State) (tw : Nat) (asid : BitVec 16) (k : Kind) (subject : Word)
    (va : Word) :
    (s.fqStruct tw asid k subject va).mem = s.mem := rfl

@[simp] theorem freeLoad_mem (s : State) (l : Load) : (s.freeLoad l).mem = s.mem := rfl

@[simp] theorem freeNode_mem (s : State) (m : MNode) : (s.freeNode m).mem = s.mem := by
  unfold State.freeNode; simp

@[simp] theorem giveUp_mem (s : State) (c : Nat) (win : Nat) (iid : BitVec 7) :
    (s.giveUp c win iid).mem = s.mem := rfl

@[simp] theorem handMatrix_mem (s : State) (c : Ctx) (o : Origin) (node : Nat) (xop : Nat) (ta : Nat)
    (tb : Nat) (b : Word) (cc : Word) :
    (s.handMatrix c o node xop ta tb b cc).mem = s.mem := by
  unfold State.handMatrix; split <;> rfl

@[simp] theorem handlerEnds_mem (s : State) (c : Ctx) : (s.handlerEnds c).mem = s.mem := by
  unfold State.handlerEnds; simp

@[simp] theorem holdClocks_mem (s : State) : (s.holdClocks).mem = s.mem := rfl

@[simp] theorem holdNode_mem (s : State) (r : AfRec) : (s.holdNode r).mem = s.mem := by
  unfold State.holdNode; split <;> simp

@[simp] theorem hypBoundary_mem (s : State) (c : Ctx) : (s.hypBoundary c).mem = s.mem := by
  unfold State.hypBoundary; simp

@[simp] theorem keepLoad_mem (s : State) (r : LoadRec) (act : Action) : (s.keepLoad r act).mem = s.mem := by
  unfold State.keepLoad; simp

@[simp] theorem l1Lag_mem (s : State) (by_ : Nat) (l : Leaf) (tag : Option (BitVec 16)) (va : Nat)
    (old : List Byte) :
    (s.l1Lag by_ l tag va old).mem = s.mem := rfl

@[simp] theorem learn_mem (s : State) (k : TaskKey) (r : AfRec) (noUpcall : Bool) :
    (s.learn k r noUpcall).mem = s.mem := by
  unfold State.learn; simp

@[simp] theorem leaveRing_mem (s : State) (c : Ctx) : (s.leaveRing c).mem = s.mem := by
  unfold State.leaveRing; simp

@[simp] theorem listBad_mem (s : State) (tw : Nat) (t : TaskInfo) : (s.listBad tw t).mem = s.mem := rfl

@[simp] theorem takeNotes_mem (s : State) : (s.takeNotes).mem = s.mem := by
  unfold State.takeNotes; split <;> simp

@[simp] theorem notePoison_mem (s : State) (va : Word) : (s.notePoison va).mem = s.mem := rfl

@[simp] theorem loadPoison_mem (s : State) (i : Instr) (k : Kind) (va : Word) :
    (s.loadPoison i k va).mem = s.mem := by
  unfold State.loadPoison; simp

@[simp] theorem loadWord_mem (s : State) (i : Instr) (eff : BitVec 5) (va : Word) (bytes : List (List Byte))
    (act : Action) (v : Word) :
    (s.loadWord i eff va bytes act v).mem = s.mem := by
  unfold State.loadWord; simp

@[simp] theorem makeLive_mem (s : State) (asid : BitVec 16) : (s.makeLive asid).mem = s.mem := by
  unfold State.makeLive; simp

@[simp] theorem makeNotLive_mem (s : State) (asid : BitVec 16) : (s.makeNotLive asid).mem = s.mem := rfl

@[simp] theorem markDirty_mem (s : State) (asid : BitVec 16) (va : Nat) (n : Nat) (writer : Option Word) :
    (s.markDirty asid va n writer).mem = s.mem := rfl

@[simp] theorem markHeads_mem (s : State) : (s.markHeads).mem = s.mem := by
  unfold State.markHeads; simp

@[simp] theorem markLost_mem (s : State) (tw : Nat) (cells : List Nat) :
    (s.markLost tw cells).mem = s.mem := rfl

@[simp] theorem markSharers_mem (s : State) (xs : List (Nat × Nat)) : (s.markSharers xs).mem = s.mem := rfl

@[simp] theorem mboxCommand_mem (s : State) (m : Nat) (cmd : BitVec 16) :
    (s.mboxCommand m cmd).mem = s.mem := by
  unfold State.mboxCommand; simp

@[simp] theorem mboxEnd_mem (s : State) (m : Nat) (status : Word) : (s.mboxEnd m status).mem = s.mem := rfl

@[simp] theorem mergeVersion_mem (s : State) (v : Version) (p : BitVec 12) :
    (s.mergeVersion v p).mem = s.mem := by
  unfold State.mergeVersion; split <;> rfl

@[simp] theorem migAbandon_mem (s : State) (tw : Nat) : (s.migAbandon tw).mem = s.mem := rfl

@[simp] theorem moveHyps_mem (s : State) (cid : Nat) (as : List Action) :
    (s.moveHyps cid as).mem = s.mem := by
  unfold State.moveHyps
  refine foldl_mem (fun u a => ?_) _ _
  split <;> simp

@[simp] theorem moveTokens_mem (s : State) (c : Ctx) (pops : List (BitVec 5)) (pushes : List (BitVec 5 × Token)) :
    (s.moveTokens c pops pushes).mem = s.mem := by
  unfold State.moveTokens
  split
  · rfl
  · refine (foldl_mem (fun u p => ?_) _ _).trans (foldl_mem (fun u p => ?_) _ _)
    · split <;> simp
    · split <;> simp

@[simp] theorem notPerformed_mem (s : State) (i : Instr) (k : Kind) (va : Word) :
    (s.notPerformed i k va).mem = s.mem := by
  unfold State.notPerformed; simp

@[simp] theorem offLens_mem (s : State) (t : TaskInfo) (c : Ctx) (save : Option Word) :
    (s.offLens t c save).mem = s.mem := by
  unfold State.offLens; split <;> simp

@[simp] theorem onStream_mem (s : State) (l : Load) (k : Nat) (g : FStream → FStream) :
    (s.onStream l k g).mem = s.mem := rfl

@[simp] theorem pass_mem (s : State) : (s.pass).mem = s.mem := by
  unfold State.pass; simp

@[simp] theorem passOver_mem (s : State) (tw : Nat) (k : TaskKey) : (s.passOver tw k).mem = s.mem := by
  unfold State.passOver; simp

@[simp] theorem placeLoad_mem (s : State) (c : Ctx) (img : Word) (origin : Word) (m : Image)
    (waiter : Nat × Nat × BitVec 7) (area : Option Word) :
    (s.placeLoad c img origin m waiter area).mem = s.mem := by
  unfold State.placeLoad; dsimp only
  (repeat' split) <;> rfl

@[simp] theorem purge_mem (s : State) (tw : Nat) : (s.purge tw).mem = s.mem := rfl

@[simp] theorem raiseLost_mem (s : State) (tw : Nat) : (s.raiseLost tw).mem = s.mem :=
  foldl_mem (fun u t => fqMachine_mem u t _ _ _) _ _

@[simp] theorem rebuild_mem (s : State) (c : Ctx) (handle : Word) (tile : Nat) :
    (s.rebuild c handle tile).mem = s.mem := by
  unfold State.rebuild; split <;> rfl

@[simp] theorem recOut_mem (s : State) (r : AfRec) : (s.recOut r).mem = s.mem := rfl

@[simp] theorem recordedIn_mem (s : State) (tw : Nat) (slot : Nat) (seq : BitVec 16) :
    (s.recordedIn tw slot seq).mem = s.mem := rfl

@[simp] theorem releaseHere_mem (s : State) (sc : Scope) : (s.releaseHere sc).mem = s.mem := by
  unfold State.releaseHere; split <;> simp

@[simp] theorem reportParked_mem (s : State) (tw : Nat) (t : TaskInfo) (c : Ctx) (k : Kind) (va : Word)
    (also : BitVec 32) :
    (s.reportParked tw t c k va also).mem = s.mem := by
  unfold State.reportParked; simp

@[simp] theorem rerun_mem (s : State) (cid : Nat) : (s.rerun cid).mem = s.mem := by
  unfold State.rerun; split <;> simp

@[simp] theorem retireSlice_mem (s : State) (slice : Nat) : (s.retireSlice slice).mem = s.mem := rfl

@[simp] theorem routeWrite_mem (s : State) (d : Nat) (v : Word) : (s.routeWrite d v).mem = s.mem := by
  unfold State.routeWrite; simp

@[simp] theorem sent_mem (s : State) (k : TaskKey) (m : BitVec 512) : (s.sent k m).mem = s.mem := by
  unfold State.sent; simp

@[simp] theorem setPolicy_mem (s : State) (asid : BitVec 16) (h : Word) (b : Word) :
    (s.setPolicy asid h b).mem = s.mem := by
  unfold State.setPolicy; split <;> rfl

@[simp] theorem shootAll_mem (s : State) (f : ShootForm) : (s.shootAll f).mem = s.mem := rfl

@[simp] theorem shootCells_mem (s : State) (f : ShootForm) : (s.shootCells f).mem = s.mem := rfl

@[simp] theorem snoopAdd_mem (s : State) (line : Nat) : (s.snoopAdd line).mem = s.mem := by
  unfold State.snoopAdd; simp

@[simp] theorem spoilL1_mem (s : State) (c : Nat) (line : Nat) : (s.spoilL1 c line).mem = s.mem := by
  unfold State.spoilL1; split <;> simp

@[simp] theorem spoilScratch_mem (s : State) (c : Nat) (word : Nat) :
    (s.spoilScratch c word).mem = s.mem := by
  unfold State.spoilScratch; split <;> simp

@[simp] theorem startSupervisor_mem (s : State) (tw : Nat) : (s.startSupervisor tw).mem = s.mem := rfl

@[simp] theorem storeFault_mem (s : State) (tw : Nat) (r : WalkReq) (k : Kind) :
    (s.storeFault tw r k).mem = s.mem := by
  unfold State.storeFault; simp

@[simp] theorem takeReady_mem (s : State) (gid : Nat) (pkg : Nat) : (s.takeReady gid pkg).mem = s.mem := by
  unfold State.takeReady; split <;> simp

@[simp] theorem wakeWatch_mem (s : State) (pa : Nat) (n : Nat) (sees : Ctx → Bool) :
    (s.wakeWatch pa n sees).mem = s.mem := rfl

@[simp] theorem windowErr_mem (s : State) (tw : Nat) (win : Nat) : (s.windowErr tw win).mem = s.mem := rfl

@[simp] theorem windowStreamWait_mem (s : State) (tw : Nat) (win : Nat) (n : Nat) :
    (s.windowStreamWait tw win n).mem = s.mem := rfl

@[simp] theorem withL1_mem (s u : State) : (s.withL1 u).mem = s.mem := rfl

@[simp] theorem writeC0res_mem (s : State) (tw : Nat) (v : Word) : (s.writeC0res tw v).mem = s.mem := rfl

@[simp] theorem writeOvq_mem (s : State) (tw : Nat) (v : Word) : (s.writeOvq tw v).mem = s.mem := by
  unfold State.writeOvq; simp

@[simp] theorem writeVlog_mem (s : State) (v : Word) : (s.writeVlog v).mem = s.mem := by
  unfold State.writeVlog; simp

end Sys2Proof.StepMemory
end

section
/-! The memory a step leaves (log 1): what a result keeps in form, and the reads, the writes and the loads. -/

namespace Sys2Proof.StepMemory

-- One proof at a time: proofs checked side by side take each a stack of memory.
set_option Elab.async false

open Sys2Proof.Machine

variable {α : Type}

/-- Whatever a write answers, the state it leaves has its memory in form. -/
def WrOk : Wr → Prop
  | .ok t => t.memOk
  | .bad _ t => t.memOk

/-- A structure access that answers satisfies `p`; one that faults leaves the memory in form. -/
def SResOk (p : α → Prop) : SRes α → Prop
  | .ok a => p a
  | .bad t _ _ => t.memOk
  | .waits => True
  | .fails => True

/-- A performed access that answers satisfies `p`; one that faults leaves the memory in form. -/
def PerfOk (p : α → Prop) : Perf α → Prop
  | .ok a => p a
  | .bad t _ _ _ => t.memOk
  | .waits => True

/-- An act leaves the memory in form, whether it waits or fires. -/
def ActOk : Act → Prop
  | .waits t => t.memOk
  | .fires t => t.memOk

/-- The gate of an effect leaves the memory in form, whether it holds back or lets go. -/
def GateOk : Gate → Prop
  | .waits t => t.memOk
  | .goes t => t.memOk

/-- Loading an operand leaves the memory in form, whatever it answers. -/
def LoadsOk : Loads → Prop
  | .ready t => t.memOk
  | .wait t => t.memOk
  | .again t => t.memOk

/-- Reading loads again at commit leaves the memory in form. -/
def RecheckOk : Recheck → Prop
  | .same t => t.memOk
  | .waits t => t.memOk
  | .differs t => t.memOk

/-- Looking up an atomic's place leaves the memory in form where it changes the state. -/
def AtomAtOk : AtomAt → Prop
  | .ask t => t.memOk
  | .bad _ t => t.memOk
  | .ok _ => True

/-- Asking for a permission leaves the memory in form where it changes the state. -/
def PermGetOk : PermGet → Prop
  | .ask t => t.memOk
  | .bad _ t => t.memOk
  | .ok _ => True

/-- A read-modify-write leaves the memory in form, done or refused. -/
def RmwOk : Rmw → Prop
  | .done _ t => t.memOk
  | .bad _ t => t.memOk

/-- Fetching a clause leaves the memory in form where it changes the state. -/
def FetchedOk : Fetched → Prop
  | .ask t => t.memOk
  | .bad _ _ t => t.memOk
  | .ok _ t => t.memOk

/-- What an option holds, if anything, satisfies `p`. -/
def OptOk (p : α → Prop) : Option α → Prop
  | some a => p a
  | none => True

/-- The state an outcome answers, if it answers one, has its memory in form. -/
def OutOk : Host.Outcome State Fault Refusal → Prop
  | .next t => t.memOk
  | .fault _ => True
  | .refused _ => True

/-- A performer of commands keeps the memory in form. -/
def PerformerOk (perf : Performer) : Prop := ∀ u c p a, u.memOk → (perf u c p a).memOk

theorem foldl_memOk {β : Type} {f : State → β → State} (hf : ∀ s a, s.memOk → (f s a).memOk) (xs : List β)
    {s : State} (hok : s.memOk) :
    (xs.foldl f s).memOk :=
  List.foldlRecOn xs f hok fun t ht a _ => hf t a ht

theorem foldl_fst_memOk {β γ : Type} {f : State × γ → β → State × γ} (hf : ∀ u a, u.1.memOk → (f u a).1.memOk) (xs : List β)
    {u : State × γ} (hok : u.1.memOk) : (xs.foldl f u).1.memOk :=
  List.foldlRecOn (motive := fun v : State × γ => v.1.memOk) xs f hok fun v hv a _ => hf v a hv

theorem memOk_ite {p : Prop} [Decidable p] {a b : State} (ha : a.memOk) (hb : b.memOk) :
    (if p then a else b).memOk := by
  split
  · exact ha
  · exact hb

theorem fst_memOk_of_eq {γ : Type} {p : State × γ} {t : State} {r : γ} (e : p = (t, r)) (h : p.1.memOk) :
    t.memOk := by
  subst e; exact h

theorem memOk_of_mem {s t : State} (e : t.mem = s.mem) (hok : s.memOk) : t.memOk := by
  unfold State.memOk; rwa [e]

theorem memOk_pwrite {s : State} {pa bs} (hok : s.memOk) : (s.pwrite pa bs).memOk :=
  State.wf_pwrite hok pa bs

theorem memOk_partWrite {s : State} {pa bs} (hok : s.memOk) : (s.partWrite pa bs).memOk := by
  unfold State.partWrite
  grind [!memOk_pwrite, backInvalidate_mem]

theorem memOk_finishWalk {s : State} {asid va acc ea l} (hok : s.memOk) :
    (s.finishWalk asid va acc ea l).1.memOk := by
  unfold State.finishWalk
  grind [State.onTower_mem, !memOk_partWrite]

theorem memOk_walkFrom {s : State} {asid va acc n tab} (hok : s.memOk) :
    (s.walkFrom asid va acc n tab).1.memOk := by
  fun_induction State.walkFrom s asid va acc n tab <;> grind [!memOk_finishWalk]

theorem memOk_walk {s : State} {asid va acc} (hok : s.memOk) : (s.walk asid va acc).1.memOk := by
  unfold State.walk
  grind [!memOk_walkFrom]

theorem memOk_vreadPart {s : State} {asid va n path} (hok : s.memOk) :
    (s.vreadPart asid va n path).1.memOk := by
  unfold State.vreadPart
  grind [eccEntry_mem, !memOk_walk]

theorem memOk_vreadParts {s : State} {asid path x3} (hok : s.memOk) :
    (s.vreadParts asid path x3).1.memOk := by
  fun_induction State.vreadParts s asid path x3 <;> grind [!memOk_vreadPart]

theorem memOk_vread {s : State} {asid va n hyp} (hok : s.memOk) : (s.vread asid va n hyp).1.memOk := by
  unfold State.vread
  grind [!memOk_vreadParts]

theorem memOk_sideRead {s : State} {o sd a n} (hok : s.memOk) : SResOk (·.1.memOk) (s.sideRead o sd a n) := by
  unfold State.sideRead
  grind [SResOk, !memOk_vread, eccScratch_mem]

theorem memOk_sideReads {s : State} {o sd x3} (hok : s.memOk) : SResOk (·.1.memOk) (s.sideReads o sd x3) := by
  fun_induction State.sideReads s o sd x3 <;> grind [SResOk, !memOk_sideRead]

theorem memOk_Job_fetch {s : State} {j d sd e is k1} (hok : s.memOk) :
    SResOk (·.1.memOk) (Job.fetch s j d sd e is k1) := by
  unfold Job.fetch
  grind [SResOk, !memOk_sideReads]

theorem memOk_Job_runOf {s : State} {j source e} (hok : s.memOk) :
    SResOk (·.1.memOk) (Job.runOf s j source e) := by
  unfold Job.runOf
  grind [SResOk, !memOk_sideRead]

theorem memOk_putVersion {s : State} {asid tag h va data} (hok : s.memOk) :
    WrOk (s.putVersion asid tag h va data) := by
  unfold State.putVersion
  grind [WrOk]

theorem memOk_putLines {s : State} {asid tag hy n va data} (hok : s.memOk) :
    WrOk (s.putLines asid tag hy n va data) := by
  fun_induction State.putLines s asid tag hy n va data <;> grind [WrOk, !memOk_putVersion]

theorem memOk_putVersions {s : State} {asid tag hy va data} (hok : s.memOk) :
    WrOk (s.putVersions asid tag hy va data) := by
  unfold State.putVersions
  grind [WrOk, !memOk_putLines]

theorem WrOk.map {f : State → State} (hf : ∀ t, t.memOk → (f t).memOk) {w : Wr} (h : WrOk w) :
    WrOk (w.map f) := by
  cases w with
  | ok t => exact hf t h
  | bad k t => exact h

theorem memOk_devWrite {s : State} {pa off bytes} (hok : s.memOk) : (s.devWrite pa off bytes).memOk := by
  unfold State.devWrite
  grind [routeWrite_mem, !memOk_pwrite, mboxCommand_mem]

theorem memOk_leafWrite {s : State} {asid l va data hyp writer} (hok : s.memOk) :
    WrOk (s.leafWrite asid l va data hyp writer) := by
  have hversion : WrOk ((s.putVersions asid (l.tag asid) (s.hypFinal hyp) va.toNat data).map fun t =>
      t.wakeWatch (l.pa va) data.length fun c => (t.hypPath c.hyp).contains (s.hypFinal hyp)) :=
    WrOk.map (fun t ht => by grind [wakeWatch_mem]) (memOk_putVersions hok)
  unfold State.leafWrite
  grind [WrOk, !memOk_pwrite, !memOk_devWrite, backInvalidate_mem, wakeWatch_mem, l1Settle_mem, markDirty_mem, eccEntry_mem]

theorem memOk_vputs {s : State} {asid hyp writer x4 x5} (hok : s.memOk) :
    (s.vputs asid hyp writer x4 x5).1.memOk := by
  fun_induction State.vputs s asid hyp writer x4 x5 <;> grind [WrOk, !memOk_leafWrite]

theorem memOk_vleaves {s : State} {asid x2} (hok : s.memOk) : (s.vleaves asid x2).1.memOk := by
  fun_induction State.vleaves s asid x2 <;> grind [!memOk_walk]

theorem memOk_vwriteH {s : State} {asid va data hyp writer} (hok : s.memOk) :
    (s.vwriteH asid va data hyp writer).1.memOk := by
  unfold State.vwriteH
  grind [!memOk_vputs, !memOk_vleaves]

theorem memOk_sideWrite {s : State} {o sd a bs} (hok : s.memOk) :
    SResOk State.memOk (s.sideWrite o sd a bs) := by
  unfold State.sideWrite
  grind [SResOk, !memOk_vwriteH, State.onCtx_mem, eccScratch_mem]

theorem memOk_sideWriteAll {b s : State} {o sd mem l} (hb : b.memOk) (hok : s.memOk) :
    SResOk State.memOk (b.sideWriteAll s o sd mem l) := by
  fun_induction State.sideWriteAll b s o sd mem l <;> grind [SResOk, !memOk_sideWrite]

theorem memOk_sideWrites {s : State} {o sd mem l} (hok : s.memOk) :
    SResOk State.memOk (s.sideWrites o sd mem l) :=
  memOk_sideWriteAll hok hok

theorem memOk_Job_store {s : State} {j e only k1 els scale} (hok : s.memOk) :
    SResOk State.memOk (Job.store s j e only k1 els scale) := by
  unfold Job.store
  grind [SResOk, !memOk_sideWrites, !memOk_sideReads]

theorem memOk_Job_step {s : State} {j gen e only} (hok : s.memOk) :
    SResOk State.memOk (Job.step s j gen e only) := by
  unfold Job.step
  grind [SResOk, !memOk_Job_runOf, !memOk_Job_store, !memOk_Job_fetch]

theorem memOk_vwrite {s : State} {asid va data} (hok : s.memOk) : (s.vwrite asid va data).1.memOk := by
  unfold State.vwrite
  grind [!memOk_vwriteH]

theorem memOk_endedFault {s : State} {r} (hok : s.memOk) : (s.endedFault r).memOk := by
  unfold State.endedFault
  grind [!memOk_vwrite, fqRecord_mem]

theorem memOk_structGet {s : State} {tw asid subject va n} (hok : s.memOk) :
    (s.structGet tw asid subject va n).1.memOk := by
  unfold State.structGet
  grind [!memOk_vread, fqStruct_mem]

theorem memOk_vwrite64 {s : State} {asid va v} (hok : s.memOk) : (s.vwrite64 asid va v).1.memOk := by
  unfold State.vwrite64
  grind [!memOk_vwrite]

theorem memOk_structPut {s : State} {tw asid subject va v} (hok : s.memOk) :
    (s.structPut tw asid subject va v).memOk := by
  unfold State.structPut
  grind [fqStruct_mem, !memOk_vwrite64]

theorem memOk_savedSeq {s : State} {tw t} (hok : s.memOk) : (s.savedSeq tw t).1.memOk := by
  unfold State.savedSeq
  grind [!memOk_structGet, !memOk_structPut]

theorem memOk_engineFault {s : State} {r} (hok : s.memOk) : (s.engineFault r).1.memOk := by
  unfold State.engineFault
  grind [!memOk_endedFault, !memOk_savedSeq, loadFault_mem, State.onCtx_mem]

theorem memOk_scmdFault {s : State} {q k cause va page iters idx} (hok : s.memOk) :
    (s.scmdFault q k cause va page iters idx).memOk := by
  unfold State.scmdFault
  grind [State.onScmd_mem, discardScmd_mem, !memOk_engineFault]

theorem memOk_vread64 {s : State} {asid va} (hok : s.memOk) : (s.vread64 asid va).1.memOk := by
  unfold State.vread64
  grind [!memOk_vread]

theorem memOk_putQ0 {s : State} {tw asid rec f} (hok : s.memOk) : (s.putQ0 tw asid rec f).memOk := by
  unfold State.putQ0
  grind [!memOk_structGet, !memOk_structPut]

theorem memOk_rejectRec {s : State} {tw asid rec reason} (hok : s.memOk) :
    (s.rejectRec tw asid rec reason).memOk := by
  unfold State.rejectRec
  grind [!memOk_structPut, !memOk_putQ0]

theorem memOk_addDep {s : State} {tw asid pred succ} (hok : s.memOk) :
    (s.addDep tw asid pred succ).memOk := by
  fun_cases State.addDep s tw asid pred succ <;>
    grind [!memOk_structGet, !memOk_rejectRec, !memOk_vread64, !memOk_vwrite64, !memOk_structPut]

theorem memOk_releasing {s : State} {rel owner asid} {w : State → Wr} (hw : ∀ t, t.memOk → WrOk (w t)) (hok : s.memOk) :
    WrOk (s.releasing rel owner asid w) := by
  have hs := hw s hok
  have hr := hw (s.released owner asid)
  unfold State.releasing
  grind [WrOk, released_mem]

theorem memOk_applyStore {s : State} {c i} (hok : s.memOk) : (s.applyStore c i).memOk := by
  have hw {rel a b l va data p w}
      (e : (s.releasing rel a b fun u => u.leafWrite c.asid l va data p (some c.recA)) = w) : WrOk w :=
    e ▸ memOk_releasing (fun t ht => memOk_leafWrite ht) hok
  fun_cases State.applyStore s c i
  case case5 e => exact (congrArg _ (lateFault_mem ..)).trans (hw e)
  case case6 e _ _ => have hr := hw e; grind [WrOk, State.onCtx_mem, l1Lag_mem]
  all_goals grind [lateFault_mem, eccScratch_mem, State.onCtx_mem]

theorem memOk_members {s : State} {tw asid list x4} (hok : s.memOk) :
    (s.members tw asid list x4).1.memOk := by
  fun_induction State.members s tw asid list x4 <;> grind [!memOk_structGet]

theorem memOk_putStatus {s : State} {tw asid stat n} (hok : s.memOk) :
    (s.putStatus tw asid stat n).memOk := by
  unfold State.putStatus
  grind [!memOk_structPut]

theorem memOk_armGang {s : State} {c desc} (hok : s.memOk) : (s.armGang c desc).memOk := by
  unfold State.armGang
  grind [!memOk_structGet, !memOk_members, !memOk_putStatus]

theorem memOk_permGet {s : State} {tw cell asid va acc} (hok : s.memOk) :
    PermGetOk (s.permGet tw cell asid va acc) := by
  unfold State.permGet
  grind [PermGetOk, permAsk_mem]

theorem memOk_atomAt {s : State} {c x va n barrier} (hok : s.memOk) :
    AtomAtOk (s.atomAt c x va n barrier) := by
  unfold State.atomAt
  grind [AtomAtOk, PermGetOk, !memOk_permGet]

theorem memOk_loadPart {s : State} {c cell own old l va n hyp0} (hok : s.memOk) :
    (s.loadPart c cell own old l va n hyp0).st.memOk := by
  unfold State.loadPart
  grind [eccEntry_mem, fillL1_mem]

theorem memOk_loadParts {s : State} {c cell own old hyp0 x6} (hok : s.memOk) :
    (s.loadParts c cell own old hyp0 x6).st.memOk := by
  fun_induction State.loadParts s c cell own old hyp0 x6 <;> grind [PermGetOk, !memOk_permGet, !memOk_loadPart]

theorem memOk_loadLane {s : State} {c cell own old hyp0 va n} (hok : s.memOk) :
    (s.loadLane c cell own old hyp0 va n).st.memOk := by
  unfold State.loadLane
  grind [!memOk_loadParts, eccScratch_mem]

theorem memOk_loadLanes {s : State} {c cell own old hyp0 x6} (hok : s.memOk) :
    (s.loadLanes c cell own old hyp0 x6).st.memOk := by
  fun_induction State.loadLanes s c cell own old hyp0 x6 <;> grind [!memOk_loadLane]

theorem memOk_loadAll {s : State} {c win iid eff hyp0 lanes} (hok : s.memOk) :
    (s.loadAll c win iid eff hyp0 lanes).st.memOk := by
  unfold State.loadAll
  grind [!memOk_loadLanes]

theorem memOk_recheck {s : State} {cid x2} (hok : s.memOk) : RecheckOk (s.recheck cid x2) := by
  fun_induction State.recheck s cid x2 <;> grind [RecheckOk, !memOk_loadAll, acquired_mem]

theorem memOk_pushStores {s : State} {c fuel} (hok : s.memOk) : (s.pushStores c fuel).memOk := by
  fun_induction State.pushStores s c fuel <;> grind [ackAll_mem, !memOk_applyStore]

end Sys2Proof.StepMemory
end

section
/-! The memory a step leaves (log 1): the gate, the atomics, tasks and records. -/

namespace Sys2Proof.StepMemory

-- One proof at a time: proofs checked side by side take each a stack of memory.
set_option Elab.async false

open Sys2Proof.Machine

theorem memOk_performLoads {s : State} {c x hi} (hok : s.memOk) : LoadsOk (s.performLoads c x hi) := by
  fun_cases State.performLoads s c x hi
  case case7 =>
    refine foldl_memOk (fun w p hw => ?_) _ hok
    split
    · split
      · exact (congrArg _ (permAsk_mem ..)).trans hw
      · exact hw
    · exact hw
  all_goals grind [LoadsOk, RecheckOk, !memOk_recheck, !memOk_pushStores, State.onCtx_mem, withL1_mem]

theorem memOk_gate {s : State} {eff a} (hok : s.memOk) : GateOk (s.gate eff a) := by
  fun_cases State.gate s eff a
  case case9 | case10 | case11 =>
    have hl : LoadsOk (Loads.ready _) := ‹s.performLoads _ _ _ = Loads.ready _› ▸ memOk_performLoads hok
    exact memOk_ite hl hl
  all_goals grind [GateOk, LoadsOk, !memOk_performLoads, rerun_mem, State.onInst_mem, State.onCtx_mem, State.tick_mem]

theorem memOk_gated {s : State} {eff f} (hf : ∀ u, u.memOk → (f u).memOk) (hok : s.memOk) :
    ActOk (s.gated eff f) := by
  unfold State.gated
  grind [GateOk, ActOk, !memOk_gate]

theorem memOk_rmwScratch {s : State} {c va n f} (hok : s.memOk) : RmwOk (s.rmwScratch c va n f) := by
  unfold State.rmwScratch
  grind [RmwOk, State.onCtx_mem, eccScratch_mem]

theorem memOk_rmwLeaf {s : State} {c l va n f} (hok : s.memOk) : RmwOk (s.rmwLeaf c l va n f) := by
  unfold State.rmwLeaf
  grind [RmwOk, WrOk, eccEntry_mem, !memOk_leafWrite, l1Settle_mem, State.onCtx_mem]

theorem RmwOk.retry {act : State → Rmw} (hact : ∀ t, t.memOk → RmwOk (act t)) {t u : State} (ht : t.memOk) (hu : u.memOk) :
    RmwOk (match act t with
      | .bad k v => .bad k v
      | .done _ _ => act u) := by
  have hfirst := hact t ht
  cases h : act t with
  | bad k v => rwa [h] at hfirst
  | done old v => exact hact u hu

theorem memOk_rmw {t : State} {l : Option Leaf} {va : Word} {n : Nat} {f : Nat → Option Nat} (ht : t.memOk) :
    RmwOk (match l, t.fctx with
      | none, some d => t.rmwScratch d va n f
      | some y, some d => t.rmwLeaf d y va n f
      | _, none => .bad .perm t) := by
  split
  · exact memOk_rmwScratch ht
  · exact memOk_rmwLeaf ht
  · exact ht

theorem memOk_atomic {s : State} {i eff va n sc rlx barrier f mk} (hok : s.memOk) :
    ActOk (s.atomic i eff va n sc rlx barrier f mk) := by
  have hpoison {t : State} {k} (ht : t.memOk) : ActOk (t.gated eff fun u => u.notPerformed i k va) :=
    memOk_gated (fun u hu => by grind [notPerformed_mem]) ht
  fun_cases State.atomic s i eff va n sc rlx barrier f mk
  case case3 e =>
    have ht : AtomAtOk (.bad _ _) := e ▸ memOk_atomAt hok
    exact hpoison ht
  case case7 l _ _ sc' a hg _ _ _ act r k u e =>
    have ha : GateOk (.goes a) := hg ▸ memOk_gate hok
    have hr : RmwOk r := RmwOk.retry (act := act) (fun t ht => memOk_rmw (l := l) ht) ha
      (memOk_ite ha (by grind [GateOk, releaseHere_mem]))
    rw [e] at hr
    grind [RmwOk, ActOk, notPerformed_mem]
  case case8 l _ _ sc' a hg _ _ _ act r old u e v =>
    have ha : GateOk (.goes a) := hg ▸ memOk_gate hok
    have hr : RmwOk r := RmwOk.retry (act := act) (fun t ht => memOk_rmw (l := l) ht) ha
      (memOk_ite ha (by grind [GateOk, releaseHere_mem]))
    rw [e] at hr
    have hv : v.memOk := memOk_ite hr (by grind [RmwOk, acquireHere_mem])
    grind [ActOk, performed_mem, effect_mem, deliver_mem]
  all_goals grind [ActOk, GateOk, AtomAtOk, !memOk_gate, !memOk_atomAt, beginWait_mem]

theorem memOk_putHyp {s : State} {tw t h} (hok : s.memOk) : (s.putHyp tw t h).memOk := by
  fun_cases State.putHyp s tw t h <;> grind [!memOk_structGet, !memOk_structPut]

theorem memOk_taskTo {s : State} {tw t st} (hok : s.memOk) : (s.taskTo tw t st).memOk := by
  unfold State.taskTo
  grind [State.onTask_mem, State.onTower_mem, !memOk_putQ0]

theorem memOk_saveCause {s : State} {tw t k va} (hok : s.memOk) : (s.saveCause tw t k va).memOk := by
  unfold State.saveCause
  grind [!memOk_structGet, State.onTask_mem, !memOk_structPut]

theorem memOk_putEst {s : State} {tw t} (hok : s.memOk) : (s.putEst tw t).memOk := by
  unfold State.putEst
  grind [!memOk_structGet, !memOk_vread64, !memOk_structPut]

theorem memOk_stopOff {s : State} {tw t k va} (hok : s.memOk) : (s.stopOff tw t k va).memOk := by
  unfold State.stopOff
  grind [State.onTask_mem, !memOk_putHyp, !memOk_vread64, bindMove_mem, fqPush_mem, !memOk_taskTo, !memOk_saveCause,
      !memOk_putEst]

theorem memOk_ovqStore {s : State} {tw} (hok : s.memOk) : (s.ovqStore tw).memOk := by
  unfold State.ovqStore
  grind [!memOk_partWrite]

theorem memOk_enterReady {s : State} {tw t} (hok : s.memOk) : (s.enterReady tw t).1.memOk := by
  unfold State.enterReady
  grind [State.onTask_mem, State.onWindow_mem, !memOk_stopOff, forgetTask_mem, State.onTower_mem, released_mem,
      !memOk_ovqStore, !memOk_structPut, !memOk_putQ0, !memOk_taskTo]

theorem memOk_tryReady {s : State} {tw t} (hok : s.memOk) : (s.tryReady tw t).1.memOk := by
  unfold State.tryReady
  grind [!memOk_structGet, !memOk_enterReady]

theorem memOk_wake {s : State} {tw fuel} (hok : s.memOk) : (s.wake tw fuel).memOk := by
  induction fuel generalizing s with
  | zero => exact hok
  | succ n ih =>
    unfold State.wake
    refine memOk_ite (ih ?_) ?_ <;>
      exact foldl_fst_memOk (fun u t hu => by grind [!memOk_tryReady]) _ hok

theorem memOk_wakeAll {s : State} {tw} (hok : s.memOk) : (s.wakeAll tw).memOk := by
  unfold State.wakeAll
  grind [!memOk_wake]

theorem memOk_makeReady {s : State} {tw t} (hok : s.memOk) : (s.makeReady tw t).memOk := by
  unfold State.makeReady
  grind [!memOk_wakeAll, !memOk_enterReady, !memOk_ovqStore]

theorem memOk_saveGet {s : State} {asid va n} (hok : s.memOk) : (s.saveGet asid va n).1.memOk := by
  unfold State.saveGet
  grind [!memOk_vread]

theorem memOk_restoreRest {s : State} {t c save held} (hok : s.memOk) :
    (s.restoreRest t c save held).1.memOk := by
  unfold State.restoreRest
  extract_lets scr
  have hscr : scr.1.memOk := by
    refine foldl_fst_memOk (fun r j hr => ?_) _ hok
    split
    · exact hr
    · split
      next e => exact fst_memOk_of_eq e (memOk_saveGet hr)
      next e => exact fst_memOk_of_eq e (memOk_saveGet hr)
  split
  · exact hscr
  · split
    next e => exact fst_memOk_of_eq e (memOk_saveGet hscr)
    next e => exact fst_memOk_of_eq e (memOk_saveGet hscr)

theorem memOk_buildCtx {s : State} {tw t base width} (hok : s.memOk) :
    (s.buildCtx tw t base width).1.memOk := by
  unfold State.buildCtx
  grind [!memOk_vread, !memOk_restoreRest, !memOk_saveGet]

theorem memOk_stoppedCtx {s : State} {tw t} (hok : s.memOk) : (s.stoppedCtx tw t).1.memOk := by
  unfold State.stoppedCtx
  grind [!memOk_buildCtx, !memOk_saveGet]

theorem memOk_decrement {s : State} {tw t succ} (hok : s.memOk) : (s.decrement tw t succ).memOk := by
  unfold State.decrement
  grind [!memOk_structGet, !memOk_wakeAll, !memOk_structPut, !memOk_tryReady]

theorem memOk_notifyFrom {s : State} {tw t list n i} (hok : s.memOk) :
    (s.notifyFrom tw t list n i).1.memOk := by
  fun_induction State.notifyFrom s tw t list n i <;> grind [!memOk_structGet, !memOk_decrement]

theorem memOk_notify {s : State} {tw t} (hok : s.memOk) : (s.notify tw t).memOk := by
  unfold State.notify
  grind [!memOk_notifyFrom, !memOk_structGet, listBad_mem]

theorem memOk_endTask {s : State} {tw t code cval} (hok : s.memOk) : (s.endTask tw t code cval).memOk := by
  unfold State.endTask
  grind [!memOk_notify, State.onWindow_mem, !memOk_wakeAll, forgetTask_mem, released_mem, !memOk_ovqStore, !memOk_structPut,
      !memOk_putQ0]

theorem memOk_flush {s : State} {perf : Performer} {c} (hperf : PerformerOk perf) (hok : s.memOk) :
    (State.flush perf s c).memOk := by
  refine foldl_memOk (fun u p hu => ?_) _ hok
  split
  · grind [!memOk_vwriteH, released_mem, fqRecord_mem]
  · exact hu
  · exact (congrArg _ (fenceDone_mem ..)).trans hu
  · exact hperf _ _ _ _ hu

theorem memOk_endAway {s : State} {perf tw t code value} (hperf : PerformerOk perf) (hok : s.memOk) :
    (State.endAway perf s tw t code value).memOk := by
  have hflush {c} : (State.flush perf (s.stoppedCtx tw t).1 c).memOk := memOk_flush hperf (memOk_stoppedCtx hok)
  unfold State.endAway
  grind [!memOk_endTask, leaveRing_mem, dropCtx_mem]

theorem memOk_becomeReady {s : State} {perf tw t} (hperf : PerformerOk perf) (hok : s.memOk) :
    (State.becomeReady perf s tw t).memOk := by
  unfold State.becomeReady
  grind [!memOk_makeReady, continueNodes_mem, !memOk_endAway, discardFaults_mem]

theorem memOk_boot {s : State} {n k x3} (hok : s.memOk) : (s.boot n k x3).1.memOk := by
  fun_induction State.boot s n k x3 <;> grind [extend_mem]

theorem memOk_buildFail {s : State} {m v b cause inner va rc ep rows} (hok : s.memOk) :
    (s.buildFail m v b cause inner va rc ep rows).memOk := by
  unfold State.buildFail
  grind [State.tick_mem, !memOk_engineFault, fqRecord_mem]

theorem memOk_taskRead {s : State} {c va n} (hok : s.memOk) : (s.taskRead c va n).1.memOk := by
  unfold State.taskRead
  grind [!memOk_vread, eccScratch_mem]

theorem memOk_readQs {s : State} {c va n} (hok : s.memOk) : (s.readQs c va n).1.memOk := by
  unfold State.readQs
  grind [!memOk_taskRead]

theorem memOk_readEach {s : State} {c va n} (hok : s.memOk) : (s.readEach c va n).1.memOk := by
  fun_induction State.readEach s c va n <;> grind [!memOk_taskRead]

theorem memOk_readUpTo {s : State} {c va n} (hok : s.memOk) : (s.readUpTo c va n).1.memOk := by
  unfold State.readUpTo
  grind [!memOk_readQs, !memOk_readEach]

theorem memOk_readBs {s : State} {c va n} (hok : s.memOk) : (s.readBs c va n).1.memOk := by
  unfold State.readBs
  grind [!memOk_taskRead]

theorem memOk_readDescs {s : State} {c x2} (hok : s.memOk) : (s.readDescs c x2).1.memOk := by
  fun_induction State.readDescs s c x2 <;> grind [!memOk_readBs]

theorem memOk_readStreams {s : State} {c dead x3} (hok : s.memOk) : (s.readStreams c dead x3).1.memOk := by
  fun_induction State.readStreams s c dead x3 <;> grind [!memOk_readUpTo, !memOk_readDescs]

theorem memOk_readClause {s : State} {c va pos} (hok : s.memOk) : (s.readClause c va pos).1.memOk := by
  unfold State.readClause
  grind [!memOk_readBs, !memOk_readEach]

theorem memOk_readCells {s : State} {c x2} (hok : s.memOk) : (s.readCells c x2).st.memOk := by
  fun_induction State.readCells s c x2 <;> grind [!memOk_readClause, !memOk_readBs]

theorem memOk_checkImage {s : State} {c img origin} (hok : s.memOk) :
    (s.checkImage c img origin).1.memOk := by
  unfold State.checkImage
  grind [!memOk_readStreams, !memOk_readUpTo, !memOk_readQs, !memOk_readCells]

theorem memOk_checkRec {s : State} {q asid sv} (hok : s.memOk) : (s.checkRec q asid sv).1.memOk := by
  unfold State.checkRec
  grind [!memOk_vread]

theorem memOk_descRead {s : State} {asid va old} {read : State → Word → State × VRes}
    (hread : ∀ t a, t.memOk → (read t a).1.memOk)
    (hok : s.memOk) : (s.descRead asid read va old).1.memOk := by
  have hs := hread s va hok
  unfold State.descRead
  grind

theorem memOk_descsRead {s : State} {q} {read : State → Word → State × VRes}
    (hread : ∀ t a, t.memOk → (read t a).1.memOk)
    (hok : s.memOk) : (s.descsRead read q).1.memOk := by
  unfold State.descsRead
  refine memOk_descRead hread ?_
  split
  · exact hok
  · exact memOk_descRead hread hok

theorem memOk_handStreamer {s : State} {c o seq xop queue a b cc} (hok : s.memOk) :
    (s.handStreamer c o seq xop queue a b cc).memOk := by
  unfold State.handStreamer
  exact memOk_descsRead (fun t a ht => memOk_taskRead ht) hok

theorem memOk_viewPutParts {s : State} {asid x2 x3} (hok : s.memOk) :
    (s.viewPutParts asid x2 x3).1.memOk := by
  fun_induction State.viewPutParts s asid x2 x3 <;>
    grind [eccEntry_mem, !memOk_pwrite, !memOk_walk, backInvalidate_mem]

theorem memOk_viewPut {s : State} {asid va bs} (hok : s.memOk) : (s.viewPut asid va bs).1.memOk := by
  unfold State.viewPut
  grind [!memOk_viewPutParts]

theorem memOk_viewPuts {s : State} {asid x2} (hok : s.memOk) : (s.viewPuts asid x2).1.memOk := by
  fun_induction State.viewPuts s asid x2 <;> grind [!memOk_viewPut]

theorem memOk_dropView {s : State} {asid h} (hok : s.memOk) : (s.dropView asid h).memOk := by
  unfold State.dropView
  split
  · exact hok
  · refine memOk_ite (p := (s.free 5).getLsbD 0 = true) (foldl_memOk (fun t b ht => ?_) _ hok) hok
    grind [!memOk_viewPuts]

theorem memOk_handOver {s : State} {c p a} (hok : s.memOk) : (s.handOver c p a).memOk := by
  unfold State.handOver
  grind [setPolicy_mem, !memOk_handStreamer, handMatrix_mem, !memOk_dropView]

theorem memOk_finishEnd {s : State} {perf tw k} (hperf : PerformerOk perf) (hok : s.memOk) :
    (State.finishEnd perf s tw k).memOk := by
  unfold State.finishEnd
  grind [!memOk_stoppedCtx, !memOk_endAway]

theorem memOk_vwriteAll {s : State} {asid base x3} (hok : s.memOk) : (s.vwriteAll asid base x3).1.memOk := by
  fun_induction State.vwriteAll s asid base x3 <;> grind [!memOk_vwrite]

theorem memOk_writeBack {s : State} {t c} (hok : s.memOk) : (s.writeBack t c).1.memOk := by
  unfold State.writeBack
  grind [!memOk_vleaves, !memOk_vwriteAll]

end Sys2Proof.StepMemory
end

section
/-! The memory a step leaves (log 1): what an instruction leaves for its commit, and the commit. -/

namespace Sys2Proof.StepMemory

-- One proof at a time: proofs checked side by side take each a stack of memory.
set_option Elab.async false

open Sys2Proof.Machine

theorem memOk_putRecord {s : State} {tw t c st} (hok : s.memOk) : (s.putRecord tw t c st).memOk := by
  unfold State.putRecord
  grind [!memOk_structGet, !memOk_structPut]

theorem memOk_unpark {s : State} {tw t c} (hok : s.memOk) : (s.unpark tw t c).1.memOk := by
  unfold State.unpark
  grind [reportParked_mem, offLens_mem, !memOk_writeBack, !memOk_putRecord]

theorem memOk_resumeTask {s : State} {perf rec} (hperf : PerformerOk perf) (hok : s.memOk) :
    (State.resumeTask perf s rec).memOk := by
  unfold State.resumeTask
  grind [State.onTask_mem, !memOk_stoppedCtx, !memOk_becomeReady, !memOk_finishEnd, !memOk_unpark]

theorem memOk_submitNow {s : State} {tw rec asid sv stream window} (hok : s.memOk) :
    (s.submitNow tw rec asid sv stream window).memOk := by
  have hread {t r} (e : s.structGet tw asid rec rec 64 = (t, r)) : t.memOk := fst_memOk_of_eq e (memOk_structGet hok)
  have hlisted {u : State} {ts h} (hu : u.memOk) : ((u.onTower tw ts).hypCount h true).memOk :=
    memOk_of_mem ((hypCount_mem ..).trans (State.onTower_mem ..)) hu
  fun_cases State.submitNow s tw rec asid sv stream window
  case case1 e => exact hread e
  case case2 e _ _ => exact hread e
  case case3 => exact memOk_of_mem (State.onWindow_mem ..) (memOk_rejectRec (memOk_checkRec (hread ‹_›)))
  case case4 => exact memOk_rejectRec (memOk_checkRec (hread ‹_›))
  case case5 u _ _ _ q1 _ _ _ _ =>
    have hu : u.memOk := memOk_checkRec (hread ‹_›)
    clear_value q1
    exact memOk_putQ0 (hlisted (memOk_ite hu (memOk_structPut hu)))
  case case6 u _ _ _ q1 _ _ _ _ =>
    have hu : u.memOk := memOk_checkRec (hread ‹_›)
    clear_value q1
    exact memOk_makeReady (hlisted (memOk_ite hu (memOk_structPut hu)))

theorem memOk_submit {s : State} {tw rec asid sv stream} (hok : s.memOk) :
    (s.submit tw rec asid sv stream).memOk := by
  unfold State.submit
  grind [!memOk_submitNow, State.onTower_mem]

theorem memOk_setClass {s : State} {tw asid rec cls} (hok : s.memOk) :
    (s.setClass tw asid rec cls).memOk := by
  unfold State.setClass
  grind [!memOk_structGet, State.onTask_mem, !memOk_structPut, State.onCtx_mem]

theorem memOk_releaseRanges {s : State} {tw k mask} (hok : s.memOk) : (s.releaseRanges tw k mask).memOk := by
  unfold State.releaseRanges
  grind [State.onTask_mem, !memOk_wakeAll]

theorem memOk_setHandler {s : State} {tw asid slot v} (hok : s.memOk) :
    (s.setHandler tw asid slot v).memOk := by
  unfold State.setHandler
  grind [!memOk_partWrite]

theorem performerOk_performAct (n : Nat) : PerformerOk (State.performAct n) := by
  induction n with
  | zero => exact fun s c p a hok => hok
  | succ n ih =>
    intro s c p a hok
    have hrel : (s.released c.recA c.asid).memOk := by grind [released_mem]
    unfold State.performAct
    split
    · exact memOk_handOver hok
    · extract_lets u sv
      split
      · exact memOk_submit hrel
      · exact memOk_submit hrel
      · exact memOk_addDep hrel
      · exact memOk_releaseRanges hrel
      · exact memOk_setClass hrel
      · exact (congrArg _ (sent_mem ..)).trans hrel
      · exact memOk_setHandler hrel
      · exact memOk_resumeTask ih hrel
      · exact hrel
      · exact hrel
      · exact hrel

theorem performerOk : PerformerOk performer := performerOk_performAct 8

theorem memOk_drain {s : State} {c fuel} (hok : s.memOk) : (s.drain c fuel).memOk := by
  fun_induction State.drain s c fuel
  case case6 ih => exact ih (performerOk _ _ _ _ hok)
  all_goals grind [fenceDone_mem, State.onCtx_mem]

theorem memOk_settle {s : State} {c} (hok : s.memOk) : (s.settle c).memOk := by
  unfold State.settle
  grind [hypSweep_mem, State.onCtx_mem, !memOk_drain]

theorem memOk_replayScmd {s : State} {c q r} (hok : s.memOk) : (s.replayScmd c q r).memOk := by
  unfold State.replayScmd
  grind [leaveTile_mem, !memOk_taskRead, !memOk_descsRead, State.onScmd_mem]

theorem memOk_disposeAway {s : State} {r asid tower replay} (hok : s.memOk) :
    (s.disposeAway r asid tower replay).memOk := by
  unfold State.disposeAway
  grind [!memOk_vwriteH, !memOk_engineFault]

theorem memOk_dispose {s : State} {k tower on reader r replay} (hok : s.memOk) :
    (s.dispose k tower on reader r replay).memOk := by
  unfold State.dispose
  grind [dropHeldHyp_mem, rebuild_mem, disposeMatrix_mem, disposeStore_mem, !memOk_replayScmd, !memOk_disposeAway,
      dropScmd_mem]

theorem memOk_consume {s : State} {k tower base on off n t0} (hok : s.memOk) :
    (s.consume k tower base on off n t0).memOk := by
  fun_induction State.consume s k tower base on off n t0 <;>
    grind [discardUnread_mem, !memOk_taskRead, fqStruct_mem, !memOk_dispose]

theorem memOk_putStopped {s : State} {tw t c} (hok : s.memOk) : (s.putStopped tw t c).memOk := by
  unfold State.putStopped
  grind [!memOk_putQ0, State.onCtx_mem, fqStruct_mem, !memOk_saveGet, !memOk_vwriteAll]

theorem memOk_windowWrite {s : State} {perf rec win v} (hperf : PerformerOk perf) (hok : s.memOk) :
    (State.windowWrite perf s rec win v).memOk := by
  unfold State.windowWrite
  grind [State.onTask_mem, !memOk_stoppedCtx, !memOk_finishEnd, bindMove_mem, State.onCtx_mem, fqStruct_mem, !memOk_consume,
      !memOk_putStopped]

theorem memOk_haltAway {s : State} {perf tw t act} (hperf : PerformerOk perf) (hok : s.memOk) :
    (State.haltAway perf s tw t act).memOk := by
  unfold State.haltAway
  grind [!memOk_stopOff, !memOk_unpark, !memOk_ovqStore, !memOk_endAway, discardFaults_mem]

theorem memOk_haltTask {s : State} {perf rec act} (hperf : PerformerOk perf) (hok : s.memOk) :
    (State.haltTask perf s rec act).memOk := by
  unfold State.haltTask
  grind [!memOk_haltAway, State.onCtx_mem]

theorem memOk_fqWrite {s : State} {tw} (hok : s.memOk) : OptOk State.memOk (s.fqWrite tw) := by
  unfold State.fqWrite
  grind [OptOk, !memOk_vwrite, State.onTower_mem]

theorem memOk_fqFlush {s : State} {tw fuel} (hok : s.memOk) : (s.fqFlush tw fuel).memOk := by
  fun_induction State.fqFlush s tw fuel <;> grind [OptOk, !memOk_fqWrite]

theorem memOk_writeFqPtr {s : State} {tw v} (hok : s.memOk) : (s.writeFqPtr tw v).memOk := by
  unfold State.writeFqPtr
  grind [!memOk_fqFlush, State.onTower_mem]

theorem memOk_writeWsl {s : State} {tw v} (hok : s.memOk) : (s.writeWsl tw v).memOk := by
  unfold State.writeWsl
  exact (congrArg _ (l2Drop_mem ..)).trans (Memory.wf_filter hok _)

theorem memOk_writeFqBase {s : State} {tw v} (hok : s.memOk) : (s.writeFqBase tw v).memOk := by
  unfold State.writeFqBase
  grind [!memOk_fqFlush, State.onTower_mem]

theorem memOk_startCkpt {s : State} {c desc restore} (hok : s.memOk) :
    (s.startCkpt c desc restore).memOk := by
  unfold State.startCkpt
  grind [!memOk_structGet, !memOk_putStatus, fqPush_mem, !memOk_vwrite64]

theorem memOk_writeSvReg {s : State} {c sel v} (hok : s.memOk) : (s.writeSvReg c sel v).memOk := by
  unfold State.writeSvReg
  grind [!memOk_armGang, writeOvq_mem, writeC0res_mem, !memOk_writeFqPtr, makeNotLive_mem, State.onTower_mem, makeLive_mem,
      !memOk_writeWsl, clearMigCnt_mem, writeVlog_mem, !memOk_writeFqBase, !memOk_startCkpt]

theorem memOk_writeRing {s : State} {c v} (hok : s.memOk) : (s.writeRing c v).memOk := by
  unfold State.writeRing
  grind [State.onCtx_mem, !memOk_consume]

theorem memOk_writeTaskReg {s : State} {c sel v} (hok : s.memOk) : (s.writeTaskReg c sel v).memOk := by
  unfold State.writeTaskReg
  grind [!memOk_writeRing, State.onCtx_mem]

theorem memOk_writeReg {s : State} {c sel v} (hok : s.memOk) : (s.writeReg c sel v).memOk := by
  unfold State.writeReg
  grind [!memOk_writeSvReg, !memOk_writeTaskReg]

theorem memOk_handOne {c x held e} {h : Handed} (hok : h.st.memOk) : (handOne c x held h e).st.memOk := by
  fun_cases handOne c x held h e
  case case24 | case25 | case26 | case27 => exact memOk_ite hok (memOk_handOver hok)
  case case32 => exact memOk_writeReg hok
  case case34 => exact memOk_haltTask performerOk hok
  case case37 => exact memOk_windowWrite performerOk hok
  all_goals exact hok

theorem memOk_writeRegs {s : State} {cid rs} (hok : s.memOk) : (s.writeRegs cid rs).memOk :=
  foldl_memOk (fun u r hu => by grind [!memOk_writeReg]) _ hok

theorem memOk_handAll {s : State} {c x} (hok : s.memOk) : (s.handAll c x).st.memOk := by
  have hslots : ((List.range 32).foldl (handOne c x c.engineHeld) ⟨s, [], [], [], [], [], [], [], []⟩).st.memOk :=
    List.foldlRecOn (motive := fun h : Handed => h.st.memOk) _ _ hok fun h hh e _ => memOk_handOne hh
  unfold State.handAll
  exact (congrArg _ (moveHyps_mem ..)).trans (memOk_writeRegs hslots)

theorem memOk_commitNode {s : State} {c x} (hok : s.memOk) : (s.commitNode c x).memOk := by
  unfold State.commitNode
  grind [!memOk_settle, !memOk_handAll, State.tick_mem, State.onCtx_mem, moveTokens_mem]

theorem memOk_commitTask {s : State} {c x} (hok : s.memOk) : (s.commitTask c x).memOk := by
  unfold State.commitTask
  extract_lets h stops u1 u2 u3 u4
  have hh : h.st.memOk := memOk_handAll hok
  have h1 : u1.memOk := memOk_ite (memOk_of_mem (squashFrom_mem ..) hh) hh
  have h2 : u2.memOk := memOk_ite (memOk_of_mem (handlerEnds_mem ..) h1) h1
  have h3 : u3.memOk := memOk_of_mem (State.onCtx_mem ..) h2
  have h4 : u4.memOk := by
    unfold u4
    split
    · exact memOk_of_mem (hypBoundary_mem ..) h3
    · exact h3
  exact memOk_of_mem (State.tick_mem ..) (memOk_settle h4)

theorem memOk_publishBytes {s : State} {v l writer x4} (hok : s.memOk) :
    (s.publishBytes v l writer x4).1.memOk := by
  fun_induction State.publishBytes s v l writer x4 <;> grind [WrOk, !memOk_leafWrite]

theorem memOk_publish {s : State} {c iid eff v} (hok : s.memOk) : (s.publish c iid eff v).memOk := by
  unfold State.publish
  grind [!memOk_publishBytes, State.onCtx_mem, !memOk_walk]

theorem memOk_confirm {s : State} {c iid eff h} (hok : s.memOk) : (s.confirm c iid eff h).memOk := by
  unfold State.confirm
  exact memOk_ite (foldl_memOk (fun u v hu => memOk_publish hu) _ hok)
    (foldl_memOk (fun u v hu => (congrArg _ (mergeVersion_mem ..)).trans hu) _ hok)

theorem memOk_reread {s : State} {asid f} (hok : s.memOk) : (s.reread asid f).1.memOk := by
  unfold State.reread
  grind [!memOk_vread64, !memOk_vread]

theorem memOk_disposeLoad {s : State} {l r replay} (hok : s.memOk) : (s.disposeLoad l r replay).memOk := by
  unfold State.disposeLoad
  grind [disposeMatrix_mem, disposeStore_mem, State.onLoad_mem, !memOk_reread]

theorem memOk_disposeAll {s : State} {l x2} (hok : s.memOk) : (s.disposeAll l x2).memOk := by
  fun_induction State.disposeAll s l x2 <;> grind [!memOk_disposeLoad, discardUnreadLoad_mem]

theorem memOk_dropMember {s : State} {g rec} (hok : s.memOk) : (s.dropMember g rec).memOk := by
  have hctxs (gone : List Ctx) : (gone.foldl (fun (u : State) c => u.dropCtx c.id) s).memOk :=
    foldl_memOk (fun u c hu => (congrArg _ (dropCtx_mem ..)).trans hu) _ hok
  unfold State.dropMember
  refine memOk_rejectRec ?_
  split
  · exact (congrArg _ (forgetTask_mem ..)).trans (hctxs _)
  · exact hctxs _

theorem memOk_edgeStep {s : State} {m q} (hok : s.memOk) : PerfOk (·.1.memOk) (s.edgeStep m q) := by
  fun_cases State.edgeStep s m q <;>
    grind [PerfOk, State.onLoad_mem]

end Sys2Proof.StepMemory
end

section
/-! The memory a step leaves (log 1): faults, windows, engines and fabric loads. -/

namespace Sys2Proof.StepMemory

-- One proof at a time: proofs checked side by side take each a stack of memory.
set_option Elab.async false

open Sys2Proof.Machine

theorem memOk_endRunning {s : State} {c t code cval} (hok : s.memOk) :
    (s.endRunning c t code cval).memOk := by
  unfold State.endRunning
  grind [State.onTask_mem, clear_mem, hypSweep_mem, handlerEnds_mem, leaveRing_mem, dropCtx_mem, !memOk_endTask,
      !memOk_putRecord]

theorem memOk_fabricDone {s : State} {i eff v} (hok : s.memOk) : ActOk (s.fabricDone i eff v) := by
  unfold State.fabricDone
  grind [ActOk, effect_mem, performed_mem, deliverS_mem]

theorem memOk_farApply {s : State} {pa op} (hok : s.memOk) : (s.farApply pa op).memOk := by
  unfold State.farApply
  grind [!memOk_pwrite]

theorem memOk_physPut {s : State} {pa bytes} (hok : s.memOk) : (s.physPut pa bytes).memOk := by
  unfold State.physPut
  grind [dirtyOwned_mem, wakeWatch_mem, !memOk_pwrite, dropOwned_mem, backInvalidate_mem]

theorem memOk_farServe {s : State} {src pa op} (hok : s.memOk) : (s.farServe src pa op).memOk := by
  unfold State.farServe
  grind [eccEntry_mem, farAnswer_mem, !memOk_physPut, !memOk_devWrite]

theorem memOk_fetchParts {s : State} {c cell x3} (hok : s.memOk) : FetchedOk (s.fetchParts c cell x3) := by
  fun_induction State.fetchParts s c cell x3 <;> grind [FetchedOk, PermGetOk, eccEntry_mem, !memOk_permGet]

theorem memOk_fetchBytes {s : State} {c cell va n} (hok : s.memOk) :
    FetchedOk (s.fetchBytes c cell va n) := by
  unfold State.fetchBytes
  grind [FetchedOk, !memOk_fetchParts]

theorem memOk_haltAfter {s : State} {tw k halt} (hok : s.memOk) : (s.haltAfter tw k halt).memOk := by
  unfold State.haltAfter
  grind [!memOk_haltAway, performerOk]

theorem memOk_leaveSaved {s : State} {c t shield} (hok : s.memOk) : (s.leaveSaved c t shield).memOk := by
  unfold State.leaveSaved
  grind [State.onTask_mem, !memOk_haltAway, hypBoundary_mem, clear_mem, reportParked_mem, !memOk_becomeReady, !memOk_taskTo,
      State.onCtx_mem, offLens_mem, !memOk_writeBack, !memOk_putRecord, !memOk_haltAfter, performerOk]

theorem memOk_stopTask {s : State} {c t x others endp} (hok : s.memOk) :
    (s.stopTask c t x others endp).memOk := by
  unfold State.stopTask
  grind [State.onTask_mem, hypBoundary_mem, clear_mem, reportParked_mem, fqPush_mem, !memOk_taskTo, State.onCtx_mem,
      offLens_mem, !memOk_writeBack, !memOk_putRecord, !memOk_haltAfter]

theorem memOk_leaveKilled {s : State} {c t} (hok : s.memOk) : (s.leaveKilled c t).memOk := by
  unfold State.leaveKilled
  grind [State.onTask_mem, !memOk_haltAway, clear_mem, !memOk_becomeReady, offLens_mem, performerOk]

theorem memOk_finishLeave {s : State} {c t how} (hok : s.memOk) : OutOk (s.finishLeave c t how) := by
  unfold State.finishLeave
  grind [OutOk, !memOk_endRunning, !memOk_leaveSaved, State.tick_mem, !memOk_stopTask, !memOk_leaveKilled]

theorem memOk_focusOn {s : State} {c uid iid} (hok : s.memOk) : OptOk (·.1.memOk) (s.focusOn c uid iid) := by
  fun_cases State.focusOn s c uid iid
  case case3 x _ n _ =>
    cases (x.window[n]?).bind fun y => y.instrAt iid with
    | none => trivial
    | some i => exact hok
  all_goals trivial

theorem memOk_forwardTo {s : State} {tw f src pa op} (hok : s.memOk) :
    (s.forwardTo tw f src pa op).memOk := by
  unfold State.forwardTo
  grind [State.onTower_mem, !memOk_farApply]

theorem memOk_gangStatus {s : State} {g n} (hok : s.memOk) : (s.gangStatus g n).memOk := by
  unfold State.gangStatus
  grind [!memOk_putStatus]

theorem memOk_haltRunning {s : State} {c t act} (hok : s.memOk) : OutOk (s.haltRunning c t act) := by
  unfold State.haltRunning
  grind [OutOk, clear_mem, !memOk_settle, !memOk_endRunning, State.tick_mem, State.onCtx_mem, discardFaults_mem]

theorem memOk_homeStep {s : State} {c} (hok : s.memOk) : (s.homeStep c).memOk := by
  unfold State.homeStep
  grind [askStores_mem, !memOk_applyStore, State.tick_mem]

theorem memOk_windowSubmit {s : State} {tw win} (hok : s.memOk) : (s.windowSubmit tw win).memOk := by
  unfold State.windowSubmit
  grind [State.onWindow_mem, !memOk_submitNow]

theorem memOk_submitPut {s : State} {tw win off bytes} (hok : s.memOk) :
    (s.submitPut tw win off bytes).memOk := by
  unfold State.submitPut
  grind [State.onWindow_mem, windowStreamWait_mem, !memOk_vwrite, !memOk_vread, State.onTower_mem, !memOk_windowSubmit,
      windowErr_mem]

theorem memOk_windowPut {s : State} {tw win off bytes} (hok : s.memOk) :
    (s.windowPut tw win off bytes).memOk := by
  unfold State.windowPut
  grind [State.onWindow_mem, !memOk_submitPut]

theorem memOk_hostDevWrite {s : State} {pa off bytes} (hok : s.memOk) :
    (s.hostDevWrite pa off bytes).memOk := by
  unfold State.hostDevWrite
  grind [!memOk_devWrite, !memOk_windowPut]

theorem memOk_loadRecs {s : State} {rd l x3} (hok : s.memOk) : (s.loadRecs rd l x3).1.memOk := by
  fun_induction State.loadRecs s rd l x3 <;> grind [!memOk_taskRead, fqStruct_mem]

theorem memOk_statusWrite {s : State} {tw slot} (hok : s.memOk) : (s.statusWrite tw slot).memOk := by
  fun_cases State.statusWrite s tw slot
  case case3 =>
    exact memOk_vwrite64 (foldl_memOk (fun u n hu => memOk_of_mem (released_mem ..) hu) _ hok)
  all_goals exact hok

theorem memOk_loadTo {s : State} {tw slot st} (hok : s.memOk) : (s.loadTo tw slot st).memOk := by
  unfold State.loadTo
  grind [!memOk_statusWrite, State.onLoad_mem]

theorem memOk_matrixFault {s : State} {m q k cause va} (hok : s.memOk) :
    (s.matrixFault m q k cause va).memOk := by
  unfold State.matrixFault
  grind [!memOk_engineFault, State.setNode_mem]

theorem memOk_mboxReply {s : State} {m bs} (hok : s.memOk) : (s.mboxReply m bs).memOk := by
  unfold State.mboxReply
  grind [!memOk_pwrite, mboxEnd_mem]

theorem memOk_migrate {s : State} {tw frame src} (hok : s.memOk) : (s.migrate tw frame src).memOk := by
  unfold State.migrate
  grind [migAbandon_mem, shootAll_mem, !memOk_pwrite, State.onTower_mem, !memOk_partWrite, shootCells_mem]

theorem memOk_streamFault {s : State} {l k kd va page iters idx} (hok : s.memOk) :
    (s.streamFault l k kd va page iters idx).memOk := by
  unfold State.streamFault
  grind [onStream_mem, !memOk_engineFault]

theorem memOk_amoAct {s : State} {i eff size sc rlx op v} (hok : s.memOk) :
    ActOk (amoAct i eff size sc rlx op v s) := by
  unfold amoAct
  grind [ActOk, !memOk_atomic]

theorem memOk_syncAdvance {s : State} {c m named force} (hok : s.memOk) :
    (s.syncAdvance c m named force).1.memOk :=
  foldl_memOk (fun u n hu => memOk_of_mem (advance_mem ..) hu) _ hok

theorem memOk_fabricAct {s : State} {i eff v} {act : Ctx → Inst → Word → Word → State → Act}
    (hact : ∀ c x a b t, t.memOk → ActOk (act c x a b t)) (hok : s.memOk) : ActOk (fabricAct i eff v s act) := by
  unfold fabricAct
  grind [GateOk, ActOk, !memOk_gate, releaseHere_mem]

theorem memOk_runLoad {s : State} {l} (hok : s.memOk) : (s.runLoad l).memOk := by
  unfold State.runLoad
  refine memOk_loadTo (memOk_of_mem (State.onLoad_mem ..) (foldl_memOk (fun u c hu => ?_) _ hok))
  exact memOk_of_mem (acquired_mem ..) (memOk_ite (memOk_of_mem (squashFrom_mem ..) hu) hu)

theorem memOk_waitvRead {s : State} {i eff va acq} (hok : s.memOk) : ActOk (s.waitvRead i eff va acq) := by
  unfold State.waitvRead
  grind [ActOk, loadPoison_mem, !memOk_loadAll, loadWord_mem]

theorem memOk_takePage {s : State} {src pa asid page bytes} (hok : s.memOk) :
    (s.takePage src pa asid page bytes).memOk := by
  unfold State.takePage
  grind [shootAll_mem, State.onTower_mem, farAnswer_mem, !memOk_partWrite, shootCells_mem]

theorem memOk_sendMsg {s : State} {i tw cell pkg m} (hok : s.memOk) : ActOk (s.sendMsg i tw cell pkg m) := by
  unfold State.sendMsg
  grind [ActOk, State.onInst_mem, effect_mem, State.onInbox_mem, effectPoison_mem, beginWait_mem]

theorem memOk_recordOn {s : State} {c r} (hok : s.memOk) : (s.recordOn c r).memOk := by
  unfold State.recordOn
  grind [holdNode_mem, !memOk_vwrite, recOut_mem, !memOk_settle, State.tick_mem, State.onCtx_mem, !memOk_dispose, learn_mem,
      fqRecord_mem]

theorem memOk_recordLoad {s : State} {tw slot r} (hok : s.memOk) : (s.recordLoad tw slot r).memOk := by
  unfold State.recordLoad
  grind [!memOk_vwrite, !memOk_disposeLoad, recOut_mem, recordedIn_mem, !memOk_statusWrite, State.onLoad_mem, State.tick_mem,
      fqRecord_mem]

theorem memOk_recordOff {s : State} {tw t r} (hok : s.memOk) : (s.recordOff tw t r).memOk := by
  unfold State.recordOff
  grind [holdNode_mem, !memOk_vwrite, !memOk_vread, recOut_mem, !memOk_structPut, State.tick_mem, !memOk_dispose, learn_mem,
      fqRecord_mem]

theorem memOk_recordOut {s : State} {r} (hok : s.memOk) : (s.recordOut r).memOk := by
  unfold State.recordOut
  grind [!memOk_endedFault, !memOk_recordOn, recOut_mem, !memOk_recordLoad, State.tick_mem, !memOk_recordOff]

theorem memOk_spansRead {s : State} {asid hyp x3} (hok : s.memOk) :
    PerfOk (·.1.memOk) (s.spansRead asid hyp x3) := by
  fun_induction State.spansRead s asid hyp x3 <;> grind [PerfOk, !memOk_vread]

theorem memOk_spansWrite {s : State} {asid hyp writer x4} (hok : s.memOk) :
    PerfOk State.memOk (s.spansWrite asid hyp writer x4) := by
  fun_induction State.spansWrite s asid hyp writer x4 <;> grind [PerfOk, !memOk_vwriteH]

theorem memOk_perform {s : State} {m q} (hok : s.memOk) : PerfOk (·.1.memOk) (s.perform m q) := by
  unfold State.perform
  grind [PerfOk, !memOk_spansRead, !memOk_spansWrite]

theorem memOk_tryCmd {s : State} {m q} (hok : s.memOk) : OptOk State.memOk (s.tryCmd m q) := by
  unfold State.tryCmd
  grind [OptOk, PerfOk, !memOk_edgeStep, !memOk_perform, !memOk_matrixFault, State.setNode_mem]

theorem memOk_pagesHave {s : State} {asid bit x3} (hok : s.memOk) : (s.pagesHave asid bit x3).1.memOk := by
  fun_induction State.pagesHave s asid bit x3 <;> grind [!memOk_walk]

theorem memOk_register {s : State} {c bs} (hok : s.memOk) : (s.register c bs).1.memOk := by
  unfold State.register
  grind [!memOk_pagesHave, forgetSyncs_mem, State.onTower_mem, !memOk_walk]

theorem memOk_refute {s : State} {r} (hok : s.memOk) : (s.refute r).1.memOk := by
  unfold State.refute
  grind

theorem memOk_resolveHyps {s : State} {x iid eff c r} (hok : s.memOk) :
    (s.resolveHyps x iid eff c r).1.memOk := by
  unfold State.resolveHyps
  grind [hypSweep_mem, !memOk_confirm, !memOk_refute]

theorem memOk_record6 {s : State} {l node k clause eff iid idx idx2} (hok : s.memOk) :
    (s.record6 l node k clause eff iid idx idx2).memOk := by
  unfold State.record6
  grind [!memOk_engineFault]

theorem memOk_vreadAll {s : State} {asid base x3} (hok : s.memOk) : (s.vreadAll asid base x3).1.memOk := by
  fun_induction State.vreadAll s asid base x3 <;> grind [!memOk_vread]

theorem memOk_orphanEnd {s : State} {c t} (hok : s.memOk) : OutOk (s.orphanEnd c t) := by
  unfold State.orphanEnd
  grind [OutOk, clear_mem, !memOk_settle, !memOk_endRunning, State.tick_mem, State.onCtx_mem, discardFaults_mem]

theorem memOk_serve {s : State} {c t up} (hok : s.memOk) : OutOk (s.serve c t up) := by
  unfold State.serve
  grind [OutOk, RecheckOk, clear_mem, !memOk_recheck, !memOk_orphanEnd, rerun_mem, State.tick_mem, State.onCtx_mem,
      !memOk_stopTask]

theorem memOk_tryCommit {s : State} {c x} {go : State → Ctx → Inst → State} (hgo : ∀ t y z, t.memOk → (go t y z).memOk)
    (hok : s.memOk) : (s.tryCommit c x go).memOk := by
  fun_cases State.tryCommit s c x go <;> grind [LoadsOk, !memOk_performLoads, rerun_mem]

theorem memOk_nodeBad {s : State} {l n x k eff iid} (hok : s.memOk) : (s.nodeBad l n x k eff iid).memOk := by
  unfold State.nodeBad
  grind [!memOk_record6, State.tick_mem]

theorem memOk_spawnAct {s : State} {i mk v} (hok : s.memOk) : ActOk (spawnAct i mk v s) := by
  unfold spawnAct
  grind [ActOk, State.onInst_mem, effect_mem, State.onTower_mem, effectPoison_mem, beginWait_mem]

/- A node's image is long, and unfolding its reading costs the kernel much: in this lemma and the next the inner reading is
made a variable before the match on its result is looked at. -/
theorem memOk_readNode {s : State} {asid base m} (hok : s.memOk) : (s.readNode asid base m).1.memOk := by
  have hread : (s.vread asid base 0x4C140 0).1.memOk := memOk_vread hok
  obtain ⟨readNode, h⟩ : ∃ f, f = State.readNode := ⟨_, rfl⟩
  rw [← h]
  delta State.readNode at h
  subst h
  revert hread
  generalize State.vread = vread
  intro hread
  as_aux_lemma =>
    beta_reduce
    generalize vread s asid base 0x4C140 0 = r at hread ⊢
    obtain ⟨t, bs | ⟨k, a⟩⟩ := r
    · have ht : t.memOk := hread
      exact ht
    · have ht : t.memOk := hread
      exact ht

theorem memOk_restoreNode {s : State} {l old area k m} (hok : s.memOk) :
    (s.restoreNode l old area k m).1.memOk := by
  have hread : (s.readNode l.asid (area + w64 (0x80000 + 0x50000 * k)) m).1.memOk := memOk_readNode hok
  obtain ⟨restoreNode, h⟩ : ∃ f, f = State.restoreNode := ⟨_, rfl⟩
  rw [← h]
  delta State.restoreNode at h
  subst h
  revert hread
  generalize State.readNode = readNode
  intro hread
  as_aux_lemma =>
    beta_reduce
    generalize readNode s l.asid (area + w64 (0x80000 + 0x50000 * k)) m = r at hread ⊢
    obtain ⟨t, _ | x⟩ := r
    · exact hread
    · exact hread

theorem memOk_restoreNodes {s : State} {l old area ns} (hok : s.memOk) :
    OptOk State.memOk (s.restoreNodes l old area ns) := by
  have hnode := fun (t : State) (k : Nat) (m : MNode) (ht : t.memOk) =>
    memOk_restoreNode (l := l) (old := old) (area := area) (k := k) (m := m) ht
  -- The offsets of the image make the reading of a node costly to unfold: it is kept opaque.
  delta State.restoreNodes State.restoreNodes._f
  revert hnode
  generalize State.restoreNode = restoreNode
  intro hnode
  as_aux_lemma =>
    dsimp only [List.brecOn, List.brecOn.go]
    induction ns generalizing s with
    | nil => exact hok
    | cons p ns ih =>
      have hp := hnode s p.1 p.2 hok
      dsimp only
      split
      · trivial
      next e => exact ih (memOk_of_mem (State.setNode_mem ..) (fst_memOk_of_eq e hp))

theorem OptOk.map {α : Type} {p : α → Prop} {f : α → State} {o : Option α} (h : OptOk p o) (hf : ∀ a, p a → (f a).memOk) :
    OptOk State.memOk (o.map f) := by
  cases o with
  | none => trivial
  | some a => exact hf a h

theorem OptOk.bind {α β : Type} {p : β → Prop} {f : α → Option β} {o : Option α} (hf : ∀ a, OptOk p (f a)) :
    OptOk p (o.bind f) := by
  cases o with
  | none => trivial
  | some a => exact hf a

theorem OptOk.of_bind {α β : Type} {p : β → Prop} {f : α → Option β} {o : Option α} {b : β} (e : o.bind f = some b)
    (hf : ∀ a, OptOk p (f a)) : p b :=
  (e ▸ OptOk.bind hf : OptOk p (some b))

theorem memOk_restoreLoad {s : State} {l old area} (hok : s.memOk) :
    OptOk State.memOk (s.restoreLoad l old area) := by
  unfold State.restoreLoad
  extract_lets nc ne parts
  split
  · trivial
  next t bss e =>
    have ht : t.memOk := fst_memOk_of_eq e (memOk_vreadAll hok)
    exact OptOk.bind fun st => OptOk.map (memOk_restoreNodes ht) fun u hu => memOk_of_mem (State.onLoad_mem ..) hu

theorem memOk_windowResume {s : State} {tw win x3} (hok : s.memOk) : (s.windowResume tw win x3).memOk := by
  fun_induction State.windowResume s tw win x3 <;> grind [!memOk_windowPut]

theorem memOk_windowGo {s : State} {tw win} (hok : s.memOk) : (s.windowGo tw win).memOk := by
  unfold State.windowGo
  grind [State.onWindow_mem, !memOk_windowResume, !memOk_windowSubmit]

theorem memOk_streamGo {s : State} {tw} (hok : s.memOk) : OptOk State.memOk (s.streamGo tw) := by
  unfold State.streamGo
  dsimp only
  cases (s.tower tw).streamWaits.find? fun w => !(s.tower tw).streamFull w.strm with
  | none => trivial
  | some w =>
    have hu {f} : (s.onTower tw f).memOk := memOk_of_mem (State.onTower_mem ..) hok
    rw [Option.map_some]
    split
    · exact memOk_submitNow hu
    · exact memOk_windowGo hu

theorem memOk_translate {s : State} {tw asid page acc} (hok : s.memOk) :
    (s.translate tw asid page acc).1.memOk := by
  unfold State.translate
  grind [State.onTower_mem, !memOk_walk]

theorem memOk_serveWalk {s : State} {tw qs} (hok : s.memOk) : (s.serveWalk tw qs).memOk := by
  refine foldl_memOk (fun u a hu => ?_) _ hok
  split
  · exact hu
  · exact memOk_of_mem (State.onTower_mem ..) (memOk_translate hu)

theorem memOk_snapshot {s : State} {m tile x3} (hok : s.memOk) : (s.snapshot m tile x3).1.memOk := by
  fun_induction State.snapshot s m tile x3 <;> grind [!memOk_vread]

theorem memOk_regrant {s : State} {m} (hok : s.memOk) : OutOk (s.regrant m) := by
  unfold State.regrant
  grind [OutOk, State.tick_mem]

theorem memOk_restoreFails {s : State} {m k kind va} (hok : s.memOk) :
    OutOk (s.restoreFails m k kind va) := by
  unfold State.restoreFails
  grind [OutOk, !memOk_stopOff, !memOk_ovqStore, State.tick_mem, !memOk_matrixFault]

theorem memOk_fire {s : State} {i} {act : Vals → State → Act} (hact : ∀ v, ActOk (act v s)) (hok : s.memOk) :
    OutOk (fire s i act) := by
  fun_cases fire s i act
  case case7 v _ t e => exact (e ▸ hact v : ActOk (.waits t))
  case case8 v _ t e =>
    exact memOk_of_mem ((State.tick_mem ..).trans (State.onInst_mem ..)) (e ▸ hact v : ActOk (.fires t))
  all_goals grind [OutOk, State.onInst_mem, State.tick_mem]

theorem memOk_waitvEnd {s : State} {c iid i} (hok : s.memOk) : OutOk (s.waitvEnd c iid i) := by
  have hu : ({ s with focus := ⟨c.id, 0, iid, s.focus.spec⟩ } : State).memOk := hok
  unfold State.waitvEnd
  generalize ({ s with focus := ⟨c.id, 0, iid, s.focus.spec⟩ } : State) = u at hu
  dsimp only
  split
  · refine memOk_fire (fun v => ?_) hu
    split
    next e => exact memOk_of_mem (State.onInst_mem ..) (e ▸ memOk_waitvRead hu : ActOk (.fires _))
    next e => exact (e ▸ memOk_waitvRead hu : ActOk (.waits _))
  · exact hu

theorem memOk_place {s : State} {tw t base width ns frozen} (hok : s.memOk) :
    (s.place tw t base width ns frozen).memOk := by
  unfold State.place
  grind [State.onTask_mem, !memOk_stopOff, !memOk_putHyp, bindMove_mem, !memOk_settle, State.onTower_mem, !memOk_buildCtx,
      !memOk_ovqStore, !memOk_taskTo]

/-- What the performing of a command's units asks of its operations (13 R289). -/
structure UnitOpsOk (o : UnitOps) : Prop where
  list : ∀ {t page is}, t.memOk → (o.list t page is).memOk
  fault : ∀ {t k va page is}, t.memOk → (o.fault t k va page is).memOk
  whole : ∀ {t}, t.memOk → (o.whole t).memOk
  run : ∀ {t is}, t.memOk → SResOk State.memOk (o.run t is)

theorem memOk_unitParts {s : State} {o n todo} (ho : UnitOpsOk o) (hok : s.memOk) :
    (unitParts o n s todo).1.memOk := by
  fun_induction unitParts o n s todo
  case case3 ih => exact ih (foldl_memOk (fun t r ht => ho.list ht) _ hok)
  case case4 e => exact (e ▸ ho.run hok : SResOk State.memOk (.ok _))
  case case7 => exact ho.whole hok
  case case9 e _ _ ih => exact ih (ho.fault (e ▸ ho.run hok : SResOk State.memOk (.bad _ _ _)))
  all_goals exact hok

theorem unitOpsOk_scmd (id : Nat) (j : Job) (u : Nat) : UnitOpsOk (SCmd.unitOps id j u) where
  list ht := memOk_of_mem (State.onScmd_mem ..) ht
  fault {t _ _ _ _} ht := by
    unfold SCmd.unitOps
    dsimp only
    cases t.scmds.find? fun x => decide (x.id = id) with
    | none => exact ht
    | some q => exact memOk_scmdFault ht
  whole {t} ht := by
    unfold SCmd.unitOps
    dsimp only
    cases t.scmds.find? fun x => decide (x.id = id) with
    | none => exact ht
    | some q => exact memOk_scmdFault ht
  run {t is} ht := by
    unfold SCmd.unitOps
    dsimp only
    split
    next e => exact memOk_of_mem (State.onScmd_mem ..) (e ▸ memOk_Job_step ht : SResOk State.memOk (.ok _))
    next => exact memOk_Job_step ht

theorem memOk_unitStep {s : State} {id j u todo} (hok : s.memOk) :
    OptOk State.memOk (s.unitStep id j u todo) := by
  have hparts := memOk_unitParts (n := 20) (todo := todo) (unitOpsOk_scmd id j u) hok
  unfold State.unitStep
  grind [OptOk, State.onScmd_mem]

theorem memOk_runUnits {s : State} {id j fuel} (hok : s.memOk) : (s.runUnits id j fuel).memOk := by
  fun_induction State.runUnits s id j fuel <;> grind [OptOk, !memOk_unitStep, State.onScmd_mem]

theorem memOk_startScmd {s : State} {cmd} (hok : s.memOk) : (s.startScmd cmd).memOk := by
  have hfails {q : SCmd} {k cause va page is n} :
      (if s.pauses q.org then s else (s.scmdFault q k cause va page is n).tick).memOk :=
    memOk_ite hok (memOk_of_mem (State.tick_mem ..) (memOk_scmdFault hok))
  fun_cases State.startScmd s cmd
  case case4 =>
    exact memOk_of_mem ((State.tick_mem ..).trans (State.onScmd_mem ..)) (memOk_descsRead (fun t a ht => memOk_vread ht) hok)
  case case6 | case7 | case11 => exact hfails
  case case9 => exact memOk_of_mem (State.tick_mem ..) (memOk_runUnits hok)
  case case12 s1 s2 _ _ =>
    have h1 : s1.memOk := by
      unfold s1
      split
      · exact memOk_of_mem (State.setNode_mem ..) hok
      · exact hok
    exact memOk_of_mem (State.tick_mem ..) (memOk_runUnits (memOk_of_mem (State.onScmd_mem ..) h1))
  all_goals exact hok

theorem memOk_sourceUnit {s : State} {j d e} (hok : s.memOk) : (s.sourceUnit j d e).1.memOk := by
  unfold State.sourceUnit
  grind [SResOk, !memOk_Job_fetch]

theorem memOk_sourceUnits {s : State} {j d x3} (hok : s.memOk) : (s.sourceUnits j d x3).1.memOk := by
  fun_induction State.sourceUnits s j d x3 <;> grind [!memOk_sourceUnit]

theorem memOk_sourceToken {s : State} {l k f n again} (hok : s.memOk) :
    (s.sourceToken l k f n again).memOk := by
  unfold State.sourceToken
  grind [onStream_mem, State.onLoad_mem, State.tick_mem, !memOk_sourceUnits, !memOk_engineFault]

theorem memOk_sinkTake {s : State} {l k f} (hok : s.memOk) : (s.sinkTake l k f).memOk := by
  unfold State.sinkTake
  grind [!memOk_streamFault, onStream_mem, State.onLoad_mem, State.tick_mem]

theorem unitOpsOk_sink (l : Load) (k run : Nat) (j : Job) (code bits u : Nat) :
    UnitOpsOk (sinkOps l k run j code bits u) where
  list ht := memOk_of_mem (onStream_mem ..) ht
  fault ht := memOk_streamFault ht
  whole ht := memOk_streamFault ht
  run {t is} ht := by
    unfold sinkOps
    dsimp only
    split
    next e => exact memOk_of_mem (onStream_mem ..) (e ▸ memOk_Job_store ht : SResOk State.memOk (.ok _))
    next => exact memOk_Job_store ht

theorem memOk_sinkUnit {s : State} {l k run j code bits u todo} (hok : s.memOk) :
    OptOk State.memOk (s.sinkUnit l k run j code bits u todo) := by
  have hparts := memOk_unitParts (n := 20) (todo := todo) (unitOpsOk_sink l k run j code bits u) hok
  unfold State.sinkUnit
  grind [OptOk, onStream_mem]

theorem memOk_sinkUnits {s : State} {l k run j code bits fuel} (hok : s.memOk) :
    (s.sinkUnits l k run j code bits fuel).memOk := by
  fun_induction State.sinkUnits s l k run j code bits fuel <;> grind [OptOk, onStream_mem, !memOk_sinkUnit]

theorem memOk_sinkStep {s : State} {l k f} (hok : s.memOk) : (s.sinkStep l k f).memOk := by
  unfold State.sinkStep
  grind [OptOk, !memOk_sinkTake, onStream_mem, !memOk_sinkUnit, State.tick_mem, !memOk_sinkUnits]

theorem memOk_streamStep {s : State} {l k f} (hok : s.memOk) : (s.streamStep l k f).memOk := by
  unfold State.streamStep
  grind [!memOk_sourceToken, !memOk_streamFault, onStream_mem, !memOk_sinkStep, State.tick_mem]

theorem memOk_placeMember {s : State} {g rec} (hok : s.memOk) : OptOk State.memOk (s.placeMember g rec) := by
  have hread {t r} (e : s.structGet g.tower g.asid rec rec 64 = (t, r)) : t.memOk := fst_memOk_of_eq e (memOk_structGet hok)
  have hlisted {u : State} {ts h} (hu : u.memOk) : ((u.onTower g.tower ts).hypCount h true).memOk :=
    memOk_of_mem ((hypCount_mem ..).trans (State.onTower_mem ..)) hu
  fun_cases State.placeMember s g rec
  case case1 e => exact hread e
  case case3 => exact memOk_rejectRec (memOk_checkRec (hread ‹_›))
  case case6 r _ _ _ _ _ _ _ _ _ _ q1 _ _ _ _ =>
    have hr : r.1.memOk := memOk_checkRec (hread ‹_›)
    clear_value q1
    exact memOk_makeReady (memOk_of_mem (State.onTask_mem ..) (hlisted (memOk_ite hr (memOk_structPut hr))))
  case case7 r _ _ _ _ _ _ _ _ _ _ q1 _ _ _ =>
    have hr : r.1.memOk := memOk_checkRec (hread ‹_›)
    clear_value q1
    exact memOk_place (hlisted (memOk_ite hr (memOk_structPut hr)))
  all_goals trivial

end Sys2Proof.StepMemory
end

section
/-! The memory a step leaves (log 1): the rows of the opcode table, first half. -/

namespace Sys2Proof.StepMemory

-- One proof at a time: proofs checked side by side take each a stack of memory.
set_option Elab.async false

open Sys2Proof.Machine

theorem memOk_regEvent {s : State} {c} {f : Ctx → State} (hf : ∀ x, (f x).memOk) (hok : s.memOk) :
    OutOk (regEvent s c f) := by
  unfold regEvent
  grind [OutOk, State.tick_mem]

theorem memOk_mboxServe {s : State} {m code} {f : State → State} (hf : ∀ t, t.memOk → (f t).memOk) (hok : s.memOk) :
    OutOk (mboxServe s m code f) := by
  unfold mboxServe
  grind [OutOk, State.tick_mem]

theorem memOk_execAfringWrite {s : State} {c v} (hok : s.memOk) : OutOk (execAfringWrite c v s) := by
  unfold execAfringWrite
  refine memOk_regEvent (fun x => ?_) hok
  grind [!memOk_writeTaskReg]

theorem OptOk.getD {o : Option State} {s : State} (h : OptOk State.memOk o) (hok : s.memOk) :
    (o.getD s).memOk := by
  cases o with
  | none => exact hok
  | some t => exact h

theorem OptOk.findSome {α : Type} {f : α → Option State} (hf : ∀ a, OptOk State.memOk (f a)) (xs : List α) :
    OptOk State.memOk (xs.findSome? f) := by
  cases h : xs.findSome? f with
  | none => trivial
  | some t =>
    obtain ⟨a, _, ha⟩ := List.exists_of_findSome?_eq_some h
    exact ha ▸ hf a

theorem memOk_execAfterimageRecordWrite {s : State} {c} (hok : s.memOk) :
    OutOk (execAfterimageRecordWrite c s) := by
  fun_cases execAfterimageRecordWrite c s
  case case1 => exact hok
  case case2 => exact memOk_recordOut hok
  case case3 =>
    refine OptOk.getD (OptOk.findSome (fun r => ?_) _) hok
    have hr := memOk_recordOut (r := r) hok
    grind [OptOk]

theorem memOk_execAfwait {s : State} {pr eff t} (hok : s.memOk) : OutOk (execAfwait pr eff t s) := by
  unfold execAfwait
  refine memOk_fire (fun v => ?_) hok
  grind [ActOk, effect_mem, deliverS_mem]

theorem memOk_execAmoadd {s : State} {pr eff size sc rlx t} (hok : s.memOk) :
    OutOk (execAmoadd pr eff size sc rlx t s) := by
  unfold execAmoadd
  refine memOk_fire (fun v => ?_) hok
  grind [ActOk, !memOk_amoAct]

theorem memOk_execAmoand {s : State} {pr eff size sc rlx t} (hok : s.memOk) :
    OutOk (execAmoand pr eff size sc rlx t s) := by
  unfold execAmoand
  refine memOk_fire (fun v => ?_) hok
  grind [ActOk, !memOk_amoAct]

theorem memOk_execAmocas {s : State} {pr eff size sc rlx t} (hok : s.memOk) :
    OutOk (execAmocas pr eff size sc rlx t s) := by
  unfold execAmocas
  refine memOk_fire (fun v => ?_) hok
  grind [ActOk, !memOk_atomic]

theorem memOk_execAmofadd {s : State} {pr eff size sc rlx t} (hok : s.memOk) :
    OutOk (execAmofadd pr eff size sc rlx t s) := by
  unfold execAmofadd
  refine memOk_fire (fun v => ?_) hok
  grind [ActOk, !memOk_amoAct]

theorem memOk_execAmomax {s : State} {pr eff size sc rlx t} (hok : s.memOk) :
    OutOk (execAmomax pr eff size sc rlx t s) := by
  unfold execAmomax
  refine memOk_fire (fun v => ?_) hok
  grind [ActOk, !memOk_amoAct]

theorem memOk_execAmomaxu {s : State} {pr eff size sc rlx t} (hok : s.memOk) :
    OutOk (execAmomaxu pr eff size sc rlx t s) := by
  unfold execAmomaxu
  refine memOk_fire (fun v => ?_) hok
  grind [ActOk, !memOk_amoAct]

theorem memOk_execAmomin {s : State} {pr eff size sc rlx t} (hok : s.memOk) :
    OutOk (execAmomin pr eff size sc rlx t s) := by
  unfold execAmomin
  refine memOk_fire (fun v => ?_) hok
  grind [ActOk, !memOk_amoAct]

theorem memOk_execAmominu {s : State} {pr eff size sc rlx t} (hok : s.memOk) :
    OutOk (execAmominu pr eff size sc rlx t s) := by
  unfold execAmominu
  refine memOk_fire (fun v => ?_) hok
  grind [ActOk, !memOk_amoAct]

theorem memOk_execAmoor {s : State} {pr eff size sc rlx t} (hok : s.memOk) :
    OutOk (execAmoor pr eff size sc rlx t s) := by
  unfold execAmoor
  refine memOk_fire (fun v => ?_) hok
  grind [ActOk, !memOk_amoAct]

theorem memOk_execAmoswp {s : State} {pr eff size sc rlx t} (hok : s.memOk) :
    OutOk (execAmoswp pr eff size sc rlx t s) := by
  unfold execAmoswp
  refine memOk_fire (fun v => ?_) hok
  grind [ActOk, !memOk_amoAct]

theorem memOk_execAmoxor {s : State} {pr eff size sc rlx t} (hok : s.memOk) :
    OutOk (execAmoxor pr eff size sc rlx t s) := by
  unfold execAmoxor
  refine memOk_fire (fun v => ?_) hok
  grind [ActOk, !memOk_amoAct]

theorem memOk_execAmreply {s : State} {pr eff} (hok : s.memOk) : OutOk (execAmreply pr eff s) := by
  unfold execAmreply
  refine memOk_fire (fun v => ?_) hok
  grind [ActOk, !memOk_sendMsg, effectPoison_mem]

theorem memOk_execAmsend {s : State} {pr eff} (hok : s.memOk) : OutOk (execAmsend pr eff s) := by
  unfold execAmsend
  refine memOk_fire (fun v => ?_) hok
  grind [ActOk, !memOk_sendMsg, effectPoison_mem]

theorem memOk_execAsidMakeLive {s : State} {asid} (hok : s.memOk) : OutOk (execAsidMakeLive asid s) := by
  unfold execAsidMakeLive
  grind [OutOk, makeLive_mem, State.tick_mem]

theorem memOk_execAsidMakeNotLive {s : State} {asid} (hok : s.memOk) :
    OutOk (execAsidMakeNotLive asid s) := by
  unfold execAsidMakeNotLive
  grind [OutOk, makeNotLive_mem, State.tick_mem]

theorem memOk_execAttest {s : State} {m} (hok : s.memOk) : OutOk (execAttest m s) := by
  unfold execAttest
  refine memOk_mboxServe (fun t ht => ?_) hok
  grind [!memOk_mboxReply]

theorem memOk_execBara {s : State} {pr eff sc t} (hok : s.memOk) : OutOk (execBara pr eff sc t s) := by
  unfold execBara
  refine memOk_fire (fun v => ?_) hok
  grind [ActOk, !memOk_atomic]

theorem memOk_execBubbleIteration {s : State} {c} (hok : s.memOk) : OutOk (execBubbleIteration c s) := by
  fun_cases execBubbleIteration c s
  case case6 =>
    refine memOk_of_mem ((State.tick_mem ..).trans (State.onCtx_mem ..))
      (foldl_memOk (fun u p hu => ?_) _ (foldl_memOk (fun u p hu => ?_) _ ?_))
    · split
      · exact memOk_of_mem (State.onLoad_mem ..) hu
      · exact hu
    · split
      · exact memOk_of_mem (State.onLoad_mem ..) hu
      · exact hu
    · exact memOk_of_mem (release_mem ..) hok
  all_goals exact hok

theorem memOk_execC0resWrite {s : State} {tw v} (hok : s.memOk) : OutOk (execC0resWrite tw v s) := by
  unfold execC0resWrite
  grind [OutOk, writeC0res_mem, State.tick_mem]

theorem memOk_execCapOverrun {s : State} (hok : s.memOk) : OutOk (execCapOverrun s) := by
  fun_cases execCapOverrun s
  case case2 => exact memOk_of_mem ((State.tick_mem ..).trans (fqMachine_mem ..)) hok
  all_goals exact hok

theorem memOk_execCheadWrite {s : State} {tw win v} (hok : s.memOk) : OutOk (execCheadWrite tw win v s) := by
  unfold execCheadWrite
  grind [OutOk, State.tick_mem, !memOk_windowPut]

theorem memOk_execCheckImage {s : State} {m} (hok : s.memOk) : OutOk (execCheckImage m s) := by
  unfold execCheckImage
  refine memOk_mboxServe (fun t ht => ?_) hok
  grind [!memOk_mboxReply]

theorem memOk_execCheckpointDone {s : State} {failed image} (hok : s.memOk) :
    OutOk (execCheckpointDone failed image s) := by
  have hstatus {t : State} {tw asid stat n} (ht : t.memOk) : (t.putStatus tw asid stat n).tick.memOk :=
    memOk_of_mem (State.tick_mem ..) (memOk_putStatus ht)
  fun_cases execCheckpointDone failed image s
  case case3 => exact hstatus hok
  case case4 =>
    refine hstatus ?_
    exact List.foldlRecOn (motive := fun m => Memory.wf m = true) _ _ (Memory.wf_filter hok _)
      fun m hm b _ => Memory.wf_set hm _ _
  case case5 => exact hstatus hok
  all_goals exact hok

theorem memOk_execCheckpointStart {s : State} {c desc} (hok : s.memOk) :
    OutOk (execCheckpointStart c desc s) := by
  unfold execCheckpointStart
  refine memOk_regEvent (fun x => ?_) hok
  grind [!memOk_startCkpt]

theorem memOk_execClassAging {s : State} {tw} (hok : s.memOk) : OutOk (execClassAging tw s) := by
  unfold execClassAging
  grind [OutOk, State.onTower_mem, State.tick_mem]

theorem memOk_execClauseCommit {s : State} {c} (hok : s.memOk) : OutOk (execClauseCommit c s) := by
  fun_cases execClauseCommit c s <;>
    grind [OutOk, RecheckOk, !memOk_recheck, !memOk_commitTask, rerun_mem, !memOk_commitNode, !memOk_tryCommit, !memOk_nodeBad]

theorem memOk_fetchFrom {s : State} {c addr} (hok : s.memOk) : (s.fetchFrom c addr).memOk := by
  fun_cases State.fetchFrom s c addr <;> grind [FetchedOk, !memOk_fetchBytes, placeInst_mem]

theorem memOk_execClauseFetch {s : State} {c} (hok : s.memOk) : OutOk (execClauseFetch c s) := by
  unfold execClauseFetch
  grind [OutOk, !memOk_fetchFrom, placeInst_mem]

theorem memOk_execCline {s : State} {pr eff op} (hok : s.memOk) : OutOk (execCline pr eff op s) := by
  unfold execCline
  refine memOk_fire (fun v => ?_) hok
  grind [ActOk, PermGetOk, GateOk, !memOk_gated, takeNotes_mem, notePoison_mem, effect_mem, clineDo_mem, !memOk_permGet,
      performed_mem, !memOk_gate, effectPoison_mem, beginWait_mem]

theorem memOk_execClusterRetire {s : State} {tw cluster} (hok : s.memOk) :
    OutOk (execClusterRetire tw cluster s) := by
  unfold execClusterRetire
  grind [OutOk, State.onTower_mem, State.tick_mem]

theorem memOk_execCoherenceLossTimeout {s : State} {link} (hok : s.memOk) :
    OutOk (execCoherenceLossTimeout link s) := by
  fun_cases execCoherenceLossTimeout link s
  case case4 =>
    exact memOk_of_mem ((State.tick_mem ..).trans (State.onLink_mem ..))
      (foldl_memOk (fun u t hu => memOk_of_mem (fqMachine_mem ..) hu) _ (memOk_of_mem (markSharers_mem ..) hok))
  all_goals exact hok

theorem memOk_execCommandStall {s : State} {eng} (hok : s.memOk) : OutOk (execCommandStall eng s) := by
  unfold execCommandStall
  grind [OutOk, !memOk_streamFault, State.tick_mem, !memOk_matrixFault, !memOk_scmdFault]

theorem memOk_execCxlPortDegrade {s : State} {port lanes} (hok : s.memOk) :
    OutOk (execCxlPortDegrade port lanes s) := by
  unfold execCxlPortDegrade
  grind [OutOk, State.tick_mem]

theorem memOk_execDrainLimit {s : State} {c} (hok : s.memOk) : OutOk (execDrainLimit c s) := by
  unfold execDrainLimit
  grind [OutOk, clear_mem, State.tick_mem, State.onCtx_mem]

theorem memOk_execEccUncorrectable {s : State} {pa} (hok : s.memOk) : OutOk (execEccUncorrectable pa s) := by
  unfold execEccUncorrectable
  grind [OutOk, spoilScratch_mem, State.tick_mem, spoilL1_mem]

theorem memOk_execEdgeAgeLimit {s : State} {tw slot edge} (hok : s.memOk) :
    OutOk (execEdgeAgeLimit tw slot edge s) := by
  unfold execEdgeAgeLimit
  grind [OutOk, !memOk_record6, State.tick_mem]

theorem memOk_execExtend {s : State} {m} (hok : s.memOk) : OutOk (execExtend m s) := by
  unfold execExtend
  refine memOk_mboxServe (fun t ht => ?_) hok
  grind [mboxEnd_mem, extend_mem]

theorem memOk_execPrest {s : State} {pr eff t} (hok : s.memOk) : OutOk (execPrest pr eff t s) := by
  unfold execPrest
  refine memOk_fire (fun v => ?_) hok
  grind [ActOk, !memOk_fabricDone, !memOk_fabricAct, placeLoad_mem, freeLoad_mem, State.onLoad_mem, !memOk_checkImage,
      !memOk_vreadAll, beginWait_mem]

theorem memOk_execPload {s : State} {pr eff t} (hok : s.memOk) : OutOk (execPload pr eff t s) := by
  unfold execPload
  refine memOk_fire (fun v => ?_) hok
  grind [ActOk, !memOk_fabricDone, !memOk_fabricAct, placeLoad_mem, State.onLoad_mem, !memOk_checkImage, beginWait_mem]

theorem memOk_execFabricConfigure {s : State} {tw slot} (hok : s.memOk) :
    OutOk (execFabricConfigure tw slot s) := by
  have hfocus {l : Load} {u i} (e : (l.waiter.bind fun w => s.focusOn w.1 w.2.1 w.2.2) = some (u, i)) : u.memOk :=
    OptOk.of_bind (p := (·.1.memOk)) e fun w => memOk_focusOn hok
  fun_cases execFabricConfigure tw slot s
  case case4 e =>
    have hu := hfocus e
    exact memOk_execPload (memOk_of_mem (State.tick_mem ..) (memOk_loadTo hu))
  case case5 er e =>
    have hu := hfocus e
    have hw := OptOk.of_bind (p := State.memOk) er fun a => memOk_restoreLoad hu
    exact memOk_execPrest (memOk_of_mem (State.tick_mem ..) (memOk_statusWrite hw))
  case case6 e =>
    have hu := hfocus e
    exact memOk_fire (fun v => memOk_fabricDone (memOk_of_mem (freeLoad_mem ..) hu)) (memOk_of_mem (freeLoad_mem ..) hu)
  all_goals exact hok

theorem memOk_execFarAccessTimeout {s : State} {c} (hok : s.memOk) : OutOk (execFarAccessTimeout c s) := by
  unfold execFarAccessTimeout
  grind [OutOk, lateFault_mem, giveUp_mem, State.tick_mem]

theorem memOk_execFarRequest {s : State} {src pa op} (hok : s.memOk) :
    OutOk (execFarRequest src pa op s) := by
  unfold execFarRequest
  grind [OutOk, farCount_mem, !memOk_takePage, !memOk_farServe, State.tick_mem, !memOk_forwardTo]

theorem memOk_execFaultQueueWrite {s : State} {tw} (hok : s.memOk) : OutOk (execFaultQueueWrite tw s) := by
  unfold execFaultQueueWrite
  grind [OutOk, OptOk, !memOk_fqWrite, State.tick_mem]

theorem memOk_execFilterBankClear {s : State} {slice} (hok : s.memOk) :
    OutOk (execFilterBankClear slice s) := by
  unfold execFilterBankClear
  grind [OutOk, State.onTower_mem, State.tick_mem]

theorem memOk_execFlitRetry {s : State} {link} (hok : s.memOk) : OutOk (execFlitRetry link s) := by
  unfold execFlitRetry
  grind [OutOk, State.tick_mem]

theorem memOk_execForwardExpiry {s : State} {tw} (hok : s.memOk) : OutOk (execForwardExpiry tw s) := by
  fun_cases execForwardExpiry tw s
  case case3 => exact memOk_of_mem ((State.tick_mem ..).trans (State.onTower_mem ..)) hok
  all_goals exact hok

theorem memOk_execFpflagsWrite {s : State} {c v} (hok : s.memOk) : OutOk (execFpflagsWrite c v s) := by
  unfold execFpflagsWrite
  refine memOk_regEvent (fun x => ?_) hok
  grind [!memOk_writeTaskReg]

theorem memOk_execFqbaseWrite {s : State} {tw v} (hok : s.memOk) : OutOk (execFqbaseWrite tw v s) := by
  unfold execFqbaseWrite
  grind [OutOk, State.tick_mem, !memOk_writeFqBase]

theorem memOk_execFqptrWrite {s : State} {tw v} (hok : s.memOk) : OutOk (execFqptrWrite tw v s) := by
  unfold execFqptrWrite
  grind [OutOk, !memOk_writeFqPtr, State.tick_mem]

theorem memOk_execFuseadv {s : State} {m} (hok : s.memOk) : OutOk (execFuseadv m s) := by
  unfold execFuseadv
  refine memOk_mboxServe (fun t ht => ?_) hok
  grind [!memOk_mboxReply, mboxEnd_mem]

theorem memOk_execFwupdate {s : State} {m} (hok : s.memOk) : OutOk (execFwupdate m s) := by
  unfold execFwupdate
  refine memOk_mboxServe (fun t ht => ?_) hok
  grind

theorem memOk_execFwupdateInstall {s : State} (hok : s.memOk) : OutOk (execFwupdateInstall s) := by
  unfold execFwupdateInstall
  grind [OutOk, mboxEnd_mem, State.tick_mem, extend_mem]

theorem memOk_execGangAbort {s : State} {gid} (hok : s.memOk) : OutOk (execGangAbort gid s) := by
  fun_cases execGangAbort gid s
  case case3 =>
    exact memOk_of_mem (State.tick_mem ..)
      (memOk_gangStatus (memOk_of_mem (State.onGang_mem ..) (foldl_memOk (fun u r hu => memOk_dropMember hu) _ hok)))
  all_goals exact hok

theorem memOk_execGangArm {s : State} {c v} (hok : s.memOk) : OutOk (execGangArm c v s) := by
  unfold execGangArm
  refine memOk_regEvent (fun x => ?_) hok
  grind [!memOk_writeSvReg]

theorem memOk_execGangGo {s : State} {gid} (hok : s.memOk) : OutOk (execGangGo gid s) := by
  unfold execGangGo
  grind [OutOk, !memOk_gangStatus, State.onTower_mem, State.tick_mem, State.onGang_mem]

theorem memOk_execGangGraceExpiry {s : State} {gid} (hok : s.memOk) : OutOk (execGangGraceExpiry gid s) := by
  unfold execGangGraceExpiry
  grind [OutOk, !memOk_gangStatus, State.tick_mem, State.onGang_mem]

theorem memOk_execGangPlace {s : State} {gid} (hok : s.memOk) : OutOk (execGangPlace gid s) := by
  unfold execGangPlace
  grind [OutOk, OptOk, !memOk_gangStatus, !memOk_placeMember, takeReady_mem, State.tick_mem, State.onGang_mem]

theorem memOk_execGangReady {s : State} {gid pkg} (hok : s.memOk) : OutOk (execGangReady gid pkg s) := by
  unfold execGangReady
  grind [OutOk, takeReady_mem, State.tick_mem]

theorem memOk_execHandlerDiversion {s : State} {c} (hok : s.memOk) : OutOk (execHandlerDiversion c s) := by
  unfold execHandlerDiversion
  grind [OutOk, clear_mem, State.onInbox_mem, acquired_mem, State.tick_mem, State.onCtx_mem]

theorem memOk_execHbmRowSpare {s : State} {row} (hok : s.memOk) : OutOk (execHbmRowSpare row s) := by
  unfold execHbmRowSpare
  grind [OutOk, State.tick_mem]

theorem memOk_execHnew {s : State} {pr eff t} (hok : s.memOk) : OutOk (execHnew pr eff t s) := by
  unfold execHnew
  refine memOk_fire (fun v => ?_) hok
  grind [ActOk, effectBad_mem, State.onInst_mem, effect_mem, deliverS_mem]

theorem memOk_execHomeSliceStore {s : State} {c} (hok : s.memOk) : OutOk (execHomeSliceStore c s) := by
  unfold execHomeSliceStore
  grind [OutOk, !memOk_homeStep]

theorem memOk_execHostCompletion {s : State} {tw win} (hok : s.memOk) :
    OutOk (execHostCompletion tw win s) := by
  unfold execHostCompletion
  grind [OutOk, State.onWindow_mem, State.tick_mem]

theorem memOk_execHostRead {s : State} {pa n} (hok : s.memOk) : OutOk (execHostRead pa n s) := by
  fun_cases execHostRead pa n s
  case case3 => exact memOk_of_mem (State.tick_mem ..) hok
  case case4 => exact memOk_of_mem (State.tick_mem ..) (memOk_forwardTo (src := s.self) hok)
  case case5 =>
    refine memOk_of_mem (State.tick_mem ..) (foldl_memOk (fun u l hu => memOk_of_mem (snoopAdd_mem ..) hu) _ ?_)
    exact memOk_ite (memOk_of_mem (eccEntry_mem ..) hok) hok
  all_goals exact hok

theorem memOk_execHotPageWindow {s : State} {tw} (hok : s.memOk) : OutOk (execHotPageWindow tw s) := by
  fun_cases execHotPageWindow tw s
  case case1 => exact hok
  case case2 =>
    have hu {f} : (s.onTower tw f).memOk := memOk_of_mem (State.onTower_mem ..) hok
    exact memOk_of_mem (State.tick_mem ..) (memOk_ite (foldl_memOk (fun x p hx => memOk_migrate hx) _ hu) hu)

theorem memOk_execHresolve {s : State} {pr eff t} (hok : s.memOk) : OutOk (execHresolve pr eff t s) := by
  unfold execHresolve
  refine memOk_fire (fun v => ?_) hok
  grind [ActOk, GateOk, !memOk_gated, effectBad_mem, effect_mem, acquireHere_mem, releaseHere_mem, !memOk_resolveHyps,
      performed_mem, !memOk_gate, deliverS_mem]

theorem memOk_execIdle {s : State} {pr eff t} (hok : s.memOk) : OutOk (execIdle pr eff t s) := by
  unfold execIdle
  refine memOk_fire (fun v => ?_) hok
  grind [ActOk, effectBad_mem, State.onInst_mem, effect_mem, deliverS_mem, beginWait_mem]

theorem memOk_execIdleTimeout {s : State} {c} (hok : s.memOk) : OutOk (execIdleTimeout c s) := by
  unfold execIdleTimeout
  grind [OutOk, !memOk_execIdle]

theorem memOk_execInboxGrant {s : State} {tw cell} (hok : s.memOk) : OutOk (execInboxGrant tw cell s) := by
  unfold execInboxGrant
  grind [OutOk, OptOk, State.onInst_mem, State.onInbox_mem, !memOk_execAmsend, !memOk_focusOn, State.tick_mem,
      !memOk_execAmreply]

theorem memOk_execL2SliceRetire {s : State} {slice} (hok : s.memOk) : OutOk (execL2SliceRetire slice s) := by
  unfold execL2SliceRetire
  grind [OutOk, retireSlice_mem, State.tick_mem]

end Sys2Proof.StepMemory
end

section
/-! The memory a step leaves (log 1): the rows of the opcode table, second half. -/

namespace Sys2Proof.StepMemory

-- One proof at a time: proofs checked side by side take each a stack of memory.
set_option Elab.async false

open Sys2Proof.Machine

theorem memOk_execLaneRetrain {s : State} {lane} (hok : s.memOk) : OutOk (execLaneRetrain lane s) := by
  unfold execLaneRetrain
  grind [OutOk, State.onLink_mem, State.tick_mem]

theorem memOk_execLinkLoss {s : State} {link} (hok : s.memOk) : OutOk (execLinkLoss link s) := by
  unfold execLinkLoss
  grind [OutOk, State.onLink_mem, State.tick_mem]

theorem memOk_execLinkReconnect {s : State} {link} (hok : s.memOk) : OutOk (execLinkReconnect link s) := by
  fun_cases execLinkReconnect link s
  case case3 =>
    refine memOk_of_mem (State.tick_mem ..) (foldl_memOk (fun w t hw => ?_) _ (memOk_of_mem (State.onLink_mem ..) hok))
    exact memOk_ite hw (memOk_of_mem (purge_mem ..) hw)
  all_goals exact hok

theorem memOk_execLoadFinish {s : State} {tw slot} (hok : s.memOk) : OutOk (execLoadFinish tw slot s) := by
  unfold execLoadFinish
  grind [OutOk, !memOk_loadTo, !memOk_statusWrite, State.onLoad_mem, State.tick_mem]

theorem memOk_execLsplitWrite {s : State} {c v} (hok : s.memOk) : OutOk (execLsplitWrite c v s) := by
  unfold execLsplitWrite
  refine memOk_regEvent (fun x => ?_) hok
  grind [!memOk_writeTaskReg]

theorem memOk_execMatrixCommandPerformed {s : State} {tw node} (hok : s.memOk) :
    OutOk (execMatrixCommandPerformed tw node s) := by
  fun_cases execMatrixCommandPerformed tw node s
  case case4 m _ _ t e =>
    have ht : OptOk State.memOk (some t) := e ▸ OptOk.findSome (fun q => memOk_tryCmd hok) _
    exact memOk_of_mem ((State.tick_mem ..).trans (hypSweep_mem ..)) ht
  all_goals exact hok

theorem memOk_execMessageArrival {s : State} {m} (hok : s.memOk) : OutOk (execMessageArrival m s) := by
  unfold execMessageArrival
  grind [OutOk, State.onInbox_mem, State.tick_mem]

theorem memOk_execMigcntWrite {s : State} {tw} (hok : s.memOk) : OutOk (execMigcntWrite tw s) := by
  unfold execMigcntWrite
  grind [OutOk, State.tick_mem, clearMigCnt_mem]

theorem memOk_execNodeRestore {s : State} {tw n} (hok : s.memOk) : OutOk (execNodeRestore tw n s) := by
  have hread := fun (asid : BitVec 16) (base : Word) (m : MNode) => memOk_readNode (asid := asid) (base := base) (m := m) hok
  obtain ⟨execNodeRestore, h⟩ : ∃ f, f = execNodeRestore := ⟨_, rfl⟩
  rw [← h]
  delta Machine.execNodeRestore at h
  subst h
  revert hread
  -- As in `memOk_readNode`: the reading of a node's image stays closed.
  generalize State.readNode = readNode
  intro hread
  as_aux_lemma =>
    beta_reduce
    split
    · exact hok
    · next m _ =>
      split
      · exact hok
      · split
        · exact memOk_regrant hok
        · exact hok
      · next k _ area _ _ =>
        split
        · split
          · exact memOk_regrant hok
          · exact hok
        · split
          · exact hok
          · split
            next e =>
              exact memOk_of_mem ((State.tick_mem ..).trans (State.setNode_mem ..)) (fst_memOk_of_eq e (hread k.asid area m))
            next e => exact memOk_restoreFails (fst_memOk_of_eq e (hread k.asid area m))

theorem memOk_execNodeSave {s : State} {tw n} (hok : s.memOk) : OutOk (execNodeSave tw n s) := by
  fun_cases execNodeSave tw n s <;>
    grind [OutOk, !memOk_stopOff, !memOk_ovqStore, State.tick_mem, freeNode_mem, !memOk_vwriteAll]

theorem memOk_execNohandler {s : State} {tw cell} (hok : s.memOk) : OutOk (execNohandler tw cell s) := by
  unfold execNohandler
  grind [OutOk, State.onInbox_mem, State.tick_mem, fqPush_mem]

theorem memOk_execOverflowAdmit {s : State} {tw} (hok : s.memOk) : OutOk (execOverflowAdmit tw s) := by
  unfold execOverflowAdmit
  grind [OutOk, State.onTask_mem, !memOk_ovqStore, State.tick_mem]

theorem memOk_execOvqWrite {s : State} {tw v} (hok : s.memOk) : OutOk (execOvqWrite tw v s) := by
  unfold execOvqWrite
  grind [OutOk, writeOvq_mem, State.tick_mem]

theorem memOk_execPackageReset {s : State} {stages} (_hok : s.memOk) : OutOk (execPackageReset stages s) := by
  have hboot {r : State} {q} (hr : r.mem = []) (e : r.boot 7 0 stages = q) : q.1.memOk :=
    e ▸ memOk_boot (by unfold State.memOk; rw [hr]; rfl)
  fun_cases execPackageReset stages s
  case case1 e => exact memOk_of_mem (State.tick_mem ..) (hboot rfl e)
  case case2 e _ =>
    refine memOk_of_mem (State.tick_mem ..) (foldl_memOk (fun u n hu => memOk_of_mem (startSupervisor_mem ..) hu) _ ?_)
    exact hboot rfl e

theorem memOk_execPassoverLimit {s : State} {tw} (hok : s.memOk) : OutOk (execPassoverLimit tw s) := by
  unfold execPassoverLimit
  grind [OutOk, State.onTower_mem, State.tick_mem]

theorem memOk_execPatrolScrub {s : State} {pa bad} (hok : s.memOk) : OutOk (execPatrolScrub pa bad s) := by
  unfold execPatrolScrub
  grind [OutOk, eccEntry_mem, State.tick_mem]

theorem memOk_execPermissionEntryArrival {s : State} {tw} (hok : s.memOk) :
    OutOk (execPermissionEntryArrival tw s) := by
  unfold execPermissionEntryArrival
  grind [OutOk, State.onTower_mem, State.tick_mem, storeFault_mem]

theorem memOk_execPhysicalWrite {s : State} {host pa bytes} (hok : s.memOk) :
    OutOk (execPhysicalWrite host pa bytes s) := by
  unfold execPhysicalWrite
  grind [OutOk, eccEntry_mem, !memOk_hostDevWrite, fqMachine_mem, State.tick_mem, !memOk_physPut, !memOk_forwardTo]

theorem memOk_execPlbfl {s : State} {pr eff t} (hok : s.memOk) : OutOk (execPlbfl pr eff t s) := by
  unfold execPlbfl
  refine memOk_fire (fun v => ?_) hok
  grind [ActOk, GateOk, !memOk_gated, effectBad_mem, effect_mem, releaseHere_mem, performed_mem, !memOk_gate, deliverS_mem,
      beginWait_mem]

theorem memOk_execPreempt {s : State} {c cls} (hok : s.memOk) : OutOk (execPreempt c cls s) := by
  unfold execPreempt
  grind [OutOk, clear_mem, State.tick_mem, State.onCtx_mem]

theorem memOk_execPrioWrite {s : State} {c v} (hok : s.memOk) : OutOk (execPrioWrite c v s) := by
  unfold execPrioWrite
  refine memOk_regEvent (fun x => ?_) hok
  grind [!memOk_writeTaskReg]

theorem memOk_execPsave {s : State} {pr eff t} (hok : s.memOk) : OutOk (execPsave pr eff t s) := by
  unfold execPsave
  refine memOk_fire (fun v => ?_) hok
  grind [ActOk, !memOk_fabricDone, !memOk_fabricAct, discardHeld_mem, !memOk_loadTo, State.onLoad_mem, !memOk_vwriteAll]

theorem memOk_execPstart {s : State} {pr eff t} (hok : s.memOk) : OutOk (execPstart pr eff t s) := by
  unfold execPstart
  refine memOk_fire (fun v => ?_) hok
  grind [ActOk, !memOk_loadRecs, !memOk_fabricDone, !memOk_fabricAct, !memOk_runLoad, !memOk_disposeAll]

theorem memOk_execPstop {s : State} {pr eff t} (hok : s.memOk) : OutOk (execPstop pr eff t s) := by
  unfold execPstop
  refine memOk_fire (fun v => ?_) hok
  grind [ActOk, !memOk_fabricDone, !memOk_fabricAct, discardHeld_mem, !memOk_loadTo, State.onLoad_mem, beginWait_mem]

theorem memOk_execPunload {s : State} {pr eff t} (hok : s.memOk) : OutOk (execPunload pr eff t s) := by
  unfold execPunload
  refine memOk_fire (fun v => ?_) hok
  grind [ActOk, !memOk_fabricDone, hypSweep_mem, !memOk_fabricAct, freeLoad_mem]

theorem memOk_execRefreshWindow {s : State} (hok : s.memOk) : OutOk (execRefreshWindow s) := by
  unfold execRefreshWindow
  grind [OutOk, State.tick_mem]

theorem memOk_execTsubmit {s : State} {pr eff} (hok : s.memOk) : OutOk (execTsubmit pr eff s) := by
  unfold execTsubmit
  refine memOk_fire (fun v => ?_) hok
  grind [ActOk, !memOk_spawnAct]

theorem memOk_execTspawn {s : State} {pr eff} (hok : s.memOk) : OutOk (execTspawn pr eff s) := by
  unfold execTspawn
  refine memOk_fire (fun v => ?_) hok
  grind [ActOk, !memOk_spawnAct]

theorem memOk_execReservationGrant {s : State} {tw} (hok : s.memOk) : OutOk (execReservationGrant tw s) := by
  have htower {f} : (s.onTower tw f).memOk := memOk_of_mem (State.onTower_mem ..) hok
  have hstream : (((s.streamGo tw).map State.tick).getD s).memOk :=
    OptOk.getD (OptOk.map (memOk_streamGo hok) fun t ht => memOk_of_mem (State.tick_mem ..) ht) hok
  have hfocus {f c uid iid u i} (e : (s.onTower tw f).focusOn c uid iid = some (u, i)) : u.memOk :=
    (e ▸ memOk_focusOn htower : OptOk (·.1.memOk) (some (u, i)))
  fun_cases execReservationGrant tw s
  case case1 | case2 => exact hstream
  case case3 => exact memOk_of_mem (State.tick_mem ..) htower
  case case4 e => exact memOk_execTspawn (hfocus e)
  case case5 e => exact memOk_execTsubmit (hfocus e)
  case case7 => exact memOk_of_mem ((State.tick_mem ..).trans (windowStreamWait_mem ..)) htower
  case case8 => exact memOk_of_mem (State.tick_mem ..) (memOk_windowGo htower)
  all_goals exact hok

theorem memOk_execRestoreStart {s : State} {c desc} (hok : s.memOk) : OutOk (execRestoreStart c desc s) := by
  unfold execRestoreStart
  refine memOk_regEvent (fun x => ?_) hok
  grind [!memOk_startCkpt]

theorem memOk_execResumeWrite {s : State} {c v} (hok : s.memOk) : OutOk (execResumeWrite c v s) := by
  unfold execResumeWrite
  refine memOk_regEvent (fun x => ?_) hok
  grind [!memOk_writeTaskReg]

theorem memOk_execRoutingTableWrite {s : State} {d v} (hok : s.memOk) :
    OutOk (execRoutingTableWrite d v s) := by
  unfold execRoutingTableWrite
  grind [OutOk, routeWrite_mem, State.tick_mem]

theorem memOk_execSealImage {s : State} {m} (hok : s.memOk) : OutOk (execSealImage m s) := by
  unfold execSealImage
  refine memOk_mboxServe (fun t ht => ?_) hok
  grind [!memOk_mboxReply]

theorem memOk_execSetcap {s : State} {m} (hok : s.memOk) : OutOk (execSetcap m s) := by
  unfold execSetcap
  refine memOk_mboxServe (fun t ht => ?_) hok
  grind [mboxEnd_mem]

theorem memOk_execSfence {s : State} {pr eff sc t} (hok : s.memOk) : OutOk (execSfence pr eff sc t s) := by
  unfold execSfence
  refine memOk_fire (fun v => ?_) hok
  grind [ActOk, effect_mem, acquireHere_mem, releaseHere_mem, deliverPoison_mem, deliverS_mem]

theorem memOk_execShootdownComplete {s : State} (hok : s.memOk) : OutOk (execShootdownComplete s) := by
  unfold execShootdownComplete
  grind [OutOk, shootAll_mem, !memOk_execPlbfl, State.tick_mem, shootCells_mem]

theorem memOk_execSrseedWrite {s : State} {c v} (hok : s.memOk) : OutOk (execSrseedWrite c v s) := by
  unfold execSrseedWrite
  refine memOk_regEvent (fun x => ?_) hok
  grind [!memOk_writeTaskReg]

theorem memOk_execStall {s : State} {c} (hok : s.memOk) : OutOk (execStall c s) := by
  unfold execStall
  grind [OutOk, !memOk_serve]

theorem memOk_execStopRequest {s : State} {c r} (hok : s.memOk) : OutOk (execStopRequest c r s) := by
  unfold execStopRequest
  grind [OutOk, State.tick_mem, State.onCtx_mem]

theorem memOk_execStoreAck {s : State} {c} (hok : s.memOk) : OutOk (execStoreAck c s) := by
  fun_cases execStoreAck c s
  case case3 => exact memOk_of_mem ((State.tick_mem ..).trans (forward_mem ..)) hok
  case case4 =>
    exact memOk_of_mem (State.tick_mem ..)
      (foldl_memOk (fun u k hu => memOk_of_mem (raiseLost_mem ..) hu) _ (memOk_of_mem (markSharers_mem ..) hok))
  case case6 => exact memOk_of_mem (State.tick_mem ..) (memOk_settle (memOk_of_mem (State.onCtx_mem ..) hok))
  all_goals exact hok

theorem memOk_execStreamerCommandComplete {s : State} {cmd} (hok : s.memOk) :
    OutOk (execStreamerCommandComplete cmd s) := by
  unfold execStreamerCommandComplete
  grind [OutOk, hypSweep_mem, State.tick_mem, State.onScmd_mem, discardScmd_mem]

theorem memOk_execStreamerCommandStart {s : State} {cmd} (hok : s.memOk) :
    OutOk (execStreamerCommandStart cmd s) := by
  unfold execStreamerCommandStart
  grind [OutOk, !memOk_startScmd, !memOk_streamStep]

theorem memOk_execSubmissionWindowWrite {s : State} {tw win off v} (hok : s.memOk) :
    OutOk (execSubmissionWindowWrite tw win off v s) := by
  unfold execSubmissionWindowWrite
  grind [OutOk, State.tick_mem, !memOk_windowPut]

theorem memOk_execSubmitWrite {s : State} {tw win bytes} (hok : s.memOk) :
    OutOk (execSubmitWrite tw win bytes s) := by
  unfold execSubmitWrite
  grind [OutOk, State.tick_mem, !memOk_windowPut]

theorem memOk_execSwait {s : State} {pr eff poll t} (hok : s.memOk) : OutOk (execSwait pr eff poll t s) := by
  unfold execSwait
  refine memOk_fire (fun v => ?_) hok
  grind [ActOk, effect_mem, acquireHere_mem, deliverPoison_mem, deliverS_mem]

theorem memOk_execTaskDispatch {s : State} {tw} (hok : s.memOk) : OutOk (execTaskDispatch tw s) := by
  unfold execTaskDispatch
  grind [OutOk, passOver_mem, !memOk_place, !memOk_becomeReady, !memOk_ovqStore, State.tick_mem, performerOk]

theorem memOk_execTaskStop {s : State} {c} (hok : s.memOk) : OutOk (execTaskStop c s) := by
  unfold execTaskStop
  grind [OutOk, !memOk_finishLeave, !memOk_serve, !memOk_haltRunning]

theorem memOk_execTelemetry {s : State} {m} (hok : s.memOk) : OutOk (execTelemetry m s) := by
  unfold execTelemetry
  refine memOk_mboxServe (fun t ht => ?_) hok
  grind [!memOk_mboxReply]

theorem memOk_execThermalShutdown {s : State} (hok : s.memOk) : OutOk (execThermalShutdown s) := by
  unfold execThermalShutdown
  grind [OutOk, State.tick_mem]

theorem memOk_execThermalThrottle {s : State} (hok : s.memOk) : OutOk (execThermalThrottle s) := by
  unfold execThermalThrottle
  grind [OutOk, fqMachine_mem, State.tick_mem]

theorem memOk_execThrottleRecovery {s : State} (hok : s.memOk) : OutOk (execThrottleRecovery s) := by
  unfold execThrottleRecovery
  grind [OutOk, State.tick_mem]

theorem memOk_execThrottleStep {s : State} (hok : s.memOk) : OutOk (execThrottleStep s) := by
  unfold execThrottleStep
  grind [OutOk, State.tick_mem]

theorem memOk_execTileDrainDone {s : State} {tw node tile} (hok : s.memOk) :
    OutOk (execTileDrainDone tw node tile s) := by
  unfold execTileDrainDone
  grind [OutOk, State.tick_mem, State.setNode_mem]

theorem memOk_execTileFillDone {s : State} {tw node tile} (hok : s.memOk) :
    OutOk (execTileFillDone tw node tile s) := by
  unfold execTileFillDone
  grind [OutOk, State.tick_mem, State.setNode_mem]

theorem memOk_execTranslationWalk {s : State} {tw} (hok : s.memOk) : OutOk (execTranslationWalk tw s) := by
  unfold execTranslationWalk
  grind [OutOk, State.onTower_mem, State.tick_mem, !memOk_serveWalk]

theorem memOk_execTwait {s : State} {pr eff poll t} (hok : s.memOk) : OutOk (execTwait pr eff poll t s) := by
  unfold execTwait
  refine memOk_fire (fun v => ?_) hok
  grind [ActOk, loadPoison_mem, effect_mem, !memOk_vread, deliverS_mem, beginWait_mem]

theorem memOk_execUnreachableHomeTimeout {s : State} {c} (hok : s.memOk) :
    OutOk (execUnreachableHomeTimeout c s) := by
  unfold execUnreachableHomeTimeout
  grind [OutOk, lateFault_mem, giveUp_mem, State.tick_mem]

theorem memOk_execUpcall {s : State} {c} (hok : s.memOk) : OutOk (execUpcall c s) := by
  unfold execUpcall
  grind [OutOk, !memOk_serve]

theorem memOk_execVamoadd {s : State} {pr eff y sc rlx t} (hok : s.memOk) :
    OutOk (execVamoadd pr eff y sc rlx t s) := by
  unfold execVamoadd
  refine memOk_fire (fun v => ?_) hok
  grind [ActOk, !memOk_atomic]

theorem memOk_execVersionDiscardDone {s : State} {h} (hok : s.memOk) :
    OutOk (execVersionDiscardDone h s) := by
  unfold execVersionDiscardDone
  grind [OutOk, hypSweep_mem, State.onHyp_mem, State.tick_mem]

theorem memOk_execViewBuild {s : State} {tw} (hok : s.memOk) : OutOk (execViewBuild tw s) := by
  fun_cases execViewBuild tw s <;>
    grind [OutOk, !memOk_buildFail, State.tick_mem, !memOk_snapshot]

theorem memOk_execViewPublish {s : State} {tw} (hok : s.memOk) : OutOk (execViewPublish tw s) := by
  fun_cases execViewPublish tw s <;>
    grind [OutOk, !memOk_viewPuts, State.onMaster_mem, !memOk_buildFail, State.tick_mem]

theorem memOk_execVlogWrite {s : State} {v} (hok : s.memOk) : OutOk (execVlogWrite v s) := by
  unfold execVlogWrite
  grind [OutOk, State.tick_mem, writeVlog_mem]

theorem memOk_execVwreg {s : State} {pr eff t} (hok : s.memOk) : OutOk (execVwreg pr eff t s) := by
  unfold execVwreg
  refine memOk_fire (fun v => ?_) hok
  grind [ActOk, GateOk, !memOk_gated, effect_mem, !memOk_taskRead, notPerformed_mem, performed_mem, !memOk_gate,
      !memOk_register, deliverS_mem]

theorem memOk_execVwsync {s : State} {pr eff force t} (hok : s.memOk) :
    OutOk (execVwsync pr eff force t s) := by
  unfold execVwsync
  refine memOk_fire (fun v => ?_) hok
  (repeat' split) <;> grind [ActOk, GateOk, !memOk_gated, effectBad_mem, State.onInst_mem, effect_mem,
    released_mem, performed_mem, !memOk_gate,
      deliverS_mem, !memOk_syncAdvance, beginWait_mem]

theorem memOk_execWaitvTimeout {s : State} {c} (hok : s.memOk) : OutOk (execWaitvTimeout c s) := by
  unfold execWaitvTimeout
  grind [OutOk, !memOk_waitvEnd]

theorem memOk_execWaitvWake {s : State} {c} (hok : s.memOk) : OutOk (execWaitvWake c s) := by
  unfold execWaitvWake
  grind [OutOk, !memOk_waitvEnd]

theorem memOk_execWerrWrite {s : State} {tw win} (hok : s.memOk) : OutOk (execWerrWrite tw win s) := by
  unfold execWerrWrite
  grind [OutOk, State.tick_mem, !memOk_windowPut]

theorem memOk_execWinrd {s : State} {pr eff t} (hok : s.memOk) : OutOk (execWinrd pr eff t s) := by
  unfold execWinrd
  refine memOk_fire (fun v => ?_) hok
  grind [ActOk, !memOk_stoppedCtx, effectBad_mem, effect_mem, deliverPoison_mem, fqStruct_mem, deliverS_mem]

theorem memOk_execWsldatWrite {s : State} {tw v} (hok : s.memOk) : OutOk (execWsldatWrite tw v s) := by
  unfold execWsldatWrite
  grind [OutOk, !memOk_writeWsl, State.tick_mem]

end Sys2Proof.StepMemory
end

section
/-! The memory a step leaves (log 1): every instruction and every event, a move, and a step. -/

namespace Sys2Proof.StepMemory

-- One proof at a time: proofs checked side by side take each a stack of memory.
set_option Elab.async false

open Sys2Proof.Machine
open Sys2Proof.FiringFrames

theorem OutOk.of_focus {s : State} {o : Host.Outcome State Fault Refusal} (hok : s.memOk)
    (hf : ∀ u, o = .next u → OnlyFocus s u) :
    OutOk o := by
  cases o with
  | next u => exact memOk_of_mem (hf u rfl).mem hok
  | fault _ => trivial
  | refused _ => trivial

theorem OutOk.of_kept {s : State} {o : Host.Outcome State Fault Refusal} (hok : s.memOk)
    (hf : ∀ u, o = .next u → RegsKept s u) :
    OutOk o := by
  cases o with
  | next u => exact memOk_of_mem (hf u rfl).1 hok
  | fault _ => trivial
  | refused _ => trivial

theorem memOk_exec {s : State} (i : Instr) (hok : s.memOk) : OutOk (exec i s) := by
  cases i
  case gens | genu =>
    unfold exec
    exact .of_focus hok fun _ => fireS_onlyFocus
  case gread => exact .of_focus hok fun _ => gread_frame
  case wread => exact .of_focus hok fun _ => wread_frame
  case gwrite => exact .of_focus hok fun _ => gwrite_frame
  case wwrite => exact .of_focus hok fun _ => wwrite_frame
  case appc | movi | add | sub | and | or | xor | shl | shr | sra | min | max | minu | maxu | addi | subi | andi | ori | xori
      | shli | shri | srai | mul | mulh | mulhu | div | divu | rem | remu | muli | clz | ctz | popc | exts8 | exts16 | exts32
      | extz8 | extz16 | extz32 | bfx | bfi | lea | leai | teq | tne | tlt | tle | tltu | tleu | teqi | tnei | tlti | tlei
      | tltui | tleui | fsgn | fclass | vextr => exact .of_focus hok fun _ => fireS_onlyFocus
  case mov => exact .of_focus hok fun _ => mov_frame
  case nop => exact .of_focus hok fun _ => nop_frame
  case null => exact .of_focus hok fun _ => null_frame
  case fadd | fsub | fmul | fdiv | fmin | fmax | fsqrt | ffma | ffms | ffnma | ffnms | ftoi | itof | feq |
      flt | fle =>
    exact .of_focus hok fun _ => fireSF_onlyFocus
  case fcvt => exact .of_kept hok fun _ => fcvt_keeps
  case bro => exact .of_kept hok fun _ => bro_keeps
  case br => exact .of_kept hok fun _ => br_keeps
  case callo => exact .of_kept hok fun _ => callo_keeps
  case call => exact .of_kept hok fun _ => call_keeps
  case ret => exact .of_kept hok fun _ => ret_keeps
  case exitt => exact .of_kept hok fun _ => exitt_keeps
  case yield => exact .of_kept hok fun _ => yield_keeps
  case scall => exact .of_kept hok fun _ => scall_keeps
  case vadd | vsub | vmul | vmulh | vmin | vmax | vand | vor | vxor | vshl | vshr | vsra | vcmp =>
    exact .of_focus hok fun _ => fireLanes_frame
  case vfadd | vfsub | vfmul | vfdiv | vfmin | vfmax | vfsqrt | vrcp | vrsq | vexp2 | vlog2 | vffma | vffms | vffnma | vffnms
      | vfcmp => exact .of_focus hok fun _ => fireWF_onlyFocus
  case vcvt => exact .of_kept hok fun _ => vcvt_keeps
  case vqnt => exact .of_kept hok fun _ => vqnt_keeps
  case vdqnt => exact .of_focus hok fun _ => vdqnt_frame
  case vsel | vbcast | vins | vshuf => exact .of_focus hok fun _ => fireW_onlyFocus
  case vred => exact .of_focus hok fun _ => vred_frame
  case vscan => exact .of_focus hok fun _ => vscan_frame
  case vdot => exact .of_focus hok fun _ => vdot_frame
  case ldZb | ldZh | ldZw | ldD | ldSb | ldSh | ldSw => exact .of_kept hok fun _ => ld_keeps
  case stB | stH | stW | stD => exact .of_kept hok fun _ => st_keeps
  case ldacq => exact .of_kept hok fun _ => ldacq_keeps
  case strel => exact .of_kept hok fun _ => strel_keeps
  case vld => exact .of_kept hok fun _ => vld_keeps
  case vst => exact .of_kept hok fun _ => vst_keeps
  case vlds => exact .of_kept hok fun _ => vlds_keeps
  case vsts => exact .of_kept hok fun _ => vsts_keeps
  case vgath => exact .of_kept hok fun _ => vgath_keeps
  case vscat => exact .of_kept hok fun _ => vscat_keeps
  case pref => exact .of_focus hok fun _ => pref_frame
  case fenceAcq | fenceRel | fenceAcqrel | fenceSc | fenceEngine => exact .of_focus hok fun _ => fence_frame
  case waitv => exact .of_kept hok fun _ => waitv_keeps
  case barw => exact .of_kept hok fun _ => barw_keeps
  case tdep => exact .of_focus hok fun _ => tdep_frame
  case trange => exact .of_focus hok fun _ => trange_frame
  case tprio => exact .of_focus hok fun _ => tprio_frame
  case htset => exact .of_focus hok fun _ => htset_frame
  case inbox => exact .of_focus hok fun _ => inbox_frame
  case henter => exact .of_focus hok fun _ => henter_frame
  case hleave => exact .of_focus hok fun _ => hleave_frame
  case hstat => exact .of_focus hok fun _ => hstat_frame
  case hldc => exact .of_kept hok fun _ => hldc_keeps
  case tdef | tload | tloadEdge | tstore | tstoreEdge | tfree | mma | mmai | maccrd | macclr | maccld |
      mew | mcopy | msplat =>
    exact .of_focus hok fun _ => matrix_frame
  case scopy | sgath | sscat | slayout | sfill => exact .of_focus hok fun _ => stream_frame
  case vwdrop => exact .of_focus hok fun _ => vwdrop_frame
  case vwqry => exact .of_focus hok fun _ => vwqry_frame
  case vwpol => exact .of_focus hok fun _ => vwpol_frame
  case spush => exact .of_focus hok fun _ => spush_frame
  case spop => exact .of_focus hok fun _ => spop_frame
  case trap => exact .of_focus hok fun _ => trap_frame
  case rft => exact .of_focus hok fun _ => rft_frame
  case cread => exact .of_focus hok fun _ => cread_frame
  case cwrite => exact .of_focus hok fun _ => cwrite_frame
  case halt => exact .of_focus hok fun _ => halt_frame
  case dbgbrk => exact .of_focus hok fun _ => dbgbrk_frame
  case winwr => exact .of_focus hok fun _ => winwr_frame
  case tresume => exact .of_focus hok fun _ => tresume_frame
  case wsopen | wsclose => exact .of_focus hok fun _ => weight_frame
  case rdtime => exact .of_focus hok fun _ => rdtime_frame
  case rdpmc => exact .of_focus hok fun _ => rdpmc_frame
  case amoadd => exact memOk_execAmoadd hok
  case amoand => exact memOk_execAmoand hok
  case amoor => exact memOk_execAmoor hok
  case amoxor => exact memOk_execAmoxor hok
  case amomin => exact memOk_execAmomin hok
  case amomax => exact memOk_execAmomax hok
  case amominu => exact memOk_execAmominu hok
  case amomaxu => exact memOk_execAmomaxu hok
  case amoswp => exact memOk_execAmoswp hok
  case amocas => exact memOk_execAmocas hok
  case amofadd => exact memOk_execAmofadd hok
  case vamoadd => exact memOk_execVamoadd hok
  case bara => exact memOk_execBara hok
  case tspawn => exact memOk_execTspawn hok
  case tsubmit => exact memOk_execTsubmit hok
  case twait => exact memOk_execTwait hok
  case amsend => exact memOk_execAmsend hok
  case amreply => exact memOk_execAmreply hok
  case hnew => exact memOk_execHnew hok
  case hresolve => exact memOk_execHresolve hok
  case sfence => exact memOk_execSfence hok
  case swait => exact memOk_execSwait hok
  case vwreg => exact memOk_execVwreg hok
  case vwsync => exact memOk_execVwsync hok
  case pload => exact memOk_execPload hok
  case punload => exact memOk_execPunload hok
  case pstart => exact memOk_execPstart hok
  case pstop => exact memOk_execPstop hok
  case psave => exact memOk_execPsave hok
  case prest => exact memOk_execPrest hok
  case idle => exact memOk_execIdle hok
  case plbfl => exact memOk_execPlbfl hok
  case cline => exact memOk_execCline hok
  case afwait => exact memOk_execAfwait hok
  case winrd => exact memOk_execWinrd hok
  case clauseFetch => exact memOk_execClauseFetch hok
  case clauseCommit => exact memOk_execClauseCommit hok
  case stopRequest => exact memOk_execStopRequest hok
  case stall => exact memOk_execStall hok
  case taskStop => exact memOk_execTaskStop hok
  case upcall => exact memOk_execUpcall hok
  case srseedWrite => exact memOk_execSrseedWrite hok
  case lsplitWrite => exact memOk_execLsplitWrite hok
  case prioWrite => exact memOk_execPrioWrite hok
  case fpflagsWrite => exact memOk_execFpflagsWrite hok
  case resumeWrite => exact memOk_execResumeWrite hok
  case afringWrite => exact memOk_execAfringWrite hok
  case fqbaseWrite => exact memOk_execFqbaseWrite hok
  case fqptrWrite => exact memOk_execFqptrWrite hok
  case asidMakeLive => exact memOk_execAsidMakeLive hok
  case asidMakeNotLive => exact memOk_execAsidMakeNotLive hok
  case ovqWrite => exact memOk_execOvqWrite hok
  case vlogWrite => exact memOk_execVlogWrite hok
  case wsldatWrite => exact memOk_execWsldatWrite hok
  case c0resWrite => exact memOk_execC0resWrite hok
  case migcntWrite => exact memOk_execMigcntWrite hok
  case gangArm => exact memOk_execGangArm hok
  case checkpointStart => exact memOk_execCheckpointStart hok
  case restoreStart => exact memOk_execRestoreStart hok
  case checkpointDone => exact memOk_execCheckpointDone hok
  case reservationGrant => exact memOk_execReservationGrant hok
  case overflowAdmit => exact memOk_execOverflowAdmit hok
  case taskDispatch => exact memOk_execTaskDispatch hok
  case classAging => exact memOk_execClassAging hok
  case passoverLimit => exact memOk_execPassoverLimit hok
  case inboxGrant => exact memOk_execInboxGrant hok
  case messageArrival => exact memOk_execMessageArrival hok
  case handlerDiversion => exact memOk_execHandlerDiversion hok
  case nohandler => exact memOk_execNohandler hok
  case translationWalk => exact memOk_execTranslationWalk hok
  case permissionEntryArrival => exact memOk_execPermissionEntryArrival hok
  case homeSliceStore => exact memOk_execHomeSliceStore hok
  case storeAck => exact memOk_execStoreAck hok
  case filterBankClear => exact memOk_execFilterBankClear hok
  case refreshWindow => exact memOk_execRefreshWindow hok
  case physicalWrite => exact memOk_execPhysicalWrite hok
  case hostRead => exact memOk_execHostRead hok
  case shootdownComplete => exact memOk_execShootdownComplete hok
  case waitvWake => exact memOk_execWaitvWake hok
  case waitvTimeout => exact memOk_execWaitvTimeout hok
  case versionDiscardDone => exact memOk_execVersionDiscardDone hok
  case tileFillDone => exact memOk_execTileFillDone hok
  case tileDrainDone => exact memOk_execTileDrainDone hok
  case streamerCommandStart => exact memOk_execStreamerCommandStart hok
  case streamerCommandComplete => exact memOk_execStreamerCommandComplete hok
  case viewBuild => exact memOk_execViewBuild hok
  case viewPublish => exact memOk_execViewPublish hok
  case fabricConfigure => exact memOk_execFabricConfigure hok
  case bubbleIteration => exact memOk_execBubbleIteration hok
  case edgeAgeLimit => exact memOk_execEdgeAgeLimit hok
  case loadFinish => exact memOk_execLoadFinish hok
  case faultQueueWrite => exact memOk_execFaultQueueWrite hok
  case afterimageRecordWrite => exact memOk_execAfterimageRecordWrite hok
  case preempt => exact memOk_execPreempt hok
  case drainLimit => exact memOk_execDrainLimit hok
  case nodeSave => exact memOk_execNodeSave hok
  case flitRetry => exact memOk_execFlitRetry hok
  case laneRetrain => exact memOk_execLaneRetrain hok
  case linkLoss => exact memOk_execLinkLoss hok
  case coherenceLossTimeout => exact memOk_execCoherenceLossTimeout hok
  case linkReconnect => exact memOk_execLinkReconnect hok
  case farRequest => exact memOk_execFarRequest hok
  case farAccessTimeout => exact memOk_execFarAccessTimeout hok
  case routingTableWrite => exact memOk_execRoutingTableWrite hok
  case submitWrite => exact memOk_execSubmitWrite hok
  case cheadWrite => exact memOk_execCheadWrite hok
  case werrWrite => exact memOk_execWerrWrite hok
  case hostCompletion => exact memOk_execHostCompletion hok
  case hotPageWindow => exact memOk_execHotPageWindow hok
  case forwardExpiry => exact memOk_execForwardExpiry hok
  case gangPlace => exact memOk_execGangPlace hok
  case gangReady => exact memOk_execGangReady hok
  case gangGo => exact memOk_execGangGo hok
  case gangGraceExpiry => exact memOk_execGangGraceExpiry hok
  case gangAbort => exact memOk_execGangAbort hok
  case attest => exact memOk_execAttest hok
  case sealImage => exact memOk_execSealImage hok
  case checkImage => exact memOk_execCheckImage hok
  case setcap => exact memOk_execSetcap hok
  case fuseadv => exact memOk_execFuseadv hok
  case fwupdate => exact memOk_execFwupdate hok
  case fwupdateInstall => exact memOk_execFwupdateInstall hok
  case extend => exact memOk_execExtend hok
  case telemetry => exact memOk_execTelemetry hok
  case capOverrun => exact memOk_execCapOverrun hok
  case thermalThrottle => exact memOk_execThermalThrottle hok
  case throttleStep => exact memOk_execThrottleStep hok
  case throttleRecovery => exact memOk_execThrottleRecovery hok
  case thermalShutdown => exact memOk_execThermalShutdown hok
  case packageReset => exact memOk_execPackageReset hok
  case eccUncorrectable => exact memOk_execEccUncorrectable hok
  case patrolScrub => exact memOk_execPatrolScrub hok
  case clusterRetire => exact memOk_execClusterRetire hok
  case l2SliceRetire => exact memOk_execL2SliceRetire hok
  case hbmRowSpare => exact memOk_execHbmRowSpare hok
  case cxlPortDegrade => exact memOk_execCxlPortDegrade hok
  case matrixCommandPerformed => exact memOk_execMatrixCommandPerformed hok
  case commandStall => exact memOk_execCommandStall hok
  case idleTimeout => exact memOk_execIdleTimeout hok
  case unreachableHomeTimeout => exact memOk_execUnreachableHomeTimeout hok
  case nodeRestore => exact memOk_execNodeRestore hok
  case submissionWindowWrite => exact memOk_execSubmissionWindowWrite hok

/-- A row of the opcode table that leaves the memory in form wherever it finds it so. -/
def TryOk (f : Try) : Prop := ∀ {s : State}, s.memOk → OutOk (f s)

theorem memOk_move {s : State} (m : Move) (hok : s.memOk) : OutOk (s.move m) := by
  unfold State.move
  split
  · split
    · exact memOk_exec _ hok
    · trivial
  · exact memOk_exec _ hok


/-! ### The part's own moves (log 3) -/

/-- Every row of a list leaves the memory in form. -/
def AllOk (fs : List Try) : Prop := ∀ f ∈ fs, TryOk f

section
variable {α : Type} {fs gs : List Try}

@[simp] theorem allOk_nil : AllOk [] := fun _ h => nomatch h

@[simp] theorem allOk_cons {f : Try} : AllOk (f :: fs) ↔ TryOk f ∧ AllOk fs := List.forall_mem_cons

@[simp] theorem allOk_append : AllOk (fs ++ gs) ↔ AllOk fs ∧ AllOk gs := List.forall_mem_append

theorem allOk_map {f : α → Try} (hf : ∀ a, TryOk (f a)) (xs : List α) : AllOk (xs.map f) := by
  intro g hg
  obtain ⟨a, -, rfl⟩ := List.mem_map.mp hg
  exact hf a

theorem allOk_flatMap {f : α → List Try} (hf : ∀ a, AllOk (f a)) (xs : List α) : AllOk (xs.flatMap f) := by
  intro g hg
  obtain ⟨a, -, ha⟩ := List.mem_flatMap.mp hg
  exact hf a g ha
end

theorem allOk_fires (c : Ctx) (spec : Bool) : AllOk (c.fires spec) := by
  unfold Ctx.fires
  refine allOk_flatMap (fun x f hf => ?_) _
  obtain ⟨k, -, hk⟩ := List.mem_filterMap.mp hf
  dsimp only at hk
  split at hk
  · cases hk
  · cases hk
    exact memOk_move _

theorem allOk_ctxEvents (c : Ctx) : AllOk c.events := by
  unfold Ctx.events
  simp only [List.map_cons, List.map_nil, allOk_append, allOk_cons, allOk_nil, and_true]
  exact ⟨⟨memOk_execTaskStop, memOk_execUpcall, memOk_execStall, memOk_execHandlerDiversion, memOk_execClauseFetch,
    memOk_execBubbleIteration, memOk_execHomeSliceStore, memOk_execStoreAck, memOk_execAfterimageRecordWrite, memOk_execWaitvWake,
    memOk_execWaitvTimeout, memOk_execIdleTimeout, memOk_execDrainLimit, memOk_execFarAccessTimeout,
    memOk_execUnreachableHomeTimeout⟩, allOk_map (fun _ => memOk_execPreempt) _⟩

theorem allOk_towerEvents (s : State) (tw : Nat) : AllOk (s.towerEvents tw) := by
  unfold State.towerEvents
  simp only [List.map_cons, List.map_nil, allOk_append, allOk_cons, allOk_nil, and_true]
  exact ⟨⟨⟨⟨⟨memOk_execTaskDispatch, memOk_execReservationGrant, memOk_execOverflowAdmit,
    memOk_execClassAging, memOk_execPassoverLimit,
    memOk_execPermissionEntryArrival, memOk_execTranslationWalk, memOk_execViewBuild, memOk_execViewPublish,
    memOk_execFaultQueueWrite, memOk_execHotPageWindow, memOk_execForwardExpiry⟩,
    allOk_map (fun _ => memOk_execFilterBankClear) _⟩, allOk_map (fun _ => memOk_execInboxGrant) _⟩,
    allOk_map (fun _ => memOk_execNohandler) _⟩, allOk_map (fun _ => memOk_execHostCompletion) _⟩

theorem allOk_nodeEvents (m : MNode) : AllOk m.events := by
  unfold MNode.events
  simp only [List.map_cons, List.map_nil, allOk_append, allOk_cons, allOk_nil, and_true]
  exact ⟨⟨⟨⟨memOk_execMatrixCommandPerformed, memOk_execNodeSave, memOk_execNodeRestore⟩, memOk_execCommandStall⟩,
    allOk_map (fun _ => memOk_execTileFillDone) _⟩, allOk_map (fun _ => memOk_execTileDrainDone) _⟩

theorem allOk_loadEvents (l : Load) : AllOk l.events := by
  unfold Load.events
  simp only [allOk_append, allOk_cons, allOk_nil, and_true]
  refine ⟨⟨⟨memOk_execFabricConfigure, memOk_execLoadFinish⟩, allOk_flatMap (fun f => ?_) _⟩,
    allOk_map (fun _ => memOk_execEdgeAgeLimit) _⟩
  simp only [allOk_cons, allOk_nil, and_true]
  exact ⟨memOk_execStreamerCommandStart, memOk_execCommandStall⟩

theorem allOk_engineEvents (s : State) : AllOk s.engineEvents := by
  unfold State.engineEvents
  simp only [allOk_append]
  refine ⟨⟨allOk_flatMap allOk_nodeEvents _, allOk_flatMap (fun q => ?_) _⟩, allOk_flatMap allOk_loadEvents _⟩
  simp only [allOk_cons, allOk_nil, and_true]
  exact ⟨memOk_execStreamerCommandStart, memOk_execStreamerCommandComplete, memOk_execCommandStall⟩

theorem allOk_packageEvents (s : State) : AllOk s.packageEvents := by
  unfold State.packageEvents
  simp only [allOk_append, allOk_cons, allOk_nil, and_true]
  refine ⟨⟨⟨⟨⟨⟨⟨⟨⟨⟨allOk_map (fun _ => memOk_execMessageArrival) _, memOk_execShootdownComplete⟩,
    allOk_map (fun _ => memOk_execVersionDiscardDone) _⟩, allOk_map (fun _ => memOk_execGangPlace) _⟩,
    allOk_map (fun _ => memOk_execGangGraceExpiry) _⟩, allOk_map (fun _ => memOk_execGangGo) _⟩,
    allOk_map (fun _ => memOk_execGangAbort) _⟩, allOk_flatMap (fun m => ?_) _⟩, memOk_execFwupdateInstall⟩,
    allOk_map (fun _ => memOk_execL2SliceRetire) _⟩, ?_⟩
  · simp only [List.map_cons, List.map_nil, allOk_cons, allOk_nil, and_true]
    exact ⟨memOk_execAttest, memOk_execSealImage, memOk_execCheckImage, memOk_execSetcap, memOk_execFuseadv, memOk_execFwupdate,
      memOk_execExtend, memOk_execTelemetry⟩
  · split
    · split
      · exact allOk_nil
      · simp only [allOk_cons, allOk_nil, and_true]
        exact memOk_execCheckpointDone
    · exact allOk_nil

theorem allOk_moveGroups (s : State) {g : List Try} (hg : g ∈ s.moveGroups) : AllOk g := by
  unfold State.moveGroups at hg
  rcases List.mem_append.mp hg with hc | he
  · obtain ⟨c, -, rfl⟩ := List.mem_map.mp hc
    simp only [allOk_append, allOk_cons, allOk_nil, and_true]
    exact ⟨allOk_fires c false, memOk_execClauseCommit⟩
  · obtain ⟨f, hf, rfl⟩ := List.mem_map.mp he
    have hevents : AllOk (s.ctxs.flatMap Ctx.events ++ [execAfterimageRecordWrite s.nextCtx]
        ++ (List.range Config.towers).flatMap s.towerEvents ++ s.engineEvents ++ s.packageEvents) := by
      simp only [allOk_append, allOk_cons, allOk_nil, and_true]
      exact ⟨⟨⟨⟨allOk_flatMap allOk_ctxEvents _, memOk_execAfterimageRecordWrite⟩, allOk_flatMap (allOk_towerEvents s) _⟩,
        allOk_engineEvents s⟩, allOk_packageEvents s⟩
    simp only [allOk_cons, allOk_nil, and_true]
    intro t ht
    exact hevents f hf ht

theorem allOk_ownMoves (s : State) : AllOk s.ownMoves := by
  unfold State.ownMoves
  dsimp only
  refine allOk_append.mpr ⟨fun f hf => ?_, allOk_flatMap (fun c => allOk_fires c true) _⟩
  obtain ⟨g, hg, hfg⟩ := List.mem_flatten.mp hf
  refine allOk_moveGroups s ?_ f hfg
  rcases List.mem_append.mp hg with h | h
  · exact List.mem_of_mem_drop h
  · exact List.mem_of_mem_take h

theorem memOk_effectOf {s u : State} {f : Try} (hf : TryOk f) (hok : s.memOk) (h : s.effectOf f = some u) :
    u.memOk := by
  have ho : OutOk (f s) := hf hok
  unfold State.effectOf at h
  grind [OutOk]

theorem memOk_pass {s : State} (hok : s.memOk) : s.pass.memOk :=
  memOk_of_mem ((holdClocks_mem ..).trans (markHeads_mem ..)) hok

theorem memOk_step {s : State} (hok : s.memOk) : OutOk (step s) := by
  fun_cases step s
  case case3 => exact memOk_move _ hok
  case case6 e _ =>
    obtain ⟨f, hf, hu⟩ := List.exists_of_findSome?_eq_some e
    exact memOk_effectOf (allOk_ownMoves _ f hf) (memOk_pass hok) hu
  case case7 => exact memOk_pass hok
  case case1 | case4 => trivial
  case case2 | case5 => exact hok

/-- Settles O59: each operation of the state keeps the memory's form, so each row of the opcode table does, and every move a
step makes is such a row. -/
theorem stepKeepsMemory : Obligations.StepKeepsMemory := by
  unfold Obligations.StepKeepsMemory
  intro s t hok h
  have ho : OutOk (step s) := memOk_step hok
  rwa [h] at ho

end Sys2Proof.StepMemory
end
